-- ==== Sys2Proof/Word.lean ====
section
/-! DEFINITION. The words of the Twitas TS4 and the sparse tables its state is made of.
A 32-bit register word, a 64-bit generic address, a 57-bit program counter (R35, R77, R183), and two kinds of
association list kept in one canonical form: `BMap`, numbers to bit vectors with 0 for an unlisted key, and `Tbl`,
numbers to records. -/

namespace Sys2Proof

/-- A 32-bit word: a register of a lane or of a group, an instruction word, a literal (R29, R35). -/
abbrev Word := BitVec 32

/-- A 64-bit value: a register pair, a generic address, a counter (R36, R77). -/
abbrev DWord := BitVec 64

/-- A byte of memory. -/
abbrev Byte := BitVec 8

/-- A set of the 32 lanes of a group: bit l stands for lane l, as in %activemask (R181). -/
abbrev Mask := BitVec 32

/-- A lane's program counter (R183). -/
abbrev Pc := BitVec 57

/-- Numbers to w-bit values. Canonical form: keys strictly rising, no entry of value 0; an unlisted key reads 0. -/
abbrev BMap (w : Nat) := List (Nat × BitVec w)

/-- Numbers to records. Canonical form: keys strictly rising. -/
abbrev Tbl (α : Type) := List (Nat × α)

end Sys2Proof
end

