-- ==== Sys2Proof/Config.lean ====
section
/-! DEFINITION. What one part fixes and the spec leaves open, as constants without a body: nothing can evaluate them, and a
statement that mentions one holds for every value of it. Each is named in an entry of notes/assumptions. -/

namespace Sys2Proof

/-- A fresh open word: State.free is the counter it is applied to, stepped at each use. [DESIGN CHOICE, log 18; DESIGN CHOICE, log 19] -/
opaque Config.freeWord : Nat → DWord

/-- The order in which the lanes of one .U atomic or reduction reach their locations (R251): lanes go by ascending key,
and lanes of equal key by number. The first argument is State.free. [DESIGN CHOICE, log 23] -/
opaque Config.laneKey : Nat → Nat → Nat

/-- The part's own encoding of a team's logical clock in its team header (R347, R269). [DESIGN CHOICE, log 36] -/
opaque Config.ttCode : DWord → DWord

/-- Bytes of the part's SPDM answers (R405): certificates, digests and measurement values are the part's own. [DESIGN CHOICE, log 100] -/
opaque Config.spdmBytes : Nat → Nat → List Byte

/-- The value of a measurement block (R405), by its number and the words of what it measures: 1 the ROM and 4 the harvest map, which are fixed
for the part, 2 the running firmware, 3 the fused configuration. [DESIGN CHOICE, log 100] -/
opaque Config.measured : Nat → List Nat → List Byte

/-- Slot B runs of two acceptable slots of equal version (R400). [DESIGN CHOICE, log 102] -/
opaque Config.tieSlot : Bool

/-- A slot keeps its image through a reset that falls into its writing (R403): nothing says how far the write had come. The
argument is State.free. [DESIGN CHOICE, log 102] -/
opaque Config.slotKept : Nat → Bool

/-- The fixed hash by which a column's copies go to one of its massif's 32 engines (R107). [DEDUCED, log 69] -/
opaque Config.engineHash : Nat → Nat

/-- The fixed hash by which a physical line chooses among the ports of a route (R396). [DEDUCED, log 98] -/
opaque Config.portHash : Nat → Nat

/-- The value of a byte of a flank or crest page whose lost page entry HB_LOSTCLR cleared, until it is written (R72).
[DESIGN CHOICE, log 67] -/
opaque Config.clearedByte : Nat → Nat → Byte

/-- What the performance counter of waits beyond the unloaded figures gains while time passes (R393): by the clk and the context.
[DESIGN CHOICE, log 13] -/
opaque Config.timedCounter : Nat → Nat → DWord

/-- How REMAP_DONE's second argument packs the live map and the capacity in GiB (R389). [DESIGN CHOICE, log 66] -/
opaque Config.remapDoneArg : BitVec 16 → Nat → DWord

/-- How much longer a column's L1 may answer loads of a line from a leased copy, from the real time at which the host or a peer began to
write the line (R270, R279): by column, line and that time, taken modulo 2 µs. [DESIGN CHOICE, log 105] -/
opaque Config.leaseLeft : Nat → Nat → Nat → Nat

/-- The fixed hash of a line's physical address bits [39:7] that picks its home column among those of a cluster's rectangle (R140, R252).
[DESIGN CHOICE, log 105] -/
opaque Config.clusterHome : Nat → Nat

/-- The length of a lease in logical time (R268, R269). [DESIGN CHOICE, log 36] -/
opaque Config.leaseLength : DWord

/-- The forecast current of a layer for a window that BALANCE_WINDOW has told nothing of (R378): by State.free, the massif's rail and the
layer. [DEDUCED, log 50] -/
opaque Config.layerLoad : Nat → Nat → Nat → Nat

/-- What a team adds to the forecast current of a rail of a core (R378). The first argument is State.free, stepped at each placement.
[DEDUCED, log 50] -/
opaque Config.addedLoad : Nat → Nat → Nat → Nat

/-- The reason code of REMAP_REFUSED by the condition that failed (R74, R389): 0 the map, 1 too few banks, 2 a change in
progress. [DESIGN CHOICE, log 66] -/
opaque Config.remapReason : Nat → BitVec 8

/-- The hash by which a translation falls into a set of a column's or a base die's TLB (R88), by context and base address.
[DESIGN CHOICE, log 58] -/
opaque Config.tlbSet : Nat → Nat → Nat

/-- The ports of a pool node's route entry (R396): the spec gives pool nodes their own entries and no place for them. [DEDUCED, log 98] -/
opaque Config.poolRoute : Nat → BitVec 96

/-- The fixed hash of a line's physical address bits [39:7] that picks its slice of a column's L1 (level 1) or of a base die's L2 (level 2)
(R105, R137). [DESIGN CHOICE, log 12] -/
opaque Config.lineSlice : Nat → Nat → Nat

/-- The hash of a line's physical address that picks its set within its slice, by level: the spec does not say how.
[DESIGN CHOICE, log 12] -/
opaque Config.lineSet : Nat → Nat → Nat

/-- An access that reaches a controller finds its row of a flank page closed and opens it (R61): by clk and row. [DESIGN CHOICE, log 12] -/
opaque Config.opensRow : Nat → Nat → Bool

/-- A page move of a remap finds an atom that error correction cannot correct (R75): by State.free and atom. [DEDUCED, log 64] -/
opaque Config.moveLoses : Nat → Nat → Bool

/-- What the part itself reads in a lost atom, or where no location is: by clk and address. [DESIGN CHOICE, log 111] -/
opaque Config.lostByte : Nat → Nat → Byte

/-- The index that the part makes of one read from a spur record or a page list that software has changed to a value out of range
(R308). [DESIGN CHOICE, log 80] -/
opaque Config.brokenIndex : Nat → Nat

/-- A word of code that run-ahead fetches from a place that is not local, or whose page is held: by clk and address. [DEDUCED, log 88] -/
opaque Config.farWord : Nat → Nat → Word

end Sys2Proof
end

