-- ==== Sys2Proof/Syntax.lean ====
section
/-! DEFINITION. The syntax of the TS4's steps: the operands an instruction word names (R29 to R38), the sub-fields the
instruction entries define, the packets and records that events carry, and `Instr`, one constructor per row of
spec/opcode_table.json. -/

namespace Sys2Proof

/-- A predicate p0 to p7 or q0 to q7; number 0 reads true and ignores writes (R38). -/
abbrev Pred := Fin 8

/-- A vector register v0 to v95 (R35). -/
abbrev VReg := Fin 96

/-- A uniform register k0 to k31; k0 reads zero and ignores writes (R35). -/
abbrev KReg := Fin 32

/-- A 7-bit register field of a lane-set instruction: a vector register or a broadcast uniform register (R35, R37). -/
inductive Src where
  | v (r : VReg)
  | k (r : KReg)
  deriving DecidableEq, Repr

/-- The memory operand of a lane-set L instruction: base pair, index register, signed byte offset (R43). -/
structure LaneMem where
  base  : Src
  index : Src
  off   : BitVec 24
  deriving DecidableEq, Repr

/-- The memory operand of a uniform L instruction: both registers are k registers (R43). -/
structure UniMem where
  base  : KReg
  index : KReg
  off   : BitVec 24
  deriving DecidableEq, Repr

/-- The conditions of the compares; NUM and NAN belong to the floating-point forms alone (R206). -/
inductive Cond where
  | eq | ne | lt | le | gt | ge | num | nan
  deriving DecidableEq, Repr

/-- Rounding modes of conversions and FRND (R167). -/
inductive RMode where
  | rne | rz | rd | ru
  deriving DecidableEq, Repr

/-- Integer types of the scalar conversions (R210). -/
inductive IntTy where
  | s32 | u32 | s64 | u64
  deriving DecidableEq, Repr

/-- Floating-point types of the scalar conversions (R210). -/
inductive FltTy where
  | f32 | f64 | f16 | bf16
  deriving DecidableEq, Repr

/-- Operations of LSCAN and LRED (R217). -/
inductive ScanOp where
  | iadd | fadd | iminS | imaxS | iminN | imaxN | and | or
  deriving DecidableEq, Repr

/-- Modes of VOTE (R216). -/
inductive VoteMode where
  | all | any | uni
  deriving DecidableEq, Repr

/-- The five scopes (R38, R266). -/
inductive Scope where
  | group | team | cluster | device | system
  deriving DecidableEq, Repr

/-- The changes an atomic or a reduction makes to its location (R250). -/
inductive AtomOp where
  | add | minS | maxS | minN | maxN | and | or | xor | xchg | cas | fadd | fmin | fmax | hfadd2 | bfadd2
  deriving DecidableEq, Repr

/-- Access sizes of the loads and stores (R147). -/
inductive MemSize where
  | b8 | b16 | b32 | b64 | b128
  deriving DecidableEq, Repr

/-- Cache hints of the loads and stores (R147). -/
inductive Hint where
  | page | strm | na
  deriving DecidableEq, Repr

/-- The level a prefetch fills (R147). -/
inductive PrefLevel where
  | l1 | l2
  deriving DecidableEq, Repr

/-- The granule of an XINVAL (R102). -/
inductive Granule where
  | k64 | m2 | g1
  deriving DecidableEq, Repr

/-- The event a CPWAIT waits for (R135). -/
inductive CopyEvent where
  | all | rel | vis
  deriving DecidableEq, Repr

/-- The states BUFWAIT may name (R124). -/
inductive BufState where
  | free | full | draining
  deriving DecidableEq, Repr

/-- The tables CTAB.SWAP makes live (R241). -/
inductive TableSel where
  | q4p | q8p | both
  deriving DecidableEq, Repr

/-- The special registers of SREAD (R181). -/
inductive SReg where
  | laneid | groupid | ltmask | activemask | livemask | teamid | teamx | teamy | teamz | gridx | gridy | gridz
  | ngroups | clrank | clshape | column | params | spur | priority | mode | preempt | clock | retired | ctxid
  | capunits | capsizes | qmask | trapcause | trapinfo | trappc | trapaddr | trapword | trapmask
  deriving DecidableEq, Repr

/-- The system registers of SYSRD and SYSWR (R336). -/
inductive SysReg where
  | hk30 | hk31 | hlit | hpaLo | hpaHi | saveslot | pstate | savebaseLo | savebaseHi
  deriving DecidableEq, Repr

/-- Status of a reply packet: OK, DATA_LOST, ABSENT, or REFUSED for HROW requests (R57). -/
inductive ReplyStatus where
  | ok | dataLost | absent | refused
  deriving DecidableEq, Repr

/-- What a request asks of a controller (R57). A write carries its bytes and a byte mask, least significant first. -/
inductive MemOp where
  | rd32 | rd64 | rd128
  | wr (mask : BitVec 128) (data : List Byte)
  | atomic (op : AtomOp) (s64 : Bool) (x c : DWord)
  | hrow (up : Bool) (ctx : Nat)
  deriving DecidableEq, Repr

/-- A tagged request packet (R57): source, tag, operation, local physical address. -/
structure MemReq where
  src : BitVec 14
  tag : BitVec 10
  op  : MemOp
  pa  : Nat
  deriving DecidableEq, Repr

/-- What error correction finds while a request is served (R70, R71): nothing, a corrected error, or an atom that
cannot be corrected. -/
inductive Ecc where
  | clean | corrected | lost
  deriving DecidableEq, Repr

/-- SPDM requests the part answers (R405). -/
inductive SpdmCode where
  | getVersion | getCapabilities | negotiateAlgorithms | getDigests | getCertificate | challenge | getMeasurements
  | keyExchange
  deriving DecidableEq, Repr

/-- What a firmware image carries that the ROM looks at (R400): its version, its rollback number, and the key under
which its signature verifies (0 the manufacturing key, 1 the production key, 2 the return key, none when it
verifies under no key). -/
structure Image where
  version  : BitVec 16
  rollback : BitVec 8
  key      : Option (Fin 3)
  deriving DecidableEq, Repr

/-- A life-cycle token (R403): its transition byte, whether bytes 1 to 15 are zero, its nonce, and the key under which
its signature verifies, as for an image. -/
structure Token where
  transition : BitVec 8
  zeros      : Bool
  nonce      : BitVec 128
  key        : Option (Fin 3)
  deriving DecidableEq, Repr


/-- The steps of the part: one constructor per row of spec/opcode_table.json, in the table's order of kinds. The first
part are instructions, with their guard `g` first and then the operands of their entry; the second part are the
events of the part and of the world outside it, each whole and indivisible (95_what_each_step_holds). -/
inductive Instr where
  /-- Per-lane 32-bit integer add (R202). -/
  | iadd (g : Pred) (d : VReg) (a b : Src)
  /-- Per-lane 32-bit integer subtract (R202). -/
  | isub (g : Pred) (d : VReg) (a b : Src)
  /-- Per-lane low 32 bits of a product (R202). -/
  | imul (g : Pred) (d : VReg) (a b : Src)
  /-- Per-lane high 32 bits of a signed product (R202). -/
  | imulhS (g : Pred) (d : VReg) (a b : Src)
  /-- Per-lane high 32 bits of an unsigned product (R202). -/
  | imulhN (g : Pred) (d : VReg) (a b : Src)
  /-- Per-lane multiply-add with the destination also read (R202). -/
  | imad (g : Pred) (d : VReg) (a b : Src)
  /-- Per-lane add of a 32-bit literal (R202). -/
  | iaddi (g : Pred) (d : VReg) (a : Src) (lit : Word)
  /-- Per-lane signed minimum (R202). -/
  | iminS (g : Pred) (d : VReg) (a b : Src)
  /-- Per-lane unsigned minimum (R202). -/
  | iminN (g : Pred) (d : VReg) (a b : Src)
  /-- Per-lane signed maximum (R202). -/
  | imaxS (g : Pred) (d : VReg) (a b : Src)
  /-- Per-lane unsigned maximum (R202). -/
  | imaxN (g : Pred) (d : VReg) (a b : Src)
  /-- Per-lane 64-bit add on register pairs (R202). -/
  | iadd64 (g : Pred) (d : VReg) (a b : Src)
  /-- Per-lane 64-bit subtract on register pairs (R202). -/
  | isub64 (g : Pred) (d : VReg) (a b : Src)
  /-- Per-lane signed widening multiply-add into a 64-bit pair (R202). -/
  | imadw (g : Pred) (d : VReg) (a b : Src)
  /-- Per-lane address computation written to a pair without steering or translation (R205). -/
  | leai (g : Pred) (d : VReg) (m : LaneMem) (x : BitVec 3)
  /-- Per-lane bitwise AND (R202). -/
  | and (g : Pred) (d : VReg) (a b : Src)
  /-- Per-lane bitwise OR (R202). -/
  | or (g : Pred) (d : VReg) (a b : Src)
  /-- Per-lane bitwise XOR (R202). -/
  | xor (g : Pred) (d : VReg) (a b : Src)
  /-- Per-lane bitwise complement (R202). -/
  | not (g : Pred) (d : VReg) (a : Src)
  /-- Per-lane left shift, 0 for amounts of 32 or more (R203). -/
  | shl (g : Pred) (d : VReg) (a b : Src)
  /-- Per-lane logical right shift (R203). -/
  | shrN (g : Pred) (d : VReg) (a b : Src)
  /-- Per-lane arithmetic right shift (R203). -/
  | shrS (g : Pred) (d : VReg) (a b : Src)
  /-- Per-lane rotate left by amount modulo 32 (R203). -/
  | rotl (g : Pred) (d : VReg) (a b : Src)
  /-- Per-lane signed bit-field extract (R204). -/
  | bfxS (g : Pred) (d : VReg) (a b : Src)
  /-- Per-lane unsigned bit-field extract (R204). -/
  | bfxN (g : Pred) (d : VReg) (a b : Src)
  /-- Per-lane bit-field insert into the destination (R204). -/
  | bfi (g : Pred) (d : VReg) (a b : Src)
  /-- Per-lane population count (R202). -/
  | popc (g : Pred) (d : VReg) (a : Src)
  /-- Per-lane count of leading zero bits (R202). -/
  | clz (g : Pred) (d : VReg) (a : Src)
  /-- Per-lane bit reversal (R202). -/
  | brev (g : Pred) (d : VReg) (a : Src)
  /-- Per-lane register move (R202). -/
  | mov (g : Pred) (d : VReg) (a : Src)
  /-- Per-lane move of a 32-bit literal (R202). -/
  | movi (g : Pred) (d : VReg) (lit : Word)
  /-- Per-lane signed compare setting a lane predicate (R206). -/
  | icmpS (g : Pred) (c : Cond) (p : Pred) (a b : Src)
  /-- Per-lane unsigned compare setting a lane predicate (R206). -/
  | icmpN (g : Pred) (c : Cond) (p : Pred) (a b : Src)
  /-- Per-lane FP32 compare setting a lane predicate (R206). -/
  | fcmpF32 (g : Pred) (c : Cond) (p : Pred) (a b : Src)
  /-- Per-lane FP64 compare on pairs setting a lane predicate (R206). -/
  | fcmpF64 (g : Pred) (c : Cond) (p : Pred) (a b : Src)
  /-- Per-lane signed compare with a literal (R206). -/
  | icmpiS (g : Pred) (c : Cond) (p : Pred) (a : Src) (lit : Word)
  /-- Per-lane unsigned compare with a literal (R206). -/
  | icmpiN (g : Pred) (c : Cond) (p : Pred) (a : Src) (lit : Word)
  /-- Per-lane three-input lookup-table combination of lane predicates (R189). -/
  | plop (g : Pred) (lut : BitVec 8) (d a b c : Pred)
  /-- Copies lane predicates p0-p7 into a vector register (R190). -/
  | pmovGet (g : Pred) (d : VReg)
  /-- Sets lane predicates p1-p7 from a register (R190). -/
  | pmovSet (g : Pred) (a : Src)
  /-- Per-lane FP32 add, RNE (R207). -/
  | faddF32 (g : Pred) (d : VReg) (a b : Src)
  /-- Per-lane FP32 subtract, RNE (R207). -/
  | fsubF32 (g : Pred) (d : VReg) (a b : Src)
  /-- Per-lane FP32 multiply, RNE (R207). -/
  | fmulF32 (g : Pred) (d : VReg) (a b : Src)
  /-- Per-lane FP32 fused multiply-add with one rounding (R207). -/
  | ffmaF32 (g : Pred) (d : VReg) (a b : Src)
  /-- Per-lane FP32 minimum (R208). -/
  | fminF32 (g : Pred) (d : VReg) (a b : Src)
  /-- Per-lane FP32 maximum (R208). -/
  | fmaxF32 (g : Pred) (d : VReg) (a b : Src)
  /-- Per-lane FP32 add of a literal (R207). -/
  | faddiF32 (g : Pred) (d : VReg) (a : Src) (lit : Word)
  /-- Per-lane FP32 multiply by a literal (R207). -/
  | fmuliF32 (g : Pred) (d : VReg) (a : Src) (lit : Word)
  /-- Per-lane packed FP16 add (R207). -/
  | faddF16x2 (g : Pred) (d : VReg) (a b : Src)
  /-- Per-lane packed FP16 multiply (R207). -/
  | fmulF16x2 (g : Pred) (d : VReg) (a b : Src)
  /-- Per-lane packed FP16 fused multiply-add (R207). -/
  | ffmaF16x2 (g : Pred) (d : VReg) (a b : Src)
  /-- Per-lane packed FP16 minimum (R208). -/
  | fminF16x2 (g : Pred) (d : VReg) (a b : Src)
  /-- Per-lane packed BF16 add (R207). -/
  | faddBf16x2 (g : Pred) (d : VReg) (a b : Src)
  /-- Per-lane packed BF16 multiply (R207). -/
  | fmulBf16x2 (g : Pred) (d : VReg) (a b : Src)
  /-- Per-lane packed BF16 fused multiply-add (R207). -/
  | ffmaBf16x2 (g : Pred) (d : VReg) (a b : Src)
  /-- Per-lane packed BF16 minimum (R208). -/
  | fminBf16x2 (g : Pred) (d : VReg) (a b : Src)
  /-- Per-lane FP64 add on pairs (R207). -/
  | faddF64 (g : Pred) (d : VReg) (a b : Src)
  /-- Per-lane FP64 subtract on pairs (R207). -/
  | fsubF64 (g : Pred) (d : VReg) (a b : Src)
  /-- Per-lane FP64 multiply on pairs (R207). -/
  | fmulF64 (g : Pred) (d : VReg) (a b : Src)
  /-- Per-lane FP64 fused multiply-add on pairs (R207). -/
  | ffmaF64 (g : Pred) (d : VReg) (a b : Src)
  /-- Per-lane FP64 minimum (R208). -/
  | fminF64 (g : Pred) (d : VReg) (a b : Src)
  /-- Per-lane FP64 maximum (R208). -/
  | fmaxF64 (g : Pred) (d : VReg) (a b : Src)
  /-- Per-lane packed FP16 maximum (R208). -/
  | fmaxF16x2 (g : Pred) (d : VReg) (a b : Src)
  /-- Per-lane packed BF16 maximum (R208). -/
  | fmaxBf16x2 (g : Pred) (d : VReg) (a b : Src)
  /-- Per-lane correctly rounded FP32 reciprocal (R209). -/
  | frcp (g : Pred) (d : VReg) (a : Src)
  /-- Per-lane correctly rounded reciprocal square root (R209). -/
  | frsq (g : Pred) (d : VReg) (a : Src)
  /-- Per-lane correctly rounded square root (R209). -/
  | fsqrt (g : Pred) (d : VReg) (a : Src)
  /-- Per-lane correctly rounded 2^x (R209). -/
  | fexp2 (g : Pred) (d : VReg) (a : Src)
  /-- Per-lane correctly rounded log2 (R209). -/
  | flog2 (g : Pred) (d : VReg) (a : Src)
  /-- Per-lane correctly rounded sin(pi x) (R209). -/
  | fsin (g : Pred) (d : VReg) (a : Src)
  /-- Per-lane correctly rounded cos(pi x) (R209). -/
  | fcos (g : Pred) (d : VReg) (a : Src)
  /-- Per-lane correctly rounded tanh (R209). -/
  | ftanh (g : Pred) (d : VReg) (a : Src)
  /-- Per-lane float-to-integer conversion with clamping (R210). -/
  | cvtFi (g : Pred) (d : VReg) (a : Src) (rm : RMode) (i : FltTy) (o : IntTy)
  /-- Per-lane integer-to-float conversion (R210). -/
  | cvtIf (g : Pred) (d : VReg) (a : Src) (rm : RMode) (sat : Bool) (i : IntTy) (o : FltTy)
  /-- Per-lane float-to-float conversion (R210). -/
  | cvtFf (g : Pred) (d : VReg) (a : Src) (rm : RMode) (sat : Bool) (i o : FltTy)
  /-- Per-lane narrowing of an FP32 value into one slot of a packed register (R211). -/
  | cvtNr (g : Pred) (d : VReg) (a : Src) (b : KReg)
  /-- Per-lane widening of one packed slot to its exact FP32 value (R211). -/
  | cvtWd (g : Pred) (d : VReg) (a : Src) (b : KReg)
  /-- Per-lane rounding to an integral value in FP32 or FP64 (R212). -/
  | frnd (g : Pred) (d : VReg) (a : Src) (rm : RMode) (f64 : Bool)
  /-- Per-lane FP32 scaling by a power of two (R212). -/
  | fldexp (g : Pred) (d : VReg) (a b : Src)
  /-- Copies a value from an indexed lane (R215). -/
  | shfl (g : Pred) (d : VReg) (a b : Src)
  /-- Copies a value from the lane at an XOR offset (R215). -/
  | shflx (g : Pred) (d : VReg) (a b : Src)
  /-- Copies a value from a lower lane (R215). -/
  | shflup (g : Pred) (d : VReg) (a b : Src)
  /-- Copies a value from a higher lane (R215). -/
  | shfldn (g : Pred) (d : VReg) (a b : Src)
  /-- Sets a lane predicate to the ALL, ANY or UNI vote of the taking-part lanes (R216). -/
  | vote (g d a : Pred) (m : VoteMode)
  /-- Writes a k register with the mask of lanes whose predicate is true (R216). -/
  | ballot (g : Pred) (d : KReg) (a : Pred)
  /-- Ordered inclusive or exclusive scan over the taking-part lanes (R217). -/
  | lscan (g : Pred) (d : VReg) (a : Src) (o : ScanOp) (excl : Bool)
  /-- Ordered reduction over the taking-part lanes into a k register (R217). -/
  | lred (g : Pred) (d : KReg) (a : Src) (o : ScanOp)
  /-- Lane-set copy of a special register into a vector register (R183). -/
  | sreadV (g : Pred) (d : VReg) (a : SReg)
  /-- Writes each lane the mask of lanes holding an equal value (R216). -/
  | matchLanes (g : Pred) (d : VReg) (a : Src)
  /-- Per-lane saturating absolute value (R202). -/
  | iabs (g : Pred) (d : VReg) (a : Src)
  /-- Reads eight elements of each lane's accumulator row into registers (R243). -/
  | ard (g : Pred) (d : VReg) (t : BitVec 4) (q : BitVec 2)
  /-- Writes eight elements of each lane's accumulator row from registers (R243). -/
  | awr (g : Pred) (t : BitVec 4) (a : VReg) (q : BitVec 2)
  /-- Per-lane PC-relative branch with optional wait and uniformity flags (R192). -/
  | bra (g : Pred) (o : BitVec 19) (w u : Bool)
  /-- Per-lane branch with a 32-bit literal offset (R192). -/
  | bral (g : Pred) (w u : Bool) (lit : Word)
  /-- Per-lane branch to an absolute target in a register pair (R192). -/
  | brx (g : Pred) (a : Src) (w u : Bool)
  /-- Per-lane PC-relative call writing a link pair (R192). -/
  | call (g : Pred) (d : VReg) (o : BitVec 13) (u : Bool)
  /-- Per-lane call to an absolute target writing a link pair (R192). -/
  | callx (g : Pred) (d : VReg) (a : Src) (u : Bool)
  /-- Per-lane return to an absolute target (R192). -/
  | ret (g : Pred) (a : Src) (u : Bool)
  /-- Clears LIVE in executing lanes and ends the group when none remains (R193). -/
  | exit (g : Pred)
  /-- Raises a SOFTWARE trap when any executing lane's guard is true (R332). -/
  | trap (g : Pred) (c : BitVec 14)
  /-- Per-lane load from any aperture (R150). -/
  | ld (g : Pred) (d : VReg) (m : LaneMem) (sz : MemSize) (sx : Bool) (h : Hint)
  /-- Per-lane store to any aperture (R152). -/
  | st (g : Pred) (d : Src) (m : LaneMem) (sz : MemSize) (h : Hint)
  /-- Per-lane prefetch of a line with no architectural effect (R153). -/
  | pref (g : Pred) (m : LaneMem) (lv : PrefLevel)
  /-- Ordered per-lane atomic returning the old value (R251). -/
  | atomO (g : Pred) (d : VReg) (m : LaneMem) (sc : Scope) (o : AtomOp) (s64 : Bool)
  /-- Unordered per-lane atomic returning the old value (R251). -/
  | atomU (g : Pred) (d : VReg) (m : LaneMem) (sc : Scope) (o : AtomOp) (s64 : Bool)
  /-- Ordered per-lane reduction, queued for floating sums (R251). -/
  | redO (g : Pred) (d : Src) (m : LaneMem) (sc : Scope) (o : AtomOp) (s64 : Bool)
  /-- Unordered per-lane reduction (R251). -/
  | redU (g : Pred) (d : Src) (m : LaneMem) (sc : Scope) (o : AtomOp) (s64 : Bool)
  /-- Uniform 32-bit add (R218). -/
  | uiadd (g : Pred) (d a b : KReg)
  /-- Uniform 32-bit subtract (R218). -/
  | uisub (g : Pred) (d a b : KReg)
  /-- Uniform low 32-bit multiply (R218). -/
  | uimul (g : Pred) (d a b : KReg)
  /-- Uniform multiply-add (R218). -/
  | uimad (g : Pred) (d a b : KReg)
  /-- Uniform add of a literal (R218). -/
  | uiaddi (g : Pred) (d a : KReg) (lit : Word)
  /-- Uniform 64-bit add on pairs (R218). -/
  | uiadd64 (g : Pred) (d a b : KReg)
  /-- Uniform register move (R218). -/
  | umov (g : Pred) (d a : KReg)
  /-- Uniform move of a literal (R218). -/
  | umovi (g : Pred) (d : KReg) (lit : Word)
  /-- Uniform bitwise AND (R218). -/
  | uand (g : Pred) (d a b : KReg)
  /-- Uniform bitwise OR (R218). -/
  | uor (g : Pred) (d a b : KReg)
  /-- Uniform bitwise XOR (R218). -/
  | uxor (g : Pred) (d a b : KReg)
  /-- Uniform left shift (R218). -/
  | ushl (g : Pred) (d a b : KReg)
  /-- Uniform logical right shift (R218). -/
  | ushrN (g : Pred) (d a b : KReg)
  /-- Uniform arithmetic right shift (R218). -/
  | ushrS (g : Pred) (d a b : KReg)
  /-- Uniform signed compare setting a uniform predicate (R218). -/
  | uicmpS (g : Pred) (c : Cond) (p : Pred) (a b : KReg)
  /-- Uniform unsigned compare setting a uniform predicate (R218). -/
  | uicmpN (g : Pred) (c : Cond) (p : Pred) (a b : KReg)
  /-- Lookup-table combination of uniform predicates (R189). -/
  | uplop (g : Pred) (lut : BitVec 8) (d a b c : Pred)
  /-- Uniform FP32 add (R218). -/
  | ufadd (g : Pred) (d a b : KReg)
  /-- Uniform FP32 multiply (R218). -/
  | ufmul (g : Pred) (d a b : KReg)
  /-- Uniform FP32 fused multiply-add (R218). -/
  | uffma (g : Pred) (d a b : KReg)
  /-- Uniform FP32 compare setting a uniform predicate (R218). -/
  | ufcmp (g : Pred) (c : Cond) (p : Pred) (a b : KReg)
  /-- Uniform copy of a special register into a k register (R183). -/
  | sreadK (g : Pred) (d : KReg) (a : SReg)
  /-- Uniform unsigned bit-field extract (R218). -/
  | ubfx (g : Pred) (d a b : KReg)
  /-- Does nothing for one clk but advance the PCs (R195). -/
  | unop (g : Pred)
  /-- Uniform PC-relative branch of every executing lane (R195). -/
  | ubra (g : Pred) (o : BitVec 19) (u : Bool)
  /-- Uniform branch with a 32-bit literal offset (R195). -/
  | ubral (g : Pred) (u : Bool) (lit : Word)
  /-- Stops the group for a pending pre-emption request, otherwise acts as UNOP (R196). -/
  | yield (g : Pred)
  /-- Returns from the handler and re-executes the trapping instruction (R333). -/
  | tretRetry (g : Pred)
  /-- Returns from the handler past the trapping instruction (R333). -/
  | tretSkip (g : Pred)
  /-- Raises a SOFTWARE trap when its uniform guard is true (R332). -/
  | utrap (g : Pred) (c : BitVec 14)
  /-- Ends the group from its handler without a record (R334). -/
  | kill (g : Pred)
  /-- Posts a fatal KILLED record and ends the team (R334). -/
  | killFail (g : Pred)
  /-- Marks the group saved after a PREEMPT entry (R334). -/
  | killSave (g : Pred)
  /-- Waits until earlier accesses, and engine jobs with ENG, are performed at a scope (R272). -/
  | fence (g : Pred) (eng : Bool) (s : Scope)
  /-- Initialises a barrier object (R131). -/
  | binit (g : Pred) (a b : KReg)
  /-- Arrives once at a barrier object (R131). -/
  | barr (g : Pred) (d a : KReg)
  /-- Arrives n times at a barrier object (R131). -/
  | barrn (g : Pred) (d a b : KReg)
  /-- Adds expected bytes to a barrier object (R131). -/
  | bxpct (g : Pred) (a b : KReg)
  /-- Waits, bounded, for a barrier object's phase to change (R131). -/
  | bwait (g d : Pred) (a b : KReg)
  /-- Team-wide sync with release and acquire (R301). -/
  | tsync (g : Pred)
  /-- Cluster-wide sync with release and acquire (R301). -/
  | csync (g : Pred)
  /-- Issues a copy from the global window to a scratchpad (R119). -/
  | cpgs (g : Pred) (d a b : KReg)
  /-- Issues a copy from a scratchpad to the global window (R119). -/
  | cpsg (g : Pred) (d a b : KReg)
  /-- Issues a copy between any two global or scratchpad ranges (R119). -/
  | cpgg (g : Pred) (d a b : KReg)
  /-- Issues a tensor-region copy of a box through a shape handle (R120). -/
  | cptr (g : Pred) (d a b : KReg)
  /-- Issues a gather copy of indexed rows through a shape handle (R120). -/
  | cpga (g : Pred) (d a b : KReg)
  /-- Issues a multicast copy into several cluster scratchpads (R133). -/
  | cpmc (g : Pred) (d a b : KReg)
  /-- Resends a completed multicast to its refusers (R134). -/
  | cpmcr (g : Pred) (d a : KReg)
  /-- Waits for a copy's release or visibility event and writes its status (R135). -/
  | cpwait (g : Pred) (d a : KReg) (m : CopyEvent)
  /-- Waits for a buffer handle to be FULL and takes it to DRAINING (R124). -/
  | bufget (g : Pred) (d a : KReg)
  /-- Returns a FULL or DRAINING buffer handle to FREE (R124). -/
  | bufput (g : Pred) (a : KReg)
  /-- Waits until a buffer handle is in a named state (R124). -/
  | bufwait (g : Pred) (a : KReg) (s : BufState)
  /-- Reads a buffer-table entry without waiting (R124). -/
  | bufq (g : Pred) (d a : KReg)
  /-- Allocates a shape-table slot from a 64-byte record and returns its handle (R126). -/
  | shnew (g : Pred) (d a : KReg)
  /-- Frees a shape handle's slot and advances its generation (R126). -/
  | shfree (g : Pred) (a : KReg)
  /-- Explicitly promotes consecutive 64 KiB pages into crest cache rows (R66). -/
  | hrowUp (g : Pred) (d a : KReg) (n : BitVec 6)
  /-- Demotes consecutive 64 KiB pages from the crest row cache (R66). -/
  | hrowDn (g : Pred) (d a : KReg) (n : BitVec 6)
  /-- Reports the row class and state of the page holding an address (R67). -/
  | hrowQ (g : Pred) (d a : KReg)
  /-- Matrix multiply-accumulate with B from a bedrock residency (R228). -/
  | mmab (g : Pred) (t : BitVec 4) (c r : Bool) (a : VReg) (b : KReg)
  /-- Matrix multiply-accumulate with B from an operand-buffer reservation (R228). -/
  | mmao (g : Pred) (t : BitVec 4) (c r : Bool) (a : VReg) (b : KReg)
  /-- Matrix multiply-accumulate with B fetched by shape handle into a reservation (R228). -/
  | mmag (g : Pred) (t : BitVec 4) (c r : Bool) (a : VReg) (b : KReg)
  /-- FP64 matrix multiply-accumulate from bedrock or an operand-buffer reservation (R228). -/
  | dmma (g : Pred) (t : BitVec 4) (c r ob : Bool) (a : VReg) (b : KReg)
  /-- Zeroes a run of accumulator slots (R243). -/
  | aclr (g : Pred) (t n : BitVec 4)
  /-- Loads one 4 KiB accumulator slot from memory (R243). -/
  | ald (g : Pred) (t : BitVec 4) (a b : KReg)
  /-- Stores one 4 KiB accumulator slot to memory (R243). -/
  | ast (g : Pred) (t : BitVec 4) (a b : KReg)
  /-- Creates an operand-buffer reservation from a 32-byte record (R233). -/
  | obres (g : Pred) (d a : KReg)
  /-- Frees a reservation id once its users have retired (R233). -/
  | obfree (g : Pred) (a : KReg)
  /-- Starts a copy into an operand-buffer reservation (R233). -/
  | obld (g : Pred) (d a : KReg)
  /-- Allocates a bedrock residency from a descriptor and returns its handle (R239). -/
  | rsalloc (g : Pred) (d a : KReg)
  /-- Starts loading a residency instance on the issuing core (R236). -/
  | rsfill (g : Pred) (a : KReg)
  /-- Sets a residency's PINNED flag (R239). -/
  | rspin (g : Pred) (a : KReg)
  /-- Clears a residency's PINNED flag (R239). -/
  | rsunpin (g : Pred) (a : KReg)
  /-- Revokes a residency once no multiply reads it (R236). -/
  | rsrev (g : Pred) (a : KReg)
  /-- Reports a residency's status word (R239). -/
  | rsq (g : Pred) (d a : KReg)
  /-- Loads a Q4P or Q8P shadow code-table bank from memory (R241). -/
  | ctabWr (g : Pred) (a : KReg) (q8 : Bool)
  /-- Makes shadow code-table banks live and advances their generation (R241). -/
  | ctabSwap (g : Pred) (s : TableSel)
  /-- Reads a code-table entry or generation (R241). -/
  | ctabRd (g : Pred) (d a : KReg) (gen shadow q8 : Bool)
  /-- Reads a launch record into the team's pending-launch queue, parking while full (R296). -/
  | launch (g : Pred) (a : KReg)
  /-- Launches if the pending queue has room and reports success (R296). -/
  | launchNb (g d : Pred) (a : KReg)
  /-- Parks until a completion counter reaches a target (R299). -/
  | lwait (g d : Pred) (a b : KReg)
  /-- Reads a completion counter (R299). -/
  | lpoll (g : Pred) (d a : KReg)
  /-- Creates a child spur sharing its parent's pages copy-on-write (R317). -/
  | spurFork (g : Pred) (d a : KReg)
  /-- Waits, bounded, until a spur subtree is finished (R318). -/
  | spurJoin (g d : Pred) (a b : KReg)
  /-- Marks a spur subtree CANCELLING and starts its reclaim (R319). -/
  | spurCancel (g : Pred) (d a : KReg)
  /-- Reports a spur's status word (R322). -/
  | spurQ (g : Pred) (d a : KReg)
  /-- Privileged read of a handler system register (R336). -/
  | sysrd (g : Pred) (d : KReg) (a : SysReg)
  /-- Privileged write of a handler system register (R336). -/
  | syswr (g : Pred) (a : SysReg) (b : KReg)
  /-- Translates an address without faulting and reports result and status (R100). -/
  | xprobe (g : Pred) (d a b : KReg)
  /-- Drops the context's translations of a range from every translation cache (R103). -/
  | xinval (g : Pred) (e : Granule) (a b : KReg)
  /-- Writes CAIRN_CONS from a k register (R370). -/
  | crsetCons (g : Pred) (b : KReg)
  /-- Writes CAIRN_THRESH from a k register (R370). -/
  | crsetThresh (g : Pred) (b : KReg)
  /-- Writes CAIRN_PROD from a k register (R370). -/
  | crsetProd (g : Pred) (b : KReg)
  /-- Writes CAIRN_END bit 0 from a k register (R370). -/
  | crsetEnd (g : Pred) (b : KReg)
  /-- Reads CAIRN_PROD (R370). -/
  | crposProd (g : Pred) (d : KReg)
  /-- Reads CAIRN_CONS (R370). -/
  | crposCons (g : Pred) (d : KReg)
  /-- Reads the Cairn status word (R370). -/
  | crposStatus (g : Pred) (d : KReg)
  /-- Writes or checks a TYPE 7 Cairn mark record (R369). -/
  | lmark (g : Pred) (a : KReg) (tag : BitVec 7)
  /-- Uniform load into a k register (R150). -/
  | uld (g : Pred) (d : KReg) (m : UniMem) (sz : MemSize) (sx : Bool) (h : Hint)
  /-- Uniform store from a k register (R152). -/
  | ust (g : Pred) (d : KReg) (m : UniMem) (sz : MemSize) (h : Hint)
  /-- Privileged store of Shadow.div or Shadow.v95 (R337). -/
  | dvsave (g : Pred) (m : UniMem) (v95 : Bool)
  /-- Privileged load of Shadow.div or Shadow.v95 (R337). -/
  | dvload (g : Pred) (m : UniMem) (v95 : Bool)
  /-- A walk reports a page fault and the group runs ahead probing translations (R91). -/
  | pageFaultRunahead (gid : Nat)
  /-- After run-ahead translations finish and rollback ends, writes the batch and posts the record (R93). -/
  | faultBatchPost (gid : Nat)
  /-- A tagged reply from a controller returns data or status to its source (R57). -/
  | memReply (tag : Nat) (st : ReplyStatus) (data : List Byte)
  /-- A base-die controller serves one tagged request in per-atom order (R58). -/
  | controllerRequest (r : MemReq) (e : Ecc)
  /-- A flank page's activation count reaches PROMO and a promotion starts (R61). -/
  | hwPromote (stack page : Nat)
  /-- A promotion's row copies complete and the page becomes cached (R64). -/
  | promotionDone (stack page : Nat)
  /-- A cached page's write-back completes and it returns to FLANK (R64). -/
  | writeBackDone (stack page : Nat)
  /-- The daily patrol scrub reads and corrects every row of a stack (R70). -/
  | patrolScrub (stack fixed : Nat) (bad : List Nat)
  /-- A die's corrected errors exceed 1,024 in an hour or its self-test fails (R73). -/
  | dieFailing (stack die : Nat)
  /-- A die stays above 100 °C for 10 ms; refresh doubles and the event posts (R73). -/
  | bankHot (stack bank : Nat)
  /-- An HB_REMAP write with START begins a bank remap or posts REMAP_REFUSED (R74). -/
  | remapStart (stack : Nat) (val : Word)
  /-- One page's move completes and the watermark advances (R75). -/
  | remapPageMoved (stack : Nat)
  /-- All pages have moved; HB_BANKMAP, HB_LIVE and MEM_LIVE update (R74). -/
  | remapDone (stack : Nat)
  /-- An HB_CREST write changes WIN and PROMO, or is refused for WIN (R60). -/
  | crestWinWrite (stack : Nat) (val : Word)
  /-- A WIN change completes and BUSY clears (R60). -/
  | crestWinDone (stack : Nat)
  /-- Clears a lost-table page entry (R72). -/
  | hbLostclr (stack : Nat) (val : Word)
  /-- A write-one-to-clear of the corrected-error count (R76). -/
  | hbCeClear (stack : Nat) (val : Word)
  /-- A page-table walk completes with a translation or a fault (R85). -/
  | walkDone (ctx : Nat) (spur : Option Word) (va : Pc)
  /-- The dependence tracker releases a job into its engine once conflicts are performed (R110). -/
  | copyJobStart (job : Nat)
  /-- An engine serves one 128-byte item, landing it or failing it, and signals completion events (R115). -/
  | copyItem (job item : Nat)
  /-- Every touched line's presence bit is set and a parked group re-executes (R143). -/
  | parkRelease (gid : Nat)
  /-- A multiply retires from the array and its tile interlock releases (R221). -/
  | mmaRetire (tid : Nat)
  /-- An instance load ends, present or failed, and parked multiplies resume (R236). -/
  | residencyLoadDone (core ctx slot : Nat)
  /-- A BWAIT's bound passes with PHASE unchanged and it returns false (R131). -/
  | bwaitTimeout (gid : Nat)
  /-- A SPUR.JOIN's bound passes and it returns false (R318). -/
  | joinTimeout (gid : Nat)
  /-- A write at the counter's home meets a waiting LWAIT's target (R299). -/
  | lwaitWake (gid : Nat)
  /-- Every group has waited SWAP_THRESH clk in LWAIT and the team is swapped out (R300). -/
  | swapOut (tid : Nat)
  /-- The queue scheduler checks and accepts or refuses a launch record (R283). -/
  | launchAccept (tid : Nat)
  /-- The dispatcher places the next unit on fitting cores (R291). -/
  | dispatch
  /-- A blocked unit has waited 100 µs and backfill stops (R291). -/
  | backfillStop
  /-- A unit has waited 50 µs and the dispatcher raises a pre-emption request (R294). -/
  | dispatchPreempt
  /-- A grid completes and its completion counter is updated (R285). -/
  | gridComplete (ctx serial : Nat)
  /-- An ended team's queued contributions are applied in key order (R258). -/
  | reductionDrain (ctx serial : Nat)
  /-- The Ridgeline ticket passes to the next team, which releases its staged work (R263). -/
  | ticketPass (ctx serial : Nat)
  /-- A marked spur's reclaim finishes and it becomes FREE (R320). -/
  | spurReclaimDone (ctx slot : Nat)
  /-- A team's deadline D passes and its groups stop at their next quiet points (R343). -/
  | preemptDeadline (tid : Nat)
  /-- The consistent cut drains and groups enter their save (R344). -/
  | cutComplete (tid : Nat)
  /-- A save or restore routine exceeds SAVE_LIMIT and the team ends (R345). -/
  | saveTimeout (gid : Nat)
  /-- A restorable team is placed and its pages and groups restored (R348). -/
  | teamRestore (tid : Nat)
  /-- Each core's thermal sensor is read and its hot state updated (R372). -/
  | sensorSample (core : Nat) (temp : BitVec 16) (outlet : BitVec 8)
  /-- Scree chooses a team and target per hot core, or adjusts the issue rate (R374). -/
  | screeDecision (column : Nat)
  /-- A chosen team reaches a quiet point and its move begins (R375). -/
  | migrationStart (column : Nat)
  /-- A deferred move's 2 µs end and it starts with pending landings redirected (R377). -/
  | migrationDeferExpiry (column : Nat)
  /-- A move completes and the team issues on its new core (R375). -/
  | migrationDone (column : Nat)
  /-- The rail balance controller forecasts layer currents and throttles or ballasts (R378). -/
  | balanceWindow (massif rail : Nat) (load : List Nat)
  /-- The arithmetic clock moves to another operating point (R379). -/
  | clockPointChange (point : Nat)
  /-- The power controller holds averaged power under the effective cap (R382). -/
  | powerEnforce (power : Nat)
  /-- A core reaches CRIT or the outlet exceeds COOL_LIMIT for 1 ms; emergency save begins (R380). -/
  | thermEmerg
  /-- At 50 ms unsaved teams end with SAVE_TIMEOUT (R380). -/
  | emergDeadline
  /-- After saves, HBM4E self-refreshes and compute rails are removed (R380). -/
  | emergRailsOff
  /-- A THERM_CFG.RESUME write returns the rails when cool (R381). -/
  | thermResume (val : Word)
  /-- A rack power cap write applies or is ignored by its sequence number (R382). -/
  | pwrCap (val : Word)
  /-- A power lease expires and the floor applies (R382). -/
  | leaseExpired
  /-- Every team's logical clock advances by a lease length in each 2 µs (R269). -/
  | logicalClockAdvance
  /-- A host notify write updates a queue's TAIL or puts it in ERROR (R288). -/
  | queueNotify (fn queue : Nat) (val : Word)
  /-- A mapped queue accepts a launch command into the dispatch list (R287). -/
  | queueLaunchCommand (queue : Nat)
  /-- A wait command is accepted once its counter reaches its target (R287). -/
  | queueWaitCommand (queue : Nat)
  /-- A command's CHECK still mismatches after 2 µs of refetch and the queue goes to ERROR (R288). -/
  | queueSequence (queue : Nat)
  /-- A RUNNABLE queue is mapped to a free hardware slot (R290). -/
  | queueMap
  /-- A lower-priority mapped queue is evicted at its command boundary (R290). -/
  | queueEvict
  /-- A mapped queue has HEAD = TAIL for 20 µs and goes IDLE (R289). -/
  | queueIdle (queue : Nat)
  /-- Registers a queue descriptor with the context (R392). -/
  | qregRegister (fn ctx : Nat) (val : Word)
  /-- Unregisters a queue at its next command boundary (R392). -/
  | qregUnregister (fn ctx : Nat) (val : Word)
  /-- Resets an ERROR queue to IDLE with HEAD := TAIL (R289). -/
  | qregReset (fn ctx : Nat) (val : Word)
  /-- An INVAL_CMD START drops translations as XINVAL, or is refused (R392). -/
  | hostInvalidate (fn ctx : Nat) (val : Word)
  /-- No access uses a dropped translation and BUSY clears (R392). -/
  | hostInvalidateDone (ctx : Nat)
  /-- Writing CTX_CTL.UP = 1 creates a context or records CFGERR (R390). -/
  | contextCreate (fn ctx : Nat) (val : Word)
  /-- Writing CTX_CTL.UP = 0 cancels everything and frees the context (R391). -/
  | contextDestroy (fn ctx : Nat) (val : Word)
  /-- A destruction completes, BUSY clears and CTX_DOWN posts (R391). -/
  | ctxDown (ctx : Nat)
  /-- A PREEMPT register write raises a pre-emption request for the context (R343). -/
  | preemptRequest (fn ctx : Nat) (val : Word)
  /-- The host consumes trap records, freeing positions and unblocking held posts (R340). -/
  | tqConsWrite (fn ctx : Nat) (val : Word)
  /-- Replays a pending KIND 1 or 2 record (R342). -/
  | tqReplay (fn ctx : Nat) (val : Word)
  /-- Abandons a pending KIND 1 or 2 record (R342). -/
  | tqAbandon (fn ctx : Nat) (val : Word)
  /-- Pushes a pool index onto the free stack, or is ignored (R307). -/
  | poolPush (fn ctx : Nat) (val : Word)
  /-- Sets the Cairn direction and zeroes its counts, unless REC or REPLAY grids are live (R361). -/
  | cairnDirWrite (fn ctx : Nat) (val : Word)
  /-- The host consumes Cairn records, letting parked events re-execute (R362). -/
  | cairnConsWrite (fn ctx : Nat) (val : Word)
  /-- The host feeds replay records, letting waiting events proceed (R364). -/
  | cairnProdWrite (fn ctx : Nat) (val : Word)
  /-- The host consumes event records, letting held events be written (R389). -/
  | evqConsWrite (fn : Nat) (val : Word)
  /-- A write to a management register with no behaviour of its own (R387). -/
  | registerWrite (fn off : Nat) (val : Word)
  /-- A host read of local memory through BAR4 (R385). -/
  | hostBar4Read (off len : Nat)
  /-- A host write of local memory through BAR4, dropped with an event on error (R385). -/
  | hostBar4Write (off : Nat) (data : List Byte)
  /-- A device access to host memory gets no completion within 50 ms (R386). -/
  | hostTimeout (tag : Nat)
  /-- The PCIe link goes down and lost posted writes are reported (R386). -/
  | pcieDown (lost : Nat)
  /-- An inbound Yelwagon flit request is served or answered ABSENT (R396). -/
  | peerRequest (chip : Nat) (r : MemReq)
  /-- A Yelwagon request gets no reply within 1 ms and raises DATA_LOST (R397). -/
  | peerTimeout (tag : Nat)
  /-- Eight tag failures within 1 ms take a port down and flits are resent (R397). -/
  | linkDown (port : Nat)
  /-- A port trains and is keyed (R389). -/
  | linkUp (port : Nat) (peer : BitVec 12)
  /-- Clearing ENABLE takes a port out of service after its flits drain (R395). -/
  | portDisable (port : Nat)
  /-- A port direction's key is replaced after 2^48 flits (R397). -/
  | keyRollover (port : Nat) (tx : Bool)
  /-- An SPDM request over DOE or Yelwagon is answered (R405). -/
  | spdmRequest (viaPort : Option Nat) (code : SpdmCode)
  /-- Power is applied and the reset sequence runs (R399). -/
  | coldReset
  /-- A PCIe fundamental reset, PF0 FLR or RESET_CTL write runs the reset sequence (R399). -/
  | warmReset
  /-- A VF Function Level Reset destroys every context it owns (R391). -/
  | vfFlr (fn : Nat)
  /-- The reset sequence ends and configuration reads complete (R399). -/
  | startupDone
  /-- Writes and verifies a firmware image in the idle slot (R403). -/
  | lcWriteImage (val : Word)
  /-- An image write finishes and STATUS reports its verification (R403). -/
  | lcWriteImageDone (img : Option Image)
  /-- Verifies a life-cycle token and sets a pending transition (R403). -/
  | lcSubmitToken (val : Word) (tok : Option Token)
  /-- Draws a fresh nonce and writes it to host memory (R403). -/
  | lcFetchNonce (val : Word) (entropy : BitVec 128) (ok : Bool)
  /-- A group decodes a word whose opcode is unassigned in its map and traps with ILLEGAL_OPCODE (R39). -/
  | illegalOpcode
  /-- The fetch of an instruction word or its literal faults or hits a lost atom, trapping precisely at the word's address (R39). -/
  | fetchFault
  /-- A PCIe AtomicOp (FetchAdd, Swap or CAS) from the host is performed on local memory through BAR4 and completed (R383). -/
  | hostAtomicop (off : Nat) (op : AtomOp) (s64 : Bool) (x c : DWord)
  /-- A host write to CAIRN_END sets or clears the end mark, so replay events lacking a record now raise REPLAY_DIVERGENCE (R364). -/
  | cairnEndWrite (fn ctx : Nat) (val : Word)
  /-- A write-one-to-clear of EVQ_PEND clears the bits of events that could not be held (R388). -/
  | evqPendClear (fn : Nat) (val : Word)
  deriving DecidableEq, Repr

end Sys2Proof
end

