-- ==== Sys2Proof/WellFormed.lean ====
section
/-! DEFINITION. Which instructions decoding lets through: the limits on operands that R36, R37, R43 and the instruction
entries give (R117, R148, R183, R210, R212, R225, R242, R249, R336). -/

namespace Sys2Proof

/-- An even number: the name of a register pair (R36). -/
def even (n : Nat) : Bool := n % 2 == 0

/-- The register number within its kind. -/
def Src.regNo : Src → Nat
  | .v r => r.val
  | .k r => r.val

/-- The register names a pair (R36). -/
def Src.isPair (s : Src) : Bool := even s.regNo

/-- The special registers that are 64 bits wide (R181). -/
def SReg.is64 : SReg → Bool
  | .params | .clock | .retired | .trappc | .trapaddr => true
  | _ => false

/-- The special registers that only the lane form reads (R181). -/
def SReg.laneOnly : SReg → Bool
  | .laneid | .ltmask => true
  | _ => false

/-- Integer types of 64 bits (R210). -/
def IntTy.is64 : IntTy → Bool
  | .s64 | .u64 => true
  | _ => false

/-- The floating-point type of 64 bits (R210). -/
def FltTy.is64 : FltTy → Bool
  | .f64 => true
  | _ => false

/-- Access sizes of 8 and 16 bits, which alone take the SX modifier (R147). -/
def MemSize.isNarrow : MemSize → Bool
  | .b8 | .b16 => true
  | _ => false

/-- The data register limits of a load or store (R148). -/
def MemSize.fits (sz : MemSize) (r : Nat) : Bool :=
  match sz with
  | .b64 => even r
  | .b128 => r % 4 == 0
  | _ => true

/-- Changes that exist for 32 bits alone (R249). -/
def AtomOp.only32 : AtomOp → Bool
  | .hfadd2 | .bfadd2 => true
  | _ => false

/-- Limits of ATOM on its operand register (R249). -/
def AtomOp.atomFits (o : AtomOp) (s64 : Bool) (d : Nat) : Bool :=
  !(s64 && o.only32) &&
  (if o = .cas then (if s64 then d % 4 == 0 else decide (d ≤ 94)) else (!s64 || even d))

/-- Limits of RED on its operation and operand register (R249). -/
def AtomOp.redFits (o : AtomOp) (s64 : Bool) (d : Nat) : Bool :=
  !(s64 && o.only32) && o != .xchg && o != .cas && (!s64 || even d)

/-- The system registers that SYSWR may write (R336). -/
def SysReg.writable : SysReg → Bool
  | .hk30 | .hk31 => true
  | _ => false


/-- The operand limits that decoding checks at step 3 of R39, instruction by instruction: what the types of the operands
do not say already. A breach raises RESERVED_FIELD. Events have no encoding and no limit. -/
def wellFormed : Instr → Bool
  | .iadd _ _ _ _ => true
  | .isub _ _ _ _ => true
  | .imul _ _ _ _ => true
  | .imulhS _ _ _ _ => true
  | .imulhN _ _ _ _ => true
  | .imad _ _ _ _ => true
  | .iaddi _ _ _ _ => true
  | .iminS _ _ _ _ => true
  | .iminN _ _ _ _ => true
  | .imaxS _ _ _ _ => true
  | .imaxN _ _ _ _ => true
  | .iadd64 _ d a b => even d.val && a.isPair && b.isPair
  | .isub64 _ d a b => even d.val && a.isPair && b.isPair
  | .imadw _ d _ _ => even d.val
  | .leai _ d m x => even d.val && m.base.isPair && decide (x.toNat ≤ 4)
  | .and _ _ _ _ => true
  | .or _ _ _ _ => true
  | .xor _ _ _ _ => true
  | .not _ _ _ => true
  | .shl _ _ _ _ => true
  | .shrN _ _ _ _ => true
  | .shrS _ _ _ _ => true
  | .rotl _ _ _ _ => true
  | .bfxS _ _ _ _ => true
  | .bfxN _ _ _ _ => true
  | .bfi _ _ _ _ => true
  | .popc _ _ _ => true
  | .clz _ _ _ => true
  | .brev _ _ _ => true
  | .mov _ _ _ => true
  | .movi _ _ _ => true
  | .icmpS _ c _ _ _ => (c != .num && c != .nan)
  | .icmpN _ c _ _ _ => (c != .num && c != .nan)
  | .fcmpF32 _ _ _ _ _ => true
  | .fcmpF64 _ _ _ a b => a.isPair && b.isPair
  | .icmpiS _ c _ _ _ => (c != .num && c != .nan)
  | .icmpiN _ c _ _ _ => (c != .num && c != .nan)
  | .plop _ _ _ _ _ _ => true
  | .pmovGet _ _ => true
  | .pmovSet _ _ => true
  | .faddF32 _ _ _ _ => true
  | .fsubF32 _ _ _ _ => true
  | .fmulF32 _ _ _ _ => true
  | .ffmaF32 _ _ _ _ => true
  | .fminF32 _ _ _ _ => true
  | .fmaxF32 _ _ _ _ => true
  | .faddiF32 _ _ _ _ => true
  | .fmuliF32 _ _ _ _ => true
  | .faddF16x2 _ _ _ _ => true
  | .fmulF16x2 _ _ _ _ => true
  | .ffmaF16x2 _ _ _ _ => true
  | .fminF16x2 _ _ _ _ => true
  | .faddBf16x2 _ _ _ _ => true
  | .fmulBf16x2 _ _ _ _ => true
  | .ffmaBf16x2 _ _ _ _ => true
  | .fminBf16x2 _ _ _ _ => true
  | .faddF64 _ d a b => even d.val && a.isPair && b.isPair
  | .fsubF64 _ d a b => even d.val && a.isPair && b.isPair
  | .fmulF64 _ d a b => even d.val && a.isPair && b.isPair
  | .ffmaF64 _ d a b => even d.val && a.isPair && b.isPair
  | .fminF64 _ d a b => even d.val && a.isPair && b.isPair
  | .fmaxF64 _ d a b => even d.val && a.isPair && b.isPair
  | .fmaxF16x2 _ _ _ _ => true
  | .fmaxBf16x2 _ _ _ _ => true
  | .frcp _ _ _ => true
  | .frsq _ _ _ => true
  | .fsqrt _ _ _ => true
  | .fexp2 _ _ _ => true
  | .flog2 _ _ _ => true
  | .fsin _ _ _ => true
  | .fcos _ _ _ => true
  | .ftanh _ _ _ => true
  | .cvtFi _ d a _ i o => (!o.is64 || even d.val) && (!i.is64 || a.isPair)
  | .cvtIf _ d a _ _ i o => (!o.is64 || even d.val) && (!i.is64 || a.isPair)
  | .cvtFf _ d a _ _ i o => (!o.is64 || even d.val) && (!i.is64 || a.isPair)
  | .cvtNr _ _ _ _ => true
  | .cvtWd _ _ _ _ => true
  | .frnd _ d a _ f64 => (!f64 || even d.val) && (!f64 || a.isPair)
  | .fldexp _ _ _ _ => true
  | .shfl _ _ _ _ => true
  | .shflx _ _ _ _ => true
  | .shflup _ _ _ _ => true
  | .shfldn _ _ _ _ => true
  | .vote _ _ _ _ => true
  | .ballot _ _ _ => true
  | .lscan _ _ _ _ _ => true
  | .lred _ _ _ _ => true
  | .sreadV _ d a => (!a.is64 || even d.val)
  | .matchLanes _ _ _ => true
  | .iabs _ _ _ => true
  | .ard _ d _ _ => decide (d.val ≤ 88)
  | .awr _ _ a _ => decide (a.val ≤ 88)
  | .bra _ _ _ _ => true
  | .bral _ _ _ lit => (lit.toNat % 4 == 0)
  | .brx _ a _ _ => a.isPair
  | .call _ d _ _ => even d.val
  | .callx _ d a _ => even d.val && a.isPair
  | .ret _ a _ => a.isPair
  | .exit _ => true
  | .trap _ _ => true
  | .ld _ d m sz sx _ => sz.fits d.val && m.base.isPair && (!sx || sz.isNarrow)
  | .st _ d m sz _ => sz.fits d.regNo && m.base.isPair
  | .pref _ m _ => m.base.isPair
  | .atomO _ d m _ o s64 => o.atomFits s64 d.val && m.base.isPair
  | .atomU _ d m _ o s64 => o.atomFits s64 d.val && m.base.isPair
  | .redO _ d m _ o s64 => o.redFits s64 d.regNo && m.base.isPair
  | .redU _ d m _ o s64 => o.redFits s64 d.regNo && m.base.isPair
  | .uiadd _ _ _ _ => true
  | .uisub _ _ _ _ => true
  | .uimul _ _ _ _ => true
  | .uimad _ _ _ _ => true
  | .uiaddi _ _ _ _ => true
  | .uiadd64 _ d a b => even d.val && even a.val && even b.val
  | .umov _ _ _ => true
  | .umovi _ _ _ => true
  | .uand _ _ _ _ => true
  | .uor _ _ _ _ => true
  | .uxor _ _ _ _ => true
  | .ushl _ _ _ _ => true
  | .ushrN _ _ _ _ => true
  | .ushrS _ _ _ _ => true
  | .uicmpS _ c _ _ _ => (c != .num && c != .nan)
  | .uicmpN _ c _ _ _ => (c != .num && c != .nan)
  | .uplop _ _ _ _ _ _ => true
  | .ufadd _ _ _ _ => true
  | .ufmul _ _ _ _ => true
  | .uffma _ _ _ _ => true
  | .ufcmp _ _ _ _ _ => true
  | .sreadK _ d a => (!a.is64 || even d.val) && !a.laneOnly
  | .ubfx _ _ _ _ => true
  | .unop _ => true
  | .ubra _ _ _ => true
  | .ubral _ _ lit => (lit.toNat % 4 == 0)
  | .yield _ => true
  | .tretRetry _ => true
  | .tretSkip _ => true
  | .utrap _ _ => true
  | .kill _ => true
  | .killFail _ => true
  | .killSave _ => true
  | .fence _ _ _ => true
  | .binit _ a _ => even a.val
  | .barr _ _ a => even a.val
  | .barrn _ _ a _ => even a.val
  | .bxpct _ a _ => even a.val
  | .bwait _ _ a _ => even a.val
  | .tsync _ => true
  | .csync _ => true
  | .cpgs _ _ a _ => (a.val % 4 == 0 && a.val != 0)
  | .cpsg _ _ a _ => (a.val % 4 == 0 && a.val != 0)
  | .cpgg _ _ a _ => (a.val % 4 == 0 && a.val != 0)
  | .cptr _ _ a _ => (a.val % 4 == 0 && a.val != 0)
  | .cpga _ _ a _ => (a.val % 4 == 0 && a.val != 0)
  | .cpmc _ _ a _ => (a.val % 4 == 0 && a.val != 0)
  | .cpmcr _ _ _ => true
  | .cpwait _ _ _ _ => true
  | .bufget _ _ _ => true
  | .bufput _ _ => true
  | .bufwait _ _ _ => true
  | .bufq _ _ _ => true
  | .shnew _ _ a => even a.val
  | .shfree _ _ => true
  | .hrowUp _ _ a _ => even a.val
  | .hrowDn _ _ a _ => even a.val
  | .hrowQ _ _ a => even a.val
  | .mmab _ _ _ _ _ b => (b.val % 4 == 0 && b.val != 0)
  | .mmao _ _ _ _ _ b => (b.val % 4 == 0 && b.val != 0)
  | .mmag _ _ _ _ _ b => (b.val % 4 == 0 && b.val != 0)
  | .dmma _ t _ _ _ a b => even t.toNat && even a.val && (b.val % 4 == 0 && b.val != 0)
  | .aclr _ t n => decide (t.toNat + n.toNat ≤ 15)
  | .ald _ _ a _ => even a.val
  | .ast _ _ a _ => even a.val
  | .obres _ _ a => even a.val
  | .obfree _ _ => true
  | .obld _ _ a => (a.val % 4 == 0 && a.val != 0)
  | .rsalloc _ _ a => even a.val
  | .rsfill _ _ => true
  | .rspin _ _ => true
  | .rsunpin _ _ => true
  | .rsrev _ _ => true
  | .rsq _ _ _ => true
  | .ctabWr _ a _ => even a.val
  | .ctabSwap _ _ => true
  | .ctabRd _ _ _ _ _ _ => true
  | .launch _ a => even a.val
  | .launchNb _ _ a => even a.val
  | .lwait _ _ a b => even a.val && even b.val
  | .lpoll _ d a => even d.val && even a.val
  | .spurFork _ _ _ => true
  | .spurJoin _ _ _ _ => true
  | .spurCancel _ _ _ => true
  | .spurQ _ _ _ => true
  | .sysrd _ _ _ => true
  | .syswr _ a _ => a.writable
  | .xprobe _ d a _ => even d.val && even a.val
  | .xinval _ _ a _ => even a.val
  | .crsetCons _ _ => true
  | .crsetThresh _ _ => true
  | .crsetProd _ _ => true
  | .crsetEnd _ _ => true
  | .crposProd _ _ => true
  | .crposCons _ _ => true
  | .crposStatus _ _ => true
  | .lmark _ _ _ => true
  | .uld _ d m sz sx _ => sz.fits d.val && even m.base.val && (sz != .b128) && (!sx || sz.isNarrow)
  | .ust _ d m sz _ => sz.fits d.val && even m.base.val && (sz != .b128)
  | .dvsave _ m _ => even m.base.val
  | .dvload _ m _ => even m.base.val
  | .pageFaultRunahead _ => true
  | .faultBatchPost _ => true
  | .memReply _ _ _ => true
  | .controllerRequest _ _ => true
  | .hwPromote _ _ => true
  | .promotionDone _ _ => true
  | .writeBackDone _ _ => true
  | .patrolScrub _ _ _ => true
  | .dieFailing _ _ => true
  | .bankHot _ _ => true
  | .remapStart _ _ => true
  | .remapPageMoved _ => true
  | .remapDone _ => true
  | .crestWinWrite _ _ => true
  | .crestWinDone _ => true
  | .hbLostclr _ _ => true
  | .hbCeClear _ _ => true
  | .walkDone _ _ _ => true
  | .copyJobStart _ => true
  | .copyItem _ _ => true
  | .parkRelease _ => true
  | .mmaRetire _ => true
  | .residencyLoadDone _ _ _ => true
  | .bwaitTimeout _ => true
  | .joinTimeout _ => true
  | .lwaitWake _ => true
  | .swapOut _ => true
  | .launchAccept _ => true
  | .dispatch => true
  | .backfillStop => true
  | .dispatchPreempt => true
  | .gridComplete _ _ => true
  | .reductionDrain _ _ => true
  | .ticketPass _ _ => true
  | .spurReclaimDone _ _ => true
  | .preemptDeadline _ => true
  | .cutComplete _ => true
  | .saveTimeout _ => true
  | .teamRestore _ => true
  | .sensorSample _ _ _ => true
  | .screeDecision _ => true
  | .migrationStart _ => true
  | .migrationDeferExpiry _ => true
  | .migrationDone _ => true
  | .balanceWindow _ _ _ => true
  | .clockPointChange _ => true
  | .powerEnforce _ => true
  | .thermEmerg => true
  | .emergDeadline => true
  | .emergRailsOff => true
  | .thermResume _ => true
  | .pwrCap _ => true
  | .leaseExpired => true
  | .logicalClockAdvance => true
  | .queueNotify _ _ _ => true
  | .queueLaunchCommand _ => true
  | .queueWaitCommand _ => true
  | .queueSequence _ => true
  | .queueMap => true
  | .queueEvict => true
  | .queueIdle _ => true
  | .qregRegister _ _ _ => true
  | .qregUnregister _ _ _ => true
  | .qregReset _ _ _ => true
  | .hostInvalidate _ _ _ => true
  | .hostInvalidateDone _ => true
  | .contextCreate _ _ _ => true
  | .contextDestroy _ _ _ => true
  | .ctxDown _ => true
  | .preemptRequest _ _ _ => true
  | .tqConsWrite _ _ _ => true
  | .tqReplay _ _ _ => true
  | .tqAbandon _ _ _ => true
  | .poolPush _ _ _ => true
  | .cairnDirWrite _ _ _ => true
  | .cairnConsWrite _ _ _ => true
  | .cairnProdWrite _ _ _ => true
  | .evqConsWrite _ _ => true
  | .registerWrite _ _ _ => true
  | .hostBar4Read _ _ => true
  | .hostBar4Write _ _ => true
  | .hostTimeout _ => true
  | .pcieDown _ => true
  | .peerRequest _ _ => true
  | .peerTimeout _ => true
  | .linkDown _ => true
  | .linkUp _ _ => true
  | .portDisable _ => true
  | .keyRollover _ _ => true
  | .spdmRequest _ _ => true
  | .coldReset => true
  | .warmReset => true
  | .vfFlr _ => true
  | .startupDone => true
  | .lcWriteImage _ => true
  | .lcWriteImageDone _ => true
  | .lcSubmitToken _ _ => true
  | .lcFetchNonce _ _ _ => true
  | .illegalOpcode => true
  | .fetchFault => true
  | .hostAtomicop _ _ _ _ _ => true
  | .cairnEndWrite _ _ _ => true
  | .evqPendClear _ _ => true

/-- An instruction all of whose operands keep their limits. -/
abbrev WellFormed (i : Instr) : Prop := wellFormed i = true

end Sys2Proof
end

