-- ==== Sys2Proof/Decode.lean ====
section
/-! DEFINITION. Decoding and encoding of instruction words (R29 to R43). Decoding is total: a word whose opcode is
unassigned is `illegal`, and a word that breaks a limit of step 3 of R39 is `reserved`. The grade and the privilege of the
group (steps 2 and 5) belong to the machine. The encoder stands at the end, written from the same tables. -/

namespace Sys2Proof

/-- n bits of x from bit lo upward. -/
def bits (x lo n : Nat) : Nat := x / 2 ^ lo % 2 ^ n

/-- A 7-bit field that must name a vector register (R35, R37). -/
def vreg? (n : Nat) : Option VReg := if h : n < 96 then some ⟨n, h⟩ else none

/-- A 7-bit field that must name a uniform register (R35, R37). -/
def kreg? (n : Nat) : Option KReg := if h : 96 ≤ n ∧ n < 128 then some ⟨n - 96, by omega⟩ else none

/-- A 7-bit field of a lane-set source (R35). -/
def src? (n : Nat) : Option Src := if n < 96 then (vreg? n).map .v else (kreg? n).map .k

/-- The number of a source register in a 7-bit field (R35). -/
def Src.code : Src → Nat
  | .v r => r.val
  | .k r => 96 + r.val

/-- The memory operand of a lane-set L instruction (R43). -/
def laneMem? (w lit : Nat) : Option LaneMem := do
  let b ← src? (bits w 7 7)
  let i ← src? (bits w 0 7)
  pure ⟨b, i, BitVec.ofNat 24 (bits lit 8 24)⟩

/-- The memory operand of a uniform L instruction (R43). -/
def uniMem? (w lit : Nat) : Option UniMem := do
  let b ← kreg? (bits w 7 7)
  let i ← kreg? (bits w 0 7)
  pure ⟨b, i, BitVec.ofNat 24 (bits lit 8 24)⟩

/-- Condition codes (R206). -/
def Cond.code : Cond → Nat
  | .eq => 0 | .ne => 1 | .lt => 2 | .le => 3 | .gt => 4 | .ge => 5 | .num => 6 | .nan => 7

/-- The condition of a code; 8 to 15 are reserved (R206). -/
def cond? (n : Nat) : Option Cond :=
  [Cond.eq, .ne, .lt, .le, .gt, .ge, .num, .nan][n]?

/-- Rounding mode codes (R167). -/
def RMode.code : RMode → Nat
  | .rne => 0 | .rz => 1 | .rd => 2 | .ru => 3

/-- The rounding mode of a 2-bit code (R167). -/
def rmode (n : Nat) : RMode := if n = 0 then .rne else if n = 1 then .rz else if n = 2 then .rd else .ru

/-- Integer type codes (R210). -/
def IntTy.code : IntTy → Nat
  | .s32 => 0 | .u32 => 1 | .s64 => 2 | .u64 => 3

/-- The integer type of a 2-bit code (R210). -/
def intTy (n : Nat) : IntTy := if n = 0 then .s32 else if n = 1 then .u32 else if n = 2 then .s64 else .u64

/-- Floating-point type codes (R210). -/
def FltTy.code : FltTy → Nat
  | .f32 => 0 | .f64 => 1 | .f16 => 2 | .bf16 => 3

/-- The floating-point type of a 2-bit code (R210). -/
def fltTy (n : Nat) : FltTy := if n = 0 then .f32 else if n = 1 then .f64 else if n = 2 then .f16 else .bf16

/-- Codes of the scan operations (R217). -/
def ScanOp.code : ScanOp → Nat
  | .iadd => 0 | .fadd => 1 | .iminS => 2 | .imaxS => 3 | .iminN => 4 | .imaxN => 5 | .and => 6 | .or => 7

/-- The scan operation of a 3-bit code (R217). -/
def scanOp (n : Nat) : ScanOp := [ScanOp.iadd, .fadd, .iminS, .imaxS, .iminN, .imaxN, .and, .or].getD n .or

/-- Codes of the VOTE modes (R216). -/
def VoteMode.code : VoteMode → Nat
  | .all => 0 | .any => 1 | .uni => 2

/-- The VOTE mode of a code; 3 is reserved (R216). -/
def voteMode? (n : Nat) : Option VoteMode := [VoteMode.all, .any, .uni][n]?

/-- Scope codes (R38). -/
def Scope.code : Scope → Nat
  | .group => 0 | .team => 1 | .cluster => 2 | .device => 3 | .system => 4

/-- The scope of a 3-bit code; 5 to 7 are reserved (R38). -/
def scope? (n : Nat) : Option Scope := [Scope.group, .team, .cluster, .device, .system][n]?

/-- OP codes of atomics and reductions (R250). -/
def AtomOp.code : AtomOp → Nat
  | .add => 0 | .minS => 1 | .maxS => 2 | .minN => 3 | .maxN => 4 | .and => 5 | .or => 6 | .xor => 7 | .xchg => 8
  | .cas => 9 | .fadd => 10 | .fmin => 11 | .fmax => 12 | .hfadd2 => 13 | .bfadd2 => 14

/-- The change of an OP code; 15 is reserved (R249, R250). -/
def atomOp? (n : Nat) : Option AtomOp :=
  [AtomOp.add, .minS, .maxS, .minN, .maxN, .and, .or, .xor, .xchg, .cas, .fadd, .fmin, .fmax, .hfadd2, .bfadd2][n]?

/-- SIZE codes of loads and stores (R147). -/
def MemSize.code : MemSize → Nat
  | .b8 => 0 | .b16 => 1 | .b32 => 2 | .b64 => 3 | .b128 => 4

/-- The size of a code; 5 to 7 are reserved (R147). -/
def memSize? (n : Nat) : Option MemSize := [MemSize.b8, .b16, .b32, .b64, .b128][n]?

/-- HINT codes (R147). -/
def Hint.code : Hint → Nat
  | .page => 0 | .strm => 1 | .na => 2

/-- The hint of a code; 3 is reserved (R147). -/
def hint? (n : Nat) : Option Hint := [Hint.page, .strm, .na][n]?

/-- LEVEL codes of PREF (R147). -/
def PrefLevel.code : PrefLevel → Nat
  | .l1 => 0 | .l2 => 1

/-- The level of a code; 2 and 3 are reserved (R147). -/
def prefLevel? (n : Nat) : Option PrefLevel := [PrefLevel.l1, .l2][n]?

/-- Granule codes (R102). -/
def Granule.code : Granule → Nat
  | .k64 => 0 | .m2 => 1 | .g1 => 2

/-- The granule of a code; 3 is reserved (R102). -/
def granule? (n : Nat) : Option Granule := [Granule.k64, .m2, .g1][n]?

/-- CPWAIT event codes (R135). -/
def CopyEvent.code : CopyEvent → Nat
  | .all => 0 | .rel => 1 | .vis => 2

/-- The event of a code; 3 is reserved (R135). -/
def copyEvent? (n : Nat) : Option CopyEvent := [CopyEvent.all, .rel, .vis][n]?

/-- BUFWAIT state codes (R124). -/
def BufState.code : BufState → Nat
  | .free => 0 | .full => 2 | .draining => 3

/-- The state of a code; 1 is reserved (R124). -/
def bufState? (n : Nat) : Option BufState := [some BufState.free, none, some .full, some .draining].getD n none

/-- CTAB.SWAP table codes (R241). -/
def TableSel.code : TableSel → Nat
  | .q4p => 1 | .q8p => 2 | .both => 3

/-- The tables of a code; 0 is reserved (R241). -/
def tableSel? (n : Nat) : Option TableSel := [none, some TableSel.q4p, some .q8p, some .both].getD n none

/-- Special register numbers (R181). -/
def SReg.code : SReg → Nat
  | .laneid => 0 | .groupid => 1 | .ltmask => 2 | .activemask => 3 | .livemask => 4 | .teamid => 5 | .teamx => 6
  | .teamy => 7 | .teamz => 8 | .gridx => 9 | .gridy => 10 | .gridz => 11 | .ngroups => 12 | .clrank => 13
  | .clshape => 14 | .column => 15 | .params => 16 | .spur => 17 | .priority => 18 | .mode => 19 | .preempt => 20
  | .clock => 21 | .retired => 22 | .ctxid => 23 | .capunits => 24 | .capsizes => 25 | .qmask => 26
  | .trapcause => 64 | .trapinfo => 65 | .trappc => 66 | .trapaddr => 67 | .trapword => 68 | .trapmask => 69

/-- The special registers in number order, for numbers 0 to 26 and 64 to 69 (R181). -/
def sregList : List SReg :=
  [.laneid, .groupid, .ltmask, .activemask, .livemask, .teamid, .teamx, .teamy, .teamz, .gridx, .gridy, .gridz] ++
  [.ngroups, .clrank, .clshape, .column, .params, .spur, .priority, .mode, .preempt, .clock, .retired, .ctxid] ++
  [.capunits, .capsizes, .qmask]

/-- The handler's special registers (R181). -/
def sregTrap : List SReg := [.trapcause, .trapinfo, .trappc, .trapaddr, .trapword, .trapmask]

/-- The special register of a number; an unlisted number is reserved (R181). -/
def sreg? (n : Nat) : Option SReg := if n < 64 then sregList[n]? else sregTrap[n - 64]?

/-- System register numbers (R336). -/
def SysReg.code : SysReg → Nat
  | .hk30 => 0 | .hk31 => 1 | .hlit => 2 | .hpaLo => 3 | .hpaHi => 4 | .saveslot => 5 | .pstate => 6
  | .savebaseLo => 7 | .savebaseHi => 8

/-- The system register of a number; an unlisted number is reserved (R336). -/
def sysReg? (n : Nat) : Option SysReg :=
  [SysReg.hk30, .hk31, .hlit, .hpaLo, .hpaHi, .saveslot, .pstate, .savebaseLo, .savebaseHi][n]?

/-- An instruction that keeps the operand limits (step 3 of R39). -/
def checked (i : Instr) : Option Instr := if wellFormed i then some i else none


/-- IADD: the fields of its word (R202). -/
def decIadd (iw _ : Nat) : Option Instr := do
  let g := Fin.ofNat 8 (bits iw 21 3)
  let d ← vreg? (bits iw 14 7)
  let a ← src? (bits iw 7 7)
  let b ← src? (bits iw 0 7)
  checked (.iadd g d a b)
/-- ISUB: the fields of its word (R202). -/
def decIsub (iw _ : Nat) : Option Instr := do
  let g := Fin.ofNat 8 (bits iw 21 3)
  let d ← vreg? (bits iw 14 7)
  let a ← src? (bits iw 7 7)
  let b ← src? (bits iw 0 7)
  checked (.isub g d a b)
/-- IMUL: the fields of its word (R202). -/
def decImul (iw _ : Nat) : Option Instr := do
  let g := Fin.ofNat 8 (bits iw 21 3)
  let d ← vreg? (bits iw 14 7)
  let a ← src? (bits iw 7 7)
  let b ← src? (bits iw 0 7)
  checked (.imul g d a b)
/-- IMULH_S: the fields of its word (R202). -/
def decImulhS (iw _ : Nat) : Option Instr := do
  let g := Fin.ofNat 8 (bits iw 21 3)
  let d ← vreg? (bits iw 14 7)
  let a ← src? (bits iw 7 7)
  let b ← src? (bits iw 0 7)
  checked (.imulhS g d a b)
/-- IMULH_N: the fields of its word (R202). -/
def decImulhN (iw _ : Nat) : Option Instr := do
  let g := Fin.ofNat 8 (bits iw 21 3)
  let d ← vreg? (bits iw 14 7)
  let a ← src? (bits iw 7 7)
  let b ← src? (bits iw 0 7)
  checked (.imulhN g d a b)
/-- IMAD: the fields of its word (R202). -/
def decImad (iw _ : Nat) : Option Instr := do
  let g := Fin.ofNat 8 (bits iw 21 3)
  let d ← vreg? (bits iw 14 7)
  let a ← src? (bits iw 7 7)
  let b ← src? (bits iw 0 7)
  checked (.imad g d a b)
/-- IADDI: the fields of its word (R202). -/
def decIaddi (iw il : Nat) : Option Instr := do
  guard (bits iw 0 7 == 0)
  let g := Fin.ofNat 8 (bits iw 21 3)
  let d ← vreg? (bits iw 14 7)
  let a ← src? (bits iw 7 7)
  let lit := BitVec.ofNat 32 il
  checked (.iaddi g d a lit)
/-- IMIN_S: the fields of its word (R202). -/
def decIminS (iw _ : Nat) : Option Instr := do
  let g := Fin.ofNat 8 (bits iw 21 3)
  let d ← vreg? (bits iw 14 7)
  let a ← src? (bits iw 7 7)
  let b ← src? (bits iw 0 7)
  checked (.iminS g d a b)
/-- IMIN_N: the fields of its word (R202). -/
def decIminN (iw _ : Nat) : Option Instr := do
  let g := Fin.ofNat 8 (bits iw 21 3)
  let d ← vreg? (bits iw 14 7)
  let a ← src? (bits iw 7 7)
  let b ← src? (bits iw 0 7)
  checked (.iminN g d a b)
/-- IMAX_S: the fields of its word (R202). -/
def decImaxS (iw _ : Nat) : Option Instr := do
  let g := Fin.ofNat 8 (bits iw 21 3)
  let d ← vreg? (bits iw 14 7)
  let a ← src? (bits iw 7 7)
  let b ← src? (bits iw 0 7)
  checked (.imaxS g d a b)
/-- IMAX_N: the fields of its word (R202). -/
def decImaxN (iw _ : Nat) : Option Instr := do
  let g := Fin.ofNat 8 (bits iw 21 3)
  let d ← vreg? (bits iw 14 7)
  let a ← src? (bits iw 7 7)
  let b ← src? (bits iw 0 7)
  checked (.imaxN g d a b)
/-- IADD64: the fields of its word (R202). -/
def decIadd64 (iw _ : Nat) : Option Instr := do
  let g := Fin.ofNat 8 (bits iw 21 3)
  let d ← vreg? (bits iw 14 7)
  let a ← src? (bits iw 7 7)
  let b ← src? (bits iw 0 7)
  checked (.iadd64 g d a b)
/-- ISUB64: the fields of its word (R202). -/
def decIsub64 (iw _ : Nat) : Option Instr := do
  let g := Fin.ofNat 8 (bits iw 21 3)
  let d ← vreg? (bits iw 14 7)
  let a ← src? (bits iw 7 7)
  let b ← src? (bits iw 0 7)
  checked (.isub64 g d a b)
/-- IMADW: the fields of its word (R202). -/
def decImadw (iw _ : Nat) : Option Instr := do
  let g := Fin.ofNat 8 (bits iw 21 3)
  let d ← vreg? (bits iw 14 7)
  let a ← src? (bits iw 7 7)
  let b ← src? (bits iw 0 7)
  checked (.imadw g d a b)
/-- LEAI: the fields of its word (R205). -/
def decLeai (iw il : Nat) : Option Instr := do
  guard (bits il 3 5 == 0)
  let g := Fin.ofNat 8 (bits iw 21 3)
  let d ← vreg? (bits iw 14 7)
  let m ← laneMem? iw il
  let x := BitVec.ofNat 3 (bits il 0 3)
  checked (.leai g d m x)
/-- AND: the fields of its word (R202). -/
def decAnd (iw _ : Nat) : Option Instr := do
  let g := Fin.ofNat 8 (bits iw 21 3)
  let d ← vreg? (bits iw 14 7)
  let a ← src? (bits iw 7 7)
  let b ← src? (bits iw 0 7)
  checked (.and g d a b)
/-- OR: the fields of its word (R202). -/
def decOr (iw _ : Nat) : Option Instr := do
  let g := Fin.ofNat 8 (bits iw 21 3)
  let d ← vreg? (bits iw 14 7)
  let a ← src? (bits iw 7 7)
  let b ← src? (bits iw 0 7)
  checked (.or g d a b)
/-- XOR: the fields of its word (R202). -/
def decXor (iw _ : Nat) : Option Instr := do
  let g := Fin.ofNat 8 (bits iw 21 3)
  let d ← vreg? (bits iw 14 7)
  let a ← src? (bits iw 7 7)
  let b ← src? (bits iw 0 7)
  checked (.xor g d a b)
/-- NOT: the fields of its word (R202). -/
def decNot (iw _ : Nat) : Option Instr := do
  guard (bits iw 0 7 == 0)
  let g := Fin.ofNat 8 (bits iw 21 3)
  let d ← vreg? (bits iw 14 7)
  let a ← src? (bits iw 7 7)
  checked (.not g d a)
/-- SHL: the fields of its word (R203). -/
def decShl (iw _ : Nat) : Option Instr := do
  let g := Fin.ofNat 8 (bits iw 21 3)
  let d ← vreg? (bits iw 14 7)
  let a ← src? (bits iw 7 7)
  let b ← src? (bits iw 0 7)
  checked (.shl g d a b)
/-- SHR_N: the fields of its word (R203). -/
def decShrN (iw _ : Nat) : Option Instr := do
  let g := Fin.ofNat 8 (bits iw 21 3)
  let d ← vreg? (bits iw 14 7)
  let a ← src? (bits iw 7 7)
  let b ← src? (bits iw 0 7)
  checked (.shrN g d a b)
/-- SHR_S: the fields of its word (R203). -/
def decShrS (iw _ : Nat) : Option Instr := do
  let g := Fin.ofNat 8 (bits iw 21 3)
  let d ← vreg? (bits iw 14 7)
  let a ← src? (bits iw 7 7)
  let b ← src? (bits iw 0 7)
  checked (.shrS g d a b)
/-- ROTL: the fields of its word (R203). -/
def decRotl (iw _ : Nat) : Option Instr := do
  let g := Fin.ofNat 8 (bits iw 21 3)
  let d ← vreg? (bits iw 14 7)
  let a ← src? (bits iw 7 7)
  let b ← src? (bits iw 0 7)
  checked (.rotl g d a b)
/-- BFX_S: the fields of its word (R204). -/
def decBfxS (iw _ : Nat) : Option Instr := do
  let g := Fin.ofNat 8 (bits iw 21 3)
  let d ← vreg? (bits iw 14 7)
  let a ← src? (bits iw 7 7)
  let b ← src? (bits iw 0 7)
  checked (.bfxS g d a b)
/-- BFX_N: the fields of its word (R204). -/
def decBfxN (iw _ : Nat) : Option Instr := do
  let g := Fin.ofNat 8 (bits iw 21 3)
  let d ← vreg? (bits iw 14 7)
  let a ← src? (bits iw 7 7)
  let b ← src? (bits iw 0 7)
  checked (.bfxN g d a b)
/-- BFI: the fields of its word (R204). -/
def decBfi (iw _ : Nat) : Option Instr := do
  let g := Fin.ofNat 8 (bits iw 21 3)
  let d ← vreg? (bits iw 14 7)
  let a ← src? (bits iw 7 7)
  let b ← src? (bits iw 0 7)
  checked (.bfi g d a b)
/-- POPC: the fields of its word (R202). -/
def decPopc (iw _ : Nat) : Option Instr := do
  guard (bits iw 0 7 == 0)
  let g := Fin.ofNat 8 (bits iw 21 3)
  let d ← vreg? (bits iw 14 7)
  let a ← src? (bits iw 7 7)
  checked (.popc g d a)
/-- CLZ: the fields of its word (R202). -/
def decClz (iw _ : Nat) : Option Instr := do
  guard (bits iw 0 7 == 0)
  let g := Fin.ofNat 8 (bits iw 21 3)
  let d ← vreg? (bits iw 14 7)
  let a ← src? (bits iw 7 7)
  checked (.clz g d a)
/-- BREV: the fields of its word (R202). -/
def decBrev (iw _ : Nat) : Option Instr := do
  guard (bits iw 0 7 == 0)
  let g := Fin.ofNat 8 (bits iw 21 3)
  let d ← vreg? (bits iw 14 7)
  let a ← src? (bits iw 7 7)
  checked (.brev g d a)
/-- MOV: the fields of its word (R202). -/
def decMov (iw _ : Nat) : Option Instr := do
  guard (bits iw 0 7 == 0)
  let g := Fin.ofNat 8 (bits iw 21 3)
  let d ← vreg? (bits iw 14 7)
  let a ← src? (bits iw 7 7)
  checked (.mov g d a)
/-- MOVI: the fields of its word (R202). -/
def decMovi (iw il : Nat) : Option Instr := do
  guard (bits iw 7 7 == 0 && bits iw 0 7 == 0)
  let g := Fin.ofNat 8 (bits iw 21 3)
  let d ← vreg? (bits iw 14 7)
  let lit := BitVec.ofNat 32 il
  checked (.movi g d lit)
/-- ICMP_S: the fields of its word (R206). -/
def decIcmpS (iw _ : Nat) : Option Instr := do
  let g := Fin.ofNat 8 (bits iw 21 3)
  let c ← cond? (bits iw 17 4)
  let p := Fin.ofNat 8 (bits iw 14 3)
  let a ← src? (bits iw 7 7)
  let b ← src? (bits iw 0 7)
  checked (.icmpS g c p a b)
/-- ICMP_N: the fields of its word (R206). -/
def decIcmpN (iw _ : Nat) : Option Instr := do
  let g := Fin.ofNat 8 (bits iw 21 3)
  let c ← cond? (bits iw 17 4)
  let p := Fin.ofNat 8 (bits iw 14 3)
  let a ← src? (bits iw 7 7)
  let b ← src? (bits iw 0 7)
  checked (.icmpN g c p a b)
/-- FCMP_F32: the fields of its word (R206). -/
def decFcmpF32 (iw _ : Nat) : Option Instr := do
  let g := Fin.ofNat 8 (bits iw 21 3)
  let c ← cond? (bits iw 17 4)
  let p := Fin.ofNat 8 (bits iw 14 3)
  let a ← src? (bits iw 7 7)
  let b ← src? (bits iw 0 7)
  checked (.fcmpF32 g c p a b)
/-- FCMP_F64: the fields of its word (R206). -/
def decFcmpF64 (iw _ : Nat) : Option Instr := do
  let g := Fin.ofNat 8 (bits iw 21 3)
  let c ← cond? (bits iw 17 4)
  let p := Fin.ofNat 8 (bits iw 14 3)
  let a ← src? (bits iw 7 7)
  let b ← src? (bits iw 0 7)
  checked (.fcmpF64 g c p a b)
/-- ICMPI_S: the fields of its word (R206). -/
def decIcmpiS (iw il : Nat) : Option Instr := do
  guard (bits iw 0 7 == 0)
  let g := Fin.ofNat 8 (bits iw 21 3)
  let c ← cond? (bits iw 17 4)
  let p := Fin.ofNat 8 (bits iw 14 3)
  let a ← src? (bits iw 7 7)
  let lit := BitVec.ofNat 32 il
  checked (.icmpiS g c p a lit)
/-- ICMPI_N: the fields of its word (R206). -/
def decIcmpiN (iw il : Nat) : Option Instr := do
  guard (bits iw 0 7 == 0)
  let g := Fin.ofNat 8 (bits iw 21 3)
  let c ← cond? (bits iw 17 4)
  let p := Fin.ofNat 8 (bits iw 14 3)
  let a ← src? (bits iw 7 7)
  let lit := BitVec.ofNat 32 il
  checked (.icmpiN g c p a lit)
/-- PLOP: the fields of its word (R189). -/
def decPlop (iw _ : Nat) : Option Instr := do
  guard (bits iw 6 1 == 0)
  let g := Fin.ofNat 8 (bits iw 21 3)
  let lut := BitVec.ofNat 8 (bits iw 17 4 * 16 + bits iw 10 4)
  let d := Fin.ofNat 8 (bits iw 14 3)
  let a := Fin.ofNat 8 (bits iw 7 3)
  let b := Fin.ofNat 8 (bits iw 0 3)
  let c := Fin.ofNat 8 (bits iw 3 3)
  checked (.plop g lut d a b c)
/-- PMOV_GET: the fields of its word (R190). -/
def decPmovGet (iw _ : Nat) : Option Instr := do
  guard (bits iw 7 7 == 0 && bits iw 1 6 == 0 && bits iw 0 1 == 0)
  let g := Fin.ofNat 8 (bits iw 21 3)
  let d ← vreg? (bits iw 14 7)
  checked (.pmovGet g d)
/-- PMOV_SET: the fields of its word (R190). -/
def decPmovSet (iw _ : Nat) : Option Instr := do
  guard (bits iw 14 7 == 0 && bits iw 1 6 == 0 && bits iw 0 1 == 1)
  let g := Fin.ofNat 8 (bits iw 21 3)
  let a ← src? (bits iw 7 7)
  checked (.pmovSet g a)
/-- FADD_F32: the fields of its word (R207). -/
def decFaddF32 (iw _ : Nat) : Option Instr := do
  let g := Fin.ofNat 8 (bits iw 21 3)
  let d ← vreg? (bits iw 14 7)
  let a ← src? (bits iw 7 7)
  let b ← src? (bits iw 0 7)
  checked (.faddF32 g d a b)
/-- FSUB_F32: the fields of its word (R207). -/
def decFsubF32 (iw _ : Nat) : Option Instr := do
  let g := Fin.ofNat 8 (bits iw 21 3)
  let d ← vreg? (bits iw 14 7)
  let a ← src? (bits iw 7 7)
  let b ← src? (bits iw 0 7)
  checked (.fsubF32 g d a b)
/-- FMUL_F32: the fields of its word (R207). -/
def decFmulF32 (iw _ : Nat) : Option Instr := do
  let g := Fin.ofNat 8 (bits iw 21 3)
  let d ← vreg? (bits iw 14 7)
  let a ← src? (bits iw 7 7)
  let b ← src? (bits iw 0 7)
  checked (.fmulF32 g d a b)
/-- FFMA_F32: the fields of its word (R207). -/
def decFfmaF32 (iw _ : Nat) : Option Instr := do
  let g := Fin.ofNat 8 (bits iw 21 3)
  let d ← vreg? (bits iw 14 7)
  let a ← src? (bits iw 7 7)
  let b ← src? (bits iw 0 7)
  checked (.ffmaF32 g d a b)
/-- FMIN_F32: the fields of its word (R208). -/
def decFminF32 (iw _ : Nat) : Option Instr := do
  let g := Fin.ofNat 8 (bits iw 21 3)
  let d ← vreg? (bits iw 14 7)
  let a ← src? (bits iw 7 7)
  let b ← src? (bits iw 0 7)
  checked (.fminF32 g d a b)
/-- FMAX_F32: the fields of its word (R208). -/
def decFmaxF32 (iw _ : Nat) : Option Instr := do
  let g := Fin.ofNat 8 (bits iw 21 3)
  let d ← vreg? (bits iw 14 7)
  let a ← src? (bits iw 7 7)
  let b ← src? (bits iw 0 7)
  checked (.fmaxF32 g d a b)
/-- FADDI_F32: the fields of its word (R207). -/
def decFaddiF32 (iw il : Nat) : Option Instr := do
  guard (bits iw 0 7 == 0)
  let g := Fin.ofNat 8 (bits iw 21 3)
  let d ← vreg? (bits iw 14 7)
  let a ← src? (bits iw 7 7)
  let lit := BitVec.ofNat 32 il
  checked (.faddiF32 g d a lit)
/-- FMULI_F32: the fields of its word (R207). -/
def decFmuliF32 (iw il : Nat) : Option Instr := do
  guard (bits iw 0 7 == 0)
  let g := Fin.ofNat 8 (bits iw 21 3)
  let d ← vreg? (bits iw 14 7)
  let a ← src? (bits iw 7 7)
  let lit := BitVec.ofNat 32 il
  checked (.fmuliF32 g d a lit)
/-- FADD_F16X2: the fields of its word (R207). -/
def decFaddF16x2 (iw _ : Nat) : Option Instr := do
  let g := Fin.ofNat 8 (bits iw 21 3)
  let d ← vreg? (bits iw 14 7)
  let a ← src? (bits iw 7 7)
  let b ← src? (bits iw 0 7)
  checked (.faddF16x2 g d a b)
/-- FMUL_F16X2: the fields of its word (R207). -/
def decFmulF16x2 (iw _ : Nat) : Option Instr := do
  let g := Fin.ofNat 8 (bits iw 21 3)
  let d ← vreg? (bits iw 14 7)
  let a ← src? (bits iw 7 7)
  let b ← src? (bits iw 0 7)
  checked (.fmulF16x2 g d a b)
/-- FFMA_F16X2: the fields of its word (R207). -/
def decFfmaF16x2 (iw _ : Nat) : Option Instr := do
  let g := Fin.ofNat 8 (bits iw 21 3)
  let d ← vreg? (bits iw 14 7)
  let a ← src? (bits iw 7 7)
  let b ← src? (bits iw 0 7)
  checked (.ffmaF16x2 g d a b)
/-- FMIN_F16X2: the fields of its word (R208). -/
def decFminF16x2 (iw _ : Nat) : Option Instr := do
  let g := Fin.ofNat 8 (bits iw 21 3)
  let d ← vreg? (bits iw 14 7)
  let a ← src? (bits iw 7 7)
  let b ← src? (bits iw 0 7)
  checked (.fminF16x2 g d a b)
/-- FADD_BF16X2: the fields of its word (R207). -/
def decFaddBf16x2 (iw _ : Nat) : Option Instr := do
  let g := Fin.ofNat 8 (bits iw 21 3)
  let d ← vreg? (bits iw 14 7)
  let a ← src? (bits iw 7 7)
  let b ← src? (bits iw 0 7)
  checked (.faddBf16x2 g d a b)
/-- FMUL_BF16X2: the fields of its word (R207). -/
def decFmulBf16x2 (iw _ : Nat) : Option Instr := do
  let g := Fin.ofNat 8 (bits iw 21 3)
  let d ← vreg? (bits iw 14 7)
  let a ← src? (bits iw 7 7)
  let b ← src? (bits iw 0 7)
  checked (.fmulBf16x2 g d a b)
/-- FFMA_BF16X2: the fields of its word (R207). -/
def decFfmaBf16x2 (iw _ : Nat) : Option Instr := do
  let g := Fin.ofNat 8 (bits iw 21 3)
  let d ← vreg? (bits iw 14 7)
  let a ← src? (bits iw 7 7)
  let b ← src? (bits iw 0 7)
  checked (.ffmaBf16x2 g d a b)
/-- FMIN_BF16X2: the fields of its word (R208). -/
def decFminBf16x2 (iw _ : Nat) : Option Instr := do
  let g := Fin.ofNat 8 (bits iw 21 3)
  let d ← vreg? (bits iw 14 7)
  let a ← src? (bits iw 7 7)
  let b ← src? (bits iw 0 7)
  checked (.fminBf16x2 g d a b)
/-- FADD_F64: the fields of its word (R207). -/
def decFaddF64 (iw _ : Nat) : Option Instr := do
  let g := Fin.ofNat 8 (bits iw 21 3)
  let d ← vreg? (bits iw 14 7)
  let a ← src? (bits iw 7 7)
  let b ← src? (bits iw 0 7)
  checked (.faddF64 g d a b)
/-- FSUB_F64: the fields of its word (R207). -/
def decFsubF64 (iw _ : Nat) : Option Instr := do
  let g := Fin.ofNat 8 (bits iw 21 3)
  let d ← vreg? (bits iw 14 7)
  let a ← src? (bits iw 7 7)
  let b ← src? (bits iw 0 7)
  checked (.fsubF64 g d a b)
/-- FMUL_F64: the fields of its word (R207). -/
def decFmulF64 (iw _ : Nat) : Option Instr := do
  let g := Fin.ofNat 8 (bits iw 21 3)
  let d ← vreg? (bits iw 14 7)
  let a ← src? (bits iw 7 7)
  let b ← src? (bits iw 0 7)
  checked (.fmulF64 g d a b)
/-- FFMA_F64: the fields of its word (R207). -/
def decFfmaF64 (iw _ : Nat) : Option Instr := do
  let g := Fin.ofNat 8 (bits iw 21 3)
  let d ← vreg? (bits iw 14 7)
  let a ← src? (bits iw 7 7)
  let b ← src? (bits iw 0 7)
  checked (.ffmaF64 g d a b)
/-- FMIN_F64: the fields of its word (R208). -/
def decFminF64 (iw _ : Nat) : Option Instr := do
  let g := Fin.ofNat 8 (bits iw 21 3)
  let d ← vreg? (bits iw 14 7)
  let a ← src? (bits iw 7 7)
  let b ← src? (bits iw 0 7)
  checked (.fminF64 g d a b)
/-- FMAX_F64: the fields of its word (R208). -/
def decFmaxF64 (iw _ : Nat) : Option Instr := do
  let g := Fin.ofNat 8 (bits iw 21 3)
  let d ← vreg? (bits iw 14 7)
  let a ← src? (bits iw 7 7)
  let b ← src? (bits iw 0 7)
  checked (.fmaxF64 g d a b)
/-- FMAX_F16X2: the fields of its word (R208). -/
def decFmaxF16x2 (iw _ : Nat) : Option Instr := do
  let g := Fin.ofNat 8 (bits iw 21 3)
  let d ← vreg? (bits iw 14 7)
  let a ← src? (bits iw 7 7)
  let b ← src? (bits iw 0 7)
  checked (.fmaxF16x2 g d a b)
/-- FMAX_BF16X2: the fields of its word (R208). -/
def decFmaxBf16x2 (iw _ : Nat) : Option Instr := do
  let g := Fin.ofNat 8 (bits iw 21 3)
  let d ← vreg? (bits iw 14 7)
  let a ← src? (bits iw 7 7)
  let b ← src? (bits iw 0 7)
  checked (.fmaxBf16x2 g d a b)
/-- FRCP: the fields of its word (R209). -/
def decFrcp (iw _ : Nat) : Option Instr := do
  guard (bits iw 0 7 == 0)
  let g := Fin.ofNat 8 (bits iw 21 3)
  let d ← vreg? (bits iw 14 7)
  let a ← src? (bits iw 7 7)
  checked (.frcp g d a)
/-- FRSQ: the fields of its word (R209). -/
def decFrsq (iw _ : Nat) : Option Instr := do
  guard (bits iw 0 7 == 0)
  let g := Fin.ofNat 8 (bits iw 21 3)
  let d ← vreg? (bits iw 14 7)
  let a ← src? (bits iw 7 7)
  checked (.frsq g d a)
/-- FSQRT: the fields of its word (R209). -/
def decFsqrt (iw _ : Nat) : Option Instr := do
  guard (bits iw 0 7 == 0)
  let g := Fin.ofNat 8 (bits iw 21 3)
  let d ← vreg? (bits iw 14 7)
  let a ← src? (bits iw 7 7)
  checked (.fsqrt g d a)
/-- FEXP2: the fields of its word (R209). -/
def decFexp2 (iw _ : Nat) : Option Instr := do
  guard (bits iw 0 7 == 0)
  let g := Fin.ofNat 8 (bits iw 21 3)
  let d ← vreg? (bits iw 14 7)
  let a ← src? (bits iw 7 7)
  checked (.fexp2 g d a)
/-- FLOG2: the fields of its word (R209). -/
def decFlog2 (iw _ : Nat) : Option Instr := do
  guard (bits iw 0 7 == 0)
  let g := Fin.ofNat 8 (bits iw 21 3)
  let d ← vreg? (bits iw 14 7)
  let a ← src? (bits iw 7 7)
  checked (.flog2 g d a)
/-- FSIN: the fields of its word (R209). -/
def decFsin (iw _ : Nat) : Option Instr := do
  guard (bits iw 0 7 == 0)
  let g := Fin.ofNat 8 (bits iw 21 3)
  let d ← vreg? (bits iw 14 7)
  let a ← src? (bits iw 7 7)
  checked (.fsin g d a)
/-- FCOS: the fields of its word (R209). -/
def decFcos (iw _ : Nat) : Option Instr := do
  guard (bits iw 0 7 == 0)
  let g := Fin.ofNat 8 (bits iw 21 3)
  let d ← vreg? (bits iw 14 7)
  let a ← src? (bits iw 7 7)
  checked (.fcos g d a)
/-- FTANH: the fields of its word (R209). -/
def decFtanh (iw _ : Nat) : Option Instr := do
  guard (bits iw 0 7 == 0)
  let g := Fin.ofNat 8 (bits iw 21 3)
  let d ← vreg? (bits iw 14 7)
  let a ← src? (bits iw 7 7)
  checked (.ftanh g d a)
/-- CVT_FI: the fields of its word (R210). -/
def decCvtFi (iw _ : Nat) : Option Instr := do
  guard (bits iw 4 1 == 0)
  let g := Fin.ofNat 8 (bits iw 21 3)
  let d ← vreg? (bits iw 14 7)
  let a ← src? (bits iw 7 7)
  let rm := rmode (bits iw 5 2)
  let i := fltTy (bits iw 2 2)
  let o := intTy (bits iw 0 2)
  checked (.cvtFi g d a rm i o)
/-- CVT_IF: the fields of its word (R210). -/
def decCvtIf (iw _ : Nat) : Option Instr := do
  let g := Fin.ofNat 8 (bits iw 21 3)
  let d ← vreg? (bits iw 14 7)
  let a ← src? (bits iw 7 7)
  let rm := rmode (bits iw 5 2)
  let sat := (bits iw 4 1 == 1)
  let i := intTy (bits iw 2 2)
  let o := fltTy (bits iw 0 2)
  checked (.cvtIf g d a rm sat i o)
/-- CVT_FF: the fields of its word (R210). -/
def decCvtFf (iw _ : Nat) : Option Instr := do
  let g := Fin.ofNat 8 (bits iw 21 3)
  let d ← vreg? (bits iw 14 7)
  let a ← src? (bits iw 7 7)
  let rm := rmode (bits iw 5 2)
  let sat := (bits iw 4 1 == 1)
  let i := fltTy (bits iw 2 2)
  let o := fltTy (bits iw 0 2)
  checked (.cvtFf g d a rm sat i o)
/-- CVT_NR: the fields of its word (R211). -/
def decCvtNr (iw _ : Nat) : Option Instr := do
  let g := Fin.ofNat 8 (bits iw 21 3)
  let d ← vreg? (bits iw 14 7)
  let a ← src? (bits iw 7 7)
  let b ← kreg? (bits iw 0 7)
  checked (.cvtNr g d a b)
/-- CVT_WD: the fields of its word (R211). -/
def decCvtWd (iw _ : Nat) : Option Instr := do
  let g := Fin.ofNat 8 (bits iw 21 3)
  let d ← vreg? (bits iw 14 7)
  let a ← src? (bits iw 7 7)
  let b ← kreg? (bits iw 0 7)
  checked (.cvtWd g d a b)
/-- FRND: the fields of its word (R212). -/
def decFrnd (iw _ : Nat) : Option Instr := do
  guard (bits iw 1 4 == 0)
  let g := Fin.ofNat 8 (bits iw 21 3)
  let d ← vreg? (bits iw 14 7)
  let a ← src? (bits iw 7 7)
  let rm := rmode (bits iw 5 2)
  let f64 := (bits iw 0 1 == 1)
  checked (.frnd g d a rm f64)
/-- FLDEXP: the fields of its word (R212). -/
def decFldexp (iw _ : Nat) : Option Instr := do
  let g := Fin.ofNat 8 (bits iw 21 3)
  let d ← vreg? (bits iw 14 7)
  let a ← src? (bits iw 7 7)
  let b ← src? (bits iw 0 7)
  checked (.fldexp g d a b)
/-- SHFL: the fields of its word (R215). -/
def decShfl (iw _ : Nat) : Option Instr := do
  let g := Fin.ofNat 8 (bits iw 21 3)
  let d ← vreg? (bits iw 14 7)
  let a ← src? (bits iw 7 7)
  let b ← src? (bits iw 0 7)
  checked (.shfl g d a b)
/-- SHFLX: the fields of its word (R215). -/
def decShflx (iw _ : Nat) : Option Instr := do
  let g := Fin.ofNat 8 (bits iw 21 3)
  let d ← vreg? (bits iw 14 7)
  let a ← src? (bits iw 7 7)
  let b ← src? (bits iw 0 7)
  checked (.shflx g d a b)
/-- SHFLUP: the fields of its word (R215). -/
def decShflup (iw _ : Nat) : Option Instr := do
  let g := Fin.ofNat 8 (bits iw 21 3)
  let d ← vreg? (bits iw 14 7)
  let a ← src? (bits iw 7 7)
  let b ← src? (bits iw 0 7)
  checked (.shflup g d a b)
/-- SHFLDN: the fields of its word (R215). -/
def decShfldn (iw _ : Nat) : Option Instr := do
  let g := Fin.ofNat 8 (bits iw 21 3)
  let d ← vreg? (bits iw 14 7)
  let a ← src? (bits iw 7 7)
  let b ← src? (bits iw 0 7)
  checked (.shfldn g d a b)
/-- VOTE: the fields of its word (R216). -/
def decVote (iw _ : Nat) : Option Instr := do
  guard (bits iw 17 4 == 0 && bits iw 10 4 == 0 && bits iw 2 5 == 0)
  let g := Fin.ofNat 8 (bits iw 21 3)
  let d := Fin.ofNat 8 (bits iw 14 3)
  let a := Fin.ofNat 8 (bits iw 7 3)
  let m ← voteMode? (bits iw 0 2)
  checked (.vote g d a m)
/-- BALLOT: the fields of its word (R216). -/
def decBallot (iw _ : Nat) : Option Instr := do
  guard (bits iw 10 4 == 0 && bits iw 0 7 == 0)
  let g := Fin.ofNat 8 (bits iw 21 3)
  let d ← kreg? (bits iw 14 7)
  let a := Fin.ofNat 8 (bits iw 7 3)
  checked (.ballot g d a)
/-- LSCAN: the fields of its word (R217). -/
def decLscan (iw _ : Nat) : Option Instr := do
  guard (bits iw 0 3 == 0)
  let g := Fin.ofNat 8 (bits iw 21 3)
  let d ← vreg? (bits iw 14 7)
  let a ← src? (bits iw 7 7)
  let o := scanOp (bits iw 4 3)
  let excl := (bits iw 3 1 == 1)
  checked (.lscan g d a o excl)
/-- LRED: the fields of its word (R217). -/
def decLred (iw _ : Nat) : Option Instr := do
  guard (bits iw 0 4 == 0)
  let g := Fin.ofNat 8 (bits iw 21 3)
  let d ← kreg? (bits iw 14 7)
  let a ← src? (bits iw 7 7)
  let o := scanOp (bits iw 4 3)
  checked (.lred g d a o)
/-- SREAD_V: the fields of its word (R183). -/
def decSreadV (iw _ : Nat) : Option Instr := do
  guard (bits iw 0 7 == 0)
  let g := Fin.ofNat 8 (bits iw 21 3)
  let d ← vreg? (bits iw 14 7)
  let a ← sreg? (bits iw 7 7)
  checked (.sreadV g d a)
/-- MATCH: the fields of its word (R216). -/
def decMatchLanes (iw _ : Nat) : Option Instr := do
  guard (bits iw 0 7 == 0)
  let g := Fin.ofNat 8 (bits iw 21 3)
  let d ← vreg? (bits iw 14 7)
  let a ← src? (bits iw 7 7)
  checked (.matchLanes g d a)
/-- IABS: the fields of its word (R202). -/
def decIabs (iw _ : Nat) : Option Instr := do
  guard (bits iw 0 7 == 0)
  let g := Fin.ofNat 8 (bits iw 21 3)
  let d ← vreg? (bits iw 14 7)
  let a ← src? (bits iw 7 7)
  checked (.iabs g d a)
/-- ARD: the fields of its word (R243). -/
def decArd (iw _ : Nat) : Option Instr := do
  guard (bits iw 11 3 == 0 && bits iw 2 5 == 0)
  let g := Fin.ofNat 8 (bits iw 21 3)
  let d ← vreg? (bits iw 14 7)
  let t := BitVec.ofNat 4 (bits iw 7 4)
  let q := BitVec.ofNat 2 (bits iw 0 2)
  checked (.ard g d t q)
/-- AWR: the fields of its word (R243). -/
def decAwr (iw _ : Nat) : Option Instr := do
  guard (bits iw 14 3 == 0 && bits iw 2 5 == 0)
  let g := Fin.ofNat 8 (bits iw 21 3)
  let t := BitVec.ofNat 4 (bits iw 17 4)
  let a ← vreg? (bits iw 7 7)
  let q := BitVec.ofNat 2 (bits iw 0 2)
  checked (.awr g t a q)
/-- BRA: the fields of its word (R192). -/
def decBra (iw _ : Nat) : Option Instr := do
  let g := Fin.ofNat 8 (bits iw 21 3)
  let o := BitVec.ofNat 19 (bits iw 2 19)
  let w := (bits iw 1 1 == 1)
  let u := (bits iw 0 1 == 1)
  checked (.bra g o w u)
/-- BRAL: the fields of its word (R192). -/
def decBral (iw il : Nat) : Option Instr := do
  guard (bits iw 14 7 == 0 && bits iw 7 7 == 0 && bits iw 2 5 == 0)
  let g := Fin.ofNat 8 (bits iw 21 3)
  let w := (bits iw 1 1 == 1)
  let u := (bits iw 0 1 == 1)
  let lit := BitVec.ofNat 32 il
  checked (.bral g w u lit)
/-- BRX: the fields of its word (R192). -/
def decBrx (iw _ : Nat) : Option Instr := do
  guard (bits iw 14 7 == 0 && bits iw 2 5 == 0)
  let g := Fin.ofNat 8 (bits iw 21 3)
  let a ← src? (bits iw 7 7)
  let w := (bits iw 1 1 == 1)
  let u := (bits iw 0 1 == 1)
  checked (.brx g a w u)
/-- CALL: the fields of its word (R192). -/
def decCall (iw _ : Nat) : Option Instr := do
  let g := Fin.ofNat 8 (bits iw 21 3)
  let d ← vreg? (bits iw 14 7)
  let o := BitVec.ofNat 13 (bits iw 1 13)
  let u := (bits iw 0 1 == 1)
  checked (.call g d o u)
/-- CALLX: the fields of its word (R192). -/
def decCallx (iw _ : Nat) : Option Instr := do
  guard (bits iw 1 6 == 0)
  let g := Fin.ofNat 8 (bits iw 21 3)
  let d ← vreg? (bits iw 14 7)
  let a ← src? (bits iw 7 7)
  let u := (bits iw 0 1 == 1)
  checked (.callx g d a u)
/-- RET: the fields of its word (R192). -/
def decRet (iw _ : Nat) : Option Instr := do
  guard (bits iw 14 7 == 0 && bits iw 1 6 == 0)
  let g := Fin.ofNat 8 (bits iw 21 3)
  let a ← src? (bits iw 7 7)
  let u := (bits iw 0 1 == 1)
  checked (.ret g a u)
/-- EXIT: the fields of its word (R193). -/
def decExit (iw _ : Nat) : Option Instr := do
  guard (bits iw 0 21 == 0)
  let g := Fin.ofNat 8 (bits iw 21 3)
  checked (.exit g)
/-- TRAP: the fields of its word (R332). -/
def decTrap (iw _ : Nat) : Option Instr := do
  guard (bits iw 14 7 == 0)
  let g := Fin.ofNat 8 (bits iw 21 3)
  let c := BitVec.ofNat 14 (bits iw 0 14)
  checked (.trap g c)
/-- LD: the fields of its word (R150). -/
def decLd (iw il : Nat) : Option Instr := do
  guard (bits il 6 2 == 0)
  let g := Fin.ofNat 8 (bits iw 21 3)
  let d ← vreg? (bits iw 14 7)
  let m ← laneMem? iw il
  let sz ← memSize? (bits il 0 3)
  let sx := (bits il 3 1 == 1)
  let h ← hint? (bits il 4 2)
  checked (.ld g d m sz sx h)
/-- ST: the fields of its word (R152). -/
def decSt (iw il : Nat) : Option Instr := do
  guard (bits il 6 2 == 0 && bits il 3 1 == 0)
  let g := Fin.ofNat 8 (bits iw 21 3)
  let d ← src? (bits iw 14 7)
  let m ← laneMem? iw il
  let sz ← memSize? (bits il 0 3)
  let h ← hint? (bits il 4 2)
  checked (.st g d m sz h)
/-- PREF: the fields of its word (R153). -/
def decPref (iw il : Nat) : Option Instr := do
  guard (bits iw 14 7 == 0 && bits il 2 6 == 0)
  let g := Fin.ofNat 8 (bits iw 21 3)
  let m ← laneMem? iw il
  let lv ← prefLevel? (bits il 0 2)
  checked (.pref g m lv)
/-- ATOM_O: the fields of its word (R251). -/
def decAtomO (iw il : Nat) : Option Instr := do
  let g := Fin.ofNat 8 (bits iw 21 3)
  let d ← vreg? (bits iw 14 7)
  let m ← laneMem? iw il
  let sc ← scope? (bits il 5 3)
  let o ← atomOp? (bits il 1 4)
  let s64 := (bits il 0 1 == 1)
  checked (.atomO g d m sc o s64)
/-- ATOM_U: the fields of its word (R251). -/
def decAtomU (iw il : Nat) : Option Instr := do
  let g := Fin.ofNat 8 (bits iw 21 3)
  let d ← vreg? (bits iw 14 7)
  let m ← laneMem? iw il
  let sc ← scope? (bits il 5 3)
  let o ← atomOp? (bits il 1 4)
  let s64 := (bits il 0 1 == 1)
  checked (.atomU g d m sc o s64)
/-- RED_O: the fields of its word (R251). -/
def decRedO (iw il : Nat) : Option Instr := do
  let g := Fin.ofNat 8 (bits iw 21 3)
  let d ← src? (bits iw 14 7)
  let m ← laneMem? iw il
  let sc ← scope? (bits il 5 3)
  let o ← atomOp? (bits il 1 4)
  let s64 := (bits il 0 1 == 1)
  checked (.redO g d m sc o s64)
/-- RED_U: the fields of its word (R251). -/
def decRedU (iw il : Nat) : Option Instr := do
  let g := Fin.ofNat 8 (bits iw 21 3)
  let d ← src? (bits iw 14 7)
  let m ← laneMem? iw il
  let sc ← scope? (bits il 5 3)
  let o ← atomOp? (bits il 1 4)
  let s64 := (bits il 0 1 == 1)
  checked (.redU g d m sc o s64)
/-- UIADD: the fields of its word (R218). -/
def decUiadd (iw _ : Nat) : Option Instr := do
  let g := Fin.ofNat 8 (bits iw 21 3)
  let d ← kreg? (bits iw 14 7)
  let a ← kreg? (bits iw 7 7)
  let b ← kreg? (bits iw 0 7)
  checked (.uiadd g d a b)
/-- UISUB: the fields of its word (R218). -/
def decUisub (iw _ : Nat) : Option Instr := do
  let g := Fin.ofNat 8 (bits iw 21 3)
  let d ← kreg? (bits iw 14 7)
  let a ← kreg? (bits iw 7 7)
  let b ← kreg? (bits iw 0 7)
  checked (.uisub g d a b)
/-- UIMUL: the fields of its word (R218). -/
def decUimul (iw _ : Nat) : Option Instr := do
  let g := Fin.ofNat 8 (bits iw 21 3)
  let d ← kreg? (bits iw 14 7)
  let a ← kreg? (bits iw 7 7)
  let b ← kreg? (bits iw 0 7)
  checked (.uimul g d a b)
/-- UIMAD: the fields of its word (R218). -/
def decUimad (iw _ : Nat) : Option Instr := do
  let g := Fin.ofNat 8 (bits iw 21 3)
  let d ← kreg? (bits iw 14 7)
  let a ← kreg? (bits iw 7 7)
  let b ← kreg? (bits iw 0 7)
  checked (.uimad g d a b)
/-- UIADDI: the fields of its word (R218). -/
def decUiaddi (iw il : Nat) : Option Instr := do
  guard (bits iw 0 7 == 0)
  let g := Fin.ofNat 8 (bits iw 21 3)
  let d ← kreg? (bits iw 14 7)
  let a ← kreg? (bits iw 7 7)
  let lit := BitVec.ofNat 32 il
  checked (.uiaddi g d a lit)
/-- UIADD64: the fields of its word (R218). -/
def decUiadd64 (iw _ : Nat) : Option Instr := do
  let g := Fin.ofNat 8 (bits iw 21 3)
  let d ← kreg? (bits iw 14 7)
  let a ← kreg? (bits iw 7 7)
  let b ← kreg? (bits iw 0 7)
  checked (.uiadd64 g d a b)
/-- UMOV: the fields of its word (R218). -/
def decUmov (iw _ : Nat) : Option Instr := do
  guard (bits iw 0 7 == 0)
  let g := Fin.ofNat 8 (bits iw 21 3)
  let d ← kreg? (bits iw 14 7)
  let a ← kreg? (bits iw 7 7)
  checked (.umov g d a)
/-- UMOVI: the fields of its word (R218). -/
def decUmovi (iw il : Nat) : Option Instr := do
  guard (bits iw 7 7 == 0 && bits iw 0 7 == 0)
  let g := Fin.ofNat 8 (bits iw 21 3)
  let d ← kreg? (bits iw 14 7)
  let lit := BitVec.ofNat 32 il
  checked (.umovi g d lit)
/-- UAND: the fields of its word (R218). -/
def decUand (iw _ : Nat) : Option Instr := do
  let g := Fin.ofNat 8 (bits iw 21 3)
  let d ← kreg? (bits iw 14 7)
  let a ← kreg? (bits iw 7 7)
  let b ← kreg? (bits iw 0 7)
  checked (.uand g d a b)
/-- UOR: the fields of its word (R218). -/
def decUor (iw _ : Nat) : Option Instr := do
  let g := Fin.ofNat 8 (bits iw 21 3)
  let d ← kreg? (bits iw 14 7)
  let a ← kreg? (bits iw 7 7)
  let b ← kreg? (bits iw 0 7)
  checked (.uor g d a b)
/-- UXOR: the fields of its word (R218). -/
def decUxor (iw _ : Nat) : Option Instr := do
  let g := Fin.ofNat 8 (bits iw 21 3)
  let d ← kreg? (bits iw 14 7)
  let a ← kreg? (bits iw 7 7)
  let b ← kreg? (bits iw 0 7)
  checked (.uxor g d a b)
/-- USHL: the fields of its word (R218). -/
def decUshl (iw _ : Nat) : Option Instr := do
  let g := Fin.ofNat 8 (bits iw 21 3)
  let d ← kreg? (bits iw 14 7)
  let a ← kreg? (bits iw 7 7)
  let b ← kreg? (bits iw 0 7)
  checked (.ushl g d a b)
/-- USHR_N: the fields of its word (R218). -/
def decUshrN (iw _ : Nat) : Option Instr := do
  let g := Fin.ofNat 8 (bits iw 21 3)
  let d ← kreg? (bits iw 14 7)
  let a ← kreg? (bits iw 7 7)
  let b ← kreg? (bits iw 0 7)
  checked (.ushrN g d a b)
/-- USHR_S: the fields of its word (R218). -/
def decUshrS (iw _ : Nat) : Option Instr := do
  let g := Fin.ofNat 8 (bits iw 21 3)
  let d ← kreg? (bits iw 14 7)
  let a ← kreg? (bits iw 7 7)
  let b ← kreg? (bits iw 0 7)
  checked (.ushrS g d a b)
/-- UICMP_S: the fields of its word (R218). -/
def decUicmpS (iw _ : Nat) : Option Instr := do
  let g := Fin.ofNat 8 (bits iw 21 3)
  let c ← cond? (bits iw 17 4)
  let p := Fin.ofNat 8 (bits iw 14 3)
  let a ← kreg? (bits iw 7 7)
  let b ← kreg? (bits iw 0 7)
  checked (.uicmpS g c p a b)
/-- UICMP_N: the fields of its word (R218). -/
def decUicmpN (iw _ : Nat) : Option Instr := do
  let g := Fin.ofNat 8 (bits iw 21 3)
  let c ← cond? (bits iw 17 4)
  let p := Fin.ofNat 8 (bits iw 14 3)
  let a ← kreg? (bits iw 7 7)
  let b ← kreg? (bits iw 0 7)
  checked (.uicmpN g c p a b)
/-- UPLOP: the fields of its word (R189). -/
def decUplop (iw _ : Nat) : Option Instr := do
  guard (bits iw 6 1 == 0)
  let g := Fin.ofNat 8 (bits iw 21 3)
  let lut := BitVec.ofNat 8 (bits iw 17 4 * 16 + bits iw 10 4)
  let d := Fin.ofNat 8 (bits iw 14 3)
  let a := Fin.ofNat 8 (bits iw 7 3)
  let b := Fin.ofNat 8 (bits iw 0 3)
  let c := Fin.ofNat 8 (bits iw 3 3)
  checked (.uplop g lut d a b c)
/-- UFADD: the fields of its word (R218). -/
def decUfadd (iw _ : Nat) : Option Instr := do
  let g := Fin.ofNat 8 (bits iw 21 3)
  let d ← kreg? (bits iw 14 7)
  let a ← kreg? (bits iw 7 7)
  let b ← kreg? (bits iw 0 7)
  checked (.ufadd g d a b)
/-- UFMUL: the fields of its word (R218). -/
def decUfmul (iw _ : Nat) : Option Instr := do
  let g := Fin.ofNat 8 (bits iw 21 3)
  let d ← kreg? (bits iw 14 7)
  let a ← kreg? (bits iw 7 7)
  let b ← kreg? (bits iw 0 7)
  checked (.ufmul g d a b)
/-- UFFMA: the fields of its word (R218). -/
def decUffma (iw _ : Nat) : Option Instr := do
  let g := Fin.ofNat 8 (bits iw 21 3)
  let d ← kreg? (bits iw 14 7)
  let a ← kreg? (bits iw 7 7)
  let b ← kreg? (bits iw 0 7)
  checked (.uffma g d a b)
/-- UFCMP: the fields of its word (R218). -/
def decUfcmp (iw _ : Nat) : Option Instr := do
  let g := Fin.ofNat 8 (bits iw 21 3)
  let c ← cond? (bits iw 17 4)
  let p := Fin.ofNat 8 (bits iw 14 3)
  let a ← kreg? (bits iw 7 7)
  let b ← kreg? (bits iw 0 7)
  checked (.ufcmp g c p a b)
/-- SREAD_K: the fields of its word (R183). -/
def decSreadK (iw _ : Nat) : Option Instr := do
  guard (bits iw 0 7 == 0)
  let g := Fin.ofNat 8 (bits iw 21 3)
  let d ← kreg? (bits iw 14 7)
  let a ← sreg? (bits iw 7 7)
  checked (.sreadK g d a)
/-- UBFX: the fields of its word (R218). -/
def decUbfx (iw _ : Nat) : Option Instr := do
  let g := Fin.ofNat 8 (bits iw 21 3)
  let d ← kreg? (bits iw 14 7)
  let a ← kreg? (bits iw 7 7)
  let b ← kreg? (bits iw 0 7)
  checked (.ubfx g d a b)
/-- UNOP: the fields of its word (R195). -/
def decUnop (iw _ : Nat) : Option Instr := do
  guard (bits iw 0 21 == 0)
  let g := Fin.ofNat 8 (bits iw 21 3)
  checked (.unop g)
/-- UBRA: the fields of its word (R195). -/
def decUbra (iw _ : Nat) : Option Instr := do
  guard (bits iw 1 1 == 0)
  let g := Fin.ofNat 8 (bits iw 21 3)
  let o := BitVec.ofNat 19 (bits iw 2 19)
  let u := (bits iw 0 1 == 1)
  checked (.ubra g o u)
/-- UBRAL: the fields of its word (R195). -/
def decUbral (iw il : Nat) : Option Instr := do
  guard (bits iw 1 20 == 0)
  let g := Fin.ofNat 8 (bits iw 21 3)
  let u := (bits iw 0 1 == 1)
  let lit := BitVec.ofNat 32 il
  checked (.ubral g u lit)
/-- YIELD: the fields of its word (R196). -/
def decYield (iw _ : Nat) : Option Instr := do
  guard (bits iw 0 21 == 0)
  let g := Fin.ofNat 8 (bits iw 21 3)
  checked (.yield g)
/-- TRET_RETRY: the fields of its word (R333). -/
def decTretRetry (iw _ : Nat) : Option Instr := do
  guard (bits iw 2 19 == 0 && bits iw 0 2 == 0)
  let g := Fin.ofNat 8 (bits iw 21 3)
  checked (.tretRetry g)
/-- TRET_SKIP: the fields of its word (R333). -/
def decTretSkip (iw _ : Nat) : Option Instr := do
  guard (bits iw 2 19 == 0 && bits iw 0 2 == 1)
  let g := Fin.ofNat 8 (bits iw 21 3)
  checked (.tretSkip g)
/-- UTRAP: the fields of its word (R332). -/
def decUtrap (iw _ : Nat) : Option Instr := do
  guard (bits iw 14 7 == 0)
  let g := Fin.ofNat 8 (bits iw 21 3)
  let c := BitVec.ofNat 14 (bits iw 0 14)
  checked (.utrap g c)
/-- KILL: the fields of its word (R334). -/
def decKill (iw _ : Nat) : Option Instr := do
  guard (bits iw 2 19 == 0 && bits iw 0 2 == 0)
  let g := Fin.ofNat 8 (bits iw 21 3)
  checked (.kill g)
/-- KILL_FAIL: the fields of its word (R334). -/
def decKillFail (iw _ : Nat) : Option Instr := do
  guard (bits iw 2 19 == 0 && bits iw 0 2 == 1)
  let g := Fin.ofNat 8 (bits iw 21 3)
  checked (.killFail g)
/-- KILL_SAVE: the fields of its word (R334). -/
def decKillSave (iw _ : Nat) : Option Instr := do
  guard (bits iw 2 19 == 0 && bits iw 0 2 == 2)
  let g := Fin.ofNat 8 (bits iw 21 3)
  checked (.killSave g)
/-- FENCE: the fields of its word (R272). -/
def decFence (iw _ : Nat) : Option Instr := do
  guard (bits iw 14 7 == 0 && bits iw 7 7 == 0 && bits iw 4 3 == 0)
  let g := Fin.ofNat 8 (bits iw 21 3)
  let eng := (bits iw 3 1 == 1)
  let s ← scope? (bits iw 0 3)
  checked (.fence g eng s)
/-- BINIT: the fields of its word (R131). -/
def decBinit (iw _ : Nat) : Option Instr := do
  guard (bits iw 14 7 == 0)
  let g := Fin.ofNat 8 (bits iw 21 3)
  let a ← kreg? (bits iw 7 7)
  let b ← kreg? (bits iw 0 7)
  checked (.binit g a b)
/-- BARR: the fields of its word (R131). -/
def decBarr (iw _ : Nat) : Option Instr := do
  guard (bits iw 0 7 == 0)
  let g := Fin.ofNat 8 (bits iw 21 3)
  let d ← kreg? (bits iw 14 7)
  let a ← kreg? (bits iw 7 7)
  checked (.barr g d a)
/-- BARRN: the fields of its word (R131). -/
def decBarrn (iw _ : Nat) : Option Instr := do
  let g := Fin.ofNat 8 (bits iw 21 3)
  let d ← kreg? (bits iw 14 7)
  let a ← kreg? (bits iw 7 7)
  let b ← kreg? (bits iw 0 7)
  checked (.barrn g d a b)
/-- BXPCT: the fields of its word (R131). -/
def decBxpct (iw _ : Nat) : Option Instr := do
  guard (bits iw 14 7 == 0)
  let g := Fin.ofNat 8 (bits iw 21 3)
  let a ← kreg? (bits iw 7 7)
  let b ← kreg? (bits iw 0 7)
  checked (.bxpct g a b)
/-- BWAIT: the fields of its word (R131). -/
def decBwait (iw _ : Nat) : Option Instr := do
  guard (bits iw 17 4 == 0)
  let g := Fin.ofNat 8 (bits iw 21 3)
  let d := Fin.ofNat 8 (bits iw 14 3)
  let a ← kreg? (bits iw 7 7)
  let b ← kreg? (bits iw 0 7)
  checked (.bwait g d a b)
/-- TSYNC: the fields of its word (R301). -/
def decTsync (iw _ : Nat) : Option Instr := do
  guard (bits iw 0 21 == 0)
  let g := Fin.ofNat 8 (bits iw 21 3)
  checked (.tsync g)
/-- CSYNC: the fields of its word (R301). -/
def decCsync (iw _ : Nat) : Option Instr := do
  guard (bits iw 0 21 == 0)
  let g := Fin.ofNat 8 (bits iw 21 3)
  checked (.csync g)
/-- CPGS: the fields of its word (R119). -/
def decCpgs (iw _ : Nat) : Option Instr := do
  let g := Fin.ofNat 8 (bits iw 21 3)
  let d ← kreg? (bits iw 14 7)
  let a ← kreg? (bits iw 7 7)
  let b ← kreg? (bits iw 0 7)
  checked (.cpgs g d a b)
/-- CPSG: the fields of its word (R119). -/
def decCpsg (iw _ : Nat) : Option Instr := do
  let g := Fin.ofNat 8 (bits iw 21 3)
  let d ← kreg? (bits iw 14 7)
  let a ← kreg? (bits iw 7 7)
  let b ← kreg? (bits iw 0 7)
  checked (.cpsg g d a b)
/-- CPGG: the fields of its word (R119). -/
def decCpgg (iw _ : Nat) : Option Instr := do
  let g := Fin.ofNat 8 (bits iw 21 3)
  let d ← kreg? (bits iw 14 7)
  let a ← kreg? (bits iw 7 7)
  let b ← kreg? (bits iw 0 7)
  checked (.cpgg g d a b)
/-- CPTR: the fields of its word (R120). -/
def decCptr (iw _ : Nat) : Option Instr := do
  let g := Fin.ofNat 8 (bits iw 21 3)
  let d ← kreg? (bits iw 14 7)
  let a ← kreg? (bits iw 7 7)
  let b ← kreg? (bits iw 0 7)
  checked (.cptr g d a b)
/-- CPGA: the fields of its word (R120). -/
def decCpga (iw _ : Nat) : Option Instr := do
  let g := Fin.ofNat 8 (bits iw 21 3)
  let d ← kreg? (bits iw 14 7)
  let a ← kreg? (bits iw 7 7)
  let b ← kreg? (bits iw 0 7)
  checked (.cpga g d a b)
/-- CPMC: the fields of its word (R133). -/
def decCpmc (iw _ : Nat) : Option Instr := do
  let g := Fin.ofNat 8 (bits iw 21 3)
  let d ← kreg? (bits iw 14 7)
  let a ← kreg? (bits iw 7 7)
  let b ← kreg? (bits iw 0 7)
  checked (.cpmc g d a b)
/-- CPMCR: the fields of its word (R134). -/
def decCpmcr (iw _ : Nat) : Option Instr := do
  guard (bits iw 0 7 == 0)
  let g := Fin.ofNat 8 (bits iw 21 3)
  let d ← kreg? (bits iw 14 7)
  let a ← kreg? (bits iw 7 7)
  checked (.cpmcr g d a)
/-- CPWAIT: the fields of its word (R135). -/
def decCpwait (iw _ : Nat) : Option Instr := do
  guard (bits iw 2 5 == 0)
  let g := Fin.ofNat 8 (bits iw 21 3)
  let d ← kreg? (bits iw 14 7)
  let a ← kreg? (bits iw 7 7)
  let m ← copyEvent? (bits iw 0 2)
  checked (.cpwait g d a m)
/-- BUFGET: the fields of its word (R124). -/
def decBufget (iw _ : Nat) : Option Instr := do
  guard (bits iw 0 7 == 0)
  let g := Fin.ofNat 8 (bits iw 21 3)
  let d ← kreg? (bits iw 14 7)
  let a ← kreg? (bits iw 7 7)
  checked (.bufget g d a)
/-- BUFPUT: the fields of its word (R124). -/
def decBufput (iw _ : Nat) : Option Instr := do
  guard (bits iw 14 7 == 0 && bits iw 0 7 == 0)
  let g := Fin.ofNat 8 (bits iw 21 3)
  let a ← kreg? (bits iw 7 7)
  checked (.bufput g a)
/-- BUFWAIT: the fields of its word (R124). -/
def decBufwait (iw _ : Nat) : Option Instr := do
  guard (bits iw 14 7 == 0 && bits iw 2 5 == 0)
  let g := Fin.ofNat 8 (bits iw 21 3)
  let a ← kreg? (bits iw 7 7)
  let s ← bufState? (bits iw 0 2)
  checked (.bufwait g a s)
/-- BUFQ: the fields of its word (R124). -/
def decBufq (iw _ : Nat) : Option Instr := do
  guard (bits iw 0 7 == 0)
  let g := Fin.ofNat 8 (bits iw 21 3)
  let d ← kreg? (bits iw 14 7)
  let a ← kreg? (bits iw 7 7)
  checked (.bufq g d a)
/-- SHNEW: the fields of its word (R126). -/
def decShnew (iw _ : Nat) : Option Instr := do
  guard (bits iw 0 7 == 0)
  let g := Fin.ofNat 8 (bits iw 21 3)
  let d ← kreg? (bits iw 14 7)
  let a ← kreg? (bits iw 7 7)
  checked (.shnew g d a)
/-- SHFREE: the fields of its word (R126). -/
def decShfree (iw _ : Nat) : Option Instr := do
  guard (bits iw 14 7 == 0 && bits iw 0 7 == 0)
  let g := Fin.ofNat 8 (bits iw 21 3)
  let a ← kreg? (bits iw 7 7)
  checked (.shfree g a)
/-- HROW_UP: the fields of its word (R66). -/
def decHrowUp (iw _ : Nat) : Option Instr := do
  guard (bits iw 6 1 == 0)
  let g := Fin.ofNat 8 (bits iw 21 3)
  let d ← kreg? (bits iw 14 7)
  let a ← kreg? (bits iw 7 7)
  let n := BitVec.ofNat 6 (bits iw 0 6)
  checked (.hrowUp g d a n)
/-- HROW_DN: the fields of its word (R66). -/
def decHrowDn (iw _ : Nat) : Option Instr := do
  guard (bits iw 6 1 == 0)
  let g := Fin.ofNat 8 (bits iw 21 3)
  let d ← kreg? (bits iw 14 7)
  let a ← kreg? (bits iw 7 7)
  let n := BitVec.ofNat 6 (bits iw 0 6)
  checked (.hrowDn g d a n)
/-- HROW_Q: the fields of its word (R67). -/
def decHrowQ (iw _ : Nat) : Option Instr := do
  guard (bits iw 0 7 == 0)
  let g := Fin.ofNat 8 (bits iw 21 3)
  let d ← kreg? (bits iw 14 7)
  let a ← kreg? (bits iw 7 7)
  checked (.hrowQ g d a)
/-- MMAB: the fields of its word (R228). -/
def decMmab (iw _ : Nat) : Option Instr := do
  guard (bits iw 14 1 == 0)
  let g := Fin.ofNat 8 (bits iw 21 3)
  let t := BitVec.ofNat 4 (bits iw 17 4)
  let c := (bits iw 16 1 == 1)
  let r := (bits iw 15 1 == 1)
  let a ← vreg? (bits iw 7 7)
  let b ← kreg? (bits iw 0 7)
  checked (.mmab g t c r a b)
/-- MMAO: the fields of its word (R228). -/
def decMmao (iw _ : Nat) : Option Instr := do
  guard (bits iw 14 1 == 0)
  let g := Fin.ofNat 8 (bits iw 21 3)
  let t := BitVec.ofNat 4 (bits iw 17 4)
  let c := (bits iw 16 1 == 1)
  let r := (bits iw 15 1 == 1)
  let a ← vreg? (bits iw 7 7)
  let b ← kreg? (bits iw 0 7)
  checked (.mmao g t c r a b)
/-- MMAG: the fields of its word (R228). -/
def decMmag (iw _ : Nat) : Option Instr := do
  guard (bits iw 14 1 == 0)
  let g := Fin.ofNat 8 (bits iw 21 3)
  let t := BitVec.ofNat 4 (bits iw 17 4)
  let c := (bits iw 16 1 == 1)
  let r := (bits iw 15 1 == 1)
  let a ← vreg? (bits iw 7 7)
  let b ← kreg? (bits iw 0 7)
  checked (.mmag g t c r a b)
/-- DMMA: the fields of its word (R228). -/
def decDmma (iw _ : Nat) : Option Instr := do
  let g := Fin.ofNat 8 (bits iw 21 3)
  let t := BitVec.ofNat 4 (bits iw 17 4)
  let c := (bits iw 16 1 == 1)
  let r := (bits iw 15 1 == 1)
  let ob := (bits iw 14 1 == 1)
  let a ← vreg? (bits iw 7 7)
  let b ← kreg? (bits iw 0 7)
  checked (.dmma g t c r ob a b)
/-- ACLR: the fields of its word (R243). -/
def decAclr (iw _ : Nat) : Option Instr := do
  guard (bits iw 14 3 == 0 && bits iw 7 7 == 0 && bits iw 4 3 == 0)
  let g := Fin.ofNat 8 (bits iw 21 3)
  let t := BitVec.ofNat 4 (bits iw 17 4)
  let n := BitVec.ofNat 4 (bits iw 0 4)
  checked (.aclr g t n)
/-- ALD: the fields of its word (R243). -/
def decAld (iw _ : Nat) : Option Instr := do
  guard (bits iw 14 3 == 0)
  let g := Fin.ofNat 8 (bits iw 21 3)
  let t := BitVec.ofNat 4 (bits iw 17 4)
  let a ← kreg? (bits iw 7 7)
  let b ← kreg? (bits iw 0 7)
  checked (.ald g t a b)
/-- AST: the fields of its word (R243). -/
def decAst (iw _ : Nat) : Option Instr := do
  guard (bits iw 14 3 == 0)
  let g := Fin.ofNat 8 (bits iw 21 3)
  let t := BitVec.ofNat 4 (bits iw 17 4)
  let a ← kreg? (bits iw 7 7)
  let b ← kreg? (bits iw 0 7)
  checked (.ast g t a b)
/-- OBRES: the fields of its word (R233). -/
def decObres (iw _ : Nat) : Option Instr := do
  guard (bits iw 0 7 == 0)
  let g := Fin.ofNat 8 (bits iw 21 3)
  let d ← kreg? (bits iw 14 7)
  let a ← kreg? (bits iw 7 7)
  checked (.obres g d a)
/-- OBFREE: the fields of its word (R233). -/
def decObfree (iw _ : Nat) : Option Instr := do
  guard (bits iw 14 7 == 0 && bits iw 0 7 == 0)
  let g := Fin.ofNat 8 (bits iw 21 3)
  let a ← kreg? (bits iw 7 7)
  checked (.obfree g a)
/-- OBLD: the fields of its word (R233). -/
def decObld (iw _ : Nat) : Option Instr := do
  guard (bits iw 0 7 == 0)
  let g := Fin.ofNat 8 (bits iw 21 3)
  let d ← kreg? (bits iw 14 7)
  let a ← kreg? (bits iw 7 7)
  checked (.obld g d a)
/-- RSALLOC: the fields of its word (R239). -/
def decRsalloc (iw _ : Nat) : Option Instr := do
  guard (bits iw 0 7 == 0)
  let g := Fin.ofNat 8 (bits iw 21 3)
  let d ← kreg? (bits iw 14 7)
  let a ← kreg? (bits iw 7 7)
  checked (.rsalloc g d a)
/-- RSFILL: the fields of its word (R236). -/
def decRsfill (iw _ : Nat) : Option Instr := do
  guard (bits iw 14 7 == 0 && bits iw 0 7 == 0)
  let g := Fin.ofNat 8 (bits iw 21 3)
  let a ← kreg? (bits iw 7 7)
  checked (.rsfill g a)
/-- RSPIN: the fields of its word (R239). -/
def decRspin (iw _ : Nat) : Option Instr := do
  guard (bits iw 14 7 == 0 && bits iw 0 7 == 0)
  let g := Fin.ofNat 8 (bits iw 21 3)
  let a ← kreg? (bits iw 7 7)
  checked (.rspin g a)
/-- RSUNPIN: the fields of its word (R239). -/
def decRsunpin (iw _ : Nat) : Option Instr := do
  guard (bits iw 14 7 == 0 && bits iw 0 7 == 0)
  let g := Fin.ofNat 8 (bits iw 21 3)
  let a ← kreg? (bits iw 7 7)
  checked (.rsunpin g a)
/-- RSREV: the fields of its word (R236). -/
def decRsrev (iw _ : Nat) : Option Instr := do
  guard (bits iw 14 7 == 0 && bits iw 0 7 == 0)
  let g := Fin.ofNat 8 (bits iw 21 3)
  let a ← kreg? (bits iw 7 7)
  checked (.rsrev g a)
/-- RSQ: the fields of its word (R239). -/
def decRsq (iw _ : Nat) : Option Instr := do
  guard (bits iw 0 7 == 0)
  let g := Fin.ofNat 8 (bits iw 21 3)
  let d ← kreg? (bits iw 14 7)
  let a ← kreg? (bits iw 7 7)
  checked (.rsq g d a)
/-- CTAB_WR: the fields of its word (R241). -/
def decCtabWr (iw _ : Nat) : Option Instr := do
  guard (bits iw 14 7 == 0 && bits iw 1 6 == 0)
  let g := Fin.ofNat 8 (bits iw 21 3)
  let a ← kreg? (bits iw 7 7)
  let q8 := (bits iw 0 1 == 1)
  checked (.ctabWr g a q8)
/-- CTAB_SWAP: the fields of its word (R241). -/
def decCtabSwap (iw _ : Nat) : Option Instr := do
  guard (bits iw 14 7 == 0 && bits iw 7 7 == 0 && bits iw 2 5 == 0)
  let g := Fin.ofNat 8 (bits iw 21 3)
  let s ← tableSel? (bits iw 0 2)
  checked (.ctabSwap g s)
/-- CTAB_RD: the fields of its word (R241). -/
def decCtabRd (iw _ : Nat) : Option Instr := do
  guard (bits iw 3 4 == 0)
  let g := Fin.ofNat 8 (bits iw 21 3)
  let d ← kreg? (bits iw 14 7)
  let a ← kreg? (bits iw 7 7)
  let gen := (bits iw 2 1 == 1)
  let shadow := (bits iw 1 1 == 1)
  let q8 := (bits iw 0 1 == 1)
  checked (.ctabRd g d a gen shadow q8)
/-- LAUNCH: the fields of its word (R296). -/
def decLaunch (iw _ : Nat) : Option Instr := do
  guard (bits iw 14 7 == 0 && bits iw 0 7 == 0)
  let g := Fin.ofNat 8 (bits iw 21 3)
  let a ← kreg? (bits iw 7 7)
  checked (.launch g a)
/-- LAUNCH_NB: the fields of its word (R296). -/
def decLaunchNb (iw _ : Nat) : Option Instr := do
  guard (bits iw 17 4 == 0 && bits iw 0 7 == 0)
  let g := Fin.ofNat 8 (bits iw 21 3)
  let d := Fin.ofNat 8 (bits iw 14 3)
  let a ← kreg? (bits iw 7 7)
  checked (.launchNb g d a)
/-- LWAIT: the fields of its word (R299). -/
def decLwait (iw _ : Nat) : Option Instr := do
  guard (bits iw 17 4 == 0)
  let g := Fin.ofNat 8 (bits iw 21 3)
  let d := Fin.ofNat 8 (bits iw 14 3)
  let a ← kreg? (bits iw 7 7)
  let b ← kreg? (bits iw 0 7)
  checked (.lwait g d a b)
/-- LPOLL: the fields of its word (R299). -/
def decLpoll (iw _ : Nat) : Option Instr := do
  guard (bits iw 0 7 == 0)
  let g := Fin.ofNat 8 (bits iw 21 3)
  let d ← kreg? (bits iw 14 7)
  let a ← kreg? (bits iw 7 7)
  checked (.lpoll g d a)
/-- SPUR_FORK: the fields of its word (R317). -/
def decSpurFork (iw _ : Nat) : Option Instr := do
  guard (bits iw 0 7 == 0)
  let g := Fin.ofNat 8 (bits iw 21 3)
  let d ← kreg? (bits iw 14 7)
  let a ← kreg? (bits iw 7 7)
  checked (.spurFork g d a)
/-- SPUR_JOIN: the fields of its word (R318). -/
def decSpurJoin (iw _ : Nat) : Option Instr := do
  guard (bits iw 17 4 == 0)
  let g := Fin.ofNat 8 (bits iw 21 3)
  let d := Fin.ofNat 8 (bits iw 14 3)
  let a ← kreg? (bits iw 7 7)
  let b ← kreg? (bits iw 0 7)
  checked (.spurJoin g d a b)
/-- SPUR_CANCEL: the fields of its word (R319). -/
def decSpurCancel (iw _ : Nat) : Option Instr := do
  guard (bits iw 0 7 == 0)
  let g := Fin.ofNat 8 (bits iw 21 3)
  let d ← kreg? (bits iw 14 7)
  let a ← kreg? (bits iw 7 7)
  checked (.spurCancel g d a)
/-- SPUR_Q: the fields of its word (R322). -/
def decSpurQ (iw _ : Nat) : Option Instr := do
  guard (bits iw 0 7 == 0)
  let g := Fin.ofNat 8 (bits iw 21 3)
  let d ← kreg? (bits iw 14 7)
  let a ← kreg? (bits iw 7 7)
  checked (.spurQ g d a)
/-- SYSRD: the fields of its word (R336). -/
def decSysrd (iw _ : Nat) : Option Instr := do
  guard (bits iw 0 7 == 0)
  let g := Fin.ofNat 8 (bits iw 21 3)
  let d ← kreg? (bits iw 14 7)
  let a ← sysReg? (bits iw 7 7)
  checked (.sysrd g d a)
/-- SYSWR: the fields of its word (R336). -/
def decSyswr (iw _ : Nat) : Option Instr := do
  guard (bits iw 14 7 == 0)
  let g := Fin.ofNat 8 (bits iw 21 3)
  let a ← sysReg? (bits iw 7 7)
  let b ← kreg? (bits iw 0 7)
  checked (.syswr g a b)
/-- XPROBE: the fields of its word (R100). -/
def decXprobe (iw _ : Nat) : Option Instr := do
  let g := Fin.ofNat 8 (bits iw 21 3)
  let d ← kreg? (bits iw 14 7)
  let a ← kreg? (bits iw 7 7)
  let b ← kreg? (bits iw 0 7)
  checked (.xprobe g d a b)
/-- XINVAL: the fields of its word (R103). -/
def decXinval (iw _ : Nat) : Option Instr := do
  guard (bits iw 16 5 == 0)
  let g := Fin.ofNat 8 (bits iw 21 3)
  let e ← granule? (bits iw 14 2)
  let a ← kreg? (bits iw 7 7)
  let b ← kreg? (bits iw 0 7)
  checked (.xinval g e a b)
/-- CRSET_CONS: the fields of its word (R370). -/
def decCrsetCons (iw _ : Nat) : Option Instr := do
  guard (bits iw 14 7 == 0 && bits iw 9 5 == 0 && bits iw 7 2 == 0)
  let g := Fin.ofNat 8 (bits iw 21 3)
  let b ← kreg? (bits iw 0 7)
  checked (.crsetCons g b)
/-- CRSET_THRESH: the fields of its word (R370). -/
def decCrsetThresh (iw _ : Nat) : Option Instr := do
  guard (bits iw 14 7 == 0 && bits iw 9 5 == 0 && bits iw 7 2 == 1)
  let g := Fin.ofNat 8 (bits iw 21 3)
  let b ← kreg? (bits iw 0 7)
  checked (.crsetThresh g b)
/-- CRSET_PROD: the fields of its word (R370). -/
def decCrsetProd (iw _ : Nat) : Option Instr := do
  guard (bits iw 14 7 == 0 && bits iw 9 5 == 0 && bits iw 7 2 == 2)
  let g := Fin.ofNat 8 (bits iw 21 3)
  let b ← kreg? (bits iw 0 7)
  checked (.crsetProd g b)
/-- CRSET_END: the fields of its word (R370). -/
def decCrsetEnd (iw _ : Nat) : Option Instr := do
  guard (bits iw 14 7 == 0 && bits iw 9 5 == 0 && bits iw 7 2 == 3)
  let g := Fin.ofNat 8 (bits iw 21 3)
  let b ← kreg? (bits iw 0 7)
  checked (.crsetEnd g b)
/-- CRPOS_PROD: the fields of its word (R370). -/
def decCrposProd (iw _ : Nat) : Option Instr := do
  guard (bits iw 9 5 == 0 && bits iw 7 2 == 0 && bits iw 0 7 == 0)
  let g := Fin.ofNat 8 (bits iw 21 3)
  let d ← kreg? (bits iw 14 7)
  checked (.crposProd g d)
/-- CRPOS_CONS: the fields of its word (R370). -/
def decCrposCons (iw _ : Nat) : Option Instr := do
  guard (bits iw 9 5 == 0 && bits iw 7 2 == 1 && bits iw 0 7 == 0)
  let g := Fin.ofNat 8 (bits iw 21 3)
  let d ← kreg? (bits iw 14 7)
  checked (.crposCons g d)
/-- CRPOS_STATUS: the fields of its word (R370). -/
def decCrposStatus (iw _ : Nat) : Option Instr := do
  guard (bits iw 9 5 == 0 && bits iw 7 2 == 2 && bits iw 0 7 == 0)
  let g := Fin.ofNat 8 (bits iw 21 3)
  let d ← kreg? (bits iw 14 7)
  checked (.crposStatus g d)
/-- LMARK: the fields of its word (R369). -/
def decLmark (iw _ : Nat) : Option Instr := do
  guard (bits iw 14 7 == 0)
  let g := Fin.ofNat 8 (bits iw 21 3)
  let a ← kreg? (bits iw 7 7)
  let tag := BitVec.ofNat 7 (bits iw 0 7)
  checked (.lmark g a tag)
/-- ULD: the fields of its word (R150). -/
def decUld (iw il : Nat) : Option Instr := do
  guard (bits il 6 2 == 0)
  let g := Fin.ofNat 8 (bits iw 21 3)
  let d ← kreg? (bits iw 14 7)
  let m ← uniMem? iw il
  let sz ← memSize? (bits il 0 3)
  let sx := (bits il 3 1 == 1)
  let h ← hint? (bits il 4 2)
  checked (.uld g d m sz sx h)
/-- UST: the fields of its word (R152). -/
def decUst (iw il : Nat) : Option Instr := do
  guard (bits il 6 2 == 0 && bits il 3 1 == 0)
  let g := Fin.ofNat 8 (bits iw 21 3)
  let d ← kreg? (bits iw 14 7)
  let m ← uniMem? iw il
  let sz ← memSize? (bits il 0 3)
  let h ← hint? (bits il 4 2)
  checked (.ust g d m sz h)
/-- DVSAVE: the fields of its word (R337). -/
def decDvsave (iw il : Nat) : Option Instr := do
  guard (bits iw 14 7 == 0 && bits il 1 7 == 0)
  let g := Fin.ofNat 8 (bits iw 21 3)
  let m ← uniMem? iw il
  let v95 := (bits il 0 1 == 1)
  checked (.dvsave g m v95)
/-- DVLOAD: the fields of its word (R337). -/
def decDvload (iw il : Nat) : Option Instr := do
  guard (bits iw 14 7 == 0 && bits il 1 7 == 0)
  let g := Fin.ofNat 8 (bits iw 21 3)
  let m ← uniMem? iw il
  let v95 := (bits il 0 1 == 1)
  checked (.dvload g m v95)
/-- Row 0x00 of the lane-set map (R41). -/
def laneRow0 : List (Option (Nat → Nat → Option Instr)) :=
  [none,
   some decIadd,
   some decIsub,
   some decImul,
   some decImulhS,
   some decImulhN,
   some decImad,
   some decIaddi]
/-- Row 0x08 of the lane-set map (R41). -/
def laneRow1 : List (Option (Nat → Nat → Option Instr)) :=
  [some decIminS,
   some decIminN,
   some decImaxS,
   some decImaxN,
   some decIadd64,
   some decIsub64,
   some decImadw,
   some decLeai]
/-- Row 0x10 of the lane-set map (R41). -/
def laneRow2 : List (Option (Nat → Nat → Option Instr)) :=
  [some decAnd,
   some decOr,
   some decXor,
   some decNot,
   some decShl,
   some decShrN,
   some decShrS,
   some decRotl]
/-- Row 0x18 of the lane-set map (R41). -/
def laneRow3 : List (Option (Nat → Nat → Option Instr)) :=
  [some decBfxS,
   some decBfxN,
   some decBfi,
   some decPopc,
   some decClz,
   some decBrev,
   some decMov,
   some decMovi]
/-- Row 0x20 of the lane-set map (R41). -/
def laneRow4 : List (Option (Nat → Nat → Option Instr)) :=
  [some decIcmpS,
   some decIcmpN,
   some decFcmpF32,
   some decFcmpF64,
   some decIcmpiS,
   some decIcmpiN,
   some decPlop,
   some (fun w l => (decPmovGet w l).or (decPmovSet w l))]
/-- Row 0x28 of the lane-set map (R41). -/
def laneRow5 : List (Option (Nat → Nat → Option Instr)) :=
  [some decFaddF32,
   some decFsubF32,
   some decFmulF32,
   some decFfmaF32,
   some decFminF32,
   some decFmaxF32,
   some decFaddiF32,
   some decFmuliF32]
/-- Row 0x30 of the lane-set map (R41). -/
def laneRow6 : List (Option (Nat → Nat → Option Instr)) :=
  [some decFaddF16x2,
   some decFmulF16x2,
   some decFfmaF16x2,
   some decFminF16x2,
   some decFaddBf16x2,
   some decFmulBf16x2,
   some decFfmaBf16x2,
   some decFminBf16x2]
/-- Row 0x38 of the lane-set map (R41). -/
def laneRow7 : List (Option (Nat → Nat → Option Instr)) :=
  [some decFaddF64,
   some decFsubF64,
   some decFmulF64,
   some decFfmaF64,
   some decFminF64,
   some decFmaxF64,
   some decFmaxF16x2,
   some decFmaxBf16x2]
/-- Row 0x40 of the lane-set map (R41). -/
def laneRow8 : List (Option (Nat → Nat → Option Instr)) :=
  [some decFrcp,
   some decFrsq,
   some decFsqrt,
   some decFexp2,
   some decFlog2,
   some decFsin,
   some decFcos,
   some decFtanh]
/-- Row 0x48 of the lane-set map (R41). -/
def laneRow9 : List (Option (Nat → Nat → Option Instr)) :=
  [some decCvtFi,
   some decCvtIf,
   some decCvtFf,
   some decCvtNr,
   some decCvtWd,
   some decFrnd,
   some decFldexp,
   none]
/-- Row 0x50 of the lane-set map (R41). -/
def laneRow10 : List (Option (Nat → Nat → Option Instr)) :=
  [some decShfl,
   some decShflx,
   some decShflup,
   some decShfldn,
   some decVote,
   some decBallot,
   some decLscan,
   some decLred]
/-- Row 0x58 of the lane-set map (R41). -/
def laneRow11 : List (Option (Nat → Nat → Option Instr)) :=
  [some decSreadV,
   some decMatchLanes,
   some decIabs,
   some decArd,
   some decAwr,
   none,
   none,
   none]
/-- Row 0x60 of the lane-set map (R41). -/
def laneRow12 : List (Option (Nat → Nat → Option Instr)) :=
  [some decBra,
   some decBral,
   some decBrx,
   some decCall,
   some decCallx,
   some decRet,
   some decExit,
   some decTrap]
/-- Row 0x68 of the lane-set map (R41). -/
def laneRow13 : List (Option (Nat → Nat → Option Instr)) :=
  [some decLd,
   some decSt,
   some decPref,
   some decAtomO,
   some decAtomU,
   some decRedO,
   some decRedU,
   none]
/-- Row 0x00 of the uniform-set map (R42). -/
def uniRow0 : List (Option (Nat → Nat → Option Instr)) :=
  [some decUiadd,
   some decUisub,
   some decUimul,
   some decUimad,
   some decUiaddi,
   some decUiadd64,
   some decUmov,
   some decUmovi]
/-- Row 0x08 of the uniform-set map (R42). -/
def uniRow1 : List (Option (Nat → Nat → Option Instr)) :=
  [some decUand,
   some decUor,
   some decUxor,
   some decUshl,
   some decUshrN,
   some decUshrS,
   some decUicmpS,
   some decUicmpN]
/-- Row 0x10 of the uniform-set map (R42). -/
def uniRow2 : List (Option (Nat → Nat → Option Instr)) :=
  [some decUplop,
   some decUfadd,
   some decUfmul,
   some decUffma,
   some decUfcmp,
   some decSreadK,
   some decUbfx,
   some decUnop]
/-- Row 0x18 of the uniform-set map (R42). -/
def uniRow3 : List (Option (Nat → Nat → Option Instr)) :=
  [some decUbra,
   some decUbral,
   some decYield,
   some (fun w l => (decTretRetry w l).or (decTretSkip w l)),
   some decUtrap,
   some (fun w l => (decKill w l).or ((fun w l => (decKillFail w l).or (decKillSave w l)) w l)),
   none,
   none]
/-- Row 0x20 of the uniform-set map (R42). -/
def uniRow4 : List (Option (Nat → Nat → Option Instr)) :=
  [some decFence,
   some decBinit,
   some decBarr,
   some decBarrn,
   some decBxpct,
   some decBwait,
   some decTsync,
   some decCsync]
/-- Row 0x28 of the uniform-set map (R42). -/
def uniRow5 : List (Option (Nat → Nat → Option Instr)) :=
  [some decCpgs,
   some decCpsg,
   some decCpgg,
   some decCptr,
   some decCpga,
   some decCpmc,
   some decCpmcr,
   some decCpwait]
/-- Row 0x30 of the uniform-set map (R42). -/
def uniRow6 : List (Option (Nat → Nat → Option Instr)) :=
  [some decBufget,
   some decBufput,
   some decBufwait,
   some decBufq,
   some decShnew,
   some decShfree,
   some decHrowUp,
   some decHrowDn]
/-- Row 0x38 of the uniform-set map (R42). -/
def uniRow7 : List (Option (Nat → Nat → Option Instr)) :=
  [some decHrowQ,
   some decMmab,
   some decMmao,
   some decMmag,
   some decDmma,
   some decAclr,
   some decAld,
   some decAst]
/-- Row 0x40 of the uniform-set map (R42). -/
def uniRow8 : List (Option (Nat → Nat → Option Instr)) :=
  [some decObres,
   some decObfree,
   some decObld,
   some decRsalloc,
   some decRsfill,
   some decRspin,
   some decRsunpin,
   some decRsrev]
/-- Row 0x48 of the uniform-set map (R42). -/
def uniRow9 : List (Option (Nat → Nat → Option Instr)) :=
  [some decRsq,
   some decCtabWr,
   some decCtabSwap,
   some decCtabRd,
   none,
   none,
   none,
   none]
/-- Row 0x50 of the uniform-set map (R42). -/
def uniRow10 : List (Option (Nat → Nat → Option Instr)) :=
  [some decLaunch,
   some decLaunchNb,
   some decLwait,
   some decLpoll,
   some decSpurFork,
   some decSpurJoin,
   some decSpurCancel,
   some decSpurQ]
/-- Row 0x58 of the uniform-set map (R42). -/
def uniRow11 : List (Option (Nat → Nat → Option Instr)) :=
  [some decSysrd,
   some decSyswr,
   some decXprobe,
   some decXinval,
   some (fun w l => (decCrsetCons w l).or ((fun w l => (decCrsetThresh w l).or ((fun w l => (decCrsetProd w l).or (decCrsetEnd w l)) w l)) w l)),
   some (fun w l => (decCrposProd w l).or ((fun w l => (decCrposCons w l).or (decCrposStatus w l)) w l)),
   some decLmark,
   none]
/-- Row 0x60 of the uniform-set map (R42). -/
def uniRow12 : List (Option (Nat → Nat → Option Instr)) :=
  [some decUld,
   some decUst,
   some decDvsave,
   some decDvload,
   none,
   none,
   none,
   none]
/-- The lane-set map, row by row; a missing row is unassigned (R41). -/
def laneMap : List (List (Option (Nat → Nat → Option Instr))) :=
  [laneRow0, laneRow1, laneRow2, laneRow3, laneRow4, laneRow5, laneRow6, laneRow7, laneRow8, laneRow9, laneRow10, laneRow11, laneRow12, laneRow13, [], []]
/-- The uniform-set map, row by row; a missing row is unassigned (R42). -/
def uniMap : List (List (Option (Nat → Nat → Option Instr))) :=
  [uniRow0, uniRow1, uniRow2, uniRow3, uniRow4, uniRow5, uniRow6, uniRow7, uniRow8, uniRow9, uniRow10, uniRow11, uniRow12, [], [], []]
/-- The set bit and opcode of a word as one number: opcode, plus 128 in the uniform set (R29). -/
def opcodeOf (w : Nat) : Nat := bits w 24 8

/-- The decoder of an opcode number, none where the opcode is unassigned (R41, R42). -/
def rowOf (n : Nat) : Option (Nat → Nat → Option Instr) :=
  if n < 128 then ((laneMap.getD (n / 8) []).getD (n % 8) none)
  else ((uniMap.getD (n / 8 - 16) []).getD (n % 8) none)

/-- The opcodes marked (L), by opcode number (R41, R42). -/
def isLong (n : Nat) : Bool :=
  if n < 128 then [7, 15, 31, 36, 37, 46, 47, 97, 104, 105, 106, 107, 108, 109, 110].contains n else [4, 7, 25, 96, 97, 98, 99].contains (n - 128)

/-- The size in bytes of the instruction a first word opens (R30). -/
def sizeOf (w : Nat) : Nat := if isLong (opcodeOf w) then 8 else 4

/-- What decoding says of a word and its literal. -/
inductive Decoded where
  /-- An instruction whose fields keep every limit. -/
  | instr (i : Instr)
  /-- The opcode is unassigned: ILLEGAL_OPCODE. -/
  | illegal
  /-- A reserved field or sub-field value is present: RESERVED_FIELD. -/
  | reserved
  deriving DecidableEq, Repr

/-- Steps 2 and 3 of R39 for the grade that holds every unit: the first word and the literal (0 where there is none). -/
def decodeWords (w lit : Nat) : Decoded :=
  match rowOf (opcodeOf w) with
  | none => .illegal
  | some f => match f w lit with
    | some i => .instr i
    | none => .reserved

/-- A little-endian 32-bit word from four bytes. -/
def wordOfBytes (a b c d : Byte) : Nat := a.toNat + 256 * b.toNat + 65536 * c.toNat + 16777216 * d.toNat

/-- Decoding a list of bytes: what it opens with, and the bytes that follow the instruction. Too few bytes give none. -/
def decodeBytes : List Byte → Option (Decoded × List Byte)
  | a :: b :: c :: d :: rest =>
    let w := wordOfBytes a b c d
    if isLong (opcodeOf w) then
      match rest with
      | e :: f :: g :: h :: rest' => some (decodeWords w (wordOfBytes e f g h), rest')
      | _ => none
    else some (decodeWords w 0, rest)
  | _ => none


/-- The words of an instruction, written from the same encoding tables: the first word and, for an L instruction, its
literal (R29, R30, R43). An event has no words. -/
def encode : Instr → Option (Nat × Option Nat)
  | .iadd g d a b => some (16777216 + g.val * 2097152 + d.val * 16384 + a.code * 128 + b.code, none)
  | .isub g d a b => some (33554432 + g.val * 2097152 + d.val * 16384 + a.code * 128 + b.code, none)
  | .imul g d a b => some (50331648 + g.val * 2097152 + d.val * 16384 + a.code * 128 + b.code, none)
  | .imulhS g d a b => some (67108864 + g.val * 2097152 + d.val * 16384 + a.code * 128 + b.code, none)
  | .imulhN g d a b => some (83886080 + g.val * 2097152 + d.val * 16384 + a.code * 128 + b.code, none)
  | .imad g d a b => some (100663296 + g.val * 2097152 + d.val * 16384 + a.code * 128 + b.code, none)
  | .iaddi g d a lit => some (117440512 + g.val * 2097152 + d.val * 16384 + a.code * 128, some (lit.toNat))
  | .iminS g d a b => some (134217728 + g.val * 2097152 + d.val * 16384 + a.code * 128 + b.code, none)
  | .iminN g d a b => some (150994944 + g.val * 2097152 + d.val * 16384 + a.code * 128 + b.code, none)
  | .imaxS g d a b => some (167772160 + g.val * 2097152 + d.val * 16384 + a.code * 128 + b.code, none)
  | .imaxN g d a b => some (184549376 + g.val * 2097152 + d.val * 16384 + a.code * 128 + b.code, none)
  | .iadd64 g d a b => some (201326592 + g.val * 2097152 + d.val * 16384 + a.code * 128 + b.code, none)
  | .isub64 g d a b => some (218103808 + g.val * 2097152 + d.val * 16384 + a.code * 128 + b.code, none)
  | .imadw g d a b => some (234881024 + g.val * 2097152 + d.val * 16384 + a.code * 128 + b.code, none)
  | .leai g d m x => some (251658240 + g.val * 2097152 + d.val * 16384 + m.base.code * 128 + m.index.code, some (m.off.toNat * 256 + x.toNat))
  | .and g d a b => some (268435456 + g.val * 2097152 + d.val * 16384 + a.code * 128 + b.code, none)
  | .or g d a b => some (285212672 + g.val * 2097152 + d.val * 16384 + a.code * 128 + b.code, none)
  | .xor g d a b => some (301989888 + g.val * 2097152 + d.val * 16384 + a.code * 128 + b.code, none)
  | .not g d a => some (318767104 + g.val * 2097152 + d.val * 16384 + a.code * 128, none)
  | .shl g d a b => some (335544320 + g.val * 2097152 + d.val * 16384 + a.code * 128 + b.code, none)
  | .shrN g d a b => some (352321536 + g.val * 2097152 + d.val * 16384 + a.code * 128 + b.code, none)
  | .shrS g d a b => some (369098752 + g.val * 2097152 + d.val * 16384 + a.code * 128 + b.code, none)
  | .rotl g d a b => some (385875968 + g.val * 2097152 + d.val * 16384 + a.code * 128 + b.code, none)
  | .bfxS g d a b => some (402653184 + g.val * 2097152 + d.val * 16384 + a.code * 128 + b.code, none)
  | .bfxN g d a b => some (419430400 + g.val * 2097152 + d.val * 16384 + a.code * 128 + b.code, none)
  | .bfi g d a b => some (436207616 + g.val * 2097152 + d.val * 16384 + a.code * 128 + b.code, none)
  | .popc g d a => some (452984832 + g.val * 2097152 + d.val * 16384 + a.code * 128, none)
  | .clz g d a => some (469762048 + g.val * 2097152 + d.val * 16384 + a.code * 128, none)
  | .brev g d a => some (486539264 + g.val * 2097152 + d.val * 16384 + a.code * 128, none)
  | .mov g d a => some (503316480 + g.val * 2097152 + d.val * 16384 + a.code * 128, none)
  | .movi g d lit => some (520093696 + g.val * 2097152 + d.val * 16384, some (lit.toNat))
  | .icmpS g c p a b => some (536870912 + g.val * 2097152 + c.code * 131072 + p.val * 16384 + a.code * 128 + b.code, none)
  | .icmpN g c p a b => some (553648128 + g.val * 2097152 + c.code * 131072 + p.val * 16384 + a.code * 128 + b.code, none)
  | .fcmpF32 g c p a b => some (570425344 + g.val * 2097152 + c.code * 131072 + p.val * 16384 + a.code * 128 + b.code, none)
  | .fcmpF64 g c p a b => some (587202560 + g.val * 2097152 + c.code * 131072 + p.val * 16384 + a.code * 128 + b.code, none)
  | .icmpiS g c p a lit => some (603979776 + g.val * 2097152 + c.code * 131072 + p.val * 16384 + a.code * 128, some (lit.toNat))
  | .icmpiN g c p a lit => some (620756992 + g.val * 2097152 + c.code * 131072 + p.val * 16384 + a.code * 128, some (lit.toNat))
  | .plop g lut d a b c => some (637534208 + g.val * 2097152 + (lut.toNat / 16) * 131072 + (lut.toNat % 16) * 1024 + d.val * 16384 + a.val * 128 + b.val + c.val * 8, none)
  | .pmovGet g d => some (654311424 + g.val * 2097152 + d.val * 16384, none)
  | .pmovSet g a => some (654311425 + g.val * 2097152 + a.code * 128, none)
  | .faddF32 g d a b => some (671088640 + g.val * 2097152 + d.val * 16384 + a.code * 128 + b.code, none)
  | .fsubF32 g d a b => some (687865856 + g.val * 2097152 + d.val * 16384 + a.code * 128 + b.code, none)
  | .fmulF32 g d a b => some (704643072 + g.val * 2097152 + d.val * 16384 + a.code * 128 + b.code, none)
  | .ffmaF32 g d a b => some (721420288 + g.val * 2097152 + d.val * 16384 + a.code * 128 + b.code, none)
  | .fminF32 g d a b => some (738197504 + g.val * 2097152 + d.val * 16384 + a.code * 128 + b.code, none)
  | .fmaxF32 g d a b => some (754974720 + g.val * 2097152 + d.val * 16384 + a.code * 128 + b.code, none)
  | .faddiF32 g d a lit => some (771751936 + g.val * 2097152 + d.val * 16384 + a.code * 128, some (lit.toNat))
  | .fmuliF32 g d a lit => some (788529152 + g.val * 2097152 + d.val * 16384 + a.code * 128, some (lit.toNat))
  | .faddF16x2 g d a b => some (805306368 + g.val * 2097152 + d.val * 16384 + a.code * 128 + b.code, none)
  | .fmulF16x2 g d a b => some (822083584 + g.val * 2097152 + d.val * 16384 + a.code * 128 + b.code, none)
  | .ffmaF16x2 g d a b => some (838860800 + g.val * 2097152 + d.val * 16384 + a.code * 128 + b.code, none)
  | .fminF16x2 g d a b => some (855638016 + g.val * 2097152 + d.val * 16384 + a.code * 128 + b.code, none)
  | .faddBf16x2 g d a b => some (872415232 + g.val * 2097152 + d.val * 16384 + a.code * 128 + b.code, none)
  | .fmulBf16x2 g d a b => some (889192448 + g.val * 2097152 + d.val * 16384 + a.code * 128 + b.code, none)
  | .ffmaBf16x2 g d a b => some (905969664 + g.val * 2097152 + d.val * 16384 + a.code * 128 + b.code, none)
  | .fminBf16x2 g d a b => some (922746880 + g.val * 2097152 + d.val * 16384 + a.code * 128 + b.code, none)
  | .faddF64 g d a b => some (939524096 + g.val * 2097152 + d.val * 16384 + a.code * 128 + b.code, none)
  | .fsubF64 g d a b => some (956301312 + g.val * 2097152 + d.val * 16384 + a.code * 128 + b.code, none)
  | .fmulF64 g d a b => some (973078528 + g.val * 2097152 + d.val * 16384 + a.code * 128 + b.code, none)
  | .ffmaF64 g d a b => some (989855744 + g.val * 2097152 + d.val * 16384 + a.code * 128 + b.code, none)
  | .fminF64 g d a b => some (1006632960 + g.val * 2097152 + d.val * 16384 + a.code * 128 + b.code, none)
  | .fmaxF64 g d a b => some (1023410176 + g.val * 2097152 + d.val * 16384 + a.code * 128 + b.code, none)
  | .fmaxF16x2 g d a b => some (1040187392 + g.val * 2097152 + d.val * 16384 + a.code * 128 + b.code, none)
  | .fmaxBf16x2 g d a b => some (1056964608 + g.val * 2097152 + d.val * 16384 + a.code * 128 + b.code, none)
  | .frcp g d a => some (1073741824 + g.val * 2097152 + d.val * 16384 + a.code * 128, none)
  | .frsq g d a => some (1090519040 + g.val * 2097152 + d.val * 16384 + a.code * 128, none)
  | .fsqrt g d a => some (1107296256 + g.val * 2097152 + d.val * 16384 + a.code * 128, none)
  | .fexp2 g d a => some (1124073472 + g.val * 2097152 + d.val * 16384 + a.code * 128, none)
  | .flog2 g d a => some (1140850688 + g.val * 2097152 + d.val * 16384 + a.code * 128, none)
  | .fsin g d a => some (1157627904 + g.val * 2097152 + d.val * 16384 + a.code * 128, none)
  | .fcos g d a => some (1174405120 + g.val * 2097152 + d.val * 16384 + a.code * 128, none)
  | .ftanh g d a => some (1191182336 + g.val * 2097152 + d.val * 16384 + a.code * 128, none)
  | .cvtFi g d a rm i o => some (1207959552 + g.val * 2097152 + d.val * 16384 + a.code * 128 + rm.code * 32 + i.code * 4 + o.code, none)
  | .cvtIf g d a rm sat i o => some (1224736768 + g.val * 2097152 + d.val * 16384 + a.code * 128 + rm.code * 32 + sat.toNat * 16 + i.code * 4 + o.code, none)
  | .cvtFf g d a rm sat i o => some (1241513984 + g.val * 2097152 + d.val * 16384 + a.code * 128 + rm.code * 32 + sat.toNat * 16 + i.code * 4 + o.code, none)
  | .cvtNr g d a b => some (1258291200 + g.val * 2097152 + d.val * 16384 + a.code * 128 + (96 + b.val), none)
  | .cvtWd g d a b => some (1275068416 + g.val * 2097152 + d.val * 16384 + a.code * 128 + (96 + b.val), none)
  | .frnd g d a rm f64 => some (1291845632 + g.val * 2097152 + d.val * 16384 + a.code * 128 + rm.code * 32 + f64.toNat, none)
  | .fldexp g d a b => some (1308622848 + g.val * 2097152 + d.val * 16384 + a.code * 128 + b.code, none)
  | .shfl g d a b => some (1342177280 + g.val * 2097152 + d.val * 16384 + a.code * 128 + b.code, none)
  | .shflx g d a b => some (1358954496 + g.val * 2097152 + d.val * 16384 + a.code * 128 + b.code, none)
  | .shflup g d a b => some (1375731712 + g.val * 2097152 + d.val * 16384 + a.code * 128 + b.code, none)
  | .shfldn g d a b => some (1392508928 + g.val * 2097152 + d.val * 16384 + a.code * 128 + b.code, none)
  | .vote g d a m => some (1409286144 + g.val * 2097152 + d.val * 16384 + a.val * 128 + m.code, none)
  | .ballot g d a => some (1426063360 + g.val * 2097152 + (96 + d.val) * 16384 + a.val * 128, none)
  | .lscan g d a o excl => some (1442840576 + g.val * 2097152 + d.val * 16384 + a.code * 128 + o.code * 16 + excl.toNat * 8, none)
  | .lred g d a o => some (1459617792 + g.val * 2097152 + (96 + d.val) * 16384 + a.code * 128 + o.code * 16, none)
  | .sreadV g d a => some (1476395008 + g.val * 2097152 + d.val * 16384 + a.code * 128, none)
  | .matchLanes g d a => some (1493172224 + g.val * 2097152 + d.val * 16384 + a.code * 128, none)
  | .iabs g d a => some (1509949440 + g.val * 2097152 + d.val * 16384 + a.code * 128, none)
  | .ard g d t q => some (1526726656 + g.val * 2097152 + d.val * 16384 + t.toNat * 128 + q.toNat, none)
  | .awr g t a q => some (1543503872 + g.val * 2097152 + t.toNat * 131072 + a.val * 128 + q.toNat, none)
  | .bra g o w u => some (1610612736 + g.val * 2097152 + o.toNat * 4 + w.toNat * 2 + u.toNat, none)
  | .bral g w u lit => some (1627389952 + g.val * 2097152 + w.toNat * 2 + u.toNat, some (lit.toNat))
  | .brx g a w u => some (1644167168 + g.val * 2097152 + a.code * 128 + w.toNat * 2 + u.toNat, none)
  | .call g d o u => some (1660944384 + g.val * 2097152 + d.val * 16384 + o.toNat * 2 + u.toNat, none)
  | .callx g d a u => some (1677721600 + g.val * 2097152 + d.val * 16384 + a.code * 128 + u.toNat, none)
  | .ret g a u => some (1694498816 + g.val * 2097152 + a.code * 128 + u.toNat, none)
  | .exit g => some (1711276032 + g.val * 2097152, none)
  | .trap g c => some (1728053248 + g.val * 2097152 + c.toNat, none)
  | .ld g d m sz sx h => some (1744830464 + g.val * 2097152 + d.val * 16384 + m.base.code * 128 + m.index.code, some (m.off.toNat * 256 + sz.code + sx.toNat * 8 + h.code * 16))
  | .st g d m sz h => some (1761607680 + g.val * 2097152 + d.code * 16384 + m.base.code * 128 + m.index.code, some (m.off.toNat * 256 + sz.code + h.code * 16))
  | .pref g m lv => some (1778384896 + g.val * 2097152 + m.base.code * 128 + m.index.code, some (m.off.toNat * 256 + lv.code))
  | .atomO g d m sc o s64 => some (1795162112 + g.val * 2097152 + d.val * 16384 + m.base.code * 128 + m.index.code, some (m.off.toNat * 256 + sc.code * 32 + o.code * 2 + s64.toNat))
  | .atomU g d m sc o s64 => some (1811939328 + g.val * 2097152 + d.val * 16384 + m.base.code * 128 + m.index.code, some (m.off.toNat * 256 + sc.code * 32 + o.code * 2 + s64.toNat))
  | .redO g d m sc o s64 => some (1828716544 + g.val * 2097152 + d.code * 16384 + m.base.code * 128 + m.index.code, some (m.off.toNat * 256 + sc.code * 32 + o.code * 2 + s64.toNat))
  | .redU g d m sc o s64 => some (1845493760 + g.val * 2097152 + d.code * 16384 + m.base.code * 128 + m.index.code, some (m.off.toNat * 256 + sc.code * 32 + o.code * 2 + s64.toNat))
  | .uiadd g d a b => some (2147483648 + g.val * 2097152 + (96 + d.val) * 16384 + (96 + a.val) * 128 + (96 + b.val), none)
  | .uisub g d a b => some (2164260864 + g.val * 2097152 + (96 + d.val) * 16384 + (96 + a.val) * 128 + (96 + b.val), none)
  | .uimul g d a b => some (2181038080 + g.val * 2097152 + (96 + d.val) * 16384 + (96 + a.val) * 128 + (96 + b.val), none)
  | .uimad g d a b => some (2197815296 + g.val * 2097152 + (96 + d.val) * 16384 + (96 + a.val) * 128 + (96 + b.val), none)
  | .uiaddi g d a lit => some (2214592512 + g.val * 2097152 + (96 + d.val) * 16384 + (96 + a.val) * 128, some (lit.toNat))
  | .uiadd64 g d a b => some (2231369728 + g.val * 2097152 + (96 + d.val) * 16384 + (96 + a.val) * 128 + (96 + b.val), none)
  | .umov g d a => some (2248146944 + g.val * 2097152 + (96 + d.val) * 16384 + (96 + a.val) * 128, none)
  | .umovi g d lit => some (2264924160 + g.val * 2097152 + (96 + d.val) * 16384, some (lit.toNat))
  | .uand g d a b => some (2281701376 + g.val * 2097152 + (96 + d.val) * 16384 + (96 + a.val) * 128 + (96 + b.val), none)
  | .uor g d a b => some (2298478592 + g.val * 2097152 + (96 + d.val) * 16384 + (96 + a.val) * 128 + (96 + b.val), none)
  | .uxor g d a b => some (2315255808 + g.val * 2097152 + (96 + d.val) * 16384 + (96 + a.val) * 128 + (96 + b.val), none)
  | .ushl g d a b => some (2332033024 + g.val * 2097152 + (96 + d.val) * 16384 + (96 + a.val) * 128 + (96 + b.val), none)
  | .ushrN g d a b => some (2348810240 + g.val * 2097152 + (96 + d.val) * 16384 + (96 + a.val) * 128 + (96 + b.val), none)
  | .ushrS g d a b => some (2365587456 + g.val * 2097152 + (96 + d.val) * 16384 + (96 + a.val) * 128 + (96 + b.val), none)
  | .uicmpS g c p a b => some (2382364672 + g.val * 2097152 + c.code * 131072 + p.val * 16384 + (96 + a.val) * 128 + (96 + b.val), none)
  | .uicmpN g c p a b => some (2399141888 + g.val * 2097152 + c.code * 131072 + p.val * 16384 + (96 + a.val) * 128 + (96 + b.val), none)
  | .uplop g lut d a b c => some (2415919104 + g.val * 2097152 + (lut.toNat / 16) * 131072 + (lut.toNat % 16) * 1024 + d.val * 16384 + a.val * 128 + b.val + c.val * 8, none)
  | .ufadd g d a b => some (2432696320 + g.val * 2097152 + (96 + d.val) * 16384 + (96 + a.val) * 128 + (96 + b.val), none)
  | .ufmul g d a b => some (2449473536 + g.val * 2097152 + (96 + d.val) * 16384 + (96 + a.val) * 128 + (96 + b.val), none)
  | .uffma g d a b => some (2466250752 + g.val * 2097152 + (96 + d.val) * 16384 + (96 + a.val) * 128 + (96 + b.val), none)
  | .ufcmp g c p a b => some (2483027968 + g.val * 2097152 + c.code * 131072 + p.val * 16384 + (96 + a.val) * 128 + (96 + b.val), none)
  | .sreadK g d a => some (2499805184 + g.val * 2097152 + (96 + d.val) * 16384 + a.code * 128, none)
  | .ubfx g d a b => some (2516582400 + g.val * 2097152 + (96 + d.val) * 16384 + (96 + a.val) * 128 + (96 + b.val), none)
  | .unop g => some (2533359616 + g.val * 2097152, none)
  | .ubra g o u => some (2550136832 + g.val * 2097152 + o.toNat * 4 + u.toNat, none)
  | .ubral g u lit => some (2566914048 + g.val * 2097152 + u.toNat, some (lit.toNat))
  | .yield g => some (2583691264 + g.val * 2097152, none)
  | .tretRetry g => some (2600468480 + g.val * 2097152, none)
  | .tretSkip g => some (2600468481 + g.val * 2097152, none)
  | .utrap g c => some (2617245696 + g.val * 2097152 + c.toNat, none)
  | .kill g => some (2634022912 + g.val * 2097152, none)
  | .killFail g => some (2634022913 + g.val * 2097152, none)
  | .killSave g => some (2634022914 + g.val * 2097152, none)
  | .fence g eng s => some (2684354560 + g.val * 2097152 + eng.toNat * 8 + s.code, none)
  | .binit g a b => some (2701131776 + g.val * 2097152 + (96 + a.val) * 128 + (96 + b.val), none)
  | .barr g d a => some (2717908992 + g.val * 2097152 + (96 + d.val) * 16384 + (96 + a.val) * 128, none)
  | .barrn g d a b => some (2734686208 + g.val * 2097152 + (96 + d.val) * 16384 + (96 + a.val) * 128 + (96 + b.val), none)
  | .bxpct g a b => some (2751463424 + g.val * 2097152 + (96 + a.val) * 128 + (96 + b.val), none)
  | .bwait g d a b => some (2768240640 + g.val * 2097152 + d.val * 16384 + (96 + a.val) * 128 + (96 + b.val), none)
  | .tsync g => some (2785017856 + g.val * 2097152, none)
  | .csync g => some (2801795072 + g.val * 2097152, none)
  | .cpgs g d a b => some (2818572288 + g.val * 2097152 + (96 + d.val) * 16384 + (96 + a.val) * 128 + (96 + b.val), none)
  | .cpsg g d a b => some (2835349504 + g.val * 2097152 + (96 + d.val) * 16384 + (96 + a.val) * 128 + (96 + b.val), none)
  | .cpgg g d a b => some (2852126720 + g.val * 2097152 + (96 + d.val) * 16384 + (96 + a.val) * 128 + (96 + b.val), none)
  | .cptr g d a b => some (2868903936 + g.val * 2097152 + (96 + d.val) * 16384 + (96 + a.val) * 128 + (96 + b.val), none)
  | .cpga g d a b => some (2885681152 + g.val * 2097152 + (96 + d.val) * 16384 + (96 + a.val) * 128 + (96 + b.val), none)
  | .cpmc g d a b => some (2902458368 + g.val * 2097152 + (96 + d.val) * 16384 + (96 + a.val) * 128 + (96 + b.val), none)
  | .cpmcr g d a => some (2919235584 + g.val * 2097152 + (96 + d.val) * 16384 + (96 + a.val) * 128, none)
  | .cpwait g d a m => some (2936012800 + g.val * 2097152 + (96 + d.val) * 16384 + (96 + a.val) * 128 + m.code, none)
  | .bufget g d a => some (2952790016 + g.val * 2097152 + (96 + d.val) * 16384 + (96 + a.val) * 128, none)
  | .bufput g a => some (2969567232 + g.val * 2097152 + (96 + a.val) * 128, none)
  | .bufwait g a s => some (2986344448 + g.val * 2097152 + (96 + a.val) * 128 + s.code, none)
  | .bufq g d a => some (3003121664 + g.val * 2097152 + (96 + d.val) * 16384 + (96 + a.val) * 128, none)
  | .shnew g d a => some (3019898880 + g.val * 2097152 + (96 + d.val) * 16384 + (96 + a.val) * 128, none)
  | .shfree g a => some (3036676096 + g.val * 2097152 + (96 + a.val) * 128, none)
  | .hrowUp g d a n => some (3053453312 + g.val * 2097152 + (96 + d.val) * 16384 + (96 + a.val) * 128 + n.toNat, none)
  | .hrowDn g d a n => some (3070230528 + g.val * 2097152 + (96 + d.val) * 16384 + (96 + a.val) * 128 + n.toNat, none)
  | .hrowQ g d a => some (3087007744 + g.val * 2097152 + (96 + d.val) * 16384 + (96 + a.val) * 128, none)
  | .mmab g t c r a b => some (3103784960 + g.val * 2097152 + t.toNat * 131072 + c.toNat * 65536 + r.toNat * 32768 + a.val * 128 + (96 + b.val), none)
  | .mmao g t c r a b => some (3120562176 + g.val * 2097152 + t.toNat * 131072 + c.toNat * 65536 + r.toNat * 32768 + a.val * 128 + (96 + b.val), none)
  | .mmag g t c r a b => some (3137339392 + g.val * 2097152 + t.toNat * 131072 + c.toNat * 65536 + r.toNat * 32768 + a.val * 128 + (96 + b.val), none)
  | .dmma g t c r ob a b => some (3154116608 + g.val * 2097152 + t.toNat * 131072 + c.toNat * 65536 + r.toNat * 32768 + ob.toNat * 16384 + a.val * 128 + (96 + b.val), none)
  | .aclr g t n => some (3170893824 + g.val * 2097152 + t.toNat * 131072 + n.toNat, none)
  | .ald g t a b => some (3187671040 + g.val * 2097152 + t.toNat * 131072 + (96 + a.val) * 128 + (96 + b.val), none)
  | .ast g t a b => some (3204448256 + g.val * 2097152 + t.toNat * 131072 + (96 + a.val) * 128 + (96 + b.val), none)
  | .obres g d a => some (3221225472 + g.val * 2097152 + (96 + d.val) * 16384 + (96 + a.val) * 128, none)
  | .obfree g a => some (3238002688 + g.val * 2097152 + (96 + a.val) * 128, none)
  | .obld g d a => some (3254779904 + g.val * 2097152 + (96 + d.val) * 16384 + (96 + a.val) * 128, none)
  | .rsalloc g d a => some (3271557120 + g.val * 2097152 + (96 + d.val) * 16384 + (96 + a.val) * 128, none)
  | .rsfill g a => some (3288334336 + g.val * 2097152 + (96 + a.val) * 128, none)
  | .rspin g a => some (3305111552 + g.val * 2097152 + (96 + a.val) * 128, none)
  | .rsunpin g a => some (3321888768 + g.val * 2097152 + (96 + a.val) * 128, none)
  | .rsrev g a => some (3338665984 + g.val * 2097152 + (96 + a.val) * 128, none)
  | .rsq g d a => some (3355443200 + g.val * 2097152 + (96 + d.val) * 16384 + (96 + a.val) * 128, none)
  | .ctabWr g a q8 => some (3372220416 + g.val * 2097152 + (96 + a.val) * 128 + q8.toNat, none)
  | .ctabSwap g s => some (3388997632 + g.val * 2097152 + s.code, none)
  | .ctabRd g d a gen shadow q8 => some (3405774848 + g.val * 2097152 + (96 + d.val) * 16384 + (96 + a.val) * 128 + gen.toNat * 4 + shadow.toNat * 2 + q8.toNat, none)
  | .launch g a => some (3489660928 + g.val * 2097152 + (96 + a.val) * 128, none)
  | .launchNb g d a => some (3506438144 + g.val * 2097152 + d.val * 16384 + (96 + a.val) * 128, none)
  | .lwait g d a b => some (3523215360 + g.val * 2097152 + d.val * 16384 + (96 + a.val) * 128 + (96 + b.val), none)
  | .lpoll g d a => some (3539992576 + g.val * 2097152 + (96 + d.val) * 16384 + (96 + a.val) * 128, none)
  | .spurFork g d a => some (3556769792 + g.val * 2097152 + (96 + d.val) * 16384 + (96 + a.val) * 128, none)
  | .spurJoin g d a b => some (3573547008 + g.val * 2097152 + d.val * 16384 + (96 + a.val) * 128 + (96 + b.val), none)
  | .spurCancel g d a => some (3590324224 + g.val * 2097152 + (96 + d.val) * 16384 + (96 + a.val) * 128, none)
  | .spurQ g d a => some (3607101440 + g.val * 2097152 + (96 + d.val) * 16384 + (96 + a.val) * 128, none)
  | .sysrd g d a => some (3623878656 + g.val * 2097152 + (96 + d.val) * 16384 + a.code * 128, none)
  | .syswr g a b => some (3640655872 + g.val * 2097152 + a.code * 128 + (96 + b.val), none)
  | .xprobe g d a b => some (3657433088 + g.val * 2097152 + (96 + d.val) * 16384 + (96 + a.val) * 128 + (96 + b.val), none)
  | .xinval g e a b => some (3674210304 + g.val * 2097152 + e.code * 16384 + (96 + a.val) * 128 + (96 + b.val), none)
  | .crsetCons g b => some (3690987520 + g.val * 2097152 + (96 + b.val), none)
  | .crsetThresh g b => some (3690987648 + g.val * 2097152 + (96 + b.val), none)
  | .crsetProd g b => some (3690987776 + g.val * 2097152 + (96 + b.val), none)
  | .crsetEnd g b => some (3690987904 + g.val * 2097152 + (96 + b.val), none)
  | .crposProd g d => some (3707764736 + g.val * 2097152 + (96 + d.val) * 16384, none)
  | .crposCons g d => some (3707764864 + g.val * 2097152 + (96 + d.val) * 16384, none)
  | .crposStatus g d => some (3707764992 + g.val * 2097152 + (96 + d.val) * 16384, none)
  | .lmark g a tag => some (3724541952 + g.val * 2097152 + (96 + a.val) * 128 + tag.toNat, none)
  | .uld g d m sz sx h => some (3758096384 + g.val * 2097152 + (96 + d.val) * 16384 + (96 + m.base.val) * 128 + (96 + m.index.val), some (m.off.toNat * 256 + sz.code + sx.toNat * 8 + h.code * 16))
  | .ust g d m sz h => some (3774873600 + g.val * 2097152 + (96 + d.val) * 16384 + (96 + m.base.val) * 128 + (96 + m.index.val), some (m.off.toNat * 256 + sz.code + h.code * 16))
  | .dvsave g m v95 => some (3791650816 + g.val * 2097152 + (96 + m.base.val) * 128 + (96 + m.index.val), some (m.off.toNat * 256 + v95.toNat))
  | .dvload g m v95 => some (3808428032 + g.val * 2097152 + (96 + m.base.val) * 128 + (96 + m.index.val), some (m.off.toNat * 256 + v95.toNat))
  | .pageFaultRunahead _ => none
  | .faultBatchPost _ => none
  | .memReply _ _ _ => none
  | .controllerRequest _ _ => none
  | .hwPromote _ _ => none
  | .promotionDone _ _ => none
  | .writeBackDone _ _ => none
  | .patrolScrub _ _ _ => none
  | .dieFailing _ _ => none
  | .bankHot _ _ => none
  | .remapStart _ _ => none
  | .remapPageMoved _ => none
  | .remapDone _ => none
  | .crestWinWrite _ _ => none
  | .crestWinDone _ => none
  | .hbLostclr _ _ => none
  | .hbCeClear _ _ => none
  | .walkDone _ _ _ => none
  | .copyJobStart _ => none
  | .copyItem _ _ => none
  | .parkRelease _ => none
  | .mmaRetire _ => none
  | .residencyLoadDone _ _ _ => none
  | .bwaitTimeout _ => none
  | .joinTimeout _ => none
  | .lwaitWake _ => none
  | .swapOut _ => none
  | .launchAccept _ => none
  | .dispatch => none
  | .backfillStop => none
  | .dispatchPreempt => none
  | .gridComplete _ _ => none
  | .reductionDrain _ _ => none
  | .ticketPass _ _ => none
  | .spurReclaimDone _ _ => none
  | .preemptDeadline _ => none
  | .cutComplete _ => none
  | .saveTimeout _ => none
  | .teamRestore _ => none
  | .sensorSample _ _ _ => none
  | .screeDecision _ => none
  | .migrationStart _ => none
  | .migrationDeferExpiry _ => none
  | .migrationDone _ => none
  | .balanceWindow _ _ _ => none
  | .clockPointChange _ => none
  | .powerEnforce _ => none
  | .thermEmerg => none
  | .emergDeadline => none
  | .emergRailsOff => none
  | .thermResume _ => none
  | .pwrCap _ => none
  | .leaseExpired => none
  | .logicalClockAdvance => none
  | .queueNotify _ _ _ => none
  | .queueLaunchCommand _ => none
  | .queueWaitCommand _ => none
  | .queueSequence _ => none
  | .queueMap => none
  | .queueEvict => none
  | .queueIdle _ => none
  | .qregRegister _ _ _ => none
  | .qregUnregister _ _ _ => none
  | .qregReset _ _ _ => none
  | .hostInvalidate _ _ _ => none
  | .hostInvalidateDone _ => none
  | .contextCreate _ _ _ => none
  | .contextDestroy _ _ _ => none
  | .ctxDown _ => none
  | .preemptRequest _ _ _ => none
  | .tqConsWrite _ _ _ => none
  | .tqReplay _ _ _ => none
  | .tqAbandon _ _ _ => none
  | .poolPush _ _ _ => none
  | .cairnDirWrite _ _ _ => none
  | .cairnConsWrite _ _ _ => none
  | .cairnProdWrite _ _ _ => none
  | .evqConsWrite _ _ => none
  | .registerWrite _ _ _ => none
  | .hostBar4Read _ _ => none
  | .hostBar4Write _ _ => none
  | .hostTimeout _ => none
  | .pcieDown _ => none
  | .peerRequest _ _ => none
  | .peerTimeout _ => none
  | .linkDown _ => none
  | .linkUp _ _ => none
  | .portDisable _ => none
  | .keyRollover _ _ => none
  | .spdmRequest _ _ => none
  | .coldReset => none
  | .warmReset => none
  | .vfFlr _ => none
  | .startupDone => none
  | .lcWriteImage _ => none
  | .lcWriteImageDone _ => none
  | .lcSubmitToken _ _ => none
  | .lcFetchNonce _ _ _ => none
  | .illegalOpcode => none
  | .fetchFault => none
  | .hostAtomicop _ _ _ _ _ => none
  | .cairnEndWrite _ _ _ => none
  | .evqPendClear _ _ => none

/-- The instruction this decoder reads from an instruction whose bits are w: the first word in bits 31 to 0 and, for an L
opcode, the literal in bits 63 to 32, each word little-endian and the first at the lower address. A word with an
unassigned opcode gives the step ILLEGAL_OPCODE; a word that breaks a field limit gives none. -/
def decodeTableWord (nbits w : Nat) : Option Instr :=
  let v := w % 2 ^ nbits
  match decodeWords (v % 4294967296) (v / 4294967296 % 4294967296) with
  | .instr i => some i
  | .illegal => some .illegalOpcode
  | .reserved => none

end Sys2Proof
end

