-- ==== Sys2Proof/Machine/State.lean ====
section
/-! DEFINITION. The state of the part: plain data, holding every piece of state the spec names (INVENTORY.md lists them),
the outcomes of a step that is not a next state, and the state after reset. -/

namespace Sys2Proof.Machine

/-- Why a step can stop with a fault. -/
inductive Fault where
  /-- An instruction's meaning was asked for while no group has an instruction issued (State.cur is none). Raised by every
  instruction's meaning; `step` never asks so unless the agenda names an instruction as an event. Safe. -/
  | noIssue
  deriving DecidableEq, Repr

/-- Why a step can be refused. -/
inductive Refusal where
  /-- No meaning has been written for the instruction yet. Raised by Dispatch alone. Safe. -/
  | notModelled (mnemonic : String)
  deriving DecidableEq, Repr

/-- The grades (R1). -/
inductive Grade where
  | summit | shoulder | saddle
  deriving DecidableEq, Repr

/-- The registers and divergence state of a group (R178, R183). `v` holds lane l of v n at 32 * n + l; `k` holds k j at j;
`p` holds the lanes in which p j is true at j; `pc` holds lane l's program counter at l. -/
structure Regs where
  v    : BMap 32
  k    : BMap 32
  p    : BMap 32
  q    : BitVec 8
  pc   : BMap 57
  live : Mask
  wait : Mask
  deriving DecidableEq, Repr

/-- The trap registers and the shadow of a group (R328, R336). -/
structure TrapRegs where
  masked : Bool
  cause  : Word
  info   : Word
  pc     : DWord
  addr   : DWord
  word   : Word
  mask   : Word
  hlit   : Word
  hpa    : DWord
  div    : BMap 64
  v95    : BMap 32
  k30    : Word
  k31    : Word
  deriving DecidableEq, Repr

/-- One entry of a fault batch: the page VA[63:16], the level at which the walk ended, the kinds seen and the cause
(R94). -/
structure FaultEntry where
  page  : Nat
  level : Nat
  kind  : Nat
  cause : Nat
  deriving DecidableEq, Repr

/-- A page fault on its way to the trap queue: the lanes that faulted, the entries found, the end code of run-ahead, and
whether run-ahead is over (R91 to R94). For POOL_EMPTY, `pool` names the page's address and the spur (R312). -/
structure FaultRun where
  pc      : Nat
  lanes   : Mask
  entries : List FaultEntry
  code    : Nat
  done    : Bool
  pool    : Option (Nat × Word)
  deriving DecidableEq, Repr

/-- The instruction that a group has issued: the broadcast address B, the executing lanes, the first word, the literal
(0 where there is none) and the size (R184, R30). `alone` says a lane runs from its loop buffer (R188). -/
structure Issue where
  gid  : Nat
  pc   : Pc
  mask : Mask
  word : Word
  lit  : Word
  size : Nat
  alone : Bool
  deriving DecidableEq, Repr

/-- Where a byte run of an access lies once it is steered and translated. -/
inductive Phys where
  /-- Local memory (R54). -/
  | loc (pa : Nat)
  /-- A peer, the host or a pool node: TGT, CHIP, address (R86). -/
  | rem (tgt chip pa : Nat)
  /-- A scratchpad: team and offset (R78). -/
  | scr (tid off : Nat)
  /-- An empty entry of a spur's page list, which reads as zeros (R311). -/
  | zero
  /-- A part of a load that lies on this chip and is already read, while other parts are under way. -/
  | got (bytes : List Byte)
  deriving DecidableEq, Repr

/-- What an access keeps of the leaf that gave its place: the level and the cache class (R84). -/
structure Leaf where
  lvl : Nat
  cc  : Nat
  deriving DecidableEq, Repr

/-- A piece of an access that lies in one translation unit: generic (global) address, length, place and leaf (R97). -/
structure Piece where
  va   : Nat
  n    : Nat
  at_  : Phys
  leaf : Leaf
  deriving DecidableEq, Repr

/-- What an operation of the matrix engine that is under way keeps from its team's others: the accumulator slots that it reads or writes, the
reservation that it names, the ranges of the operand buffer that it lands in or reads, and whether it writes a code table (R221, R233,
R234, R241). -/
structure Holds where
  slots : List Nat
  resv  : Option Nat
  units : List (Nat × Nat)
  table : Bool
  deriving DecidableEq, Repr

/-- A memory instruction whose non-local requests are on their way (R57): the issue, the requests' numbers, the places of its
lanes as far as they are still to be performed or read, the bytes by address that the team's own staged stores lay over the answers
(R263), the value of State.free then, the Cairn positions it needs (R362), its own number, the lanes of an atomic that have taken
their steps, whether what lies on this chip waits for no answer, as in a load (R156, R267), and what it keeps of the matrix engine. -/
structure Flight where
  c      : Issue
  tags   : List Nat
  places : List (Nat × List Piece)
  forward : List (Nat × Byte)
  seed   : Nat
  logs   : Nat
  mark   : Nat
  done   : Mask
  reads  : Bool
  holds  : Holds
  deriving DecidableEq, Repr

/-- Where an address is steered: a global address, or a scratchpad byte of a team (R77, R78). -/
inductive Loc where
  | glob (va : Nat)
  | scr (tid off : Nat)
  deriving DecidableEq, Repr

/-- Where a copy job's bytes come from: a run, a box of a shape (the record's 64 bytes and the origin), or rows of a shape (the
record and the index list) (R118, R120). -/
inductive JobSrc where
  | run (at_ : Loc)
  | box (at_ : Loc) (shape : List Byte) (c0 c1 c2 c3 : Int)
  | rows (at_ : Loc) (shape : List Byte) (index : List Nat)
  deriving DecidableEq, Repr

/-- Where a copy job's bytes go: a global address, an offset in the scratchpads of receivers, or an offset in a reservation of
the team's operand buffer, whose base is given (R118, R133, R233). -/
inductive JobDst where
  | glob (va : Nat)
  | teams (tids : List Nat) (off : Nat)
  | obuf (resv off base : Nat)
  deriving DecidableEq, Repr

/-- What CPMCR resends of a multicast: its source, its offset, its size and its control word (R134). -/
structure Multi where
  src  : JobSrc
  off  : Nat
  size : Nat
  ctl  : Word
  deriving DecidableEq, Repr

/-- An outstanding-copy slot of a team (R112, R135): the SEQ of its last copy, whether that is outstanding, and what CPWAIT
and CPMCR ask of it. -/
structure CopySlot where
  seq     : BitVec 16
  busy    : Bool
  failed  : Bool
  refused : BitVec 12
  multi   : Option Multi
  deriving DecidableEq, Repr

/-- What a group wants of a buffer handle (R122, R124): BUFGET a FULL one, with the register for its entry; BUFWAIT a state; a copy that
would fill it a FREE one. -/
inductive HandleWait where
  | get (d : Nat)
  | state (st : Nat)
  | fill
  deriving DecidableEq, Repr

/-- What a parked group waits for. -/
inductive Wait where
  /-- Presence bits of scratchpad lines, as (team, line) (R143). -/
  | presence (lines : List (Nat × Nat))
  /-- Run-ahead after a page fault, and the batch it will write (R91, R93). -/
  | faultRun (f : FaultRun)
  /-- The replay of the trap record at a position (R93). -/
  | faultWait (pos : Nat)
  /-- Replies of the non-local requests of a memory instruction (R57). -/
  | reply (f : Flight)
  /-- Replies that bring words of code from a place that is not local. -/
  | code (tags : List Nat)
  /-- The accesses, by the numbers of their requests, that use translations an XINVAL dropped (R103). -/
  | inval (tags : List Nat)
  /-- A BWAIT: its uniform predicate, the clk at which its bound ends (none without a bound), and the object and phase it
  watches (R131). -/
  | bwait (q : Nat) (until_ : Option Nat) (tid off phase : Nat)
  /-- A SPUR.JOIN, in the same form, with its spur number (R318). -/
  | join (q : Nat) (n : Word) (until_ : Option Nat)
  /-- An LWAIT: its uniform predicate, the counter's address and the target, and the number of the request that reads a counter that is not
  local (R299). -/
  | lwait (q addr target : Nat) (ask : Option Nat)
  /-- An access that is held: its peer's team migrates (R142), or a crest window is changing (R60). -/
  | held
  /-- A buffer handle (R122). -/
  | handle (h : Nat) (w : HandleWait)
  /-- A copy of the team, by its ticket, until an event of its own (R135). -/
  | cpwait (ticket : Word) (m : CopyEvent)
  /-- A BWAIT of a DET team: the copies that count into its object (R356). -/
  | landing
  | tsync | csync | launch | copySlot | fence | tile | load | spurUnit
  /-- A Cairn ring position, or in a replay a record beyond CAIRN_PROD (R362, R364). -/
  | ring
  /-- This actor's turn in a replay, behind earlier records (R364). -/
  | turn
  /-- Space for staging records (R261, R421). -/
  | staging
  deriving DecidableEq, Repr

/-- What has come for a waiting group, whose instruction will complete with it: the result of a BWAIT (R131), the slot of the copy that
CPWAIT or CPMCR waits for as the event left it (R135), or the handle that a copy is to fill, which is FILLING by now (R122). -/
inductive Due where
  | phase (v : Bool)
  | copy (k : CopySlot)
  | fill (h : Nat)
  deriving DecidableEq, Repr

/-- A parked instruction: what it waits for and the clk at which its wait began. -/
structure Park where
  why   : Wait
  since : Nat
  deriving DecidableEq, Repr

/-- The key of operand A held in a group's reuse latch (R229). -/
structure Latch where
  va   : VReg
  fa   : BitVec 5
  ablk : Bool
  deriving DecidableEq, Repr

/-- A lane's loop buffer: its first address and its words (R188). -/
structure LoopBuf where
  base  : Nat
  words : List Word
  deriving DecidableEq, Repr

/-- A word of code as the lanes of a mask fetched it last (R188). -/
structure SeenWord where
  pc   : Nat
  mask : Mask
  word : Word
  deriving DecidableEq, Repr

/-- Words of an instruction that were fetched from a place that is not local: its address, its first word, its literal once
it has come. -/
structure Fetched where
  pc   : Nat
  word : Word
  lit  : Option Word
  deriving DecidableEq, Repr

/-- The answer to a non-local request. -/
structure Reply where
  status : ReplyStatus
  data   : List Byte
  deriving DecidableEq, Repr

/-- A group: group gid mod 32 of team gid div 32. `stop` is %trapinfo of the PREEMPT entry it is stopped for (R324);
`entered` is the clk of its PREEMPT or RESTORE entry; `saved` says KILL.SAVE has run; `hwsaved` that the part saves or
saved it itself (R343, R347); `fenceS` is the mark of FENCE.S (R272); `seen` holds each word as each lane fetched it last, for the
loop buffers (R188); `replies` and `fetched` hold what has come of the
non-local requests of its next instruction; `inSync` is the address of a TSYNC or CSYNC whose arrival is counted and which
has not been passed, with whether it is a CSYNC (R301); `due` is what has come for its wait; `faultAt` is the trap-queue position that a group saved in a fault wait
resumes for (R348). -/
structure Group where
  gid     : Nat
  regs    : Regs
  retired : DWord
  trap    : TrapRegs
  park    : Option Park
  stop    : Option Nat
  entered : Nat
  ended   : Bool
  saved   : Bool
  hwsaved : Bool
  tsync   : Nat
  csync   : Nat
  inSync  : Option (Pc × Bool)
  due     : Option Due
  fenceS  : Bool
  latch   : Option Latch
  loops   : Tbl LoopBuf
  seen    : List SeenWord
  replies : Tbl Reply
  fetched : Option Fetched
  faultAt : Option Nat
  deriving DecidableEq, Repr

/-- A reservation of the operand buffer (R232), or the B layout of a residency descriptor (R235). -/
structure Layout where
  base   : Nat
  bytes  : Nat
  format : Nat
  block  : Nat
  tiles  : Nat
  scale  : Nat
  super  : Nat
  deriving DecidableEq, Repr

/-- The code tables of a team (R240). -/
structure CodeTables where
  q4Live   : BMap 16
  q4Shadow : BMap 16
  q4Gen    : Word
  q8Live   : BMap 16
  q8Shadow : BMap 16
  q8Gen    : Word
  deriving DecidableEq, Repr

/-- A multiply in the array (R221, R228): the slots it holds, the tile words it will write, the reservation and the
residency slot it reads. -/
structure ArrayOp where
  gid    : Nat
  slots  : List Nat
  writes : List (Nat × Word)
  resv   : Option Nat
  res    : Option Nat
  deriving DecidableEq, Repr

/-- An entry of a pending-launch queue (R296, R297): the record and its address, the launching group, the clk of its entry, and whether its
spur's BUSY counts it (R314). -/
structure Pending where
  bytes   : List Byte
  place   : Nat
  group   : Nat
  entry   : Nat
  counted : Bool
  deriving DecidableEq, Repr

/-- A team's pending-launch queue, which the scheduler on the base die holds and which outlives the team (R296): the team, its
grid's RSERIAL, the entries in order and the clk of the last acceptance. -/
structure LaunchQueue where
  ctx     : Nat
  rserial : Nat
  team    : Nat
  entries : List Pending
  last    : Option Nat
  deriving DecidableEq, Repr

/-- What a group of a swapped team waits for: a counter at a target, or the end of a spur's subtree (R300, R318). -/
inductive SwapCond where
  | counter (gid addr target : Nat)
  | spur (gid : Nat) (n : Word)
  deriving DecidableEq, Repr

/-- The states of a team (R349). -/
inductive TeamState where
  | running | migrating | yielding | cut | saving | saved | restoring | ended
  deriving DecidableEq, Repr

/-- A team. `slot` is its save slot within its column (R347); `absent` lists the scratchpad lines whose presence bit is
clear (R143); `acc` holds word w of slot n at 1024 * n + w; `array` the multiplies
in flight; `seq` the staging count of R257; `rot` the rotation pointer (R355); `tt` the logical clock (R268);
`deadline` the clk D while a request stands, `swap` whether the request is for a swap alone (R343); `conds`
what the groups of a swapped team wait for (R300); `spSaved`, `accSaved`,
`obSaved` the page bitmaps of R347, `onDie` whether the core holds pages of the saved team, `spPages`, `accPages` and `obPages` which pages of the core's scratchpad,
accumulator and operand-buffer memory its own are, in order (R346); `moved` the real time of its last
migration and `arrived` of its last arrival on a core, `occupied` the times for which it has occupied the matrix array: the
real time of their start, their clk, and the length of one clk then (R230, R374). -/
structure Team where
  tid       : Nat
  ctx       : Nat
  serial    : Nat
  idx       : Nat
  column    : Nat
  layer     : Nat
  slot      : Nat
  oldSlot   : Option Nat
  st        : TeamState
  scratch   : BMap 8
  absent    : List Nat
  copies    : Tbl CopySlot
  copyCount : Nat
  acc       : BMap 32
  obuf      : BMap 8
  resv      : Tbl Layout
  tables    : CodeTables
  array     : List ArrayOp
  tsyncGen  : Nat
  seq       : Word
  rot       : Nat
  tt        : DWord
  deadline  : Option Nat
  swap      : Bool
  restorable : Bool
  conds     : List SwapCond
  spSaved   : BitVec 64
  accSaved  : BitVec 16
  obSaved   : BitVec 64
  onDie     : Bool
  spPages   : List Nat
  accPages  : List Nat
  obPages   : List Nat
  moved     : Option Nat
  arrived   : Nat
  occupied  : List (Nat × Nat × Nat)
  deriving DecidableEq, Repr

/-- A staging record (R259). `die` is the massif whose base die holds it; `spilled` is its slot in the overflow region once it is
spilled (R261). -/
structure Staged where
  addr    : DWord
  data    : DWord
  team    : Nat
  seq     : Word
  lane    : Nat
  group   : Nat
  kind    : Nat
  ctl     : BitVec 8
  die     : Nat
  spilled : Option Nat
  deriving DecidableEq, Repr

/-- A grid. `bytes` holds the 64 bytes of its launch record (R282); `next` the next undispatched linear index; `done` the indices
ended and not drained; `drained` the number of drained teams, which is the
index of the Ridgeline ticket's holder (R258, R263); `wait` the trap-queue position its drain or update waits for, `noCount` the cause
for which its counter is left alone (R285); `counted` says its spur's BUSY counts it (R314); `blocked` the real time since which its next unit fits
nowhere, `holds` that backfill has stopped for it (R291); `headers` the save slots of teams that were saved when it died, whose entries in
the context header are still to be cleared (R347). -/
structure Grid where
  ctx      : Nat
  serial   : Nat
  bytes    : List Byte
  accepted : Nat
  queue    : Option Nat
  counted  : Bool
  rserial  : Nat
  next     : Nat
  done     : List Nat
  drained  : Nat
  failed   : Bool
  staged   : List Staged
  csyncs   : Tbl Nat
  blocked  : Option Nat
  holds    : Bool
  wait     : Option Nat
  noCount  : Option Nat
  dead     : Bool
  headers  : List Nat
  deriving DecidableEq, Repr

/-- A copy or OBLD in an engine (R107 to R115). `role` is 0 without a buffer handle, 1 fill, 2 drain; `priv` says it was issued
in a handler; `items` lists the items not yet done, `held` those that wait for the replay of a trap record, with its position
and page; `staged` says Ridgeline holds the job (R263); `snap` holds the source bytes of items read but not yet written, `tags`
and `replies` what items have asked of places that are not local; `cancel` that the job's team was ended or cancelled (R115),
`released` that its source-released event has occurred (R114), `zeroed` the failed items whose zeros are still to land (R115, R119);
`landed` the atoms of items that are written while others of their item are not (R276), as the item and the atom's number in it, `got` what
is read of items that are not read whole, as the item, the place in it and the bytes;
`column` is the column that issued it, `seq` the team's SEQ count at issue. -/
structure Job where
  id       : Nat
  ctx      : Nat
  tid      : Nat
  column   : Nat
  seq      : Word
  serial   : Nat
  team     : Nat
  gid      : Nat
  spur     : Word
  ticket   : Word
  ctl      : Word
  src      : JobSrc
  dst      : JobDst
  size     : Nat
  role     : Nat
  priv     : Bool
  issued   : Nat
  started  : Bool
  staged   : Bool
  items    : List Nat
  held     : List (Nat × Nat × Nat)
  failed   : Bool
  cancel   : Bool
  released : Bool
  refused  : BitVec 12
  snap     : Tbl (List Byte)
  tags     : Tbl (List Nat)
  replies  : Tbl Reply
  zeroed   : List Nat
  landed   : List (Nat × Nat)
  got      : List (Nat × Nat × List Byte)
  deriving DecidableEq, Repr

/-- A residency slot of a context (R235, R236): `st` is 0 FREE, 1 EMPTY, 2 LIVE, 3 STALE. `ranges` lists the physical
ranges (address, length) of its source as its last load found them. -/
structure Residency where
  gen    : BitVec 12
  st     : BitVec 2
  pinned : Bool
  failed : Bool
  layout : Layout
  ranges : List (Nat × Nat)
  deriving DecidableEq, Repr

/-- An instance of a residency in a core's bedrock (R236, R238). `loaders` are the groups that started loads of it which have not
ended, `after` the number of copy jobs issued before it and `seq` the team's SEQ count then, `wait` the position of the trap record its load
waits for, `users` the teams that use it; `old` says that it is dropped once no issued multiply reads it (R236). The list of instances stands in
the order of their last use. -/
structure Inst where
  core    : Nat
  ctx     : Nat
  slot    : Nat
  loading : Bool
  loaders : List Nat
  after   : Nat
  seq     : Word
  wait    : Option Nat
  users   : List Nat
  pages   : Nat
  data    : BMap 8
  old     : Bool
  deriving DecidableEq, Repr

/-- A slot of a context's shape table (R125, R126). -/
structure ShapeSlot where
  gen    : BitVec 12
  alloc  : Bool
  bytes  : List Byte
  deriving DecidableEq, Repr

/-- Who resumes when a trap record is replayed (R342). -/
inductive Replay where
  | group (gid : Nat)
  | item (job : Nat)
  | load (core slot : Nat)
  | drain (serial : Nat) (r : Staged)
  | counter (serial : Nat)
  | save (tid : Nat)
  | spill (gid : Nat)
  | unspill (serial : Nat)
  deriving DecidableEq, Repr

/-- A trap record (R339). -/
structure TrapRec where
  kind  : Nat
  cause : Nat
  group : Nat
  lane  : Nat
  team  : Word
  a     : Word
  grid  : Word
  b     : DWord
  c     : DWord
  deriving DecidableEq, Repr

/-- What waits for a ring position or a record without a group (R362): a queue's command, a team's pending launch, a grid's next
unit. -/
inductive Waiter where
  | queue (q : Nat)
  | launch (tid : Nat)
  | unit (serial : Nat)
  deriving DecidableEq, Repr

/-- A team whose records in the ring count as consumed (R367): GRID and TEAM of its records, and the position of the record that
accepts the next grid of the same GRID, once that is known. -/
structure Gone where
  grid : Nat
  team : Nat
  stop : Option Nat
  deriving DecidableEq, Repr

/-- A TYPE 4 record that is to be consumed without being performed (R367): GRID, TEAM, GROUP and DIGEST. -/
structure Skipped where
  grid   : Nat
  team   : Nat
  group  : Nat
  digest : Nat
  deriving DecidableEq, Repr

/-- Where a spur stands in its context's tree, and the pool index of its list page (R308), as the part keeps them itself. -/
structure SpurLink where
  parent : Word
  first  : Word
  next   : Word
  list   : Nat
  deriving DecidableEq, Repr

/-- A context. `regs` holds the 32-bit words of its register block (R390 to R392) by offset; the rest is what the part
keeps beside the block: spur generations, the allocated spur slots with whether they are being cancelled (R306, R309), the tree of spurs and
their list pages by slot (R308), shape and residency slots, pending trap-queue positions, fatal records held while
the queue is full (R341), grid serials, the clk of a standing pre-emption request and its cause, the Cairn unit's count of
REC grids, what waits for its ring (R362), the records consumed out of ring order, the teams and launches whose records count as
consumed (R358, R364, R367), and the accesses that a host invalidation waits for (R392). -/
structure Context where
  regs      : BMap 32
  spurGen   : BMap 12
  spurs     : Tbl Bool
  links     : Tbl SpurLink
  shapes    : Tbl ShapeSlot
  resid     : Tbl Residency
  tqPend    : Tbl Replay
  fatals    : List TrapRec
  serials   : Nat
  request   : Option Nat
  lastUnit  : Nat
  rserial   : Nat
  stalled   : List Waiter
  diverged  : Bool
  consumed  : List Nat
  gone      : List Gone
  skips     : List Skipped
  inval     : List Nat
  counters  : BMap 64
  destroying : Option Nat
  deriving DecidableEq, Repr

/-- States of a flank page in the crest row cache (R64). -/
inductive PromState where
  | promoting | clean | dirty | writingBack
  deriving DecidableEq, Repr

/-- A flank page that is not in state FLANK (R64): `charge` names the context charged for an explicit promotion, `row` the
cache row of its bank that it holds or will hold, `lru` its place in the replacement order. -/
structure Promoted where
  st       : PromState
  isExplicit : Bool
  charge   : Option Nat
  row      : Nat
  lru      : Nat
  deriving DecidableEq, Repr

/-- An HBM4E stack: its registers (R76), its lost table (R72) and the promotion state of its pages (R64). `goal` is the map that a remap
moves to (R74); `winWas` is WIN before
the change that BUSY shows (R60); `opened` lists the activations of flank pages, latest first, with their real times (R61). -/
structure Stack where
  live      : BitVec 16
  target    : BitVec 16
  goal      : BitVec 16
  rstate    : BitVec 3
  wmClass   : Bool
  wmPage    : BitVec 20
  busy      : Bool
  promo     : BitVec 8
  win       : BitVec 4
  winWas    : BitVec 4
  ce        : Word
  lostAtoms : List Nat
  lostPages : List Nat
  failed    : Bool
  hot       : BitVec 16
  pages     : Tbl Promoted
  lruTick   : Nat
  opened    : List (Nat × Nat)
  deriving DecidableEq, Repr

/-- A translation cache: a core's, a column's, which its four cores share, or that of a massif's base die (R88). -/
inductive TlbUnit where
  | core (column layer : Nat)
  | column (column : Nat)
  | die (massif : Nat)
  deriving DecidableEq, Repr

/-- A translation held in a translation cache (R88): its context, the spur for a spur leaf (R313), the unit it maps and the leaf
with its level. Entries stand in the order of their last use. -/
structure TlbEntry where
  held  : TlbUnit
  ctx   : Nat
  spur  : Option Word
  base  : Nat
  size  : Nat
  leaf  : DWord
  level : Nat
  deriving DecidableEq, Repr

/-- A table entry of level 4, 3 or 2 held in a massif's walk cache (R88): the addresses it covers begin at base. Entries stand in
the order of their last use. -/
structure WalkEntry where
  massif : Nat
  ctx    : Nat
  level  : Nat
  base   : Nat
  entry  : DWord
  deriving DecidableEq, Repr

/-- Queue states (R286). -/
inductive QState where
  | idle | runnable | mapped | error
  deriving DecidableEq, Repr

/-- A registered host queue (R286 to R290). `fn` owns it, `desc` is its descriptor's address; `since` is the clk at which
it entered its state; `quiet` the real time since which HEAD = TAIL with nothing held, `fetched` that of the first fetch of a
command that fails its CHECK and `tries` how often it has been fetched again. -/
structure Queue where
  fn      : Nat
  ctx     : Nat
  desc    : Nat
  ring    : Nat
  logSize : Nat
  qprio   : Nat
  tail    : Word
  head    : Word
  st      : QState
  since   : Nat
  quiet   : Option Nat
  fetched : Option Nat
  tries   : Nat
  deriving DecidableEq, Repr

/-- An event record (R388, R389). -/
structure EvRec where
  code : Nat
  arg0 : Word
  arg1 : DWord
  deriving DecidableEq, Repr

/-- A function's event ring (R388, R389). -/
structure EvRing where
  base : DWord
  log  : BitVec 4
  prod : Word
  cons : Word
  pend : Word
  held : List EvRec
  deriving DecidableEq, Repr

/-- A core's sensor (R372, R373). -/
structure Sensor where
  temp : BitVec 16
  hot  : Bool
  deriving DecidableEq, Repr

/-- A column's governor (R374 to R377): the issue rate n, the counts of cooling and cool decisions, the real time of the latest
decision and the readings of its four cores then, the chosen move (team, target layer, real time of the choice), the real time
from which it is deferred, and the move under way (team, target layer, clk of its start). -/
structure Column where
  rate    : Nat
  decided : Option Nat
  seen    : List Sensor
  cooling : Nat
  cool    : Nat
  choice  : Option (Nat × Nat × Nat)
  defer   : Option Nat
  moving  : Option (Nat × Nat × Nat)
  deriving DecidableEq, Repr

/-- The rail balance of one massif and rail (R378): the issue rates of the layers in sixteenths and the ballasts; the
forecast of the four layers' currents, with its spread, and the real time at which its window ended. -/
structure Balance where
  rates   : List Nat
  ballast : List Nat
  spread  : Nat
  load    : List Nat
  ended   : Nat
  deriving DecidableEq, Repr

/-- Power and thermal state (R379 to R382). `pointClk` and `pointAt` are the clk and the real time at which the arithmetic clock
took its point; `lease`, `since`, `emerg` and `hotOut` are real times (R10); `crit` says a sensor has reached CRIT and no emergency
has started since (R380). -/
structure Power where
  seq      : BitVec 16
  first    : Bool
  cap      : BitVec 10
  lease    : Option Nat
  floor    : BitVec 10
  since    : Nat
  point    : Nat
  pointClk : Nat
  pointAt  : Nat
  emerg    : Option Nat
  railsOff : Bool
  outlet   : BitVec 8
  hotOut   : Option Nat
  crit     : Bool
  limit    : BitVec 8
  deriving DecidableEq, Repr

/-- Firmware and life cycle (R400 to R404). `life` is 0 RAW, 1 PROVISIONED, 2 SECURED, 3 RETURNED; `mapOuts` holds the live map of
each stack that firmware has recorded banks out of (R76). -/
structure Firmware where
  life     : BitVec 2
  recovery : Bool
  slotA    : Option Image
  slotB    : Option Image
  running  : Option Bool
  fused    : BitVec 8
  nonce    : Option (BitVec 128)
  pending  : Option (BitVec 2)
  status   : BitVec 2
  selSlot  : Bool
  length   : BitVec 16
  addr     : DWord
  writing  : Bool
  identity : Bool
  mapOuts  : Tbl (BitVec 16)
  deriving DecidableEq, Repr

/-- A Yelwagon port (R395, R397). -/
structure Port where
  up      : Bool
  enable  : Bool
  peer    : BitVec 12
  txEpoch : Nat
  rxEpoch : Nat
  deriving DecidableEq, Repr

/-- What an act of the part's own has asked of places that are not local: the tag of the request under way and the answers so
far, in order; and, for a drain, the 128-byte lines to which its team has sent contributions, as target, chip and line number (R258). -/
structure Ask where
  tag   : Option Nat
  got   : List Reply
  lines : List (BitVec 2 × BitVec 12 × Nat)
  deriving DecidableEq, Repr

/-- A request on its way to a peer, the host or a pool node (R57, R86, R396): the group, the copy item or the act of the part's own
that waits for it, its source, its 10-bit tag, which is none while the source has 1,024 requests outstanding, the port it takes,
and the real time at which it was sent. -/
structure Remote where
  gid  : Nat
  job  : Option (Nat × Nat)
  own  : Option Nat
  src  : BitVec 14
  tag  : Option (BitVec 10)
  port : Option Nat
  tgt  : BitVec 2
  chip : BitVec 12
  pa   : Nat
  op   : MemOp
  sent : Nat
  deriving DecidableEq, Repr

/-- A cache of local memory: a column's L1, which its four cores share (R137), or the L2 of a massif's base die (R105). -/
inductive CacheUnit where
  | l1 (column : Nat)
  | l2 (massif : Nat)
  deriving DecidableEq, Repr

/-- A line of 128 bytes that a cache holds, by the line's number in physical memory; a dirty one is written back when it leaves. What it
holds is what memory holds, but for `stale`. Lines stand in the order of their last use, by which those of a set replace each other
(R105, R106, R137, R138). -/
structure CacheLine where
  held  : CacheUnit
  line  : Nat
  dirty : Bool
  deriving DecidableEq, Repr

/-- A byte that the host or a peer has overwritten, and that the leased copy in a column's L1 may still show: what it held, and the real
time of the write (R270, R279). -/
structure Stale where
  column : Nat
  pa   : Nat
  old  : Byte
  from_ : Nat
  deriving DecidableEq, Repr

/-- Bytes written at a scope narrower than device that are not performed at device scope yet: by an atomic in the L1 of a column
(R252, R275), or by a copy (R276). `teams` are those of the scope, `gids` the groups that wrote them. -/
structure Late where
  pa     : Nat
  bytes  : List Byte
  column : Option Nat
  teams  : List Nat
  gids   : List Nat
  deriving DecidableEq, Repr

/-- What the part sends to the world outside it, other than requests: replies of its controllers and to peers, the
completions of host reads and atomics, Request Retry Status (R399), SPDM answers, MSI-X signals. -/
inductive OutMsg where
  | reply (src : BitVec 14) (tag : BitVec 10) (st : ReplyStatus) (data : List Byte)
  | peerReply (chip : Nat) (tag : BitVec 10) (st : ReplyStatus) (data : List Byte)
  | hostData (data : List Byte)
  | hostAbort
  | hostUnsupported
  | hostRetry
  | spdm (viaPort : Option Nat) (code : SpdmCode) (err : Bool) (data : List Byte)
  | msix (fn : Nat)
  deriving DecidableEq, Repr

/-- How far the next move goes, where it need not do all at once: which of its accesses are performed now, by place in their order
(R267, R276), and whether what it writes at a scope narrower than device stays at that scope for now (R275, R276). -/
structure Part where
  now  : List Nat
  late : Bool
  deriving DecidableEq, Repr

/-- One move of the part: a group issues its next instruction, whole or in part; a lane runs one instruction from its loop buffer;
an event happens, whole or in part; bytes that were written at a narrow scope are performed at device scope; or time passes. The
agenda lists the moves to come; what chooses them is outside the model. -/
inductive Move where
  | issue (gid : Nat)
  | part (gid : Nat) (p : Part)
  | alone (gid lane : Nat)
  | event (i : Instr)
  | partly (i : Instr) (p : Part)
  | land (n : Nat)
  | tick (n : Nat)
  deriving DecidableEq, Repr

/-- The state of the part. `agenda`, `cur`, `part`, `free`, `ownIn` and the counters `nextTid`, `nextJob` and `nextTag` are the model's own.
`mem` holds local memory by physical address (R54), `caches` the lines that caches hold of it, `stale` and `late` what some agents do not see of it yet (R275, R276, R279),
`coreTt` the logical time of each core (R269), and `hostMem` what the part has written to host memory; `mgmt` holds the
management words that have no structure of their own, by offset: PEER_LO, PEER_HI and the route entries (R396). -/
structure State where
  agenda   : List Move
  cur      : Option Issue
  part     : Option Part
  free     : Nat
  clk      : Nat
  grade    : Grade
  starting : Bool
  mem      : BMap 8
  hostMem  : BMap 8
  hbm      : List Stack
  tlb      : List TlbEntry
  walks    : List WalkEntry
  caches   : List CacheLine
  stale    : List Stale
  late     : List Late
  coreTt   : Tbl DWord
  ctxs     : Tbl Context
  grids    : List Grid
  teams    : List Team
  groups   : List Group
  jobs     : List Job
  insts    : List Inst
  queues   : Tbl Queue
  launches : Tbl LaunchQueue
  lastCol  : Option Nat
  sensors  : Tbl Sensor
  columns  : Tbl Column
  balances : Tbl Balance
  power    : Power
  rings    : Tbl EvRing
  fw       : Firmware
  ports    : Tbl Port
  chipId   : BitVec 12
  mgmt     : BMap 32
  remote   : Tbl Remote
  asks     : Tbl Ask
  ownIn    : List Reply
  pcieUp   : Bool
  latch64  : Tbl Word
  outbox   : List OutMsg
  nextTid  : Nat
  nextJob  : Nat
  nextTag  : Nat
  deriving DecidableEq, Repr

/-- A stack after reset (R76, R399): all sixteen banks live, WIN 0, PROMO 32, nothing lost. [DEDUCED, log 65] -/
def Stack.init : Stack :=
  { live := 0xFFFF, target := 0xFFFF, goal := 0xFFFF, rstate := 0, wmClass := false, wmPage := 0, busy := false, promo := 32, win := 0, winWas := 0,
    ce := 0, lostAtoms := [], lostPages := [], failed := false, hot := 0, pages := [], lruTick := 0, opened := [] }

/-- Power and thermal state after reset (R381, R382): no cap yet, the floor of 4.0 kW, the clock at 1.30 GHz. [DESIGN CHOICE, log 4] -/
def Power.init : Power :=
  { seq := 0, first := true, cap := 0, lease := none, floor := 400, since := 0, point := 12, pointClk := 0, pointAt := 0, emerg := none,
    railsOff := false, outlet := 0, hotOut := none, crit := false, limit := 65 }

/-- Firmware after reset: a SECURED part that runs slot A (log entry on reset values). [DESIGN CHOICE, log 2] -/
def Firmware.init : Firmware :=
  { life := 2, recovery := false, slotA := some ⟨1, 0, some 1⟩, slotB := none, running := some false, fused := 0,
    nonce := none, pending := none, status := 0, selSlot := false, length := 0, addr := 0, writing := false,
    identity := true, mapOuts := [] }

/-- The part after the last step of the reset sequence (R399): every memory zero, no context, no queue.
[DESIGN CHOICE, log 1; DESIGN CHOICE, log 2; DESIGN CHOICE, log 19] -/
def State.reset : State :=
  { agenda := [], cur := none, part := none, free := 0, clk := 0, grade := .summit, starting := false, mem := [], hostMem := [],
    hbm := List.replicate 16 Stack.init, tlb := [], walks := [], caches := [], stale := [], late := [], coreTt := [], ctxs := [], grids := [],
    teams := [], groups := [], jobs := [], insts := [], queues := [], launches := [], lastCol := none, sensors := [], columns := [], balances := [], power := Power.init,
    rings := [], fw := Firmware.init, ports := [], chipId := 0, mgmt := [], remote := [], asks := [], ownIn := [], pcieUp := true,
    latch64 := [], outbox := [], nextTid := 0, nextJob := 0, nextTag := 0 }

end Sys2Proof.Machine
end

