-- ==== Sys2Proof/Machine/Maps.lean ====
section
/-! DEFINITION. Reading and writing the sparse maps and tables of the state, and runs of little-endian bytes in them
(R9). -/

namespace Sys2Proof.Machine

/-- The value at a key; 0 for an unlisted key. -/
def getB {w : Nat} : BMap w → Nat → BitVec w
  | [], _ => 0
  | (a, x) :: t, k => if a = k then x else getB t k

/-- Insertion of a nonzero value in key order. -/
def insB {w : Nat} : BMap w → Nat → BitVec w → BMap w
  | [], k, x => [(k, x)]
  | (a, y) :: t, k, x =>
    if k < a then (k, x) :: (a, y) :: t
    else if a = k then (k, x) :: t
    else (a, y) :: insB t k x

/-- Removal of a key. -/
def delB {w : Nat} (m : BMap w) (k : Nat) : BMap w := m.filter (fun e => e.1 != k)

/-- Writing a value at a key; writing 0 unlists it. -/
def putB {w : Nat} (m : BMap w) (k : Nat) (x : BitVec w) : BMap w := if x = 0 then delB m k else insB m k x

/-- The canonical form: keys strictly rising, no value 0. -/
def wfB {w : Nat} : BMap w → Bool
  | [] => true
  | [(_, x)] => x != 0
  | (a, x) :: (b, y) :: t => x != 0 && decide (a < b) && wfB ((b, y) :: t)

/-- Zero for every key from a to a + n - 1. -/
def zeroB {w : Nat} (m : BMap w) (a n : Nat) : BMap w := m.filter (fun e => e.1 < a || a + n ≤ e.1)

/-- The values of keys src to src + n - 1 written at dst onwards, all read before any is written. -/
def copyB {w : Nat} (m : BMap w) (src dst n : Nat) : BMap w :=
  (m.filter (fun e => src ≤ e.1 && e.1 < src + n)).foldl (fun acc e => putB acc (dst + (e.1 - src)) e.2) (zeroB m dst n)

/-- The keys from a to a + n - 1 set to values given by key. -/
def fillB {w : Nat} (m : BMap w) (a n : Nat) (f : Nat → BitVec w) : BMap w :=
  m.filter (fun e => e.1 < a) ++
  (List.range n).filterMap (fun i => if f (a + i) = 0 then none else some (a + i, f (a + i))) ++
  m.filter (fun e => a + n ≤ e.1)

/-- The record of a number. -/
def getT {α : Type} : Tbl α → Nat → Option α
  | [], _ => none
  | (a, x) :: t, k => if a = k then some x else getT t k

/-- Setting the record of a number. -/
def setT {α : Type} : Tbl α → Nat → α → Tbl α
  | [], k, x => [(k, x)]
  | (a, y) :: t, k, x =>
    if k < a then (k, x) :: (a, y) :: t
    else if a = k then (k, x) :: t
    else (a, y) :: setT t k x

/-- Removing the record of a number. -/
def delT {α : Type} (m : Tbl α) (k : Nat) : Tbl α := m.filter (fun e => e.1 != k)

/-- n bytes from an address. -/
def readB (m : BMap 8) (a n : Nat) : List Byte := (List.range n).map (fun i => getB m (a + i))

/-- Bytes written from an address upward. -/
def writeB (m : BMap 8) (a : Nat) : List Byte → BMap 8
  | [] => m
  | b :: t => writeB (putB m a b) (a + 1) t

/-- The number a run of little-endian bytes holds. -/
def leNat : List Byte → Nat
  | [] => 0
  | b :: t => b.toNat + 256 * leNat t

/-- n little-endian bytes of a number. -/
def leBytes : Nat → Nat → List Byte
  | 0, _ => []
  | n + 1, x => BitVec.ofNat 8 x :: leBytes n (x / 256)

/-- A little-endian number of n bytes within a list of bytes; bytes beyond its end read 0. -/
def fieldB (bs : List Byte) (off n : Nat) : Nat := leNat ((bs.drop off).take n)

/-- The number of 1 bits. -/
def popCount {w : Nat} (x : BitVec w) : Nat := (List.range w).countP (fun i => x.getLsbD i)

/-- The lanes of a mask, ascending. -/
def lanesOf (m : Mask) : List Nat := (List.range 32).filter (fun i => m.getLsbD i)

/-- The mask of a list of lanes. -/
def maskOf (ls : List Nat) : Mask := BitVec.ofNat 32 ((ls.map (fun l => 2 ^ l)).sum)

/-- Every lane. -/
def allLanes : Mask := BitVec.allOnes 32

/-- The bit of lane l. -/
def laneBit (m : Mask) (l : Nat) : Bool := m.getLsbD l

/-- A number rounded up to a multiple. -/
def roundUp (x m : Nat) : Nat := (x + m - 1) / m * m

/-- A value of n bits read as two's complement. -/
def sx (n x : Nat) : Int := if x % 2 ^ n < 2 ^ (n - 1) then (x % 2 ^ n : Nat) else (x % 2 ^ n : Nat) - (2 ^ n : Nat)

/-- An integer modulo 2^n. -/
def wrap (n : Nat) (x : Int) : Nat := (x % (2 ^ n : Nat)).toNat

end Sys2Proof.Machine
end

