-- ==== Sys2Proof/Machine/CtxRegs.lean ====
section
/-! DEFINITION. The registers of a context's block, by offset, and the fields of CTX_CTL (R390 to R392). -/

namespace Sys2Proof.Machine

namespace CtxReg

def ctl : Nat := 0x000
def ptRoot : Nat := 0x008
def fbBase : Nat := 0x010
def shapeBase : Nat := 0x018
def shapeSlots : Nat := 0x020
def resBase : Nat := 0x028
def resSlots : Nat := 0x030
def bedrockQuota : Nat := 0x034
def promoQuota : Nat := 0x038
def spurTable : Nat := 0x040
def spurSlots : Nat := 0x048
def poolBase : Nat := 0x050
def poolPages : Nat := 0x058
def poolRef : Nat := 0x060
def poolFree : Nat := 0x068
def poolTop : Nat := 0x070
def poolPush : Nat := 0x074
def tqBase : Nat := 0x080
def tqProd : Nat := 0x088
def tqCons : Nat := 0x08C
def tqThresh : Nat := 0x090
def tqReplay : Nat := 0x094
def trapVec : Nat := 0x0A0
def saveBase : Nat := 0x0A8
def saveLimit : Nat := 0x0B0
def swapThresh : Nat := 0x0B4
def deadline0 : Nat := 0x0B8
def cairnBase : Nat := 0x0D0
def cairnLog : Nat := 0x0D8
def cairnDir : Nat := 0x0DC
def cairnProd : Nat := 0x0E0
def cairnCons : Nat := 0x0E4
def cairnThresh : Nat := 0x0E8
def cairnEnd : Nat := 0x0EC
def preempt : Nat := 0x100
def qregAddr : Nat := 0x108
def qregCmd : Nat := 0x110
def invalBase : Nat := 0x118
def invalCmd : Nat := 0x120

end CtxReg

/-- A 32-bit register of a context block. -/
def Context.reg (x : Context) (off : Nat) : Word := getB x.regs off

/-- A 64-bit register of a context block: two words, low half first (R387). -/
def Context.reg64 (x : Context) (off : Nat) : Nat := (x.reg off).toNat + 2 ^ 32 * (x.reg (off + 4)).toNat

/-- Set a 32-bit register. -/
def Context.setReg (x : Context) (off : Nat) (v : Word) : Context := { x with regs := putB x.regs off v }

/-- UP (R390). -/
def Context.isUp (x : Context) : Bool := (x.reg CtxReg.ctl).getLsbD 31

/-- HALTED (R341, R390). -/
def Context.isHalted (x : Context) : Bool := (x.reg CtxReg.ctl).getLsbD 29

/-- OWNER (R390). -/
def Context.owner (x : Context) : Nat := (x.reg CtxReg.ctl).toNat / 2 ^ 18 % 64

end Sys2Proof.Machine
end

