-- ==== Sys2Proof/Machine/Walk.lean ====
section
/-! DEFINITION. The page table as memory holds it: indices, entries and what makes them malformed (R82 to R86), and the place that the
tables alone give an address. -/

namespace Sys2Proof.Machine

/-- The index of a level (R82). -/
def vaIndex (lvl va : Nat) : Nat :=
  match lvl with
  | 4 => va / 2 ^ 48 % 512
  | 3 => va / 2 ^ 39 % 512
  | 2 => va / 2 ^ 30 % 512
  | 1 => va / 2 ^ 21 % 512
  | _ => va / 2 ^ 16 % 32

/-- The bytes a leaf of a level maps (R82). -/
def unitSize (lvl : Nat) : Nat :=
  match lvl with
  | 2 => 2 ^ 30
  | 1 => 2 ^ 21
  | _ => 65536

/-- Bits hi to lo of a number. -/
def fld (x hi lo : Nat) : Nat := x / 2 ^ lo % 2 ^ (hi + 1 - lo)

/-- A leaf is malformed (R84, R85, R311). -/
def leafBad (lvl e : Nat) : Bool :=
  fld e 49 48 != 0 || fld e 15 9 != 0 || fld e 2 2 != 0 || fld e 7 6 == 3 ||
  (fld e 51 50 == 0 && fld e 47 41 != 0) || (fld e 51 50 == 2 && fld e 63 52 != 0) ||
  (lvl == 1 && fld e 20 16 != 0) || (lvl == 2 && fld e 29 16 != 0) ||
  (fld e 8 8 == 1 && (lvl != 0 || fld e 51 50 != 0 || fld e 47 30 != 0))

/-- A table entry is malformed: reserved bits, NEXT beyond local memory or below the next table's alignment (R83, R85). -/
def tableBad (lvl e : Nat) : Bool :=
  fld e 63 48 != 0 || fld e 7 2 != 0 || fld e 47 41 != 0 || (2 ≤ lvl && fld e 11 8 != 0)

/-- The bytes an entry of a level covers (R82). -/
def entrySpan (lvl : Nat) : Nat :=
  match lvl with
  | 4 => 2 ^ 48
  | 3 => 2 ^ 39
  | 2 => 2 ^ 30
  | 1 => 2 ^ 21
  | _ => 65536

/-- The local physical address that the tables in memory give a virtual address: none where a walk fails, meets a spur leaf, or leads
off this chip (R85, R86, R311). -/
def tableMaps (m : BMap 8) (chip va : Nat) : Nat → Nat → Option Nat
  | lvl, table =>
    let e := leNat (readB m (table + 8 * vaIndex lvl va) 8)
    if e % 2 = 0 then none
    else if fld e 1 1 = 1 then
      if 3 ≤ lvl || leafBad lvl e || fld e 8 8 == 1 then none
      else if fld e 51 50 = 0 then some (fld e 47 16 * 65536 + va % unitSize lvl)
      else if fld e 51 50 = 1 ∧ fld e 63 52 = chip then some ((fld e 47 16 * 65536 + va % unitSize lvl) % 2 ^ 41)
      else none
    else
      match lvl with
      | 0 => none
      | l + 1 => if tableBad (l + 1) e then none else tableMaps m chip va l (fld e 47 8 * 256)

end Sys2Proof.Machine
end

