-- ==== Sys2Proof/Machine/Memory.lean ====
section
/-! DEFINITION. Real time (R10), and local memory: which physical addresses exist and where in a stack they lie (R54, R55), what
error correction has lost (R71, R72), the writes every agent makes, with what a write does to residencies and promoted pages
(R64, R237), and what reaches a stack's controller (R61, R62). -/

namespace Sys2Proof.Machine

/-! ## Real time (R10, R379)

Bounds given in microseconds are real time, which the arithmetic clock's changes do not bend. Real time counts in parts of which
every one of the thirteen points makes a clk a whole number. -/

/-- The parts in the clk of an arithmetic clock of 50 MHz; its multiples by 14 to 26, the thirteen points, divide it. -/
def clkParts : Nat := 26771144400

/-- The real time of a number of microseconds. [DESIGN CHOICE, log 10] -/
def us (n : Nat) : Nat := n * (50 * clkParts)

/-- The real time of one clk at a point: point 0 is 0.70 GHz, and each further one 0.05 GHz more (R379). [DESIGN CHOICE, log 10] -/
def clkTime (point : Nat) : Nat := clkParts / (14 + point)

/-- The clk that have passed of a number of them, from a real time on, at a length each. -/
def clkPassed (from_ n each now : Nat) : Nat := min n ((now - from_) / each)

/-- The real time now. [DESIGN CHOICE, log 10] -/
def State.now (s : State) : Nat := s.power.pointAt + (s.clk - s.power.pointClk) * clkTime s.power.point

/-! ## Local memory -/

/-- The latency class bit of a physical address (R54). -/
def paClass (pa : Nat) : Bool := pa / 2 ^ 40 % 2 == 1

/-- The stack of a physical address (R54). -/
def paStack (pa : Nat) : Nat := pa / 2 ^ 36 % 16

/-- The 64 KiB page within the class of its stack (R54). -/
def paPage (pa : Nat) : Nat := pa % 2 ^ 36 / 65536

/-- The number of live banks (R54). -/
def Stack.banks (k : Stack) : Nat := popCount k.live

/-- Pages of a class of a stack (R55). -/
def Stack.pageCount (k : Stack) (crest : Bool) : Nat :=
  if crest then k.banks * 1024 * k.win.toNat else k.banks * 57344

/-- The (page mod nb)-th live bank of a map (R54). -/
def bankIn (map : BitVec 16) (page : Nat) : Nat :=
  ((List.range 16).filter (fun b => map.getLsbD b)).getD (page % popCount map) 0

/-- The bank of a page under the live map (R54). -/
def Stack.bankOf (k : Stack) (page : Nat) : Nat := bankIn k.live page

/-- A remap takes a bank out, rather than restoring one (R74). -/
def Stack.isShrink (k : Stack) : Bool := decide (popCount k.goal < popCount k.live)

/-- A remap has moved a page already: the crest is moved before the flank, downward in a shrink and upward in a restore, and
HB_WMARK tells how far (R74, R75). -/
def Stack.hasMoved (k : Stack) (crest : Bool) (page : Nat) : Bool :=
  k.rstate == 2 && (if crest == k.wmClass then
      (if k.isShrink then decide (k.wmPage.toNat ≤ page) else decide (page < k.wmPage.toNat))
    else crest)

/-- The map that holds for a page: the new one once a remap has moved it (R75). -/
def Stack.mapFor (k : Stack) (crest : Bool) (page : Nat) : BitVec 16 := if k.hasMoved crest page then k.goal else k.live

/-- A place in DRAM: stack, pseudo-channel, bank, row and byte of the row (R54). -/
structure DramPlace where
  stack   : Nat
  channel : Nat
  bank    : Nat
  row     : Nat
  byte    : Nat
  deriving DecidableEq, Repr

/-- Where a stack holds a physical address (R54, R75). -/
def Stack.dram (k : Stack) (pa : Nat) : DramPlace :=
  let map := k.mapFor (paClass pa) (paPage pa)
  { stack := paStack pa, channel := pa / 256 % 64, bank := bankIn map (paPage pa),
    row := paPage pa / popCount map + (if paClass pa then 0 else 8192), byte := pa / 16384 % 4 * 256 + pa % 256 }

/-- HBM4E stacks installed (R1, R4). -/
def Grade.stacks : Grade → Nat
  | .saddle => 8
  | _ => 16

/-- A physical address names a location: a page within the live capacity of a stack that is installed (R1, R7, R55). -/
def localExists (s : State) (pa : Nat) : Bool :=
  pa < 2 ^ 41 && decide (paStack pa < s.grade.stacks) &&
  match s.hbm[paStack pa]? with
  | none => false
  | some k => paPage pa < k.pageCount (paClass pa)

/-- A byte lies in a lost atom (R71, R72). -/
def isLost (s : State) (pa : Nat) : Bool :=
  match s.hbm[paStack pa]? with
  | none => false
  | some k => k.failed || k.lostAtoms.contains (pa / 32) || k.lostPages.contains (pa / 65536)

/-- Change one stack. -/
def State.modStack (s : State) (i : Nat) (f : Stack → Stack) : State :=
  { s with hbm := s.hbm.modify i f }

/-- A residency whose source a write of a run touches. -/
def Residency.meetsRun (r : Residency) (pa n : Nat) : Bool :=
  r.ranges.any (fun x => decide (pa / 128 * 128 < x.1 + x.2) && decide (x.1 < (pa + n + 127) / 128 * 128))

/-- The places of a source's 64 KiB pages as the tables map them now. A load that is in progress counts from its start, so that a page
which is mapped only during the load is watched too (R237). [DEDUCED, log 87] -/
def Residency.pagesNow (r : Residency) (s : State) (root : Nat) : List (Nat × Nat) :=
  (List.range ((r.layout.base + r.layout.bytes + 65535) / 65536 - r.layout.base / 65536)).filterMap (fun i =>
    let lo := max r.layout.base ((r.layout.base / 65536 + i) * 65536)
    let hi := min (r.layout.base + r.layout.bytes) ((r.layout.base / 65536 + i + 1) * 65536)
    (tableMaps s.mem s.chipId.toNat lo 4 root).map (fun pa => (pa, hi - lo)))

/-- A write of a run meets the source of a LIVE residency of a slot of a context (R237). -/
def Residency.isHit (r : Residency) (s : State) (c : Nat × Context) (slot pa n : Nat) : Bool :=
  r.st == 2 && (r.meetsRun pa n ||
    (s.insts.any (fun i => i.loading && i.ctx == c.1 && i.slot == slot) &&
      { r with ranges := r.pagesNow s (c.2.reg64 CtxReg.ptRoot) }.meetsRun pa n))

/-- Instances are dropped, each once no issued multiply on its core reads it (R236). -/
def State.dropInsts (s : State) (f : Inst → Bool) : State :=
  let read := fun i : Inst => s.teams.any (fun t => t.ctx == i.ctx && 4 * t.column + t.layer == i.core &&
    t.array.any (fun o => o.res == some i.slot))
  { s with insts := s.insts.filterMap (fun i => if f i then (if read i then some { i with old := true, loading := false } else none) else some i) }

/-- A write of a run makes every LIVE residency whose source lines it meets STALE, and drops its instances (R236, R237). -/
def State.markStaleRun (s : State) (pa n : Nat) : State :=
  if s.ctxs.any (fun c => c.2.resid.any (fun r => r.2.isHit s c r.1 pa n)) then
    let hit := fun (c slot : Nat) => match getT s.ctxs c with
      | none => false
      | some x => match getT x.resid slot with
        | none => false
        | some r => r.isHit s (c, x) slot pa n
    { s.dropInsts (fun i => hit i.ctx i.slot) with
      ctxs := s.ctxs.map (fun c => (c.1, { c.2 with
        resid := c.2.resid.map (fun r => if r.2.isHit s c r.1 pa n then (r.1, { r.2 with st := 3 }) else r) })) }
  else s

/-- A write of one byte makes residencies STALE (R236, R237). -/
def State.markStale (s : State) (pa : Nat) : State := s.markStaleRun pa 1

/-- A write at pa makes a clean promoted page dirty (R64). [DESIGN CHOICE, log 12] -/
def State.markDirty (s : State) (pa : Nat) : State :=
  if paClass pa then s
  else match s.hbm[paStack pa]? with
    | none => s
    | some k => match getT k.pages (paPage pa) with
      | some p => if p.st = .clean then
          s.modStack (paStack pa) (fun k => { k with pages := setT k.pages (paPage pa) { p with st := .dirty } })
        else s
      | none => s

/-- One byte stored in local memory by any agent. -/
def State.store1 (s : State) (pa : Nat) (b : Byte) : State :=
  ({ s with mem := putB s.mem pa b, stale := s.stale.filter (fun x => x.pa != pa) }.markStale pa).markDirty pa

/-- Bytes stored in local memory, in the order of the list: a later write to an address wins (R152). -/
def State.storeAll (s : State) : List (Nat × Byte) → State
  | [] => s
  | (pa, b) :: t => (s.store1 pa b).storeAll t

/-- A run of bytes as single writes. -/
def spread (a : Nat) : List Byte → List (Nat × Byte)
  | [] => []
  | b :: t => (a, b) :: spread (a + 1) t

/-- A run of bytes stored at a physical address. -/
def State.storeRun (s : State) (pa : Nat) (bs : List Byte) : State := s.storeAll (spread pa bs)

/-- A run of bytes of local memory. -/
def State.loadRun (s : State) (pa n : Nat) : List Byte := readB s.mem pa n

/-- A little-endian number in local memory. -/
def State.loadNat (s : State) (pa n : Nat) : Nat := leNat (s.loadRun pa n)

/-- A set of writes covers an atom whole. -/
def coversAtom (ws : List (Nat × Byte)) (a : Nat) : Bool := (List.range 32).all (fun i => ws.any (fun v => v.1 == 32 * a + i))

/-- A byte of a set of writes lies in an atom that stays lost: the writes cover it in part, or its stack has failed or its page is
lost, which no write clears (R71, R72). A write of a whole atom in a lost page thus gets DATA_LOST and writes nothing; R72 says only that
it clears no entry. [DESIGN CHOICE, log 114] -/
def staysLost (s : State) (ws : List (Nat × Byte)) (a : Nat) : Bool :=
  isLost s a &&
    (match s.hbm[paStack a]? with
     | none => true
     | some k => k.failed || k.lostPages.contains (a / 65536) || !coversAtom ws (a / 32))

/-- The first atom that stays lost under a set of writes (R71). [DESIGN CHOICE, log 114] -/
def partLost (s : State) (ws : List (Nat × Byte)) : Option Nat :=
  (ws.find? (fun w => staysLost s ws w.1)).map (fun w => w.1 / 32 * 32)

/-- Lost atoms that a set of writes covers whole leave the lost table (R71). -/
def State.clearLost (s : State) (ws : List (Nat × Byte)) : State :=
  { s with hbm := s.hbm.map (fun k => { k with lostAtoms := k.lostAtoms.filter (fun a => !coversAtom ws a) }) }

/-- The lowest lost atom of a run within one page (R71, R72). -/
def lostIn (s : State) (pa n : Nat) : Option Nat :=
  match s.hbm[paStack pa]? with
  | none => none
  | some k =>
    if k.failed || k.lostPages.contains (pa / 65536) then some (pa / 32 * 32)
    else match k.lostAtoms.filter (fun a => decide (pa / 32 ≤ a) && decide (a ≤ (pa + n - 1) / 32)) with
      | [] => none
      | a :: t => some (t.foldl min a * 32)

/-! ## What reaches a controller (R61, R62) -/

/-- An access reaches the controller of its stack, where it uses a promoted page or may open a row of a flank page.
[DESIGN CHOICE, log 12] -/
def State.reach (s : State) (pa : Nat) : State :=
  if paClass pa then s
  else
    { s with hbm := s.hbm.modify (paStack pa) (fun k =>
        match getT k.pages (paPage pa) with
        | some p => { k with pages := setT k.pages (paPage pa) { p with lru := k.lruTick }, lruTick := k.lruTick + 1 }
        | none =>
          { k with opened :=
              if Config.opensRow s.clk (pa / 65536 * 64 + pa / 256 % 64) then
                (paPage pa, s.now) :: k.opened.filter (fun o => decide (s.now < o.2 + us 64))
              else k.opened }) }

/-- Every row of a page is reached: the page is copied or zeroed whole (R61, R312). -/
def State.reachPage (s : State) (pa : Nat) : State := (List.range 64).foldl (fun a i => a.reach (pa / 65536 * 65536 + 256 * i)) s

/-- An atom that an HROW or another request meets in a stack that has failed (R72). -/
def stackFailed (s : State) (pa : Nat) : Bool := (s.hbm[paStack pa]?).any (·.failed)

/-! ## Caches (R105, R106, R137, R138) -/

/-- The L2 that caches an address: that of the massif whose stacks hold it (R18, R105). -/
def homeL2 (pa : Nat) : CacheUnit := .l2 (paStack pa / 8)

/-- A cache holds a line. -/
def State.holds (s : State) (u : CacheUnit) (line : Nat) : Bool := s.caches.any (fun x => x.line == line && x.held == u)

/-- The set of a line among the sets of all slices of a cache, each of 16 lines (R105, R137). [DESIGN CHOICE, log 12] -/
def CacheUnit.setOf (u : CacheUnit) (line : Nat) : Nat :=
  match u with
  | .l1 _ => Config.lineSlice 1 (line % 2 ^ 33) % 4 * 256 + Config.lineSet 1 line % 256
  | .l2 _ => Config.lineSlice 2 (line % 2 ^ 33) % 64 * 4096 + Config.lineSet 2 line % 4096

/-- The line that leaves a cache for a new one: the least recently used of a full set (R105, R137). -/
def victimLine (cs : List CacheLine) (u : CacheUnit) (line : Nat) : Option CacheLine :=
  let mine := cs.filter (fun x => x.held == u)
  if mine.length < 16 then none else ((mine.filter (fun x => u.setOf x.line == u.setOf line)).drop 15).head?

/-- A line that a cache holds is used: by class 0 it becomes the most recently used, by another class it stays where it is; a write makes
the line of a write-back cache dirty (R106, R138). -/
def usedLine (cs : List CacheLine) (u : CacheUnit) (line cc : Nat) (wr : Bool) : List CacheLine :=
  let it := fun x : CacheLine => x.line == line && x.held == u
  let mark := fun x : CacheLine => if it x then { x with dirty := x.dirty || wr } else x
  if cc = 0 then (cs.filter it).map mark ++ cs.filter (fun x => !it x) else cs.map mark

/-- A line enters a cache: by class 0 as the most recently used, by class 1 as the least recently used of its set (R106, R138). -/
def newLine (cs : List CacheLine) (x : CacheLine) (cc : Nat) : List CacheLine :=
  let rest := match victimLine cs x.held x.line with
    | some v => cs.erase v
    | none => cs
  if cc = 0 then x :: rest else rest ++ [x]

/-- Lines leave the caches without being written back, with what leased copies among them still showed. -/
def State.dropLines (s : State) (f : CacheLine → Bool) : State :=
  { s with
    caches := s.caches.filter (fun x => !f x)
    stale := s.stale.filter (fun x => !f ⟨.l1 x.column, x.pa / 128, false⟩) }

/-- An access of a class meets the L2 of its line (R105, R106, R71): a miss reaches the controller and, but for class 2 and for a line that
holds a lost atom, brings the line in, where a dirty line that leaves is written back; a write of class 2 that hits goes on to the
controller too. [DESIGN CHOICE, log 12] -/
def State.useL2 (s : State) (pa cc : Nat) (wr : Bool) : State :=
  let u := homeL2 pa
  let line := pa / 128
  if s.holds u line then
    let s1 := { s with caches := usedLine s.caches u line cc (wr && cc != 2) }
    if wr && cc == 2 then s1.reach pa else s1
  else
    let s1 := s.reach pa
    if cc == 2 || (lostIn s (line * 128) 128).isSome then s1
    else
      let s2 := match victimLine s.caches u line with
        | some v => if v.dirty then s1.reach (128 * v.line) else s1
        | none => s1
      { s2 with caches := newLine s.caches ⟨u, line, wr⟩ cc }

/-- A line enters the L1 of a column, but for class 2 and for a line that holds a lost atom (R71, R138); what leaves takes with it what its
leased copy still showed. [DESIGN CHOICE, log 12] -/
def State.fillL1 (s : State) (column line cc : Nat) : State :=
  if cc == 2 || (lostIn s (line * 128) 128).isSome then s
  else
    { s with
      caches := newLine s.caches ⟨.l1 column, line, false⟩ cc
      stale := match victimLine s.caches (.l1 column) line with
        | some v => s.stale.filter (fun x => !(x.column == column && x.pa / 128 == v.line))
        | none => s.stale }

/-- A run of bytes meets the L2, line by line. -/
def State.runL2 (s : State) (pa n cc : Nat) (wr : Bool) : State :=
  if n = 0 then s
  else (List.range ((pa + n - 1) / 128 + 1 - pa / 128)).foldl (fun a i => a.useL2 ((pa / 128 + i) * 128) cc wr) s

/-! ## Crest state (R60, R61) -/

/-- The activations of a flank page within the last 64 µs (R61). [DESIGN CHOICE, log 12] -/
def Stack.activations (k : Stack) (page now : Nat) : Nat :=
  k.opened.countP (fun o => o.1 == page && decide (now < o.2 + us 64))

/-- The new window pages of a crest are not open yet: the change that BUSY shows has raised WIN (R60). [DEDUCED, log 64] -/
def isHeld (s : State) (pa : Nat) : Bool :=
  paClass pa && (match s.hbm[paStack pa]? with
    | none => false
    | some k => k.busy && decide (k.banks * 1024 * k.winWas.toNat ≤ paPage pa))

/-! ## What some agents do not see yet (R270, R275, R276, R279) -/

/-- Writes by the host or a peer, which wait for no lease: the leased copies of their lines that L1s hold may show the old bytes for less
than 2 µs from the first such write to the line on (R270, R279). [DESIGN CHOICE, log 105] -/
def State.storeExtern (s : State) (ws : List (Nat × Byte)) : State :=
  let live := s.stale.filter (fun x => decide (s.now < x.from_ + us 2))
  let since := fun column line => ((live.find? (fun x => x.column == column && x.pa / 128 == line)).map (·.from_)).getD s.now
  let old := ws.flatMap (fun w =>
    if getB s.mem w.1 = w.2 then []
    else s.caches.filterMap (fun x => match x.held with
      | .l1 column => if x.line = w.1 / 128 then some (⟨column, w.1, getB s.mem w.1, since column x.line⟩ : Stale) else none
      | .l2 _ => none))
  { s.storeAll ws with stale := live ++ old }

/-- The byte that the leased copy in a column's L1 still shows in place of what an external write has left (R279).
[DESIGN CHOICE, log 105] -/
def State.leasedByte (s : State) (column pa : Nat) : Option Byte :=
  (s.stale.find? (fun x => x.column == column && x.pa == pa &&
    decide (s.now < x.from_ + Config.leaseLeft column (pa / 128) x.from_ % us 2))).map (·.old)

/-- An entry's bytes and a run have an address in common. -/
def Late.meets (x : Late) (pa n : Nat) : Bool := decide (x.pa < pa + n) && decide (pa < x.pa + x.bytes.length)

/-- The entries that satisfy a condition are performed at device scope, in order; what falls in an atom that has been lost since and stays
so is not written (R71, R275, R276). -/
def State.landLate (s : State) (f : Late → Bool) : State :=
  if s.late.isEmpty then s
  else (s.late.filter f).foldl (fun a x =>
      let ws := (spread x.pa x.bytes).filter (fun w => !staysLost a (spread x.pa x.bytes) w.1)
      (a.clearLost ws).storeAll ws)
    { s with late := s.late.filter (fun x => !f x) }

/-- The nth entry is performed at device scope. -/
def State.landNth (s : State) (n : Nat) : State :=
  match s.late[n]? with
  | none => s
  | some y => s.landLate (fun x => x == y)

/-- Everything that a group has written at a narrow scope is performed at device scope (R272, R275). -/
def State.landOf (s : State) (gid : Nat) : State := s.landLate (fun x => x.gids.contains gid)

/-- Everything that the groups of a team have written so is performed. -/
def State.landTeam (s : State) (tid : Nat) : State := s.landLate (fun x => x.gids.any (fun g => g / 32 == tid))

/-- Before an access of a team to a run, what its scope contains and its bytes meet is performed (R253). [DESIGN CHOICE, log 105] -/
def State.landFor (s : State) (tid : Nat) (runs : List (Nat × Nat)) : State :=
  s.landLate (fun x => x.teams.contains tid && runs.any (fun r => x.meets r.1 r.2))

/-- The logical time of a core (R269). -/
def State.coreTime (s : State) (core : Nat) : Nat := ((getT s.coreTt core).getD 0).toNat

/-! ## The part's own reads and writes by physical address

No requester waits for them, so the spec names nobody whom a DATA_LOST or ABSENT reply would tell. -/

/-- Bytes as the part itself reads them: one that is lost or has no location is an open value. [DESIGN CHOICE, log 111] -/
def State.readOwn (s : State) (pa n : Nat) : List Byte :=
  (List.range n).map (fun i =>
    if localExists s (pa + i) && !isLost s (pa + i) then getB s.mem (pa + i) else Config.lostByte s.clk (pa + i))

/-- A little-endian number as the part itself reads it. [DESIGN CHOICE, log 111] -/
def State.readNat (s : State) (pa n : Nat) : Nat := leNat (s.readOwn pa n)

/-- Bytes that the part itself writes: atoms it covers whole are lost no more, and what falls on an atom that stays lost or has no
location is not written (R55, R71). [DESIGN CHOICE, log 111] -/
def State.writeOwn (s : State) (pa : Nat) (bs : List Byte) : State :=
  let ws := spread pa bs
  let ok := ws.filter (fun w => localExists s w.1 && !staysLost s ws w.1)
  ((s.clearLost ok).storeAll ok).runL2 pa bs.length 0 true

/-- A page of 64 KiB is written whole at its stack: its lost atoms are lost no more, no cache holds a line of it, it is dirty if cached in
the crest, and sources within it are stale (R64, R71, R237). [DESIGN CHOICE, log 12] -/
def State.pageWritten (s : State) (pa : Nat) : State :=
  let s1 := { s with
    hbm := s.hbm.modify (paStack pa) (fun k => { k with lostAtoms := k.lostAtoms.filter (fun a => a / 2048 != pa / 65536) })
      }.dropLines (fun x => x.line / 512 == pa / 65536)
  ((s1.markStaleRun pa 65536).markDirty pa).reachPage pa

/-- Copy a page of local memory, each atom whole (R312). -/
def State.copyPage (s : State) (src dst : Nat) : State :=
  ({ s with mem := copyB s.mem src dst 65536 }.reachPage src).pageWritten dst

/-- Zero a page of local memory (R312). -/
def State.zeroPage (s : State) (pa : Nat) : State := { s with mem := zeroB s.mem pa 65536 }.pageWritten pa

end Sys2Proof.Machine
end

