-- ==== Sys2Proof/Machine/Ops.lean ====
section
/-! DEFINITION. The named operations over the state that every meaning shares: finding and setting groups, teams, grids and
contexts; registers; launch-record fields; posting events and trap records; ending teams; and taking a trap, entering the
handler and returning from it (R327 to R335). -/

namespace Sys2Proof.Machine

/-! ## Finding and setting -/

/-- The group of a number. -/
def State.group? (s : State) (gid : Nat) : Option Group := s.groups.find? (fun g => g.gid == gid)

/-- The team of a number. -/
def State.team? (s : State) (tid : Nat) : Option Team := s.teams.find? (fun t => t.tid == tid)

/-- The grid of a context with a serial. -/
def State.grid? (s : State) (c serial : Nat) : Option Grid := s.grids.find? (fun g => g.ctx == c && g.serial == serial)

/-- The context of a number. -/
def State.ctx? (s : State) (c : Nat) : Option Context := getT s.ctxs c

/-- Replace a group by number. -/
def State.setGroup (s : State) (g : Group) : State :=
  { s with groups := s.groups.map (fun h => if h.gid = g.gid then g else h) }

/-- Replace a team by number. -/
def State.setTeam (s : State) (t : Team) : State :=
  { s with teams := s.teams.map (fun u => if u.tid = t.tid then t else u) }

/-- Replace a grid by context and serial. -/
def State.setGrid (s : State) (g : Grid) : State :=
  { s with grids := s.grids.map (fun h => if h.ctx = g.ctx ∧ h.serial = g.serial then g else h) }

/-- Set a context. -/
def State.setCtx (s : State) (c : Nat) (x : Context) : State := { s with ctxs := setT s.ctxs c x }

/-- Change a context, when it exists. -/
def State.modCtx (s : State) (c : Nat) (f : Context → Context) : State :=
  match s.ctx? c with
  | none => s
  | some x => s.setCtx c (f x)

/-- Change a team, when it exists. -/
def State.modTeam (s : State) (tid : Nat) (f : Team → Team) : State :=
  { s with teams := s.teams.map (fun u => if u.tid = tid then f u else u) }

/-- Change a group, when it exists. -/
def State.modGroup (s : State) (gid : Nat) (f : Group → Group) : State :=
  { s with groups := s.groups.map (fun u => if u.gid = gid then f u else u) }

/-- Change a grid, when it exists. -/
def State.modGrid (s : State) (c serial : Nat) (f : Grid → Grid) : State :=
  { s with grids := s.grids.map (fun h => if h.ctx = c ∧ h.serial = serial then f h else h) }

/-- The groups of a team. -/
def State.groupsOf (s : State) (tid : Nat) : List Group := s.groups.filter (fun g => g.gid / 32 == tid)

/-! ## Requests to places that are not local (R57) -/

/-- A tag that no outstanding request of a source uses: the lowest of its 1,024. [DEDUCED, log 98] -/
def State.freeTag (s : State) (src : BitVec 14) : Option (BitVec 10) :=
  let used := (s.remote.filter (fun (r : Nat × Remote) => r.2.src == src)).filterMap (fun r => r.2.tag)
  ((List.range 1024).find? (fun n => !used.contains (BitVec.ofNat 10 n))).map (BitVec.ofNat 10)

/-- The line that a request reaches. -/
def Remote.line (r : Remote) : BitVec 2 × BitVec 12 × Nat := (r.tgt, r.chip, r.pa / 128)

/-- A request may be sent: it reaches no line to which a team that is being drained has sent some of its contributions, so that a load sees
whole teams there (R258). The part's own requests are not held. [DEDUCED, log 113] -/
def State.mayGo (s : State) (r : Remote) : Bool :=
  r.own.isSome || s.asks.all (fun k => !k.2.lines.contains r.line)

/-- A request that waits for a tag of its source, or for a drain, gets a tag that is free, and is sent (R57). -/
def State.grantOne (s : State) (r : Nat × Remote) : State :=
  if r.2.tag.isSome || !s.mayGo r.2 then s
  else match s.freeTag r.2.src with
    | some t => { s with remote := setT s.remote r.1 { r.2 with tag := some t, sent := s.now } }
    | none => s

/-- The requests that wait are sent in order, as far as they may be. -/
def State.grantAll (s : State) : State := s.remote.foldl State.grantOne s

/-- Requests are no longer outstanding, and those that wait for tags are sent in order (R57). -/
def State.dropRemote (s : State) (drop : Nat × Remote → Bool) : State :=
  { s with remote := s.remote.filter (fun r => !drop r) }.grantAll

/-! The numbers under which acts of the part's own ask of places that are not local: those of a team's save area, those of a grid's
drains, releases and counter update, the spills of a team, and the fetches of a queue. -/

/-- Of a team's save area. -/
def teamKey (t : Team) : Nat := 4 * t.tid

/-- Of a grid. -/
def gridKey (c serial : Nat) : Nat := 4 * (64 * serial + c) + 1

/-- Of a team's spills. -/
def spillKey (c serial team : Nat) : Nat := 4 * (team * 2 ^ 64 + 64 * serial + c) + 2

/-- Of a queue: its commands, or the counter that its wait names. -/
def queueKey (q : Nat) (counter : Bool) : Nat := 4 * (2 * q + counter.toNat) + 3

/-- What an act of the part has asked is forgotten; an answer on its way finds nobody. -/
def State.forgetAsk (s : State) (key : Nat) : State := { s with asks := delT s.asks key }.grantAll

/-- The massif of a column (R15). -/
def massifOf (column : Nat) : Nat := column / 384

/-! ## Registers (R35, R36, R38, R178) -/

/-- v n of a lane. -/
def Regs.getV (r : Regs) (n lane : Nat) : Word := getB r.v (32 * n + lane)

/-- Write v n of a lane. -/
def Regs.setV (r : Regs) (n lane : Nat) (x : Word) : Regs := { r with v := putB r.v (32 * n + lane) x }

/-- k j; k0 reads zero. -/
def Regs.getK (r : Regs) (j : Nat) : Word := if j = 0 then 0 else getB r.k j

/-- Write k j; a write to k0 is discarded. -/
def Regs.setK (r : Regs) (j : Nat) (x : Word) : Regs := if j = 0 then r else { r with k := putB r.k j x }

/-- The 64-bit pair of vector registers n and n + 1 of a lane. -/
def Regs.getV2 (r : Regs) (n lane : Nat) : DWord := r.getV (n + 1) lane ++ r.getV n lane

/-- Write a vector pair. -/
def Regs.setV2 (r : Regs) (n lane : Nat) (x : DWord) : Regs :=
  (r.setV n lane (x.setWidth 32)).setV (n + 1) lane ((x >>> 32).setWidth 32)

/-- The 64-bit pair of uniform registers j and j + 1; the pair k0 reads 64-bit zero (R36). -/
def Regs.getK2 (r : Regs) (j : Nat) : DWord := if j = 0 then 0 else r.getK (j + 1) ++ r.getK j

/-- Write a uniform pair; a write to the pair k0 is discarded whole (R36). -/
def Regs.setK2 (r : Regs) (j : Nat) (x : DWord) : Regs :=
  if j = 0 then r else (r.setK j (x.setWidth 32)).setK (j + 1) ((x >>> 32).setWidth 32)

/-- The lanes in which p j is true; p0 is true in every lane (R38). -/
def Regs.getP (r : Regs) (j : Nat) : Mask := if j = 0 then allLanes else getB r.p j

/-- Set p j in the lanes of a mask to the bits of x; p0 ignores writes. -/
def Regs.setP (r : Regs) (j : Nat) (m x : Mask) : Regs :=
  if j = 0 then r else { r with p := putB r.p j ((getB r.p j &&& ~~~m) ||| (x &&& m)) }

/-- q j; q0 is true. -/
def Regs.getQ (r : Regs) (j : Nat) : Bool := j == 0 || r.q.getLsbD j

/-- Set q j; q0 ignores writes. -/
def Regs.setQ (r : Regs) (j : Nat) (b : Bool) : Regs :=
  if j = 0 then r
  else { r with q := if b then r.q ||| BitVec.ofNat 8 (2 ^ j) else r.q &&& ~~~(BitVec.ofNat 8 (2 ^ j)) }

/-- The bits q7 to q0 as %qmask gives them; bit 0 is q0, which is true (R181). -/
def Regs.qmask (r : Regs) : BitVec 8 := r.q ||| 1

/-- A lane's program counter. -/
def Regs.getPc (r : Regs) (lane : Nat) : Pc := getB r.pc lane

/-- Set a lane's program counter. -/
def Regs.setPc (r : Regs) (lane : Nat) (x : Pc) : Regs := { r with pc := putB r.pc lane x }

/-- Every lane of a mask goes to one address. -/
def Regs.jump (r : Regs) (m : Mask) (x : Pc) : Regs := { r with pc := (lanesOf m).foldl (fun p l => putB p l x) r.pc }

/-- Every lane of a mask advances by a number of bytes (R184); past the top of the global window a program counter, which has 57
bits, goes to 0. [DESIGN CHOICE, log 110] -/
def Regs.advance (r : Regs) (m : Mask) (n : Nat) : Regs :=
  { r with pc := (lanesOf m).foldl (fun p l => putB p l (getB p l + BitVec.ofNat 57 n)) r.pc }

/-- The divergence word of a lane (R183). -/
def Regs.divWord (r : Regs) (lane : Nat) : DWord :=
  BitVec.ofNat 64 ((laneBit r.live lane).toNat * 2 ^ 63 + (laneBit r.wait lane).toNat * 2 ^ 62 + (r.getPc lane).toNat)

/-- Set a lane's divergence state from its word. -/
def Regs.setDiv (r : Regs) (lane : Nat) (w : DWord) : Regs :=
  let b := BitVec.ofNat 32 (2 ^ lane)
  { r with
    pc := putB r.pc lane (w.setWidth 57)
    live := if w.getLsbD 63 then r.live ||| b else r.live &&& ~~~b
    wait := if w.getLsbD 62 then r.wait ||| b else r.wait &&& ~~~b }

/-- The 32 divergence words as a map. -/
def Regs.divs (r : Regs) : BMap 64 := (List.range 32).foldl (fun m l => putB m l (r.divWord l)) []

/-- The divergence state of all lanes from a map of words. -/
def Regs.setDivs (r : Regs) (d : BMap 64) : Regs := (List.range 32).foldl (fun q l => q.setDiv l (getB d l)) r

/-- The registers of a group at its start (R178). [DEDUCED, log 40] -/
def Regs.start (entry : Pc) : Regs :=
  { v := [], k := [], p := [], q := 0, pc := (List.range 32).foldl (fun m l => putB m l entry) [], live := allLanes,
    wait := 0 }

/-- The trap registers of a group that has taken no trap. [DESIGN CHOICE, log 3] -/
def TrapRegs.none : TrapRegs :=
  { masked := false, cause := 0, info := 0, pc := 0, addr := 0, word := 0, mask := 0, hlit := 0, hpa := 0, div := [],
    v95 := [], k30 := 0, k31 := 0 }

/-- A group at its start (R178, R293). [DESIGN CHOICE, log 3] -/
def Group.start (gid : Nat) (entry : Pc) : Group :=
  { gid := gid, regs := Regs.start entry, retired := 0, trap := TrapRegs.none, park := none, stop := none, entered := 0,
    ended := false, saved := false, hwsaved := false, tsync := 0, csync := 0, inSync := none, due := none, fenceS := false, latch := none,
    loops := [], seen := [], replies := [], fetched := none, faultAt := none }

/-- A team at its start, on a core with a save slot (R293, R347). -/
def Team.start (tid c serial idx column layer slot now : Nat) : Team :=
  { tid := tid, ctx := c, serial := serial, idx := idx, column := column, layer := layer, slot := slot, oldSlot := none,
    st := .running, scratch := [], absent := [], copies := [], copyCount := 0, acc := [], obuf := [], resv := [],
    tables := ⟨[], [], 0, [], [], 0⟩, array := [], tsyncGen := 0, seq := 0, rot := 0, tt := 0, deadline := none,
    swap := false, restorable := false, conds := [], spSaved := 0, accSaved := 0, obSaved := 0, onDie := false,
    spPages := [], accPages := [], obPages := [],
    moved := none, arrived := now, occupied := [] }

/-! ## Fields of a launch record (R282) -/

namespace Rec

/-- ENTRY. -/
def entry (b : List Byte) : Nat := fieldB b 0 8
/-- GRIDX. -/
def gx (b : List Byte) : Nat := fieldB b 8 4
/-- GRIDY. -/
def gy (b : List Byte) : Nat := fieldB b 12 2
/-- GRIDZ. -/
def gz (b : List Byte) : Nat := fieldB b 14 2
/-- The number of teams. -/
def teams (b : List Byte) : Nat := gx b * gy b * gz b
/-- PARAMS. -/
def params (b : List Byte) : Nat := fieldB b 16 8
/-- COUNTER. -/
def counter (b : List Byte) : Nat := fieldB b 24 8
/-- INCR. -/
def incr (b : List Byte) : Nat := fieldB b 32 4
/-- SPUR. -/
def spur (b : List Byte) : Word := BitVec.ofNat 32 (fieldB b 36 4)
/-- STACK_BASE. -/
def stackBase (b : List Byte) : Nat := fieldB b 40 8 / 65536 * 65536
/-- STACK_LOG. -/
def stackLog (b : List Byte) : Nat := fieldB b 40 8 % 32
/-- Base of the overflow region. -/
def ovBase (b : List Byte) : Nat := fieldB b 48 8 / 65536 * 65536
/-- Size of the overflow region in bytes. -/
def ovSize (b : List Byte) : Nat := fieldB b 48 8 % 65536 * 65536
/-- Groups per team. -/
def groups (b : List Byte) : Nat := fieldB b 56 1 % 64
/-- REGS. -/
def regs (b : List Byte) : Nat := fieldB b 57 1
/-- Scratchpad pages. -/
def scratch (b : List Byte) : Nat := fieldB b 58 1
/-- Accumulator slots. -/
def acc (b : List Byte) : Nat := fieldB b 59 1 % 32
/-- Operand-buffer pages. -/
def obuf (b : List Byte) : Nat := fieldB b 60 1
/-- Cluster width. -/
def clw (b : List Byte) : Nat := fieldB b 61 1 % 4 + 1
/-- Cluster height. -/
def clh (b : List Byte) : Nat := fieldB b 61 1 / 4 % 4 + 1
/-- Teams of a cluster. -/
def clsize (b : List Byte) : Nat := clw b * clh b
/-- FUSE. -/
def fuse (b : List Byte) : Bool := fieldB b 61 1 / 16 % 2 == 1
/-- Deadline class. -/
def cls (b : List Byte) : Nat := fieldB b 62 1 / 64
/-- MODE: 0 normal, 1 DET, 2 REC, 3 REPLAY. -/
def mode (b : List Byte) : Nat := fieldB b 62 1 / 16 % 4
/-- PRIORITY. -/
def prio (b : List Byte) : Nat := fieldB b 62 1 % 16
/-- QUEUED. -/
def queued (b : List Byte) : Bool := fieldB b 63 1 / 4 % 2 == 1
/-- PROMISE. -/
def promise (b : List Byte) : Nat := fieldB b 63 1 % 4

end Rec

/-! ## Words -/

/-- Set or clear one bit of a word. -/
def setBit (w : Word) (i : Nat) (b : Bool) : Word :=
  if b then w ||| BitVec.ofNat 32 (2 ^ i) else w &&& ~~~(BitVec.ofNat 32 (2 ^ i))

/-- Set one bit of a register. -/
def Context.setRegBit (x : Context) (off i : Nat) (b : Bool) : Context := x.setReg off (setBit (x.reg off) i b)

/-- A pre-emption request stands for the context (R343). -/
def Context.isRequested (x : Context) : Bool := x.request.isSome

/-- Registers of a context block after reset (R391). -/
def ctxResetRegs : BMap 32 :=
  [(CtxReg.saveLimit, 100000), (CtxReg.swapThresh, 20000), (CtxReg.deadline0, 40000), (CtxReg.deadline0 + 4, 10000),
   (CtxReg.deadline0 + 8, 160000), (CtxReg.deadline0 + 12, 640000)]

/-- A context block after reset. -/
def Context.init : Context :=
  { regs := ctxResetRegs, spurGen := [], spurs := [], links := [], shapes := [], resid := [], tqPend := [], fatals := [], serials := 0,
    request := none, lastUnit := 0, rserial := 0, stalled := [], diverged := false, consumed := [], gone := [], skips := [],
    inval := [], counters := [], destroying := none }

/-- Context c, or a block as it stands after reset. -/
def State.ctx (s : State) (c : Nat) : Context := (s.ctx? c).getD Context.init

/-- Add to a performance counter of a context (R393). [DESIGN CHOICE, log 13] -/
def State.count (s : State) (c off n : Nat) : State :=
  s.modCtx c (fun x => { x with counters := putB x.counters off (getB x.counters off + BitVec.ofNat 64 n) })

/-! ## Time passes (R10, R269, R393) -/

/-- Every team's logical clock, and every core's, moves on by n lease lengths (R269). [DESIGN CHOICE, log 36] -/
def State.ttAdvance (s : State) (n : Nat) : State :=
  { s with
    teams := s.teams.map (fun t => { t with tt := t.tt + BitVec.ofNat 64 n * Config.leaseLength })
    coreTt := s.coreTt.map (fun k => (k.1, k.2 + BitVec.ofNat 64 n * Config.leaseLength)) }

/-- What the performance counters of a context gain in n clk from now (R393): the clk that its groups spend parked; waits of candidates
beyond the unloaded figures, which the model leaves out, are open. [DESIGN CHOICE, log 13] -/
def Context.timed (x : Context) (clk c parked n : Nat) : Context :=
  let m := putB x.counters 0x08 (getB x.counters 0x08 + Config.timedCounter clk c)
  { x with counters := putB m 0x48 (getB m 0x48 + BitVec.ofNat 64 (parked * n)) }

/-- The parked groups of a context that are on cores. [DESIGN CHOICE, log 13] -/
def parkedGroups (s : State) (c : Nat) : Nat :=
  s.groups.countP (fun g => g.park.isSome && !g.ended &&
    s.teams.any (fun t => t.tid == g.gid / 32 && t.ctx == c && t.st != .saved))

/-- Time passes by n clk: at every 2 µs the logical clocks move on (R269), and the counters that measure time run (R393).
[DESIGN CHOICE, log 10; DESIGN CHOICE, log 13] -/
def State.pass (s : State) (n : Nat) : State :=
  let s1 := { s with
    ctxs := s.ctxs.map (fun x => if x.2.isUp then (x.1, x.2.timed s.clk x.1 (parkedGroups s x.1) n) else x)
    clk := s.clk + n }
  if s1.now / us 2 = s.now / us 2 then s1 else s1.ttAdvance (s1.now / us 2 - s.now / us 2)

/-! ## Events to the host (R388, R389) -/

/-- A function's event ring after reset. -/
def EvRing.init : EvRing := { base := 0, log := 0, prod := 0, cons := 0, pend := 0, held := [] }

/-- The 16 bytes of an event record. -/
def EvRec.bytes (e : EvRec) : List Byte :=
  leBytes 2 e.code ++ [0, 0] ++ leBytes 4 e.arg0.toNat ++ leBytes 8 e.arg1.toNat

/-- The ring has no free position. -/
def EvRing.isFull (r : EvRing) : Bool := 2 ^ (r.log.toNat + 8) ≤ (r.prod - r.cons).toNat

/-- Write one record into a ring that has room, and signal the function. [DESIGN CHOICE, log 5] -/
def State.evWrite (s : State) (fn : Nat) (r : EvRing) (e : EvRec) : State :=
  { s with
    hostMem := writeB s.hostMem (r.base.toNat + 16 * (r.prod.toNat % 2 ^ (r.log.toNat + 8))) e.bytes
    rings := setT s.rings fn { r with prod := r.prod + 1 }
    outbox := s.outbox ++ [.msix fn] }

/-- Post an event to a function: written while the ring has room and nothing is held, held up to 1,024, else marked in
EVQ_PEND; a base of 0 disables posting (R388, R389). -/
def State.postEv (s : State) (fn : Nat) (e : EvRec) : State :=
  let r := (getT s.rings fn).getD EvRing.init
  if r.base = 0 then s
  else if !r.isFull && r.held.isEmpty then s.evWrite fn r e
  else if r.held.length < 1024 then { s with rings := setT s.rings fn { r with held := r.held ++ [e] } }
  else { s with rings := setT s.rings fn { r with pend := setBit r.pend e.code true } }

/-- Post a device event to PF0. -/
def State.postDev (s : State) (code : Nat) (arg0 : Nat) (arg1 : Nat) : State :=
  s.postEv 0 ⟨code, BitVec.ofNat 32 arg0, BitVec.ofNat 64 arg1⟩

/-- Post a context event to its owner. -/
def State.postCtx (s : State) (c code arg1 : Nat) : State :=
  s.postEv (s.ctx c).owner ⟨code, BitVec.ofNat 32 c, BitVec.ofNat 64 arg1⟩

/-! ## Trap records (R338 to R341) -/

/-- The 32 bytes of a trap record (R339). -/
def TrapRec.bytes (r : TrapRec) : List Byte :=
  leBytes 1 r.kind ++ leBytes 1 r.cause ++ leBytes 1 r.group ++ leBytes 1 r.lane ++ leBytes 4 r.team.toNat ++
  leBytes 4 r.a.toNat ++ leBytes 4 r.grid.toNat ++ leBytes 8 r.b.toNat ++ leBytes 8 r.c.toNat

/-- Position TQ_PROD + i is free: consumed, and not a pending replayable record (R340). -/
def Context.tqFree (x : Context) (i : Nat) : Bool :=
  (x.reg CtxReg.tqProd - x.reg CtxReg.tqCons).toNat + i < 1024 &&
  (getT x.tqPend (((x.reg CtxReg.tqProd).toNat + i) % 1024)).isNone

/-- A record other than a fatal one may be posted: three positions are free (R341). -/
def Context.tqRoom (x : Context) : Bool := x.tqFree 0 && x.tqFree 1 && x.tqFree 2

/-- The position of the next record. -/
def Context.tqPos (x : Context) : Nat := (x.reg CtxReg.tqProd).toNat % 1024

/-- Write a record at position TQ_PROD mod 1,024, advance TQ_PROD and raise the threshold event when it is reached. [DEDUCED, log 55] -/
def State.tqPost (s : State) (c : Nat) (r : TrapRec) (rep : Option Replay) : State :=
  let x := s.ctx c
  let s1 := s.writeOwn (x.reg64 CtxReg.tqBase + 32 * x.tqPos) r.bytes
  let x1 := s1.ctx c
  let prod := x1.reg CtxReg.tqProd + 1
  let x2 := { x1.setReg CtxReg.tqProd prod with
    tqPend := match rep with
      | some p => setT x1.tqPend x1.tqPos p
      | none => x1.tqPend }
  let s2 := s1.setCtx c x2
  if x2.reg CtxReg.tqThresh ≠ 0 ∧ prod - x2.reg CtxReg.tqCons = x2.reg CtxReg.tqThresh then
    s2.postCtx c 10 prod.toNat
  else s2

/-- Post a fatal record, which needs one free position; without one the context halts and the record is held (R341). -/
def State.postFatal (s : State) (c : Nat) (r : TrapRec) : State :=
  let x := s.ctx c
  if x.tqFree 0 && x.fatals.isEmpty then s.tqPost c r none
  else
    (s.setCtx c { x.setRegBit CtxReg.ctl 29 true with fatals := x.fatals ++ [r] }).postCtx c 12 0

/-! ## The Cairn ring (R359 to R364, R367) -/

/-- A record of the ring with its position (R360). -/
structure LogRec where
  pos    : Nat
  type   : Nat
  lane   : Nat
  group  : Nat
  grid   : Nat
  team   : Nat
  obj    : Nat
  digest : Nat
  deriving DecidableEq, Repr

/-- The address of ring position p (R361). -/
def Context.cairnAt (x : Context) (p : Nat) : Nat :=
  x.reg64 CtxReg.cairnBase + 16 * (p % 2 ^ (x.reg CtxReg.cairnLog).toNat)

/-- The threshold event, when the count of unconsumed records stands at it (R361). [DEDUCED, log 55] -/
def State.cairnThresh (s : State) (c : Nat) : State :=
  let x := s.ctx c
  if x.reg CtxReg.cairnThresh ≠ 0 ∧ x.reg CtxReg.cairnProd - x.reg CtxReg.cairnCons = x.reg CtxReg.cairnThresh then
    s.postCtx c 11 (x.reg CtxReg.cairnProd).toNat
  else s

/-- The record at a ring position (R360). -/
def readLog (s : State) (x : Context) (p : Nat) : LogRec :=
  let b := s.readOwn (x.cairnAt p) 16
  { pos := p, type := fieldB b 0 1 % 16, lane := fieldB b 1 1, group := fieldB b 2 1, grid := fieldB b 3 1,
    team := fieldB b 4 4, obj := fieldB b 8 4, digest := fieldB b 12 4 }

/-- A ring position comes before another in the order of the unconsumed records. -/
def Context.isBefore (x : Context) (p q : Nat) : Bool :=
  let at_ := fun r => (r + 2 ^ 32 - (x.reg CtxReg.cairnCons).toNat) % 2 ^ 32
  decide (at_ p < at_ q)

/-- A record is consumed, or belongs to a team whose records count as consumed (R364, R367). [DEDUCED, log 27] -/
def Context.isConsumed (x : Context) (r : LogRec) : Bool :=
  x.consumed.contains r.pos ||
  x.gone.any (fun g => g.grid == r.grid && g.team == r.team && g.stop.all (fun p => x.isBefore r.pos p))

/-- CAIRN_CONS passes every consumed record at the head of the ring (R364); the fuel bounds how many. -/
def State.cairnAdvance (s : State) (c : Nat) : Nat → State
  | 0 => s
  | f + 1 =>
    let x := s.ctx c
    let p := (x.reg CtxReg.cairnCons).toNat
    if x.reg CtxReg.cairnCons ≠ x.reg CtxReg.cairnProd ∧ x.isConsumed { readLog s x p with pos := p } then
      ((s.modCtx c (fun y => { y.setReg CtxReg.cairnCons (y.reg CtxReg.cairnCons + 1) with
        consumed := y.consumed.filter (· != p)
        gone := y.gone.filter (fun g => g.stop != some p && g.stop != some ((p + 1) % 2 ^ 32)) })).cairnThresh c).cairnAdvance c f
    else s

/-- The records of a team that ends early count as consumed (R367). [DEDUCED, log 27] -/
def State.dropReplay (s : State) (t : Team) : State :=
  match s.grid? t.ctx t.serial with
  | none => s
  | some gr =>
    if Rec.mode gr.bytes = 3 then
      let x := s.ctx t.ctx
      (s.modCtx t.ctx (fun y => { y with gone := ⟨gr.rserial % 256, t.idx, none⟩ :: y.gone })).cairnAdvance t.ctx
        (x.reg CtxReg.cairnProd - x.reg CtxReg.cairnCons).toNat
    else s

/-! ## Ends of groups and teams (R193, R285, R301, R320) -/

/-- The save-area address of team slot s (R347). -/
def saveBlock (x : Context) (column slot : Nat) : Nat :=
  x.reg64 CtxReg.saveBase + 0x10000 + 0x120000 * (32 * column + slot)

/-- The address of a group's block in the save area (R347). -/
def groupBlock (x : Context) (t : Team) (g : Nat) : Nat := saveBlock x t.column t.slot + 0x2000 + 0x4000 * g

/-- A group runs its PREEMPT or RESTORE routine (R345, R348). -/
def Group.inRoutine (g : Group) : Bool := g.trap.masked && (g.trap.cause == 32 || g.trap.cause == 33)

/-- %retired after one more instruction: the routines of PREEMPT and RESTORE entries do not count (R182, R329). -/
def Group.retiredNext (g : Group) : DWord := if g.inRoutine then g.retired else g.retired + 1

/-- The counter of retired instructions counts one more of a group, outside those routines too (R182, R329, R393). -/
def State.countRetired (s : State) (ctx : Nat) (g : Group) : State := if g.inRoutine then s else s.count ctx 0 1

/-- A group that completed its instruction: its lanes advance, %retired counts it but for the routines of PREEMPT and
RESTORE entries, and it is no longer parked (R182, R184, R329). -/
def Group.complete (g : Group) (m : Mask) (size : Nat) : Group :=
  { g with
    regs := g.regs.advance m size
    retired := g.retiredNext
    park := none
    due := none
    replies := []
    fetched := none }

/-- The lanes and size of the instruction at the least program counter of a parked group's running lanes, for the syncs,
which are one word long: its executing lanes (R184). -/
def Group.atPc (g : Group) : Mask :=
  let run := lanesOf (g.regs.live &&& ~~~g.regs.wait)
  match run with
  | [] => 0
  | l :: _ =>
    let b := run.foldl (fun b l => min b (g.regs.getPc l).toNat) (g.regs.getPc l).toNat
    maskOf ((lanesOf g.regs.live).filter (fun l => (g.regs.getPc l).toNat == b))

/-- The least count of the groups that have not ended, or the generation where none is left (R301). -/
def leastCount (gen : Nat) (cs : List Nat) : Nat :=
  match cs with
  | [] => gen
  | c :: t => max gen (t.foldl min c)

/-- A group passes the sync it waits in, which was counted when it arrived (R301, R356). -/
def Group.syncPassed (g : Group) : Group :=
  { g with regs := g.regs.advance g.atPc 4, park := none, inSync := none, replies := [], fetched := none }

/-- Release the groups of a team whose TSYNC the generation has met (R301, R356). -/
def State.syncTeam (s : State) (tid : Nat) : State :=
  match s.team? tid with
  | none => s
  | some t =>
    let gs := (s.groupsOf tid).filter (fun g => !g.ended)
    let gen := leastCount t.tsyncGen (gs.map (·.tsync))
    let s1 := s.setTeam { t with tsyncGen := gen }
    { s1 with groups := s1.groups.map (fun g =>
        if g.gid / 32 == tid && !g.ended && (g.park.map (·.why)) == some .tsync && g.tsync ≤ gen
        then g.syncPassed else g) }

/-- The columns of a rectangle by rank, with its origin at a column (R284). -/
def rectColumns (bs : List Byte) (column : Nat) : List Nat :=
  (List.range (Rec.clsize bs)).map (fun r => column + r % Rec.clw bs + 16 * (r / Rec.clw bs))

/-- The columns of a team's cluster by rank, from the team's own column and rank (R284). -/
def Team.clusterColumns (t : Team) (bs : List Byte) : List Nat :=
  let r := t.idx % Rec.clsize bs
  rectColumns bs (t.column - r % Rec.clw bs - 16 * (r / Rec.clw bs))

/-- The home column of a line in the rectangle of a team's cluster (R140, R252). [DESIGN CHOICE, log 105] -/
def Team.homeColumn (t : Team) (bs : List Byte) (pa : Nat) : Nat :=
  (t.clusterColumns bs).getD (Config.clusterHome (pa / 128 % 2 ^ 33) % Rec.clsize bs) t.column

/-- Teams of a cluster that are still known: those of one grid whose index lies in the cluster (R284). -/
def State.cluster (s : State) (t : Team) (n : Nat) : List Team :=
  s.teams.filter (fun u => u.ctx == t.ctx && u.serial == t.serial && u.idx / n == t.idx / n)

/-- The groups of a DET team issue in rotation: the step of this group ends and the pointer moves on (R355). The routines of a
save and of a restore issue outside the rotation and leave the pointer (R356). [DEDUCED, log 109] -/
def State.rotate (s : State) (gid : Nat) : State :=
  match s.team? (gid / 32) with
  | none => s
  | some t => match s.grid? t.ctx t.serial with
    | none => s
    | some gr =>
      if Rec.mode gr.bytes = 1 && t.st != .saving && t.st != .restoring
      then s.setTeam { t with rot := (gid % 32 + 1) % Rec.groups gr.bytes } else s

/-- An issue of a group ends a step of its team's rotation, unless the group was in its handler, which holds the rotation (R355). -/
def State.stepEnds (s : State) (g : Group) : State := if g.trap.masked then s else s.rotate g.gid

/-- Release the groups of a cluster whose CSYNC the generation has met; in a DET team, CSYNC held the rotation (R301,
R355). -/
def State.syncCluster (s : State) (t : Team) : State :=
  match s.grid? t.ctx t.serial with
  | none => s
  | some gr =>
    let n := Rec.clsize gr.bytes
    let tids := (s.cluster t n).map (·.tid)
    let gs := s.groups.filter (fun g => tids.contains (g.gid / 32) && !g.ended)
    let gen := leastCount ((getT gr.csyncs (t.idx / n)).getD 0) (gs.map (·.csync))
    let go := fun g : Group =>
      tids.contains (g.gid / 32) && !g.ended && (g.park.map (·.why)) == some .csync && g.csync ≤ gen
    let s1 := s.setGrid { gr with csyncs := setT gr.csyncs (t.idx / n) gen }
    let s2 := { s1 with groups := s1.groups.map (fun g => if go g then g.syncPassed else g) }
    ((s1.groups.filter go).map (·.gid)).foldl State.rotate s2

/-- A team's instances lose it as a user (R238, R245). -/
def State.dropUser (s : State) (tid : Nat) : State :=
  { s with insts := s.insts.map (fun i => { i with users := i.users.filter (· != tid) }) }

/-- A field of a team's launch record. -/
def State.recField (s : State) (f : List Byte → Nat) (t : Team) : Nat :=
  match s.grid? t.ctx t.serial with
  | some g => f g.bytes
  | none => 0

/-- The mode of a team's grid. -/
def State.modeOf (s : State) (tid : Nat) : Nat :=
  match s.team? tid with
  | some t => s.recField Rec.mode t
  | none => 0

/-- A group has issued accesses that are not yet performed or reported failed, of the kinds that outlast an EXIT: copies, and what it
has staged, which is performed when it is drained or released (R193, R254, R263). [DEDUCED, log 112] -/
def State.owes (s : State) (t : Team) (gid : Nat) : Bool :=
  s.jobs.any (fun j => j.gid == gid) ||
  (s.grid? t.ctx t.serial).any (fun g => g.staged.any (fun r => r.team == t.idx && r.group == gid % 32))

/-- A team has such accesses. -/
def State.teamOwes (s : State) (t : Team) : Bool :=
  s.jobs.any (fun j => j.tid == t.tid) || (s.grid? t.ctx t.serial).any (fun g => g.staged.any (fun r => r.team == t.idx))

/-- The team is placed and neither saved nor ended. -/
def Team.isResident (t : Team) : Bool := t.st != .saved && t.st != .ended

/-- The team holds resources of a core: it is resident, or has ended with accesses that are not yet performed or reported failed (R193).
[DEDUCED, log 112] -/
def holdsCore (s : State) (t : Team) : Bool := t.isResident || (t.st == .ended && s.teamOwes t)

/-- Where no team of a fused cluster is left on its columns, the lines of the fused L1 are dropped; the L1 is write-through (R140). -/
def State.leaveFusion (s : State) (t : Team) : State :=
  match s.grid? t.ctx t.serial with
  | none => s
  | some g =>
    if Rec.fuse g.bytes && !(s.cluster t (Rec.clsize g.bytes)).any (holdsCore s) then
      s.dropLines (fun x => (t.clusterColumns g.bytes).any (fun k => x.held == .l1 k))
    else s

/-- Remove ended teams whose accesses are all performed or reported failed (R193, R28). -/
def State.reap (s : State) : State :=
  (s.teams.filter (fun t => t.st == .ended && !s.teamOwes t)).foldl State.leaveFusion
    { s with teams := s.teams.filter (fun t => t.st != .ended || s.teamOwes t) }

/-- A context's pre-emption request clears when none of its teams is short of SAVED or ENDED (R343). -/
def State.clearRequest (s : State) (c : Nat) : State :=
  match s.ctx? c with
  | none => s
  | some x =>
    if x.request.isSome && s.teams.all (fun t => t.ctx != c || t.st == .saved || t.st == .ended) then
      s.setCtx c { x.setReg CtxReg.preempt 0 with request := none }
    else s

/-- A team has ended in the ordinary way: its groups go, its index awaits its drain, and it leaves its instances
(R193, R258, R238). -/
def State.teamDone (s : State) (t : Team) : State :=
  let s1 := { s with groups := s.groups.filter (fun g => g.gid / 32 != t.tid) }
  let s2 := s1.modGrid t.ctx t.serial (fun g => { g with done := g.done ++ [t.idx] })
  let s3 := (s2.modTeam t.tid (fun u => { u with st := .ended, absent := [] })).dropUser t.tid
  ((s3.syncCluster t).reap.clearRequest t.ctx).landTeam t.tid

/-- A team is ended at once: its groups and staged work are discarded, its jobs fail item by item, and its grid fails
(R320, R341, R115). -/
def State.teamKilled (s : State) (t : Team) : State :=
  let s1 := { s with
    groups := s.groups.filter (fun g => g.gid / 32 != t.tid)
    jobs := s.jobs.map (fun j : Job => if j.tid == t.tid then { j with cancel := true } else j) }.dropRemote
      (fun r => r.2.job.isNone && r.2.own.isNone && r.2.gid / 32 == t.tid)
  let s2 := s1.modGrid t.ctx t.serial (fun g =>
    { g with done := g.done ++ [t.idx], failed := true, staged := g.staged.filter (fun r => r.team != t.idx) })
  let s3 := ({ s2 with teams := s2.teams.filter (fun u => u.tid != t.tid) }.dropUser t.tid).forgetAsk (teamKey t)
  ((((s3.syncCluster t).dropReplay t).clearRequest t.ctx).landTeam t.tid).leaveFusion t

/-! ## Yielding (R196, R343, R417) -/

/-- The ways of being parked or waiting that R324 lists for %trapinfo 2. [DEDUCED, log 45] -/
def Wait.isListed : Wait → Bool
  | .presence _ | .faultRun _ | .faultWait _ | .lwait _ _ _ _ | .join _ _ _ => true
  | .launch | .tsync | .csync | .handle _ _ | .cpwait _ _ | .ring | .turn => true
  | _ => false

/-- A group in such a wait is parked: also in BWAIT and for staging space, which R324 does not list (R132, R196, R261). [DEDUCED, log 45] -/
def Wait.isParked : Wait → Bool
  | .bwait _ _ _ _ _ | .staging => true
  | w => w.isListed

/-- The group is parked or waiting in one of the ways R324 lists. [DEDUCED, log 45] -/
def Group.isListed (g : Group) : Bool :=
  match g.park with
  | some p => p.why.isListed
  | none => false

/-- The group is parked or waiting, and what it waits for has not come. [DEDUCED, log 45] -/
def Group.isParked (g : Group) : Bool := g.park.any (fun p => p.why.isParked) && g.due.isNone

/-- A group waits for replies to an access or a fetch of its own, for the accesses that an XINVAL waits for, or until an access is
held no more: its instruction goes on by itself. -/
def Wait.isAccess : Wait → Bool
  | .reply _ | .code _ | .inval _ | .held => true
  | _ => false

/-- The group waits in such a way, or what it waits for has come. -/
def Group.isReplying (g : Group) : Bool := g.park.any (fun p => p.why.isAccess) || g.due.isSome

/-- An access of the group is under way, or its fault has no record yet: it is not at a quiet point (R27, R94). [DEDUCED, log 46] -/
def Group.isUnderWay (g : Group) : Bool :=
  g.isReplying || (match g.park with
  | some ⟨.faultRun _, _⟩ => true
  | _ => false)

/-- A group whose team can be cut: ended, stopped, or parked outside its handler (R196, R329, R343). [DEDUCED, log 46] -/
def Group.isCuttable (g : Group) : Bool :=
  g.ended || ((g.stop.isSome || (g.isParked && !g.trap.masked)) && !g.isUnderWay)

/-- A group of a DET team is passed by the rotation: it has ended, or waits in TSYNC (R355). -/
def Group.isPassed (g : Group) : Bool := g.ended || (g.park.map (·.why)) == some .tsync

/-- The first group from number r on, around the team, that the rotation does not pass. -/
def rotNext (s : State) (t : Team) (n : Nat) : Nat → Nat → Nat
  | 0, r => r
  | f + 1, r =>
    match s.group? (32 * t.tid + r) with
    | some g => if g.isPassed then rotNext s t n f ((r + 1) % n) else r
    | none => rotNext s t n f ((r + 1) % n)

/-- The rotation of a DET team can take no step: every group has ended or waits in TSYNC or BWAIT, or the rotation is held at
a group that is parked or waiting (R417). -/
def isStuck (s : State) (t : Team) (n : Nat) : Bool :=
  (s.groupsOf t.tid).all (fun g => g.isPassed || (match g.park with | some ⟨.bwait _ _ _ _ _, _⟩ => true | _ => false)) ||
  (match s.group? (32 * t.tid + rotNext s t n n t.rot) with
   | some g => g.isListed && g.due.isNone && !g.trap.masked
   | none => false)

/-- The groups of a team that are not stopped yet stop where they are (R343). -/
def State.stopTeam (s : State) (tid info : Nat) : State :=
  { s with groups := s.groups.map (fun g =>
      if g.gid / 32 == tid && !g.ended && g.stop.isNone then { g with stop := some info } else g) }

/-- A team is cut: its groups that are parked or waiting will enter with %trapinfo 2 (R324, R349, R417). [DEDUCED, log 45] -/
def State.cutTeam (s : State) (tid : Nat) : State :=
  { s.modTeam tid (fun u => { u with st := .cut }) with
    groups := s.groups.map (fun g =>
      if g.gid / 32 == tid && !g.ended then { g with stop := some (if g.isParked then 2 else g.stop.getD 0) } else g) }

/-- A team that is asked to yield is cut once every group of it is stopped, parked or ended (R196, R349); a DET team whose
rotation can take no step stops at once (R417). -/
def State.cutTry (s : State) (tid : Nat) : State :=
  match s.team? tid with
  | none => s
  | some t => match s.grid? t.ctx t.serial with
    | none => s
    | some gr =>
      if t.st != .yielding then s
      else
        let det := Rec.mode gr.bytes == 1
        let s1 := if det && isStuck s t (Rec.groups gr.bytes) then s.stopTeam tid 0 else s
        if (s1.groupsOf tid).all (fun g => g.isCuttable && (!det || g.ended || g.stop.isSome)) then s1.cutTeam tid else s1

/-- Mark a group ended; the team ends with its last group (R193). -/
def State.groupEnd (s : State) (g : Group) : State :=
  let s1 := s.setGroup { g with ended := true, park := none, trap := TrapRegs.none }
  match s1.team? (g.gid / 32) with
  | none => s1
  | some t =>
    if (s1.groupsOf t.tid).all (·.ended) then s1.teamDone t
    else ((s1.syncTeam t.tid).syncCluster t).cutTry t.tid

/-! ## Stops: what ends an instruction before it completes -/

/-- Why an instruction does not complete. -/
inductive Stop where
  /-- A class H cause, precise: cause, %trapinfo, %trapaddr, the lanes named, HPA (R324, R326, R330). -/
  | trap (cause info addr : Nat) (lanes : Option Mask) (hpa : Nat)
  /-- A class H cause raised after the instruction's own result is in the state (R131, R363, R364). -/
  | trapAfter (s : State) (cause info addr : Nat)
  /-- PAGE_FAULT or POOL_EMPTY (R91, R312). -/
  | pageFault (f : FaultRun)
  /-- The group parks; the state holds what parking itself changed. -/
  | park (s : State) (w : Wait)
  /-- A fatal record of the group with its own cause and %trapinfo (R333, R334). -/
  | fatal (cause info : Nat)
  /-- A fatal cause of the group's whole grid (R261, R421). -/
  | gridFatal (cause : Nat)
  deriving DecidableEq, Repr

/-- The fatal record of a grid whose part's own access failed, naming a team and no instruction (R421). -/
def gridRec (team serial cause : Nat) : TrapRec :=
  { kind := 3, cause := cause, group := 0, lane := 0, team := BitVec.ofNat 32 team, a := 0, grid := BitVec.ofNat 32 serial,
    b := 0, c := 0 }

/-- A fatal cause of a grid: one fatal record naming a team; its undrained teams end, their records are discarded and their copies
fail item by item, nothing more of it is dispatched, and it fails (R115, R261, R421). Teams of it that are saved leave the context header
before it completes (R347). -/
def State.gridDies (s : State) (c serial : Nat) (r : TrapRec) : State :=
  let s1 := { s with cur := none }.postFatal c r
  let first := ((s1.grid? c serial).map (·.drained)).getD 0
  let s2 := { s1 with jobs := s1.jobs.map (fun j : Job =>
    if j.ctx == c && j.serial == serial && decide (first ≤ j.team) then { j with cancel := true } else j) }
  let s3 := (s2.teams.filter (fun u => u.ctx == c && u.serial == serial && u.st != .ended)).foldl
    (fun a u => a.teamKilled u) s2
  let saved := (s2.teams.filter (fun u => u.ctx == c && u.serial == serial && u.st == .saved)).map (fun u => 32 * u.column + u.slot)
  ((s3.forgetAsk (gridKey c serial)).modGrid c serial (fun g =>
    { g with
      headers := g.headers ++ saved
      next := Rec.teams g.bytes
      drained := Rec.teams g.bytes
      done := []
      staged := []
      failed := true
      wait := none })).reap

/-- The lowest lane of a mask, 0 for none. -/
def lowLane (m : Mask) : Nat := (lanesOf m).headD 0

/-- Entry to the handler (R328): the shadow is taken, every live lane goes to TRAP_VEC, v95 holds 4 × lane, k30:k31 the
group's block in the save area, and the trap registers are set. [DEDUCED, log 108] -/
def Group.enter (g : Group) (x : Context) (t : Team) (cause info addr pc : Nat) (word lit : Word) (mask : Mask)
    (hpa : Nat) : Group :=
  let r := g.regs
  let r1 := { r.jump r.live (BitVec.ofNat 57 (x.reg64 CtxReg.trapVec)) with wait := r.wait &&& ~~~r.live }
  let r2 := (List.range 32).foldl (fun q l => q.setV 95 l (BitVec.ofNat 32 (4 * l))) r1
  { g with
    regs := r2.setK2 30 (BitVec.ofNat 64 (groupBlock x t (g.gid % 32)))
    park := none
    due := none
    latch := none
    replies := []
    fetched := none
    trap :=
      { masked := true, cause := BitVec.ofNat 32 cause, info := BitVec.ofNat 32 info, pc := BitVec.ofNat 64 pc,
        addr := BitVec.ofNat 64 addr, word := word, mask := mask, hlit := lit, hpa := BitVec.ofNat 64 hpa,
        div := r.divs
        v95 := (List.range 32).foldl (fun m l => putB m l (r.getV 95 l)) []
        k30 := r.getK 30
        k31 := r.getK 31 } }

/-- The fatal record of a group at an instruction (R339, KIND 3). -/
def fatalRec (t : Team) (c : Issue) (cause info lane : Nat) : TrapRec :=
  { kind := 3, cause := cause, group := c.gid % 32, lane := lane, team := BitVec.ofNat 32 t.idx, a := c.word,
    grid := BitVec.ofNat 32 t.serial, b := c.pc.setWidth 64, c := BitVec.ofNat 64 (c.lit.toNat + 2 ^ 32 * info) }

/-- The fatal record of a group in its handler that names the trap being handled by its trap registers, with that trap's cause in
%trapinfo: of KILL.FAIL and SAVE_TIMEOUT (R181, R324, R330, R334, R339, R345). -/
def handledRec (t : Team) (g : Group) (cause : Nat) : TrapRec :=
  { kind := 3, cause := cause, group := g.gid % 32, lane := lowLane g.trap.mask, team := BitVec.ofNat 32 t.idx, a := g.trap.word,
    grid := BitVec.ofNat 32 t.serial, b := g.trap.pc, c := g.trap.cause ++ g.trap.hlit }

/-- A fatal cause of a group: the record is posted and the team ends (R341). -/
def State.groupFatal (s : State) (t : Team) (c : Issue) (cause info : Nat) (lane : Nat) : State :=
  ({ s with cur := none }.postFatal t.ctx (fatalRec t c cause info lane)).teamKilled t

/-- Taking a class H trap: in the handler it is a DOUBLE_TRAP, with TRAP_VEC = 0 a fatal record, otherwise the group
enters its handler (R327, R328, R329). LANE of a fatal record is the lowest lane that %trapmask names, also where R192 speaks of the lowest
failing lane. [DEDUCED, log 16] -/
def State.raiseTrap (s : State) (c : Issue) (g : Group) (cause info addr : Nat) (lanes : Mask) (hpa : Nat) : State :=
  match s.team? (g.gid / 32) with
  | none => { s with cur := none }
  | some t =>
    if g.trap.masked then s.groupFatal t c 24 cause (lowLane lanes)
    else if (s.ctx t.ctx).reg64 CtxReg.trapVec = 0 then s.groupFatal t c cause info (lowLane lanes)
    else
      { s.setGroup (g.enter (s.ctx t.ctx) t cause info addr c.pc.toNat c.word c.lit lanes hpa) with cur := none }

/-- The start of a wait: kept when the group already waits in the same way (R131, R318). -/
def Group.parkOn (g : Group) (w : Wait) (clk : Nat) : Group :=
  match g.park with
  | some p => { g with latch := none, park := some { p with why := w } }
  | none => { g with latch := none, park := some ⟨w, clk⟩ }

/-- Waits that do not hold the rotation of a DET team (R355). -/
def Wait.rotates : Wait → Bool
  | .tsync => true
  | .bwait _ _ _ _ _ => true
  | _ => false

/-- What becomes of the state when an instruction stops. A page fault of a group in its handler takes no run-ahead and ends with
code 7; a fetch fault, which R92 lists under 4 and there under 7 too, ends with 4 everywhere. [DESIGN CHOICE, log 56] -/
def State.stopped (s : State) (c : Issue) (g : Group) : Stop → State
  | .trap cause info addr lanes hpa => s.raiseTrap c g cause info addr (lanes.getD c.mask) hpa
  | .trapAfter s' cause info addr =>
    (match s'.group? g.gid with
     | none => { s' with cur := none }
     | some g' => s'.raiseTrap c g' cause info addr c.mask 0)
  | .pageFault f =>
    let f' := if g.trap.masked && !f.done then { f with done := true, code := 7, entries := f.entries.take 1 } else f
    { s.setGroup { g with latch := none, park := some ⟨.faultRun f', s.clk⟩ } with cur := none }
  | .park s' w =>
    (match s'.group? g.gid with
     | none => { s' with cur := none }
     | some g' =>
       let s1 := { s'.setGroup (g'.parkOn w s.clk) with cur := none }
       (if w.rotates then s1.stepEnds g else s1).cutTry (g.gid / 32))
  | .fatal cause info =>
    (match s.team? (g.gid / 32) with
     | none => { s with cur := none }
     | some t => s.groupFatal t c cause info (lowLane c.mask))
  | .gridFatal cause =>
    (match s.team? (g.gid / 32) with
     | none => { s with cur := none }
     | some t => s.gridDies t.ctx t.serial (fatalRec t c cause 0 (lowLane c.mask)))

/-! ## Running one instruction -/

/-- What a group's instruction sees: the issue, its group, team, context and grid. -/
structure Env where
  c  : Issue
  g  : Group
  t  : Team
  x  : Context
  gr : Grid
  hint : Hint
  deriving DecidableEq, Repr

/-- The requests of the issued instruction, when they are on their way. -/
def Env.flight? (e : Env) : Option Flight :=
  match e.g.park with
  | some ⟨.reply f, _⟩ => some f
  | _ => none

/-- The environment of the issued instruction. -/
def State.env? (s : State) : Option Env := do
  let c ← s.cur
  let g ← s.group? c.gid
  let t ← s.team? (c.gid / 32)
  let x ← s.ctx? t.ctx
  let gr ← s.grid? t.ctx t.serial
  pure ⟨c, g, t, x, gr, .page⟩

/-- The outcome of a step. -/
abbrev Out := Host.Outcome State Fault Refusal

/-- Run an instruction of the issued group: it completes with a state, or stops. [DESIGN CHOICE, log 11] -/
def State.run (s : State) (f : Env → Except Stop State) : Out :=
  match s.env? with
  | none => .fault .noIssue
  | some e => .next (match f e with
    | .ok s' => s'
    | .error p => s.stopped e.c e.g p)

/-- The instruction completes with the group as given, program counters included: it retires, and is counted outside the routines of PREEMPT
and RESTORE (R182, R329, R393). -/
def State.retireAt (s : State) (e : Env) (g : Group) : State :=
  ({ (s.setGroup g) with cur := none }.stepEnds e.g).countRetired e.t.ctx e.g

/-- The instruction completes and every executing lane passes it (R184). -/
def State.retire (s : State) (e : Env) (g : Group) : State := s.retireAt e (g.complete e.c.mask e.c.size)

/-- The lanes that take part: executing, with a true guard (R13, R39). -/
def Env.taking (e : Env) (p : Pred) : Mask := e.c.mask &&& e.g.regs.getP p.val

/-- A uniform instruction: with a false guard it only passes (R39). -/
def State.uniform (s : State) (q : Pred) (f : Env → Except Stop State) : Out :=
  s.run (fun e => if e.g.regs.getQ q.val then f e else .ok (s.retire e e.g))

/-- A privileged uniform instruction: outside the handler it raises PRIVILEGED whatever its guard (R39). -/
def State.privileged (s : State) (q : Pred) (f : Env → Except Stop State) : Out :=
  s.run (fun e => if e.g.trap.masked then (if e.g.regs.getQ q.val then f e else .ok (s.retire e e.g))
    else .error (.trap 5 0 0 none 0))

/-- A plain class H trap. -/
def trapWith {α : Type} (cause info addr : Nat) : Except Stop α := .error (.trap cause info addr none 0)

/-- A team in DET mode (R353). -/
def Env.isDet (e : Env) : Bool := Rec.mode e.gr.bytes == 1

/-- A team in REC mode. -/
def Env.isRec (e : Env) : Bool := Rec.mode e.gr.bytes == 2

/-- A team in REPLAY mode. -/
def Env.isReplay (e : Env) : Bool := Rec.mode e.gr.bytes == 3

/-- An instruction that DET mode forbids (R353). [DEDUCED, log 16] -/
def detBan (e : Env) : Except Stop Unit := if e.isDet then trapWith 19 0 0 else .ok ()

/-- The grade has the Cairn unit (R1). [DESIGN CHOICE, log 1] -/
def Grade.hasCairn : Grade → Bool
  | .shoulder => false
  | _ => true

/-- The grade has the FP64 matrix path (R1). [DESIGN CHOICE, log 1] -/
def Grade.hasFp64 : Grade → Bool
  | .shoulder => false
  | _ => true

/-- Exposed columns (R1, R4). [DESIGN CHOICE, log 1] -/
def Grade.columns : Grade → Nat
  | .saddle => 384
  | _ => 768

/-- Ports present (R1, R8). [DESIGN CHOICE, log 1] -/
def Grade.ports : Grade → Nat
  | .summit => 96
  | _ => 48

/-- CAP_UNITS (R3). -/
def Grade.capUnits : Grade → Word
  | .summit => 0x0100600F
  | .shoulder => 0x02003003
  | .saddle => 0x0300300D

/-- CAP_SIZES (R4). -/
def Grade.capSizes : Grade → Word
  | .saddle => 0x60108000
  | _ => 0xC0210000

/-- A pre-emption request stands for the group's context or its team alone (R196, R343). [DEDUCED, log 48] -/
def Env.isRequested (e : Env) : Bool := e.x.isRequested || e.t.swap

/-- Stop a group of a team that is asked to yield: its instruction has completed (R196). In a DET team the whole team
stops at this step boundary (R417); while it is being restored, its other groups go on with their routines (R348). [DEDUCED, log 48] -/
def State.stopAt (s : State) (e : Env) (info : Nat) : State :=
  (if e.isDet && e.t.st != .restoring then s.stopTeam e.t.tid info
   else s.modGroup e.g.gid (fun g => { g with stop := some info })).cutTry e.t.tid

/-- Return from the handler (R333): the shadow is restored, .SKIP passes the trapping instruction, and traps are unmasked.
A group with no live lane ends; a standing request stops the group here. -/
def State.trapReturn (s : State) (e : Env) (skip : Bool) : Except Stop State :=
  let tr := e.g.trap
  if tr.cause = 32 then .error (.fatal 24 32)
  else
    let g0 := e.g.complete e.c.mask e.c.size
    let r1 := g0.regs.setDivs tr.div
    let r2 := (List.range 32).foldl (fun q l => q.setV 95 l (getB tr.v95 l)) r1
    let r3 := (r2.setK 30 tr.k30).setK 31 tr.k31
    let size := sizeOf tr.word.toNat
    let r4 := if skip then
        (lanesOf tr.mask).foldl (fun q l =>
          if laneBit q.live l && (q.getPc l).setWidth 64 == tr.pc then q.setPc l (q.getPc l + BitVec.ofNat 57 size) else q)
          r3
      else r3
    let g := { g0 with regs := r4, trap := { tr with masked := false } }
    if r4.live = 0 then .ok (({ (s.setGroup g) with cur := none }.countRetired e.t.ctx e.g).groupEnd g)
    else
      let s1 := s.retireAt e g
      if e.isRequested then .ok (s1.stopAt e 0) else .ok s1

end Sys2Proof.Machine
end

