-- ==== Sys2Proof/Machine/Operands.lean ====
section
/-! DEFINITION. Operand forms of lane-set and uniform instructions (R35 to R38, R43, R198 to R200): the value a source field
has in a lane, effective addresses, and the writing of results in the lanes that take part. -/

namespace Sys2Proof.Machine

/-- The value of a 32-bit source in a lane; a uniform register is broadcast (R37, R198). -/
def Regs.src (r : Regs) (x : Src) (l : Nat) : Word :=
  match x with
  | .v n => r.getV n.val l
  | .k n => r.getK n.val

/-- The value of a 64-bit source in a lane (R36). -/
def Regs.src2 (r : Regs) (x : Src) (l : Nat) : DWord :=
  match x with
  | .v n => r.getV2 n.val l
  | .k n => r.getK2 n.val

/-- Source register number x + i of a lane: the further words of a block operand. -/
def Regs.srcAt (r : Regs) (x : Src) (i l : Nat) : Word :=
  match x with
  | .v n => r.getV (n.val + i) l
  | .k n => r.getK (n.val + i)

/-- Word i of a lane's store data (R152): of a 64-bit store it is a half of the pair, of which k0 reads zero whole (R36). -/
def Regs.dataAt (r : Regs) (sz : MemSize) (x : Src) (i l : Nat) : Word :=
  if sz = .b64 then (r.src2 x l).extractLsb' (32 * i) 32 else r.srcAt x i l

/-- The generic address of a lane's memory operand (R43). -/
def Regs.laneAddr (r : Regs) (m : LaneMem) (l : Nat) : DWord :=
  r.src2 m.base l + (r.src m.index l).signExtend 64 + m.off.signExtend 64

/-- The generic address of a uniform memory operand (R43). -/
def Regs.uniAddr (r : Regs) (m : UniMem) : DWord :=
  r.getK2 m.base.val + (r.getK m.index.val).signExtend 64 + m.off.signExtend 64

/-- Element registers and scale registers of operand A for a format code (R223). -/
def spanA (fa : Nat) (ablk : Bool) : Nat × Nat :=
  match fa with
  | 0 => (16, 0)
  | 1 => (8, 0)
  | 8 | 9 => (12, 0)
  | 16 => (8, 0)
  | 17 => (7, 0)
  | 18 | 19 | 23 => (16, 1)
  | 20 | 21 => (12, 1)
  | 22 => (16, if ablk then 2 else 1)
  | _ => (16, 0)

/-- The registers that a latched operand A spans (R229). -/
def Latch.span (x : Latch) : Nat := (spanA x.fa.toNat x.ablk).1 + (spanA x.fa.toNat x.ablk).2

/-- A write of n registers from d drops the latch when it meets the latched span (R229). -/
def Group.wrote (g : Group) (d n : Nat) : Group :=
  { g with latch := match g.latch with
    | some x => if d < x.va.val + x.span && x.va.val < d + n then none else some x
    | none => none }

/-- The group with other registers. -/
def Group.withRegs (g : Group) (r : Regs) : Group := { g with regs := r }

/-- v d set to a value in each lane of a mask. -/
def Regs.mapV (r : Regs) (m : Mask) (d : Nat) (f : Nat → Word) : Regs :=
  (lanesOf m).foldl (fun q l => q.setV d l (f l)) r

/-- The pair v d set to a value in each lane of a mask. -/
def Regs.mapV2 (r : Regs) (m : Mask) (d : Nat) (f : Nat → DWord) : Regs :=
  (lanesOf m).foldl (fun q l => q.setV2 d l (f l)) r

/-- A group whose lanes in a mask receive a 32-bit result, computed for every lane from the registers as they stand
(R199, R200). -/
def Group.putLanes (g : Group) (m : Mask) (d : Nat) (f : Nat → Word) : Group :=
  (g.wrote d 1).withRegs (g.regs.mapV m d f)

/-- A group whose lanes in a mask receive a 64-bit result (R200). -/
def Group.putLanes2 (g : Group) (m : Mask) (d : Nat) (f : Nat → DWord) : Group :=
  (g.wrote d 2).withRegs (g.regs.mapV2 m d f)

/-- A lane-set instruction with a 32-bit result in a vector register (R198 to R200). -/
def State.laneOp (s : State) (g : Pred) (d : VReg) (f : Regs → Nat → Word) : Out :=
  s.run (fun e => .ok (s.retire e (e.g.putLanes (e.taking g) d.val (f e.g.regs))))

/-- A lane-set instruction with a 64-bit result in a vector pair. -/
def State.laneOp2 (s : State) (g : Pred) (d : VReg) (f : Regs → Nat → DWord) : Out :=
  s.run (fun e => .ok (s.retire e (e.g.putLanes2 (e.taking g) d.val (f e.g.regs))))

/-- A uniform instruction with a 32-bit result in a uniform register (R218). -/
def State.uniOp (s : State) (q : Pred) (d : KReg) (f : Regs → Word) : Out :=
  s.uniform q (fun e => .ok (s.retire e (e.g.withRegs (e.g.regs.setK d.val (f e.g.regs)))))

/-- A uniform instruction with a 64-bit result in a uniform pair (R218). -/
def State.uniOp2 (s : State) (q : Pred) (d : KReg) (f : Regs → DWord) : Out :=
  s.uniform q (fun e => .ok (s.retire e (e.g.withRegs (e.g.regs.setK2 d.val (f e.g.regs)))))

end Sys2Proof.Machine
end

