-- ==== Sys2Proof/Machine/Cache.lean ====
section
/-! DEFINITION. The column L1s and the L2s as the accesses of a context meet them: what hits, what misses and is counted, what enters
and by which class (R87, R106, R138, R147, R393). -/

namespace Sys2Proof.Machine

/-- An access of a context meets the L2 of a line by a class; a miss is counted (R105, R106, R393). -/
def State.ctxL2 (s : State) (ctx pa cc : Nat) (wr : Bool) : State :=
  (if s.holds (homeL2 pa) (pa / 128) then s else s.count ctx 0x28 1).useL2 pa cc wr

/-- The classes by which an access with a hint meets the L1 and the L2, from its page's class (R106, R147). -/
def hintClasses (h : Hint) (cc : Nat) : Nat × Nat :=
  match h with
  | .page => (cc, cc)
  | .strm => (1, 1)
  | .na => (2, cc)

/-- The column whose L1 serves a line for a group: its own, or in a fused cluster the line's home column (R137, R140). -/
def Env.l1Column (e : Env) (pa : Nat) : Nat :=
  if Rec.fuse e.gr.bytes then e.t.homeColumn e.gr.bytes pa else e.t.column

/-- A load of a group meets a line of local memory in a column's L1: a hit moves the line by its class, and a FENCE.S of the group
renews its lease at the L2; a miss is counted, reaches the L2, and brings the line in unless the class says otherwise
(R138, R272, R393). [DESIGN CHOICE, log 12] -/
def State.loadLine (s : State) (e : Env) (column line cc : Nat) : State :=
  let k := hintClasses e.hint cc
  if s.holds (.l1 column) line then
    let s1 := { s with caches := usedLine s.caches (.l1 column) line k.1 false }
    if e.g.fenceS then
      { s1 with stale := s1.stale.filter (fun x => !(x.column == column && x.pa / 128 == line)) }.ctxL2 e.t.ctx (128 * line) k.2 false
    else s1
  else ((s.count e.t.ctx 0x20 1).ctxL2 e.t.ctx (128 * line) k.2 false).fillL1 column line k.1

/-- A store of a group meets a line: the L1 keeps the line if it holds it, and the home L2 gets the store (R138, R393).
[DESIGN CHOICE, log 12] -/
def State.storeLine (s : State) (e : Env) (column line cc : Nat) : State :=
  let k := hintClasses e.hint cc
  let s1 := if s.holds (.l1 column) line then { s with caches := usedLine s.caches (.l1 column) line k.1 false }
    else s.count e.t.ctx 0x20 1
  s1.ctxL2 e.t.ctx (128 * line) k.2 true

/-- The lines of local memory that pieces meet, each once with the class of its page. -/
def linesMet (ps : List Piece) : List (Nat × Nat) :=
  (ps.flatMap (fun p => match p.at_ with
    | .loc pa => (List.range ((pa + p.n - 1) / 128 + 1 - pa / 128)).map (fun i => (pa / 128 + i, p.leaf.cc))
    | _ => [])).eraseDups

/-- The pieces of a group's load meet the caches. -/
def State.loadMet (s : State) (e : Env) (ps : List Piece) : State :=
  (linesMet ps).foldl (fun a l => a.loadLine e (e.l1Column (128 * l.1)) l.1 l.2) s

/-- The pieces of a group's store meet the caches. -/
def State.storeMet (s : State) (e : Env) (ps : List Piece) : State :=
  (linesMet ps).foldl (fun a l => a.storeLine e (e.l1Column (128 * l.1)) l.1 l.2) s

/-- Pieces meet the L2s alone: those of copies, of fetches and of the part's own acts (R106). -/
def State.dieMet (s : State) (ctx : Nat) (wr : Bool) (ps : List Piece) : State :=
  (linesMet ps).foldl (fun a l => a.ctxL2 ctx (128 * l.1) l.2 wr) s

/-- A request that the controller performs itself: a line that the L2 holds leaves it, a dirty one written back first (R58, R252).
[DESIGN CHOICE, log 12] -/
def State.atController (s : State) (pa : Nat) : State :=
  let it := fun x : CacheLine => x.held == homeL2 pa && x.line == pa / 128
  let s1 := if s.caches.any (fun x => it x && x.dirty) then s.reach pa else s
  { s1 with caches := s1.caches.filter (fun x => !it x) }.reach pa

end Sys2Proof.Machine
end

