-- ==== Sys2Proof/Machine/Translate.lean ====
section
/-! DEFINITION. Generic addresses: apertures and steering (R77 to R81, R145), page-table walks and the translation caches
(R82 to R88), spur leaves and copy-on-write (R310 to R313), and the checks an instruction's lanes meet together (R95, R97). -/

namespace Sys2Proof.Machine

/-- What an access does (R85, R94). -/
inductive Acc where
  | read | write | atomic | fetch
  deriving DecidableEq, Repr

/-- The access changes memory: it needs W (R84). -/
def Acc.writes : Acc → Bool
  | .write | .atomic => true
  | _ => false

/-- The KIND bit of a fault-batch entry within its 4-bit field (R94). -/
def Acc.kind : Acc → Nat
  | .read => 1 | .write => 2 | .atomic => 4 | .fetch => 8

/-- How a translation fails (R85): the level at which the walk ended, or the lost atom; or it waits for a table entry in a crest page
that is not open yet (R60). -/
inductive XErr where
  | absent (lvl : Nat)
  | prot (lvl : Nat)
  | bad (lvl : Nat)
  | lost (lvl pa : Nat)
  | held
  deriving DecidableEq, Repr

/-! ## Walks -/

/-- One table entry read by the walker (R85): ABSENT gives a malformed entry, a lost atom DATA_LOST; a page that
is not open yet holds the walk (R60). -/
def readEntry (s : State) (lvl pa : Nat) : Except XErr Nat :=
  if !localExists s pa then .error (.bad lvl)
  else if isHeld s pa then .error .held
  else if isLost s pa then .error (.lost lvl pa)
  else .ok (s.loadNat pa 8)

/-- A table entry that the walk cache of a massif holds (R88). -/
def walkHit (s : State) (massif c lvl va : Nat) : Option WalkEntry :=
  s.walks.find? (fun w => w.massif == massif && w.ctx == c && w.level == lvl && w.base == va / entrySpan lvl * entrySpan lvl)

/-- A table entry of level 4, 3 or 2 enters the walk cache of its massif, which holds 1,024; the least recently used one
leaves (R88). -/
def State.walkUsed (s : State) (w : WalkEntry) : State :=
  let others := s.walks.filter (fun q => q.massif != w.massif)
  let mine := s.walks.filter (fun q => q.massif == w.massif && !(q.ctx == w.ctx && q.level == w.level && q.base == w.base))
  { s with walks := w :: (mine.take 1023 ++ others) }

/-- What a walk finds: the leaf and its level, the table entries it went through for the walk cache, and the addresses that it read. -/
structure Walked where
  leaf : Nat
  lvl  : Nat
  kept : List WalkEntry
  read : List Nat
  deriving DecidableEq, Repr

/-- The walk of a massif's walker from a table of a level down (R85); the walk cache supplies the entries it holds (R88).
[DESIGN CHOICE, log 58] -/
def walkFrom (s : State) (massif c va : Nat) : Nat → Nat → Except XErr Walked
  | lvl, table => do
    let pa := table + 8 * vaIndex lvl va
    let (e, rd) ← match walkHit s massif c lvl va with
      | some w => Except.ok (w.entry.toNat, [])
      | none => (readEntry s lvl pa).map (fun e => (e, [pa]))
    if e % 2 = 0 then .error (.absent lvl)
    else if fld e 1 1 = 1 then
      if 3 ≤ lvl then .error (.bad lvl) else if leafBad lvl e then .error (.bad lvl) else pure ⟨e, lvl, [], rd⟩
    else
      match lvl with
      | 0 => .error (.bad 0)
      | l + 1 =>
        if tableBad (l + 1) e then .error (.bad (l + 1))
        else do
          let w ← walkFrom s massif c va l (fld e 47 8 * 256)
          pure { w with
            kept := if 2 ≤ l + 1 then ⟨massif, c, l + 1, va / entrySpan (l + 1) * entrySpan (l + 1), BitVec.ofNat 64 e⟩ :: w.kept else w.kept
            read := rd ++ w.read }

/-- A leaf forbids the access (R85). -/
def leafProt (acc : Acc) (handler : Bool) (e : Nat) : Bool :=
  (acc.writes && fld e 3 3 == 0) || (acc == .fetch && fld e 4 4 == 0) || (!handler && fld e 5 5 == 1)

/-! ## Translation caches (R88) -/

/-- Who translates: the core whose caches it goes through, none for an engine or an act of the part's own, and the massif whose
base-die TLB and walker it uses (R88, R420). -/
structure Agent where
  core   : Option (Nat × Nat)
  massif : Nat
  deriving DecidableEq, Repr

/-- An engine or an act of the part's own that uses the base die of a massif (R88, R420). -/
def Agent.die (massif : Nat) : Agent := ⟨none, massif⟩

/-- The caches an agent looks in, in order (R88). -/
def Agent.units (a : Agent) : List TlbUnit :=
  match a.core with
  | some (column, layer) => [.core column layer, .column column, .die a.massif]
  | none => [.die a.massif]

/-- Entries and ways of a translation cache (R88). -/
def TlbUnit.shape : TlbUnit → Nat × Nat
  | .core _ _ => (64, 64)
  | .column _ => (2048, 8)
  | .die _ => (32768, 16)

/-- An entry maps an address of a context; that of a spur leaf only for its spur (R88, R313). -/
def TlbEntry.maps (t : TlbEntry) (c : Nat) (spur : Option Word) (va : Nat) : Bool :=
  t.ctx == c && decide (t.base ≤ va) && decide (va < t.base + t.size) && (t.spur.isNone || t.spur == spur)

/-- The entry of a cache that maps an address. -/
def tlbFind (s : State) (u : TlbUnit) (c : Nat) (spur : Option Word) (va : Nat) : Option TlbEntry :=
  s.tlb.find? (fun t => t.held == u && t.maps c spur va)

/-- Two entries of a cache share a set. The hash that picks the set of a column's or a base die's TLB is the part's own.
[DESIGN CHOICE, log 58] -/
def sameSet (a b : TlbEntry) : Bool :=
  match a.held with
  | .core _ _ => true
  | u => Config.tlbSet a.ctx a.base % (u.shape.1 / u.shape.2) == Config.tlbSet b.ctx b.base % (u.shape.1 / u.shape.2)

/-- A cache holds an entry as its latest; a full set lets its least recently used one go (R88). [DESIGN CHOICE, log 58] -/
def tlbWith (tlb : List TlbEntry) (t : TlbEntry) : List TlbEntry :=
  let ways := t.held.shape.2
  let rest := tlb.filter (fun q => !(q.held == t.held && q.ctx == t.ctx && q.base == t.base && q.size == t.size && q.spur == t.spur))
  if rest.countP (fun q => q.held == t.held) < ways then t :: rest
  else match (rest.filter (fun q => q.held == t.held && sameSet t q)).drop (ways - 1) with
    | [] => t :: rest
    | old :: _ => t :: rest.filter (fun q => q != old)

/-- A cache of the part holds an entry as its latest. -/
def State.tlbUsed (s : State) (t : TlbEntry) : State := { s with tlb := tlbWith s.tlb t }

/-- The caches of an agent down to the one that supplied an entry all hold it. -/
def State.tlbFill (s : State) (t : TlbEntry) : List TlbUnit → State
  | [] => s
  | u :: us => (s.tlbFill t us).tlbUsed { t with held := u }

/-- Where an agent finds a translation in its caches: the caches up to the one that holds it, and the entry. -/
def tlbLook (s : State) (c : Nat) (spur : Option Word) (va : Nat) : List TlbUnit → Option (List TlbUnit × TlbEntry)
  | [] => none
  | u :: us =>
    match tlbFind s u c spur va with
    | some t => some ([u], t)
    | none => (tlbLook s c spur va us).map (fun r => (u :: r.1, r.2))

/-- The leaf and level that map an address for an agent: from its translation caches, which keep a translation until it is
invalidated or makes room, or by a walk whose result they then hold (R87, R88). A walk that succeeds is counted, and reads its tables
through the L2 as class 0 (R87, R393). A spur leaf is malformed for an agent that belongs to no spur (R311). [DESIGN CHOICE, log 58] -/
def leafOf (s : State) (c : Nat) (a : Agent) (spur : Option Word) (va : Nat) : Except XErr (State × Nat × Nat) :=
  match tlbLook s c spur va a.units with
  | some (us, t) => .ok (s.tlbFill t us, t.leaf.toNat, t.level)
  | none =>
    match walkFrom s a.massif c va 4 ((s.ctx c).reg64 CtxReg.ptRoot) with
    | .error e => .error e
    | .ok w =>
      let u := unitSize w.lvl
      let t : TlbEntry := ⟨.die a.massif, c, if fld w.leaf 8 8 = 1 then spur else none, va / u * u, u, BitVec.ofNat 64 w.leaf, w.lvl⟩
      if fld w.leaf 8 8 = 1 ∧ spur = none then .error (.bad w.lvl)
      else
        let s1 := (w.kept.foldl State.walkUsed s).tlbFill t a.units
        .ok (w.read.foldl (fun b pa => b.ctxL2 c pa 0 false) (s1.count c 0x30 1), w.leaf, w.lvl)

/-! ## Spur leaves -/

/-- A pool index that the part takes from memory that software may have changed: one of the pool's (R308). [DESIGN CHOICE, log 80] -/
def boundPage (x : Context) (page : Nat) : Nat :=
  let n := (x.reg CtxReg.poolPages).toNat
  if page < n then page else Config.brokenIndex page % n

/-- The spur record of a slot (R308). -/
def spurAddr (x : Context) (slot : Nat) : Nat := x.reg64 CtxReg.spurTable + 64 * slot

/-- A little-endian field of a spur record. -/
def spurField (s : State) (x : Context) (slot off n : Nat) : Nat := s.readNat (spurAddr x slot + off) n

/-- The slot of a spur number (R306). -/
def spurSlot (n : Word) : Nat := n.toNat / 4096

/-- Where a slot stands in the tree and its list page. The part goes by what it keeps itself, so that a store into a record leads it to no
other record and to no page but the spur's own (R308). [DESIGN CHOICE, log 80] -/
def Context.link (x : Context) (slot : Nat) : SpurLink := (getT x.links slot).getD ⟨0, 0, 0, 0⟩

/-- The pool index of a spur's list page; the root's is pool page 0 (R307, R308). -/
def listPage (x : Context) (slot : Nat) : Nat := if slot = 0 then 0 else (x.link slot).list

/-- The address of a pool page. -/
def poolPage (x : Context) (page : Nat) : Nat := x.reg64 CtxReg.poolBase + 65536 * page

/-- The address of entry i of a spur's page list (R310). -/
def listEntry (x : Context) (slot i : Nat) : Nat := poolPage x (listPage x slot) + 4 * i

/-- The page that a spur's list holds at i, 0 when empty; without spur slots the root's list is empty (R307, R310). -/
def listGet (s : State) (x : Context) (slot i : Nat) : Nat :=
  if x.reg CtxReg.spurSlots = 0 then 0 else boundPage x (s.readNat (listEntry x slot i) 4)

/-- The address of the reference count of a pool page (R307). -/
def refAt (x : Context) (page : Nat) : Nat := x.reg64 CtxReg.poolRef + 4 * page

/-- The reference count of a pool page (R310). -/
def refCount (s : State) (x : Context) (page : Nat) : Nat := s.readNat (refAt x page) 4

/-- Set a reference count. -/
def State.setRef (s : State) (x : Context) (page n : Nat) : State := s.writeOwn (refAt x page) (leBytes 4 n)

/-- The address of entry i of the free stack (R307). -/
def freeAt (x : Context) (i : Nat) : Nat := x.reg64 CtxReg.poolFree + 4 * i

/-- Push a page onto a context's free stack (R310). -/
def State.poolPushPage (s : State) (c page : Nat) : State :=
  let x := s.ctx c
  let top := x.reg CtxReg.poolTop
  (s.writeOwn (freeAt x top.toNat) (leBytes 4 page)).modCtx c (fun y => y.setReg CtxReg.poolTop (top + 1))

/-- Pop the top page of a context's free stack; none when it is empty (R310). -/
def State.poolPop (s : State) (c : Nat) : Option (Nat × State) :=
  let x := s.ctx c
  let top := (x.reg CtxReg.poolTop).toNat
  if top = 0 then none
  else some (boundPage x (s.readNat (freeAt x (top - 1)) 4),
    s.modCtx c (fun y => y.setReg CtxReg.poolTop (BitVec.ofNat 32 (top - 1))))

/-- How a translation fails that an access needs: as its walk does, or on an empty free stack (R312). -/
inductive XStop where
  | x (e : XErr)
  | pool
  deriving DecidableEq, Repr

/-- The lost atom, if any, that a list of runs meets first: the spur unit's own reads and writes get DATA_LOST as any request does
(R71), and so does the access they serve. [DESIGN CHOICE, log 111] -/
def lostAmong (s : State) (runs : List (Nat × Nat)) : Option Nat := runs.findSome? (fun r => lostIn s r.1 r.2)

/-- A write on a spur leaf of logical page i, before it is performed (R312): a page shared is copied, an empty entry gets a
zeroed page. It fails when the free stack is empty, as it does for the root of a context without spur slots, whose list stays
empty (R307), and when what it needs is lost. -/
def State.cow (s : State) (c : Nat) (spur : Word) (i : Nat) : Except XStop State :=
  let x := s.ctx c
  let slot := spurSlot spur
  let p := listGet s x slot i
  let list := listEntry x slot i
  if x.reg CtxReg.spurSlots = 0 then .error .pool
  else match lostAmong s [(list, 4), (refAt x p, 4)] with
    | some a => .error (.x (.lost 0 a))
    | none =>
      if p ≠ 0 ∧ refCount s x p = 1 then .ok s
      else match s.poolPop c with
        | none => .error .pool
        | some (q, s1) =>
          let lens := spurAddr x slot + 32
          match lostAmong s ([(freeAt x ((x.reg CtxReg.poolTop).toNat - 1), 4), (refAt x q, 4)] ++
              (if p = 0 then [(lens, 4)] else [(poolPage x p, 65536)])) with
          | some a => .error (.x (.lost 0 a))
          | none =>
            let s2 := if p = 0 then s1.zeroPage (poolPage x q) else s1.copyPage (poolPage x p) (poolPage x q)
            let s3 := (s2.writeOwn list (leBytes 4 q)).setRef x q 1
            .ok (if p = 0 then s3.writeOwn lens (leBytes 4 (max (spurField s x slot 32 4) (i + 1)))
              else s3.setRef x p (refCount s x p - 1))

/-- The place a leaf gives an address (R86, R311): a spur leaf goes through the spur's page list, and an agent that belongs
to no spur may not meet one. -/
def physOf (s : State) (c : Nat) (spur : Option Word) (e lvl va : Nat) : Except XErr Phys :=
  if fld e 8 8 = 1 then
    match spur with
    | none => .error (.bad lvl)
    | some n =>
      let x := s.ctx c
      let p := listGet s x (spurSlot n) (fld e 29 16)
      if p = 0 then .ok .zero else .ok (.loc (poolPage x p + va % 65536))
  else
    let pa := fld e 47 16 * 65536 + va % unitSize lvl
    match fld e 51 50 with
    | 0 => .ok (.loc pa)
    | 1 => if fld e 63 52 = s.chipId.toNat then .ok (.loc (pa % 2 ^ 41)) else .ok (.rem 1 (fld e 63 52) (pa % 2 ^ 41))
    | t => .ok (.rem t (fld e 63 52) pa)

/-- Translate one address for an agent (R85, R86, R311, R312): the state with what the caches hold then, the place, and what the access
keeps of the leaf. [DEDUCED, log 30; DESIGN CHOICE, log 58] -/
def xlate (s : State) (c : Nat) (a : Agent) (spur : Option Word) (handler : Bool) (acc : Acc) (va : Nat) :
    Except XStop (State × Phys × Leaf) :=
  match leafOf s c a spur va with
  | .error e => .error (.x e)
  | .ok (s1, e, lvl) =>
    if leafProt acc handler e then .error (.x (.prot lvl))
    else
      match (if fld e 8 8 = 1 ∧ acc.writes then s1.cow c (spur.getD 0) (fld e 29 16) else .ok s1) with
      | .error z => .error z
      | .ok s2 =>
        match physOf s2 c spur e lvl va with
        | .error z => .error (.x z)
        | .ok p =>
          .ok (if fld e 8 8 = 1 then s2.runL2 (listEntry (s2.ctx c) (spurSlot (spur.getD 0)) (fld e 29 16)) 4 0 false else s2,
            p, ⟨lvl, fld e 7 6⟩)

/-- The runs of an access that each lie in one 64 KiB page, and so in one translation unit (R97). -/
def chunks (va n : Nat) : List (Nat × Nat) :=
  if va % 65536 + n ≤ 65536 then [(va, n)]
  else [(va, 65536 - va % 65536), (va + (65536 - va % 65536), n - (65536 - va % 65536))]

/-- The stop of an instruction whose one translation fails (R85, R93, R312): LANES of its batch are all executing lanes, for a fetch and for
HROW; ULD, UST and SHNEW name the lowest one, as their access is that lane's. [DEDUCED, log 16] -/
def oneStop (s : State) (c : Issue) (spur : Word) (acc : Acc) (va : Nat) : XStop → Stop
  | .x .held => .park s .held
  | .x (.bad lvl) => .trap 8 lvl va none 0
  | .x (.lost _ pa) => .trap 10 0 va none (pa / 32 * 32)
  | .x (.absent lvl) => .pageFault ⟨c.pc.toNat, c.mask, [⟨va / 65536, lvl, acc.kind, 0⟩], 0, false, none⟩
  | .x (.prot lvl) => .pageFault ⟨c.pc.toNat, c.mask, [⟨va / 65536, lvl, acc.kind, 1⟩], 0, false, none⟩
  | .pool => .pageFault ⟨c.pc.toNat, c.mask, [⟨va / 65536, 0, acc.kind, 0⟩], 7, true, some (va, spur)⟩

/-! ## Steering -/

/-- The size in bytes of a team's scratchpad allocation. -/
def State.scratchSize (s : State) (t : Team) : Nat :=
  match s.grid? t.ctx t.serial with
  | none => 0
  | some g => 4096 * Rec.scratch g.bytes

/-- The team of a rank in the cluster of a team (R78, R284). -/
def State.peer? (s : State) (e : Env) (rank : Nat) : Option Team :=
  let n := Rec.clsize e.gr.bytes
  if rank < n then
    s.teams.find? (fun u => u.ctx == e.t.ctx && u.serial == e.t.serial && u.idx == e.t.idx / n * n + rank)
  else none

/-- A run of a scratchpad meets the buffer-table area, its top 512 bytes (R121). [DEDUCED, log 75] -/
def inBufTable (size off n : Nat) : Bool := size ≠ 0 && off < size && size - 512 < off + n

/-- Steering of a scratchpad address (R78): none is APERTURE. [DEDUCED, log 107] -/
def steerScr (s : State) (e : Env) (ga n : Nat) : Option (Nat × Nat) :=
  if fld ga 55 22 ≠ 0 then none
  else
    let slot := fld ga 21 18
    let off := fld ga 17 0
    match if slot = 15 then some e.t else s.peer? e slot with
    | none => none
    | some u => if off + n ≤ s.scratchSize u then some (u.tid, off) else none

/-- The offset of a DET team's run of n bytes at a rank of its cluster whose team has ended: R353 goes by the rank that the slot
names, so that the trap does not rest on when that team ended. [DEDUCED, log 107] -/
def endedPeer (e : Env) (acc : Acc) (ga n : Nat) : Option Nat :=
  let off := fld ga 17 0
  let size := 4096 * Rec.scratch e.gr.bytes
  if e.isDet && fld ga 55 22 == 0 && decide (fld ga 21 18 < Rec.clsize e.gr.bytes) && decide (off + n ≤ size) &&
    !(acc.writes && inBufTable size off n) then some off
  else none

/-- Steering of one lane's access of n bytes (R77 to R81, R121, R145): none is APERTURE. [DEDUCED, log 107] -/
def steer (s : State) (e : Env) (acc : Acc) (lane ga n : Nat) : Option Loc :=
  if ga < 2 ^ 57 then (if ga + n ≤ 2 ^ 57 then some (.glob ga) else none)
  else if ga < 0xFE00000000000000 then none
  else if ga < 0xFF00000000000000 then
    match steerScr s e ga n with
    | none => (endedPeer e acc ga n).map (fun off => .scr s.nextTid off)
    | some (tid, off) =>
      match s.team? tid with
      | none => none
      | some u => if acc.writes && inBufTable (s.scratchSize u) off n then none else some (.scr tid off)
  else if fld ga 55 24 ≠ 0 then none
  else
    let x := fld ga 23 0
    let log := Rec.stackLog e.gr.bytes
    if log = 0 ∨ 2 ^ log < x + n then none
    else
      let slot := (e.t.idx * 32 + e.g.gid % 32) * 32 + lane
      let va := Rec.stackBase e.gr.bytes + slot * 2 ^ log + x
      if 2 ^ 57 < va + n then none else some (.glob va)

/-- A lane's steered access. -/
structure Steered where
  lane : Nat
  ga   : Nat
  loc  : Loc
  deriving DecidableEq, Repr

/-- Steer every lane's access; the lowest lane that fails names APERTURE (R95, R156). -/
def steerAll (s : State) (e : Env) (acc : Acc) (n : Nat) : List (Nat × Nat) → Except Stop (List Steered)
  | [] => .ok []
  | (l, ga) :: t =>
    match steer s e acc l ga n with
    | none => .error (.trap 6 0 ga none 0)
    | some loc => do
      let r ← steerAll s e acc n t
      pure (⟨l, ga, loc⟩ :: r)

/-- The spur a team belongs to (R306). -/
def Env.spur (e : Env) : Word := Rec.spur e.gr.bytes

/-- The core that runs the group, as a translating agent (R88). -/
def Env.agent (e : Env) : Agent := ⟨some (e.t.column, e.t.layer), massifOf e.t.column⟩

/-- What the translation of one lane's access gave: its pieces, and the pieces that failed with their addresses. -/
structure LaneX where
  lane : Nat
  ps   : List Piece
  errs : List (Nat × XStop)
  deriving DecidableEq, Repr

/-- Translate the chunks of one access in ascending order, every one whatever becomes of the others (R97). -/
def xlateChunks (s : State) (c : Nat) (a : Agent) (spur : Option Word) (handler : Bool) (acc : Acc) :
    List (Nat × Nat) → State × List Piece × List (Nat × XStop)
  | [] => (s, [], [])
  | (va, n) :: t =>
    match xlate s c a spur handler acc va with
    | .error x =>
      let (s1, ps, es) := xlateChunks s c a spur handler acc t
      (s1, ps, (va, x) :: es)
    | .ok (s1, p, leaf) =>
      let (s2, ps, es) := xlateChunks s1 c a spur handler acc t
      (s2, ⟨va, n, p, leaf⟩ :: ps, es)

/-- Translate every access with its length, in order, the caches filling as they go. -/
def xlateSized (s : State) (e : Env) (acc : Acc) : List (Steered × Nat) → State × List LaneX
  | [] => (s, [])
  | (a, n) :: t =>
    let (s1, r) := match a.loc with
      | .scr tid off => (s, ⟨a.lane, [⟨a.ga, n, .scr tid off, ⟨0, 0⟩⟩], []⟩)
      | .glob va =>
        let (s1, ps, es) := xlateChunks s e.t.ctx e.agent (some e.spur) e.g.trap.masked acc (chunks va n)
        (s1, LaneX.mk a.lane ps es)
    let (s2, rs) := xlateSized s1 e acc t
    (s2, r :: rs)

/-- The entry of a fault batch for a failed translation (R94). -/
def faultEntry (acc : Acc) (va : Nat) : XErr → Option FaultEntry
  | .absent lvl => some ⟨va / 65536, lvl, acc.kind, 0⟩
  | .prot lvl => some ⟨va / 65536, lvl, acc.kind, 1⟩
  | _ => none

/-- Add an entry to a batch: a page already listed combines its kinds (R94). -/
def addEntry (es : List FaultEntry) (f : FaultEntry) : List FaultEntry :=
  if es.any (fun g => g.page == f.page) then
    es.map (fun g => if g.page = f.page then { g with kind := g.kind ||| f.kind } else g)
  else es ++ [f]

/-- Every access translated, or the stop of highest rank over all pieces of all lanes (R95, R97, R156): a malformed leaf, then a lost
atom that a walk or the spur unit met, then a page fault, then an empty free stack. A trap names the lowest lane's first such piece,
a batch the lanes whose access failed so. R95 and R156 do not place the second and the fourth. [DEDUCED, log 16] -/
def xlateEach (s : State) (e : Env) (acc : Acc) (as : List (Steered × Nat)) :
    Except Stop (State × List (Nat × List Piece)) :=
  let (s1, rs) := xlateSized s e acc as
  let errs := rs.flatMap (fun r => r.errs.map (fun x => (r.lane, x)))
  let bad := errs.findSome? (fun x => match x.2.2 with | .x (.bad lvl) => some (lvl, x.2.1) | _ => none)
  let lost := errs.findSome? (fun x => match x.2.2 with | .x (.lost _ pa) => some (pa, x.2.1) | _ => none)
  let pool := errs.filter (fun x => x.2.2 == .pool)
  let faults := errs.filterMap (fun x => match x.2.2 with
    | .x z => (faultEntry acc x.2.1 z).map (fun f => (x.1, f))
    | .pool => none)
  match bad, lost, faults, pool with
  | some (lvl, va), _, _, _ => .error (.trap 8 lvl va none 0)
  | none, some (pa, va), _, _ => .error (.trap 10 0 va none (pa / 32 * 32))
  | none, none, f :: fs, _ =>
    .error (.pageFault ⟨e.c.pc.toNat, maskOf ((f :: fs).map (·.1)).eraseDups, ((f :: fs).map (·.2)).foldl addEntry [], 0, false,
      none⟩)
  | none, none, [], p :: ps =>
    .error (.pageFault ⟨e.c.pc.toNat, maskOf ((p :: ps).map (·.1)).eraseDups, [⟨p.2.1 / 65536, 0, acc.kind, 0⟩], 7, true,
      some (p.2.1, e.spur)⟩)
  | none, none, [], [] =>
    if errs.any (fun x => x.2.2 == .x .held) then .error (.park s .held) else .ok (s1, rs.map (fun r => (r.lane, r.ps)))

/-- Every lane's access of n bytes translated (R95, R156). -/
def xlateAll (s : State) (e : Env) (acc : Acc) (n : Nat) (as : List Steered) :
    Except Stop (State × List (Nat × List Piece)) :=
  xlateEach s e acc (as.map (fun a => (a, n)))

end Sys2Proof.Machine
end

