-- ==== Sys2Proof/Machine/Cairn.lean ====
section
/-! DEFINITION. The Cairn unit's ring (R358 to R367): the records of a REC team's logged events, and the turn and check of a
REPLAY team's. An instruction whose lanes log several events passes when all of them may, one after the other. -/

namespace Sys2Proof.Machine

/-- A logged event of a group: TYPE, LANE field and OBJ (R358, R360). For TYPE 6, LANE holds the opcode with the set bit. -/
structure LogEv where
  type : Nat
  lane : Nat
  obj  : Nat
  deriving DecidableEq, Repr

/-- The positions that atomics and reductions of a context keep whose requests are on their way (R362). [DEDUCED, log 26] -/
def cairnKept (s : State) (c : Nat) : Nat :=
  (s.groups.map (fun g => match g.park with
    | some ⟨.reply f, _⟩ => (match s.team? (g.gid / 32) with | some t => if t.ctx = c then f.logs else 0 | none => 0)
    | _ => 0)).sum

/-- n positions are free in the recording ring (R362). -/
def State.cairnRoom (s : State) (c n : Nat) : Bool :=
  let x := s.ctx c
  (x.reg CtxReg.cairnProd - x.reg CtxReg.cairnCons).toNat + cairnKept s c + n ≤ 2 ^ (x.reg CtxReg.cairnLog).toNat

/-- The 16 bytes of a record (R360). -/
def LogRec.bytes (r : LogRec) : List Byte :=
  leBytes 1 r.type ++ leBytes 1 r.lane ++ leBytes 1 r.group ++ leBytes 1 r.grid ++ leBytes 4 r.team ++
  leBytes 4 r.obj ++ leBytes 4 r.digest

/-- Write one record and advance CAIRN_PROD (R361). -/
def State.cairnWrite (s : State) (c : Nat) (r : LogRec) : State :=
  let x := s.ctx c
  let s1 := s.writeOwn (x.cairnAt (x.reg CtxReg.cairnProd).toNat) r.bytes
  (s1.modCtx c (fun y => y.setReg CtxReg.cairnProd (y.reg CtxReg.cairnProd + 1))).cairnThresh c

/-- The unconsumed records below CAIRN_PROD, oldest first. -/
def cairnLeft (s : State) (x : Context) : List LogRec :=
  let n := (x.reg CtxReg.cairnProd - x.reg CtxReg.cairnCons).toNat
  ((List.range n).map (fun i => readLog s x ((x.reg CtxReg.cairnCons).toNat + i) |> fun r =>
      { r with pos := ((x.reg CtxReg.cairnCons).toNat + i) % 2 ^ 32 })).filter (fun r => !x.isConsumed r)

/-- The oldest unconsumed records: the 4,096 of the window of R364, and as many more as one instruction's lanes can consume of
them. -/
def cairnWindow (s : State) (x : Context) : List LogRec := (cairnLeft s x).take 4128

/-- Consume the record at a position (R364). -/
def State.cairnConsume (s : State) (c p : Nat) : State :=
  let x := s.ctx c
  (s.modCtx c (fun y => { y with consumed := p :: y.consumed })).cairnAdvance c
    (x.reg CtxReg.cairnProd - x.reg CtxReg.cairnCons).toNat

/-- The TYPE 4 records of launches that were refused, which their actor and DIGEST name, are consumed once the ring holds them (R367).
[DEDUCED, log 27] -/
def State.takeSkips (s : State) (c : Nat) : State :=
  (s.ctx c).skips.foldl (fun a k =>
    match (cairnLeft a (a.ctx c)).find? (fun r => r.type == 4 && r.grid == k.grid && r.team == k.team && r.group % 32 == k.group &&
        r.digest == k.digest) with
    | some r => (a.modCtx c (fun y => { y with skips := y.skips.erase k })).cairnConsume c r.pos
    | none => a) s

/-- A divergence: DIVERGED is set, and the group takes REPLAY_DIVERGENCE after what the state already holds (R365). -/
def diverge {α : Type} (s : State) (e : Env) (info addr : Nat) : Except Stop α :=
  .error (.trapAfter (s.modCtx e.t.ctx (fun y => { y with diverged := true })) 22 info addr)

/-- What R364 says of one event against the window: it goes with a record, waits behind earlier records of its object, waits for
records beyond CAIRN_PROD, or diverges. -/
inductive Turn where
  | go (r : LogRec)
  | behind
  | short
  | diverged (info : Nat)
  deriving DecidableEq, Repr

/-- A record's lane in its actor: 0 for TYPE 6 and 7 (R360). -/
def actorLane (type lane : Nat) : Nat := if type = 6 ∨ type = 7 then 0 else lane % 32

/-- Two events are the same in TYPE and OBJ, or in TYPE and opcode for TYPE 6, or in TYPE and tag for TYPE 7 (R364, R369).
[DEDUCED, log 25] -/
def sameEvent (ev : LogEv) (r : LogRec) : Bool :=
  r.type == ev.type &&
  (if ev.type = 6 then r.lane == ev.lane else if ev.type = 7 then r.lane == ev.lane && r.obj == ev.obj else r.obj == ev.obj)

/-- The turn of an event of an actor against the oldest unconsumed records (R364). [DEDUCED, log 25] -/
def turnOf (x : Context) (recs : List LogRec) (grid team group : Nat) (ev : LogEv) : Turn :=
  let win := recs.take 4096
  match win.find? (fun r => r.type != 4 && r.type != 5 && r.grid == grid && r.team == team && r.group % 32 == group &&
      actorLane r.type r.lane == actorLane ev.type ev.lane) with
  | none => if win.length = 4096 ∨ (x.reg CtxReg.cairnEnd).getLsbD 0 then .diverged 0xFFFFFFFF else .short
  | some r =>
    if !sameEvent ev r then .diverged r.pos
    else if ev.type = 6 ∨ ev.type = 7 then .go r
    else if win.any (fun q => q.type != 6 && q.obj == ev.obj && x.isBefore q.pos r.pos) then .behind
    else .go r

/-- The turns of the events of one instruction in the order of its steps, each seeing the earlier ones' records consumed and the
window filled up again (R358, R364). [DEDUCED, log 24] -/
def turnsOf (x : Context) (grid team group : Nat) : List LogRec → List LogEv → List Turn
  | _, [] => []
  | recs, ev :: t =>
    match turnOf x recs grid team group ev with
    | .go r => .go r :: turnsOf x grid team group (recs.filter (fun q => q.pos != r.pos)) t
    | z => z :: turnsOf x grid team group recs t

/-- The turns of a group's events in a replay. -/
def Env.turns (e : Env) (s : State) (evs : List LogEv) : List Turn :=
  turnsOf e.x (e.gr.rserial % 256) e.t.idx (e.g.gid % 32) (cairnWindow s e.x) evs

/-- The position of the record that a turn takes, as %trapinfo of a divergence. -/
def Turn.stop? : Turn → Option Nat
  | .diverged info => some info
  | _ => none

/-- The wait of a turn that has not come. -/
def Turn.wait? : Turn → Option Wait
  | .behind => some .turn
  | .short => some .ring
  | _ => none

/-- Before one logged event is performed: in REC it needs a position (R362), in REPLAY its turn (R364). The answer is the record
matched in REPLAY. [DEDUCED, log 24] -/
def cairnOpen (s : State) (e : Env) (addr : Nat) (ev : LogEv) : Except Stop (List LogRec) :=
  if e.isRec then
    if s.cairnRoom e.t.ctx 1 then .ok [] else .error (.park s .ring)
  else if e.isReplay then
    match e.turns s [ev] with
    | [.go r] => .ok [r]
    | [.diverged info] => diverge s e info addr
    | [.behind] => .error (.park s .turn)
    | _ => .error (.park s .ring)
  else .ok []

/-- The record of a performed event of a group in REC (R358, R360). -/
def logRec (e : Env) (ev : LogEv) (digest : Nat) : LogRec :=
  { pos := 0, type := ev.type, lane := ev.lane, group := e.g.gid % 32, grid := e.gr.rserial % 256, team := e.t.idx,
    obj := ev.obj, digest := digest }

/-- After logged events are performed: REC writes their records in order, REPLAY consumes them; the position of the first
record whose DIGEST differs (R358, R364). -/
def State.cairnClose (s : State) (e : Env) (evs : List (LogEv × Nat)) (rs : List LogRec) : State × Option Nat :=
  if e.isRec then (evs.foldl (fun a v => a.cairnWrite e.t.ctx (logRec e v.1 v.2)) s, none)
  else if e.isReplay then
    (rs.foldl (fun a r => a.cairnConsume e.t.ctx r.pos) s,
      ((rs.zip evs).find? (fun v => v.2.1.type != 6 && v.1.digest != v.2.2)).map (fun v => v.1.pos))
  else (s, none)

/-- What an instruction with one logged event has done: the state, its group with the results, the digest, and the trap it
raises after them, with %trapinfo. -/
structure Done where
  s      : State
  g      : Group
  digest : Nat
  trap   : Option (Nat × Nat)
  deriving DecidableEq, Repr

/-- An instruction whose one event is logged around what it does. A trap of its own, and a digest that differs, come after its
result and before it retires (R131, R362, R364). [DEDUCED, log 24] -/
def logged (s : State) (e : Env) (addr : Nat) (ev : LogEv) (f : State → Except Stop Done) : Except Stop State := do
  let rs ← cairnOpen s e addr ev
  let d ← f s
  match d.trap, d.s.cairnClose e [(ev, d.digest)] rs with
  | none, (s1, none) => .ok (s1.retire e d.g)
  | none, (s1, some p) => diverge (s1.setGroup d.g) e p addr
  | some (cause, info), (s1, p) =>
    .error (.trapAfter ((s1.setGroup d.g).modCtx e.t.ctx (fun y => { y with diverged := y.diverged || p.isSome })) cause info
      addr)

/-- The opcode byte that TYPE 6 records name: the opcode with the set bit in bit 7 (R360). -/
def Issue.opByte (c : Issue) : Nat := c.word.toNat / 2 ^ 24

/-- Before a sampled instruction: the VALUE to use in REPLAY, with its record (R363). -/
def sampleOpen (s : State) (e : Env) : Except Stop (Option (Nat × LogRec)) := do
  let rs ← cairnOpen s e 0 ⟨6, e.c.opByte, 0⟩
  .ok (rs.head?.map (fun r => (r.obj + 2 ^ 32 * r.digest, r)))

/-- After a sampled instruction: its record written with the VALUE, or consumed (R363). -/
def State.sampleClose (s : State) (e : Env) (value : Nat) (r : Option (Nat × LogRec)) : State :=
  (s.cairnClose e [(⟨6, e.c.opByte, value % 2 ^ 32⟩, value / 2 ^ 32)] ((r.map (·.2)).toList)).1

/-- A sampled instruction that a replay performs: its result must be the recorded one, or the replay diverges after it
(R363). -/
def sampledOp (s : State) (e : Env) (value : Nat) (g : Group) (r : Option (Nat × LogRec)) : Except Stop State :=
  let s1 := s.sampleClose e value r
  match r with
  | none => .ok (s1.retire e g)
  | some (v, q) => if v = value then .ok (s1.retire e g) else diverge (s1.setGroup g) e q.pos 0

/-- The tag of a location in the global window (R359). -/
def globTag (va : Nat) : Nat := (fld va 36 5 ^^^ (fld va 56 37 * 4096)) % 2 ^ 32

/-- The tag of a scratchpad word (R359). -/
def scrTag (team off : Nat) : Nat := team % 2 ^ 19 * 8192 + off / 32 % 8192

end Sys2Proof.Machine
end

