-- ==== Sys2Proof/Machine/Number.lean ====
section
/-! DEFINITION. Number formats (R158 to R171): the exact values of elements, exact sums and products, the one rounding
function every floating result goes through, and conversions. -/

namespace Sys2Proof.Machine

/-- The exact value of a floating-point datum: NaN, an infinity, or (-1)^neg × m × 2^e; m = 0 is a signed zero (R159). -/
inductive Num where
  | nan
  | inf (neg : Bool)
  | fin (neg : Bool) (m : Nat) (e : Int)
  deriving DecidableEq, Repr

/-- What the all-ones codes of a format mean (R159): IEEE infinities and NaNs, one NaN code and no infinity, or plain
numbers. -/
inductive Top where
  | ieee | nanOnly | plain
  deriving DecidableEq, Repr

/-- A floating-point format (R159): exponent and fraction widths, bias, its special codes, its canonical NaN, and whether
subnormals are flushed (R171). -/
structure Fmt where
  eb    : Nat
  fb    : Nat
  bias  : Nat
  top   : Top
  cnan  : Nat
  flush : Bool
  deriving DecidableEq, Repr

namespace Fmt

def f64 : Fmt := ⟨11, 52, 1023, .ieee, 0x7FF8000000000000, false⟩
def f32 : Fmt := ⟨8, 23, 127, .ieee, 0x7FC00000, false⟩
/-- E8M10 as the upper 19 bits of its word. -/
def e8m10 : Fmt := ⟨8, 10, 127, .ieee, 0x3FE00, true⟩
def bf16 : Fmt := ⟨8, 7, 127, .ieee, 0x7FC0, true⟩
def f16 : Fmt := ⟨5, 10, 15, .ieee, 0x7E00, false⟩
def e4m3 : Fmt := ⟨4, 3, 7, .nanOnly, 0x7F, false⟩
def e5m2 : Fmt := ⟨5, 2, 15, .ieee, 0x7E, false⟩
def e3m4 : Fmt := ⟨3, 4, 3, .nanOnly, 0x7F, false⟩
def e3m2 : Fmt := ⟨3, 2, 3, .plain, 0, false⟩
def e2m3 : Fmt := ⟨2, 3, 1, .plain, 0, false⟩
def e2m1 : Fmt := ⟨2, 1, 1, .plain, 0, false⟩

/-- The sign bit's weight: 2^(eb + fb). -/
def signBit (f : Fmt) : Nat := 2 ^ (f.eb + f.fb)

/-- The code of infinity without its sign, for a format that has one. -/
def infCode (f : Fmt) : Nat := (2 ^ f.eb - 1) * 2 ^ f.fb

/-- The code of the largest finite magnitude (R159). -/
def maxCode (f : Fmt) : Nat :=
  match f.top with
  | .ieee => f.infCode - 1
  | .nanOnly => 2 ^ (f.eb + f.fb) - 2
  | .plain => 2 ^ (f.eb + f.fb) - 1

/-- The exponent of the unit in the last place of the lowest binade, subnormals included. -/
def qmin (f : Fmt) : Int := 1 - (f.bias : Int) - (f.fb : Int)

/-- A code with a sign. -/
def signed (f : Fmt) (neg : Bool) (c : Nat) : Nat := if neg then f.signBit + c else c

end Fmt

/-- The value of a code (R159), after the input subnormal policy (R171). -/
def Fmt.value (f : Fmt) (x : Nat) : Num :=
  let neg := x / f.signBit % 2 == 1
  let e := x / 2 ^ f.fb % 2 ^ f.eb
  let m := x % 2 ^ f.fb
  let c := x % f.signBit
  if f.top = .ieee ∧ e = 2 ^ f.eb - 1 then (if m = 0 then .inf neg else .nan)
  else if f.top = .nanOnly ∧ c = f.signBit - 1 then .nan
  else if e = 0 then (if f.flush then .fin neg 0 0 else .fin neg m f.qmin)
  else .fin neg (2 ^ f.fb + m) (f.qmin + (e : Int) - 1)

/-- n × 2^a for a possibly negative exponent, as a fraction: numerator and denominator. -/
def scale2 (n d : Nat) (a : Int) : Nat × Nat := if 0 ≤ a then (n * 2 ^ a.toNat, d) else (n, d * 2 ^ (-a).toNat)

/-- The floor of the base-2 logarithm of n / d, for n and d above 0. -/
def log2Ratio (n d : Nat) : Int :=
  let l : Int := (Nat.log2 n : Int) - (Nat.log2 d : Int)
  let (a, b) := scale2 n d (-l)
  if a < b then l - 1 else l

/-- Whether a nonnegative fraction n / d, cut to its floor, is raised by one (R167): RNE with ties to even, toward zero,
down or up. -/
def roundsUp (rm : RMode) (neg : Bool) (n d : Nat) : Bool :=
  let r := n % d
  match rm with
  | .rne => decide (d < 2 * r) || (2 * r == d && n / d % 2 == 1)
  | .rz => false
  | .rd => neg && r != 0
  | .ru => !neg && r != 0

/-- An integer nearest n / d by a rounding mode. [DEDUCED, log 20] -/
def roundNat (rm : RMode) (neg : Bool) (n d : Nat) : Nat := n / d + (roundsUp rm neg n d).toNat

/-- What an overflow becomes (R168). [DEDUCED, log 20] -/
def Fmt.overflow (f : Fmt) (rm : RMode) (sat neg : Bool) : Nat :=
  let towardMax := match rm with
    | .rne => false
    | .rz => true
    | .rd => !neg
    | .ru => neg
  if sat || towardMax || f.top = .plain then f.signed neg f.maxCode
  else if f.top = .ieee then f.signed neg f.infCode
  else f.cnan

/-- The code of the nonzero value (-1)^neg × n / d × 2^e rounded by a mode (R168, R171). [DEDUCED, log 20] -/
def Fmt.round (f : Fmt) (rm : RMode) (sat neg : Bool) (n d : Nat) (e : Int) : Nat :=
  let q := max (log2Ratio n d + e - (f.fb : Int)) f.qmin
  let (a, b) := scale2 n d (e - q)
  let k := roundNat rm neg a b
  let code := (q - f.qmin).toNat * 2 ^ f.fb + k
  if f.maxCode < code || (rm = .rne && code = f.maxCode && 2 * (a % b) = b && a / b = k) then f.overflow rm sat neg
  else if f.flush && code < 2 ^ f.fb then f.signed neg 0
  else f.signed neg code

/-- A conversion of an exact value to a format (R168). -/
def Fmt.encode (f : Fmt) (rm : RMode) (sat : Bool) : Num → Nat
  | .nan => if f.top = .plain then 0 else f.cnan
  | .inf neg =>
    if sat || f.top = .plain then f.signed neg f.maxCode
    else if f.top = .ieee then f.signed neg f.infCode
    else f.cnan
  | .fin neg 0 _ => f.signed neg 0
  | .fin neg m e => f.round rm sat neg m 1 e

/-- The default result of an operation: RNE without saturation (R176). -/
def Fmt.rne (f : Fmt) (x : Num) : Nat := f.encode .rne false x

namespace Num

/-- The negation of a value. -/
def neg : Num → Num
  | .nan => .nan
  | .inf s => .inf (!s)
  | .fin s m e => .fin (!s) m e

/-- The integer that a finite value is in units of 2^u, for u at or below its exponent. -/
def units (s : Bool) (m : Nat) (e u : Int) : Int := (if s then -1 else 1) * ((m * 2 ^ (e - u).toNat : Nat) : Int)

/-- The exact sum (R160, R207): an exact zero is +0 unless both addends are -0. -/
def add : Num → Num → Num
  | .nan, _ | _, .nan => .nan
  | .inf a, .inf b => if a = b then .inf a else .nan
  | .inf a, _ | _, .inf a => .inf a
  | .fin s m e, .fin t n f =>
    let u := min e f
    let x := units s m e u + units t n f u
    if x = 0 then .fin (s && t && m == 0 && n == 0) 0 0 else .fin (decide (x < 0)) x.natAbs u

/-- The exact product. -/
def mul : Num → Num → Num
  | .nan, _ | _, .nan => .nan
  | .inf a, .inf b => .inf (a != b)
  | .inf a, .fin s m _ | .fin s m _, .inf a => if m = 0 then .nan else .inf (a != s)
  | .fin s m e, .fin t n f => .fin (s != t) (m * n) (e + f)

/-- The exact a × b + c (R207). -/
def fma (a b c : Num) : Num := (a.mul b).add c

/-- NaN. -/
def isNan : Num → Bool
  | .nan => true
  | _ => false

/-- a < b for values that are not NaN; both zeros are equal (R206). -/
def lt : Num → Num → Bool
  | .nan, _ | _, .nan => false
  | .inf a, .inf b => a && !b
  | .inf a, .fin _ _ _ => a
  | .fin _ _ _, .inf b => !b
  | .fin s m e, .fin t n f => decide (units s m e (min e f) < units t n f (min e f))

/-- a = b for values that are not NaN; both zeros are equal (R206). -/
def eq (a b : Num) : Bool := !a.isNan && !b.isNan && !a.lt b && !b.lt a

/-- The sign of a value. -/
def sign : Num → Bool
  | .nan => false
  | .inf s => s
  | .fin s _ _ => s

/-- The smaller of two values, -0 below +0 (R208). -/
def min (a b : Num) : Num :=
  if a.isNan || b.isNan then .nan else if a.lt b then a else if b.lt a then b else if a.sign then a else b

/-- The larger of two values, -0 below +0 (R208). -/
def max (a b : Num) : Num :=
  if a.isNan || b.isNan then .nan else if a.lt b then b else if b.lt a then a else if a.sign then b else a

end Num

/-- The value of an integer. -/
def Num.ofInt (x : Int) : Num := .fin (decide (x < 0)) x.natAbs 0

/-- A conversion to an integer between two ends (R169): rounded by the mode and clamped; NaN gives 0. -/
def Num.toInt (lo hi : Int) (rm : RMode) : Num → Int
  | .nan => 0
  | .inf s => if s then lo else hi
  | .fin s m e =>
    let (a, b) := scale2 m 1 e
    let k : Int := (roundNat rm s a b : Nat)
    let x := if s then -k else k
    if x < lo then lo else if hi < x then hi else x

/-- The integer formats of R161: width and whether signed. -/
structure IFmt where
  bits   : Nat
  signed : Bool
  deriving DecidableEq, Repr

/-- The least value of an integer format. -/
def IFmt.lo (f : IFmt) : Int := if f.signed then -((2 ^ (f.bits - 1) : Nat) : Int) else 0

/-- The greatest value of an integer format. -/
def IFmt.hi (f : IFmt) : Int := if f.signed then ((2 ^ (f.bits - 1) : Nat) : Int) - 1 else ((2 ^ f.bits : Nat) : Int) - 1

/-- The value of a code (R161). -/
def IFmt.value (f : IFmt) (x : Nat) : Int := if f.signed then sx f.bits x else ((x % 2 ^ f.bits : Nat) : Int)

/-- The code of a converted value (R169). -/
def IFmt.encode (f : IFmt) (rm : RMode) (x : Num) : Nat := wrap f.bits (x.toInt f.lo f.hi rm)

/-- A scalar element format of R158: a floating-point or an integer one. -/
inductive Elem where
  | f (w : Nat) (x : Fmt)
  | i (x : IFmt)
  deriving DecidableEq, Repr

/-- The scalar formats that CVT.NR and CVT.WD take, by code 3 to 16 (R158, R211). -/
def elemOf (code : Nat) : Option Elem :=
  match code with
  | 3 => some (.f 16 .bf16)
  | 4 => some (.f 16 .f16)
  | 5 => some (.f 8 .e4m3)
  | 6 => some (.f 8 .e5m2)
  | 7 => some (.f 8 .e3m4)
  | 8 => some (.f 6 .e3m2)
  | 9 => some (.f 6 .e2m3)
  | 10 => some (.f 4 .e2m1)
  | 11 => some (.i ⟨16, true⟩)
  | 12 => some (.i ⟨8, true⟩)
  | 13 => some (.i ⟨8, false⟩)
  | 14 => some (.i ⟨4, true⟩)
  | 15 => some (.i ⟨4, false⟩)
  | 16 => some (.i ⟨2, true⟩)
  | _ => none

/-- Bits of one element. -/
def Elem.width : Elem → Nat
  | .f w _ => w
  | .i x => x.bits

/-- The exact value of an element. -/
def Elem.value : Elem → Nat → Num
  | .f _ x, c => x.value c
  | .i x, c => .ofInt (x.value c)

/-- A value converted to an element (R168, R169). -/
def Elem.encode : Elem → RMode → Bool → Num → Nat
  | .f _ x, rm, sat, v => x.encode rm sat v
  | .i x, rm, _, v => x.encode rm v

/-- The format of a scalar floating-point type (R210). -/
def fltFmt : FltTy → Fmt
  | .f32 => .f32
  | .f64 => .f64
  | .f16 => .f16
  | .bf16 => .bf16

/-- The format of a scalar integer type (R210). -/
def intFmt : IntTy → IFmt
  | .s32 => ⟨32, true⟩
  | .u32 => ⟨32, false⟩
  | .s64 => ⟨64, true⟩
  | .u64 => ⟨64, false⟩

/-- A value rounded to an integral value (R212): a value with no fraction is returned unchanged, and a zero keeps its
sign. -/
def Num.integral (rm : RMode) : Num → Num
  | .fin s m e =>
    if 0 ≤ e then .fin s m e
    else
      let (a, b) := scale2 m 1 e
      .fin s (roundNat rm s a b) 0
  | x => x

end Sys2Proof.Machine
end

