-- ==== Sys2Proof/Machine/Flags.lean ====
section
/-! DEFINITION. Predicates, the only flags of the part: the conditions of the compares (R206), the setting of lane and uniform
predicates (R38), and the lookup of PLOP (R189). -/

namespace Sys2Proof.Machine

/-- The integer result of a condition on two values (R206). NUM and NAN never decode in an integer compare. -/
def condInt (c : Cond) (a b : Int) : Bool :=
  match c with
  | .eq => a == b
  | .ne => a != b
  | .lt => decide (a < b)
  | .le => decide (a ≤ b)
  | .gt => decide (b < a)
  | .ge => decide (b ≤ a)
  | .num => true
  | .nan => false

/-- The floating-point result of a condition on two values (R206). -/
def condNum (c : Cond) (a b : Num) : Bool :=
  match c with
  | .eq => a.eq b
  | .ne => !a.eq b
  | .lt => a.lt b
  | .le => a.lt b || a.eq b
  | .gt => b.lt a
  | .ge => b.lt a || a.eq b
  | .num => !a.isNan && !b.isNan
  | .nan => a.isNan || b.isNan

/-- The mask of lanes in which a test holds. -/
def maskWhere (f : Nat → Bool) : Mask := maskOf ((List.range 32).filter f)

/-- A lane-set instruction that sets a lane predicate in the lanes that take part. -/
def State.lanePred (s : State) (g p : Pred) (f : Regs → Nat → Bool) : Out :=
  s.run (fun e => .ok (s.retire e (e.g.withRegs (e.g.regs.setP p.val (e.taking g) (maskWhere (f e.g.regs))))))

/-- A uniform instruction that sets a uniform predicate. -/
def State.uniPred (s : State) (q p : Pred) (f : Regs → Bool) : Out :=
  s.uniform q (fun e => .ok (s.retire e (e.g.withRegs (e.g.regs.setQ p.val (f e.g.regs)))))

/-- PLOP's lookup: lut[4 a + 2 b + c] (R189). -/
def lutBit (lut : BitVec 8) (a b c : Bool) : Bool := lut.getLsbD (4 * a.toNat + 2 * b.toNat + c.toNat)

end Sys2Proof.Machine
end

