-- ==== Sys2Proof/Machine/Predicate.lean ====
section
/-! DEFINITION. Compares and predicate instructions of both sets (R189, R190, R206, R218). -/

namespace Sys2Proof.Machine

/-- The FP32 value of a word. -/
def numF32 (x : Word) : Num := Fmt.f32.value x.toNat

/-- The FP64 value of a pair. -/
def numF64 (x : DWord) : Num := Fmt.f64.value x.toNat

/-- ICMP.S (R206). -/
def execIcmpS (g : Pred) (c : Cond) (p : Pred) (a b : Src) (s : State) : Out :=
  s.lanePred g p (fun r l => condInt c (r.src a l).toInt (r.src b l).toInt)

/-- ICMP.N (R206). -/
def execIcmpN (g : Pred) (c : Cond) (p : Pred) (a b : Src) (s : State) : Out :=
  s.lanePred g p (fun r l => condInt c (r.src a l).toNat (r.src b l).toNat)

/-- FCMP.F32 (R206). -/
def execFcmpF32 (g : Pred) (c : Cond) (p : Pred) (a b : Src) (s : State) : Out :=
  s.lanePred g p (fun r l => condNum c (numF32 (r.src a l)) (numF32 (r.src b l)))

/-- FCMP.F64 (R206). -/
def execFcmpF64 (g : Pred) (c : Cond) (p : Pred) (a b : Src) (s : State) : Out :=
  s.lanePred g p (fun r l => condNum c (numF64 (r.src2 a l)) (numF64 (r.src2 b l)))

/-- ICMPI.S (R206). -/
def execIcmpiS (g : Pred) (c : Cond) (p : Pred) (a : Src) (lit : Word) (s : State) : Out :=
  s.lanePred g p (fun r l => condInt c (r.src a l).toInt lit.toInt)

/-- ICMPI.N (R206). -/
def execIcmpiN (g : Pred) (c : Cond) (p : Pred) (a : Src) (lit : Word) (s : State) : Out :=
  s.lanePred g p (fun r l => condInt c (r.src a l).toNat lit.toNat)

/-- PLOP (R189). -/
def execPlop (g : Pred) (lut : BitVec 8) (d a b c : Pred) (s : State) : Out :=
  s.lanePred g d (fun r l =>
    lutBit lut (laneBit (r.getP a.val) l) (laneBit (r.getP b.val) l) (laneBit (r.getP c.val) l))

/-- The predicates p7 to p0 of a lane as a word; bit 0 is 1 (R190). -/
def Regs.predWord (r : Regs) (l : Nat) : Word :=
  BitVec.ofNat 32 (((List.range 8).map (fun j => if laneBit (r.getP j) l then 2 ^ j else 0)).sum)

/-- PMOV.GET (R190). -/
def execPmovGet (g : Pred) (d : VReg) (s : State) : Out := s.laneOp g d (fun r l => r.predWord l)

/-- Predicates p1 to p7 set from bits 1 to 7 of a source in the lanes of a mask (R190). -/
def Regs.setPreds (r : Regs) (m : Mask) (f : Nat → Word) : Regs :=
  [1, 2, 3, 4, 5, 6, 7].foldl (fun q j => q.setP j m (maskWhere (fun l => (f l).getLsbD j))) r

/-- PMOV.SET: the guard and the source are read before the write (R190). -/
def execPmovSet (g : Pred) (a : Src) (s : State) : Out :=
  s.run (fun e => .ok (s.retire e (e.g.withRegs (e.g.regs.setPreds (e.taking g) (fun l => e.g.regs.src a l)))))

/-- UICMP.S (R218). -/
def execUicmpS (g : Pred) (c : Cond) (p : Pred) (a b : KReg) (s : State) : Out :=
  s.uniPred g p (fun r => condInt c (r.getK a.val).toInt (r.getK b.val).toInt)

/-- UICMP.N (R218). -/
def execUicmpN (g : Pred) (c : Cond) (p : Pred) (a b : KReg) (s : State) : Out :=
  s.uniPred g p (fun r => condInt c (r.getK a.val).toNat (r.getK b.val).toNat)

/-- UFCMP (R218). -/
def execUfcmp (g : Pred) (c : Cond) (p : Pred) (a b : KReg) (s : State) : Out :=
  s.uniPred g p (fun r => condNum c (numF32 (r.getK a.val)) (numF32 (r.getK b.val)))

/-- UPLOP (R189). -/
def execUplop (g : Pred) (lut : BitVec 8) (d a b c : Pred) (s : State) : Out :=
  s.uniPred g d (fun r => lutBit lut (r.getQ a.val) (r.getQ b.val) (r.getQ c.val))

end Sys2Proof.Machine
end

