-- ==== Sys2Proof/Machine/Real.lean ====
section
/-! DEFINITION. The eight transcendentals of R209, each the exact mathematical result rounded once. Roots and reciprocals
are rounded from exact integers. The others are computed in fixed point to 320 fraction bits by their series: a result that
is not itself an FP32 value is irrational, and 24-bit arguments bring none within 2^-200 of a rounding boundary. -/

namespace Sys2Proof.Machine

/-- Fraction bits of the fixed-point numbers. [DEDUCED, log 22] -/
def fracBits : Nat := 320

/-- 1 in fixed point. -/
def one : Nat := 2 ^ fracBits

/-- The integer square root, decided bit by bit from bit n - 1 down. -/
def isqrtBits : Nat → Nat → Nat → Nat
  | 0, _, r => r
  | n + 1, x, r => if (r + 2 ^ n) * (r + 2 ^ n) ≤ x then isqrtBits n x (r + 2 ^ n) else isqrtBits n x r

/-- The integer square root. -/
def isqrt (x : Nat) : Nat := isqrtBits (Nat.log2 x / 2 + 1) x 0

/-- The sum of z^(2k+1) / (2k+1) in fixed point over a number of terms, from the power p = z^(2k+1). -/
def atanhSum : Nat → Nat → Nat → Nat → Nat
  | 0, _, _, _ => 0
  | n + 1, z2, p, k => p / (2 * k + 1) + atanhSum n z2 (p * z2 / one) (k + 1)

/-- ln m for m = a / b between 1 and 2, in fixed point. -/
def lnRatio (a b : Nat) : Nat :=
  let z := (a - b) * one / (a + b)
  2 * atanhSum 110 (z * z / one) z 0

/-- ln 2 in fixed point. -/
def ln2 : Nat := lnRatio 2 1

/-- The sum of the exponential series in fixed point: t is the k-th term. -/
def expSum : Nat → Nat → Nat → Nat → Nat
  | 0, _, _, _ => 0
  | n + 1, y, t, k => t + expSum n y (t * y / one / (k + 1)) (k + 1)

/-- e^y for y below 1, in fixed point. -/
def expFrac (y : Nat) : Nat := expSum 90 y one 0

/-- The alternating sine series in fixed point: t is the k-th term, y2 the square of the angle. -/
def sinSum : Nat → Nat → Nat → Nat → Bool → Int
  | 0, _, _, _, _ => 0
  | n + 1, y2, t, k, s =>
    (if s then -(t : Int) else (t : Int)) + sinSum n y2 (t * y2 / one / ((2 * k + 2) * (2 * k + 3))) (k + 1) (!s)

/-- The arctangent series of 1 / q in fixed point: p is 1 / q^(2k+1). -/
def atanSum : Nat → Nat → Nat → Nat → Bool → Int
  | 0, _, _, _, _ => 0
  | n + 1, q, p, k, s =>
    (if s then -((p / (2 * k + 1) : Nat) : Int) else ((p / (2 * k + 1) : Nat) : Int)) + atanSum n q (p / (q * q)) (k + 1) (!s)

/-- π in fixed point, by Machin's formula. -/
def piFix : Nat :=
  (16 * atanSum 80 5 (one * 2 ^ 16 / 5) 0 false - 4 * atanSum 40 239 (one * 2 ^ 16 / 239) 0 false).toNat / 2 ^ 16

/-- sin(π × a / b) for a / b from 0 to 1/2, in fixed point. -/
def sinPi (a b : Nat) : Nat :=
  let y := piFix * a / b
  (sinSum 60 (y * y / one) y 0 false).toNat

/-- A nonzero fixed-point magnitude rounded to FP32. -/
def fixF32 (neg : Bool) (n d : Nat) (e : Int) : Nat := if n = 0 then Fmt.f32.signed neg 0 else Fmt.f32.round .rne false neg n d e

/-- The NaN of FP32. -/
def nan32 : Nat := 0x7FC00000

/-- +infinity or -infinity in FP32. -/
def inf32 (neg : Bool) : Nat := Fmt.f32.signed neg Fmt.f32.infCode

/-- 1 / x (R209). -/
def rcp32 : Num → Nat
  | .nan => nan32
  | .inf s => Fmt.f32.signed s 0
  | .fin s 0 _ => inf32 s
  | .fin s m e => Fmt.f32.round .rne false s 1 m (-e)

/-- The square root of m × 2^e as an integer that keeps, in its lowest bit, whether it is inexact, and its exponent. -/
def sqrtSticky (m : Nat) (e : Int) : Nat × Int :=
  let k : Nat := if e % 2 = 0 then 128 else 129
  let x := m * 2 ^ k
  let r := isqrt x
  (2 * r + (if r * r = x then 0 else 1), (e - (k : Int)) / 2 - 1)

/-- √x (R209). -/
def sqrt32 : Num → Nat
  | .nan => nan32
  | .inf s => if s then nan32 else inf32 false
  | .fin s 0 _ => Fmt.f32.signed s 0
  | .fin true _ _ => nan32
  | .fin false m e =>
    let (r, q) := sqrtSticky m e
    Fmt.f32.round .rne false false r 1 q

/-- 1 / √x (R209). -/
def rsq32 : Num → Nat
  | .nan => nan32
  | .inf s => if s then nan32 else 0
  | .fin s 0 _ => inf32 s
  | .fin true _ _ => nan32
  | .fin false m e =>
    let k : Nat := if e % 2 = 0 then 256 else 257
    let x := 2 ^ k / m
    let r := isqrt x
    let exact := r * r * m == 2 ^ k
    Fmt.f32.round .rne false false (2 * r + (if exact then 0 else 1)) 1 ((-e - (k : Int)) / 2 - 1)

/-- 2^x (R209). [DEDUCED, log 22] -/
def exp32 : Num → Nat
  | .nan => nan32
  | .inf s => if s then 0 else inf32 false
  | .fin s m e =>
    if m = 0 then 0x3F800000
    else
      let (a, b) := scale2 m 1 e
      if s then
        if 150 * b < a then 0
        else
          let k := (a + b - 1) / b
          Fmt.f32.round .rne false false (expFrac ((k * b - a) * ln2 / b)) 1 (-(k : Int) - (fracBits : Int))
      else if 128 * b ≤ a then inf32 false
      else Fmt.f32.round .rne false false (expFrac (a % b * ln2 / b)) 1 ((a / b : Nat) - (fracBits : Int))

/-- log2 x (R209). [DEDUCED, log 22] -/
def log32 : Num → Nat
  | .nan => nan32
  | .inf s => if s then nan32 else inf32 false
  | .fin _ 0 _ => inf32 true
  | .fin true _ _ => nan32
  | .fin false m e =>
    let l := Nat.log2 m
    let k : Int := (l : Int) + e
    let x : Int := k * (one : Int) + ((lnRatio m (2 ^ l) * one / ln2 : Nat) : Int)
    if x = 0 then 0 else fixF32 (decide (x < 0)) x.natAbs 1 (-(fracBits : Int))

/-- |x| modulo 2 as a fraction, for a finite value with a negative exponent. -/
def mod2 (m : Nat) (e : Int) : Nat × Nat := (m % 2 ^ (1 - e).toNat, 2 ^ (-e).toNat)

/-- sin(π x) (R209). [DEDUCED, log 22] -/
def sin32 : Num → Nat
  | .nan | .inf _ => nan32
  | .fin s m e =>
    if 0 ≤ e then Fmt.f32.signed s 0
    else
      let (t, b) := mod2 m e
      if t % b = 0 then Fmt.f32.signed s 0
      else
        let u := t % b
        let v := if b < 2 * u then b - u else u
        fixF32 (s != decide (b ≤ t)) (sinPi v b) 1 (-(fracBits : Int))

/-- cos(π x) (R209). [DEDUCED, log 22] -/
def cos32 : Num → Nat
  | .nan | .inf _ => nan32
  | .fin _ m e =>
    let (t, b) := if 0 ≤ e then (m * 2 ^ e.toNat % 2, 1) else mod2 m e
    let u := if b < t then 2 * b - t else t
    if 2 * u = b then 0
    else if 2 * u < b then fixF32 false (sinPi (b - 2 * u) (2 * b)) 1 (-(fracBits : Int))
    else fixF32 true (sinPi (2 * u - b) (2 * b)) 1 (-(fracBits : Int))

/-- tanh x (R209). [DEDUCED, log 22] -/
def tanh32 : Num → Nat
  | .nan => nan32
  | .inf s => Fmt.f32.signed s 0x3F800000
  | .fin s m e =>
    if m = 0 then Fmt.f32.signed s 0
    else
      let (a, b) := scale2 m 1 e
      if 32 * b ≤ a then Fmt.f32.signed s 0x3F800000
      else
        let y := 2 * a * one / b
        let k := y / ln2
        let x := expFrac (y % ln2) * 2 ^ k
        fixF32 s (x - one) (x + one) 0

end Sys2Proof.Machine
end

