-- ==== Sys2Proof/Machine/Float.lean ====
section
/-! DEFINITION. Floating-point arithmetic and transcendentals of the lane set (R207 to R209). -/

namespace Sys2Proof.Machine

/-- A binary operation in a format: exact, then rounded once (R176). -/
def Fmt.op2 (f : Fmt) (o : Num → Num → Num) (a b : Nat) : Nat := f.rne (o (f.value a) (f.value b))

/-- A fused multiply-add in a format: a × b + d rounded once (R207). -/
def Fmt.op3 (f : Fmt) (a b d : Nat) : Nat := f.rne ((f.value a).fma (f.value b) (f.value d))

/-- The exact difference. -/
def Num.sub (a b : Num) : Num := a.add b.neg

/-- An operation on FP32 words. -/
def f32op (o : Num → Num → Num) (a b : Word) : Word := BitVec.ofNat 32 (Fmt.f32.op2 o a.toNat b.toNat)

/-- The fused multiply-add on FP32 words. -/
def f32fma (a b d : Word) : Word := BitVec.ofNat 32 (Fmt.f32.op3 a.toNat b.toNat d.toNat)

/-- An operation on FP64 values. -/
def f64op (o : Num → Num → Num) (a b : DWord) : DWord := BitVec.ofNat 64 (Fmt.f64.op2 o a.toNat b.toNat)

/-- The fused multiply-add on FP64 values. -/
def f64fma (a b d : DWord) : DWord := BitVec.ofNat 64 (Fmt.f64.op3 a.toNat b.toNat d.toNat)

/-- An operation on the two halves of packed words (R176). -/
def x2op (f : Fmt) (o : Num → Num → Num) (a b : Word) : Word :=
  BitVec.ofNat 32 (f.op2 o (a.toNat % 65536) (b.toNat % 65536) + 65536 * f.op2 o (a.toNat / 65536) (b.toNat / 65536))

/-- The fused multiply-add on the two halves of packed words (R176). -/
def x2fma (f : Fmt) (a b d : Word) : Word :=
  BitVec.ofNat 32 (f.op3 (a.toNat % 65536) (b.toNat % 65536) (d.toNat % 65536) +
    65536 * f.op3 (a.toNat / 65536) (b.toNat / 65536) (d.toNat / 65536))

/-- A transcendental of an FP32 word (R209). -/
def f32fn (o : Num → Nat) (a : Word) : Word := BitVec.ofNat 32 (o (numF32 a))

/-- FADD.F32 (R207). -/
def execFaddF32 (g : Pred) (d : VReg) (a b : Src) (s : State) : Out :=
  s.laneOp g d (fun r l => f32op Num.add (r.src a l) (r.src b l))

/-- FSUB.F32 (R207). -/
def execFsubF32 (g : Pred) (d : VReg) (a b : Src) (s : State) : Out :=
  s.laneOp g d (fun r l => f32op Num.sub (r.src a l) (r.src b l))

/-- FMUL.F32 (R207). -/
def execFmulF32 (g : Pred) (d : VReg) (a b : Src) (s : State) : Out :=
  s.laneOp g d (fun r l => f32op Num.mul (r.src a l) (r.src b l))

/-- FFMA.F32 (R207). -/
def execFfmaF32 (g : Pred) (d : VReg) (a b : Src) (s : State) : Out :=
  s.laneOp g d (fun r l => f32fma (r.src a l) (r.src b l) (r.getV d.val l))

/-- FMIN.F32 (R208). -/
def execFminF32 (g : Pred) (d : VReg) (a b : Src) (s : State) : Out :=
  s.laneOp g d (fun r l => f32op Num.min (r.src a l) (r.src b l))

/-- FMAX.F32 (R208). -/
def execFmaxF32 (g : Pred) (d : VReg) (a b : Src) (s : State) : Out :=
  s.laneOp g d (fun r l => f32op Num.max (r.src a l) (r.src b l))

/-- FADDI.F32 (R207). -/
def execFaddiF32 (g : Pred) (d : VReg) (a : Src) (lit : Word) (s : State) : Out :=
  s.laneOp g d (fun r l => f32op Num.add (r.src a l) lit)

/-- FMULI.F32 (R207). -/
def execFmuliF32 (g : Pred) (d : VReg) (a : Src) (lit : Word) (s : State) : Out :=
  s.laneOp g d (fun r l => f32op Num.mul (r.src a l) lit)

/-- FADD.F16X2 (R207). -/
def execFaddF16x2 (g : Pred) (d : VReg) (a b : Src) (s : State) : Out :=
  s.laneOp g d (fun r l => x2op .f16 Num.add (r.src a l) (r.src b l))

/-- FMUL.F16X2 (R207). -/
def execFmulF16x2 (g : Pred) (d : VReg) (a b : Src) (s : State) : Out :=
  s.laneOp g d (fun r l => x2op .f16 Num.mul (r.src a l) (r.src b l))

/-- FFMA.F16X2 (R207). -/
def execFfmaF16x2 (g : Pred) (d : VReg) (a b : Src) (s : State) : Out :=
  s.laneOp g d (fun r l => x2fma .f16 (r.src a l) (r.src b l) (r.getV d.val l))

/-- FMIN.F16X2 (R208). -/
def execFminF16x2 (g : Pred) (d : VReg) (a b : Src) (s : State) : Out :=
  s.laneOp g d (fun r l => x2op .f16 Num.min (r.src a l) (r.src b l))

/-- FMAX.F16X2 (R208). -/
def execFmaxF16x2 (g : Pred) (d : VReg) (a b : Src) (s : State) : Out :=
  s.laneOp g d (fun r l => x2op .f16 Num.max (r.src a l) (r.src b l))

/-- FADD.BF16X2 (R207). -/
def execFaddBf16x2 (g : Pred) (d : VReg) (a b : Src) (s : State) : Out :=
  s.laneOp g d (fun r l => x2op .bf16 Num.add (r.src a l) (r.src b l))

/-- FMUL.BF16X2 (R207). -/
def execFmulBf16x2 (g : Pred) (d : VReg) (a b : Src) (s : State) : Out :=
  s.laneOp g d (fun r l => x2op .bf16 Num.mul (r.src a l) (r.src b l))

/-- FFMA.BF16X2 (R207). -/
def execFfmaBf16x2 (g : Pred) (d : VReg) (a b : Src) (s : State) : Out :=
  s.laneOp g d (fun r l => x2fma .bf16 (r.src a l) (r.src b l) (r.getV d.val l))

/-- FMIN.BF16X2 (R208). -/
def execFminBf16x2 (g : Pred) (d : VReg) (a b : Src) (s : State) : Out :=
  s.laneOp g d (fun r l => x2op .bf16 Num.min (r.src a l) (r.src b l))

/-- FMAX.BF16X2 (R208). -/
def execFmaxBf16x2 (g : Pred) (d : VReg) (a b : Src) (s : State) : Out :=
  s.laneOp g d (fun r l => x2op .bf16 Num.max (r.src a l) (r.src b l))

/-- FADD.F64 (R207). -/
def execFaddF64 (g : Pred) (d : VReg) (a b : Src) (s : State) : Out :=
  s.laneOp2 g d (fun r l => f64op Num.add (r.src2 a l) (r.src2 b l))

/-- FSUB.F64 (R207). -/
def execFsubF64 (g : Pred) (d : VReg) (a b : Src) (s : State) : Out :=
  s.laneOp2 g d (fun r l => f64op Num.sub (r.src2 a l) (r.src2 b l))

/-- FMUL.F64 (R207). -/
def execFmulF64 (g : Pred) (d : VReg) (a b : Src) (s : State) : Out :=
  s.laneOp2 g d (fun r l => f64op Num.mul (r.src2 a l) (r.src2 b l))

/-- FMIN.F64 (R208). -/
def execFminF64 (g : Pred) (d : VReg) (a b : Src) (s : State) : Out :=
  s.laneOp2 g d (fun r l => f64op Num.min (r.src2 a l) (r.src2 b l))

/-- FMAX.F64 (R208). -/
def execFmaxF64 (g : Pred) (d : VReg) (a b : Src) (s : State) : Out :=
  s.laneOp2 g d (fun r l => f64op Num.max (r.src2 a l) (r.src2 b l))

/-- FFMA.F64 (R207). -/
def execFfmaF64 (g : Pred) (d : VReg) (a b : Src) (s : State) : Out :=
  s.laneOp2 g d (fun r l => f64fma (r.src2 a l) (r.src2 b l) (r.getV2 d.val l))

/-- FRCP (R209). -/
def execFrcp (g : Pred) (d : VReg) (a : Src) (s : State) : Out :=
  s.laneOp g d (fun r l => f32fn rcp32 (r.src a l))

/-- FRSQ (R209). -/
def execFrsq (g : Pred) (d : VReg) (a : Src) (s : State) : Out :=
  s.laneOp g d (fun r l => f32fn rsq32 (r.src a l))

/-- FSQRT (R209). -/
def execFsqrt (g : Pred) (d : VReg) (a : Src) (s : State) : Out :=
  s.laneOp g d (fun r l => f32fn sqrt32 (r.src a l))

/-- FEXP2 (R209). -/
def execFexp2 (g : Pred) (d : VReg) (a : Src) (s : State) : Out :=
  s.laneOp g d (fun r l => f32fn exp32 (r.src a l))

/-- FLOG2 (R209). -/
def execFlog2 (g : Pred) (d : VReg) (a : Src) (s : State) : Out :=
  s.laneOp g d (fun r l => f32fn log32 (r.src a l))

/-- FSIN (R209). -/
def execFsin (g : Pred) (d : VReg) (a : Src) (s : State) : Out :=
  s.laneOp g d (fun r l => f32fn sin32 (r.src a l))

/-- FCOS (R209). -/
def execFcos (g : Pred) (d : VReg) (a : Src) (s : State) : Out :=
  s.laneOp g d (fun r l => f32fn cos32 (r.src a l))

/-- FTANH (R209). -/
def execFtanh (g : Pred) (d : VReg) (a : Src) (s : State) : Out :=
  s.laneOp g d (fun r l => f32fn tanh32 (r.src a l))

end Sys2Proof.Machine
end

