-- ==== Sys2Proof/Machine/Access.lean ====
section
/-! DEFINITION. Loads and stores of any instruction: the steps of R156 in order, presence bits (R143), non-local requests
and their replies (R57, R86, R396), lost atoms (R71), Ridgeline staging and the overflow region (R256 to R263, R421). -/

namespace Sys2Proof.Machine

/-- The scratchpad lines a run touches. -/
def linesOf (off n : Nat) : List Nat := (List.range ((off + n - 1) / 128 + 1 - off / 128)).map (fun i => off / 128 + i)

/-- Lines of a run whose presence bit is clear (R143). -/
def absentLines (s : State) (tid off n : Nat) : List (Nat × Nat) :=
  match s.team? tid with
  | none => []
  | some t => ((linesOf off n).filter (fun l => t.absent.contains l)).map (fun l => (tid, l))

/-- A piece is held: its team's scratchpad is moving to another core (R142), or its crest page is not open yet (R60). -/
def Piece.isHeld (s : State) (p : Piece) : Bool :=
  match p.at_ with
  | .scr tid _ => (s.team? tid).any (fun t => t.st == .migrating)
  | .loc pa => Sys2Proof.Machine.isHeld s pa
  | _ => false

/-- Step 3 of R156: any clear presence bit parks the group, and nothing is performed; then a held access waits (R60, R142). -/
def checkPresent (s0 s : State) (ps : List Piece) : Except Stop Unit :=
  match ps.flatMap (fun p => match p.at_ with | .scr tid off => absentLines s tid off p.n | _ => []) with
  | [] => if ps.any (Piece.isHeld s) then .error (.park s0 .held) else .ok ()
  | ls => .error (.park s0 (.presence ls))

/-- The aligned block of 32, 64 or 128 bytes that a run within one line needs (R57). -/
def blockOf (pa n : Nat) : Nat × Nat :=
  if pa / 32 = (pa + n - 1) / 32 then (pa / 32 * 32, 32)
  else if pa / 64 = (pa + n - 1) / 64 then (pa / 64 * 64, 64)
  else (pa / 128 * 128, 128)

/-- The parts of a run that each lie in one 128-byte line, as (address, length); the fuel bounds their number. -/
def lineRuns : Nat → Nat → Nat → List (Nat × Nat)
  | 0, _, _ => []
  | _ + 1, _, 0 => []
  | f + 1, a, n + 1 =>
    let m := min (n + 1) (128 - a % 128)
    (a, m) :: lineRuns f (a + m) (n + 1 - m)

/-! ## Requests to places that are not local (R57, R86, R386, R396, R397) -/

/-- A non-local request before it is sent: the virtual address it serves, the level of its leaf, target, chip, address, operation. -/
structure Req where
  va   : Nat
  lvl  : Nat
  tgt  : Nat
  chip : Nat
  pa   : Nat
  op   : MemOp
  deriving DecidableEq, Repr

/-- The read of a block. -/
def rdOp (n : Nat) : MemOp := if n = 32 then .rd32 else if n = 64 then .rd64 else .rd128

/-- The requests that read a piece. -/
def readReqs (p : Piece) : List Req :=
  match p.at_ with
  | .rem tgt chip pa => (lineRuns (p.n / 128 + 2) pa p.n).map (fun r =>
      ⟨p.va, p.leaf.lvl, tgt, chip, (blockOf r.1 r.2).1, rdOp (blockOf r.1 r.2).2⟩)
  | _ => []

/-- A byte on its way to a place that is not local: the piece it belongs to, target, chip, address, value. -/
structure FarByte where
  va   : Nat
  lvl  : Nat
  tgt  : Nat
  chip : Nat
  pa   : Nat
  b    : Byte
  deriving DecidableEq, Repr

/-- The bytes that a piece sends away. -/
def farBytes (p : Piece) (bs : List Byte) : List FarByte :=
  match p.at_ with
  | .rem tgt chip pa => (spread pa (bs.take p.n)).map (fun w => ⟨p.va, p.leaf.lvl, tgt, chip, w.1, w.2⟩)
  | _ => []

/-- Two bytes lie in one 128-byte line. -/
def FarByte.sameLine (a b : FarByte) : Bool := a.tgt == b.tgt && a.chip == b.chip && a.pa / 128 == b.pa / 128

/-- The write of one line: a byte mask over the block that holds its bytes, a later byte winning (R57, R152). -/
def lineWrite (a : FarByte) (line : List FarByte) : Req :=
  let lo := line.foldl (fun m w => min m w.pa) a.pa
  let hi := line.foldl (fun m w => max m w.pa) a.pa
  let b := blockOf lo (hi + 1 - lo)
  let at_ := fun i => (line.filter (fun w => w.pa == b.1 + i)).getLast?
  ⟨a.va, a.lvl, a.tgt, a.chip, b.1,
    .wr (BitVec.ofNat 128 (((List.range b.2).map (fun i => if (at_ i).isSome then 2 ^ i else 0)).sum))
      ((List.range b.2).map (fun i => ((at_ i).map (·.b)).getD 0))⟩

/-- The writes of a set of bytes: those of one 128-byte line travel as one, in the order in which the lines are first met (R246).
The fuel bounds the lines. -/
def lineWrites : Nat → List FarByte → List Req
  | 0, _ => []
  | _ + 1, [] => []
  | f + 1, a :: t =>
    lineWrite a (a :: t.filter a.sameLine) :: lineWrites f (t.filter (fun w => !a.sameLine w))

/-- The requests that write bytes to a non-local place. -/
def writeReqs (p : Piece) (bs : List Byte) : List Req := lineWrites bs.length (farBytes p bs)

/-- The ports of the route of a chip, or of a pool node, that are live (R395, R396). [DEDUCED, log 98] -/
def livePorts (s : State) (tgt chip : Nat) : List Nat :=
  let on := fun p => if tgt = 3 then (Config.poolRoute chip).getLsbD p
    else (getB s.mgmt (0x40000 + 16 * chip + 4 * (p / 32))).getLsbD (p % 32)
  (List.range s.grade.ports).filter (fun p => on p &&
    (match getT s.ports p with | some q => q.up && q.enable | none => false))

/-- A chip, or a pool node, has no route at all (R396). -/
def noRoute (s : State) (tgt chip : Nat) : Bool :=
  if tgt = 3 then Config.poolRoute chip == 0
  else getB s.mgmt (0x40000 + 16 * chip) == 0 && getB s.mgmt (0x40000 + 16 * chip + 4) == 0 &&
    getB s.mgmt (0x40000 + 16 * chip + 8) == 0

/-- The port that an access to a chip takes: a fixed hash of its line chooses among the live ports (R396). [DEDUCED, log 98] -/
def portOf (s : State) (tgt chip pa : Nat) : Option Nat :=
  if tgt = 2 then none
  else
    let ps := livePorts s tgt chip
    ps[Config.portHash (pa / 128) % ps.length]?

/-- What answers a request at once, without a target: no route answers ABSENT, no live port or no link DATA_LOST
(R386, R396, R397). [DESIGN CHOICE, log 97] -/
def atOnce (s : State) (tgt chip : Nat) : Option ReplyStatus :=
  if tgt = 2 then (if s.pcieUp then none else some .dataLost)
  else if noRoute s tgt chip then some .absent
  else if (livePorts s tgt chip).isEmpty then some .dataLost
  else none

/-- SRC of a core, an engine of a massif, and the part's own acts (R57). -/
def coreSrc (column layer : Nat) : BitVec 14 := BitVec.ofNat 14 (column * 16 + layer * 4)

/-- SRC of an engine. -/
def engineSrc (massif engine : Nat) : BitVec 14 := BitVec.ofNat 14 ((massif * 384 + engine) * 16 + 1)

/-- SRC of the part's own acts at a massif. -/
def ownSrc (massif : Nat) : BitVec 14 := BitVec.ofNat 14 (massif * 384 * 16 + 3)

/-- A request as its source holds it until it is sent. -/
def Req.remote (r : Req) (s : State) (gid : Nat) (job : Option (Nat × Nat)) (own : Option Nat) (src : BitVec 14) : Remote :=
  { gid := gid, job := job, own := own, src := src, tag := none, port := portOf s r.tgt r.chip r.pa, tgt := BitVec.ofNat 2 r.tgt,
    chip := BitVec.ofNat 12 r.chip, pa := r.pa, op := r.op, sent := s.now }

/-- One request goes out as soon as its source has a tag (R57). -/
def State.sendOne (s : State) (w : Remote) : State × Nat :=
  ({ s with nextTag := s.nextTag + 1, remote := setT s.remote s.nextTag w }.grantOne (s.nextTag, w), s.nextTag)

/-- Requests go out in order; their numbers. -/
def State.send (s : State) (gid : Nat) (job : Option (Nat × Nat)) (src : BitVec 14) : List Req → State × List Nat
  | [] => (s, [])
  | r :: t =>
    let (s1, n) := s.sendOne (r.remote s gid job none src)
    let (s2, ns) := s1.send gid job src t
    (s2, n :: ns)

/-- The requests of an instruction of a group. -/
def State.sendFor (s : State) (e : Env) (rs : List Req) : State × List Nat :=
  s.send e.g.gid none (coreSrc e.t.column e.t.layer) rs

/-- The trap of an access answered ABSENT (BAD_LEAF) or otherwise failed (DATA_LOST), naming the atom (R336, R386, R397). -/
def failTrap (st : ReplyStatus) (lvl va pa : Nat) : Stop :=
  if st = .absent then .trap 8 lvl va none (pa / 32 * 32) else .trap 10 0 va none (pa / 32 * 32)

/-- The answers to numbered requests when all are in: the trap of the first that failed, or the answers in order (R397). -/
def answersOf (e : Env) (tags : List Nat) (rs : List Req) (wait : Stop) : Except Stop (List Reply) :=
  let got := tags.filterMap (fun t => getT e.g.replies t)
  if got.length ≠ tags.length then .error wait
  else
    match (got.zip rs).findSome? (fun p => if p.1.status = .ok then none else some (failTrap p.1.status p.2.lvl p.2.va p.2.pa)) with
    | some z => .error z
    | none => .ok got

/-- An instruction's requests go out, and the group waits for their replies with what the instruction has done so far (R57).
[DESIGN CHOICE, log 11] -/
def flyWith (s : State) (e : Env) (rs : List Req) (places : List (Nat × List Piece)) (forward : List (Nat × Byte)) (seed logs : Nat)
    (done : Mask) (reads : Bool) : Stop :=
  let (s1, tags) := s.sendFor e rs
  .park { s1 with nextTag := s1.nextTag + 1 } (.reply ⟨e.c, tags, places, forward, seed, logs, s1.nextTag, done, reads, ⟨[], none, [], false⟩⟩)

/-- An operation of the matrix engine keeps what it keeps while its accesses are under way. -/
def Stop.holding (h : Holds) : Stop → Stop
  | .park s (.reply f) => .park s (.reply { f with holds := h })
  | z => z

/-- Operations of the matrix engine under way in other groups of a team, as what they keep. -/
def holdsOf (s : State) (tid gid : Nat) : List Holds :=
  s.groups.filterMap (fun g => if g.gid / 32 == tid && g.gid != gid then (match g.park with
    | some ⟨.reply f, _⟩ => some f.holds
    | _ => none) else none)

/-! ## Step 4 of R156 -/

/-- A local run that the controller would not serve: ABSENT (false), or a lost atom (true), and where (R55, R71). -/
def localErr (s : State) (lost : Nat → Bool) (pa n : Nat) : Option (Bool × Nat) :=
  if !localExists s pa then some (false, pa)
  else ((List.range ((pa + n - 1) / 32 + 1 - pa / 32)).find? (fun i => lost ((pa / 32 + i) * 32))).map
    (fun i => (true, (pa / 32 + i) * 32))

/-- What the place of one piece answers before anything is performed: ABSENT, a lost atom that the access touches, or for a store
with its writes ws one that it covers in part, or a failure that needs no target (R55, R71, R396, R397). -/
def pieceErr (s : State) (ws : Option (List (Nat × Byte))) (p : Piece) : Option Stop :=
  match p.at_ with
  | .loc pa =>
    (localErr s (match ws with | none => isLost s | some w => staysLost s w) pa p.n).map (fun x =>
      failTrap (if x.1 then .dataLost else .absent) p.leaf.lvl p.va x.2)
  | .rem tgt chip pa => (atOnce s tgt chip).map (fun st => failTrap st p.leaf.lvl p.va pa)
  | _ => none

/-- Step 4 of R156 for every piece that can be checked at once: the lowest lane's first failing piece traps, whatever way it fails,
and nothing is performed or sent. R156 does not rank DATA_LOST and ABSENT of different lanes. [DEDUCED, log 16] -/
def checkPlaces (s : State) (ws : Option (List (Nat × Byte))) (ls : List (Nat × List Piece)) : Except Stop Unit :=
  match ls.findSome? (fun l => l.2.findSome? (pieceErr s ws)) with
  | some z => .error z
  | none => .ok ()

/-- The byte a team's own staged stores give an address: the last record wins (R263). -/
def stagedByte (gr : Grid) (team va : Nat) : Option Byte :=
  (gr.staged.filter (fun r => r.team == team && r.kind == 0 && r.addr.toNat ≤ va && va < r.addr.toNat + 8 &&
    r.ctl.getLsbD (va - r.addr.toNat))).getLast?.map (fun r => BitVec.ofNat 8 (r.data.toNat / 256 ^ (va - r.addr.toNat)))

/-- A team has staged stores of its own. -/
def Env.hasStaged (e : Env) : Bool := e.gr.staged.any (fun r => r.team == e.t.idx && r.kind == 0)

/-- The bytes that a team's own staged stores lay over a piece, by address (R263). -/
def stagedOver (e : Env) (p : Piece) : List (Nat × Byte) :=
  if e.hasStaged then
    (List.range p.n).filterMap (fun i => (stagedByte e.gr e.t.idx (p.va + i)).map (fun b => (p.va + i, b)))
  else []

/-- The bytes of a piece with others laid over them. -/
def layOver (va : Nat) (raw : List Byte) (over_ : List (Nat × Byte)) : List Byte :=
  if over_.isEmpty then raw
  else (List.range raw.length).map (fun i =>
    (((over_.find? (fun o => o.1 == va + i)).map (·.2))).getD (raw.getD i 0))

/-- Bytes of local memory as a load of a group reads them: the leased copy of the column's L1 that serves it may still show what an external
write has replaced, unless a FENCE.S of the group renews its leases (R272, R279). -/
def leasedRun (s : State) (e : Env) (pa n : Nat) : List Byte :=
  if s.stale.isEmpty || e.g.fenceS then s.loadRun pa n
  else (List.range n).map (fun i => (s.leasedByte (e.l1Column (pa + i)) (pa + i)).getD (getB s.mem (pa + i)))

/-- The bytes of a piece that lie on this chip. A team's own staged stores show in its global pieces (R263). -/
def pieceBytes (s : State) (e : Env) (p : Piece) : List Byte :=
  match p.at_ with
  | .loc pa => layOver p.va (leasedRun s e pa p.n) (stagedOver e p)
  | .zero => layOver p.va (List.replicate p.n 0) (stagedOver e p)
  | .scr tid off => (match s.team? tid with | some t => readB t.scratch off p.n | none => List.replicate p.n 0)
  | .got bs => bs
  | .rem _ _ _ => []

/-- The bytes of a non-local piece from the replies to its requests, and the replies left over. -/
def remoteBytes (p : Piece) (rs : List Reply) : List Byte × List Reply :=
  match p.at_ with
  | .rem _ _ pa =>
    let runs := lineRuns (p.n / 128 + 2) pa p.n
    let bs := (runs.zip rs).flatMap (fun x =>
      let off := x.1.1 - (blockOf x.1.1 x.1.2).1
      (List.range x.1.2).map (fun i => x.2.data.getD (off + i) 0))
    (bs, rs.drop runs.length)
  | _ => ([], rs)

/-- One lane's pieces with those that are not local answered, the bytes of staged stores laid over what came; and the replies left
over. -/
def answered (forward : List (Nat × Byte)) : List Piece → List Reply → List Piece × List Reply
  | [], rs => ([], rs)
  | p :: t, rs =>
    let (q, rs1) := match p.at_ with
      | .rem _ _ _ => ({ p with at_ := .got (layOver p.va (remoteBytes p rs).1 forward) }, (remoteBytes p rs).2)
      | _ => (p, rs)
    let (qs, rs2) := answered forward t rs1
    (q :: qs, rs2)

/-- Every lane's pieces answered. -/
def allAnswered (forward : List (Nat × Byte)) : List (Nat × List Piece) → List Reply → List (Nat × List Piece)
  | [], _ => []
  | (l, ps) :: t, rs => (l, (answered forward ps rs).1) :: allAnswered forward t (answered forward ps rs).2

/-- The bytes of every lane, each piece of which is read. -/
def gotBytes (ls : List (Nat × List Piece)) : List (Nat × List Byte) :=
  ls.map (fun l => (l.1, l.2.flatMap (fun p => match p.at_ with | .got bs => bs | _ => [])))

/-- In DET mode an access may not reach another team's scratchpad (R353). [DEDUCED, log 16] -/
def checkDet (e : Env) (as : List Steered) : Except Stop Unit :=
  if e.isDet then
    match as.find? (fun a => match a.loc with | .scr tid _ => tid != e.t.tid | _ => false) with
    | some a => .error (.trap 19 0 a.ga none 0)
    | none => .ok ()
  else .ok ()

/-- Aperture, DET and translation of every lane's access (steps 1 and 2 of R156, R353). -/
def openLanes (s : State) (e : Env) (acc : Acc) (n : Nat) (addrs : List (Nat × Nat)) :
    Except Stop (State × List (Nat × List Piece)) := do
  let as ← steerAll s e acc n addrs
  checkDet e as
  xlateAll s e acc n as

/-! ## Accesses in part (R267, R268)

Where a move names some accesses of an instruction, those are performed now and the others later, each 32-byte atom as one. -/

/-- A piece lies on this chip and is still to be performed. -/
def Piece.isHere (p : Piece) : Bool :=
  match p.at_ with
  | .loc _ | .scr _ _ | .zero => true
  | _ => false

/-- The place some bytes further on. -/
def Phys.plus : Phys → Nat → Phys
  | .loc pa, d => .loc (pa + d)
  | .scr tid off, d => .scr tid (off + d)
  | p, _ => p

/-- The first byte of a piece's place within its atom. -/
def Piece.inAtom (p : Piece) : Nat :=
  match p.at_ with
  | .loc pa => pa % 32
  | .scr _ off => off % 32
  | _ => 0

/-- A piece cut at the atoms of its place; the fuel bounds them. -/
def cutAtoms : Nat → Piece → List Piece
  | 0, p => [p]
  | f + 1, p =>
    let m := 32 - p.inAtom
    if !p.isHere || p.n ≤ m then [p]
    else { p with n := m } :: cutAtoms f { p with va := p.va + m, n := p.n - m, at_ := p.at_.plus m }

/-- The places of every lane, cut at atoms. -/
def cutLanes (ls : List (Nat × List Piece)) : List (Nat × List Piece) :=
  ls.map (fun l => (l.1, l.2.flatMap (fun p => cutAtoms (p.n / 32 + 1) p)))

/-- Two pieces share a byte. -/
def Piece.meets (p q : Piece) : Bool :=
  match p.at_, q.at_ with
  | .loc a, .loc b => decide (a < b + q.n) && decide (b < a + p.n)
  | .scr t a, .scr u b => t == u && decide (a < b + q.n) && decide (b < a + p.n)
  | _, _ => false

/-- The places that are named, counted over those on this chip, and those that must go at once, each with whether it goes now. Where lanes
keep their order a place waits for earlier ones that it meets (R152). -/
def pickPieces (now : List Nat) (must : Piece → Bool) (keep : Bool) : Nat → List Piece → List Piece → List (Bool × Piece)
  | _, _, [] => []
  | k, left, p :: t =>
    if !p.isHere then (false, p) :: pickPieces now must keep k left t
    else if (now.contains k || must p) && !(keep && left.any p.meets) then (true, p) :: pickPieces now must keep (k + 1) left t
    else (false, p) :: pickPieces now must keep (k + 1) (p :: left) t

/-- The marked pieces given back to their lanes. -/
def regroup : List (Nat × List Piece) → List (Bool × Piece) → List (Nat × List (Bool × Piece))
  | [], _ => []
  | l :: t, ms => (l.1, ms.take l.2.length) :: regroup t (ms.drop l.2.length)

/-- The part of an instruction that the move names; in DET mode an instruction is performed whole, as its results may not depend on
such choices (R357). [DESIGN CHOICE, log 7] -/
def State.partFor (s : State) (e : Env) : Option Part := if e.isDet then none else s.part

/-- The places of every lane with whether each goes now: all, or those that the move names. -/
def pickLanes (s : State) (e : Env) (must : Piece → Bool) (keep : Bool) (ls : List (Nat × List Piece)) :
    List (Nat × List (Bool × Piece)) :=
  match s.partFor e with
  | none => ls.map (fun l => (l.1, l.2.map (fun p => (p.isHere, p))))
  | some p => regroup (cutLanes ls) (pickPieces p.now must keep 0 [] ((cutLanes ls).flatMap (·.2)))

/-- The pieces that go now. -/
def goingNow (ms : List (Nat × List (Bool × Piece))) : List Piece := ms.flatMap (fun l => (l.2.filter (·.1)).map (·.2))

/-- Every piece on this chip is performed. -/
def allDone (ls : List (Nat × List Piece)) : Bool := ls.all (fun l => l.2.all (fun p => !p.isHere))

/-- The local runs of memory that pieces reach. -/
def localRuns (ps : List Piece) : List (Nat × Nat) :=
  ps.filterMap (fun p => match p.at_ with | .loc pa => some (pa, p.n) | _ => none)

/-- The pieces that go now are read, as `met` and `bytes` say; the others stay as they are (R267). -/
def readNow (s : State) (e : Env) (met : State → List Piece → State) (bytes : State → Piece → List Byte)
    (ls : List (Nat × List Piece)) : State × List (Nat × List Piece) :=
  let ms := pickLanes s e (fun _ => false) false ls
  let s1 := met s (goingNow ms)
  (s1, ms.map (fun l => (l.1, l.2.map (fun m => if m.1 then { m.2 with at_ := .got (bytes s1 m.2) } else m.2))))

/-- What a load of a group meets: what the team's narrow scopes have written there is performed, then the caches. -/
def State.loadsMeet (s : State) (e : Env) (ps : List Piece) : State := (s.landFor e.t.tid (localRuns ps)).loadMet e ps

/-- What a store of a group meets: the same, with the caches as a store meets them. -/
def State.storesMeet (s : State) (e : Env) (ps : List Piece) : State := (s.landFor e.t.tid (localRuns ps)).storeMet e ps

/-- The bytes that a team's own staged stores lay over the pieces of a load that come from afar (R263). -/
def farStaged (e : Env) (ps : List Piece) : List (Nat × Byte) :=
  ps.flatMap (fun p => match p.at_ with
    | .rem _ _ _ => stagedOver e p
    | _ => [])

/-- The reads of pieces that have met steps 1 to 3: step 4, then the bytes. Pieces that are not local are asked for, and the group waits
for them with what it has read. -/
def readPlaces (s : State) (e : Env) (met : State → List Piece → State) (bytes : State → Piece → List Byte)
    (ls : List (Nat × List Piece)) : Except Stop (State × List (Nat × List Byte)) := do
  checkPlaces s none ls
  let (s1, ls1) := readNow s e met bytes ls
  let ps := ls.flatMap (·.2)
  let rs := ps.flatMap readReqs
  if rs.isEmpty && allDone ls1 then pure (s1, gotBytes ls1)
  else .error (flyWith s1 e rs ls1 (farStaged e ps) s.free 0 0 true)

/-- A place on this chip that an instruction under way has yet to perform, translated once more: a write through a spur's page may have
to copy it by now; one that no longer translates stays. -/
def landPiece (s : State) (e : Env) (acc : Acc) (p : Piece) : State × Piece :=
  match p.at_ with
  | .loc _ | .zero =>
    (match xlate s e.t.ctx e.agent (some e.spur) e.g.trap.masked acc p.va with
     | .ok (s1, .loc pa, _) => (s1, { p with at_ := .loc pa })
     | _ => (s, p))
  | _ => (s, p)

/-- The places of one lane. -/
def landPieces (s : State) (e : Env) (acc : Acc) : List Piece → State × List Piece
  | [] => (s, [])
  | p :: t =>
    let (s1, q) := landPiece s e acc p
    let (s2, qs) := landPieces s1 e acc t
    (s2, q :: qs)

/-- The places of every lane. -/
def landLanes (s : State) (e : Env) (acc : Acc) : List (Nat × List Piece) → State × List (Nat × List Piece)
  | [] => (s, [])
  | (l, ps) :: t =>
    let (s1, qs) := landPieces s e acc ps
    let (s2, r) := landLanes s1 e acc t
    (s2, (l, qs) :: r)

/-- The places that are not on this chip taken out, as answered. -/
def hereOnly (ls : List (Nat × List Piece)) : List (Nat × List Piece) :=
  ls.map (fun l => (l.1, l.2.map (fun p => if p.isHere then p else { p with at_ := .got [] })))

/-- An instruction under way goes on: its places on this chip, which meet steps 3 and 4 of R156 as they are now. One whose line is clear
or whose place is held lets all of them wait (R60, R142, R143, R144); one that is lost or gone by now traps (R151, R152).
[DESIGN CHOICE, log 11] -/
def landAll (s : State) (e : Env) (f : Flight) (acc : Acc) (ws : List (Nat × List Piece) → Option (List (Nat × Byte))) :
    Except Stop (State × List (Nat × List Piece)) := do
  let (s1, ls) := landLanes s e acc f.places
  match checkPresent s s1 (ls.flatMap (·.2)) with
  | .error _ => .error (.park s (.reply f))
  | .ok _ => do
    checkPlaces s1 (ws (hereOnly ls)) (hereOnly ls)
    pure (s1, ls)

/-- Reads under way go on: what lies on this chip waits for no answer, and the answers are put in once all are there. -/
def readsGoOn (s : State) (e : Env) (met : State → List Piece → State) (bytes : State → Piece → List Byte) (f : Flight) :
    Except Stop (State × List (Nat × List Byte)) := do
  let (s1, ls) ← landAll s e f .read (fun _ => none)
  let (s2, ls1) := readNow s1 e met bytes ls
  let rs ← answersOf e f.tags ((f.places.flatMap (·.2)).flatMap readReqs) (.park s2 (.reply { f with places := ls1 }))
  let ls2 := allAnswered f.forward ls1 rs
  if allDone ls2 then pure (s2, gotBytes ls2) else .error (flyWith s2 e [] ls2 [] f.seed 0 0 true)

/-- A load of n bytes by each listed lane: the bytes read, with the state as the caches leave it (R149 to R151, R156). -/
def loadLanes (s : State) (e : Env) (n : Nat) (addrs : List (Nat × Nat)) :
    Except Stop (State × List (Nat × List Byte)) :=
  match e.flight? with
  | some f => readsGoOn s e (fun s ps => s.loadsMeet e ps) (fun s p => pieceBytes s e p) f
  | none => do
    let (s1, ls) ← openLanes s e .read n addrs
    checkPresent s s1 (ls.flatMap (·.2))
    readPlaces s1 e (fun s ps => s.loadsMeet e ps) (fun s p => pieceBytes s e p) ls

/-! ## Staging (R259, R261, R421) -/

/-- The 32 bytes of a staging record (R259). -/
def Staged.bytes (r : Staged) : List Byte :=
  leBytes 8 r.addr.toNat ++ leBytes 8 r.data.toNat ++ leBytes 4 r.team ++ leBytes 4 r.seq.toNat ++ leBytes 1 r.lane ++
  leBytes 1 r.group ++ leBytes 1 r.kind ++ leBytes 1 r.ctl.toNat ++ [0, 0, 0, 0]

/-- A staging record from its 32 bytes. -/
def Staged.ofBytes (b : List Byte) (die : Nat) (slot : Option Nat) : Staged :=
  { addr := BitVec.ofNat 64 (fieldB b 0 8), data := BitVec.ofNat 64 (fieldB b 8 8), team := fieldB b 16 4,
    seq := BitVec.ofNat 32 (fieldB b 20 4), lane := fieldB b 24 1 % 32, group := fieldB b 25 1 % 32,
    kind := fieldB b 26 1, ctl := BitVec.ofNat 8 (fieldB b 27 1), die := die, spilled := slot }

/-- The lowest free slot of the overflow region that a team may use (R261). -/
def freeSpill (gr : Grid) (oldest : Bool) : Option Nat :=
  let size := if oldest then Rec.ovSize gr.bytes else Rec.ovSize gr.bytes - 65536
  (List.range (gr.staged.length + 1)).find? (fun i =>
    32 * i + 32 ≤ size && !gr.staged.any (fun r => r.spilled == some i))

/-- A replayable engine-style record (KIND 2) of the part's own access: C names the spur for POOL_EMPTY (R339). -/
def ownRec (t : Team) (spur : Word) (source cause va : Nat) (a : Word) : TrapRec :=
  { kind := 2, cause := cause, group := 0, lane := source * 64, team := BitVec.ofNat 32 t.idx, a := a,
    grid := BitVec.ofNat 32 t.serial, b := BitVec.ofNat 64 va, c := if cause = 20 then spur.setWidth 64 else 0 }

/-- A spill that faults posts its replayable record, and the group parks until that is replayed; while the queue has no room it
stalls (R341, R421). -/
def spillStop (s : State) (e : Env) (cause va : Nat) : Stop :=
  let x := s.ctx e.t.ctx
  if x.tqRoom then
    .park (s.tqPost e.t.ctx (ownRec e.t e.spur 3 cause va 0) (some (.spill e.g.gid))) (.faultWait x.tqPos)
  else .park s .staging

/-- A record leaves for a slot of the overflow region, as an access of the part (R420, R421). A region that is not local gets a
write whose failure comes with its answer. -/
def spillTo (s0 s : State) (e : Env) (va : Nat) (bs : List Byte) : Except Stop State :=
  match xlate s e.t.ctx (.die (massifOf e.t.column)) (some e.spur) true .write va with
  | .error (.x (.absent _)) | .error (.x (.prot _)) => .error (spillStop s0 e 9 va)
  | .error .pool => .error (spillStop s0 e 20 va)
  | .error (.x .held) => .error (.park s0 .held)
  | .error (.x (.bad _)) => .error (.gridFatal 8)
  | .error (.x (.lost _ _)) => .error (.gridFatal 10)
  | .ok (s1, .loc pa, leaf) =>
    if isHeld s1 pa then .error (.park s0 .held)
    else if !localExists s1 pa then .error (.gridFatal 27)
    else if (partLost s1 (spread pa bs)).isSome then .error (.gridFatal 10)
    else .ok (((s1.clearLost (spread pa bs)).storeRun pa bs).dieMet e.t.ctx true [⟨va, 32, .loc pa, leaf⟩])
  | .ok (s1, .rem tgt chip pa, leaf) =>
    (match atOnce s1 tgt chip with
     | some .absent => .error (.gridFatal 8)
     | some _ => .error (.gridFatal 10)
     | none => .ok ((writeReqs ⟨va, 32, .rem tgt chip pa, leaf⟩ bs).foldl (fun a r =>
         (a.sendOne (r.remote a 0 none (some (spillKey e.t.ctx e.t.serial e.t.idx)) (ownSrc (massifOf e.t.column)))).1) s1))
  | .ok (s1, _, _) => .ok s1

/-- Add one record to the staging of a team (R259, R261, R421): on the base die while it holds fewer than 128 of the
team's, otherwise spilled. -/
def stageOne (s0 s : State) (e : Env) (r : Staged) : Except Stop State :=
  match s.grid? e.t.ctx e.t.serial with
  | none => .ok s
  | some gr =>
    if gr.staged.countP (fun q => q.team == e.t.idx && q.spilled.isNone) < 128 then
      .ok (s.setGrid { gr with staged := gr.staged ++ [r] })
    else
      let oldest := gr.drained == e.t.idx
      match freeSpill gr oldest with
      | none => if oldest then .error (.gridFatal 23) else .error (.park s0 .staging)
      | some slot => do
        let s1 ← spillTo s0 s e (Rec.ovBase gr.bytes + 32 * slot) r.bytes
        pure (s1.modGrid e.t.ctx e.t.serial (fun g => { g with staged := g.staged ++ [{ r with spilled := some slot }] }))

/-- Add records in order, then count the staging instruction in the team's SEQ (R257). -/
def stageAll (s0 s : State) (e : Env) (rs : List Staged) : Except Stop State := do
  let s1 ← rs.foldlM (fun a r => stageOne s0 a e r) s
  pure (s1.modTeam e.t.tid (fun t => { t with seq := t.seq + 1 }))

/-- The records of one lane's store: one for each 8 bytes (R259). -/
def storeRecs (e : Env) (lane va : Nat) (bs : List Byte) : List Staged :=
  (List.range ((bs.length + 7) / 8)).map (fun i =>
    let part := (bs.drop (8 * i)).take 8
    { addr := BitVec.ofNat 64 (va + 8 * i), data := BitVec.ofNat 64 (leNat part), team := e.t.idx, seq := e.t.seq,
      lane := lane, group := e.g.gid % 32, kind := 0, ctl := BitVec.ofNat 8 (2 ^ part.length - 1),
      die := massifOf e.t.column, spilled := none })

/-- A team of a DET grid that does not hold the Ridgeline ticket, or has received it and not yet released its staged work
(R263). -/
def Env.mustStage (e : Env) : Bool :=
  e.isDet && (e.gr.drained != e.t.idx || e.gr.staged.any (fun r => r.team == e.t.idx && r.kind != 1))

/-- A scratchpad store. -/
def State.scrStore (s : State) (tid off : Nat) (bs : List Byte) : State :=
  s.modTeam tid (fun t => { t with scratch := writeB t.scratch off bs })

/-- The local writes of one lane's pieces. -/
def localWrites : List Piece → List Byte → List (Nat × Byte)
  | [], _ => []
  | p :: t, bs =>
    (match p.at_ with
     | .loc pa => spread pa (bs.take p.n)
     | _ => []) ++ localWrites t (bs.drop p.n)

/-- The scratchpad writes of one lane's pieces. -/
def State.scrWrites (s : State) : List Piece → List Byte → State
  | [], _ => s
  | p :: t, bs =>
    (match p.at_ with
     | .scr tid off => s.scrStore tid off (bs.take p.n)
     | _ => s).scrWrites t (bs.drop p.n)

/-- The bytes of one lane's pieces that go to places that are not local. -/
def laneFar : List Piece → List Byte → List FarByte
  | [], _ => []
  | p :: t, bs => farBytes p (bs.take p.n) ++ laneFar t (bs.drop p.n)

/-- The requests of a store by lanes with their bytes: one for each 128-byte line (R246). -/
def storeReqs (zs : List (List Piece × List Byte)) : List Req :=
  let far := zs.flatMap (fun z => laneFar z.1 z.2)
  lineWrites far.length far

/-- The writes of a store by lanes to local memory, in lane order. -/
def storeLocal (zs : List (List Piece × List Byte)) : List (Nat × Byte) := zs.flatMap (fun z => localWrites z.1 z.2)

/-- What a store by lanes changes on this chip, in lane order (R152). -/
def State.putLanes (s : State) (zs : List (List Piece × List Byte)) : State :=
  let ws := storeLocal zs
  zs.foldl (fun a z => a.scrWrites z.1 z.2) ((s.clearLost ws).storeAll ws)

/-- The bytes of lanes' pieces as they are cut. -/
def storePairs (ls : List (Nat × List Piece)) (bs : List (List Byte)) : List (List Piece × List Byte) := (ls.map (·.2)).zip bs

/-- A piece lies in an atom of local memory that is lost: what writes it goes at once with the rest of the atom, so that a write of all its
bytes finds it whole (R71). -/
def Piece.inLost (s : State) (p : Piece) : Bool :=
  match p.at_ with
  | .loc pa => isLost s pa
  | _ => false

/-- The writes of pieces that have met the checks, as far as the move goes: the rest stays with the group (R267). -/
def writeNow (s : State) (e : Env) (ls : List (Nat × List Piece)) (bs : List (List Byte)) : Except Stop State :=
  let ms := pickLanes s e (Piece.inLost s) true ls
  let with_ := fun (f : Bool) => ms.map (fun l => (l.1, l.2.map (fun m => if m.1 == f then m.2 else { m.2 with at_ := .got [] })))
  let s1 := (s.storesMeet e (goingNow ms)).putLanes (storePairs (with_ true) bs)
  if allDone (with_ false) then .ok s1 else .error (flyWith s1 e [] (with_ false) [] s.free 0 0 false)

/-- The store of pieces that have met steps 1 to 3: step 4, then the bytes; what goes to other places is sent first, and the rest
waits for the answers, so that a failed one finds nothing changed (R156). -/
def writePlaces (s : State) (e : Env) (ls : List (Nat × List Piece)) (bs : List (List Byte)) : Except Stop State := do
  let zs := storePairs ls bs
  checkPlaces s (some (storeLocal zs)) ls
  match storeReqs zs with
  | [] => writeNow s e ls bs
  | rs => .error (flyWith s e rs ls [] s.free 0 0 false)

/-- The records of the lanes whose store is to a global address. -/
def laneRecs (e : Env) (as : List Steered) (bs : List (List Byte)) : List Staged :=
  (as.zip bs).flatMap (fun z => match z.1.loc with
    | .glob va => storeRecs e z.1.lane va z.2
    | .scr _ _ => [])

/-- A store by each listed lane, in lane order: (lane, address, bytes), all of one length (R149, R152, R156, R263). -/
def storeLanes (s : State) (e : Env) (n : Nat) (acs : List (Nat × Nat × List Byte)) : Except Stop State :=
  let bs := acs.map (·.2.2)
  match e.flight? with
  | some f => do
    let _ ← answersOf e f.tags (storeReqs (storePairs f.places bs)) (.park s (.reply f))
    let (s1, ls) ← landAll s e f .write (fun ls => some (storeLocal (storePairs ls bs)))
    writeNow s1 e (hereOnly ls) bs
  | none => do
    let as ← steerAll s e .write n (acs.map (fun a => (a.1, a.2.1)))
    checkDet e as
    let (s1, ls) ← xlateAll s e .write n as
    checkPresent s s1 (ls.flatMap (·.2))
    let rs := laneRecs e as bs
    if e.mustStage && !rs.isEmpty then do
      let s2 ← stageAll s s1 e rs
      pure (((as.zip ls).zip bs).foldl (fun a z => match z.1.1.loc with
        | .scr _ _ => a.scrWrites z.1.2.2 z.2
        | .glob _ => a) s2)
    else writePlaces s1 e ls bs

end Sys2Proof.Machine
end

