-- ==== Sys2Proof/Machine/Mem.lean ====
section
/-! DEFINITION. Loads, stores and prefetches of both sets, and the moves of a handler's shadow (R147 to R157, R337). -/

namespace Sys2Proof.Machine

/-- The bytes of an access size (R147). -/
def sizeBytes : MemSize → Nat
  | .b8 => 1 | .b16 => 2 | .b32 => 4 | .b64 => 8 | .b128 => 16

/-- The registers an access size fills (R150). -/
def sizeRegs (sz : MemSize) : Nat := max 1 (sizeBytes sz / 4)

/-- Word i of the data a load brings: sign- or zero-extended for 8 and 16 bits (R150). -/
def loadWord (sz : MemSize) (sx' : Bool) (bs : List Byte) (i : Nat) : Word :=
  let x := leNat ((bs.drop (4 * i)).take 4)
  if sx' then (match sz with
    | .b8 => BitVec.ofInt 32 (sx 8 x)
    | .b16 => BitVec.ofInt 32 (sx 16 x)
    | _ => BitVec.ofNat 32 x)
  else BitVec.ofNat 32 x

/-- The low n bytes of the data registers from a source on (R152). -/
def storeBytes (sz : MemSize) (w : Nat → Word) : List Byte :=
  ((List.range (sizeRegs sz)).flatMap (fun i => leBytes 4 (w i).toNat)).take (sizeBytes sz)

/-- The registers of lanes set from the bytes each loaded (R150). -/
def Regs.loaded (r : Regs) (d : Nat) (sz : MemSize) (sx' : Bool) (rs : List (Nat × List Byte)) : Regs :=
  rs.foldl (fun q p => (List.range (sizeRegs sz)).foldl (fun q i => q.setV (d + i) p.1 (loadWord sz sx' p.2 i)) q) r

/-- LD (R147 to R151, R156). -/
def execLd (g : Pred) (d : VReg) (m : LaneMem) (sz : MemSize) (sx' : Bool) (h : Hint) (s : State) : Out :=
  s.run (fun e =>
    let t := e.taking g
    if t = 0 then .ok (s.retire e e.g)
    else do
      let (s1, rs) ← loadLanes s { e with hint := h } (sizeBytes sz) ((lanesOf t).map (fun l => (l, (e.g.regs.laneAddr m l).toNat)))
      .ok (s1.retire e ((e.g.wrote d.val (sizeRegs sz)).withRegs (e.g.regs.loaded d.val sz sx' rs))))

/-- ST (R147 to R149, R152, R156). -/
def execSt (g : Pred) (d : Src) (m : LaneMem) (sz : MemSize) (h : Hint) (s : State) : Out :=
  s.run (fun e =>
    let t := e.taking g
    if t = 0 then .ok (s.retire e e.g)
    else do
      let s1 ← storeLanes s { e with hint := h } (sizeBytes sz) ((lanesOf t).map (fun l =>
        (l, (e.g.regs.laneAddr m l).toNat, storeBytes sz (fun i => e.g.regs.dataAt sz d i l))))
      .ok (s1.retire e e.g))

/-- One lane's prefetch (R153): the line of a local place enters the L2, and at level 0 the L1, by its page's class. It is dropped outside the
global window and the stack aperture, where the translation fails, where the place is not local, gone or not open yet, and where the line
holds a lost atom. [DEDUCED, log 57] -/
def State.prefetch (s : State) (e : Env) (lv : PrefLevel) (lane ga : Nat) : State :=
  match steer s e .read lane ga 1 with
  | some (.glob va) =>
    (match xlate s e.t.ctx e.agent (some e.spur) e.g.trap.masked .read va with
     | .ok (s1, .loc pa, leaf) =>
       if !localExists s1 pa || isHeld s1 pa || (lostIn s1 (pa / 128 * 128) 128).isSome then s1
       else match lv with
         | .l1 => s1.loadLine e (e.l1Column pa) (pa / 128) leaf.cc
         | .l2 => s1.ctxL2 e.t.ctx pa leaf.cc false
     | .ok (s1, _, _) => s1
     | .error _ => s)
  | _ => s

/-- PREF has no architectural effect and raises no trap after decode; its lanes go in ascending order (R153). [DEDUCED, log 57] -/
def execPref (g : Pred) (m : LaneMem) (lv : PrefLevel) (s : State) : Out :=
  s.run (fun e => .ok (((lanesOf (e.taking g)).foldl (fun a l => a.prefetch e lv l (e.g.regs.laneAddr m l).toNat) s).retire e e.g))

/-- The uniform registers set from loaded bytes. -/
def Regs.loadedK (r : Regs) (d : Nat) (sz : MemSize) (sx' : Bool) (bs : List Byte) : Regs :=
  if sz = .b64 then r.setK2 d (BitVec.ofNat 64 (leNat bs)) else r.setK d (loadWord sz sx' bs 0)

/-- ULD (R147 to R151): the lowest executing lane stands for the group's address (R79). -/
def execUld (g : Pred) (d : KReg) (m : UniMem) (sz : MemSize) (sx' : Bool) (h : Hint) (s : State) : Out :=
  s.uniform g (fun e => do
    let (s1, rs) ← loadLanes s { e with hint := h } (sizeBytes sz) [(lowLane e.c.mask, (e.g.regs.uniAddr m).toNat)]
    .ok (s1.retire e (e.g.withRegs (e.g.regs.loadedK d.val sz sx' (rs.flatMap (·.2))))))

/-- The bytes a uniform store writes; the pair k0 is zero (R36, R152). -/
def Regs.storeK (r : Regs) (d : Nat) (sz : MemSize) : List Byte :=
  if sz = .b64 then leBytes 8 (r.getK2 d).toNat else (leBytes 4 (r.getK d).toNat).take (sizeBytes sz)

/-- UST (R147 to R149, R152). -/
def execUst (g : Pred) (d : KReg) (m : UniMem) (sz : MemSize) (h : Hint) (s : State) : Out :=
  s.uniform g (fun e => do
    let s1 ← storeLanes s { e with hint := h } (sizeBytes sz) [(lowLane e.c.mask, (e.g.regs.uniAddr m).toNat, e.g.regs.storeK d.val sz)]
    .ok (s1.retire e e.g))

/-! ## The shadow (R337) -/

/-- The traps of a shadow move's address: outside the global window and the scratchpad aperture, or not a multiple of 8.
[DESIGN CHOICE, log 17] -/
def shadowAddr (a : Nat) : Option Stop :=
  if 0xFF00000000000000 ≤ a then some (.trap 6 0 a none 0)
  else if (a < 2 ^ 57 ∨ 0xFE00000000000000 ≤ a) ∧ a % 8 ≠ 0 then some (.trap 7 0 a none 0)
  else none

/-- The bytes of the shadow's part that V selects (R337). -/
def TrapRegs.part (r : TrapRegs) (v95 : Bool) : List Byte :=
  if v95 then (List.range 32).flatMap (fun l => leBytes 4 (getB r.v95 l).toNat)
  else (List.range 32).flatMap (fun l => leBytes 8 (getB r.div l).toNat)

/-- DVSAVE (R337). -/
def execDvsave (g : Pred) (m : UniMem) (v95 : Bool) (s : State) : Out :=
  s.privileged g (fun e =>
    let a := (e.g.regs.uniAddr m).toNat
    match shadowAddr a with
    | some z => .error z
    | none => do
      let s1 ← storeLanes s e (if v95 then 128 else 256) [(lowLane e.c.mask, a, e.g.trap.part v95)]
      .ok (s1.retire e e.g))

/-- A divergence word that DVLOAD refuses: bits [61:57] or PC bits [1:0] nonzero (R337). -/
def badDiv (w : Nat) : Bool := fld w 61 57 != 0 || fld w 1 0 != 0

/-- The shadow with its part that V selects taken from bytes (R337). -/
def TrapRegs.load (r : TrapRegs) (v95 : Bool) (bs : List Byte) : TrapRegs :=
  if v95 then { r with v95 := (List.range 32).foldl (fun m l => putB m l (BitVec.ofNat 32 (fieldB bs (4 * l) 4))) [] }
  else { r with div := (List.range 32).foldl (fun m l => putB m l (BitVec.ofNat 64 (fieldB bs (8 * l) 8))) [] }

/-- DVLOAD (R337). -/
def execDvload (g : Pred) (m : UniMem) (v95 : Bool) (s : State) : Out :=
  s.privileged g (fun e =>
    let a := (e.g.regs.uniAddr m).toNat
    match shadowAddr a with
    | some z => .error z
    | none => do
      let (s1, rs) ← loadLanes s e (if v95 then 128 else 256) [(lowLane e.c.mask, a)]
      let bs := rs.flatMap (·.2)
      if !v95 && (List.range 32).any (fun l => badDiv (fieldB bs (8 * l) 8)) then trapWith 13 0 a
      else .ok (s1.retire e { e.g with trap := e.g.trap.load v95 bs }))

end Sys2Proof.Machine
end

