-- ==== Sys2Proof/Machine/Atomic.lean ====
section
/-! DEFINITION. Atomics and reductions (R248 to R257): the changes, the checks in order, the lane steps, and the queueing of
ordered reductions. -/

namespace Sys2Proof.Machine

/-- The new value of a location of 32 bits (R250). -/
def newWord (o : AtomOp) (old x c : Word) : Word :=
  match o with
  | .add => old + x
  | .minS => if old.toInt ≤ x.toInt then old else x
  | .maxS => if old.toInt ≤ x.toInt then x else old
  | .minN => if old.toNat ≤ x.toNat then old else x
  | .maxN => if old.toNat ≤ x.toNat then x else old
  | .and => old &&& x
  | .or => old ||| x
  | .xor => old ^^^ x
  | .xchg => x
  | .cas => if old = c then x else old
  | .fadd => f32op Num.add old x
  | .fmin => f32op Num.min old x
  | .fmax => f32op Num.max old x
  | .hfadd2 => x2op .f16 Num.add old x
  | .bfadd2 => x2op .bf16 Num.add old x

/-- The new value of a location of 64 bits (R250). HFADD2 and BFADD2 have no 64-bit form. -/
def newDWord (o : AtomOp) (old x c : DWord) : DWord :=
  match o with
  | .add => old + x
  | .minS => if old.toInt ≤ x.toInt then old else x
  | .maxS => if old.toInt ≤ x.toInt then x else old
  | .minN => if old.toNat ≤ x.toNat then old else x
  | .maxN => if old.toNat ≤ x.toNat then x else old
  | .and => old &&& x
  | .or => old ||| x
  | .xor => old ^^^ x
  | .xchg => x
  | .cas => if old = c then x else old
  | .fadd => f64op Num.add old x
  | .fmin => f64op Num.min old x
  | .fmax => f64op Num.max old x
  | .hfadd2 | .bfadd2 => old

/-- The new value as a number (R250). -/
def newValue (o : AtomOp) (s64 : Bool) (old x c : Nat) : Nat :=
  if s64 then (newDWord o (BitVec.ofNat 64 old) (BitVec.ofNat 64 x) (BitVec.ofNat 64 c)).toNat
  else (newWord o (BitVec.ofNat 32 old) (BitVec.ofNat 32 x) (BitVec.ofNat 32 c)).toNat

/-- An atomic or a reduction as an instruction: whether it returns the old value, whether its lanes are ordered, its scope,
change and size. -/
structure AtomForm where
  ret     : Bool
  ordered : Bool
  scope   : Scope
  op      : AtomOp
  s64     : Bool
  deriving DecidableEq, Repr

/-- Bytes of the location. -/
def AtomForm.bytes (f : AtomForm) : Nat := if f.s64 then 8 else 4

/-- A lane's part: its steered access, its place with its leaf, its operand x and its compare value c (R249). -/
structure AtomLane where
  lane : Nat
  ga   : Nat
  loc  : Loc
  at_  : Phys
  leaf : Leaf
  x    : Nat
  c    : Nat
  deriving DecidableEq, Repr

/-- The access reaches the stack aperture (R77). -/
def AtomLane.onStack (a : AtomLane) : Bool := decide (0xFF00000000000000 ≤ a.ga)

/-- The access lies in the global window or the stack aperture. -/
def AtomLane.isGlobal (a : AtomLane) : Bool :=
  match a.loc with
  | .glob _ => true
  | .scr _ _ => false

/-- Step 2 of R255. [DESIGN CHOICE, log 17] -/
def checkAligned (n : Nat) (as : List Steered) : Except Stop Unit :=
  match as.find? (fun a => a.ga % n != 0) with
  | some a => .error (.trap 7 0 a.ga none 0)
  | none => .ok ()

/-- Step 3 of R255: the rules of DET mode (R263, R353). -/
def atomDet (e : Env) (f : AtomForm) (as : List Steered) : Except Stop Unit :=
  if !e.isDet then .ok ()
  else
    match as.find? (fun a => !f.ordered || f.scope == .system ||
        (match a.loc with
         | .glob _ => f.ret
         | .scr tid _ => tid != e.t.tid)) with
    | some a => .error (.trap 19 0 a.ga none 0)
    | none => .ok ()

/-- The operations that are carried to a host target (R252). -/
def hostCarries (o : AtomOp) : Bool := o == .add || o == .xchg || o == .cas

/-- Step 5 of R255: a host target carries ADD, XCHG and CAS alone (R252). -/
def atomHost (f : AtomForm) (as : List AtomLane) : Except Stop Unit :=
  match as.find? (fun a => match a.at_ with
      | .rem tgt _ _ => tgt == 2 && !hostCarries f.op
      | _ => false) with
  | some a => .error (.trap 13 0 a.ga none 0)
  | none => .ok ()

/-- A reduction that is queued (R256). -/
def AtomForm.queued (f : AtomForm) (e : Env) (a : AtomLane) : Bool :=
  !f.ret && f.ordered && a.isGlobal && (e.isDet || f.op == .fadd || f.op == .hfadd2 || f.op == .bfadd2)

/-- The staging record of a queued contribution (R257, R259); its scope is at least device, or system where its target is
not local (R256). -/
def AtomForm.contribution (f : AtomForm) (e : Env) (a : AtomLane) : Staged :=
  let va := match a.loc with
    | .glob v => v
    | .scr _ _ => 0
  let scope := match a.at_ with
    | .rem _ _ _ => 4
    | _ => max 3 f.scope.code
  { addr := BitVec.ofNat 64 va, data := BitVec.ofNat 64 a.x, team := e.t.idx, seq := e.t.seq, lane := a.lane,
    group := e.g.gid % 32, kind := 1, ctl := BitVec.ofNat 8 (f.op.code * 16 + f.s64.toNat * 8 + scope),
    die := massifOf e.t.column, spilled := none }

/-- The requests of the lanes that meet non-local targets. -/
def AtomForm.reqs (f : AtomForm) (as : List AtomLane) : List Req :=
  as.filterMap (fun a => match a.at_, a.loc with
    | .rem tgt chip pa, .glob va =>
      some ⟨va, a.leaf.lvl, tgt, chip, pa, .atomic f.op f.s64 (BitVec.ofNat 64 a.x) (BitVec.ofNat 64 a.c)⟩
    | _, _ => none)

/-! ## Where an atomic executes (R252, R253, R275) -/

/-- Where a narrow atomic executes, and for whom: the column in whose L1 it does, the teams that its scope contains, the group. -/
structure Narrow where
  column : Nat
  teams  : List Nat
  gid    : Nat
  deriving DecidableEq, Repr

/-- The place of execution of an atomic on a line of local memory, when it is an L1: the issuing column's for .G and .T, the line's
home column of the cluster for .C (R252). [DESIGN CHOICE, log 105] -/
def AtomForm.narrow (f : AtomForm) (e : Env) (s : State) (pa : Nat) : Option Narrow :=
  match f.scope with
  | .group | .team => some ⟨e.t.column, [e.t.tid], e.g.gid⟩
  | .cluster =>
    let n := Rec.clsize e.gr.bytes
    some ⟨e.t.homeColumn e.gr.bytes pa, (s.cluster e.t n).map (·.tid), e.g.gid⟩
  | .device | .system => none

/-- A run of bytes as the L1 of a column holds it: what atomics have left there lies over memory (R252). -/
def State.narrowRead (s : State) (column pa n : Nat) : List Byte :=
  (List.range n).map (fun i =>
    match (s.late.filter (fun x => x.column == some column && x.meets (pa + i) 1)).getLast? with
    | some x => x.bytes.getD (pa + i - x.pa) 0
    | none => getB s.mem (pa + i))

/-- An atomic's new bytes stay in an L1 until they are performed at device scope: they take the place of what atomics on the same
location have left there (R252, R275). [DESIGN CHOICE, log 105] -/
def State.narrowWrite (s : State) (w : Narrow) (pa : Nat) (bs : List Byte) : State :=
  let here := fun x : Late => x.column == some w.column && x.meets pa bs.length
  let same := fun x : Late => here x && x.pa == pa && x.bytes.length == bs.length
  let s1 := s.landLate (fun x => here x && !same x)
  let old := s1.late.filter same
  { s1 with late := s1.late.filter (fun x => !same x) ++
      [⟨pa, bs, some w.column, (old.flatMap (·.teams) ++ w.teams).eraseDups, (old.flatMap (·.gids) ++ [w.gid]).eraseDups⟩] }

/-- What is performed at device scope before an atomic's lanes take their steps: what the team's own narrow accesses have left at its
locations, and what others have left in the L1 where it executes, unless it executes there itself (R253). [DESIGN CHOICE, log 105] -/
def State.landAtoms (s : State) (e : Env) (f : AtomForm) (stays : Bool) (runs : List (Nat × Nat)) : State :=
  s.landLate (fun x => runs.any (fun r => x.meets r.1 r.2 &&
    (match f.narrow e s r.1 with
     | some w => if stays then x.teams.contains e.t.tid && x.column != some w.column
       else x.teams.contains e.t.tid || x.column == some w.column
     | none => x.teams.contains e.t.tid)))

/-! ## Lane steps (R251) -/

/-- The number at a local place, for an atomic that executes in an L1 or not. -/
def placeNat (s : State) (w : Option Narrow) (p : Phys) (n : Nat) : Nat :=
  match p, w with
  | .loc pa, some w => leNat (s.narrowRead w.column pa n)
  | .loc pa, none => s.loadNat pa n
  | .scr tid off, _ => (match s.team? tid with | some t => leNat (readB t.scratch off n) | none => 0)
  | _, _ => 0

/-- A number written at a local place, by an atomic that leaves it in an L1 or not. -/
def State.putPlace (s : State) (w : Option Narrow) (p : Phys) (n x : Nat) : State :=
  match p, w with
  | .loc pa, some w => s.narrowWrite w pa (leBytes n x)
  | .loc pa, none => s.storeRun pa (leBytes n x)
  | .scr tid off, _ => s.scrStore tid off (leBytes n x)
  | _, _ => s

/-- The L1 in which the new value of a place stays, when it stays there. -/
def AtomForm.stay (f : AtomForm) (e : Env) (s : State) (stays : Bool) (p : Phys) : Option Narrow :=
  match p with
  | .loc pa => if stays then f.narrow e s pa else none
  | _ => none

/-- The lane steps in order, each one read and one write of its location (R251); the result lists the old values. A
non-local lane's old value is the head of its replies. -/
def atomSteps (f : AtomForm) (e : Env) (stays : Bool) : State → List AtomLane → List Reply → State × List (Nat × Nat)
  | s, [], _ => (s, [])
  | s, a :: t, rs =>
    match a.at_ with
    | .rem _ _ _ =>
      let old := leNat (((rs.head?.map (·.data)).getD []).take f.bytes)
      let (s1, r) := atomSteps f e stays s t rs.tail
      (s1, (a.lane, old) :: r)
    | p =>
      let w := f.stay e s stays p
      let old := placeNat s w p f.bytes
      let (s1, r) := atomSteps f e stays (s.putPlace w p f.bytes (newValue f.op f.s64 old a.x a.c)) t rs
      (s1, (a.lane, old) :: r)

/-- The local runs of lanes. -/
def AtomForm.runs (f : AtomForm) (as : List AtomLane) : List (Nat × Nat) :=
  as.filterMap (fun a => match a.at_ with | .loc pa => some (pa, f.bytes) | _ => none)

/-- An atomic step meets the caches where it executes (R252): in an L1, which reads the line as a load does and sends the new value on to the
home L2; in the home L2; or at the controller. [DESIGN CHOICE, log 12] -/
def State.atomMet (s : State) (e : Env) (f : AtomForm) (pa cc : Nat) : State :=
  match f.narrow e s pa with
  | some w => (s.loadLine e w.column (pa / 128) cc).ctxL2 e.t.ctx pa cc true
  | none => if f.scope = .system then s.atController pa else s.ctxL2 e.t.ctx pa cc true

/-- Lanes take their steps, with what must be performed before them and how they meet the caches. -/
def atomAct (s : State) (e : Env) (f : AtomForm) (stays : Bool) (as : List AtomLane) (rs : List Reply) : State × List (Nat × Nat) :=
  let (s1, olds) := atomSteps f e stays (s.landAtoms e f stays (f.runs as)) as rs
  (as.foldl (fun b a => match a.at_ with | .loc pa => b.atomMet e f pa a.leaf.cc | _ => b) s1, olds)

/-- The location's tag in Cairn; none for an access through the stack aperture (R358, R359). -/
def atomTag (s : State) (a : AtomLane) : Option Nat :=
  if a.onStack then none
  else match a.loc with
    | .glob va => some (globTag va)
    | .scr tid off => (s.team? tid).map (fun u => scrTag u.idx off)

/-- The events that the lanes log, with their lanes (R358). -/
def atomEvents (s : State) (f : AtomForm) (as : List AtomLane) : List (AtomLane × LogEv) :=
  as.filterMap (fun a => (atomTag s a).map (fun o => (a, ⟨if f.ret then 1 else 2, a.lane, o⟩)))

/-- DIGEST of a step of an ATOM: the old value's word, or the two halves of 64 bits together (R358). -/
def atomDigest (f : AtomForm) (old : Nat) : Nat :=
  if f.ret then (if f.s64 then old % 2 ^ 32 ^^^ old / 2 ^ 32 else old) else 0

/-- Lanes by ascending key; lanes of one key by number (R251, the .U order). [DESIGN CHOICE, log 23] -/
def insertKey (key : Nat → Nat) (a : AtomLane) : List AtomLane → List AtomLane
  | [] => [a]
  | b :: t => if key a.lane < key b.lane then a :: b :: t else b :: insertKey key a t

/-- The order in which the lanes take their steps: ascending for .O, an order the spec leaves open for .U (R251). [DESIGN CHOICE, log 23] -/
def atomOrder (seed : Nat) (f : AtomForm) (as : List AtomLane) : List AtomLane :=
  if f.ordered then as else as.foldl (fun l a => insertKey (Config.laneKey seed) a l) []

/-- How lanes that are not queued may go: the lanes whose steps are performed now, in their order, with the records they take in a
replay, and the lanes that wait with the reason. -/
structure AtomTurn where
  ord     : List AtomLane
  recs    : List LogRec
  blocked : List Nat
  wait    : Option Wait
  deriving DecidableEq, Repr

/-- The logged lanes with their turns in a replay. [DEDUCED, log 24] -/
def atomTurns (s : State) (e : Env) (f : AtomForm) (ord : List AtomLane) : List (AtomLane × Turn) :=
  let evs := atomEvents s f ord
  (evs.map (·.1)).zip (e.turns s (evs.map (·.2)))

/-- Before the lanes' steps: in REC all of them need positions (R362); in REPLAY every lane is an actor of its own (R360, R364), so
that lanes whose turn has come go and the others wait. A lane that diverges traps, and nothing is performed (R365). [DEDUCED, log 24] -/
def atomTurn (s : State) (e : Env) (f : AtomForm) (ord : List AtomLane) : Except Stop AtomTurn :=
  if e.isRec then
    if s.cairnRoom e.t.ctx (atomEvents s f ord).length then .ok ⟨ord, [], [], none⟩ else .error (.park s .ring)
  else if e.isReplay then
    let ts := atomTurns s e f ord
    match ts.findSome? (fun t => t.2.stop?.map (fun info => (info, t.1.ga))) with
    | some (info, ga) => diverge s e info ga
    | none =>
      let blocked := (ts.filter (fun t => t.2.wait?.isSome)).map (fun t => t.1.lane)
      let go := ord.filter (fun a => !blocked.contains a.lane)
      let wait := ts.findSome? (fun t => t.2.wait?)
      match go, wait with
      | [], some w => .error (.park s w)
      | _, _ => .ok ⟨go, ts.filterMap (fun t => match t.2 with | .go r => some r | _ => none), blocked, wait⟩
  else .ok ⟨ord, [], [], none⟩

/-- Some lanes of an atomic have taken their steps in a replay and the others wait: the lanes go their ways, as lanes of a divergent
group do, and the instruction is counted when its last lane passes it. [DEDUCED, log 24] -/
def State.splitAt (s : State) (e : Env) (g : Group) (done : Mask) (w : Wait) : State :=
  { s.setGroup { g with
      regs := g.regs.advance done e.c.size, park := some ⟨w, s.clk⟩, latch := none, replies := [], fetched := none } with cur := none }

/-- The lanes' steps, their records, and the results by `put` (R251, R358, R364), with the position and address of the first digest that
differs. [DEDUCED, log 24] -/
def atomStepped (s : State) (e : Env) (f : AtomForm) (stays : Bool) (t : AtomTurn) (rs : List Reply) :
    State × List (Nat × Nat) × Option (Nat × Nat) :=
  let (s2, olds) := atomAct s e f stays t.ord rs
  let evs := atomEvents s f t.ord
  let done := evs.map (fun v => (v.2, atomDigest f (((olds.find? (fun o => o.1 == v.1.lane)).map (·.2)).getD 0)))
  let (s3, bad) := s2.cairnClose e done t.recs
  (s3, olds, bad.map (fun p => (p, (((evs.zip t.recs).find? (fun v => v.2.pos == p)).map (fun v => v.1.1.ga)).getD 0)))

/-- All the lanes that may go take their steps; a digest that differs makes the group diverge after its result. `take` are the lanes
that take part. [DEDUCED, log 24] -/
def atomDone (s : State) (e : Env) (f : AtomForm) (stays : Bool) (take : Mask) (t : AtomTurn) (rs : List Reply)
    (put : Group → List (Nat × Nat) → Group) : Except Stop State :=
  match atomStepped s e f stays t rs with
  | (s1, olds, some (p, ga)) => diverge (s1.modGroup e.g.gid (fun g => put g olds)) e p ga
  | (s1, olds, none) =>
    match t.wait with
    | none => .ok (s1.retire e (put e.g olds))
    | some w => .ok (s1.splitAt e (put e.g olds) (take &&& ~~~maskOf t.blocked) w)

/-- A lane's part of an atomic, from its pieces. -/
def atomLane (ops : Regs → Nat → Nat × Nat) (r : Regs) (lane ga : Nat) (loc : Loc) (ps : List Piece) : AtomLane :=
  ⟨lane, ga, loc, ((ps.head?).map (·.at_)).getD .zero, (ps.head?.map (·.leaf)).getD ⟨0, 0⟩, (ops r lane).1, (ops r lane).2⟩

/-- The lane's location lies on this chip. -/
def AtomLane.isHere (a : AtomLane) : Bool :=
  match a.at_ with
  | .rem _ _ _ => false
  | _ => true

/-- The lanes that go when a move names some: those answered from afar with them; .O lanes keep their order, and in a replay those of one
object theirs, which their records give (R251, R364). -/
def atomPick (s : State) (e : Env) (f : AtomForm) (now : List Nat) : List AtomLane → List AtomLane → List AtomLane
  | _, [] => []
  | left, a :: t =>
    let waits := a.isHere && (!now.contains a.lane || (f.ordered && !left.isEmpty) ||
      (e.isReplay && left.any (fun b => atomTag s b == atomTag s a)))
    if waits then atomPick s e f now (a :: left) t else a :: atomPick s e f now left t

/-- The turn of some of the lanes alone. -/
def AtomTurn.only (s : State) (f : AtomForm) (t : AtomTurn) (go : List AtomLane) : AtomTurn :=
  { t with
    ord := go
    recs := (((atomEvents s f t.ord).zip t.recs).filter (fun v => go.contains v.1.1)).map (·.2) }

/-- The lanes that the move names take their steps and get their results, and the others stay with the group; when all are named, or a
digest differs, the instruction is done whole (R251, R267). -/
def atomSome (s : State) (e : Env) (f : AtomForm) (p : Part) (take before : Mask) (seed : Nat) (t : AtomTurn) (rs : List Reply)
    (ps : List (Nat × List Piece)) (put : Group → List (Nat × Nat) → Group) : Except Stop State :=
  let go := atomPick s e f p.now [] t.ord
  let done := go.map (·.lane)
  match atomStepped s e f p.late (t.only s f go) rs with
  | (_, _, some _) => atomDone s e f p.late take t rs put
  | (s1, olds, none) =>
    if go.length = t.ord.length then atomDone s e f p.late take t rs put
    else
      let logs := if e.isRec then (atomEvents s f (t.ord.filter (fun a => !done.contains a.lane))).length else 0
      .error (flyWith (s1.modGroup e.g.gid (fun g => put g olds)) e [] (ps.filter (fun x => !done.contains x.1)) [] seed logs
        (before ||| maskOf done) false)

/-- The lanes with their answers, whole or as far as the move goes. -/
def atomGo (s : State) (e : Env) (f : AtomForm) (take before : Mask) (seed : Nat) (t : AtomTurn) (rs : List Reply)
    (ps : List (Nat × List Piece)) (put : Group → List (Nat × Nat) → Group) : Except Stop State :=
  match s.partFor e with
  | some p => atomSome s e f p take before seed t rs ps put
  | none => atomDone s e f false take t rs put

/-- The steps of lanes that are not queued, or their requests first: everything else waits for the answers, so that a failed one
finds nothing changed (R255). -/
def atomStart (s0 s : State) (e : Env) (f : AtomForm) (take : Mask) (as : List AtomLane) (ps : List (Nat × List Piece))
    (put : Group → List (Nat × Nat) → Group) : Except Stop State := do
  let t ← (atomTurn s e f (atomOrder s.free f as)).mapError (fun z => match z with | .park _ w => .park s0 w | z => z)
  let mine := ps.filter (fun p => t.ord.any (fun a => a.lane == p.1))
  checkPlaces s none mine
  let s1 := if f.ordered then s else { s with free := s.free + 1 }
  match f.reqs t.ord with
  | [] => atomGo s1 e f take 0 s.free t [] mine put
  | rs => .error (flyWith s1 e rs mine [] s.free (if e.isRec then (atomEvents s f t.ord).length else 0) 0 false)

/-- An atomic or reduction that is under way: the rest of it follows in the order that it had (R251, R364). -/
def atomLand (s : State) (e : Env) (f : AtomForm) (take : Mask) (fl : Flight) (m : LaneMem) (ops : Regs → Nat → Nat × Nat)
    (put : Group → List (Nat × Nat) → Group) : Except Stop State := do
  let lanes := fun ls : List (Nat × List Piece) => atomOrder fl.seed f (ls.map (fun l =>
    let ga := (e.g.regs.laneAddr m l.1).toNat
    atomLane ops e.g.regs l.1 ga (match l.2.head? with
      | some ⟨_, _, .scr tid off, _⟩ => .scr tid off
      | some p => .glob p.va
      | none => .glob ga) l.2))
  let rs ← answersOf e fl.tags (f.reqs (lanes fl.places)) (.park s (.reply fl))
  let (s1, ls) ← landAll s e fl .atomic (fun _ => none)
  let ord := lanes ls
  let recs := if e.isReplay then (atomTurns s e f ord).filterMap (fun t => match t.2 with | .go r => some r | _ => none) else []
  let rest := (lanesOf (take &&& ~~~fl.done)).filter (fun l => !fl.places.any (fun p => p.1 == l))
  atomGo s1 e f take fl.done fl.seed ⟨ord, recs, rest, if rest.isEmpty then none else some .turn⟩ rs ls put

/-- An atomic or a reduction by the lanes that take part (R251, R255): checks in order, queued contributions staged, the rest
performed; `ops` gives a lane's operand and compare value, `put` the group with the old values. [DESIGN CHOICE, log 105] -/
def State.atomics (s : State) (g : Pred) (m : LaneMem) (f : AtomForm) (ops : Regs → Nat → Nat × Nat)
    (put : Group → List (Nat × Nat) → Group) : Out :=
  s.run (fun e =>
    let t := e.taking g
    if t = 0 then .ok (s.retire e e.g)
    else match e.flight? with
    | some fl => atomLand s e f t fl m ops put
    | none => do
      let addrs := (lanesOf t).map (fun l => (l, (e.g.regs.laneAddr m l).toNat))
      let as ← steerAll s e .atomic f.bytes addrs
      checkAligned f.bytes as
      atomDet e f as
      let (s1, ps) ← xlateAll s e .atomic f.bytes as
      let ls : List AtomLane := (as.zip ps).map (fun z => atomLane ops e.g.regs z.1.lane z.1.ga z.1.loc z.2.2)
      atomHost f ls
      checkPresent s s1 (ps.flatMap (·.2))
      let q := ls.filter (fun a => f.queued e a)
      let s2 ← if q = [] then pure s1 else stageAll s s1 e (q.map (f.contribution e))
      atomStart s s2 e f t (ls.filter (fun a => !f.queued e a)) ps put)

/-- The operand and compare value of an ATOM (R249). -/
def atomOperand (d : VReg) (o : AtomOp) (s64 : Bool) (r : Regs) (l : Nat) : Nat × Nat :=
  if o = .cas then
    (if s64 then ((r.getV2 (d.val + 2) l).toNat, (r.getV2 d.val l).toNat)
     else ((r.getV (d.val + 1) l).toNat, (r.getV d.val l).toNat))
  else if s64 then ((r.getV2 d.val l).toNat, 0) else ((r.getV d.val l).toNat, 0)

/-- The group with the old values in the destinations of their lanes (R249). -/
def atomResult (d : VReg) (s64 : Bool) (g : Group) (olds : List (Nat × Nat)) : Group :=
  (g.wrote d.val (if s64 then 2 else 1)).withRegs (olds.foldl (fun r o =>
    if s64 then r.setV2 d.val o.1 (BitVec.ofNat 64 o.2) else r.setV d.val o.1 (BitVec.ofNat 32 o.2)) g.regs)

/-- The operand of a RED; a uniform register is broadcast (R249). -/
def redOperand (d : Src) (s64 : Bool) (r : Regs) (l : Nat) : Nat × Nat :=
  if s64 then ((r.src2 d l).toNat, 0) else ((r.src d l).toNat, 0)

/-- ATOM.O (R248 to R255). -/
def execAtomO (g : Pred) (d : VReg) (m : LaneMem) (sc : Scope) (o : AtomOp) (s64 : Bool) (s : State) : Out :=
  s.atomics g m ⟨true, true, sc, o, s64⟩ (atomOperand d o s64) (atomResult d s64)

/-- ATOM.U (R248 to R255). -/
def execAtomU (g : Pred) (d : VReg) (m : LaneMem) (sc : Scope) (o : AtomOp) (s64 : Bool) (s : State) : Out :=
  s.atomics g m ⟨true, false, sc, o, s64⟩ (atomOperand d o s64) (atomResult d s64)

/-- RED.O (R248 to R257). -/
def execRedO (g : Pred) (d : Src) (m : LaneMem) (sc : Scope) (o : AtomOp) (s64 : Bool) (s : State) : Out :=
  s.atomics g m ⟨false, true, sc, o, s64⟩ (redOperand d s64) (fun g _ => g)

/-- RED.U (R248 to R255). -/
def execRedU (g : Pred) (d : Src) (m : LaneMem) (sc : Scope) (o : AtomOp) (s64 : Bool) (s : State) : Out :=
  s.atomics g m ⟨false, false, sc, o, s64⟩ (redOperand d s64) (fun g _ => g)

end Sys2Proof.Machine
end

