-- ==== Sys2Proof/Machine/Bar.lean ====
section
/-! DEFINITION. Barrier objects and buffer-table entries as they lie in scratchpads (R121, R123, R127, R128). -/

namespace Sys2Proof.Machine

/-- Bits hi to lo of a number replaced. -/
def putFld (x hi lo v : Nat) : Nat :=
  x - fld x hi lo * 2 ^ lo + v % 2 ^ (hi + 1 - lo) * 2 ^ lo

/-- Bytes of a team's scratchpad. -/
def State.scrRead (s : State) (tid off n : Nat) : List Byte :=
  match s.team? tid with
  | none => List.replicate n 0
  | some t => readB t.scratch off n

/-! ## Barrier objects (R127, R128) -/

namespace Bar

def expect (o : Nat) : Nat := fld o 39 30
def arrived (o : Nat) : Nat := fld o 29 20
def phase (o : Nat) : Nat := fld o 19 16
def err (o : Nat) : Bool := fld o 15 15 == 1
/-- BYTES, signed. -/
def bytes (o : Nat) : Int := sx 32 (fld o 127 96)

/-- Complete (R128). -/
def complete (o : Nat) : Nat :=
  if !err o && arrived o == expect o && bytes o == 0 then putFld (putFld o 19 16 (phase o + 1)) 29 20 0 else o

/-- BYTES less a landed count, then Complete (R128). [DEDUCED, log 72] -/
def land (o n : Nat) : Nat := complete (putFld o 127 96 (wrap 32 (bytes o - (n : Int))))

end Bar

/-- The object at an offset of a team's scratchpad. -/
def State.barGet (s : State) (tid off : Nat) : Nat := leNat (s.scrRead tid off 16)

/-- The outcome of a BWAIT's check of an object: false on a broken object, true in another phase, none while it waits
(R131). [DESIGN CHOICE, log 17] -/
def barCheck (o p : Nat) : Option Bool :=
  if Bar.err o then some false else if Bar.phase o ≠ p then some true else none

/-- What an object's new value means to a group that waits there in a phase, by its mode: it is due in another phase, or false on a
broken object but for a replay, which waits for the other phase that its record tells of; a DET team looks at its steps alone
(R131, R356, R363). -/
def barDue (mode o p : Nat) : Option Due :=
  if mode = 1 then none
  else if mode = 3 then (if Bar.phase o ≠ p then some (.phase true) else none)
  else (barCheck o p).map .phase

/-- The groups that wait at an object learn of its new value at once (R131). [DEDUCED, log 76] -/
def State.wakeBar (s : State) (tid off o : Nat) : State :=
  { s with groups := s.groups.map (fun g => match g.park with
      | some ⟨.bwait _ _ t f p, _⟩ =>
        if t = tid ∧ f = off ∧ g.stop.isNone ∧ g.due.isNone then { g with due := barDue (s.modeOf (g.gid / 32)) o p } else g
      | _ => g) }

/-- Set it, and tell those who wait there. -/
def State.barPut (s : State) (tid off o : Nat) : State := (s.scrStore tid off (leBytes 16 o)).wakeBar tid off o

/-! ## Buffer-table entries (R121, R123) -/

namespace Buf

def state (x : Nat) : Nat := fld x 1 0
def err (x : Nat) : Nat := fld x 2 2

/-- An entry from its fields. -/
def mk (seq slot off lines st : Nat) (err : Nat) : Nat :=
  seq % 65536 * 2 ^ 40 + slot % 256 * 2 ^ 32 + off % 2 ^ 18 * 2 ^ 14 + lines % 2048 * 8 + err * 4 + st

/-- The entry with another state. -/
def withState (x st : Nat) : Nat := putFld x 1 0 st

end Buf

/-- The address of handle h's entry in a scratchpad of a size (R121). -/
def bufAddr (size h : Nat) : Nat := size - 512 + 8 * h

/-- A buffer-table entry of a team. -/
def State.bufGet (s : State) (t : Team) (h : Nat) : Nat := leNat (s.scrRead t.tid (bufAddr (s.scratchSize t) h) 8)

/-- Set it. -/
def State.bufPut (s : State) (t : Team) (h x : Nat) : State :=
  s.scrStore t.tid (bufAddr (s.scratchSize t) h) (leBytes 8 x)

/-! ## Waits on a handle (R122) -/

/-- What a group that has not been stopped waits for at a handle, and since when. -/
def Group.atHandle (g : Group) (h : Nat) : Option (HandleWait × Nat) :=
  match g.park with
  | some ⟨.handle k w, since⟩ => if k = h ∧ g.stop.isNone ∧ g.due.isNone then some (w, since) else none
  | _ => none

/-- Of the groups of a team that wait at a handle for one of some things, the one that has waited longest, by group number among
equals. -/
def handleWaiter (s : State) (tid h : Nat) (f : HandleWait → Bool) : Option (Group × HandleWait) :=
  let ws := (s.groupsOf tid).filterMap (fun g => match g.atHandle h with
    | some (w, since) => if f w then some (g, w, since) else none
    | none => none)
  match ws with
  | [] => none
  | w :: t => (fun (b : Group × HandleWait × Nat) => some (b.1, b.2.1)) (t.foldl (fun b w =>
      if w.2.2 < b.2.2 || (w.2.2 == b.2.2 && decide (w.1.gid < b.1.gid)) then w else b) w)

/-- A group's wait at a handle is over and its instruction completes, with a value for its register or none. -/
def State.passHandle (s : State) (t : Team) (g : Group) (d : Option (Nat × Nat)) : State :=
  let r := match d with
    | some (j, x) => g.regs.setK j (BitVec.ofNat 32 x)
    | none => g.regs
  ((s.setGroup ({ g with regs := r, latch := none }.complete g.atPc 4)).stepEnds g).countRetired t.ctx g

/-- The waits on a handle are tested after an operation on it: every BUFWAIT whose state is met returns, then the first BUFGET takes a
FULL handle, which is an operation again, and the first copy that waits to fill a FREE one makes it FILLING. The fuel bounds the groups.
[DEDUCED, log 72] -/
def State.testHandle (s : State) (tid h : Nat) : Nat → State
  | 0 => s
  | f + 1 => match s.team? tid with
    | none => s
    | some t =>
      let x := s.bufGet t h
      match handleWaiter s tid h (· == .state (Buf.state x)) with
      | some (g, _) => (s.passHandle t g none).testHandle tid h f
      | none =>
        if Buf.state x = 0 then match handleWaiter s tid h (· == .fill) with
          | some (g, _) =>
            ((s.bufPut t h (Buf.withState x 1)).modGroup g.gid (fun k => { k with due := some (.fill h) })).testHandle tid h f
          | none => s
        else if Buf.state x ≠ 2 then s
        else match handleWaiter s tid h (fun w => match w with | .get _ => true | _ => false) with
          | some (g, .get d) =>
            ((s.bufPut t h (Buf.withState x 3)).passHandle t g (some (d, Buf.withState x 3))).testHandle tid h f
          | _ => s

/-- An operation on a handle sets its entry, and the waits on it are tested (R122). -/
def State.bufOp (s : State) (t : Team) (h x : Nat) : State :=
  (s.bufPut t h x).testHandle t.tid h ((s.groupsOf t.tid).length + 1)

end Sys2Proof.Machine
end

