-- ==== Sys2Proof/Machine/Own.lean ====
section
/-! DEFINITION. Accesses of the part's own, with no group behind them (R420): the save area, the overflow region, completion
counters, drains and releases. They are translated for a team's spur, and the PRIV bit, which speaks of groups, does not
bar them. -/

namespace Sys2Proof.Machine

/-- How such an access fails: a class R cause with its address, a cause that ends it with address and physical address, a request to
a place that is not local, whose answer it needs, or a crest page that is not open yet (R60). -/
inductive OwnErr where
  | fault (cause va : Nat)
  | bad (cause va pa : Nat)
  | ask (r : Req)
  | held
  deriving DecidableEq, Repr

/-- The failure that a translation error is. [DEDUCED, log 31] -/
def ownErr (va : Nat) : XStop → OwnErr
  | .pool => .fault 20 va
  | .x .held => .held
  | .x (.absent _) | .x (.prot _) => .fault 9 va
  | .x (.bad _) => .bad 8 va 0
  | .x (.lost _ pa) => .bad 10 va (pa / 32 * 32)

/-! ## Requests to places that are not local -/

/-- The state in which an act of the part uses the answers it has (R57, R420). -/
def State.withAsks (s : State) (key : Nat) : State :=
  { s with ownIn := match getT s.asks key with
    | some k => k.got
    | none => [] }

/-- The act is done with its answers. -/
def State.doneAsks (s : State) (key : Nat) : State := { s with ownIn := [], asks := delT s.asks key }.grantAll

/-- An answer for an act of the part. -/
def State.answerAsk (s : State) (key : Nat) (r : Reply) : State :=
  let k := (getT s.asks key).getD ⟨none, [], []⟩
  { s with asks := setT s.asks key { k with tag := none, got := k.got ++ [r] } }

/-- An act of the part at a massif sends its next request, unless one is under way; one that no target can answer is answered at
once. [DEDUCED, log 30] -/
def State.ask (s : State) (massif key : Nat) (r : Req) : State :=
  let k := (getT s.asks key).getD ⟨none, [], []⟩
  if k.tag.isSome then s
  else match atOnce s r.tgt r.chip with
    | some st => s.answerAsk key ⟨st, []⟩
    | none =>
      let (s1, n) := s.sendOne (r.remote s 0 none (some key) (ownSrc massif))
      { s1 with asks := setT s1.asks key { k with tag := some n } }

/-- The cause of a failed reply: ABSENT raises BAD_LEAF, everything else DATA_LOST (R386, R397). [DEDUCED, log 31] -/
def replyCause (st : ReplyStatus) : Nat := if st = .absent then 8 else 10

/-- The answers to requests of an act, in order; one that is not in hand is asked for, and a failed one fails the access
(R386, R397). [DEDUCED, log 30; DEDUCED, log 31] -/
def ownAsk (s : State) : List Req → Except OwnErr (State × List Reply)
  | [] => .ok (s, [])
  | r :: t =>
    match s.ownIn with
    | [] => .error (.ask r)
    | p :: q =>
      if p.status = .ok then do
        let (s1, ps) ← ownAsk { s with ownIn := q } t
        pure (s1, p :: ps)
      else .error (.bad (replyCause p.status) r.va (r.pa / 32 * 32))

/-! ## Accesses -/

/-- The atom of a local place, as a record names it. -/
def placeAtom : Phys → Nat
  | .loc pa => pa / 32 * 32
  | _ => 0

/-- The places of a run of chunks for an act that uses the base die of a massif, translated in ascending order; a place that names no
location fails with ABSENT. [DEDUCED, log 30; DEDUCED, log 31] -/
def ownPlaces (s : State) (massif c : Nat) (spur : Option Word) (acc : Acc) :
    List (Nat × Nat) → Except OwnErr (State × List Piece)
  | [] => .ok (s, [])
  | (va, n) :: t =>
    if 2 ^ 57 < va + n then .error (.bad 8 va 0)
    else match xlate s c (.die massif) spur true acc va with
      | .error x => .error (ownErr va x)
      | .ok (s1, p, leaf) =>
        if (match p with | .loc pa => isHeld s1 pa | _ => false) then .error .held
        else if (match p with | .loc pa => !localExists s1 pa | _ => false) then .error (.bad 27 va (placeAtom p))
        else do
          let (s2, ps) ← ownPlaces s1 massif c spur acc t
          pure (s2, ⟨va, n, p, leaf⟩ :: ps)

/-- The chunks of a long run, each in one 64 KiB page; the fuel bounds their number. -/
def pageRuns : Nat → Nat → Nat → List (Nat × Nat)
  | 0, _, _ => []
  | _ + 1, _, 0 => []
  | f + 1, a, n + 1 =>
    let m := min (n + 1) (65536 - a % 65536)
    (a, m) :: pageRuns f (a + m) (n + 1 - m)

/-- Bytes written by the part at a virtual address. -/
def ownWrite (s : State) (massif c : Nat) (spur : Option Word) (va : Nat) (bs : List Byte) : Except OwnErr State := do
  let (s1, ps) ← ownPlaces s massif c spur .write (pageRuns (bs.length / 65536 + 2) va bs.length)
  let part := fun p : Piece => (bs.drop (p.va - va)).take p.n
  let (s2, _) ← ownAsk s1 (ps.flatMap (fun p => writeReqs p (part p)))
  let ws := ps.flatMap (fun p => match p.at_ with
    | .loc pa => spread pa (part p)
    | _ => [])
  match partLost s2 ws with
  | some pa => .error (.bad 10 va pa)
  | none => pure (((s2.clearLost ws).storeAll ws).dieMet c true ps)

/-- The bytes of a place, from the answers where it is not local, and the answers left. -/
def ownBytes (s : State) : List Piece → List Reply → List Byte
  | [], _ => []
  | p :: t, rs =>
    match p.at_ with
    | .loc pa => s.loadRun pa p.n ++ ownBytes s t rs
    | .rem _ _ _ => (remoteBytes p rs).1 ++ ownBytes s t (remoteBytes p rs).2
    | _ => List.replicate p.n 0 ++ ownBytes s t rs

/-- The lost atom that a place meets, as its virtual and physical addresses. -/
def pieceLost (s : State) (p : Piece) : Option (Nat × Nat) :=
  match p.at_ with
  | .loc pa => (localErr s (isLost s) pa p.n).map (fun x => (p.va, x.2))
  | _ => none

/-- Bytes read by the part at a virtual address. -/
def ownRead (s : State) (massif c : Nat) (spur : Option Word) (va n : Nat) : Except OwnErr (State × List Byte) := do
  let (s1, ps) ← ownPlaces s massif c spur .read (pageRuns (n / 65536 + 2) va n)
  let (s2, rs) ← ownAsk s1 (ps.flatMap readReqs)
  match ps.findSome? (pieceLost s2) with
  | some (a, pa) => .error (.bad 10 a pa)
  | none => pure (s2.dieMet c false ps, ownBytes s2 ps rs)

end Sys2Proof.Machine
end

