-- ==== Sys2Proof/Machine/Job.lean ====
section
/-! DEFINITION. Copy engines: the items of a job and where their bytes come from and go, the dependence tracker, service of an
item, failures, and completion (R107 to R115, R119, R120, R133, R233). -/

namespace Sys2Proof.Machine

/-! ## Finding and setting -/

def State.job? (s : State) (id : Nat) : Option Job := s.jobs.find? (fun j => j.id == id)

/-- Replace a job by number. -/
def State.setJob (s : State) (j : Job) : State := { s with jobs := s.jobs.map (fun k => if k.id = j.id then j else k) }

/-- Change a job, when it exists. -/
def State.modJob (s : State) (id : Nat) (f : Job → Job) : State :=
  { s with jobs := s.jobs.map (fun k => if k.id = id then f k else k) }

/-- SIG of a control word (R111). -/
def ctlSig (c : Word) : Nat := c.toNat / 2 ^ 26 % 4

/-- TARGET of a control word (R111). -/
def ctlTarget (c : Word) : Nat := c.toNat % 2 ^ 18

/-! ## Items (R107) -/

/-- The destination's first byte within its space. -/
def JobDst.base : JobDst → Nat
  | .glob va => va
  | .teams _ off => off
  | .obuf _ off base => base + off

/-- Destination lines of one receiver. -/
def lineCount (base size : Nat) : Nat := if size = 0 then 0 else (base % 128 + size + 127) / 128

/-- Receivers of a job. -/
def JobDst.receivers : JobDst → Nat
  | .teams tids _ => tids.length
  | _ => 1

/-- The number of items of a job. -/
def itemCount (d : JobDst) (size : Nat) : Nat := lineCount d.base size * d.receivers

/-- The bytes of the job that an item moves: offset and length. -/
def Job.range (j : Job) (item : Nat) : Nat × Nat :=
  let k := item % lineCount j.dst.base j.size
  let lo := 128 * k - j.dst.base % 128
  (lo, min j.size (128 * (k + 1) - j.dst.base % 128) - lo)

/-! ## Sources (R120) -/

/-- A field of a shape record (R125). -/
def shapeField (sh : List Byte) (off n : Nat) : Nat := fieldB sh off n

/-- Element size E. -/
def shapeE (sh : List Byte) : Nat := 2 ^ shapeField sh 8 1

def shapeExtent (sh : List Byte) (j : Nat) : Nat := shapeField sh (16 + 4 * j) 4

/-- STRIDE j, for j from 1 to 3. -/
def shapeStride (sh : List Byte) (j : Nat) : Nat := shapeField sh (24 + 8 * j) 8

def shapeBox (sh : List Byte) (j : Nat) : Nat := shapeField sh (56 + 2 * j) 2

/-- OOB (R125): 1 fails the item. -/
def shapeOob (sh : List Byte) : Bool := shapeField sh 10 1 == 1

/-- A place further on by a number of bytes. -/
def Loc.plus : Loc → Nat → Loc
  | .glob va, d => .glob (va + d)
  | .scr t off, d => .scr t (off + d)

/-- The byte offset from BASE of an element in the extents, by its coordinates; none outside them. -/
def elemOff (sh : List Byte) (cs : List Int) : Option Nat :=
  if (List.range 4).all (fun j => decide (0 ≤ cs.getD j 0) && decide ((cs.getD j 0).toNat < shapeExtent sh j)) then
    some ((cs.getD 0 0).toNat * shapeE sh +
      ((List.range 3).map (fun i => (cs.getD (i + 1) 0).toNat * shapeStride sh (i + 1))).sum)
  else none

/-- Coordinates of element n of a packed box at an origin, dimension 0 fastest. -/
def boxCoords (b0 b1 b2 n : Nat) (c0 c1 c2 c3 : Int) : List Int :=
  [c0 + ((n % b0 : Nat) : Int), c1 + ((n / b0 % b1 : Nat) : Int), c2 + ((n / b0 / b1 % b2 : Nat) : Int),
    c3 + ((n / b0 / b1 / b2 : Nat) : Int)]

/-- A run of source bytes: where it lies, none for an element outside the extents, and its length. -/
abbrev SrcRun := Option Loc × Nat

/-- A run added before others, joined to the first of them when they adjoin. -/
def joinRun (r : SrcRun) : List SrcRun → List SrcRun
  | [] => [r]
  | q :: t =>
    match r.1, q.1 with
    | some a, some b => if a.plus r.2 = b then (some a, r.2 + q.2) :: t else r :: q :: t
    | none, none => (none, r.2 + q.2) :: t
    | _, _ => r :: q :: t

/-- The source of element n of a box or of a row list, as a place and E. -/
def elemRun (src : JobSrc) (n : Nat) : SrcRun :=
  match src with
  | .run l => (some (l.plus n), 1)
  | .box l sh c0 c1 c2 c3 =>
    ((elemOff sh (boxCoords (shapeBox sh 0) (shapeBox sh 1) (shapeBox sh 2) n c0 c1 c2 c3)).map l.plus, shapeE sh)
  | .rows l sh ix =>
    let i := ix.getD (n / shapeExtent sh 0) 0
    (if i < shapeExtent sh 1 then some (l.plus (i * shapeStride sh 1 + n % shapeExtent sh 0 * shapeE sh)) else none, shapeE sh)

/-- The runs of source bytes from offset lo of the job, n bytes. -/
def JobSrc.runs (src : JobSrc) (lo n : Nat) : List SrcRun :=
  match src with
  | .run l => [(some (l.plus lo), n)]
  | .box _ sh _ _ _ _ | .rows _ sh _ =>
    ((List.range (n / shapeE sh)).map (fun i => elemRun src (lo / shapeE sh + i))).foldr joinRun []

/-- An element outside the extents fails its item (R120). -/
def JobSrc.oobFails : JobSrc → Bool
  | .run _ => false
  | .box _ sh _ _ _ _ => shapeOob sh
  | .rows _ sh _ => shapeOob sh

/-! ## Footprints (R110) -/

/-- A range of a footprint: 0 global, or 1 + 2 × team for its scratchpad, 2 + 2 × team for its operand buffer; the first byte,
the end, and whether it is written. -/
structure Foot where
  space : Nat
  lo    : Nat
  hi    : Nat
  wr    : Bool
  deriving DecidableEq, Repr

/-- The footprint of a place. -/
def Loc.foot (l : Loc) (a b : Nat) (wr : Bool) : Foot :=
  match l with
  | .glob va => ⟨0, va + a, va + b, wr⟩
  | .scr t off => ⟨1 + 2 * t, off + a, off + b, wr⟩

/-- The in-extent bounds of one dimension of a box: first and last coordinate; none when it misses the extent. -/
def dimBounds (sh : List Byte) (j : Nat) (c : Int) : Option (Nat × Nat) :=
  let lo := max c 0
  let hi := min (c + shapeBox sh j) (shapeExtent sh j) - 1
  if lo ≤ hi then some (lo.toNat, hi.toNat) else none

/-- The bounding range of a box from BASE: first byte and end, of its part within the extents; none when no element lies in them (R120).
[DEDUCED, log 70] -/
def boxBounds (sh : List Byte) (c0 c1 c2 c3 : Int) : Option (Nat × Nat) := do
  let d0 ← dimBounds sh 0 c0
  let d1 ← dimBounds sh 1 c1
  let d2 ← dimBounds sh 2 c2
  let d3 ← dimBounds sh 3 c3
  pure (d0.1 * shapeE sh + d1.1 * shapeStride sh 1 + d2.1 * shapeStride sh 2 + d3.1 * shapeStride sh 3,
    (d0.2 + 1) * shapeE sh + d1.2 * shapeStride sh 1 + d2.2 * shapeStride sh 2 + d3.2 * shapeStride sh 3)

/-- The declared source of a job (R110, R120). -/
def JobSrc.feet (src : JobSrc) (size : Nat) : List Foot :=
  if size = 0 then []
  else match src with
    | .run l => [l.foot 0 size false]
    | .box l sh c0 c1 c2 c3 => (match boxBounds sh c0 c1 c2 c3 with | some (a, b) => [l.foot a b false] | none => [])
    | .rows l sh _ => [l.foot 0 (shapeExtent sh 1 * shapeStride sh 1) false]

/-- The declared destination of a job. -/
def JobDst.feet (d : JobDst) (tid size : Nat) : List Foot :=
  if size = 0 then []
  else match d with
    | .glob va => [⟨0, va, va + size, true⟩]
    | .teams ts off => ts.map (fun t => ⟨1 + 2 * t, off, off + size, true⟩)
    | .obuf _ off base => [⟨2 + 2 * tid, base + off, base + off + size, true⟩]

def Job.feet (j : Job) : List Foot := j.src.feet j.size ++ j.dst.feet j.tid j.size

/-- Two ranges meet at 128-byte granularity, one of them written. -/
def Foot.conflicts (a b : Foot) : Bool :=
  a.space == b.space && (a.wr || b.wr) && decide (a.lo / 128 ≤ (b.hi - 1) / 128) && decide (b.lo / 128 ≤ (a.hi - 1) / 128)

/-- Two jobs conflict (R110). -/
def Job.conflicts (a b : Job) : Bool := a.feet.any (fun x => b.feet.any (fun y => x.conflicts y))

/-- Where a job can read: its declared source, and for rows longer than their stride what lies beyond it (R119, R120). -/
def JobSrc.reach (src : JobSrc) (size : Nat) : List Foot :=
  match src with
  | .rows l sh _ => l.foot 0 ((shapeExtent sh 1 - 1) * shapeStride sh 1 + shapeExtent sh 0 * shapeE sh) false :: src.feet size
  | _ => src.feet size

/-- The job's own destination overlaps its source, so that its source is read first (R119). -/
def Job.overlaps (j : Job) : Bool :=
  (j.src.reach j.size).any (fun x => (j.dst.feet j.tid j.size).any (fun y => x.conflicts y))

/-! ## Failures (R115) -/

/-- A copy-failure record (R339): the job's ticket, the item's address and cause. For an OBLD it names the reservation id and
the offset (R233). [DEDUCED, log 73] -/
def failRec (j : Job) (dest : Bool) (cause va pa : Nat) (off : Nat) : TrapRec :=
  { kind := 4, cause := cause, group := 0, lane := dest.toNat * 32, team := BitVec.ofNat 32 j.team,
    a := (match j.dst with | .obuf r _ _ => BitVec.ofNat 32 r | _ => j.ticket), grid := BitVec.ofNat 32 j.serial,
    b := (match j.dst with | .obuf _ o _ => BitVec.ofNat 64 (o + off) | _ => BitVec.ofNat 64 va),
    c := BitVec.ofNat 64 pa }

/-- The replayable record of an item (R115, R339); A holds the number that an OBLD job has in the place of a ticket. [DEDUCED, log 73] -/
def itemRec (j : Job) (cause va : Nat) : TrapRec :=
  { kind := 2, cause := cause, group := 0, lane := 0, team := BitVec.ofNat 32 j.team, a := j.ticket,
    grid := BitVec.ofNat 32 j.serial, b := BitVec.ofNat 64 va,
    c := if cause = 20 then j.spur.setWidth 64 else 0 }

/-- How an item's access ends. -/
inductive ItemErr where
  /-- The item fails: on the destination's side, cause, address, physical address. -/
  | fail (dest : Bool) (cause va pa : Nat)
  /-- The item waits for the replay of a record: cause and address. -/
  | fault (cause va : Nat)
  /-- The item waits for replies, or for a crest page to open (R60). -/
  | waits (s : State)
  deriving DecidableEq, Repr

/-- The failure of a translation for an item. -/
def itemErr (s : State) (dest : Bool) (va : Nat) : XStop → ItemErr
  | .x .held => .waits s
  | .pool => .fault 20 va
  | .x (.absent _) | .x (.prot _) => .fault 9 va
  | .x (.bad _) => .fail dest 8 va 0
  | .x (.lost _ pa) => .fail dest 10 va (pa / 32 * 32)

/-- The pieces of a global run, translated for a job through its massif's base die (R88). [DEDUCED, log 69] -/
def jobPieces (s : State) (j : Job) (acc : Acc) : List (Nat × Nat) → Except ItemErr (State × List Piece)
  | [] => .ok (s, [])
  | (va, n) :: t =>
    if 2 ^ 57 < va + n then .error (.fail acc.writes 8 va 0)
    else match xlate s j.ctx (.die (massifOf j.column)) (some j.spur) j.priv acc va with
      | .error x => .error (itemErr s acc.writes va x)
      | .ok (s1, p, leaf) =>
        if (match p with | .loc pa => isHeld s1 pa | _ => false) then .error (.waits s)
        else do
          let (s2, ps) ← jobPieces s1 j acc t
          pure (s2, ⟨va, n, p, leaf⟩ :: ps)

/-- The engine of a massif that carries out a job (R107). -/
def Job.engine (j : Job) : Nat := Config.engineHash j.column % 32

/-- The answers to an item's requests, which a failed one ends. -/
def itemAnswers (dest : Bool) (rs : List Req) (got : List Reply) : Except ItemErr (List Reply) :=
  match (got.zip rs).findSome? (fun p => if p.1.status = .ok then none else some p) with
  | some p => .error (.fail dest (replyCause p.1.status) p.2.va (p.2.pa / 32 * 32))
  | none => .ok got

/-- The replies of an item's non-local requests: sent first, then awaited; any failed one fails the item. -/
def jobRemote (s : State) (j : Job) (item : Nat) (dest : Bool) (rs : List Req) : Except ItemErr (List Reply) :=
  if rs = [] then .ok []
  else match getT j.tags item with
    | some ts =>
      let got := ts.filterMap (fun t => getT j.replies t)
      if got.length ≠ ts.length then .error (.waits s) else itemAnswers dest rs got
    | none => match rs.findSome? (fun r => (atOnce s r.tgt r.chip).map (fun st => (st, r))) with
      | some (st, r) => .error (.fail dest (replyCause st) r.va (r.pa / 32 * 32))
      | none =>
        let (s1, ts) := s.send j.gid (some (j.id, item)) (engineSrc (massifOf j.column) j.engine) rs
        .error (.waits (s1.modJob j.id (fun k => { k with tags := setT k.tags item ts })))

/-- A local piece that cannot be read; the failure names where the item's run that holds it begins (R115). -/
def readErr (s : State) (runs ps : List Piece) : Option ItemErr :=
  ps.findSome? (fun p => match p.at_ with
    | .loc pa => (localErr s (isLost s) pa p.n).map (fun x => ItemErr.fail false (if x.1 then 10 else 27)
        ((runs.find? (fun q => q.at_ != .zero && decide (q.va ≤ p.va) && decide (p.va < q.va + q.n))).getD p).va (x.2 / 32 * 32))
    | _ => none)

/-- The bytes of a piece without staged stores: what an engine reads. -/
def rawBytes (s : State) (p : Piece) : List Byte :=
  match p.at_ with
  | .loc pa => s.loadRun pa p.n
  | .scr tid off => s.scrRead tid off p.n
  | .got bs => bs
  | _ => List.replicate p.n 0

/-- The bytes of pieces in order, non-local ones from replies. -/
def jobBytes (s : State) : List Piece → List Reply → List Byte
  | [], _ => []
  | p :: t, rs =>
    match p.at_ with
    | .rem _ _ _ => (remoteBytes p rs).1 ++ jobBytes s t (remoteBytes p rs).2
    | _ => rawBytes s p ++ jobBytes s t rs

/-- The pieces of an item's source; a run outside the extents is zeros, and the scratchpad of a team that is gone is lost to a copy,
which is reported (R28, R136). [DEDUCED, log 69] -/
def srcPieces (s : State) (j : Job) : List SrcRun → Except ItemErr (State × List Piece)
  | [] => .ok (s, [])
  | (none, n) :: t => do
    let (s1, ps) ← srcPieces s j t
    pure (s1, ⟨0, n, .zero, ⟨0, 0⟩⟩ :: ps)
  | (some (.scr tid off), n) :: t =>
    if (s.team? tid).isNone then .error (.fail false 28 0 0)
    else do
      let (s1, ps) ← srcPieces s j t
      pure (s1, ⟨off, n, .scr tid off, ⟨0, 0⟩⟩ :: ps)
  | (some (.glob va), n) :: t => do
    let (s1, a) ← jobPieces s j .read (pageRuns 3 va n)
    let (s2, ps) ← srcPieces s1 j t
    pure (s2, a ++ ps)

/-- The side and address that a failure names where no access of the item failed (R115, R339): a global destination's, else
the source's. [DESIGN CHOICE, log 71] -/
def Job.itemAddr (j : Job) (item : Nat) : Bool × Nat :=
  match j.dst with
  | .glob va => (true, va + (j.range item).1)
  | _ => match (j.src.runs (j.range item).1 (j.range item).2).findSome? (fun (r : Option Loc × Nat) => r.1) with
    | some (.glob va) => (false, va)
    | _ => (false, 0)

/-- A failure with no access behind it. -/
def Job.failAt (j : Job) (item cause : Nat) : ItemErr := .fail (j.itemAddr item).1 cause (j.itemAddr item).2 0

/-- Two pieces of an item lie in one atom. -/
def Piece.sharesAtom (p q : Piece) : Bool :=
  match p.at_, q.at_ with
  | .loc a, .loc b => a / 32 == b / 32
  | .scr t a, .scr u b => t == u && a / 32 == b / 32
  | _, _ => false

/-- The places in an item of its pieces' bytes. -/
def placed : Nat → List Piece → List (Nat × Piece)
  | _, [] => []
  | k, p :: t => (k, p) :: placed (k + p.n) t

/-- The pieces that a service of an item reads now, by place in the item: all that are not read yet, or those that the move names with what
shares their atoms, since an item reads an atom once (R276). -/
def State.readsNow (s : State) (j : Job) (item : Nat) (qs : List (Nat × Piece)) : List (Nat × Piece) :=
  let left := qs.filter (fun q => q.2.isHere && !j.got.any (fun x => x.1 == item && x.2.1 == q.1))
  match s.part with
  | none => left
  | some p =>
    let named := (left.zipIdx.filter (fun x => p.now.contains x.2)).map (·.1)
    left.filter (fun q => named.any (fun x => x.1 == q.1 || x.2.sharesAtom q.2))

/-- What is performed before an engine of the base die reads (R253, R276), and what the reads meet (R106). -/
def State.engineMeets (s : State) (ctx : Nat) (ps : List Piece) : State :=
  (s.landLate (fun x => x.column.isNone && (localRuns ps).any (fun r => x.meets r.1 r.2))).dieMet ctx false ps

/-- The source bytes of an item, once all are read; what a service reads of it stays with the job (R276). -/
def itemRead (s : State) (j : Job) (item : Nat) : Except ItemErr (State × List Byte) :=
  let (lo, n) := j.range item
  let rs := j.src.runs lo n
  if j.src.oobFails && rs.any (fun r => r.1.isNone) then .error (j.failAt item 27)
  else do
    let (s1, ps) ← srcPieces s j rs
    let qs := placed 0 (ps.flatMap (fun p => cutAtoms (p.n / 32 + 1) p))
    let left := qs.filter (fun q => !j.got.any (fun x => x.1 == item && x.2.1 == q.1))
    match readErr s1 ps (left.map (·.2)) with
    | some e => .error e
    | none =>
      let now := s1.readsNow j item qs
      let s2 := s1.engineMeets j.ctx (now.map (·.2))
      let got := (j.got.filter (fun x => x.1 == item)) ++ now.map (fun q => (item, q.1, rawBytes s2 q.2))
      let s3 := s2.modJob j.id (fun k => { k with got := k.got.filter (fun x => x.1 != item) ++ got })
      let far ← jobRemote s3 j item false (ps.flatMap readReqs)
      let full := qs.map (fun q => match got.find? (fun x => x.2.1 == q.1) with
        | some x => { q.2 with at_ := .got x.2.2 }
        | none => q.2)
      if full.any (·.isHere) then .error (.waits s3) else pure (s3, jobBytes s3 full far)

/-! ## Landing (R113, R114, R128) -/

/-- The presence bits that an item's landing sets: its line, unless another outstanding item still writes there (R113). -/
def State.present (s : State) (id item tid line : Nat) : State :=
  let writes := fun (k : Job) (i : Nat) => match k.dst with
    | .teams tids off => tids.getD (i / lineCount off k.size) tid == tid && (off + (k.range i).1) / 128 == line &&
        tids.contains tid
    | _ => false
  if s.jobs.any (fun k => k.items.any (fun i => !(k.id == id && i == item) && writes k i)) then s
  else s.modTeam tid (fun t => { t with absent := t.absent.filter (· != line) })

/-- The teams whose barrier object an item counts at, by the rule of R111. -/
def Job.counters (j : Job) (item : Nat) : List Nat :=
  if ctlSig j.ctl ≠ 2 then []
  else match j.dst with
    | .glob _ => [j.tid]
    | .teams tids off => [tids.getD (item / lineCount off j.size) j.tid]
    | .obuf _ _ _ => []

/-- SCOPE of a control word (R111). -/
def ctlScope (c : Word) : Nat := c.toNat / 2 ^ 23 % 8

/-- The teams at whose scope the writes of a copy are visible when they land, when it is narrower than device: those of its own scope, and
at least the cluster's where a barrier object counts them, since a landing counts once it is visible there (R129, R266). -/
def Job.narrowTeams (j : Job) (s : State) : Option (List Nat) :=
  match (if ctlSig j.ctl = 2 then max 2 (ctlScope j.ctl) else ctlScope j.ctl) with
  | 0 | 1 => some [j.tid]
  | 2 => match s.team? j.tid, s.grid? j.ctx j.serial with
    | some t, some g => some ((s.cluster t (Rec.clsize g.bytes)).map (·.tid))
    | _, _ => some [j.tid]
  | _ => none

/-- Writes of an item that are still to land (R276). -/
def Job.unlanded (j : Job) (item : Nat) (ws : List (Nat × Byte)) : List (Nat × Byte) :=
  ws.filter (fun w => !j.landed.contains (item, w.1 / 32 % 4))

/-- Of these the ones in atoms that the move names, where it names some (R276). -/
def State.namedWrites (s : State) (ws : List (Nat × Byte)) : List (Nat × Byte) :=
  match s.part with
  | some p => ws.filter (fun w => p.now.contains (w.1 / 32 % 4))
  | none => ws

/-- Writes as runs. -/
def joinBytes : List (Nat × Byte) → List (Nat × List Byte)
  | [] => []
  | (a, b) :: t => match joinBytes t with
    | (c, bs) :: r => if c = a + 1 then (a, b :: bs) :: r else (a, [b]) :: (c, bs) :: r
    | [] => [(a, [b])]

/-- Writes of a copy to local memory: one of a scope narrower than device may be visible at that scope alone for now (R276). What is
there of that kind already is performed first. [DESIGN CHOICE, log 105] -/
def State.copyStores (s0 : State) (j : Job) (ws : List (Nat × Byte)) : State :=
  let s := s0.landLate (fun x => ws.any (fun w => x.meets w.1 1))
  match s.part, j.narrowTeams s with
  | some ⟨_, true⟩, some ts =>
    { s with late := s.late ++ (joinBytes ws).map (fun r => (⟨r.1, r.2, none, ts, [j.gid]⟩ : Late)) }
  | _, _ => (s.clearLost ws).storeAll ws

/-- A piece of local memory holds an address. -/
def Piece.holdsByte (p : Piece) (a : Nat) : Bool :=
  match p.at_ with
  | .loc pa => decide (pa ≤ a) && decide (a < pa + p.n)
  | _ => false

/-- An item's bytes written at their destination, and whether all of them are by now (R113, R119, R133, R233, R276). A receiver that is
gone gets nothing, and the item is reported (R28, R115, R136). -/
def itemWrite (s : State) (j : Job) (item : Nat) (bs : List Byte) : Except ItemErr (State × Bool) :=
  let (lo, _) := j.range item
  match j.dst with
  | .teams tids off =>
    let tid := tids.getD (item / lineCount off j.size) j.tid
    if (s.team? tid).isNone then .error (.fail true 28 0 0)
    else .ok ((s.scrStore tid (off + lo) bs).present j.id item tid ((off + lo) / 128), true)
  | .obuf _ off base => .ok (s.modTeam j.tid (fun t => { t with obuf := writeB t.obuf (base + off + lo) bs }), true)
  | .glob va => do
    let (s1, ps) ← jobPieces s j .write (chunks (va + lo) bs.length)
    match ps.findSome? (fun p => match p.at_ with
      | .loc pa => if localExists s1 pa then none else some (p.va, pa)
      | _ => none) with
    | some (a, pa) => .error (.fail true 27 a (pa / 32 * 32))
    | none =>
      let all := localWrites ps bs
      match partLost s1 all with
      | some pa => .error (.fail true 10 ((ps.head?.map (·.va)).getD va) pa)
      | none => do
        let rs := storeReqs [(ps, bs)]
        let _ ← jobRemote s1 j item true rs
        let left := j.unlanded item all
        let now := if rs.isEmpty then s1.namedWrites left else left
        let s2 := (s1.copyStores j now).dieMet j.ctx true (ps.filter (fun p => now.any (fun w => p.holdsByte w.1)))
        if now.length = left.length then pure (s2, true)
        else pure (s2.modJob j.id (fun k => { k with landed := k.landed ++ (now.map (fun w => (item, w.1 / 32 % 4))).eraseDups }), false)

/-! ## Completion (R114, R122) -/

/-- The buffer handle of a job in a team's table changes: f gives its new state from the old, and ERR is set on a failure
(R115, R122). -/
def State.handleTo (s : State) (tid h : Nat) (f : Nat → Nat) (err : Bool) : State :=
  match s.team? tid with
  | none => s
  | some t =>
    let x := s.bufGet t h
    s.bufOp t h (Buf.withState (if err then putFld x 2 2 1 else x) (f (Buf.state x)))

/-- A handle's entry names a drain copy whose source is not yet released. [DEDUCED, log 72] -/
def namesDrain (s : State) (tid h : Nat) : Bool :=
  match s.team? tid with
  | none => false
  | some t => s.jobs.any (fun k => k.tid == tid && k.role == 2 && !k.released && k.ticket.toNat == fld (s.bufGet t h) 55 32)

/-- The groups that wait for an event of a job's copy get its slot as the event leaves it (R135). An OBLD has no ticket. -/
def State.wakeCopy (s : State) (j : Job) (f : CopyEvent → Bool) : State :=
  match j.dst, (s.team? j.tid).bind (fun t => getT t.copies (j.ticket.toNat % 256)) with
  | .obuf _ _ _, _ => s
  | _, none => s
  | _, some k => { s with groups := s.groups.map (fun g => match g.park with
      | some ⟨.cpwait ticket m, _⟩ =>
        if g.gid / 32 = j.tid ∧ ticket = j.ticket ∧ f m ∧ g.stop.isNone ∧ g.due.isNone then { g with due := some (.copy k) } else g
      | _ => g) }

/-- The source of a job has been read: a handle that is DRAINING by a drain copy goes to FREE (R114, R122). [DEDUCED, log 72] -/
def State.release (s : State) (j : Job) : State :=
  let h := ctlTarget j.ctl
  let s1 := (s.modJob j.id (fun k => { k with released := true })).wakeCopy j (· == .rel)
  if j.role = 2 ∧ namesDrain s j.tid h then s1.handleTo j.tid h (fun st => if st = 3 then 0 else st) false
  else s1

/-- A job is complete: a fill's handles go to FULL, a failure sets ERR in its handles, its slot keeps its outcome, and it
leaves its engine (R114, R115, R122, R135). R115 sets ERR for a failed drain copy too, though R123 speaks of fills. [DEDUCED, log 72] -/
def State.finish (s : State) (j : Job) : State :=
  let s1 := if j.released then s else s.release j
  let s2 := if j.role = 1 then
      (match j.dst with
       | .teams tids _ => tids.foldl (fun a t => a.handleTo t (ctlTarget j.ctl) (fun st => if st = 1 then 2 else st) j.failed) s1
       | _ => s1)
    else if j.role = 2 then s1.handleTo j.tid (ctlTarget j.ctl) id j.failed
    else s1
  let s3 := match j.dst with
    | .obuf _ _ _ => s2
    | _ => s2.modTeam j.tid (fun t => { t with
        copies := (match getT t.copies (j.ticket.toNat % 256) with
          | some c => setT t.copies (j.ticket.toNat % 256) { c with busy := false, failed := j.failed, refused := j.refused }
          | none => t.copies) })
  { s3.wakeCopy j (fun _ => true) with jobs := s3.jobs.filter (fun k => k.id != j.id) }.reap

/-- Every remaining item's source has been read. -/
def Job.allRead (j : Job) : Bool := j.items.all (fun i => (getT j.snap i).isSome)

/-- After an item's progress: source released and completion are noticed (R114). -/
def State.settleJob (s : State) (id : Nat) : State :=
  match s.job? id with
  | none => s
  | some j =>
    let s1 := if j.allRead && !j.released then s.release j else s
    if j.items = [] then s1.finish { j with released := j.released || j.allRead } else s1

/-- An item is done: it leaves the job, and counts at a barrier object as landed (R114, R128). -/
def State.itemDone (s : State) (j : Job) (item : Nat) (failed : Bool) : State :=
  let s1 := s.modJob j.id (fun k => { k with
    items := k.items.filter (· != item)
    held := k.held.filter (fun h => h.1 != item)
    snap := delT k.snap item
    tags := delT k.tags item
    landed := k.landed.filter (fun x => x.1 != item)
    got := k.got.filter (fun x => x.1 != item)
    failed := k.failed || failed })
  let s2 := (j.counters item).foldl (fun a t =>
    if (a.team? t).isSome then a.barPut t (ctlTarget j.ctl) (Bar.land (a.barGet t (ctlTarget j.ctl)) (j.range item).2) else a) s1
  s2.settleJob j.id

/-- The grid of a job fails when an item does (R285). -/
def State.jobFails (s : State) (j : Job) : State := s.modGrid j.ctx j.serial (fun g => { g with failed := true })

/-- An item that has been read must wait with its landing: where destination and source overlap, every item is read before any
lands (R119). -/
def Job.landsLater (j : Job) : Bool := j.overlaps && !j.cancel && !j.allRead

/-- The item cannot go on before a record is replayed (R115, R340, R341). One record stands for a page. [DESIGN CHOICE, log 71] -/
def State.itemHeld (s : State) (j : Job) (item cause va : Nat) : State :=
  match j.held.find? (fun h => h.2.2 == va / 65536) with
  | some h => s.modJob j.id (fun k => { k with held := (item, h.2.1, h.2.2) :: k.held })
  | none =>
    if (s.ctx j.ctx).tqRoom then
      let pos := (s.ctx j.ctx).tqPos
      (s.tqPost j.ctx (itemRec j cause va) (some (.item j.id))).modJob j.id
        (fun k => { k with held := (item, pos, va / 65536) :: k.held })
    else s

/-- The zeros of a failed item land at its destination, where they can be written; a destination that faults holds the item as any
other would, unless the item has been given up. Nothing is written for a discarded held copy (R115, R119, R342). [DESIGN CHOICE, log 71] -/
def State.landZeros (s : State) (j : Job) (item : Nat) (gaveUp : Bool) : State :=
  if j.staged then s.itemDone j item true
  else if j.landsLater then s
  else match itemWrite s j item (List.replicate (j.range item).2 0) with
    | .ok (s1, true) => s1.itemDone j item true
    | .ok (s1, false) => s1
    | .error (.waits s1) => s1
    | .error (.fault cause va) => if gaveUp then s.itemDone j item true else s.itemHeld j item cause va
    | .error (.fail _ _ _ _) => s.itemDone j item true

/-- A failed item: a copy-failure record unless it was abandoned, then zeros at its destination (R115, R342). -/
def State.itemFailed (s : State) (j : Job) (item : Nat) (r : Option TrapRec) : State :=
  let s1 := match r with
    | some r => s.tqPost j.ctx r none
    | none => s
  let zeros := List.replicate (j.range item).2 (0 : Byte)
  let f := fun k : Job => { k with
    failed := true, zeroed := item :: k.zeroed, snap := setT k.snap item zeros, tags := delT k.tags item
    got := k.got.filter (fun x => x.1 != item)
    held := k.held.filter (fun h => h.1 != item) }
  ((s1.jobFails j).modJob j.id f).landZeros (f j) item (j.cancel || r.isNone)

/-! ## The events -/

/-- A residency load of the context, started before the job, reads what the job writes (R110, R239). -/
def loadAhead (s : State) (j : Job) : Bool :=
  s.insts.any (fun i => i.loading && i.ctx == j.ctx && decide (i.after ≤ j.id) &&
    (match getT (s.ctx i.ctx).resid i.slot with
     | some r => j.feet.any (fun f => f.conflicts ⟨0, r.layout.base, r.layout.base + r.layout.bytes, false⟩)
     | none => false))

/-- Two jobs are carried out by one engine; an OBLD by the operand fetcher (R107, R233). -/
def Job.sameEngine (a b : Job) : Bool :=
  match a.dst, b.dst with
  | .obuf _ _ _, _ | _, .obuf _ _ _ => false
  | _, _ => massifOf a.column == massifOf b.column && (a.column == b.column || a.engine == b.engine)

/-- A job is among the 64 that its engine holds, which it enters in issue order (R107); a copy that Ridgeline holds keeps its place
(R259). [DEDUCED, log 69] -/
def inEngine (s : State) (j : Job) : Bool := decide (s.jobs.countP (fun k => decide (k.id < j.id) && k.sameEngine j) < 64)

/-- A staged store or a queued reduction of the group that issued a job, from before the job, touches what the job does (R110). -/
def stagedAhead (s : State) (j : Job) : Bool :=
  match s.grid? j.ctx j.serial with
  | none => false
  | some g => g.staged.any (fun r => r.team == j.team && r.group == j.gid % 32 && r.kind != 2 && decide (r.seq.toNat < j.seq.toNat) &&
      j.feet.any (fun f => f.conflicts ⟨0, r.addr.toNat, r.addr.toNat + 8, true⟩))

/-- An OBLD lands in a unit only after every earlier multiply has landed in it or read it (R234). -/
def landsUnder (s : State) (j : Job) : Bool :=
  match j.dst with
  | .obuf _ off base => (holdsOf s j.tid j.gid).any (fun h => h.units.any (fun u =>
      decide (u.1 / 256 ≤ (base + off + j.size - 1) / 256) && decide ((base + off) / 256 ≤ (u.1 + u.2 - 1) / 256)))
  | _ => false

/-- COPY_JOB_START (R107, R110, R263): a job that its engine has room for, and that no earlier conflicting job or load of its context,
no earlier staged work of its group and no Ridgeline hold keeps back. [DEDUCED, log 69] -/
def execCopyJobStart (job : Nat) (s : State) : Out :=
  .next (match s.job? job with
    | none => s
    | some j =>
      if j.started || j.staged || !inEngine s j || loadAhead s j || stagedAhead s j || landsUnder s j ||
          s.jobs.any (fun k => decide (k.id < j.id) && k.ctx == j.ctx && k.conflicts j) then s
      else s.setJob { j with started := true })

/-- The item cannot go on for now: it fails, waits for a record, or waits for replies (R115, R340, R341). -/
def State.itemStop (s : State) (j : Job) (item : Nat) (e : ItemErr) : State :=
  match e with
  | .waits s' => s'
  | .fail dest cause va pa =>
    if (s.ctx j.ctx).tqRoom then
      s.itemFailed j item (some (if cause = 28 then failRec j (j.itemAddr item).1 28 (j.itemAddr item).2 0 (j.range item).1
        else failRec j dest cause va pa (j.range item).1))
    else s
  | .fault cause va => s.itemHeld j item cause va

/-- An item whose source bytes are at hand lands, and its bytes are counted (R393). -/
def landItem (s : State) (j : Job) (item : Nat) (bs : List Byte) : State :=
  if j.landsLater then s
  else match itemWrite s j item bs with
    | .error e => s.itemStop j item e
    | .ok (s1, true) => (s1.itemDone j item false).count j.ctx 0x38 (j.range item).2
    | .ok (s1, false) => s1

/-- Serve one item: its source is read, then it lands, at once unless the move goes only so far (R107, R115, R276). -/
def serveItem (s : State) (j : Job) (item : Nat) : State :=
  match getT j.snap item with
  | some bs => if j.zeroed.contains item then s.landZeros j item j.cancel else landItem s j item bs
  | none =>
    match itemRead s j item with
    | .error e => s.itemStop j item e
    | .ok (s1, bs) =>
      let h := fun k : Job => { k with
        snap := setT k.snap item bs, tags := delT k.tags item, got := k.got.filter (fun x => x.1 != item) }
      let s2 := (s1.modJob j.id h).settleJob j.id
      if s.part.isSome then s2 else landItem s2 (h j) item bs

/-- An item waits for no reply. -/
def Job.answersIn (j : Job) (item : Nat) : Bool :=
  match getT j.tags item with
  | some ts => ts.all (fun t => (getT j.replies t).isSome)
  | none => true

/-- An item that its engine can serve now: it waits for no record and no reply, and may land if it has been read. -/
def Job.isReady (j : Job) (item : Nat) : Bool :=
  !j.held.any (fun h => h.1 == item) && j.answersIn item &&
  ((getT j.snap item).isNone || !j.landsLater)

/-- The effective slack of a job (R108). -/
def Job.slack (j : Job) (clk : Nat) : Nat := j.ctl.toNat / 2 ^ 28 - (clk - j.issued) / 1024

/-- An engine serves one job before another: it has less effective slack, or as much and was issued earlier (R108). [DEDUCED, log 69] -/
def Job.goesBefore (a b : Job) (clk : Nat) : Bool :=
  decide (a.slack clk < b.slack clk) || (a.slack clk == b.slack clk && decide (a.id < b.id))

/-- Of the jobs its engine holds that have an item to serve, a job is the one with the least effective slack (R108). [DEDUCED, log 69] -/
def hasService (s : State) (j : Job) : Bool :=
  !s.jobs.any (fun k => k.sameEngine j && k.started && !k.cancel && k.items.any k.isReady && k.goesBefore j s.clk)

/-- COPY_ITEM (R108, R115): one service of an item of a started job, when its engine serves that job next; a cancelled job's items fail
with CANCELLED. -/
def execCopyItem (job item : Nat) (s : State) : Out :=
  .next (match s.job? job with
    | none => s
    | some j =>
      if !j.items.contains item then s
      else if j.cancel then
        (if !j.zeroed.contains item then s.itemStop j item (.fail false 28 0 0)
         else if j.answersIn item then s.landZeros j item true else s)
      else if !j.started || !j.isReady item || !hasService s j then s
      else serveItem s j item)

/-- The write of a spilled record has been answered: a failed one ends the grid (R421). -/
def State.spillAnswered (s : State) (key : Nat) (st : ReplyStatus) : State :=
  let q := key / 4
  if st = .ok then s
  else s.gridDies (q % 64) (q % 2 ^ 64 / 64) (gridRec (q / 2 ^ 64) (q % 2 ^ 64 / 64) (replyCause st))

/-- The answer to a non-local request reaches the group, the copy item or the own act that sent it; a request that nothing
waits for is forgotten (R57, R193). [DEDUCED, log 104] -/
def State.answer (s : State) (tag : Nat) (st : ReplyStatus) (data : List Byte) : State :=
  match getT s.remote tag with
  | none => s
  | some r =>
    let s1 := s.dropRemote (fun q => q.1 == tag)
    match r.own, r.job with
    | some key, _ =>
      if key % 4 = 2 then s1.spillAnswered key st
      else if (getT s1.asks key).any (fun k => k.tag == some tag) then s1.answerAsk key ⟨st, data⟩ else s1
    | none, some (id, _) => s1.modJob id (fun k => { k with replies := setT k.replies tag ⟨st, data⟩ })
    | none, none => s1.modGroup r.gid (fun g => { g with replies := setT g.replies tag ⟨st, data⟩ })

/-- MEM_REPLY, to a request that has been sent (R57, R193, R386, R397). [DESIGN CHOICE, log 5] -/
def execMemReply (tag : Nat) (st : ReplyStatus) (data : List Byte) (s : State) : Out :=
  .next (if (getT s.remote tag).any (fun r => r.tag.isSome) then s.answer tag st data else s)

/-- A request that has had no answer for a number of microseconds since it was sent is answered DATA_LOST (R386, R397).
[DEDUCED, log 104] -/
def State.loseReply (s : State) (tag : Nat) (host : Bool) (bound : Nat) : State :=
  match getT s.remote tag with
  | none => s
  | some r =>
    if (r.tgt == 2) == host && r.tag.isSome && decide (r.sent + us bound ≤ s.now) then s.answer tag .dataLost [] else s

/-- HOST_TIMEOUT (R386): 50 ms without a completion. [DEDUCED, log 104] -/
def execHostTimeout (tag : Nat) (s : State) : Out := .next (s.loseReply tag true 50000)

/-- PEER_TIMEOUT (R397): 1 ms without a reply. [DEDUCED, log 104] -/
def execPeerTimeout (tag : Nat) (s : State) : Out := .next (s.loseReply tag false 1000)

end Sys2Proof.Machine
end

