-- ==== Sys2Proof/Machine/Barrier.lean ====
section
/-! DEFINITION. Barrier instructions (R127 to R132, R354, R356, R358, R363). -/

namespace Sys2Proof.Machine

/-- The object that an instruction names, as team and offset: APERTURE outside the scratchpads, MISALIGNED off a multiple of
16, DET_VIOLATION at another team's in DET mode, and a wait on its presence bit (R130, R131, R353). R121 does not name these
instructions, so an object may lie in the buffer-table area. [DESIGN CHOICE, log 17; DEDUCED, log 75] -/
def barPlace (s : State) (e : Env) (ga : Nat) : Except Stop (Nat × Nat) :=
  if ga < 0xFE00000000000000 ∨ 0xFF00000000000000 ≤ ga then trapWith 6 0 ga
  else match steer s e .read 0 ga 16 with
    | some (.scr tid off) =>
      if ga % 16 ≠ 0 then trapWith 7 0 ga
      else if e.isDet ∧ tid ≠ e.t.tid then trapWith 19 0 ga
      else do
        checkPresent s s [⟨ga, 16, .scr tid off, ⟨0, 0⟩⟩]
        .ok (tid, off)
    | _ => trapWith 6 0 ga

/-- BINIT's object (R131); other bits of the value are ignored. -/
def barInit (v : Nat) : Nat :=
  let x := v % 1024
  x * 2 ^ 30 + v / 1024 % 16 * 2 ^ 16 + (x == 0).toNat * 2 ^ 15

/-- An object marked broken. -/
def barBreak (o : Nat) : Nat := putFld o 15 15 1

/-- n arrivals: the object, and whether they overrun it (R131). -/
def barArrive (o n : Nat) : Nat × Bool :=
  if Bar.err o || decide (Bar.expect o < Bar.arrived o + n) then (barBreak o, true)
  else if n = 0 then (o, false)
  else (Bar.complete (putFld o 29 20 (Bar.arrived o + n)), false)

/-- An expectation of n bytes: the object, and whether it overruns (R131). -/
def barExpect (o n : Nat) : Nat × Bool :=
  if Bar.err o then (o, true)
  else
    let b := Bar.bytes o + (n : Int)
    if 2 ^ 31 ≤ b ∨ b < -(2 ^ 31) then (barBreak o, true)
    else (Bar.complete (putFld o 127 96 (wrap 32 b)), false)

/-- The tag of an object (R359). -/
def barTag (s : State) (tid off : Nat) : Nat :=
  match s.team? tid with
  | some u => scrTag u.idx off
  | none => 0

/-- A logged operation on an object: f gives the object after it and whether it overran, `put` the group with the result
(R128, R131, R358). An arrival is a release at cluster scope (R129). [DESIGN CHOICE, log 17] -/
def barOp (s : State) (e : Env) (arrival : Bool) (ga : Nat) (f : Nat → Nat × Bool) (put : Nat → Group) : Except Stop State := do
  let (tid, off) ← barPlace s e ga
  let o := s.barGet tid off
  let (o1, over_) := f o
  logged s e ga ⟨3, 0, barTag s tid off⟩ (fun s1 =>
    .ok ⟨(if arrival then s1.landOf e.g.gid else s1).barPut tid off o1, put o, o % 2 ^ 32, if over_ then some (17, o1 % 2 ^ 32) else none⟩)

/-- BINIT (R131). -/
def execBinit (g : Pred) (a b : KReg) (s : State) : Out :=
  s.uniform g (fun e => do
    let (tid, off) ← barPlace s e (e.g.regs.getK2 a.val).toNat
    .ok ((s.barPut tid off (barInit (e.g.regs.getK b.val).toNat)).retire e e.g))

/-- What an arrival returns: PHASE and ERR before it (R131). -/
def barSeen (o : Nat) : Word := BitVec.ofNat 32 (Bar.phase o + 16 * (Bar.err o).toNat)

/-- BARR (R131). -/
def execBarr (g : Pred) (d a : KReg) (s : State) : Out :=
  s.uniform g (fun e =>
    barOp s e true (e.g.regs.getK2 a.val).toNat (fun o => barArrive o 1)
      (fun o => e.g.withRegs (e.g.regs.setK d.val (barSeen o))))

/-- BARRN (R131). -/
def execBarrn (g : Pred) (d a b : KReg) (s : State) : Out :=
  s.uniform g (fun e =>
    barOp s e true (e.g.regs.getK2 a.val).toNat (fun o => barArrive o (e.g.regs.getK b.val).toNat)
      (fun o => e.g.withRegs (e.g.regs.setK d.val (barSeen o))))

/-- BXPCT (R131). -/
def execBxpct (g : Pred) (a b : KReg) (s : State) : Out :=
  s.uniform g (fun e =>
    barOp s e false (e.g.regs.getK2 a.val).toNat (fun o => barExpect o (e.g.regs.getK b.val).toNat) (fun _ => e.g))

/-- A BWAIT or SPUR.JOIN ends with a result, recorded where Cairn samples it (R363). -/
def boundedEnd (s : State) (e : Env) (d : Pred) (v : Bool) (r : Option (Nat × LogRec)) : State :=
  (s.sampleClose e v.toNat r).retire e (e.g.withRegs (e.g.regs.setQ d.val v))

/-- The clk at which this execution's wait began (R131). [DEDUCED, log 76] -/
def waitStart (s : State) (e : Env) : Nat :=
  match e.g.park with
  | some ⟨.bwait _ _ _ _ _, c⟩ => c
  | some ⟨.join _ _ _, c⟩ => c
  | _ => s.clk

/-- A copy of the team that counts bytes into an object is outstanding (R356). -/
def countsInto (s : State) (e : Env) (off : Nat) : Bool :=
  s.jobs.any (fun j => j.tid == e.t.tid && ctlTargetOf j.ctl == some off)
where
  /-- The object offset of a control word with SIG = 2 (R111). -/
  ctlTargetOf (c : Word) : Option Nat := if c.toNat / 2 ^ 26 % 4 = 2 then some (c.toNat % 2 ^ 18) else none

/-- BWAIT (R131). What an operation on its object has decided stands. In DET mode it has no bound and waits for the copies that count
into its object (R354, R356); a replay takes the recorded result, and waits without bound for true (R363). -/
def execBwait (g d : Pred) (a b : KReg) (s : State) : Out :=
  s.uniform g (fun e => match e.g.due with
    | some (.phase v) => do
      let r ← sampleOpen s e
      .ok (boundedEnd s e d v r)
    | _ => do
      let (tid, off) ← barPlace s e (e.g.regs.getK2 a.val).toNat
      let k := (e.g.regs.getK b.val).toNat
      let o := s.barGet tid off
      if e.isDet then
        if countsInto s e off then .error (.park s .landing)
        else match barCheck o (k % 16) with
          | some v => .ok (boundedEnd s e d v none)
          | none => .error (.park s (.bwait d.val none tid off (k % 16)))
      else do
        let r ← sampleOpen s e
        match r with
        | some (v, _) =>
          if v = 0 then .ok (boundedEnd s e d false r)
          else if Bar.phase o ≠ k % 16 then .ok (boundedEnd s e d true r)
          else .error (.park s (.bwait d.val none tid off (k % 16)))
        | none =>
          let fin := waitStart s e + k / 16 * 64
          match barCheck o (k % 16) with
          | some v => .ok (boundedEnd s e d v r)
          | none =>
            if fin ≤ s.clk then .ok (boundedEnd s e d false r)
            else .error (.park s (.bwait d.val (some fin) tid off (k % 16))))

/-- What a parked group's instruction would see, for an event that ends its wait: its first word is given by its opcode. -/
def State.parkedEnv (s : State) (gid op : Nat) : Option Env :=
  match s.group? gid with
  | none => none
  | some g =>
    let m := g.atPc
    { s with cur := some ⟨gid, g.regs.getPc (lowLane m), m, BitVec.ofNat 32 (op * 2 ^ 24), 0, 4, false⟩ }.env?

/-- The bound of a parked wait has passed: it ends with false (R131, R318). In REC the record needs a ring position. [DEDUCED, log 76] -/
def State.boundPassed (s : State) (gid op q : Nat) (fin : Option Nat) : State :=
  match fin, s.parkedEnv gid op with
  | some f, some e =>
    if s.clk < f || (e.isRec && !s.cairnRoom e.t.ctx 1) then s
    else boundedEnd s e (Fin.ofNat 8 q) false none
  | _, _ => s

/-- What a group that nothing has stopped waits for: a stopped group's wait starts anew when it executes again (R131). [DEDUCED, log 76] -/
def State.waitOf (s : State) (gid : Nat) : Option Wait :=
  ((s.group? gid).filter (fun g => g.stop.isNone && g.due.isNone)).bind (fun g => g.park.map (·.why))

/-- BWAIT_TIMEOUT: the bound passes with the phase unchanged (R131). [DEDUCED, log 76] -/
def execBwaitTimeout (gid : Nat) (s : State) : Out :=
  .next (match s.waitOf gid with
    | some (.bwait q fin tid off p) =>
      if barCheck (s.barGet tid off) p = none then s.boundPassed gid 0xA5 q fin else s
    | _ => s)

end Sys2Proof.Machine
end

