-- ==== Sys2Proof/Machine/Save.lean ====
section
/-! DEFINITION. Saving teams (R343 to R350): the words of team headers and group blocks, the pages written to team blocks, the
end of a save and of a request, and the stop of a group that is asked to yield. -/

namespace Sys2Proof.Machine

/-- A run of bytes padded with zeros to a length. -/
def padTo (n : Nat) (bs : List Byte) : List Byte := bs ++ List.replicate (n - bs.length) 0

/-- A record at a position is one that a group waits for: of its own fault, or of a spill of its own (R93, R421). -/
def Context.recordOf (x : Context) (gid p : Nat) : Bool :=
  match getT x.tqPend p with
  | some (.group g) => g == gid
  | some (.spill g) => g == gid
  | _ => false

/-- The team-header word pair of a group (R347): %retired, c_g and its flags. [DESIGN CHOICE, log 35] -/
def groupWord (x : Context) (g : Group) : List Byte :=
  let pos := g.faultAt.filter (fun p => x.recordOf g.gid p)
  leBytes 8 g.retired.toNat ++
  leBytes 8 (g.tsync + 2 ^ 32 * g.ended.toNat + 2 ^ 33 * g.hwsaved.toNat + 2 ^ 34 * pos.isSome.toNat +
    2 ^ 35 * pos.getD 0 + 2 ^ 45 * (g.hwsaved && g.trap.masked).toNat)

/-- A reservation of the table as the header holds it (R232, R347). -/
def layoutBytes (l : Layout) : List Byte :=
  leBytes 4 l.base ++ leBytes 4 l.bytes ++ leBytes 1 l.format ++ leBytes 1 l.block ++ leBytes 2 l.tiles ++ leBytes 4 0 ++
  leBytes 4 l.scale ++ leBytes 4 l.super ++ leBytes 8 0

/-- The 4 KiB team header (R347). [DESIGN CHOICE, log 35] -/
def teamHeader (s : State) (t : Team) (gr : Grid) (x : Context) : List Byte :=
  let n := Rec.groups gr.bytes
  let csync := (getT gr.csyncs (t.idx / Rec.clsize gr.bytes)).getD 0
  padTo 4096 (
    padTo 0x100 (leBytes 4 t.idx ++ leBytes 4 t.serial ++ leBytes 8 t.seq.toNat ++ leBytes 8 (Config.ttCode t.tt).toNat ++
      leBytes 4 t.tsyncGen ++ leBytes 4 csync ++ leBytes 4 (if Rec.mode gr.bytes = 1 then t.rot else 0)) ++
    padTo 0x300 ((List.range n).flatMap (fun i => match s.group? (32 * t.tid + i) with
      | some g => groupWord x g
      | none => leBytes 8 0 ++ leBytes 8 (2 ^ 32))) ++
    padTo 0x200 ((List.range 16).flatMap (fun i => match getT t.resv i with
      | some l => layoutBytes l
      | none => List.replicate 32 0)) ++
    (List.range 16).flatMap (fun i => leBytes 2 (getB t.tables.q4Live i).toNat) ++
    (List.range 16).flatMap (fun i => leBytes 2 (getB t.tables.q4Shadow i).toNat) ++
    padTo 0x1C0 (leBytes 4 t.tables.q4Gen.toNat ++ leBytes 4 t.tables.q8Gen.toNat) ++
    (List.range 256).flatMap (fun i => leBytes 2 (getB t.tables.q8Live i).toNat) ++
    (List.range 256).flatMap (fun i => leBytes 2 (getB t.tables.q8Shadow i).toNat) ++
    (leBytes 1 (Rec.scratch gr.bytes) ++ leBytes 1 (Rec.acc gr.bytes) ++ leBytes 1 (Rec.obuf gr.bytes) ++ leBytes 5 0 ++
      leBytes 8 t.spSaved.toNat ++ leBytes 2 t.accSaved.toNat ++ leBytes 6 0 ++ leBytes 8 t.obSaved.toNat))

/-- The shadow and trap registers as a hardware-saved group's block holds them, in the order R347 lists them. [DESIGN CHOICE, log 35] -/
def shadowBytes (r : TrapRegs) : List Byte :=
  (List.range 32).flatMap (fun l => leBytes 8 (getB r.div l).toNat) ++
  (List.range 32).flatMap (fun l => leBytes 4 (getB r.v95 l).toNat) ++
  leBytes 4 r.k30.toNat ++ leBytes 4 r.k31.toNat ++ leBytes 4 r.cause.toNat ++ leBytes 4 r.info.toNat ++
  leBytes 8 r.pc.toNat ++ leBytes 8 r.addr.toNat ++ leBytes 4 r.word.toNat ++ leBytes 4 r.mask.toNat ++
  leBytes 4 r.hlit.toNat ++ leBytes 8 r.hpa.toNat

/-- The runs of a hardware-saved group's block, by offset (R347). [DESIGN CHOICE, log 35] -/
def groupRuns (g : Group) : List (Nat × List Byte) :=
  let r := g.regs
  [ (0, (List.range 96).flatMap (fun n => (List.range 32).flatMap (fun l => leBytes 4 (r.getV n l).toNat))),
    (0x3000, (List.range 32).flatMap (fun j => leBytes 4 (r.getK j).toNat) ++
      (List.range 32).flatMap (fun l => leBytes 8 (r.divWord l).toNat) ++
      (List.range 32).flatMap (fun l => leBytes 4 (r.predWord l).toNat) ++
      leBytes 4 r.qmask.toNat),
    (0x3400, if g.trap.masked then padTo 0x400 (shadowBytes g.trap) else List.replicate 0x400 0) ]

/-- Writes of the part at virtual addresses, in order. -/
def ownWrites (s : State) (massif c : Nat) (spur : Option Word) : List (Nat × List Byte) → Except OwnErr State
  | [] => .ok s
  | (va, bs) :: t => do
    let s1 ← ownWrite s massif c spur va bs
    ownWrites s1 massif c spur t

/-- A fatal record that names a team and no instruction of it. [DEDUCED, log 31] -/
def teamFatal (t : Team) (cause : Nat) : TrapRec :=
  { kind := 3, cause := cause, group := 0, lane := 0, team := BitVec.ofNat 32 t.idx, a := 0,
    grid := BitVec.ofNat 32 t.serial, b := 0, c := 0 }

/-- The spur of a team. -/
def State.spurOf (s : State) (t : Team) : Option Word := (s.grid? t.ctx t.serial).map (fun g => Rec.spur g.bytes)

/-- The massif whose base die a team's save-area accesses use: that of its core (R420). [DEDUCED, log 30] -/
def Team.massif (t : Team) : Nat := massifOf t.column

/-- The count and the bitmap of the context header, after a team's slot is saved or no longer saved (R347). -/
def savedSlots (s : State) (c : Nat) : List Nat :=
  (s.teams.filter (fun t => t.ctx == c && t.st == .saved)).map (fun t => 32 * t.column + t.slot)

/-- The context header's words: the count of saved teams and the byte of the bitmap that holds a slot (R347). -/
def headerRuns (s : State) (x : Context) (c slot : Nat) : List (Nat × List Byte) :=
  let ss := savedSlots s c
  let byte := slot / 8
  [ (x.reg64 CtxReg.saveBase, leBytes 4 ss.length),
    (x.reg64 CtxReg.saveBase + 0x1000 + byte,
      [BitVec.ofNat 8 (((List.range 8).map (fun i => if ss.contains (8 * byte + i) then 2 ^ i else 0)).sum)]) ]

/-- A saved team leaves the context header when it is discarded; a write that fails is not retried (R323, R347). [DEDUCED, log 82] -/
def State.unsave (s : State) (t : Team) : State :=
  if t.st = .saved then
    match ownWrites s t.massif t.ctx (s.spurOf t) (headerRuns s (s.ctx t.ctx) t.ctx (32 * t.column + t.slot)) with
    | .ok s1 => s1
    | .error _ => s
  else s

/-- A save-area access that failed: a class R cause posts a replayable record and the team waits; any other posts a fatal
record and the team ends, and leaves the context header if it was saved (R347); one that is held is tried again (R60).
[DESIGN CHOICE, log 44] -/
def State.saveFailed (s : State) (t : Team) : OwnErr → State
  | .fault cause va =>
    if (s.ctx t.ctx).tqPend.any (fun p => p.2 == .save t.tid) then s
    else if (s.ctx t.ctx).tqRoom then
      s.tqPost t.ctx (ownRec t ((s.spurOf t).getD 0) 3 cause va 0) (some (.save t.tid))
    else s
  | .bad cause _ _ =>
    ((s.postFatal t.ctx (teamFatal t cause)).teamKilled t).unsave t
  | .ask r => s.ask t.massif (teamKey t) r
  | .held => s

/-- Page i of a byte map. -/
def pageOf (m : BMap 8) (i : Nat) : List Byte := readB m (4096 * i) 4096

/-- The 4 KiB of an accumulator slot. -/
def slotBytes (m : BMap 32) (n : Nat) : List Byte := (List.range 1024).flatMap (fun w => leBytes 4 (getB m (1024 * n + w)).toNat)

/-- Write pages of a saved team to its block, each once (R346): scratchpad pages, accumulator slots, operand-buffer pages. -/
def State.savePages (s : State) (t : Team) (sp acc ob : List Nat) : Except OwnErr State := do
  let x := s.ctx t.ctx
  let base := saveBlock x t.column t.slot
  let sp1 := sp.filter (fun i => !t.spSaved.getLsbD i)
  let acc1 := acc.filter (fun i => !t.accSaved.getLsbD i)
  let ob1 := ob.filter (fun i => !t.obSaved.getLsbD i)
  let spBits := sp1.foldl (fun b i => b ||| BitVec.ofNat 64 (2 ^ i)) t.spSaved
  let accBits := acc1.foldl (fun b i => b ||| BitVec.ofNat 16 (2 ^ i)) t.accSaved
  let obBits := ob1.foldl (fun b i => b ||| BitVec.ofNat 64 (2 ^ i)) t.obSaved
  let s1 ← ownWrites s t.massif t.ctx (s.spurOf t) (
    sp1.map (fun i => (base + 0x92000 + 4096 * i, pageOf t.scratch i)) ++
    acc1.map (fun i => (base + 0x82000 + 4096 * i, slotBytes t.acc i)) ++
    ob1.map (fun i => (base + 0xD2000 + 4096 * i, pageOf t.obuf i)) ++
    [(base + 0xC08, leBytes 8 spBits.toNat ++ leBytes 2 accBits.toNat ++ leBytes 6 0 ++ leBytes 8 obBits.toNat)])
  pure (s1.modTeam t.tid (fun u => { u with spSaved := spBits, accSaved := accBits, obSaved := obBits }))

/-- Every page of a team. [DESIGN CHOICE, log 38] -/
def State.saveAll (s : State) (t : Team) : Except OwnErr State :=
  match s.grid? t.ctx t.serial with
  | none => .ok s
  | some g => s.savePages t (List.range (Rec.scratch g.bytes)) (List.range (Rec.acc g.bytes)) (List.range (Rec.obuf g.bytes))

/-- What the part writes for a team whose groups are all saved: every page of a swapped team, the blocks of the groups it
saves itself, the team header and the context header (R300, R345, R347). -/
def State.writeSave (s : State) (t : Team) (gr : Grid) : Except OwnErr State := do
  let s0 ← if t.swap then s.saveAll t else pure s
  let t0 := (s0.team? t.tid).getD t
  let x := s.ctx t.ctx
  let blocks := ((s.groupsOf t.tid).filter (fun g => g.hwsaved && !g.ended)).flatMap
    (fun g => (groupRuns g).map (fun r => (groupBlock x t (g.gid % 32) + r.1, r.2)))
  let header := (saveBlock x t.column t.slot, teamHeader s0 t0 gr x)
  let s1 := s0.setTeam { t0 with st := .saved, deadline := none, swap := false, onDie := !t.swap || s.power.emerg.isSome }
  ownWrites s1 t.massif t.ctx (some (Rec.spur gr.bytes)) (blocks ++ [header] ++ headerRuns s1 x t.ctx (32 * t.column + t.slot))

/-- A team whose groups have all ended or been saved is written and is SAVED (R345, R347). [DESIGN CHOICE, log 38] -/
def State.saveTry (s : State) (tid : Nat) : State :=
  match s.team? tid with
  | none => s
  | some t => match s.grid? t.ctx t.serial with
    | none => s
    | some gr =>
      if t.st != .saving || !(s.groupsOf tid).all (fun g => g.ended || g.saved || g.hwsaved) then s
      else match (s.withAsks (teamKey t)).writeSave t gr with
        | .error e => s.saveFailed t e
        | .ok s1 => ((s1.doneAsks (teamKey t)).leaveFusion t).clearRequest t.ctx

/-- A restored group that had arrived at a TSYNC or CSYNC waits in it again, or, where the generation has come meanwhile, passes it: a
CSYNC when it executes again, which is the group's step in a DET team (R301, R348, R355, R356). [DEDUCED, log 77] -/
def Group.backInSync (g : Group) (s : State) (t : Team) : Group :=
  let csync := match s.grid? t.ctx t.serial with
    | some gr => (getT gr.csyncs (t.idx / Rec.clsize gr.bytes)).getD 0
    | none => 0
  match g.inSync with
  | some (pc, cluster) =>
    if pc ≠ g.regs.getPc ((lanesOf g.atPc).headD 0) then g
    else if cluster then (if csync < g.csync then { g with park := some ⟨.csync, s.clk⟩ } else g)
    else if t.tsyncGen < g.tsync then { g with park := some ⟨.tsync, s.clk⟩ }
    else g.syncPassed
  | none => g

/-- A group back from a RESTORE entry, or reloaded: marked FAULTWAIT, it is parked for its record while that is pending (R348).
[DEDUCED, log 41] -/
def Group.resumed (g : Group) (s : State) (t : Team) : Group :=
  match g.faultAt with
  | none => if g.trap.masked then g else g.backInSync s t
  | some p => { g with
      faultAt := none
      park := if (s.ctx t.ctx).recordOf g.gid p then some ⟨.faultWait p, 0⟩ else g.park }

/-- A restoring team whose groups have all ended or resumed is RUNNING, and its former slot is released; a request that came
meanwhile makes it yield, a DET team where one of its groups has stopped at its TRET (R333, R343, R347, R349, R417).
[DESIGN CHOICE, log 42] -/
def State.resumeTry (s : State) (tid : Nat) : State :=
  match s.team? tid with
  | none => s
  | some t =>
    if t.st = .restoring ∧ (s.groupsOf tid).all (fun g => g.ended || !g.inRoutine) then
      let s1 := s.setTeam { t with st := if t.deadline.isSome then .yielding else .running, oldSlot := none }
      (if s.recField Rec.mode t = 1 ∧ t.deadline.isSome ∧ (s.groupsOf tid).any (fun g => g.stop.isSome) then s1.stopTeam tid 0
       else s1).cutTry tid
    else s

/-- A group has ended within a team that is being saved or restored: that may be complete (R335, R345, R348). -/
def State.groupGone (s : State) (tid : Nat) : State := (s.saveTry tid).resumeTry tid

end Sys2Proof.Machine
end

