-- ==== Sys2Proof/Machine/Shape.lean ====
section
/-! DEFINITION. Shape records and their handles: SHNEW and SHFREE (R125, R126). -/

namespace Sys2Proof.Machine

/-- The generation that follows one: from 4,095 back to 1 (R126). -/
def nextGen (g : BitVec 12) : BitVec 12 := if g = 4095 then 1 else g + 1

/-- A shape record that keeps every rule of R125. [DEDUCED, log 74] -/
def shapeOk (sh : List Byte) : Bool :=
  let base := fieldB sh 0 8
  let rank := fieldB sh 9 1
  (decide (base < 2 ^ 57) || (decide (0xFE00000000000000 ≤ base) && decide (base < 0xFF00000000000000))) &&
  decide (fieldB sh 8 1 ≤ 3) && decide (1 ≤ rank) && decide (rank ≤ 4) && decide (fieldB sh 10 1 ≤ 1) && fieldB sh 11 5 == 0 &&
  (List.range 4).all (fun j =>
    (decide (j < rank) || fieldB sh (16 + 4 * j) 4 == 1) &&
    (decide (j < rank) || j == 0 || fieldB sh (24 + 8 * j) 8 == 0) &&
    decide (1 ≤ fieldB sh (56 + 2 * j) 2) && decide (fieldB sh (56 + 2 * j) 2 ≤ 4096) &&
    (decide (j < rank) || fieldB sh (56 + 2 * j) 2 == 1))

/-- The lowest free slot of a table of n slots, of which slot 0 is never allocated (R126, R235). -/
def lowestSlot (n : Nat) (used : Nat → Bool) (count : Nat) : Option Nat :=
  (List.range (count + 1)).map (· + 1) |>.find? (fun i => decide (i < n) && !used i)

/-- A slot's current generation, or 1 at its first allocation (R126). -/
def firstGen (g : BitVec 12) : BitVec 12 := if g = 0 then 1 else g

/-- A record read by one uniform instruction of the global window: APERTURE elsewhere, MISALIGNED off its multiple (R126,
R239). -/
def recordAt (s : State) (e : Env) (a : KReg) (n : Nat) : Except Stop (State × List Byte) :=
  let ga := (e.g.regs.getK2 a.val).toNat
  if 2 ^ 57 ≤ ga then trapWith 6 0 ga
  else if ga % n ≠ 0 then trapWith 7 0 ga
  else do
    detBan e
    let (s1, rs) ← loadLanes s e n [(lowLane e.c.mask, ga)]
    pure (s1, rs.flatMap (·.2))

/-- SHNEW (R125, R126, R363). -/
def execShnew (g : Pred) (d a : KReg) (s : State) : Out :=
  s.uniform g (fun e => do
    let (s1, sh) ← recordAt s e a 64
    if !shapeOk sh then trapWith 15 0 0
    else do
      let r ← sampleOpen s1 e
      match lowestSlot (e.x.reg CtxReg.shapeSlots).toNat (fun i => match getT e.x.shapes i with | some k => k.alloc | none => false)
          e.x.shapes.length with
      | none => sampledOp s1 e 0 (e.g.withRegs (e.g.regs.setK d.val 0)) r
      | some i =>
        let gen := firstGen (((getT e.x.shapes i).map (·.gen)).getD 0)
        let h := i * 4096 + gen.toNat
        let s2 := s1.modCtx e.t.ctx (fun x => { x with shapes := setT x.shapes i ⟨gen, true, sh⟩ })
        sampledOp s2 e h (e.g.withRegs (e.g.regs.setK d.val (BitVec.ofNat 32 h))) r)

/-- SHFREE (R126): the slot is free and its generation advances. -/
def execShfree (g : Pred) (a : KReg) (s : State) : Out :=
  s.uniform g (fun e =>
    let h := e.g.regs.getK a.val
    match getT e.x.shapes (h.toNat / 4096) with
    | none => trapWith 11 h.toNat 0
    | some k =>
      if k.alloc ∧ h.toNat % 4096 ≠ 0 ∧ k.gen.toNat = h.toNat % 4096 then
        .ok ((s.modCtx e.t.ctx (fun x =>
          { x with shapes := setT x.shapes (h.toNat / 4096) ⟨nextGen k.gen, false, []⟩ })).retire e e.g)
      else trapWith 11 h.toNat 0)

end Sys2Proof.Machine
end

