-- ==== Sys2Proof/Machine/Spur.lean ====
section
/-! DEFINITION. The spur unit: spur records, SPUR.FORK, SPUR.JOIN, SPUR.CANCEL, SPUR.Q, the counts of launches, and the reclaim
of cancelled spurs (R306 to R323). -/

namespace Sys2Proof.Machine

/-! ## Records (R306, R308) -/

/-- A number that names no spur of a table of this size. -/
def spurMalformed (x : Context) (n : Word) : Bool :=
  n != 0 && (spurSlot n == 0 || decide ((x.reg CtxReg.spurSlots).toNat ≤ spurSlot n))

/-- STATE of a slot; the root is always LIVE. The part goes by what it keeps itself, so that a store into a record changes no
slot's state (R308). [DESIGN CHOICE, log 80] -/
def spurState (x : Context) (slot : Nat) : Nat :=
  if slot = 0 then 1
  else match getT x.spurs slot with
    | none => 0
    | some false => 1
    | some true => 2

/-- A number is current: its slot is allocated with its generation, which is never 0 (R306). -/
def spurCurrent (x : Context) (n : Word) : Bool :=
  !spurMalformed x n &&
  (n == 0 || (spurState x (spurSlot n) != 0 && n.toNat % 4096 != 0 && (getB x.spurGen (spurSlot n)).toNat == n.toNat % 4096))

/-- The part keeps where a slot stands. -/
def State.setLink (s : State) (c slot : Nat) (f : SpurLink → SpurLink) : State :=
  s.modCtx c (fun y => { y with links := setT y.links slot (f (y.link slot)) })

/-- Store a field of a spur record; without spur slots there is none. -/
def State.putSpur (s : State) (x : Context) (slot off n v : Nat) : State :=
  if x.reg CtxReg.spurSlots = 0 then s else s.writeOwn (spurAddr x slot + off) (leBytes n v)

/-- A slot takes a state: none is FREE, true CANCELLING (R309). -/
def State.setSpur (s : State) (c slot : Nat) (st : Option Bool) : State :=
  s.modCtx c (fun y => { y with spurs := match st with
    | none => delT y.spurs slot
    | some b => setT y.spurs slot b })

/-- A launch that names this spur is counted in its BUSY (R309, R314). -/
def spurCounts (s : State) (c : Nat) (n : Word) : Bool :=
  let x := s.ctx c
  spurCurrent x n && spurState x (spurSlot n) == 1

/-- BUSY grows (R309). -/
def State.addBusy (s : State) (c : Nat) (n : Word) (k : Nat) : State :=
  let x := s.ctx c
  s.putSpur x (spurSlot n) 16 4 (spurField s x (spurSlot n) 16 4 + k)

/-- BUSY falls, for a number that is still current (R309). -/
def State.subBusy (s : State) (c : Nat) (n : Word) : State :=
  let x := s.ctx c
  if spurCurrent x n then s.putSpur x (spurSlot n) 16 4 (spurField s x (spurSlot n) 16 4 - 1) else s

/-- BUSY is nonzero. Without spur slots the root's grids and pending entries are counted themselves. [DESIGN CHOICE, log 80] -/
def spurBusy (s : State) (c : Nat) (n : Word) : Bool :=
  let x := s.ctx c
  if x.reg CtxReg.spurSlots = 0 then
    s.grids.any (fun g => g.ctx == c) || s.launches.any (fun q => q.2.ctx == c && !q.2.entries.isEmpty)
  else spurField s x (spurSlot n) 16 4 != 0

/-! ## The tree -/

/-- A spur and its older siblings. -/
def sibChain (x : Context) : Nat → Word → List Word
  | 0, _ => []
  | f + 1, n => if n = 0 then [] else n :: sibChain x f (x.link (spurSlot n)).next

/-- The children of a spur, youngest first. -/
def spurKids (x : Context) (n : Word) : List Word := sibChain x (x.reg CtxReg.spurSlots).toNat (x.link (spurSlot n)).first

/-- The spurs reached from a list of them downwards. -/
def spurWalk (x : Context) : Nat → List Word → List Word
  | 0, _ => []
  | _ + 1, [] => []
  | f + 1, n :: t => n :: spurWalk x f (spurKids x n ++ t)

/-- The subtree of a spur, itself first. -/
def spurTree (s : State) (c : Nat) (n : Word) : List Word :=
  spurWalk (s.ctx c) ((s.ctx c).reg CtxReg.spurSlots |>.toNat |> (· + 1)) [n]

/-- A spur and its ancestors. -/
def spurChain (x : Context) : Nat → Word → List Word
  | 0, _ => []
  | f + 1, n => n :: (if n = 0 then [] else spurChain x f (x.link (spurSlot n)).parent)

/-- The subtree is finished (R318): no spur of it has a launch, or its root is no longer current. -/
def subtreeDone (s : State) (c : Nat) (n : Word) : Bool :=
  !spurCurrent (s.ctx c) n || (spurTree s c n).all (fun m => !spurBusy s c m)

/-- The lowest free slot from i on; the fuel bounds how many are tried. -/
def freeSpur (x : Context) : Nat → Nat → Option Nat
  | 0, _ => none
  | f + 1, i => if spurState x i = 0 then some i else freeSpur x f (i + 1)

/-! ## SPUR.FORK (R317) -/

/-- The record of a new spur. [DESIGN CHOICE, log 80] -/
def spurBytes (number parent : Word) (depth sibling list len : Nat) : List Byte :=
  leBytes 4 number.toNat ++ leBytes 4 parent.toNat ++ leBytes 1 1 ++ leBytes 1 depth ++ leBytes 2 0 ++ leBytes 4 0 ++
  leBytes 4 0 ++ leBytes 4 0 ++ leBytes 4 sibling ++ leBytes 4 list ++ leBytes 4 len ++ List.replicate 28 0

/-- The runs of memory that a fork of a spur reads or changes in part: the records of the spur and its ancestors, its list, the top
of the free stack, and the counts of the pages that it shares and of the new list page (R308, R317). -/
def forkRuns (x : Context) (p : Word) (es : List Nat) (list : Nat) : List (Nat × Nat) :=
  (spurChain x 64 p).map (fun n => (spurAddr x (spurSlot n), 64)) ++
  [(listEntry x (spurSlot p) 0, 4 * es.length), (freeAt x ((x.reg CtxReg.poolTop).toNat - 1), 4), (refAt x list, 4)] ++
  (es.filter (· != 0)).map (fun e => (refAt x e, 4))

/-- A child of a spur in a free slot, with a list page that was popped (R317). -/
def makeSpur (s : State) (c : Nat) (p : Word) (k list : Nat) (es : List Nat) : State × Word :=
  let x := s.ctx c
  let gen := firstGen (getB x.spurGen k)
  let number := BitVec.ofNat 32 (k * 4096 + gen.toNat)
  let page := poolPage x list
  let s2 := (s.zeroPage page).writeOwn page (es.flatMap (fun e => leBytes 4 e))
  let s3 := (es.filter (· != 0)).foldl (fun a e => a.setRef x e (refCount a x e + 1)) s2
  let rec_ := spurBytes number p (spurField s x (spurSlot p) 9 1 + 1) (x.link (spurSlot p)).first.toNat list es.length
  let s4 := (s3.setRef x list 1).writeOwn (spurAddr x k) rec_
  let s5 := (s4.putSpur x (spurSlot p) 20 4 number.toNat).putSpur x (spurSlot p) 12 4 (spurField s x (spurSlot p) 12 4 + 1)
  let s6 := (s5.setLink c k (fun _ => ⟨p, 0, (x.link (spurSlot p)).first, list⟩)).setLink c (spurSlot p)
    (fun l => { l with first := number })
  ((s6.modCtx c (fun y => { y with spurGen := putB y.spurGen k gen })).setSpur c k (some false), number)

/-- The fork of a spur in one step: its result, BAD_OPERAND at the greatest depth, or DATA_LOST where what it needs is lost.
[DESIGN CHOICE, log 80; DESIGN CHOICE, log 111] -/
def forkSpur (s0 : State) (c : Nat) (p : Word) : Except Stop (State × Word) :=
  let s := s0.landLate (fun _ => true)
  let x := s.ctx c
  if !spurCurrent x p || (spurChain x 65 p).any (fun n => spurState x (spurSlot n) == 2) then .ok (s, 0xFFFFFFFD)
  else if x.reg CtxReg.spurSlots ≠ 0 ∧ spurField s x (spurSlot p) 9 1 = 63 then trapWith 13 0 0
  else match freeSpur x ((x.reg CtxReg.spurSlots).toNat - 1) 1 with
    | none => .ok (s, 0xFFFFFFFF)
    | some k => match s.poolPop c with
      | none => .ok (s, 0xFFFFFFFE)
      | some (list, s1) =>
        let es := (List.range (min (spurField s x (spurSlot p) 32 4) 16384)).map (fun i => listGet s x (spurSlot p) i)
        match lostAmong s (forkRuns x p es list) with
        | some a => .error (.trap 10 0 0 none a)
        | none =>
          let (s2, n) := makeSpur s1 c p k list es
          .ok ((forkRuns x p es list).foldl (fun a r => a.runL2 r.1 r.2 0 false) s2, n)

/-- The checks that the four instructions share: BAD_OPERAND for a malformed number (R316), DET_VIOLATION where the mode
forbids the instruction (R353). [DEDUCED, log 83] -/
def spurCheck (e : Env) (n : Word) (ban : Bool) : Except Stop Unit := do
  if ban then detBan e else .ok ()
  if spurMalformed e.x n then trapWith 13 n.toNat 0 else .ok ()

/-- SPUR.FORK (R317, R363). -/
def execSpurFork (g : Pred) (d a : KReg) (s : State) : Out :=
  s.uniform g (fun e => do
    spurCheck e (e.g.regs.getK a.val) true
    let r ← sampleOpen s e
    let (s1, v) ← forkSpur s e.t.ctx (e.g.regs.getK a.val)
    sampledOp s1 e v.toNat (e.g.withRegs (e.g.regs.setK d.val v)) r)

/-! ## SPUR.JOIN and SPUR.Q (R318, R322) -/

/-- The clk at which a SPUR.JOIN's bound ends: none without a bound, and in DET mode, which ignores it (R318, R354). -/
def joinEnd (s : State) (e : Env) (k : Word) : Option Nat :=
  if k = 0xFFFFFFFF ∨ e.isDet then none else some (waitStart s e + 64 * k.toNat)

/-- SPUR.JOIN (R318); a replay takes the recorded result (R363). -/
def execSpurJoin (g d : Pred) (a b : KReg) (s : State) : Out :=
  s.uniform g (fun e => do
    let n := e.g.regs.getK a.val
    spurCheck e n false
    let fin := joinEnd s e (e.g.regs.getK b.val)
    let done := subtreeDone s e.t.ctx n
    let r ← sampleOpen s e
    match r with
    | some (v, _) =>
      if v = 0 then .ok (boundedEnd s e d false r)
      else if done then .ok (boundedEnd s e d true r)
      else .error (.park s (.join d.val n none))
    | none =>
      if done then .ok (boundedEnd s e d true none)
      else match fin with
        | none => .error (.park s (.join d.val n none))
        | some f => if f ≤ s.clk then .ok (boundedEnd s e d false none) else .error (.park s (.join d.val n fin)))

/-- JOIN_TIMEOUT: the bound passes and the subtree is not finished (R318). [DEDUCED, log 76] -/
def execJoinTimeout (gid : Nat) (s : State) : Out :=
  .next (match s.waitOf gid, s.team? (gid / 32) with
    | some (.join q n fin), some t => if subtreeDone s t.ctx n then s else s.boundPassed gid 0xD5 q fin
    | _, _ => s)

/-- The status word of a spur (R322). -/
def spurStatus (s : State) (c : Nat) (n : Word) : Nat :=
  let x := s.ctx c
  if !spurCurrent x n then 0
  else
    let k := spurSlot n
    let none_ := x.reg CtxReg.spurSlots == 0
    2 ^ 31 + spurState x k % 4 * 2 ^ 29 + (spurBusy s c n).toNat * 2 ^ 28 +
      (if none_ then 0 else spurField s x k 9 1 % 64 * 2 ^ 22 + spurField s x k 32 4 % 32768)

/-- SPUR.Q (R322, R363): a replay writes the recorded value. -/
def execSpurQ (g : Pred) (d a : KReg) (s : State) : Out :=
  s.uniform g (fun e => do
    spurCheck e (e.g.regs.getK a.val) true
    let r ← sampleOpen s e
    let n := e.g.regs.getK a.val
    let v := match r with | some (v, _) => v | none => spurStatus s e.t.ctx n
    let s1 := if r.isNone && spurCurrent e.x n && e.x.reg CtxReg.spurSlots != 0 then s.runL2 (spurAddr e.x (spurSlot n)) 64 0 false else s
    .ok ((s1.sampleClose e v r).retire e (e.g.withRegs (e.g.regs.setK d.val (BitVec.ofNat 32 v)))))

/-! ## SPUR.CANCEL and the reclaim (R319, R320) -/

/-- A grid that will run nothing more: its teams are gone, its staged work is discarded with what waits for a record, and it fails
(R320, R264). -/
def Grid.emptied (g : Grid) : Grid :=
  { g with next := Rec.teams g.bytes, drained := Rec.teams g.bytes, done := [], staged := [], failed := true, wait := none }

/-- A discarded pending entry as a grid that completes with FAIL (R320). -/
def Pending.cancelled (p : Pending) (c serial clk : Nat) : Grid :=
  { ctx := c, serial := serial, bytes := p.bytes, accepted := clk, queue := none, counted := p.counted, rserial := 0, next := 0,
    done := [], drained := 0, failed := true, staged := [], csyncs := [], blocked := none, holds := false, wait := none, noCount := none,
    dead := true, headers := [] }

/-- End every team of a grid at once and discard what it has staged; every copy of its teams fails item by item, also those of
teams that have ended (R28, R320). [DEDUCED, log 81] -/
def State.cancelGrid (s : State) (g : Grid) : State :=
  let s1 := { s with jobs := s.jobs.map (fun j : Job =>
    if j.ctx == g.ctx && j.serial == g.serial then { j with cancel := true } else j) }
  let ts := s1.teams.filter (fun t => t.ctx == g.ctx && t.serial == g.serial && t.st != .ended)
  ((ts.foldl (fun a t => (a.teamKilled t).unsave t) s1).forgetAsk (gridKey g.ctx g.serial)).modGrid g.ctx g.serial Grid.emptied

/-- Discard the pending entries of a context that name a spur of a list (R320). -/
def State.cancelPending (s : State) (c : Nat) (ns : List Word) : State :=
  let hit := fun p : Pending => ns.contains (Rec.spur p.bytes)
  let gone := (s.launches.filter (fun q => q.2.ctx == c)).flatMap (fun q => q.2.entries.filter hit)
  let s1 := { s with launches := s.launches.map (fun q =>
    if q.2.ctx == c then (q.1, { q.2 with entries := q.2.entries.filter (fun p => !hit p) }) else q) }
  gone.foldl (fun a p =>
    let k := (a.ctx c).serials
    { a with grids := a.grids ++ [p.cancelled c k a.clk] }.modCtx c (fun y => { y with serials := k + 1 })) s1

/-- The reclaim's stop of everything that belongs to marked spurs, but for one grid that is left for later. [DEDUCED, log 81] -/
def State.stopSpurs (s : State) (c : Nat) (ns : List Word) (later : Option Nat) : State :=
  let s1 := s.cancelPending c ns
  (s1.grids.filter (fun g => g.ctx == c && ns.contains (Rec.spur g.bytes) && !g.dead && later != some g.serial)).foldl
    (fun a g => a.cancelGrid g) s1

/-- The mark: the root and its descendants that are not marked yet become CANCELLING. [DEDUCED, log 81] -/
def State.markSpurs (s : State) (c : Nat) (n : Word) : State × List Word :=
  let x := s.ctx c
  let ns := (spurTree s c n).filter (fun m => spurState x (spurSlot m) == 1 && m != 0)
  (ns.foldl (fun a m => (a.putSpur x (spurSlot m) 8 1 2).setSpur c (spurSlot m) (some true)) s, ns)

/-- SPUR.CANCEL (R319, R363). A group that cancels its own spur writes its result before the reclaim stops it. [DEDUCED, log 82] -/
def execSpurCancel (g : Pred) (d a : KReg) (s : State) : Out :=
  s.uniform g (fun e => do
    let n := e.g.regs.getK a.val
    spurCheck e n true
    if n = 0 then trapWith 13 0 0 else .ok ()
    let r ← sampleOpen s e
    let put := fun v => e.g.withRegs (e.g.regs.setK d.val v)
    let s0 := s.landOf e.g.gid
    if !spurCurrent e.x n || spurState e.x (spurSlot n) == 2 then sampledOp s0 e 0 (put 0) r
    else
      let (s1, ns) := s0.markSpurs e.t.ctx n
      let own := ns.contains e.spur
      let s2 := s1.stopSpurs e.t.ctx ns (if own then some e.t.serial else none)
      if own then
        match sampledOp s2 e 1 (put 1) r with
        | .ok s3 => .ok (s3.cancelGrid e.gr)
        | .error (.trapAfter s3 _ _ _) => .ok ({ s3 with cur := none }.cancelGrid e.gr)
        | .error z => .error z
      else sampledOp s2 e 1 (put 1) r)

/-- Push a page onto the free stack, which never holds more than the pool (R308). [DESIGN CHOICE, log 80] -/
def State.freePage (s : State) (c page : Nat) : State :=
  if (s.ctx c).reg CtxReg.poolTop < (s.ctx c).reg CtxReg.poolPages then s.poolPushPage c page else s

/-- A pool page is the list page of a spur. -/
def isList (x : Context) (page : Nat) : Bool := page == 0 || x.spurs.any (fun k => listPage x k.1 == page)

/-- The list page released: each page's count falls, pages reaching 0 are pushed in entry order, then the list page (R320). An entry that
software has made to name a list page frees none (R308). [DESIGN CHOICE, log 80] -/
def State.releaseList (s : State) (c slot : Nat) : State :=
  let x := s.ctx c
  let len := min (spurField s x slot 32 4) 16384
  let es := ((List.range len).map (fun i => listGet s x slot i)).filter (· != 0)
  let s1 := es.foldl (fun a e =>
    let k := refCount a x e - 1
    let b := a.setRef x e k
    if k = 0 ∧ !isList x e then b.freePage c e else b) (s.runL2 (listEntry x slot 0) (4 * len) 0 false)
  let list := listPage x slot
  (s1.setRef x list 0).freePage c list

/-- A child leaves its parent's list of children. [DESIGN CHOICE, log 80] -/
def State.unlinkSpur (s : State) (c : Nat) (n : Word) : State :=
  let x := s.ctx c
  let p := (x.link (spurSlot n)).parent
  let next := (x.link (spurSlot n)).next
  let s1 := match (spurKids x p).find? (fun m => (x.link (spurSlot m)).next == n) with
    | some m => (s.putSpur x (spurSlot m) 24 4 next.toNat).setLink c (spurSlot m) (fun l => { l with next := next })
    | none =>
      if (x.link (spurSlot p)).first = n then
        (s.putSpur x (spurSlot p) 20 4 next.toNat).setLink c (spurSlot p) (fun l => { l with first := next })
      else s
  (s1.putSpur x (spurSlot p) 12 4 (spurField s x (spurSlot p) 12 4 - 1)).modCtx c (fun y => { y with links := delT y.links (spurSlot n) })

/-- Everything that belonged to a marked spur is gone: its children, its teams' copies and accesses, and its grids but for
those whose counter update waits for a trap record (R320). [DEDUCED, log 81] -/
def reclaimReady (s : State) (c : Nat) (n : Word) : Bool :=
  (spurKids (s.ctx c) n).isEmpty && s.jobs.all (fun j => !(j.ctx == c && j.spur == n)) &&
  s.grids.all (fun g => !(g.ctx == c && Rec.spur g.bytes == n) || g.wait.isSome)

/-- SPUR_RECLAIM_DONE (R320): the marked spur's pages are released, its record is FREE and its generation advances. [DEDUCED, log 81] -/
def execSpurReclaimDone (ctx slot : Nat) (s : State) : Out :=
  let x := s.ctx ctx
  let n : Word := BitVec.ofNat 32 (slot * 4096 + (getB x.spurGen slot).toNat)
  .next (
    if slot ≠ 0 ∧ spurMalformed x n = false ∧ spurState x slot = 2 ∧ reclaimReady s ctx n then
      let s1 := (s.releaseList ctx slot).unlinkSpur ctx n
      ((s1.putSpur x slot 8 1 0).setSpur ctx slot none).modCtx ctx (fun y =>
        { y with spurGen := putB y.spurGen slot (nextGen (getB y.spurGen slot)) })
    else s)

end Sys2Proof.Machine
end

