-- ==== Sys2Proof/Machine/Drain.lean ====
section
/-! DEFINITION. What a grid does after its teams: draining of queued reductions, the Ridgeline ticket, and completion with its
counter (R258, R262, R263, R285, R420, R421). -/

namespace Sys2Proof.Machine

/-! ## One staged record -/

/-- The key order of contributions within a team: group, lane, SEQ (R257). -/
def Staged.before (a b : Staged) : Bool :=
  decide (a.group < b.group) || (a.group == b.group && (decide (a.lane < b.lane) ||
    (a.lane == b.lane && decide (a.seq.toNat < b.seq.toNat))))

/-- The first of a team's queued contributions by key. -/
def firstKey : List Staged → Option Staged
  | [] => none
  | r :: t => some (t.foldl (fun b q => if q.before b then q else b) r)

/-- The next contribution of a team to be applied. -/
def nextDrain (g : Grid) (team : Nat) : Option Staged := firstKey (g.staged.filter (fun r => r.team == team && r.kind == 1))

/-- The next store or held copy of a team to be released: SEQ order is the order of staging (R263). -/
def nextRelease (g : Grid) (team : Nat) : Option Staged := g.staged.find? (fun r => r.team == team && r.kind != 1)

/-- A record leaves the staging; an ended team of which it was the last access is gone (R193). -/
def State.unstage (s : State) (g : Grid) (r : Staged) : State :=
  (s.modGrid g.ctx g.serial (fun k => { k with staged := k.staged.erase r })).reap

/-- The record's contents: a spilled one is read back from the overflow region (R421). -/
def readStaged (s : State) (g : Grid) (r : Staged) : Except OwnErr (State × Staged) :=
  match r.spilled with
  | none => .ok (s, r)
  | some slot => do
    let (s1, bs) ← ownRead s r.die g.ctx (some (Rec.spur g.bytes)) (Rec.ovBase g.bytes + 32 * slot) 32
    pure (s1, Staged.ofBytes bs r.die r.spilled)

/-- A spill of a team is still on its way to a region that is not local. -/
def spillUnderWay (s : State) (g : Grid) (team : Nat) : Bool :=
  s.remote.any (fun r => r.2.own == some (spillKey g.ctx g.serial team))

/-- The change that a contribution names (R259). -/
def Staged.op (r : Staged) : AtomOp := (atomOp? (r.ctl.toNat / 16)).getD .add

/-- The contribution is to 64 bits. -/
def Staged.is64 (r : Staged) : Bool := r.ctl.getLsbD 3

/-- How a contribution or a store failed: cause, address, physical address. -/
abbrev StagedFail := Nat × Nat × Nat

/-- Apply a contribution at its execution point, as one step of R250, or say how it failed. What teams whose scope contains its own have
left at a narrower scope in the location is performed first (R253). [DESIGN CHOICE, log 105] -/
def applyRed (s : State) (g : Grid) (r : Staged) : Except OwnErr (State × Option StagedFail) := do
  let n := if r.is64 then 8 else 4
  let va := r.addr.toNat
  let (s1, ps) ← ownPlaces s r.die g.ctx (some (Rec.spur g.bytes)) .atomic [(va, n)]
  match ps.head? with
  | some ⟨_, _, .rem tgt chip pa, leaf⟩ =>
    let q : Req := ⟨va, leaf.lvl, tgt, chip, pa, .atomic r.op r.is64 r.data 0⟩
    match s1.ownIn with
    | [] => .error (.ask q)
    | a :: t => pure ({ s1 with ownIn := t }, if a.status = .ok then none else some (replyCause a.status, va, pa / 32 * 32))
  | some ⟨_, _, .loc pa, leaf⟩ =>
    match localErr s1 (isLost s1) pa n with
    | some x => pure (s1, some (10, va, x.2))
    | none =>
      let s2 := s1.landLate (fun x => x.meets pa n &&
        x.teams.any (fun t => (s1.team? t).any (fun u => u.ctx == g.ctx && u.serial == g.serial && u.idx == r.team)))
      let s3 := s2.storeRun pa (leBytes n (newValue r.op r.is64 (s2.loadNat pa n) r.data.toNat 0))
      pure (if r.ctl.toNat % 8 = 4 then s3.atController pa else s3.ctxL2 g.ctx pa leaf.cc true, none)
  | _ => pure (s1, none)

/-- Release a held copy: its engine may start it (R259, R263). -/
def releaseCopy (s : State) (g : Grid) (r : Staged) : State :=
  { s with jobs := s.jobs.map (fun j : Job =>
      if j.ctx == g.ctx && j.serial == g.serial && j.team == r.team && j.ticket == r.data.setWidth 32 && j.staged
      then { j with staged := false } else j) }

/-- Perform a staged store or release a held copy. -/
def applyStore (s : State) (g : Grid) (r : Staged) : Except OwnErr State :=
  if r.kind = 2 then .ok (releaseCopy s g r)
  else ownWrite s r.die g.ctx (some (Rec.spur g.bytes)) r.addr.toNat (leBytes (popCount r.ctl) r.data.toNat)

/-! ## Failures (R262, R421) -/

/-- A replayable record of an access for a staged record (R339). -/
def stagedRec (g : Grid) (r : Staged) (source cause va : Nat) : TrapRec :=
  { kind := 2, cause := cause, group := 0, lane := source * 64, team := BitVec.ofNat 32 r.team,
    a := if source = 2 then r.seq else 0, grid := BitVec.ofNat 32 g.serial, b := BitVec.ofNat 64 va,
    c := if cause = 20 then (Rec.spur g.bytes).setWidth 64 else 0 }

/-- The KIND 5 record of a contribution or store that failed (R262, R339). [DEDUCED, log 31] -/
def lostRec (g : Grid) (r : Staged) (cause va pa : Nat) : TrapRec :=
  { kind := 5, cause := cause, group := r.group, lane := r.lane, team := BitVec.ofNat 32 r.team, a := r.seq,
    grid := BitVec.ofNat 32 g.serial, b := BitVec.ofNat 64 va, c := BitVec.ofNat 64 pa }

/-- The grid waits for the replay of a record. -/
def State.gridWaits (s : State) (g : Grid) (r : TrapRec) (p : Replay) : State :=
  let pos := (s.ctx g.ctx).tqPos
  if (s.ctx g.ctx).tqRoom then
    (s.tqPost g.ctx r (some p)).modGrid g.ctx g.serial (fun k => { k with wait := some pos })
  else s

/-- A staged record could not be read back: it waits for a replay, or the grid dies (R421). -/
def State.readFails (s : State) (g : Grid) (r : Staged) : OwnErr → State
  | .fault cause va => s.gridWaits g (stagedRec g r 3 cause va) (.unspill g.serial)
  | .bad cause _ _ => s.gridDies g.ctx g.serial (gridRec r.team g.serial cause)
  | .ask q => s.ask r.die (gridKey g.ctx g.serial) q
  | .held => s

/-- A contribution or store fails: a KIND 5 record, and its staging record is gone (R262). `q` is the record as it was read back. -/
def State.stagedLost (s : State) (g : Grid) (r q : Staged) (f : StagedFail) : State :=
  (s.tqPost g.ctx (lostRec g q f.1 f.2.1 f.2.2) none).unstage g r

/-- A contribution goes to a place that is not local. Loads of the line that are under way are answered first, and later ones wait till the
team is drained, so that each sees whole teams (R258). [DEDUCED, log 113] -/
def State.contribute (s : State) (g : Grid) (die : Nat) (q : Req) : State :=
  let key := gridKey g.ctx g.serial
  let line := (q.remote s 0 none (some key) (ownSrc die)).line
  if s.remote.any (fun x => x.2.tag.isSome && x.2.own.isNone && x.2.line == line) then s
  else
    let k := (getT s.asks key).getD ⟨none, [], []⟩
    { s with asks := setT s.asks key { k with lines := if k.lines.contains line then k.lines else k.lines ++ [line] } }.ask die key q

/-- A contribution or store could not be performed: it waits for a replay, or it fails (R262). -/
def State.applyFails (s : State) (g : Grid) (r q : Staged) : OwnErr → State
  | .fault cause va => s.gridWaits g (stagedRec g q 2 cause va) (.drain g.serial r)
  | .bad cause va pa =>
    if (s.ctx g.ctx).tqRoom then (s.stagedLost g r q (cause, va, pa)).doneAsks (gridKey g.ctx g.serial) else s
  | .ask k => if r.kind = 1 then s.contribute g r.die k else s.ask r.die (gridKey g.ctx g.serial) k
  | .held => s

/-- Release one staged store or held copy of a grid, or say what keeps it. -/
def State.releaseStaged (s : State) (g : Grid) (r : Staged) : State :=
  match readStaged (s.withAsks (gridKey g.ctx g.serial)) g r with
  | .error e => s.readFails g r e
  | .ok (s1, q) =>
    match applyStore s1 g q with
    | .error e => s.applyFails g r q e
    | .ok s2 => (s2.doneAsks (gridKey g.ctx g.serial)).unstage g r

/-! ## Draining a team (R258) -/

/-- Answers that an act has used and will not ask for again leave its list: n of them, where `left` are still unused after them. -/
def State.dropAnswers (s : State) (key n left : Nat) : State :=
  match getT s.asks key with
  | none => s
  | some k =>
    let p := k.got.length - left - n
    { s with asks := setT s.asks key { k with got := k.got.take p ++ k.got.drop (p + n) } }

/-- A spilled record that has been read back is on the base die again. -/
def State.readBack (s : State) (g : Grid) (r q : Staged) : State :=
  s.modGrid g.ctx g.serial (fun k => { k with staged := k.staged.map (fun x => if x == r then { q with spilled := none } else x) })

/-- A team's contributions are applied one after the other, in the order of their keys, and the team is drained: `a` is the state so
far, which takes effect when all are applied, so that loads see whole teams; `b` is the state that stays when something keeps the
drain, in which only failures have been reported and spilled records are read back. A record that cannot be read back ends the grid,
and what comes before it stays applied (R421); `gone` is the cause of a read whose replay was abandoned. The fuel bounds the
contributions. [DEDUCED, log 113] -/
def drainTeam (gone : Option Nat) (c serial team : Nat) : Nat → State → State → State
  | 0, _, b => b
  | f + 1, a, b =>
    match a.grid? c serial with
    | none => b
    | some g => match nextDrain g team with
      | none => (a.doneAsks (gridKey c serial)).modGrid c serial (fun k =>
          { k with drained := k.drained + 1, done := k.done.filter (· != team) })
      | some r =>
        let used := fun (a2 : State) => b.dropAnswers (gridKey c serial) (a.ownIn.length - a2.ownIn.length) a2.ownIn.length
        let lost := fun (a2 : State) (x : StagedFail) =>
          if (a2.ctx c).tqRoom then drainTeam gone c serial team f (a2.stagedLost g r r x) ((used a2).stagedLost g r r x) else b
        let dies := fun (cause : Nat) => (a.doneAsks (gridKey c serial)).gridDies c serial (gridRec team serial cause)
        if r.spilled.isSome then
          match gone, readStaged a g r with
          | some cause, _ => dies cause
          | none, .error (.bad cause _ _) => dies cause
          | none, .error e => b.readFails g r e
          | none, .ok (a1, q) => drainTeam gone c serial team f (a1.readBack g r q) ((used a1).readBack g r q)
        else match applyRed a g r with
          | .error (.bad cause va pa) => lost a (cause, va, pa)
          | .error e => b.applyFails g r r e
          | .ok (a2, some x) => lost a2 x
          | .ok (a2, none) => drainTeam gone c serial team f (a2.unstage g r) b

/-- The replay of a record's read is abandoned: the grid dies, with the contributions before it applied (R421). [DEDUCED, log 113] -/
def State.readLost (s : State) (g : Grid) (cause : Nat) : State :=
  if (nextRelease g g.drained).isSome then s.gridDies g.ctx g.serial (gridRec g.drained g.serial cause)
  else drainTeam (some cause) g.ctx g.serial g.drained (2 * g.staged.length + 1) (s.withAsks (gridKey g.ctx g.serial)) s

/-! ## The events -/

/-- REDUCTION_DRAIN (R258): the oldest undrained team has ended, and has released what it staged; its contributions are applied in the
order of their keys, and it is drained. [DEDUCED, log 113] -/
def execReductionDrain (ctx serial : Nat) (s : State) : Out :=
  .next (match s.grid? ctx serial with
    | none => s
    | some g =>
      if g.wait.isSome || !g.done.contains g.drained || (nextRelease g g.drained).isSome || spillUnderWay s g g.drained then s
      else drainTeam none ctx serial g.drained (2 * g.staged.length + 1) (s.withAsks (gridKey ctx serial)) s)

/-- TICKET_PASS (R263): the team that holds the Ridgeline ticket releases the next of its staged stores and copies. -/
def execTicketPass (ctx serial : Nat) (s : State) : Out :=
  .next (match s.grid? ctx serial with
    | none => s
    | some g =>
      if g.wait.isSome || Rec.mode g.bytes != 1 || g.next ≤ g.drained || spillUnderWay s g g.drained then s
      else match nextRelease g g.drained with
        | some r => s.releaseStaged g r
        | none => s)

/-- Nothing of a grid is under way: every team has ended and drained, and its copies and accesses are complete (R285). -/
def gridQuiet (s : State) (g : Grid) : Bool :=
  g.dead ||
  (decide (Rec.teams g.bytes ≤ g.drained) && g.staged.isEmpty &&
    s.teams.all (fun t => t.ctx != g.ctx || t.serial != g.serial || t.st == .ended) &&
    s.jobs.all (fun j => j.ctx != g.ctx || j.serial != g.serial))

/-- A grid is complete: its spur counts it no more (R285, R314). -/
def State.gridGone (s : State) (g : Grid) : State :=
  let s1 := if g.counted then s.subBusy g.ctx (Rec.spur g.bytes) else s
  { s1 with grids := s1.grids.filter (fun h => !(h.ctx == g.ctx && h.serial == g.serial)) }

/-- The counter after a completed grid (R285). -/
def counterNext (g : Grid) (c : Nat) : Nat :=
  (c % 2 ^ 63 + Rec.incr g.bytes) % 2 ^ 63 + (if g.failed then 2 ^ 63 else c / 2 ^ 63 % 2 * 2 ^ 63)

/-- The update of a counter that is not local, as compare and swap at its target until the expected value was there; the fuel
bounds the answers in hand. [DEDUCED, log 32] -/
def remoteCounter (s : State) (q : Nat → Req) : Nat → Nat → Except OwnErr State
  | 0, _ => .ok s
  | f + 1, old => do
    let (s1, rs) ← ownAsk s [q old]
    let seen := leNat (((rs.head?.map (·.data)).getD []).take 8)
    if seen = old then pure s1 else remoteCounter s1 q f seen

/-- The update of a grid's counter as one step at its home (R285, R420). [DEDUCED, log 32] -/
def updateCounter (s : State) (g : Grid) : Except OwnErr State := do
  let va := Rec.counter g.bytes
  let (s1, ps) ← ownPlaces s 0 g.ctx (some (Rec.spur g.bytes)) .atomic [(va, 8)]
  match ps.head? with
  | some ⟨_, _, .rem tgt chip pa, leaf⟩ =>
    remoteCounter s1 (fun old =>
      ⟨va, leaf.lvl, tgt, chip, pa, .atomic .cas true (BitVec.ofNat 64 (counterNext g old)) (BitVec.ofNat 64 old)⟩)
      (s1.ownIn.length + 1) 0
  | some ⟨_, _, .loc pa, leaf⟩ =>
    match localErr s1 (isLost s1) pa 8 with
    | some x => .error (.bad 10 va x.2)
    | none => pure ((s1.storeRun pa (leBytes 8 (counterNext g (s1.loadNat pa 8)))).ctxL2 g.ctx pa leaf.cc true)
  | _ => pure s1

/-- The counter-failure record (KIND 7, R339). [DEDUCED, log 33] -/
def counterRec (g : Grid) (cause pa : Nat) : TrapRec :=
  { kind := 7, cause := cause, group := 0, lane := 0, team := 0xFFFFFFFF, a := 0xFFFFFFFF,
    grid := BitVec.ofNat 32 g.serial, b := BitVec.ofNat 64 (Rec.counter g.bytes), c := BitVec.ofNat 64 pa }

/-- The grid completes without its update, with a KIND 7 record once one can be posted (R285). -/
def State.counterLost (s : State) (g : Grid) (cause pa : Nat) : State :=
  if (s.ctx g.ctx).tqRoom then
    ((s.tqPost g.ctx (counterRec g cause pa) none).doneAsks (gridKey g.ctx g.serial)).gridGone g
  else s

/-- The header entries of a grid's teams that were saved when it died are cleared (R347). A write that fails is not retried.
[DEDUCED, log 82] -/
def State.clearHeaders (s : State) (g : Grid) : State :=
  let key := gridKey g.ctx g.serial
  let cleared := fun (a : State) => (a.doneAsks key).modGrid g.ctx g.serial (fun k => { k with headers := [] })
  match g.headers.foldlM (fun a k =>
      ownWrites a (massifOf (k / 32)) g.ctx (some (Rec.spur g.bytes)) (headerRuns a (a.ctx g.ctx) g.ctx k)) (s.withAsks key) with
  | .ok s1 => cleared s1
  | .error (.ask q) => s.ask 0 key q
  | .error .held => s
  | .error _ => cleared s

/-- A grid completes where nothing of it is under way: the counter is updated and the grid is gone; a fault of the update is reported
(R285). -/
def State.gridTry (s : State) (ctx serial : Nat) : State :=
  match s.grid? ctx serial with
  | none => s
  | some g =>
    if g.wait.isSome || !gridQuiet s g then s
    else if !g.headers.isEmpty then s.clearHeaders g
    else match g.noCount with
      | some cause => s.counterLost g cause 0
      | none =>
        if Rec.counter g.bytes = 0 then s.gridGone g
        else match updateCounter (s.withAsks (gridKey ctx serial)) g with
          | .ok s1 => (s1.doneAsks (gridKey ctx serial)).gridGone g
          | .error (.fault cause va) =>
            s.gridWaits g { counterRec g cause 0 with
                kind := 2, lane := 192, a := 0, b := BitVec.ofNat 64 va
                c := if cause = 20 then (Rec.spur g.bytes).setWidth 64 else 0 }
              (.counter serial)
          | .error (.bad cause _ pa) => s.counterLost g cause pa
          | .error (.ask q) => s.ask 0 (gridKey ctx serial) q
          | .error .held => s

/-- GRID_COMPLETE (R285). -/
def execGridComplete (ctx serial : Nat) (s : State) : Out := .next (s.gridTry ctx serial)

end Sys2Proof.Machine
end

