-- ==== Sys2Proof/Machine/Place.lean ====
section
/-! DEFINITION. Where teams fit (R284, R291, R292, R347): resources of a core, save slots, and the placement of single teams and
clusters. -/

namespace Sys2Proof.Machine

/-- A context takes launches. -/
def Context.isOpen (x : Context) : Bool := x.isUp && x.destroying.isNone

/-- The groups whose share of the core a team holds: those that have not ended or that have accesses outstanding (R193).
[DEDUCED, log 112] -/
def groupsHeld (s : State) (t : Team) : Nat :=
  ((List.range 32).filter (fun i => (s.group? (32 * t.tid + i)).any (fun g => !g.ended) || s.owes t (32 * t.tid + i))).length

/-- A team is moving to a layer of its column, or will once its landings have come (R375, R377). -/
def Column.isTarget (k : Column) (t : Team) (layer : Nat) : Bool :=
  k.moving.any (fun m => m.1 == t.tid && m.2.1 == layer) ||
  (k.defer.isSome && k.choice.any (fun m => m.1 == t.tid && m.2.1 == layer))

/-- The teams whose resources a core holds, a team on its way there among them. -/
def coreTeams (s : State) (column layer : Nat) : List Team :=
  s.teams.filter (fun t => t.column == column && holdsCore s t && (t.layer == layer ||
    (match getT s.columns column with | some k => k.isTarget t layer | none => false)))

/-- What the teams of a list hold of one resource. -/
def heldOf (s : State) (f : List Byte → Nat) (ts : List Team) : Nat := (ts.map (s.recField f)).sum

/-- A team of a launch record with a number of groups fits a core beside the teams there (R292). -/
def coreFits (s : State) (bs : List Byte) (groups : Nat) (ts : List Team) : Bool :=
  decide ((ts.map (groupsHeld s)).sum + groups ≤ 40) && decide (ts.length < 8) &&
  decide (heldOf s Rec.scratch ts + Rec.scratch bs ≤ 64) && decide (heldOf s Rec.acc ts + Rec.acc bs ≤ 64) &&
  decide (heldOf s Rec.obuf ts + Rec.obuf bs ≤ 64)

/-- The groups that a team needs room for: all of a new one, those of a known one whose share of a core it holds. -/
def groupsNeeded (s : State) (bs : List Byte) (tid : Nat) : Nat :=
  match s.team? tid with
  | some t => groupsHeld s t
  | none => Rec.groups bs

/-- The save slots of a column that teams of a context hold, but for one team (R347). -/
def slotsHeld (s : State) (c column but : Nat) : List Nat :=
  (s.teams.filter (fun t => t.ctx == c && t.st != .ended && t.tid != but)).flatMap (fun t =>
    (if t.column == column then [t.slot] else []) ++
    (match t.oldSlot with
     | some o => if o / 32 == column then [o % 32] else []
     | none => []))

/-- The lowest save slot of a column that no other team of the context holds (R347). -/
def saveSlot (s : State) (c column but : Nat) : Option Nat :=
  (List.range 32).find? (fun i => !(slotsHeld s c column but).contains i)

/-- The columns that a team keeps from other clusters because its own is fused: all of the rectangle, as long as one team of the cluster
is there (R140, R284). -/
def fusedColumns (s : State) (t : Team) : List Nat :=
  match s.grid? t.ctx t.serial with
  | none => []
  | some g =>
    if Rec.fuse g.bytes then t.clusterColumns g.bytes else []

/-- The teams of the cluster of a team that is known: what they hold of a column keeps none of them from it (R140). -/
def ownCluster (s : State) (tid : Nat) : List Nat :=
  match s.team? tid with
  | some t => (s.cluster t (s.recField Rec.clsize t)).map (·.tid)
  | none => []

/-- No team of another cluster is on a column. -/
def columnEmpty (s : State) (own : List Nat) (column : Nat) : Bool :=
  s.teams.all (fun t => t.column != column || own.contains t.tid || !holdsCore s t)

/-- A column may take a team, whose own cluster is given: no other fused cluster holds it, and a fused one needs it empty of others
(R140). -/
def columnOpen (s : State) (bs : List Byte) (own : List Nat) (column : Nat) : Bool :=
  s.teams.all (fun t => own.contains t.tid || !holdsCore s t || !(fusedColumns s t).contains column) &&
  (!Rec.fuse bs || columnEmpty s own column)

/-- The forecast of the layers' currents of a massif and rail: that of the last window; before the part's first window of 1 µs ends there
is none, and a window that nothing has told of is the part's own. [DEDUCED, log 50] -/
def State.forecast (s : State) (massif rail : Nat) : Option (List Nat) :=
  match getT s.balances (4 * massif + rail) with
  | some b => some b.load
  | none => if s.now < us 1 then none else some ((List.range 4).map (Config.layerLoad s.free (4 * massif + rail)))

/-- The spread between the busiest and the least busy of four layers exceeds a tenth of the busiest (R378). [DEDUCED, log 51] -/
def spreads (load : List Nat) : Bool :=
  let hi := load.foldl max 0
  decide (10 * hi < (hi - load.foldl min hi) * 100)

/-- A core's load with a team added would not carry the forecast spread of a rail past 10 % (R378): what a team adds is the forecast of
the part's own. [DEDUCED, log 50] -/
def balanced (s : State) (core : Nat) : Bool :=
  (List.range 4).all (fun rail => match s.forecast (massifOf (core / 4)) rail with
    | none => true
    | some load => !spreads (load.modify (core % 4) (· + Config.addedLoad s.free core rail)))

/-- The fitting cores of a column for a team of a context, its number aside (R292). -/
def fitLayers (s : State) (c : Nat) (bs : List Byte) (but column : Nat) : List Nat :=
  if (saveSlot s c column but).isNone || !columnOpen s bs (ownCluster s but) column then []
  else (List.range 4).filter (fun l => coreFits s bs (groupsNeeded s bs but) (coreTeams s column l) && balanced s (4 * column + l))

/-- The temperature that a core's sensor last read. [DESIGN CHOICE, log 4] -/
def State.temp (s : State) (core : Nat) : Nat :=
  match getT s.sensors core with
  | some k => k.temp.toNat
  | none => 0

/-- The coolest core of a list of layers of a column, on a tie the lowest (R292). -/
def coolest (s : State) (column : Nat) : List Nat → Option Nat
  | [] => none
  | l :: t => some (t.foldl (fun b k => if s.temp (4 * column + k) < s.temp (4 * column + b) then k else b) l)

/-- The core of a column that a team goes to. -/
def pickLayer (s : State) (c : Nat) (bs : List Byte) (but column : Nat) : Option Nat :=
  coolest s column (fitLayers s c bs but column)

/-- The columns that placement searches, in order: from the one after the last single placement, around (R292). -/
def searchOrder (s : State) : List Nat :=
  let n := s.grade.columns
  let from_ := match s.lastCol with
    | some k => k + 1
    | none => 0
  (List.range n).map (fun i => (from_ + i) % n)

/-- The place of a single team: column and layer (R292). -/
def placeSingle (s : State) (c : Nat) (bs : List Byte) (but : Nat) : Option (Nat × Nat) :=
  (searchOrder s).findSome? (fun k => (pickLayer s c bs but k).map (fun l => (k, l)))

/-- The columns of a cluster's rectangle by rank, with its origin at a column, none when it leaves the massif (R15, R284). -/
def rectangle (bs : List Byte) (column : Nat) : Option (List Nat) :=
  let x := column % 384 % 16
  let y := column % 384 / 16
  if 16 < x + Rec.clw bs ∨ 24 < y + Rec.clh bs then none
  else some (rectColumns bs column)

/-- The places of teams, each with its column. -/
def pickAll (s : State) (c : Nat) (bs : List Byte) : List (Nat × Nat) → Option (List (Nat × Nat))
  | [] => some []
  | (tid, k) :: t => do
    let l ← pickLayer s c bs tid k
    let r ← pickAll s c bs t
    pure ((k, l) :: r)

/-- The places of a cluster by rank: the first origin whose rectangle fits, and whose every column is empty for a fused one
(R140, R292). `who` gives the teams with their ranks. -/
def placeCluster (s : State) (c : Nat) (bs : List Byte) (who : List (Nat × Nat)) : Option (List (Nat × Nat)) :=
  (List.range s.grade.columns).findSome? (fun k => do
    let ks ← rectangle bs k
    if Rec.fuse bs && !ks.all (columnOpen s bs (ownCluster s ((who.map (·.1)).headD s.nextTid))) then none else some ()
    pickAll s c bs (who.map (fun w => (w.1, ks.getD w.2 0))))

/-- The places of a unit of teams with their ranks: a team, or a whole cluster (R291). -/
def placeUnit (s : State) (c : Nat) (bs : List Byte) (who : List (Nat × Nat)) : Option (List (Nat × Nat)) :=
  if Rec.clsize bs = 1 then (placeSingle s c bs ((who.map (·.1)).headD s.nextTid)).map (fun p => [p])
  else placeCluster s c bs who

/-- Saved teams that keep pages on a core. -/
def savedOn (s : State) (column layer : Nat) : List Team :=
  s.teams.filter (fun t => t.column == column && t.layer == layer && t.st == .saved && t.onDie)

/-- The core pages that a team of a number of pages gets: the lowest that no team there holds. [DEDUCED, log 37] -/
def takePages (held : List Nat) (n : Nat) : List Nat := ((List.range 64).filter (fun i => !held.contains i)).take n

/-- The core pages of a team that comes back to its core: those of its pages that are not in its block it has still, and for the others it
gets the lowest that no team there holds (R346, R348). [DEDUCED, log 37] -/
def keepPages {w : Nat} (held : List Nat) (own : List Nat) (saved : BitVec w) (n : Nat) : List Nat :=
  let kept := ((List.range n).filter (fun i => !saved.getLsbD i)).filterMap (fun i => own[i]?)
  let fresh := takePages (held ++ kept) n
  (List.range n).map (fun i =>
    if saved.getLsbD i then fresh.getD ((List.range i).countP (fun k => saved.getLsbD k)) 64 else own.getD i 64)

/-- A team takes its pages on its core, beside those of the teams there; in place, it keeps what it has there still. [DEDUCED, log 37] -/
def State.takeCore (s : State) (tid : Nat) (inPlace : Bool) : State :=
  match s.team? tid with
  | none => s
  | some t =>
    let ts := (s.teams.filter (fun u => u.column == t.column && u.layer == t.layer && holdsCore s u && u.tid != tid))
    let sp := ts.flatMap (·.spPages)
    let acc := ts.flatMap (·.accPages)
    let ob := ts.flatMap (·.obPages)
    let n := fun f => s.recField f t
    s.setTeam (if inPlace then
      { t with
        spPages := keepPages sp t.spPages t.spSaved (n Rec.scratch)
        accPages := keepPages acc t.accPages t.accSaved (n Rec.acc)
        obPages := keepPages ob t.obPages t.obSaved (n Rec.obuf) }
    else
      { t with
        spPages := takePages sp (n Rec.scratch)
        accPages := takePages acc (n Rec.acc)
        obPages := takePages ob (n Rec.obuf) })

/-- The pages of a saved team that lie on core pages of others and are not in its block yet. [DEDUCED, log 37] -/
def coverPages {w : Nat} (taken own : List Nat) (saved : BitVec w) : List Nat :=
  (List.range own.length).filter (fun i => !saved.getLsbD i && (own[i]?).any (fun p => taken.contains p))

/-- The pages of saved teams on a core that the allocation of a placed team covers are written to their blocks (R346); `after` is the
state with the team placed. A page that cannot be written keeps the team from being placed. [DEDUCED, log 37] -/
def State.coverSaved (s after : State) (column layer : Nat) : Except State State :=
  let ts := after.teams.filter (fun u => u.column == column && u.layer == layer && holdsCore after u)
  (savedOn after column layer).foldlM (fun a t =>
    let sp := coverPages (ts.flatMap (·.spPages)) t.spPages t.spSaved
    let acc := coverPages (ts.flatMap (·.accPages)) t.accPages t.accSaved
    let ob := coverPages (ts.flatMap (·.obPages)) t.obPages t.obSaved
    if sp.isEmpty && acc.isEmpty && ob.isEmpty then .ok a
    else match (a.withAsks (teamKey t)).savePages t sp acc ob with
      | .ok b => .ok (b.doneAsks (teamKey t))
      | .error e => .error (a.saveFailed t e)) s

end Sys2Proof.Machine
end

