-- ==== Sys2Proof/Machine/Launch.lean ====
section
/-! DEFINITION. Launching and waiting from the device: LAUNCH, LAUNCH.NB, LWAIT, LPOLL, and the event that ends an LWAIT (R295
to R300, R363). -/

namespace Sys2Proof.Machine

/-! ## LAUNCH (R296) -/

/-- The traps of a record's address: APERTURE outside the global window and the scratchpads, MISALIGNED off a multiple of 64. -/
def launchAddr (ga : Nat) : Except Stop Unit :=
  if (2 ^ 57 ≤ ga ∧ ga < 0xFE00000000000000) ∨ 0xFF00000000000000 ≤ ga then trapWith 6 0 ga
  else if ga % 64 ≠ 0 then trapWith 7 0 ga
  else .ok ()

/-- The pending queue of the group's team. [DEDUCED, log 79] -/
def launchQueue (s : State) (e : Env) : LaunchQueue :=
  (getT s.launches e.t.tid).getD ⟨e.t.ctx, e.gr.rserial, e.t.idx, [], none⟩

/-- The group's earlier accesses are performed at device scope, the record is read and enters the team's pending queue; its spur counts
it from now on (R296, R314). -/
def launchEnter (s : State) (e : Env) (ga : Nat) : Except Stop State := do
  let (s1, rs) ← loadLanes (s.landOf e.g.gid) e 64 [(lowLane e.c.mask, ga)]
  let bs := rs.flatMap (·.2)
  let q := launchQueue s e
  let n := spurCounts s1 e.t.ctx (Rec.spur bs)
  let s2 := if n then s1.addBusy e.t.ctx (Rec.spur bs) 1 else s1
  pure { s2 with launches := setT s2.launches e.t.tid { q with entries := q.entries ++ [⟨bs, ga, e.g.gid % 32, s.clk, n⟩] } }

/-- The team's pending queue holds four entries. -/
def queueFull (s : State) (e : Env) : Bool := decide (4 ≤ (launchQueue s e).entries.length)

/-- LAUNCH (R296). [DEDUCED, log 29] -/
def execLaunch (g : Pred) (a : KReg) (s : State) : Out :=
  s.uniform g (fun e => do
    let ga := (e.g.regs.getK2 a.val).toNat
    launchAddr ga
    if queueFull s e then .error (.park s .launch)
    else do
      let s1 ← launchEnter s e ga
      .ok (s1.retire e e.g))

/-- LAUNCH.NB (R296, R353, R363): a replay acts as LAUNCH where true was recorded and launches nothing where false was. -/
def execLaunchNb (g d : Pred) (a : KReg) (s : State) : Out :=
  s.uniform g (fun e => do
    let ga := (e.g.regs.getK2 a.val).toNat
    launchAddr ga
    detBan e
    let put := fun b => e.g.withRegs (e.g.regs.setQ d.val b)
    let r ← sampleOpen s e
    match r with
    | some (v, _) =>
      if v = 0 then .ok ((s.sampleClose e 0 r).retire e (put false))
      else if queueFull s e then .error (.park s .launch)
      else do
        let s1 ← launchEnter s e ga
        .ok ((s1.sampleClose e 1 r).retire e (put true))
    | none =>
      if queueFull s e then .ok ((s.sampleClose e 0 r).retire e (put false))
      else do
        let s1 ← launchEnter s e ga
        .ok ((s1.sampleClose e 1 r).retire e (put true)))

/-! ## LWAIT and LPOLL (R299) -/

/-- A counter read as an 8-byte load of the global window. -/
def counterAt (s : State) (e : Env) (ga : Nat) : Except Stop (State × Nat) :=
  if 2 ^ 57 ≤ ga then trapWith 6 0 ga
  else if ga % 8 ≠ 0 then trapWith 7 0 ga
  else do
    let (s1, rs) ← loadLanes s e 8 [(lowLane e.c.mask, ga)]
    pure (s1, leNat (rs.flatMap (·.2)))

/-- A counter has reached a target: bits [62:0] compared unsigned. -/
def counterMet (c target : Nat) : Bool := decide (target % 2 ^ 63 ≤ c % 2 ^ 63)

/-- What LWAIT returns: false for a counter whose FAIL bit is set. -/
def counterGood (c : Nat) : Bool := decide (c < 2 ^ 63)

/-- LWAIT (R299): it waits until the counter reaches the target, without a bound. -/
def execLwait (g d : Pred) (a b : KReg) (s : State) : Out :=
  s.uniform g (fun e => do
    let ga := (e.g.regs.getK2 a.val).toNat
    let target := (e.g.regs.getK2 b.val).toNat
    let (s1, c) ← counterAt s e ga
    if counterMet c target then .ok (s1.retire e (e.g.withRegs (e.g.regs.setQ d.val (counterGood c))))
    else .error (.park s1 (.lwait d.val ga target none)))

/-- LPOLL (R299, R353, R363). [DEDUCED, log 78] -/
def execLpoll (g : Pred) (d a : KReg) (s : State) : Out :=
  s.uniform g (fun e => do
    let ga := (e.g.regs.getK2 a.val).toNat
    if 2 ^ 57 ≤ ga then trapWith 6 0 ga
    else if ga % 8 ≠ 0 then trapWith 7 0 ga
    else do
      detBan e
      let (s1, c) ← counterAt s e ga
      let r ← sampleOpen s1 e
      let v := match r with | some (v, _) => v | none => c
      .ok ((s1.sampleClose e v r).retire e (e.g.withRegs (e.g.regs.setK2 d.val (BitVec.ofNat 64 v)))))

/-- A cluster of swapped teams is restorable (R300). -/
def State.makeRestorable (s : State) (t : Team) : State :=
  let us := s.cluster t (s.recField Rec.clsize t)
  us.foldl (fun a u => (a.modTeam u.tid (fun k => { k with restorable := true })).forgetAsk (teamKey u)) s

/-- A swapped team whose group finds its condition met becomes restorable with its cluster; a counter that is not local is asked for,
and one that cannot be read meets nothing (R300). [DEDUCED, log 78] -/
def State.wakeSwapped (s : State) (gid : Nat) : State :=
  match s.team? (gid / 32) with
  | none => s
  | some t =>
    if t.st ≠ .saved ∨ t.restorable then s
    else match t.conds.find? (fun c => match c with | .counter k _ _ | .spur k _ => k == gid) with
      | some (.spur _ n) => if subtreeDone s t.ctx n then s.makeRestorable t else s
      | some (.counter _ addr target) =>
        (match ownRead (s.withAsks (teamKey t)) t.massif t.ctx (s.spurOf t) addr 8 with
         | .ok (s1, bs) =>
           let s2 := s1.doneAsks (teamKey t)
           if counterMet (leNat bs) target then s2.makeRestorable t else s2
         | .error (.ask r) => s.ask t.massif (teamKey t) r
         | .error .held => s
         | .error _ => s.doneAsks (teamKey t))
      | none => s

/-- The counter of a waiting LWAIT as a read of it gives it: known, with the state after the read; on its way or not read yet, with the wait
that goes on; or not to be had, when the instruction executes again and meets why. -/
inductive CounterRead where
  | known (s : State) (c : Nat)
  | waits (s : State) (ask : Option Nat)
  | again
  deriving DecidableEq, Repr

/-- The counter of a waiting LWAIT: read at once, or by a request whose answer comes later. [DEDUCED, log 78] -/
def readCounter (s : State) (e : Env) (addr : Nat) : Option Nat → CounterRead
  | some n =>
    (match getT e.g.replies n with
     | none => .waits s (some n)
     | some r => if r.status = .ok then .known s (leNat ((r.data.drop (addr % 32)).take 8)) else .again)
  | none =>
    match counterAt s { e with g := { e.g with fenceS := true } } addr with
    | .ok (s1, c) => .known s1 c
    | .error (.park s1 (.reply f)) => if f.tags.isEmpty then .waits s none else .waits s1 f.tags.head?
    | .error _ => .waits s none

/-- LWAIT_WAKE (R299, R300): the counter of a waiting group meets its target, and the LWAIT returns. A counter that lies
elsewhere is asked for while the group waits on. [DEDUCED, log 78] -/
def execLwaitWake (gid : Nat) (s : State) : Out :=
  .next (match ((s.group? gid).filter (fun g => g.stop.isNone)).bind (·.park) with
    | some ⟨.lwait q addr target ask, since⟩ =>
      (match s.parkedEnv gid 0xD2 with
       | none => s
       | some e =>
         let waits := fun (a : State) (n : Option Nat) =>
           a.modGroup gid (fun g => { g with park := some ⟨.lwait q addr target n, since⟩, replies := if n.isSome then g.replies else [] })
         match readCounter s e addr ask with
         | .known s1 c =>
           if counterMet c target then s1.retire e (e.g.withRegs (e.g.regs.setQ q (counterGood c)))
           else if ask.isSome then waits s none else s
         | .waits s1 n => if ask.isNone && n.isNone then s else waits s1 n
         | .again => s.modGroup gid (fun g => { g with park := none }))
    | _ => s.wakeSwapped gid)

end Sys2Proof.Machine
end

