-- ==== Sys2Proof/Machine/Accept.lean ====
section
/-! DEFINITION. Acceptance of launch records by the queue scheduler (R283, R297, R314, R352, R358, R364, R365). -/

namespace Sys2Proof.Machine

/-- Where a record comes from: a host queue, or a team's group; `at_` is what field B of a KIND 6 record names, `rserial` the
acting grid's (R339, R360). -/
structure Origin where
  queue   : Option Nat
  team    : Word
  group   : Nat
  rserial : Nat
  at_     : Nat
  deriving DecidableEq, Repr

/-! ## The checks (R283) -/

/-- The number of a check, when it fails. -/
def failing (n : Nat) (bad : Bool) : Option Nat := if bad then some n else none

/-- Cause 1: a reserved bit. -/
def recReserved (b : List Byte) : Bool :=
  fieldB b 40 8 / 32 % 2048 != 0 || fieldB b 56 1 / 64 != 0 || fieldB b 59 1 / 32 != 0 || fieldB b 61 1 / 32 != 0 ||
  fieldB b 63 1 / 8 != 0

/-- Cause 2: ENTRY. -/
def recEntry (b : List Byte) : Bool := decide (2 ^ 57 ≤ Rec.entry b) || Rec.entry b % 128 != 0

/-- Cause 3: the extents and the cluster. -/
def recExtent (b : List Byte) : Bool :=
  Rec.teams b == 0 || decide (2 ^ 32 - 1 < Rec.teams b) || Rec.teams b % Rec.clsize b != 0 || decide (12 < Rec.clsize b)

/-- The completion counter is misaligned or outside the global window. -/
def recCounter (b : List Byte) : Bool :=
  Rec.counter b != 0 && (decide (2 ^ 57 ≤ Rec.counter b) || Rec.counter b % 8 != 0)

/-- Cause 4: ranges. -/
def recRange (b : List Byte) : Bool :=
  Rec.groups b == 0 || decide (32 < Rec.groups b) || Rec.regs b == 0 || decide (96 < Rec.regs b) ||
  decide (64 < Rec.scratch b) || decide (16 < Rec.acc b) || decide (64 < Rec.obuf b) ||
  !(Rec.stackLog b == 0 || (decide (8 ≤ Rec.stackLog b) && decide (Rec.stackLog b ≤ 24))) || recCounter b

/-- MODE is REC or REPLAY. -/
def recLogs (b : List Byte) : Bool := Rec.mode b == 2 || Rec.mode b == 3

/-- Cause 6: the promise. -/
def recPromise (b : List Byte) : Bool := (Rec.mode b == 1 && Rec.promise b != 0) || Rec.promise b == 3

/-- Cause 8: the spur (R314). -/
def recSpur (s : State) (c : Nat) (b : List Byte) : Bool :=
  let n := Rec.spur b
  !spurCurrent (s.ctx c) n || spurState (s.ctx c) (spurSlot n) == 2

/-- Cause 9: the Cairn ring (R352). -/
def recRing (x : Context) (b : List Byte) : Bool :=
  let dir := (x.reg CtxReg.cairnDir).toNat
  (Rec.mode b == 2 && dir != 1) || (Rec.mode b == 3 && dir != 2) || (recLogs b && x.reg CtxReg.cairnLog == 0)

/-- The cause of the first check of R283 that a record fails. -/
def refusal (s : State) (c : Nat) (b : List Byte) : Option Nat :=
  (failing 1 (recReserved b)) <|> (failing 2 (recEntry b)) <|> (failing 3 (recExtent b)) <|> (failing 4 (recRange b)) <|>
  (failing 5 (recLogs b && !s.grade.hasCairn)) <|> (failing 6 (recPromise b)) <|>
  (failing 7 (Rec.queued b && decide (Rec.ovSize b < 65536))) <|> (failing 8 (recSpur s c b)) <|>
  (failing 9 (recRing (s.ctx c) b))

/-! ## Acceptance -/

/-- A grid of an accepted record. [DEDUCED, log 28] -/
def newGrid (s : State) (c : Nat) (b : List Byte) (o : Origin) (counted : Bool) : Grid :=
  let x := s.ctx c
  { ctx := c, serial := x.serials, bytes := b, accepted := s.clk, queue := o.queue, counted := counted,
    rserial := x.rserial, next := 0, done := [], drained := 0, failed := false, staged := [], csyncs := [], blocked := none,
    holds := false, wait := none, noCount := none, dead := false, headers := [] }

/-- A grid enters the context's dispatch list and takes the next serial (R291, R339). [DEDUCED, log 28] -/
def State.addGrid (s : State) (g : Grid) : State :=
  { s with grids := s.grids ++ [g] }.modCtx g.ctx (fun x => { x with
    serials := x.serials + 1
    rserial := if recLogs g.bytes && !g.dead then x.rserial + 1 else x.rserial })

/-- A launch that runs nothing and completes with FAIL (R283, R285). Its counter is left alone where the check of the counter
itself failed. [DEDUCED, log 33] -/
def Grid.refused (g : Grid) : Grid :=
  { g with
    bytes := if recCounter g.bytes then g.bytes.take 24 ++ leBytes 8 0 ++ g.bytes.drop 32 else g.bytes
    failed := true
    dead := true }

/-- A refused launch completes at its acceptance (R283, R407); an update of its counter that must wait, for a place that is not local or a
replay, is made later as that of any grid. [DEDUCED, log 33] -/
def State.refuse (s : State) (g : Grid) : State := (s.addGrid g).gridTry g.ctx g.serial

/-- The launch-failure record (KIND 6, R339). -/
def launchRec (g : Grid) (o : Origin) (cause : Nat) : TrapRec :=
  { kind := 6, cause := cause, group := o.group, lane := 0, team := o.team,
    a := (match o.queue with | some q => BitVec.ofNat 32 q | none => 0xFFFFFFFF), grid := BitVec.ofNat 32 g.serial,
    b := BitVec.ofNat 64 o.at_, c := BitVec.ofNat 64 (Rec.entry g.bytes) }

/-- DIGEST of a TYPE 4 record: the words at bytes 0 to 15 and 56 to 63 together (R358). -/
def launchDigest (b : List Byte) : Nat :=
  [0, 4, 8, 12, 56, 60].foldl (fun d i => d ^^^ fieldB b i 4) 0

/-- The record of an event without a group (TYPE 4 and 5, R360). -/
def unitRec (type group rserial team obj digest : Nat) : LogRec :=
  { pos := 0, type := type, lane := 0, group := group, grid := rserial % 256, team := team, obj := obj, digest := digest }

/-- The turn of an event without a group, whose actor its own TYPE tells apart from a group's (R360, R364). [DEDUCED, log 25] -/
def unitTurn (x : Context) (recs : List LogRec) (q : LogRec) : Turn :=
  let win := recs.take 4096
  match win.find? (fun r => r.type == q.type && r.grid == q.grid && r.team == q.team && r.group % 32 == q.group) with
  | none => if win.length = 4096 ∨ (x.reg CtxReg.cairnEnd).getLsbD 0 then .diverged 0xFFFFFFFF else .short
  | some r =>
    if r.obj ≠ q.obj then .diverged r.pos
    else if win.any (fun k => k.type != 6 && k.obj == q.obj && x.isBefore k.pos r.pos) then .behind
    else .go r

/-- What waits for a ring position or a record is noted with its context, or is so no more (R362, R370). [DEDUCED, log 26] -/
def State.waitFor (s : State) (c : Nat) (w : Waiter) (b : Bool) : State :=
  s.modCtx c (fun x =>
    let ws := x.stalled.filter (· != w)
    { x with stalled := if b then w :: ws else ws })

/-- Records that count as consumed do so no further than the record that accepts the next grid of the same GRID (R367). [DEDUCED, log 27] -/
def Context.stopGone (x : Context) (grid : Nat) (p : Nat) : Context :=
  { x with gone := x.gone.map (fun g => if g.grid = grid ∧ g.stop.isNone then { g with stop := some p } else g) }

/-- The answer of the Cairn unit to an event without a group: the state after it is logged or consumed, with the record it took; the
state in which it waits; or a divergence. -/
inductive Logged where
  | done (s : State) (r : Option Nat)
  | wait (s : State)
  | diverged
  deriving DecidableEq, Repr

/-- Log an event of a grid without a group: written in REC, its turn taken in REPLAY (R358, R362, R364). The record that accepts a grid ends
what earlier teams of its GRID skip before CAIRN_CONS may pass it (R367). -/
def unitLogged (s : State) (c : Nat) (mode : Nat) (w : Waiter) (r : LogRec) : Logged :=
  let x := s.ctx c
  if mode = 2 then
    (if s.cairnRoom c 1 then .done ((s.cairnWrite c r).waitFor c w false) none else .wait (s.waitFor c w true))
  else if mode = 3 then
    match unitTurn x (cairnWindow s x) r with
    | .go q =>
      let s1 := if r.type = 4 then s.modCtx c (fun y => y.stopGone (y.rserial % 256) q.pos) else s
      .done ((s1.cairnConsume c q.pos).waitFor c w false) (some q.pos)
    | .behind => .wait (s.waitFor c w false)
    | .short => .wait (s.waitFor c w true)
    | .diverged _ => .diverged
  else .done s none

/-- A divergence without a group: a fatal record with cause 22 (R365). -/
def State.unitDiverges (s : State) (c serial : Nat) : State :=
  (s.modCtx c (fun x => { x with diverged := true })).postFatal c
    { kind := 3, cause := 22, group := 0, lane := 0, team := 0xFFFFFFFF, a := 0, grid := BitVec.ofNat 32 serial, b := 0,
      c := 0 }

/-- A REPLAY grid of a cancelled spur consumes its TYPE 4 record without being performed, at once or when the ring holds it (R367).
[DEDUCED, log 27] -/
def State.skipLaunch (s : State) (c : Nat) (b : List Byte) (q : LogRec) : State :=
  if Rec.mode b ≠ 3 then s
  else (s.modCtx c (fun x => { x with skips := x.skips ++ [⟨q.grid, q.team, q.group, q.digest⟩] })).takeSkips c

/-- Accept or refuse a record (R283); where it must wait for a trap-queue position (R341) or for Cairn (R362, R364), the state in which
it does. -/
def acceptRecord (s : State) (c : Nat) (b : List Byte) (o : Origin) (counted : Bool) (w : Waiter) : Except State State :=
  let n := counted || spurCounts s c (Rec.spur b)
  let log := unitRec 4 o.group o.rserial o.team.toNat 0xFFFFFFFE (launchDigest b)
  match refusal s c b with
  | some 8 => .ok ((s.skipLaunch c b log).refuse (newGrid s c b o counted).refused)
  | some cause =>
    if (s.ctx c).tqRoom then
      let g := (newGrid s c b o counted).refused
      .ok ((s.tqPost c (launchRec (newGrid s c b o counted) o cause) none).refuse g)
    else .error s
  | none =>
    match unitLogged s c (Rec.mode b) w log with
    | .wait s1 => .error s1
    | .diverged =>
      let g := newGrid s c b o counted
      .ok ((s.unitDiverges c g.serial).addGrid { g with failed := true, dead := true })
    | .done s1 _ =>
      let s2 := if n && !counted then s1.addBusy c (Rec.spur b) 1 else s1
      .ok (s2.addGrid (newGrid s2 c b o n))

/-- The clk from which a pending entry may be accepted (R297). -/
def acceptClk (q : LaunchQueue) (p : Pending) : Nat := max (p.entry + 400) ((q.last.map (· + 100)).getD 0)

/-- LAUNCH_ACCEPT (R297): a team's oldest pending entry, once its clk has come. A queue that is empty and whose team is gone is
forgotten. [DEDUCED, log 79] -/
def execLaunchAccept (tid : Nat) (s : State) : Out :=
  .next (match getT s.launches tid with
    | none => s
    | some q =>
      match q.entries with
      | [] => if (s.team? tid).isNone then { s with launches := delT s.launches tid } else s
      | p :: t =>
        if s.clk < acceptClk q p || !(s.ctx q.ctx).isOpen then s
        else match acceptRecord s q.ctx p.bytes ⟨none, BitVec.ofNat 32 q.team, p.group, q.rserial, p.place⟩ p.counted (.launch tid) with
          | .error s1 => s1
          | .ok s1 => { s1 with launches := setT s1.launches tid { q with entries := t, last := some s.clk } })

end Sys2Proof.Machine
end

