-- ==== Sys2Proof/Machine/Boot.lean ====
section
/-! DEFINITION. Reset and start-up (R399, R400) and the commands of firmware and life cycle (R401 to R403). -/

namespace Sys2Proof.Machine

/-! ## Choosing a slot (R400, R401) -/

/-- The firmware key that a life-cycle state names: 0 manufacturing, 1 production, 2 return (R401). -/
def lifeKey (life : BitVec 2) : Fin 3 := if life = 0 then 0 else if life = 3 then 2 else 1

/-- The ROM accepts an image (R400). -/
def acceptable (life : BitVec 2) (fused : BitVec 8) (i : Image) : Bool :=
  i.key == some (lifeKey life) && (life != 2 || decide (fused ≤ i.rollback))

/-- The slot that runs: false is A, true is B, none recovery (R400). [DESIGN CHOICE, log 102] -/
def chooseSlot (life : BitVec 2) (fused : BitVec 8) (a b : Option Image) : Option Bool :=
  match a.filter (acceptable life fused), b.filter (acceptable life fused) with
  | none, none => none
  | some _, none => some false
  | none, some _ => some true
  | some x, some y =>
    if y.version < x.version then some false else if x.version < y.version then some true else some Config.tieSlot

/-- The image that runs, none in recovery (R403). -/
def Firmware.image (f : Firmware) : Option Image :=
  match f.running with
  | none => none
  | some b => if f.recovery then none else if b then f.slotB else f.slotA

/-- What a reset leaves in a slot: its image, unless a write of the slot was under way and spoiled it (R403). [DESIGN CHOICE, log 102] -/
def slotAfter (fw : Firmware) (slot : Bool) (free : Nat) : Option Image :=
  let old := if slot then fw.slotB else fw.slotA
  if fw.writing && fw.selSlot == slot && !Config.slotKept free then none else old

/-- The life-cycle state from the next reset on (R401). -/
def lifeAfter (fw : Firmware) : BitVec 2 := fw.pending.getD fw.life

/-- Firmware as a reset finds it: a pending transition takes effect, the identity key comes with provisioning and goes with the
return, the nonce is discarded, the slot is chosen (R400, R401, R403). -/
def Firmware.boot (fw : Firmware) (free : Nat) : Firmware :=
  let life := lifeAfter fw
  let a := slotAfter fw false free
  let b := slotAfter fw true free
  let run := chooseSlot life fw.fused a b
  { life := life, recovery := run.isNone, slotA := a, slotB := b, running := run, fused := fw.fused, nonce := none,
    pending := none, status := 0, selSlot := false, length := 0, addr := 0, writing := false,
    identity := if fw.pending = some 1 then true else if fw.pending = some 3 then false else fw.identity
    mapOuts := fw.mapOuts }

/-! ## The reset sequence (R399) -/

/-- A stack as the reset sequence leaves it: firmware has applied its recorded map-out, if one is left (R76, R399). [DEDUCED, log 101] -/
def Firmware.stack (fw : Firmware) (i : Nat) : Stack :=
  match getT fw.mapOuts i with
  | some m => if m = 0xFFFF then Stack.init else { Stack.init with live := m, target := m, goal := m, rstate := 3 }
  | none => Stack.init

/-- The part at the start of the reset sequence: everything as State.reset has it, but what a reset does not reach: the grade with its
stacks and the straps, the fuses and the flash, the host's memory, and the model's own counters. [DEDUCED, log 101] -/
def State.rebooted (s : State) : State :=
  { State.reset with
    agenda := s.agenda
    free := s.free + 1
    grade := s.grade
    starting := true
    hostMem := s.hostMem
    hbm := (List.range s.grade.stacks).map s.fw.stack
    fw := s.fw.boot s.free
    chipId := s.chipId
    outbox := s.outbox
    nextTid := s.nextTid
    nextJob := s.nextJob
    nextTag := s.nextTag }

/-- COLD_RESET (R399). [DEDUCED, log 101] -/
def execColdReset (s : State) : Out := .next s.rebooted

/-- WARM_RESET (R399): the same sequence. [DESIGN CHOICE, log 14; DEDUCED, log 101] -/
def execWarmReset (s : State) : Out := .next s.rebooted

/-- STARTUP_DONE (R399). -/
def execStartupDone (s : State) : Out := .next { s with starting := false }

/-! ## LC_CMD (R403) -/

/-- A write of LC_CMD starts a command of this number: the part has started and no command is under way (R403). -/
def lcStarts (s : State) (op : Nat) (val : Word) : Bool := !s.starting && s.fw.status != 1 && val.toNat / 2 ^ 28 == op

/-- The fields of LC_CMD that a write stores. -/
def lcFields (fw : Firmware) (val : Word) : Firmware := { fw with selSlot := val.getLsbD 24, length := val.setWidth 16 }

/-- LC_WRITE_IMAGE (R403): refused for the running slot or a length out of range, else busy until the image is in. [DEDUCED, log 103] -/
def execLcWriteImage (val : Word) (s : State) : Out :=
  let fw := lcFields s.fw val
  .next (
    if !lcStarts s 1 val then s
    else if fw.running = some fw.selSlot ∨ fw.length = 0 ∨ 16384 < fw.length.toNat then
      { s with fw := { fw with status := 2 } }
    else { s with fw := { fw with status := 1, writing := true } })

/-- The image that a slot holds once it is written: one that does not verify is never acceptable (R403). [DEDUCED, log 103] -/
def written (fw : Firmware) (i : Image) : Image := if acceptable fw.life fw.fused i then i else { i with key := none }

/-- LC_WRITE_IMAGE_DONE (R403): none stands for an access that failed, which changes nothing. [DEDUCED, log 103] -/
def execLcWriteImageDone (img : Option Image) (s : State) : Out :=
  .next (
    if !s.fw.writing then s
    else match img with
      | none => { s with fw := { s.fw with status := 2, writing := false } }
      | some i =>
        let fw := { s.fw with status := if acceptable s.fw.life s.fw.fused i then 0 else 3, writing := false }
        { s with fw := if fw.selSlot then { fw with slotB := some (written fw i) } else { fw with slotA := some (written fw i) } })

/-- The transitions of R401: where a token's transition leads from a state. -/
def lifeNext (life : BitVec 2) (transition : BitVec 8) : Option (BitVec 2) :=
  if transition = 1 ∧ life = 0 then some 1
  else if transition = 2 ∧ life = 1 then some 2
  else if transition = 3 ∧ (life = 1 ∨ life = 2) then some 3
  else none

/-- The state that an accepted token leads to: its signature verifies under the key for its transition, its reserved bytes are
zero, its nonce is the current one, and the transition is allowed (R401 to R403). -/
def tokenLeads (fw : Firmware) (t : Token) : Option (BitVec 2) :=
  match lifeNext fw.life t.transition with
  | some l =>
    if t.zeros && fw.nonce == some t.nonce && (t.key.map (fun k => k.val + 1)) == some t.transition.toNat then some l else none
  | none => none

/-- LC_SUBMIT_TOKEN (R402, R403): none stands for a token that could not be read. [DEDUCED, log 103] -/
def execLcSubmitToken (val : Word) (tok : Option Token) (s : State) : Out :=
  let fw := lcFields s.fw val
  .next (
    if !lcStarts s 2 val then s
    else match tok.bind (tokenLeads fw) with
      | some l => { s with fw := { fw with status := 0, pending := some l, nonce := none } }
      | none => { s with fw := { fw with status := 2 } })

/-- LC_FETCH_NONCE (R403): the nonce is drawn, kept and written to the host. [DESIGN CHOICE, log 5; DEDUCED, log 103] -/
def execLcFetchNonce (val : Word) (entropy : BitVec 128) (ok : Bool) (s : State) : Out :=
  let fw := lcFields s.fw val
  .next (
    if !lcStarts s 3 val then s
    else if !ok then { s with fw := { fw with status := 2 } }
    else { s with
      fw := { fw with status := 0, nonce := some entropy }
      hostMem := writeB s.hostMem fw.addr.toNat (leBytes 16 entropy.toNat) })

end Sys2Proof.Machine
end

