-- ==== Sys2Proof/Machine/Probe.lean ====
section
/-! DEFINITION. XPROBE and XINVAL, and the dropping of translations (R99 to R104, R237, R313). -/

namespace Sys2Proof.Machine

/-! ## XPROBE -/

/-- The status word of a failed probe: CAUSE and LEVEL (R100). [DEDUCED, log 59] -/
def probeFail (cause lvl : Nat) : Word := BitVec.ofNat 32 (cause * 2 ^ 28 + lvl * 2 ^ 25)

/-- The result of a probe of a leaf: CHIP, TGT, SIZE and the physical address of the byte (R100). -/
def probeOk (e lvl va : Nat) : DWord × Word :=
  (BitVec.ofNat 64 (fld e 63 52 * 2 ^ 52 + fld e 51 50 * 2 ^ 50 + lvl * 2 ^ 48 +
      (fld e 47 16 * 65536 + va % unitSize lvl) % 2 ^ 48),
    BitVec.ofNat 32 (2 ^ 31 + lvl * 2 ^ 25 + e % 512))

/-- What XPROBE of an address gives: the state with the caches filled, the result and the status; a walk that a table in a crest page holds
gives nothing yet (R60, R100, R311). [DEDUCED, log 59] -/
def probe (s : State) (c : Nat) (a : Agent) (va : Nat) : Option (State × DWord × Word) :=
  if 2 ^ 57 ≤ va then some (s, 0, probeFail 3 0)
  else match leafOf s c a none va with
    | .error .held => none
    | .error (.absent lvl) | .error (.prot lvl) => some (s, 0, probeFail 1 lvl)
    | .error (.bad lvl) => some (s, 0, probeFail 2 lvl)
    | .error (.lost lvl _) => some (s, 0, probeFail 4 lvl)
    | .ok (s1, e, lvl) => some (s1, probeOk e lvl va)

/-- XPROBE (R99 to R101): the result pair is written first, then the status. -/
def execXprobe (g : Pred) (d a b : KReg) (s : State) : Out :=
  s.privileged g (fun e =>
    match probe s e.t.ctx e.agent (e.g.regs.getK2 a.val).toNat with
    | none => .error (.park s .held)
    | some r => .ok (r.1.retire e (e.g.withRegs ((e.g.regs.setK2 d.val r.2.1).setK b.val r.2.2))))

/-! ## XINVAL -/

/-- Two ranges of addresses meet. -/
def rangesMeet (a n b m : Nat) : Bool := decide (a < b + m) && decide (b < a + n)

/-- The translations of a context that meet a range are dropped from every cache, with the table entries whose span meets it, and its
LIVE residencies whose source meets it become STALE, their instances gone (R103, R236, R237). [DESIGN CHOICE, log 58] -/
def State.dropRange (s : State) (c a n : Nat) : State :=
  let hit := fun r : Residency => r.st == 2 && rangesMeet a n r.layout.base r.layout.bytes
  let slots := ((s.ctx c).resid.filter (fun r => hit r.2)).map (·.1)
  State.dropInsts { s.modCtx c (fun x => { x with
      resid := x.resid.map (fun r => if hit r.2 then (r.1, { r.2 with st := 3 }) else r) }) with
    tlb := s.tlb.filter (fun t => !(t.ctx == c && rangesMeet a n t.base t.size))
    walks := s.walks.filter (fun w => !(w.ctx == c && rangesMeet a n w.base (entrySpan w.level))) }
      (fun i => i.ctx == c && slots.contains i.slot)

/-- The context that an act of the part asks for under a number; none for a queue, which is not translated (R420). -/
def askCtx (s : State) (key : Nat) : Option Nat :=
  match key % 4 with
  | 0 => (s.team? (key / 4)).map (·.ctx)
  | 3 => none
  | _ => some (key / 4 % 64)

/-- The context whose translations a request used. -/
def Remote.ctx? (s : State) (r : Remote) : Option Nat :=
  match r.own, r.job with
  | some key, _ => askCtx s key
  | none, some (id, _) => (s.jobs.find? (fun j => j.id == id)).map (·.ctx)
  | none, none => (s.team? (r.gid / 32)).map (·.ctx)

/-- The instruction of a group that is under way, by its own number. -/
def Group.flightMark (g : Group) : Option Nat :=
  match g.park with
  | some ⟨.reply f, _⟩ => some f.mark
  | _ => none

/-- What a context has under way: the accesses that an invalidation waits for (R103), requests and instructions that are performed in
part. Other accesses are performed in the step that translates them. [DEDUCED, log 94] -/
def flying (s : State) (c : Nat) : List Nat :=
  (s.remote.filter (fun r => r.2.ctx? s == some c)).map (·.1) ++
    s.groups.filterMap (fun g => if (s.team? (g.gid / 32)).any (·.ctx == c) then g.flightMark else none)

/-- Something of a list is still under way. [DEDUCED, log 94] -/
def stillFlying (s : State) (tags : List Nat) : Bool :=
  tags.any (fun t => (getT s.remote t).isSome || s.groups.any (fun g => g.flightMark == some t))

/-- The bytes of a granule (R102). -/
def granuleBytes : Granule → Nat
  | .k64 => 2 ^ 16
  | .m2 => 2 ^ 21
  | .g1 => 2 ^ 30

/-- The range that an invalidation of n units names: the whole context for 0 or more than 4,096 units, otherwise n granules
from the address rounded down, cut at 2^57 (R103). -/
def invalRange (gran va n : Nat) : Nat × Nat :=
  if n = 0 ∨ 4096 < n then (0, 2 ^ 57)
  else
    let b := va / gran * gran
    (b, min (n * gran) (2 ^ 57 - b))

/-- XINVAL (R102 to R104): once the group's earlier stores are performed, those that Ridgeline has staged among them (R263), the translations
are dropped, and it completes when nothing that used one is on its way. [DEDUCED, log 94] -/
def execXinval (g : Pred) (e : Granule) (a b : KReg) (s : State) : Out :=
  s.privileged g (fun v =>
    let va := (v.g.regs.getK2 a.val).toNat
    let n := (v.g.regs.getK b.val).toNat
    match v.g.park with
    | some ⟨.inval tags, _⟩ => if stillFlying s tags then .error (.park s (.inval tags)) else .ok (s.retire v v.g)
    | _ =>
      if n ≠ 0 ∧ n ≤ 4096 ∧ 2 ^ 57 ≤ va then trapWith 6 0 va
      else if v.gr.staged.any (fun r => r.team == v.t.idx && r.group == v.g.gid % 32 && r.kind == 0) then .error (.park s .load)
      else
        let r := invalRange (granuleBytes e) va n
        let s1 := (s.landLate (fun _ => true)).dropRange v.t.ctx r.1 r.2
        match flying s v.t.ctx with
        | [] => .ok (s1.retire v v.g)
        | tags => .error (.park s1 (.inval tags)))

end Sys2Proof.Machine
end

