-- ==== Sys2Proof/Machine/Fetch.lean ====
section
/-! DEFINITION. Choosing and fetching a group's next instruction (R39, R184, R188): which groups may issue, the broadcast
address and the executing lanes, the words at it, and the traps of the first three decode steps. -/

namespace Sys2Proof.Machine

/-! ## Choice (R184) -/

/-- The broadcast address, the executing lanes and the group with its waiting bits as the choice leaves them; none when no
lane is live. -/
def Group.choose (g : Group) : Option (Group × Pc × Mask) :=
  let r := g.regs
  if r.live = 0 then none
  else
    let wait := if r.live &&& ~~~r.wait = 0 then r.wait &&& ~~~r.live else r.wait
    let run := lanesOf (r.live &&& ~~~wait)
    let b := (run.drop 1).foldl (fun b l => if (r.getPc l).toNat < b.toNat then r.getPc l else b) (r.getPc (run.headD 0))
    let ex := maskOf ((lanesOf r.live).filter (fun l => r.getPc l == b))
    some ({ g with regs := { r with wait := wait &&& ~~~ex } }, b, ex)

/-! ## Code (R34, R39, R80) -/

/-- The stop of a failed code translation (R39, R92): a page fault takes no run-ahead and ends with code 4. [DESIGN CHOICE, log 56] -/
def fetchStop (s : State) (c : Issue) (va : Nat) : XErr → Stop
  | .held => .park s .held
  | .bad lvl => .trap 8 lvl va none 0
  | .lost _ pa => .trap 10 0 va none (pa / 32 * 32)
  | .absent lvl => .pageFault ⟨c.pc.toNat, c.mask, [⟨va / 65536, lvl, 8, 0⟩], 4, true, none⟩
  | .prot lvl => .pageFault ⟨c.pc.toNat, c.mask, [⟨va / 65536, lvl, 8, 1⟩], 4, true, none⟩

/-- The pieces of a run of code. -/
def codePieces (s : State) (e : Env) : List (Nat × Nat) → Except Stop (State × List Piece)
  | [] => .ok (s, [])
  | (va, n) :: t =>
    match xlate s e.t.ctx e.agent (some e.spur) e.g.trap.masked .fetch va with
    | .error (.x x) => .error (fetchStop s e.c va x)
    | .error .pool => .error (fetchStop s e.c va (.bad 0))
    | .ok (s1, p, leaf) => do
      let (s2, ps) ← codePieces s1 e t
      pure (s2, ⟨va, n, p, leaf⟩ :: ps)

/-- The bytes of code that lie on this chip, as they are stored now. -/
def storedCode (s : State) : List Piece → List Byte
  | [] => []
  | p :: t => (match p.at_ with
    | .loc pa => s.loadRun pa p.n
    | _ => List.replicate p.n 0) ++ storedCode s t

/-- The answers that bring words of code from a place that is not local; they are asked for first, and the group waits.
[DESIGN CHOICE, log 56] -/
def codeAnswers (s : State) (e : Env) (rs : List Req) : Except Stop (List Reply) :=
  match e.g.park with
  | some ⟨.code tags, _⟩ => answersOf e tags rs (.park s (.code tags))
  | _ => .error (.park (s.sendFor e rs).1 (.code (s.sendFor e rs).2))

/-- One aligned word of code at an address of the global window, and whether it came from a place that is not local (R34, R39). A
fetch returns the word as it is stored at that moment, also where software has stored into the code of a running grid, for which
R34 allows the word as it was at the launch too. [DESIGN CHOICE, log 56] -/
def codeWord (s : State) (e : Env) (va : Nat) : Except Stop (State × Word × Bool) :=
  if 2 ^ 57 < va + 4 then .error (.trap 6 0 va none 0)
  else do
    let (s1, ps) ← codePieces s e (chunks va 4)
    if ps.any (Piece.isHeld s1) then .error (.park s .held) else .ok ()
    checkPlaces s1 none [(0, ps)]
    match ps.flatMap readReqs, ps with
    | [], _ => pure (s1.dieMet e.t.ctx false ps, BitVec.ofNat 32 (leNat (storedCode s1 ps)), false)
    | rs, p :: _ => do
      let got ← codeAnswers s1 e rs
      pure (s1, BitVec.ofNat 32 (leNat (remoteBytes p got).1), true)
    | _, [] => pure (s1, 0, false)

/-- Keep words that came from a place that is not local; the replies that brought them are used up. -/
def State.keepFetched (s : State) (e : Env) (f : Fetched) : State × Env :=
  let h := fun g : Group => { g with fetched := some f, park := none, replies := [] }
  (s.modGroup e.g.gid h, { e with g := h e.g })

/-- The first word at the broadcast address. -/
def firstWord (s : State) (e : Env) : Except Stop (State × Env × Word) :=
  match e.g.fetched with
  | some f => .ok (s, e, f.word)
  | none => do
    let (s1, w, far) ← codeWord s e e.c.pc.toNat
    if far then
      let (s2, e2) := s1.keepFetched e ⟨e.c.pc.toNat, w, none⟩
      pure (s2, e2, w)
    else pure (s1, e, w)

/-- The literal that follows a first word, 0 when its opcode has none (R30). [DESIGN CHOICE, log 56] -/
def codeLit (s : State) (e : Env) (w : Word) : Except Stop (State × Word) :=
  if !isLong (opcodeOf w.toNat) then pure (s, 0)
  else match e.g.fetched with
    | some ⟨_, _, some lit⟩ => .ok (s, lit)
    | _ => do
      let (s1, lit, far) ← codeWord s e (e.c.pc.toNat + 4)
      if far then pure ((s1.keepFetched e ⟨e.c.pc.toNat, w, some lit⟩).1, lit) else pure (s1, lit)

/-! ## Units (R1, R5, R42) -/

/-- The opcode belongs to a unit that the grade lacks (R5): DMMA, or CRSET, CRPOS and LMARK. [DEDUCED, log 15] -/
def absentUnit (gr : Grade) (op : Nat) : Bool :=
  (op == 128 + 0x3C && !gr.hasFp64) || ([128 + 0x5C, 128 + 0x5D, 128 + 0x5E].contains op && !gr.hasCairn)

/-! ## Who may issue -/

/-- A wait that ends by re-execution, rather than by an event of its own. -/
def Wait.polls : Wait → Bool
  | .presence _ | .faultRun _ | .faultWait _ | .tsync | .csync | .lwait _ _ _ _ => false
  | .handle _ _ => false
  | _ => true

/-- The replies a parked group waits for are all in, or there is something to read that waits for none. -/
def Group.repliesIn (g : Group) : Bool :=
  match g.park with
  | some ⟨.reply f, _⟩ => f.tags.all (fun t => (getT g.replies t).isSome) || (f.reads && !allDone f.places)
  | some ⟨.code tags, _⟩ => tags.all (fun t => (getT g.replies t).isSome)
  | _ => true

/-- A group may issue as far as its own state and its team's say (R27, R344, R349). -/
def Group.canIssue (s : State) (g : Group) : Bool :=
  !g.ended && (g.stop.isNone || g.isReplying) && !g.saved && !g.hwsaved &&
  (g.due.isSome || (match g.park with | some p => p.why.polls | none => true)) && g.repliesIn &&
  (match s.team? (g.gid / 32) with
   | none => false
   | some t =>
     (match t.st with
      | .running | .yielding => true
      | .saving | .restoring => g.inRoutine
      | _ => false) && !(s.ctx t.ctx).isHalted) &&
  !s.starting && !s.power.railsOff

/-- A DET team's rotation lets the group issue; routines of PREEMPT and RESTORE issue outside it (R355, R356). [DEDUCED, log 109] -/
def Group.hasTurn (s : State) (g : Group) : Bool :=
  match s.team? (g.gid / 32) with
  | none => false
  | some t => match s.grid? t.ctx t.serial with
    | none => false
    | some gr =>
      Rec.mode gr.bytes != 1 || g.inRoutine || t.st == .restoring ||
      rotNext s t (Rec.groups gr.bytes) (Rec.groups gr.bytes) t.rot == g.gid % 32

/-- A group may issue. -/
def Group.ready (s : State) (g : Group) : Bool := g.canIssue s && g.hasTurn s

/-! ## Decoding (R39) -/

/-- What issuing a group's next instruction comes to: the instruction to execute, with the issue in the state, or a state in
which the step is over. -/
inductive Prepared where
  | exec (i : Instr) (s : State)
  | done (s : State)
  deriving DecidableEq, Repr

/-- The state with an issue of a group, its waiting bits as the choice left them. -/
def State.issueWith (s : State) (g : Group) (c : Issue) : State := { s.setGroup g with cur := some c }

/-- A decode trap of steps 2 and 3 of R39, raised for the executing lanes (R40). -/
def State.decodeTrap (s : State) (c : Issue) (cause : Nat) : State :=
  match s.group? c.gid with
  | none => { s with cur := none }
  | some g => s.raiseTrap c g cause 0 0 c.mask 0

/-- Decode steps 2 and 3 for words at hand (R39). [DEDUCED, log 15] -/
def decodeIssue (s : State) (c : Issue) : Prepared :=
  if absentUnit s.grade (opcodeOf c.word.toNat) then .done (s.decodeTrap c 2)
  else match decodeWords c.word.toNat c.lit.toNat with
    | .instr i => .exec i s
    | .illegal => .exec .illegalOpcode s
    | .reserved => .done (s.decodeTrap c 3)

/-- One word as the lanes of a mask fetch it now. -/
def noteWord (seen : List SeenWord) (pc : Nat) (m : Mask) (w : Word) : List SeenWord :=
  ⟨pc, m, w⟩ :: (seen.map (fun f => if f.pc = pc then { f with mask := f.mask &&& ~~~m } else f)).filter (fun f => f.mask != 0)

/-- The words of an issue as its lanes fetched them, for their loop buffers (R188); in DET mode none is used. [DEDUCED, log 89] -/
def State.noteIssue (s : State) (e : Env) (c : Issue) : State :=
  if e.isDet then s
  else s.modGroup c.gid (fun g => { g with
    seen := if c.size = 8 then noteWord (noteWord g.seen c.pc.toNat c.mask c.word) (c.pc.toNat + 4) c.mask c.lit
      else noteWord g.seen c.pc.toNat c.mask c.word })

/-- The group's next instruction at its broadcast address, fetched and decoded (R39, R184); a literal's fetch fails at an
instruction whose first word is at hand, with HLIT 0. [DESIGN CHOICE, log 56] -/
def fetchNext (s : State) (c0 : Issue) : Prepared :=
  match s.env? with
  | none => .done { s with cur := none }
  | some e =>
    match firstWord s e with
    | .error _ => .exec .fetchFault s
    | .ok (s1, e1, w) =>
      let c := { c0 with word := w, size := sizeOf w.toNat }
      let s2 := { s1 with cur := some c }
      match codeLit s2 { e1 with c := c } w with
      | .error _ => .exec .fetchFault s2
      | .ok (s3, lit) =>
        let c1 := { c with lit := lit }
        decodeIssue { s3.noteIssue e c1 with cur := some c1 } c1

/-- The group's next instruction: the one that is under way already, or the next of its program (R57, R184).
[DESIGN CHOICE, log 9; DEDUCED, log 15] -/
def prepare (s : State) (gid : Nat) : Prepared :=
  match s.group? gid with
  | none => .done s
  | some g0 =>
    if !g0.ready s then .done s
    else match g0.park with
      | some ⟨.reply f, _⟩ => decodeIssue (s.issueWith g0 f.c) f.c
      | _ => match g0.choose with
        | none => .done s
        | some (g, b, ex) =>
          let c0 : Issue := ⟨gid, b, ex, 0, 0, 4, false⟩
          fetchNext (s.issueWith g c0) c0

/-- The fetch of the issued instruction fails and the group traps, faults or waits (R39, R92). -/
def execFetchFault (s : State) : Out :=
  s.run (fun e => match firstWord s e with
    | .error p => .error p
    | .ok (s1, e1, w) => match codeLit s1 e1 w with
      | .error p => .error p
      | .ok (s2, _) => .ok { s2 with cur := none })

/-- An unassigned opcode traps with ILLEGAL_OPCODE (R39, R40). -/
def execIllegalOpcode (s : State) : Out := s.run (fun _ => trapWith 1 0 0)

/-! ## Loop buffers (R188) -/

/-- Opcodes that return a lane to broadcast fetch: uniform words, cross-lane opcodes, SREAD of %activemask, and CALL, CALLX,
RET, EXIT and TRAP (R188). [DEDUCED, log 89] -/
def leavesLoop (w : Word) : Bool :=
  let op := opcodeOf w.toNat
  decide (128 ≤ op) || (decide (0x50 ≤ op) && decide (op ≤ 0x57)) || op == 0x59 ||
  (op == 0x58 && bits w.toNat 7 7 == 3) || [0x63, 0x64, 0x65, 0x66, 0x67].contains op

/-- The instruction that a lane may run from its loop buffer (R188): outside DET mode, live and not among the executing
lanes, its PC in the buffered range. [DEDUCED, log 89] -/
def prepareAlone (s : State) (gid lane : Nat) : Prepared :=
  match s.group? gid with
  | none => .done s
  | some g =>
    match g.choose, getT g.loops lane with
    | some (_, _, ex), some lb =>
      let pc := g.regs.getPc lane
      let i := (pc.toNat - lb.base) / 4
      if !g.canIssue s || g.park.isSome || !laneBit g.regs.live lane || laneBit ex lane || pc.toNat < lb.base ||
          lb.words.length ≤ i then .done s
      else
        let w := lb.words.getD i 0
        let long := isLong (opcodeOf w.toNat)
        if leavesLoop w || (long && lb.words.length ≤ i + 1) then .done s
        else
          let c : Issue := ⟨gid, pc, maskOf [lane], w, if long then lb.words.getD (i + 1) 0 else 0, sizeOf w.toNat, true⟩
          let s1 := s.issueWith g c
          match s1.env? with
          | none => .done s
          | some e => if e.isDet then .done s else decodeIssue (s1.noteIssue e c) c
    | _, _ => .done s

/-- The n words of code from an address as a lane fetched them last; one it has not fetched is read from memory, and none is the
answer when that cannot be done at once. [DEDUCED, log 89] -/
def laneCode (s : State) (e : Env) (seen : List SeenWord) (lane : Nat) : Nat → Nat → Option (List Word)
  | 0, _ => some []
  | n + 1, va =>
    match (match seen.find? (fun f => f.pc == va && laneBit f.mask lane) with
      | some f => some f.word
      | none => (match codeWord s { e with g := { e.g with park := none } } va with
        | .ok (_, w, false) => some w
        | _ => none)) with
    | none => none
    | some w => (laneCode s e seen lane n (va + 4)).map (fun t => w :: t)

/-- A backward branch taken by lanes of a mask loads their loop buffers with the words from each lane's target to the branch, as
they were fetched on the lane's latest pass, when they number at most 48 (R188). [DEDUCED, log 89] -/
def Group.loadLoops (g : Group) (s : State) (e : Env) (take : Mask) (target : Nat → Nat) : Group :=
  if e.isDet then g
  else
    (lanesOf take).foldl (fun h l =>
      let n := (e.c.pc.toNat + e.c.size - target l) / 4
      if e.c.pc.toNat < target l || 48 < n then h
      else match laneCode s e g.seen l n (target l) with
        | some ws => { h with loops := setT h.loops l ⟨target l, ws⟩ }
        | none => h) g

end Sys2Proof.Machine
end

