-- ==== Sys2Proof/Machine/Layout.lean ====
section
/-! DEFINITION. Formats as the matrix array sees them: classes, the layout of B tiles and their scales, and the records that
describe a reservation or a residency (R19, R158, R223, R224, R232, R235). -/

namespace Sys2Proof.Machine

/-- The format class of a code (R158): 0 FP64, 1 FP32, 2 E8M10, 3 16-bit, 4 8-bit, 5 4-bit and narrower. -/
def classOf (code : Nat) : Nat :=
  if code ≤ 2 then code
  else if code = 3 ∨ code = 4 ∨ code = 11 then 3
  else if code = 10 ∨ (14 ≤ code ∧ code ≤ 17) ∨ (22 ≤ code ∧ code ≤ 26 ∧ code ≠ 23) then 5
  else 4

/-- K of a format (R19). -/
def classK (code : Nat) : Nat :=
  match classOf code with
  | 0 | 1 => 8
  | 2 => 16
  | 3 => 32
  | 4 => 64
  | _ => 128

/-- Elements of a chunk (R172). -/
def chunkLen (code : Nat) : Nat := if classOf code ≤ 2 then 8 else 32

/-- A plain integer format (R158). -/
def isPlainInt (code : Nat) : Bool := decide (11 ≤ code) && decide (code ≤ 17)

/-- An MX format. -/
def isMx (code : Nat) : Bool := decide (18 ≤ code) && decide (code ≤ 23)

/-- A codebook format. -/
def isQ (code : Nat) : Bool := decide (24 ≤ code) && decide (code ≤ 27)

/-- The column stride CS in bytes (R224). -/
def colStride (code : Nat) : Nat :=
  if code = 1 ∨ code = 16 ∨ code = 17 ∨ code = 26 then 32
  else if code = 8 ∨ code = 9 ∨ code = 20 ∨ code = 21 then 48
  else 64

/-- The bytes TB of a B tile (R224). -/
def tileBytes (code : Nat) : Nat := 32 * colStride code

/-- BLOCK fits the format (R232). -/
def blockFits (code block : Nat) : Bool :=
  if isMx code then block == 16 || block == 32 else if isQ code then block == 64 else block == 0

/-- The block scales of a layout (R224). -/
def Layout.scales (l : Layout) : Nat := if l.block = 0 then 0 else 32 * l.tiles * (classK l.format / l.block)

/-- The bytes from the base of a layout to the last of its tiles, scales and superblock scales (R224, R235). -/
def Layout.span (l : Layout) : Nat :=
  let a := l.tiles * tileBytes l.format
  let b := if l.block = 0 then a else max a (l.scale + l.scales)
  if isQ l.format then max b (l.super + 4 * ((l.scales + 255) / 256)) else b

/-- The fields that R232 and R235 ask of every record: a format, a fitting block length, one tile or more, offsets that are
zero where they have no use, and reserved bytes that are zero. [DEDUCED, log 74] -/
def layoutOk (bs : List Byte) (l : Layout) : Bool :=
  blockFits l.format l.block && l.tiles != 0 && (l.block != 0 || l.scale == 0) && (isQ l.format || l.super == 0) &&
  fieldB bs 12 4 == 0 && fieldB bs 24 8 == 0

/-- A reservation record (R232). -/
def resvRecord (bs : List Byte) : Layout :=
  { base := fieldB bs 0 4, bytes := fieldB bs 4 4, format := fieldB bs 8 1, block := fieldB bs 9 1, tiles := fieldB bs 10 2,
    scale := fieldB bs 16 4, super := fieldB bs 20 4 }

/-- A residency descriptor (R235); its length is the span of its parts. -/
def residRecord (bs : List Byte) : Layout :=
  let l : Layout :=
    { base := fieldB bs 0 8, bytes := 0, format := fieldB bs 8 1, block := fieldB bs 9 1, tiles := fieldB bs 10 2,
      scale := fieldB bs 16 4, super := fieldB bs 20 4 }
  { l with bytes := l.span }

/-- The pages of an instance (R235). -/
def Layout.pages (l : Layout) : Nat := (l.bytes + 4095) / 4096

end Sys2Proof.Machine
end

