-- ==== Sys2Proof/Machine/Preempt.lean ====
section
/-! DEFINITION. Pre-emption, swap-out and restore (R294, R300, R343 to R350): requests, deadlines, the cut, entry to the save
routine, and the restore of saved teams. -/

namespace Sys2Proof.Machine

/-! ## Requests (R294, R343) -/

/-- DEADLINEn of a context (R294). -/
def deadlineClk (x : Context) (cls : Nat) : Nat := (x.reg (CtxReg.deadline0 + 4 * cls)).toNat

/-- A team is asked to yield by a clk; of two deadlines the earlier stands (R343). A team that is moving or being restored yields when it
runs again (R349, R377). -/
def State.askTeam (s : State) (tid d : Nat) : State :=
  match s.team? tid with
  | none => s
  | some t =>
    if t.st = .saved ∨ t.st = .ended then s
    else (s.setTeam { t with
      deadline := some (match t.deadline with
        | some d0 => min d0 d
        | none => d)
      st := if t.st = .running then .yielding else t.st }).cutTry tid

/-- A pre-emption request for a context: %preempt and PSTATE read 1, and every team that is not saved or ended has a deadline,
by its own class or by the class given (R343, R380). -/
def State.requestCtx (s : State) (c : Nat) (cls : Option Nat) : State :=
  match s.ctx? c with
  | none => s
  | some x =>
    let s1 := s.setCtx c { x.setReg CtxReg.preempt 1 with request := some (x.request.getD s.clk) }
    let ts := s1.teams.filter (fun t => t.ctx == c)
    (ts.foldl (fun a t => a.askTeam t.tid (s.clk + deadlineClk x (cls.getD (s.recField Rec.cls t)))) s1).clearRequest c

/-- PREEMPT_DEADLINE (R343): D has passed, and every group that has not stopped stops at its next quiet point. -/
def execPreemptDeadline (tid : Nat) (s : State) : Out :=
  .next (match s.team? tid with
    | some t =>
      if t.st = .yielding ∧ (t.deadline.any (fun d => decide (d ≤ s.clk))) then (s.stopTeam tid 1).cutTry tid else s
    | none => s)

/-! ## Swap-out (R300) -/

/-- What a waiting group waits for, in a form that outlives its core. -/
def Group.swapCond (g : Group) : List SwapCond :=
  match g.park with
  | some ⟨.lwait _ addr target _, _⟩ => [.counter g.gid addr target]
  | some ⟨.join _ n _, _⟩ => [.spur g.gid n]
  | _ => []

/-- A group has waited in LWAIT or SPUR.JOIN for a number of clk (R300, R318). -/
def Group.hasWaited (g : Group) (clk n : Nat) : Bool :=
  match g.park with
  | some ⟨.lwait _ _ _ _, since⟩ | some ⟨.join _ _ _, since⟩ => g.stop.isNone && decide (since + n ≤ clk)
  | _ => false

/-- The teams of a team's cluster that have not ended. -/
def State.unit (s : State) (t : Team) : List Team :=
  (s.cluster t (s.recField Rec.clsize t)).filter (fun u => u.st != .ended)

/-- Every group of a team that has not ended has waited for SWAP_THRESH clk. -/
def swapReady (s : State) (t : Team) : Bool :=
  let n := ((s.ctx t.ctx).reg CtxReg.swapThresh).toNat
  n != 0 && t.st == .running && (s.groupsOf t.tid).all (fun g => g.ended || g.hasWaited s.clk n)

/-- SWAP_OUT (R300): the whole cluster is cut together, and the swap-outs are counted (R393). [DEDUCED, log 47] -/
def execSwapOut (tid : Nat) (s : State) : Out :=
  .next (match s.team? tid with
    | none => s
    | some t =>
      let us := s.unit t
      if us.all (swapReady s) then
        us.foldl (fun a u => (a.modTeam u.tid (fun k =>
          { k with
            st := .cut
            swap := true
            conds := (s.groupsOf u.tid).flatMap Group.swapCond
            deadline := some (s.clk + deadlineClk (s.ctx u.ctx) (s.recField Rec.cls u)) })).stopTeam u.tid 2 |>.count u.ctx 0x40 1) s
      else s)

/-! ## The cut (R344, R345) -/

/-- The teams that are cut together: those of the context while a request stands, else the cluster that is swapped. [DEDUCED, log 47] -/
def cutScope (s : State) (t : Team) : List Team :=
  if (s.ctx t.ctx).isRequested then s.teams.filter (fun u => u.ctx == t.ctx) else s.unit t

/-- A team issues nothing more before it is restored. -/
def Team.isCut (t : Team) : Bool := t.st == .cut || t.st == .saving || t.st == .saved || t.st == .ended

/-- The highest PRIORITY among a context's teams. [DEDUCED, log 54] -/
def ctxPrio (s : State) (c : Nat) : Nat := ((s.teams.filter (fun t => t.ctx == c)).map (s.recField Rec.prio)).foldl max 0

/-- In a thermal emergency contexts are cut and saved by descending priority, then by number: none that comes before this one
has a team left to save (R380). [DEDUCED, log 54] -/
def emergTurn (s : State) (c : Nat) : Bool :=
  s.power.emerg.isNone || s.teams.all (fun u =>
    !u.isResident || decide (ctxPrio s u.ctx < ctxPrio s c) || (ctxPrio s u.ctx == ctxPrio s c && decide (c ≤ u.ctx)))

/-- The cut is complete (R344): every team of it is at its stop point, and no multiply, job or access of theirs is under way.
A copy
of an ended team of a swapped cluster may still land in a peer (R157). Copies that Ridgeline holds stay where they are.
[DEDUCED, log 46; DEDUCED, log 47] -/
def cutDrained (s : State) (t : Team) : Bool :=
  let us := cutScope s t
  let mine := fun tid => us.any (fun u => u.tid == tid) || (s.cluster t (s.recField Rec.clsize t)).any (fun u => u.tid == tid)
  emergTurn s t.ctx &&
  us.all (fun u => u.isCut && u.array.isEmpty) &&
  s.jobs.all (fun j => j.staged || !(mine j.tid || ((s.ctx t.ctx).isRequested && j.ctx == t.ctx))) &&
  s.remote.all (fun r => r.2.job.isSome || r.2.own.isSome || !mine (r.2.gid / 32))

/-- A group enters its handler by an act of the part (R324, class E). No instruction has trapped: the spec gives %trappc,
%trapword and %trapmask no value, and they are free (R330). [DESIGN CHOICE, log 18] -/
def State.enterOwn (s : State) (t : Team) (g : Group) (cause info : Nat) : State :=
  let f := fun i => Config.freeWord (s.free + i)
  let h := { g with stop := none, entered := s.clk, loops := [] }
  { s.setGroup (h.enter (s.ctx t.ctx) t cause info 0 (f 0).toNat ((f 1).setWidth 32) 0 ((f 2).setWidth 32) 0) with
    free := s.free + 3 }

/-- The trap-queue position that a group waits for. -/
def Group.faultPos (g : Group) : Option Nat :=
  match g.park with
  | some ⟨.faultWait p, _⟩ => some p
  | _ => none

/-- A group enters its save: its handler with cause PREEMPT, or, stopped in its handler or without one, the part saves it
(R327, R343, R345). -/
def State.enterSave (s : State) (t : Team) (g : Group) : State :=
  let h := { g with faultAt := g.faultPos }
  if g.ended then s
  else if g.trap.masked || (s.ctx t.ctx).reg64 CtxReg.trapVec = 0 then
    s.setGroup { h with hwsaved := true, stop := none, park := none, latch := none, loops := [] }
  else s.enterOwn t h 32 (g.stop.getD 2)

/-- Residencies at a cut: instances of a pre-empted context are dropped; a swapped team stops using its own, and a load that it
started is abandoned (R236, R238, R344). -/
def State.cutInsts (s : State) (t : Team) : State :=
  if (s.ctx t.ctx).isRequested then { s with insts := s.insts.filter (fun i => i.ctx != t.ctx) }
  else { s with insts := s.insts.filter (fun i => !(i.loading && i.loaders.any (fun g => g / 32 == t.tid))) }.dropUser t.tid

/-- CUT_COMPLETE (R344, R345): what the team has written at narrow scopes is performed, and its groups enter their save; a save that an
access of the part's kept waiting goes on. -/
def execCutComplete (tid : Nat) (s : State) : Out :=
  let s0 := s.cutTry tid
  .next (match s0.team? tid with
    | none => s0
    | some t =>
      if t.st = .cut ∧ cutDrained s0 t then
        let s1 := ((s0.landTeam tid).cutInsts t).modTeam tid (fun u => { u with st := .saving })
        ((s0.groupsOf tid).foldl (fun a g => a.enterSave t g) s1).saveTry tid
      else s0.saveTry tid)

/-- SAVE_TIMEOUT (R345, R348): a routine has run longer than SAVE_LIMIT, and the team ends. -/
def execSaveTimeout (gid : Nat) (s : State) : Out :=
  .next (match s.group? gid, s.team? (gid / 32) with
    | some g, some t =>
      if (t.st = .saving ∨ t.st = .restoring) ∧ g.inRoutine ∧ !g.ended ∧ !g.saved ∧
          g.entered + ((s.ctx t.ctx).reg CtxReg.saveLimit).toNat < s.clk then
        (s.postFatal t.ctx (handledRec t g 26)).teamKilled t
      else s
    | _, _ => s)

/-! ## Restore (R300, R347, R348, R412) -/

/-- A map of the nonzero values of a function below a bound. -/
def mapOf {w : Nat} (n : Nat) (f : Nat → BitVec w) : BMap w :=
  (List.range n).filterMap (fun i => if f i = 0 then none else some (i, f i))

/-- A word of a run of bytes. -/
def wordAt (bs : List Byte) (off : Nat) : Word := BitVec.ofNat 32 (fieldB bs off 4)

/-- A double word of a run of bytes. -/
def dwordAt (bs : List Byte) (off : Nat) : DWord := BitVec.ofNat 64 (fieldB bs off 8)

/-- The registers of a hardware-saved group's block (R347). [DEDUCED, log 39] -/
def Regs.ofBlock (bs : List Byte) : Regs :=
  let r : Regs :=
    { v := mapOf 3072 (fun i => wordAt bs (4 * i))
      k := mapOf 32 (fun j => wordAt bs (0x3000 + 4 * j))
      p := mapOf 8 (fun j => if j = 0 then 0 else maskOf ((List.range 32).filter (fun l => (wordAt bs (0x3180 + 4 * l)).getLsbD j)))
      q := BitVec.ofNat 8 (fieldB bs 0x3200 1)
      pc := []
      live := 0
      wait := 0 }
  r.setDivs (mapOf 32 (fun l => dwordAt bs (0x3080 + 8 * l)))

/-- The shadow and trap registers of a block, in the order of `shadowBytes` (R347). [DEDUCED, log 39] -/
def TrapRegs.ofBlock (bs : List Byte) : TrapRegs :=
  { masked := true, cause := wordAt bs 0x3588, info := wordAt bs 0x358C, pc := dwordAt bs 0x3590, addr := dwordAt bs 0x3598,
    word := wordAt bs 0x35A0, mask := wordAt bs 0x35A4, hlit := wordAt bs 0x35A8, hpa := dwordAt bs 0x35AC,
    div := mapOf 32 (fun l => dwordAt bs (0x3400 + 8 * l)), v95 := mapOf 32 (fun l => wordAt bs (0x3500 + 4 * l)),
    k30 := wordAt bs 0x3580, k31 := wordAt bs 0x3584 }

/-- Code tables of a team header (R347). [DEDUCED, log 39] -/
def CodeTables.ofHeader (h : List Byte) : CodeTables :=
  let tab := fun off n => mapOf n (fun i => BitVec.ofNat 16 (fieldB h (off + 2 * i) 2))
  { q4Live := tab 0x600 16, q4Shadow := tab 0x620 16, q4Gen := wordAt h 0x640, q8Live := tab 0x800 256,
    q8Shadow := tab 0xA00 256, q8Gen := wordAt h 0x644 }

/-- The reservations of a team header: an entry of no bytes is free (R232, R347). [DEDUCED, log 39] -/
def resvOfHeader (h : List Byte) : Tbl Layout :=
  (List.range 16).filterMap (fun i =>
    let l := resvRecord ((h.drop (0x400 + 32 * i)).take 32)
    if l.bytes = 0 then none else some (i, l))

/-- A group as its team-header words describe it (R347). [DEDUCED, log 39] -/
def Group.ofHeader (g : Group) (h : List Byte) : Group :=
  let off := 0x100 + 16 * (g.gid % 32)
  let w := fieldB h (off + 8) 8
  { g with
    retired := dwordAt h off
    tsync := w % 2 ^ 32
    ended := fld w 32 32 == 1
    hwsaved := fld w 33 33 == 1
    faultAt := if fld w 34 34 = 1 then some (fld w 44 35) else none }

/-- Pages of a block as the core gets them back: page number and bytes. -/
def readPages (s : State) (massif c : Nat) (spur : Option Word) (base : Nat) :
    List Nat → Except OwnErr (State × List (Nat × List Byte))
  | [] => .ok (s, [])
  | i :: t => do
    let (s1, bs) ← ownRead s massif c spur (base + 4096 * i) 4096
    let (s2, ps) ← readPages s1 massif c spur base t
    pure (s2, (i, bs) :: ps)

/-- The pages that a bitmap marks as written. -/
def pagesSaved {w : Nat} (m : BitVec w) : List Nat := (List.range w).filter (fun i => m.getLsbD i)

/-- The page bytes put back into a byte map. -/
def putPages (m : BMap 8) (ps : List (Nat × List Byte)) : BMap 8 := ps.foldl (fun a p => writeB a (4096 * p.1) p.2) m

/-- An accumulator slot's bytes put back. -/
def putSlots (m : BMap 32) (ps : List (Nat × List Byte)) : BMap 32 :=
  ps.foldl (fun a p => (List.range 1024).foldl (fun b w => putB b (1024 * p.1 + w) (wordAt p.2 (4 * w))) a) m

/-- One group of a restored team: ended, reloaded by the part, or in its handler with cause RESTORE, its registers as at group
start (R327, R348, R412). [DEDUCED, log 39; DEDUCED, log 40; DEDUCED, log 108] -/
def restoreGroup (s : State) (t old : Team) (entry : Pc) (spur : Option Word) (h : List Byte) (g0 : Group) :
    Except OwnErr State := do
  let g := { g0.ofHeader h with saved := false, park := none, stop := none, latch := none, loops := [] }
  let x := s.ctx t.ctx
  if g.ended then pure (s.setGroup { g with trap := TrapRegs.none })
  else if g.hwsaved then
    let (s1, bs) ← ownRead s t.massif t.ctx spur (groupBlock x old (g.gid % 32)) 16384
    let masked := fld (fieldB h (0x108 + 16 * (g.gid % 32)) 8) 45 45 == 1
    let g1 := { g with
      hwsaved := false
      regs := Regs.ofBlock bs
      trap := if masked then TrapRegs.ofBlock bs else TrapRegs.none }
    pure (s1.setGroup (g1.resumed s1 t))
  else pure (s.enterOwn old { g with regs := Regs.start entry, trap := TrapRegs.none } 33 0)

/-- The groups of a restored team, in order. -/
def restoreGroups (s : State) (t old : Team) (entry : Pc) (spur : Option Word) (h : List Byte) :
    List Group → Except OwnErr State
  | [] => .ok s
  | g :: r => do
    let s1 ← restoreGroup s t old entry spur h g
    restoreGroups s1 t old entry spur h r

/-- A saved team restored on a core, whose pages `there` names (R348): pages held elsewhere go through its block, pages on the core are taken in place; its logical
clock takes the greater of its own and the core's (R269). [DESIGN CHOICE, log 36; DEDUCED, log 39; DEDUCED, log 108] -/
def restoreTeam (s : State) (there : Option Team) (t : Team) (column layer slot : Nat) : Except OwnErr State := do
  let x := s.ctx t.ctx
  let spur := s.spurOf t
  let base := saveBlock x t.column t.slot
  let s1 ← if t.onDie && !(t.column == column && t.layer == layer) then s.saveAll t else pure s
  let t1 := (s1.team? t.tid).getD t
  let m := massifOf column
  let (s2, h) ← ownRead s1 m t.ctx spur base 4096
  let (s3, sp) ← readPages s2 m t.ctx spur (base + 0x92000) (pagesSaved t1.spSaved)
  let (s4, acc) ← readPages s3 m t.ctx spur (base + 0x82000) (pagesSaved t1.accSaved)
  let (s5, ob) ← readPages s4 m t.ctx spur (base + 0xD2000) (pagesSaved t1.obSaved)
  let u := { t1 with
    column := column
    layer := layer
    slot := slot
    oldSlot := if column = t.column then none else some (32 * t.column + t.slot)
    st := .restoring
    scratch := putPages t1.scratch sp
    acc := putSlots t1.acc acc
    obuf := putPages t1.obuf ob
    seq := wordAt h 8
    tsyncGen := (wordAt h 24).toNat
    rot := if s.recField Rec.mode t = 1 then (wordAt h 32).toNat else t1.rot
    resv := resvOfHeader h
    tables := CodeTables.ofHeader h
    spSaved := 0
    accSaved := 0
    obSaved := 0
    onDie := false
    spPages := there.elim [] (·.spPages)
    accPages := there.elim [] (·.accPages)
    obPages := there.elim [] (·.obPages)
    restorable := false
    conds := []
    tt := if t1.tt.toNat < s.coreTime (4 * column + layer) then BitVec.ofNat 64 (s.coreTime (4 * column + layer)) else t1.tt
    arrived := s.now }
  let entry := BitVec.ofNat 57 (s.recField Rec.entry t)
  let s6 ← restoreGroups (s5.setTeam u) u t entry spur h (s5.groupsOf t.tid)
  ownWrites s6 m t.ctx spur (headerRuns s6 x t.ctx (32 * t.column + t.slot))

/-- A saved team may be restored: it was pre-empted and no request stands, or it was swapped and a condition of its cluster is
met; no emergency lasts and no save access of it waits (R300, R344, R348, R380). [DESIGN CHOICE, log 44] -/
def mayRestore (s : State) (t : Team) : Bool :=
  let x := s.ctx t.ctx
  t.st == .saved && (t.conds.isEmpty || t.restorable) && !x.isRequested && x.isUp && !x.isHalted && x.destroying.isNone &&
  s.power.emerg.isNone && !s.power.railsOff && !s.starting && !x.tqPend.any (fun p => p.2 == .save t.tid)

/-- The core that holds a team's pages can take it back. [DEDUCED, log 43] -/
def homeFits (s : State) (bs : List Byte) (t : Team) : Bool :=
  t.onDie && (fitLayers s t.ctx bs t.tid t.column).contains t.layer

/-- Where a unit of saved teams goes: the cores that hold their pages when these fit, for a fused cluster with the whole rectangle open, otherwise as R292 places them; whether
the search for a single team was used. [DEDUCED, log 43] -/
def restorePlaces (s : State) (us : List Team) (c : Nat) (bs : List Byte) : Option (List (Nat × Nat) × Bool) :=
  if us.all (homeFits s bs) &&
      (us.flatMap (fusedColumns s)).all (fun k => us.all (fun u => columnOpen s bs (ownCluster s u.tid) k)) then some (us.map (fun u => (u.column, u.layer)), false)
  else (placeUnit s c bs (us.map (fun u => (u.tid, u.idx % Rec.clsize bs)))).map (fun ps => (ps, Rec.clsize bs == 1))

/-- The save slot of a restored team: its own in its own column, otherwise a new one (R347). -/
def restoreSlot (s : State) (t : Team) (column : Nat) : Nat :=
  if column = t.column then t.slot else (saveSlot s t.ctx column t.tid).getD 0

/-- One team of a unit is restored; an access that fails is reported and leaves it saved (R347). -/
def State.restoreAt (s : State) (t : Team) (column layer : Nat) : State :=
  let home := t.onDie && t.column == column && t.layer == layer
  let after := (s.setTeam { t with column := column, layer := layer, st := .restoring }).takeCore t.tid home
  match s.coverSaved after column layer with
  | .error s1 => s1
  | .ok s1 =>
    match restoreTeam (s1.withAsks (teamKey t)) (after.team? t.tid) ((s1.team? t.tid).getD t) column layer (restoreSlot s1 t column) with
    | .error e => s1.saveFailed t e
    | .ok s2 => (s2.doneAsks (teamKey t)).resumeTry t.tid

/-! ## The order of placement (R291) -/

/-- A context's units may be placed: it is up, no request stands, it is not halted, and none of its teams waits to be restored
after a pre-emption (R305, R341, R344). [DEDUCED, log 49] -/
def dispatches (s : State) (c : Nat) : Bool :=
  let x := s.ctx c
  x.isOpen && !x.isRequested && !x.isHalted &&
  s.teams.all (fun t => t.ctx != c || t.st != .saved || !t.conds.isEmpty)

/-- A grid has a unit that may be dispatched. -/
def Grid.hasUnit (s : State) (g : Grid) : Bool :=
  !g.dead && decide (g.next < Rec.teams g.bytes) && dispatches s g.ctx

/-- Insert a grid after those of higher or equal priority: the list keeps the order of acceptance among equals (R291). -/
def insertGrid (g : Grid) : List Grid → List Grid
  | [] => [g]
  | h :: t => if Rec.prio h.bytes < Rec.prio g.bytes then g :: h :: t else h :: insertGrid g t

/-- The grids with units, in the dispatcher's order: priority, then acceptance (R291). -/
def unitOrder (s : State) : List Grid := (s.grids.filter (fun g => g.hasUnit s)).foldl (fun l g => insertGrid g l) []

/-- The ranks of a new unit's teams, with their numbers. -/
def unitWho (s : State) (b : List Byte) : List (Nat × Nat) := (List.range (Rec.clsize b)).map (fun r => (s.nextTid + r, r))

/-- A unit of a higher PRIORITY comes before a saved team: it fits somewhere, or what is freed is held for it (R291).
[DEDUCED, log 43; DEDUCED, log 49] -/
def unitFirst (s : State) (prio : Nat) : Bool :=
  (unitOrder s).any (fun g => decide (prio < Rec.prio g.bytes) &&
    (g.holds || (placeUnit s g.ctx g.bytes (unitWho s g.bytes)).isSome))

/-- A restorable swapped team of a PRIORITY that meets a test fits somewhere. -/
def swapFits (s : State) (test : Nat → Bool) : Bool :=
  s.teams.any (fun t => t.restorable && mayRestore s t &&
    (match s.grid? t.ctx t.serial with
     | some g => test (Rec.prio g.bytes) && (s.unit t).all (mayRestore s) && (restorePlaces s (s.unit t) t.ctx g.bytes).isSome
     | none => false))

/-- A restorable swapped team of a higher PRIORITY fits: it is placed first (R291). [DEDUCED, log 43] -/
def swapFirst (s : State) (prio : Nat) : Bool := swapFits s (fun p => decide (prio < p))

/-- TEAM_RESTORE (R300, R348): a saved team, or a saved cluster as one unit, is placed and restored, unless a unit comes before it (R291).
[DEDUCED, log 43] -/
def execTeamRestore (tid : Nat) (s : State) : Out :=
  .next (match s.team? tid with
    | none => s
    | some t =>
      let us := s.unit t
      match s.grid? t.ctx t.serial with
      | none => s
      | some gr =>
        if !us.all (mayRestore s) || unitFirst s (Rec.prio gr.bytes) || swapFirst s (Rec.prio gr.bytes) then s
        else match restorePlaces { s with free := s.free + 1 } us t.ctx gr.bytes with
          | none => { s with free := s.free + 1 }
          | some (ps, single) =>
            let s1 := { s with
              free := s.free + 1
              lastCol := if single then ps.head?.map (·.1) else s.lastCol }
            (us.zip ps).foldl (fun a p => a.restoreAt p.1 p.2.1 p.2.2) s1)

end Sys2Proof.Machine
end

