-- ==== Sys2Proof/Machine/Copy.lean ====
section
/-! DEFINITION. Copy instructions: the checks of R119 in order, issue, CPWAIT and CPMCR (R109 to R113, R117 to R122, R133 to
R135, R263, R353). -/

namespace Sys2Proof.Machine

/-! ## Control words and handles -/

/-- A control word that R111 forbids. -/
def badCtl (c : Word) : Bool :=
  ctlSig c == 3 || decide (5 ≤ c.toNat / 2 ^ 23 % 8) || c.toNat / 2 ^ 18 % 32 != 0 ||
  (ctlSig c == 0 && ctlTarget c != 0) || (ctlSig c == 1 && decide (64 ≤ ctlTarget c)) ||
  (ctlSig c == 2 && ctlTarget c % 16 != 0)

/-- The record of a shape handle; none when the handle is not current (R126). -/
def shapeOf (x : Context) (h : Word) : Option (List Byte) :=
  match getT x.shapes (h.toNat / 4096) with
  | none => none
  | some k => if k.alloc ∧ h.toNat % 4096 ≠ 0 ∧ k.gen.toNat = h.toNat % 4096 then some k.bytes else none

/-- Steering of a range that an engine accesses: global window or scratchpad aperture (R78, R80, R81). -/
def steerCopy (s : State) (e : Env) (ga n : Nat) : Option Loc :=
  if ga < 2 ^ 57 then (if ga + n ≤ 2 ^ 57 then some (.glob ga) else none)
  else if 0xFE00000000000000 ≤ ga ∧ ga < 0xFF00000000000000 then (steerScr s e ga n).map (fun p => .scr p.1 p.2)
  else none

/-- Which apertures an operand may lie in (R118). -/
inductive Side where
  | scratch | global | either
  deriving DecidableEq, Repr

/-- A steered operand of a copy, or APERTURE. -/
def copyPlace (s : State) (e : Env) (side : Side) (ga n : Nat) : Except Stop Loc :=
  match steerCopy s e ga n, side with
  | some (.glob va), .global | some (.glob va), .either => .ok (.glob va)
  | some (.scr t off), .scratch | some (.scr t off), .either => .ok (.scr t off)
  | _, _ => trapWith 6 0 ga

/-- The destination a place is. -/
def Loc.dst : Loc → JobDst
  | .glob va => .glob va
  | .scr t off => .teams [t] off

/-- A place in a team's own scratchpad. -/
def Loc.isOwn (l : Loc) (e : Env) : Bool :=
  match l with
  | .scr t _ => t == e.t.tid
  | .glob _ => false

/-! ## Plans -/

/-- What a copy instruction is about once its operands are steered: source, destination with its generic address, size, the
region of its own scratchpad that it reads, the shape handle that turned out stale, and for a multicast the ranks asked. -/
structure Plan where
  src   : JobSrc
  own   : Option (Nat × Nat)
  dst   : JobDst
  ga    : Nat
  size  : Nat
  stale : Option Word
  ranks : Option (List Nat)
  deriving DecidableEq, Repr

/-- The region of its own scratchpad that a run reads. -/
def ownRegion (e : Env) (l : Loc) (a b : Nat) : Option (Nat × Nat) :=
  match l with
  | .scr t off => if t = e.t.tid then some (off + a, b - a) else none
  | .glob _ => none

/-- The largest copy: 16 MiB. -/
def maxCopy : Nat := 16 * 2 ^ 20

/-- Step 3 of R119: the addresses, the byte count and the sizes that R120 adds are multiples of 32, and the count is at most 16 MiB;
%trapaddr is the first address that is not, and 0 for a size. [DESIGN CHOICE, log 71] -/
def copyAligned (size row : Nat) (gas : List Nat) : Except Stop Unit :=
  match gas.find? (fun a => a % 32 != 0) with
  | some a => trapWith 7 0 a
  | none => if size % 32 ≠ 0 ∨ row % 32 ≠ 0 ∨ maxCopy < size then trapWith 7 0 0 else .ok ()

/-- The plan of CPGS, CPSG and CPGG (R118). -/
def runPlan (s : State) (a b : KReg) (ds ss : Side) (e : Env) : Except Stop Plan := do
  let da := (e.g.regs.getK2 a.val).toNat
  let sa := (e.g.regs.getK2 (a.val + 2)).toNat
  let n := (e.g.regs.getK b.val).toNat
  let d ← copyPlace s e ds da n
  let l ← copyPlace s e ss sa n
  copyAligned n 0 [da, sa]
  pure ⟨.run l, ownRegion e l 0 n, d.dst, da, n, none, none⟩

/-- BASE of a shape, steered so that the bytes up to an end lie in its aperture (R78, R118). -/
def shapeBase (s : State) (e : Env) (sh : List Byte) (last : Nat) : Except Stop Loc :=
  let ga := shapeField sh 0 8
  match steerCopy s e ga 0 with
  | some (.glob va) => if va + last ≤ 2 ^ 57 then .ok (.glob va) else trapWith 6 0 ga
  | some (.scr t off) =>
    match s.team? t with
    | none => trapWith 6 0 ga
    | some u => if off + last ≤ s.scratchSize u then .ok (.scr t off) else trapWith 6 0 ga
  | none => trapWith 6 0 ga

/-- A signed 16-bit coordinate of an origin pair (R118). -/
def coord (w : Word) (hi : Bool) : Int := sx 16 (if hi then w.toNat / 65536 else w.toNat)

/-- The plan of CPTR (R118, R120). With a stale handle only the destination is known. R119's multiples of 32 are asked of the
addresses that the instruction gives, not of the shape's BASE. [DEDUCED, log 70; DESIGN CHOICE, log 71] -/
def boxPlan (s : State) (a b : KReg) (e : Env) : Except Stop Plan := do
  let da := (e.g.regs.getK2 a.val).toNat
  let h := e.g.regs.getK b.val
  let w0 := e.g.regs.getK (a.val + 2)
  let w1 := e.g.regs.getK (a.val + 3)
  match shapeOf e.x h with
  | none =>
    let d ← copyPlace s e .either da 0
    copyAligned 0 0 [da]
    pure ⟨.run d, none, d.dst, da, 0, some h, none⟩
  | some sh =>
    let n := shapeBox sh 0 * shapeBox sh 1 * shapeBox sh 2 * shapeBox sh 3 * shapeE sh
    let d ← copyPlace s e .either da n
    let rank := shapeField sh 9 1
    let c0 := coord w0 false
    let c1 := if rank < 2 then 0 else coord w0 true
    let c2 := if rank < 3 then 0 else coord w1 false
    let c3 := if rank < 4 then 0 else coord w1 true
    let (lo, hi) := (boxBounds sh c0 c1 c2 c3).getD (0, 0)
    let l ← shapeBase s e sh hi
    copyAligned n (shapeBox sh 0 * shapeE sh) [da]
    pure ⟨.box l sh c0 c1 c2 c3, ownRegion e l lo hi, d.dst, da, n, none, none⟩

/-- The index list of a CPGA, read from the issuing team's scratchpad at issue (R118, R120). [DEDUCED, log 70] -/
def indexList (s : State) (e : Env) (off n : Nat) : List Nat :=
  (List.range n).map (fun i => leNat (s.scrRead e.t.tid (off + 4 * i) 4))

/-- The plan of CPGA (R118, R120). Neither the shape's BASE nor the index list's offset is asked to be a multiple of 32.
[DEDUCED, log 70; DESIGN CHOICE, log 71] -/
def rowsPlan (s : State) (a b : KReg) (e : Env) : Except Stop Plan := do
  let da := (e.g.regs.getK2 a.val).toNat
  let h := e.g.regs.getK b.val
  let off := (e.g.regs.getK (a.val + 2)).toNat
  let cnt := (e.g.regs.getK (a.val + 3)).toNat
  if cnt = 0 ∨ 4096 < cnt then trapWith 15 0 0
  else if s.scratchSize e.t < off + 4 * cnt then trapWith 6 0 off
  else match shapeOf e.x h with
    | none =>
      let d ← copyPlace s e .either da 0
      copyAligned 0 0 [da]
      pure ⟨.run d, none, d.dst, da, 0, some h, none⟩
    | some sh =>
      let row := shapeExtent sh 0 * shapeE sh
      let d ← copyPlace s e .either da (cnt * row)
      let last := (shapeExtent sh 1 - 1) * shapeStride sh 1 + row
      let l ← shapeBase s e sh last
      copyAligned (cnt * row) row [da]
      match absentLines s e.t.tid off (4 * cnt) with
      | [] => pure ⟨.rows l sh (indexList s e off cnt), ownRegion e l 0 last, d.dst, da, cnt * row, none, none⟩
      | ls => .error (.park s (.presence ls))

/-- The teams of ranks in the issuing team's cluster; a rank that names no team raises APERTURE (R133). [DEDUCED, log 70] -/
def rankTeams (s : State) (e : Env) : List Nat → Except Stop (List Nat)
  | [] => .ok []
  | r :: t =>
    match s.peer? e r with
    | none => trapWith 6 0 0
    | some u => do
      let us ← rankTeams s e t
      pure (u.tid :: us)

/-- The plan of a multicast from its parts (R133, R134). -/
def multiPlan (s : State) (e : Env) (off n : Nat) (ranks : List Nat) (src : JobSrc) : Except Stop Plan := do
  let ts ← rankTeams s e ranks
  if ts ≠ [] ∧ s.scratchSize e.t < off + n then trapWith 6 0 off
  else pure ⟨src, none, .teams ts off, off, n, none, some ranks⟩

/-- The plan of CPMC (R118, R133). [DEDUCED, log 70] -/
def mcPlan (s : State) (a b : KReg) (e : Env) : Except Stop Plan := do
  let off := (e.g.regs.getK a.val).toNat
  let mask := (e.g.regs.getK (a.val + 1)).toNat
  let sa := (e.g.regs.getK2 (a.val + 2)).toNat
  let n := (e.g.regs.getK b.val).toNat
  let l ← copyPlace s e .global sa n
  let p ← multiPlan s e off n ((List.range 32).filter (fun i => mask.testBit i)) (.run l)
  detBan e
  copyAligned n 0 [off, sa]
  pure p

/-! ## The checks after steering (R119) -/

/-- The teams whose scratchpad a SIG = 2 object lies in (R111). -/
def Plan.counterTeams (p : Plan) (e : Env) : List Nat :=
  match p.dst with
  | .teams ts _ => ts
  | _ => [e.t.tid]

/-- The destination meets the buffer-table area of a receiver (R121). -/
def Plan.meetsTable (p : Plan) (size : Nat) : Bool :=
  match p.dst with
  | .teams ts off => !ts.isEmpty && p.size != 0 && inBufTable size off p.size
  | _ => false

/-- The role that SIG = 1 gives: 1 fill, 2 drain, 0 none (R122). -/
def Plan.role (p : Plan) (e : Env) (c : Word) : Nat :=
  if ctlSig c ≠ 1 then 0
  else if p.ranks.isSome then 1
  else match p.dst with
    | .teams ts _ => if ts.contains e.t.tid then 1 else if p.own.isSome then 2 else 0
    | _ => if p.own.isSome then 2 else 0

/-- The steps of R119 between alignment and the handle rule. R119 does not place the APERTURE that R121 gives a SIG = 1 copy of a team
without scratchpad: it comes with the other APERTURE of the buffer table. [DEDUCED, log 70] -/
def Plan.check (p : Plan) (s : State) (e : Env) (c : Word) : Except Stop Unit :=
  let size := s.scratchSize e.t
  if p.meetsTable size then trapWith 6 0 p.ga
  else if ctlSig c = 1 ∧ size = 0 then trapWith 6 0 p.ga
  else if ctlSig c = 1 ∧ p.role e c = 0 ∧ p.stale = none then trapWith 15 c.toNat 0
  else if ctlSig c = 2 ∧ (p.counterTeams e ≠ []) ∧ size < ctlTarget c + 16 + 512 then trapWith 15 c.toNat 0
  else match p.stale with
    | some h => trapWith 11 h.toNat 0
    | none => .ok ()

/-- 128-byte lines of a region, partial ones counted (R123). -/
def regionLines (off n : Nat) : Nat := lineCount off n

/-- A handle named by a copy: state and region recorded with the ticket; ERR stays (R122, R123). -/
def State.nameHandle (s : State) (tid h seq slot off n st : Nat) : State :=
  match s.team? tid with
  | none => s
  | some t =>
    let x := s.bufGet t h
    s.bufOp t h (Buf.mk seq slot off (regionLines off n) st (Buf.err x))

/-- Receivers of a multicast that accept: with SIG = 1 those whose handle is FREE (R133). -/
def accepting (s : State) (c : Word) (ts : List Nat) : List Nat :=
  if ctlSig c = 1 then
    ts.filter (fun t => match s.team? t with
      | some u => Buf.state (s.bufGet u (ctlTarget c)) == 0
      | none => false)
  else ts

/-- The refusal mask: the ranks whose team does not accept. -/
def refusals (ranks ts ok : List Nat) : BitVec 12 :=
  BitVec.ofNat 12 (((ranks.zip ts).filter (fun r => !ok.contains r.2)).map (fun r => 2 ^ r.1)).sum

/-- A fill of a handle waits: it is not FREE, unless it has become FILLING for this very copy (R122). -/
def fillWaits (s : State) (e : Env) (h : Nat) : Bool := Buf.state (s.bufGet e.t h) != 0 && e.g.due != some (.fill h)

/-- The plan with the handle rule applied: stalls and BUF_STATE for a team's own handle, refusals for a multicast (R122,
R133). -/
def Plan.takeIn (p : Plan) (s : State) (e : Env) (c : Word) : Except Stop (Plan × BitVec 12) :=
  match p.ranks, p.dst with
  | some ranks, .teams ts off =>
    let ok := accepting s c ts
    .ok ({ p with dst := .teams ok off }, refusals ranks ts ok)
  | _, _ =>
    let h := ctlTarget c
    if p.role e c = 1 ∧ fillWaits s e h then .error (.park s (.handle h .fill))
    else if p.role e c = 2 ∧ Buf.state (s.bufGet e.t h) < 2 then trapWith 16 h 0
    else .ok (p, 0)

/-- The slot a copy takes: the lowest free, or in DET mode SEQ mod 256 (R112, R354). -/
def freeSlot (e : Env) : Option Nat :=
  let busy := fun i => match getT e.t.copies i with | some k => k.busy | none => false
  if e.isDet then (let i := e.t.copyCount % 256; if busy i then none else some i)
  else (List.range 256).find? (fun i => !busy i)

/-- The massif's dependence tracker has room (R109): it counts every copy and OBLD of the massif's columns that is not complete, in an
engine or not. [DEDUCED, log 70] -/
def trackerRoom (s : State) (column : Nat) : Bool :=
  decide (s.jobs.countP (fun j => massifOf j.column == massifOf column) < 4096)

/-- The presence bits of a run of a team's scratchpad clear (R113). -/
def State.clearPresence (s : State) (off n tid : Nat) : State :=
  if n = 0 then s
  else s.modTeam tid (fun t => { t with absent := t.absent ++ (linesOf off n).filter (fun l => !t.absent.contains l) })

/-- The presence bits and handles that the issue of a copy changes (R113, R122). -/
def Plan.mark (p : Plan) (s : State) (e : Env) (c : Word) (seq slot : Nat) : State :=
  let h := ctlTarget c
  let s1 := match p.dst with
    | .teams ts off => ts.foldl (fun a t => a.clearPresence off p.size t) s
    | _ => s
  if p.role e c = 1 then
    match p.dst with
    | .teams ts off => ts.foldl (fun a t => a.nameHandle t h seq slot off p.size 1) s1
    | _ => s1
  else if p.role e c = 2 then s1.nameHandle e.t.tid h seq slot (p.own.getD (0, 0)).1 (p.own.getD (0, 0)).2 3
  else s1

/-- The new job of a copy. [DEDUCED, log 69] -/
def Plan.job (p : Plan) (s : State) (e : Env) (c : Word) (ticket : Word) (staged : Bool) (refused : BitVec 12) : Job :=
  { id := s.nextJob, ctx := e.t.ctx, tid := e.t.tid, column := e.t.column, seq := e.t.seq, serial := e.t.serial, team := e.t.idx, gid := e.g.gid, spur := e.spur,
    ticket := ticket, ctl := c, src := p.src, dst := p.dst, size := p.size, role := p.role e c, priv := e.g.trap.masked,
    issued := s.clk, started := false, staged := staged, items := List.range (itemCount p.dst p.size), held := [],
    failed := false, cancel := false, released := false, refused := refused, snap := [], tags := [], replies := [], zeroed := [], landed := [], got := [] }

/-- The staging record of a held copy: its ticket in DATA (R259). -/
def heldCopy (e : Env) (ticket : Word) : Staged :=
  { addr := 0, data := ticket.setWidth 64, team := e.t.idx, seq := e.t.seq, lane := 0, group := e.g.gid % 32, kind := 2,
    ctl := 0, die := massifOf e.t.column, spilled := none }

/-- Ridgeline holds the copy: a global destination in a team that must stage (R263). -/
def Plan.held (p : Plan) (e : Env) : Bool :=
  e.mustStage && p.size != 0 && (match p.dst with | .glob _ => true | _ => false)

/-- A copy with no bytes counts as landing 0 bytes at its barrier objects (R119, R128). -/
def Plan.landNone (p : Plan) (s : State) (e : Env) (c : Word) : State :=
  if p.size = 0 ∧ ctlSig c = 2 then
    (p.counterTeams e).foldl (fun a t => a.barPut t (ctlTarget c) (Bar.land (a.barGet t (ctlTarget c)) 0)) s
  else s

/-- Issue of a copy that has passed its checks: slot and tracker space, staging, presence bits and handles, the job, and the
ticket in k[d] (R109 to R113, R119). A handle changes state only once there is room, so that it can be taken meanwhile. Its reads come after what its group has written at narrow scopes (R276). A copy with no items is complete at issue.
[DEDUCED, log 70] -/
def issueCopy (s : State) (e : Env) (d : KReg) (c : Word) (p : Plan) (refused : BitVec 12) : Except Stop State :=
  match freeSlot e with
  | none => .error (.park s .copySlot)
  | some slot =>
    if !trackerRoom s e.t.column then .error (.park s .copySlot)
    else do
      let seq := e.t.copyCount % 65536
      let ticket := BitVec.ofNat 32 (seq * 256 + slot)
      let s1 ← if p.held e then stageAll s s e [heldCopy e ticket] else pure s
      let s2 := p.mark (s1.landOf e.g.gid) e c seq slot
      let multi := match p.ranks with
        | some _ => some ⟨p.src, p.dst.base, p.size, c⟩
        | none => none
      let s3 := s2.modTeam e.t.tid (fun t => { t with
        copyCount := t.copyCount + 1
        copies := setT t.copies slot ⟨BitVec.ofNat 16 seq, true, false, 0, multi⟩ })
      let s4 := { s3 with jobs := s3.jobs ++ [p.job s e c ticket (p.held e) refused], nextJob := s3.nextJob + 1 }
      let s5 := (p.landNone s4 e c).settleJob s.nextJob
      pure (s5.retire e (e.g.withRegs (e.g.regs.setK d.val ticket)))

/-- A copy that a handle has become FILLING for meets a trap after all: the handle is FREE again. [DEDUCED, log 72] -/
def fillFails (s : State) (e : Env) (r : Except Stop State) : Except Stop State :=
  match e.g.due, r with
  | some (.fill h), .error (.trap cause info addr _ _) => .error (.trapAfter (s.bufOp e.t h (Buf.withState (s.bufGet e.t h) 0)) cause info addr)
  | _, _ => r

/-- A copy instruction: the control word, then the plan, then the rest of R119. -/
def State.copy (s : State) (q : Pred) (d : KReg) (plan : Env → Except Stop Plan) : Out :=
  s.uniform q (fun e => fillFails s e (
    let c := e.g.regs.getK d.val
    if badCtl c then trapWith 15 c.toNat 0
    else do
      let p ← plan e
      p.check s e c
      let (p1, refused) ← p.takeIn s e c
      issueCopy s e d c p1 refused))

/-- CPGS (R118, R119). -/
def execCpgs (g : Pred) (d a b : KReg) (s : State) : Out := s.copy g d (runPlan s a b .scratch .global)

/-- CPSG (R118, R119). -/
def execCpsg (g : Pred) (d a b : KReg) (s : State) : Out := s.copy g d (runPlan s a b .global .scratch)

/-- CPGG (R118, R119). -/
def execCpgg (g : Pred) (d a b : KReg) (s : State) : Out := s.copy g d (runPlan s a b .either .either)

/-- CPTR (R118 to R120). -/
def execCptr (g : Pred) (d a b : KReg) (s : State) : Out := s.copy g d (boxPlan s a b)

/-- CPGA (R118 to R120). -/
def execCpga (g : Pred) (d a b : KReg) (s : State) : Out := s.copy g d (rowsPlan s a b)

/-- CPMC (R118, R119, R133). -/
def execCpmc (g : Pred) (d a b : KReg) (s : State) : Out := s.copy g d (mcPlan s a b)

/-- The slot of a ticket: as the event left it that the group waited for, or else when it still holds the ticket's SEQ (R112, R135). -/
def ticketSlot (e : Env) (ticket : Word) : Option CopySlot :=
  match e.g.due, getT e.t.copies (ticket.toNat % 256) with
  | some (.copy k), _ => some k
  | _, some k => if k.seq.toNat = ticket.toNat / 256 % 65536 then some k else none
  | _, none => none

/-- CPMCR (R134): the refusers of a completed multicast, with a new SLACK and SCOPE. [DEDUCED, log 29] -/
def execCpmcr (g : Pred) (d a : KReg) (s : State) : Out :=
  s.uniform g (fun e =>
    let w := e.g.regs.getK d.val
    if w.toNat % 2 ^ 23 ≠ 0 ∨ w.toNat / 2 ^ 26 % 4 ≠ 0 ∨ 5 ≤ w.toNat / 2 ^ 23 % 8 then trapWith 15 w.toNat 0
    else if e.isDet then trapWith 19 0 0
    else match ticketSlot e (e.g.regs.getK a.val) with
      | none => trapWith 15 w.toNat 0
      | some k => match k.multi with
        | none => trapWith 15 w.toNat 0
        | some m =>
          if k.busy then .error (.park s (.cpwait (e.g.regs.getK a.val &&& 0x00FFFFFF) .vis))
          else do
            let c := w ||| (m.ctl &&& 0x0C03FFFF)
            let p ← multiPlan s e m.off m.size ((List.range 12).filter (fun i => k.refused.getLsbD i)) m.src
            p.check s e c
            let (p1, refused) ← p.takeIn s e c
            issueCopy s e d c p1 refused)

/-! ## CPWAIT (R135) -/

/-- The job of a ticket of a team while it is outstanding. -/
def ticketJob (s : State) (e : Env) (ticket : Word) : Option Job :=
  s.jobs.find? (fun j => j.tid == e.t.tid && j.ticket == ticket &&
    (match j.dst with | .obuf _ _ _ => false | _ => true))

/-- The copy of a ticket has reached an event (R114, R135). -/
def copyReached (k : CopySlot) (j : Option Job) : CopyEvent → Bool
  | .rel => !k.busy || (match j with | some j => j.released | none => true)
  | .vis | .all => !k.busy

/-- CPWAIT (R135, R363). -/
def execCpwait (g : Pred) (d a : KReg) (m : CopyEvent) (s : State) : Out :=
  s.uniform g (fun e =>
    let ticket := e.g.regs.getK a.val &&& 0x00FFFFFF
    let put := fun (v : Nat) => do
      let r ← sampleOpen s e
      let x := (r.map (·.1)).getD v
      .ok ((s.sampleClose e x r).retire e (e.g.withRegs (e.g.regs.setK d.val (BitVec.ofNat 32 x))))
    match ticketSlot e ticket with
    | none => put (2 ^ 13)
    | some k =>
      if e.g.due.isNone && !copyReached k (ticketJob s e ticket) m then .error (.park s (.cpwait ticket m))
      else put (if k.busy then 0 else k.failed.toNat * 2 ^ 12 + k.refused.toNat))

end Sys2Proof.Machine
end

