-- ==== Sys2Proof/Machine/Obuf.lean ====
section
/-! DEFINITION. Operand-buffer reservations: OBRES, OBFREE, OBLD (R232 to R234). -/

namespace Sys2Proof.Machine

/-- A record read at an address of the global window or the scratchpad aperture, at a multiple of 32 (R233, R241). -/
def operandRecord (s : State) (e : Env) (a : KReg) (n : Nat) : Except Stop (State × List Byte) :=
  let ga := (e.g.regs.getK2 a.val).toNat
  if 0xFF00000000000000 ≤ ga then trapWith 6 0 ga
  else if (ga < 2 ^ 57 ∨ 0xFE00000000000000 ≤ ga) ∧ ga % 32 ≠ 0 then trapWith 7 0 ga
  else do
    let (s1, rs) ← loadLanes s e n [(lowLane e.c.mask, ga)]
    pure (s1, rs.flatMap (·.2))

/-- Two reservations overlap. -/
def Layout.meets (a b : Layout) : Bool := decide (a.base < b.base + b.bytes) && decide (b.base < a.base + a.bytes)

/-- A reservation record that OBRES accepts (R232). [DEDUCED, log 74] -/
def resvOk (e : Env) (bs : List Byte) (l : Layout) : Bool :=
  layoutOk bs l && l.base % 256 == 0 && l.bytes % 256 == 0 && decide (256 ≤ l.bytes) &&
  decide (l.base + l.bytes ≤ 4096 * Rec.obuf e.gr.bytes) && decide (l.span ≤ l.bytes) &&
  !e.t.resv.any (fun r => r.2.meets l)

/-- OBRES (R233). A FORMAT byte of 32 or more, for which R232 names no cause, raises BAD_FORMAT as 28 to 31 do. [DEDUCED, log 74] -/
def execObres (g : Pred) (d a : KReg) (s : State) : Out :=
  s.uniform g (fun e => do
    let (s1, bs) ← operandRecord s e a 32
    let l := resvRecord bs
    if 28 ≤ l.format then trapWith 4 0 0
    else if !resvOk e bs l then trapWith 13 0 0
    else match (List.range 16).find? (fun i => (getT e.t.resv i).isNone) with
      | none => .ok (s1.retire e (e.g.withRegs (e.g.regs.setK d.val 0xFFFFFFFF)))
      | some i =>
        .ok ((s1.modTeam e.t.tid (fun t => { t with resv := setT t.resv i l })).retire e
          (e.g.withRegs (e.g.regs.setK d.val (BitVec.ofNat 32 i)))))

/-- A job lands in a reservation of a team. -/
def Job.intoResv (j : Job) (tid id : Nat) : Bool :=
  match j.dst with
  | .obuf r _ _ => j.tid == tid && r == id
  | _ => false

/-- OBFREE (R233): it waits for everything issued that names the id. -/
def execObfree (g : Pred) (a : KReg) (s : State) : Out :=
  s.uniform g (fun e =>
    let id := (e.g.regs.getK a.val).toNat % 16
    if (getT e.t.resv id).isNone then trapWith 13 0 0
    else if s.jobs.any (fun j => j.intoResv e.t.tid id) || e.t.array.any (fun o => o.resv == some id) ||
        (holdsOf s e.t.tid e.g.gid).any (fun h => h.resv == some id) then
      .error (.park s .load)
    else .ok ((s.modTeam e.t.tid (fun t => { t with resv := delT t.resv id })).retire e e.g))

/-- The job of an OBLD (R233). [DEDUCED, log 73] -/
def obldJob (s : State) (e : Env) (l : Loc) (id off base n : Nat) : Job :=
  { id := s.nextJob, ctx := e.t.ctx, tid := e.t.tid, column := e.t.column, seq := e.t.seq, serial := e.t.serial, team := e.t.idx, gid := e.g.gid, spur := e.spur,
    ticket := 0, ctl := 0, src := .run l, dst := .obuf id off base, size := n, role := 0, priv := e.g.trap.masked,
    issued := s.clk, started := false, staged := false, items := List.range (itemCount (.obuf id off base) n), held := [],
    failed := false, cancel := false, released := false, refused := 0, snap := [], tags := [], replies := [], zeroed := [], landed := [], got := [] }

/-- OBLD (R233). [DEDUCED, log 73] -/
def execObld (g : Pred) (d a : KReg) (s : State) : Out :=
  s.uniform g (fun e => do
    let id := (e.g.regs.getK d.val).toNat % 16
    let ga := (e.g.regs.getK2 a.val).toNat
    let off := (e.g.regs.getK (a.val + 2)).toNat
    let n := (e.g.regs.getK (a.val + 3)).toNat
    match getT e.t.resv id with
    | none => trapWith 13 0 0
    | some r =>
      let l ← copyPlace s e .either ga n
      if ga % 32 ≠ 0 then trapWith 7 0 ga
      else if off % 32 ≠ 0 ∨ n % 32 ≠ 0 ∨ n < 32 ∨ r.bytes < off + n then trapWith 13 0 0
      else .ok ({ s.landOf e.g.gid with jobs := s.jobs ++ [obldJob s e l id off r.base n], nextJob := s.nextJob + 1 }.retire e e.g))

/-! ## Data still due (R234) -/

/-- A range in units of 256 bytes. -/
def unitsMeet (a n b m : Nat) : Bool :=
  decide (0 < n) && decide (0 < m) && decide (a / 256 ≤ (b + m - 1) / 256) && decide (b / 256 ≤ (a + n - 1) / 256)

/-- The bytes of the operand buffer that a multiply reads for a tile: the tile, its scales and its superblock scales (R224). -/
def tileRanges (l : Layout) (t : Nat) : List (Nat × Nat) :=
  let nb := if l.block = 0 then 0 else classK l.format / l.block
  [(l.base + tileBytes l.format * t, tileBytes l.format), (l.base + l.scale + 32 * t * nb, 32 * nb)] ++
  (if isQ l.format then
    [(l.base + l.super + 4 * (32 * t * nb / 256), 4 * ((32 * t * nb + 32 * nb - 1) / 256 - 32 * t * nb / 256 + 1))]
  else [])

/-- Ranges of a team's operand buffer are still due from an issued OBLD, or from a fetch of another group that is under way (R234). -/
def stillDue (s : State) (tid gid : Nat) (rs : List (Nat × Nat)) : Bool :=
  s.jobs.any (fun j => match j.dst with
    | .obuf _ off base => j.tid == tid && j.items.any (fun i =>
        rs.any (fun r => unitsMeet (base + off + (j.range i).1) (j.range i).2 r.1 r.2))
    | _ => false) ||
  (holdsOf s tid gid).any (fun h => h.units.any (fun u => rs.any (fun r => unitsMeet u.1 u.2 r.1 r.2)))

end Sys2Proof.Machine
end

