-- ==== Sys2Proof/Machine/Resid.lean ====
section
/-! DEFINITION. Bedrock residencies: allocation, loads of instances and their placement, pins, revocation, status (R235 to R239,
R245). -/

namespace Sys2Proof.Machine

/-! ## Handles and instances -/

/-- The residency that a handle names, checked as a shape handle is (R126, R235). -/
def residOf (x : Context) (h : Word) : Option Residency :=
  match getT x.resid (h.toNat / 4096) with
  | none => none
  | some r => if r.st ≠ 0 ∧ h.toNat % 4096 ≠ 0 ∧ r.gen.toNat = h.toNat % 4096 then some r else none

/-- The slot of a handle. -/
def handleSlot (h : Word) : Nat := h.toNat / 4096

/-- The core that a team runs on: one of the four of its column (R15). -/
def Team.core (t : Team) : Nat := 4 * t.column + t.layer

/-- The instance of a residency on a core, but for one that is only there until a multiply has read it (R236). -/
def State.inst? (s : State) (core c slot : Nat) : Option Inst :=
  s.insts.find? (fun i => i.core == core && i.ctx == c && i.slot == slot && !i.old)

/-- Every other instance; those that are only there until a multiply has read them are untouched (R236). -/
def State.otherInsts (s : State) (core c slot : Nat) : List Inst :=
  s.insts.filter (fun i => !(i.core == core && i.ctx == c && i.slot == slot && !i.old))

/-- Set an instance, as the most recently used. -/
def State.putInst (s : State) (i : Inst) : State := { s with insts := s.otherInsts i.core i.ctx i.slot ++ [i] }

/-- Set an instance that is there, its place in the order kept. -/
def State.setInst (s : State) (i : Inst) : State :=
  { s with insts := s.insts.map (fun k => if k.core = i.core ∧ k.ctx = i.ctx ∧ k.slot = i.slot ∧ k.old = false then i else k) }

/-- Change a residency, when its slot exists. -/
def State.modResid (s : State) (c slot : Nat) (f : Residency → Residency) : State :=
  s.modCtx c (fun x => { x with resid := match getT x.resid slot with
    | some r => setT x.resid slot (f r)
    | none => x.resid })

/-- A team uses an instance (R238). -/
def Inst.usedBy (i : Inst) (tid : Nat) : Inst := { i with users := if i.users.contains tid then i.users else i.users ++ [tid] }

/-! ## Placement (R238) -/

/-- An instance without a pin or a user; its load may be in flight (R238). -/
def isIdle (s : State) (i : Inst) : Bool :=
  !i.old && i.users.isEmpty && (match getT (s.ctx i.ctx).resid i.slot with | some r => !r.pinned | none => true)

/-- The instances that a team uses. -/
def instsOf (s : State) (tid : Nat) : List Inst := s.insts.filter (fun i => i.users.contains tid && !i.old)

/-- Bedrock pages of the instances that a team alone uses (R24). -/
def privatePages (s : State) (t : Team) : Nat :=
  (((instsOf s t.tid).filter (fun i => i.users.length ≤ 1)).map (·.pages)).sum

/-- A team is on its way to another core of its column (R375). -/
def isComing (s : State) (t : Team) (core : Nat) : Bool :=
  t.column == core / 4 && t.layer != core % 4 && (getT s.columns t.column).any (fun k => k.isTarget t (core % 4))

/-- Bedrock pages in use on a core, those of teams on their way there included. -/
def corePages (s : State) (core : Nat) : Nat :=
  ((s.insts.filter (fun i => i.core == core)).map (·.pages)).sum +
  ((s.teams.filter (fun t => isComing s t core)).map (privatePages s)).sum

/-- Bedrock pages of a context. -/
def ctxPages (s : State) (c : Nat) : Nat := ((s.insts.filter (fun i => i.ctx == c)).map (·.pages)).sum

/-- Make room for pages on a core and in a context's quota, evicting idle instances one at a time, least recently used first;
the fuel bounds how many. The state that is left, and whether room is found. [DEDUCED, log 87] -/
def makeRoom (core c n : Nat) : Nat → State → State × Bool
  | 0, s => (s, false)
  | f + 1, s =>
    let full := decide (192 < corePages s core + n)
    let past := decide (((s.ctx c).reg CtxReg.bedrockQuota).toNat < ctxPages s c + n)
    if full || past then
      match s.insts.find? (fun i => ((full && i.core == core) || (past && i.ctx == c)) && isIdle s i) with
      | some i => makeRoom core c n f { s with insts := s.otherInsts i.core i.ctx i.slot }
      | none => (s, false)
    else (s, true)

/-! ## Loads (R236, R237) -/

/-- A page of a source: virtual address, length, and what translation says of it. -/
abbrev SourcePage := Nat × Nat × Except XStop (Phys × Leaf)

/-- Runs of a source translated in order through the base die of a massif; a load belongs to no spur (R88, R236). -/
def translateRuns (s : State) (massif c : Nat) : List (Nat × Nat) → State × List SourcePage
  | [] => (s, [])
  | (va, n) :: t =>
    match xlate s c (.die massif) none true .read va with
    | .error x =>
      let (s1, ps) := translateRuns s massif c t
      (s1, (va, n, .error x) :: ps)
    | .ok (s0, p) =>
      let (s1, ps) := translateRuns s0 massif c t
      (s1, (va, n, .ok p) :: ps)

/-- The pages of a source, as a load finds them now. -/
def sourcePages (s : State) (massif c : Nat) (l : Layout) : State × List SourcePage :=
  translateRuns s massif c (pageRuns (l.bytes / 65536 + 2) l.base l.bytes)

/-- A page of the source is mapped elsewhere (R237). -/
def sourceRemote (ps : List SourcePage) : Bool :=
  ps.any (fun p => match p.2.2 with | .ok (.rem _ _ _, _) => true | _ => false)

/-- The physical ranges of the pages that are mapped here. -/
def sourceRanges (ps : List SourcePage) : List (Nat × Nat) :=
  ps.filterMap (fun p => match p.2.2 with | .ok (.loc pa, _) => some (pa, p.2.1) | _ => none)

/-- The pages that are mapped here, as pieces. -/
def sourcePieces (ps : List SourcePage) : List Piece :=
  ps.filterMap (fun p => match p.2.2 with | .ok (.loc pa, leaf) => some ⟨p.1, p.2.1, .loc pa, leaf⟩ | _ => none)

/-- Start the load of a residency's instance on a team's core, after the group's earlier accesses: BAD_OPERAND for a source that is not
local, BEDROCK_FULL where no room can be found, with what was evicted for it gone (R236 to R238). An instance already there loads afresh in its place.
[DEDUCED, log 87] -/
def startLoad (s0 : State) (e : Env) (h : Word) (r : Residency) : Except Stop State :=
  let core := e.t.core
  let slot := handleSlot h
  let (s, ps) := sourcePages (s0.landOf e.g.gid) (massifOf e.t.column) e.t.ctx r.layout
  if sourceRemote ps then trapWith 13 0 0
  else
    let go := fun (s1 : State) (users loaders : List Nat) =>
      let i : Inst := { core := core, ctx := e.t.ctx, slot := slot, loading := true, loaders := loaders ++ [e.g.gid], after := s.nextJob,
                        seq := e.t.seq, wait := none, users := users, pages := r.layout.pages, data := [], old := false }
      (s1.putInst (i.usedBy e.t.tid)).modResid e.t.ctx slot
        (fun q => { q with st := 2, failed := false, ranges := sourceRanges ps })
    match s.inst? core e.t.ctx slot with
    | some i => .ok (go s i.users i.loaders)
    | none => match makeRoom core e.t.ctx r.layout.pages (s.insts.length + 1) s with
      | (s1, false) => .error (.trapAfter s1 14 h.toNat 0)
      | (s1, true) => .ok (go s1 [] [])

/-- A load's record: KIND 2 or 4 with SOURCE 1, naming the handle and the team that started the load last (R236, R339). -/
def loadRec (s : State) (i : Inst) (kind cause va pa : Nat) : TrapRec :=
  let h := i.slot * 4096 + ((getT (s.ctx i.ctx).resid i.slot).map (fun r => r.gen.toNat)).getD 0
  let t := (i.loaders.getLast?).bind (fun g => s.team? (g / 32))
  { kind := kind, cause := cause, group := 0, lane := 64,
    team := (match t with | some t => BitVec.ofNat 32 t.idx | none => 0xFFFFFFFF), a := BitVec.ofNat 32 h,
    grid := BitVec.ofNat 32 ((t.map (·.serial)).getD 0), b := BitVec.ofNat 64 va, c := BitVec.ofNat 64 pa }

/-- How a load's read of its source ends: a page fault, a failed item (cause, its address, physical address), its bytes, or not yet
(R60). -/
inductive LoadEnd where
  | held
  | fault (va : Nat)
  | fail (cause va pa : Nat)
  | bytes (bs : List Byte)
  deriving DecidableEq, Repr

/-- What one page gives a load; a lost atom fails its item of 128 bytes (R236). -/
def pageEnd (s : State) (va n : Nat) : Except XStop (Phys × Leaf) → LoadEnd
  | .error (.x .held) => .held
  | .error .pool => .fault va
  | .error (.x (.absent _)) | .error (.x (.prot _)) => .fault va
  | .error (.x (.bad _)) => .fail 8 va 0
  | .error (.x (.lost _ pa)) => .fail 10 va (pa / 32 * 32)
  | .ok (.loc pa, _) =>
    (match localErr s (isLost s) pa n with
     | some (lost, q) => .fail (if lost then 10 else 27) ((va + (q - pa)) / 128 * 128) (q / 32 * 32)
     | none => .bytes (s.loadRun pa n))
  | .ok _ => .fail 8 va 0

/-- The pages of a load in ascending order: the first fault or failure, or all bytes. [DEDUCED, log 87] -/
def loadEnd (s : State) : List SourcePage → LoadEnd
  | [] => .bytes []
  | (va, n, x) :: t =>
    match pageEnd s va n x with
    | .bytes a => (match loadEnd s t with
      | .bytes b => .bytes (a ++ b)
      | z => z)
    | z => z

/-- An earlier copy of the context that writes the source of a load is still in its engine, or staged work of the group from before the load
does (R110, R239). -/
def loadHeld (s : State) (i : Inst) (l : Layout) : Bool :=
  s.jobs.any (fun j => j.ctx == i.ctx && decide (j.id < i.after) &&
    j.feet.any (fun f => f.conflicts ⟨0, l.base, l.base + l.bytes, false⟩)) ||
  (match i.loaders.getLast?.bind (fun gid => (s.team? (gid / 32)).map (fun t => (gid, t))) with
   | some (gid, t) => (s.grid? t.ctx t.serial).any (fun g => g.staged.any (fun r => r.team == t.idx && r.group == gid % 32 &&
       r.kind != 2 && decide (r.seq.toNat < i.seq.toNat) && decide (r.addr.toNat < l.base + l.bytes) &&
       decide (l.base < r.addr.toNat + 8)))
   | none => false)

/-- RESIDENCY_LOAD_DONE (R236): a load ends, with the instance present or the residency STALE and FAILED, or it waits for the
replay of a page-fault record, or for a crest page to open (R60). [DEDUCED, log 87] -/
def execResidencyLoadDone (core ctx slot : Nat) (s : State) : Out :=
  .next (match s.inst? core ctx slot, getT (s.ctx ctx).resid slot with
    | some i, some r =>
      let (s0, ps) := sourcePages s (massifOf (core / 4)) ctx r.layout
      let rs := sourceRanges ps
      if !i.loading || i.wait.isSome || loadHeld s i r.layout || rs.any (fun q => isHeld s0 q.1) then s
      else
        match loadEnd s0 ps with
        | .held => s
        | .bytes _ =>
          let s1 := s0.engineMeets ctx (sourcePieces ps)
          match s1.inst? core ctx slot, loadEnd s1 ps with
          | some k, .bytes bs =>
            let m := fillB [] 0 bs.length (fun k => bs.getD k 0)
            (s1.setInst { k with loading := false, loaders := [], data := m }).modResid ctx slot (fun q => { q with ranges := rs })
          | _, _ => s1
        | .fault va =>
          if (s.ctx ctx).tqRoom then
            let pos := (s.ctx ctx).tqPos
            (s0.tqPost ctx (loadRec s i 2 9 va 0) (some (.load core slot))).setInst { i with wait := some pos }
          else s
        | .fail cause va pa =>
          if (s.ctx ctx).tqRoom then
            let s1 := s0.tqPost ctx (loadRec s i 4 cause va pa) none
            (s1.dropInsts (fun k => k.ctx == ctx && k.slot == slot)).modResid ctx slot
              (fun q => { q with st := 3, failed := true })
          else s
    | _, _ => s)

/-! ## The instructions (R239) -/

/-- A residency descriptor that RSALLOC accepts, its source's aperture aside (R235). [DEDUCED, log 74] -/
def residOk (bs : List Byte) (l : Layout) : Bool :=
  decide (l.format < 28) && layoutOk bs l && l.base % 256 == 0 && decide (l.pages ≤ 192)

/-- RSALLOC (R235, R239, R363). R80 gives a source outside the global window APERTURE, at the instruction that supplied it; it comes after
the record's other rules. [DEDUCED, log 74] -/
def execRsalloc (g : Pred) (d a : KReg) (s : State) : Out :=
  s.uniform g (fun e => do
    let (s1, bs) ← recordAt s e a 32
    let l := residRecord bs
    if !residOk bs l then trapWith 13 0 0
    else if 2 ^ 57 < l.base + l.bytes then trapWith 6 0 l.base
    else do
      let r ← sampleOpen s1 e
      match lowestSlot (e.x.reg CtxReg.resSlots).toNat (fun i => match getT e.x.resid i with | some k => k.st != 0 | none => false)
          e.x.resid.length with
      | none => sampledOp s1 e 0 (e.g.withRegs (e.g.regs.setK d.val 0)) r
      | some i =>
        let gen := firstGen (((getT e.x.resid i).map (·.gen)).getD 0)
        let h := i * 4096 + gen.toNat
        let s2 := s1.modCtx e.t.ctx (fun x => { x with resid := setT x.resid i ⟨gen, 1, false, false, l, []⟩ })
        sampledOp s2 e h (e.g.withRegs (e.g.regs.setK d.val (BitVec.ofNat 32 h))) r)

/-- An instruction on a current handle: STALE_HANDLE otherwise (R235, R239). -/
def State.onResid (s : State) (q : Pred) (a : KReg) (f : Env → Word → Residency → Except Stop State) : Out :=
  s.uniform q (fun e =>
    let h := e.g.regs.getK a.val
    match residOf e.x h with
    | none => trapWith 11 h.toNat 0
    | some r => f e h r)

/-- RSFILL (R236, R239): a load starts and the group runs on. [DEDUCED, log 87] -/
def execRsfill (g : Pred) (a : KReg) (s : State) : Out :=
  s.onResid g a (fun e h r => do
    let s1 ← startLoad s e h r
    .ok (s1.retire e e.g))

/-- Set or clear PINNED (R236). -/
def State.pin (s : State) (q : Pred) (a : KReg) (b : Bool) : Out :=
  s.onResid q a (fun e h _ => .ok ((s.modResid e.t.ctx (handleSlot h) (fun r => { r with pinned := b })).retire e e.g))

/-- RSPIN (R239). -/
def execRspin (g : Pred) (a : KReg) (s : State) : Out := s.pin g a true

/-- RSUNPIN (R239). -/
def execRsunpin (g : Pred) (a : KReg) (s : State) : Out := s.pin g a false

/-- An issued multiply of the context still reads a residency. -/
def residRead (s : State) (c slot : Nat) : Bool :=
  s.teams.any (fun t => t.ctx == c && t.array.any (fun o => o.res == some slot))

/-- RSREV (R236, R239): once no multiply reads it, the residency is FREE and its generation advances. -/
def execRsrev (g : Pred) (a : KReg) (s : State) : Out :=
  s.onResid g a (fun e h r =>
    let slot := handleSlot h
    if residRead s e.t.ctx slot then .error (.park s .load)
    else
      let s1 := { s with insts := s.insts.filter (fun i => !(i.ctx == e.t.ctx && i.slot == slot)) }
      .ok ((s1.modResid e.t.ctx slot (fun _ => ⟨nextGen r.gen, 0, false, false, r.layout, []⟩)).retire e e.g))

/-- The status word of a residency (R239). [DEDUCED, log 87] -/
def residStatus (s : State) (e : Env) (h : Word) : Nat :=
  match residOf e.x h with
  | none => 0
  | some r =>
    let here := s.insts.filter (fun i => i.core == e.t.core && i.ctx == e.t.ctx && i.slot == handleSlot h)
    2 ^ 31 + r.st.toNat * 2 ^ 29 + r.pinned.toNat * 2 ^ 28 + (here.any (!·.loading)).toNat * 2 ^ 27 + (here.any (·.loading)).toNat * 2 ^ 26 +
      r.failed.toNat * 2 ^ 25 + (here.flatMap (·.users)).eraseDups.length % 16 * 2 ^ 16 + r.layout.pages % 256

/-- RSQ (R239, R353, R363): a replay writes the recorded value. -/
def execRsq (g : Pred) (d a : KReg) (s : State) : Out :=
  s.uniform g (fun e => do
    detBan e
    let r ← sampleOpen s e
    let v := match r with | some (v, _) => v | none => residStatus s e (e.g.regs.getK a.val)
    .ok ((s.sampleClose e v r).retire e (e.g.withRegs (e.g.regs.setK d.val (BitVec.ofNat 32 v)))))

end Sys2Proof.Machine
end

