-- ==== Sys2Proof/Machine/TrapQueue.lean ====
section
/-! DEFINITION. The host's side of the trap queue (R340 to R342), and two events of the memory path that have no instruction:
the end of a walk (R85) and the release of a park (R143). -/

namespace Sys2Proof.Machine

/-! ## The window as functions see it (R384, R399, R403) -/

/-- The management window answers: the reset sequence has ended and the part is not in recovery. -/
def State.isOpen (s : State) : Bool := !s.starting && !s.fw.recovery

/-- A function sees the block of a context: PF0 every one, a VF those it owns (R384). [DEDUCED, log 106] -/
def State.sees (s : State) (fn c : Nat) : Bool := s.isOpen && decide (c < 64) && (fn == 0 || (s.ctx c).owner == fn)

/-! ## Held records (R341) -/

/-- Fatal records that were held are posted while positions are free; with none left the context is no longer halted. The fuel
bounds them. -/
def State.postHeld (s : State) (c : Nat) : Nat → State
  | 0 => s
  | f + 1 =>
    let x := s.ctx c
    match x.fatals with
    | [] => if x.isHalted then s.setCtx c (x.setRegBit CtxReg.ctl 29 false) else s
    | r :: t =>
      if x.tqFree 0 then ((s.setCtx c { x with fatals := t }).tqPost c r none).postHeld c f else s

/-- A position may have come free. -/
def State.tqFreed (s : State) (c : Nat) : State := s.postHeld c ((s.ctx c).fatals.length + 1)

/-- TQ_CONS_WRITE (R338, R340). -/
def execTqConsWrite (fn ctx : Nat) (val : Word) (s : State) : Out :=
  .next (if s.sees fn ctx then (s.setCtx ctx ((s.ctx ctx).setReg CtxReg.tqCons val)).tqFreed ctx else s)

/-! ## Replay and abandon (R342) -/

/-- Items of a job that wait for a position. -/
def Job.heldAt (j : Job) (pos : Nat) : List Nat := (j.held.filter (fun h => h.2.1 == pos)).map (·.1)

/-- The job waits for a position no more. -/
def Job.unhold (j : Job) (pos : Nat) : Job := { j with held := j.held.filter (fun h => h.2.1 != pos) }

/-- A grid waits for a position no more. -/
def State.gridGoes (s : State) (c serial pos : Nat) : State :=
  s.modGrid c serial (fun g => if g.wait = some pos then { g with wait := none } else g)

/-- A group in the fault wait of a position re-executes (R93). -/
def State.groupGoes (s : State) (gid pos : Nat) : State :=
  s.modGroup gid (fun g => if g.faultPos = some pos then { g with park := none } else g)

/-- The loads of a context that wait for a position. -/
def State.modLoads (s : State) (c pos : Nat) (f : Inst → Inst) : State :=
  { s with insts := s.insts.map (fun i => if i.ctx = c ∧ i.wait = some pos then f i else i) }

/-- A record is replayed: what waits for it goes on. -/
def State.replayed (s : State) (c pos : Nat) : Replay → State
  | .group gid => s.groupGoes gid pos
  | .item job => s.modJob job (fun j => j.unhold pos)
  | .load _ _ => s.modLoads c pos (fun i => { i with wait := none })
  | .drain serial _ | .unspill serial | .counter serial => s.gridGoes c serial pos
  | .save tid => s.saveTry tid
  | .spill gid => s.groupGoes gid pos

/-- The cause of the record at a position. [DEDUCED, log 34] -/
def tqCause (s : State) (c pos : Nat) : Nat := s.readNat ((s.ctx c).reg64 CtxReg.tqBase + 32 * pos + 1) 1

/-- A team ends at once, saved or not (R342). -/
def State.teamLost (s : State) (tid : Nat) : State :=
  match s.team? tid with
  | none => s
  | some t => if t.st = .ended then s else (s.teamKilled t).unsave t

/-- A residency load that fails by an abandoned record: the residency is STALE and FAILED, with no further record (R236). -/
def State.loadsLost (s : State) (c pos : Nat) : State :=
  let slots := (s.insts.filter (fun i => i.ctx == c && i.wait == some pos)).map (·.slot)
  slots.foldl (fun a k =>
    { a with insts := a.insts.filter (fun i => !(i.ctx == c && i.slot == k)) }.modResid c k
      (fun q => { q with st := 3, failed := true })) s

/-- The staged record that a grid was performing is dropped: its contribution or store fails (R262). What a store asked for is done with; the
answers to a drain's earlier contributions are kept for its next turn. -/
def State.dropStaged (s : State) (c serial : Nat) (r : Staged) : State :=
  match s.grid? c serial with
  | none => s
  | some g => if r.kind = 1 then s.unstage g r else (s.unstage g r).doneAsks (gridKey c serial)

/-- A record is abandoned (R342): what waits for it fails as its origin gives. -/
def State.abandoned (s : State) (c pos : Nat) : Replay → State
  | .group gid => s.teamLost (gid / 32)
  | .item job =>
    (match s.job? job with
     | none => s
     | some j => (j.heldAt pos).foldl (fun a i =>
         match a.job? job with
         | some k => a.itemFailed (k.unhold pos) i none
         | none => a) (s.setJob (j.unhold pos)))
  | .load _ _ => s.loadsLost c pos
  | .drain serial r => (s.gridGoes c serial pos).dropStaged c serial r
  | .unspill serial =>
    (match s.grid? c serial with
     | none => s
     | some g => (s.gridGoes c serial pos).readLost g (tqCause s c pos))
  | .counter serial => (s.gridGoes c serial pos).modGrid c serial (fun g => { g with noCount := some (tqCause s c pos) })
  | .save tid =>
    (match s.team? tid with
     | none => s
     | some t => s.saveFailed t (.bad (tqCause s c pos) 0 0))
  | .spill gid =>
    (match s.team? (gid / 32) with
     | none => s
     | some t => s.gridDies t.ctx t.serial (gridRec t.idx t.serial (tqCause s c pos)))

/-- A write of TQ_REPLAY (R342): a pending record is replayed or abandoned, and its position may be free. -/
def State.tqCommand (s : State) (fn c : Nat) (val : Word) : State :=
  let pos := val.toNat % 1024
  if !s.sees fn c then s
  else match getT (s.ctx c).tqPend pos with
    | none => s
    | some r =>
      let s1 := s.modCtx c (fun x => { x with tqPend := delT x.tqPend pos })
      (if val.getLsbD 31 then s1.abandoned c pos r else s1.replayed c pos r).tqFreed c

/-- TQ_REPLAY (R342). -/
def execTqReplay (fn ctx : Nat) (val : Word) (s : State) : Out := .next (s.tqCommand fn ctx val)

/-- TQ_ABANDON: a write with ABANDON set (R342). -/
def execTqAbandon (fn ctx : Nat) (val : Word) (s : State) : Out := .next (s.tqCommand fn ctx (val ||| 0x80000000))

/-! ## Walks and parks -/

/-- A walk for a massif's base die fills its caches, or finds nothing. -/
def State.walkFor (s : State) (ctx : Nat) (spur : Option Word) (va massif : Nat) : State :=
  match xlate s ctx (.die massif) spur true .read va with
  | .ok (s1, _, _) => s1
  | .error _ => s

/-- WALK_DONE (R85, R88): a walk of the part fills the translation caches of its massifs, or finds nothing. [DESIGN CHOICE, log 58] -/
def execWalkDone (ctx : Nat) (spur : Option Word) (va : Pc) (s : State) : Out :=
  .next ((List.range (s.grade.columns / 384)).foldl (fun a m => a.walkFor ctx spur va.toNat m) s)

/-- A line of a team has landed, or the team is gone. -/
def lineLanded (s : State) (l : Nat × Nat) : Bool :=
  match s.team? l.1 with
  | some t => !t.absent.contains l.2
  | none => true

/-- PARK_RELEASE (R143): every line that a parked group touched has landed, and it re-executes. -/
def execParkRelease (gid : Nat) (s : State) : Out :=
  .next (s.modGroup gid (fun g =>
    match g.park with
    | some ⟨.presence lines, _⟩ => if lines.all (lineLanded s) && g.stop.isNone then { g with park := none } else g
    | _ => g))

end Sys2Proof.Machine
end

