-- ==== Sys2Proof/Machine/Queue.lean ====
section
/-! DEFINITION. Host queues (R286 to R290, R392): notifies, the commands of a mapped queue, mapping and eviction, and
registration. -/

namespace Sys2Proof.Machine

/-- A registered queue. -/
def State.queue? (s : State) (q : Nat) : Option Queue := getT s.queues q

/-- Set a queue. -/
def State.setQueue (s : State) (q : Nat) (k : Queue) : State := { s with queues := setT s.queues q k }

/-- QSTATE (R286). -/
def QState.code : QState → Nat
  | .idle => 0
  | .runnable => 1
  | .mapped => 2
  | .error => 3

/-- Write a queue's TAIL, HEAD and QSTATE into its descriptor (R286). -/
def State.writeDesc (s : State) (k : Queue) : State :=
  s.writeOwn (k.desc + 16) (leBytes 4 k.tail.toNat ++ leBytes 4 k.head.toNat ++ leBytes 1 k.st.code)

/-- A queue leaves its slot, or changes state outside one: its descriptor is written (R286, R289). -/
def State.queueTo (s : State) (q : Nat) (k : Queue) (st : QState) : State :=
  let k1 := { k with st := st, since := s.clk, quiet := none, fetched := none, tries := 0 }
  (((s.setQueue q k1).writeDesc k1).forgetAsk (queueKey q false)).forgetAsk (queueKey q true)

/-- A queue goes to ERROR with one QUEUE_SEQUENCE event (R288). [DEDUCED, log 91] -/
def State.queueError (s : State) (q : Nat) (k : Queue) (p : Nat) : State :=
  (s.queueTo q k .error).postEv k.fn ⟨9, BitVec.ofNat 32 q, BitVec.ofNat 64 p⟩

/-! ## Notifies (R288, R289) -/

/-- A notify value that a queue takes: newer than its TAIL. -/
def Queue.isNewer (k : Queue) (v : Word) : Bool := decide (1 ≤ (v - k.tail).toNat) && decide ((v - k.tail).toNat ≤ 2 ^ 31)

/-- QUEUE_NOTIFY (R288, R289, R384). -/
def execQueueNotify (fn queue : Nat) (val : Word) (s : State) : Out :=
  .next (match s.queue? queue with
    | none => s
    | some k =>
      if !s.isOpen || k.fn != fn || k.st = .error || !k.isNewer val then s
      else if 2 ^ k.logSize < (val - k.head).toNat then s.queueError queue k 0
      else match k.st with
        | .mapped => s.setQueue queue { k with tail := val, quiet := none }
        | .runnable =>
          let k1 := { k with tail := val }
          (s.setQueue queue k1).writeDesc k1
        | _ => s.queueTo queue { k with tail := val } .runnable)

/-! ## Commands (R287, R288) -/

/-- The command at HEAD, read in the context's global window. [DEDUCED, log 90] -/
def fetchCommand (s : State) (q : Nat) (k : Queue) : Except OwnErr (State × List Byte) :=
  ownRead (s.withAsks (queueKey q false)) 0 k.ctx (some 0) (k.ring + 128 * (k.head.toNat % 2 ^ k.logSize)) 128

/-- CHECK of command p (R287). -/
def checkOf (p : Nat) : Nat := 2 * (p % 32768) + 1

/-- A mapped queue has a command to look at. -/
def Queue.hasCommand (s : State) (k : Queue) : Bool := k.st == .mapped && k.head != k.tail && (s.ctx k.ctx).isOpen

/-- An earlier launch of the queue has not completed (R287). -/
def launchesLeft (s : State) (q : Nat) (k : Queue) : Bool := s.grids.any (fun g => g.ctx == k.ctx && g.queue == some q)

/-- AFTER keeps the command back (R287). [DEDUCED, log 90] -/
def heldByAfter (s : State) (q : Nat) (k : Queue) (cmd : List Byte) : Bool :=
  fieldB cmd 67 1 % 2 == 1 && launchesLeft s q k

/-- The command at HEAD is accepted (R289). -/
def State.passCommand (s : State) (q : Nat) (k : Queue) : State :=
  let k1 := { k with head := k.head + 1, fetched := none, tries := 0 }
  (s.setQueue q { k1 with quiet := if k1.head = k1.tail then some s.now else none }).doneAsks (queueKey q false)

/-- The command at HEAD has been fetched 64 times again, or 2 µs have passed since its first fetch (R288). -/
def Queue.isSpent (k : Queue) (s : State) : Bool :=
  k.fetched.any (fun f => decide (f + us 2 ≤ s.now) || decide (64 ≤ k.tries))

/-- Look at the command at HEAD: a request for it is sent, a CHECK that does not match has it fetched again as often as R288 lets, or the
command, which matches and has failed no longer, is handled. [DEDUCED, log 90] -/
def State.atCommand (s : State) (q : Nat) (f : Queue → List Byte → State → State) : State :=
  match s.queue? q with
  | none => s
  | some k =>
    if !k.hasCommand s then s
    else if k.isSpent s then s.queueError q k k.head.toNat
    else match fetchCommand s q k with
      | .error (.ask r) => s.ask 0 (queueKey q false) r
      | .error _ => s
      | .ok (s1, cmd) =>
        if fieldB cmd 64 2 = checkOf k.head.toNat then
          let k1 := { k with fetched := none, tries := 0 }
          f k1 cmd ({ s1 with ownIn := [] }.setQueue q k1)
        else (s.setQueue q { k with
            fetched := some (k.fetched.getD s.now)
            tries := if k.fetched.isSome then k.tries + 1 else 0 }).doneAsks (queueKey q false)

/-- A command that the scheduler refuses for its KIND (R287); other reserved bits are ignored (R12). [DEDUCED, log 90] -/
def commandBad (cmd : List Byte) : Bool := decide (2 ≤ fieldB cmd 66 1)

/-- The launch record of a command; one that is refused for its KIND carries a reserved bit itself, so that the scheduler's first check
refuses it. [DEDUCED, log 90] -/
def commandRecord (cmd : List Byte) : List Byte :=
  let b := cmd.take 64
  if commandBad cmd then b.take 63 ++ [0x80 ||| b.getD 63 0] else b

/-- QUEUE_LAUNCH_COMMAND (R287): the command at HEAD is a launch, and its record is accepted or refused. -/
def execQueueLaunchCommand (queue : Nat) (s : State) : Out :=
  .next (s.atCommand queue (fun k cmd s1 =>
    if fieldB cmd 66 1 = 1 ∨ heldByAfter s1 queue k cmd then s1
    else match acceptRecord s1 k.ctx (commandRecord cmd) ⟨some queue, 0xFFFFFFFF, 0, 0, k.head.toNat⟩ false (.queue queue) with
      | .error s2 => s2
      | .ok s2 => s2.passCommand queue k))

/-- QUEUE_WAIT_COMMAND (R287): the command at HEAD is a wait, accepted once its counter reaches its target. -/
def execQueueWaitCommand (queue : Nat) (s : State) : Out :=
  .next (s.atCommand queue (fun k cmd s1 =>
    if fieldB cmd 66 1 ≠ 1 ∨ heldByAfter s1 queue k cmd then s1
    else
      let s2 := s1.doneAsks (queueKey queue false)
      match ownRead (s2.withAsks (queueKey queue true)) 0 k.ctx (some 0) (fieldB cmd 0 8) 8 with
      | .error (.ask r) => s2.ask 0 (queueKey queue true) r
      | .error _ => s2
      | .ok (s3, bs) =>
        let s4 := s3.doneAsks (queueKey queue true)
        if counterMet (leNat bs) (fieldB cmd 8 8) then s4.passCommand queue k else s4))

/-- QUEUE_SEQUENCE (R288): the CHECK of the command at HEAD has failed 65 times, or still fails 2 µs after its first fetch. -/
def execQueueSequence (queue : Nat) (s : State) : Out :=
  .next (match s.queue? queue with
    | none => s
    | some k => if k.hasCommand s && k.isSpent s then s.queueError queue k k.head.toNat else s)

/-! ## Slots (R289, R290) -/

/-- The mapped queues. -/
def mappedQueues (s : State) : List (Nat × Queue) := s.queues.filter (fun q => q.2.st == .mapped)

/-- The part's 256 hardware slots have room. -/
def slotFree (s : State) : Bool := decide ((mappedQueues s).length < 256)

/-- The RUNNABLE queue that a free slot goes to: highest QPRIO, earliest RUNNABLE, lowest number (R290). -/
def nextRunnable (s : State) : Option (Nat × Queue) :=
  match s.queues.filter (fun q => q.2.st == .runnable) with
  | [] => none
  | q :: t => some (t.foldl (fun (b : Nat × Queue) w =>
      if b.2.qprio < w.2.qprio ∨ (b.2.qprio = w.2.qprio ∧ (w.2.since < b.2.since ∨ (w.2.since = b.2.since ∧ w.1 < b.1)))
      then w else b) q)

/-- QUEUE_MAP (R290). -/
def execQueueMap (s : State) : Out :=
  .next (match nextRunnable s with
    | none => s
    | some (n, k) =>
      if slotFree s then
        s.setQueue n { k with st := .mapped, since := s.clk, quiet := if k.head = k.tail then some s.now else none }
      else s)

/-- The MAPPED queue that is evicted first: lowest QPRIO, most recently mapped (R290). -/
def evictee (s : State) : Option (Nat × Queue) :=
  match mappedQueues s with
  | [] => none
  | q :: t => some (t.foldl (fun (b : Nat × Queue) w =>
      if w.2.qprio < b.2.qprio ∨ (w.2.qprio = b.2.qprio ∧ b.2.since < w.2.since) then w else b) q)

/-- QUEUE_EVICT (R290). -/
def execQueueEvict (s : State) : Out :=
  .next (match nextRunnable s, evictee s with
    | some (_, r), some (n, k) =>
      if !slotFree s && decide (k.qprio < r.qprio) then s.queueTo n k (if k.head = k.tail then .idle else .runnable) else s
    | _, _ => s)

/-- QUEUE_IDLE (R289). -/
def execQueueIdle (queue : Nat) (s : State) : Out :=
  .next (match s.queue? queue with
    | none => s
    | some k =>
      if k.st = .mapped ∧ k.head = k.tail ∧ k.quiet.any (fun c => decide (c + us 20 ≤ s.now)) then
        s.queueTo queue k .idle
      else s)

/-! ## Registration (R392) -/

/-- QREG_CMD reads the outcome of its last command and its QUEUE (R392). -/
def State.qregDone (s : State) (c q : Nat) (ok : Bool) : State :=
  s.setCtx c ((s.ctx c).setReg CtxReg.qregCmd (BitVec.ofNat 32 (q + 2 ^ 29 * (!ok).toNat)))

/-- The descriptor at QREG_ADDR as a queue of a context; none where it names another context, a field of it is out of range, or
it lies where nothing can be read (R286, R392). [DEDUCED, log 91] -/
def descQueue (s : State) (c : Nat) : Option Queue :=
  let pa := (s.ctx c).reg64 CtxReg.qregAddr
  if !localExists s pa || !localExists s (pa + 31) || (localErr s (isLost s) pa 32).isSome then none
  else
    let b := s.readOwn pa 32
    let ring := fieldB b 0 8
    let log := fieldB b 8 1
    if fieldB b 12 4 ≠ c ∨ ring % 128 ≠ 0 ∨ 2 ^ 57 < ring + 128 * 2 ^ log ∨ log < 4 ∨ 14 < log ∨ 15 < fieldB b 9 1 then none
    else some { fn := (s.ctx c).owner, ctx := c, desc := pa, ring := ring, logSize := log, qprio := fieldB b 9 1, tail := 0,
                head := 0, st := .idle, since := s.clk, quiet := none, fetched := none, tries := 0 }

/-- QREG_REGISTER (R392). [DEDUCED, log 91] -/
def execQregRegister (fn ctx : Nat) (val : Word) (s : State) : Out :=
  let q := val.toNat % 65536
  .next (if !s.sees fn ctx then s
    else if (s.queue? q).isSome || !(s.ctx ctx).isOpen then s.qregDone ctx q false
    else match descQueue s ctx with
      | none => s.qregDone ctx q false
      | some k => (s.setQueue q k).qregDone ctx q true)

/-- A queue is unregistered: it leaves its slot first, as any queue that is unmapped (R286, R391, R392). -/
def State.unregister (s : State) (q : Nat) (k : Queue) : State :=
  let s1 := if k.st = .mapped then s.queueTo q k (if k.head = k.tail then .idle else .runnable) else s
  { s1 with queues := delT s1.queues q }

/-- QREG_UNREGISTER (R392): the queue leaves its slot; what it launched runs on. -/
def execQregUnregister (fn ctx : Nat) (val : Word) (s : State) : Out :=
  let q := val.toNat % 65536
  .next (if !s.sees fn ctx then s
    else match s.queue? q with
      | some k =>
        if k.ctx = ctx then (s.unregister q k).qregDone ctx q true
        else s.qregDone ctx q false
      | none => s.qregDone ctx q false)

/-- QREG_RESET (R289, R392): a queue in ERROR goes to IDLE with HEAD := TAIL. [DEDUCED, log 91] -/
def execQregReset (fn ctx : Nat) (val : Word) (s : State) : Out :=
  let q := val.toNat % 65536
  .next (if !s.sees fn ctx then s
    else match s.queue? q with
      | some k =>
        if k.ctx = ctx ∧ k.st = .error then
          (s.setQueue q { k with st := .idle, head := k.tail, since := s.clk }).qregDone ctx q true
        else s.qregDone ctx q false
      | none => s.qregDone ctx q false)

end Sys2Proof.Machine
end

