-- ==== Sys2Proof/Machine/Contexts.lean ====
section
/-! DEFINITION. Contexts from the host's side (R361 to R364, R388 to R392): creation and destruction, requests, invalidations, the
pool, the Cairn registers, the event ring, and writes of plain management registers. -/

namespace Sys2Proof.Machine

/-! ## Creation (R390, R391) -/

/-- A local address of an alignment. -/
def localAligned (n v : Nat) : Bool := decide (v < 2 ^ 41) && v % n == 0

/-- An address of the global window of an alignment. -/
def windowAligned (n v : Nat) : Bool := decide (v < 2 ^ 57) && v % n == 0

/-- The registers that creation checks, by ascending offset, each with whether it holds (R307, R327, R338, R347, R361, R391). POOL_PAGES
is 1 to 2^24 whatever SPUR_SLOTS is (R307). [DEDUCED, log 92] -/
def creationChecks (x : Context) : List (Nat × Bool) :=
  let slots := (x.reg CtxReg.spurSlots).toNat
  let pool := (x.reg CtxReg.poolPages).toNat
  [ (CtxReg.ptRoot, localAligned 4096 (x.reg64 CtxReg.ptRoot)),
    (CtxReg.fbBase, localAligned (2 ^ 20) (x.reg64 CtxReg.fbBase)),
    (CtxReg.shapeBase, localAligned 1 (x.reg64 CtxReg.shapeBase)),
    (CtxReg.shapeSlots, decide ((x.reg CtxReg.shapeSlots).toNat ≤ 1048576)),
    (CtxReg.resBase, localAligned 1 (x.reg64 CtxReg.resBase)),
    (CtxReg.resSlots, decide ((x.reg CtxReg.resSlots).toNat ≤ 65536)),
    (CtxReg.bedrockQuota, decide ((x.reg CtxReg.bedrockQuota).toNat ≤ 589824)),
    (CtxReg.promoQuota, decide ((x.reg CtxReg.promoQuota).toNat ≤ 2097152)),
    (CtxReg.spurTable, localAligned 64 (x.reg64 CtxReg.spurTable)),
    (CtxReg.spurSlots, decide (slots ≤ 65536)),
    (CtxReg.poolBase, localAligned 65536 (x.reg64 CtxReg.poolBase)),
    (CtxReg.poolPages, decide (1 ≤ pool) && decide (pool ≤ 2 ^ 24)),
    (CtxReg.poolRef, localAligned 1 (x.reg64 CtxReg.poolRef)),
    (CtxReg.poolFree, localAligned 1 (x.reg64 CtxReg.poolFree)),
    (CtxReg.tqBase, localAligned 32768 (x.reg64 CtxReg.tqBase)),
    (CtxReg.trapVec, windowAligned 128 (x.reg64 CtxReg.trapVec)),
    (CtxReg.saveBase, windowAligned 65536 (x.reg64 CtxReg.saveBase)),
    (CtxReg.cairnBase, localAligned 65536 (x.reg64 CtxReg.cairnBase)) ]

/-- CFGERR: the offset ÷ 4 of the first register that refuses creation, 0 for none (R390). [DEDUCED, log 92] -/
def cfgErr (x : Context) : Nat := ((creationChecks x).find? (fun k => !k.2)).elim 0 (fun k => k.1 / 4)

/-- CTX_CTL from its fields (R390). -/
def ctlWord (up busy : Bool) (owner err : Nat) : Word :=
  BitVec.ofNat 32 (up.toNat * 2 ^ 31 + busy.toNat * 2 ^ 30 + owner * 2 ^ 18 + err)

/-- A context as its creation leaves it: its block as written, everything the part keeps beside it fresh, its counts from 0
(R126, R306, R338, R393). [DEDUCED, log 92] -/
def Context.created (x : Context) (owner : Nat) : Context :=
  { Context.init with
    regs := putB (putB (putB (putB x.regs CtxReg.ctl (ctlWord true false owner 0)) CtxReg.tqProd 0) CtxReg.tqCons 0)
      CtxReg.preempt 0
    rserial := x.rserial
    consumed := x.consumed
    diverged := x.diverged }

/-- The root spur at creation: its record LIVE with nothing else, its list page empty and counted for it (R306, R308, R310); without spur
slots there is no record (R307). [DEDUCED, log 92] -/
def State.rootRecord (s : State) (c : Nat) : State :=
  let x := s.ctx c
  if x.reg CtxReg.spurSlots = 0 then s
  else ((s.putSpur x 0 0 64 (2 ^ 64)).zeroPage (poolPage x 0)).setRef x 0 1

/-- CONTEXT_CREATE (R390): a write of CTX_CTL with UP = 1 while the context is down and not being destroyed. -/
def execContextCreate (fn ctx : Nat) (val : Word) (s : State) : Out :=
  let x := s.ctx ctx
  .next (
    if !s.sees fn ctx || x.isUp || x.destroying.isSome || !val.getLsbD 31 then s
    else
      let owner := if fn = 0 then val.toNat / 2 ^ 18 % 64 else x.owner
      match cfgErr x with
      | 0 => (s.setCtx ctx (x.created owner)).rootRecord ctx
      | n => s.setCtx ctx (x.setReg CtxReg.ctl (ctlWord false false owner n)))

/-! ## Destruction (R391) -/

/-- Everything of a context is cancelled with the reclaim of R320: its grids, its pending entries; its queues are unregistered. -/
def State.cancelCtx (s : State) (c : Nat) : State :=
  let gone := (s.launches.filter (fun q => q.2.ctx == c)).flatMap (fun q => q.2.entries)
  let s0 := (s.queues.filter (fun q => q.2.ctx == c)).foldl (fun (a : State) q => a.unregister q.1 q.2) s
  let s1 := { s0 with launches := s0.launches.filter (fun q => q.2.ctx != c) }
  let s2 := gone.foldl (fun (a : State) p => a.addGrid (p.cancelled c (a.ctx c).serials a.clk)) s1
  (s2.grids.filter (fun g => g.ctx == c && !g.dead)).foldl (fun (a : State) g => a.cancelGrid g) s2

/-- The destruction of a context begins: UP falls, BUSY rises. [DEDUCED, log 93] -/
def State.destroyCtx (s : State) (c : Nat) : State :=
  let x := s.ctx c
  if !x.isUp then s
  else (s.cancelCtx c).modCtx c (fun y => { y.setReg CtxReg.ctl (ctlWord false true y.owner 0) with
    destroying := some s.clk
    fatals := []
    request := none })

/-- CONTEXT_DESTROY: a write of CTX_CTL with UP = 0 (R390, R391); PF0 may write OWNER of a context that is down. -/
def execContextDestroy (fn ctx : Nat) (val : Word) (s : State) : Out :=
  let x := s.ctx ctx
  .next (
    if !s.sees fn ctx || val.getLsbD 31 then s
    else if x.isUp then s.destroyCtx ctx
    else if fn = 0 then
      s.setCtx ctx (x.setReg CtxReg.ctl
        (ctlWord false x.destroying.isSome (val.toNat / 2 ^ 18 % 64) ((x.reg CtxReg.ctl).toNat % 1024)))
    else s)

/-- Explicit promotions of a context become hardware promotions (R63). -/
def State.dropCharges (s : State) (c : Nat) : State :=
  { s with hbm := s.hbm.map (fun k =>
      { k with pages := k.pages.map (fun (p : Nat × Promoted) =>
          if p.2.charge = some c then (p.1, { p.2 with charge := none, isExplicit := false }) else p) }) }

/-- CTX_DOWN (R391): nothing of the context is under way any more, but for counter updates that wait for a trap record; its
translations, residencies, saves and on-die pages are gone, BUSY clears. [DEDUCED, log 93] -/
def execCtxDown (ctx : Nat) (s : State) : Out :=
  let x := s.ctx ctx
  .next (
    if x.destroying.isNone || s.jobs.any (fun j => j.ctx == ctx) ||
        s.grids.any (fun g => g.ctx == ctx && g.wait.isNone) then s
    else
      let s1 := { s.dropCharges ctx with
        grids := s.grids.filter (fun g => g.ctx != ctx)
        teams := s.teams.filter (fun t => t.ctx != ctx)
        insts := s.insts.filter (fun i => i.ctx != ctx)
        tlb := s.tlb.filter (fun t => t.ctx != ctx)
        walks := s.walks.filter (fun w => w.ctx != ctx)
        asks := s.asks.filter (fun k => askCtx s k.1 != some ctx) }.grantAll
      let y := { Context.init with
        regs := putB (putB x.regs CtxReg.ctl (ctlWord false false x.owner 0)) CtxReg.preempt 0
        counters := x.counters }
      (s1.setCtx ctx y).postCtx ctx 17 0)

/-- VF_FLR (R391): every context that the VF owns is destroyed. [DEDUCED, log 93] -/
def execVfFlr (fn : Nat) (s : State) : Out :=
  .next (if fn = 0 ∨ 63 < fn then s
    else (s.ctxs.filter (fun x => x.2.isUp && x.2.owner == fn)).foldl
      (fun (a : State) (x : Nat × Context) => a.destroyCtx x.1) s)

/-! ## Requests and invalidations -/

/-- PREEMPT_REQUEST (R294, R343, R391): bit 0 raises a request; 0 is ignored. -/
def execPreemptRequest (fn ctx : Nat) (val : Word) (s : State) : Out :=
  .next (if s.sees fn ctx && val.getLsbD 0 && (s.ctx ctx).isUp then s.requestCtx ctx none else s)

/-- The granule that G names (R102). -/
def granuleOf (g : Nat) : Nat := if g = 0 then 2 ^ 16 else if g = 1 then 2 ^ 21 else 2 ^ 30

/-- HOST_INVALIDATE: a write of INVAL_CMD (R392), which drops translations as XINVAL does (R103). [DEDUCED, log 94] -/
def execHostInvalidate (fn ctx : Nat) (val : Word) (s : State) : Out :=
  let x := s.ctx ctx
  let old := x.reg CtxReg.invalCmd
  let g := val.toNat / 2 ^ 16 % 4
  let n := val.toNat % 2 ^ 13
  let keep := BitVec.ofNat 32 (g * 2 ^ 16 + n)
  .next (
    if !s.sees fn ctx then s
    else if !val.getLsbD 31 then s.setCtx ctx (x.setReg CtxReg.invalCmd (keep ||| (old &&& 0x60000000)))
    else if old.getLsbD 30 then s
    else
      let va := x.reg64 CtxReg.invalBase
      if g = 3 ∨ (n ≠ 0 ∧ n ≤ 4096 ∧ 2 ^ 57 ≤ va) then
        s.setCtx ctx (x.setReg CtxReg.invalCmd (keep ||| 0x20000000))
      else
        let r := invalRange (granuleOf g) va n
        let s1 := ((s.landLate (fun _ => true)).dropRange ctx r.1 r.2)
        s1.modCtx ctx (fun y => { y.setReg CtxReg.invalCmd (keep ||| 0x40000000) with inval := flying s1 ctx }))

/-- HOST_INVALIDATE_DONE (R392): no access uses a dropped translation any more, and BUSY clears. -/
def execHostInvalidateDone (ctx : Nat) (s : State) : Out :=
  .next (if stillFlying s (s.ctx ctx).inval then s
    else s.modCtx ctx (fun x => { x.setRegBit CtxReg.invalCmd 30 false with inval := [] }))

/-- POOL_PUSH (R307): ignored for page 0, an index beyond the pool, or a page that is in use. -/
def execPoolPush (fn ctx : Nat) (val : Word) (s : State) : Out :=
  let x := s.ctx ctx
  .next (
    if !s.sees fn ctx || val = 0 || x.reg CtxReg.poolPages ≤ val || refCount s x val.toNat ≠ 0 then s
    else (s.setCtx ctx x).poolPushPage ctx val.toNat)

/-! ## Cairn registers (R361, R362, R364) -/

/-- A write of a Cairn register that the part takes: the block is seen and the unit is there (R391). -/
def cairnSeen (s : State) (fn c : Nat) : Bool := s.sees fn c && s.grade.hasCairn

/-- CAIRN_DIR_WRITE (R361): ignored while a REC or REPLAY grid of the context is accepted and not complete, and whole for a value that the
register's table does not name. [DESIGN CHOICE, log 116] -/
def execCairnDirWrite (fn ctx : Nat) (val : Word) (s : State) : Out :=
  let x := s.ctx ctx
  .next (
    if !cairnSeen s fn ctx || 2 < val.toNat || s.grids.any (fun g => g.ctx == ctx && recLogs g.bytes && !g.dead) then s
    else s.setCtx ctx { ((((x.setReg CtxReg.cairnDir val).setReg CtxReg.cairnProd 0).setReg CtxReg.cairnCons 0).setReg
        CtxReg.cairnEnd 0) with
      rserial := 0
      diverged := false
      stalled := []
      consumed := []
      gone := []
      skips := [] })

/-- CAIRN_CONS_WRITE (R361, R362): software's own in recording. [DEDUCED, log 94] -/
def execCairnConsWrite (fn ctx : Nat) (val : Word) (s : State) : Out :=
  .next (if cairnSeen s fn ctx && (s.ctx ctx).reg CtxReg.cairnDir != 2 then
    s.setCtx ctx ((s.ctx ctx).setReg CtxReg.cairnCons val) else s)

/-- CAIRN_PROD_WRITE (R361, R364): software's own in replay. [DEDUCED, log 94] -/
def execCairnProdWrite (fn ctx : Nat) (val : Word) (s : State) : Out :=
  .next (if cairnSeen s fn ctx && (s.ctx ctx).reg CtxReg.cairnDir != 1 then
    (s.setCtx ctx ((s.ctx ctx).setReg CtxReg.cairnProd val)).takeSkips ctx else s)

/-- CAIRN_END_WRITE (R361, R364). -/
def execCairnEndWrite (fn ctx : Nat) (val : Word) (s : State) : Out :=
  .next (if cairnSeen s fn ctx then s.setCtx ctx ((s.ctx ctx).setReg CtxReg.cairnEnd (val &&& 1)) else s)

/-! ## The event ring (R388, R389) -/

/-- A function's ring. -/
def State.ring (s : State) (fn : Nat) : EvRing := (getT s.rings fn).getD EvRing.init

/-- Held events are written while there is space and posting is not disabled; the fuel bounds them. -/
def State.evFlush (s : State) (fn : Nat) : Nat → State
  | 0 => s
  | f + 1 =>
    let r := s.ring fn
    match r.held with
    | [] => s
    | e :: t => if r.isFull || r.base == 0 then s else (s.evWrite fn { r with held := t } e).evFlush fn f

/-- EVQ_CONS_WRITE (R388, R389). -/
def execEvqConsWrite (fn : Nat) (val : Word) (s : State) : Out :=
  let r := s.ring fn
  .next (if s.starting ∨ 63 < fn then s
    else { s with rings := setT s.rings fn { r with cons := val } }.evFlush fn (r.held.length + 1))

/-- EVQ_PEND_CLEAR (R388): write one to clear. -/
def execEvqPendClear (fn : Nat) (val : Word) (s : State) : Out :=
  let r := s.ring fn
  .next (if s.starting ∨ 63 < fn then s
    else { s with rings := setT s.rings fn { r with pend := r.pend &&& ~~~val } })

/-! ## Plain registers (R387) -/

/-- How a register of a context block takes a write: not at all, at any time, or only while the context is down; and whether it
is one of a pair of halves. -/
structure RegKind where
  down  : Bool
  pair  : Bool
  cairn : Bool
  deriving DecidableEq, Repr

/-- The registers of a context block without behaviour of their own, by the offset of their first word (R391). [DEDUCED, log 106] -/
def ctxRegKind (off : Nat) : Option RegKind :=
  if [0x008, 0x010, 0x018, 0x028, 0x040, 0x050, 0x060, 0x068, 0x080, 0x0A8].contains off then some ⟨true, true, false⟩
  else if [0x020, 0x030, 0x034, 0x048, 0x058].contains off then some ⟨true, false, false⟩
  else if [0x0A0, 0x108, 0x118].contains off then some ⟨false, true, false⟩
  else if [0x038, 0x090, 0x0B0, 0x0B4, 0x0B8, 0x0BC, 0x0C0, 0x0C4].contains off then some ⟨false, false, false⟩
  else if off = 0x0D0 then some ⟨false, true, true⟩
  else if [0x0D8, 0x0E8].contains off then some ⟨false, false, true⟩
  else none

/-- A value that the register takes: CAIRN_LOG is 0 or 12 to 26 (R361). -/
def takesValue (off : Nat) (val : Word) : Bool :=
  off != 0x0D8 || val == 0 || (decide (12 ≤ val.toNat) && decide (val.toNat ≤ 26))

/-- The low half of a 64-bit register is kept until the high half is written (R387). [DEDUCED, log 95] -/
def State.latchLow (s : State) (key : Nat) (val : Word) : State := { s with latch64 := setT s.latch64 key val }

/-- The low half that goes with a high half; without one the register keeps its own. [DEDUCED, log 95] -/
def State.lowHalf (s : State) (key : Nat) (own : Word) : Word := (getT s.latch64 key).getD own

/-- A write of QREG_CMD whose OP is 0 sets QUEUE and does nothing else (R392). -/
def State.writeQueueField (s : State) (fn c : Nat) (val : Word) : State :=
  let x := s.ctx c
  if s.sees fn c ∧ val.toNat < 2 ^ 30 then
    s.setCtx c (x.setReg CtxReg.qregCmd ((x.reg CtxReg.qregCmd &&& 0x30000000) ||| (val &&& 0xFFFF)))
  else s

/-- A write of a register of context c's block (R387, R391). [DEDUCED, log 106] -/
def State.writeCtxReg (s : State) (fn c off : Nat) (val : Word) : State :=
  let x := s.ctx c
  let key := 2 ^ 24 * fn + 0x100000 + 0x1000 * c
  let may := fun k : RegKind => s.sees fn c && (!k.down || !x.isUp) && (!k.cairn || s.grade.hasCairn)
  if off = CtxReg.qregCmd then s.writeQueueField fn c val
  else match ctxRegKind off with
  | some k =>
    if !may k || !takesValue off val then s
    else if k.pair then s.latchLow (key + off) val
    else s.setCtx c (x.setReg off val)
  | none =>
    if off < 4 then s
    else match ctxRegKind (off - 4) with
      | some k =>
        if !may k || !k.pair then s
        else
          let low := s.lowHalf (key + (off - 4)) (x.reg (off - 4))
          { s.setCtx c ((x.setReg (off - 4) low).setReg off val) with latch64 := delT s.latch64 (key + (off - 4)) }
      | none => s

/-- A write of one of a function's event-queue registers without behaviour of its own; events that are held are written when there is
space (R388, R389). -/
def State.writeRing (s : State) (fn off : Nat) (val : Word) : State :=
  let r := s.ring fn
  let key := 2 ^ 24 * fn + 0x20
  if off = 0x20 then s.latchLow key val
  else if off = 0x24 then
    { s with
      rings := setT s.rings fn { r with base := val ++ s.lowHalf key (r.base.setWidth 32) }
      latch64 := delT s.latch64 key }.evFlush fn (r.held.length + 1)
  else { s with rings := setT s.rings fn { r with log := val.setWidth 4 } }.evFlush fn (r.held.length + 1)

/-- A write of a PF0 register of the whole part without behaviour of its own: LC_CMD with no OP or with one that is refused, LC_ARG, PWR_FLOOR, PEER_LO and
PEER_HI, a port's ENABLE set, and the route entries (R382, R387, R395, R396, R403). [DEDUCED, log 53] -/
def State.writeWhole (s : State) (off : Nat) (val : Word) : State :=
  if off = 0x14 then
    (if s.fw.status = 1 ∨ (2 ^ 28 ≤ val.toNat ∧ val.toNat < 2 ^ 30) then s
     else { s with fw := { s.fw with
      selSlot := val.getLsbD 24
      length := val.setWidth 16
      status := if 2 ^ 28 ≤ val.toNat then 2 else s.fw.status } })
  else if off = 0x18 then s.latchLow 0x18 val
  else if off = 0x1C then
    { s with
      fw := { s.fw with addr := val ++ s.lowHalf 0x18 (s.fw.addr.setWidth 32) }
      latch64 := delT s.latch64 0x18 }
  else if off = 0x104 then
    (let f : BitVec 10 := val.setWidth 10
     if f.toNat < 200 ∨ 800 < f.toNat then s
     else { s with power := { s.power with
      floor := f
      since := if s.power.lease.isNone then s.now else s.power.since } })
  else if off = 0x2008 ∨ off = 0x2010 then s.latchLow off val
  else if off = 0x200C ∨ off = 0x2014 then
    { s with
      mgmt := putB (putB s.mgmt (off - 4) (s.lowHalf (off - 4) (getB s.mgmt (off - 4)))) off (val &&& 0x1FF)
      latch64 := delT s.latch64 (off - 4) }
  else if 0x3000 ≤ off ∧ off < 0x3000 + 16 * s.grade.ports ∧ off % 16 = 0 then
    (let p := (off - 0x3000) / 16
     let k := (getT s.ports p).getD ⟨false, true, 0, 0, 0⟩
     if val.getLsbD 30 then { s with ports := setT s.ports p { k with enable := true } } else s)
  else if 0x40000 ≤ off ∧ off < 0x50000 ∧ off % 16 < 12 then { s with mgmt := putB s.mgmt off val }
  else s

/-- REGISTER_WRITE (R384, R387, R399, R403): a 32-bit write in the management window to a register that has no event of its own. A
VF reaches its event queue and the blocks of its contexts; in recovery only the firmware registers and the event queue
answer. [DESIGN CHOICE, log 14] -/
def execRegisterWrite (fn off : Nat) (val : Word) (s : State) : Out :=
  .next (
    if s.starting || decide (63 < fn) || off % 4 != 0 then s
    else if off = 0x20 ∨ off = 0x24 ∨ off = 0x28 then s.writeRing fn off val
    else if 0x100000 ≤ off ∧ off < 0x140000 then s.writeCtxReg fn ((off - 0x100000) / 0x1000) (off % 0x1000) val
    else if fn = 0 ∧ (!s.fw.recovery ∨ off < 0x20) then s.writeWhole off val
    else s)

end Sys2Proof.Machine
end

