-- ==== Sys2Proof/Machine/Crest.lean ====
section
/-! DEFINITION. The crest as a row cache: promotion, victims, quotas, demotion (R61 to R64), and the outcomes of HROW on one
page (R66). -/

namespace Sys2Proof.Machine

/-- The promoted pages of a bank. -/
def Stack.inBank (k : Stack) (b : Nat) : List (Nat × Promoted) := k.pages.filter (fun p => k.bankOf p.1 == b)

/-- The lowest free cache row of a bank (R59). [DEDUCED, log 63] -/
def Stack.freeRow (k : Stack) (b : Nat) : Option Nat :=
  let held := (k.inBank b).map (·.2.row)
  ((List.range (held.length + 1)).map (fun i => 1024 * k.win.toNat + i)).find? (fun r => decide (r < 8192) && !held.contains r)

/-- A page may be a victim: its copy and its write-back are not under way (R62, R64). -/
def Promoted.isSettled (p : Promoted) : Bool := p.st == .clean || p.st == .dirty

/-- The order in which victims are taken (R62). [DEDUCED, log 63] -/
def Promoted.rank (p : Promoted) : Nat := if p.isExplicit then 2 else if p.st = .clean then 0 else 1

/-- The first of two victims by rank, then by least recent use (R62). [DEDUCED, log 63] -/
def sooner (a b : Nat × Promoted) : Nat × Promoted :=
  if b.2.rank < a.2.rank ∨ (b.2.rank = a.2.rank ∧ b.2.lru < a.2.lru) then b else a

/-- The victim of a promotion into a bank with no free row (R62): a hardware promotion takes no explicit page. [DEDUCED, log 63] -/
def Stack.victim (k : Stack) (b : Nat) (hw : Bool) : Option (Nat × Promoted) :=
  match (k.inBank b).filter (fun p => p.2.isSettled && (!hw || decide (p.2.rank < 2))) with
  | [] => none
  | p :: t => some (t.foldl sooner p)

/-- Start a promotion (R61, R62): the stack, and whether an explicit page was displaced; none when no row can be had. A dirty
victim is written back before its row is reused. -/
def Stack.promote (k : Stack) (page : Nat) (charge : Option Nat) : Option (Stack × Bool) :=
  let hw := charge.isNone
  let b := k.bankOf page
  let put := fun (k : Stack) (r : Nat) =>
    { k with pages := setT k.pages page ⟨.promoting, !hw, charge, r, k.lruTick⟩, lruTick := k.lruTick + 1 }
  match k.freeRow b with
  | some r => some (put k r, false)
  | none => match k.victim b hw with
    | none => none
    | some (q, v) =>
      let k1 := if v.st = .dirty then { k with pages := setT k.pages q { v with st := .writingBack, isExplicit := false, charge := none } }
        else { k with pages := delT k.pages q }
      some (put k1 v.row, v.isExplicit)

/-- Demotion of a cached page (R64): a clean page is FLANK at once, a dirty one is written back; a charge ends. -/
def Stack.demote (k : Stack) (page : Nat) : Stack :=
  match getT k.pages page with
  | none => k
  | some p =>
    if p.st = .clean then { k with pages := delT k.pages page }
    else if p.st = .dirty then
      { k with pages := setT k.pages page { p with st := .writingBack, isExplicit := false, charge := none } }
    else k

/-- The copy of a promoted page is complete (R64). -/
def Stack.promoted (k : Stack) (page : Nat) : Stack :=
  match getT k.pages page with
  | some p => if p.st = .promoting then { k with pages := setT k.pages page { p with st := .clean } } else k
  | none => k

/-- A page's write-back is complete (R64). -/
def Stack.writtenBack (k : Stack) (page : Nat) : Stack :=
  match getT k.pages page with
  | some p => if p.st = .writingBack then { k with pages := delT k.pages page } else k
  | none => k

/-- A remap is in progress (R64, R76). -/
def Stack.isRemapping (k : Stack) : Bool := k.rstate == 1 || k.rstate == 2

/-- The pages charged to a context in all stacks (R63). -/
def promoUsed (s : State) (c : Nat) : Nat := (s.hbm.map (fun k => k.pages.countP (fun p => p.2.charge == some c))).sum

/-- The context has quota for one more page. -/
def hasQuota (s : State) (c : Nat) : Bool := decide (promoUsed s c < ((s.ctx c).reg CtxReg.promoQuota).toNat)

/-- The outcome of HROW on a page. -/
inductive HrowOut where
  | done | refused | displaced
  deriving DecidableEq, Repr

/-- A page becomes explicit and is charged (R64). -/
def Stack.makeExplicit (k : Stack) (page c : Nat) : Stack :=
  match getT k.pages page with
  | some p => { k with pages := setT k.pages page { p with isExplicit := true, charge := some c } }
  | none => k

/-- An explicit promotion finds its row: where every row of the bank belongs to a page whose move has not ended, it waits for the ends of
those moves, one after the other (R66). The fuel bounds them. [DEDUCED, log 60] -/
def Stack.promoteSoon (k : Stack) (page c : Nat) : Nat → Option (Stack × Bool)
  | 0 => none
  | f + 1 => match k.promote page (some c) with
    | some r => some r
    | none => match (k.inBank (k.bankOf page)).find? (fun p => !p.2.isSettled) with
      | none => none
      | some (q, _) => ((k.writtenBack q).promoted q).promoteSoon page c f

/-- Explicit promotion of a FLANK page (R66). -/
def upFlank (s : State) (c i page : Nat) (k : Stack) : State × HrowOut :=
  if k.isRemapping || 8 ≤ k.win.toNat || !hasQuota s c then (s, .refused)
  else match k.promoteSoon page c (k.pages.length + 1) with
    | none => (s, .refused)
    | some (k1, d) => (s.modStack i (fun _ => k1), if d then .displaced else .done)

/-- OutcomeUp for one local page (R66). A page in WRITING_BACK holds the outcome until its move ends, and is then promoted.
[DEDUCED, log 60] -/
def outcomeUp (s : State) (c pa : Nat) : State × HrowOut :=
  let i := paStack pa
  let page := paPage pa
  if paClass pa then (s, .done)
  else match s.hbm[i]? with
    | none => (s, .refused)
    | some k => match getT k.pages page with
      | none => upFlank s c i page k
      | some p =>
        if p.st = .writingBack then
          (match upFlank (s.modStack i (fun k => k.writtenBack page)) c i page (k.writtenBack page) with
           | (_, .refused) => (s, .refused)
           | r => r)
        else if p.isExplicit then (s, .done)
        else if hasQuota s c then (s.modStack i (fun k => k.makeExplicit page c), .done)
        else (s, .refused)

/-- OutcomeDn for one local page (R66). A page in PROMOTING holds the outcome until its copy completes. [DEDUCED, log 60] -/
def outcomeDn (s : State) (_c pa : Nat) : State × HrowOut :=
  if paClass pa then (s, .refused)
  else (s.modStack (paStack pa) (fun k => (k.promoted (paPage pa)).demote (paPage pa)), .done)

end Sys2Proof.Machine
end

