-- ==== Sys2Proof/Machine/Hbm.lean ====
section
/-! DEFINITION. Events of the HBM4E controllers: requests (R57, R58, R70, R71), the lost table (R72), promotion and
write-back (R61 to R64), the crest split (R59, R60), remaps (R74, R75), error counts and die warnings (R73, R76). -/

namespace Sys2Proof.Machine

/-! ## The lost table -/

/-- Distinct pages that a list of lost atoms names, with how many each has. -/
def lostCounts (as : List Nat) : List (Nat × Nat) :=
  as.foldl (fun t a => setT t (a / 2048) ((getT t (a / 2048)).getD 0 + 1)) []

/-- The page of most lost atoms, the lowest of equals. -/
def fullest (as : List Nat) : Nat × Nat := (lostCounts as).foldl (fun b p => if b.2 < p.2 then p else b) (0, 0)

/-- An atom enters the lost table of its stack, and the event is posted; a full table merges its fullest page, or the stack
fails (R71, R72). No cache holds its line any longer. [DESIGN CHOICE, log 12] -/
def State.loseAtom (s : State) (pa : Nat) : State :=
  let i := paStack pa
  match s.hbm[i]? with
  | none => s
  | some k =>
    if isLost s pa then s
    else
      let s1 := (s.dropLines (fun x => x.line == pa / 128)).postDev 3 i (pa / 32 * 32)
      if k.lostAtoms.length + k.lostPages.length < 4096 then
        s1.modStack i (fun k => { k with lostAtoms := k.lostAtoms ++ [pa / 32] })
      else
        let (page, n) := fullest k.lostAtoms
        if n < 2 then (s1.modStack i (fun k => { k with failed := true })).postDev 4 i 0
        else s1.modStack i (fun k =>
          let left := k.lostAtoms.filter (fun a => a / 2048 != page)
          { k with
            lostPages := k.lostPages ++ [page]
            lostAtoms := if pa / 65536 = page then left else left ++ [pa / 32] })

/-- Corrected errors are counted; the count saturates (R70, R76). -/
def State.countCe (s : State) (i n : Nat) : State :=
  s.modStack i (fun k => { k with ce := BitVec.ofNat 32 (min (k.ce.toNat + n) 0xFFFFFFFF) })

/-! ## Requests (R57, R58) -/

/-- The bytes that a masked write stores. -/
def maskedWrites (pa : Nat) (mask : BitVec 128) : List Byte → Nat → List (Nat × Byte)
  | [], _ => []
  | b :: t, i => (if mask.getLsbD i then [(pa + i, b)] else []) ++ maskedWrites pa mask t (i + 1)

/-- Bytes of a read request. -/
def readLen : MemOp → Nat
  | .rd32 => 32
  | .rd64 => 64
  | .rd128 => 128
  | _ => 0

/-- A controller performs one request at a local address: the state, the status and the data of the reply (R57, R58, R71,
R250); `ext` says it comes from the host or a peer (R279). A line that the L2 holds answers a read and takes a write; nothing is
allocated. [DESIGN CHOICE, log 12; DEDUCED, log 68] -/
def serve (s : State) (ext : Bool) (op : MemOp) (pa : Nat) : State × ReplyStatus × List Byte :=
  let put := fun (a : State) (ws : List (Nat × Byte)) => if ext then a.storeExtern ws else a.storeAll ws
  if !localExists s pa then (s, .absent, [])
  else match op with
    | .wr mask data =>
      let ws := maskedWrites pa mask data 0
      if ws.any (fun w => !localExists s w.1) then (s, .absent, [])
      else if (partLost s ws).isSome then (s, .dataLost, [])
      else ((put (s.clearLost ws) ws).useL2 pa 2 true, .ok, [])
    | .atomic o s64 x c =>
      let n := if s64 then 8 else 4
      if (localErr s (isLost s) pa n).isSome then (s, .dataLost, [])
      else
        let old := s.loadNat pa n
        ((put s (spread pa (leBytes n (newValue o s64 old x.toNat c.toNat)))).atController pa, .ok, leBytes n old)
    | .hrow up c =>
      if stackFailed s pa then (s, .dataLost, [])
      else (match if up then outcomeUp s c pa else outcomeDn s c pa with
       | (s1, .refused) => (s1, .refused, [])
       | (s1, _) => (s1, .ok, []))
    | _ =>
      let n := readLen op
      match localErr s (isLost s) pa n with
      | some (true, _) => (s, .dataLost, [])
      | some (false, _) => (s, .absent, [])
      | none => (s.useL2 pa 2 false, .ok, s.loadRun pa n)

/-- CONTROLLER_REQUEST (R58, R70, R71): what error correction finds is accounted first, then the request is served and
answered; one at a new window page is held until BUSY clears (R60). [DEDUCED, log 68] -/
def execControllerRequest (r : MemReq) (e : Ecc) (s : State) : Out :=
  let s1 := match e with
    | .clean => s
    | .corrected => s.countCe (paStack r.pa) 1
    | .lost => if localExists s r.pa then s.loseAtom r.pa else s
  let (s2, st, data) := serve s1 false r.op r.pa
  .next (if isHeld s r.pa then s else { s2 with outbox := s2.outbox ++ [.reply r.src r.tag st data] })

/-- PATROL_SCRUB (R70, R71): corrected atoms are counted, the others enter the lost table. -/
def execPatrolScrub (stack fixed : Nat) (bad : List Nat) (s : State) : Out :=
  .next ((bad.filter (fun pa => paStack pa == stack && localExists s pa)).foldl (fun a pa => a.loseAtom pa)
    (s.countCe stack fixed))

/-! ## Promotion -/

/-- HW_PROMOTE (R61, R62, R64): the activations of a FLANK page within 64 µs have reached PROMO. [DESIGN CHOICE, log 12] -/
def execHwPromote (stack page : Nat) (s : State) : Out :=
  .next (match s.hbm[stack]? with
    | none => s
    | some k =>
      if k.promo = 0 ∨ k.activations page s.now < k.promo.toNat ∨ k.isRemapping ∨ 8 ≤ k.win.toNat ∨ k.pageCount false ≤ page ∨
          (getT k.pages page).isSome then s
      else match k.promote page none with
        | none => s
        | some (k1, _) => s.modStack stack (fun _ => k1))

/-- PROMOTION_DONE (R64): the row is free of a victim still being written back. -/
def execPromotionDone (stack page : Nat) (s : State) : Out :=
  .next (match s.hbm[stack]? with
    | none => s
    | some k => match getT k.pages page with
      | none => s
      | some p =>
        if (k.inBank (k.bankOf page)).any (fun q => q.1 != page && q.2.row == p.row) then s
        else s.modStack stack (fun k => k.promoted page))

/-- WRITE_BACK_DONE (R64). -/
def execWriteBackDone (stack page : Nat) (s : State) : Out := .next (s.modStack stack (fun k => k.writtenBack page))

/-- Every cached page is dropped or begins its write-back (R64, R74); `rows` selects them. [DEDUCED, log 64] -/
def Stack.flush (k : Stack) (rows : Nat → Bool) : Stack :=
  { k with pages := k.pages.filterMap (fun p =>
      if !rows p.2.row then some p
      else match p.2.st with
        | .clean | .promoting => none
        | .dirty => some (p.1, { p.2 with st := .writingBack, isExplicit := false, charge := none })
        | .writingBack => some p) }

/-! ## Warnings -/

/-- DIE_FAILING (R73). -/
def execDieFailing (stack die : Nat) (s : State) : Out :=
  .next (if stack < s.hbm.length then s.postDev 1 (stack + 256 * die) 0 else s)

/-- BANK_HOT (R73): the die's refresh rate is doubled. -/
def execBankHot (stack bank : Nat) (s : State) : Out :=
  .next (if stack < s.hbm.length then
    (s.modStack stack (fun k => { k with hot := k.hot ||| BitVec.ofNat 16 (2 ^ bank) })).postDev 2 (stack + 256 * bank) 0
    else s)

/-! ## The crest split (R59, R60) -/

/-- The physical address of a page of a class of a stack (R54). -/
def pagePa (crest : Bool) (stack page : Nat) : Nat := crest.toNat * 2 ^ 40 + stack * 2 ^ 36 + page * 65536

/-- Pages a to b - 1 of a class lose their contents and their lost entries, and no cache holds a line of them (R60, R74).
[DEDUCED, log 64] -/
def State.discard (s : State) (crest : Bool) (stack a b : Nat) : State :=
  let lo := pagePa crest stack a
  let hi := pagePa crest stack b
  let s1 := ({ s with mem := zeroB s.mem lo (hi - lo) }.markStaleRun lo (hi - lo)).dropLines
    (fun x => decide (lo ≤ 128 * x.line) && decide (128 * x.line < hi))
  s1.modStack stack (fun k => { k with
    lostAtoms := k.lostAtoms.filter (fun x => 32 * x < lo || hi ≤ 32 * x)
    lostPages := k.lostPages.filter (fun x => 65536 * x < lo || hi ≤ 65536 * x) })

/-- CREST_WIN_WRITE (R60): PROMO is stored at once; WIN changes unless it is above 8 or a remap is in progress. While an earlier change is
under way, the window pages that were there before it stay the ones that are open. [DEDUCED, log 64] -/
def execCrestWinWrite (stack : Nat) (val : Word) (s : State) : Out :=
  .next (match s.hbm[stack]? with
    | none => s
    | some k =>
      let s1 := s.modStack stack (fun k => { k with promo := val.extractLsb' 8 8 })
      let w := val.extractLsb' 0 4
      if 8 < w.toNat ∨ k.isRemapping ∨ w = k.win then s1
      else
        let a := k.banks * 1024 * min w.toNat k.win.toNat
        let b := k.banks * 1024 * max w.toNat k.win.toNat
        (s1.discard true stack a b).modStack stack (fun k =>
          { k.flush (fun r => decide (r < 1024 * w.toNat)) with win := w, winWas := if k.busy && decide (k.winWas.toNat < k.win.toNat) then k.winWas else k.win, busy := true }))

/-- CREST_WIN_DONE (R60): BUSY clears once no row of the new window is still being written back. [DEDUCED, log 64] -/
def execCrestWinDone (stack : Nat) (s : State) : Out :=
  .next (s.modStack stack (fun k =>
    if k.pages.any (fun p => decide (p.2.row < 1024 * k.win.toNat)) then k else { k with busy := false }))

/-! ## Remaps (R74, R75) -/

/-- The condition of R74 that a remap breaks. [DEDUCED, log 65] -/
def remapBreak (k : Stack) (t : BitVec 16) : Option Nat :=
  if k.isRemapping || k.busy then some 2
  else if popCount (t ^^^ k.live) ≠ 1 then some 0
  else if popCount t < 12 then some 1
  else none

/-- REMAP_START: a write of HB_REMAP (R74, R76); TARGET holds what was written last unless the command is refused.
[DEDUCED, log 64; DEDUCED, log 65; DESIGN CHOICE, log 66] -/
def execRemapStart (stack : Nat) (val : Word) (s : State) : Out :=
  .next (match s.hbm[stack]? with
    | none => s
    | some k =>
      let t : BitVec 16 := val.extractLsb' 0 16
      if !val.getLsbD 31 then
        s.modStack stack (fun k => { k with target := t })
      else match remapBreak k t with
        | some why =>
          (s.modStack stack (fun k => if k.isRemapping then k else { k with rstate := 4 })).postDev 6
            (stack + 256 * (Config.remapReason why).toNat) 0
        | none =>
          let nb := popCount t
          let s1 := if nb < k.banks then
              (s.discard false stack (nb * 57344) (k.banks * 57344)).discard true stack (nb * 1024 * k.win.toNat)
                (k.banks * 1024 * k.win.toNat)
            else s
          s1.modStack stack (fun k => { k.flush (fun _ => true) with target := t, goal := t, rstate := 1 }))

/-- Pages of a class that a remap moves: those of the smaller map. -/
def Stack.movePages (k : Stack) (crest : Bool) : Nat :=
  let nb := min (popCount k.goal) (popCount k.live)
  if crest then nb * 1024 * k.win.toNat else nb * 57344

/-- The watermark at the start of a class (R75). -/
def Stack.startClass (k : Stack) (crest : Bool) : Stack :=
  { k with wmClass := crest, wmPage := if k.isShrink then BitVec.ofNat 20 (k.movePages crest) else 0 }

/-- The class under move has no page left to move. -/
def Stack.classDone (k : Stack) : Bool :=
  if k.isShrink then k.wmPage == 0 else decide (k.movePages k.wmClass ≤ k.wmPage.toNat)

/-- One page has moved: the watermark passes it (R75). -/
def Stack.pageMoved (k : Stack) : Stack :=
  let k1 := if k.rstate = 1 then { k.startClass (k.win != 0) with rstate := 2 } else k
  let k2 := if k1.classDone && k1.wmClass then k1.startClass false else k1
  if k2.classDone then k2
  else { k2 with wmPage := if k2.isShrink then k2.wmPage - 1 else k2.wmPage + 1 }

/-- The page that moves next: its class and its number (R74, R75). -/
def Stack.nextMove (k : Stack) : Option (Bool × Nat) :=
  let k1 := if k.rstate = 1 then { k.startClass (k.win != 0) with rstate := 2 } else k
  let k2 := if k1.classDone && k1.wmClass then k1.startClass false else k1
  if k2.classDone then none
  else some (k2.wmClass, if k2.isShrink then k2.wmPage.toNat - 1 else k2.wmPage.toNat)

/-- The atoms of a page that its move finds uncorrectable enter the lost table (R75). [DEDUCED, log 64] -/
def State.moveLosses (s : State) (crest : Bool) (stack page : Nat) : State :=
  let pa := pagePa crest stack page
  let bad := (List.range 2048).filter (fun i => Config.moveLoses s.free (pa / 32 + i))
  bad.foldl (fun a i => a.loseAtom (pa + 32 * i)) { s with free := s.free + 1 }

/-- REMAP_PAGE_MOVED (R74, R75): moves begin once the row cache is flushed. -/
def execRemapPageMoved (stack : Nat) (s : State) : Out :=
  .next (match s.hbm[stack]? with
    | none => s
    | some k =>
      if k.rstate = 2 ∨ (k.rstate = 1 ∧ k.pages = []) then
        let s1 := s.modStack stack (fun k => k.pageMoved)
        match k.nextMove with
        | some (crest, page) => s1.moveLosses crest stack page
        | none => s1
      else s)

/-- REMAP_DONE (R74): every page has moved, and the new top pages of a restore read as zero. Firmware records the map that holds from then
on (R76). HB_WMARK, which the spec gives for the moves alone, keeps the last watermark.
[DESIGN CHOICE, log 66; DEDUCED, log 101; DESIGN CHOICE, log 115] -/
def execRemapDone (stack : Nat) (s : State) : Out :=
  .next (match s.hbm[stack]? with
    | none => s
    | some k =>
      if k.rstate = 2 ∧ k.wmClass = false ∧ k.classDone then
        let nb := popCount k.goal
        let s1 := { s with fw := { s.fw with mapOuts := setT s.fw.mapOuts stack k.goal } }.modStack stack (fun k =>
          { k with live := k.goal, rstate := 3 })
        let s2 := if k.banks < nb then
            (s1.discard false stack (k.banks * 57344) (nb * 57344)).discard true stack (k.banks * 1024 * k.win.toNat)
              (nb * 1024 * k.win.toNat)
          else s1
        s2.postDev 5 stack (Config.remapDoneArg k.goal (4 * nb)).toNat
      else s)

/-! ## Registers with an action (R72, R76) -/

/-- HB_LOSTCLR (R72): a page entry is cleared, and the page's contents are open until written. [DESIGN CHOICE, log 67] -/
def execHbLostclr (stack : Nat) (val : Word) (s : State) : Out :=
  .next (match s.hbm[stack]? with
    | none => s
    | some k =>
      let pa := pagePa (val.getLsbD 31) stack (val.toNat % 2 ^ 20)
      if k.lostPages.contains (pa / 65536) then
        { (s.modStack stack (fun k => { k with lostPages := k.lostPages.filter (· != pa / 65536) })).dropLines
            (fun x => x.line / 512 == pa / 65536) with
          mem := fillB s.mem pa 65536 (Config.clearedByte s.free)
          free := s.free + 1 }
      else s)

/-- HB_CE_CLEAR (R76): write one to clear. [DEDUCED, log 65] -/
def execHbCeClear (stack : Nat) (val : Word) (s : State) : Out :=
  .next (s.modStack stack (fun k => { k with ce := k.ce &&& ~~~val }))

end Sys2Proof.Machine
end

