-- ==== Sys2Proof/Machine/Heat.lean ====
section
/-! DEFINITION. Heat, current and migration (R372 to R382): sensors, the Scree governor, moves, the rails, the thermal emergency
and the power leases. -/

namespace Sys2Proof.Machine

/-! ## Sensors (R372, R373) -/

/-- A core is hot: from HOT on, until its reading falls below RELEASE. -/
def hotAfter (was : Bool) (temp : Nat) : Bool := decide (380 ≤ temp) || (was && decide (368 ≤ temp))

/-- The real time since which the coolant has been over its limit. -/
def Power.overheated (p : Power) (now : Nat) : Option Nat :=
  if p.limit.toNat < p.outlet.toNat then some (p.hotOut.getD now) else none

/-- SENSOR_SAMPLE (R372, R373, R380): a reading of a core's sensor and of the coolant outlet. -/
def execSensorSample (core : Nat) (temp : BitVec 16) (outlet : BitVec 8) (s : State) : Out :=
  let was := (getT s.sensors core).any (·.hot)
  let p := { s.power with outlet := outlet }
  .next (
    if 4 * s.grade.columns ≤ core then s
    else { s with
      sensors := setT s.sensors core ⟨temp, hotAfter was temp.toNat⟩
      power := { p with
        hotOut := p.overheated s.now
        crit := p.crit || (p.emerg.isNone && decide (440 ≤ temp.toNat)) } })

/-- A core is hot (R373). [DESIGN CHOICE, log 4] -/
def isHot (s : State) (core : Nat) : Bool := (getT s.sensors core).any (·.hot)

/-! ## The governor (R374, R376) -/

/-- A column's governor at start: full rate, nothing chosen. -/
def Column.start : Column := { rate := 16, decided := none, seen := [], cooling := 0, cool := 0, choice := none, defer := none, moving := none }

/-- A column's governor. -/
def State.col (s : State) (column : Nat) : Column := (getT s.columns column).getD Column.start

/-- Set a column's governor. -/
def State.setCol (s : State) (column : Nat) (k : Column) : State := { s with columns := setT s.columns column k }

/-- The clk for which a team occupied the matrix array in the last 100 µs (R230, R374). [DEDUCED, log 52] -/
def occupancy (s : State) (t : Team) : Nat :=
  (t.occupied.map (fun o => clkPassed o.1 o.2.1 o.2.2 s.now - clkPassed o.1 o.2.1 o.2.2 (s.now - us 100))).sum

/-- No bedrock instance of a team has another user, which would pin them both to their layer (R238). [DEDUCED, log 52] -/
def isFree (s : State) (t : Team) : Bool := (instsOf s t.tid).all (fun i => decide (i.users.length ≤ 1))

/-- A team that Scree may choose (R374). -/
def canMove (s : State) (t : Team) : Bool :=
  t.st == .running && t.moved.all (fun m => decide (m + us 200 ≤ s.now)) && isFree s t

/-- The team that Scree takes from a hot core: the longest in the array, then the longest resident (R374). [DEDUCED, log 52] -/
def screeTeam (s : State) (column layer : Nat) : Option Team :=
  match s.teams.filter (fun t => t.column == column && t.layer == layer && t.isResident && canMove s t) with
  | [] => none
  | t :: r => some (r.foldl (fun b u =>
      if occupancy s b < occupancy s u ∨ (occupancy s b = occupancy s u ∧ u.arrived < b.arrived) then u else b) t)

/-- What the latest decision of a column read at a layer (R374). -/
def Column.read (k : Column) (layer : Nat) : Sensor := k.seen.getD layer ⟨0, false⟩

/-- A layer of the team's column that it may move to, by the readings of the column's latest decision (R374, step 2). [DEDUCED, log 52] -/
def isTarget (s : State) (t : Team) (layer : Nat) : Bool :=
  let core := 4 * t.column + layer
  let k := s.col t.column
  layer != t.layer && decide ((k.read layer).temp.toNat + 16 ≤ (k.read t.layer).temp.toNat) && !(k.read layer).hot &&
  (match s.grid? t.ctx t.serial with
   | some g => coreFits s g.bytes (groupsHeld s t) (coreTeams s t.column layer)
   | none => false) &&
  decide (corePages s core + privatePages s t ≤ 192) && balanced s core

/-- Scree's choice for one hot core: team and target layer. [DEDUCED, log 52] -/
def screeChoice (s : State) (column layer : Nat) : Option (Nat × Nat) := do
  let t ← screeTeam s column layer
  let l ← coolest s column ((List.range 4).filter (isTarget s t))
  pure (t.tid, l)

/-- The hot layers of a column. -/
def hotLayers (s : State) (column : Nat) : List Nat := (List.range 4).filter (fun l => isHot s (4 * column + l))

/-- The counts and rate after a cooling decision (R376). -/
def Column.cooled (k : Column) : Column :=
  if k.cooling + 1 < 2 then { k with cooling := k.cooling + 1, cool := 0 }
  else { k with rate := max 4 (k.rate - 1), cooling := 0, cool := 0 }

/-- The counts and rate after a cool decision (R376). -/
def Column.warmed (k : Column) : Column :=
  if k.cool + 1 < 2 then { k with cool := k.cool + 1, cooling := 0 }
  else { k with rate := min 16 (k.rate + 1), cool := 0, cooling := 0 }

/-- A choice whose team has reached no quiet point within 10 µs lapses (R374). [DEDUCED, log 52] -/
def Column.lapse (k : Column) (s : State) : Column :=
  if k.defer.isNone && k.moving.isNone && k.choice.any (fun c => decide (c.2.2 + us 10 ≤ s.now)) then
    { k with choice := none }
  else k

/-- SCREE_DECISION (R374, R376): one every 10 µs. -/
def execScreeDecision (column : Nat) (s : State) : Out :=
  let k := { (s.col column).lapse s with
    decided := some s.now
    seen := (List.range 4).map (fun l => (getT s.sensors (4 * column + l)).getD ⟨0, false⟩) }
  let s1 := { s.setCol column k with free := s.free + 1 }
  .next (
    if s.grade.columns ≤ column ∨ (s.col column).decided.any (fun d => decide (s.now < d + us 10)) then s
    else if k.choice.isSome || k.moving.isSome then s1.setCol column { k with cooling := 0, cool := 0 }
    else match hotLayers s column with
      | [] => s1.setCol column k.warmed
      | hs => match hs.findSome? (screeChoice (s.setCol column k) column) with
        | some c => s1.setCol column { k with choice := some (c.1, c.2, s.now), cooling := 0, cool := 0 }
        | none => s1.setCol column k.cooled)

/-! ## Moves (R375, R377) -/

/-- Bytes that copies have still to land in a team's scratchpad or operand buffer (R377). -/
def pendingLandings (s : State) (t : Team) : Nat :=
  (s.jobs.map (fun j =>
    let due := fun i : Nat => match j.dst with
      | .teams ts off => ts.getD (i / lineCount off j.size) j.tid == t.tid
      | .obuf _ _ _ => j.tid == t.tid
      | .glob _ => false
    ((j.items.filter due).map (fun i => (j.range i).2)).sum)).sum

/-- A team at a quiet point at which a move may begin: no access or multiply is under way, no batch is to be posted, and no
residency load of its own is under way (R27, R245, R377). -/
def isQuiet (s : State) (t : Team) : Bool :=
  (s.groupsOf t.tid).all (fun g => !g.isUnderWay) && t.array.isEmpty && (instsOf s t.tid).all (fun i => !i.loading)

/-- The move of a team begins (R375). -/
def State.beginMove (s : State) (column tid layer : Nat) : State :=
  (s.modTeam tid (fun t => { t with st := .migrating })).setCol column
    { s.col column with choice := none, defer := none, moving := some (tid, layer, s.clk) }

/-- MIGRATION_START (R374, R375, R377): the chosen team is at a quiet point. With less than 4 KiB still to land the move is
deferred; a target that no longer holds, or a wait of 10 µs for the quiet point, lets the choice lapse. [DEDUCED, log 52] -/
def execMigrationStart (column : Nat) (s : State) : Out :=
  let k := s.col column
  .next (match k.choice with
    | none => s
    | some (tid, layer, _) =>
      match s.team? tid with
      | none => s.setCol column { k with choice := none, defer := none }
      | some t =>
        let left := pendingLandings s t
        if k.defer.isSome then (if left = 0 then s.beginMove column tid layer else s)
        else if (k.lapse s).choice.isNone || t.st != .running || !isFree s t || !isTarget s t layer then
          s.setCol column { k with choice := none }
        else if !isQuiet s t then s
        else if left = 0 ∨ 4096 ≤ left then s.beginMove column tid layer
        else (s.modTeam tid (fun u => { u with st := .migrating })).setCol column { k with defer := some s.now })

/-- MIGRATION_DEFER_EXPIRY (R377): the 2 µs have passed. -/
def execMigrationDeferExpiry (column : Nat) (s : State) : Out :=
  let k := s.col column
  .next (match k.choice, k.defer with
    | some (tid, layer, _), some d => if d + us 2 ≤ s.now then s.beginMove column tid layer else s
    | _, _ => s)

/-- The bytes that a team moves (R24); the registers of groups whose share is released are not the team's any more (R178, R193). -/
def moveBytes (s : State) (t : Team) : Nat :=
  groupsHeld s t * (12288 + 256) + 4096 * s.recField Rec.scratch t + 4096 * s.recField Rec.acc t +
  (t.resv.map (fun r => r.2.bytes)).sum + 4096 * privatePages s t

/-- The team's private instances go with it; where its new core has the instance already, the team uses that. An instance that another
team has come to use meanwhile stays. [DEDUCED, log 52] -/
def State.moveInsts (s : State) (t : Team) (core : Nat) : State :=
  (instsOf s t.tid).foldl (fun a i =>
    if 1 < i.users.length then a.setInst { i with users := i.users.filter (· != t.tid) }
    else match a.inst? core i.ctx i.slot with
    | some k => { a with insts := a.otherInsts i.core i.ctx i.slot }.setInst (k.usedBy t.tid)
    | none => { a with insts := a.insts.map (fun q =>
        if q.core = i.core ∧ q.ctx = i.ctx ∧ q.slot = i.slot ∧ q.old = false then { q with core := core } else q) }) s

/-- MIGRATION_DONE (R375, R377): after its term the team issues on its new core; one that was asked meanwhile yields.
[DESIGN CHOICE, log 36] -/
def execMigrationDone (column : Nat) (s : State) : Out :=
  let k := s.col column
  .next (match k.moving with
    | none => s
    | some (tid, layer, from_) =>
      match s.team? tid with
      | none => s.setCol column { k with moving := none }
      | some t =>
        let n := moveBytes s t
        if s.clk < from_ + 64 + (n + 1023) / 1024 then s
        else match s.coverSaved ((s.modTeam tid (fun u => { u with layer := layer })).takeCore tid false) column layer with
        | .error s1 => s1
        | .ok s0 =>
          let s1 := ((((s0.modTeam tid (fun u => { u with layer := layer })).takeCore tid false).moveInsts t (4 * column + layer))).setCol
            column { k with moving := none }
          let s2 := { s1.modTeam tid (fun u => { u with
            st := if u.deadline.isSome then .yielding else .running
            moved := some s.now
            arrived := s.now }) with
            coreTt := setT s1.coreTt (4 * column + layer) (BitVec.ofNat 64 (max (s.coreTime (4 * column + layer)) t.tt.toNat)) }
          let s3 := { s2 with groups := s2.groups.map (fun (g : Group) =>
            if g.gid / 32 = tid then { g with latch := none, loops := [] } else g) }
          ((s3.count t.ctx 0x10 1).count t.ctx 0x18 n).cutTry tid)

/-! ## Rails and clock (R378, R379) -/

/-- BALANCE_WINDOW (R378): a window of 1 µs ends with the forecast currents of the four layers of one massif on one rail, from their
loads; where the spread passes 10 %, the busiest layer issues 1/16 less and the lighter ones take ballast. [DEDUCED, log 51] -/
def execBalanceWindow (massif rail : Nat) (load : List Nat) (s : State) : Out :=
  let key := 4 * massif + rail
  let b := (getT s.balances key).getD ⟨[16, 16, 16, 16], [0, 0, 0, 0], 0, [0, 0, 0, 0], 0⟩
  let hi := load.foldl max 0
  let lo := load.foldl min hi
  let spread := if hi = 0 then 0 else (hi - lo) * 100 / hi
  let last := if s.grade.columns ≤ 384 then 1 else 2
  let new : Balance :=
    if spreads load then
      { rates := (b.rates.zip load).map (fun p => if p.2 = hi then max 4 (p.1 - 1) else p.1)
        ballast := load.map (fun x => min 8 ((hi - x) * 100 / hi))
        spread := spread
        load := load
        ended := s.now }
    else { rates := [16, 16, 16, 16], ballast := [0, 0, 0, 0], spread := spread, load := load, ended := s.now }
  .next (if massif < last ∧ rail < 4 ∧ load.length = 4 ∧ b.ended + us 1 ≤ s.now then { s with balances := setT s.balances key new } else s)

/-- The arithmetic clock takes a point, from the present clk on (R379). -/
def State.toPoint (s : State) (point : Nat) : State :=
  { s with power := { s.power with point := point, pointClk := s.clk, pointAt := s.now } }

/-- CLOCK_POINT_CHANGE (R379). -/
def execClockPointChange (point : Nat) (s : State) : Out := .next (if point ≤ 12 then s.toPoint point else s)

/-! ## Power leases (R382) -/

/-- EFFECTIVE: the cap while a lease is valid, else the floor (R382). -/
def Power.effective (p : Power) : Nat := if p.lease.isSome then p.cap.toNat else p.floor.toNat

/-- POWER_ENFORCE (R382): from 1 ms after a cap or floor took effect, power above it lowers f, then n. [DEDUCED, log 53] -/
def execPowerEnforce (power : Nat) (s : State) : Out :=
  .next (
    if s.now < s.power.since + us 1000 ∨ power ≤ s.power.effective then s
    else if 0 < s.power.point then s.toPoint (s.power.point - 1)
    else (List.range s.grade.columns).foldl (fun a c =>
      a.setCol c { a.col c with rate := max 4 ((a.col c).rate - 1) }) s)

/-- A SEQ that is newer than the current one (R382). -/
def isNewerSeq (s c : BitVec 16) : Bool := decide (1 ≤ (s - c).toNat) && decide ((s - c).toNat ≤ 2 ^ 15)

/-- PWR_CAP (R382, R399, R403): it is answered once the part has started. -/
def execPwrCap (val : Word) (s : State) : Out :=
  let seq : BitVec 16 := (val >>> 16).setWidth 16
  let cap : BitVec 10 := val.setWidth 10
  .next (
    if s.starting ∨ s.fw.recovery ∨ cap.toNat < 200 ∨ 800 < cap.toNat ∨ !(s.power.first || isNewerSeq seq s.power.seq) then s
    else { s with power := { s.power with
      seq := seq
      first := false
      cap := cap
      lease := some (s.now + us 50000)
      since := s.now } })

/-- LEASE_EXPIRED (R382). -/
def execLeaseExpired (s : State) : Out :=
  .next (
    if s.power.lease.any (fun e => decide (e ≤ s.now)) then
      { s with power := { s.power with lease := none, since := s.now } }.postDev 8 s.power.seq.toNat 0
    else s)

/-! ## Thermal emergency (R380, R381) -/

/-- A core has reached CRIT, or the coolant has been over its limit for 1 ms (R380). -/
def isCritical (s : State) : Bool := s.power.crit || s.power.hotOut.any (fun t => decide (t + us 1000 ≤ s.now))

/-- Every column takes n = 4 (R380). -/
def State.slowAll (s : State) : State :=
  (List.range s.grade.columns).foldl (fun (a : State) c => a.setCol c { a.col c with rate := 4 }) s

/-- Every saved team is marked to have what is left of it written (R380). -/
def State.markSaved (s : State) : State :=
  { s with teams := s.teams.map (fun (t : Team) => if t.st = .saved then { t with onDie := true } else t) }

/-- THERM_EMERG (R380, steps 1 and 2). -/
def execThermEmerg (s : State) : Out :=
  .next (
    if s.power.emerg.isSome || !isCritical s then s
    else
      let s1 := { s with power := { s.power with emerg := some s.now, crit := false } }.slowAll.markSaved
      let s2 := s1.postDev 7 0 0
      (s2.ctxs.filter (fun (x : Nat × Context) => x.2.isUp)).foldl
        (fun (a : State) (x : Nat × Context) => a.requestCtx x.1 (some 1)) s2)

/-- EMERG_DEADLINE (R380, step 3): 50 ms after the start every team that is not saved ends with SAVE_TIMEOUT. -/
def execEmergDeadline (s : State) : Out :=
  .next (
    if s.power.emerg.any (fun t => decide (t + us 50000 ≤ s.now)) then
      (s.teams.filter Team.isResident).foldl (fun a t =>
        (a.postFatal t.ctx { teamFatal t 26 with c := BitVec.ofNat 64 (32 * 2 ^ 32) }).teamKilled t) s
    else s)

/-- The staging records that the base die holds for a team, as its block holds them (R347). -/
def stagedBytes (s : State) (t : Team) : List Byte :=
  match s.grid? t.ctx t.serial with
  | some g => padTo 4096 ((g.staged.filter (fun r => r.team == t.idx && r.spilled.isNone)).flatMap Staged.bytes)
  | none => []

/-- Everything of a saved team that is not in its block yet is written there (R346, R347). [DEDUCED, log 54] -/
def State.flushTeam (s : State) (t : Team) : Except OwnErr State := do
  let s1 ← (s.withAsks (teamKey t)).saveAll t
  let s2 ← ownWrites s1 t.massif t.ctx (s.spurOf t) [(saveBlock (s.ctx t.ctx) t.column t.slot + 0x1000, stagedBytes s t)]
  pure ((s2.modTeam t.tid (fun u => { u with onDie := false })).doneAsks (teamKey t))

/-- EMERG_RAILS_OFF (R380): once every team is saved or ended, the pages still on the die are written, one team at a step; with
none left the rails are removed. [DEDUCED, log 54] -/
def execEmergRailsOff (s : State) : Out :=
  .next (
    if s.power.emerg.isNone || s.power.railsOff || s.teams.any Team.isResident then s
    else match s.teams.find? (fun t => t.st == .saved && t.onDie) with
      | some t => (match s.flushTeam t with
        | .ok s1 => s1
        | .error e => s.saveFailed t e)
      | none => { s with power := { s.power with railsOff := true } })

/-- THERM_RESUME: a write of THERM_CFG (R380, R381). COOL_LIMIT outside 40 to 80 is ignored; RESUME returns the rails once
every sensor is below 85 °C and the coolant below its limit. -/
def execThermResume (val : Word) (s : State) : Out :=
  let lim : BitVec 8 := val.setWidth 8
  let q : Power := if 40 ≤ lim.toNat ∧ lim.toNat ≤ 80 then { s.power with limit := lim } else s.power
  let p : Power := { q with hotOut := q.overheated s.now }
  .next (
    if s.starting || s.fw.recovery then s
    else if val.getLsbD 31 && p.railsOff && s.sensors.all (fun k => decide (k.2.temp.toNat < 340)) &&
        decide (p.outlet.toNat < p.limit.toNat) then
      { s with power := { p with emerg := none, railsOff := false, crit := false } }
    else { s with power := p })

/-! ## Logical time (R269) -/

/-- LOGICAL_CLOCK_ADVANCE (R269): every logical clock moves on by a lease length. [DESIGN CHOICE, log 36] -/
def execLogicalClockAdvance (s : State) : Out := .next (s.ttAdvance 1)

end Sys2Proof.Machine
end

