-- ==== Sys2Proof/Machine/Product.lean ====
section
/-! DEFINITION. The numbers of a matrix multiply: elements of A and B with their scales, the chunk sums and their roundings
(R159 to R166, R171 to R174, R223, R224). -/

namespace Sys2Proof.Machine

/-! ## Elements -/

/-- Element k of a packed run of w-bit elements held in a number (R163). -/
def packed (run w k : Nat) : Nat := run / 2 ^ (w * k) % 2 ^ w

/-- Element k of a TRIT5 run (R162): a byte above 242 holds five zeros. -/
def trit (run k : Nat) : Int :=
  let b := run / 2 ^ (8 * (k / 5)) % 256
  if 243 ≤ b then 0
  else match b / 3 ^ (k % 5) % 3 with
    | 0 => 0
    | 1 => 1
    | _ => -1

/-- The width in bits of a packed element (R158). -/
def elemWidth (code : Nat) : Nat :=
  match code with
  | 0 => 64
  | 1 | 2 => 32
  | 3 | 4 | 11 => 16
  | 8 | 9 | 20 | 21 => 6
  | 10 | 14 | 15 | 22 | 24 | 25 => 4
  | 16 | 26 => 2
  | _ => 8

/-- The magnitudes of Q4N, in units of 1/1,024 (R166). -/
def q4nLevel (i : Nat) : Nat := [43, 130, 221, 318, 427, 555, 724, 1024].getD i 0

/-- The level of a Q code (R166). -/
def qLevel (tb : CodeTables) (code x : Nat) : Num :=
  match code with
  | 24 => .fin (x / 8 % 2 == 1) (q4nLevel (x % 8)) (-10)
  | 25 => Fmt.f16.value (getB tb.q4Live (x % 16)).toNat
  | 26 => .fin (x / 2 % 2 == 1) 1 (if x % 2 = 1 then 0 else -2)
  | _ => Fmt.bf16.value (getB tb.q8Live (x % 256)).toNat

/-- A value times a power of two. -/
def Num.scaled (x : Num) (k : Int) : Num :=
  match x with
  | .fin s m e => .fin s m (e + k)
  | y => y

/-- The value of an element before its scales: a plain number, the P of an MX element, or a Q level (R159, R164, R166). -/
def elemNum (tb : CodeTables) (code run k : Nat) : Num :=
  let x := packed run (elemWidth code) k
  match code with
  | 0 => Fmt.f64.value x
  | 1 => Fmt.f32.value x
  | 2 => Fmt.e8m10.value (x / 2 ^ 13)
  | 17 => .ofInt (trit run k)
  | 18 => Fmt.e4m3.value x
  | 19 => Fmt.e5m2.value x
  | 20 => Fmt.e3m2.value x
  | 21 => Fmt.e2m3.value x
  | 22 => Fmt.e2m1.value x
  | 23 => (Num.ofInt (sx 8 x)).scaled (-6)
  | 24 | 25 | 26 | 27 => qLevel tb code x
  | _ => (match elemOf code with
    | some f => f.value x
    | none => .nan)

/-- An MX element with its UE8M0 scale (R164). -/
def mxScaled (p : Num) (e : Nat) : Num := if e = 255 then .nan else p.scaled ((e : Int) - 127)

/-- A Q element in units of 1/255: level × S × s_b; a block with s_b = 0 holds +0 alone (R165). -/
def qScaled (level : Num) (sup sb : Nat) : Num :=
  if sb = 0 then .fin false 0 0 else (level.mul (Fmt.f32.value sup)).mul (.fin false sb 0)

/-! ## Operands -/

/-- Operand A of one lane (R223): its format, its elements and its scale bytes as numbers, its block length (0 without). -/
structure RowA where
  code  : Nat
  run   : Nat
  scale : Nat
  block : Nat
  deriving DecidableEq, Repr

/-- Element k of a row, scaled. -/
def RowA.at_ (a : RowA) (tb : CodeTables) (k : Nat) : Num :=
  let p := elemNum tb a.code a.run k
  if a.block = 0 then p else mxScaled p (a.scale / 256 ^ (k / a.block) % 256)

/-- Registers of a lane from a number on, as one little-endian number. -/
def laneRun (r : Regs) (lane n : Nat) : Nat → Nat
  | 0 => 0
  | c + 1 => (r.getV n lane).toNat + 2 ^ 32 * laneRun r lane (n + 1) c

/-- Row i of operand A as its registers hold it (R223). -/
def rowA (r : Regs) (va : Nat) (fa : Nat) (ablk : Bool) (w sc : Nat) (i : Nat) : RowA :=
  { code := fa
    run := laneRun r i va w
    scale := laneRun r i (va + w) sc
    block := if isMx fa then (if ablk then 16 else 32) else 0 }

/-- Column j of operand B (R224): its format and elements, its block length, scale bytes by block and superblock scales by
block. -/
structure ColB where
  code   : Nat
  run    : Nat
  block  : Nat
  scales : List Nat
  supers : List Nat
  deriving DecidableEq, Repr

/-- Element k of a column, scaled; in units of 1/255 for a Q format. -/
def ColB.at_ (b : ColB) (tb : CodeTables) (k : Nat) : Num :=
  let p := elemNum tb b.code b.run k
  if b.block = 0 then p
  else if isQ b.code then qScaled p (b.supers.getD (k / b.block) 0) (b.scales.getD (k / b.block) 0)
  else mxScaled p (b.scales.getD (k / b.block) 0)

/-- Where B tiles lie: a byte map, the base of their range in it, and their layout (R232, R235). -/
structure SourceB where
  map  : BMap 8
  base : Nat
  lay  : Layout
  deriving DecidableEq, Repr

/-- Bytes of a source as a number. -/
def SourceB.num (b : SourceB) (off n : Nat) : Nat := leNat (readB b.map (b.base + off) n)

/-- Column j of tile t of a source (R224). -/
def SourceB.col (b : SourceB) (t j : Nat) : ColB :=
  let f := b.lay.format
  let nb := if b.lay.block = 0 then 0 else classK f / b.lay.block
  let q := (32 * t + j) * nb
  { code := f
    run := b.num (tileBytes f * t + colStride f * j) (colStride f)
    block := b.lay.block
    scales := (List.range nb).map (fun m => b.num (b.lay.scale + q + m) 1)
    supers := if isQ f then (List.range nb).map (fun m => b.num (b.lay.super + 4 * ((q + m) / 256)) 4) else [] }

/-! ## Sums (R172 to R174) -/

/-- The sum of terms, exact; an empty sum is +0. -/
def sumNum : List Num → Num
  | [] => .fin false 0 0
  | x :: t => t.foldl Num.add x

/-- A value in units of 1/d rounded to FP32 by RNE. -/
def roundOver (d : Nat) : Num → Nat
  | .fin neg (m + 1) e => Fmt.f32.round .rne false neg (m + 1) d e
  | x => Fmt.f32.rne x

/-- One chunk added to an FP32 accumulator: two roundings (R172). -/
def chunkFp (d : Nat) (acc : Nat) (terms : List Num) : Nat :=
  Fmt.f32.rne ((Fmt.f32.value acc).add (Fmt.f32.value (roundOver d (sumNum terms))))

/-- The indices of chunk c (R172). -/
def chunkAt (len c : Nat) : List Nat := (List.range len).map (fun i => len * c + i)

/-- One element of an FP32 tile (R172). -/
def dotFp (tb : CodeTables) (k : Nat) (acc : Nat) (a : RowA) (b : ColB) : Nat :=
  let len := chunkLen b.code
  (List.range (k / len)).foldl (fun s c =>
    chunkFp (if isQ b.code then 255 else 1) s ((chunkAt len c).map (fun i => (a.at_ tb i).mul (b.at_ tb i)))) acc

/-- An integer clamped to 32 bits. -/
def clamp32 (x : Int) : Int := max (-(2 ^ 31 : Nat) : Int) (min x ((2 ^ 31 : Nat) - 1))

/-- The integer of a plain integer element (R161, R162). -/
def elemInt (code run k : Nat) : Int :=
  match code with
  | 17 => trit run k
  | _ => (match elemOf code with
    | some (.i f) => f.value (packed run (elemWidth code) k)
    | _ => 0)

/-- One element of an INT32 tile (R172): each chunk's exact sum is clamped, and so is the accumulator. -/
def dotInt (k : Nat) (acc : Nat) (a : RowA) (b : ColB) : Nat :=
  wrap 32 ((List.range (k / chunkLen b.code)).foldl (fun s c =>
    clamp32 (s + clamp32 (((chunkAt (chunkLen b.code) c).map (fun i =>
      elemInt a.code a.run i * elemInt b.code b.run i)).sum))) (sx 32 acc))

/-- One element of an FP64 tile: a chain of rounded FMAs (R174). -/
def dotF64 (k : Nat) (acc : Nat) (a : RowA) (b : ColB) : Nat :=
  (List.range k).foldl (fun s i =>
    Fmt.f64.rne ((Fmt.f64.value (packed a.run 64 i)).fma (Fmt.f64.value (packed b.run 64 i)) (Fmt.f64.value s))) acc

/-! ## Tiles (R220) -/

/-- The words of one element of a tile, with their indices in accumulator memory: FP64 elements lie in two slots. -/
def elemWord (t i j : Nat) : Nat := 1024 * t + 32 * i + j

/-- The first word of an FP64 element. -/
def elemWord64 (t i j : Nat) : Nat := 1024 * (t + j / 16) + 32 * i + 2 * (j % 16)

/-- The rows that a multiply computes: below M and executing (R228). -/
def rowsOf (m : Nat) (ex : Mask) : List Nat := (List.range (min m 32)).filter (fun i => laneBit ex i)

/-- The words that a multiply into an FP32 or INT32 tile writes (R228). -/
def productWords (acc : BMap 32) (tb : CodeTables) (t n k : Nat) (clr : Bool) (rows : List (Nat × RowA)) (src : SourceB)
    (tile : Nat) : List (Nat × Word) :=
  (List.range (min n 32)).flatMap (fun j =>
    let b := src.col tile j
    rows.map (fun (r : Nat × RowA) =>
      let c := if clr then 0 else (getB acc (elemWord t r.1 j)).toNat
      let x := if isPlainInt b.code then dotInt k c r.2 b else dotFp tb k c r.2 b
      (elemWord t r.1 j, BitVec.ofNat 32 x)))

/-- The words that a multiply into an FP64 tile writes (R174, R220). -/
def productWords64 (acc : BMap 32) (t n k : Nat) (clr : Bool) (rows : List (Nat × RowA)) (src : SourceB) (tile : Nat) :
    List (Nat × Word) :=
  (List.range (min n 32)).flatMap (fun j =>
    let b := src.col tile j
    rows.flatMap (fun (r : Nat × RowA) =>
      let w := elemWord64 t r.1 j
      let c := if clr then 0 else (getB acc w).toNat + 2 ^ 32 * (getB acc (w + 1)).toNat
      let x := dotF64 k c r.2 b
      [(w, BitVec.ofNat 32 x), (w + 1, BitVec.ofNat 32 (x / 2 ^ 32))]))

end Sys2Proof.Machine
end

