-- ==== Sys2Proof/Machine/Sync.lean ====
section
/-! DEFINITION. FENCE, TSYNC and CSYNC (R271 to R275, R301, R302). -/

namespace Sys2Proof.Machine

/-- A copy, OBLD or residency load that a group issued is not yet performed (R272). [DESIGN CHOICE, log 11] -/
def engineBusy (s : State) (gid : Nat) : Bool :=
  s.jobs.any (fun j => j.gid == gid) || s.insts.any (fun i => i.loading && i.loaders.contains gid)

/-- What a FENCE of a scope has performed there (R272, R275): a scope wider than team reaches past the L1s, so that narrow atomics
of the group are performed at device scope, and with ENG its copies of narrower scope too. [DESIGN CHOICE, log 105] -/
def State.fenced (s : State) (gid : Nat) (eng : Bool) (sc : Scope) : State :=
  match sc with
  | .group | .team => s
  | .cluster | .device | .system => s.landLate (fun x => x.gids.contains gid && (eng || x.column.isSome))

/-- FENCE (R272): accesses of the group are performed when they complete, but for what it has written at narrow scopes; with ENG it waits
for the group's engine work; at system scope it marks the group. [DESIGN CHOICE, log 11; DESIGN CHOICE, log 105] -/
def execFence (g : Pred) (eng : Bool) (sc : Scope) (s : State) : Out :=
  s.uniform g (fun e =>
    if eng && engineBusy s e.g.gid then .error (.park s .fence)
    else .ok ((s.fenced e.g.gid eng sc).retire e { e.g with fenceS := e.g.fenceS || sc == .system }))

/-- The arrival of a group at a sync: it counts at once in %retired, and the group waits (R301, R302, R356). [DEDUCED, log 77] -/
def Group.arriveAt (g : Group) (e : Env) (w : Wait) (clk : Nat) : Group :=
  { g with
    tsync := if w = .tsync then g.tsync + 1 else g.tsync
    csync := if w = .csync then g.csync + 1 else g.csync
    inSync := some (e.c.pc, w == .csync)
    retired := g.retiredNext
    latch := none
    park := some ⟨w, clk⟩ }

/-- A group that comes back to a sync it has arrived at: it waits on, or passes when the generation has come (R301, R302).
[DEDUCED, log 77] -/
def syncAgain (s : State) (e : Env) (w : Wait) (met : Bool) : State :=
  if met then
    let s1 := { s.setGroup { e.g with regs := e.g.regs.advance e.c.mask e.c.size, park := none, inSync := none } with cur := none }
    s1.stepEnds e.g
  else
    let s1 := { s.setGroup (e.g.parkOn w s.clk) with cur := none }
    if w.rotates then s1.stepEnds e.g else s1

/-- TSYNC's effect (R301). -/
def teamSync (s : State) (e : Env) : State :=
  if e.g.inSync = some (e.c.pc, false) then syncAgain s e .tsync (decide (e.g.tsync ≤ e.t.tsyncGen))
  else (({ s.setGroup (e.g.arriveAt e .tsync s.clk) with cur := none }.countRetired e.t.ctx e.g).stepEnds e.g).syncTeam e.t.tid

/-- TSYNC (R301). -/
def execTsync (g : Pred) (s : State) : Out := s.uniform g (fun e => .ok ((teamSync s e).cutTry e.t.tid))

/-- CSYNC (R301), a release at cluster scope; in a cluster of one team it acts as TSYNC. -/
def execCsync (g : Pred) (s : State) : Out :=
  s.uniform g (fun e =>
    if Rec.clsize e.gr.bytes = 1 then .ok ((teamSync s e).cutTry e.t.tid)
    else if e.g.inSync = some (e.c.pc, true) then
      .ok (syncAgain s e .csync
        (decide (e.g.csync ≤ (getT e.gr.csyncs (e.t.idx / Rec.clsize e.gr.bytes)).getD 0)))
    else
      let s1 := { (s.landOf e.g.gid).setGroup (e.g.arriveAt e .csync s.clk) with cur := none }
      .ok (((s1.countRetired e.t.ctx e.g).syncCluster e.t).cutTry e.t.tid))

end Sys2Proof.Machine
end

