-- ==== Sys2Proof/Machine/Tile.lean ====
section
/-! DEFINITION. Accumulator tiles: the interlock, the retirement of multiplies, and the moves of tiles to and from registers and
memory (R220, R221, R242, R243). -/

namespace Sys2Proof.Machine

/-- Accumulator slots of a team (R220). -/
def Env.slots (e : Env) : Nat := Rec.acc e.gr.bytes

/-- A run of slots lies within the team's. [DEDUCED, log 86] -/
def checkTiles (e : Env) (t n info : Nat) : Except Stop Unit := if e.slots < t + n then trapWith 13 info 0 else .ok ()

/-- The interlock: a multiply in the array, or an operation of another group whose accesses are under way, holds one of these slots
(R221). -/
def tileBusy (s : State) (e : Env) (ts : List Nat) : Bool :=
  e.t.array.any (fun o => o.slots.any (fun n => ts.contains n)) ||
  (holdsOf s e.t.tid e.g.gid).any (fun h => h.slots.any (fun n => ts.contains n))

/-- Wait at issue until earlier operations on these slots have retired; one that has issued goes on (R221). -/
def interlock (s : State) (e : Env) (ts : List Nat) : Except Stop Unit :=
  if e.flight?.isNone && tileBusy s e ts then .error (.park s .tile) else .ok ()

/-- MMA_RETIRE (R221, R236): the oldest multiply of a team in the array writes its tile, and instances that were only kept for multiplies go
with the last of these. [DEDUCED, log 85] -/
def execMmaRetire (tid : Nat) (s : State) : Out :=
  .next ((s.modTeam tid (fun t =>
    match t.array with
    | [] => t
    | o :: rest => { t with
        acc := o.writes.foldl (fun m w => putB m w.1 w.2) t.acc
        array := rest })).dropInsts (·.old))

/-- ACLR (R243). -/
def execAclr (g : Pred) (t n : BitVec 4) (s : State) : Out :=
  s.uniform g (fun e => do
    let k := n.toNat + 1
    checkTiles e t.toNat k 0
    interlock s e ((List.range k).map (· + t.toNat))
    .ok ((s.modTeam e.t.tid (fun u => { u with acc := zeroB u.acc (1024 * t.toNat) (1024 * k) })).retire e e.g))

/-- The address of ALD and AST: Pair64(k[a]) + SignExtend64(k[b]); APERTURE in the stack aperture, MISALIGNED off a multiple of
128 (R243). -/
def tileAddr (e : Env) (a b : KReg) : Except Stop Nat :=
  let ga := (e.g.regs.getK2 a.val + (e.g.regs.getK b.val).signExtend 64).toNat
  if 0xFF00000000000000 ≤ ga then trapWith 6 0 ga
  else if (ga < 2 ^ 57 ∨ 0xFE00000000000000 ≤ ga) ∧ ga % 128 ≠ 0 then trapWith 7 0 ga
  else .ok ga

/-- The words of a run of bytes. -/
def wordsAt (bs : List Byte) (n : Nat) : List Word := (List.range n).map (fun i => BitVec.ofNat 32 (fieldB bs (4 * i) 4))

/-- ALD (R243). -/
def execAld (g : Pred) (t : BitVec 4) (a b : KReg) (s : State) : Out :=
  s.uniform g (fun e => do
    checkTiles e t.toNat 1 0
    let ga ← tileAddr e a b
    interlock s e [t.toNat]
    let (s1, rs) ← (loadLanes s e 4096 [(lowLane e.c.mask, ga)]).mapError (Stop.holding ⟨[t.toNat], none, [], false⟩)
    let ws := wordsAt (rs.flatMap (·.2)) 1024
    .ok ((s1.modTeam e.t.tid (fun u =>
      { u with acc := fillB u.acc (1024 * t.toNat) 1024 (fun i => ws.getD (i - 1024 * t.toNat) 0) })).retire e e.g))

/-- AST (R243): while its stores are under way no other operation changes its slot, so what it stores is the slot as it was when it
issued. -/
def execAst (g : Pred) (t : BitVec 4) (a b : KReg) (s : State) : Out :=
  s.uniform g (fun e => do
    checkTiles e t.toNat 1 0
    let ga ← tileAddr e a b
    interlock s e [t.toNat]
    let s1 ← (storeLanes s e 4096 [(lowLane e.c.mask, ga, slotBytes e.t.acc t.toNat)]).mapError
      (Stop.holding ⟨[t.toNat], none, [], false⟩)
    .ok (s1.retire e e.g))

/-- ARD (R243). -/
def execArd (g : Pred) (d : VReg) (t : BitVec 4) (q : BitVec 2) (s : State) : Out :=
  s.run (fun e =>
    let m := e.taking g
    if m = 0 then .ok (s.retire e e.g)
    else do
      checkTiles e t.toNat 1 0
      interlock s e [t.toNat]
      let r := (lanesOf m).foldl (fun r l => (List.range 8).foldl (fun r c =>
        r.setV (d.val + c) l (getB e.t.acc (1024 * t.toNat + 32 * l + 8 * q.toNat + c))) r) e.g.regs
      .ok (s.retire e ((e.g.wrote d.val 8).withRegs r)))

/-- AWR (R243). -/
def execAwr (g : Pred) (t : BitVec 4) (a : VReg) (q : BitVec 2) (s : State) : Out :=
  s.run (fun e =>
    let m := e.taking g
    if m = 0 then .ok (s.retire e e.g)
    else do
      checkTiles e t.toNat 1 0
      interlock s e [t.toNat]
      .ok ((s.modTeam e.t.tid (fun u =>
        { u with acc := (lanesOf m).foldl (fun w l => (List.range 8).foldl (fun w c =>
            putB w (1024 * t.toNat + 32 * l + 8 * q.toNat + c) (e.g.regs.getV (a.val + c) l)) w) u.acc })).retire e e.g))

end Sys2Proof.Machine
end

