-- ==== Sys2Proof/Machine/Matrix.lean ====
section
/-! DEFINITION. The multiply instructions MMAB, MMAO, MMAG and DMMA (R222 to R231). A multiply takes its operands and forms its
words when it issues; MMA_RETIRE writes them to the tile. -/

namespace Sys2Proof.Machine

/-! ## The control word (R226) -/

/-- The fields of the control word. -/
structure MmaCtl where
  fa   : Nat
  ablk : Bool
  m    : Nat
  n    : Nat
  k    : Nat
  low  : Nat
  deriving DecidableEq, Repr

/-- The fields of a control word; `low` holds its reserved bits. -/
def mmaCtl (w : Word) : MmaCtl :=
  let x := w.toNat
  { fa := fld x 31 27, ablk := fld x 26 26 == 1, m := fld x 23 18, n := fld x 17 12, k := fld x 11 4,
    low := fld x 25 24 + fld x 3 0 }

/-- A multiply instruction: its tile, flags, operand registers, whether its tile is FP64. -/
structure Mma where
  tile : Nat
  clr  : Bool
  reuse : Bool
  va   : VReg
  b    : KReg
  f64  : Bool
  deriving DecidableEq, Repr

/-- The slots that a multiply writes (R220). -/
def Mma.slots (x : Mma) : List Nat := if x.f64 then [x.tile, x.tile + 1] else [x.tile]

/-- Step 1 of R231: control word, tile range, span of A, each naming the control word. [DEDUCED, log 86] -/
def mmaStep1 (e : Env) (x : Mma) (c : MmaCtl) (w : Word) : Except Stop Unit :=
  if 28 ≤ c.fa then trapWith 4 w.toNat 0
  else if c.low ≠ 0 ∨ 32 < c.m ∨ 32 < c.n ∨ (c.k ≠ 0 ∧ c.k ≠ classK c.fa) ∨ (c.ablk ∧ isMx c.fa = false) then trapWith 13 w.toNat 0
  else if e.slots < x.tile + x.slots.length then trapWith 13 w.toNat 0
  else if isQ c.fa = false ∧ 96 < x.va.val + (spanA c.fa c.ablk).1 + (spanA c.fa c.ablk).2 then trapWith 13 w.toNat 0
  else .ok ()

/-- Step 4 of R231: the format pairs of R222. [DEDUCED, log 86] -/
def mmaFormats (x : Mma) (c : MmaCtl) (w : Word) (fb : Nat) : Except Stop Unit :=
  let ok := if x.f64 then c.fa == 0 && fb == 0
    else c.fa != 0 && !isQ c.fa && fb != 0 && classOf c.fa == classOf fb && isPlainInt c.fa == isPlainInt fb
  if ok then .ok () else trapWith 4 w.toNat 0

/-! ## B (R227) -/

/-- Where B comes from, once it is at hand: its bytes and the tile, and what the array holds on to. -/
structure BTile where
  src  : SourceB
  tile : Nat
  resv : Option Nat
  res  : Option Nat
  deriving DecidableEq, Repr

/-- The multiply itself, with B at hand (R228): the rows and columns are formed and enter the array; the latch keeps A. [DEDUCED, log 85] -/
def multiply (s : State) (e : Env) (x : Mma) (c : MmaCtl) (b : BTile) : State :=
  let sp := spanA c.fa c.ablk
  let rows := (rowsOf c.m e.c.mask).map (fun i => (i, rowA e.g.regs x.va.val c.fa c.ablk sp.1 sp.2 i))
  let ws := if x.f64 then productWords64 e.t.acc x.tile c.n c.k x.clr rows b.src b.tile
    else productWords e.t.acc e.t.tables x.tile c.n c.k x.clr rows b.src b.tile
  let s1 := s.modTeam e.t.tid (fun t => { t with
    array := t.array ++ [⟨e.g.gid, x.slots, ws, b.resv, b.res⟩]
    occupied := t.occupied.filter (fun o => decide (s.now ≤ o.1 + o.2.1 * o.2.2 + us 100)) ++
      [(s.now, if x.f64 then 256 else 4, clkTime s.power.point)] })
  s1.retire e { e.g with latch := if x.reuse then some ⟨x.va, BitVec.ofNat 5 c.fa, c.ablk⟩ else none }

/-- A multiply that computes nothing passes at once and drops the latch (R228). -/
def multiplyNone (s : State) (e : Env) : State := s.retire e { e.g with latch := none }

/-- It makes its team a user of an instance that its core has (R238). -/
def State.uses (s : State) (e : Env) (slot : Nat) : State :=
  match s.inst? e.t.core e.t.ctx slot with
  | some i => s.putInst (i.usedBy e.t.tid)
  | none => s

/-- A multiply with B from a residency (R227, R231, R236): STALE_HANDLE, then its state and tile index, formats, the interlock,
and an instance on the core, which loads while the group waits. [DEDUCED, log 86] -/
def fromResid (s : State) (e : Env) (x : Mma) (c : MmaCtl) (w : Word) : Except Stop State :=
  let h := e.g.regs.getK x.b.val
  let t := e.g.regs.getK (x.b.val + 1)
  match residOf e.x h with
  | none => trapWith 11 h.toNat 0
  | some r =>
    if r.st = 3 then trapWith 12 h.toNat 0
    else if r.st ≠ 2 then trapWith 13 h.toNat 0
    else if r.layout.tiles ≤ t.toNat then trapWith 13 t.toNat 0
    else do
      mmaFormats x c w r.layout.format
      if c.m = 0 ∨ c.n = 0 then .ok (multiplyNone (s.uses e (handleSlot h)) e)
      else do
        interlock s e x.slots
        match s.inst? e.t.core e.t.ctx (handleSlot h) with
        | none => do
          let s1 ← startLoad s e h r
          .error (.park s1 .load)
        | some i =>
          if i.loading then .error (.park (s.putInst (i.usedBy e.t.tid)) .load)
          else
            .ok (multiply (s.putInst (i.usedBy e.t.tid)) e x c
              ⟨⟨i.data, 0, { r.layout with base := 0 }⟩, t.toNat, none, some (handleSlot h)⟩)

/-- A multiply with B from a reservation (R227, R231, R234). [DEDUCED, log 86] -/
def fromResv (s : State) (e : Env) (x : Mma) (c : MmaCtl) (w : Word) : Except Stop State :=
  let id := e.g.regs.getK x.b.val
  let t := e.g.regs.getK (x.b.val + 1)
  match getT e.t.resv (id.toNat % 16) with
  | none => trapWith 13 id.toNat 0
  | some l =>
    if l.tiles ≤ t.toNat then trapWith 13 t.toNat 0
    else do
      mmaFormats x c w l.format
      if c.m = 0 ∨ c.n = 0 then .ok (multiplyNone s e)
      else do
        interlock s e x.slots
        if stillDue s e.t.tid e.g.gid (tileRanges l t.toNat) then .error (.park s .load)
        else .ok (multiply s e x c ⟨⟨e.t.obuf, l.base, l⟩, t.toNat, some (id.toNat % 16), none⟩)

/-! ## MMAG's fetch (R227) -/

/-- A shape record with the box that an MMAG fetches: CS / E elements by 32. -/
def mmagShape (sh : List Byte) (fb : Nat) : List Byte :=
  sh.take 56 ++ leBytes 2 (colStride fb / shapeE sh) ++ leBytes 2 32 ++ leBytes 2 1 ++ leBytes 2 1

/-- The origin of an MMAG's box: coordinates beyond the rank are 0 (R118, R227). -/
def mmagOrigin (sh : List Byte) (o : Word) : Int × Int :=
  (coord o false, if shapeField sh 9 1 < 2 then 0 else coord o true)

/-- The pages of a fetch's runs, split where they cross one. -/
def fetchRuns (lane : Nat) (rs : List SrcRun) : List (Option (Steered × Nat) × Nat) :=
  rs.flatMap (fun (r : Option Loc × Nat) => match r.1 with
    | none => [(none, r.2)]
    | some (.scr t off) => [(some (⟨lane, off, .scr t off⟩, r.2), r.2)]
    | some (.glob va) => (pageRuns 3 va r.2).map (fun q => (some (⟨lane, q.1, .glob q.1⟩, q.2), q.2)))

/-- Pieces put back among the runs that read zeros. -/
def weave : List (Option (Steered × Nat) × Nat) → List (Nat × List Piece) → List Piece
  | [], _ => []
  | (none, n) :: t, ps => ⟨0, n, .got (List.replicate n 0), ⟨0, 0⟩⟩ :: weave t ps
  | (some _, _) :: t, p :: ps => p.2 ++ weave t ps
  | (some _, _) :: _, [] => []

/-- What the fetch must come after: an issued copy or load, or staged work of the group, that writes in the box's bounding range, and an
issued landing in the tile or its scales (R110, R234). [DEDUCED, log 85] -/
def fetchHeld (s : State) (e : Env) (src : JobSrc) (due : List (Nat × Nat)) : Bool :=
  s.jobs.any (fun j => j.ctx == e.t.ctx && j.feet.any (fun f => (src.feet 1).any (fun g => f.conflicts g))) ||
  e.gr.staged.any (fun r => r.team == e.t.idx && r.group == e.g.gid % 32 && r.kind != 2 &&
    (src.feet 1).any (fun g => g.conflicts ⟨0, r.addr.toNat, r.addr.toNat + 8, true⟩)) ||
  stillDue s e.t.tid e.g.gid due

/-- The bytes of pieces that the operand fetch reads as an engine does, in parts if the move says so (R276); a piece that is lost or names no
location stops it (step 7 of R231), and pieces that are not local are asked for. -/
def fetchPlaces (s : State) (e : Env) (ps : List Piece) : Except Stop (State × List Byte) :=
  if ps.any (Piece.isHeld s) then .error (.park s .held)
  else do
    let (s1, bs) ← readPlaces s e (fun s ps => s.engineMeets e.t.ctx ps) rawBytes [(lowLane e.c.mask, ps)]
    pure (s1, bs.flatMap (·.2))

/-- The fetch goes on. -/
def fetchGoesOn (s : State) (e : Env) (f : Flight) : Except Stop (State × List Byte) := do
  let (s1, bs) ← readsGoOn s e (fun s ps => s.engineMeets e.t.ctx ps) rawBytes f
  pure (s1, bs.flatMap (·.2))

/-- The box is translated, and the fetch starts once nothing is before it (steps 5 to 7 of R231); none where M or N is 0.
[DEDUCED, log 85] -/
def fetchBox (s : State) (e : Env) (x : Mma) (c : MmaCtl) (src : JobSrc) (rs : List (Option (Steered × Nat) × Nat))
    (resv : Option Nat) (due : List (Nat × Nat)) : Except Stop (State × Option (List Byte)) :=
  match e.flight? with
  | some f => do
    let (s1, bs) ← (fetchGoesOn s e f).mapError (Stop.holding f.holds)
    pure (s1, some bs)
  | none => do
    let (s1, ls) ← xlateEach s e .read (rs.filterMap (·.1))
    if c.m = 0 ∨ c.n = 0 then pure (s1, none)
    else do
      interlock s1 e x.slots
      if fetchHeld s1 e src due then .error (.park s1 .load)
      else do
        let (s2, bs) ← (fetchPlaces (s1.landOf e.g.gid) e (weave rs ls)).mapError (Stop.holding ⟨x.slots, resv, due, false⟩)
        pure (s2, some bs)

/-- A multiply with B fetched by shape handle (R80, R227, R231). [DEDUCED, log 85; DEDUCED, log 86] -/
def fromShape (s : State) (e : Env) (x : Mma) (c : MmaCtl) (w : Word) : Except Stop State :=
  let h := e.g.regs.getK x.b.val
  let o := e.g.regs.getK (x.b.val + 1)
  let z := e.g.regs.getK (x.b.val + 3)
  let tile := fld z.toNat 23 8
  match shapeOf e.x h with
  | none => trapWith 11 h.toNat 0
  | some sh0 => match getT e.t.resv (z.toNat % 16) with
    | none => trapWith 13 z.toNat 0
    | some l =>
      if l.tiles ≤ tile then trapWith 13 z.toNat 0
      else if colStride l.format % shapeE sh0 ≠ 0 then trapWith 13 h.toNat 0
      else do
        mmaFormats x c w l.format
        let sh := mmagShape sh0 l.format
        let (c0, c1) := mmagOrigin sh0 o
        if 2 ^ 57 ≤ shapeField sh 0 8 then trapWith 6 0 (shapeField sh 0 8) else .ok ()
        let base ← shapeBase s e sh (((boxBounds sh c0 c1 0 0).getD (0, 0)).2)
        let src : JobSrc := .box base sh c0 c1 0 0
        let rs := fetchRuns (lowLane e.c.mask) (src.runs 0 (tileBytes l.format))
        let at_ := l.base + tileBytes l.format * tile
        if shapeOob sh && rs.any (fun r => r.1.isNone) then trapWith 13 o.toNat 0
        else do
          match ← fetchBox s e x c src rs (some (z.toNat % 16)) ((at_, tileBytes l.format) :: tileRanges l tile) with
          | (s1, none) => .ok (multiplyNone s1 e)
          | (s1, some bs) =>
            let ob := fillB e.t.obuf at_ bs.length (fun i => bs.getD (i - at_) 0)
            .ok (multiply (s1.modTeam e.t.tid (fun t => { t with obuf := ob })) e x c
              ⟨⟨ob, l.base, l⟩, tile, some (z.toNat % 16), none⟩)

/-! ## The instructions (R225, R228) -/

/-- A multiply: step 1 of R231, then its source of B. [DEDUCED, log 85] -/
def State.mma (s : State) (q : Pred) (x : Mma) (f : Env → MmaCtl → Word → Except Stop State) : Out :=
  s.uniform q (fun e => do
    let w := e.g.regs.getK (x.b.val + 2)
    mmaStep1 e x (mmaCtl w) w
    f e (mmaCtl w) w)

/-- MMAB (R228). -/
def execMmab (g : Pred) (t : BitVec 4) (c r : Bool) (a : VReg) (b : KReg) (s : State) : Out :=
  s.mma g ⟨t.toNat, c, r, a, b, false⟩ (fun e k w => fromResid s e ⟨t.toNat, c, r, a, b, false⟩ k w)

/-- MMAO (R228). -/
def execMmao (g : Pred) (t : BitVec 4) (c r : Bool) (a : VReg) (b : KReg) (s : State) : Out :=
  s.mma g ⟨t.toNat, c, r, a, b, false⟩ (fun e k w => fromResv s e ⟨t.toNat, c, r, a, b, false⟩ k w)

/-- MMAG (R228). -/
def execMmag (g : Pred) (t : BitVec 4) (c r : Bool) (a : VReg) (b : KReg) (s : State) : Out :=
  s.mma g ⟨t.toNat, c, r, a, b, false⟩ (fun e k w => fromShape s e ⟨t.toNat, c, r, a, b, false⟩ k w)

/-- DMMA (R228); UNIT_ABSENT on a grade without the FP64 matrix path, before any other check (R5, R39). -/
def execDmma (g : Pred) (t : BitVec 4) (c r ob : Bool) (a : VReg) (b : KReg) (s : State) : Out :=
  if s.grade.hasFp64 then
    s.mma g ⟨t.toNat, c, r, a, b, true⟩ (fun e k w =>
      if ob then fromResv s e ⟨t.toNat, c, r, a, b, true⟩ k w else fromResid s e ⟨t.toNat, c, r, a, b, true⟩ k w)
  else s.run (fun _ => trapWith 2 0 0)

end Sys2Proof.Machine
end

