-- ==== Sys2Proof/Machine/Buffer.lean ====
section
/-! DEFINITION. Buffer instructions (R121 to R124). -/

namespace Sys2Proof.Machine

/-- A buffer instruction: APERTURE for a team without scratchpad, then its handle and entry (R121, R124). -/
def State.bufferOp (s : State) (q : Pred) (a : KReg) (f : Env → Nat → Nat → Except Stop State) : Out :=
  s.uniform q (fun e =>
    if s.scratchSize e.t = 0 then trapWith 6 0 0
    else
      let h := (e.g.regs.getK a.val).toNat % 64
      f e h (s.bufGet e.t h))

/-- BUFGET (R122, R124): a FULL handle goes to DRAINING; otherwise the group waits. -/
def execBufget (g : Pred) (d a : KReg) (s : State) : Out :=
  s.bufferOp g a (fun e h x =>
    if Buf.state x = 2 then
      .ok ((s.bufOp e.t h (Buf.withState x 3)).retire e
        (e.g.withRegs (e.g.regs.setK d.val (BitVec.ofNat 32 (Buf.withState x 3)))))
    else .error (.park s (.handle h (.get d.val))))

/-- BUFPUT (R122, R124). -/
def execBufput (g : Pred) (a : KReg) (s : State) : Out :=
  s.bufferOp g a (fun e h x =>
    if Buf.state x < 2 then trapWith 16 h 0
    else .ok ((s.bufOp e.t h (putFld (Buf.withState x 0) 2 2 0)).retire e e.g))

/-- The state code that BUFWAIT names (R123, R124). -/
def bufCode : BufState → Nat
  | .free => 0
  | .full => 2
  | .draining => 3

/-- BUFWAIT (R124). -/
def execBufwait (g : Pred) (a : KReg) (sc : BufState) (s : State) : Out :=
  s.bufferOp g a (fun e h x =>
    if Buf.state x = bufCode sc then .ok (s.retire e e.g) else .error (.park s (.handle h (.state (bufCode sc)))))

/-- BUFQ (R124, R353, R363). -/
def execBufq (g : Pred) (d a : KReg) (s : State) : Out :=
  s.bufferOp g a (fun e _ x => do
    detBan e
    let r ← sampleOpen s e
    let v := (r.map (·.1)).getD (x % 2 ^ 32)
    .ok ((s.sampleClose e v r).retire e (e.g.withRegs (e.g.regs.setK d.val (BitVec.ofNat 32 v)))))

end Sys2Proof.Machine
end

