-- ==== Sys2Proof/Machine/Control.lean ====
section
/-! DEFINITION. Control flow: branches, calls, EXIT, TRAP, uniform branches, YIELD and UNOP (R191 to R197, R332, R335). -/

namespace Sys2Proof.Machine

/-! ## Lane-set transfers (R192) -/

/-- The form of a transfer: targets from registers, the flags W and U, and the link pair of a call. -/
structure Transfer where
  regTarget : Bool
  w         : Bool
  u         : Bool
  link      : Option VReg
  deriving DecidableEq, Repr

/-- The lowest lane of a mask where a test holds. -/
def firstLane (m : Mask) (f : Nat → Bool) : Option Nat := (lanesOf m).find? f

/-- The traps of a transfer, in the order of R192. -/
def transferTrap (e : Env) (take : Mask) (x : Transfer) (target : Nat → DWord) : Option Stop :=
  let first := target (lowLane take)
  if x.u ∧ take ≠ 0 ∧ take ≠ e.c.mask then some (.trap 18 0 0 (some take) 0)
  else if x.u ∧ x.regTarget ∧ (lanesOf take).any (fun l => target l != first) then some (.trap 18 0 0 (some take) 0)
  else match if x.regTarget then firstLane take (fun l => (target l).toNat % 4 != 0) else none with
    | some l => some (.trap 7 0 (target l).toNat none 0)
    | none => match firstLane take (fun l => decide (2 ^ 57 ≤ (target l).toNat)) with
      | some l => some (.trap 6 0 (target l).toNat none 0)
      | none => none

/-- The group after a transfer: the lanes that take it write their link, move and, with W, wait; the others advance. -/
def Group.transfer (g : Group) (e : Env) (take : Mask) (x : Transfer) (target : Nat → DWord) : Group :=
  let linked := match x.link with
    | none => g
    | some d => g.putLanes2 take d.val (fun _ => e.c.pc.setWidth 64 + 4)
  let h := linked.complete (e.c.mask &&& ~~~take) e.c.size
  let r := { h.regs with pc := (lanesOf take).foldl (fun p l => putB p l ((target l).setWidth 57)) h.regs.pc }
  h.withRegs (if x.w then { r with wait := r.wait ||| take } else r)

/-- A lane-set transfer (R192). The target of a lane is read from the registers before a link is written. A backward branch
loads loop buffers (R188). -/
def State.transfer (s : State) (p : Pred) (x : Transfer) (target : Regs → Issue → Nat → DWord) : Out :=
  s.run (fun e =>
    let take := e.taking p
    let goal := target e.g.regs e.c
    match transferTrap e take x goal with
    | some z => .error z
    | none =>
      let g := e.g.transfer e take x goal
      .ok (s.retireAt e (if x.link.isNone then g.loadLoops s e take (fun l => (goal l).toNat) else g)))

/-- A PC-relative target (R191). -/
def relTarget (off : DWord) (c : Issue) : DWord := c.pc.setWidth 64 + off

/-- BRA (R191, R192). -/
def execBra (g : Pred) (o : BitVec 19) (w u : Bool) (s : State) : Out :=
  s.transfer g ⟨false, w, u, none⟩ (fun _ c _ => relTarget (4 * o.signExtend 64) c)

/-- BRAL (R191, R192). -/
def execBral (g : Pred) (w u : Bool) (lit : Word) (s : State) : Out :=
  s.transfer g ⟨false, w, u, none⟩ (fun _ c _ => relTarget (lit.signExtend 64) c)

/-- BRX (R191, R192). -/
def execBrx (g : Pred) (a : Src) (w u : Bool) (s : State) : Out := s.transfer g ⟨true, w, u, none⟩ (fun r _ l => r.src2 a l)

/-- CALL (R191, R192). -/
def execCall (g : Pred) (d : VReg) (o : BitVec 13) (u : Bool) (s : State) : Out :=
  s.transfer g ⟨false, false, u, some d⟩ (fun _ c _ => relTarget (4 * o.signExtend 64) c)

/-- CALLX (R191, R192). -/
def execCallx (g : Pred) (d : VReg) (a : Src) (u : Bool) (s : State) : Out :=
  s.transfer g ⟨true, false, u, some d⟩ (fun r _ l => r.src2 a l)

/-- RET (R191, R192). -/
def execRet (g : Pred) (a : Src) (u : Bool) (s : State) : Out := s.transfer g ⟨true, false, u, none⟩ (fun r _ l => r.src2 a l)

/-! ## EXIT and TRAP -/

/-- Clear bit 63 of the divergence words of the lanes of a mask: LIVE in a shadow (R335). -/
def shadowExit (d : BMap 64) (m : Mask) : BMap 64 :=
  (lanesOf m).foldl (fun q l => putB q l (getB d l &&& ~~~(BitVec.ofNat 64 (2 ^ 63)))) d

/-- A group whose last live lane is gone ends; its team may end or, in a save or restore, be complete (R193, R335). -/
def State.endGroup (s : State) (e : Env) (g : Group) : State :=
  ((s.retireAt e g).groupEnd g).groupGone e.t.tid

/-- The trap registers of a group some of whose lanes exit: in the handler the shadow loses them too (R335). -/
def TrapRegs.exited (r : TrapRegs) (m : Mask) : TrapRegs :=
  match r.masked with
  | true => { r with div := shadowExit r.div m }
  | false => r

/-- The group after EXIT: the lanes of m are no longer live, the other executing lanes advance (R193). -/
def Group.exited (g : Group) (e : Env) (m : Mask) : Group :=
  let h := g.complete (e.c.mask &&& ~~~m) e.c.size
  { h with regs := { h.regs with live := h.regs.live &&& ~~~m }, trap := h.trap.exited m }

/-- EXIT (R193, R335). -/
def execExit (g : Pred) (s : State) : Out :=
  s.run (fun e =>
    let h := e.g.exited e (e.taking g)
    if h.regs.live = 0 then .ok (s.endGroup e h) else .ok (s.retireAt e h))

/-- TRAP (R332): SOFTWARE when some executing lane's guard is true, naming those lanes. -/
def execTrap (g : Pred) (c : BitVec 14) (s : State) : Out :=
  s.run (fun e =>
    let m := e.taking g
    if m = 0 then .ok (s.retire e e.g) else .error (.trap 21 c.toNat 0 (some m) 0))

/-! ## Uniform control (R195, R196) -/

/-- A uniform branch (R195); a backward one loads loop buffers (R188). -/
def State.ubranch (s : State) (q : Pred) (off : DWord) : Out :=
  s.uniform q (fun e =>
    let goal := relTarget off e.c
    if 2 ^ 57 ≤ goal.toNat then trapWith 6 0 goal.toNat
    else
      let h := e.g.complete 0 0
      let g := h.withRegs (h.regs.jump e.c.mask (goal.setWidth 57))
      .ok (s.retireAt e (g.loadLoops s e e.c.mask (fun _ => goal.toNat))))

/-- UBRA (R195). -/
def execUbra (g : Pred) (o : BitVec 19) (_u : Bool) (s : State) : Out := s.ubranch g (4 * o.signExtend 64)

/-- UBRAL (R195). -/
def execUbral (g : Pred) (_u : Bool) (lit : Word) (s : State) : Out := s.ubranch g (lit.signExtend 64)

/-- UNOP (R195). -/
def execUnop (g : Pred) (s : State) : Out := s.uniform g (fun e => .ok (s.retire e e.g))

/-- YIELD (R196): with a request raised and traps not masked the group stops past it. -/
def execYield (g : Pred) (s : State) : Out :=
  s.uniform g (fun e =>
    if e.isRequested && !e.g.trap.masked then .ok ((s.retire e e.g).stopAt e 0)
    else .ok (s.retire e e.g))

/-- UTRAP (R332). -/
def execUtrap (g : Pred) (c : BitVec 14) (s : State) : Out := s.uniform g (fun _ => trapWith 21 c.toNat 0)

end Sys2Proof.Machine
end

