-- ==== Sys2Proof/Machine/Convert.lean ====
section
/-! DEFINITION. Conversions between scalar formats and within packed registers, rounding to integral values and scaling
(R210 to R213). -/

namespace Sys2Proof.Machine

/-- The bits of a conversion's source in a lane: a pair, a word, or its low half (R210). -/
def Regs.srcBits (r : Regs) (is64 is16 : Bool) (a : Src) (l : Nat) : Nat :=
  if is64 then (r.src2 a l).toNat else if is16 then (r.src a l).toNat % 65536 else (r.src a l).toNat

/-- A conversion whose result is a pair or a word, the upper half of a 16-bit result 0 (R210). -/
def State.convert (s : State) (g : Pred) (d : VReg) (wide : Bool) (f : Regs → Nat → Nat) : Out :=
  if wide then s.laneOp2 g d (fun r l => BitVec.ofNat 64 (f r l)) else s.laneOp g d (fun r l => BitVec.ofNat 32 (f r l))

/-- The bits of a floating-point source. -/
def Regs.fltBits (r : Regs) (t : FltTy) (a : Src) (l : Nat) : Nat :=
  r.srcBits t.is64 (t == .f16 || t == .bf16) a l

/-- CVT.FI (R169, R210). -/
def execCvtFi (g : Pred) (d : VReg) (a : Src) (rm : RMode) (i : FltTy) (o : IntTy) (s : State) : Out :=
  s.convert g d o.is64 (fun r l => (intFmt o).encode rm ((fltFmt i).value (r.fltBits i a l)))

/-- CVT.IF (R168, R210). -/
def execCvtIf (g : Pred) (d : VReg) (a : Src) (rm : RMode) (sat : Bool) (i : IntTy) (o : FltTy) (s : State) : Out :=
  s.convert g d o.is64 (fun r l => (fltFmt o).encode rm sat (.ofInt ((intFmt i).value (r.srcBits i.is64 false a l))))

/-- A conversion between floating-point types; within one type a NaN and a BF16 subnormal change (R210), and an infinity under SAT, by
the table that holds for every pair of formats (R168). [DEDUCED, log 21] -/
def cvtFlt (rm : RMode) (sat : Bool) (i o : FltTy) (x : Nat) : Nat := (fltFmt o).encode rm sat ((fltFmt i).value x)

/-- CVT.FF (R168, R210). -/
def execCvtFf (g : Pred) (d : VReg) (a : Src) (rm : RMode) (sat : Bool) (i o : FltTy) (s : State) : Out :=
  s.convert g d o.is64 (fun r l => cvtFlt rm sat i o (r.fltBits i a l))

/-- A control word of CVT.NR or CVT.WD: element format, slot, rounding and saturation; none where R213 refuses it. -/
def cvtControl (c : Word) (widen : Bool) : Option (Elem × Nat × RMode × Bool) :=
  let x := c.toNat
  match elemOf (bits x 11 5) with
  | none => none
  | some el =>
    let pos := bits x 4 4
    if bits x 16 16 ≠ 0 ∨ bits x 8 3 ≠ 0 ∨ bits x 0 1 ≠ 0 ∨ 32 / el.width ≤ pos ∨ (widen ∧ bits x 1 3 ≠ 0) then none
    else some (el, pos, rmode (bits x 2 2), bits x 1 1 == 1)

/-- CVT.NR's result: the element converted into its slot of the old destination (R211). -/
def narrowInto (el : Elem) (pos : Nat) (rm : RMode) (sat : Bool) (a d : Word) : Word :=
  let m : Word := BitVec.ofNat 32 ((2 ^ el.width - 1) * 2 ^ (el.width * pos))
  (d &&& ~~~m) ||| BitVec.ofNat 32 (el.encode rm sat (numF32 a) * 2 ^ (el.width * pos))

/-- CVT.WD's result: the exact FP32 value of the element in a slot (R211). -/
def widenFrom (el : Elem) (pos : Nat) (a : Word) : Word :=
  BitVec.ofNat 32 (Fmt.f32.rne (el.value (a.toNat / 2 ^ (el.width * pos) % 2 ^ el.width)))

/-- A conversion under a control word, checked when some lane takes part (R213). -/
def State.controlled (s : State) (g : Pred) (d : VReg) (b : KReg) (widen : Bool)
    (f : Elem → Nat → RMode → Bool → Regs → Nat → Word) : Out :=
  s.run (fun e =>
    if e.taking g = 0 then .ok (s.retire e e.g)
    else match cvtControl (e.g.regs.getK b.val) widen with
      | none => trapWith 4 (e.g.regs.getK b.val).toNat 0
      | some (el, pos, rm, sat) => .ok (s.retire e (e.g.putLanes (e.taking g) d.val (f el pos rm sat e.g.regs))))

/-- CVT.NR (R211, R213). -/
def execCvtNr (g : Pred) (d : VReg) (a : Src) (b : KReg) (s : State) : Out :=
  s.controlled g d b false (fun el pos rm sat r l => narrowInto el pos rm sat (r.src a l) (r.getV d.val l))

/-- CVT.WD (R211, R213). -/
def execCvtWd (g : Pred) (d : VReg) (a : Src) (b : KReg) (s : State) : Out :=
  s.controlled g d b true (fun el pos _ _ r l => widenFrom el pos (r.src a l))

/-- A value rounded to integral in its own format (R212). -/
def frnd (f : Fmt) (rm : RMode) (x : Nat) : Nat := f.rne ((f.value x).integral rm)

/-- FRND (R212). -/
def execFrnd (g : Pred) (d : VReg) (a : Src) (rm : RMode) (f64 : Bool) (s : State) : Out :=
  s.convert g d f64 (fun r l => if f64 then frnd .f64 rm (r.src2 a l).toNat else frnd .f32 rm (r.src a l).toNat)

/-- a × 2^n rounded once; beyond 2^±600 the result no longer depends on n (R212). -/
def ldexp (a : Word) (n : Int) : Word :=
  let k := if n < -600 then -600 else if 600 < n then 600 else n
  BitVec.ofNat 32 (match numF32 a with
    | .fin s m e => Fmt.f32.rne (.fin s m (e + k))
    | x => Fmt.f32.rne x)

/-- FLDEXP (R212). -/
def execFldexp (g : Pred) (d : VReg) (a b : Src) (s : State) : Out :=
  s.laneOp g d (fun r l => ldexp (r.src a l) (r.src b l).toInt)

end Sys2Proof.Machine
end

