-- ==== Sys2Proof/Machine/Int.lean ====
section
/-! DEFINITION. Integer, address, logic, shift, bit-field and move instructions of the lane set (R202 to R205). -/

namespace Sys2Proof.Machine

/-- A left shift by a whole 32-bit amount (R203). -/
def shlW (a b : Word) : Word := a <<< min b.toNat 32

/-- A logical right shift by a whole 32-bit amount (R203). -/
def shrN (a b : Word) : Word := a >>> b.toNat

/-- An arithmetic right shift by a whole 32-bit amount (R203). -/
def shrS (a b : Word) : Word := a.sshiftRight b.toNat

/-- The position of a bit-field control word, limited to 32 (R204). -/
def bfPos (c : Word) : Nat := min (c.toNat % 256) 32

/-- The width of a bit-field control word, limited to the bits above the position (R204). -/
def bfWidth (c : Word) : Nat := min (c.toNat / 256 % 256) (32 - bfPos c)

/-- The unsigned field extract (R204). -/
def bfxN (a c : Word) : Word := BitVec.ofNat 32 (a.toNat / 2 ^ bfPos c % 2 ^ bfWidth c)

/-- The signed field extract (R204). -/
def bfxS (a c : Word) : Word :=
  if bfWidth c = 0 then 0 else BitVec.ofInt 32 (sx (bfWidth c) (a.toNat / 2 ^ bfPos c))

/-- The mask of a field (R204). -/
def bfMask (c : Word) : Word := BitVec.ofNat 32 ((2 ^ bfWidth c - 1) * 2 ^ bfPos c)

/-- The field insert (R204). -/
def bfi (d a c : Word) : Word := (d &&& ~~~(bfMask c)) ||| ((a <<< bfPos c) &&& bfMask c)

/-- The number of leading zero bits of a word. -/
def clzW (a : Word) : Nat := if a = 0 then 32 else 31 - Nat.log2 a.toNat

/-- Signed multiply, upper half (R202). -/
def mulhS (a b : Word) : Word := BitVec.ofInt 32 (a.toInt * b.toInt / 4294967296)

/-- Unsigned multiply, upper half (R202). -/
def mulhN (a b : Word) : Word := BitVec.ofNat 32 (a.toNat * b.toNat / 4294967296)

/-- Absolute value that saturates (R202). -/
def absSat (a : Word) : Word := if a = 0x80000000 then 0x7FFFFFFF else if a.msb then -a else a

/-- The smaller of two signed words. -/
def minSW (a b : Word) : Word := if a.toInt ≤ b.toInt then a else b

/-- The larger of two signed words. -/
def maxSW (a b : Word) : Word := if a.toInt ≤ b.toInt then b else a

/-- The smaller of two unsigned words. -/
def minNW (a b : Word) : Word := if a.toNat ≤ b.toNat then a else b

/-- The larger of two unsigned words. -/
def maxNW (a b : Word) : Word := if a.toNat ≤ b.toNat then b else a

/-- IADD (R202). -/
def execIadd (g : Pred) (d : VReg) (a b : Src) (s : State) : Out := s.laneOp g d (fun r l => r.src a l + r.src b l)

/-- ISUB (R202). -/
def execIsub (g : Pred) (d : VReg) (a b : Src) (s : State) : Out := s.laneOp g d (fun r l => r.src a l - r.src b l)

/-- IMUL (R202). -/
def execImul (g : Pred) (d : VReg) (a b : Src) (s : State) : Out := s.laneOp g d (fun r l => r.src a l * r.src b l)

/-- IMULH.S (R202). -/
def execImulhS (g : Pred) (d : VReg) (a b : Src) (s : State) : Out :=
  s.laneOp g d (fun r l => mulhS (r.src a l) (r.src b l))

/-- IMULH.N (R202). -/
def execImulhN (g : Pred) (d : VReg) (a b : Src) (s : State) : Out :=
  s.laneOp g d (fun r l => mulhN (r.src a l) (r.src b l))

/-- IMAD (R199, R202). -/
def execImad (g : Pred) (d : VReg) (a b : Src) (s : State) : Out :=
  s.laneOp g d (fun r l => r.src a l * r.src b l + r.getV d.val l)

/-- IADDI (R202). -/
def execIaddi (g : Pred) (d : VReg) (a : Src) (lit : Word) (s : State) : Out := s.laneOp g d (fun r l => r.src a l + lit)

/-- IMIN.S (R202). -/
def execIminS (g : Pred) (d : VReg) (a b : Src) (s : State) : Out :=
  s.laneOp g d (fun r l => minSW (r.src a l) (r.src b l))

/-- IMIN.N (R202). -/
def execIminN (g : Pred) (d : VReg) (a b : Src) (s : State) : Out :=
  s.laneOp g d (fun r l => minNW (r.src a l) (r.src b l))

/-- IMAX.S (R202). -/
def execImaxS (g : Pred) (d : VReg) (a b : Src) (s : State) : Out :=
  s.laneOp g d (fun r l => maxSW (r.src a l) (r.src b l))

/-- IMAX.N (R202). -/
def execImaxN (g : Pred) (d : VReg) (a b : Src) (s : State) : Out :=
  s.laneOp g d (fun r l => maxNW (r.src a l) (r.src b l))

/-- IADD64 (R202). -/
def execIadd64 (g : Pred) (d : VReg) (a b : Src) (s : State) : Out := s.laneOp2 g d (fun r l => r.src2 a l + r.src2 b l)

/-- ISUB64 (R202). -/
def execIsub64 (g : Pred) (d : VReg) (a b : Src) (s : State) : Out := s.laneOp2 g d (fun r l => r.src2 a l - r.src2 b l)

/-- IMADW (R199, R202). -/
def execImadw (g : Pred) (d : VReg) (a b : Src) (s : State) : Out :=
  s.laneOp2 g d (fun r l => (r.src a l).signExtend 64 * (r.src b l).signExtend 64 + r.getV2 d.val l)

/-- LEAI (R205). -/
def execLeai (g : Pred) (d : VReg) (m : LaneMem) (x : BitVec 3) (s : State) : Out :=
  s.laneOp2 g d (fun r l =>
    r.src2 m.base l + ((r.src m.index l).signExtend 64 <<< x.toNat) + m.off.signExtend 64)

/-- AND (R202). -/
def execAnd (g : Pred) (d : VReg) (a b : Src) (s : State) : Out := s.laneOp g d (fun r l => r.src a l &&& r.src b l)

/-- OR (R202). -/
def execOr (g : Pred) (d : VReg) (a b : Src) (s : State) : Out := s.laneOp g d (fun r l => r.src a l ||| r.src b l)

/-- XOR (R202). -/
def execXor (g : Pred) (d : VReg) (a b : Src) (s : State) : Out := s.laneOp g d (fun r l => r.src a l ^^^ r.src b l)

/-- NOT (R202). -/
def execNot (g : Pred) (d : VReg) (a : Src) (s : State) : Out := s.laneOp g d (fun r l => ~~~(r.src a l))

/-- SHL (R203). -/
def execShl (g : Pred) (d : VReg) (a b : Src) (s : State) : Out := s.laneOp g d (fun r l => shlW (r.src a l) (r.src b l))

/-- SHR.N (R203). -/
def execShrN (g : Pred) (d : VReg) (a b : Src) (s : State) : Out := s.laneOp g d (fun r l => shrN (r.src a l) (r.src b l))

/-- SHR.S (R203). -/
def execShrS (g : Pred) (d : VReg) (a b : Src) (s : State) : Out := s.laneOp g d (fun r l => shrS (r.src a l) (r.src b l))

/-- ROTL (R203). -/
def execRotl (g : Pred) (d : VReg) (a b : Src) (s : State) : Out :=
  s.laneOp g d (fun r l => (r.src a l).rotateLeft ((r.src b l).toNat % 32))

/-- BFX.S (R204). -/
def execBfxS (g : Pred) (d : VReg) (a b : Src) (s : State) : Out := s.laneOp g d (fun r l => bfxS (r.src a l) (r.src b l))

/-- BFX.N (R204). -/
def execBfxN (g : Pred) (d : VReg) (a b : Src) (s : State) : Out := s.laneOp g d (fun r l => bfxN (r.src a l) (r.src b l))

/-- BFI (R199, R204). -/
def execBfi (g : Pred) (d : VReg) (a b : Src) (s : State) : Out :=
  s.laneOp g d (fun r l => bfi (r.getV d.val l) (r.src a l) (r.src b l))

/-- POPC (R202). -/
def execPopc (g : Pred) (d : VReg) (a : Src) (s : State) : Out :=
  s.laneOp g d (fun r l => BitVec.ofNat 32 (popCount (r.src a l)))

/-- CLZ (R202). -/
def execClz (g : Pred) (d : VReg) (a : Src) (s : State) : Out :=
  s.laneOp g d (fun r l => BitVec.ofNat 32 (clzW (r.src a l)))

/-- BREV (R202). -/
def execBrev (g : Pred) (d : VReg) (a : Src) (s : State) : Out := s.laneOp g d (fun r l => (r.src a l).reverse)

/-- MOV (R202). -/
def execMov (g : Pred) (d : VReg) (a : Src) (s : State) : Out := s.laneOp g d (fun r l => r.src a l)

/-- MOVI (R202). -/
def execMovi (g : Pred) (d : VReg) (lit : Word) (s : State) : Out := s.laneOp g d (fun _ _ => lit)

/-- IABS (R202). -/
def execIabs (g : Pred) (d : VReg) (a : Src) (s : State) : Out := s.laneOp g d (fun r l => absSat (r.src a l))

end Sys2Proof.Machine
end

