-- ==== Sys2Proof/Machine/CrossLane.lean ====
section
/-! DEFINITION. Cross-lane instructions (R214 to R217). T is the set of lanes that take part and E the executing lanes. -/

namespace Sys2Proof.Machine

/-- The value a shuffle gives lane l from source lane j: its own where j is none or does not execute (R215). -/
def Env.pick (e : Env) (a : Src) (l : Nat) (j : Option Nat) : Word :=
  match j with
  | some k => if k < 32 ∧ laneBit e.c.mask k then e.g.regs.src a k else e.g.regs.src a l
  | none => e.g.regs.src a l

/-- A shuffle by a choice of source lane from the lane number and the amount (R215). -/
def State.shuffle (s : State) (g : Pred) (d : VReg) (a b : Src) (f : Nat → Nat → Option Nat) : Out :=
  s.run (fun e => .ok (s.retire e (e.g.putLanes (e.taking g) d.val
    (fun l => e.pick a l (f l (e.g.regs.src b l).toNat)))))

/-- SHFL (R215). -/
def execShfl (g : Pred) (d : VReg) (a b : Src) (s : State) : Out := s.shuffle g d a b (fun _ n => some (n % 32))

/-- SHFLX (R215). -/
def execShflx (g : Pred) (d : VReg) (a b : Src) (s : State) : Out := s.shuffle g d a b (fun l n => some (l ^^^ n % 32))

/-- SHFLUP (R215). -/
def execShflup (g : Pred) (d : VReg) (a b : Src) (s : State) : Out :=
  s.shuffle g d a b (fun l n => if n ≤ l then some (l - n) else none)

/-- SHFLDN (R215). -/
def execShfldn (g : Pred) (d : VReg) (a b : Src) (s : State) : Out := s.shuffle g d a b (fun l n => some (l + n))

/-- The outcome of a vote over T (R216). -/
def voteOf (m : VoteMode) (t p : Mask) : Bool :=
  match m with
  | .all => p == t
  | .any => p != 0
  | .uni => p == t || p == 0

/-- VOTE (R216). -/
def execVote (g d a : Pred) (m : VoteMode) (s : State) : Out :=
  s.run (fun e =>
    let t := e.taking g
    let r := voteOf m t (t &&& e.g.regs.getP a.val)
    .ok (s.retire e (e.g.withRegs (e.g.regs.setP d.val t (if r then allLanes else 0)))))

/-- BALLOT (R216). -/
def execBallot (g : Pred) (d : KReg) (a : Pred) (s : State) : Out :=
  s.run (fun e =>
    let t := e.taking g
    .ok (s.retire e (if t = 0 then e.g else e.g.withRegs (e.g.regs.setK d.val (t &&& e.g.regs.getP a.val)))))

/-- MATCH (R216). -/
def execMatchLanes (g : Pred) (d : VReg) (a : Src) (s : State) : Out :=
  s.run (fun e =>
    let t := e.taking g
    .ok (s.retire e (e.g.putLanes t d.val
      (fun l => t &&& maskWhere (fun j => e.g.regs.src a j == e.g.regs.src a l)))))

/-- One step of a scan or reduction (R217). -/
def scanStep (o : ScanOp) (acc x : Word) : Word :=
  match o with
  | .iadd => acc + x
  | .fadd => f32op Num.add acc x
  | .iminS => minSW acc x
  | .imaxS => maxSW acc x
  | .iminN => minNW acc x
  | .imaxN => maxNW acc x
  | .and => acc &&& x
  | .or => acc ||| x

/-- The identity of an operation (R217). -/
def scanId (o : ScanOp) : Word :=
  match o with
  | .iadd | .fadd | .imaxN | .or => 0
  | .iminS => 0x7FFFFFFF
  | .imaxS => 0x80000000
  | .iminN | .and => 0xFFFFFFFF

/-- The first value as it enters: a NaN becomes canonical in a floating sum (R177, R217). -/
def scanFirst (o : ScanOp) (x : Word) : Word :=
  if o = .fadd ∧ (numF32 x).isNan then BitVec.ofNat 32 nan32 else x

/-- The running values of a scan over values in lane order, from the value so far (R217). -/
def scanFrom (o : ScanOp) (excl : Bool) : Option Word → List Word → List Word
  | _, [] => []
  | none, x :: t =>
    let y := scanFirst o x
    (if excl then scanId o else y) :: scanFrom o excl (some y) t
  | some acc, x :: t =>
    let y := scanStep o acc x
    (if excl then acc else y) :: scanFrom o excl (some y) t

/-- The value of lane l in a list of values of the lanes of a mask, ascending. -/
def laneValue (t : Mask) (xs : List Word) (l : Nat) : Word :=
  (((lanesOf t).zip xs).find? (fun p => p.1 == l)).elim 0 (fun p => p.2)

/-- LSCAN (R217). -/
def execLscan (g : Pred) (d : VReg) (a : Src) (o : ScanOp) (excl : Bool) (s : State) : Out :=
  s.run (fun e =>
    let t := e.taking g
    let out := scanFrom o excl none ((lanesOf t).map (fun l => e.g.regs.src a l))
    .ok (s.retire e (e.g.putLanes t d.val (laneValue t out))))

/-- LRED (R217). -/
def execLred (g : Pred) (d : KReg) (a : Src) (o : ScanOp) (s : State) : Out :=
  s.run (fun e =>
    let t := e.taking g
    match (scanFrom o false none ((lanesOf t).map (fun l => e.g.regs.src a l))).getLast? with
    | none => .ok (s.retire e e.g)
    | some x => .ok (s.retire e (e.g.withRegs (e.g.regs.setK d.val x))))

end Sys2Proof.Machine
end

