-- ==== Sys2Proof/Machine/Special.lean ====
section
/-! DEFINITION. Special registers (R181 to R183, R363). -/

namespace Sys2Proof.Machine

/-- The value of a special register in a lane (R181). [DEDUCED, log 48] -/
def sregValue (s : State) (e : Env) (l : Nat) : SReg → Nat
  | .laneid => l
  | .groupid => e.g.gid % 32
  | .ltmask => 2 ^ l - 1
  | .activemask => e.c.mask.toNat
  | .livemask => e.g.regs.live.toNat
  | .teamid => e.t.idx
  | .teamx => e.t.idx % Rec.gx e.gr.bytes
  | .teamy => e.t.idx / Rec.gx e.gr.bytes % Rec.gy e.gr.bytes
  | .teamz => e.t.idx / Rec.gx e.gr.bytes / Rec.gy e.gr.bytes
  | .gridx => Rec.gx e.gr.bytes
  | .gridy => Rec.gy e.gr.bytes
  | .gridz => Rec.gz e.gr.bytes
  | .ngroups => Rec.groups e.gr.bytes
  | .clrank => e.t.idx % Rec.clsize e.gr.bytes
  | .clshape => Rec.clw e.gr.bytes + 16 * Rec.clh e.gr.bytes
  | .column => e.t.column
  | .params => Rec.params e.gr.bytes
  | .spur => (Rec.spur e.gr.bytes).toNat
  | .priority => Rec.prio e.gr.bytes
  | .mode => Rec.mode e.gr.bytes
  | .preempt => e.x.isRequested.toNat
  | .clock => if e.isDet then e.g.retired.toNat else s.clk
  | .retired => e.g.retired.toNat
  | .ctxid => e.t.ctx
  | .capunits => s.grade.capUnits.toNat
  | .capsizes => s.grade.capSizes.toNat
  | .qmask => e.g.regs.qmask.toNat
  | .trapcause => e.g.trap.cause.toNat
  | .trapinfo => e.g.trap.info.toNat
  | .trappc => e.g.trap.pc.toNat
  | .trapaddr => e.g.trap.addr.toNat
  | .trapword => e.g.trap.word.toNat
  | .trapmask => e.g.trap.mask.toNat

/-- The special registers that only a handler reads (R183). -/
def handlerOnly : SReg → Bool
  | .trapcause | .trapinfo | .trappc | .trapaddr | .trapword | .trapmask => true
  | _ => false

/-- The special registers whose value Cairn records (R363). -/
def sampledReg : SReg → Bool
  | .clock | .preempt | .column => true
  | _ => false

/-- An SREAD: PRIVILEGED outside the handler whatever the guard; a sampled register is recorded, or takes its recorded value
(R183, R363). `put` writes the value of each lane. -/
def State.sread (s : State) (a : SReg) (takes : Env → Bool) (put : Env → (Nat → Nat) → Group) : Out :=
  s.run (fun e =>
    if handlerOnly a && !e.g.trap.masked then trapWith 5 0 0
    else if !takes e then .ok (s.retire e e.g)
    else if sampledReg a then do
      let r ← sampleOpen s e
      let v := (r.map (·.1)).getD (sregValue s e 0 a % 2 ^ 64)
      .ok ((s.sampleClose e v r).retire e (put e (fun _ => v)))
    else .ok (s.retire e (put e (fun l => sregValue s e l a))))

/-- SREAD into a vector register (R183). -/
def execSreadV (g : Pred) (d : VReg) (a : SReg) (s : State) : Out :=
  s.sread a (fun e => e.taking g != 0) (fun e f =>
    if a.is64 then e.g.putLanes2 (e.taking g) d.val (fun l => BitVec.ofNat 64 (f l))
    else e.g.putLanes (e.taking g) d.val (fun l => BitVec.ofNat 32 (f l)))

/-- SREAD into a uniform register (R183). -/
def execSreadK (g : Pred) (d : KReg) (a : SReg) (s : State) : Out :=
  s.sread a (fun e => e.g.regs.getQ g.val) (fun e f =>
    e.g.withRegs (if a.is64 then e.g.regs.setK2 d.val (BitVec.ofNat 64 (f 0)) else e.g.regs.setK d.val (BitVec.ofNat 32 (f 0))))

end Sys2Proof.Machine
end

