-- ==== Sys2Proof/Machine/Uniform.lean ====
section
/-! DEFINITION. Uniform arithmetic (R218). -/

namespace Sys2Proof.Machine

/-- UIADD (R218). -/
def execUiadd (g : Pred) (d a b : KReg) (s : State) : Out := s.uniOp g d (fun r => r.getK a.val + r.getK b.val)

/-- UISUB (R218). -/
def execUisub (g : Pred) (d a b : KReg) (s : State) : Out := s.uniOp g d (fun r => r.getK a.val - r.getK b.val)

/-- UIMUL (R218). -/
def execUimul (g : Pred) (d a b : KReg) (s : State) : Out := s.uniOp g d (fun r => r.getK a.val * r.getK b.val)

/-- UIMAD (R199, R218). -/
def execUimad (g : Pred) (d a b : KReg) (s : State) : Out :=
  s.uniOp g d (fun r => r.getK a.val * r.getK b.val + r.getK d.val)

/-- UIADDI (R218). -/
def execUiaddi (g : Pred) (d a : KReg) (lit : Word) (s : State) : Out := s.uniOp g d (fun r => r.getK a.val + lit)

/-- UIADD64 (R218). -/
def execUiadd64 (g : Pred) (d a b : KReg) (s : State) : Out := s.uniOp2 g d (fun r => r.getK2 a.val + r.getK2 b.val)

/-- UMOV (R218). -/
def execUmov (g : Pred) (d a : KReg) (s : State) : Out := s.uniOp g d (fun r => r.getK a.val)

/-- UMOVI (R218). -/
def execUmovi (g : Pred) (d : KReg) (lit : Word) (s : State) : Out := s.uniOp g d (fun _ => lit)

/-- UAND (R218). -/
def execUand (g : Pred) (d a b : KReg) (s : State) : Out := s.uniOp g d (fun r => r.getK a.val &&& r.getK b.val)

/-- UOR (R218). -/
def execUor (g : Pred) (d a b : KReg) (s : State) : Out := s.uniOp g d (fun r => r.getK a.val ||| r.getK b.val)

/-- UXOR (R218). -/
def execUxor (g : Pred) (d a b : KReg) (s : State) : Out := s.uniOp g d (fun r => r.getK a.val ^^^ r.getK b.val)

/-- USHL (R203, R218). -/
def execUshl (g : Pred) (d a b : KReg) (s : State) : Out := s.uniOp g d (fun r => shlW (r.getK a.val) (r.getK b.val))

/-- USHR.N (R203, R218). -/
def execUshrN (g : Pred) (d a b : KReg) (s : State) : Out := s.uniOp g d (fun r => shrN (r.getK a.val) (r.getK b.val))

/-- USHR.S (R203, R218). -/
def execUshrS (g : Pred) (d a b : KReg) (s : State) : Out := s.uniOp g d (fun r => shrS (r.getK a.val) (r.getK b.val))

/-- UFADD (R176, R218). -/
def execUfadd (g : Pred) (d a b : KReg) (s : State) : Out :=
  s.uniOp g d (fun r => f32op Num.add (r.getK a.val) (r.getK b.val))

/-- UFMUL (R176, R218). -/
def execUfmul (g : Pred) (d a b : KReg) (s : State) : Out :=
  s.uniOp g d (fun r => f32op Num.mul (r.getK a.val) (r.getK b.val))

/-- UFFMA (R199, R218). -/
def execUffma (g : Pred) (d a b : KReg) (s : State) : Out :=
  s.uniOp g d (fun r => f32fma (r.getK a.val) (r.getK b.val) (r.getK d.val))

/-- UBFX (R204, R218). -/
def execUbfx (g : Pred) (d a b : KReg) (s : State) : Out := s.uniOp g d (fun r => bfxN (r.getK a.val) (r.getK b.val))

end Sys2Proof.Machine
end

