-- ==== Sys2Proof/Machine/RunAhead.lean ====
section
/-! DEFINITION. Run-ahead after a page fault: which registers are unknown, how each instruction takes part, the end codes, the
batch and its record, and the events that begin run-ahead and post the batch (R90 to R96). -/

namespace Sys2Proof.Machine

/-! ## Unknown registers (R91) -/

/-- A register operand: v or k registers from a number on, a lane predicate, a uniform predicate. -/
inductive Opnd where
  | v (n cnt : Nat)
  | k (n cnt : Nat)
  | p (j : Nat)
  | q (j : Nat)
  deriving DecidableEq, Repr

/-- A source operand as an operand of that many registers. -/
def srcOpnd (x : Src) (cnt : Nat) : Opnd :=
  match x with
  | .v r => .v r.val cnt
  | .k r => .k r.val cnt

/-- The unknown registers: lanes of v n at n, k registers, lanes of p j at j, q predicates. -/
structure Unk where
  v : BMap 32
  k : BitVec 32
  p : BMap 32
  q : BitVec 8
  deriving DecidableEq, Repr

/-- Every lane or none. -/
def lanesIf (b : Bool) : Mask := if b then allLanes else 0

/-- The lanes in which an operand is unknown. The pair k0, p0 and q0 are always known. -/
def Unk.of (u : Unk) : Opnd → Mask
  | .v n c => (List.range c).foldl (fun m i => m ||| getB u.v (n + i)) 0
  | .k n c => lanesIf (n != 0 && (List.range c).any (fun i => u.k.getLsbD (n + i)))
  | .p j => if j = 0 then 0 else getB u.p j
  | .q j => lanesIf (j != 0 && u.q.getLsbD j)

/-- The lanes in which some of several operands are unknown. -/
def Unk.any (u : Unk) (os : List Opnd) : Mask := os.foldl (fun m o => m ||| u.of o) 0

/-- An operand becomes unknown in the lanes `un` and known in the lanes `kn`; a register of the whole group is unknown when
`un` is not empty and known when only `kn` is not. -/
def Unk.set (u : Unk) (un kn : Mask) : Opnd → Unk
  | .v n c => { u with v := (List.range c).foldl (fun m i => putB m (n + i) ((getB m (n + i) &&& ~~~kn) ||| un)) u.v }
  | .k n c =>
    (let bits := BitVec.ofNat 32 ((2 ^ c - 1) * 2 ^ n)
     if un ≠ 0 then { u with k := u.k ||| bits } else if kn ≠ 0 then { u with k := u.k &&& ~~~bits } else u)
  | .p j => { u with p := putB u.p j ((getB u.p j &&& ~~~kn) ||| un) }
  | .q j =>
    (let bit := BitVec.ofNat 8 (2 ^ j)
     if un ≠ 0 then { u with q := u.q ||| bit } else if kn ≠ 0 then { u with q := u.q &&& ~~~bit } else u)

/-- Several operands set. -/
def Unk.setAll (u : Unk) (un kn : Mask) (os : List Opnd) : Unk := os.foldl (fun w o => w.set un kn o) u

/-! ## How instructions take part (R91, R92) -/

/-- The lanes whose sources a lane's result depends on: its own, every one that takes part, or those below it, with its own unless the
instruction leaves it out. -/
inductive Mix where
  | own
  | all
  | below (excl : Bool)
  deriving DecidableEq, Repr

/-- The registers that a computing instruction reads and writes: whether it is uniform, its guard, the lanes that each result depends
on, and whether it may trap on what it reads. -/
structure Flow where
  uni   : Bool
  g     : Nat
  srcs  : List Opnd
  dsts  : List Opnd
  mix   : Mix
  traps : Bool

/-- The address of a memory access: a lane's or the group's, a number of pages from the one that a pair names, or a record at a
pair. -/
inductive MemAt where
  | lane (m : LaneMem)
  | uni (m : UniMem)
  | pages (a : KReg) (n : Nat)
  | record (a : KReg)

/-- What run-ahead does with an instruction: compute its result, carry a lane's value across, change control flow, probe a
memory access of n bytes (an atomic or a reduction in its form), pass it with its results unknown, test its checks too where its guard is
true and its sources are known, trap where its guard is true, or end with a code. -/
inductive RaClass where
  | compute (f : Flow) (run : State → Out)
  | shuffle (g : Nat) (d : VReg) (a b : Src) (run : Src → State → Out)
  | transfer (uni : Bool) (g : Nat) (target dsts : List Opnd) (run : State → Out)
  | probe (g : Nat) (m : MemAt) (n : Nat) (acc : Acc) (atom : Option AtomForm) (dsts : List Opnd)
  | passes (uni : Bool) (g : Nat) (dsts : List Opnd)
  | checks (g : Nat) (srcs dsts : List Opnd) (run : State → Out)
  | traps (uni : Bool) (g : Nat)
  | ends (code : Nat) (uni : Bool) (g : Nat) (dsts : List Opnd)

/-- The registers that a special register shows. -/
def sregSrcs (a : SReg) : List Opnd :=
  if a = .qmask then [.q 1, .q 2, .q 3, .q 4, .q 5, .q 6, .q 7] else []

/-- The part that each instruction takes in run-ahead. EXIT ends it with code 4 whatever its guard, also one that is false or unknown, where
R92 could be read as asking for code 2. [DEDUCED, log 88] -/
def raClass : Instr → RaClass
  | .iadd g d a b => .compute ⟨false, g.val, [srcOpnd a 1, srcOpnd b 1], [.v d.val 1], .own, false⟩ (execIadd g d a b)
  | .isub g d a b => .compute ⟨false, g.val, [srcOpnd a 1, srcOpnd b 1], [.v d.val 1], .own, false⟩ (execIsub g d a b)
  | .imul g d a b => .compute ⟨false, g.val, [srcOpnd a 1, srcOpnd b 1], [.v d.val 1], .own, false⟩ (execImul g d a b)
  | .imulhS g d a b => .compute ⟨false, g.val, [srcOpnd a 1, srcOpnd b 1], [.v d.val 1], .own, false⟩ (execImulhS g d a b)
  | .imulhN g d a b => .compute ⟨false, g.val, [srcOpnd a 1, srcOpnd b 1], [.v d.val 1], .own, false⟩ (execImulhN g d a b)
  | .imad g d a b => .compute ⟨false, g.val, [.v d.val 1, srcOpnd a 1, srcOpnd b 1], [.v d.val 1], .own, false⟩ (execImad g d a b)
  | .iaddi g d a lit => .compute ⟨false, g.val, [srcOpnd a 1], [.v d.val 1], .own, false⟩ (execIaddi g d a lit)
  | .iminS g d a b => .compute ⟨false, g.val, [srcOpnd a 1, srcOpnd b 1], [.v d.val 1], .own, false⟩ (execIminS g d a b)
  | .iminN g d a b => .compute ⟨false, g.val, [srcOpnd a 1, srcOpnd b 1], [.v d.val 1], .own, false⟩ (execIminN g d a b)
  | .imaxS g d a b => .compute ⟨false, g.val, [srcOpnd a 1, srcOpnd b 1], [.v d.val 1], .own, false⟩ (execImaxS g d a b)
  | .imaxN g d a b => .compute ⟨false, g.val, [srcOpnd a 1, srcOpnd b 1], [.v d.val 1], .own, false⟩ (execImaxN g d a b)
  | .iadd64 g d a b => .compute ⟨false, g.val, [srcOpnd a 2, srcOpnd b 2], [.v d.val 2], .own, false⟩ (execIadd64 g d a b)
  | .isub64 g d a b => .compute ⟨false, g.val, [srcOpnd a 2, srcOpnd b 2], [.v d.val 2], .own, false⟩ (execIsub64 g d a b)
  | .imadw g d a b => .compute ⟨false, g.val, [.v d.val 2, srcOpnd a 1, srcOpnd b 1], [.v d.val 2], .own, false⟩ (execImadw g d a b)
  | .leai g d m x => .compute ⟨false, g.val, [srcOpnd m.base 2, srcOpnd m.index 1], [.v d.val 2], .own, false⟩ (execLeai g d m x)
  | .and g d a b => .compute ⟨false, g.val, [srcOpnd a 1, srcOpnd b 1], [.v d.val 1], .own, false⟩ (execAnd g d a b)
  | .or g d a b => .compute ⟨false, g.val, [srcOpnd a 1, srcOpnd b 1], [.v d.val 1], .own, false⟩ (execOr g d a b)
  | .xor g d a b => .compute ⟨false, g.val, [srcOpnd a 1, srcOpnd b 1], [.v d.val 1], .own, false⟩ (execXor g d a b)
  | .not g d a => .compute ⟨false, g.val, [srcOpnd a 1], [.v d.val 1], .own, false⟩ (execNot g d a)
  | .shl g d a b => .compute ⟨false, g.val, [srcOpnd a 1, srcOpnd b 1], [.v d.val 1], .own, false⟩ (execShl g d a b)
  | .shrN g d a b => .compute ⟨false, g.val, [srcOpnd a 1, srcOpnd b 1], [.v d.val 1], .own, false⟩ (execShrN g d a b)
  | .shrS g d a b => .compute ⟨false, g.val, [srcOpnd a 1, srcOpnd b 1], [.v d.val 1], .own, false⟩ (execShrS g d a b)
  | .rotl g d a b => .compute ⟨false, g.val, [srcOpnd a 1, srcOpnd b 1], [.v d.val 1], .own, false⟩ (execRotl g d a b)
  | .bfxS g d a b => .compute ⟨false, g.val, [srcOpnd a 1, srcOpnd b 1], [.v d.val 1], .own, false⟩ (execBfxS g d a b)
  | .bfxN g d a b => .compute ⟨false, g.val, [srcOpnd a 1, srcOpnd b 1], [.v d.val 1], .own, false⟩ (execBfxN g d a b)
  | .bfi g d a b => .compute ⟨false, g.val, [.v d.val 1, srcOpnd a 1, srcOpnd b 1], [.v d.val 1], .own, false⟩ (execBfi g d a b)
  | .popc g d a => .compute ⟨false, g.val, [srcOpnd a 1], [.v d.val 1], .own, false⟩ (execPopc g d a)
  | .clz g d a => .compute ⟨false, g.val, [srcOpnd a 1], [.v d.val 1], .own, false⟩ (execClz g d a)
  | .brev g d a => .compute ⟨false, g.val, [srcOpnd a 1], [.v d.val 1], .own, false⟩ (execBrev g d a)
  | .mov g d a => .compute ⟨false, g.val, [srcOpnd a 1], [.v d.val 1], .own, false⟩ (execMov g d a)
  | .movi g d lit => .compute ⟨false, g.val, [], [.v d.val 1], .own, false⟩ (execMovi g d lit)
  | .icmpS g c p a b => .compute ⟨false, g.val, [srcOpnd a 1, srcOpnd b 1], [.p p.val], .own, false⟩ (execIcmpS g c p a b)
  | .icmpN g c p a b => .compute ⟨false, g.val, [srcOpnd a 1, srcOpnd b 1], [.p p.val], .own, false⟩ (execIcmpN g c p a b)
  | .fcmpF32 g c p a b => .compute ⟨false, g.val, [srcOpnd a 1, srcOpnd b 1], [.p p.val], .own, false⟩ (execFcmpF32 g c p a b)
  | .fcmpF64 g c p a b => .compute ⟨false, g.val, [srcOpnd a 2, srcOpnd b 2], [.p p.val], .own, false⟩ (execFcmpF64 g c p a b)
  | .icmpiS g c p a lit => .compute ⟨false, g.val, [srcOpnd a 1], [.p p.val], .own, false⟩ (execIcmpiS g c p a lit)
  | .icmpiN g c p a lit => .compute ⟨false, g.val, [srcOpnd a 1], [.p p.val], .own, false⟩ (execIcmpiN g c p a lit)
  | .plop g lut d a b c => .compute ⟨false, g.val, [.p a.val, .p b.val, .p c.val], [.p d.val], .own, false⟩ (execPlop g lut d a b c)
  | .pmovGet g d => .compute ⟨false, g.val, [.p 1, .p 2, .p 3, .p 4, .p 5, .p 6, .p 7], [.v d.val 1], .own, false⟩ (execPmovGet g d)
  | .pmovSet g a => .compute ⟨false, g.val, [srcOpnd a 1], [.p 1, .p 2, .p 3, .p 4, .p 5, .p 6, .p 7], .own, false⟩ (execPmovSet g a)
  | .faddF32 g d a b => .compute ⟨false, g.val, [srcOpnd a 1, srcOpnd b 1], [.v d.val 1], .own, false⟩ (execFaddF32 g d a b)
  | .fsubF32 g d a b => .compute ⟨false, g.val, [srcOpnd a 1, srcOpnd b 1], [.v d.val 1], .own, false⟩ (execFsubF32 g d a b)
  | .fmulF32 g d a b => .compute ⟨false, g.val, [srcOpnd a 1, srcOpnd b 1], [.v d.val 1], .own, false⟩ (execFmulF32 g d a b)
  | .ffmaF32 g d a b => .compute ⟨false, g.val, [.v d.val 1, srcOpnd a 1, srcOpnd b 1], [.v d.val 1], .own, false⟩ (execFfmaF32 g d a b)
  | .fminF32 g d a b => .compute ⟨false, g.val, [srcOpnd a 1, srcOpnd b 1], [.v d.val 1], .own, false⟩ (execFminF32 g d a b)
  | .fmaxF32 g d a b => .compute ⟨false, g.val, [srcOpnd a 1, srcOpnd b 1], [.v d.val 1], .own, false⟩ (execFmaxF32 g d a b)
  | .faddiF32 g d a lit => .compute ⟨false, g.val, [srcOpnd a 1], [.v d.val 1], .own, false⟩ (execFaddiF32 g d a lit)
  | .fmuliF32 g d a lit => .compute ⟨false, g.val, [srcOpnd a 1], [.v d.val 1], .own, false⟩ (execFmuliF32 g d a lit)
  | .faddF16x2 g d a b => .compute ⟨false, g.val, [srcOpnd a 1, srcOpnd b 1], [.v d.val 1], .own, false⟩ (execFaddF16x2 g d a b)
  | .fmulF16x2 g d a b => .compute ⟨false, g.val, [srcOpnd a 1, srcOpnd b 1], [.v d.val 1], .own, false⟩ (execFmulF16x2 g d a b)
  | .ffmaF16x2 g d a b => .compute ⟨false, g.val, [.v d.val 1, srcOpnd a 1, srcOpnd b 1], [.v d.val 1], .own, false⟩ (execFfmaF16x2 g d a b)
  | .fminF16x2 g d a b => .compute ⟨false, g.val, [srcOpnd a 1, srcOpnd b 1], [.v d.val 1], .own, false⟩ (execFminF16x2 g d a b)
  | .faddBf16x2 g d a b => .compute ⟨false, g.val, [srcOpnd a 1, srcOpnd b 1], [.v d.val 1], .own, false⟩ (execFaddBf16x2 g d a b)
  | .fmulBf16x2 g d a b => .compute ⟨false, g.val, [srcOpnd a 1, srcOpnd b 1], [.v d.val 1], .own, false⟩ (execFmulBf16x2 g d a b)
  | .ffmaBf16x2 g d a b => .compute ⟨false, g.val, [.v d.val 1, srcOpnd a 1, srcOpnd b 1], [.v d.val 1], .own, false⟩ (execFfmaBf16x2 g d a b)
  | .fminBf16x2 g d a b => .compute ⟨false, g.val, [srcOpnd a 1, srcOpnd b 1], [.v d.val 1], .own, false⟩ (execFminBf16x2 g d a b)
  | .faddF64 g d a b => .compute ⟨false, g.val, [srcOpnd a 2, srcOpnd b 2], [.v d.val 2], .own, false⟩ (execFaddF64 g d a b)
  | .fsubF64 g d a b => .compute ⟨false, g.val, [srcOpnd a 2, srcOpnd b 2], [.v d.val 2], .own, false⟩ (execFsubF64 g d a b)
  | .fmulF64 g d a b => .compute ⟨false, g.val, [srcOpnd a 2, srcOpnd b 2], [.v d.val 2], .own, false⟩ (execFmulF64 g d a b)
  | .ffmaF64 g d a b => .compute ⟨false, g.val, [.v d.val 2, srcOpnd a 2, srcOpnd b 2], [.v d.val 2], .own, false⟩ (execFfmaF64 g d a b)
  | .fminF64 g d a b => .compute ⟨false, g.val, [srcOpnd a 2, srcOpnd b 2], [.v d.val 2], .own, false⟩ (execFminF64 g d a b)
  | .fmaxF64 g d a b => .compute ⟨false, g.val, [srcOpnd a 2, srcOpnd b 2], [.v d.val 2], .own, false⟩ (execFmaxF64 g d a b)
  | .fmaxF16x2 g d a b => .compute ⟨false, g.val, [srcOpnd a 1, srcOpnd b 1], [.v d.val 1], .own, false⟩ (execFmaxF16x2 g d a b)
  | .fmaxBf16x2 g d a b => .compute ⟨false, g.val, [srcOpnd a 1, srcOpnd b 1], [.v d.val 1], .own, false⟩ (execFmaxBf16x2 g d a b)
  | .frcp g d a => .compute ⟨false, g.val, [srcOpnd a 1], [.v d.val 1], .own, false⟩ (execFrcp g d a)
  | .frsq g d a => .compute ⟨false, g.val, [srcOpnd a 1], [.v d.val 1], .own, false⟩ (execFrsq g d a)
  | .fsqrt g d a => .compute ⟨false, g.val, [srcOpnd a 1], [.v d.val 1], .own, false⟩ (execFsqrt g d a)
  | .fexp2 g d a => .compute ⟨false, g.val, [srcOpnd a 1], [.v d.val 1], .own, false⟩ (execFexp2 g d a)
  | .flog2 g d a => .compute ⟨false, g.val, [srcOpnd a 1], [.v d.val 1], .own, false⟩ (execFlog2 g d a)
  | .fsin g d a => .compute ⟨false, g.val, [srcOpnd a 1], [.v d.val 1], .own, false⟩ (execFsin g d a)
  | .fcos g d a => .compute ⟨false, g.val, [srcOpnd a 1], [.v d.val 1], .own, false⟩ (execFcos g d a)
  | .ftanh g d a => .compute ⟨false, g.val, [srcOpnd a 1], [.v d.val 1], .own, false⟩ (execFtanh g d a)
  | .cvtFi g d a rm i o => .compute ⟨false, g.val, [srcOpnd a (if i.is64 then 2 else 1)], [.v d.val (if o.is64 then 2 else 1)], .own, false⟩ (execCvtFi g d a rm i o)
  | .cvtIf g d a rm sat i o => .compute ⟨false, g.val, [srcOpnd a (if i.is64 then 2 else 1)], [.v d.val (if o.is64 then 2 else 1)], .own, false⟩ (execCvtIf g d a rm sat i o)
  | .cvtFf g d a rm sat i o => .compute ⟨false, g.val, [srcOpnd a (if i.is64 then 2 else 1)], [.v d.val (if o.is64 then 2 else 1)], .own, false⟩ (execCvtFf g d a rm sat i o)
  | .cvtNr g d a b => .compute ⟨false, g.val, [.v d.val 1, srcOpnd a 1, .k b.val 1], [.v d.val 1], .own, true⟩ (execCvtNr g d a b)
  | .cvtWd g d a b => .compute ⟨false, g.val, [srcOpnd a 1, .k b.val 1], [.v d.val 1], .own, true⟩ (execCvtWd g d a b)
  | .frnd g d a rm f64 => .compute ⟨false, g.val, [srcOpnd a (if f64 then 2 else 1)], [.v d.val (if f64 then 2 else 1)], .own, false⟩ (execFrnd g d a rm f64)
  | .fldexp g d a b => .compute ⟨false, g.val, [srcOpnd a 1, srcOpnd b 1], [.v d.val 1], .own, false⟩ (execFldexp g d a b)
  | .shfl g d a b => .shuffle g.val d a b (fun x => execShfl g d x b)
  | .shflx g d a b => .shuffle g.val d a b (fun x => execShflx g d x b)
  | .shflup g d a b => .shuffle g.val d a b (fun x => execShflup g d x b)
  | .shfldn g d a b => .shuffle g.val d a b (fun x => execShfldn g d x b)
  | .vote g d a m => .compute ⟨false, g.val, [.p a.val], [.p d.val], .all, false⟩ (execVote g d a m)
  | .ballot g d a => .compute ⟨false, g.val, [.p a.val], [.k d.val 1], .all, false⟩ (execBallot g d a)
  | .lscan g d a o excl => .compute ⟨false, g.val, [srcOpnd a 1], [.v d.val 1], .below excl, false⟩ (execLscan g d a o excl)
  | .lred g d a o => .compute ⟨false, g.val, [srcOpnd a 1], [.k d.val 1], .all, false⟩ (execLred g d a o)
  | .sreadV g d a => .compute ⟨false, g.val, sregSrcs a, [.v d.val (if a.is64 then 2 else 1)], .own, false⟩ (execSreadV g d a)
  | .matchLanes g d a => .compute ⟨false, g.val, [srcOpnd a 1], [.v d.val 1], .all, false⟩ (execMatchLanes g d a)
  | .iabs g d a => .compute ⟨false, g.val, [srcOpnd a 1], [.v d.val 1], .own, false⟩ (execIabs g d a)
  | .ard g d _ _ => .ends 3 false g.val [.v d.val 8]
  | .awr g _ _ _ => .ends 3 false g.val []
  | .bra g o w u => .transfer false g.val [] [] (execBra g o w u)
  | .bral g w u lit => .transfer false g.val [] [] (execBral g w u lit)
  | .brx g a w u => .transfer false g.val [srcOpnd a 2] [] (execBrx g a w u)
  | .call g d o u => .transfer false g.val [] [.v d.val 2] (execCall g d o u)
  | .callx g d a u => .transfer false g.val [srcOpnd a 2] [.v d.val 2] (execCallx g d a u)
  | .ret g a u => .transfer false g.val [srcOpnd a 2] [] (execRet g a u)
  | .exit g => .ends 4 false g.val []
  | .trap g _ => .traps false g.val
  | .ld g d m sz _ _ => .probe g.val (.lane m) (sizeBytes sz) .read none [.v d.val (sizeRegs sz)]
  | .st g _ m sz _ => .probe g.val (.lane m) (sizeBytes sz) .write none []
  | .pref g _ _ => .passes false g.val []
  | .atomO g d m sc o s64 => .probe g.val (.lane m) (if s64 then 8 else 4) .atomic (some ⟨true, true, sc, o, s64⟩) [.v d.val (if s64 then 2 else 1)]
  | .atomU g d m sc o s64 => .probe g.val (.lane m) (if s64 then 8 else 4) .atomic (some ⟨true, false, sc, o, s64⟩) [.v d.val (if s64 then 2 else 1)]
  | .redO g _ m sc o s64 => .probe g.val (.lane m) (if s64 then 8 else 4) .atomic (some ⟨false, true, sc, o, s64⟩) []
  | .redU g _ m sc o s64 => .probe g.val (.lane m) (if s64 then 8 else 4) .atomic (some ⟨false, false, sc, o, s64⟩) []
  | .uiadd g d a b => .compute ⟨true, g.val, [.k a.val 1, .k b.val 1], [.k d.val 1], .own, false⟩ (execUiadd g d a b)
  | .uisub g d a b => .compute ⟨true, g.val, [.k a.val 1, .k b.val 1], [.k d.val 1], .own, false⟩ (execUisub g d a b)
  | .uimul g d a b => .compute ⟨true, g.val, [.k a.val 1, .k b.val 1], [.k d.val 1], .own, false⟩ (execUimul g d a b)
  | .uimad g d a b => .compute ⟨true, g.val, [.k d.val 1, .k a.val 1, .k b.val 1], [.k d.val 1], .own, false⟩ (execUimad g d a b)
  | .uiaddi g d a lit => .compute ⟨true, g.val, [.k a.val 1], [.k d.val 1], .own, false⟩ (execUiaddi g d a lit)
  | .uiadd64 g d a b => .compute ⟨true, g.val, [.k a.val 2, .k b.val 2], [.k d.val 2], .own, false⟩ (execUiadd64 g d a b)
  | .umov g d a => .compute ⟨true, g.val, [.k a.val 1], [.k d.val 1], .own, false⟩ (execUmov g d a)
  | .umovi g d lit => .compute ⟨true, g.val, [], [.k d.val 1], .own, false⟩ (execUmovi g d lit)
  | .uand g d a b => .compute ⟨true, g.val, [.k a.val 1, .k b.val 1], [.k d.val 1], .own, false⟩ (execUand g d a b)
  | .uor g d a b => .compute ⟨true, g.val, [.k a.val 1, .k b.val 1], [.k d.val 1], .own, false⟩ (execUor g d a b)
  | .uxor g d a b => .compute ⟨true, g.val, [.k a.val 1, .k b.val 1], [.k d.val 1], .own, false⟩ (execUxor g d a b)
  | .ushl g d a b => .compute ⟨true, g.val, [.k a.val 1, .k b.val 1], [.k d.val 1], .own, false⟩ (execUshl g d a b)
  | .ushrN g d a b => .compute ⟨true, g.val, [.k a.val 1, .k b.val 1], [.k d.val 1], .own, false⟩ (execUshrN g d a b)
  | .ushrS g d a b => .compute ⟨true, g.val, [.k a.val 1, .k b.val 1], [.k d.val 1], .own, false⟩ (execUshrS g d a b)
  | .uicmpS g c p a b => .compute ⟨true, g.val, [.k a.val 1, .k b.val 1], [.q p.val], .own, false⟩ (execUicmpS g c p a b)
  | .uicmpN g c p a b => .compute ⟨true, g.val, [.k a.val 1, .k b.val 1], [.q p.val], .own, false⟩ (execUicmpN g c p a b)
  | .uplop g lut d a b c => .compute ⟨true, g.val, [.q a.val, .q b.val, .q c.val], [.q d.val], .own, false⟩ (execUplop g lut d a b c)
  | .ufadd g d a b => .compute ⟨true, g.val, [.k a.val 1, .k b.val 1], [.k d.val 1], .own, false⟩ (execUfadd g d a b)
  | .ufmul g d a b => .compute ⟨true, g.val, [.k a.val 1, .k b.val 1], [.k d.val 1], .own, false⟩ (execUfmul g d a b)
  | .uffma g d a b => .compute ⟨true, g.val, [.k d.val 1, .k a.val 1, .k b.val 1], [.k d.val 1], .own, false⟩ (execUffma g d a b)
  | .ufcmp g c p a b => .compute ⟨true, g.val, [.k a.val 1, .k b.val 1], [.q p.val], .own, false⟩ (execUfcmp g c p a b)
  | .sreadK g d a => .compute ⟨true, g.val, sregSrcs a, [.k d.val (if a.is64 then 2 else 1)], .own, false⟩ (execSreadK g d a)
  | .ubfx g d a b => .compute ⟨true, g.val, [.k a.val 1, .k b.val 1], [.k d.val 1], .own, false⟩ (execUbfx g d a b)
  | .unop g => .passes true g.val []
  | .ubra g o u => .transfer true g.val [] [] (execUbra g o u)
  | .ubral g u lit => .transfer true g.val [] [] (execUbral g u lit)
  | .yield g => .ends 3 true g.val []
  | .tretRetry g => .ends 3 true g.val []
  | .tretSkip g => .ends 3 true g.val []
  | .utrap g _ => .traps true g.val
  | .kill g => .ends 3 true g.val []
  | .killFail g => .ends 3 true g.val []
  | .killSave g => .ends 3 true g.val []
  | .fence g _ _ => .ends 3 true g.val []
  | .binit g _ _ => .ends 3 true g.val []
  | .barr g d _ => .ends 3 true g.val [.k d.val 1]
  | .barrn g d _ _ => .ends 3 true g.val [.k d.val 1]
  | .bxpct g _ _ => .ends 3 true g.val []
  | .bwait g d _ _ => .ends 3 true g.val [.q d.val]
  | .tsync g => .ends 3 true g.val []
  | .csync g => .ends 3 true g.val []
  | .cpgs g d _ _ => .ends 3 true g.val [.k d.val 1]
  | .cpsg g d _ _ => .ends 3 true g.val [.k d.val 1]
  | .cpgg g d _ _ => .ends 3 true g.val [.k d.val 1]
  | .cptr g d _ _ => .ends 3 true g.val [.k d.val 1]
  | .cpga g d _ _ => .ends 3 true g.val [.k d.val 1]
  | .cpmc g d _ _ => .ends 3 true g.val [.k d.val 1]
  | .cpmcr g d _ => .ends 3 true g.val [.k d.val 1]
  | .cpwait g d _ _ => .ends 3 true g.val [.k d.val 1]
  | .bufget g d _ => .ends 3 true g.val [.k d.val 1]
  | .bufput g a => .checks g.val [.k a.val 1] [] (execBufput g a)
  | .bufwait g _ _ => .ends 3 true g.val []
  | .bufq g d a => .checks g.val [.k a.val 1] [.k d.val 1] (execBufq g d a)
  | .shnew g d a => .probe g.val (.record a) 64 .read none [.k d.val 1]
  | .shfree g a => .checks g.val [.k a.val 1] [] (execShfree g a)
  | .hrowUp g d a n => .probe g.val (.pages a (n.toNat + 1)) 1 .read none [.k d.val 1]
  | .hrowDn g d a n => .probe g.val (.pages a (n.toNat + 1)) 1 .read none [.k d.val 1]
  | .hrowQ g d a => .probe g.val (.pages a 1) 1 .read none [.k d.val 1]
  | .mmab g _ _ _ _ _ => .ends 3 true g.val []
  | .mmao g _ _ _ _ _ => .ends 3 true g.val []
  | .mmag g _ _ _ _ _ => .ends 3 true g.val []
  | .dmma g _ _ _ _ _ _ => .ends 3 true g.val []
  | .aclr g _ _ => .ends 3 true g.val []
  | .ald g _ _ _ => .ends 3 true g.val []
  | .ast g _ _ _ => .ends 3 true g.val []
  | .obres g d _ => .ends 3 true g.val [.k d.val 1]
  | .obfree g _ => .ends 3 true g.val []
  | .obld g d _ => .ends 3 true g.val [.k d.val 1]
  | .rsalloc g d _ => .ends 3 true g.val [.k d.val 1]
  | .rsfill g _ => .ends 3 true g.val []
  | .rspin g _ => .ends 3 true g.val []
  | .rsunpin g _ => .ends 3 true g.val []
  | .rsrev g _ => .ends 3 true g.val []
  | .rsq g d _ => .ends 3 true g.val [.k d.val 1]
  | .ctabWr g _ _ => .ends 3 true g.val []
  | .ctabSwap g _ => .ends 3 true g.val []
  | .ctabRd g d _ _ _ _ => .ends 3 true g.val [.k d.val 1]
  | .launch g _ => .ends 3 true g.val []
  | .launchNb g d _ => .ends 3 true g.val [.q d.val]
  | .lwait g d _ _ => .ends 3 true g.val [.q d.val]
  | .lpoll g d _ => .ends 3 true g.val [.k d.val 2]
  | .spurFork g d _ => .ends 3 true g.val [.k d.val 1]
  | .spurJoin g d _ _ => .ends 3 true g.val [.q d.val]
  | .spurCancel g d _ => .ends 3 true g.val [.k d.val 1]
  | .spurQ g d _ => .ends 3 true g.val [.k d.val 1]
  | .sysrd g d _ => .ends 3 true g.val [.k d.val 1]
  | .syswr g _ _ => .ends 3 true g.val []
  | .xprobe g d _ b => .ends 3 true g.val [.k d.val 2, .k b.val 1]
  | .xinval g _ _ _ => .ends 3 true g.val []
  | .crsetCons g _ => .ends 3 true g.val []
  | .crsetThresh g _ => .ends 3 true g.val []
  | .crsetProd g _ => .ends 3 true g.val []
  | .crsetEnd g _ => .ends 3 true g.val []
  | .crposProd g d => .ends 3 true g.val [.k d.val 1]
  | .crposCons g d => .ends 3 true g.val [.k d.val 1]
  | .crposStatus g d => .ends 3 true g.val [.k d.val 1]
  | .lmark g _ _ => .passes true g.val []
  | .uld g d m sz _ _ => .probe g.val (.uni m) (sizeBytes sz) .read none [.k d.val (if sz = .b64 then 2 else 1)]
  | .ust g _ m sz _ => .probe g.val (.uni m) (sizeBytes sz) .write none []
  | .dvsave g _ _ => .ends 3 true g.val []
  | .dvload g _ _ => .ends 3 true g.val []
  | _ => .ends 5 false 0 []

/-! ## One instruction -/

/-- How one instruction of run-ahead ends: an end code, or the state, unknown registers and batch to go on with. -/
inductive RaStep where
  | stop (s : State) (es : List FaultEntry) (code : Nat)
  | go (s : State) (u : Unk) (es : List FaultEntry)

/-- What probing finds: the state as the caches leave it, faulting pages in order, whether a trap is met, and whether a host target is that
does not carry the operation, which traps where no translation fails (R252, R255). -/
structure Probed where
  s    : State
  es   : List FaultEntry
  trap : Bool
  host : Bool

/-- Probe one run within a page: a leaf is looked up, and nothing is allocated or sent (R91). -/
def probeRun (s : State) (e : Env) (acc : Acc) (atom : Option AtomForm) (va : Nat) : Probed :=
  match leafOf s e.t.ctx e.agent (some e.spur) va with
  | .error .held => ⟨s, [], false, false⟩
  | .error x => (match faultEntry acc va x with
    | some f => ⟨s, [f], false, false⟩
    | none => ⟨s, [], true, false⟩)
  | .ok (s1, leaf, lvl) =>
    if leafProt acc e.g.trap.masked leaf then ⟨s1, [⟨va / 65536, lvl, acc.kind, 1⟩], false, false⟩
    else ⟨s1, [], false, fld leaf 51 50 == 2 && fld leaf 8 8 == 0 && atom.any (fun f => !hostCarries f.op)⟩

/-- Probe the pages of accesses that are steered, in order. -/
def probePages (s : State) (e : Env) (acc : Acc) (atom : Option AtomForm) (n : Nat) (as : List Steered) : Probed :=
  (as.flatMap (fun a => match a.loc with
    | .glob va => (chunks va n).map (·.1)
    | .scr _ _ => [])).foldl (fun r va =>
      let p := probeRun r.s e acc atom va
      ⟨p.s, r.es ++ p.es, r.trap || p.trap, r.host || p.host⟩) ⟨s, [], false, false⟩

/-- The checks of an access that come before translation: of an atomic in its own order, otherwise a peer's scratchpad in DET (R255, R353). -/
def probeChecks (e : Env) (n : Nat) (atom : Option AtomForm) (as : List Steered) : Except Stop Unit :=
  match atom with
  | some f => do
    checkAligned n as
    atomDet e f as
  | none => if e.isDet && as.any (fun a => match a.loc with
      | .scr tid _ => tid != e.t.tid
      | .glob _ => false) then trapWith 19 0 0 else pure ()

/-- Probe the accesses of lanes (R91, R92): the checks of all of them, then their pages. -/
def probeLanes (s : State) (e : Env) (acc : Acc) (atom : Option AtomForm) (n : Nat) (as : List (Nat × Nat)) : Probed :=
  match as.mapM (fun a => (steer s e acc a.1 a.2 n).map (Steered.mk a.1 a.2)) with
  | none => ⟨s, [], true, false⟩
  | some ls => (match probeChecks e n atom ls with
    | .error _ => ⟨s, [], true, false⟩
    | .ok _ => probePages s e acc atom n ls)

/-- The lanes or the group pass an instruction without effect. -/
def raSkip (s : State) (e : Env) : State := { s.setGroup (e.g.complete e.c.mask e.c.size) with cur := none }

/-- The lanes whose guard is unknown, and the lanes known to take part. -/
def raGuard (u : Unk) (e : Env) (uni : Bool) (g : Nat) : Mask × Mask :=
  let gm := (if uni then u.of (.q g) else u.of (.p g)) &&& e.c.mask
  let tk := (if uni then lanesIf (e.g.regs.getQ g) else e.g.regs.getP g) &&& e.c.mask &&& ~~~gm
  (gm, tk)

/-- Results unknown in the lanes that take part or may. -/
def raUnknown (u : Unk) (e : Env) (uni : Bool) (g : Nat) (dsts : List Opnd) : Unk :=
  let (gm, tk) := raGuard u e uni g
  u.setAll (gm ||| tk) 0 dsts

/-- What an instruction does on the copy of the state: it runs, it waits for something, or it traps. -/
inductive RaRan where
  | ran (s : State)
  | waits
  | traps

/-- Run an instruction on the copy of the state. -/
def raRun (s : State) (e : Env) (run : State → Out) : RaRan :=
  match run s with
  | .next s1 => (match s1.group? e.g.gid with
    | some g => if g.park.isSome then .waits else if g.trap == e.g.trap then .ran s1 else .traps
    | none => .traps)
  | _ => .traps

/-- The lanes of a mask with those above its lowest lane; that lane itself counts unless it is left out. -/
def fromLowest (m : Mask) (excl : Bool) : Mask :=
  if m = 0 then 0 else allLanes <<< (lowLane m + excl.toNat)

/-- The lanes in which a computed result is unknown, and those in which it is known (R91). -/
def raResult (u : Unk) (e : Env) (f : Flow) : Mask × Mask :=
  let (gm, tk) := raGuard u e f.uni f.g
  let own := gm ||| (tk &&& u.any f.srcs)
  let un := match f.mix with
    | .own => if f.uni && own != 0 then gm ||| tk else own
    | .all => if own = 0 then 0 else gm ||| tk
    | .below excl => gm ||| (tk &&& fromLowest own excl)
  (un, tk &&& ~~~un)

/-- A shuffle's unknown lanes: its index is unknown, or the lane it takes from is (R91, R214). The values that travel are
replaced by marks of the unknown lanes. [DEDUCED, log 88] -/
def shuffleUnknown (s : State) (u : Unk) (e : Env) (a b : Src) (d : VReg) (run : Src → State → Out) : Mask :=
  let t : VReg := if b = .v 0 then 1 else 0
  let marks := u.of (srcOpnd a 1)
  let r := (List.range 32).foldl (fun r l => r.setV t.val l (if laneBit marks l then 0xFFFFFFFF else 0)) e.g.regs
  match run (.v t) (s.setGroup { e.g with regs := r }) with
  | .next s1 => (match s1.group? e.g.gid with
    | some g => maskOf ((List.range 32).filter (fun l => g.regs.getV d.val l != 0)) ||| u.of (srcOpnd b 1)
    | none => allLanes)
  | _ => allLanes

/-- A memory access uses the uniform set's guard. -/
def MemAt.isUni : MemAt → Bool
  | .lane _ => false
  | _ => true

/-- The registers that an address of the uniform set is made of. -/
def MemAt.pairs : MemAt → List Opnd
  | .lane _ => []
  | .uni m => [.k m.base.val 2, .k m.index.val 1]
  | .pages a _ => [.k a.val 2]
  | .record a => [.k a.val 2]

/-- The addresses of an access of the uniform set, none where it traps before anything is translated (R69, R126, R353). -/
def uniAddrs (e : Env) : MemAt → Option (List Nat)
  | .lane _ => some []
  | .uni m => some [(e.g.regs.uniAddr m).toNat]
  | .pages a n =>
    let va := (e.g.regs.getK2 a.val).toNat / 65536 * 65536
    if e.isDet || decide (2 ^ 57 < va + 65536 * n) then none else some ((List.range n).map (fun i => va + 65536 * i))
  | .record a =>
    let va := (e.g.regs.getK2 a.val).toNat
    if e.isDet || decide (2 ^ 57 ≤ va) || va % 64 != 0 then none else some [va]

/-- The known addresses of a memory access, in lane order; none where it traps before anything is translated. -/
def raAddrs (u : Unk) (e : Env) (g : Nat) (m : MemAt) : Option (List (Nat × Nat)) :=
  let (_, tk) := raGuard u e m.isUni g
  match m with
  | .lane l => some ((lanesOf (tk &&& ~~~u.any [srcOpnd l.base 2, srcOpnd l.index 1])).map (fun i =>
      (i, (e.g.regs.laneAddr l i).toNat)))
  | _ =>
    if tk = 0 ∨ u.any m.pairs ≠ 0 then some []
    else (uniAddrs e m).map (fun vs => vs.map (fun va => (lowLane e.c.mask, va)))

/-- Go on with what an instruction did: a trap ends run-ahead with code 5, and one that would wait is passed with its results unknown, since
run-ahead waits on no result (R91, R92). A record that a sampled SREAD writes on the copy touches no real row. [DEDUCED, log 88] -/
def raOn (s : State) (u : Unk) (es : List FaultEntry) (e : Env) (uni : Bool) (g : Nat) (dsts : List Opnd) (k : Unk) : RaRan → RaStep
  | .traps => .stop s es 5
  | .waits => .go (raSkip s e) (raUnknown u e uni g dsts) es
  | .ran s1 => .go { s1 with caches := s.caches, hbm := s.hbm } k es

/-- One decoded instruction of run-ahead. A trap that one lane of a memory instruction meets drops the pages that its other lanes found
faulting, as at its execution a trap comes before a page fault (R95). [DEDUCED, log 88] -/
def raInstr (s : State) (u : Unk) (es : List FaultEntry) (e : Env) : RaClass → RaStep
  | .ends code _ _ _ => .stop s es code
  | .traps uni g => if (raGuard u e uni g).2 = 0 then .go (raSkip s e) u es else .stop s es 5
  | .passes uni g dsts => .go (raSkip s e) (raUnknown u e uni g dsts) es
  | .checks g srcs dsts run =>
    let on := RaStep.go (raSkip s e) (raUnknown u e true g dsts) es
    if (raGuard u e true g).2 = 0 ∨ u.any srcs ≠ 0 then on
    else (match raRun s e run with
      | .traps => .stop s es 5
      | _ => on)
  | .compute f run =>
    let (un, kn) := raResult u e f
    if f.traps && kn = 0 then .go (raSkip s e) (u.setAll un kn f.dsts) es
    else raOn s u es e f.uni f.g f.dsts (u.setAll un kn f.dsts) (raRun s e run)
  | .shuffle g d a b run =>
    let (gm, tk) := raGuard u e false g
    let un := gm ||| (tk &&& shuffleUnknown s u e a b d run)
    raOn s u es e false g [.v d.val 1] (u.setAll un (tk &&& ~~~un) [.v d.val 1]) (raRun s e (run a))
  | .transfer uni g target dsts run =>
    let (gm, tk) := raGuard u e uni g
    if gm ≠ 0 ∨ u.any target &&& tk ≠ 0 then .stop s es 2
    else raOn s u es e uni g dsts (u.setAll 0 tk dsts) (raRun s e run)
  | .probe g m n acc atom dsts =>
    (match raAddrs u e g m with
     | none => .stop s es 5
     | some as =>
       let p := probeLanes s e acc atom n as
       if p.trap || (p.es.isEmpty && p.host) then .stop p.s es 5
       else .go (raSkip p.s e) (raUnknown u e m.isUni g dsts) (p.es.foldl addEntry es))

/-- A word of code that run-ahead fetches; one that lies at a place that is not local, or is held, is open, as its answer comes later
than this step. A fetch fault ends run-ahead with code 4 (R92). [DEDUCED, log 88] -/
def raWord (s : State) (e : Env) (va : Nat) : Except Nat (State × Word) :=
  match codeWord s { e with g := { e.g with park := none } } va with
  | .ok (s1, w, _) => .ok (s1, w)
  | .error (.park _ _) => .ok (s, Config.farWord s.clk va)
  | .error _ => .error 4

/-- The words of the instruction at the broadcast address: those at hand of the faulting instruction, or fetched. -/
def raWords (s : State) (e : Env) : Except Nat (State × Word × Word) := do
  let (s1, w) ← match e.g.fetched with
    | some f => if f.pc = e.c.pc.toNat then .ok (s, f.word) else raWord s e e.c.pc.toNat
    | none => raWord s e e.c.pc.toNat
  if !isLong (opcodeOf w.toNat) then pure (s1, w, 0)
  else
    let (s2, lit) ← match e.g.fetched with
      | some ⟨pc, _, some lit⟩ => if pc = e.c.pc.toNat then .ok (s1, lit) else raWord s1 e (e.c.pc.toNat + 4)
      | _ => raWord s1 e (e.c.pc.toNat + 4)
    pure (s2, w, lit)

/-- The next instruction of the copy: its class, or the code that ends run-ahead before it (R92). [DEDUCED, log 88] -/
def raFetch (s : State) (gid : Nat) : Except Nat (State × Env × RaClass) :=
  match (s.group? gid).bind Group.choose with
  | none => .error 4
  | some (g, b, ex) =>
    let s1 := s.issueWith g ⟨gid, b, ex, 0, 0, 4, false⟩
    match s1.env? with
    | none => .error 4
    | some e =>
      match raWords s1 e with
      | .error code => .error code
      | .ok (s2, w, lit) =>
        let c : Issue := ⟨gid, b, ex, w, lit, sizeOf w.toNat, false⟩
        if absentUnit s.grade (opcodeOf w.toNat) then .error 5
        else match decodeWords w.toNat lit.toNat with
          | .instr i => .ok ({ s2 with cur := some c }, { e with c := c }, raClass i)
          | _ => .error 5

/-- Run-ahead from the instruction after the faulting one; the fuel is the number of instructions still allowed (R91, R92). -/
def raLoop (gid : Nat) : Nat → State → Unk → List FaultEntry → State × List FaultEntry × Nat
  | 0, s, _, es => (s, es, 0)
  | f + 1, s, u, es =>
    if 65 ≤ es.length then (s, es.take 65, 1)
    else match raFetch s gid with
      | .error code => (s, es, code)
      | .ok (s1, e, k) =>
        match raInstr s1 u es e k with
        | .stop s2 es2 code => (s2, es2, code)
        | .go s2 u2 es2 => raLoop gid f s2 u2 es2

/-- The faulting instruction itself: its results are unknown, and it is passed (R91). -/
def raFirst (u : Unk) (e : Env) : RaClass → Unk
  | .compute f _ => raUnknown u e f.uni f.g f.dsts
  | .shuffle g d _ _ _ => raUnknown u e false g [.v d.val 1]
  | .transfer uni g _ dsts _ => raUnknown u e uni g dsts
  | .probe g m _ _ _ dsts => raUnknown u e m.isUni g dsts
  | .passes uni g dsts => raUnknown u e uni g dsts
  | .checks g _ dsts _ => raUnknown u e true g dsts
  | .traps _ _ => u
  | .ends _ uni g dsts => raUnknown u e uni g dsts

/-- The whole run-ahead of a group on a copy of the state: its entries and end code, with the caches, the stacks' pages as walks through them
leave those, and the counts of walks, L2 misses and activations. [DEDUCED, log 88] -/
def runAhead (s : State) (g : Group) (c : Nat) (f : FaultRun) : State × FaultRun :=
  let s0 := s.setGroup { g with park := none, stop := none }
  match raFetch s0 g.gid with
  | .error code => (s, { f with done := true, code := code })
  | .ok (s1, e, k) =>
    let (s2, es, code) := raLoop g.gid 256 (raSkip s1 e) (raFirst ⟨[], 0, [], 0⟩ e k) f.entries
    ({ s with tlb := s2.tlb, walks := s2.walks, caches := s2.caches, hbm := s2.hbm }.modCtx c (fun x =>
        { x with counters := [0x28, 0x30].foldl (fun m o => putB m o (getB (s2.ctx c).counters o)) x.counters }),
      { f with done := true, code := code, entries := es.take 65 })

/-! ## The events -/

/-- PAGE_FAULT_RUNAHEAD (R91 to R96): once a record can be posted, the group runs ahead; a standing request ends it at once with
code 6. [DEDUCED, log 88] -/
def execPageFaultRunahead (gid : Nat) (s : State) : Out :=
  .next (match s.group? gid, s.team? (gid / 32) with
    | some g, some t =>
      (match g.park with
       | some ⟨.faultRun f, since⟩ =>
         if f.done || !(s.ctx t.ctx).tqRoom then s
         else
           let (s1, f1) :=
             if (s.ctx t.ctx).isRequested || t.swap || s.power.emerg.isSome then (s, { f with done := true, code := 6 })
             else runAhead s g t.ctx f
           s1.modGroup gid (fun h => { h with park := some ⟨.faultRun f1, since⟩ })
       | _ => s)
    | _, _ => s)

/-- The eight bytes of a batch entry (R94). -/
def FaultEntry.bytes (f : FaultEntry) : List Byte :=
  leBytes 8 (f.page % 2 ^ 48 * 65536 + f.level % 8 * 256 + f.kind % 16 * 16 + f.cause % 16)

/-- The bytes of a batch (R94). -/
def FaultRun.bytes (f : FaultRun) : List Byte :=
  leBytes 8 f.pc ++ leBytes 4 f.lanes.toNat ++ [BitVec.ofNat 8 f.entries.length, BitVec.ofNat 8 f.code, 0, 0] ++
  f.entries.flatMap FaultEntry.bytes

/-- The KIND 1 record of a batch at a position (R339). [DEDUCED, log 84] -/
def FaultRun.record (f : FaultRun) (g : Group) (t : Team) (pos : Nat) : TrapRec :=
  { kind := 1, cause := if f.pool.isSome then 20 else 9, group := g.gid % 32, lane := lowLane f.lanes,
    team := BitVec.ofNat 32 t.idx, a := BitVec.ofNat 32 pos, grid := BitVec.ofNat 32 t.serial, b := BitVec.ofNat 64 f.pc,
    c := BitVec.ofNat 64 (((f.entries.head?.map (·.page)).getD 0) * 65536) }

/-- FAULT_BATCH_POST (R93, R94): the batch is written at its slot, the record is posted, and the group waits for its replay. -/
def execFaultBatchPost (gid : Nat) (s : State) : Out :=
  .next (match s.group? gid, s.team? (gid / 32) with
    | some g, some t =>
      (match g.park with
       | some ⟨.faultRun f, since⟩ =>
         let x := s.ctx t.ctx
         if !f.done || !x.tqRoom then s
         else
           let s1 := s.writeOwn (x.reg64 CtxReg.fbBase + 1024 * x.tqPos) f.bytes
           ((s1.tqPost t.ctx (f.record g t x.tqPos) (some (.group gid))).modGroup gid
             (fun h => { h with park := some ⟨.faultWait x.tqPos, since⟩ })).cutTry t.tid
       | _ => s)
    | _, _ => s)

end Sys2Proof.Machine
end

