-- ==== Sys2Proof/Machine/Schedule.lean ====
section
/-! DEFINITION. The dispatcher (R291 to R294): the order of grids, placement of units, backfill, and the pre-emption requests
that it raises. -/

namespace Sys2Proof.Machine

/-- The part places work: it has power and no emergency lasts. -/
def State.isPlacing (s : State) : Bool := !s.starting && !s.fw.recovery && !s.power.railsOff && s.power.emerg.isNone

/-- A restorable swapped team of the same or a higher priority fits somewhere: it goes first (R291). [DEDUCED, log 43] -/
def swappedFirst (s : State) (prio : Nat) : Bool := swapFits s (fun p => decide (prio ≤ p))

/-- One team of a unit starts on a core, where it takes its pages (R178, R293, R346). -/
def State.startTeam (s : State) (g : Grid) (rank column layer : Nat) : State :=
  let tid := s.nextTid + rank
  let slot := (saveSlot s g.ctx column tid).getD 0
  { s with
    teams := s.teams ++ [Team.start tid g.ctx g.serial (g.next + rank) column layer slot s.now]
    groups := s.groups ++ (List.range (Rec.groups g.bytes)).map (fun i =>
      Group.start (32 * tid + i) (BitVec.ofNat 57 (Rec.entry g.bytes))) }.takeCore tid false

/-- The pages of saved teams on the unit's cores leave them first (R346). -/
def coverUnit (s after : State) : List (Nat × Nat) → Except State State
  | [] => .ok s
  | p :: t => do
    let s1 ← s.coverSaved after p.1 p.2
    coverUnit s1 after t

/-- The teams of a unit start at their places. -/
def State.startUnit (s : State) (g : Grid) (ps : List (Nat × Nat)) : State :=
  ((List.range ps.length).zip ps).foldl (fun (a : State) (p : Nat × Nat × Nat) => a.startTeam g p.1 p.2.1 p.2.2) s

/-- A unit is placed: its teams start, the grid goes on to its next unit (R291 to R293). -/
def State.placeAt (s1 : State) (g : Grid) (ps : List (Nat × Nat)) : State :=
  let s2 := s1.startUnit g ps
  let s3 := s2.modGrid g.ctx g.serial (fun h => { h with next := h.next + ps.length, blocked := none, holds := false })
  { s3 with
    nextTid := s3.nextTid + ps.length
    lastCol := if ps.length = 1 then ps.head?.map Prod.fst else s3.lastCol }.modCtx g.ctx (fun x => { x with lastUnit := s3.clk })

/-- A unit that waits for Cairn waits for a ring position or for a record beyond CAIRN_PROD, not for its turn (R370). [DEDUCED, log 26] -/
def unitStalls (s : State) (g : Grid) : Bool :=
  match unitLogged s g.ctx (Rec.mode g.bytes) (.unit g.serial) (unitRec 5 0 g.rserial g.next 0xFFFFFFFF g.rserial) with
  | .wait s1 => (s1.ctx g.ctx).stalled.contains (.unit g.serial)
  | _ => false

/-- What trying to dispatch a grid's next unit comes to: it is placed, or the dispatcher does something for it; it fits nowhere; it
waits for Cairn; or a swapped team goes before it. -/
inductive Tried where
  | placed (s : State)
  | full
  | held (s : State)
  | behind
  deriving DecidableEq, Repr

/-- Try a grid's next unit: it fits nowhere, or lets a swapped team go first, or the pages of saved teams leave its cores, and then it
waits for Cairn or is placed; its first dispatch is logged (R291, R346, R358, R365). [DEDUCED, log 49] -/
def tryUnit (s : State) (g : Grid) : Tried :=
  match placeUnit s g.ctx g.bytes (unitWho s g.bytes) with
  | none => .full
  | some ps =>
    if swappedFirst s (Rec.prio g.bytes) then .behind
    else match coverUnit s (s.startUnit g ps) ps with
      | .error s1 => .placed s1
      | .ok s1 => match unitLogged s1 g.ctx (Rec.mode g.bytes) (.unit g.serial) (unitRec 5 0 g.rserial g.next 0xFFFFFFFF g.rserial) with
        | .wait _ => .held (s.waitFor g.ctx (.unit g.serial) (unitStalls s g))
        | .diverged => .placed ((s.unitDiverges g.ctx g.serial).cancelGrid g)
        | .done s2 _ => .placed (s2.placeAt g ps)

/-- Mark a grid whose next unit fits nowhere, with the real time (R291). -/
def State.markBlocked (s : State) (g : Grid) : State :=
  s.modGrid g.ctx g.serial (fun h => { h with blocked := some (h.blocked.getD s.now) })

/-- Go through the grids in order: the first unit that can be placed is placed, unless a blocked unit for which backfill has
stopped, or a unit that a swapped team goes before, comes before it. [DEDUCED, log 49] -/
def dispatchOne (s : State) : List Grid → State
  | [] => s
  | g :: t =>
    match tryUnit s g with
    | .placed s1 => s1
    | .held s1 => dispatchOne s1 t
    | .behind => s
    | .full => if g.holds then s.markBlocked g else dispatchOne (s.markBlocked g) t

/-- DISPATCH (R291). -/
def execDispatch (s : State) : Out :=
  .next (if s.isPlacing then { (dispatchOne s (unitOrder s)) with free := s.free + 1 } else s)

/-- A grid's next unit has waited a number of microseconds without fitting. -/
def Grid.hasWaited (s : State) (g : Grid) (n : Nat) : Bool := g.blocked.any (fun b => decide (b + us n ≤ s.now))

/-- BACKFILL_STOP (R291): the unit that comes first has waited 100 µs. -/
def execBackfillStop (s : State) : Out :=
  .next (match unitOrder s with
    | [] => s
    | g :: _ => if g.hasWaited s 100 then s.modGrid g.ctx g.serial (fun h => { h with holds := true }) else s)

/-- The teams of other contexts that run at a priority of p - 2 or lower, as context and priority (R294). [DEDUCED, log 49] -/
def lowTeams (s : State) (c p : Nat) : List (Nat × Nat) :=
  (s.teams.filter (fun t => t.ctx != c && t.isResident && !(s.ctx t.ctx).isRequested &&
    decide (s.recField Rec.prio t + 2 ≤ p))).map (fun t => (t.ctx, s.recField Rec.prio t))

/-- The context that the dispatcher pre-empts: the lowest priority, then the one most recently dispatched (R294). -/
def victimCtx (s : State) : List (Nat × Nat) → Option Nat
  | [] => none
  | v :: t => some (t.foldl (fun (b : Nat × Nat) w =>
      if w.2 < b.2 ∨ (w.2 = b.2 ∧ (s.ctx b.1).lastUnit < (s.ctx w.1).lastUnit) then w else b) v).1

/-- DISPATCH_PREEMPT (R294): a unit has waited 50 µs, and another context runs teams of a priority lower by 2. -/
def execDispatchPreempt (s : State) : Out :=
  .next (match (unitOrder s).findSome? (fun g =>
      if g.hasWaited s 50 then victimCtx s (lowTeams s g.ctx (Rec.prio g.bytes)) else none) with
    | some c => s.requestCtx c none
    | none => s)

end Sys2Proof.Machine
end

