-- ==== Sys2Proof/Machine/Agenda.lean ====
section
/-! DEFINITION. What the part does by itself when the agenda names nothing, and the loading of one program word for the host's
questions about single instructions. -/

namespace Sys2Proof.Machine

/-- What ends a group's waits. -/
def groupActs (gid : Nat) : List (State → Out) :=
  [execPageFaultRunahead gid, execFaultBatchPost gid, execParkRelease gid, execBwaitTimeout gid, execJoinTimeout gid,
    execLwaitWake gid, execSaveTimeout gid]

/-- The part's acts on a team. -/
def teamActs (tid : Nat) : List (State → Out) :=
  [execMmaRetire tid, execSwapOut tid, execPreemptDeadline tid, execCutComplete tid, execTeamRestore tid]

/-- The part's acts on a grid. -/
def gridActs (c serial : Nat) : List (State → Out) :=
  [execReductionDrain c serial, execTicketPass c serial, execGridComplete c serial]

/-- The part's acts on a context: its end, its invalidation's end, the reclaims of its spurs. -/
def ctxActs (c : Nat) (x : Context) : List (State → Out) :=
  [execCtxDown c, execHostInvalidateDone c] ++
  (List.range (x.reg CtxReg.spurSlots).toNat).map (fun i => execSpurReclaimDone c i)

/-- The part's acts on a queue. -/
def queueActs (q : Nat) : List (State → Out) :=
  [execQueueLaunchCommand q, execQueueWaitCommand q, execQueueSequence q, execQueueIdle q]

/-- The acts of a stack's controllers. -/
def stackActs (i : Nat) (k : Stack) : List (State → Out) :=
  [execRemapPageMoved i, execRemapDone i, execCrestWinDone i] ++ k.opened.map (fun (p : Nat × Nat) => execHwPromote i p.1) ++
  k.pages.flatMap (fun (p : Nat × Promoted) => [execPromotionDone i p.1, execWriteBackDone i p.1])

/-- The acts of a column's governor. -/
def columnActs (c : Nat) : List (State → Out) :=
  [execScreeDecision c, execMigrationStart c, execMigrationDeferExpiry c, execMigrationDone c]

/-- The acts of the part as a whole. -/
def partActs : List (State → Out) :=
  [execDispatch, execBackfillStop, execDispatchPreempt, execQueueMap, execQueueEvict, execThermEmerg, execEmergDeadline,
    execEmergRailsOff, execLeaseExpired, execLogicalClockAdvance, execStartupDone]

/-- The acts open to the part by itself, beside its groups' instructions and without the world outside. One that cannot happen
now leaves the state as it is. [DESIGN CHOICE, log 8] -/
def State.acts (s : State) : List (State → Out) :=
  partActs ++ s.groups.flatMap (fun g => groupActs g.gid) ++ s.teams.flatMap (fun t => teamActs t.tid) ++
  s.grids.flatMap (fun g => gridActs g.ctx g.serial) ++
  s.jobs.flatMap (fun j => execCopyJobStart j.id :: j.items.map (fun i => execCopyItem j.id i)) ++
  s.insts.map (fun i => execResidencyLoadDone i.core i.ctx i.slot) ++
  s.launches.map (fun (q : Nat × LaunchQueue) => execLaunchAccept q.1) ++
  s.queues.flatMap (fun (q : Nat × Queue) => queueActs q.1) ++
  s.ctxs.flatMap (fun (x : Nat × Context) => ctxActs x.1 x.2) ++
  s.remote.flatMap (fun (r : Nat × Remote) => [execHostTimeout r.1, execPeerTimeout r.1]) ++
  ((List.range s.hbm.length).zip s.hbm).flatMap (fun (k : Nat × Stack) => stackActs k.1 k.2) ++
  (List.range s.grade.columns).flatMap columnActs ++
  (List.range s.late.length).map (fun n => fun (a : State) => .next (a.landNth n))

/-- The launch record of a grid of one team of one group whose ENTRY is 0x10000 (R282). [DESIGN CHOICE, log 6] -/
def oneRecord : List Byte :=
  leBytes 8 0x10000 ++ leBytes 4 1 ++ leBytes 2 1 ++ leBytes 2 1 ++ List.replicate 40 0 ++ [1, 95] ++ List.replicate 6 0

/-- A number above every key of a table. -/
def freshKey {α : Type} (t : Tbl α) : Nat := t.foldl (fun m e => max m (e.1 + 1)) 0

/-- The grid of one team. [DESIGN CHOICE, log 6] -/
def oneGrid (c : Nat) : Grid :=
  { ctx := c, serial := 0, bytes := oneRecord, accepted := 0, queue := none, counted := false, rserial := 0, next := 1, done := [],
    drained := 0, failed := false, staged := [], csyncs := [], blocked := none, holds := false, wait := none, noCount := none,
    dead := false, headers := [] }

/-- A loaded program: a context of its own with one grid of one team of one group, whose code page 0x10000 is mapped to
local page 0x10000 with R, W and X (R84), the bytes given at its entry, and the group next on the agenda. [DESIGN CHOICE, log 6] -/
def State.load (s : State) (bs : List Byte) : State :=
  let c := freshKey s.ctxs
  let gid := 32 * s.nextTid
  { s with
    agenda := [.issue gid]
    cur := none
    starting := false
    power := { s.power with railsOff := false }
    mem := writeB s.mem 0x10000 bs
    tlb := ⟨.core 0 0, c, none, 0x10000, 65536, 0x1001B, 0⟩ :: s.tlb
    ctxs := setT s.ctxs c { Context.init with regs := putB Context.init.regs CtxReg.ctl 0x80000000 }
    grids := oneGrid c :: s.grids
    teams := Team.start s.nextTid c 0 0 0 0 0 s.now :: s.teams
    groups := Group.start gid 0x10000 :: s.groups
    nextTid := s.nextTid + 1 }

end Sys2Proof.Machine
end

