-- ==== Sys2Proof/Machine/Fabric.lean ====
section
/-! DEFINITION. What arrives through PCIe and Yelwagon: the host's accesses to local memory (R383 to R386), requests of peers and
the state of the ports (R394 to R397), SPDM (R405). -/

namespace Sys2Proof.Machine

/-! ## The host's accesses through BAR4 (R383 to R385) -/

/-- BAR4 answers: the part has started and is not in recovery (R384, R399, R400). [DEDUCED, log 96] -/
def barAnswers (s : State) : Bool := !s.starting && !s.fw.recovery

/-- What a run of local memory meets, lowest atom first: a location that does not exist (false) or a lost atom (true), and
where (R55, R71). -/
def runErr (s : State) (pa n : Nat) : Option (Bool × Nat) :=
  (List.range ((pa + n - 1) / 32 + 1 - pa / 32)).findSome? (fun i =>
    let a := max pa ((pa / 32 + i) * 32)
    if !localExists s a then some (false, a) else if isLost s a then some (true, a / 32 * 32) else none)

/-- A request of the host is in BAR4: all its bytes lie in the window (R384). [DEDUCED, log 96] -/
def inBar4 (off n : Nat) : Bool := decide (0 < n) && decide (off + n ≤ 2 ^ 41)

/-- Send a message to the world outside. -/
def State.emit (s : State) (m : OutMsg) : State := { s with outbox := s.outbox ++ [m] }

/-- HOST_BAR4_READ (R384, R385): the data, Completer Abort for a lost atom, Unsupported Request for a location that does not
exist; one at a new window page is held until BUSY clears (R60). A request shows that the link is up. [DEDUCED, log 96] -/
def execHostBar4Read (off len : Nat) (s : State) : Out :=
  .next (
    if s.starting || (barAnswers s && inBar4 off len && isHeld s off) then s
    else if s.fw.recovery || !inBar4 off len then s.emit .hostUnsupported
    else match runErr s off len with
      | some (false, _) => { s with pcieUp := true }.emit .hostUnsupported
      | some (true, _) => { s with pcieUp := true }.emit .hostAbort
      | none => ({ s with pcieUp := true }.emit (.hostData (s.loadRun off len))).runL2 off len 2 false)

/-- HOST_BAR4_WRITE (R71, R384, R385): the bytes are stored; a write to a location that does not exist or over part of a lost
atom is discarded and HOST_WRITE_DROPPED posted; one at a new window page is held until BUSY clears (R60). [DEDUCED, log 96] -/
def execHostBar4Write (off : Nat) (data : List Byte) (s : State) : Out :=
  let ws := spread off data
  .next (
    if !barAnswers s || !inBar4 off data.length || isHeld s off then s
    else match ws.find? (fun w => !localExists s w.1) with
      | some w => { s with pcieUp := true }.postDev 13 0 w.1
      | none => match partLost s ws with
        | some pa => { s with pcieUp := true }.postDev 13 0 pa
        | none => (({ s with pcieUp := true }.clearLost ws).storeExtern ws).runL2 off data.length 2 true)

/-- The AtomicOps of PCIe (R383). -/
def isPcieAtomic : AtomOp → Bool
  | .add | .xchg | .cas => true
  | _ => false

/-- HOST_ATOMICOP (R383, R385): performed at the controller and completed with the old value; it fails as a read does. [DEDUCED, log 96] -/
def execHostAtomicop (off : Nat) (op : AtomOp) (s64 : Bool) (x c : DWord) (s : State) : Out :=
  let n := if s64 then 8 else 4
  .next (
    if s.starting || (barAnswers s && inBar4 off n && isHeld s off) then s
    else if s.fw.recovery || !inBar4 off n || !isPcieAtomic op || off % n != 0 then s.emit .hostUnsupported
    else match serve { s with pcieUp := true } true (.atomic op s64 x c) off with
      | (s1, .ok, old) => s1.emit (.hostData old)
      | (s1, .dataLost, _) => s1.emit .hostAbort
      | (s1, _, _) => s1.emit .hostUnsupported)

/-! ## The PCIe link (R386) -/

/-- A posted write of the part to the host, on its way. -/
def Remote.isPosted (r : Remote) : Bool :=
  r.tgt == 2 && r.tag.isSome && (match r.op with | .wr _ _ => true | _ => false)

/-- A posted write is lost with the link: a copy's item fails, a group or an act of the part's own goes on unaware (R386).
[DESIGN CHOICE, log 97] -/
def State.losePosted (s : State) (tag : Nat) : State :=
  match getT s.remote tag with
  | some r => if r.isPosted then s.answer tag (if r.job.isSome then .dataLost else .ok) [] else s
  | none => s

/-- PCIE_DOWN (R386): of the posted writes on their way the last `lost` are lost with the link, the others have arrived; the event names
the number that are lost. Requests to the host that had not been sent find no link. [DESIGN CHOICE, log 97] -/
def execPcieDown (lost : Nat) (s : State) : Out :=
  let posted := (s.remote.filter (fun (r : Nat × Remote) => r.2.isPosted)).map (fun (r : Nat × Remote) => r.1)
  let unsent := (s.remote.filter (fun (r : Nat × Remote) => r.2.tgt == 2 && r.2.tag.isNone)).map (fun (r : Nat × Remote) => r.1)
  let n := min lost posted.length
  let s0 := unsent.foldl (fun (a : State) t => a.answer t .dataLost []) s
  let s1 := (posted.take (posted.length - n)).foldl (fun (a : State) t => a.answer t .ok []) s0
  let s2 := (posted.drop (posted.length - n)).foldl (fun (a : State) t => a.losePosted t) s1
  .next ({ s2 with pcieUp := false }.postDev 16 n 0)

/-! ## Peers (R394, R396) -/

/-- Bytes that a request touches. -/
def opLen : MemOp → Nat
  | .rd32 => 32
  | .rd64 => 64
  | .rd128 => 128
  | .wr _ data => data.length
  | .atomic _ s64 _ _ => if s64 then 8 else 4
  | .hrow _ _ => 0

/-- A flit carries the operation (R394). [DEDUCED, log 62] -/
def flitCarries : MemOp → Bool
  | .wr _ data => decide (data.length ≤ 128)
  | .hrow _ _ => false
  | _ => true

/-- A 41-bit address of the fabric chip registers (R396). -/
def State.peerBound (s : State) (off : Nat) : Nat := (getB s.mgmt off).toNat + 2 ^ 32 * ((getB s.mgmt (off + 4)).toNat % 512)

/-- Some port is trained, keyed and in service (R395). [DEDUCED, log 98] -/
def anyPortUp (s : State) : Bool := s.ports.any (fun p => p.2.up && p.2.enable)

/-- PEER_REQUEST (R396): served as by the controller, or answered ABSENT outside the range that peers may access. [DEDUCED, log 98] -/
def execPeerRequest (chip : Nat) (r : MemReq) (s : State) : Out :=
  .next (
    if s.starting || !anyPortUp s || !flitCarries r.op || isHeld s r.pa then s
    else if r.pa < s.peerBound 0x2008 ∨ s.peerBound 0x2010 < r.pa + max 1 (opLen r.op) then
      s.emit (.peerReply chip r.tag .absent [])
    else
      let (s1, st, data) := serve s true r.op r.pa
      s1.emit (.peerReply chip r.tag st data))

/-! ## Ports (R395, R397) -/

/-- A port's registers; ENABLE is 1 from reset (R395). [DESIGN CHOICE, log 2] -/
def State.port (s : State) (p : Nat) : Port := (getT s.ports p).getD ⟨false, true, 0, 0, 0⟩

/-- A port's registers change. -/
def State.modPort (s : State) (p : Nat) (f : Port → Port) : State := { s with ports := setT s.ports p (f (s.port p)) }

/-- A request is on its way on a port that is trained, in service or not (R395). -/
def State.isUnderWay (s : State) (r : Remote) : Bool := r.tag.isSome && r.port.any (fun p => (s.port p).up)

/-- Requests to chips that have no live port left are answered DATA_LOST (R397), except those in flight on a port that delivers them still
(R395). [DEDUCED, log 98] -/
def State.loseRouteless (s : State) : State :=
  (s.remote.filter (fun (r : Nat × Remote) =>
    r.2.tgt != 2 && (livePorts s r.2.tgt.toNat r.2.chip.toNat).isEmpty && !s.isUnderWay r.2)).foldl
    (fun (a : State) (r : Nat × Remote) => a.answer r.1 .dataLost []) s

/-- Requests of a port take another live port of their mask: its flits when it goes down, and those not yet sent when it leaves service
(R395, R397). [DEDUCED, log 98] -/
def State.resend (s : State) (port : Nat) (unsent : Bool) : State :=
  { s with remote := s.remote.map (fun (r : Nat × Remote) =>
      if r.2.port = some port ∧ (unsent → r.2.tag.isNone) then
        (r.1, { r.2 with port := portOf s r.2.tgt.toNat r.2.chip.toNat r.2.pa })
      else r) }

/-- LINK_DOWN (R389, R397): flits are resent on the other live ports of each mask. -/
def execLinkDown (port : Nat) (s : State) : Out :=
  .next (if (s.port port).up then
    (((s.modPort port (fun p => { p with up := false })).postDev 14 port 0).resend port false).loseRouteless
  else s)

/-- The life-cycle state in which a port may be keyed (R405). [DESIGN CHOICE, log 99] -/
def mayKey (s : State) : Bool := (s.fw.life == 1 || s.fw.life == 2) && !s.fw.recovery

/-- LINK_UP (R389, R395, R397, R405): a port trains, learns the chip at its far end and gets fresh keys. [DESIGN CHOICE, log 99] -/
def execLinkUp (port : Nat) (peer : BitVec 12) (s : State) : Out :=
  .next (if decide (port < s.grade.ports) && !(s.port port).up && mayKey s then
    (s.modPort port (fun p => { p with up := true, peer := peer, txEpoch := 0, rxEpoch := 0 })).postDev 15 port 0
  else s)

/-- PORT_DISABLE: ENABLE is cleared, and the port leaves service after its flits in flight (R395); requests that were to go by it take
another port, or have none (R396, R397). [DESIGN CHOICE, log 99] -/
def execPortDisable (port : Nat) (s : State) : Out :=
  .next (if decide (port < s.grade.ports) && barAnswers s then
    ((s.modPort port (fun p => { p with enable := false })).resend port true).loseRouteless
  else s)

/-- KEY_ROLLOVER (R397): the key of one direction of a port is replaced, and no flit is lost. [DESIGN CHOICE, log 99] -/
def execKeyRollover (port : Nat) (tx : Bool) (s : State) : Out :=
  .next (if (s.port port).up then
    s.modPort port (fun p => if tx then { p with txEpoch := p.txEpoch + 1 } else { p with rxEpoch := p.rxEpoch + 1 })
  else s)

/-! ## SPDM (R405) -/

/-- The number of an SPDM request among those of R405. -/
def spdmIndex : SpdmCode → Nat
  | .getVersion => 0
  | .getCapabilities => 1
  | .negotiateAlgorithms => 2
  | .getDigests => 3
  | .getCertificate => 4
  | .challenge => 5
  | .getMeasurements => 6
  | .keyExchange => 7

/-- CHALLENGE and KEY_EXCHANGE are answered with an error in RAW and RETURNED (R405). -/
def spdmErr (s : State) (code : SpdmCode) : Bool :=
  (s.fw.life == 0 || s.fw.life == 3) && (code == .challenge || code == .keyExchange)

/-- The words of an image that a measurement tells apart. -/
def Image.words (i : Image) : List Nat := [i.version.toNat, i.rollback.toNat, (i.key.map (·.val + 1)).getD 0]

/-- The measurement blocks of GET_MEASUREMENTS (R405): the ROM, the running firmware, the fused configuration of grade, life-cycle state and
rollback counter, and the digest of the harvest map. -/
def measurements (s : State) : List Byte :=
  Config.measured 1 [] ++ Config.measured 2 (s.fw.image.elim [] Image.words) ++
    Config.measured 3 [s.grade.capUnits.toNat, s.grade.capSizes.toNat, s.fw.life.toNat, s.fw.fused.toNat] ++ Config.measured 4 []

/-- The bytes of an SPDM answer: the measurement blocks where these are asked for, and what the part adds (R405). -/
def spdmAnswer (s : State) (code : SpdmCode) : List Byte :=
  (if code = .getMeasurements then measurements s else []) ++ Config.spdmBytes (spdmIndex code) s.free

/-- SPDM_REQUEST (R405): over DOE, whose configuration requests get Request Retry Status until the part has started (R399), or over a
port. [DEDUCED, log 96; DESIGN CHOICE, log 100] -/
def execSpdmRequest (viaPort : Option Nat) (code : SpdmCode) (s : State) : Out :=
  .next (
    if viaPort.isNone && s.starting then s.emit .hostRetry
    else if viaPort.any (fun p => decide (s.grade.ports ≤ p)) then s
    else if spdmErr s code then s.emit (.spdm viaPort code true [])
    else { s with free := s.free + 1 }.emit (.spdm viaPort code false (spdmAnswer s code)))

end Sys2Proof.Machine
end

