-- ==== Sys2Proof/Machine/Hrow.lean ====
section
/-! DEFINITION. HROW.UP, HROW.DN and HROW.Q (R65 to R69, R363). -/

namespace Sys2Proof.Machine

/-- The place of a page that an HROW instruction names, translated as a read; a local page without a location raises BAD_LEAF, one of a
failed stack DATA_LOST, and one of a crest window that is not open yet waits (R55, R60, R66, R69, R72). [DEDUCED, log 61] -/
def hrowPlace (s : State) (e : Env) (va : Nat) : Except Stop (State × Phys) :=
  match xlate s e.t.ctx e.agent (some e.spur) e.g.trap.masked .read va with
    | .error x => .error (oneStop s e.c e.spur .read va x)
    | .ok (s1, .loc pa, leaf) =>
      if !localExists s1 pa then .error (failTrap .absent leaf.lvl va pa)
      else if stackFailed s1 pa then .error (failTrap .dataLost leaf.lvl va pa)
      else if isHeld s1 pa then .error (.park s .held)
      else .ok (s1, .loc pa)
    | .ok (s1, p, _) => .ok (s1, p)

/-- The checks before translation: every page in the global window, and not in DET mode (R69, R353). -/
def hrowOpen (e : Env) (va n : Nat) : Except Stop Unit :=
  if 2 ^ 57 < va + 65536 * n then trapWith 6 0 (if va < 2 ^ 57 then 2 ^ 57 else va) else detBan e

/-- The places of n consecutive pages, ascending; any fault ends it with nothing changed. [DEDUCED, log 61] -/
def hrowPlaces (s : State) (e : Env) : Nat → Nat → Except Stop (State × List Phys)
  | 0, _ => .ok (s, [])
  | n + 1, va => do
    let (s1, p) ← hrowPlace s e va
    let (s2, ps) ← hrowPlaces s1 e n (va + 65536)
    pure (s2, p :: ps)

/-- The outcomes of pages in ascending order: done + 2^8 refused + 2^16 displaced (R66). [DEDUCED, log 61] -/
def hrowCount (f : State → Nat → Nat → State × HrowOut) (c : Nat) : State → List Phys → State × Nat
  | s, [] => (s, 0)
  | s, p :: t =>
    let (s1, o) := match p with
      | .loc pa => f s c pa
      | _ => (s, .refused)
    let (s2, n) := hrowCount f c s1 t
    (s2, n + match o with
      | .done => 1
      | .refused => 256
      | .displaced => 65537)

/-- HROW.UP and HROW.DN (R66): the pages are translated, then moved; a replay writes the recorded result (R363). -/
def State.hrow (s : State) (q : Pred) (d a : KReg) (n : BitVec 6) (f : State → Nat → Nat → State × HrowOut) : Out :=
  s.uniform q (fun e => do
    hrowOpen e ((e.g.regs.getK2 a.val).toNat / 65536 * 65536) (n.toNat + 1)
    let (s1, ps) ← hrowPlaces s e (n.toNat + 1) ((e.g.regs.getK2 a.val).toNat / 65536 * 65536)
    let r ← sampleOpen s1 e
    let (s2, cnt) := hrowCount f e.t.ctx s1 ps
    let v := (r.map (·.1)).getD cnt
    .ok ((s2.sampleClose e v r).retire e (e.g.withRegs (e.g.regs.setK d.val (BitVec.ofNat 32 v)))))

/-- HROW.UP (R66). -/
def execHrowUp (g : Pred) (d a : KReg) (n : BitVec 6) (s : State) : Out := s.hrow g d a n outcomeUp

/-- HROW.DN (R66). -/
def execHrowDn (g : Pred) (d a : KReg) (n : BitVec 6) (s : State) : Out := s.hrow g d a n outcomeDn

/-- The status word of a page (R67). [DEDUCED, log 62] -/
def hrowStatus (s : State) : Phys → Nat
  | .loc pa => (match s.hbm[paStack pa]? with
    | none => 0
    | some k =>
      let base := (k.dram pa).bank * 256 + paStack pa * 16
      if paClass pa then base + 1
      else match getT k.pages (paPage pa) with
        | none => base
        | some p =>
          let moving := p.st == .promoting || p.st == .writingBack
          base + 8 * moving.toNat + 4 * (p.st == .dirty || p.st == .writingBack).toNat +
            (if p.st == .clean || p.st == .dirty then (if p.isExplicit then 3 else 2) else 0))
  | _ => 2 ^ 15

/-- HROW.Q (R67). -/
def execHrowQ (g : Pred) (d a : KReg) (s : State) : Out :=
  s.uniform g (fun e => do
    hrowOpen e ((e.g.regs.getK2 a.val).toNat / 65536 * 65536) 1
    let (s1, p) ← hrowPlace s e (e.g.regs.getK2 a.val).toNat
    let r ← sampleOpen s1 e
    let v := (r.map (·.1)).getD (hrowStatus s1 p)
    .ok ((s1.sampleClose e v r).retire e (e.g.withRegs (e.g.regs.setK d.val (BitVec.ofNat 32 v)))))

end Sys2Proof.Machine
end

