-- ==== Sys2Proof/Machine/System.lean ====
section
/-! DEFINITION. Handler instructions and Cairn's own: TRET, KILL, SYSRD, SYSWR (R331 to R336), LMARK, CRSET, CRPOS (R368 to
R371). -/

namespace Sys2Proof.Machine

/-! ## TRET (R333, R348) -/

/-- TRET (R333). After a RESTORE entry the group has resumed (R348). -/
def State.tret (s : State) (q : Pred) (skip : Bool) : Out :=
  s.privileged q (fun e => do
    let s1 ← s.trapReturn e skip
    if e.g.trap.cause = 33 then
      .ok ((s1.modGroup e.g.gid (fun g => g.resumed s1 e.t)).resumeTry e.t.tid)
    else .ok s1)

/-- TRET.RETRY (R333). -/
def execTretRetry (g : Pred) (s : State) : Out := s.tret g false

/-- TRET.SKIP (R333). -/
def execTretSkip (g : Pred) (s : State) : Out := s.tret g true

/-! ## KILL (R334) -/

/-- KILL ends the group without a record; the unconsumed records of a REPLAY team that it ends count as consumed (R334,
R335, R367). -/
def execKill (g : Pred) (s : State) : Out :=
  s.privileged g (fun e =>
    let h := e.g.exited e e.c.mask
    let k := { h with regs := { h.regs with live := 0 } }
    let s1 := s.endGroup e k
    let last := (s1.groupsOf e.t.tid).isEmpty
    .ok (if last then s1.dropReplay e.t else s1))

/-- KILL.FAIL (R334): the team ends with a fatal record of the trap being handled. -/
def execKillFail (g : Pred) (s : State) : Out :=
  s.privileged g (fun e => .ok (({ s with cur := none }.postFatal e.t.ctx (handledRec e.t e.g 25)).teamKilled e.t))

/-- KILL.SAVE: after a PREEMPT entry the group is saved, and its team may be; after any other entry DOUBLE_TRAP with the
entry's cause (R324, R334, R345). -/
def execKillSave (g : Pred) (s : State) : Out :=
  s.privileged g (fun e =>
    if e.g.trap.cause = 32 then .ok ((s.retire e { e.g with saved := true }).saveTry e.t.tid)
    else .error (.fatal 24 e.g.trap.cause.toNat))

/-! ## System registers (R336) -/

/-- The value of a system register (R336). -/
def sysValue (s : State) (e : Env) : SysReg → Word
  | .hk30 => e.g.trap.k30
  | .hk31 => e.g.trap.k31
  | .hlit => e.g.trap.hlit
  | .hpaLo => e.g.trap.hpa.setWidth 32
  | .hpaHi => (e.g.trap.hpa >>> 32).setWidth 32
  | .saveslot => BitVec.ofNat 32 (32 * e.t.column + e.t.slot)
  | .pstate =>
    BitVec.ofNat 32 (e.isRequested.toNat +
      2 * (match e.t.deadline with | some d => decide (d ≤ s.clk) | none => false).toNat)
  | .savebaseLo => BitVec.ofNat 32 (e.x.reg64 CtxReg.saveBase)
  | .savebaseHi => BitVec.ofNat 32 (e.x.reg64 CtxReg.saveBase / 2 ^ 32)

/-- SYSRD (R336). -/
def execSysrd (g : Pred) (d : KReg) (a : SysReg) (s : State) : Out :=
  s.privileged g (fun e => .ok (s.retire e (e.g.withRegs (e.g.regs.setK d.val (sysValue s e a)))))

/-- The shadow after a SYSWR; the other system registers are read only, and no instruction that writes one is well formed
(R336). -/
def TrapRegs.put (r : TrapRegs) (a : SysReg) (x : Word) : TrapRegs :=
  match a with
  | .hk30 => { r with k30 := x }
  | .hk31 => { r with k31 := x }
  | _ => r

/-- SYSWR (R336). -/
def execSyswr (g : Pred) (a : SysReg) (b : KReg) (s : State) : Out :=
  s.privileged g (fun e => .ok (s.retire e { e.g with trap := e.g.trap.put a (e.g.regs.getK b.val) }))

/-! ## The Cairn unit's instructions -/

/-- An instruction of the Cairn unit: UNIT_ABSENT on a grade without it, before any other check (R5, R39, R368). -/
def State.cairnUnit (s : State) (f : State → Out) : Out :=
  if s.grade.hasCairn then f s else s.run (fun _ => trapWith 2 0 0)

/-- LMARK (R369): one TYPE 7 record in REC, its turn and a compare in REPLAY, nothing otherwise. -/
def execLmark (g : Pred) (a : KReg) (tag : BitVec 7) (s : State) : Out :=
  s.cairnUnit (fun s => s.uniform g (fun e =>
    logged s e 0 ⟨7, tag.toNat, tag.toNat⟩ (fun s1 => .ok ⟨s1, e.g, (e.g.regs.getK a.val).toNat, none⟩)))

/-- A CRSET writes a register of its context unless R370 ignores the write; records may have come that are to be skipped (R367). -/
def State.crset (s : State) (q : Pred) (off : Nat) (b : KReg) (takes : Context → Word → Bool) (f : Word → Word) : Out :=
  s.cairnUnit (fun s => s.privileged q (fun e =>
    let v := f (e.g.regs.getK b.val)
    let s1 := if e.x.reg CtxReg.cairnDir ≠ 0 ∧ takes e.x v then (s.modCtx e.t.ctx (fun x => x.setReg off v)).takeSkips e.t.ctx else s
    .ok (s1.retire e e.g)))

/-- A CONS that does not pass PROD. -/
def consFits (x : Context) (v : Word) : Bool :=
  decide ((v - x.reg CtxReg.cairnCons).toNat ≤ (x.reg CtxReg.cairnProd - x.reg CtxReg.cairnCons).toNat)

/-- CRSET.CONS (R370): software's own in recording. -/
def execCrsetCons (g : Pred) (b : KReg) (s : State) : Out :=
  s.crset g CtxReg.cairnCons b (fun x v => x.reg CtxReg.cairnDir == 1 && consFits x v) id

/-- CRSET.THRESH (R370). -/
def execCrsetThresh (g : Pred) (b : KReg) (s : State) : Out := s.crset g CtxReg.cairnThresh b (fun _ _ => true) id

/-- CRSET.PROD (R370): software's own in replay. -/
def execCrsetProd (g : Pred) (b : KReg) (s : State) : Out :=
  s.crset g CtxReg.cairnProd b (fun x _ => x.reg CtxReg.cairnDir == 2) id

/-- CRSET.END (R370). -/
def execCrsetEnd (g : Pred) (b : KReg) (s : State) : Out :=
  s.crset g CtxReg.cairnEnd b (fun _ _ => true) (fun v => v &&& 1)

/-- A CRPOS writes a value of its context to a uniform register (R370). -/
def State.crpos (s : State) (q : Pred) (d : KReg) (f : Env → Word) : Out :=
  s.cairnUnit (fun s => s.privileged q (fun e => .ok (s.retire e (e.g.withRegs (e.g.regs.setK d.val (f e))))))

/-- CRPOS.PROD (R370). -/
def execCrposProd (g : Pred) (d : KReg) (s : State) : Out := s.crpos g d (fun e => e.x.reg CtxReg.cairnProd)

/-- CRPOS.CONS (R370). -/
def execCrposCons (g : Pred) (d : KReg) (s : State) : Out := s.crpos g d (fun e => e.x.reg CtxReg.cairnCons)

/-- A group waits for a ring position or a record beyond CAIRN_PROD: it is parked for one, or its bound has passed and its result has no
position to be recorded at (R362, R370). [DEDUCED, log 26] -/
def Group.waitsRing (g : Group) (s : State) (c : Nat) : Bool :=
  match g.park with
  | some ⟨.ring, _⟩ => true
  | some ⟨.bwait _ (some f) _ _ _, _⟩ | some ⟨.join _ _ (some f), _⟩ =>
    decide (f ≤ s.clk) && !s.cairnRoom c 1 &&
    (match s.team? (g.gid / 32) with | some t => s.recField Rec.mode t == 2 | none => false)
  | _ => false

/-- What was noted to wait still does. -/
def Waiter.lasts (w : Waiter) (s : State) (c : Nat) : Bool :=
  match w with
  | .queue q => (getT s.queues q).any (fun k => k.ctx == c && k.st == .mapped && k.head != k.tail)
  | .launch tid => (getT s.launches tid).any (fun q => q.ctx == c && !q.entries.isEmpty)
  | .unit serial => (s.grid? c serial).any (fun g => !g.dead && decide (g.next < Rec.teams g.bytes))

/-- An event of the context waits for a ring position, or for a record beyond CAIRN_PROD (R362, R370). [DEDUCED, log 26] -/
def stalledNow (s : State) (e : Env) : Bool :=
  e.x.stalled.any (fun w => w.lasts s e.t.ctx) || s.groups.any (fun g => g.waitsRing s e.t.ctx &&
    (match s.team? (g.gid / 32) with | some t => t.ctx == e.t.ctx | none => false))

/-- CRPOS.STATUS (R370). -/
def execCrposStatus (g : Pred) (d : KReg) (s : State) : Out :=
  s.crpos g d (fun e => BitVec.ofNat 32 (
    (e.x.reg CtxReg.cairnDir).toNat % 4 * 2 ^ 30 + (stalledNow s e).toNat * 2 ^ 29 +
    ((e.x.reg CtxReg.cairnEnd).getLsbD 0).toNat * 2 ^ 28 + e.x.diverged.toNat * 2 ^ 27))

end Sys2Proof.Machine
end

