-- ==== Sys2Proof/Machine/Tables.lean ====
section
/-! DEFINITION. Code tables: CTAB.WR, CTAB.SWAP, CTAB.RD (R240, R241). A multiply takes its levels when it issues, so that no
write or swap waits for one. -/

namespace Sys2Proof.Machine

/-- A bank of n 16-bit entries from bytes. -/
def bankOf16 (bs : List Byte) (n : Nat) : BMap 16 := fillB [] 0 n (fun i => BitVec.ofNat 16 (fieldB bs (2 * i) 2))

/-- The tables with a shadow bank written. -/
def CodeTables.write (t : CodeTables) (q8 : Bool) (bs : List Byte) : CodeTables :=
  if q8 then { t with q8Shadow := bankOf16 bs 256 } else { t with q4Shadow := bankOf16 bs 16 }

/-- CTAB.WR (R241). -/
def execCtabWr (g : Pred) (a : KReg) (q8 : Bool) (s : State) : Out :=
  s.uniform g (fun e => do
    let (s1, bs) ← (operandRecord s e a (if q8 then 512 else 32)).mapError (Stop.holding ⟨[], none, [], true⟩)
    .ok ((s1.modTeam e.t.tid (fun t => { t with tables := t.tables.write q8 bs })).retire e e.g))

/-- The Q4P shadow bank becomes live (R240). -/
def CodeTables.swap4 (t : CodeTables) : CodeTables := { t with q4Live := t.q4Shadow, q4Gen := t.q4Gen + 1 }

/-- The Q8P shadow bank becomes live (R240). -/
def CodeTables.swap8 (t : CodeTables) : CodeTables := { t with q8Live := t.q8Shadow, q8Gen := t.q8Gen + 1 }

/-- The tables after a swap (R240). -/
def CodeTables.swap (t : CodeTables) : TableSel → CodeTables
  | .q4p => t.swap4
  | .q8p => t.swap8
  | .both => t.swap4.swap8

/-- CTAB.SWAP (R240, R241), once the team's earlier CTAB.WRs are complete. -/
def execCtabSwap (g : Pred) (sc : TableSel) (s : State) : Out :=
  s.uniform g (fun e => if (holdsOf s e.t.tid e.g.gid).any (·.table) then .error (.park s .load)
    else .ok ((s.modTeam e.t.tid (fun t => { t with tables := t.tables.swap sc })).retire e e.g))

/-- What CTAB.RD returns (R241). -/
def CodeTables.read (t : CodeTables) (gen shadow q8 : Bool) (i : Nat) : Word :=
  if gen then (if q8 then t.q8Gen else t.q4Gen)
  else if q8 then (getB (if shadow then t.q8Shadow else t.q8Live) (i % 256)).setWidth 32
  else (getB (if shadow then t.q4Shadow else t.q4Live) (i % 16)).setWidth 32

/-- CTAB.RD (R241). -/
def execCtabRd (g : Pred) (d a : KReg) (gen shadow q8 : Bool) (s : State) : Out :=
  s.uniform g (fun e => .ok (s.retire e (e.g.withRegs
    (e.g.regs.setK d.val (e.t.tables.read gen shadow q8 (e.g.regs.getK a.val).toNat)))))

end Sys2Proof.Machine
end

