-- ==== Sys2Proof/Machine/Dispatch.lean ====
section
/-! DEFINITION. Dispatch: one arm for each step of the part, each a call of its meaning. -/

namespace Sys2Proof.Machine

def exec (i : Instr) (s : State) : Host.Outcome State Fault Refusal :=
  match i with
  | .iadd g d a b => Sys2Proof.Machine.execIadd g d a b s
  | .isub g d a b => Sys2Proof.Machine.execIsub g d a b s
  | .imul g d a b => Sys2Proof.Machine.execImul g d a b s
  | .imulhS g d a b => Sys2Proof.Machine.execImulhS g d a b s
  | .imulhN g d a b => Sys2Proof.Machine.execImulhN g d a b s
  | .imad g d a b => Sys2Proof.Machine.execImad g d a b s
  | .iaddi g d a lit => Sys2Proof.Machine.execIaddi g d a lit s
  | .iminS g d a b => Sys2Proof.Machine.execIminS g d a b s
  | .iminN g d a b => Sys2Proof.Machine.execIminN g d a b s
  | .imaxS g d a b => Sys2Proof.Machine.execImaxS g d a b s
  | .imaxN g d a b => Sys2Proof.Machine.execImaxN g d a b s
  | .iadd64 g d a b => Sys2Proof.Machine.execIadd64 g d a b s
  | .isub64 g d a b => Sys2Proof.Machine.execIsub64 g d a b s
  | .imadw g d a b => Sys2Proof.Machine.execImadw g d a b s
  | .leai g d m x => Sys2Proof.Machine.execLeai g d m x s
  | .and g d a b => Sys2Proof.Machine.execAnd g d a b s
  | .or g d a b => Sys2Proof.Machine.execOr g d a b s
  | .xor g d a b => Sys2Proof.Machine.execXor g d a b s
  | .not g d a => Sys2Proof.Machine.execNot g d a s
  | .shl g d a b => Sys2Proof.Machine.execShl g d a b s
  | .shrN g d a b => Sys2Proof.Machine.execShrN g d a b s
  | .shrS g d a b => Sys2Proof.Machine.execShrS g d a b s
  | .rotl g d a b => Sys2Proof.Machine.execRotl g d a b s
  | .bfxS g d a b => Sys2Proof.Machine.execBfxS g d a b s
  | .bfxN g d a b => Sys2Proof.Machine.execBfxN g d a b s
  | .bfi g d a b => Sys2Proof.Machine.execBfi g d a b s
  | .popc g d a => Sys2Proof.Machine.execPopc g d a s
  | .clz g d a => Sys2Proof.Machine.execClz g d a s
  | .brev g d a => Sys2Proof.Machine.execBrev g d a s
  | .mov g d a => Sys2Proof.Machine.execMov g d a s
  | .movi g d lit => Sys2Proof.Machine.execMovi g d lit s
  | .icmpS g c p a b => Sys2Proof.Machine.execIcmpS g c p a b s
  | .icmpN g c p a b => Sys2Proof.Machine.execIcmpN g c p a b s
  | .fcmpF32 g c p a b => Sys2Proof.Machine.execFcmpF32 g c p a b s
  | .fcmpF64 g c p a b => Sys2Proof.Machine.execFcmpF64 g c p a b s
  | .icmpiS g c p a lit => Sys2Proof.Machine.execIcmpiS g c p a lit s
  | .icmpiN g c p a lit => Sys2Proof.Machine.execIcmpiN g c p a lit s
  | .plop g lut d a b c => Sys2Proof.Machine.execPlop g lut d a b c s
  | .pmovGet g d => Sys2Proof.Machine.execPmovGet g d s
  | .pmovSet g a => Sys2Proof.Machine.execPmovSet g a s
  | .faddF32 g d a b => Sys2Proof.Machine.execFaddF32 g d a b s
  | .fsubF32 g d a b => Sys2Proof.Machine.execFsubF32 g d a b s
  | .fmulF32 g d a b => Sys2Proof.Machine.execFmulF32 g d a b s
  | .ffmaF32 g d a b => Sys2Proof.Machine.execFfmaF32 g d a b s
  | .fminF32 g d a b => Sys2Proof.Machine.execFminF32 g d a b s
  | .fmaxF32 g d a b => Sys2Proof.Machine.execFmaxF32 g d a b s
  | .faddiF32 g d a lit => Sys2Proof.Machine.execFaddiF32 g d a lit s
  | .fmuliF32 g d a lit => Sys2Proof.Machine.execFmuliF32 g d a lit s
  | .faddF16x2 g d a b => Sys2Proof.Machine.execFaddF16x2 g d a b s
  | .fmulF16x2 g d a b => Sys2Proof.Machine.execFmulF16x2 g d a b s
  | .ffmaF16x2 g d a b => Sys2Proof.Machine.execFfmaF16x2 g d a b s
  | .fminF16x2 g d a b => Sys2Proof.Machine.execFminF16x2 g d a b s
  | .faddBf16x2 g d a b => Sys2Proof.Machine.execFaddBf16x2 g d a b s
  | .fmulBf16x2 g d a b => Sys2Proof.Machine.execFmulBf16x2 g d a b s
  | .ffmaBf16x2 g d a b => Sys2Proof.Machine.execFfmaBf16x2 g d a b s
  | .fminBf16x2 g d a b => Sys2Proof.Machine.execFminBf16x2 g d a b s
  | .faddF64 g d a b => Sys2Proof.Machine.execFaddF64 g d a b s
  | .fsubF64 g d a b => Sys2Proof.Machine.execFsubF64 g d a b s
  | .fmulF64 g d a b => Sys2Proof.Machine.execFmulF64 g d a b s
  | .ffmaF64 g d a b => Sys2Proof.Machine.execFfmaF64 g d a b s
  | .fminF64 g d a b => Sys2Proof.Machine.execFminF64 g d a b s
  | .fmaxF64 g d a b => Sys2Proof.Machine.execFmaxF64 g d a b s
  | .fmaxF16x2 g d a b => Sys2Proof.Machine.execFmaxF16x2 g d a b s
  | .fmaxBf16x2 g d a b => Sys2Proof.Machine.execFmaxBf16x2 g d a b s
  | .frcp g d a => Sys2Proof.Machine.execFrcp g d a s
  | .frsq g d a => Sys2Proof.Machine.execFrsq g d a s
  | .fsqrt g d a => Sys2Proof.Machine.execFsqrt g d a s
  | .fexp2 g d a => Sys2Proof.Machine.execFexp2 g d a s
  | .flog2 g d a => Sys2Proof.Machine.execFlog2 g d a s
  | .fsin g d a => Sys2Proof.Machine.execFsin g d a s
  | .fcos g d a => Sys2Proof.Machine.execFcos g d a s
  | .ftanh g d a => Sys2Proof.Machine.execFtanh g d a s
  | .cvtFi g d a rm n o => Sys2Proof.Machine.execCvtFi g d a rm n o s
  | .cvtIf g d a rm sat n o => Sys2Proof.Machine.execCvtIf g d a rm sat n o s
  | .cvtFf g d a rm sat n o => Sys2Proof.Machine.execCvtFf g d a rm sat n o s
  | .cvtNr g d a b => Sys2Proof.Machine.execCvtNr g d a b s
  | .cvtWd g d a b => Sys2Proof.Machine.execCvtWd g d a b s
  | .frnd g d a rm f64 => Sys2Proof.Machine.execFrnd g d a rm f64 s
  | .fldexp g d a b => Sys2Proof.Machine.execFldexp g d a b s
  | .shfl g d a b => Sys2Proof.Machine.execShfl g d a b s
  | .shflx g d a b => Sys2Proof.Machine.execShflx g d a b s
  | .shflup g d a b => Sys2Proof.Machine.execShflup g d a b s
  | .shfldn g d a b => Sys2Proof.Machine.execShfldn g d a b s
  | .vote g d a m => Sys2Proof.Machine.execVote g d a m s
  | .ballot g d a => Sys2Proof.Machine.execBallot g d a s
  | .lscan g d a o excl => Sys2Proof.Machine.execLscan g d a o excl s
  | .lred g d a o => Sys2Proof.Machine.execLred g d a o s
  | .sreadV g d a => Sys2Proof.Machine.execSreadV g d a s
  | .matchLanes g d a => Sys2Proof.Machine.execMatchLanes g d a s
  | .iabs g d a => Sys2Proof.Machine.execIabs g d a s
  | .ard g d t q => Sys2Proof.Machine.execArd g d t q s
  | .awr g t a q => Sys2Proof.Machine.execAwr g t a q s
  | .bra g o w u => Sys2Proof.Machine.execBra g o w u s
  | .bral g w u lit => Sys2Proof.Machine.execBral g w u lit s
  | .brx g a w u => Sys2Proof.Machine.execBrx g a w u s
  | .call g d o u => Sys2Proof.Machine.execCall g d o u s
  | .callx g d a u => Sys2Proof.Machine.execCallx g d a u s
  | .ret g a u => Sys2Proof.Machine.execRet g a u s
  | .exit g => Sys2Proof.Machine.execExit g s
  | .trap g c => Sys2Proof.Machine.execTrap g c s
  | .ld g d m sz sx h => Sys2Proof.Machine.execLd g d m sz sx h s
  | .st g d m sz h => Sys2Proof.Machine.execSt g d m sz h s
  | .pref g m lv => Sys2Proof.Machine.execPref g m lv s
  | .atomO g d m sc o s64 => Sys2Proof.Machine.execAtomO g d m sc o s64 s
  | .atomU g d m sc o s64 => Sys2Proof.Machine.execAtomU g d m sc o s64 s
  | .redO g d m sc o s64 => Sys2Proof.Machine.execRedO g d m sc o s64 s
  | .redU g d m sc o s64 => Sys2Proof.Machine.execRedU g d m sc o s64 s
  | .uiadd g d a b => Sys2Proof.Machine.execUiadd g d a b s
  | .uisub g d a b => Sys2Proof.Machine.execUisub g d a b s
  | .uimul g d a b => Sys2Proof.Machine.execUimul g d a b s
  | .uimad g d a b => Sys2Proof.Machine.execUimad g d a b s
  | .uiaddi g d a lit => Sys2Proof.Machine.execUiaddi g d a lit s
  | .uiadd64 g d a b => Sys2Proof.Machine.execUiadd64 g d a b s
  | .umov g d a => Sys2Proof.Machine.execUmov g d a s
  | .umovi g d lit => Sys2Proof.Machine.execUmovi g d lit s
  | .uand g d a b => Sys2Proof.Machine.execUand g d a b s
  | .uor g d a b => Sys2Proof.Machine.execUor g d a b s
  | .uxor g d a b => Sys2Proof.Machine.execUxor g d a b s
  | .ushl g d a b => Sys2Proof.Machine.execUshl g d a b s
  | .ushrN g d a b => Sys2Proof.Machine.execUshrN g d a b s
  | .ushrS g d a b => Sys2Proof.Machine.execUshrS g d a b s
  | .uicmpS g c p a b => Sys2Proof.Machine.execUicmpS g c p a b s
  | .uicmpN g c p a b => Sys2Proof.Machine.execUicmpN g c p a b s
  | .uplop g lut d a b c => Sys2Proof.Machine.execUplop g lut d a b c s
  | .ufadd g d a b => Sys2Proof.Machine.execUfadd g d a b s
  | .ufmul g d a b => Sys2Proof.Machine.execUfmul g d a b s
  | .uffma g d a b => Sys2Proof.Machine.execUffma g d a b s
  | .ufcmp g c p a b => Sys2Proof.Machine.execUfcmp g c p a b s
  | .sreadK g d a => Sys2Proof.Machine.execSreadK g d a s
  | .ubfx g d a b => Sys2Proof.Machine.execUbfx g d a b s
  | .unop g => Sys2Proof.Machine.execUnop g s
  | .ubra g o u => Sys2Proof.Machine.execUbra g o u s
  | .ubral g u lit => Sys2Proof.Machine.execUbral g u lit s
  | .yield g => Sys2Proof.Machine.execYield g s
  | .tretRetry g => Sys2Proof.Machine.execTretRetry g s
  | .tretSkip g => Sys2Proof.Machine.execTretSkip g s
  | .utrap g c => Sys2Proof.Machine.execUtrap g c s
  | .kill g => Sys2Proof.Machine.execKill g s
  | .killFail g => Sys2Proof.Machine.execKillFail g s
  | .killSave g => Sys2Proof.Machine.execKillSave g s
  | .fence g eng sc => Sys2Proof.Machine.execFence g eng sc s
  | .binit g a b => Sys2Proof.Machine.execBinit g a b s
  | .barr g d a => Sys2Proof.Machine.execBarr g d a s
  | .barrn g d a b => Sys2Proof.Machine.execBarrn g d a b s
  | .bxpct g a b => Sys2Proof.Machine.execBxpct g a b s
  | .bwait g d a b => Sys2Proof.Machine.execBwait g d a b s
  | .tsync g => Sys2Proof.Machine.execTsync g s
  | .csync g => Sys2Proof.Machine.execCsync g s
  | .cpgs g d a b => Sys2Proof.Machine.execCpgs g d a b s
  | .cpsg g d a b => Sys2Proof.Machine.execCpsg g d a b s
  | .cpgg g d a b => Sys2Proof.Machine.execCpgg g d a b s
  | .cptr g d a b => Sys2Proof.Machine.execCptr g d a b s
  | .cpga g d a b => Sys2Proof.Machine.execCpga g d a b s
  | .cpmc g d a b => Sys2Proof.Machine.execCpmc g d a b s
  | .cpmcr g d a => Sys2Proof.Machine.execCpmcr g d a s
  | .cpwait g d a m => Sys2Proof.Machine.execCpwait g d a m s
  | .bufget g d a => Sys2Proof.Machine.execBufget g d a s
  | .bufput g a => Sys2Proof.Machine.execBufput g a s
  | .bufwait g a sc => Sys2Proof.Machine.execBufwait g a sc s
  | .bufq g d a => Sys2Proof.Machine.execBufq g d a s
  | .shnew g d a => Sys2Proof.Machine.execShnew g d a s
  | .shfree g a => Sys2Proof.Machine.execShfree g a s
  | .hrowUp g d a n => Sys2Proof.Machine.execHrowUp g d a n s
  | .hrowDn g d a n => Sys2Proof.Machine.execHrowDn g d a n s
  | .hrowQ g d a => Sys2Proof.Machine.execHrowQ g d a s
  | .mmab g t c r a b => Sys2Proof.Machine.execMmab g t c r a b s
  | .mmao g t c r a b => Sys2Proof.Machine.execMmao g t c r a b s
  | .mmag g t c r a b => Sys2Proof.Machine.execMmag g t c r a b s
  | .dmma g t c r ob a b => Sys2Proof.Machine.execDmma g t c r ob a b s
  | .aclr g t n => Sys2Proof.Machine.execAclr g t n s
  | .ald g t a b => Sys2Proof.Machine.execAld g t a b s
  | .ast g t a b => Sys2Proof.Machine.execAst g t a b s
  | .obres g d a => Sys2Proof.Machine.execObres g d a s
  | .obfree g a => Sys2Proof.Machine.execObfree g a s
  | .obld g d a => Sys2Proof.Machine.execObld g d a s
  | .rsalloc g d a => Sys2Proof.Machine.execRsalloc g d a s
  | .rsfill g a => Sys2Proof.Machine.execRsfill g a s
  | .rspin g a => Sys2Proof.Machine.execRspin g a s
  | .rsunpin g a => Sys2Proof.Machine.execRsunpin g a s
  | .rsrev g a => Sys2Proof.Machine.execRsrev g a s
  | .rsq g d a => Sys2Proof.Machine.execRsq g d a s
  | .ctabWr g a q8 => Sys2Proof.Machine.execCtabWr g a q8 s
  | .ctabSwap g sc => Sys2Proof.Machine.execCtabSwap g sc s
  | .ctabRd g d a gen shadow q8 => Sys2Proof.Machine.execCtabRd g d a gen shadow q8 s
  | .launch g a => Sys2Proof.Machine.execLaunch g a s
  | .launchNb g d a => Sys2Proof.Machine.execLaunchNb g d a s
  | .lwait g d a b => Sys2Proof.Machine.execLwait g d a b s
  | .lpoll g d a => Sys2Proof.Machine.execLpoll g d a s
  | .spurFork g d a => Sys2Proof.Machine.execSpurFork g d a s
  | .spurJoin g d a b => Sys2Proof.Machine.execSpurJoin g d a b s
  | .spurCancel g d a => Sys2Proof.Machine.execSpurCancel g d a s
  | .spurQ g d a => Sys2Proof.Machine.execSpurQ g d a s
  | .sysrd g d a => Sys2Proof.Machine.execSysrd g d a s
  | .syswr g a b => Sys2Proof.Machine.execSyswr g a b s
  | .xprobe g d a b => Sys2Proof.Machine.execXprobe g d a b s
  | .xinval g e a b => Sys2Proof.Machine.execXinval g e a b s
  | .crsetCons g b => Sys2Proof.Machine.execCrsetCons g b s
  | .crsetThresh g b => Sys2Proof.Machine.execCrsetThresh g b s
  | .crsetProd g b => Sys2Proof.Machine.execCrsetProd g b s
  | .crsetEnd g b => Sys2Proof.Machine.execCrsetEnd g b s
  | .crposProd g d => Sys2Proof.Machine.execCrposProd g d s
  | .crposCons g d => Sys2Proof.Machine.execCrposCons g d s
  | .crposStatus g d => Sys2Proof.Machine.execCrposStatus g d s
  | .lmark g a tag => Sys2Proof.Machine.execLmark g a tag s
  | .uld g d m sz sx h => Sys2Proof.Machine.execUld g d m sz sx h s
  | .ust g d m sz h => Sys2Proof.Machine.execUst g d m sz h s
  | .dvsave g m v95 => Sys2Proof.Machine.execDvsave g m v95 s
  | .dvload g m v95 => Sys2Proof.Machine.execDvload g m v95 s
  | .pageFaultRunahead gid => Sys2Proof.Machine.execPageFaultRunahead gid s
  | .faultBatchPost gid => Sys2Proof.Machine.execFaultBatchPost gid s
  | .memReply tag st data => Sys2Proof.Machine.execMemReply tag st data s
  | .controllerRequest r e => Sys2Proof.Machine.execControllerRequest r e s
  | .hwPromote stack page => Sys2Proof.Machine.execHwPromote stack page s
  | .promotionDone stack page => Sys2Proof.Machine.execPromotionDone stack page s
  | .writeBackDone stack page => Sys2Proof.Machine.execWriteBackDone stack page s
  | .patrolScrub stack fixed bad => Sys2Proof.Machine.execPatrolScrub stack fixed bad s
  | .dieFailing stack die => Sys2Proof.Machine.execDieFailing stack die s
  | .bankHot stack bank => Sys2Proof.Machine.execBankHot stack bank s
  | .remapStart stack val => Sys2Proof.Machine.execRemapStart stack val s
  | .remapPageMoved stack => Sys2Proof.Machine.execRemapPageMoved stack s
  | .remapDone stack => Sys2Proof.Machine.execRemapDone stack s
  | .crestWinWrite stack val => Sys2Proof.Machine.execCrestWinWrite stack val s
  | .crestWinDone stack => Sys2Proof.Machine.execCrestWinDone stack s
  | .hbLostclr stack val => Sys2Proof.Machine.execHbLostclr stack val s
  | .hbCeClear stack val => Sys2Proof.Machine.execHbCeClear stack val s
  | .walkDone ctx spur va => Sys2Proof.Machine.execWalkDone ctx spur va s
  | .copyJobStart job => Sys2Proof.Machine.execCopyJobStart job s
  | .copyItem job item => Sys2Proof.Machine.execCopyItem job item s
  | .parkRelease gid => Sys2Proof.Machine.execParkRelease gid s
  | .mmaRetire tid => Sys2Proof.Machine.execMmaRetire tid s
  | .residencyLoadDone core ctx slot => Sys2Proof.Machine.execResidencyLoadDone core ctx slot s
  | .bwaitTimeout gid => Sys2Proof.Machine.execBwaitTimeout gid s
  | .joinTimeout gid => Sys2Proof.Machine.execJoinTimeout gid s
  | .lwaitWake gid => Sys2Proof.Machine.execLwaitWake gid s
  | .swapOut tid => Sys2Proof.Machine.execSwapOut tid s
  | .launchAccept tid => Sys2Proof.Machine.execLaunchAccept tid s
  | .dispatch => Sys2Proof.Machine.execDispatch s
  | .backfillStop => Sys2Proof.Machine.execBackfillStop s
  | .dispatchPreempt => Sys2Proof.Machine.execDispatchPreempt s
  | .gridComplete ctx serial => Sys2Proof.Machine.execGridComplete ctx serial s
  | .reductionDrain ctx serial => Sys2Proof.Machine.execReductionDrain ctx serial s
  | .ticketPass ctx serial => Sys2Proof.Machine.execTicketPass ctx serial s
  | .spurReclaimDone ctx slot => Sys2Proof.Machine.execSpurReclaimDone ctx slot s
  | .preemptDeadline tid => Sys2Proof.Machine.execPreemptDeadline tid s
  | .cutComplete tid => Sys2Proof.Machine.execCutComplete tid s
  | .saveTimeout gid => Sys2Proof.Machine.execSaveTimeout gid s
  | .teamRestore tid => Sys2Proof.Machine.execTeamRestore tid s
  | .sensorSample core temp outlet => Sys2Proof.Machine.execSensorSample core temp outlet s
  | .screeDecision column => Sys2Proof.Machine.execScreeDecision column s
  | .migrationStart column => Sys2Proof.Machine.execMigrationStart column s
  | .migrationDeferExpiry column => Sys2Proof.Machine.execMigrationDeferExpiry column s
  | .migrationDone column => Sys2Proof.Machine.execMigrationDone column s
  | .balanceWindow massif rail load => Sys2Proof.Machine.execBalanceWindow massif rail load s
  | .clockPointChange point => Sys2Proof.Machine.execClockPointChange point s
  | .powerEnforce power => Sys2Proof.Machine.execPowerEnforce power s
  | .thermEmerg => Sys2Proof.Machine.execThermEmerg s
  | .emergDeadline => Sys2Proof.Machine.execEmergDeadline s
  | .emergRailsOff => Sys2Proof.Machine.execEmergRailsOff s
  | .thermResume val => Sys2Proof.Machine.execThermResume val s
  | .pwrCap val => Sys2Proof.Machine.execPwrCap val s
  | .leaseExpired => Sys2Proof.Machine.execLeaseExpired s
  | .logicalClockAdvance => Sys2Proof.Machine.execLogicalClockAdvance s
  | .queueNotify fn queue val => Sys2Proof.Machine.execQueueNotify fn queue val s
  | .queueLaunchCommand queue => Sys2Proof.Machine.execQueueLaunchCommand queue s
  | .queueWaitCommand queue => Sys2Proof.Machine.execQueueWaitCommand queue s
  | .queueSequence queue => Sys2Proof.Machine.execQueueSequence queue s
  | .queueMap => Sys2Proof.Machine.execQueueMap s
  | .queueEvict => Sys2Proof.Machine.execQueueEvict s
  | .queueIdle queue => Sys2Proof.Machine.execQueueIdle queue s
  | .qregRegister fn ctx val => Sys2Proof.Machine.execQregRegister fn ctx val s
  | .qregUnregister fn ctx val => Sys2Proof.Machine.execQregUnregister fn ctx val s
  | .qregReset fn ctx val => Sys2Proof.Machine.execQregReset fn ctx val s
  | .hostInvalidate fn ctx val => Sys2Proof.Machine.execHostInvalidate fn ctx val s
  | .hostInvalidateDone ctx => Sys2Proof.Machine.execHostInvalidateDone ctx s
  | .contextCreate fn ctx val => Sys2Proof.Machine.execContextCreate fn ctx val s
  | .contextDestroy fn ctx val => Sys2Proof.Machine.execContextDestroy fn ctx val s
  | .ctxDown ctx => Sys2Proof.Machine.execCtxDown ctx s
  | .preemptRequest fn ctx val => Sys2Proof.Machine.execPreemptRequest fn ctx val s
  | .tqConsWrite fn ctx val => Sys2Proof.Machine.execTqConsWrite fn ctx val s
  | .tqReplay fn ctx val => Sys2Proof.Machine.execTqReplay fn ctx val s
  | .tqAbandon fn ctx val => Sys2Proof.Machine.execTqAbandon fn ctx val s
  | .poolPush fn ctx val => Sys2Proof.Machine.execPoolPush fn ctx val s
  | .cairnDirWrite fn ctx val => Sys2Proof.Machine.execCairnDirWrite fn ctx val s
  | .cairnConsWrite fn ctx val => Sys2Proof.Machine.execCairnConsWrite fn ctx val s
  | .cairnProdWrite fn ctx val => Sys2Proof.Machine.execCairnProdWrite fn ctx val s
  | .evqConsWrite fn val => Sys2Proof.Machine.execEvqConsWrite fn val s
  | .registerWrite fn off val => Sys2Proof.Machine.execRegisterWrite fn off val s
  | .hostBar4Read off len => Sys2Proof.Machine.execHostBar4Read off len s
  | .hostBar4Write off data => Sys2Proof.Machine.execHostBar4Write off data s
  | .hostTimeout tag => Sys2Proof.Machine.execHostTimeout tag s
  | .pcieDown lost => Sys2Proof.Machine.execPcieDown lost s
  | .peerRequest chip r => Sys2Proof.Machine.execPeerRequest chip r s
  | .peerTimeout tag => Sys2Proof.Machine.execPeerTimeout tag s
  | .linkDown port => Sys2Proof.Machine.execLinkDown port s
  | .linkUp port peer => Sys2Proof.Machine.execLinkUp port peer s
  | .portDisable port => Sys2Proof.Machine.execPortDisable port s
  | .keyRollover port tx => Sys2Proof.Machine.execKeyRollover port tx s
  | .spdmRequest viaPort code => Sys2Proof.Machine.execSpdmRequest viaPort code s
  | .coldReset => Sys2Proof.Machine.execColdReset s
  | .warmReset => Sys2Proof.Machine.execWarmReset s
  | .vfFlr fn => Sys2Proof.Machine.execVfFlr fn s
  | .startupDone => Sys2Proof.Machine.execStartupDone s
  | .lcWriteImage val => Sys2Proof.Machine.execLcWriteImage val s
  | .lcWriteImageDone img => Sys2Proof.Machine.execLcWriteImageDone img s
  | .lcSubmitToken val tok => Sys2Proof.Machine.execLcSubmitToken val tok s
  | .lcFetchNonce val entropy ok => Sys2Proof.Machine.execLcFetchNonce val entropy ok s
  | .illegalOpcode => Sys2Proof.Machine.execIllegalOpcode s
  | .fetchFault => Sys2Proof.Machine.execFetchFault s
  | .hostAtomicop off op s64 x c => Sys2Proof.Machine.execHostAtomicop off op s64 x c s
  | .cairnEndWrite fn ctx val => Sys2Proof.Machine.execCairnEndWrite fn ctx val s
  | .evqPendClear fn val => Sys2Proof.Machine.execEvqPendClear fn val s

end Sys2Proof.Machine
end

