-- ==== Sys2Proof/Machine/Step.lean ====
section
/-! DEFINITION. The step of the part: the first move of the agenda, or the move the part makes by itself. -/

namespace Sys2Proof.Machine

/-- The instruction that was prepared, or the state in which the step is over. [DESIGN CHOICE, log 9] -/
def runPrepared : Prepared → Host.Outcome State Fault Refusal
  | .exec i s => exec i s
  | .done s => .next s

/-- One move. [DESIGN CHOICE, log 7; DESIGN CHOICE, log 10] -/
def runMove (s : State) : Move → Host.Outcome State Fault Refusal
  | .issue gid => runPrepared (prepare s gid)
  | .part gid p => runPrepared (prepare { s with part := some p } gid)
  | .alone gid lane => runPrepared (prepareAlone s gid lane)
  | .event i => exec i { s with cur := none }
  | .partly i p => exec i { s with cur := none, part := some p }
  | .land n => .next (s.landNth n)
  | .tick n => .next (s.pass n)

/-- The moves that a group offers: its next instruction, and a lane's from its loop buffer (R188). [DESIGN CHOICE, log 8] -/
def groupIssues (g : Group) : List (State → Out) :=
  (fun s => runPrepared (prepare s g.gid)) ::
  g.loops.map (fun (l : Nat × LoopBuf) => fun (s : State) => runPrepared (prepareAlone s g.gid l.1))

/-- Every move open to the part by itself. [DESIGN CHOICE, log 8] -/
def State.offers (s : State) : List (State → Out) := s.groups.flatMap groupIssues ++ s.acts

/-- What happens while the agenda is empty: a clk passes, and one of the moves happens or none; they take turns by clk, and
what chooses is outside the model. [DESIGN CHOICE, log 8] -/
def State.idle (s : State) : Out :=
  let s1 := { s.pass 1 with cur := none }
  match s.offers[s.clk % (s.offers.length + 1)]? with
  | some f => f s1
  | none => .next s1

/-- One step: the next move of the agenda, whole unless it names a part, or what the part does by itself. [DESIGN CHOICE, log 7] -/
def step (s : State) : Host.Outcome State Fault Refusal :=
  match s.agenda with
  | m :: t => runMove { s with agenda := t, part := none } m
  | [] => { s with part := none }.idle

/-- The state with an instruction loaded where the next step fetches: its nbits bits of w, every bit above them zero.
[DESIGN CHOICE, log 6] -/
def State.withFetchWord (s : State) (nbits w : Nat) : State :=
  s.load (leBytes 8 (w % 2 ^ nbits))

end Sys2Proof.Machine
end

