-- ==== Sys2Proof/Laws/PerInstr.lean ====
section
/-! SUPPORT. Statements about every instruction as syntax, constructor by constructor: the family Encoding says that decoding the
words of a well-formed instruction gives it back. -/

set_option Elab.async false

namespace Sys2Proof

@[simp] theorem vreg?_val (r : VReg) : vreg? r.val = some r := by unfold vreg?; rw [dif_pos r.isLt]

@[simp] theorem kreg?_val (r : KReg) : kreg? (96 + r.val) = some r := by
  unfold kreg?
  rw [dif_pos ⟨by omega, by have := r.isLt; omega⟩]
  simp

theorem Src.code_lt (s : Src) : s.code < 128 := by
  cases s with
  | v r => exact Nat.lt_trans r.isLt (by decide)
  | k r => exact Nat.add_lt_add_left r.isLt 96

@[simp] theorem src?_code (s : Src) : src? s.code = some s := by
  cases s with
  | v r => unfold src? Src.code; rw [if_pos r.isLt]; simp [vreg?_val]
  | k r => unfold src? Src.code; rw [if_neg (by show ¬(96 + r.val < 96); omega)]; simp [kreg?_val]

theorem Cond.code_lt (c : Cond) : c.code < 8 := by cases c <;> decide

@[simp] theorem cond?_code (c : Cond) : cond? c.code = some c := by cases c <;> rfl

theorem VoteMode.code_lt (c : VoteMode) : c.code < 4 := by cases c <;> decide

@[simp] theorem voteMode?_code (c : VoteMode) : voteMode? c.code = some c := by cases c <;> rfl

theorem Scope.code_lt (c : Scope) : c.code < 8 := by cases c <;> decide

@[simp] theorem scope?_code (c : Scope) : scope? c.code = some c := by cases c <;> rfl

theorem AtomOp.code_lt (c : AtomOp) : c.code < 16 := by cases c <;> decide

@[simp] theorem atomOp?_code (c : AtomOp) : atomOp? c.code = some c := by cases c <;> rfl

theorem MemSize.code_lt (c : MemSize) : c.code < 8 := by cases c <;> decide

@[simp] theorem memSize?_code (c : MemSize) : memSize? c.code = some c := by cases c <;> rfl

theorem Hint.code_lt (c : Hint) : c.code < 4 := by cases c <;> decide

@[simp] theorem hint?_code (c : Hint) : hint? c.code = some c := by cases c <;> rfl

theorem PrefLevel.code_lt (c : PrefLevel) : c.code < 4 := by cases c <;> decide

@[simp] theorem prefLevel?_code (c : PrefLevel) : prefLevel? c.code = some c := by cases c <;> rfl

theorem Granule.code_lt (c : Granule) : c.code < 4 := by cases c <;> decide

@[simp] theorem granule?_code (c : Granule) : granule? c.code = some c := by cases c <;> rfl

theorem CopyEvent.code_lt (c : CopyEvent) : c.code < 4 := by cases c <;> decide

@[simp] theorem copyEvent?_code (c : CopyEvent) : copyEvent? c.code = some c := by cases c <;> rfl

theorem BufState.code_lt (c : BufState) : c.code < 4 := by cases c <;> decide

@[simp] theorem bufState?_code (c : BufState) : bufState? c.code = some c := by cases c <;> rfl

theorem TableSel.code_lt (c : TableSel) : c.code < 4 := by cases c <;> decide

@[simp] theorem tableSel?_code (c : TableSel) : tableSel? c.code = some c := by cases c <;> rfl

theorem SReg.code_lt (c : SReg) : c.code < 128 := by cases c <;> decide

@[simp] theorem sreg?_code (c : SReg) : sreg? c.code = some c := by cases c <;> rfl

theorem SysReg.code_lt (c : SysReg) : c.code < 128 := by cases c <;> decide

@[simp] theorem sysReg?_code (c : SysReg) : sysReg? c.code = some c := by cases c <;> rfl

theorem RMode.code_lt (c : RMode) : c.code < 4 := by cases c <;> decide

@[simp] theorem rmode_code (c : RMode) : rmode c.code = c := by cases c <;> rfl

theorem IntTy.code_lt (c : IntTy) : c.code < 4 := by cases c <;> decide

@[simp] theorem intTy_code (c : IntTy) : intTy c.code = c := by cases c <;> rfl

theorem FltTy.code_lt (c : FltTy) : c.code < 4 := by cases c <;> decide

@[simp] theorem fltTy_code (c : FltTy) : fltTy c.code = c := by cases c <;> rfl

theorem ScanOp.code_lt (c : ScanOp) : c.code < 8 := by cases c <;> decide

@[simp] theorem scanOp_code (c : ScanOp) : scanOp c.code = c := by cases c <;> rfl

@[simp] theorem bool_code (b : Bool) : (b.toNat == 1) = b := by cases b <;> rfl

@[simp] theorem lut_code (x : BitVec 8) : BitVec.ofNat 8 (x.toNat / 16 * 16 + x.toNat % 16) = x := by
  apply BitVec.eq_of_toNat_eq
  rw [BitVec.toNat_ofNat]
  have := x.isLt
  omega

@[simp] theorem pred_code (p : Pred) : Fin.ofNat 8 p.val = p := by
  apply Fin.ext; simp only [Fin.ofNat]; exact Nat.mod_eq_of_lt p.isLt

namespace Laws.Encoding

/-- Decoding the words of a well-formed instruction gives it back, with every operand; the words fit 32 bits, and there is a
literal exactly for the opcodes marked L (R29, R30, R39, R43). -/
def Statement (i : Instr) : Prop :=
  wellFormed i = true → ∀ w l, encode i = some (w, l) →
    decodeWords w (l.getD 0) = .instr i ∧ w < 4294967296 ∧ l.getD 0 < 4294967296 ∧ isLong (opcodeOf w) = l.isSome

theorem fields4 {w : Nat} (op g d a b : Nat) (ho : op < 256) (hg : g < 8) (hd : d < 128) (ha : a < 128) (hb : b < 128)
    (hw : w = op * 16777216 + g * 2097152 + d * 16384 + a * 128 + b) :
    opcodeOf w = op ∧ bits w 21 3 = g ∧ bits w 14 7 = d ∧ bits w 7 7 = a ∧ bits w 0 7 = b ∧ w < 4294967296 := by
  unfold opcodeOf bits
  refine ⟨?_, ?_, ?_, ?_, ?_, ?_⟩ <;> omega

theorem of_row {w n : Nat} {l : Option Nat} {f : Nat → Nat → Option Instr} {i : Instr} (ho : opcodeOf w = n)
    (hr : rowOf n = some f) (hf : f w (l.getD 0) = some i) (hw : w < 4294967296) (hl : l.getD 0 < 4294967296)
    (hs : isLong (opcodeOf w) = l.isSome) :
    decodeWords w (l.getD 0) = .instr i ∧ w < 4294967296 ∧ l.getD 0 < 4294967296 ∧ isLong (opcodeOf w) = l.isSome := by
  refine ⟨?_, hw, hl, hs⟩
  unfold decodeWords
  rw [ho, hr]
  simp only [hf]

theorem iadd (g : Pred) (d : VReg) (a : Src) (b : Src) : Statement (.iadd g d a b) := by
  intro hw iw il he
  simp only [encode, Option.some.injEq, Prod.mk.injEq] at he
  obtain ⟨hW, hL⟩ := he
  have := g.isLt
  have := d.isLt
  have := Src.code_lt a
  have := Src.code_lt b
  subst hL
  obtain ⟨ho, q0, q1, q2, q3, hlt⟩ := fields4 (w := iw) 1 (g.val) (d.val) (a.code) (b.code) (by omega) (by omega) (by omega) (by omega) (by omega) (by omega)
  exact of_row ho rfl (by simp [decIadd, q0, q1, q2, q3, checked, hw]) (by exact hlt) (by simp) (by rw [ho]; rfl)

theorem isub (g : Pred) (d : VReg) (a : Src) (b : Src) : Statement (.isub g d a b) := by
  intro hw iw il he
  simp only [encode, Option.some.injEq, Prod.mk.injEq] at he
  obtain ⟨hW, hL⟩ := he
  have := g.isLt
  have := d.isLt
  have := Src.code_lt a
  have := Src.code_lt b
  subst hL
  obtain ⟨ho, q0, q1, q2, q3, hlt⟩ := fields4 (w := iw) 2 (g.val) (d.val) (a.code) (b.code) (by omega) (by omega) (by omega) (by omega) (by omega) (by omega)
  exact of_row ho rfl (by simp [decIsub, q0, q1, q2, q3, checked, hw]) (by exact hlt) (by simp) (by rw [ho]; rfl)

theorem imul (g : Pred) (d : VReg) (a : Src) (b : Src) : Statement (.imul g d a b) := by
  intro hw iw il he
  simp only [encode, Option.some.injEq, Prod.mk.injEq] at he
  obtain ⟨hW, hL⟩ := he
  have := g.isLt
  have := d.isLt
  have := Src.code_lt a
  have := Src.code_lt b
  subst hL
  obtain ⟨ho, q0, q1, q2, q3, hlt⟩ := fields4 (w := iw) 3 (g.val) (d.val) (a.code) (b.code) (by omega) (by omega) (by omega) (by omega) (by omega) (by omega)
  exact of_row ho rfl (by simp [decImul, q0, q1, q2, q3, checked, hw]) (by exact hlt) (by simp) (by rw [ho]; rfl)

theorem imulhS (g : Pred) (d : VReg) (a : Src) (b : Src) : Statement (.imulhS g d a b) := by
  intro hw iw il he
  simp only [encode, Option.some.injEq, Prod.mk.injEq] at he
  obtain ⟨hW, hL⟩ := he
  have := g.isLt
  have := d.isLt
  have := Src.code_lt a
  have := Src.code_lt b
  subst hL
  obtain ⟨ho, q0, q1, q2, q3, hlt⟩ := fields4 (w := iw) 4 (g.val) (d.val) (a.code) (b.code) (by omega) (by omega) (by omega) (by omega) (by omega) (by omega)
  exact of_row ho rfl (by simp [decImulhS, q0, q1, q2, q3, checked, hw]) (by exact hlt) (by simp) (by rw [ho]; rfl)

theorem imulhN (g : Pred) (d : VReg) (a : Src) (b : Src) : Statement (.imulhN g d a b) := by
  intro hw iw il he
  simp only [encode, Option.some.injEq, Prod.mk.injEq] at he
  obtain ⟨hW, hL⟩ := he
  have := g.isLt
  have := d.isLt
  have := Src.code_lt a
  have := Src.code_lt b
  subst hL
  obtain ⟨ho, q0, q1, q2, q3, hlt⟩ := fields4 (w := iw) 5 (g.val) (d.val) (a.code) (b.code) (by omega) (by omega) (by omega) (by omega) (by omega) (by omega)
  exact of_row ho rfl (by simp [decImulhN, q0, q1, q2, q3, checked, hw]) (by exact hlt) (by simp) (by rw [ho]; rfl)

theorem imad (g : Pred) (d : VReg) (a : Src) (b : Src) : Statement (.imad g d a b) := by
  intro hw iw il he
  simp only [encode, Option.some.injEq, Prod.mk.injEq] at he
  obtain ⟨hW, hL⟩ := he
  have := g.isLt
  have := d.isLt
  have := Src.code_lt a
  have := Src.code_lt b
  subst hL
  obtain ⟨ho, q0, q1, q2, q3, hlt⟩ := fields4 (w := iw) 6 (g.val) (d.val) (a.code) (b.code) (by omega) (by omega) (by omega) (by omega) (by omega) (by omega)
  exact of_row ho rfl (by simp [decImad, q0, q1, q2, q3, checked, hw]) (by exact hlt) (by simp) (by rw [ho]; rfl)

theorem iaddi (g : Pred) (d : VReg) (a : Src) (lit : Word) : Statement (.iaddi g d a lit) := by
  intro hw iw il he
  simp only [encode, Option.some.injEq, Prod.mk.injEq] at he
  obtain ⟨hW, hL⟩ := he
  have := g.isLt
  have := d.isLt
  have := Src.code_lt a
  have := lit.isLt
  obtain ⟨z, hz⟩ : ∃ z, z = lit.toNat := ⟨_, rfl⟩
  rw [← hz] at hL
  subst hL
  obtain ⟨ho, q0, q1, q2, q3, hlt⟩ := fields4 (w := iw) 7 (g.val) (d.val) (a.code) (0) (by omega) (by omega) (by omega) (by omega) (by omega) (by omega)
  exact of_row ho rfl (by simp [decIaddi, q0, q1, q2, q3, checked, hw, hz]) (by exact hlt) (by simp; omega) (by rw [ho]; rfl)

theorem iminS (g : Pred) (d : VReg) (a : Src) (b : Src) : Statement (.iminS g d a b) := by
  intro hw iw il he
  simp only [encode, Option.some.injEq, Prod.mk.injEq] at he
  obtain ⟨hW, hL⟩ := he
  have := g.isLt
  have := d.isLt
  have := Src.code_lt a
  have := Src.code_lt b
  subst hL
  obtain ⟨ho, q0, q1, q2, q3, hlt⟩ := fields4 (w := iw) 8 (g.val) (d.val) (a.code) (b.code) (by omega) (by omega) (by omega) (by omega) (by omega) (by omega)
  exact of_row ho rfl (by simp [decIminS, q0, q1, q2, q3, checked, hw]) (by exact hlt) (by simp) (by rw [ho]; rfl)

theorem iminN (g : Pred) (d : VReg) (a : Src) (b : Src) : Statement (.iminN g d a b) := by
  intro hw iw il he
  simp only [encode, Option.some.injEq, Prod.mk.injEq] at he
  obtain ⟨hW, hL⟩ := he
  have := g.isLt
  have := d.isLt
  have := Src.code_lt a
  have := Src.code_lt b
  subst hL
  obtain ⟨ho, q0, q1, q2, q3, hlt⟩ := fields4 (w := iw) 9 (g.val) (d.val) (a.code) (b.code) (by omega) (by omega) (by omega) (by omega) (by omega) (by omega)
  exact of_row ho rfl (by simp [decIminN, q0, q1, q2, q3, checked, hw]) (by exact hlt) (by simp) (by rw [ho]; rfl)

theorem imaxS (g : Pred) (d : VReg) (a : Src) (b : Src) : Statement (.imaxS g d a b) := by
  intro hw iw il he
  simp only [encode, Option.some.injEq, Prod.mk.injEq] at he
  obtain ⟨hW, hL⟩ := he
  have := g.isLt
  have := d.isLt
  have := Src.code_lt a
  have := Src.code_lt b
  subst hL
  obtain ⟨ho, q0, q1, q2, q3, hlt⟩ := fields4 (w := iw) 10 (g.val) (d.val) (a.code) (b.code) (by omega) (by omega) (by omega) (by omega) (by omega) (by omega)
  exact of_row ho rfl (by simp [decImaxS, q0, q1, q2, q3, checked, hw]) (by exact hlt) (by simp) (by rw [ho]; rfl)

theorem imaxN (g : Pred) (d : VReg) (a : Src) (b : Src) : Statement (.imaxN g d a b) := by
  intro hw iw il he
  simp only [encode, Option.some.injEq, Prod.mk.injEq] at he
  obtain ⟨hW, hL⟩ := he
  have := g.isLt
  have := d.isLt
  have := Src.code_lt a
  have := Src.code_lt b
  subst hL
  obtain ⟨ho, q0, q1, q2, q3, hlt⟩ := fields4 (w := iw) 11 (g.val) (d.val) (a.code) (b.code) (by omega) (by omega) (by omega) (by omega) (by omega) (by omega)
  exact of_row ho rfl (by simp [decImaxN, q0, q1, q2, q3, checked, hw]) (by exact hlt) (by simp) (by rw [ho]; rfl)

theorem iadd64 (g : Pred) (d : VReg) (a : Src) (b : Src) : Statement (.iadd64 g d a b) := by
  intro hw iw il he
  simp only [encode, Option.some.injEq, Prod.mk.injEq] at he
  obtain ⟨hW, hL⟩ := he
  have := g.isLt
  have := d.isLt
  have := Src.code_lt a
  have := Src.code_lt b
  subst hL
  obtain ⟨ho, q0, q1, q2, q3, hlt⟩ := fields4 (w := iw) 12 (g.val) (d.val) (a.code) (b.code) (by omega) (by omega) (by omega) (by omega) (by omega) (by omega)
  exact of_row ho rfl (by simp [decIadd64, q0, q1, q2, q3, checked, hw]) (by exact hlt) (by simp) (by rw [ho]; rfl)

theorem isub64 (g : Pred) (d : VReg) (a : Src) (b : Src) : Statement (.isub64 g d a b) := by
  intro hw iw il he
  simp only [encode, Option.some.injEq, Prod.mk.injEq] at he
  obtain ⟨hW, hL⟩ := he
  have := g.isLt
  have := d.isLt
  have := Src.code_lt a
  have := Src.code_lt b
  subst hL
  obtain ⟨ho, q0, q1, q2, q3, hlt⟩ := fields4 (w := iw) 13 (g.val) (d.val) (a.code) (b.code) (by omega) (by omega) (by omega) (by omega) (by omega) (by omega)
  exact of_row ho rfl (by simp [decIsub64, q0, q1, q2, q3, checked, hw]) (by exact hlt) (by simp) (by rw [ho]; rfl)

theorem imadw (g : Pred) (d : VReg) (a : Src) (b : Src) : Statement (.imadw g d a b) := by
  intro hw iw il he
  simp only [encode, Option.some.injEq, Prod.mk.injEq] at he
  obtain ⟨hW, hL⟩ := he
  have := g.isLt
  have := d.isLt
  have := Src.code_lt a
  have := Src.code_lt b
  subst hL
  obtain ⟨ho, q0, q1, q2, q3, hlt⟩ := fields4 (w := iw) 14 (g.val) (d.val) (a.code) (b.code) (by omega) (by omega) (by omega) (by omega) (by omega) (by omega)
  exact of_row ho rfl (by simp [decImadw, q0, q1, q2, q3, checked, hw]) (by exact hlt) (by simp) (by rw [ho]; rfl)

theorem leai (g : Pred) (d : VReg) (m : LaneMem) (x : BitVec 3) : Statement (.leai g d m x) := by
  intro hw iw il he
  simp only [encode, Option.some.injEq, Prod.mk.injEq] at he
  obtain ⟨hW, hL⟩ := he
  have := g.isLt
  have := d.isLt
  have := Src.code_lt m.base
  have := Src.code_lt m.index
  have := m.off.isLt
  have := x.isLt
  obtain ⟨z, hz⟩ : ∃ z, z = m.off.toNat * 256 + x.toNat := ⟨_, rfl⟩
  rw [← hz] at hL
  subst hL
  obtain ⟨ho, q0, q1, q2, q3, hlt⟩ := fields4 (w := iw) 15 (g.val) (d.val) (m.base.code) (m.index.code) (by omega) (by omega) (by omega) (by omega) (by omega) (by omega)
  have f0 : bits z 3 5 = 0 := by unfold bits; omega
  have f5 : bits z 8 24 = m.off.toNat := by unfold bits; omega
  have f6 : bits z 0 3 = x.toNat := by unfold bits; omega
  exact of_row ho rfl (by simp [decLeai, laneMem?, q0, q1, q2, q3, f0, f5, f6, checked, hw]) (by exact hlt) (by simp; omega) (by rw [ho]; rfl)

theorem and (g : Pred) (d : VReg) (a : Src) (b : Src) : Statement (.and g d a b) := by
  intro hw iw il he
  simp only [encode, Option.some.injEq, Prod.mk.injEq] at he
  obtain ⟨hW, hL⟩ := he
  have := g.isLt
  have := d.isLt
  have := Src.code_lt a
  have := Src.code_lt b
  subst hL
  obtain ⟨ho, q0, q1, q2, q3, hlt⟩ := fields4 (w := iw) 16 (g.val) (d.val) (a.code) (b.code) (by omega) (by omega) (by omega) (by omega) (by omega) (by omega)
  exact of_row ho rfl (by simp [decAnd, q0, q1, q2, q3, checked, hw]) (by exact hlt) (by simp) (by rw [ho]; rfl)

theorem or (g : Pred) (d : VReg) (a : Src) (b : Src) : Statement (.or g d a b) := by
  intro hw iw il he
  simp only [encode, Option.some.injEq, Prod.mk.injEq] at he
  obtain ⟨hW, hL⟩ := he
  have := g.isLt
  have := d.isLt
  have := Src.code_lt a
  have := Src.code_lt b
  subst hL
  obtain ⟨ho, q0, q1, q2, q3, hlt⟩ := fields4 (w := iw) 17 (g.val) (d.val) (a.code) (b.code) (by omega) (by omega) (by omega) (by omega) (by omega) (by omega)
  exact of_row ho rfl (by simp [decOr, q0, q1, q2, q3, checked, hw]) (by exact hlt) (by simp) (by rw [ho]; rfl)

theorem xor (g : Pred) (d : VReg) (a : Src) (b : Src) : Statement (.xor g d a b) := by
  intro hw iw il he
  simp only [encode, Option.some.injEq, Prod.mk.injEq] at he
  obtain ⟨hW, hL⟩ := he
  have := g.isLt
  have := d.isLt
  have := Src.code_lt a
  have := Src.code_lt b
  subst hL
  obtain ⟨ho, q0, q1, q2, q3, hlt⟩ := fields4 (w := iw) 18 (g.val) (d.val) (a.code) (b.code) (by omega) (by omega) (by omega) (by omega) (by omega) (by omega)
  exact of_row ho rfl (by simp [decXor, q0, q1, q2, q3, checked, hw]) (by exact hlt) (by simp) (by rw [ho]; rfl)

theorem not (g : Pred) (d : VReg) (a : Src) : Statement (.not g d a) := by
  intro hw iw il he
  simp only [encode, Option.some.injEq, Prod.mk.injEq] at he
  obtain ⟨hW, hL⟩ := he
  have := g.isLt
  have := d.isLt
  have := Src.code_lt a
  subst hL
  obtain ⟨ho, q0, q1, q2, q3, hlt⟩ := fields4 (w := iw) 19 (g.val) (d.val) (a.code) (0) (by omega) (by omega) (by omega) (by omega) (by omega) (by omega)
  exact of_row ho rfl (by simp [decNot, q0, q1, q2, q3, checked, hw]) (by exact hlt) (by simp) (by rw [ho]; rfl)

theorem shl (g : Pred) (d : VReg) (a : Src) (b : Src) : Statement (.shl g d a b) := by
  intro hw iw il he
  simp only [encode, Option.some.injEq, Prod.mk.injEq] at he
  obtain ⟨hW, hL⟩ := he
  have := g.isLt
  have := d.isLt
  have := Src.code_lt a
  have := Src.code_lt b
  subst hL
  obtain ⟨ho, q0, q1, q2, q3, hlt⟩ := fields4 (w := iw) 20 (g.val) (d.val) (a.code) (b.code) (by omega) (by omega) (by omega) (by omega) (by omega) (by omega)
  exact of_row ho rfl (by simp [decShl, q0, q1, q2, q3, checked, hw]) (by exact hlt) (by simp) (by rw [ho]; rfl)

theorem shrN (g : Pred) (d : VReg) (a : Src) (b : Src) : Statement (.shrN g d a b) := by
  intro hw iw il he
  simp only [encode, Option.some.injEq, Prod.mk.injEq] at he
  obtain ⟨hW, hL⟩ := he
  have := g.isLt
  have := d.isLt
  have := Src.code_lt a
  have := Src.code_lt b
  subst hL
  obtain ⟨ho, q0, q1, q2, q3, hlt⟩ := fields4 (w := iw) 21 (g.val) (d.val) (a.code) (b.code) (by omega) (by omega) (by omega) (by omega) (by omega) (by omega)
  exact of_row ho rfl (by simp [decShrN, q0, q1, q2, q3, checked, hw]) (by exact hlt) (by simp) (by rw [ho]; rfl)

theorem shrS (g : Pred) (d : VReg) (a : Src) (b : Src) : Statement (.shrS g d a b) := by
  intro hw iw il he
  simp only [encode, Option.some.injEq, Prod.mk.injEq] at he
  obtain ⟨hW, hL⟩ := he
  have := g.isLt
  have := d.isLt
  have := Src.code_lt a
  have := Src.code_lt b
  subst hL
  obtain ⟨ho, q0, q1, q2, q3, hlt⟩ := fields4 (w := iw) 22 (g.val) (d.val) (a.code) (b.code) (by omega) (by omega) (by omega) (by omega) (by omega) (by omega)
  exact of_row ho rfl (by simp [decShrS, q0, q1, q2, q3, checked, hw]) (by exact hlt) (by simp) (by rw [ho]; rfl)

theorem rotl (g : Pred) (d : VReg) (a : Src) (b : Src) : Statement (.rotl g d a b) := by
  intro hw iw il he
  simp only [encode, Option.some.injEq, Prod.mk.injEq] at he
  obtain ⟨hW, hL⟩ := he
  have := g.isLt
  have := d.isLt
  have := Src.code_lt a
  have := Src.code_lt b
  subst hL
  obtain ⟨ho, q0, q1, q2, q3, hlt⟩ := fields4 (w := iw) 23 (g.val) (d.val) (a.code) (b.code) (by omega) (by omega) (by omega) (by omega) (by omega) (by omega)
  exact of_row ho rfl (by simp [decRotl, q0, q1, q2, q3, checked, hw]) (by exact hlt) (by simp) (by rw [ho]; rfl)

theorem bfxS (g : Pred) (d : VReg) (a : Src) (b : Src) : Statement (.bfxS g d a b) := by
  intro hw iw il he
  simp only [encode, Option.some.injEq, Prod.mk.injEq] at he
  obtain ⟨hW, hL⟩ := he
  have := g.isLt
  have := d.isLt
  have := Src.code_lt a
  have := Src.code_lt b
  subst hL
  obtain ⟨ho, q0, q1, q2, q3, hlt⟩ := fields4 (w := iw) 24 (g.val) (d.val) (a.code) (b.code) (by omega) (by omega) (by omega) (by omega) (by omega) (by omega)
  exact of_row ho rfl (by simp [decBfxS, q0, q1, q2, q3, checked, hw]) (by exact hlt) (by simp) (by rw [ho]; rfl)

theorem bfxN (g : Pred) (d : VReg) (a : Src) (b : Src) : Statement (.bfxN g d a b) := by
  intro hw iw il he
  simp only [encode, Option.some.injEq, Prod.mk.injEq] at he
  obtain ⟨hW, hL⟩ := he
  have := g.isLt
  have := d.isLt
  have := Src.code_lt a
  have := Src.code_lt b
  subst hL
  obtain ⟨ho, q0, q1, q2, q3, hlt⟩ := fields4 (w := iw) 25 (g.val) (d.val) (a.code) (b.code) (by omega) (by omega) (by omega) (by omega) (by omega) (by omega)
  exact of_row ho rfl (by simp [decBfxN, q0, q1, q2, q3, checked, hw]) (by exact hlt) (by simp) (by rw [ho]; rfl)

theorem bfi (g : Pred) (d : VReg) (a : Src) (b : Src) : Statement (.bfi g d a b) := by
  intro hw iw il he
  simp only [encode, Option.some.injEq, Prod.mk.injEq] at he
  obtain ⟨hW, hL⟩ := he
  have := g.isLt
  have := d.isLt
  have := Src.code_lt a
  have := Src.code_lt b
  subst hL
  obtain ⟨ho, q0, q1, q2, q3, hlt⟩ := fields4 (w := iw) 26 (g.val) (d.val) (a.code) (b.code) (by omega) (by omega) (by omega) (by omega) (by omega) (by omega)
  exact of_row ho rfl (by simp [decBfi, q0, q1, q2, q3, checked, hw]) (by exact hlt) (by simp) (by rw [ho]; rfl)

theorem popc (g : Pred) (d : VReg) (a : Src) : Statement (.popc g d a) := by
  intro hw iw il he
  simp only [encode, Option.some.injEq, Prod.mk.injEq] at he
  obtain ⟨hW, hL⟩ := he
  have := g.isLt
  have := d.isLt
  have := Src.code_lt a
  subst hL
  obtain ⟨ho, q0, q1, q2, q3, hlt⟩ := fields4 (w := iw) 27 (g.val) (d.val) (a.code) (0) (by omega) (by omega) (by omega) (by omega) (by omega) (by omega)
  exact of_row ho rfl (by simp [decPopc, q0, q1, q2, q3, checked, hw]) (by exact hlt) (by simp) (by rw [ho]; rfl)

theorem clz (g : Pred) (d : VReg) (a : Src) : Statement (.clz g d a) := by
  intro hw iw il he
  simp only [encode, Option.some.injEq, Prod.mk.injEq] at he
  obtain ⟨hW, hL⟩ := he
  have := g.isLt
  have := d.isLt
  have := Src.code_lt a
  subst hL
  obtain ⟨ho, q0, q1, q2, q3, hlt⟩ := fields4 (w := iw) 28 (g.val) (d.val) (a.code) (0) (by omega) (by omega) (by omega) (by omega) (by omega) (by omega)
  exact of_row ho rfl (by simp [decClz, q0, q1, q2, q3, checked, hw]) (by exact hlt) (by simp) (by rw [ho]; rfl)

theorem brev (g : Pred) (d : VReg) (a : Src) : Statement (.brev g d a) := by
  intro hw iw il he
  simp only [encode, Option.some.injEq, Prod.mk.injEq] at he
  obtain ⟨hW, hL⟩ := he
  have := g.isLt
  have := d.isLt
  have := Src.code_lt a
  subst hL
  obtain ⟨ho, q0, q1, q2, q3, hlt⟩ := fields4 (w := iw) 29 (g.val) (d.val) (a.code) (0) (by omega) (by omega) (by omega) (by omega) (by omega) (by omega)
  exact of_row ho rfl (by simp [decBrev, q0, q1, q2, q3, checked, hw]) (by exact hlt) (by simp) (by rw [ho]; rfl)

theorem mov (g : Pred) (d : VReg) (a : Src) : Statement (.mov g d a) := by
  intro hw iw il he
  simp only [encode, Option.some.injEq, Prod.mk.injEq] at he
  obtain ⟨hW, hL⟩ := he
  have := g.isLt
  have := d.isLt
  have := Src.code_lt a
  subst hL
  obtain ⟨ho, q0, q1, q2, q3, hlt⟩ := fields4 (w := iw) 30 (g.val) (d.val) (a.code) (0) (by omega) (by omega) (by omega) (by omega) (by omega) (by omega)
  exact of_row ho rfl (by simp [decMov, q0, q1, q2, q3, checked, hw]) (by exact hlt) (by simp) (by rw [ho]; rfl)

theorem movi (g : Pred) (d : VReg) (lit : Word) : Statement (.movi g d lit) := by
  intro hw iw il he
  simp only [encode, Option.some.injEq, Prod.mk.injEq] at he
  obtain ⟨hW, hL⟩ := he
  have := g.isLt
  have := d.isLt
  have := lit.isLt
  obtain ⟨z, hz⟩ : ∃ z, z = lit.toNat := ⟨_, rfl⟩
  rw [← hz] at hL
  subst hL
  obtain ⟨ho, q0, q1, q2, q3, hlt⟩ := fields4 (w := iw) 31 (g.val) (d.val) (0) (0) (by omega) (by omega) (by omega) (by omega) (by omega) (by omega)
  exact of_row ho rfl (by simp [decMovi, q0, q1, q2, q3, checked, hw, hz]) (by exact hlt) (by simp; omega) (by rw [ho]; rfl)

theorem icmpS (g : Pred) (c : Cond) (p : Pred) (a : Src) (b : Src) : Statement (.icmpS g c p a b) := by
  intro hw iw il he
  simp only [encode, Option.some.injEq, Prod.mk.injEq] at he
  obtain ⟨hW, hL⟩ := he
  have := g.isLt
  have := Cond.code_lt c
  have := p.isLt
  have := Src.code_lt a
  have := Src.code_lt b
  subst hL
  have ho : opcodeOf iw = 32 := by unfold opcodeOf bits; omega
  have f0 : bits iw 21 3 = g.val := by unfold bits; omega
  have f1 : bits iw 17 4 = c.code := by unfold bits; omega
  have f2 : bits iw 14 3 = p.val := by unfold bits; omega
  have f3 : bits iw 7 7 = a.code := by unfold bits; omega
  have f4 : bits iw 0 7 = b.code := by unfold bits; omega
  exact of_row ho rfl (by simp [decIcmpS, f0, f1, f2, f3, f4, checked, hw]) (by omega) (by simp) (by rw [ho]; rfl)

theorem icmpN (g : Pred) (c : Cond) (p : Pred) (a : Src) (b : Src) : Statement (.icmpN g c p a b) := by
  intro hw iw il he
  simp only [encode, Option.some.injEq, Prod.mk.injEq] at he
  obtain ⟨hW, hL⟩ := he
  have := g.isLt
  have := Cond.code_lt c
  have := p.isLt
  have := Src.code_lt a
  have := Src.code_lt b
  subst hL
  have ho : opcodeOf iw = 33 := by unfold opcodeOf bits; omega
  have f0 : bits iw 21 3 = g.val := by unfold bits; omega
  have f1 : bits iw 17 4 = c.code := by unfold bits; omega
  have f2 : bits iw 14 3 = p.val := by unfold bits; omega
  have f3 : bits iw 7 7 = a.code := by unfold bits; omega
  have f4 : bits iw 0 7 = b.code := by unfold bits; omega
  exact of_row ho rfl (by simp [decIcmpN, f0, f1, f2, f3, f4, checked, hw]) (by omega) (by simp) (by rw [ho]; rfl)

theorem fcmpF32 (g : Pred) (c : Cond) (p : Pred) (a : Src) (b : Src) : Statement (.fcmpF32 g c p a b) := by
  intro hw iw il he
  simp only [encode, Option.some.injEq, Prod.mk.injEq] at he
  obtain ⟨hW, hL⟩ := he
  have := g.isLt
  have := Cond.code_lt c
  have := p.isLt
  have := Src.code_lt a
  have := Src.code_lt b
  subst hL
  have ho : opcodeOf iw = 34 := by unfold opcodeOf bits; omega
  have f0 : bits iw 21 3 = g.val := by unfold bits; omega
  have f1 : bits iw 17 4 = c.code := by unfold bits; omega
  have f2 : bits iw 14 3 = p.val := by unfold bits; omega
  have f3 : bits iw 7 7 = a.code := by unfold bits; omega
  have f4 : bits iw 0 7 = b.code := by unfold bits; omega
  exact of_row ho rfl (by simp [decFcmpF32, f0, f1, f2, f3, f4, checked, hw]) (by omega) (by simp) (by rw [ho]; rfl)

theorem fcmpF64 (g : Pred) (c : Cond) (p : Pred) (a : Src) (b : Src) : Statement (.fcmpF64 g c p a b) := by
  intro hw iw il he
  simp only [encode, Option.some.injEq, Prod.mk.injEq] at he
  obtain ⟨hW, hL⟩ := he
  have := g.isLt
  have := Cond.code_lt c
  have := p.isLt
  have := Src.code_lt a
  have := Src.code_lt b
  subst hL
  have ho : opcodeOf iw = 35 := by unfold opcodeOf bits; omega
  have f0 : bits iw 21 3 = g.val := by unfold bits; omega
  have f1 : bits iw 17 4 = c.code := by unfold bits; omega
  have f2 : bits iw 14 3 = p.val := by unfold bits; omega
  have f3 : bits iw 7 7 = a.code := by unfold bits; omega
  have f4 : bits iw 0 7 = b.code := by unfold bits; omega
  exact of_row ho rfl (by simp [decFcmpF64, f0, f1, f2, f3, f4, checked, hw]) (by omega) (by simp) (by rw [ho]; rfl)

theorem icmpiS (g : Pred) (c : Cond) (p : Pred) (a : Src) (lit : Word) : Statement (.icmpiS g c p a lit) := by
  intro hw iw il he
  simp only [encode, Option.some.injEq, Prod.mk.injEq] at he
  obtain ⟨hW, hL⟩ := he
  have := g.isLt
  have := Cond.code_lt c
  have := p.isLt
  have := Src.code_lt a
  have := lit.isLt
  obtain ⟨z, hz⟩ : ∃ z, z = lit.toNat := ⟨_, rfl⟩
  rw [← hz] at hL
  subst hL
  have ho : opcodeOf iw = 36 := by unfold opcodeOf bits; omega
  have f0 : bits iw 0 7 = 0 := by unfold bits; omega
  have f1 : bits iw 21 3 = g.val := by unfold bits; omega
  have f2 : bits iw 17 4 = c.code := by unfold bits; omega
  have f3 : bits iw 14 3 = p.val := by unfold bits; omega
  have f4 : bits iw 7 7 = a.code := by unfold bits; omega
  exact of_row ho rfl (by simp [decIcmpiS, f0, f1, f2, f3, f4, checked, hw, hz]) (by omega) (by simp; omega) (by rw [ho]; rfl)

theorem icmpiN (g : Pred) (c : Cond) (p : Pred) (a : Src) (lit : Word) : Statement (.icmpiN g c p a lit) := by
  intro hw iw il he
  simp only [encode, Option.some.injEq, Prod.mk.injEq] at he
  obtain ⟨hW, hL⟩ := he
  have := g.isLt
  have := Cond.code_lt c
  have := p.isLt
  have := Src.code_lt a
  have := lit.isLt
  obtain ⟨z, hz⟩ : ∃ z, z = lit.toNat := ⟨_, rfl⟩
  rw [← hz] at hL
  subst hL
  have ho : opcodeOf iw = 37 := by unfold opcodeOf bits; omega
  have f0 : bits iw 0 7 = 0 := by unfold bits; omega
  have f1 : bits iw 21 3 = g.val := by unfold bits; omega
  have f2 : bits iw 17 4 = c.code := by unfold bits; omega
  have f3 : bits iw 14 3 = p.val := by unfold bits; omega
  have f4 : bits iw 7 7 = a.code := by unfold bits; omega
  exact of_row ho rfl (by simp [decIcmpiN, f0, f1, f2, f3, f4, checked, hw, hz]) (by omega) (by simp; omega) (by rw [ho]; rfl)

theorem plop (g : Pred) (lut : BitVec 8) (d : Pred) (a : Pred) (b : Pred) (c : Pred) : Statement (.plop g lut d a b c) := by
  intro hw iw il he
  simp only [encode, Option.some.injEq, Prod.mk.injEq] at he
  obtain ⟨hW, hL⟩ := he
  have := g.isLt
  have := lut.isLt
  have := d.isLt
  have := a.isLt
  have := b.isLt
  have := c.isLt
  subst hL
  generalize hhi : lut.toNat / 16 = hi at hW
  generalize hlo : lut.toNat % 16 = lo at hW
  have : hi < 16 := by omega
  have : lo < 16 := by omega
  have ho : opcodeOf iw = 38 := by clear hhi hlo; unfold opcodeOf bits; omega
  have f0 : bits iw 6 1 = 0 := by clear hhi hlo; unfold bits; omega
  have f1 : bits iw 21 3 = g.val := by clear hhi hlo; unfold bits; omega
  have f2 : bits iw 17 4 = hi := by clear hhi hlo; unfold bits; omega
  have f3 : bits iw 10 4 = lo := by clear hhi hlo; unfold bits; omega
  have f4 : bits iw 14 3 = d.val := by clear hhi hlo; unfold bits; omega
  have f5 : bits iw 7 3 = a.val := by clear hhi hlo; unfold bits; omega
  have f6 : bits iw 0 3 = b.val := by clear hhi hlo; unfold bits; omega
  have f7 : bits iw 3 3 = c.val := by clear hhi hlo; unfold bits; omega
  exact of_row ho rfl (by simp [decPlop, f0, f1, f2, f3, f4, f5, f6, f7, checked, hw, ← hhi, ← hlo]) (by clear hhi hlo; omega) (by simp) (by rw [ho]; rfl)

theorem pmovGet (g : Pred) (d : VReg) : Statement (.pmovGet g d) := by
  intro hw iw il he
  simp only [encode, Option.some.injEq, Prod.mk.injEq] at he
  obtain ⟨hW, hL⟩ := he
  have := g.isLt
  have := d.isLt
  subst hL
  have ho : opcodeOf iw = 39 := by unfold opcodeOf bits; omega
  have f0 : bits iw 7 7 = 0 := by unfold bits; omega
  have f1 : bits iw 1 6 = 0 := by unfold bits; omega
  have f2 : bits iw 0 1 = 0 := by unfold bits; omega
  have f3 : bits iw 21 3 = g.val := by unfold bits; omega
  have f4 : bits iw 14 7 = d.val := by unfold bits; omega
  exact of_row ho rfl (by simp [decPmovGet, f0, f1, f2, f3, f4, checked, hw]) (by omega) (by simp) (by rw [ho]; rfl)

theorem pmovSet (g : Pred) (a : Src) : Statement (.pmovSet g a) := by
  intro hw iw il he
  simp only [encode, Option.some.injEq, Prod.mk.injEq] at he
  obtain ⟨hW, hL⟩ := he
  have := g.isLt
  have := Src.code_lt a
  subst hL
  have ho : opcodeOf iw = 39 := by unfold opcodeOf bits; omega
  have f0 : bits iw 14 7 = 0 := by unfold bits; omega
  have f1 : bits iw 1 6 = 0 := by unfold bits; omega
  have f2 : bits iw 0 1 = 1 := by unfold bits; omega
  have f3 : bits iw 21 3 = g.val := by unfold bits; omega
  have f4 : bits iw 7 7 = a.code := by unfold bits; omega
  exact of_row ho rfl (by simp [decPmovGet, decPmovSet, f0, f1, f2, f3, f4, checked, hw]) (by omega) (by simp) (by rw [ho]; rfl)

theorem faddF32 (g : Pred) (d : VReg) (a : Src) (b : Src) : Statement (.faddF32 g d a b) := by
  intro hw iw il he
  simp only [encode, Option.some.injEq, Prod.mk.injEq] at he
  obtain ⟨hW, hL⟩ := he
  have := g.isLt
  have := d.isLt
  have := Src.code_lt a
  have := Src.code_lt b
  subst hL
  obtain ⟨ho, q0, q1, q2, q3, hlt⟩ := fields4 (w := iw) 40 (g.val) (d.val) (a.code) (b.code) (by omega) (by omega) (by omega) (by omega) (by omega) (by omega)
  exact of_row ho rfl (by simp [decFaddF32, q0, q1, q2, q3, checked, hw]) (by exact hlt) (by simp) (by rw [ho]; rfl)

theorem fsubF32 (g : Pred) (d : VReg) (a : Src) (b : Src) : Statement (.fsubF32 g d a b) := by
  intro hw iw il he
  simp only [encode, Option.some.injEq, Prod.mk.injEq] at he
  obtain ⟨hW, hL⟩ := he
  have := g.isLt
  have := d.isLt
  have := Src.code_lt a
  have := Src.code_lt b
  subst hL
  obtain ⟨ho, q0, q1, q2, q3, hlt⟩ := fields4 (w := iw) 41 (g.val) (d.val) (a.code) (b.code) (by omega) (by omega) (by omega) (by omega) (by omega) (by omega)
  exact of_row ho rfl (by simp [decFsubF32, q0, q1, q2, q3, checked, hw]) (by exact hlt) (by simp) (by rw [ho]; rfl)

theorem fmulF32 (g : Pred) (d : VReg) (a : Src) (b : Src) : Statement (.fmulF32 g d a b) := by
  intro hw iw il he
  simp only [encode, Option.some.injEq, Prod.mk.injEq] at he
  obtain ⟨hW, hL⟩ := he
  have := g.isLt
  have := d.isLt
  have := Src.code_lt a
  have := Src.code_lt b
  subst hL
  obtain ⟨ho, q0, q1, q2, q3, hlt⟩ := fields4 (w := iw) 42 (g.val) (d.val) (a.code) (b.code) (by omega) (by omega) (by omega) (by omega) (by omega) (by omega)
  exact of_row ho rfl (by simp [decFmulF32, q0, q1, q2, q3, checked, hw]) (by exact hlt) (by simp) (by rw [ho]; rfl)

theorem ffmaF32 (g : Pred) (d : VReg) (a : Src) (b : Src) : Statement (.ffmaF32 g d a b) := by
  intro hw iw il he
  simp only [encode, Option.some.injEq, Prod.mk.injEq] at he
  obtain ⟨hW, hL⟩ := he
  have := g.isLt
  have := d.isLt
  have := Src.code_lt a
  have := Src.code_lt b
  subst hL
  obtain ⟨ho, q0, q1, q2, q3, hlt⟩ := fields4 (w := iw) 43 (g.val) (d.val) (a.code) (b.code) (by omega) (by omega) (by omega) (by omega) (by omega) (by omega)
  exact of_row ho rfl (by simp [decFfmaF32, q0, q1, q2, q3, checked, hw]) (by exact hlt) (by simp) (by rw [ho]; rfl)

theorem fminF32 (g : Pred) (d : VReg) (a : Src) (b : Src) : Statement (.fminF32 g d a b) := by
  intro hw iw il he
  simp only [encode, Option.some.injEq, Prod.mk.injEq] at he
  obtain ⟨hW, hL⟩ := he
  have := g.isLt
  have := d.isLt
  have := Src.code_lt a
  have := Src.code_lt b
  subst hL
  obtain ⟨ho, q0, q1, q2, q3, hlt⟩ := fields4 (w := iw) 44 (g.val) (d.val) (a.code) (b.code) (by omega) (by omega) (by omega) (by omega) (by omega) (by omega)
  exact of_row ho rfl (by simp [decFminF32, q0, q1, q2, q3, checked, hw]) (by exact hlt) (by simp) (by rw [ho]; rfl)

theorem fmaxF32 (g : Pred) (d : VReg) (a : Src) (b : Src) : Statement (.fmaxF32 g d a b) := by
  intro hw iw il he
  simp only [encode, Option.some.injEq, Prod.mk.injEq] at he
  obtain ⟨hW, hL⟩ := he
  have := g.isLt
  have := d.isLt
  have := Src.code_lt a
  have := Src.code_lt b
  subst hL
  obtain ⟨ho, q0, q1, q2, q3, hlt⟩ := fields4 (w := iw) 45 (g.val) (d.val) (a.code) (b.code) (by omega) (by omega) (by omega) (by omega) (by omega) (by omega)
  exact of_row ho rfl (by simp [decFmaxF32, q0, q1, q2, q3, checked, hw]) (by exact hlt) (by simp) (by rw [ho]; rfl)

theorem faddiF32 (g : Pred) (d : VReg) (a : Src) (lit : Word) : Statement (.faddiF32 g d a lit) := by
  intro hw iw il he
  simp only [encode, Option.some.injEq, Prod.mk.injEq] at he
  obtain ⟨hW, hL⟩ := he
  have := g.isLt
  have := d.isLt
  have := Src.code_lt a
  have := lit.isLt
  obtain ⟨z, hz⟩ : ∃ z, z = lit.toNat := ⟨_, rfl⟩
  rw [← hz] at hL
  subst hL
  obtain ⟨ho, q0, q1, q2, q3, hlt⟩ := fields4 (w := iw) 46 (g.val) (d.val) (a.code) (0) (by omega) (by omega) (by omega) (by omega) (by omega) (by omega)
  exact of_row ho rfl (by simp [decFaddiF32, q0, q1, q2, q3, checked, hw, hz]) (by exact hlt) (by simp; omega) (by rw [ho]; rfl)

theorem fmuliF32 (g : Pred) (d : VReg) (a : Src) (lit : Word) : Statement (.fmuliF32 g d a lit) := by
  intro hw iw il he
  simp only [encode, Option.some.injEq, Prod.mk.injEq] at he
  obtain ⟨hW, hL⟩ := he
  have := g.isLt
  have := d.isLt
  have := Src.code_lt a
  have := lit.isLt
  obtain ⟨z, hz⟩ : ∃ z, z = lit.toNat := ⟨_, rfl⟩
  rw [← hz] at hL
  subst hL
  obtain ⟨ho, q0, q1, q2, q3, hlt⟩ := fields4 (w := iw) 47 (g.val) (d.val) (a.code) (0) (by omega) (by omega) (by omega) (by omega) (by omega) (by omega)
  exact of_row ho rfl (by simp [decFmuliF32, q0, q1, q2, q3, checked, hw, hz]) (by exact hlt) (by simp; omega) (by rw [ho]; rfl)

theorem faddF16x2 (g : Pred) (d : VReg) (a : Src) (b : Src) : Statement (.faddF16x2 g d a b) := by
  intro hw iw il he
  simp only [encode, Option.some.injEq, Prod.mk.injEq] at he
  obtain ⟨hW, hL⟩ := he
  have := g.isLt
  have := d.isLt
  have := Src.code_lt a
  have := Src.code_lt b
  subst hL
  obtain ⟨ho, q0, q1, q2, q3, hlt⟩ := fields4 (w := iw) 48 (g.val) (d.val) (a.code) (b.code) (by omega) (by omega) (by omega) (by omega) (by omega) (by omega)
  exact of_row ho rfl (by simp [decFaddF16x2, q0, q1, q2, q3, checked, hw]) (by exact hlt) (by simp) (by rw [ho]; rfl)

theorem fmulF16x2 (g : Pred) (d : VReg) (a : Src) (b : Src) : Statement (.fmulF16x2 g d a b) := by
  intro hw iw il he
  simp only [encode, Option.some.injEq, Prod.mk.injEq] at he
  obtain ⟨hW, hL⟩ := he
  have := g.isLt
  have := d.isLt
  have := Src.code_lt a
  have := Src.code_lt b
  subst hL
  obtain ⟨ho, q0, q1, q2, q3, hlt⟩ := fields4 (w := iw) 49 (g.val) (d.val) (a.code) (b.code) (by omega) (by omega) (by omega) (by omega) (by omega) (by omega)
  exact of_row ho rfl (by simp [decFmulF16x2, q0, q1, q2, q3, checked, hw]) (by exact hlt) (by simp) (by rw [ho]; rfl)

theorem ffmaF16x2 (g : Pred) (d : VReg) (a : Src) (b : Src) : Statement (.ffmaF16x2 g d a b) := by
  intro hw iw il he
  simp only [encode, Option.some.injEq, Prod.mk.injEq] at he
  obtain ⟨hW, hL⟩ := he
  have := g.isLt
  have := d.isLt
  have := Src.code_lt a
  have := Src.code_lt b
  subst hL
  obtain ⟨ho, q0, q1, q2, q3, hlt⟩ := fields4 (w := iw) 50 (g.val) (d.val) (a.code) (b.code) (by omega) (by omega) (by omega) (by omega) (by omega) (by omega)
  exact of_row ho rfl (by simp [decFfmaF16x2, q0, q1, q2, q3, checked, hw]) (by exact hlt) (by simp) (by rw [ho]; rfl)

theorem fminF16x2 (g : Pred) (d : VReg) (a : Src) (b : Src) : Statement (.fminF16x2 g d a b) := by
  intro hw iw il he
  simp only [encode, Option.some.injEq, Prod.mk.injEq] at he
  obtain ⟨hW, hL⟩ := he
  have := g.isLt
  have := d.isLt
  have := Src.code_lt a
  have := Src.code_lt b
  subst hL
  obtain ⟨ho, q0, q1, q2, q3, hlt⟩ := fields4 (w := iw) 51 (g.val) (d.val) (a.code) (b.code) (by omega) (by omega) (by omega) (by omega) (by omega) (by omega)
  exact of_row ho rfl (by simp [decFminF16x2, q0, q1, q2, q3, checked, hw]) (by exact hlt) (by simp) (by rw [ho]; rfl)

theorem faddBf16x2 (g : Pred) (d : VReg) (a : Src) (b : Src) : Statement (.faddBf16x2 g d a b) := by
  intro hw iw il he
  simp only [encode, Option.some.injEq, Prod.mk.injEq] at he
  obtain ⟨hW, hL⟩ := he
  have := g.isLt
  have := d.isLt
  have := Src.code_lt a
  have := Src.code_lt b
  subst hL
  obtain ⟨ho, q0, q1, q2, q3, hlt⟩ := fields4 (w := iw) 52 (g.val) (d.val) (a.code) (b.code) (by omega) (by omega) (by omega) (by omega) (by omega) (by omega)
  exact of_row ho rfl (by simp [decFaddBf16x2, q0, q1, q2, q3, checked, hw]) (by exact hlt) (by simp) (by rw [ho]; rfl)

theorem fmulBf16x2 (g : Pred) (d : VReg) (a : Src) (b : Src) : Statement (.fmulBf16x2 g d a b) := by
  intro hw iw il he
  simp only [encode, Option.some.injEq, Prod.mk.injEq] at he
  obtain ⟨hW, hL⟩ := he
  have := g.isLt
  have := d.isLt
  have := Src.code_lt a
  have := Src.code_lt b
  subst hL
  obtain ⟨ho, q0, q1, q2, q3, hlt⟩ := fields4 (w := iw) 53 (g.val) (d.val) (a.code) (b.code) (by omega) (by omega) (by omega) (by omega) (by omega) (by omega)
  exact of_row ho rfl (by simp [decFmulBf16x2, q0, q1, q2, q3, checked, hw]) (by exact hlt) (by simp) (by rw [ho]; rfl)

theorem ffmaBf16x2 (g : Pred) (d : VReg) (a : Src) (b : Src) : Statement (.ffmaBf16x2 g d a b) := by
  intro hw iw il he
  simp only [encode, Option.some.injEq, Prod.mk.injEq] at he
  obtain ⟨hW, hL⟩ := he
  have := g.isLt
  have := d.isLt
  have := Src.code_lt a
  have := Src.code_lt b
  subst hL
  obtain ⟨ho, q0, q1, q2, q3, hlt⟩ := fields4 (w := iw) 54 (g.val) (d.val) (a.code) (b.code) (by omega) (by omega) (by omega) (by omega) (by omega) (by omega)
  exact of_row ho rfl (by simp [decFfmaBf16x2, q0, q1, q2, q3, checked, hw]) (by exact hlt) (by simp) (by rw [ho]; rfl)

theorem fminBf16x2 (g : Pred) (d : VReg) (a : Src) (b : Src) : Statement (.fminBf16x2 g d a b) := by
  intro hw iw il he
  simp only [encode, Option.some.injEq, Prod.mk.injEq] at he
  obtain ⟨hW, hL⟩ := he
  have := g.isLt
  have := d.isLt
  have := Src.code_lt a
  have := Src.code_lt b
  subst hL
  obtain ⟨ho, q0, q1, q2, q3, hlt⟩ := fields4 (w := iw) 55 (g.val) (d.val) (a.code) (b.code) (by omega) (by omega) (by omega) (by omega) (by omega) (by omega)
  exact of_row ho rfl (by simp [decFminBf16x2, q0, q1, q2, q3, checked, hw]) (by exact hlt) (by simp) (by rw [ho]; rfl)

theorem faddF64 (g : Pred) (d : VReg) (a : Src) (b : Src) : Statement (.faddF64 g d a b) := by
  intro hw iw il he
  simp only [encode, Option.some.injEq, Prod.mk.injEq] at he
  obtain ⟨hW, hL⟩ := he
  have := g.isLt
  have := d.isLt
  have := Src.code_lt a
  have := Src.code_lt b
  subst hL
  obtain ⟨ho, q0, q1, q2, q3, hlt⟩ := fields4 (w := iw) 56 (g.val) (d.val) (a.code) (b.code) (by omega) (by omega) (by omega) (by omega) (by omega) (by omega)
  exact of_row ho rfl (by simp [decFaddF64, q0, q1, q2, q3, checked, hw]) (by exact hlt) (by simp) (by rw [ho]; rfl)

theorem fsubF64 (g : Pred) (d : VReg) (a : Src) (b : Src) : Statement (.fsubF64 g d a b) := by
  intro hw iw il he
  simp only [encode, Option.some.injEq, Prod.mk.injEq] at he
  obtain ⟨hW, hL⟩ := he
  have := g.isLt
  have := d.isLt
  have := Src.code_lt a
  have := Src.code_lt b
  subst hL
  obtain ⟨ho, q0, q1, q2, q3, hlt⟩ := fields4 (w := iw) 57 (g.val) (d.val) (a.code) (b.code) (by omega) (by omega) (by omega) (by omega) (by omega) (by omega)
  exact of_row ho rfl (by simp [decFsubF64, q0, q1, q2, q3, checked, hw]) (by exact hlt) (by simp) (by rw [ho]; rfl)

theorem fmulF64 (g : Pred) (d : VReg) (a : Src) (b : Src) : Statement (.fmulF64 g d a b) := by
  intro hw iw il he
  simp only [encode, Option.some.injEq, Prod.mk.injEq] at he
  obtain ⟨hW, hL⟩ := he
  have := g.isLt
  have := d.isLt
  have := Src.code_lt a
  have := Src.code_lt b
  subst hL
  obtain ⟨ho, q0, q1, q2, q3, hlt⟩ := fields4 (w := iw) 58 (g.val) (d.val) (a.code) (b.code) (by omega) (by omega) (by omega) (by omega) (by omega) (by omega)
  exact of_row ho rfl (by simp [decFmulF64, q0, q1, q2, q3, checked, hw]) (by exact hlt) (by simp) (by rw [ho]; rfl)

theorem ffmaF64 (g : Pred) (d : VReg) (a : Src) (b : Src) : Statement (.ffmaF64 g d a b) := by
  intro hw iw il he
  simp only [encode, Option.some.injEq, Prod.mk.injEq] at he
  obtain ⟨hW, hL⟩ := he
  have := g.isLt
  have := d.isLt
  have := Src.code_lt a
  have := Src.code_lt b
  subst hL
  obtain ⟨ho, q0, q1, q2, q3, hlt⟩ := fields4 (w := iw) 59 (g.val) (d.val) (a.code) (b.code) (by omega) (by omega) (by omega) (by omega) (by omega) (by omega)
  exact of_row ho rfl (by simp [decFfmaF64, q0, q1, q2, q3, checked, hw]) (by exact hlt) (by simp) (by rw [ho]; rfl)

theorem fminF64 (g : Pred) (d : VReg) (a : Src) (b : Src) : Statement (.fminF64 g d a b) := by
  intro hw iw il he
  simp only [encode, Option.some.injEq, Prod.mk.injEq] at he
  obtain ⟨hW, hL⟩ := he
  have := g.isLt
  have := d.isLt
  have := Src.code_lt a
  have := Src.code_lt b
  subst hL
  obtain ⟨ho, q0, q1, q2, q3, hlt⟩ := fields4 (w := iw) 60 (g.val) (d.val) (a.code) (b.code) (by omega) (by omega) (by omega) (by omega) (by omega) (by omega)
  exact of_row ho rfl (by simp [decFminF64, q0, q1, q2, q3, checked, hw]) (by exact hlt) (by simp) (by rw [ho]; rfl)

theorem fmaxF64 (g : Pred) (d : VReg) (a : Src) (b : Src) : Statement (.fmaxF64 g d a b) := by
  intro hw iw il he
  simp only [encode, Option.some.injEq, Prod.mk.injEq] at he
  obtain ⟨hW, hL⟩ := he
  have := g.isLt
  have := d.isLt
  have := Src.code_lt a
  have := Src.code_lt b
  subst hL
  obtain ⟨ho, q0, q1, q2, q3, hlt⟩ := fields4 (w := iw) 61 (g.val) (d.val) (a.code) (b.code) (by omega) (by omega) (by omega) (by omega) (by omega) (by omega)
  exact of_row ho rfl (by simp [decFmaxF64, q0, q1, q2, q3, checked, hw]) (by exact hlt) (by simp) (by rw [ho]; rfl)

theorem fmaxF16x2 (g : Pred) (d : VReg) (a : Src) (b : Src) : Statement (.fmaxF16x2 g d a b) := by
  intro hw iw il he
  simp only [encode, Option.some.injEq, Prod.mk.injEq] at he
  obtain ⟨hW, hL⟩ := he
  have := g.isLt
  have := d.isLt
  have := Src.code_lt a
  have := Src.code_lt b
  subst hL
  obtain ⟨ho, q0, q1, q2, q3, hlt⟩ := fields4 (w := iw) 62 (g.val) (d.val) (a.code) (b.code) (by omega) (by omega) (by omega) (by omega) (by omega) (by omega)
  exact of_row ho rfl (by simp [decFmaxF16x2, q0, q1, q2, q3, checked, hw]) (by exact hlt) (by simp) (by rw [ho]; rfl)

theorem fmaxBf16x2 (g : Pred) (d : VReg) (a : Src) (b : Src) : Statement (.fmaxBf16x2 g d a b) := by
  intro hw iw il he
  simp only [encode, Option.some.injEq, Prod.mk.injEq] at he
  obtain ⟨hW, hL⟩ := he
  have := g.isLt
  have := d.isLt
  have := Src.code_lt a
  have := Src.code_lt b
  subst hL
  obtain ⟨ho, q0, q1, q2, q3, hlt⟩ := fields4 (w := iw) 63 (g.val) (d.val) (a.code) (b.code) (by omega) (by omega) (by omega) (by omega) (by omega) (by omega)
  exact of_row ho rfl (by simp [decFmaxBf16x2, q0, q1, q2, q3, checked, hw]) (by exact hlt) (by simp) (by rw [ho]; rfl)

theorem frcp (g : Pred) (d : VReg) (a : Src) : Statement (.frcp g d a) := by
  intro hw iw il he
  simp only [encode, Option.some.injEq, Prod.mk.injEq] at he
  obtain ⟨hW, hL⟩ := he
  have := g.isLt
  have := d.isLt
  have := Src.code_lt a
  subst hL
  obtain ⟨ho, q0, q1, q2, q3, hlt⟩ := fields4 (w := iw) 64 (g.val) (d.val) (a.code) (0) (by omega) (by omega) (by omega) (by omega) (by omega) (by omega)
  exact of_row ho rfl (by simp [decFrcp, q0, q1, q2, q3, checked, hw]) (by exact hlt) (by simp) (by rw [ho]; rfl)

theorem frsq (g : Pred) (d : VReg) (a : Src) : Statement (.frsq g d a) := by
  intro hw iw il he
  simp only [encode, Option.some.injEq, Prod.mk.injEq] at he
  obtain ⟨hW, hL⟩ := he
  have := g.isLt
  have := d.isLt
  have := Src.code_lt a
  subst hL
  obtain ⟨ho, q0, q1, q2, q3, hlt⟩ := fields4 (w := iw) 65 (g.val) (d.val) (a.code) (0) (by omega) (by omega) (by omega) (by omega) (by omega) (by omega)
  exact of_row ho rfl (by simp [decFrsq, q0, q1, q2, q3, checked, hw]) (by exact hlt) (by simp) (by rw [ho]; rfl)

theorem fsqrt (g : Pred) (d : VReg) (a : Src) : Statement (.fsqrt g d a) := by
  intro hw iw il he
  simp only [encode, Option.some.injEq, Prod.mk.injEq] at he
  obtain ⟨hW, hL⟩ := he
  have := g.isLt
  have := d.isLt
  have := Src.code_lt a
  subst hL
  obtain ⟨ho, q0, q1, q2, q3, hlt⟩ := fields4 (w := iw) 66 (g.val) (d.val) (a.code) (0) (by omega) (by omega) (by omega) (by omega) (by omega) (by omega)
  exact of_row ho rfl (by simp [decFsqrt, q0, q1, q2, q3, checked, hw]) (by exact hlt) (by simp) (by rw [ho]; rfl)

theorem fexp2 (g : Pred) (d : VReg) (a : Src) : Statement (.fexp2 g d a) := by
  intro hw iw il he
  simp only [encode, Option.some.injEq, Prod.mk.injEq] at he
  obtain ⟨hW, hL⟩ := he
  have := g.isLt
  have := d.isLt
  have := Src.code_lt a
  subst hL
  obtain ⟨ho, q0, q1, q2, q3, hlt⟩ := fields4 (w := iw) 67 (g.val) (d.val) (a.code) (0) (by omega) (by omega) (by omega) (by omega) (by omega) (by omega)
  exact of_row ho rfl (by simp [decFexp2, q0, q1, q2, q3, checked, hw]) (by exact hlt) (by simp) (by rw [ho]; rfl)

theorem flog2 (g : Pred) (d : VReg) (a : Src) : Statement (.flog2 g d a) := by
  intro hw iw il he
  simp only [encode, Option.some.injEq, Prod.mk.injEq] at he
  obtain ⟨hW, hL⟩ := he
  have := g.isLt
  have := d.isLt
  have := Src.code_lt a
  subst hL
  obtain ⟨ho, q0, q1, q2, q3, hlt⟩ := fields4 (w := iw) 68 (g.val) (d.val) (a.code) (0) (by omega) (by omega) (by omega) (by omega) (by omega) (by omega)
  exact of_row ho rfl (by simp [decFlog2, q0, q1, q2, q3, checked, hw]) (by exact hlt) (by simp) (by rw [ho]; rfl)

theorem fsin (g : Pred) (d : VReg) (a : Src) : Statement (.fsin g d a) := by
  intro hw iw il he
  simp only [encode, Option.some.injEq, Prod.mk.injEq] at he
  obtain ⟨hW, hL⟩ := he
  have := g.isLt
  have := d.isLt
  have := Src.code_lt a
  subst hL
  obtain ⟨ho, q0, q1, q2, q3, hlt⟩ := fields4 (w := iw) 69 (g.val) (d.val) (a.code) (0) (by omega) (by omega) (by omega) (by omega) (by omega) (by omega)
  exact of_row ho rfl (by simp [decFsin, q0, q1, q2, q3, checked, hw]) (by exact hlt) (by simp) (by rw [ho]; rfl)

theorem fcos (g : Pred) (d : VReg) (a : Src) : Statement (.fcos g d a) := by
  intro hw iw il he
  simp only [encode, Option.some.injEq, Prod.mk.injEq] at he
  obtain ⟨hW, hL⟩ := he
  have := g.isLt
  have := d.isLt
  have := Src.code_lt a
  subst hL
  obtain ⟨ho, q0, q1, q2, q3, hlt⟩ := fields4 (w := iw) 70 (g.val) (d.val) (a.code) (0) (by omega) (by omega) (by omega) (by omega) (by omega) (by omega)
  exact of_row ho rfl (by simp [decFcos, q0, q1, q2, q3, checked, hw]) (by exact hlt) (by simp) (by rw [ho]; rfl)

theorem ftanh (g : Pred) (d : VReg) (a : Src) : Statement (.ftanh g d a) := by
  intro hw iw il he
  simp only [encode, Option.some.injEq, Prod.mk.injEq] at he
  obtain ⟨hW, hL⟩ := he
  have := g.isLt
  have := d.isLt
  have := Src.code_lt a
  subst hL
  obtain ⟨ho, q0, q1, q2, q3, hlt⟩ := fields4 (w := iw) 71 (g.val) (d.val) (a.code) (0) (by omega) (by omega) (by omega) (by omega) (by omega) (by omega)
  exact of_row ho rfl (by simp [decFtanh, q0, q1, q2, q3, checked, hw]) (by exact hlt) (by simp) (by rw [ho]; rfl)

theorem cvtFi (g : Pred) (d : VReg) (a : Src) (rm : RMode) (i : FltTy) (o : IntTy) : Statement (.cvtFi g d a rm i o) := by
  intro hw iw il he
  simp only [encode, Option.some.injEq, Prod.mk.injEq] at he
  obtain ⟨hW, hL⟩ := he
  have := g.isLt
  have := d.isLt
  have := Src.code_lt a
  have := RMode.code_lt rm
  have := FltTy.code_lt i
  have := IntTy.code_lt o
  subst hL
  have ho : opcodeOf iw = 72 := by unfold opcodeOf bits; omega
  have f0 : bits iw 4 1 = 0 := by unfold bits; omega
  have f1 : bits iw 21 3 = g.val := by unfold bits; omega
  have f2 : bits iw 14 7 = d.val := by unfold bits; omega
  have f3 : bits iw 7 7 = a.code := by unfold bits; omega
  have f4 : bits iw 5 2 = rm.code := by unfold bits; omega
  have f5 : bits iw 2 2 = i.code := by unfold bits; omega
  have f6 : bits iw 0 2 = o.code := by unfold bits; omega
  exact of_row ho rfl (by simp [decCvtFi, f0, f1, f2, f3, f4, f5, f6, checked, hw]) (by omega) (by simp) (by rw [ho]; rfl)

theorem cvtIf (g : Pred) (d : VReg) (a : Src) (rm : RMode) (sat : Bool) (i : IntTy) (o : FltTy) : Statement (.cvtIf g d a rm sat i o) := by
  intro hw iw il he
  simp only [encode, Option.some.injEq, Prod.mk.injEq] at he
  obtain ⟨hW, hL⟩ := he
  have := g.isLt
  have := d.isLt
  have := Src.code_lt a
  have := RMode.code_lt rm
  have := Bool.toNat_lt sat
  have := IntTy.code_lt i
  have := FltTy.code_lt o
  subst hL
  have ho : opcodeOf iw = 73 := by unfold opcodeOf bits; omega
  have f0 : bits iw 21 3 = g.val := by unfold bits; omega
  have f1 : bits iw 14 7 = d.val := by unfold bits; omega
  have f2 : bits iw 7 7 = a.code := by unfold bits; omega
  have f3 : bits iw 5 2 = rm.code := by unfold bits; omega
  have f4 : bits iw 4 1 = sat.toNat := by unfold bits; omega
  have f5 : bits iw 2 2 = i.code := by unfold bits; omega
  have f6 : bits iw 0 2 = o.code := by unfold bits; omega
  exact of_row ho rfl (by simp [decCvtIf, f0, f1, f2, f3, f4, f5, f6, checked, hw]) (by omega) (by simp) (by rw [ho]; rfl)

theorem cvtFf (g : Pred) (d : VReg) (a : Src) (rm : RMode) (sat : Bool) (i : FltTy) (o : FltTy) : Statement (.cvtFf g d a rm sat i o) := by
  intro hw iw il he
  simp only [encode, Option.some.injEq, Prod.mk.injEq] at he
  obtain ⟨hW, hL⟩ := he
  have := g.isLt
  have := d.isLt
  have := Src.code_lt a
  have := RMode.code_lt rm
  have := Bool.toNat_lt sat
  have := FltTy.code_lt i
  have := FltTy.code_lt o
  subst hL
  have ho : opcodeOf iw = 74 := by unfold opcodeOf bits; omega
  have f0 : bits iw 21 3 = g.val := by unfold bits; omega
  have f1 : bits iw 14 7 = d.val := by unfold bits; omega
  have f2 : bits iw 7 7 = a.code := by unfold bits; omega
  have f3 : bits iw 5 2 = rm.code := by unfold bits; omega
  have f4 : bits iw 4 1 = sat.toNat := by unfold bits; omega
  have f5 : bits iw 2 2 = i.code := by unfold bits; omega
  have f6 : bits iw 0 2 = o.code := by unfold bits; omega
  exact of_row ho rfl (by simp [decCvtFf, f0, f1, f2, f3, f4, f5, f6, checked, hw]) (by omega) (by simp) (by rw [ho]; rfl)

theorem cvtNr (g : Pred) (d : VReg) (a : Src) (b : KReg) : Statement (.cvtNr g d a b) := by
  intro hw iw il he
  simp only [encode, Option.some.injEq, Prod.mk.injEq] at he
  obtain ⟨hW, hL⟩ := he
  have := g.isLt
  have := d.isLt
  have := Src.code_lt a
  have := b.isLt
  subst hL
  obtain ⟨ho, q0, q1, q2, q3, hlt⟩ := fields4 (w := iw) 75 (g.val) (d.val) (a.code) (96 + b.val) (by omega) (by omega) (by omega) (by omega) (by omega) (by omega)
  exact of_row ho rfl (by simp [decCvtNr, q0, q1, q2, q3, checked, hw]) (by exact hlt) (by simp) (by rw [ho]; rfl)

theorem cvtWd (g : Pred) (d : VReg) (a : Src) (b : KReg) : Statement (.cvtWd g d a b) := by
  intro hw iw il he
  simp only [encode, Option.some.injEq, Prod.mk.injEq] at he
  obtain ⟨hW, hL⟩ := he
  have := g.isLt
  have := d.isLt
  have := Src.code_lt a
  have := b.isLt
  subst hL
  obtain ⟨ho, q0, q1, q2, q3, hlt⟩ := fields4 (w := iw) 76 (g.val) (d.val) (a.code) (96 + b.val) (by omega) (by omega) (by omega) (by omega) (by omega) (by omega)
  exact of_row ho rfl (by simp [decCvtWd, q0, q1, q2, q3, checked, hw]) (by exact hlt) (by simp) (by rw [ho]; rfl)

theorem frnd (g : Pred) (d : VReg) (a : Src) (rm : RMode) (f64 : Bool) : Statement (.frnd g d a rm f64) := by
  intro hw iw il he
  simp only [encode, Option.some.injEq, Prod.mk.injEq] at he
  obtain ⟨hW, hL⟩ := he
  have := g.isLt
  have := d.isLt
  have := Src.code_lt a
  have := RMode.code_lt rm
  have := Bool.toNat_lt f64
  subst hL
  have ho : opcodeOf iw = 77 := by unfold opcodeOf bits; omega
  have f0 : bits iw 1 4 = 0 := by unfold bits; omega
  have f1 : bits iw 21 3 = g.val := by unfold bits; omega
  have f2 : bits iw 14 7 = d.val := by unfold bits; omega
  have f3 : bits iw 7 7 = a.code := by unfold bits; omega
  have f4 : bits iw 5 2 = rm.code := by unfold bits; omega
  have f5 : bits iw 0 1 = f64.toNat := by unfold bits; omega
  exact of_row ho rfl (by simp [decFrnd, f0, f1, f2, f3, f4, f5, checked, hw]) (by omega) (by simp) (by rw [ho]; rfl)

theorem fldexp (g : Pred) (d : VReg) (a : Src) (b : Src) : Statement (.fldexp g d a b) := by
  intro hw iw il he
  simp only [encode, Option.some.injEq, Prod.mk.injEq] at he
  obtain ⟨hW, hL⟩ := he
  have := g.isLt
  have := d.isLt
  have := Src.code_lt a
  have := Src.code_lt b
  subst hL
  obtain ⟨ho, q0, q1, q2, q3, hlt⟩ := fields4 (w := iw) 78 (g.val) (d.val) (a.code) (b.code) (by omega) (by omega) (by omega) (by omega) (by omega) (by omega)
  exact of_row ho rfl (by simp [decFldexp, q0, q1, q2, q3, checked, hw]) (by exact hlt) (by simp) (by rw [ho]; rfl)

theorem shfl (g : Pred) (d : VReg) (a : Src) (b : Src) : Statement (.shfl g d a b) := by
  intro hw iw il he
  simp only [encode, Option.some.injEq, Prod.mk.injEq] at he
  obtain ⟨hW, hL⟩ := he
  have := g.isLt
  have := d.isLt
  have := Src.code_lt a
  have := Src.code_lt b
  subst hL
  obtain ⟨ho, q0, q1, q2, q3, hlt⟩ := fields4 (w := iw) 80 (g.val) (d.val) (a.code) (b.code) (by omega) (by omega) (by omega) (by omega) (by omega) (by omega)
  exact of_row ho rfl (by simp [decShfl, q0, q1, q2, q3, checked, hw]) (by exact hlt) (by simp) (by rw [ho]; rfl)

theorem shflx (g : Pred) (d : VReg) (a : Src) (b : Src) : Statement (.shflx g d a b) := by
  intro hw iw il he
  simp only [encode, Option.some.injEq, Prod.mk.injEq] at he
  obtain ⟨hW, hL⟩ := he
  have := g.isLt
  have := d.isLt
  have := Src.code_lt a
  have := Src.code_lt b
  subst hL
  obtain ⟨ho, q0, q1, q2, q3, hlt⟩ := fields4 (w := iw) 81 (g.val) (d.val) (a.code) (b.code) (by omega) (by omega) (by omega) (by omega) (by omega) (by omega)
  exact of_row ho rfl (by simp [decShflx, q0, q1, q2, q3, checked, hw]) (by exact hlt) (by simp) (by rw [ho]; rfl)

theorem shflup (g : Pred) (d : VReg) (a : Src) (b : Src) : Statement (.shflup g d a b) := by
  intro hw iw il he
  simp only [encode, Option.some.injEq, Prod.mk.injEq] at he
  obtain ⟨hW, hL⟩ := he
  have := g.isLt
  have := d.isLt
  have := Src.code_lt a
  have := Src.code_lt b
  subst hL
  obtain ⟨ho, q0, q1, q2, q3, hlt⟩ := fields4 (w := iw) 82 (g.val) (d.val) (a.code) (b.code) (by omega) (by omega) (by omega) (by omega) (by omega) (by omega)
  exact of_row ho rfl (by simp [decShflup, q0, q1, q2, q3, checked, hw]) (by exact hlt) (by simp) (by rw [ho]; rfl)

theorem shfldn (g : Pred) (d : VReg) (a : Src) (b : Src) : Statement (.shfldn g d a b) := by
  intro hw iw il he
  simp only [encode, Option.some.injEq, Prod.mk.injEq] at he
  obtain ⟨hW, hL⟩ := he
  have := g.isLt
  have := d.isLt
  have := Src.code_lt a
  have := Src.code_lt b
  subst hL
  obtain ⟨ho, q0, q1, q2, q3, hlt⟩ := fields4 (w := iw) 83 (g.val) (d.val) (a.code) (b.code) (by omega) (by omega) (by omega) (by omega) (by omega) (by omega)
  exact of_row ho rfl (by simp [decShfldn, q0, q1, q2, q3, checked, hw]) (by exact hlt) (by simp) (by rw [ho]; rfl)

theorem vote (g : Pred) (d : Pred) (a : Pred) (m : VoteMode) : Statement (.vote g d a m) := by
  intro hw iw il he
  simp only [encode, Option.some.injEq, Prod.mk.injEq] at he
  obtain ⟨hW, hL⟩ := he
  have := g.isLt
  have := d.isLt
  have := a.isLt
  have := VoteMode.code_lt m
  subst hL
  have ho : opcodeOf iw = 84 := by unfold opcodeOf bits; omega
  have f0 : bits iw 17 4 = 0 := by unfold bits; omega
  have f1 : bits iw 10 4 = 0 := by unfold bits; omega
  have f2 : bits iw 2 5 = 0 := by unfold bits; omega
  have f3 : bits iw 21 3 = g.val := by unfold bits; omega
  have f4 : bits iw 14 3 = d.val := by unfold bits; omega
  have f5 : bits iw 7 3 = a.val := by unfold bits; omega
  have f6 : bits iw 0 2 = m.code := by unfold bits; omega
  exact of_row ho rfl (by simp [decVote, f0, f1, f2, f3, f4, f5, f6, checked, hw]) (by omega) (by simp) (by rw [ho]; rfl)

theorem ballot (g : Pred) (d : KReg) (a : Pred) : Statement (.ballot g d a) := by
  intro hw iw il he
  simp only [encode, Option.some.injEq, Prod.mk.injEq] at he
  obtain ⟨hW, hL⟩ := he
  have := g.isLt
  have := d.isLt
  have := a.isLt
  subst hL
  have ho : opcodeOf iw = 85 := by unfold opcodeOf bits; omega
  have f0 : bits iw 10 4 = 0 := by unfold bits; omega
  have f1 : bits iw 0 7 = 0 := by unfold bits; omega
  have f2 : bits iw 21 3 = g.val := by unfold bits; omega
  have f3 : bits iw 14 7 = 96 + d.val := by unfold bits; omega
  have f4 : bits iw 7 3 = a.val := by unfold bits; omega
  exact of_row ho rfl (by simp [decBallot, f0, f1, f2, f3, f4, checked, hw]) (by omega) (by simp) (by rw [ho]; rfl)

theorem lscan (g : Pred) (d : VReg) (a : Src) (o : ScanOp) (excl : Bool) : Statement (.lscan g d a o excl) := by
  intro hw iw il he
  simp only [encode, Option.some.injEq, Prod.mk.injEq] at he
  obtain ⟨hW, hL⟩ := he
  have := g.isLt
  have := d.isLt
  have := Src.code_lt a
  have := ScanOp.code_lt o
  have := Bool.toNat_lt excl
  subst hL
  have ho : opcodeOf iw = 86 := by unfold opcodeOf bits; omega
  have f0 : bits iw 0 3 = 0 := by unfold bits; omega
  have f1 : bits iw 21 3 = g.val := by unfold bits; omega
  have f2 : bits iw 14 7 = d.val := by unfold bits; omega
  have f3 : bits iw 7 7 = a.code := by unfold bits; omega
  have f4 : bits iw 4 3 = o.code := by unfold bits; omega
  have f5 : bits iw 3 1 = excl.toNat := by unfold bits; omega
  exact of_row ho rfl (by simp [decLscan, f0, f1, f2, f3, f4, f5, checked, hw]) (by omega) (by simp) (by rw [ho]; rfl)

theorem lred (g : Pred) (d : KReg) (a : Src) (o : ScanOp) : Statement (.lred g d a o) := by
  intro hw iw il he
  simp only [encode, Option.some.injEq, Prod.mk.injEq] at he
  obtain ⟨hW, hL⟩ := he
  have := g.isLt
  have := d.isLt
  have := Src.code_lt a
  have := ScanOp.code_lt o
  subst hL
  have ho : opcodeOf iw = 87 := by unfold opcodeOf bits; omega
  have f0 : bits iw 0 4 = 0 := by unfold bits; omega
  have f1 : bits iw 21 3 = g.val := by unfold bits; omega
  have f2 : bits iw 14 7 = 96 + d.val := by unfold bits; omega
  have f3 : bits iw 7 7 = a.code := by unfold bits; omega
  have f4 : bits iw 4 3 = o.code := by unfold bits; omega
  exact of_row ho rfl (by simp [decLred, f0, f1, f2, f3, f4, checked, hw]) (by omega) (by simp) (by rw [ho]; rfl)

theorem sreadV (g : Pred) (d : VReg) (a : SReg) : Statement (.sreadV g d a) := by
  intro hw iw il he
  simp only [encode, Option.some.injEq, Prod.mk.injEq] at he
  obtain ⟨hW, hL⟩ := he
  have := g.isLt
  have := d.isLt
  have := SReg.code_lt a
  subst hL
  obtain ⟨ho, q0, q1, q2, q3, hlt⟩ := fields4 (w := iw) 88 (g.val) (d.val) (a.code) (0) (by omega) (by omega) (by omega) (by omega) (by omega) (by omega)
  exact of_row ho rfl (by simp [decSreadV, q0, q1, q2, q3, checked, hw]) (by exact hlt) (by simp) (by rw [ho]; rfl)

theorem matchLanes (g : Pred) (d : VReg) (a : Src) : Statement (.matchLanes g d a) := by
  intro hw iw il he
  simp only [encode, Option.some.injEq, Prod.mk.injEq] at he
  obtain ⟨hW, hL⟩ := he
  have := g.isLt
  have := d.isLt
  have := Src.code_lt a
  subst hL
  obtain ⟨ho, q0, q1, q2, q3, hlt⟩ := fields4 (w := iw) 89 (g.val) (d.val) (a.code) (0) (by omega) (by omega) (by omega) (by omega) (by omega) (by omega)
  exact of_row ho rfl (by simp [decMatchLanes, q0, q1, q2, q3, checked, hw]) (by exact hlt) (by simp) (by rw [ho]; rfl)

theorem iabs (g : Pred) (d : VReg) (a : Src) : Statement (.iabs g d a) := by
  intro hw iw il he
  simp only [encode, Option.some.injEq, Prod.mk.injEq] at he
  obtain ⟨hW, hL⟩ := he
  have := g.isLt
  have := d.isLt
  have := Src.code_lt a
  subst hL
  obtain ⟨ho, q0, q1, q2, q3, hlt⟩ := fields4 (w := iw) 90 (g.val) (d.val) (a.code) (0) (by omega) (by omega) (by omega) (by omega) (by omega) (by omega)
  exact of_row ho rfl (by simp [decIabs, q0, q1, q2, q3, checked, hw]) (by exact hlt) (by simp) (by rw [ho]; rfl)

theorem ard (g : Pred) (d : VReg) (t : BitVec 4) (q : BitVec 2) : Statement (.ard g d t q) := by
  intro hw iw il he
  simp only [encode, Option.some.injEq, Prod.mk.injEq] at he
  obtain ⟨hW, hL⟩ := he
  have := g.isLt
  have := d.isLt
  have := t.isLt
  have := q.isLt
  subst hL
  have ho : opcodeOf iw = 91 := by unfold opcodeOf bits; omega
  have f0 : bits iw 11 3 = 0 := by unfold bits; omega
  have f1 : bits iw 2 5 = 0 := by unfold bits; omega
  have f2 : bits iw 21 3 = g.val := by unfold bits; omega
  have f3 : bits iw 14 7 = d.val := by unfold bits; omega
  have f4 : bits iw 7 4 = t.toNat := by unfold bits; omega
  have f5 : bits iw 0 2 = q.toNat := by unfold bits; omega
  exact of_row ho rfl (by simp [decArd, f0, f1, f2, f3, f4, f5, checked, hw]) (by omega) (by simp) (by rw [ho]; rfl)

theorem awr (g : Pred) (t : BitVec 4) (a : VReg) (q : BitVec 2) : Statement (.awr g t a q) := by
  intro hw iw il he
  simp only [encode, Option.some.injEq, Prod.mk.injEq] at he
  obtain ⟨hW, hL⟩ := he
  have := g.isLt
  have := t.isLt
  have := a.isLt
  have := q.isLt
  subst hL
  have ho : opcodeOf iw = 92 := by unfold opcodeOf bits; omega
  have f0 : bits iw 14 3 = 0 := by unfold bits; omega
  have f1 : bits iw 2 5 = 0 := by unfold bits; omega
  have f2 : bits iw 21 3 = g.val := by unfold bits; omega
  have f3 : bits iw 17 4 = t.toNat := by unfold bits; omega
  have f4 : bits iw 7 7 = a.val := by unfold bits; omega
  have f5 : bits iw 0 2 = q.toNat := by unfold bits; omega
  exact of_row ho rfl (by simp [decAwr, f0, f1, f2, f3, f4, f5, checked, hw]) (by omega) (by simp) (by rw [ho]; rfl)

theorem bra (g : Pred) (o : BitVec 19) (w : Bool) (u : Bool) : Statement (.bra g o w u) := by
  intro hw iw il he
  simp only [encode, Option.some.injEq, Prod.mk.injEq] at he
  obtain ⟨hW, hL⟩ := he
  have := g.isLt
  have := o.isLt
  have := Bool.toNat_lt w
  have := Bool.toNat_lt u
  subst hL
  have ho : opcodeOf iw = 96 := by unfold opcodeOf bits; omega
  have f0 : bits iw 21 3 = g.val := by unfold bits; omega
  have f1 : bits iw 2 19 = o.toNat := by unfold bits; omega
  have f2 : bits iw 1 1 = w.toNat := by unfold bits; omega
  have f3 : bits iw 0 1 = u.toNat := by unfold bits; omega
  exact of_row ho rfl (by simp [decBra, f0, f1, f2, f3, checked, hw]) (by omega) (by simp) (by rw [ho]; rfl)

theorem bral (g : Pred) (w : Bool) (u : Bool) (lit : Word) : Statement (.bral g w u lit) := by
  intro hw iw il he
  simp only [encode, Option.some.injEq, Prod.mk.injEq] at he
  obtain ⟨hW, hL⟩ := he
  have := g.isLt
  have := Bool.toNat_lt w
  have := Bool.toNat_lt u
  have := lit.isLt
  obtain ⟨z, hz⟩ : ∃ z, z = lit.toNat := ⟨_, rfl⟩
  rw [← hz] at hL
  subst hL
  have ho : opcodeOf iw = 97 := by unfold opcodeOf bits; omega
  have f0 : bits iw 14 7 = 0 := by unfold bits; omega
  have f1 : bits iw 7 7 = 0 := by unfold bits; omega
  have f2 : bits iw 2 5 = 0 := by unfold bits; omega
  have f3 : bits iw 21 3 = g.val := by unfold bits; omega
  have f4 : bits iw 1 1 = w.toNat := by unfold bits; omega
  have f5 : bits iw 0 1 = u.toNat := by unfold bits; omega
  exact of_row ho rfl (by simp [decBral, f0, f1, f2, f3, f4, f5, checked, hw, hz]) (by omega) (by simp; omega) (by rw [ho]; rfl)

theorem brx (g : Pred) (a : Src) (w : Bool) (u : Bool) : Statement (.brx g a w u) := by
  intro hw iw il he
  simp only [encode, Option.some.injEq, Prod.mk.injEq] at he
  obtain ⟨hW, hL⟩ := he
  have := g.isLt
  have := Src.code_lt a
  have := Bool.toNat_lt w
  have := Bool.toNat_lt u
  subst hL
  have ho : opcodeOf iw = 98 := by unfold opcodeOf bits; omega
  have f0 : bits iw 14 7 = 0 := by unfold bits; omega
  have f1 : bits iw 2 5 = 0 := by unfold bits; omega
  have f2 : bits iw 21 3 = g.val := by unfold bits; omega
  have f3 : bits iw 7 7 = a.code := by unfold bits; omega
  have f4 : bits iw 1 1 = w.toNat := by unfold bits; omega
  have f5 : bits iw 0 1 = u.toNat := by unfold bits; omega
  exact of_row ho rfl (by simp [decBrx, f0, f1, f2, f3, f4, f5, checked, hw]) (by omega) (by simp) (by rw [ho]; rfl)

theorem call (g : Pred) (d : VReg) (o : BitVec 13) (u : Bool) : Statement (.call g d o u) := by
  intro hw iw il he
  simp only [encode, Option.some.injEq, Prod.mk.injEq] at he
  obtain ⟨hW, hL⟩ := he
  have := g.isLt
  have := d.isLt
  have := o.isLt
  have := Bool.toNat_lt u
  subst hL
  have ho : opcodeOf iw = 99 := by unfold opcodeOf bits; omega
  have f0 : bits iw 21 3 = g.val := by unfold bits; omega
  have f1 : bits iw 14 7 = d.val := by unfold bits; omega
  have f2 : bits iw 1 13 = o.toNat := by unfold bits; omega
  have f3 : bits iw 0 1 = u.toNat := by unfold bits; omega
  exact of_row ho rfl (by simp [decCall, f0, f1, f2, f3, checked, hw]) (by omega) (by simp) (by rw [ho]; rfl)

theorem callx (g : Pred) (d : VReg) (a : Src) (u : Bool) : Statement (.callx g d a u) := by
  intro hw iw il he
  simp only [encode, Option.some.injEq, Prod.mk.injEq] at he
  obtain ⟨hW, hL⟩ := he
  have := g.isLt
  have := d.isLt
  have := Src.code_lt a
  have := Bool.toNat_lt u
  subst hL
  have ho : opcodeOf iw = 100 := by unfold opcodeOf bits; omega
  have f0 : bits iw 1 6 = 0 := by unfold bits; omega
  have f1 : bits iw 21 3 = g.val := by unfold bits; omega
  have f2 : bits iw 14 7 = d.val := by unfold bits; omega
  have f3 : bits iw 7 7 = a.code := by unfold bits; omega
  have f4 : bits iw 0 1 = u.toNat := by unfold bits; omega
  exact of_row ho rfl (by simp [decCallx, f0, f1, f2, f3, f4, checked, hw]) (by omega) (by simp) (by rw [ho]; rfl)

theorem ret (g : Pred) (a : Src) (u : Bool) : Statement (.ret g a u) := by
  intro hw iw il he
  simp only [encode, Option.some.injEq, Prod.mk.injEq] at he
  obtain ⟨hW, hL⟩ := he
  have := g.isLt
  have := Src.code_lt a
  have := Bool.toNat_lt u
  subst hL
  have ho : opcodeOf iw = 101 := by unfold opcodeOf bits; omega
  have f0 : bits iw 14 7 = 0 := by unfold bits; omega
  have f1 : bits iw 1 6 = 0 := by unfold bits; omega
  have f2 : bits iw 21 3 = g.val := by unfold bits; omega
  have f3 : bits iw 7 7 = a.code := by unfold bits; omega
  have f4 : bits iw 0 1 = u.toNat := by unfold bits; omega
  exact of_row ho rfl (by simp [decRet, f0, f1, f2, f3, f4, checked, hw]) (by omega) (by simp) (by rw [ho]; rfl)

theorem exit (g : Pred) : Statement (.exit g) := by
  intro hw iw il he
  simp only [encode, Option.some.injEq, Prod.mk.injEq] at he
  obtain ⟨hW, hL⟩ := he
  have := g.isLt
  subst hL
  have ho : opcodeOf iw = 102 := by unfold opcodeOf bits; omega
  have f0 : bits iw 0 21 = 0 := by unfold bits; omega
  have f1 : bits iw 21 3 = g.val := by unfold bits; omega
  exact of_row ho rfl (by simp [decExit, f0, f1, checked, hw]) (by omega) (by simp) (by rw [ho]; rfl)

theorem trap (g : Pred) (c : BitVec 14) : Statement (.trap g c) := by
  intro hw iw il he
  simp only [encode, Option.some.injEq, Prod.mk.injEq] at he
  obtain ⟨hW, hL⟩ := he
  have := g.isLt
  have := c.isLt
  subst hL
  have ho : opcodeOf iw = 103 := by unfold opcodeOf bits; omega
  have f0 : bits iw 14 7 = 0 := by unfold bits; omega
  have f1 : bits iw 21 3 = g.val := by unfold bits; omega
  have f2 : bits iw 0 14 = c.toNat := by unfold bits; omega
  exact of_row ho rfl (by simp [decTrap, f0, f1, f2, checked, hw]) (by omega) (by simp) (by rw [ho]; rfl)

theorem ld (g : Pred) (d : VReg) (m : LaneMem) (sz : MemSize) (sx : Bool) (h : Hint) : Statement (.ld g d m sz sx h) := by
  intro hw iw il he
  simp only [encode, Option.some.injEq, Prod.mk.injEq] at he
  obtain ⟨hW, hL⟩ := he
  have := g.isLt
  have := d.isLt
  have := Src.code_lt m.base
  have := Src.code_lt m.index
  have := m.off.isLt
  have := MemSize.code_lt sz
  have := Bool.toNat_lt sx
  have := Hint.code_lt h
  obtain ⟨z, hz⟩ : ∃ z, z = m.off.toNat * 256 + sz.code + sx.toNat * 8 + h.code * 16 := ⟨_, rfl⟩
  rw [← hz] at hL
  subst hL
  obtain ⟨ho, q0, q1, q2, q3, hlt⟩ := fields4 (w := iw) 104 (g.val) (d.val) (m.base.code) (m.index.code) (by omega) (by omega) (by omega) (by omega) (by omega) (by omega)
  have f0 : bits z 6 2 = 0 := by unfold bits; omega
  have f5 : bits z 8 24 = m.off.toNat := by unfold bits; omega
  have f6 : bits z 0 3 = sz.code := by unfold bits; omega
  have f7 : bits z 3 1 = sx.toNat := by unfold bits; omega
  have f8 : bits z 4 2 = h.code := by unfold bits; omega
  exact of_row ho rfl (by simp [decLd, laneMem?, q0, q1, q2, q3, f0, f5, f6, f7, f8, checked, hw]) (by exact hlt) (by simp; omega) (by rw [ho]; rfl)

theorem st (g : Pred) (d : Src) (m : LaneMem) (sz : MemSize) (h : Hint) : Statement (.st g d m sz h) := by
  intro hw iw il he
  simp only [encode, Option.some.injEq, Prod.mk.injEq] at he
  obtain ⟨hW, hL⟩ := he
  have := g.isLt
  have := Src.code_lt d
  have := Src.code_lt m.base
  have := Src.code_lt m.index
  have := m.off.isLt
  have := MemSize.code_lt sz
  have := Hint.code_lt h
  obtain ⟨z, hz⟩ : ∃ z, z = m.off.toNat * 256 + sz.code + h.code * 16 := ⟨_, rfl⟩
  rw [← hz] at hL
  subst hL
  obtain ⟨ho, q0, q1, q2, q3, hlt⟩ := fields4 (w := iw) 105 (g.val) (d.code) (m.base.code) (m.index.code) (by omega) (by omega) (by omega) (by omega) (by omega) (by omega)
  have f0 : bits z 6 2 = 0 := by unfold bits; omega
  have f1 : bits z 3 1 = 0 := by unfold bits; omega
  have f6 : bits z 8 24 = m.off.toNat := by unfold bits; omega
  have f7 : bits z 0 3 = sz.code := by unfold bits; omega
  have f8 : bits z 4 2 = h.code := by unfold bits; omega
  exact of_row ho rfl (by simp [decSt, laneMem?, q0, q1, q2, q3, f0, f1, f6, f7, f8, checked, hw]) (by exact hlt) (by simp; omega) (by rw [ho]; rfl)

theorem pref (g : Pred) (m : LaneMem) (lv : PrefLevel) : Statement (.pref g m lv) := by
  intro hw iw il he
  simp only [encode, Option.some.injEq, Prod.mk.injEq] at he
  obtain ⟨hW, hL⟩ := he
  have := g.isLt
  have := Src.code_lt m.base
  have := Src.code_lt m.index
  have := m.off.isLt
  have := PrefLevel.code_lt lv
  obtain ⟨z, hz⟩ : ∃ z, z = m.off.toNat * 256 + lv.code := ⟨_, rfl⟩
  rw [← hz] at hL
  subst hL
  obtain ⟨ho, q0, q1, q2, q3, hlt⟩ := fields4 (w := iw) 106 (g.val) (0) (m.base.code) (m.index.code) (by omega) (by omega) (by omega) (by omega) (by omega) (by omega)
  have f1 : bits z 2 6 = 0 := by unfold bits; omega
  have f5 : bits z 8 24 = m.off.toNat := by unfold bits; omega
  have f6 : bits z 0 2 = lv.code := by unfold bits; omega
  exact of_row ho rfl (by simp [decPref, laneMem?, q0, q1, q2, q3, f1, f5, f6, checked, hw]) (by exact hlt) (by simp; omega) (by rw [ho]; rfl)

theorem atomO (g : Pred) (d : VReg) (m : LaneMem) (sc : Scope) (o : AtomOp) (s64 : Bool) : Statement (.atomO g d m sc o s64) := by
  intro hw iw il he
  simp only [encode, Option.some.injEq, Prod.mk.injEq] at he
  obtain ⟨hW, hL⟩ := he
  have := g.isLt
  have := d.isLt
  have := Src.code_lt m.base
  have := Src.code_lt m.index
  have := m.off.isLt
  have := Scope.code_lt sc
  have := AtomOp.code_lt o
  have := Bool.toNat_lt s64
  obtain ⟨z, hz⟩ : ∃ z, z = m.off.toNat * 256 + sc.code * 32 + o.code * 2 + s64.toNat := ⟨_, rfl⟩
  rw [← hz] at hL
  subst hL
  obtain ⟨ho, q0, q1, q2, q3, hlt⟩ := fields4 (w := iw) 107 (g.val) (d.val) (m.base.code) (m.index.code) (by omega) (by omega) (by omega) (by omega) (by omega) (by omega)
  have f4 : bits z 8 24 = m.off.toNat := by unfold bits; omega
  have f5 : bits z 5 3 = sc.code := by unfold bits; omega
  have f6 : bits z 1 4 = o.code := by unfold bits; omega
  have f7 : bits z 0 1 = s64.toNat := by unfold bits; omega
  exact of_row ho rfl (by simp [decAtomO, laneMem?, q0, q1, q2, q3, f4, f5, f6, f7, checked, hw]) (by exact hlt) (by simp; omega) (by rw [ho]; rfl)

theorem atomU (g : Pred) (d : VReg) (m : LaneMem) (sc : Scope) (o : AtomOp) (s64 : Bool) : Statement (.atomU g d m sc o s64) := by
  intro hw iw il he
  simp only [encode, Option.some.injEq, Prod.mk.injEq] at he
  obtain ⟨hW, hL⟩ := he
  have := g.isLt
  have := d.isLt
  have := Src.code_lt m.base
  have := Src.code_lt m.index
  have := m.off.isLt
  have := Scope.code_lt sc
  have := AtomOp.code_lt o
  have := Bool.toNat_lt s64
  obtain ⟨z, hz⟩ : ∃ z, z = m.off.toNat * 256 + sc.code * 32 + o.code * 2 + s64.toNat := ⟨_, rfl⟩
  rw [← hz] at hL
  subst hL
  obtain ⟨ho, q0, q1, q2, q3, hlt⟩ := fields4 (w := iw) 108 (g.val) (d.val) (m.base.code) (m.index.code) (by omega) (by omega) (by omega) (by omega) (by omega) (by omega)
  have f4 : bits z 8 24 = m.off.toNat := by unfold bits; omega
  have f5 : bits z 5 3 = sc.code := by unfold bits; omega
  have f6 : bits z 1 4 = o.code := by unfold bits; omega
  have f7 : bits z 0 1 = s64.toNat := by unfold bits; omega
  exact of_row ho rfl (by simp [decAtomU, laneMem?, q0, q1, q2, q3, f4, f5, f6, f7, checked, hw]) (by exact hlt) (by simp; omega) (by rw [ho]; rfl)

theorem redO (g : Pred) (d : Src) (m : LaneMem) (sc : Scope) (o : AtomOp) (s64 : Bool) : Statement (.redO g d m sc o s64) := by
  intro hw iw il he
  simp only [encode, Option.some.injEq, Prod.mk.injEq] at he
  obtain ⟨hW, hL⟩ := he
  have := g.isLt
  have := Src.code_lt d
  have := Src.code_lt m.base
  have := Src.code_lt m.index
  have := m.off.isLt
  have := Scope.code_lt sc
  have := AtomOp.code_lt o
  have := Bool.toNat_lt s64
  obtain ⟨z, hz⟩ : ∃ z, z = m.off.toNat * 256 + sc.code * 32 + o.code * 2 + s64.toNat := ⟨_, rfl⟩
  rw [← hz] at hL
  subst hL
  obtain ⟨ho, q0, q1, q2, q3, hlt⟩ := fields4 (w := iw) 109 (g.val) (d.code) (m.base.code) (m.index.code) (by omega) (by omega) (by omega) (by omega) (by omega) (by omega)
  have f4 : bits z 8 24 = m.off.toNat := by unfold bits; omega
  have f5 : bits z 5 3 = sc.code := by unfold bits; omega
  have f6 : bits z 1 4 = o.code := by unfold bits; omega
  have f7 : bits z 0 1 = s64.toNat := by unfold bits; omega
  exact of_row ho rfl (by simp [decRedO, laneMem?, q0, q1, q2, q3, f4, f5, f6, f7, checked, hw]) (by exact hlt) (by simp; omega) (by rw [ho]; rfl)

theorem redU (g : Pred) (d : Src) (m : LaneMem) (sc : Scope) (o : AtomOp) (s64 : Bool) : Statement (.redU g d m sc o s64) := by
  intro hw iw il he
  simp only [encode, Option.some.injEq, Prod.mk.injEq] at he
  obtain ⟨hW, hL⟩ := he
  have := g.isLt
  have := Src.code_lt d
  have := Src.code_lt m.base
  have := Src.code_lt m.index
  have := m.off.isLt
  have := Scope.code_lt sc
  have := AtomOp.code_lt o
  have := Bool.toNat_lt s64
  obtain ⟨z, hz⟩ : ∃ z, z = m.off.toNat * 256 + sc.code * 32 + o.code * 2 + s64.toNat := ⟨_, rfl⟩
  rw [← hz] at hL
  subst hL
  obtain ⟨ho, q0, q1, q2, q3, hlt⟩ := fields4 (w := iw) 110 (g.val) (d.code) (m.base.code) (m.index.code) (by omega) (by omega) (by omega) (by omega) (by omega) (by omega)
  have f4 : bits z 8 24 = m.off.toNat := by unfold bits; omega
  have f5 : bits z 5 3 = sc.code := by unfold bits; omega
  have f6 : bits z 1 4 = o.code := by unfold bits; omega
  have f7 : bits z 0 1 = s64.toNat := by unfold bits; omega
  exact of_row ho rfl (by simp [decRedU, laneMem?, q0, q1, q2, q3, f4, f5, f6, f7, checked, hw]) (by exact hlt) (by simp; omega) (by rw [ho]; rfl)

theorem uiadd (g : Pred) (d : KReg) (a : KReg) (b : KReg) : Statement (.uiadd g d a b) := by
  intro hw iw il he
  simp only [encode, Option.some.injEq, Prod.mk.injEq] at he
  obtain ⟨hW, hL⟩ := he
  have := g.isLt
  have := d.isLt
  have := a.isLt
  have := b.isLt
  subst hL
  obtain ⟨ho, q0, q1, q2, q3, hlt⟩ := fields4 (w := iw) 128 (g.val) (96 + d.val) (96 + a.val) (96 + b.val) (by omega) (by omega) (by omega) (by omega) (by omega) (by omega)
  exact of_row ho rfl (by simp [decUiadd, q0, q1, q2, q3, checked, hw]) (by exact hlt) (by simp) (by rw [ho]; rfl)

theorem uisub (g : Pred) (d : KReg) (a : KReg) (b : KReg) : Statement (.uisub g d a b) := by
  intro hw iw il he
  simp only [encode, Option.some.injEq, Prod.mk.injEq] at he
  obtain ⟨hW, hL⟩ := he
  have := g.isLt
  have := d.isLt
  have := a.isLt
  have := b.isLt
  subst hL
  obtain ⟨ho, q0, q1, q2, q3, hlt⟩ := fields4 (w := iw) 129 (g.val) (96 + d.val) (96 + a.val) (96 + b.val) (by omega) (by omega) (by omega) (by omega) (by omega) (by omega)
  exact of_row ho rfl (by simp [decUisub, q0, q1, q2, q3, checked, hw]) (by exact hlt) (by simp) (by rw [ho]; rfl)

theorem uimul (g : Pred) (d : KReg) (a : KReg) (b : KReg) : Statement (.uimul g d a b) := by
  intro hw iw il he
  simp only [encode, Option.some.injEq, Prod.mk.injEq] at he
  obtain ⟨hW, hL⟩ := he
  have := g.isLt
  have := d.isLt
  have := a.isLt
  have := b.isLt
  subst hL
  obtain ⟨ho, q0, q1, q2, q3, hlt⟩ := fields4 (w := iw) 130 (g.val) (96 + d.val) (96 + a.val) (96 + b.val) (by omega) (by omega) (by omega) (by omega) (by omega) (by omega)
  exact of_row ho rfl (by simp [decUimul, q0, q1, q2, q3, checked, hw]) (by exact hlt) (by simp) (by rw [ho]; rfl)

theorem uimad (g : Pred) (d : KReg) (a : KReg) (b : KReg) : Statement (.uimad g d a b) := by
  intro hw iw il he
  simp only [encode, Option.some.injEq, Prod.mk.injEq] at he
  obtain ⟨hW, hL⟩ := he
  have := g.isLt
  have := d.isLt
  have := a.isLt
  have := b.isLt
  subst hL
  obtain ⟨ho, q0, q1, q2, q3, hlt⟩ := fields4 (w := iw) 131 (g.val) (96 + d.val) (96 + a.val) (96 + b.val) (by omega) (by omega) (by omega) (by omega) (by omega) (by omega)
  exact of_row ho rfl (by simp [decUimad, q0, q1, q2, q3, checked, hw]) (by exact hlt) (by simp) (by rw [ho]; rfl)

theorem uiaddi (g : Pred) (d : KReg) (a : KReg) (lit : Word) : Statement (.uiaddi g d a lit) := by
  intro hw iw il he
  simp only [encode, Option.some.injEq, Prod.mk.injEq] at he
  obtain ⟨hW, hL⟩ := he
  have := g.isLt
  have := d.isLt
  have := a.isLt
  have := lit.isLt
  obtain ⟨z, hz⟩ : ∃ z, z = lit.toNat := ⟨_, rfl⟩
  rw [← hz] at hL
  subst hL
  obtain ⟨ho, q0, q1, q2, q3, hlt⟩ := fields4 (w := iw) 132 (g.val) (96 + d.val) (96 + a.val) (0) (by omega) (by omega) (by omega) (by omega) (by omega) (by omega)
  exact of_row ho rfl (by simp [decUiaddi, q0, q1, q2, q3, checked, hw, hz]) (by exact hlt) (by simp; omega) (by rw [ho]; rfl)

theorem uiadd64 (g : Pred) (d : KReg) (a : KReg) (b : KReg) : Statement (.uiadd64 g d a b) := by
  intro hw iw il he
  simp only [encode, Option.some.injEq, Prod.mk.injEq] at he
  obtain ⟨hW, hL⟩ := he
  have := g.isLt
  have := d.isLt
  have := a.isLt
  have := b.isLt
  subst hL
  obtain ⟨ho, q0, q1, q2, q3, hlt⟩ := fields4 (w := iw) 133 (g.val) (96 + d.val) (96 + a.val) (96 + b.val) (by omega) (by omega) (by omega) (by omega) (by omega) (by omega)
  exact of_row ho rfl (by simp [decUiadd64, q0, q1, q2, q3, checked, hw]) (by exact hlt) (by simp) (by rw [ho]; rfl)

theorem umov (g : Pred) (d : KReg) (a : KReg) : Statement (.umov g d a) := by
  intro hw iw il he
  simp only [encode, Option.some.injEq, Prod.mk.injEq] at he
  obtain ⟨hW, hL⟩ := he
  have := g.isLt
  have := d.isLt
  have := a.isLt
  subst hL
  obtain ⟨ho, q0, q1, q2, q3, hlt⟩ := fields4 (w := iw) 134 (g.val) (96 + d.val) (96 + a.val) (0) (by omega) (by omega) (by omega) (by omega) (by omega) (by omega)
  exact of_row ho rfl (by simp [decUmov, q0, q1, q2, q3, checked, hw]) (by exact hlt) (by simp) (by rw [ho]; rfl)

theorem umovi (g : Pred) (d : KReg) (lit : Word) : Statement (.umovi g d lit) := by
  intro hw iw il he
  simp only [encode, Option.some.injEq, Prod.mk.injEq] at he
  obtain ⟨hW, hL⟩ := he
  have := g.isLt
  have := d.isLt
  have := lit.isLt
  obtain ⟨z, hz⟩ : ∃ z, z = lit.toNat := ⟨_, rfl⟩
  rw [← hz] at hL
  subst hL
  obtain ⟨ho, q0, q1, q2, q3, hlt⟩ := fields4 (w := iw) 135 (g.val) (96 + d.val) (0) (0) (by omega) (by omega) (by omega) (by omega) (by omega) (by omega)
  exact of_row ho rfl (by simp [decUmovi, q0, q1, q2, q3, checked, hw, hz]) (by exact hlt) (by simp; omega) (by rw [ho]; rfl)

theorem uand (g : Pred) (d : KReg) (a : KReg) (b : KReg) : Statement (.uand g d a b) := by
  intro hw iw il he
  simp only [encode, Option.some.injEq, Prod.mk.injEq] at he
  obtain ⟨hW, hL⟩ := he
  have := g.isLt
  have := d.isLt
  have := a.isLt
  have := b.isLt
  subst hL
  obtain ⟨ho, q0, q1, q2, q3, hlt⟩ := fields4 (w := iw) 136 (g.val) (96 + d.val) (96 + a.val) (96 + b.val) (by omega) (by omega) (by omega) (by omega) (by omega) (by omega)
  exact of_row ho rfl (by simp [decUand, q0, q1, q2, q3, checked, hw]) (by exact hlt) (by simp) (by rw [ho]; rfl)

theorem uor (g : Pred) (d : KReg) (a : KReg) (b : KReg) : Statement (.uor g d a b) := by
  intro hw iw il he
  simp only [encode, Option.some.injEq, Prod.mk.injEq] at he
  obtain ⟨hW, hL⟩ := he
  have := g.isLt
  have := d.isLt
  have := a.isLt
  have := b.isLt
  subst hL
  obtain ⟨ho, q0, q1, q2, q3, hlt⟩ := fields4 (w := iw) 137 (g.val) (96 + d.val) (96 + a.val) (96 + b.val) (by omega) (by omega) (by omega) (by omega) (by omega) (by omega)
  exact of_row ho rfl (by simp [decUor, q0, q1, q2, q3, checked, hw]) (by exact hlt) (by simp) (by rw [ho]; rfl)

theorem uxor (g : Pred) (d : KReg) (a : KReg) (b : KReg) : Statement (.uxor g d a b) := by
  intro hw iw il he
  simp only [encode, Option.some.injEq, Prod.mk.injEq] at he
  obtain ⟨hW, hL⟩ := he
  have := g.isLt
  have := d.isLt
  have := a.isLt
  have := b.isLt
  subst hL
  obtain ⟨ho, q0, q1, q2, q3, hlt⟩ := fields4 (w := iw) 138 (g.val) (96 + d.val) (96 + a.val) (96 + b.val) (by omega) (by omega) (by omega) (by omega) (by omega) (by omega)
  exact of_row ho rfl (by simp [decUxor, q0, q1, q2, q3, checked, hw]) (by exact hlt) (by simp) (by rw [ho]; rfl)

theorem ushl (g : Pred) (d : KReg) (a : KReg) (b : KReg) : Statement (.ushl g d a b) := by
  intro hw iw il he
  simp only [encode, Option.some.injEq, Prod.mk.injEq] at he
  obtain ⟨hW, hL⟩ := he
  have := g.isLt
  have := d.isLt
  have := a.isLt
  have := b.isLt
  subst hL
  obtain ⟨ho, q0, q1, q2, q3, hlt⟩ := fields4 (w := iw) 139 (g.val) (96 + d.val) (96 + a.val) (96 + b.val) (by omega) (by omega) (by omega) (by omega) (by omega) (by omega)
  exact of_row ho rfl (by simp [decUshl, q0, q1, q2, q3, checked, hw]) (by exact hlt) (by simp) (by rw [ho]; rfl)

theorem ushrN (g : Pred) (d : KReg) (a : KReg) (b : KReg) : Statement (.ushrN g d a b) := by
  intro hw iw il he
  simp only [encode, Option.some.injEq, Prod.mk.injEq] at he
  obtain ⟨hW, hL⟩ := he
  have := g.isLt
  have := d.isLt
  have := a.isLt
  have := b.isLt
  subst hL
  obtain ⟨ho, q0, q1, q2, q3, hlt⟩ := fields4 (w := iw) 140 (g.val) (96 + d.val) (96 + a.val) (96 + b.val) (by omega) (by omega) (by omega) (by omega) (by omega) (by omega)
  exact of_row ho rfl (by simp [decUshrN, q0, q1, q2, q3, checked, hw]) (by exact hlt) (by simp) (by rw [ho]; rfl)

theorem ushrS (g : Pred) (d : KReg) (a : KReg) (b : KReg) : Statement (.ushrS g d a b) := by
  intro hw iw il he
  simp only [encode, Option.some.injEq, Prod.mk.injEq] at he
  obtain ⟨hW, hL⟩ := he
  have := g.isLt
  have := d.isLt
  have := a.isLt
  have := b.isLt
  subst hL
  obtain ⟨ho, q0, q1, q2, q3, hlt⟩ := fields4 (w := iw) 141 (g.val) (96 + d.val) (96 + a.val) (96 + b.val) (by omega) (by omega) (by omega) (by omega) (by omega) (by omega)
  exact of_row ho rfl (by simp [decUshrS, q0, q1, q2, q3, checked, hw]) (by exact hlt) (by simp) (by rw [ho]; rfl)

theorem uicmpS (g : Pred) (c : Cond) (p : Pred) (a : KReg) (b : KReg) : Statement (.uicmpS g c p a b) := by
  intro hw iw il he
  simp only [encode, Option.some.injEq, Prod.mk.injEq] at he
  obtain ⟨hW, hL⟩ := he
  have := g.isLt
  have := Cond.code_lt c
  have := p.isLt
  have := a.isLt
  have := b.isLt
  subst hL
  have ho : opcodeOf iw = 142 := by unfold opcodeOf bits; omega
  have f0 : bits iw 21 3 = g.val := by unfold bits; omega
  have f1 : bits iw 17 4 = c.code := by unfold bits; omega
  have f2 : bits iw 14 3 = p.val := by unfold bits; omega
  have f3 : bits iw 7 7 = 96 + a.val := by unfold bits; omega
  have f4 : bits iw 0 7 = 96 + b.val := by unfold bits; omega
  exact of_row ho rfl (by simp [decUicmpS, f0, f1, f2, f3, f4, checked, hw]) (by omega) (by simp) (by rw [ho]; rfl)

theorem uicmpN (g : Pred) (c : Cond) (p : Pred) (a : KReg) (b : KReg) : Statement (.uicmpN g c p a b) := by
  intro hw iw il he
  simp only [encode, Option.some.injEq, Prod.mk.injEq] at he
  obtain ⟨hW, hL⟩ := he
  have := g.isLt
  have := Cond.code_lt c
  have := p.isLt
  have := a.isLt
  have := b.isLt
  subst hL
  have ho : opcodeOf iw = 143 := by unfold opcodeOf bits; omega
  have f0 : bits iw 21 3 = g.val := by unfold bits; omega
  have f1 : bits iw 17 4 = c.code := by unfold bits; omega
  have f2 : bits iw 14 3 = p.val := by unfold bits; omega
  have f3 : bits iw 7 7 = 96 + a.val := by unfold bits; omega
  have f4 : bits iw 0 7 = 96 + b.val := by unfold bits; omega
  exact of_row ho rfl (by simp [decUicmpN, f0, f1, f2, f3, f4, checked, hw]) (by omega) (by simp) (by rw [ho]; rfl)

theorem uplop (g : Pred) (lut : BitVec 8) (d : Pred) (a : Pred) (b : Pred) (c : Pred) : Statement (.uplop g lut d a b c) := by
  intro hw iw il he
  simp only [encode, Option.some.injEq, Prod.mk.injEq] at he
  obtain ⟨hW, hL⟩ := he
  have := g.isLt
  have := lut.isLt
  have := d.isLt
  have := a.isLt
  have := b.isLt
  have := c.isLt
  subst hL
  generalize hhi : lut.toNat / 16 = hi at hW
  generalize hlo : lut.toNat % 16 = lo at hW
  have : hi < 16 := by omega
  have : lo < 16 := by omega
  have ho : opcodeOf iw = 144 := by clear hhi hlo; unfold opcodeOf bits; omega
  have f0 : bits iw 6 1 = 0 := by clear hhi hlo; unfold bits; omega
  have f1 : bits iw 21 3 = g.val := by clear hhi hlo; unfold bits; omega
  have f2 : bits iw 17 4 = hi := by clear hhi hlo; unfold bits; omega
  have f3 : bits iw 10 4 = lo := by clear hhi hlo; unfold bits; omega
  have f4 : bits iw 14 3 = d.val := by clear hhi hlo; unfold bits; omega
  have f5 : bits iw 7 3 = a.val := by clear hhi hlo; unfold bits; omega
  have f6 : bits iw 0 3 = b.val := by clear hhi hlo; unfold bits; omega
  have f7 : bits iw 3 3 = c.val := by clear hhi hlo; unfold bits; omega
  exact of_row ho rfl (by simp [decUplop, f0, f1, f2, f3, f4, f5, f6, f7, checked, hw, ← hhi, ← hlo]) (by clear hhi hlo; omega) (by simp) (by rw [ho]; rfl)

theorem ufadd (g : Pred) (d : KReg) (a : KReg) (b : KReg) : Statement (.ufadd g d a b) := by
  intro hw iw il he
  simp only [encode, Option.some.injEq, Prod.mk.injEq] at he
  obtain ⟨hW, hL⟩ := he
  have := g.isLt
  have := d.isLt
  have := a.isLt
  have := b.isLt
  subst hL
  obtain ⟨ho, q0, q1, q2, q3, hlt⟩ := fields4 (w := iw) 145 (g.val) (96 + d.val) (96 + a.val) (96 + b.val) (by omega) (by omega) (by omega) (by omega) (by omega) (by omega)
  exact of_row ho rfl (by simp [decUfadd, q0, q1, q2, q3, checked, hw]) (by exact hlt) (by simp) (by rw [ho]; rfl)

theorem ufmul (g : Pred) (d : KReg) (a : KReg) (b : KReg) : Statement (.ufmul g d a b) := by
  intro hw iw il he
  simp only [encode, Option.some.injEq, Prod.mk.injEq] at he
  obtain ⟨hW, hL⟩ := he
  have := g.isLt
  have := d.isLt
  have := a.isLt
  have := b.isLt
  subst hL
  obtain ⟨ho, q0, q1, q2, q3, hlt⟩ := fields4 (w := iw) 146 (g.val) (96 + d.val) (96 + a.val) (96 + b.val) (by omega) (by omega) (by omega) (by omega) (by omega) (by omega)
  exact of_row ho rfl (by simp [decUfmul, q0, q1, q2, q3, checked, hw]) (by exact hlt) (by simp) (by rw [ho]; rfl)

theorem uffma (g : Pred) (d : KReg) (a : KReg) (b : KReg) : Statement (.uffma g d a b) := by
  intro hw iw il he
  simp only [encode, Option.some.injEq, Prod.mk.injEq] at he
  obtain ⟨hW, hL⟩ := he
  have := g.isLt
  have := d.isLt
  have := a.isLt
  have := b.isLt
  subst hL
  obtain ⟨ho, q0, q1, q2, q3, hlt⟩ := fields4 (w := iw) 147 (g.val) (96 + d.val) (96 + a.val) (96 + b.val) (by omega) (by omega) (by omega) (by omega) (by omega) (by omega)
  exact of_row ho rfl (by simp [decUffma, q0, q1, q2, q3, checked, hw]) (by exact hlt) (by simp) (by rw [ho]; rfl)

theorem ufcmp (g : Pred) (c : Cond) (p : Pred) (a : KReg) (b : KReg) : Statement (.ufcmp g c p a b) := by
  intro hw iw il he
  simp only [encode, Option.some.injEq, Prod.mk.injEq] at he
  obtain ⟨hW, hL⟩ := he
  have := g.isLt
  have := Cond.code_lt c
  have := p.isLt
  have := a.isLt
  have := b.isLt
  subst hL
  have ho : opcodeOf iw = 148 := by unfold opcodeOf bits; omega
  have f0 : bits iw 21 3 = g.val := by unfold bits; omega
  have f1 : bits iw 17 4 = c.code := by unfold bits; omega
  have f2 : bits iw 14 3 = p.val := by unfold bits; omega
  have f3 : bits iw 7 7 = 96 + a.val := by unfold bits; omega
  have f4 : bits iw 0 7 = 96 + b.val := by unfold bits; omega
  exact of_row ho rfl (by simp [decUfcmp, f0, f1, f2, f3, f4, checked, hw]) (by omega) (by simp) (by rw [ho]; rfl)

theorem sreadK (g : Pred) (d : KReg) (a : SReg) : Statement (.sreadK g d a) := by
  intro hw iw il he
  simp only [encode, Option.some.injEq, Prod.mk.injEq] at he
  obtain ⟨hW, hL⟩ := he
  have := g.isLt
  have := d.isLt
  have := SReg.code_lt a
  subst hL
  obtain ⟨ho, q0, q1, q2, q3, hlt⟩ := fields4 (w := iw) 149 (g.val) (96 + d.val) (a.code) (0) (by omega) (by omega) (by omega) (by omega) (by omega) (by omega)
  exact of_row ho rfl (by simp [decSreadK, q0, q1, q2, q3, checked, hw]) (by exact hlt) (by simp) (by rw [ho]; rfl)

theorem ubfx (g : Pred) (d : KReg) (a : KReg) (b : KReg) : Statement (.ubfx g d a b) := by
  intro hw iw il he
  simp only [encode, Option.some.injEq, Prod.mk.injEq] at he
  obtain ⟨hW, hL⟩ := he
  have := g.isLt
  have := d.isLt
  have := a.isLt
  have := b.isLt
  subst hL
  obtain ⟨ho, q0, q1, q2, q3, hlt⟩ := fields4 (w := iw) 150 (g.val) (96 + d.val) (96 + a.val) (96 + b.val) (by omega) (by omega) (by omega) (by omega) (by omega) (by omega)
  exact of_row ho rfl (by simp [decUbfx, q0, q1, q2, q3, checked, hw]) (by exact hlt) (by simp) (by rw [ho]; rfl)

theorem unop (g : Pred) : Statement (.unop g) := by
  intro hw iw il he
  simp only [encode, Option.some.injEq, Prod.mk.injEq] at he
  obtain ⟨hW, hL⟩ := he
  have := g.isLt
  subst hL
  have ho : opcodeOf iw = 151 := by unfold opcodeOf bits; omega
  have f0 : bits iw 0 21 = 0 := by unfold bits; omega
  have f1 : bits iw 21 3 = g.val := by unfold bits; omega
  exact of_row ho rfl (by simp [decUnop, f0, f1, checked, hw]) (by omega) (by simp) (by rw [ho]; rfl)

theorem ubra (g : Pred) (o : BitVec 19) (u : Bool) : Statement (.ubra g o u) := by
  intro hw iw il he
  simp only [encode, Option.some.injEq, Prod.mk.injEq] at he
  obtain ⟨hW, hL⟩ := he
  have := g.isLt
  have := o.isLt
  have := Bool.toNat_lt u
  subst hL
  have ho : opcodeOf iw = 152 := by unfold opcodeOf bits; omega
  have f0 : bits iw 1 1 = 0 := by unfold bits; omega
  have f1 : bits iw 21 3 = g.val := by unfold bits; omega
  have f2 : bits iw 2 19 = o.toNat := by unfold bits; omega
  have f3 : bits iw 0 1 = u.toNat := by unfold bits; omega
  exact of_row ho rfl (by simp [decUbra, f0, f1, f2, f3, checked, hw]) (by omega) (by simp) (by rw [ho]; rfl)

theorem ubral (g : Pred) (u : Bool) (lit : Word) : Statement (.ubral g u lit) := by
  intro hw iw il he
  simp only [encode, Option.some.injEq, Prod.mk.injEq] at he
  obtain ⟨hW, hL⟩ := he
  have := g.isLt
  have := Bool.toNat_lt u
  have := lit.isLt
  obtain ⟨z, hz⟩ : ∃ z, z = lit.toNat := ⟨_, rfl⟩
  rw [← hz] at hL
  subst hL
  have ho : opcodeOf iw = 153 := by unfold opcodeOf bits; omega
  have f0 : bits iw 1 20 = 0 := by unfold bits; omega
  have f1 : bits iw 21 3 = g.val := by unfold bits; omega
  have f2 : bits iw 0 1 = u.toNat := by unfold bits; omega
  exact of_row ho rfl (by simp [decUbral, f0, f1, f2, checked, hw, hz]) (by omega) (by simp; omega) (by rw [ho]; rfl)

theorem yield (g : Pred) : Statement (.yield g) := by
  intro hw iw il he
  simp only [encode, Option.some.injEq, Prod.mk.injEq] at he
  obtain ⟨hW, hL⟩ := he
  have := g.isLt
  subst hL
  have ho : opcodeOf iw = 154 := by unfold opcodeOf bits; omega
  have f0 : bits iw 0 21 = 0 := by unfold bits; omega
  have f1 : bits iw 21 3 = g.val := by unfold bits; omega
  exact of_row ho rfl (by simp [decYield, f0, f1, checked, hw]) (by omega) (by simp) (by rw [ho]; rfl)

theorem tretRetry (g : Pred) : Statement (.tretRetry g) := by
  intro hw iw il he
  simp only [encode, Option.some.injEq, Prod.mk.injEq] at he
  obtain ⟨hW, hL⟩ := he
  have := g.isLt
  subst hL
  have ho : opcodeOf iw = 155 := by unfold opcodeOf bits; omega
  have f0 : bits iw 2 19 = 0 := by unfold bits; omega
  have f1 : bits iw 0 2 = 0 := by unfold bits; omega
  have f2 : bits iw 21 3 = g.val := by unfold bits; omega
  exact of_row ho rfl (by simp [decTretRetry, f0, f1, f2, checked, hw]) (by omega) (by simp) (by rw [ho]; rfl)

theorem tretSkip (g : Pred) : Statement (.tretSkip g) := by
  intro hw iw il he
  simp only [encode, Option.some.injEq, Prod.mk.injEq] at he
  obtain ⟨hW, hL⟩ := he
  have := g.isLt
  subst hL
  have ho : opcodeOf iw = 155 := by unfold opcodeOf bits; omega
  have f0 : bits iw 2 19 = 0 := by unfold bits; omega
  have f1 : bits iw 0 2 = 1 := by unfold bits; omega
  have f2 : bits iw 21 3 = g.val := by unfold bits; omega
  exact of_row ho rfl (by simp [decTretRetry, decTretSkip, f0, f1, f2, checked, hw]) (by omega) (by simp) (by rw [ho]; rfl)

theorem utrap (g : Pred) (c : BitVec 14) : Statement (.utrap g c) := by
  intro hw iw il he
  simp only [encode, Option.some.injEq, Prod.mk.injEq] at he
  obtain ⟨hW, hL⟩ := he
  have := g.isLt
  have := c.isLt
  subst hL
  have ho : opcodeOf iw = 156 := by unfold opcodeOf bits; omega
  have f0 : bits iw 14 7 = 0 := by unfold bits; omega
  have f1 : bits iw 21 3 = g.val := by unfold bits; omega
  have f2 : bits iw 0 14 = c.toNat := by unfold bits; omega
  exact of_row ho rfl (by simp [decUtrap, f0, f1, f2, checked, hw]) (by omega) (by simp) (by rw [ho]; rfl)

theorem kill (g : Pred) : Statement (.kill g) := by
  intro hw iw il he
  simp only [encode, Option.some.injEq, Prod.mk.injEq] at he
  obtain ⟨hW, hL⟩ := he
  have := g.isLt
  subst hL
  have ho : opcodeOf iw = 157 := by unfold opcodeOf bits; omega
  have f0 : bits iw 2 19 = 0 := by unfold bits; omega
  have f1 : bits iw 0 2 = 0 := by unfold bits; omega
  have f2 : bits iw 21 3 = g.val := by unfold bits; omega
  exact of_row ho rfl (by simp [decKill, f0, f1, f2, checked, hw]) (by omega) (by simp) (by rw [ho]; rfl)

theorem killFail (g : Pred) : Statement (.killFail g) := by
  intro hw iw il he
  simp only [encode, Option.some.injEq, Prod.mk.injEq] at he
  obtain ⟨hW, hL⟩ := he
  have := g.isLt
  subst hL
  have ho : opcodeOf iw = 157 := by unfold opcodeOf bits; omega
  have f0 : bits iw 2 19 = 0 := by unfold bits; omega
  have f1 : bits iw 0 2 = 1 := by unfold bits; omega
  have f2 : bits iw 21 3 = g.val := by unfold bits; omega
  exact of_row ho rfl (by simp [decKill, decKillFail, f0, f1, f2, checked, hw]) (by omega) (by simp) (by rw [ho]; rfl)

theorem killSave (g : Pred) : Statement (.killSave g) := by
  intro hw iw il he
  simp only [encode, Option.some.injEq, Prod.mk.injEq] at he
  obtain ⟨hW, hL⟩ := he
  have := g.isLt
  subst hL
  have ho : opcodeOf iw = 157 := by unfold opcodeOf bits; omega
  have f0 : bits iw 2 19 = 0 := by unfold bits; omega
  have f1 : bits iw 0 2 = 2 := by unfold bits; omega
  have f2 : bits iw 21 3 = g.val := by unfold bits; omega
  exact of_row ho rfl (by simp [decKill, decKillFail, decKillSave, f0, f1, f2, checked, hw]) (by omega) (by simp) (by rw [ho]; rfl)

theorem fence (g : Pred) (eng : Bool) (s : Scope) : Statement (.fence g eng s) := by
  intro hw iw il he
  simp only [encode, Option.some.injEq, Prod.mk.injEq] at he
  obtain ⟨hW, hL⟩ := he
  have := g.isLt
  have := Bool.toNat_lt eng
  have := Scope.code_lt s
  subst hL
  have ho : opcodeOf iw = 160 := by unfold opcodeOf bits; omega
  have f0 : bits iw 14 7 = 0 := by unfold bits; omega
  have f1 : bits iw 7 7 = 0 := by unfold bits; omega
  have f2 : bits iw 4 3 = 0 := by unfold bits; omega
  have f3 : bits iw 21 3 = g.val := by unfold bits; omega
  have f4 : bits iw 3 1 = eng.toNat := by unfold bits; omega
  have f5 : bits iw 0 3 = s.code := by unfold bits; omega
  exact of_row ho rfl (by simp [decFence, f0, f1, f2, f3, f4, f5, checked, hw]) (by omega) (by simp) (by rw [ho]; rfl)

theorem binit (g : Pred) (a : KReg) (b : KReg) : Statement (.binit g a b) := by
  intro hw iw il he
  simp only [encode, Option.some.injEq, Prod.mk.injEq] at he
  obtain ⟨hW, hL⟩ := he
  have := g.isLt
  have := a.isLt
  have := b.isLt
  subst hL
  obtain ⟨ho, q0, q1, q2, q3, hlt⟩ := fields4 (w := iw) 161 (g.val) (0) (96 + a.val) (96 + b.val) (by omega) (by omega) (by omega) (by omega) (by omega) (by omega)
  exact of_row ho rfl (by simp [decBinit, q0, q1, q2, q3, checked, hw]) (by exact hlt) (by simp) (by rw [ho]; rfl)

theorem barr (g : Pred) (d : KReg) (a : KReg) : Statement (.barr g d a) := by
  intro hw iw il he
  simp only [encode, Option.some.injEq, Prod.mk.injEq] at he
  obtain ⟨hW, hL⟩ := he
  have := g.isLt
  have := d.isLt
  have := a.isLt
  subst hL
  obtain ⟨ho, q0, q1, q2, q3, hlt⟩ := fields4 (w := iw) 162 (g.val) (96 + d.val) (96 + a.val) (0) (by omega) (by omega) (by omega) (by omega) (by omega) (by omega)
  exact of_row ho rfl (by simp [decBarr, q0, q1, q2, q3, checked, hw]) (by exact hlt) (by simp) (by rw [ho]; rfl)

theorem barrn (g : Pred) (d : KReg) (a : KReg) (b : KReg) : Statement (.barrn g d a b) := by
  intro hw iw il he
  simp only [encode, Option.some.injEq, Prod.mk.injEq] at he
  obtain ⟨hW, hL⟩ := he
  have := g.isLt
  have := d.isLt
  have := a.isLt
  have := b.isLt
  subst hL
  obtain ⟨ho, q0, q1, q2, q3, hlt⟩ := fields4 (w := iw) 163 (g.val) (96 + d.val) (96 + a.val) (96 + b.val) (by omega) (by omega) (by omega) (by omega) (by omega) (by omega)
  exact of_row ho rfl (by simp [decBarrn, q0, q1, q2, q3, checked, hw]) (by exact hlt) (by simp) (by rw [ho]; rfl)

theorem bxpct (g : Pred) (a : KReg) (b : KReg) : Statement (.bxpct g a b) := by
  intro hw iw il he
  simp only [encode, Option.some.injEq, Prod.mk.injEq] at he
  obtain ⟨hW, hL⟩ := he
  have := g.isLt
  have := a.isLt
  have := b.isLt
  subst hL
  obtain ⟨ho, q0, q1, q2, q3, hlt⟩ := fields4 (w := iw) 164 (g.val) (0) (96 + a.val) (96 + b.val) (by omega) (by omega) (by omega) (by omega) (by omega) (by omega)
  exact of_row ho rfl (by simp [decBxpct, q0, q1, q2, q3, checked, hw]) (by exact hlt) (by simp) (by rw [ho]; rfl)

theorem bwait (g : Pred) (d : Pred) (a : KReg) (b : KReg) : Statement (.bwait g d a b) := by
  intro hw iw il he
  simp only [encode, Option.some.injEq, Prod.mk.injEq] at he
  obtain ⟨hW, hL⟩ := he
  have := g.isLt
  have := d.isLt
  have := a.isLt
  have := b.isLt
  subst hL
  have ho : opcodeOf iw = 165 := by unfold opcodeOf bits; omega
  have f0 : bits iw 17 4 = 0 := by unfold bits; omega
  have f1 : bits iw 21 3 = g.val := by unfold bits; omega
  have f2 : bits iw 14 3 = d.val := by unfold bits; omega
  have f3 : bits iw 7 7 = 96 + a.val := by unfold bits; omega
  have f4 : bits iw 0 7 = 96 + b.val := by unfold bits; omega
  exact of_row ho rfl (by simp [decBwait, f0, f1, f2, f3, f4, checked, hw]) (by omega) (by simp) (by rw [ho]; rfl)

theorem tsync (g : Pred) : Statement (.tsync g) := by
  intro hw iw il he
  simp only [encode, Option.some.injEq, Prod.mk.injEq] at he
  obtain ⟨hW, hL⟩ := he
  have := g.isLt
  subst hL
  have ho : opcodeOf iw = 166 := by unfold opcodeOf bits; omega
  have f0 : bits iw 0 21 = 0 := by unfold bits; omega
  have f1 : bits iw 21 3 = g.val := by unfold bits; omega
  exact of_row ho rfl (by simp [decTsync, f0, f1, checked, hw]) (by omega) (by simp) (by rw [ho]; rfl)

theorem csync (g : Pred) : Statement (.csync g) := by
  intro hw iw il he
  simp only [encode, Option.some.injEq, Prod.mk.injEq] at he
  obtain ⟨hW, hL⟩ := he
  have := g.isLt
  subst hL
  have ho : opcodeOf iw = 167 := by unfold opcodeOf bits; omega
  have f0 : bits iw 0 21 = 0 := by unfold bits; omega
  have f1 : bits iw 21 3 = g.val := by unfold bits; omega
  exact of_row ho rfl (by simp [decCsync, f0, f1, checked, hw]) (by omega) (by simp) (by rw [ho]; rfl)

theorem cpgs (g : Pred) (d : KReg) (a : KReg) (b : KReg) : Statement (.cpgs g d a b) := by
  intro hw iw il he
  simp only [encode, Option.some.injEq, Prod.mk.injEq] at he
  obtain ⟨hW, hL⟩ := he
  have := g.isLt
  have := d.isLt
  have := a.isLt
  have := b.isLt
  subst hL
  obtain ⟨ho, q0, q1, q2, q3, hlt⟩ := fields4 (w := iw) 168 (g.val) (96 + d.val) (96 + a.val) (96 + b.val) (by omega) (by omega) (by omega) (by omega) (by omega) (by omega)
  exact of_row ho rfl (by simp [decCpgs, q0, q1, q2, q3, checked, hw]) (by exact hlt) (by simp) (by rw [ho]; rfl)

theorem cpsg (g : Pred) (d : KReg) (a : KReg) (b : KReg) : Statement (.cpsg g d a b) := by
  intro hw iw il he
  simp only [encode, Option.some.injEq, Prod.mk.injEq] at he
  obtain ⟨hW, hL⟩ := he
  have := g.isLt
  have := d.isLt
  have := a.isLt
  have := b.isLt
  subst hL
  obtain ⟨ho, q0, q1, q2, q3, hlt⟩ := fields4 (w := iw) 169 (g.val) (96 + d.val) (96 + a.val) (96 + b.val) (by omega) (by omega) (by omega) (by omega) (by omega) (by omega)
  exact of_row ho rfl (by simp [decCpsg, q0, q1, q2, q3, checked, hw]) (by exact hlt) (by simp) (by rw [ho]; rfl)

theorem cpgg (g : Pred) (d : KReg) (a : KReg) (b : KReg) : Statement (.cpgg g d a b) := by
  intro hw iw il he
  simp only [encode, Option.some.injEq, Prod.mk.injEq] at he
  obtain ⟨hW, hL⟩ := he
  have := g.isLt
  have := d.isLt
  have := a.isLt
  have := b.isLt
  subst hL
  obtain ⟨ho, q0, q1, q2, q3, hlt⟩ := fields4 (w := iw) 170 (g.val) (96 + d.val) (96 + a.val) (96 + b.val) (by omega) (by omega) (by omega) (by omega) (by omega) (by omega)
  exact of_row ho rfl (by simp [decCpgg, q0, q1, q2, q3, checked, hw]) (by exact hlt) (by simp) (by rw [ho]; rfl)

theorem cptr (g : Pred) (d : KReg) (a : KReg) (b : KReg) : Statement (.cptr g d a b) := by
  intro hw iw il he
  simp only [encode, Option.some.injEq, Prod.mk.injEq] at he
  obtain ⟨hW, hL⟩ := he
  have := g.isLt
  have := d.isLt
  have := a.isLt
  have := b.isLt
  subst hL
  obtain ⟨ho, q0, q1, q2, q3, hlt⟩ := fields4 (w := iw) 171 (g.val) (96 + d.val) (96 + a.val) (96 + b.val) (by omega) (by omega) (by omega) (by omega) (by omega) (by omega)
  exact of_row ho rfl (by simp [decCptr, q0, q1, q2, q3, checked, hw]) (by exact hlt) (by simp) (by rw [ho]; rfl)

theorem cpga (g : Pred) (d : KReg) (a : KReg) (b : KReg) : Statement (.cpga g d a b) := by
  intro hw iw il he
  simp only [encode, Option.some.injEq, Prod.mk.injEq] at he
  obtain ⟨hW, hL⟩ := he
  have := g.isLt
  have := d.isLt
  have := a.isLt
  have := b.isLt
  subst hL
  obtain ⟨ho, q0, q1, q2, q3, hlt⟩ := fields4 (w := iw) 172 (g.val) (96 + d.val) (96 + a.val) (96 + b.val) (by omega) (by omega) (by omega) (by omega) (by omega) (by omega)
  exact of_row ho rfl (by simp [decCpga, q0, q1, q2, q3, checked, hw]) (by exact hlt) (by simp) (by rw [ho]; rfl)

theorem cpmc (g : Pred) (d : KReg) (a : KReg) (b : KReg) : Statement (.cpmc g d a b) := by
  intro hw iw il he
  simp only [encode, Option.some.injEq, Prod.mk.injEq] at he
  obtain ⟨hW, hL⟩ := he
  have := g.isLt
  have := d.isLt
  have := a.isLt
  have := b.isLt
  subst hL
  obtain ⟨ho, q0, q1, q2, q3, hlt⟩ := fields4 (w := iw) 173 (g.val) (96 + d.val) (96 + a.val) (96 + b.val) (by omega) (by omega) (by omega) (by omega) (by omega) (by omega)
  exact of_row ho rfl (by simp [decCpmc, q0, q1, q2, q3, checked, hw]) (by exact hlt) (by simp) (by rw [ho]; rfl)

theorem cpmcr (g : Pred) (d : KReg) (a : KReg) : Statement (.cpmcr g d a) := by
  intro hw iw il he
  simp only [encode, Option.some.injEq, Prod.mk.injEq] at he
  obtain ⟨hW, hL⟩ := he
  have := g.isLt
  have := d.isLt
  have := a.isLt
  subst hL
  obtain ⟨ho, q0, q1, q2, q3, hlt⟩ := fields4 (w := iw) 174 (g.val) (96 + d.val) (96 + a.val) (0) (by omega) (by omega) (by omega) (by omega) (by omega) (by omega)
  exact of_row ho rfl (by simp [decCpmcr, q0, q1, q2, q3, checked, hw]) (by exact hlt) (by simp) (by rw [ho]; rfl)

theorem cpwait (g : Pred) (d : KReg) (a : KReg) (m : CopyEvent) : Statement (.cpwait g d a m) := by
  intro hw iw il he
  simp only [encode, Option.some.injEq, Prod.mk.injEq] at he
  obtain ⟨hW, hL⟩ := he
  have := g.isLt
  have := d.isLt
  have := a.isLt
  have := CopyEvent.code_lt m
  subst hL
  have ho : opcodeOf iw = 175 := by unfold opcodeOf bits; omega
  have f0 : bits iw 2 5 = 0 := by unfold bits; omega
  have f1 : bits iw 21 3 = g.val := by unfold bits; omega
  have f2 : bits iw 14 7 = 96 + d.val := by unfold bits; omega
  have f3 : bits iw 7 7 = 96 + a.val := by unfold bits; omega
  have f4 : bits iw 0 2 = m.code := by unfold bits; omega
  exact of_row ho rfl (by simp [decCpwait, f0, f1, f2, f3, f4, checked, hw]) (by omega) (by simp) (by rw [ho]; rfl)

theorem bufget (g : Pred) (d : KReg) (a : KReg) : Statement (.bufget g d a) := by
  intro hw iw il he
  simp only [encode, Option.some.injEq, Prod.mk.injEq] at he
  obtain ⟨hW, hL⟩ := he
  have := g.isLt
  have := d.isLt
  have := a.isLt
  subst hL
  obtain ⟨ho, q0, q1, q2, q3, hlt⟩ := fields4 (w := iw) 176 (g.val) (96 + d.val) (96 + a.val) (0) (by omega) (by omega) (by omega) (by omega) (by omega) (by omega)
  exact of_row ho rfl (by simp [decBufget, q0, q1, q2, q3, checked, hw]) (by exact hlt) (by simp) (by rw [ho]; rfl)

theorem bufput (g : Pred) (a : KReg) : Statement (.bufput g a) := by
  intro hw iw il he
  simp only [encode, Option.some.injEq, Prod.mk.injEq] at he
  obtain ⟨hW, hL⟩ := he
  have := g.isLt
  have := a.isLt
  subst hL
  obtain ⟨ho, q0, q1, q2, q3, hlt⟩ := fields4 (w := iw) 177 (g.val) (0) (96 + a.val) (0) (by omega) (by omega) (by omega) (by omega) (by omega) (by omega)
  exact of_row ho rfl (by simp [decBufput, q0, q1, q2, q3, checked, hw]) (by exact hlt) (by simp) (by rw [ho]; rfl)

theorem bufwait (g : Pred) (a : KReg) (s : BufState) : Statement (.bufwait g a s) := by
  intro hw iw il he
  simp only [encode, Option.some.injEq, Prod.mk.injEq] at he
  obtain ⟨hW, hL⟩ := he
  have := g.isLt
  have := a.isLt
  have := BufState.code_lt s
  subst hL
  have ho : opcodeOf iw = 178 := by unfold opcodeOf bits; omega
  have f0 : bits iw 14 7 = 0 := by unfold bits; omega
  have f1 : bits iw 2 5 = 0 := by unfold bits; omega
  have f2 : bits iw 21 3 = g.val := by unfold bits; omega
  have f3 : bits iw 7 7 = 96 + a.val := by unfold bits; omega
  have f4 : bits iw 0 2 = s.code := by unfold bits; omega
  exact of_row ho rfl (by simp [decBufwait, f0, f1, f2, f3, f4, checked, hw]) (by omega) (by simp) (by rw [ho]; rfl)

theorem bufq (g : Pred) (d : KReg) (a : KReg) : Statement (.bufq g d a) := by
  intro hw iw il he
  simp only [encode, Option.some.injEq, Prod.mk.injEq] at he
  obtain ⟨hW, hL⟩ := he
  have := g.isLt
  have := d.isLt
  have := a.isLt
  subst hL
  obtain ⟨ho, q0, q1, q2, q3, hlt⟩ := fields4 (w := iw) 179 (g.val) (96 + d.val) (96 + a.val) (0) (by omega) (by omega) (by omega) (by omega) (by omega) (by omega)
  exact of_row ho rfl (by simp [decBufq, q0, q1, q2, q3, checked, hw]) (by exact hlt) (by simp) (by rw [ho]; rfl)

theorem shnew (g : Pred) (d : KReg) (a : KReg) : Statement (.shnew g d a) := by
  intro hw iw il he
  simp only [encode, Option.some.injEq, Prod.mk.injEq] at he
  obtain ⟨hW, hL⟩ := he
  have := g.isLt
  have := d.isLt
  have := a.isLt
  subst hL
  obtain ⟨ho, q0, q1, q2, q3, hlt⟩ := fields4 (w := iw) 180 (g.val) (96 + d.val) (96 + a.val) (0) (by omega) (by omega) (by omega) (by omega) (by omega) (by omega)
  exact of_row ho rfl (by simp [decShnew, q0, q1, q2, q3, checked, hw]) (by exact hlt) (by simp) (by rw [ho]; rfl)

theorem shfree (g : Pred) (a : KReg) : Statement (.shfree g a) := by
  intro hw iw il he
  simp only [encode, Option.some.injEq, Prod.mk.injEq] at he
  obtain ⟨hW, hL⟩ := he
  have := g.isLt
  have := a.isLt
  subst hL
  obtain ⟨ho, q0, q1, q2, q3, hlt⟩ := fields4 (w := iw) 181 (g.val) (0) (96 + a.val) (0) (by omega) (by omega) (by omega) (by omega) (by omega) (by omega)
  exact of_row ho rfl (by simp [decShfree, q0, q1, q2, q3, checked, hw]) (by exact hlt) (by simp) (by rw [ho]; rfl)

theorem hrowUp (g : Pred) (d : KReg) (a : KReg) (n : BitVec 6) : Statement (.hrowUp g d a n) := by
  intro hw iw il he
  simp only [encode, Option.some.injEq, Prod.mk.injEq] at he
  obtain ⟨hW, hL⟩ := he
  have := g.isLt
  have := d.isLt
  have := a.isLt
  have := n.isLt
  subst hL
  have ho : opcodeOf iw = 182 := by unfold opcodeOf bits; omega
  have f0 : bits iw 6 1 = 0 := by unfold bits; omega
  have f1 : bits iw 21 3 = g.val := by unfold bits; omega
  have f2 : bits iw 14 7 = 96 + d.val := by unfold bits; omega
  have f3 : bits iw 7 7 = 96 + a.val := by unfold bits; omega
  have f4 : bits iw 0 6 = n.toNat := by unfold bits; omega
  exact of_row ho rfl (by simp [decHrowUp, f0, f1, f2, f3, f4, checked, hw]) (by omega) (by simp) (by rw [ho]; rfl)

theorem hrowDn (g : Pred) (d : KReg) (a : KReg) (n : BitVec 6) : Statement (.hrowDn g d a n) := by
  intro hw iw il he
  simp only [encode, Option.some.injEq, Prod.mk.injEq] at he
  obtain ⟨hW, hL⟩ := he
  have := g.isLt
  have := d.isLt
  have := a.isLt
  have := n.isLt
  subst hL
  have ho : opcodeOf iw = 183 := by unfold opcodeOf bits; omega
  have f0 : bits iw 6 1 = 0 := by unfold bits; omega
  have f1 : bits iw 21 3 = g.val := by unfold bits; omega
  have f2 : bits iw 14 7 = 96 + d.val := by unfold bits; omega
  have f3 : bits iw 7 7 = 96 + a.val := by unfold bits; omega
  have f4 : bits iw 0 6 = n.toNat := by unfold bits; omega
  exact of_row ho rfl (by simp [decHrowDn, f0, f1, f2, f3, f4, checked, hw]) (by omega) (by simp) (by rw [ho]; rfl)

theorem hrowQ (g : Pred) (d : KReg) (a : KReg) : Statement (.hrowQ g d a) := by
  intro hw iw il he
  simp only [encode, Option.some.injEq, Prod.mk.injEq] at he
  obtain ⟨hW, hL⟩ := he
  have := g.isLt
  have := d.isLt
  have := a.isLt
  subst hL
  obtain ⟨ho, q0, q1, q2, q3, hlt⟩ := fields4 (w := iw) 184 (g.val) (96 + d.val) (96 + a.val) (0) (by omega) (by omega) (by omega) (by omega) (by omega) (by omega)
  exact of_row ho rfl (by simp [decHrowQ, q0, q1, q2, q3, checked, hw]) (by exact hlt) (by simp) (by rw [ho]; rfl)

theorem mmab (g : Pred) (t : BitVec 4) (c : Bool) (r : Bool) (a : VReg) (b : KReg) : Statement (.mmab g t c r a b) := by
  intro hw iw il he
  simp only [encode, Option.some.injEq, Prod.mk.injEq] at he
  obtain ⟨hW, hL⟩ := he
  have := g.isLt
  have := t.isLt
  have := Bool.toNat_lt c
  have := Bool.toNat_lt r
  have := a.isLt
  have := b.isLt
  subst hL
  have ho : opcodeOf iw = 185 := by unfold opcodeOf bits; omega
  have f0 : bits iw 14 1 = 0 := by unfold bits; omega
  have f1 : bits iw 21 3 = g.val := by unfold bits; omega
  have f2 : bits iw 17 4 = t.toNat := by unfold bits; omega
  have f3 : bits iw 16 1 = c.toNat := by unfold bits; omega
  have f4 : bits iw 15 1 = r.toNat := by unfold bits; omega
  have f5 : bits iw 7 7 = a.val := by unfold bits; omega
  have f6 : bits iw 0 7 = 96 + b.val := by unfold bits; omega
  exact of_row ho rfl (by simp [decMmab, f0, f1, f2, f3, f4, f5, f6, checked, hw]) (by omega) (by simp) (by rw [ho]; rfl)

theorem mmao (g : Pred) (t : BitVec 4) (c : Bool) (r : Bool) (a : VReg) (b : KReg) : Statement (.mmao g t c r a b) := by
  intro hw iw il he
  simp only [encode, Option.some.injEq, Prod.mk.injEq] at he
  obtain ⟨hW, hL⟩ := he
  have := g.isLt
  have := t.isLt
  have := Bool.toNat_lt c
  have := Bool.toNat_lt r
  have := a.isLt
  have := b.isLt
  subst hL
  have ho : opcodeOf iw = 186 := by unfold opcodeOf bits; omega
  have f0 : bits iw 14 1 = 0 := by unfold bits; omega
  have f1 : bits iw 21 3 = g.val := by unfold bits; omega
  have f2 : bits iw 17 4 = t.toNat := by unfold bits; omega
  have f3 : bits iw 16 1 = c.toNat := by unfold bits; omega
  have f4 : bits iw 15 1 = r.toNat := by unfold bits; omega
  have f5 : bits iw 7 7 = a.val := by unfold bits; omega
  have f6 : bits iw 0 7 = 96 + b.val := by unfold bits; omega
  exact of_row ho rfl (by simp [decMmao, f0, f1, f2, f3, f4, f5, f6, checked, hw]) (by omega) (by simp) (by rw [ho]; rfl)

theorem mmag (g : Pred) (t : BitVec 4) (c : Bool) (r : Bool) (a : VReg) (b : KReg) : Statement (.mmag g t c r a b) := by
  intro hw iw il he
  simp only [encode, Option.some.injEq, Prod.mk.injEq] at he
  obtain ⟨hW, hL⟩ := he
  have := g.isLt
  have := t.isLt
  have := Bool.toNat_lt c
  have := Bool.toNat_lt r
  have := a.isLt
  have := b.isLt
  subst hL
  have ho : opcodeOf iw = 187 := by unfold opcodeOf bits; omega
  have f0 : bits iw 14 1 = 0 := by unfold bits; omega
  have f1 : bits iw 21 3 = g.val := by unfold bits; omega
  have f2 : bits iw 17 4 = t.toNat := by unfold bits; omega
  have f3 : bits iw 16 1 = c.toNat := by unfold bits; omega
  have f4 : bits iw 15 1 = r.toNat := by unfold bits; omega
  have f5 : bits iw 7 7 = a.val := by unfold bits; omega
  have f6 : bits iw 0 7 = 96 + b.val := by unfold bits; omega
  exact of_row ho rfl (by simp [decMmag, f0, f1, f2, f3, f4, f5, f6, checked, hw]) (by omega) (by simp) (by rw [ho]; rfl)

theorem dmma (g : Pred) (t : BitVec 4) (c : Bool) (r : Bool) (ob : Bool) (a : VReg) (b : KReg) : Statement (.dmma g t c r ob a b) := by
  intro hw iw il he
  simp only [encode, Option.some.injEq, Prod.mk.injEq] at he
  obtain ⟨hW, hL⟩ := he
  have := g.isLt
  have := t.isLt
  have := Bool.toNat_lt c
  have := Bool.toNat_lt r
  have := Bool.toNat_lt ob
  have := a.isLt
  have := b.isLt
  subst hL
  have ho : opcodeOf iw = 188 := by unfold opcodeOf bits; omega
  have f0 : bits iw 21 3 = g.val := by unfold bits; omega
  have f1 : bits iw 17 4 = t.toNat := by unfold bits; omega
  have f2 : bits iw 16 1 = c.toNat := by unfold bits; omega
  have f3 : bits iw 15 1 = r.toNat := by unfold bits; omega
  have f4 : bits iw 14 1 = ob.toNat := by unfold bits; omega
  have f5 : bits iw 7 7 = a.val := by unfold bits; omega
  have f6 : bits iw 0 7 = 96 + b.val := by unfold bits; omega
  exact of_row ho rfl (by simp [decDmma, f0, f1, f2, f3, f4, f5, f6, checked, hw]) (by omega) (by simp) (by rw [ho]; rfl)

theorem aclr (g : Pred) (t : BitVec 4) (n : BitVec 4) : Statement (.aclr g t n) := by
  intro hw iw il he
  simp only [encode, Option.some.injEq, Prod.mk.injEq] at he
  obtain ⟨hW, hL⟩ := he
  have := g.isLt
  have := t.isLt
  have := n.isLt
  subst hL
  have ho : opcodeOf iw = 189 := by unfold opcodeOf bits; omega
  have f0 : bits iw 14 3 = 0 := by unfold bits; omega
  have f1 : bits iw 7 7 = 0 := by unfold bits; omega
  have f2 : bits iw 4 3 = 0 := by unfold bits; omega
  have f3 : bits iw 21 3 = g.val := by unfold bits; omega
  have f4 : bits iw 17 4 = t.toNat := by unfold bits; omega
  have f5 : bits iw 0 4 = n.toNat := by unfold bits; omega
  exact of_row ho rfl (by simp [decAclr, f0, f1, f2, f3, f4, f5, checked, hw]) (by omega) (by simp) (by rw [ho]; rfl)

theorem ald (g : Pred) (t : BitVec 4) (a : KReg) (b : KReg) : Statement (.ald g t a b) := by
  intro hw iw il he
  simp only [encode, Option.some.injEq, Prod.mk.injEq] at he
  obtain ⟨hW, hL⟩ := he
  have := g.isLt
  have := t.isLt
  have := a.isLt
  have := b.isLt
  subst hL
  have ho : opcodeOf iw = 190 := by unfold opcodeOf bits; omega
  have f0 : bits iw 14 3 = 0 := by unfold bits; omega
  have f1 : bits iw 21 3 = g.val := by unfold bits; omega
  have f2 : bits iw 17 4 = t.toNat := by unfold bits; omega
  have f3 : bits iw 7 7 = 96 + a.val := by unfold bits; omega
  have f4 : bits iw 0 7 = 96 + b.val := by unfold bits; omega
  exact of_row ho rfl (by simp [decAld, f0, f1, f2, f3, f4, checked, hw]) (by omega) (by simp) (by rw [ho]; rfl)

theorem ast (g : Pred) (t : BitVec 4) (a : KReg) (b : KReg) : Statement (.ast g t a b) := by
  intro hw iw il he
  simp only [encode, Option.some.injEq, Prod.mk.injEq] at he
  obtain ⟨hW, hL⟩ := he
  have := g.isLt
  have := t.isLt
  have := a.isLt
  have := b.isLt
  subst hL
  have ho : opcodeOf iw = 191 := by unfold opcodeOf bits; omega
  have f0 : bits iw 14 3 = 0 := by unfold bits; omega
  have f1 : bits iw 21 3 = g.val := by unfold bits; omega
  have f2 : bits iw 17 4 = t.toNat := by unfold bits; omega
  have f3 : bits iw 7 7 = 96 + a.val := by unfold bits; omega
  have f4 : bits iw 0 7 = 96 + b.val := by unfold bits; omega
  exact of_row ho rfl (by simp [decAst, f0, f1, f2, f3, f4, checked, hw]) (by omega) (by simp) (by rw [ho]; rfl)

theorem obres (g : Pred) (d : KReg) (a : KReg) : Statement (.obres g d a) := by
  intro hw iw il he
  simp only [encode, Option.some.injEq, Prod.mk.injEq] at he
  obtain ⟨hW, hL⟩ := he
  have := g.isLt
  have := d.isLt
  have := a.isLt
  subst hL
  obtain ⟨ho, q0, q1, q2, q3, hlt⟩ := fields4 (w := iw) 192 (g.val) (96 + d.val) (96 + a.val) (0) (by omega) (by omega) (by omega) (by omega) (by omega) (by omega)
  exact of_row ho rfl (by simp [decObres, q0, q1, q2, q3, checked, hw]) (by exact hlt) (by simp) (by rw [ho]; rfl)

theorem obfree (g : Pred) (a : KReg) : Statement (.obfree g a) := by
  intro hw iw il he
  simp only [encode, Option.some.injEq, Prod.mk.injEq] at he
  obtain ⟨hW, hL⟩ := he
  have := g.isLt
  have := a.isLt
  subst hL
  obtain ⟨ho, q0, q1, q2, q3, hlt⟩ := fields4 (w := iw) 193 (g.val) (0) (96 + a.val) (0) (by omega) (by omega) (by omega) (by omega) (by omega) (by omega)
  exact of_row ho rfl (by simp [decObfree, q0, q1, q2, q3, checked, hw]) (by exact hlt) (by simp) (by rw [ho]; rfl)

theorem obld (g : Pred) (d : KReg) (a : KReg) : Statement (.obld g d a) := by
  intro hw iw il he
  simp only [encode, Option.some.injEq, Prod.mk.injEq] at he
  obtain ⟨hW, hL⟩ := he
  have := g.isLt
  have := d.isLt
  have := a.isLt
  subst hL
  obtain ⟨ho, q0, q1, q2, q3, hlt⟩ := fields4 (w := iw) 194 (g.val) (96 + d.val) (96 + a.val) (0) (by omega) (by omega) (by omega) (by omega) (by omega) (by omega)
  exact of_row ho rfl (by simp [decObld, q0, q1, q2, q3, checked, hw]) (by exact hlt) (by simp) (by rw [ho]; rfl)

theorem rsalloc (g : Pred) (d : KReg) (a : KReg) : Statement (.rsalloc g d a) := by
  intro hw iw il he
  simp only [encode, Option.some.injEq, Prod.mk.injEq] at he
  obtain ⟨hW, hL⟩ := he
  have := g.isLt
  have := d.isLt
  have := a.isLt
  subst hL
  obtain ⟨ho, q0, q1, q2, q3, hlt⟩ := fields4 (w := iw) 195 (g.val) (96 + d.val) (96 + a.val) (0) (by omega) (by omega) (by omega) (by omega) (by omega) (by omega)
  exact of_row ho rfl (by simp [decRsalloc, q0, q1, q2, q3, checked, hw]) (by exact hlt) (by simp) (by rw [ho]; rfl)

theorem rsfill (g : Pred) (a : KReg) : Statement (.rsfill g a) := by
  intro hw iw il he
  simp only [encode, Option.some.injEq, Prod.mk.injEq] at he
  obtain ⟨hW, hL⟩ := he
  have := g.isLt
  have := a.isLt
  subst hL
  obtain ⟨ho, q0, q1, q2, q3, hlt⟩ := fields4 (w := iw) 196 (g.val) (0) (96 + a.val) (0) (by omega) (by omega) (by omega) (by omega) (by omega) (by omega)
  exact of_row ho rfl (by simp [decRsfill, q0, q1, q2, q3, checked, hw]) (by exact hlt) (by simp) (by rw [ho]; rfl)

theorem rspin (g : Pred) (a : KReg) : Statement (.rspin g a) := by
  intro hw iw il he
  simp only [encode, Option.some.injEq, Prod.mk.injEq] at he
  obtain ⟨hW, hL⟩ := he
  have := g.isLt
  have := a.isLt
  subst hL
  obtain ⟨ho, q0, q1, q2, q3, hlt⟩ := fields4 (w := iw) 197 (g.val) (0) (96 + a.val) (0) (by omega) (by omega) (by omega) (by omega) (by omega) (by omega)
  exact of_row ho rfl (by simp [decRspin, q0, q1, q2, q3, checked, hw]) (by exact hlt) (by simp) (by rw [ho]; rfl)

theorem rsunpin (g : Pred) (a : KReg) : Statement (.rsunpin g a) := by
  intro hw iw il he
  simp only [encode, Option.some.injEq, Prod.mk.injEq] at he
  obtain ⟨hW, hL⟩ := he
  have := g.isLt
  have := a.isLt
  subst hL
  obtain ⟨ho, q0, q1, q2, q3, hlt⟩ := fields4 (w := iw) 198 (g.val) (0) (96 + a.val) (0) (by omega) (by omega) (by omega) (by omega) (by omega) (by omega)
  exact of_row ho rfl (by simp [decRsunpin, q0, q1, q2, q3, checked, hw]) (by exact hlt) (by simp) (by rw [ho]; rfl)

theorem rsrev (g : Pred) (a : KReg) : Statement (.rsrev g a) := by
  intro hw iw il he
  simp only [encode, Option.some.injEq, Prod.mk.injEq] at he
  obtain ⟨hW, hL⟩ := he
  have := g.isLt
  have := a.isLt
  subst hL
  obtain ⟨ho, q0, q1, q2, q3, hlt⟩ := fields4 (w := iw) 199 (g.val) (0) (96 + a.val) (0) (by omega) (by omega) (by omega) (by omega) (by omega) (by omega)
  exact of_row ho rfl (by simp [decRsrev, q0, q1, q2, q3, checked, hw]) (by exact hlt) (by simp) (by rw [ho]; rfl)

theorem rsq (g : Pred) (d : KReg) (a : KReg) : Statement (.rsq g d a) := by
  intro hw iw il he
  simp only [encode, Option.some.injEq, Prod.mk.injEq] at he
  obtain ⟨hW, hL⟩ := he
  have := g.isLt
  have := d.isLt
  have := a.isLt
  subst hL
  obtain ⟨ho, q0, q1, q2, q3, hlt⟩ := fields4 (w := iw) 200 (g.val) (96 + d.val) (96 + a.val) (0) (by omega) (by omega) (by omega) (by omega) (by omega) (by omega)
  exact of_row ho rfl (by simp [decRsq, q0, q1, q2, q3, checked, hw]) (by exact hlt) (by simp) (by rw [ho]; rfl)

theorem ctabWr (g : Pred) (a : KReg) (q8 : Bool) : Statement (.ctabWr g a q8) := by
  intro hw iw il he
  simp only [encode, Option.some.injEq, Prod.mk.injEq] at he
  obtain ⟨hW, hL⟩ := he
  have := g.isLt
  have := a.isLt
  have := Bool.toNat_lt q8
  subst hL
  have ho : opcodeOf iw = 201 := by unfold opcodeOf bits; omega
  have f0 : bits iw 14 7 = 0 := by unfold bits; omega
  have f1 : bits iw 1 6 = 0 := by unfold bits; omega
  have f2 : bits iw 21 3 = g.val := by unfold bits; omega
  have f3 : bits iw 7 7 = 96 + a.val := by unfold bits; omega
  have f4 : bits iw 0 1 = q8.toNat := by unfold bits; omega
  exact of_row ho rfl (by simp [decCtabWr, f0, f1, f2, f3, f4, checked, hw]) (by omega) (by simp) (by rw [ho]; rfl)

theorem ctabSwap (g : Pred) (s : TableSel) : Statement (.ctabSwap g s) := by
  intro hw iw il he
  simp only [encode, Option.some.injEq, Prod.mk.injEq] at he
  obtain ⟨hW, hL⟩ := he
  have := g.isLt
  have := TableSel.code_lt s
  subst hL
  have ho : opcodeOf iw = 202 := by unfold opcodeOf bits; omega
  have f0 : bits iw 14 7 = 0 := by unfold bits; omega
  have f1 : bits iw 7 7 = 0 := by unfold bits; omega
  have f2 : bits iw 2 5 = 0 := by unfold bits; omega
  have f3 : bits iw 21 3 = g.val := by unfold bits; omega
  have f4 : bits iw 0 2 = s.code := by unfold bits; omega
  exact of_row ho rfl (by simp [decCtabSwap, f0, f1, f2, f3, f4, checked, hw]) (by omega) (by simp) (by rw [ho]; rfl)

theorem ctabRd (g : Pred) (d : KReg) (a : KReg) (gen : Bool) (shadow : Bool) (q8 : Bool) : Statement (.ctabRd g d a gen shadow q8) := by
  intro hw iw il he
  simp only [encode, Option.some.injEq, Prod.mk.injEq] at he
  obtain ⟨hW, hL⟩ := he
  have := g.isLt
  have := d.isLt
  have := a.isLt
  have := Bool.toNat_lt gen
  have := Bool.toNat_lt shadow
  have := Bool.toNat_lt q8
  subst hL
  have ho : opcodeOf iw = 203 := by unfold opcodeOf bits; omega
  have f0 : bits iw 3 4 = 0 := by unfold bits; omega
  have f1 : bits iw 21 3 = g.val := by unfold bits; omega
  have f2 : bits iw 14 7 = 96 + d.val := by unfold bits; omega
  have f3 : bits iw 7 7 = 96 + a.val := by unfold bits; omega
  have f4 : bits iw 2 1 = gen.toNat := by unfold bits; omega
  have f5 : bits iw 1 1 = shadow.toNat := by unfold bits; omega
  have f6 : bits iw 0 1 = q8.toNat := by unfold bits; omega
  exact of_row ho rfl (by simp [decCtabRd, f0, f1, f2, f3, f4, f5, f6, checked, hw]) (by omega) (by simp) (by rw [ho]; rfl)

theorem launch (g : Pred) (a : KReg) : Statement (.launch g a) := by
  intro hw iw il he
  simp only [encode, Option.some.injEq, Prod.mk.injEq] at he
  obtain ⟨hW, hL⟩ := he
  have := g.isLt
  have := a.isLt
  subst hL
  obtain ⟨ho, q0, q1, q2, q3, hlt⟩ := fields4 (w := iw) 208 (g.val) (0) (96 + a.val) (0) (by omega) (by omega) (by omega) (by omega) (by omega) (by omega)
  exact of_row ho rfl (by simp [decLaunch, q0, q1, q2, q3, checked, hw]) (by exact hlt) (by simp) (by rw [ho]; rfl)

theorem launchNb (g : Pred) (d : Pred) (a : KReg) : Statement (.launchNb g d a) := by
  intro hw iw il he
  simp only [encode, Option.some.injEq, Prod.mk.injEq] at he
  obtain ⟨hW, hL⟩ := he
  have := g.isLt
  have := d.isLt
  have := a.isLt
  subst hL
  have ho : opcodeOf iw = 209 := by unfold opcodeOf bits; omega
  have f0 : bits iw 17 4 = 0 := by unfold bits; omega
  have f1 : bits iw 0 7 = 0 := by unfold bits; omega
  have f2 : bits iw 21 3 = g.val := by unfold bits; omega
  have f3 : bits iw 14 3 = d.val := by unfold bits; omega
  have f4 : bits iw 7 7 = 96 + a.val := by unfold bits; omega
  exact of_row ho rfl (by simp [decLaunchNb, f0, f1, f2, f3, f4, checked, hw]) (by omega) (by simp) (by rw [ho]; rfl)

theorem lwait (g : Pred) (d : Pred) (a : KReg) (b : KReg) : Statement (.lwait g d a b) := by
  intro hw iw il he
  simp only [encode, Option.some.injEq, Prod.mk.injEq] at he
  obtain ⟨hW, hL⟩ := he
  have := g.isLt
  have := d.isLt
  have := a.isLt
  have := b.isLt
  subst hL
  have ho : opcodeOf iw = 210 := by unfold opcodeOf bits; omega
  have f0 : bits iw 17 4 = 0 := by unfold bits; omega
  have f1 : bits iw 21 3 = g.val := by unfold bits; omega
  have f2 : bits iw 14 3 = d.val := by unfold bits; omega
  have f3 : bits iw 7 7 = 96 + a.val := by unfold bits; omega
  have f4 : bits iw 0 7 = 96 + b.val := by unfold bits; omega
  exact of_row ho rfl (by simp [decLwait, f0, f1, f2, f3, f4, checked, hw]) (by omega) (by simp) (by rw [ho]; rfl)

theorem lpoll (g : Pred) (d : KReg) (a : KReg) : Statement (.lpoll g d a) := by
  intro hw iw il he
  simp only [encode, Option.some.injEq, Prod.mk.injEq] at he
  obtain ⟨hW, hL⟩ := he
  have := g.isLt
  have := d.isLt
  have := a.isLt
  subst hL
  obtain ⟨ho, q0, q1, q2, q3, hlt⟩ := fields4 (w := iw) 211 (g.val) (96 + d.val) (96 + a.val) (0) (by omega) (by omega) (by omega) (by omega) (by omega) (by omega)
  exact of_row ho rfl (by simp [decLpoll, q0, q1, q2, q3, checked, hw]) (by exact hlt) (by simp) (by rw [ho]; rfl)

theorem spurFork (g : Pred) (d : KReg) (a : KReg) : Statement (.spurFork g d a) := by
  intro hw iw il he
  simp only [encode, Option.some.injEq, Prod.mk.injEq] at he
  obtain ⟨hW, hL⟩ := he
  have := g.isLt
  have := d.isLt
  have := a.isLt
  subst hL
  obtain ⟨ho, q0, q1, q2, q3, hlt⟩ := fields4 (w := iw) 212 (g.val) (96 + d.val) (96 + a.val) (0) (by omega) (by omega) (by omega) (by omega) (by omega) (by omega)
  exact of_row ho rfl (by simp [decSpurFork, q0, q1, q2, q3, checked, hw]) (by exact hlt) (by simp) (by rw [ho]; rfl)

theorem spurJoin (g : Pred) (d : Pred) (a : KReg) (b : KReg) : Statement (.spurJoin g d a b) := by
  intro hw iw il he
  simp only [encode, Option.some.injEq, Prod.mk.injEq] at he
  obtain ⟨hW, hL⟩ := he
  have := g.isLt
  have := d.isLt
  have := a.isLt
  have := b.isLt
  subst hL
  have ho : opcodeOf iw = 213 := by unfold opcodeOf bits; omega
  have f0 : bits iw 17 4 = 0 := by unfold bits; omega
  have f1 : bits iw 21 3 = g.val := by unfold bits; omega
  have f2 : bits iw 14 3 = d.val := by unfold bits; omega
  have f3 : bits iw 7 7 = 96 + a.val := by unfold bits; omega
  have f4 : bits iw 0 7 = 96 + b.val := by unfold bits; omega
  exact of_row ho rfl (by simp [decSpurJoin, f0, f1, f2, f3, f4, checked, hw]) (by omega) (by simp) (by rw [ho]; rfl)

theorem spurCancel (g : Pred) (d : KReg) (a : KReg) : Statement (.spurCancel g d a) := by
  intro hw iw il he
  simp only [encode, Option.some.injEq, Prod.mk.injEq] at he
  obtain ⟨hW, hL⟩ := he
  have := g.isLt
  have := d.isLt
  have := a.isLt
  subst hL
  obtain ⟨ho, q0, q1, q2, q3, hlt⟩ := fields4 (w := iw) 214 (g.val) (96 + d.val) (96 + a.val) (0) (by omega) (by omega) (by omega) (by omega) (by omega) (by omega)
  exact of_row ho rfl (by simp [decSpurCancel, q0, q1, q2, q3, checked, hw]) (by exact hlt) (by simp) (by rw [ho]; rfl)

theorem spurQ (g : Pred) (d : KReg) (a : KReg) : Statement (.spurQ g d a) := by
  intro hw iw il he
  simp only [encode, Option.some.injEq, Prod.mk.injEq] at he
  obtain ⟨hW, hL⟩ := he
  have := g.isLt
  have := d.isLt
  have := a.isLt
  subst hL
  obtain ⟨ho, q0, q1, q2, q3, hlt⟩ := fields4 (w := iw) 215 (g.val) (96 + d.val) (96 + a.val) (0) (by omega) (by omega) (by omega) (by omega) (by omega) (by omega)
  exact of_row ho rfl (by simp [decSpurQ, q0, q1, q2, q3, checked, hw]) (by exact hlt) (by simp) (by rw [ho]; rfl)

theorem sysrd (g : Pred) (d : KReg) (a : SysReg) : Statement (.sysrd g d a) := by
  intro hw iw il he
  simp only [encode, Option.some.injEq, Prod.mk.injEq] at he
  obtain ⟨hW, hL⟩ := he
  have := g.isLt
  have := d.isLt
  have := SysReg.code_lt a
  subst hL
  obtain ⟨ho, q0, q1, q2, q3, hlt⟩ := fields4 (w := iw) 216 (g.val) (96 + d.val) (a.code) (0) (by omega) (by omega) (by omega) (by omega) (by omega) (by omega)
  exact of_row ho rfl (by simp [decSysrd, q0, q1, q2, q3, checked, hw]) (by exact hlt) (by simp) (by rw [ho]; rfl)

theorem syswr (g : Pred) (a : SysReg) (b : KReg) : Statement (.syswr g a b) := by
  intro hw iw il he
  simp only [encode, Option.some.injEq, Prod.mk.injEq] at he
  obtain ⟨hW, hL⟩ := he
  have := g.isLt
  have := SysReg.code_lt a
  have := b.isLt
  subst hL
  obtain ⟨ho, q0, q1, q2, q3, hlt⟩ := fields4 (w := iw) 217 (g.val) (0) (a.code) (96 + b.val) (by omega) (by omega) (by omega) (by omega) (by omega) (by omega)
  exact of_row ho rfl (by simp [decSyswr, q0, q1, q2, q3, checked, hw]) (by exact hlt) (by simp) (by rw [ho]; rfl)

theorem xprobe (g : Pred) (d : KReg) (a : KReg) (b : KReg) : Statement (.xprobe g d a b) := by
  intro hw iw il he
  simp only [encode, Option.some.injEq, Prod.mk.injEq] at he
  obtain ⟨hW, hL⟩ := he
  have := g.isLt
  have := d.isLt
  have := a.isLt
  have := b.isLt
  subst hL
  obtain ⟨ho, q0, q1, q2, q3, hlt⟩ := fields4 (w := iw) 218 (g.val) (96 + d.val) (96 + a.val) (96 + b.val) (by omega) (by omega) (by omega) (by omega) (by omega) (by omega)
  exact of_row ho rfl (by simp [decXprobe, q0, q1, q2, q3, checked, hw]) (by exact hlt) (by simp) (by rw [ho]; rfl)

theorem xinval (g : Pred) (e : Granule) (a : KReg) (b : KReg) : Statement (.xinval g e a b) := by
  intro hw iw il he
  simp only [encode, Option.some.injEq, Prod.mk.injEq] at he
  obtain ⟨hW, hL⟩ := he
  have := g.isLt
  have := Granule.code_lt e
  have := a.isLt
  have := b.isLt
  subst hL
  have ho : opcodeOf iw = 219 := by unfold opcodeOf bits; omega
  have f0 : bits iw 16 5 = 0 := by unfold bits; omega
  have f1 : bits iw 21 3 = g.val := by unfold bits; omega
  have f2 : bits iw 14 2 = e.code := by unfold bits; omega
  have f3 : bits iw 7 7 = 96 + a.val := by unfold bits; omega
  have f4 : bits iw 0 7 = 96 + b.val := by unfold bits; omega
  exact of_row ho rfl (by simp [decXinval, f0, f1, f2, f3, f4, checked, hw]) (by omega) (by simp) (by rw [ho]; rfl)

theorem crsetCons (g : Pred) (b : KReg) : Statement (.crsetCons g b) := by
  intro hw iw il he
  simp only [encode, Option.some.injEq, Prod.mk.injEq] at he
  obtain ⟨hW, hL⟩ := he
  have := g.isLt
  have := b.isLt
  subst hL
  have ho : opcodeOf iw = 220 := by unfold opcodeOf bits; omega
  have f0 : bits iw 14 7 = 0 := by unfold bits; omega
  have f1 : bits iw 9 5 = 0 := by unfold bits; omega
  have f2 : bits iw 7 2 = 0 := by unfold bits; omega
  have f3 : bits iw 21 3 = g.val := by unfold bits; omega
  have f4 : bits iw 0 7 = 96 + b.val := by unfold bits; omega
  exact of_row ho rfl (by simp [decCrsetCons, f0, f1, f2, f3, f4, checked, hw]) (by omega) (by simp) (by rw [ho]; rfl)

theorem crsetThresh (g : Pred) (b : KReg) : Statement (.crsetThresh g b) := by
  intro hw iw il he
  simp only [encode, Option.some.injEq, Prod.mk.injEq] at he
  obtain ⟨hW, hL⟩ := he
  have := g.isLt
  have := b.isLt
  subst hL
  have ho : opcodeOf iw = 220 := by unfold opcodeOf bits; omega
  have f0 : bits iw 14 7 = 0 := by unfold bits; omega
  have f1 : bits iw 9 5 = 0 := by unfold bits; omega
  have f2 : bits iw 7 2 = 1 := by unfold bits; omega
  have f3 : bits iw 21 3 = g.val := by unfold bits; omega
  have f4 : bits iw 0 7 = 96 + b.val := by unfold bits; omega
  exact of_row ho rfl (by simp [decCrsetCons, decCrsetThresh, f0, f1, f2, f3, f4, checked, hw]) (by omega) (by simp) (by rw [ho]; rfl)

theorem crsetProd (g : Pred) (b : KReg) : Statement (.crsetProd g b) := by
  intro hw iw il he
  simp only [encode, Option.some.injEq, Prod.mk.injEq] at he
  obtain ⟨hW, hL⟩ := he
  have := g.isLt
  have := b.isLt
  subst hL
  have ho : opcodeOf iw = 220 := by unfold opcodeOf bits; omega
  have f0 : bits iw 14 7 = 0 := by unfold bits; omega
  have f1 : bits iw 9 5 = 0 := by unfold bits; omega
  have f2 : bits iw 7 2 = 2 := by unfold bits; omega
  have f3 : bits iw 21 3 = g.val := by unfold bits; omega
  have f4 : bits iw 0 7 = 96 + b.val := by unfold bits; omega
  exact of_row ho rfl (by simp [decCrsetCons, decCrsetThresh, decCrsetProd, f0, f1, f2, f3, f4, checked, hw]) (by omega) (by simp) (by rw [ho]; rfl)

theorem crsetEnd (g : Pred) (b : KReg) : Statement (.crsetEnd g b) := by
  intro hw iw il he
  simp only [encode, Option.some.injEq, Prod.mk.injEq] at he
  obtain ⟨hW, hL⟩ := he
  have := g.isLt
  have := b.isLt
  subst hL
  have ho : opcodeOf iw = 220 := by unfold opcodeOf bits; omega
  have f0 : bits iw 14 7 = 0 := by unfold bits; omega
  have f1 : bits iw 9 5 = 0 := by unfold bits; omega
  have f2 : bits iw 7 2 = 3 := by unfold bits; omega
  have f3 : bits iw 21 3 = g.val := by unfold bits; omega
  have f4 : bits iw 0 7 = 96 + b.val := by unfold bits; omega
  exact of_row ho rfl (by simp [decCrsetCons, decCrsetThresh, decCrsetProd, decCrsetEnd, f0, f1, f2, f3, f4, checked, hw]) (by omega) (by simp) (by rw [ho]; rfl)

theorem crposProd (g : Pred) (d : KReg) : Statement (.crposProd g d) := by
  intro hw iw il he
  simp only [encode, Option.some.injEq, Prod.mk.injEq] at he
  obtain ⟨hW, hL⟩ := he
  have := g.isLt
  have := d.isLt
  subst hL
  have ho : opcodeOf iw = 221 := by unfold opcodeOf bits; omega
  have f0 : bits iw 9 5 = 0 := by unfold bits; omega
  have f1 : bits iw 7 2 = 0 := by unfold bits; omega
  have f2 : bits iw 0 7 = 0 := by unfold bits; omega
  have f3 : bits iw 21 3 = g.val := by unfold bits; omega
  have f4 : bits iw 14 7 = 96 + d.val := by unfold bits; omega
  exact of_row ho rfl (by simp [decCrposProd, f0, f1, f2, f3, f4, checked, hw]) (by omega) (by simp) (by rw [ho]; rfl)

theorem crposCons (g : Pred) (d : KReg) : Statement (.crposCons g d) := by
  intro hw iw il he
  simp only [encode, Option.some.injEq, Prod.mk.injEq] at he
  obtain ⟨hW, hL⟩ := he
  have := g.isLt
  have := d.isLt
  subst hL
  have ho : opcodeOf iw = 221 := by unfold opcodeOf bits; omega
  have f0 : bits iw 9 5 = 0 := by unfold bits; omega
  have f1 : bits iw 7 2 = 1 := by unfold bits; omega
  have f2 : bits iw 0 7 = 0 := by unfold bits; omega
  have f3 : bits iw 21 3 = g.val := by unfold bits; omega
  have f4 : bits iw 14 7 = 96 + d.val := by unfold bits; omega
  exact of_row ho rfl (by simp [decCrposProd, decCrposCons, f0, f1, f2, f3, f4, checked, hw]) (by omega) (by simp) (by rw [ho]; rfl)

theorem crposStatus (g : Pred) (d : KReg) : Statement (.crposStatus g d) := by
  intro hw iw il he
  simp only [encode, Option.some.injEq, Prod.mk.injEq] at he
  obtain ⟨hW, hL⟩ := he
  have := g.isLt
  have := d.isLt
  subst hL
  have ho : opcodeOf iw = 221 := by unfold opcodeOf bits; omega
  have f0 : bits iw 9 5 = 0 := by unfold bits; omega
  have f1 : bits iw 7 2 = 2 := by unfold bits; omega
  have f2 : bits iw 0 7 = 0 := by unfold bits; omega
  have f3 : bits iw 21 3 = g.val := by unfold bits; omega
  have f4 : bits iw 14 7 = 96 + d.val := by unfold bits; omega
  exact of_row ho rfl (by simp [decCrposProd, decCrposCons, decCrposStatus, f0, f1, f2, f3, f4, checked, hw]) (by omega) (by simp) (by rw [ho]; rfl)

theorem lmark (g : Pred) (a : KReg) (tag : BitVec 7) : Statement (.lmark g a tag) := by
  intro hw iw il he
  simp only [encode, Option.some.injEq, Prod.mk.injEq] at he
  obtain ⟨hW, hL⟩ := he
  have := g.isLt
  have := a.isLt
  have := tag.isLt
  subst hL
  obtain ⟨ho, q0, q1, q2, q3, hlt⟩ := fields4 (w := iw) 222 (g.val) (0) (96 + a.val) (tag.toNat) (by omega) (by omega) (by omega) (by omega) (by omega) (by omega)
  exact of_row ho rfl (by simp [decLmark, q0, q1, q2, q3, checked, hw]) (by exact hlt) (by simp) (by rw [ho]; rfl)

theorem uld (g : Pred) (d : KReg) (m : UniMem) (sz : MemSize) (sx : Bool) (h : Hint) : Statement (.uld g d m sz sx h) := by
  intro hw iw il he
  simp only [encode, Option.some.injEq, Prod.mk.injEq] at he
  obtain ⟨hW, hL⟩ := he
  have := g.isLt
  have := d.isLt
  have := m.base.isLt
  have := m.index.isLt
  have := m.off.isLt
  have := MemSize.code_lt sz
  have := Bool.toNat_lt sx
  have := Hint.code_lt h
  obtain ⟨z, hz⟩ : ∃ z, z = m.off.toNat * 256 + sz.code + sx.toNat * 8 + h.code * 16 := ⟨_, rfl⟩
  rw [← hz] at hL
  subst hL
  obtain ⟨ho, q0, q1, q2, q3, hlt⟩ := fields4 (w := iw) 224 (g.val) (96 + d.val) (96 + m.base.val) (96 + m.index.val) (by omega) (by omega) (by omega) (by omega) (by omega) (by omega)
  have f0 : bits z 6 2 = 0 := by unfold bits; omega
  have f5 : bits z 8 24 = m.off.toNat := by unfold bits; omega
  have f6 : bits z 0 3 = sz.code := by unfold bits; omega
  have f7 : bits z 3 1 = sx.toNat := by unfold bits; omega
  have f8 : bits z 4 2 = h.code := by unfold bits; omega
  exact of_row ho rfl (by simp [decUld, uniMem?, q0, q1, q2, q3, f0, f5, f6, f7, f8, checked, hw]) (by exact hlt) (by simp; omega) (by rw [ho]; rfl)

theorem ust (g : Pred) (d : KReg) (m : UniMem) (sz : MemSize) (h : Hint) : Statement (.ust g d m sz h) := by
  intro hw iw il he
  simp only [encode, Option.some.injEq, Prod.mk.injEq] at he
  obtain ⟨hW, hL⟩ := he
  have := g.isLt
  have := d.isLt
  have := m.base.isLt
  have := m.index.isLt
  have := m.off.isLt
  have := MemSize.code_lt sz
  have := Hint.code_lt h
  obtain ⟨z, hz⟩ : ∃ z, z = m.off.toNat * 256 + sz.code + h.code * 16 := ⟨_, rfl⟩
  rw [← hz] at hL
  subst hL
  obtain ⟨ho, q0, q1, q2, q3, hlt⟩ := fields4 (w := iw) 225 (g.val) (96 + d.val) (96 + m.base.val) (96 + m.index.val) (by omega) (by omega) (by omega) (by omega) (by omega) (by omega)
  have f0 : bits z 6 2 = 0 := by unfold bits; omega
  have f1 : bits z 3 1 = 0 := by unfold bits; omega
  have f6 : bits z 8 24 = m.off.toNat := by unfold bits; omega
  have f7 : bits z 0 3 = sz.code := by unfold bits; omega
  have f8 : bits z 4 2 = h.code := by unfold bits; omega
  exact of_row ho rfl (by simp [decUst, uniMem?, q0, q1, q2, q3, f0, f1, f6, f7, f8, checked, hw]) (by exact hlt) (by simp; omega) (by rw [ho]; rfl)

theorem dvsave (g : Pred) (m : UniMem) (v95 : Bool) : Statement (.dvsave g m v95) := by
  intro hw iw il he
  simp only [encode, Option.some.injEq, Prod.mk.injEq] at he
  obtain ⟨hW, hL⟩ := he
  have := g.isLt
  have := m.base.isLt
  have := m.index.isLt
  have := m.off.isLt
  have := Bool.toNat_lt v95
  obtain ⟨z, hz⟩ : ∃ z, z = m.off.toNat * 256 + v95.toNat := ⟨_, rfl⟩
  rw [← hz] at hL
  subst hL
  obtain ⟨ho, q0, q1, q2, q3, hlt⟩ := fields4 (w := iw) 226 (g.val) (0) (96 + m.base.val) (96 + m.index.val) (by omega) (by omega) (by omega) (by omega) (by omega) (by omega)
  have f1 : bits z 1 7 = 0 := by unfold bits; omega
  have f5 : bits z 8 24 = m.off.toNat := by unfold bits; omega
  have f6 : bits z 0 1 = v95.toNat := by unfold bits; omega
  exact of_row ho rfl (by simp [decDvsave, uniMem?, q0, q1, q2, q3, f1, f5, f6, checked, hw]) (by exact hlt) (by simp; omega) (by rw [ho]; rfl)

theorem dvload (g : Pred) (m : UniMem) (v95 : Bool) : Statement (.dvload g m v95) := by
  intro hw iw il he
  simp only [encode, Option.some.injEq, Prod.mk.injEq] at he
  obtain ⟨hW, hL⟩ := he
  have := g.isLt
  have := m.base.isLt
  have := m.index.isLt
  have := m.off.isLt
  have := Bool.toNat_lt v95
  obtain ⟨z, hz⟩ : ∃ z, z = m.off.toNat * 256 + v95.toNat := ⟨_, rfl⟩
  rw [← hz] at hL
  subst hL
  obtain ⟨ho, q0, q1, q2, q3, hlt⟩ := fields4 (w := iw) 227 (g.val) (0) (96 + m.base.val) (96 + m.index.val) (by omega) (by omega) (by omega) (by omega) (by omega) (by omega)
  have f1 : bits z 1 7 = 0 := by unfold bits; omega
  have f5 : bits z 8 24 = m.off.toNat := by unfold bits; omega
  have f6 : bits z 0 1 = v95.toNat := by unfold bits; omega
  exact of_row ho rfl (by simp [decDvload, uniMem?, q0, q1, q2, q3, f1, f5, f6, checked, hw]) (by exact hlt) (by simp; omega) (by rw [ho]; rfl)

theorem pageFaultRunahead (gid : Nat) : Statement (.pageFaultRunahead gid) := fun _ _ _ h => absurd h (by simp [encode])

theorem faultBatchPost (gid : Nat) : Statement (.faultBatchPost gid) := fun _ _ _ h => absurd h (by simp [encode])

theorem memReply (tag : Nat) (st : ReplyStatus) (data : List Byte) : Statement (.memReply tag st data) := fun _ _ _ h => absurd h (by simp [encode])

theorem controllerRequest (r : MemReq) (e : Ecc) : Statement (.controllerRequest r e) := fun _ _ _ h => absurd h (by simp [encode])

theorem hwPromote (stack : Nat) (page : Nat) : Statement (.hwPromote stack page) := fun _ _ _ h => absurd h (by simp [encode])

theorem promotionDone (stack : Nat) (page : Nat) : Statement (.promotionDone stack page) := fun _ _ _ h => absurd h (by simp [encode])

theorem writeBackDone (stack : Nat) (page : Nat) : Statement (.writeBackDone stack page) := fun _ _ _ h => absurd h (by simp [encode])

theorem patrolScrub (stack : Nat) (fixed : Nat) (bad : List Nat) : Statement (.patrolScrub stack fixed bad) := fun _ _ _ h => absurd h (by simp [encode])

theorem dieFailing (stack : Nat) (die : Nat) : Statement (.dieFailing stack die) := fun _ _ _ h => absurd h (by simp [encode])

theorem bankHot (stack : Nat) (bank : Nat) : Statement (.bankHot stack bank) := fun _ _ _ h => absurd h (by simp [encode])

theorem remapStart (stack : Nat) (val : Word) : Statement (.remapStart stack val) := fun _ _ _ h => absurd h (by simp [encode])

theorem remapPageMoved (stack : Nat) : Statement (.remapPageMoved stack) := fun _ _ _ h => absurd h (by simp [encode])

theorem remapDone (stack : Nat) : Statement (.remapDone stack) := fun _ _ _ h => absurd h (by simp [encode])

theorem crestWinWrite (stack : Nat) (val : Word) : Statement (.crestWinWrite stack val) := fun _ _ _ h => absurd h (by simp [encode])

theorem crestWinDone (stack : Nat) : Statement (.crestWinDone stack) := fun _ _ _ h => absurd h (by simp [encode])

theorem hbLostclr (stack : Nat) (val : Word) : Statement (.hbLostclr stack val) := fun _ _ _ h => absurd h (by simp [encode])

theorem hbCeClear (stack : Nat) (val : Word) : Statement (.hbCeClear stack val) := fun _ _ _ h => absurd h (by simp [encode])

theorem walkDone (ctx : Nat) (spur : Option Word) (va : Pc) : Statement (.walkDone ctx spur va) := fun _ _ _ h => absurd h (by simp [encode])

theorem copyJobStart (job : Nat) : Statement (.copyJobStart job) := fun _ _ _ h => absurd h (by simp [encode])

theorem copyItem (job : Nat) (item : Nat) : Statement (.copyItem job item) := fun _ _ _ h => absurd h (by simp [encode])

theorem parkRelease (gid : Nat) : Statement (.parkRelease gid) := fun _ _ _ h => absurd h (by simp [encode])

theorem mmaRetire (tid : Nat) : Statement (.mmaRetire tid) := fun _ _ _ h => absurd h (by simp [encode])

theorem residencyLoadDone (core : Nat) (ctx : Nat) (slot : Nat) : Statement (.residencyLoadDone core ctx slot) := fun _ _ _ h => absurd h (by simp [encode])

theorem bwaitTimeout (gid : Nat) : Statement (.bwaitTimeout gid) := fun _ _ _ h => absurd h (by simp [encode])

theorem joinTimeout (gid : Nat) : Statement (.joinTimeout gid) := fun _ _ _ h => absurd h (by simp [encode])

theorem lwaitWake (gid : Nat) : Statement (.lwaitWake gid) := fun _ _ _ h => absurd h (by simp [encode])

theorem swapOut (tid : Nat) : Statement (.swapOut tid) := fun _ _ _ h => absurd h (by simp [encode])

theorem launchAccept (tid : Nat) : Statement (.launchAccept tid) := fun _ _ _ h => absurd h (by simp [encode])

theorem dispatch : Statement .dispatch := fun _ _ _ h => absurd h (by simp [encode])

theorem backfillStop : Statement .backfillStop := fun _ _ _ h => absurd h (by simp [encode])

theorem dispatchPreempt : Statement .dispatchPreempt := fun _ _ _ h => absurd h (by simp [encode])

theorem gridComplete (ctx : Nat) (serial : Nat) : Statement (.gridComplete ctx serial) := fun _ _ _ h => absurd h (by simp [encode])

theorem reductionDrain (ctx : Nat) (serial : Nat) : Statement (.reductionDrain ctx serial) := fun _ _ _ h => absurd h (by simp [encode])

theorem ticketPass (ctx : Nat) (serial : Nat) : Statement (.ticketPass ctx serial) := fun _ _ _ h => absurd h (by simp [encode])

theorem spurReclaimDone (ctx : Nat) (slot : Nat) : Statement (.spurReclaimDone ctx slot) := fun _ _ _ h => absurd h (by simp [encode])

theorem preemptDeadline (tid : Nat) : Statement (.preemptDeadline tid) := fun _ _ _ h => absurd h (by simp [encode])

theorem cutComplete (tid : Nat) : Statement (.cutComplete tid) := fun _ _ _ h => absurd h (by simp [encode])

theorem saveTimeout (gid : Nat) : Statement (.saveTimeout gid) := fun _ _ _ h => absurd h (by simp [encode])

theorem teamRestore (tid : Nat) : Statement (.teamRestore tid) := fun _ _ _ h => absurd h (by simp [encode])

theorem sensorSample (core : Nat) (temp : BitVec 16) (outlet : BitVec 8) : Statement (.sensorSample core temp outlet) := fun _ _ _ h => absurd h (by simp [encode])

theorem screeDecision (column : Nat) : Statement (.screeDecision column) := fun _ _ _ h => absurd h (by simp [encode])

theorem migrationStart (column : Nat) : Statement (.migrationStart column) := fun _ _ _ h => absurd h (by simp [encode])

theorem migrationDeferExpiry (column : Nat) : Statement (.migrationDeferExpiry column) := fun _ _ _ h => absurd h (by simp [encode])

theorem migrationDone (column : Nat) : Statement (.migrationDone column) := fun _ _ _ h => absurd h (by simp [encode])

theorem balanceWindow (massif : Nat) (rail : Nat) (load : List Nat) : Statement (.balanceWindow massif rail load) := fun _ _ _ h => absurd h (by simp [encode])

theorem clockPointChange (point : Nat) : Statement (.clockPointChange point) := fun _ _ _ h => absurd h (by simp [encode])

theorem powerEnforce (power : Nat) : Statement (.powerEnforce power) := fun _ _ _ h => absurd h (by simp [encode])

theorem thermEmerg : Statement .thermEmerg := fun _ _ _ h => absurd h (by simp [encode])

theorem emergDeadline : Statement .emergDeadline := fun _ _ _ h => absurd h (by simp [encode])

theorem emergRailsOff : Statement .emergRailsOff := fun _ _ _ h => absurd h (by simp [encode])

theorem thermResume (val : Word) : Statement (.thermResume val) := fun _ _ _ h => absurd h (by simp [encode])

theorem pwrCap (val : Word) : Statement (.pwrCap val) := fun _ _ _ h => absurd h (by simp [encode])

theorem leaseExpired : Statement .leaseExpired := fun _ _ _ h => absurd h (by simp [encode])

theorem logicalClockAdvance : Statement .logicalClockAdvance := fun _ _ _ h => absurd h (by simp [encode])

theorem queueNotify (fn : Nat) (queue : Nat) (val : Word) : Statement (.queueNotify fn queue val) := fun _ _ _ h => absurd h (by simp [encode])

theorem queueLaunchCommand (queue : Nat) : Statement (.queueLaunchCommand queue) := fun _ _ _ h => absurd h (by simp [encode])

theorem queueWaitCommand (queue : Nat) : Statement (.queueWaitCommand queue) := fun _ _ _ h => absurd h (by simp [encode])

theorem queueSequence (queue : Nat) : Statement (.queueSequence queue) := fun _ _ _ h => absurd h (by simp [encode])

theorem queueMap : Statement .queueMap := fun _ _ _ h => absurd h (by simp [encode])

theorem queueEvict : Statement .queueEvict := fun _ _ _ h => absurd h (by simp [encode])

theorem queueIdle (queue : Nat) : Statement (.queueIdle queue) := fun _ _ _ h => absurd h (by simp [encode])

theorem qregRegister (fn : Nat) (ctx : Nat) (val : Word) : Statement (.qregRegister fn ctx val) := fun _ _ _ h => absurd h (by simp [encode])

theorem qregUnregister (fn : Nat) (ctx : Nat) (val : Word) : Statement (.qregUnregister fn ctx val) := fun _ _ _ h => absurd h (by simp [encode])

theorem qregReset (fn : Nat) (ctx : Nat) (val : Word) : Statement (.qregReset fn ctx val) := fun _ _ _ h => absurd h (by simp [encode])

theorem hostInvalidate (fn : Nat) (ctx : Nat) (val : Word) : Statement (.hostInvalidate fn ctx val) := fun _ _ _ h => absurd h (by simp [encode])

theorem hostInvalidateDone (ctx : Nat) : Statement (.hostInvalidateDone ctx) := fun _ _ _ h => absurd h (by simp [encode])

theorem contextCreate (fn : Nat) (ctx : Nat) (val : Word) : Statement (.contextCreate fn ctx val) := fun _ _ _ h => absurd h (by simp [encode])

theorem contextDestroy (fn : Nat) (ctx : Nat) (val : Word) : Statement (.contextDestroy fn ctx val) := fun _ _ _ h => absurd h (by simp [encode])

theorem ctxDown (ctx : Nat) : Statement (.ctxDown ctx) := fun _ _ _ h => absurd h (by simp [encode])

theorem preemptRequest (fn : Nat) (ctx : Nat) (val : Word) : Statement (.preemptRequest fn ctx val) := fun _ _ _ h => absurd h (by simp [encode])

theorem tqConsWrite (fn : Nat) (ctx : Nat) (val : Word) : Statement (.tqConsWrite fn ctx val) := fun _ _ _ h => absurd h (by simp [encode])

theorem tqReplay (fn : Nat) (ctx : Nat) (val : Word) : Statement (.tqReplay fn ctx val) := fun _ _ _ h => absurd h (by simp [encode])

theorem tqAbandon (fn : Nat) (ctx : Nat) (val : Word) : Statement (.tqAbandon fn ctx val) := fun _ _ _ h => absurd h (by simp [encode])

theorem poolPush (fn : Nat) (ctx : Nat) (val : Word) : Statement (.poolPush fn ctx val) := fun _ _ _ h => absurd h (by simp [encode])

theorem cairnDirWrite (fn : Nat) (ctx : Nat) (val : Word) : Statement (.cairnDirWrite fn ctx val) := fun _ _ _ h => absurd h (by simp [encode])

theorem cairnConsWrite (fn : Nat) (ctx : Nat) (val : Word) : Statement (.cairnConsWrite fn ctx val) := fun _ _ _ h => absurd h (by simp [encode])

theorem cairnProdWrite (fn : Nat) (ctx : Nat) (val : Word) : Statement (.cairnProdWrite fn ctx val) := fun _ _ _ h => absurd h (by simp [encode])

theorem evqConsWrite (fn : Nat) (val : Word) : Statement (.evqConsWrite fn val) := fun _ _ _ h => absurd h (by simp [encode])

theorem registerWrite (fn : Nat) (off : Nat) (val : Word) : Statement (.registerWrite fn off val) := fun _ _ _ h => absurd h (by simp [encode])

theorem hostBar4Read (off : Nat) (len : Nat) : Statement (.hostBar4Read off len) := fun _ _ _ h => absurd h (by simp [encode])

theorem hostBar4Write (off : Nat) (data : List Byte) : Statement (.hostBar4Write off data) := fun _ _ _ h => absurd h (by simp [encode])

theorem hostTimeout (tag : Nat) : Statement (.hostTimeout tag) := fun _ _ _ h => absurd h (by simp [encode])

theorem pcieDown (lost : Nat) : Statement (.pcieDown lost) := fun _ _ _ h => absurd h (by simp [encode])

theorem peerRequest (chip : Nat) (r : MemReq) : Statement (.peerRequest chip r) := fun _ _ _ h => absurd h (by simp [encode])

theorem peerTimeout (tag : Nat) : Statement (.peerTimeout tag) := fun _ _ _ h => absurd h (by simp [encode])

theorem linkDown (port : Nat) : Statement (.linkDown port) := fun _ _ _ h => absurd h (by simp [encode])

theorem linkUp (port : Nat) (peer : BitVec 12) : Statement (.linkUp port peer) := fun _ _ _ h => absurd h (by simp [encode])

theorem portDisable (port : Nat) : Statement (.portDisable port) := fun _ _ _ h => absurd h (by simp [encode])

theorem keyRollover (port : Nat) (tx : Bool) : Statement (.keyRollover port tx) := fun _ _ _ h => absurd h (by simp [encode])

theorem spdmRequest (viaPort : Option Nat) (code : SpdmCode) : Statement (.spdmRequest viaPort code) := fun _ _ _ h => absurd h (by simp [encode])

theorem coldReset : Statement .coldReset := fun _ _ _ h => absurd h (by simp [encode])

theorem warmReset : Statement .warmReset := fun _ _ _ h => absurd h (by simp [encode])

theorem vfFlr (fn : Nat) : Statement (.vfFlr fn) := fun _ _ _ h => absurd h (by simp [encode])

theorem startupDone : Statement .startupDone := fun _ _ _ h => absurd h (by simp [encode])

theorem lcWriteImage (val : Word) : Statement (.lcWriteImage val) := fun _ _ _ h => absurd h (by simp [encode])

theorem lcWriteImageDone (img : Option Image) : Statement (.lcWriteImageDone img) := fun _ _ _ h => absurd h (by simp [encode])

theorem lcSubmitToken (val : Word) (tok : Option Token) : Statement (.lcSubmitToken val tok) := fun _ _ _ h => absurd h (by simp [encode])

theorem lcFetchNonce (val : Word) (entropy : BitVec 128) (ok : Bool) : Statement (.lcFetchNonce val entropy ok) := fun _ _ _ h => absurd h (by simp [encode])

theorem illegalOpcode : Statement .illegalOpcode := fun _ _ _ h => absurd h (by simp [encode])

theorem fetchFault : Statement .fetchFault := fun _ _ _ h => absurd h (by simp [encode])

theorem hostAtomicop (off : Nat) (op : AtomOp) (s64 : Bool) (x : DWord) (c : DWord) : Statement (.hostAtomicop off op s64 x c) := fun _ _ _ h => absurd h (by simp [encode])

theorem cairnEndWrite (fn : Nat) (ctx : Nat) (val : Word) : Statement (.cairnEndWrite fn ctx val) := fun _ _ _ h => absurd h (by simp [encode])

theorem evqPendClear (fn : Nat) (val : Word) : Statement (.evqPendClear fn val) := fun _ _ _ h => absurd h (by simp [encode])

end Laws.Encoding

end Sys2Proof
end

