-- ==== Sys2Proof/Safety.lean ====
section
/-! DEFINITION. What a safe run is, and the words in which statements say what an instruction does: what it leaves alone, what
its group's registers hold after it. -/

namespace Sys2Proof.Machine

/-! ## Safe runs -/

/-- A step from s goes on. -/
def State.goesOn (s : State) : Prop := ∃ t, step s = .next t

/-- Every one of the first n steps from s goes on. -/
def safeRun : Nat → State → Prop
  | 0, _ => True
  | n + 1, s => ∃ t, step s = .next t ∧ safeRun n t

/-! ## What an instruction leaves alone -/

/-- Everything outside the running group is as before: every byte of memory, every other group, every team but for its
rotation pointer, every context but for its performance counters, and every other part of the state. -/
structure Frame (s t : State) (e : Env) : Prop where
  mem    : ∀ a, getB t.mem a = getB s.mem a
  host   : ∀ a, getB t.hostMem a = getB s.hostMem a
  groups : ∀ n, n ≠ e.g.gid → t.group? n = s.group? n
  teams  : ∀ n, (t.team? n).map (fun u => { u with rot := 0 }) = (s.team? n).map (fun u => { u with rot := 0 })
  ctxs   : ∀ c, (t.ctx? c).map (fun x => { x with counters := [] }) = (s.ctx? c).map (fun x => { x with counters := [] })
  rest   : t = { s with cur := none, groups := t.groups, teams := t.teams, ctxs := t.ctxs }

/-- The group e.g has completed its instruction and become h, with a reuse latch; beside its registers only %retired and the
marks of a wait that is over have changed, so its trap registers and its shadow are as before. -/
structure Passed (s t : State) (e : Env) (latch : Option Latch) (h : Group) : Prop where
  frame : Frame s t e
  found : t.group? e.g.gid = some h
  group : h = { e.g with
    regs := h.regs
    latch := latch
    retired := e.g.retiredNext
    park := none
    due := none
    replies := []
    fetched := none }

/-! ## What the registers hold -/

/-- The vector registers are as before. -/
def VSame (r h : Regs) : Prop := ∀ n l, l < 32 → h.getV n l = r.getV n l

/-- The uniform registers are as before. -/
def KSame (r h : Regs) : Prop := ∀ j, h.getK j = r.getK j

/-- The lane predicates are as before. -/
def PSame (r h : Regs) : Prop := ∀ j, h.getP j = r.getP j

/-- The uniform predicates are as before. -/
def QSame (r h : Regs) : Prop := ∀ j, h.getQ j = r.getQ j

/-- The executing lanes have advanced past the instruction, and the divergence state is as before otherwise. -/
structure Flows (e : Env) (h : Regs) : Prop where
  live : h.live = e.g.regs.live
  wait : h.wait = e.g.regs.wait
  pc   : ∀ l, l < 32 → h.getPc l =
    if laneBit e.c.mask l then e.g.regs.getPc l + BitVec.ofNat 57 e.c.size else e.g.regs.getPc l

/-- v d holds f l in each lane l of m; every other register is as before. -/
structure WritesV (e : Env) (h : Regs) (m : Mask) (d : Nat) (f : Nat → Word) : Prop where
  v    : ∀ n l, l < 32 → h.getV n l = if n = d ∧ laneBit m l = true then f l else e.g.regs.getV n l
  k    : KSame e.g.regs h
  p    : PSame e.g.regs h
  q    : QSame e.g.regs h
  flow : Flows e h

/-- The pair v d holds f l in each lane l of m, the low word in v d; every other register is as before. -/
structure WritesV2 (e : Env) (h : Regs) (m : Mask) (d : Nat) (f : Nat → DWord) : Prop where
  v    : ∀ n l, l < 32 → h.getV n l =
    if laneBit m l = true ∧ n = d then (f l).extractLsb' 0 32
    else if laneBit m l = true ∧ n = d + 1 then (f l).extractLsb' 32 32
    else e.g.regs.getV n l
  k    : KSame e.g.regs h
  p    : PSame e.g.regs h
  q    : QSame e.g.regs h
  flow : Flows e h

/-- k d holds x, unless d is 0; every other register is as before. -/
structure WritesK (e : Env) (h : Regs) (d : Nat) (x : Word) : Prop where
  k    : ∀ j, h.getK j = if j = d ∧ d ≠ 0 then x else e.g.regs.getK j
  v    : VSame e.g.regs h
  p    : PSame e.g.regs h
  q    : QSame e.g.regs h
  flow : Flows e h

/-- The pair k d holds x, the low word in k d, unless d is 0; every other register is as before. -/
structure WritesK2 (e : Env) (h : Regs) (d : Nat) (x : DWord) : Prop where
  k    : ∀ j, h.getK j =
    if j = d ∧ d ≠ 0 then x.extractLsb' 0 32
    else if j = d + 1 ∧ d ≠ 0 then x.extractLsb' 32 32
    else e.g.regs.getK j
  v    : VSame e.g.regs h
  p    : PSame e.g.regs h
  q    : QSame e.g.regs h
  flow : Flows e h

/-- p d holds x l in each lane l of m, unless d is 0; every other register and predicate bit is as before. -/
structure WritesP (e : Env) (h : Regs) (m : Mask) (d : Nat) (x : Nat → Bool) : Prop where
  p    : ∀ j l, l < 32 → laneBit (h.getP j) l = if j = d ∧ d ≠ 0 ∧ laneBit m l = true then x l else laneBit (e.g.regs.getP j) l
  v    : VSame e.g.regs h
  k    : KSame e.g.regs h
  q    : QSame e.g.regs h
  flow : Flows e h

/-- q d holds b, unless d is 0; every other register and predicate is as before. -/
structure WritesQ (e : Env) (h : Regs) (d : Nat) (b : Bool) : Prop where
  q    : ∀ j, j < 8 → h.getQ j = if j = d ∧ d ≠ 0 then b else e.g.regs.getQ j
  v    : VSame e.g.regs h
  k    : KSame e.g.regs h
  p    : PSame e.g.regs h
  flow : Flows e h

/-- No register or predicate has changed; the executing lanes have advanced. -/
structure WritesNone (e : Env) (h : Regs) : Prop where
  v    : VSame e.g.regs h
  k    : KSame e.g.regs h
  p    : PSame e.g.regs h
  q    : QSame e.g.regs h
  flow : Flows e h

/-- Each p j of 1 to 7 holds bit j of x l in each lane l of m; every other register and predicate bit is as before. -/
structure WritesPs (e : Env) (h : Regs) (m : Mask) (x : Nat → Word) : Prop where
  p    : ∀ j l, l < 32 → laneBit (h.getP j) l =
    if 1 ≤ j ∧ j < 8 ∧ laneBit m l = true then (x l).getLsbD j else laneBit (e.g.regs.getP j) l
  v    : VSame e.g.regs h
  k    : KSame e.g.regs h
  q    : QSame e.g.regs h
  flow : Flows e h

/-- The n registers from v d on hold f i l, i counted from d, in each lane l of m; every other register is as before. -/
structure WritesVs (e : Env) (h : Regs) (m : Mask) (d n : Nat) (f : Nat → Nat → Word) : Prop where
  v    : ∀ j l, l < 32 → h.getV j l =
    if laneBit m l = true ∧ d ≤ j ∧ j < d + n then f (j - d) l else e.g.regs.getV j l
  k    : KSame e.g.regs h
  p    : PSame e.g.regs h
  q    : QSame e.g.regs h
  flow : Flows e h

/-- A transfer has moved the lanes of `take` to their targets, and the other executing lanes past the instruction; with W the
lanes of `take` wait. -/
structure Jumps (e : Env) (h : Regs) (take : Mask) (w : Bool) (target : Nat → Pc) : Prop where
  pc   : ∀ l, l < 32 → h.getPc l =
    if laneBit take l then target l
    else if laneBit e.c.mask l then e.g.regs.getPc l + BitVec.ofNat 57 e.c.size
    else e.g.regs.getPc l
  live : h.live = e.g.regs.live
  wait : h.wait = if w then e.g.regs.wait ||| take else e.g.regs.wait

/-! ## Shapes of statements -/

/-- The instruction i of the issued group completes: what it does outside the group leads from s to s1, and the group passes i
with registers that R holds of. -/
def Completes (i : Instr) (s s1 : State) (e : Env) (latch : Option Latch) (R : Regs → Prop) : Prop :=
  ∃ t h, exec i s = .next t ∧ Passed s1 t e latch h ∧ R h.regs

/-- The instruction i traps: the part takes the class H cause with its %trapinfo, its %trapaddr and the lanes it names. -/
def Traps (i : Instr) (s : State) (e : Env) (cause info addr : Nat) (lanes : Mask) : Prop :=
  exec i s = .next (s.raiseTrap e.c e.g cause info addr lanes 0)

/-- The instruction i is not performed, and the group is parked: no register and no count of instructions changes, and memory is that
of s0. -/
def WaitsWith (i : Instr) (s s0 : State) (e : Env) (w : Wait) : Prop :=
  ∃ t g, exec i s = .next t ∧ t.group? e.g.gid = some g ∧ g.park.map (·.why) = some w ∧ g.regs = e.g.regs ∧
    g.retired = e.g.retired ∧ (∀ a, getB t.mem a = getB s0.mem a)

/-- The same where no byte of memory changes. -/
def Waits (i : Instr) (s : State) (e : Env) (w : Wait) : Prop := WaitsWith i s s e w

/-- The grid neither records nor replays its events: it runs in normal mode or in DET mode. -/
def Env.isUnlogged (e : Env) : Bool := decide (Rec.mode e.gr.bytes < 2)

/-- Wherever a group has issued i, i completes: v d of the lanes that take part holds f of the registers before, and nothing else
changes. -/
def LaneResult (i : Instr) (g : Pred) (d : VReg) (f : Regs → Nat → Word) : Prop :=
  ∀ s e, s.env? = some e → ∃ t h, exec i s = .next t ∧ Passed s t e (e.g.wrote d.val 1).latch h ∧
    WritesV e h.regs (e.taking g) d.val (f e.g.regs)

/-- The same for a result in a vector pair. -/
def LaneResult2 (i : Instr) (g : Pred) (d : VReg) (f : Regs → Nat → DWord) : Prop :=
  ∀ s e, s.env? = some e → ∃ t h, exec i s = .next t ∧ Passed s t e (e.g.wrote d.val 2).latch h ∧
    WritesV2 e h.regs (e.taking g) d.val (f e.g.regs)

/-- The same for a result in a lane predicate. -/
def LaneTest (i : Instr) (g p : Pred) (f : Regs → Nat → Bool) : Prop :=
  ∀ s e, s.env? = some e → ∃ t h, exec i s = .next t ∧ Passed s t e e.g.latch h ∧
    WritesP e h.regs (e.taking g) p.val (f e.g.regs)

/-- Wherever a group has issued the uniform instruction i, i completes: with its guard true k d holds f of the registers before,
otherwise nothing but the program counters changes. -/
def UniResult (i : Instr) (q : Pred) (d : KReg) (f : Regs → Word) : Prop :=
  ∀ s e, s.env? = some e → ∃ t h, exec i s = .next t ∧ Passed s t e e.g.latch h ∧
    (e.g.regs.getQ q.val = true → WritesK e h.regs d.val (f e.g.regs)) ∧
    (e.g.regs.getQ q.val = false → WritesNone e h.regs)

/-- The same for a result in a uniform pair. -/
def UniResult2 (i : Instr) (q : Pred) (d : KReg) (f : Regs → DWord) : Prop :=
  ∀ s e, s.env? = some e → ∃ t h, exec i s = .next t ∧ Passed s t e e.g.latch h ∧
    (e.g.regs.getQ q.val = true → WritesK2 e h.regs d.val (f e.g.regs)) ∧
    (e.g.regs.getQ q.val = false → WritesNone e h.regs)

/-- The same for a result in a uniform predicate. -/
def UniTest (i : Instr) (q p : Pred) (f : Regs → Bool) : Prop :=
  ∀ s e, s.env? = some e → ∃ t h, exec i s = .next t ∧ Passed s t e e.g.latch h ∧
    (e.g.regs.getQ q.val = true → WritesQ e h.regs p.val (f e.g.regs)) ∧
    (e.g.regs.getQ q.val = false → WritesNone e h.regs)

/-- The group after a transfer: as for `Passed`, but that loop buffers may have filled (R188). -/
structure PassedJump (s t : State) (e : Env) (latch : Option Latch) (h : Group) : Prop where
  frame : Frame s t e
  found : t.group? e.g.gid = some h
  group : h = { e.g with
    regs := h.regs
    loops := h.loops
    latch := latch
    retired := e.g.retiredNext
    park := none
    due := none
    replies := []
    fetched := none }

/-- The lane-set transfer i without a link completes whenever none of its traps applies (R192): `goal` is the 64-bit target of
each lane, `reg` says that it comes from registers. -/
def Transfers (i : Instr) (g : Pred) (reg w u : Bool) (goal : Env → Nat → DWord) : Prop :=
  ∀ s e, s.env? = some e →
    (u = true → e.taking g = 0 ∨ e.taking g = e.c.mask) →
    (u = true → reg = true → ∀ a b, laneBit (e.taking g) a = true → laneBit (e.taking g) b = true → goal e a = goal e b) →
    (reg = true → ∀ l, laneBit (e.taking g) l = true → (goal e l).toNat % 4 = 0) →
    (∀ l, laneBit (e.taking g) l = true → (goal e l).toNat < 2 ^ 57) →
    ∃ t h, exec i s = .next t ∧ PassedJump s t e e.g.latch h ∧ VSame e.g.regs h.regs ∧ KSame e.g.regs h.regs ∧
      PSame e.g.regs h.regs ∧ QSame e.g.regs h.regs ∧
      Jumps e h.regs (e.taking g) w (fun l => (goal e l).setWidth 57)

/-- The same for a call, which leaves the address that follows it in the pair v d of the lanes that take it. -/
def Calls (i : Instr) (g : Pred) (d : VReg) (reg u : Bool) (goal : Env → Nat → DWord) : Prop :=
  ∀ s e, s.env? = some e →
    (u = true → e.taking g = 0 ∨ e.taking g = e.c.mask) →
    (u = true → reg = true → ∀ a b, laneBit (e.taking g) a = true → laneBit (e.taking g) b = true → goal e a = goal e b) →
    (reg = true → ∀ l, laneBit (e.taking g) l = true → (goal e l).toNat % 4 = 0) →
    (∀ l, laneBit (e.taking g) l = true → (goal e l).toNat < 2 ^ 57) →
    ∃ t h, exec i s = .next t ∧ PassedJump s t e (e.g.wrote d.val 2).latch h ∧
      (∀ n l, l < 32 → h.regs.getV n l =
        if laneBit (e.taking g) l = true ∧ n = d then (e.c.pc.setWidth 64 + 4 : DWord).extractLsb' 0 32
        else if laneBit (e.taking g) l = true ∧ n = d + 1 then (e.c.pc.setWidth 64 + 4 : DWord).extractLsb' 32 32
        else e.g.regs.getV n l) ∧
      KSame e.g.regs h.regs ∧ PSame e.g.regs h.regs ∧ QSame e.g.regs h.regs ∧
      Jumps e h.regs (e.taking g) false (fun l => (goal e l).setWidth 57)

/-! ## Values -/

/-- The rational number that a finite value is; none for NaN and the infinities (R159). -/
def Num.rat? : Num → Option ℚ
  | .fin s m e => some ((if s then -1 else 1) * (m : ℚ) * (2 : ℚ) ^ e)
  | _ => none

/-- A number that some code of a format stands for (R159). -/
def Fmt.isDatum (f : Fmt) (z : ℚ) : Prop := ∃ c, c < 2 * f.signBit ∧ (f.value c).rat? = some z

/-- The largest finite value of a format (R159). -/
def Fmt.maxRat (f : Fmt) : ℚ := ((f.value f.maxCode).rat?).getD 0

/-- Where rounding to nearest overflows: the largest finite value and half a unit in its last place (R168). -/
def Fmt.overAt (f : Fmt) : ℚ := f.maxRat + (f.maxRat - ((f.value (f.maxCode - 1)).rat?).getD 0) / 2

/-- A nonzero number overflows in a rounding mode, so that the table of R168 gives what becomes of it. Toward zero, and toward the
infinity on the other side, the largest finite value is what it rounds to. -/
def Fmt.overflows (f : Fmt) (rm : RMode) (x : ℚ) : Prop :=
  match rm with
  | .rne => f.overAt ≤ |x|
  | .rz => False
  | .rd => x < -f.maxRat
  | .ru => f.maxRat < x

/-- The code c is what a nonzero number of a sign rounds to where it does not overflow: of its sign, also as a zero, and the datum that the
mode asks for; of two equally near ones, that with an even code (R167, R168). -/
def Fmt.roundsTo (f : Fmt) (rm : RMode) (neg : Bool) (x : ℚ) (c : Nat) : Prop :=
  c < 2 * f.signBit ∧ c / f.signBit = neg.toNat ∧ ∃ y, (f.value c).rat? = some y ∧
    match rm with
    | .rne => ∀ z, f.isDatum z → |y - x| ≤ |z - x| ∧ (|y - x| = |z - x| → y ≠ z → c % 2 = 0)
    | .rz => |y| ≤ |x| ∧ ∀ z, f.isDatum z → |z| ≤ |x| → |z| ≤ |y|
    | .rd => y ≤ x ∧ ∀ z, f.isDatum z → z ≤ x → z ≤ y
    | .ru => x ≤ y ∧ ∀ z, f.isDatum z → x ≤ z → y ≤ z

/-- The code that the table of R168 gives in place of an infinity, or of an overflow that is not clamped. -/
def Fmt.beyond (f : Fmt) (sat neg : Bool) : Nat :=
  if sat || f.top = .plain then f.signed neg f.maxCode else if f.top = .ieee then f.signed neg f.infCode else f.cnan

/-- The code c is the conversion of a value to a format that keeps its subnormals (R168). -/
def Fmt.converts (f : Fmt) (rm : RMode) (sat : Bool) (v : Num) (c : Nat) : Prop :=
  match v with
  | .nan => c = if f.top = .plain then 0 else f.cnan
  | .inf neg => c = f.beyond sat neg
  | .fin neg m e => (m = 0 → c = f.signed neg 0) ∧ (m ≠ 0 → ∀ x, Num.rat? (.fin neg m e) = some x →
      (f.overflows rm x → c = f.beyond sat neg) ∧ (¬f.overflows rm x → f.roundsTo rm neg x c))

/-- The code c is the conversion of a value to a format: where the format flushes, what it would be if subnormals were kept, one of which
becomes a zero of its sign (R168, R171). -/
def Fmt.takes (f : Fmt) (rm : RMode) (sat : Bool) (v : Num) (c : Nat) : Prop :=
  ∃ k, ({ f with flush := false } : Fmt).converts rm sat v k ∧
    c = if f.flush = true ∧ k / 2 ^ f.fb % 2 ^ f.eb = 0 then k / f.signBit * f.signBit else k

/-- The integer that a number rounds to (R167). -/
def intNear (rm : RMode) (x : ℚ) (k : Int) : Prop :=
  match rm with
  | .rne => |(k : ℚ) - x| ≤ 1 / 2 ∧ (|(k : ℚ) - x| = 1 / 2 → k % 2 = 0)
  | .rz => |(k : ℚ)| ≤ |x| ∧ |x| < |(k : ℚ)| + 1 ∧ 0 ≤ (k : ℚ) * x
  | .rd => (k : ℚ) ≤ x ∧ x < k + 1
  | .ru => (k : ℚ) - 1 < x ∧ x ≤ k

/-- The integer j is the conversion of a value between two ends (R169). -/
def intTakes (lo hi : Int) (rm : RMode) (v : Num) (j : Int) : Prop :=
  match v with
  | .nan => j = 0
  | .inf neg => j = if neg then lo else hi
  | .fin neg m e => ∀ x, Num.rat? (.fin neg m e) = some x → ∃ k, intNear rm x k ∧ j = max lo (min k hi)

/-- The value w is a value rounded to an integral one (R212): what is integral already stays, and a zero keeps the sign. -/
def integralTakes (rm : RMode) (v w : Num) : Prop :=
  match v with
  | .fin neg m e => ∀ x, Num.rat? (.fin neg m e) = some x → ∃ k : Int, intNear rm x k ∧ w.rat? = some (k : ℚ) ∧ w.sign = neg
  | z => w = z

/-- A finite FP32 code nearest a real number, the even one of two (R167). -/
def nearestF32 (r : ℝ) (c : Nat) : Prop :=
  ∃ y : ℚ, (Fmt.f32.value c).rat? = some y ∧
    ∀ z, Fmt.f32.isDatum z → |(y : ℝ) - r| ≤ |(z : ℝ) - r| ∧ (|(y : ℝ) - r| = |(z : ℝ) - r| → y ≠ z → c % 2 = 0)

/-- The FP32 word of an exact value rounded to nearest even (R176). -/
def f32Of (x : Num) : Word := BitVec.ofNat 32 (Fmt.f32.rne x)

/-- The FP64 pair of an exact value rounded to nearest even (R176). -/
def f64Of (x : Num) : DWord := BitVec.ofNat 64 (Fmt.f64.rne x)

/-- The packed word of two exact values, the low half first, each rounded to nearest even (R176). -/
def pairOf (f : Fmt) (lo hi : Num) : Word := BitVec.ofNat 16 (f.rne hi) ++ BitVec.ofNat 16 (f.rne lo)

/-- The exact value of the low half of a packed word. -/
def lowOf (f : Fmt) (x : Word) : Num := f.value (x.extractLsb' 0 16).toNat

/-- The exact value of the high half of a packed word. -/
def highOf (f : Fmt) (x : Word) : Num := f.value (x.extractLsb' 16 16).toNat

/-- The outcome of an integer compare (R206). -/
def holdsInt (c : Cond) (a b : Int) : Bool :=
  match c with
  | .eq => decide (a = b)
  | .ne => !decide (a = b)
  | .lt => decide (a < b)
  | .le => !decide (b < a)
  | .gt => decide (b < a)
  | .ge => !decide (a < b)
  | .num => true
  | .nan => false

/-- The outcome of a floating-point compare (R206): NaN satisfies NE and NAN alone. -/
def holdsNum (c : Cond) (a b : Num) : Bool :=
  if a.isNan || b.isNan then (match c with
    | .ne | .nan => true
    | _ => false)
  else (match c with
    | .eq => !a.lt b && !b.lt a
    | .ne => a.lt b || b.lt a
    | .lt => a.lt b
    | .le => !b.lt a
    | .gt => b.lt a
    | .ge => !a.lt b
    | .num => true
    | .nan => false)

/-- The value of a scan's operation over a list of values in lane order (R217): the identity for none; a NaN that stands alone
in a floating sum becomes canonical. -/
def scanOver (o : ScanOp) : List Word → Word
  | [] => scanId o
  | x :: t => t.foldl (scanStep o) (scanFirst o x)

/-- A datum as its format reads it: a subnormal of a format that flushes is a zero of its sign (R171). -/
def cleanBits {w : Nat} (f : Fmt) (a : BitVec w) : BitVec w :=
  if f.flush ∧ a.toNat / 2 ^ f.fb % 2 ^ f.eb = 0 then a &&& BitVec.ofNat w f.signBit else a

/-- The smaller of two data (R208): the canonical NaN for a NaN, -0 below +0, otherwise one of the two as it is read. -/
def lesserOf {w : Nat} (f : Fmt) (a b : BitVec w) : BitVec w :=
  let x := f.value a.toNat
  let y := f.value b.toNat
  if x.isNan ∨ y.isNan then BitVec.ofNat w f.cnan
  else if x.lt y then cleanBits f a
  else if y.lt x then cleanBits f b
  else if x.sign then cleanBits f a else cleanBits f b

/-- The larger of two data (R208). -/
def greaterOf {w : Nat} (f : Fmt) (a b : BitVec w) : BitVec w :=
  let x := f.value a.toNat
  let y := f.value b.toNat
  if x.isNan ∨ y.isNan then BitVec.ofNat w f.cnan
  else if x.lt y then cleanBits f b
  else if y.lt x then cleanBits f a
  else if x.sign then cleanBits f b else cleanBits f a

/-- An operation on both halves of packed words. -/
def halves (o : BitVec 16 → BitVec 16 → BitVec 16) (a b : Word) : Word :=
  o (a.extractLsb' 16 16) (b.extractLsb' 16 16) ++ o (a.extractLsb' 0 16) (b.extractLsb' 0 16)

/-- The integer that a source of a scalar conversion holds in a lane (R161, R210). -/
def srcInt (r : Regs) (t : IntTy) (a : Src) (l : Nat) : Int :=
  match t with
  | .s32 => (r.src a l).toInt
  | .u32 => ((r.src a l).toNat : Int)
  | .s64 => (r.src2 a l).toInt
  | .u64 => ((r.src2 a l).toNat : Int)

/-- The exact value that a floating-point source of a scalar conversion holds in a lane (R159, R210). -/
def srcNum (r : Regs) (t : FltTy) (a : Src) (l : Nat) : Num :=
  match t with
  | .f32 => Fmt.f32.value (r.src a l).toNat
  | .f64 => Fmt.f64.value (r.src2 a l).toNat
  | .f16 => Fmt.f16.value ((r.src a l).extractLsb' 0 16).toNat
  | .bf16 => Fmt.bf16.value ((r.src a l).extractLsb' 0 16).toNat

/-- The ends of an integer type of the scalar conversions. -/
def intEnds (t : IntTy) : Int × Int :=
  match t with
  | .s32 => (-(2 ^ 31), 2 ^ 31 - 1)
  | .u32 => (0, 2 ^ 32 - 1)
  | .s64 => (-(2 ^ 63), 2 ^ 63 - 1)
  | .u64 => (0, 2 ^ 64 - 1)

/-! ## Traps of transfers, and handler instructions -/

/-- When a lane-set transfer traps and how, in the order of R192. -/
def TransferTraps (i : Instr) (g : Pred) (reg u : Bool) (goal : Env → Nat → DWord) : Prop :=
  ∀ s e, s.env? = some e →
    let differ := ∃ a b, laneBit (e.taking g) a = true ∧ laneBit (e.taking g) b = true ∧ goal e a ≠ goal e b
    let split := e.taking g ≠ 0 ∧ e.taking g ≠ e.c.mask
    (u = true → split → Traps i s e 18 0 0 (e.taking g)) ∧
    (u = true → reg = true → ¬split → differ → Traps i s e 18 0 0 (e.taking g)) ∧
    (¬(u = true ∧ (split ∨ (reg = true ∧ differ))) →
      (∀ l, reg = true → laneBit (e.taking g) l = true → (goal e l).toNat % 4 ≠ 0 →
        (∀ k, k < l → laneBit (e.taking g) k = true → (goal e k).toNat % 4 = 0) →
        Traps i s e 7 0 (goal e l).toNat e.c.mask) ∧
      (∀ l, (reg = true → ∀ k, laneBit (e.taking g) k = true → (goal e k).toNat % 4 = 0) →
        laneBit (e.taking g) l = true → 2 ^ 57 ≤ (goal e l).toNat →
        (∀ k, k < l → laneBit (e.taking g) k = true → (goal e k).toNat < 2 ^ 57) →
        Traps i s e 6 0 (goal e l).toNat e.c.mask))

/-- The instruction i is privileged (R39): outside a handler it raises PRIVILEGED, whatever its guard; in a handler with a false
guard it passes as UNOP does. -/
def Privileged (i : Instr) (g : Pred) : Prop :=
  ∀ s e, s.env? = some e →
    (e.g.trap.masked = false → Traps i s e 5 0 0 e.c.mask) ∧
    (e.g.trap.masked = true → e.g.regs.getQ g.val = false → Completes i s s e e.g.latch (WritesNone e))

/-- The group after TRET (R333): the shadow is back, traps are unmasked, every other register is as before; `skip` moves the
lanes that the trap names, where they stand at its address, past the trapping instruction. -/
structure Returned (e : Env) (h : Group) (skip : Bool) : Prop where
  trap : h.trap = { e.g.trap with masked := false }
  v    : ∀ n l, l < 32 → h.regs.getV n l = if n = 95 then getB e.g.trap.v95 l else e.g.regs.getV n l
  k    : ∀ j, h.regs.getK j = if j = 30 then e.g.trap.k30 else if j = 31 then e.g.trap.k31 else e.g.regs.getK j
  p    : PSame e.g.regs h.regs
  q    : QSame e.g.regs h.regs
  live : ∀ l, l < 32 → laneBit h.regs.live l = (getB e.g.trap.div l).getLsbD 63
  wait : ∀ l, l < 32 → laneBit h.regs.wait l = (getB e.g.trap.div l).getLsbD 62
  pc   : ∀ l, l < 32 → h.regs.getPc l = (getB e.g.trap.div l).setWidth 57 +
    (if skip = true ∧ laneBit e.g.trap.mask l = true ∧ (getB e.g.trap.div l).getLsbD 63 = true ∧
        ((getB e.g.trap.div l).setWidth 57).setWidth 64 = e.g.trap.pc
      then (if isLong (opcodeOf e.g.trap.word.toNat) then 8 else 4) else 0)

/-- The group after a trap's entry (R328): `vec` is the handler's address, `save` the address of the group's block in the save area. -/
structure Entered (e : Env) (h : Group) (vec save cause info addr : Nat) (lanes : Mask) (hpa : Nat) : Prop where
  masked : h.trap.masked = true
  cause  : h.trap.cause = BitVec.ofNat 32 cause
  info   : h.trap.info = BitVec.ofNat 32 info
  tpc    : h.trap.pc = e.c.pc.setWidth 64
  addr   : h.trap.addr = BitVec.ofNat 64 addr
  word   : h.trap.word = e.c.word
  mask   : h.trap.mask = lanes
  hlit   : h.trap.hlit = e.c.lit
  hpa    : h.trap.hpa = BitVec.ofNat 64 hpa
  div    : ∀ l, l < 32 → getB h.trap.div l = e.g.regs.divWord l
  v95    : ∀ l, l < 32 → getB h.trap.v95 l = e.g.regs.getV 95 l
  k30    : h.trap.k30 = e.g.regs.getK 30
  k31    : h.trap.k31 = e.g.regs.getK 31
  pc     : ∀ l, l < 32 → h.regs.getPc l = if laneBit e.g.regs.live l then BitVec.ofNat 57 vec else e.g.regs.getPc l
  live   : h.regs.live = e.g.regs.live
  wait   : h.regs.wait = e.g.regs.wait &&& ~~~e.g.regs.live
  v      : ∀ n l, l < 32 → h.regs.getV n l = if n = 95 then BitVec.ofNat 32 (4 * l) else e.g.regs.getV n l
  k      : ∀ j, h.regs.getK j =
    if j = 30 then BitVec.ofNat 32 save else if j = 31 then BitVec.ofNat 32 (save / 2 ^ 32) else e.g.regs.getK j
  p      : PSame e.g.regs h.regs
  q      : QSame e.g.regs h.regs
  latch  : h.latch = none
  retired : h.retired = e.g.retired
  park   : h.park = none

/-! ## Accesses -/

/-- n bytes at the generic address ga are bytes off to off + n of the group's own scratchpad (slot 15 of the aperture), whose
lines are present and which is not moving (R78, R142, R143). -/
structure InOwnScratch (s : State) (e : Env) (ga n off : Nat) : Prop where
  at_  : ga = 0xFE00000000000000 + 15 * 2 ^ 18 + off
  low  : off < 2 ^ 18
  fits : off + n ≤ s.scratchSize e.t
  here : ∀ i, i < n → e.t.absent.contains ((off + i) / 128) = false
  still : e.t.st ≠ .migrating

/-- The same for an access that writes: it lies below the buffer table (R121). -/
structure BelowTable (s : State) (e : Env) (ga n off : Nat) : Prop extends InOwnScratch s e ga n off where
  below : off + n + 512 ≤ s.scratchSize e.t

/-- The instruction of the issued group begins, and the move performs it whole: nothing of it is under way, and the move names no part
of it. -/
structure Begins (s : State) (e : Env) : Prop where
  fresh : e.flight? = none
  whole : s.partFor e = none

/-- Translating addresses for the group in order, as one access does: the state with what the caches hold then, and the place of each with
what the access keeps of its leaf, where every one is an address of local memory (R82 to R88). -/
def State.translated (s : State) (e : Env) (acc : Acc) : List Nat → Option (State × List (Nat × Leaf))
  | [] => some (s, [])
  | va :: t =>
    match xlate s e.t.ctx e.agent (some e.spur) e.g.trap.masked acc va with
    | .ok (s1, .loc pa, leaf) => (s1.translated e acc t).map (fun r => (r.1, (pa, leaf) :: r.2))
    | _ => none

/-- In each lane l of a list, n bytes at the address va l of the global window lie in one page that the group may access so and that is
open, and lead to local memory at pa l through the leaf that lf l tells of; s1 is the state as the translations leave it. -/
structure OnThisChip (s s1 : State) (e : Env) (acc : Acc) (ls : List Nat) (va : Nat → Nat) (n : Nat) (pa : Nat → Nat)
    (lf : Nat → Leaf) : Prop where
  low  : ∀ l ∈ ls, va l + n ≤ 2 ^ 57
  page : ∀ l ∈ ls, va l % 65536 + n ≤ 65536
  maps : s.translated e acc (ls.map va) = some (s1, ls.map (fun l => (pa l, lf l)))
  open_ : ∀ l ∈ ls, isHeld s1 (pa l) = false

/-- The accesses of lanes as the caches and what has been left at narrow scopes meet them. -/
def accessed (ls : List Nat) (va : Nat → Nat) (n : Nat) (pa : Nat → Nat) (lf : Nat → Leaf) : List Piece :=
  ls.map (fun l => ⟨va l, n, .loc (pa l), lf l⟩)

/-- One state is another but for what the caches hold, the performance counters, and the use of rows and promoted pages. -/
structure UsesOnly (s t : State) : Prop where
  ctxs : ∀ c, (t.ctx? c).map (fun x => { x with counters := [] }) = (s.ctx? c).map (fun x => { x with counters := [] })
  stale : ∀ x ∈ t.stale, x ∈ s.stale
  rest : t = { s with tlb := t.tlb, walks := t.walks, ctxs := t.ctxs, hbm := t.hbm, caches := t.caches, stale := t.stale }

/-- The byte that the team reads at an address of the global window that lies at pa: its own staged store, or memory, where a leased
copy of the column that serves it may still show what an external write has replaced, unless FENCE.S of the group renews its leases (R263, R272, R279). -/
def seenByte (s : State) (e : Env) (va pa : Nat) : Byte :=
  match stagedByte e.gr e.t.idx va with
  | some b => b
  | none => if e.g.fenceS then getB s.mem pa else (s.leasedByte (e.l1Column pa) pa).getD (getB s.mem pa)

/-- The n bytes that the team reads from va, which lies at pa. -/
def seenBytes (s : State) (e : Env) (va pa n : Nat) : List Byte := (List.range n).map (fun i => seenByte s e (va + i) (pa + i))

/-- Word i of what a load brings (R150). -/
def wordOf (sz : MemSize) (signed : Bool) (bs : List Byte) (i : Nat) : Word :=
  let x := leNat ((bs.drop (4 * i)).take 4)
  match sz, signed with
  | .b8, true => (BitVec.ofNat 8 x).signExtend 32
  | .b16, true => (BitVec.ofNat 16 x).signExtend 32
  | _, _ => BitVec.ofNat 32 x

/-- A scratchpad after each listed write, in order. -/
def scratchAfter (m : BMap 8) : List (Nat × List Byte) → BMap 8
  | [] => m
  | w :: t => scratchAfter (writeB m w.1 w.2) t

/-- The state in which the team's scratchpad has taken writes. -/
def State.withScratch (s : State) (tid : Nat) (ws : List (Nat × List Byte)) : State :=
  s.modTeam tid (fun u => { u with scratch := scratchAfter u.scratch ws })

/-- Atomic steps on a scratchpad in order (R251): each reads n bytes at its offset, writes the new value, and gives the old
value of its lane. -/
def atomRun (n : Nat) (new : Nat → Nat → Nat) : BMap 8 → List (Nat × Nat) → BMap 8 × List (Nat × Nat)
  | m, [] => (m, [])
  | m, (l, off) :: t =>
    let old := leNat (readB m off n)
    let r := atomRun n new (writeB m off (leBytes n (new l old))) t
    (r.1, (l, old) :: r.2)

/-- The old value of a lane in what atomic steps give. -/
def oldOf (olds : List (Nat × Nat)) (l : Nat) : Nat := ((olds.find? (fun o => o.1 == l)).map (·.2)).getD 0

/-- The group stands where the part's own choice put it (R184): its executing lanes are those of its least program counter, and
the instruction is one word long. -/
def Env.isChosen (e : Env) : Bool := e.g.atPc == e.c.mask && e.c.size == 4

/-! ## Copies -/

/-- A copy instruction whose checks pass is issued (R109 to R113, R119): `plan` gives what it is about, `p.check` and `p.takeIn`
the checks of R119 and of its handle. It then takes the lowest free slot, or in DET mode slot SEQ mod 256, adds its job, and returns the
ticket; the group runs on. What the group has written at narrower scopes is performed before it; no other byte of memory changes. -/
def IssuesCopy (i : Instr) (g : Pred) (d : KReg) (plan : State → Env → Except Stop Plan) : Prop :=
  ∀ (s : State) (e : Env) (p p1 : Plan) (refused : BitVec 12) (slot : Nat), s.env? = some e → e.g.regs.getQ g.val = true →
    let c := e.g.regs.getK d.val
    let seq := e.t.copyCount % 65536
    badCtl c = false → plan s e = .ok p → p.check s e c = .ok () → p.takeIn s e c = .ok (p1, refused) →
    p1.held e = false → freeSlot e = some slot → trackerRoom s e.t.column = true → (∀ j ∈ s.jobs, j.id ≠ s.nextJob) →
    itemCount p1.dst p1.size ≠ 0 →
    ∃ t h u k, exec i s = .next t ∧ t.group? e.g.gid = some h ∧ WritesK e h.regs d.val (BitVec.ofNat 32 (seq * 256 + slot)) ∧
      h.retired = e.g.retiredNext ∧ (∀ a, getB t.mem a = getB (s.landOf e.g.gid).mem a) ∧
      t.jobs = s.jobs ++ [k] ∧ k.id = s.nextJob ∧ k.src = p1.src ∧ k.dst = p1.dst ∧ k.size = p1.size ∧ k.ctl = c ∧
      k.tid = e.t.tid ∧ k.gid = e.g.gid ∧ k.ticket = BitVec.ofNat 32 (seq * 256 + slot) ∧ k.started = false ∧
      k.items = List.range (itemCount p1.dst p1.size) ∧ k.refused = refused ∧
      t.team? e.t.tid = some u ∧ u.copyCount = e.t.copyCount + 1 ∧
      (∃ q, getT u.copies slot = some q ∧ q.seq = BitVec.ofNat 16 seq ∧ q.busy = true) ∧
      (∀ ts off r w, p1.dst = .teams ts off → r ∈ ts → t.team? r = some w → ∀ l, off / 128 ≤ l → l ≤ (off + p1.size - 1) / 128 →
        w.absent.contains l = true)

/-- The instruction i passes a grid's Cairn sampling with the value v in k d, where nothing is recorded or replayed, and otherwise
changes what leads from s to s1. -/
def Samples (i : Instr) (s s1 : State) (e : Env) (d : KReg) (v : Word) : Prop :=
  e.isUnlogged = true → Completes i s s1 e e.g.latch (fun h => WritesK e h d.val v)

/-! ## Multiplies -/

/-- The team's accumulator slots become m, and the group passes. -/
def PutsTile (i : Instr) (s : State) (e : Env) (P : BMap 32 → Prop) : Prop :=
  ∃ m, P m ∧ Completes i s (s.modTeam e.t.tid (fun u => { u with acc := m })) e e.g.latch (WritesNone e)

/-- A multiply's control word, tile and operand A are as R226, R220 and R223 ask. -/
structure MmaFits (e : Env) (x : Mma) (z : MmaCtl) : Prop where
  fa    : z.fa < 28
  low   : z.low = 0
  m     : z.m ≤ 32
  n     : z.n ≤ 32
  k     : z.k = 0 ∨ z.k = classK z.fa
  ablk  : z.ablk = true → isMx z.fa = true
  tile  : x.tile + (if x.f64 then 2 else 1) ≤ Rec.acc e.gr.bytes
  span  : isQ z.fa = false → x.va.val + (spanA z.fa z.ablk).1 + (spanA z.fa z.ablk).2 ≤ 96

/-- The format pairs that R222 admits. -/
def pairFits (f64 : Bool) (fa fb : Nat) : Prop :=
  if f64 then fa = 0 ∧ fb = 0
  else fa ≠ 0 ∧ fb ≠ 0 ∧ isQ fa = false ∧ classOf fa = classOf fb ∧ isPlainInt fa = isPlainInt fb

/-- A multiply reads no slot that an earlier operation has still to write or to read (R221). -/
def Env.slotsFree (e : Env) (s : State) (x : Mma) : Prop :=
  ∀ n ∈ e.t.array.flatMap (·.slots) ++ (holdsOf s e.t.tid e.g.gid).flatMap (·.slots), n ≠ x.tile ∧ (x.f64 = true → n ≠ x.tile + 1)

/-- The multiply has entered the array with the words that its rows, which are those below M of executing lanes, and the columns of
tile number `tile` of a source of B below N give (R228); no register has changed, memory is that of s0, and the latch holds A where REUSE
says so (R229). -/
def Multiplies (i : Instr) (s s0 : State) (e : Env) (x : Mma) (z : MmaCtl) (src : SourceB) (tile : Nat) : Prop :=
  ∃ t h u o, exec i s = .next t ∧ t.group? e.g.gid = some h ∧ WritesNone e h.regs ∧ h.retired = e.g.retiredNext ∧
    h.latch = (if x.reuse then some ⟨x.va, BitVec.ofNat 5 z.fa, z.ablk⟩ else none) ∧ (∀ a, getB t.mem a = getB s0.mem a) ∧
    t.team? e.t.tid = some u ∧ u.array = e.t.array ++ [o] ∧ u.acc = e.t.acc ∧ o.slots = x.slots ∧
    let rows := ((List.range z.m).filter (fun i => laneBit e.c.mask i)).map (fun i =>
      (i, rowA e.g.regs x.va.val z.fa z.ablk (spanA z.fa z.ablk).1 (spanA z.fa z.ablk).2 i))
    o.writes = if x.f64 then productWords64 e.t.acc x.tile z.n z.k x.clr rows src tile
      else productWords e.t.acc e.t.tables x.tile z.n z.k x.clr rows src tile

/-! ## The Cairn unit -/

/-- A CRSET writes v to a register of its context where R370 does not ignore the write, and otherwise only passes. Records that the new
value brings are skipped where a launch of theirs was refused (R367). -/
def SetsRing (i : Instr) (s : State) (e : Env) (off : Nat) (takes : Prop) (v : Word) : Prop :=
  (takes → Completes i s ((s.modCtx e.t.ctx (fun x => x.setReg off v)).takeSkips e.t.ctx) e e.g.latch (WritesNone e)) ∧
  (¬takes → Completes i s s e e.g.latch (WritesNone e))

/-! ## Draining -/

/-- The contributions of a team in the order of their keys (R257); the fuel bounds them. -/
def drainOrder (g : Grid) (team : Nat) : Nat → List Staged
  | 0 => []
  | f + 1 => match nextDrain g team with
    | none => []
    | some r => r :: drainOrder { g with staged := g.staged.erase r } team f

/-- Contributions applied one after the other, each leaving the staging, none of them failing (R258). -/
def appliesAll (s : State) (g : Grid) : List Staged → Option State
  | [] => some s
  | r :: t => match applyRed s g r with
    | .ok (s1, none) => appliesAll (s1.unstage g r) g t
    | _ => none

/-! ## Events -/

/-- The event i happens and leads to a state that P holds of. -/
def Does (i : Instr) (s : State) (P : State → Prop) : Prop := ∃ t, exec i s = .next t ∧ P t

/-- The event i cannot happen now: it leaves everything as it is. -/
def Rests (i : Instr) (s : State) : Prop := exec i s = .next s

/-- A context takes no record that was held back: its queue of fatal records is empty and it is not halted. -/
def Context.isCalm (x : Context) : Prop := x.fatals = [] ∧ x.isHalted = false

end Sys2Proof.Machine
end

