-- ==== Sys2Proof/Certificates/Slice0/Obligations.lean ====
section
/-! DEFINITION. The statements for the provers. Each docstring says what the statement formalises. -/

open Sys2Proof Sys2Proof.Machine

/-! ## Encoding and stepping -/

/-- Words written out from the spec's encodings and the instructions they stand for (R29 to R43 and the entries' own
examples). -/
def Obligations.KnownWords : Prop :=
  decodeWords 0x060204E4 0 = .instr (.imad 0 8 (.v 9) (.k 4)) ∧
  decodeWords 0x0F05050C 0x00001002 = .instr (.leai 0 20 ⟨.v 10, .v 12, 16⟩ 2) ∧
  decodeWords 0x20044205 0 = .instr (.icmpS 0 .lt 1 (.v 4) (.v 5)) ∧
  decodeWords 0x8F0AB265 0 = .instr (.uicmpN 0 .ge 2 4 5) ∧
  decodeWords 0x26104103 0 = .instr (.plop 0 0x80 1 2 3 0) ∧
  decodeWords 0x30010286 0 = .instr (.faddF16x2 0 4 (.v 5) (.v 6)) ∧
  decodeWords 0x480081A0 0 = .instr (.cvtFi 0 2 (.v 3) .rz .f32 .s32) ∧
  decodeWords 0x4B050AE8 0 = .instr (.cvtNr 0 20 (.v 21) 8) ∧
  decodeWords 0x530204E1 0 = .instr (.shfldn 0 8 (.v 9) (.k 1)) ∧
  decodeWords 0x56228588 0 = .instr (.lscan 1 10 (.v 11) .iadd true) ∧
  decodeWords 0x57194390 0 = .instr (.lred 0 5 (.v 7) .fadd) ∧
  decodeWords 0xDE003485 0 = .instr (.lmark 0 9 5) ∧
  decodeWords 0xDC00006B 0 = .instr (.crsetCons 0 11) ∧
  decodeWords 0xDD1A8100 0 = .instr (.crposStatus 0 10)

/-- R29 to R43 and every entry's encoding: the words that `encode` gives a well-formed instruction decode to that instruction, for every
instruction and every operand, and the second word is there exactly when the opcode is marked L. -/
def Obligations.EveryEncodingDecodes : Prop := ∀ i, Laws.Encoding.Statement i

/-- R39, R184, R85: a group that may issue, and of which no instruction is under way, runs the instruction whose words lie at its
broadcast address. Its lanes, program counter and words are the issue's. The words are read at the translations of their addresses, the
literal of an L instruction at the word after it; the fetch uses caches and rows, and what the lanes fetched is noted for their loop
buffers. That a word is memory as it is stored now is the model's choice (R34 leaves the version open: log 56); the choice
of the group is the agenda's (log 7). -/
def Obligations.StepRunsTheDecodedInstruction : Prop :=
  ∀ (s : State) (gid : Nat) (rest : List Move) (g0 g : Group) (b : Pc) (ex : Mask) (e : Env) (s1 s4 : State) (pa lit : Nat)
    (leaf : Leaf) (i : Instr),
    let r := { s with agenda := rest, part := none }
    let c0 : Issue := ⟨gid, b, ex, 0, 0, 4, false⟩
    let w := leNat (readB s1.mem pa 4)
    let c1 : Issue := { c0 with word := BitVec.ofNat 32 w, size := Sys2Proof.sizeOf w }
    let c2 : Issue := { c1 with lit := BitVec.ofNat 32 lit }
    let met := fun (x : State) (va q : Nat) (lf : Leaf) => x.dieMet e.t.ctx false [⟨va, 4, .loc q, lf⟩]
    let s2 := { met s1 b.toNat pa leaf with cur := some c1 }
    s.agenda = .issue gid :: rest → s.group? gid = some g0 → g0.ready r = true → g0.choose = some (g, b, ex) →
    g0.fetched = none → (∀ f n, g0.park ≠ some ⟨.reply f, n⟩) → (r.issueWith g c0).env? = some e →
    b.toNat % 65536 + 4 ≤ 65536 → b.toNat + 4 ≤ 2 ^ 57 →
    xlate (r.issueWith g c0) e.t.ctx e.agent (some e.spur) e.g.trap.masked .fetch b.toNat = .ok (s1, .loc pa, leaf) →
    isHeld s1 pa = false → localErr s1 (isLost s1) pa 4 = none →
    (isLong (opcodeOf w) = false → s4 = s2 ∧ lit = 0) →
    (isLong (opcodeOf w) = true → b.toNat % 65536 + 8 ≤ 65536 ∧ b.toNat + 8 ≤ 2 ^ 57 ∧ ∃ s3 pb lv,
      xlate s2 e.t.ctx e.agent (some e.spur) e.g.trap.masked .fetch (b.toNat + 4) = .ok (s3, .loc pb, lv) ∧
      isHeld s3 pb = false ∧ localErr s3 (isLost s3) pb 4 = none ∧ s4 = met s3 (b.toNat + 4) pb lv ∧ lit = leNat (readB s3.mem pb 4)) →
    absentUnit s4.grade (opcodeOf w) = false → decodeWords w lit = .instr i →
    step s = exec i { s4.noteIssue e c2 with cur := some c2 }

/-! ## Integer, shift and bit-field instructions -/

/-- R202: the plain integer instructions complete wherever they are issued; every lane that takes part receives its result modulo
2^32, and nothing else of the state changes but the program counters of the executing lanes.

R202, R205: the 64-bit integer instructions and the address computation, modulo 2^64; the offset of LEAI is signed, its
index is scaled by 2 to the power of its scale. -/
def Obligations.IntegerArithmetic : Prop :=
  (∀ (g : Pred) (d : VReg) (a b : Src) (lit : Word),
     LaneResult (.iadd g d a b) g d (fun r l => BitVec.ofNat 32 ((r.src a l).toNat + (r.src b l).toNat)) ∧
     LaneResult (.isub g d a b) g d (fun r l => BitVec.ofInt 32 ((r.src a l).toInt - (r.src b l).toInt)) ∧
     LaneResult (.imul g d a b) g d (fun r l => BitVec.ofNat 32 ((r.src a l).toNat * (r.src b l).toNat)) ∧
     LaneResult (.imulhS g d a b) g d (fun r l => BitVec.ofInt 32 ((r.src a l).toInt * (r.src b l).toInt / 2 ^ 32)) ∧
     LaneResult (.imulhN g d a b) g d (fun r l => BitVec.ofNat 32 ((r.src a l).toNat * (r.src b l).toNat / 2 ^ 32)) ∧
     LaneResult (.imad g d a b) g d
       (fun r l => BitVec.ofNat 32 ((r.src a l).toNat * (r.src b l).toNat + (r.getV d.val l).toNat)) ∧
     LaneResult (.iaddi g d a lit) g d (fun r l => BitVec.ofNat 32 ((r.src a l).toNat + lit.toNat)) ∧
     LaneResult (.iminS g d a b) g d (fun r l => BitVec.ofInt 32 (min (r.src a l).toInt (r.src b l).toInt)) ∧
     LaneResult (.imaxS g d a b) g d (fun r l => BitVec.ofInt 32 (max (r.src a l).toInt (r.src b l).toInt)) ∧
     LaneResult (.iminN g d a b) g d (fun r l => BitVec.ofNat 32 (min (r.src a l).toNat (r.src b l).toNat)) ∧
     LaneResult (.imaxN g d a b) g d (fun r l => BitVec.ofNat 32 (max (r.src a l).toNat (r.src b l).toNat)) ∧
     LaneResult (.iabs g d a) g d (fun r l => BitVec.ofInt 32 (min |(r.src a l).toInt| 2147483647))) ∧
  (∀ (g : Pred) (d : VReg) (a b : Src) (m : LaneMem) (x : BitVec 3),
     LaneResult2 (.iadd64 g d a b) g d (fun r l => BitVec.ofNat 64 ((r.src2 a l).toNat + (r.src2 b l).toNat)) ∧
     LaneResult2 (.isub64 g d a b) g d (fun r l => BitVec.ofInt 64 ((r.src2 a l).toInt - (r.src2 b l).toInt)) ∧
     LaneResult2 (.imadw g d a b) g d
       (fun r l => BitVec.ofInt 64 ((r.src a l).toInt * (r.src b l).toInt + (r.getV2 d.val l).toInt)) ∧
     LaneResult2 (.leai g d m x) g d
       (fun r l => BitVec.ofInt 64 ((r.src2 m.base l).toInt + (r.src m.index l).toInt * 2 ^ x.toNat + m.off.toInt)))

/-- R202: the bitwise instructions, the moves and the counts of bits. -/
def Obligations.LogicAndMoves : Prop :=
  ∀ (g : Pred) (d : VReg) (a b : Src) (lit : Word),
    LaneResult (.and g d a b) g d (fun r l => r.src a l &&& r.src b l) ∧
    LaneResult (.or g d a b) g d (fun r l => r.src a l ||| r.src b l) ∧
    LaneResult (.xor g d a b) g d (fun r l => r.src a l ^^^ r.src b l) ∧
    LaneResult (.not g d a) g d (fun r l => r.src a l ^^^ 0xFFFFFFFF) ∧
    LaneResult (.mov g d a) g d (fun r l => r.src a l) ∧
    LaneResult (.movi g d lit) g d (fun _ _ => lit) ∧
    LaneResult (.brev g d a) g d (fun r l => (r.src a l).reverse) ∧
    (∃ f : Word → Word, (∀ x, (f x).toNat = ((List.range 32).filter (fun i => x.getLsbD i)).length) ∧
      LaneResult (.popc g d a) g d (fun r l => f (r.src a l))) ∧
    (∃ f : Word → Word, f 0 = 32 ∧ (∀ x, x ≠ 0 → (f x).toNat < 32 ∧ 2 ^ (31 - (f x).toNat) ≤ x.toNat ∧
        x.toNat < 2 ^ (32 - (f x).toNat)) ∧
      LaneResult (.clz g d a) g d (fun r l => f (r.src a l)))

/-- R203: the shifts of both sets take their whole 32-bit amount; a shift of 32 or more gives zeros, or copies of the sign for
SHR.S; ROTL alone reduces the amount modulo 32. -/
def Obligations.Shifts : Prop :=
  ∀ (g : Pred) (d : VReg) (a b : Src) (kd ka kb : KReg),
    LaneResult (.shl g d a b) g d
      (fun r l => if (r.src b l).toNat < 32 then r.src a l <<< (r.src b l).toNat else 0) ∧
    LaneResult (.shrN g d a b) g d
      (fun r l => if (r.src b l).toNat < 32 then r.src a l >>> (r.src b l).toNat else 0) ∧
    LaneResult (.shrS g d a b) g d
      (fun r l => if (r.src b l).toNat < 32 then (r.src a l).sshiftRight (r.src b l).toNat
        else if 0 ≤ (r.src a l).toInt then 0 else 0xFFFFFFFF) ∧
    LaneResult (.rotl g d a b) g d
      (fun r l => r.src a l <<< ((r.src b l).toNat % 32) ||| r.src a l >>> (32 - (r.src b l).toNat % 32)) ∧
    UniResult (.ushl g kd ka kb) g kd
      (fun r => if (r.getK kb.val).toNat < 32 then r.getK ka.val <<< (r.getK kb.val).toNat else 0) ∧
    UniResult (.ushrN g kd ka kb) g kd
      (fun r => if (r.getK kb.val).toNat < 32 then r.getK ka.val >>> (r.getK kb.val).toNat else 0) ∧
    UniResult (.ushrS g kd ka kb) g kd
      (fun r => if (r.getK kb.val).toNat < 32 then (r.getK ka.val).sshiftRight (r.getK kb.val).toNat
        else if 0 ≤ (r.getK ka.val).toInt then 0 else 0xFFFFFFFF)

/-- R204: BFX and BFI read position and width from bits 7 to 0 and 15 to 8 of the control value and limit both, so no control
value is refused. -/
def Obligations.BitFields : Prop :=
  ∀ (g : Pred) (d : VReg) (a b : Src) (kd ka kb : KReg),
    LaneResult (.bfxN g d a b) g d (fun r l =>
      let pos := min ((r.src b l).toNat % 256) 32
      let w := min ((r.src b l).toNat / 256 % 256) (32 - pos)
      BitVec.ofNat 32 ((r.src a l).toNat / 2 ^ pos % 2 ^ w)) ∧
    LaneResult (.bfxS g d a b) g d (fun r l =>
      let pos := min ((r.src b l).toNat % 256) 32
      let w := min ((r.src b l).toNat / 256 % 256) (32 - pos)
      let x := (r.src a l).toNat / 2 ^ pos % 2 ^ w
      if w = 0 then 0 else if x < 2 ^ (w - 1) then BitVec.ofNat 32 x else BitVec.ofInt 32 ((x : Int) - 2 ^ w)) ∧
    LaneResult (.bfi g d a b) g d (fun r l =>
      let pos := min ((r.src b l).toNat % 256) 32
      let w := min ((r.src b l).toNat / 256 % 256) (32 - pos)
      let m : Word := BitVec.ofNat 32 (2 ^ w - 1) <<< pos
      (r.getV d.val l &&& ~~~m) ||| ((r.src a l <<< pos) &&& m)) ∧
    UniResult (.ubfx g kd ka kb) g kd (fun r =>
      let pos := min ((r.getK kb.val).toNat % 256) 32
      let w := min ((r.getK kb.val).toNat / 256 % 256) (32 - pos)
      BitVec.ofNat 32 ((r.getK ka.val).toNat / 2 ^ pos % 2 ^ w))

/-- R218: the uniform integer instructions, modulo 2^32 or 2^64; with a false guard nothing is written, and k0 discards a write. -/
def Obligations.UniformArithmetic : Prop :=
  ∀ (g : Pred) (d a b : KReg) (lit : Word),
    UniResult (.uiadd g d a b) g d (fun r => BitVec.ofNat 32 ((r.getK a.val).toNat + (r.getK b.val).toNat)) ∧
    UniResult (.uisub g d a b) g d (fun r => BitVec.ofInt 32 ((r.getK a.val).toInt - (r.getK b.val).toInt)) ∧
    UniResult (.uimul g d a b) g d (fun r => BitVec.ofNat 32 ((r.getK a.val).toNat * (r.getK b.val).toNat)) ∧
    UniResult (.uimad g d a b) g d
      (fun r => BitVec.ofNat 32 ((r.getK a.val).toNat * (r.getK b.val).toNat + (r.getK d.val).toNat)) ∧
    UniResult (.uiaddi g d a lit) g d (fun r => BitVec.ofNat 32 ((r.getK a.val).toNat + lit.toNat)) ∧
    UniResult2 (.uiadd64 g d a b) g d (fun r => BitVec.ofNat 64 ((r.getK2 a.val).toNat + (r.getK2 b.val).toNat)) ∧
    UniResult (.umov g d a) g d (fun r => r.getK a.val) ∧
    UniResult (.umovi g d lit) g d (fun _ => lit) ∧
    UniResult (.uand g d a b) g d (fun r => r.getK a.val &&& r.getK b.val) ∧
    UniResult (.uor g d a b) g d (fun r => r.getK a.val ||| r.getK b.val) ∧
    UniResult (.uxor g d a b) g d (fun r => r.getK a.val ^^^ r.getK b.val)

/-! ## Predicates -/

/-- R206, R218: the compares of both sets set their predicate in the lanes that take part, and nothing else; a write to p0 or q0
is discarded.

R189, R190: PLOP and UPLOP look their sources up in the table of eight bits; PMOV moves the predicates of a lane, of which p0
reads true. -/
def Obligations.Predicates : Prop :=
  (∀ (g p : Pred) (c : Cond) (a b : Src) (ka kb : KReg) (lit : Word),
     LaneTest (.icmpS g c p a b) g p (fun r l => holdsInt c (r.src a l).toInt (r.src b l).toInt) ∧
     LaneTest (.icmpN g c p a b) g p (fun r l => holdsInt c (r.src a l).toNat (r.src b l).toNat) ∧
     LaneTest (.icmpiS g c p a lit) g p (fun r l => holdsInt c (r.src a l).toInt lit.toInt) ∧
     LaneTest (.icmpiN g c p a lit) g p (fun r l => holdsInt c (r.src a l).toNat lit.toNat) ∧
     LaneTest (.fcmpF32 g c p a b) g p
       (fun r l => holdsNum c (Fmt.f32.value (r.src a l).toNat) (Fmt.f32.value (r.src b l).toNat)) ∧
     LaneTest (.fcmpF64 g c p a b) g p
       (fun r l => holdsNum c (Fmt.f64.value (r.src2 a l).toNat) (Fmt.f64.value (r.src2 b l).toNat)) ∧
     UniTest (.uicmpS g c p ka kb) g p (fun r => holdsInt c (r.getK ka.val).toInt (r.getK kb.val).toInt) ∧
     UniTest (.uicmpN g c p ka kb) g p (fun r => holdsInt c (r.getK ka.val).toNat (r.getK kb.val).toNat) ∧
     UniTest (.ufcmp g c p ka kb) g p
       (fun r => holdsNum c (Fmt.f32.value (r.getK ka.val).toNat) (Fmt.f32.value (r.getK kb.val).toNat))) ∧
  (∀ (g d a b c : Pred) (lut : BitVec 8) (v : VReg) (x : Src),
     LaneTest (.plop g lut d a b c) g d (fun r l => lut.toNat.testBit
       ((if laneBit (r.getP a.val) l then 4 else 0) + (if laneBit (r.getP b.val) l then 2 else 0) +
         (if laneBit (r.getP c.val) l then 1 else 0))) ∧
     UniTest (.uplop g lut d a b c) g d (fun r => lut.toNat.testBit
       ((if r.getQ a.val then 4 else 0) + (if r.getQ b.val then 2 else 0) + (if r.getQ c.val then 1 else 0))) ∧
     (∃ f : Regs → Nat → Word, (∀ r l i, (f r l).getLsbD i = (decide (i < 8) && laneBit (r.getP i) l)) ∧
       LaneResult (.pmovGet g v) g v f) ∧
     (∀ s e, s.env? = some e →
       Completes (.pmovSet g x) s s e e.g.latch (fun h => WritesPs e h (e.taking g) (fun l => e.g.regs.src x l))))

/-! ## Floating point -/

/-- R176, R199, R207, R218: floating-point arithmetic is exact and rounded once to nearest even; each half of a packed word is an operation
of its own.

R176, R207: the packed forms, half by half, in FP16 and in BF16. -/
def Obligations.FloatArithmetic : Prop :=
  (∀ (g : Pred) (d : VReg) (a b : Src) (kd ka kb : KReg) (lit : Word),
     LaneResult (.faddF32 g d a b) g d (fun r l => f32Of ((numF32 (r.src a l)).add (numF32 (r.src b l)))) ∧
     LaneResult (.fsubF32 g d a b) g d (fun r l => f32Of ((numF32 (r.src a l)).add (numF32 (r.src b l)).neg)) ∧
     LaneResult (.fmulF32 g d a b) g d (fun r l => f32Of ((numF32 (r.src a l)).mul (numF32 (r.src b l)))) ∧
     LaneResult (.ffmaF32 g d a b) g d
       (fun r l => f32Of (((numF32 (r.src a l)).mul (numF32 (r.src b l))).add (numF32 (r.getV d.val l)))) ∧
     LaneResult (.faddiF32 g d a lit) g d (fun r l => f32Of ((numF32 (r.src a l)).add (numF32 lit))) ∧
     LaneResult (.fmuliF32 g d a lit) g d (fun r l => f32Of ((numF32 (r.src a l)).mul (numF32 lit))) ∧
     LaneResult2 (.faddF64 g d a b) g d (fun r l => f64Of ((numF64 (r.src2 a l)).add (numF64 (r.src2 b l)))) ∧
     LaneResult2 (.fsubF64 g d a b) g d (fun r l => f64Of ((numF64 (r.src2 a l)).add (numF64 (r.src2 b l)).neg)) ∧
     LaneResult2 (.fmulF64 g d a b) g d (fun r l => f64Of ((numF64 (r.src2 a l)).mul (numF64 (r.src2 b l)))) ∧
     LaneResult2 (.ffmaF64 g d a b) g d
       (fun r l => f64Of (((numF64 (r.src2 a l)).mul (numF64 (r.src2 b l))).add (numF64 (r.getV2 d.val l)))) ∧
     UniResult (.ufadd g kd ka kb) g kd (fun r => f32Of ((numF32 (r.getK ka.val)).add (numF32 (r.getK kb.val)))) ∧
     UniResult (.ufmul g kd ka kb) g kd (fun r => f32Of ((numF32 (r.getK ka.val)).mul (numF32 (r.getK kb.val)))) ∧
     UniResult (.uffma g kd ka kb) g kd
       (fun r => f32Of (((numF32 (r.getK ka.val)).mul (numF32 (r.getK kb.val))).add (numF32 (r.getK kd.val))))) ∧
  (∀ (g : Pred) (d : VReg) (a b : Src),
     LaneResult (.faddF16x2 g d a b) g d (fun r l => pairOf .f16
       ((lowOf .f16 (r.src a l)).add (lowOf .f16 (r.src b l))) ((highOf .f16 (r.src a l)).add (highOf .f16 (r.src b l)))) ∧
     LaneResult (.fmulF16x2 g d a b) g d (fun r l => pairOf .f16
       ((lowOf .f16 (r.src a l)).mul (lowOf .f16 (r.src b l))) ((highOf .f16 (r.src a l)).mul (highOf .f16 (r.src b l)))) ∧
     LaneResult (.ffmaF16x2 g d a b) g d (fun r l => pairOf .f16
       (((lowOf .f16 (r.src a l)).mul (lowOf .f16 (r.src b l))).add (lowOf .f16 (r.getV d.val l)))
       (((highOf .f16 (r.src a l)).mul (highOf .f16 (r.src b l))).add (highOf .f16 (r.getV d.val l)))) ∧
     LaneResult (.faddBf16x2 g d a b) g d (fun r l => pairOf .bf16
       ((lowOf .bf16 (r.src a l)).add (lowOf .bf16 (r.src b l))) ((highOf .bf16 (r.src a l)).add (highOf .bf16 (r.src b l)))) ∧
     LaneResult (.fmulBf16x2 g d a b) g d (fun r l => pairOf .bf16
       ((lowOf .bf16 (r.src a l)).mul (lowOf .bf16 (r.src b l))) ((highOf .bf16 (r.src a l)).mul (highOf .bf16 (r.src b l)))) ∧
     LaneResult (.ffmaBf16x2 g d a b) g d (fun r l => pairOf .bf16
       (((lowOf .bf16 (r.src a l)).mul (lowOf .bf16 (r.src b l))).add (lowOf .bf16 (r.getV d.val l)))
       (((highOf .bf16 (r.src a l)).mul (highOf .bf16 (r.src b l))).add (highOf .bf16 (r.getV d.val l)))))

/-- R208: FMIN and FMAX in every format give one of their inputs as it is read, never rounded, or the canonical NaN; -0 counts as
less than +0, and BF16 flushes its subnormal inputs first. -/
def Obligations.FloatMinimumAndMaximum : Prop :=
  ∀ (g : Pred) (d : VReg) (a b : Src),
    LaneResult (.fminF32 g d a b) g d (fun r l => lesserOf .f32 (r.src a l) (r.src b l)) ∧
    LaneResult (.fmaxF32 g d a b) g d (fun r l => greaterOf .f32 (r.src a l) (r.src b l)) ∧
    LaneResult2 (.fminF64 g d a b) g d (fun r l => lesserOf .f64 (r.src2 a l) (r.src2 b l)) ∧
    LaneResult2 (.fmaxF64 g d a b) g d (fun r l => greaterOf .f64 (r.src2 a l) (r.src2 b l)) ∧
    LaneResult (.fminF16x2 g d a b) g d (fun r l => halves (lesserOf .f16) (r.src a l) (r.src b l)) ∧
    LaneResult (.fmaxF16x2 g d a b) g d (fun r l => halves (greaterOf .f16) (r.src a l) (r.src b l)) ∧
    LaneResult (.fminBf16x2 g d a b) g d (fun r l => halves (lesserOf .bf16) (r.src a l) (r.src b l)) ∧
    LaneResult (.fmaxBf16x2 g d a b) g d (fun r l => halves (greaterOf .bf16) (r.src a l) (r.src b l))

/-- R13, R160, R206: the sums, products and comparisons that a result is rounded from are those of rational numbers. -/
def Obligations.SumsAndProductsAreExact : Prop :=
  ∀ (a b : Machine.Num) (x y : ℚ), a.rat? = some x → b.rat? = some y →
    (a.add b).rat? = some (x + y) ∧ (a.mul b).rat? = some (x * y) ∧ a.neg.rat? = some (-x) ∧
    (a.lt b = true ↔ x < y) ∧ (a.eq b = true ↔ x = y)

/-- R167, R168: a finite value rounds to the nearest datum of FP64, FP32 or FP16 and no datum lies nearer, unless it overflows; of two
datums equally near, the one with an even code is chosen. It overflows, to the infinity of its sign, where its magnitude is the largest
finite value and half a unit in its last place or more, and only there. -/
def Obligations.RoundsToNearestEven : Prop :=
  ∀ (f : Fmt), f = .f64 ∨ f = .f32 ∨ f = .f16 →
    ∀ (s : Bool) (m : Nat) (e : Int) (x : ℚ), (Machine.Num.fin s m e).rat? = some x →
      (∀ (y z : ℚ) (c : Nat), (f.value (f.rne (.fin s m e))).rat? = some y → (f.value c).rat? = some z → c < 2 * f.signBit →
        |y - x| ≤ |z - x| ∧ (|y - x| = |z - x| → y ≠ z → f.rne (.fin s m e) % 2 = 0)) ∧
      (f.overAt ≤ |x| → f.value (f.rne (.fin s m e)) = .inf s) ∧
      (|x| < f.overAt → ∃ y, (f.value (f.rne (.fin s m e))).rat? = some y)

/-- R209: the transcendentals of the lane set complete with the value of their function, which depends on the operand's word alone. At the
special operands it is the value the spec lists, FSIN at every integer and FCOS at every half-integer among them; reciprocals and roots are
rounded from the exact value at every operand; FEXP2 at integers, FLOG2 at powers of two, FSIN and FCOS at multiples of one half are exact.
What the other five give at other operands is not said here. -/
def Obligations.Transcendentals : Prop :=
  let rcp := f32fn rcp32
  let rsq := f32fn rsq32
  let sqrt := f32fn sqrt32
  let exp2 := f32fn exp32
  let log2 := f32fn log32
  let sinpi := f32fn sin32
  let cospi := f32fn cos32
  let tanh := f32fn tanh32
  let one := fun neg : Bool => if neg then (0xBF800000 : Word) else 0x3F800000
  (∀ (g : Pred) (d : VReg) (a : Src),
    LaneResult (.frcp g d a) g d (fun r l => rcp (r.src a l)) ∧ LaneResult (.frsq g d a) g d (fun r l => rsq (r.src a l)) ∧
    LaneResult (.fsqrt g d a) g d (fun r l => sqrt (r.src a l)) ∧ LaneResult (.fexp2 g d a) g d (fun r l => exp2 (r.src a l)) ∧
    LaneResult (.flog2 g d a) g d (fun r l => log2 (r.src a l)) ∧ LaneResult (.fsin g d a) g d (fun r l => sinpi (r.src a l)) ∧
    LaneResult (.fcos g d a) g d (fun r l => cospi (r.src a l)) ∧ LaneResult (.ftanh g d a) g d (fun r l => tanh (r.src a l))) ∧
  (∀ x, (numF32 x).isNan = true → ∀ f ∈ [rcp, rsq, sqrt, exp2, log2, sinpi, cospi, tanh], f x = 0x7FC00000) ∧
  (∀ x, (numF32 x).lt (.fin false 0 0) = true → rsq x = 0x7FC00000 ∧ sqrt x = 0x7FC00000 ∧ log2 x = 0x7FC00000) ∧
  rcp 0 = 0x7F800000 ∧ rcp 0x80000000 = 0xFF800000 ∧ rcp 0x7F800000 = 0 ∧ rcp 0xFF800000 = 0x80000000 ∧
  rsq 0 = 0x7F800000 ∧ rsq 0x80000000 = 0xFF800000 ∧ rsq 0x7F800000 = 0 ∧
  sqrt 0 = 0 ∧ sqrt 0x80000000 = 0x80000000 ∧ sqrt 0x7F800000 = 0x7F800000 ∧
  exp2 0xFF800000 = 0 ∧ exp2 0x7F800000 = 0x7F800000 ∧ exp2 0 = 0x3F800000 ∧ exp2 0x80000000 = 0x3F800000 ∧
  log2 0 = 0xFF800000 ∧ log2 0x80000000 = 0xFF800000 ∧ log2 0x7F800000 = 0x7F800000 ∧ log2 0x3F800000 = 0 ∧
  sinpi 0x7F800000 = 0x7FC00000 ∧ sinpi 0xFF800000 = 0x7FC00000 ∧
  cospi 0x7F800000 = 0x7FC00000 ∧ cospi 0xFF800000 = 0x7FC00000 ∧
  tanh 0x7F800000 = 0x3F800000 ∧ tanh 0xFF800000 = 0xBF800000 ∧ tanh 0 = 0 ∧ tanh 0x80000000 = 0x80000000 ∧
  (∀ (x : Word) (neg : Bool) (m : Nat) (e : Int) (q : ℚ), numF32 x = .fin neg m e → (numF32 x).rat? = some q →
    (m ≠ 0 → Fmt.f32.overflows .rne (1 / q) → numF32 (rcp x) = .inf neg) ∧
    (m ≠ 0 → ¬Fmt.f32.overflows .rne (1 / q) → Fmt.f32.roundsTo .rne neg (1 / q) (rcp x).toNat) ∧
    (m ≠ 0 → neg = false → nearestF32 (Real.sqrt q) (sqrt x).toNat ∧ nearestF32 (1 / Real.sqrt q) (rsq x).toNat) ∧
    (128 ≤ q → exp2 x = 0x7F800000) ∧ (q < -150 → exp2 x = 0) ∧
    (∀ k : Int, q = k →
      sinpi x = (if neg then 0x80000000 else 0) ∧ cospi x = one (decide (k % 2 = 1)) ∧
      (-149 ≤ k → k ≤ 127 → (numF32 (exp2 x)).rat? = some ((2 : ℚ) ^ k))) ∧
    (∀ k : Int, q = k + 1 / 2 → sinpi x = one (decide (k % 2 = 1)) ∧ cospi x = 0) ∧
    (∀ k : Int, q = (2 : ℚ) ^ k → (numF32 (log2 x)).rat? = some (k : ℚ)))

/-- R167, R168, R169, R171, R210, R212: the scalar conversions, FRND and FLDEXP, with what a value becomes in each format and in each integer
type under every rounding mode, with SAT and without. A 16-bit result has 0 in its upper half; CVT.FF within one
type and without SAT changes nothing but a NaN and a BF16 subnormal, and with SAT it follows the general rule, an infinity becoming the
largest finite value (the model's reading, log 21). -/
def Obligations.Conversions : Prop :=
  ∀ (g : Pred) (d : VReg) (a b : Src) (rm : RMode) (sat : Bool) (i o : FltTy) (n m : IntTy),
    (∀ v, (fltFmt o).takes rm sat v ((fltFmt o).encode rm sat v)) ∧
    (∀ v, intTakes (intEnds m).1 (intEnds m).2 rm v (v.toInt (intEnds m).1 (intEnds m).2 rm)) ∧
    (∀ v, integralTakes rm v (v.integral rm)) ∧
    (m.is64 = false → LaneResult (.cvtFi g d a rm i m) g d
      (fun r l => BitVec.ofInt 32 ((srcNum r i a l).toInt (intEnds m).1 (intEnds m).2 rm))) ∧
    (m.is64 = true → LaneResult2 (.cvtFi g d a rm i m) g d
      (fun r l => BitVec.ofInt 64 ((srcNum r i a l).toInt (intEnds m).1 (intEnds m).2 rm))) ∧
    (o ≠ .f64 → LaneResult (.cvtIf g d a rm sat n o) g d
      (fun r l => BitVec.ofNat 32 ((fltFmt o).encode rm sat (.ofInt (srcInt r n a l))))) ∧
    (LaneResult2 (.cvtIf g d a rm sat n .f64) g d
      (fun r l => BitVec.ofNat 64 (Fmt.f64.encode rm sat (.ofInt (srcInt r n a l))))) ∧
    (o ≠ .f64 → LaneResult (.cvtFf g d a rm sat i o) g d
      (fun r l => BitVec.ofNat 32 ((fltFmt o).encode rm sat (srcNum r i a l)))) ∧
    (LaneResult2 (.cvtFf g d a rm sat i .f64) g d
      (fun r l => BitVec.ofNat 64 (Fmt.f64.encode rm sat (srcNum r i a l)))) ∧
    LaneResult (.cvtFf g d a rm false .f32 .f32) g d
      (fun r l => if (srcNum r .f32 a l).isNan then 0x7FC00000 else r.src a l) ∧
    LaneResult2 (.cvtFf g d a rm false .f64 .f64) g d
      (fun r l => if (srcNum r .f64 a l).isNan then 0x7FF8000000000000 else r.src2 a l) ∧
    LaneResult (.cvtFf g d a rm false .f16 .f16) g d
      (fun r l => if (srcNum r .f16 a l).isNan then 0x7E00 else ((r.src a l).extractLsb' 0 16).setWidth 32) ∧
    LaneResult (.cvtFf g d a rm false .bf16 .bf16) g d
      (fun r l => if (srcNum r .bf16 a l).isNan then 0x7FC0
        else (cleanBits .bf16 ((r.src a l).extractLsb' 0 16)).setWidth 32) ∧
    LaneResult (.frnd g d a rm false) g d (fun r l => f32Of ((numF32 (r.src a l)).integral rm)) ∧
    LaneResult2 (.frnd g d a rm true) g d (fun r l => f64Of ((numF64 (r.src2 a l)).integral rm)) ∧
    LaneResult (.fldexp g d a b) g d (fun r l => f32Of (match numF32 (r.src a l) with
      | .fin s x e => .fin s x (e + (r.src b l).toInt)
      | z => z))

/-- R168, R169, R171, R211, R213: CVT.NR writes the converted element into its slot of the old destination and leaves the other bits, the
conversion of every value to every narrow format under every mode being as R168 and R169 give it; CVT.WD gives the exact FP32 value of a slot. A control word that R213 refuses raises BAD_FORMAT, and none is read when no lane takes part. -/
def Obligations.SlotConversions : Prop :=
  ∀ (g : Pred) (d : VReg) (a : Src) (b : KReg) (s : State) (e : Env), s.env? = some e →
    let c := (e.g.regs.getK b.val).toNat
    let pos := c / 16 % 16
    (e.taking g = 0 → Completes (.cvtNr g d a b) s s e e.g.latch (WritesNone e) ∧
      Completes (.cvtWd g d a b) s s e e.g.latch (WritesNone e)) ∧
    (∀ el rm sat v, elemOf (c / 2048 % 32) = some el → match el with
      | .f _ f => f.takes rm sat v (el.encode rm sat v)
      | .i t => el.encode rm sat v < 2 ^ t.bits ∧ intTakes t.lo t.hi rm v (t.value (el.encode rm sat v))) ∧
    (∀ el, e.taking g ≠ 0 → elemOf (c / 2048 % 32) = some el → c / 65536 = 0 → c / 256 % 8 = 0 → c % 2 = 0 →
      el.width * pos + el.width ≤ 32 →
      (∃ f : Nat → Word, (∀ l i, i < 32 → (f l).getLsbD i =
          if el.width * pos ≤ i ∧ i < el.width * pos + el.width
          then (el.encode (rmode (c / 4 % 4)) (decide (c / 2 % 2 = 1)) (numF32 (e.g.regs.src a l))).testBit (i - el.width * pos)
          else (e.g.regs.getV d.val l).getLsbD i) ∧
        Completes (.cvtNr g d a b) s s e (e.g.wrote d.val 1).latch (fun h => WritesV e h (e.taking g) d.val f)) ∧
      (c / 2 % 8 = 0 → Completes (.cvtWd g d a b) s s e (e.g.wrote d.val 1).latch (fun h => WritesV e h (e.taking g) d.val
        (fun l => f32Of (el.value ((e.g.regs.src a l).toNat / 2 ^ (el.width * pos) % 2 ^ el.width)))))) ∧
    (e.taking g ≠ 0 → (elemOf (c / 2048 % 32) = none ∨ c / 65536 ≠ 0 ∨ c / 256 % 8 ≠ 0 ∨ c % 2 ≠ 0) →
      Traps (.cvtNr g d a b) s e 4 c 0 e.c.mask ∧ Traps (.cvtWd g d a b) s e 4 c 0 e.c.mask) ∧
    (∀ el, e.taking g ≠ 0 → elemOf (c / 2048 % 32) = some el → 32 < el.width * pos + el.width →
      Traps (.cvtNr g d a b) s e 4 c 0 e.c.mask ∧ Traps (.cvtWd g d a b) s e 4 c 0 e.c.mask) ∧
    (e.taking g ≠ 0 → c / 2 % 8 ≠ 0 → Traps (.cvtWd g d a b) s e 4 c 0 e.c.mask)

/-! ## Lanes together, special registers -/

/-- R215, R216, R217: the cross-lane instructions over the set T of lanes that take part. A shuffle from a lane that does not execute, or from
none, gives a lane its own value; scans and reductions run in ascending lane order. -/
def Obligations.CrossLane : Prop :=
  ∀ (g : Pred) (d : VReg) (a b : Src) (kd : KReg) (pd pa : Pred) (m : VoteMode) (o : ScanOp) (s : State) (e : Env),
    s.env? = some e →
    let t := e.taking g
    let n := fun l => (e.g.regs.src b l).toNat
    let own := fun l => e.g.regs.src a l
    let lands := fun (i : Instr) (f : Nat → Word) =>
      Completes i s s e (e.g.wrote d.val 1).latch (fun h => WritesV e h t d.val f)
    let ins := fun l => (lanesOf t).filter (fun j => decide (j ≤ l))
    let before := fun l => (lanesOf t).filter (fun j => decide (j < l))
    lands (.shfl g d a b) (fun l => if laneBit e.c.mask (n l % 32) then own (n l % 32) else own l) ∧
    lands (.shflx g d a b) (fun l => if laneBit e.c.mask (l ^^^ (n l % 32)) then own (l ^^^ (n l % 32)) else own l) ∧
    lands (.shflup g d a b) (fun l => if n l ≤ l ∧ laneBit e.c.mask (l - n l) = true then own (l - n l) else own l) ∧
    lands (.shfldn g d a b) (fun l => if laneBit e.c.mask (l + n l) then own (l + n l) else own l) ∧
    (∃ f : Nat → Word, (∀ l j, j < 32 → (f l).getLsbD j = (laneBit t j && own j == own l)) ∧ lands (.matchLanes g d a) f) ∧
    (∃ r : Bool, (r = true ↔ match m with
        | .all => ∀ l, laneBit t l = true → laneBit (e.g.regs.getP pa.val) l = true
        | .any => ∃ l, laneBit t l = true ∧ laneBit (e.g.regs.getP pa.val) l = true
        | .uni => (∀ l, laneBit t l = true → laneBit (e.g.regs.getP pa.val) l = true) ∨
            ∀ l, laneBit t l = true → laneBit (e.g.regs.getP pa.val) l = false) ∧
      Completes (.vote g pd pa m) s s e e.g.latch (fun h => WritesP e h t pd.val (fun _ => r))) ∧
    (t ≠ 0 → Completes (.ballot g kd pa) s s e e.g.latch (fun h => WritesK e h kd.val (t &&& e.g.regs.getP pa.val))) ∧
    (t = 0 → Completes (.ballot g kd pa) s s e e.g.latch (WritesNone e)) ∧
    lands (.lscan g d a o false) (fun l => scanOver o ((ins l).map own)) ∧
    lands (.lscan g d a o true) (fun l => scanOver o ((before l).map own)) ∧
    (t ≠ 0 → Completes (.lred g kd a o) s s e e.g.latch
      (fun h => WritesK e h kd.val (scanOver o ((lanesOf t).map own)))) ∧
    (t = 0 → Completes (.lred g kd a o) s s e e.g.latch (WritesNone e))

/-- R181, R182, R183: SREAD writes the special register's value, per lane or for the group; the registers of a trap are read in a handler
alone, and PRIVILEGED is raised elsewhere whatever the guard. In a grid that records or replays, this is said of the registers that Cairn
does not sample. The value of every special register is given: the team's place in its grid and its cluster, the lanes, the launch record's
fields, the clock, which in DET mode is %retired, and the trap being handled. %preempt is 1 for a request to the context alone, not for a swap
of the team, which is the model's reading (log 48). -/
def Obligations.SpecialRegisters : Prop :=
  ∀ (g : Pred) (d : VReg) (kd : KReg) (a : SReg) (s : State) (e : Env), s.env? = some e →
    (∀ l : Nat, l < 32 →
      let v := sregValue s e l
      let bs := e.gr.bytes
      let tr := e.g.trap
      v .laneid = l ∧ v .groupid = e.g.gid % 32 ∧ (∀ j, (v .ltmask).testBit j = decide (j < l)) ∧
      (∀ j, (v .activemask).testBit j = e.c.mask.getLsbD j) ∧ (∀ j, (v .livemask).testBit j = e.g.regs.live.getLsbD j) ∧
      v .teamid = e.t.idx ∧ v .teamid = v .teamx + v .gridx * (v .teamy + v .gridy * v .teamz) ∧
      (v .gridx ≠ 0 → v .teamx < v .gridx) ∧ (v .gridy ≠ 0 → v .teamy < v .gridy) ∧
      v .gridx = fieldB bs 8 4 ∧ v .gridy = fieldB bs 12 2 ∧ v .gridz = fieldB bs 14 2 ∧ v .params = fieldB bs 16 8 ∧
      v .spur = fieldB bs 36 4 ∧ v .ngroups = fieldB bs 56 1 % 64 ∧ v .priority = fieldB bs 62 1 % 16 ∧ v .mode = fieldB bs 62 1 / 16 % 4 ∧
      v .clshape = (fieldB bs 61 1 % 4 + 1) + 16 * (fieldB bs 61 1 / 4 % 4 + 1) ∧
      v .clrank = e.t.idx % ((fieldB bs 61 1 % 4 + 1) * (fieldB bs 61 1 / 4 % 4 + 1)) ∧
      v .column = e.t.column ∧ v .ctxid = e.t.ctx ∧ v .preempt = (if e.x.request.isSome then 1 else 0) ∧
      v .retired = e.g.retired.toNat ∧ v .clock = (if fieldB bs 62 1 / 16 % 4 = 1 then e.g.retired.toNat else s.clk) ∧
      (∀ j, (v .qmask).testBit j = (decide (j < 8) && e.g.regs.getQ j)) ∧
      v .capunits = (match s.grade with | .summit => 0x0100600F | .shoulder => 0x02003003 | .saddle => 0x0300300D) ∧
      v .capsizes = (match s.grade with | .saddle => 0x60108000 | _ => 0xC0210000) ∧
      v .trapcause = tr.cause.toNat ∧ v .trapinfo = tr.info.toNat ∧ v .trappc = tr.pc.toNat ∧ v .trapaddr = tr.addr.toNat ∧
      v .trapword = tr.word.toNat ∧ v .trapmask = tr.mask.toNat) ∧
    (handlerOnly a = true → e.g.trap.masked = false →
      Traps (.sreadV g d a) s e 5 0 0 e.c.mask ∧ Traps (.sreadK g kd a) s e 5 0 0 e.c.mask) ∧
    ((handlerOnly a = true → e.g.trap.masked = true) → (e.isUnlogged = true ∨ sampledReg a = false) →
      (e.taking g = 0 → Completes (.sreadV g d a) s s e e.g.latch (WritesNone e)) ∧
      (e.taking g ≠ 0 → a.is64 = false → Completes (.sreadV g d a) s s e (e.g.wrote d.val 1).latch
        (fun h => WritesV e h (e.taking g) d.val (fun l => BitVec.ofNat 32 (sregValue s e l a)))) ∧
      (e.taking g ≠ 0 → a.is64 = true → Completes (.sreadV g d a) s s e (e.g.wrote d.val 2).latch
        (fun h => WritesV2 e h (e.taking g) d.val (fun l => BitVec.ofNat 64 (sregValue s e l a)))) ∧
      (e.g.regs.getQ g.val = false → Completes (.sreadK g kd a) s s e e.g.latch (WritesNone e)) ∧
      (e.g.regs.getQ g.val = true → a.is64 = false → Completes (.sreadK g kd a) s s e e.g.latch
        (fun h => WritesK e h kd.val (BitVec.ofNat 32 (sregValue s e 0 a)))) ∧
      (e.g.regs.getQ g.val = true → a.is64 = true → Completes (.sreadK g kd a) s s e e.g.latch
        (fun h => WritesK2 e h kd.val (BitVec.ofNat 64 (sregValue s e 0 a)))))

/-! ## Control flow -/

/-- R191, R192, R195: where the transfers go. Relative targets are taken from the instruction's address modulo 2^64; a register
target is the lane's own pair, read before a link is written; the lanes that do not take the transfer pass it,
and past the last word of the window their program counter goes to 0 (the model's choice, log 110).

R192: the traps of the transfers, in their order; nothing of the group changes when one is raised. -/
def Obligations.ControlTransfers : Prop :=
  (∀ (g : Pred) (d : VReg) (a : Src) (o : BitVec 19) (c : BitVec 13) (w u : Bool) (lit : Word),
     Transfers (.bra g o w u) g false w u (fun e _ => e.c.pc.setWidth 64 + o.signExtend 64 * 4) ∧
     Transfers (.bral g w u lit) g false w u (fun e _ => e.c.pc.setWidth 64 + lit.signExtend 64) ∧
     Transfers (.brx g a w u) g true w u (fun e l => e.g.regs.src2 a l) ∧
     Transfers (.ret g a u) g true false u (fun e l => e.g.regs.src2 a l) ∧
     Calls (.call g d c u) g d false u (fun e _ => e.c.pc.setWidth 64 + c.signExtend 64 * 4) ∧
     Calls (.callx g d a u) g d true u (fun e l => e.g.regs.src2 a l)) ∧
  (∀ (g : Pred) (d : VReg) (a : Src) (o : BitVec 19) (c : BitVec 13) (w u : Bool) (lit : Word),
     TransferTraps (.bra g o w u) g false u (fun e _ => e.c.pc.setWidth 64 + o.signExtend 64 * 4) ∧
     TransferTraps (.bral g w u lit) g false u (fun e _ => e.c.pc.setWidth 64 + lit.signExtend 64) ∧
     TransferTraps (.brx g a w u) g true u (fun e l => e.g.regs.src2 a l) ∧
     TransferTraps (.ret g a u) g true u (fun e l => e.g.regs.src2 a l) ∧
     TransferTraps (.call g d c u) g false u (fun e _ => e.c.pc.setWidth 64 + c.signExtend 64 * 4) ∧
     TransferTraps (.callx g d a u) g true u (fun e l => e.g.regs.src2 a l))

/-- R195, R196: a uniform branch moves every executing lane, or traps with APERTURE beyond 2^57; UNOP only passes (past the last word of the
window to 0: the model's choice, log 110); YIELD stops the group
past it when a request is raised and traps are not masked. -/
def Obligations.UniformControl : Prop :=
  ∀ (g : Pred) (o : BitVec 19) (u : Bool) (lit : Word) (s : State) (e : Env), s.env? = some e →
    let near := (e.c.pc.setWidth 64 + o.signExtend 64 * 4 : DWord)
    let far := (e.c.pc.setWidth 64 + lit.signExtend 64 : DWord)
    let moves := fun (i : Instr) (x : DWord) => ∃ t h, exec i s = .next t ∧ PassedJump s t e e.g.latch h ∧
      Jumps e h.regs e.c.mask false (fun _ => x.setWidth 57) ∧
      VSame e.g.regs h.regs ∧ KSame e.g.regs h.regs ∧ PSame e.g.regs h.regs ∧ QSame e.g.regs h.regs
    (e.g.regs.getQ g.val = false → Completes (.ubra g o u) s s e e.g.latch (WritesNone e) ∧
      Completes (.ubral g u lit) s s e e.g.latch (WritesNone e) ∧ Completes (.yield g) s s e e.g.latch (WritesNone e)) ∧
    Completes (.unop g) s s e e.g.latch (WritesNone e) ∧
    (e.g.regs.getQ g.val = true →
      (near.toNat < 2 ^ 57 → moves (.ubra g o u) near) ∧
      (2 ^ 57 ≤ near.toNat → Traps (.ubra g o u) s e 6 0 near.toNat e.c.mask) ∧
      (far.toNat < 2 ^ 57 → moves (.ubral g u lit) far) ∧
      (2 ^ 57 ≤ far.toNat → Traps (.ubral g u lit) s e 6 0 far.toNat e.c.mask) ∧
      ((e.isRequested = false ∨ e.g.trap.masked = true) → Completes (.yield g) s s e e.g.latch (WritesNone e)) ∧
      (e.isRequested = true → e.g.trap.masked = false → e.g.ended = false → ∃ t h, exec (.yield g) s = .next t ∧ t.group? e.g.gid = some h ∧
        h.stop.isSome = true ∧ WritesNone e h.regs ∧ h.retired = e.g.retiredNext ∧
        (∀ a, getB t.mem a = getB s.mem a)))

/-- R193, R335: EXIT ends the lanes that take part, in a handler's shadow too; a group with no live lane left has ended, and with the last group
of a team the team's index is done. -/
def Obligations.ExitEndsLanes : Prop :=
  ∀ (g : Pred) (s : State) (e : Env), s.env? = some e →
    let m := e.taking g
    let left := e.g.regs.live &&& ~~~m
    (left ≠ 0 → ∃ t h, exec (.exit g) s = .next t ∧ Frame s t e ∧ t.group? e.g.gid = some h ∧
      h.regs.live = left ∧ h.regs.wait = e.g.regs.wait ∧ h.ended = e.g.ended ∧ h.retired = e.g.retiredNext ∧
      VSame e.g.regs h.regs ∧ KSame e.g.regs h.regs ∧ PSame e.g.regs h.regs ∧ QSame e.g.regs h.regs ∧
      (∀ l, l < 32 → h.regs.getPc l = if laneBit e.c.mask l = true ∧ laneBit m l = false
        then e.g.regs.getPc l + BitVec.ofNat 57 e.c.size else e.g.regs.getPc l) ∧
      h.trap = { e.g.trap with div := h.trap.div } ∧
      (∀ l, l < 32 → getB h.trap.div l = if e.g.trap.masked = true ∧ laneBit m l = true
        then getB e.g.trap.div l &&& 0x7FFFFFFFFFFFFFFF else getB e.g.trap.div l)) ∧
    (left = 0 → ∃ t, exec (.exit g) s = .next t ∧ ∀ h, t.group? e.g.gid = some h → h.ended = true) ∧
    (left = 0 → (∀ k ∈ s.groups, k.gid / 32 = e.t.tid → k.gid = e.g.gid ∨ k.ended = true) →
      ∃ t gr, exec (.exit g) s = .next t ∧ t.grid? e.t.ctx e.t.serial = some gr ∧ e.t.idx ∈ gr.done ∧
        ∀ k ∈ t.groups, k.gid / 32 ≠ e.t.tid)

/-! ## Traps -/

/-- R328, R347: entry to the handler, in one step: the shadow, the trap registers, v95 and k30:k31 are set, every live lane goes to
TRAP_VEC and no longer waits, and nothing else changes. -/
def Obligations.TrapEntry : Prop :=
  ∀ (s : State) (e : Env) (cause info addr : Nat) (lanes : Mask) (hpa : Nat), s.env? = some e →
    e.g.trap.masked = false → e.x.reg64 CtxReg.trapVec ≠ 0 →
    ∃ t h, s.raiseTrap e.c e.g cause info addr lanes hpa = t ∧ t.group? e.g.gid = some h ∧
      Entered e h (e.x.reg64 CtxReg.trapVec)
        (e.x.reg64 CtxReg.saveBase + 0x10000 + 0x120000 * (32 * e.t.column + e.t.slot) + 0x2000 + 0x4000 * (e.g.gid % 32))
        cause info addr lanes hpa ∧
      (∀ n, n ≠ e.g.gid → t.group? n = s.group? n) ∧ t = { s with cur := none, groups := t.groups }

/-- R327, R329, R341: a class H cause with traps masked is a DOUBLE_TRAP that names the cause, and with TRAP_VEC 0 it is fatal itself: one
fatal record (KIND 3) is posted and the whole team ends, its index done and its grid failed. -/
def Obligations.FatalTrapsEndTheTeam : Prop :=
  ∀ (s : State) (e : Env) (cause info addr : Nat) (lanes : Mask) (hpa : Nat), s.env? = some e →
    e.g.trap.masked = true ∨ e.x.reg64 CtxReg.trapVec = 0 →
    ∃ t r gr, s.raiseTrap e.c e.g cause info addr lanes hpa = t ∧
      t = ({ s with cur := none }.postFatal e.t.ctx r).teamKilled e.t ∧
      r.kind = 3 ∧ r.cause = (if e.g.trap.masked then 24 else cause) ∧ r.group = e.g.gid % 32 ∧ r.a = e.c.word ∧
      r.b = e.c.pc.setWidth 64 ∧ r.team = BitVec.ofNat 32 e.t.idx ∧ r.grid = BitVec.ofNat 32 e.t.serial ∧
      t.team? e.t.tid = none ∧ (∀ k ∈ t.groups, k.gid / 32 ≠ e.t.tid) ∧
      t.grid? e.t.ctx e.t.serial = some gr ∧ gr.failed = true ∧ e.t.idx ∈ gr.done

/-- R40, R195, R332, R39: TRAP and UTRAP raise SOFTWARE with their code for the lanes they name, an unassigned opcode raises ILLEGAL_OPCODE, and
code on a page that is not mapped faults without run-ahead, with code 4 in a handler as well (R85, R92; there the choice between 4 and 7 is the
model's, log 56). -/
def Obligations.SoftwareTraps : Prop :=
  ∀ (g : Pred) (c : BitVec 14) (s : State) (e : Env), s.env? = some e →
    (e.taking g ≠ 0 → Traps (.trap g c) s e 21 c.toNat 0 (e.taking g)) ∧
    (e.taking g = 0 → Completes (.trap g c) s s e e.g.latch (WritesNone e)) ∧
    (e.g.regs.getQ g.val = true → Traps (.utrap g c) s e 21 c.toNat 0 e.c.mask) ∧
    (e.g.regs.getQ g.val = false → Completes (.utrap g c) s s e e.g.latch (WritesNone e)) ∧
    Traps .illegalOpcode s e 1 0 0 e.c.mask ∧
    (e.g.fetched = none → e.c.pc.toNat % 65536 + 4 ≤ 65536 → e.c.pc.toNat + 4 ≤ 2 ^ 57 →
      (∀ lvl, xlate s e.t.ctx e.agent (some e.spur) e.g.trap.masked .fetch e.c.pc.toNat = .error (.x (.bad lvl)) →
        Traps .fetchFault s e 8 lvl e.c.pc.toNat e.c.mask) ∧
      (∀ lvl, xlate s e.t.ctx e.agent (some e.spur) e.g.trap.masked .fetch e.c.pc.toNat = .error (.x (.absent lvl)) →
        Waits .fetchFault s e (.faultRun ⟨e.c.pc.toNat, e.c.mask, [⟨e.c.pc.toNat / 65536, lvl, 8, 0⟩], 4, true, none⟩)))

/-- R39: the instructions of a handler are privileged. -/
def Obligations.PrivilegedInstructions : Prop :=
  ∀ (g : Pred) (d a b : KReg) (m : UniMem) (v : Bool) (n : Granule) (r : SysReg),
    Privileged (.tretRetry g) g ∧ Privileged (.tretSkip g) g ∧ Privileged (.kill g) g ∧ Privileged (.killFail g) g ∧
    Privileged (.killSave g) g ∧ Privileged (.sysrd g d r) g ∧ Privileged (.syswr g r b) g ∧ Privileged (.dvsave g m v) g ∧
    Privileged (.dvload g m v) g ∧ Privileged (.xprobe g d a b) g ∧ Privileged (.xinval g n a b) g ∧
    (∀ s e, s.env? = some e → s.grade.hasCairn = true → e.g.trap.masked = false →
      Traps (.crsetCons g b) s e 5 0 0 e.c.mask ∧ Traps (.crsetThresh g b) s e 5 0 0 e.c.mask ∧
      Traps (.crsetProd g b) s e 5 0 0 e.c.mask ∧ Traps (.crsetEnd g b) s e 5 0 0 e.c.mask ∧
      Traps (.crposProd g d) s e 5 0 0 e.c.mask ∧ Traps (.crposCons g d) s e 5 0 0 e.c.mask ∧
      Traps (.crposStatus g d) s e 5 0 0 e.c.mask)

/-- R333: TRET restores the shadow and unmasks traps, and .SKIP passes the trapping instruction in the lanes the trap names; after a PREEMPT
entry it is a DOUBLE_TRAP. -/
def Obligations.TrapReturn : Prop :=
  ∀ (g : Pred) (s : State) (e : Env), s.env? = some e → e.g.trap.masked = true → e.g.regs.getQ g.val = true →
    (e.g.trap.cause ≠ 32 → e.g.trap.cause ≠ 33 → e.isRequested = false →
      (∃ l, l < 32 ∧ (getB e.g.trap.div l).getLsbD 63 = true) →
      (∃ t h, exec (.tretRetry g) s = .next t ∧ Frame s t e ∧ t.group? e.g.gid = some h ∧ Returned e h false) ∧
      (∃ t h, exec (.tretSkip g) s = .next t ∧ Frame s t e ∧ t.group? e.g.gid = some h ∧ Returned e h true)) ∧
    (e.g.trap.cause ≠ 32 → e.g.trap.cause ≠ 33 → e.isRequested = true → e.g.ended = false →
      (∃ l, l < 32 ∧ (getB e.g.trap.div l).getLsbD 63 = true) →
      (∃ t h, exec (.tretRetry g) s = .next t ∧ t.group? e.g.gid = some h ∧ Returned e h false ∧ h.stop.isSome = true) ∧
      (∃ t h, exec (.tretSkip g) s = .next t ∧ t.group? e.g.gid = some h ∧ Returned e h true ∧ h.stop.isSome = true)) ∧
    (e.g.trap.cause = 32 →
      exec (.tretRetry g) s = .next (s.groupFatal e.t e.c 24 32 (lowLane e.c.mask)) ∧
      exec (.tretSkip g) s = .next (s.groupFatal e.t e.c 24 32 (lowLane e.c.mask)))

/-- R334, R336, R339: KILL ends the group; KILL.FAIL posts KILLED with the trap being handled and ends the team; KILL.SAVE marks the group saved after a PREEMPT entry and is a
DOUBLE_TRAP after any other; SYSRD reads what a trap left and where the team is saved, SYSWR writes the shadow's k30 and k31. -/
def Obligations.HandlerInstructions : Prop :=
  ∀ (g : Pred) (d b : KReg) (s : State) (e : Env), s.env? = some e → e.g.trap.masked = true → e.g.regs.getQ g.val = true →
    let reads := fun (r : SysReg) (x : Word) => Completes (.sysrd g d r) s s e e.g.latch (fun h => WritesK e h d.val x)
    let gone := fun (f : TrapRegs) (i : Instr) => ∃ t, exec i s = .next t ∧ Frame s t e ∧
      t.group? e.g.gid = some { e.g.complete e.c.mask e.c.size with trap := f }
    (∃ t, exec (.kill g) s = .next t ∧ ∀ h, t.group? e.g.gid = some h → h.ended = true) ∧
    (∃ r, exec (.killFail g) s = .next (({ s with cur := none }.postFatal e.t.ctx r).teamKilled e.t) ∧ r.kind = 3 ∧ r.cause = 25 ∧
      r.group = e.g.gid % 32 ∧ r.lane = lowLane e.g.trap.mask ∧ r.team = BitVec.ofNat 32 e.t.idx ∧ r.grid = BitVec.ofNat 32 e.t.serial ∧
      r.a = e.g.trap.word ∧ r.b = e.g.trap.pc ∧ r.c = (e.g.trap.cause ++ e.g.trap.hlit : DWord)) ∧
    (e.g.trap.cause = 32 →
      exec (.killSave g) s = .next ((s.retire e { e.g with saved := true }).saveTry e.t.tid) ∧
      ((∃ k ∈ s.groups, k.gid / 32 = e.t.tid ∧ k.gid ≠ e.g.gid ∧ (k.ended || k.saved || k.hwsaved) = false) →
        ∃ t h, exec (.killSave g) s = .next t ∧ Frame s t e ∧ t.group? e.g.gid = some h ∧ h.saved = true ∧
          WritesNone e h.regs)) ∧
    (e.g.trap.cause ≠ 32 →
      exec (.killSave g) s = .next (s.groupFatal e.t e.c 24 e.g.trap.cause.toNat (lowLane e.c.mask))) ∧
    reads .hk30 e.g.trap.k30 ∧ reads .hk31 e.g.trap.k31 ∧ reads .hlit e.g.trap.hlit ∧
    reads .hpaLo (e.g.trap.hpa.extractLsb' 0 32) ∧ reads .hpaHi (e.g.trap.hpa.extractLsb' 32 32) ∧
    reads .saveslot (BitVec.ofNat 32 (32 * e.t.column + e.t.slot)) ∧
    reads .savebaseLo (e.x.reg CtxReg.saveBase) ∧ reads .savebaseHi (e.x.reg (CtxReg.saveBase + 4)) ∧
    reads .pstate (sysValue s e .pstate) ∧
    gone { e.g.trap with k30 := e.g.regs.getK b.val } (.syswr g .hk30 b) ∧
    gone { e.g.trap with k31 := e.g.regs.getK b.val } (.syswr g .hk31 b)

/-! ## Memory -/

/-- R43, R147 to R151, R153, R156: LD and ULD bring the bytes at their addresses, from the team's own scratchpad or from local memory, extended
as the form says; PREF changes what caches hold, and nothing else. With no lane taking part, and with a false uniform guard, they only pass.
What a load reads may be a leased copy that an external write has replaced (the model's choice, log 105), and how accesses meet the caches is
the model's too (logs 12 and 57). -/
def Obligations.Loads : Prop :=
  ∀ (g : Pred) (d : VReg) (kd : KReg) (m : LaneMem) (um : UniMem) (sz : MemSize) (sx : Bool) (h : Hint) (lv : PrefLevel)
    (s : State) (e : Env), s.env? = some e →
    let ga := fun l => (e.g.regs.laneAddr m l).toNat
    let ua := (e.g.regs.uniAddr um).toNat
    let n := sizeBytes sz
    let ls := lanesOf (e.taking g)
    let lanes := fun (s1 : State) (f : Nat → List Byte) => Completes (.ld g d m sz sx h) s s1 e (e.g.wrote d.val (sizeRegs sz)).latch
      (fun r => WritesVs e r (e.taking g) d.val (sizeRegs sz) (fun i l => wordOf sz sx (f l) i))
    let uni := fun (s1 : State) (bs : List Byte) =>
      (sz ≠ .b64 → Completes (.uld g kd um sz sx h) s s1 e e.g.latch (fun r => WritesK e r kd.val (wordOf sz sx bs 0))) ∧
      (sz = .b64 → Completes (.uld g kd um sz sx h) s s1 e e.g.latch
        (fun r => WritesK2 e r kd.val (BitVec.ofNat 64 (leNat bs))))
    (∃ s1, Completes (.pref g m lv) s s1 e e.g.latch (WritesNone e) ∧ UsesOnly s s1) ∧
    (e.taking g = 0 → Completes (.ld g d m sz sx h) s s e e.g.latch (WritesNone e)) ∧
    (e.g.regs.getQ g.val = false → Completes (.uld g kd um sz sx h) s s e e.g.latch (WritesNone e)) ∧
    (Begins s e → e.taking g ≠ 0 → ∀ off : Nat → Nat,
      (∀ l, laneBit (e.taking g) l = true → InOwnScratch s e (ga l) n (off l)) →
      lanes s (fun l => readB e.t.scratch (off l) n)) ∧
    (Begins s e → e.taking g ≠ 0 → ∀ (s1 : State) (pa : Nat → Nat) (lf : Nat → Leaf), OnThisChip s s1 e .read ls ga n pa lf →
      (∀ l ∈ ls, localErr s1 (isLost s1) (pa l) n = none) →
      let s2 := s1.loadsMeet { e with hint := h } (accessed ls ga n pa lf)
      lanes s2 (fun l => seenBytes s2 e (ga l) (pa l) n) ∧ (s.late = [] → UsesOnly s s2)) ∧
    (Begins s e → e.g.regs.getQ g.val = true → ∀ off, InOwnScratch s e ua n off → uni s (readB e.t.scratch off n)) ∧
    (Begins s e → e.g.regs.getQ g.val = true → ∀ (s1 : State) (pa : Nat) (lf : Leaf),
      OnThisChip s s1 e .read [0] (fun _ => ua) n (fun _ => pa) (fun _ => lf) → localErr s1 (isLost s1) pa n = none →
      let s2 := s1.loadsMeet { e with hint := h } [⟨ua, n, .loc pa, lf⟩]
      uni s2 (seenBytes s2 e ua pa n) ∧ (s.late = [] → UsesOnly s s2))

/-- R147 to R149, R152, R156: ST and UST write the bytes of their data at their addresses in lane order, and every other byte keeps its value; no register changes. Stores of
a team that stages them are the statement on staged work.

R54, R152: a list of byte writes to local memory leaves each address with the last byte written there, and every other address as it was. -/
def Obligations.Stores : Prop :=
  (∀ (g : Pred) (d : Src) (kd : KReg) (m : LaneMem) (um : UniMem) (sz : MemSize) (h : Hint) (s : State) (e : Env),
     s.env? = some e →
     let n := sizeBytes sz
     let ga := fun l => (e.g.regs.laneAddr m l).toNat
     let data := fun l => (((List.range (sizeRegs sz)).flatMap (fun i => leBytes 4 (e.g.regs.dataAt sz d i l).toNat)).take n)
     let ua := (e.g.regs.uniAddr um).toNat
     let udata := (leBytes 8 (e.g.regs.getK2 kd.val).toNat).take n
     let ls := lanesOf (e.taking g)
     (e.taking g = 0 → Completes (.st g d m sz h) s s e e.g.latch (WritesNone e)) ∧
     (e.g.regs.getQ g.val = false → Completes (.ust g kd um sz h) s s e e.g.latch (WritesNone e)) ∧
     (Begins s e → e.taking g ≠ 0 → ∀ off : Nat → Nat, (∀ l, laneBit (e.taking g) l = true → BelowTable s e (ga l) n (off l)) →
       let ws := ls.map (fun l => (off l, data l))
       Completes (.st g d m sz h) s (s.withScratch e.t.tid ws) e e.g.latch (WritesNone e) ∧
       (∀ a, (∀ l, laneBit (e.taking g) l = true → ¬(off l ≤ a ∧ a < off l + n)) →
         getB (scratchAfter e.t.scratch ws) a = getB e.t.scratch a)) ∧
     (Begins s e → e.taking g ≠ 0 → e.mustStage = false → ∀ (s1 : State) (pa : Nat → Nat) (lf : Nat → Leaf),
       OnThisChip s s1 e .write ls ga n pa lf →
       let ws := ls.flatMap (fun l => spread (pa l) (data l))
       let s2 := s1.storesMeet { e with hint := h } (accessed ls ga n pa lf)
       (∀ l ∈ ls, localErr s1 (staysLost s1 ws) (pa l) n = none) →
       Completes (.st g d m sz h) s ((s2.clearLost ws).storeAll ws) e e.g.latch (WritesNone e) ∧
       (∀ a, (∀ l, laneBit (e.taking g) l = true → ¬(pa l ≤ a ∧ a < pa l + n)) →
         getB ((s2.clearLost ws).storeAll ws).mem a = getB s2.mem a) ∧
       (s.late = [] → e.x.reg CtxReg.spurSlots = 0 → UsesOnly s s2)) ∧
     (Begins s e → e.g.regs.getQ g.val = true → sz ≠ .b128 → ∀ off, BelowTable s e ua n off →
       Completes (.ust g kd um sz h) s (s.withScratch e.t.tid [(off, udata)]) e e.g.latch (WritesNone e)) ∧
     (Begins s e → e.g.regs.getQ g.val = true → sz ≠ .b128 → e.mustStage = false → ∀ (s1 : State) (pa : Nat) (lf : Leaf),
       OnThisChip s s1 e .write [0] (fun _ => ua) n (fun _ => pa) (fun _ => lf) →
       let ws := spread pa udata
       let s2 := s1.storesMeet { e with hint := h } [⟨ua, n, .loc pa, lf⟩]
       localErr s1 (staysLost s1 ws) pa n = none →
       Completes (.ust g kd um sz h) s ((s2.clearLost ws).storeAll ws) e e.g.latch (WritesNone e) ∧
       (∀ a, ¬(pa ≤ a ∧ a < pa + n) → getB ((s2.clearLost ws).storeAll ws).mem a = getB s2.mem a) ∧
       (s.late = [] → e.x.reg CtxReg.spurSlots = 0 → UsesOnly s s2))) ∧
  (∀ (s : State) (ws : List (Nat × Byte)) (a : Nat),
     getB (s.storeAll ws).mem a = ((ws.reverse.find? (fun w => w.1 == a)).map (·.2)).getD (getB s.mem a))

/-- R256 to R259, R261, R263, R421: a global store of a DET team that must stage, an ordered floating-point reduction in any grid, and any
ordered reduction of a DET team, are queued: one record for each 8 bytes or for each lane goes to the grid's staging, in lane order; memory does
not change while the grid's staging holds fewer than 128 of the team's records, and the team's SEQ counts the instruction. A further record goes
to the lowest free slot of the overflow region, as its 32 bytes; without one the team waits, or where it is the next to drain the grid fails with
OVERFLOW. -/
def Obligations.StagedWork : Prop :=
  ∀ (g : Pred) (d : Src) (m : LaneMem) (sz : MemSize) (h : Hint) (sc : Scope) (o : AtomOp) (s64 : Bool) (s : State) (e : Env),
    s.env? = some e →
    let ls := lanesOf (e.taking g)
    let ga := fun l => (e.g.regs.laneAddr m l).toNat
    let n := if s64 then 8 else 4
    let x := fun l => if s64 then (e.g.regs.src2 d l).toNat else (e.g.regs.src d l).toNat
    let room := fun k => e.gr.staged.countP (fun q => q.team == e.t.idx && q.spilled.isNone) + k ≤ 128
    let red : List Staged := ls.map (fun l =>
      { addr := BitVec.ofNat 64 (ga l), data := BitVec.ofNat 64 (x l), team := e.t.idx, seq := e.t.seq, lane := l,
        group := e.g.gid % 32, kind := 1, ctl := BitVec.ofNat 8 (o.code * 16 + s64.toNat * 8 + max 3 sc.code),
        die := massifOf e.t.column, spilled := none })
    let st := ls.flatMap (fun l => storeRecs e l (ga l) (storeBytes sz (fun i => e.g.regs.dataAt sz d i l)))
    let counts := fun (t : State) => t.modTeam e.t.tid (fun u => { u with seq := u.seq + 1 })
    let queues := fun (i : Instr) (rs : List Staged) (s1 : State) =>
      (room rs.length → Completes i s (counts (s1.setGrid { e.gr with staged := e.gr.staged ++ rs })) e e.g.latch (WritesNone e)) ∧
      (∀ s2, rs.foldlM (fun a r => stageOne s a e r) s1 = .ok s2 → Completes i s (counts s2) e e.g.latch (WritesNone e)) ∧
      (rs.foldlM (fun a r => stageOne s a e r) s1 = .error (.park s .staging) → Waits i s e .staging)
    (∀ (s1 : State) (pa : Nat → Nat) (lf : Nat → Leaf), Begins s e → e.taking g ≠ 0 →
      (e.mustStage = true → OnThisChip s s1 e .write ls ga (sizeBytes sz) pa lf → queues (.st g d m sz h) st s1) ∧
      ((e.isDet = true ∨ o = .fadd ∨ o = .hfadd2 ∨ o = .bfadd2) → e.isUnlogged = true → (e.isDet = true → sc ≠ .system) →
        OnThisChip s s1 e .atomic ls ga n pa lf → (∀ l ∈ ls, ga l % n = 0) → queues (.redO g d m sc o s64) red s1)) ∧
    (∀ (a : State) (gr : Grid) (r : Staged), a.grid? e.t.ctx e.t.serial = some gr →
      let held := gr.staged.countP (fun q => q.team == e.t.idx && q.spilled.isNone)
      let oldest := decide (gr.drained = e.t.idx)
      let size := if oldest then Rec.ovSize gr.bytes else Rec.ovSize gr.bytes - 65536
      let taken := fun slot => ∃ q ∈ gr.staged, q.spilled = some slot
      (held < 128 → stageOne s a e r = .ok (a.setGrid { gr with staged := gr.staged ++ [r] })) ∧
      (128 ≤ held → (∀ slot, 32 * slot + 32 ≤ size → taken slot) →
        stageOne s a e r = .error (if oldest then .gridFatal 23 else .park s .staging)) ∧
      (128 ≤ held → ∀ slot, 32 * slot + 32 ≤ size → ¬taken slot → (∀ k, k < slot → taken k) →
        ∀ a1 pa lf, xlate a e.t.ctx (.die (massifOf e.t.column)) (some e.spur) true .write (Rec.ovBase gr.bytes + 32 * slot) =
            .ok (a1, .loc pa, lf) →
          isHeld a1 pa = false → localExists a1 pa = true → partLost a1 (spread pa r.bytes) = none →
          ∃ b, stageOne s a e r = .ok b ∧
            b.grid? e.t.ctx e.t.serial = some { gr with staged := gr.staged ++ [{ r with spilled := some slot }] } ∧
            readB b.mem pa 32 = r.bytes ∧ ∀ y, (y < pa ∨ pa + 32 ≤ y) → getB b.mem y = getB a1.mem y))

/-- R248 to R251, R255: an atomic on the team's own scratchpad takes its lanes one after the other, each reading and writing its location whole; ATOM
returns the old value of each lane, RED nothing. The ordered forms take the lanes in ascending order; the order of the others is the one
that the spec leaves open (Config.laneKey).

R250: what each change makes of a 32-bit location. -/
def Obligations.Atomics : Prop :=
  (∀ (g : Pred) (d : VReg) (r : Src) (m : LaneMem) (sc : Scope) (o : AtomOp) (s64 : Bool) (s : State) (e : Env) (off : Nat → Nat),
     s.env? = some e → Begins s e → e.taking g ≠ 0 → e.isUnlogged = true →
     let n := if s64 then 8 else 4
     let ga := fun l => (e.g.regs.laneAddr m l).toNat
     let x := fun l => if o = .cas
       then (if s64 then ((e.g.regs.getV2 (d.val + 2) l).toNat, (e.g.regs.getV2 d.val l).toNat)
         else ((e.g.regs.getV (d.val + 1) l).toNat, (e.g.regs.getV d.val l).toNat))
       else (if s64 then (e.g.regs.getV2 d.val l).toNat else (e.g.regs.getV d.val l).toNat, 0)
     let y := fun l => if s64 then (e.g.regs.src2 r l).toNat else (e.g.regs.src r l).toNat
     let order := (lanesOf (e.taking g)).foldl (fun q l =>
       q.filter (fun k => decide (Config.laneKey s.free k ≤ Config.laneKey s.free l)) ++ [l] ++
         q.filter (fun k => decide (Config.laneKey s.free l < Config.laneKey s.free k))) []
     let runA := fun ls => atomRun n (fun l old => newValue o s64 old (x l).1 (x l).2) e.t.scratch (ls.map (fun l => (l, off l)))
     let runR := fun ls => atomRun n (fun l old => newValue o s64 old (y l) 0) e.t.scratch (ls.map (fun l => (l, off l)))
     let after := fun m' => s.modTeam e.t.tid (fun u => { u with scratch := m' })
     let result := fun (olds : List (Nat × Nat)) (h : Regs) => (s64 = false →
         WritesV e h (e.taking g) d.val (fun l => BitVec.ofNat 32 (oldOf olds l))) ∧
       (s64 = true → WritesV2 e h (e.taking g) d.val (fun l => BitVec.ofNat 64 (oldOf olds l)))
     (∀ l, laneBit (e.taking g) l = true → BelowTable s e (ga l) n (off l) ∧ ga l % n = 0) →
     ((e.isDet = true → sc ≠ .system) →
       Completes (.atomO g d m sc o s64) s (after (runA (lanesOf (e.taking g))).1) e (e.g.wrote d.val (if s64 then 2 else 1)).latch
         (result (runA (lanesOf (e.taking g))).2) ∧
       Completes (.redO g r m sc o s64) s (after (runR (lanesOf (e.taking g))).1) e e.g.latch (WritesNone e)) ∧
     (e.isDet = false →
       Completes (.atomU g d m sc o s64) s { after (runA order).1 with free := s.free + 1 } e
         (e.g.wrote d.val (if s64 then 2 else 1)).latch (result (runA order).2) ∧
       Completes (.redU g r m sc o s64) s { after (runR order).1 with free := s.free + 1 } e e.g.latch (WritesNone e))) ∧
  (∀ (a x c : Word),
     newValue .add false a.toNat x.toNat c.toNat = (a.toNat + x.toNat) % 2 ^ 32 ∧
     newValue .minS false a.toNat x.toNat c.toNat = (BitVec.ofInt 32 (min a.toInt x.toInt)).toNat ∧
     newValue .maxS false a.toNat x.toNat c.toNat = (BitVec.ofInt 32 (max a.toInt x.toInt)).toNat ∧
     newValue .minN false a.toNat x.toNat c.toNat = min a.toNat x.toNat ∧
     newValue .maxN false a.toNat x.toNat c.toNat = max a.toNat x.toNat ∧
     newValue .and false a.toNat x.toNat c.toNat = (a &&& x).toNat ∧ newValue .or false a.toNat x.toNat c.toNat = (a ||| x).toNat ∧
     newValue .xor false a.toNat x.toNat c.toNat = (a ^^^ x).toNat ∧ newValue .xchg false a.toNat x.toNat c.toNat = x.toNat ∧
     newValue .cas false a.toNat x.toNat c.toNat = (if a = c then x.toNat else a.toNat) ∧
     newValue .fadd false a.toNat x.toNat c.toNat = (f32Of ((numF32 a).add (numF32 x))).toNat ∧
     newValue .fmin false a.toNat x.toNat c.toNat = (lesserOf .f32 a x).toNat ∧
     newValue .fmax false a.toNat x.toNat c.toNat = (greaterOf .f32 a x).toNat ∧
     newValue .hfadd2 false a.toNat x.toNat c.toNat =
       (pairOf .f16 ((lowOf .f16 a).add (lowOf .f16 x)) ((highOf .f16 a).add (highOf .f16 x))).toNat ∧
     newValue .bfadd2 false a.toNat x.toNat c.toNat =
       (pairOf .bf16 ((lowOf .bf16 a).add (lowOf .bf16 x)) ((highOf .bf16 a).add (highOf .bf16 x))).toNat)

/-- R337: DVSAVE writes the shadow's divergence words or v95 to memory, and DVLOAD reads them back into the shadow; a divergence word with
a reserved bit is refused with BAD_OPERAND. Both take an address of the team's own scratchpad or of the global window, that lies there in local
memory; a team that stages its stores stages these. An address off a multiple of 8 is MISALIGNED, one in the stack aperture APERTURE. The
instructions' other registers do not change. -/
def Obligations.ShadowMoves : Prop :=
  ∀ (g : Pred) (m : UniMem) (s : State) (e : Env) (off : Nat), s.env? = some e → Begins s e → e.g.trap.masked = true →
    e.g.regs.getQ g.val = true →
    let ga := (e.g.regs.uniAddr m).toNat
    let divs := (List.range 32).flatMap (fun l => leBytes 8 (getB e.g.trap.div l).toNat)
    let v95s := (List.range 32).flatMap (fun l => leBytes 4 (getB e.g.trap.v95 l).toNat)
    let words := fun l => leNat (readB e.t.scratch (off + 8 * l) 8)
    off % 8 = 0 →
    (BelowTable s e ga 256 off →
      Completes (.dvsave g m false) s (s.withScratch e.t.tid [(off, divs)]) e e.g.latch (WritesNone e)) ∧
    (BelowTable s e ga 128 off →
      Completes (.dvsave g m true) s (s.withScratch e.t.tid [(off, v95s)]) e e.g.latch (WritesNone e)) ∧
    (InOwnScratch s e ga 256 off → (∀ l, l < 32 → words l / 2 ^ 57 % 32 = 0 ∧ words l % 4 = 0) →
      ∃ t h, exec (.dvload g m false) s = .next t ∧ Frame s t e ∧ t.group? e.g.gid = some h ∧ WritesNone e h.regs ∧
        h.trap = { e.g.trap with div := h.trap.div } ∧ ∀ l, l < 32 → getB h.trap.div l = BitVec.ofNat 64 (words l)) ∧
    (InOwnScratch s e ga 256 off → (∃ l, l < 32 ∧ (words l / 2 ^ 57 % 32 ≠ 0 ∨ words l % 4 ≠ 0)) →
      Traps (.dvload g m false) s e 13 0 ga e.c.mask) ∧
    (InOwnScratch s e ga 128 off →
      ∃ t h, exec (.dvload g m true) s = .next t ∧ Frame s t e ∧ t.group? e.g.gid = some h ∧ WritesNone e h.regs ∧
        h.trap = { e.g.trap with v95 := h.trap.v95 } ∧
        ∀ l, l < 32 → getB h.trap.v95 l = BitVec.ofNat 32 (leNat (readB e.t.scratch (off + 4 * l) 4))) ∧
    (∀ v : Bool, (0xFF00000000000000 ≤ ga → Traps (.dvsave g m v) s e 6 0 ga e.c.mask ∧ Traps (.dvload g m v) s e 6 0 ga e.c.mask) ∧
      (ga < 2 ^ 57 → ga % 8 ≠ 0 → Traps (.dvsave g m v) s e 7 0 ga e.c.mask ∧ Traps (.dvload g m v) s e 7 0 ga e.c.mask)) ∧
    (∀ (v : Bool) (s1 : State) (pa : Nat) (lf : Leaf), ga % 8 = 0 →
      let n := if v then 128 else 256
      let bytes := if v then v95s else divs
      (OnThisChip s s1 e .write [0] (fun _ => ga) n (fun _ => pa) (fun _ => lf) →
        (e.mustStage = false →
          let ws := spread pa bytes
          let s2 := s1.storesMeet e [⟨ga, n, .loc pa, lf⟩]
          localErr s1 (staysLost s1 ws) pa n = none →
          Completes (.dvsave g m v) s ((s2.clearLost ws).storeAll ws) e e.g.latch (WritesNone e) ∧
          readB ((s2.clearLost ws).storeAll ws).mem pa n = bytes ∧
          ∀ a, ¬(pa ≤ a ∧ a < pa + n) → getB ((s2.clearLost ws).storeAll ws).mem a = getB s2.mem a) ∧
        (e.mustStage = true → ∀ s2, (storeRecs e (lowLane e.c.mask) ga bytes).foldlM (fun a r => stageOne s a e r) s1 = .ok s2 →
          Completes (.dvsave g m v) s (s2.modTeam e.t.tid (fun u => { u with seq := u.seq + 1 })) e e.g.latch (WritesNone e))) ∧
      (OnThisChip s s1 e .read [0] (fun _ => ga) n (fun _ => pa) (fun _ => lf) → localErr s1 (isLost s1) pa n = none →
        let s2 := s1.loadsMeet e [⟨ga, n, .loc pa, lf⟩]
        let bs := seenBytes s2 e ga pa n
        let word := fun l => leNat ((bs.drop (8 * l)).take 8)
        let loads := fun (P : TrapRegs → Prop) => ∃ t h, exec (.dvload g m v) s = .next t ∧ Frame s2 t e ∧ t.group? e.g.gid = some h ∧
          WritesNone e h.regs ∧ P h.trap
        (v = true → loads (fun f => f = { e.g.trap with v95 := f.v95 } ∧
          ∀ l, l < 32 → getB f.v95 l = BitVec.ofNat 32 (leNat ((bs.drop (4 * l)).take 4)))) ∧
        (v = false → (∀ l, l < 32 → word l / 2 ^ 57 % 32 = 0 ∧ word l % 4 = 0) → loads (fun f =>
          f = { e.g.trap with div := f.div } ∧ ∀ l, l < 32 → getB f.div l = BitVec.ofNat 64 (word l))) ∧
        (v = false → (∃ l, l < 32 ∧ (word l / 2 ^ 57 % 32 ≠ 0 ∨ word l % 4 ≠ 0)) → Traps (.dvload g m false) s e 13 0 ga e.c.mask)))

/-! ## Barriers, syncs, buffers -/

/-- R127, R128, R129, R131: the barrier instructions on an object of the team's own scratchpad in a grid that logs nothing. An arrival within
EXPECT counts, and the last one ends the phase when no bytes are due; one beyond it, or on a broken object, breaks the object and traps with
BAR_OVERRUN after k[d] is written. An arrival is a release: what the group has written at narrower scopes is performed with it, at device scope
(the model's choice, log 105). An operation that breaks an object or changes its phase decides the waits on it there and then. -/
def Obligations.Barriers : Prop :=
  ∀ (g dq : Pred) (d a b : KReg) (s : State) (e : Env) (off : Nat), s.env? = some e → e.g.regs.getQ g.val = true →
    e.isUnlogged = true →
    let ga := (e.g.regs.getK2 a.val).toNat
    let o := s.barGet e.t.tid off
    let k := (e.g.regs.getK b.val).toNat
    let puts := fun (i : Instr) (R : Regs → Prop) (P : Nat → Prop) =>
      ∃ o', P o' ∧ Completes i s (s.barPut e.t.tid off o') e e.g.latch R
    let arrival := fun (i : Instr) (R : Regs → Prop) (P : Nat → Prop) =>
      ∃ o', P o' ∧ Completes i s ((s.landOf e.g.gid).barPut e.t.tid off o') e e.g.latch R
    let arrives := fun (n o' : Nat) => Bar.expect o' = Bar.expect o ∧ Bar.bytes o' = Bar.bytes o ∧ Bar.err o' = false ∧
      (if n = 0 then Bar.arrived o' = Bar.arrived o ∧ Bar.phase o' = Bar.phase o
       else if Bar.arrived o + n = Bar.expect o ∧ Bar.bytes o = 0
         then Bar.arrived o' = 0 ∧ Bar.phase o' = (Bar.phase o + 1) % 16
         else Bar.arrived o' = Bar.arrived o + n ∧ Bar.phase o' = Bar.phase o)
    let seen := fun (h : Regs) => WritesK e h d.val (BitVec.ofNat 32 (Bar.phase o + (if Bar.err o then 16 else 0)))
    let overruns := fun (i : Instr) (v : Regs → Prop) => e.g.trap.masked = false → e.x.reg64 CtxReg.trapVec ≠ 0 →
      ∃ t h u, exec i s = .next t ∧ t.group? e.g.gid = some h ∧ h.trap.masked = true ∧ h.trap.cause = 17 ∧
        h.trap.addr = BitVec.ofNat 64 ga ∧ h.retired = e.g.retired ∧ v h.regs ∧ t.team? e.t.tid = some u ∧
        Bar.err (leNat (readB u.scratch off 16)) = true
    let kept := fun (h : Regs) => ∀ j, j ≠ 30 → j ≠ 31 → h.getK j =
      if j = d ∧ d ≠ 0 then BitVec.ofNat 32 (Bar.phase o + (if Bar.err o then 16 else 0)) else e.g.regs.getK j
    BelowTable s e ga 16 off → ga % 16 = 0 →
    puts (.binit g a b) (WritesNone e) (fun o' => Bar.bytes o' = 0 ∧ Bar.arrived o' = 0 ∧ Bar.expect o' = k % 1024 ∧
      Bar.phase o' = k / 1024 % 16 ∧ Bar.err o' = decide (k % 1024 = 0)) ∧
    (Bar.err o = false → Bar.arrived o + 1 ≤ Bar.expect o → arrival (.barr g d a) seen (arrives 1)) ∧
    (Bar.err o = false → Bar.arrived o + k ≤ Bar.expect o → arrival (.barrn g d a b) seen (arrives k)) ∧
    ((Bar.err o = true ∨ Bar.expect o < Bar.arrived o + 1) → overruns (.barr g d a) kept) ∧
    ((Bar.err o = true ∨ Bar.expect o < Bar.arrived o + k) → overruns (.barrn g d a b) kept) ∧
    (Bar.err o = false → Bar.bytes o + k < 2 ^ 31 → puts (.bxpct g a b) (WritesNone e) (fun o' =>
      Bar.expect o' = Bar.expect o ∧ Bar.err o' = false ∧ Bar.bytes o' = Bar.bytes o + k ∧
      (if Bar.arrived o = Bar.expect o ∧ Bar.bytes o + k = 0 then Bar.arrived o' = 0 ∧ Bar.phase o' = (Bar.phase o + 1) % 16
       else Bar.arrived o' = Bar.arrived o ∧ Bar.phase o' = Bar.phase o))) ∧
    ((Bar.err o = true ∨ 2 ^ 31 ≤ Bar.bytes o + k) → overruns (.bxpct g a b) (fun _ => True)) ∧
    (∀ o', (∀ k ∈ s.groups, ∀ q f p c, k.park ≠ some ⟨.bwait q f e.t.tid off p, c⟩) →
      s.barPut e.t.tid off o' = s.withScratch e.t.tid [(off, leBytes 16 o')]) ∧
    (∀ o', ∀ k ∈ s.groups, ∀ q f p c, k.park = some ⟨.bwait q f e.t.tid off p, c⟩ → k.stop = none → k.due = none →
      (s.modeOf (k.gid / 32) = 0 ∨ s.modeOf (k.gid / 32) = 2) → { k with
        due := if Bar.err o' then some (.phase false) else if Bar.phase o' ≠ p then some (.phase true) else none }
          ∈ (s.barPut e.t.tid off o').groups) ∧
    (∀ v, e.g.due = some (.phase v) → Completes (.bwait g dq a b) s s e e.g.latch (fun h => WritesQ e h dq.val v)) ∧
    (e.isDet = false → e.g.park = none → e.g.due = none →
      (Bar.err o = true → Completes (.bwait g dq a b) s s e e.g.latch (fun h => WritesQ e h dq.val false)) ∧
      (Bar.err o = false → Bar.phase o ≠ k % 16 → Completes (.bwait g dq a b) s s e e.g.latch (fun h => WritesQ e h dq.val true)) ∧
      (Bar.err o = false → Bar.phase o = k % 16 → k / 16 = 0 →
        Completes (.bwait g dq a b) s s e e.g.latch (fun h => WritesQ e h dq.val false)) ∧
      (Bar.err o = false → Bar.phase o = k % 16 → k / 16 ≠ 0 →
        Waits (.bwait g dq a b) s e (.bwait dq.val (some (s.clk + k / 16 * 64)) e.t.tid off (k % 16))))

/-- R301, R302: a group's arrival at TSYNC counts once, also in %retired (the model's reading, log 77); it passes when every group of the team that has not ended has
arrived as often, and waits otherwise. CSYNC does the same over the cluster, and acts as TSYNC where the team is alone. A group that comes back to
a sync it has arrived at does not arrive again.

R271, R272, R275: FENCE passes once the engines have done what they do for the group, and with a plain form at once (log 11); beyond team scope
what the group has written at narrower scopes is performed with it at device scope (log 105), and nothing else of memory changes; at system scope it
marks the group. The false guard of a sync or a fence only passes. -/
def Obligations.SyncsAndFences : Prop :=
  (∀ (g : Pred) (s : State) (e : Env), s.env? = some e → e.g.regs.getQ g.val = true → e.isChosen = true → e.g.ended = false →
     e.t.st ≠ .yielding →
     let mates := fun k : Group => k.gid / 32 = e.t.tid ∧ k.ended = false ∧ k.gid ≠ e.g.gid
     let kin := fun k : Group => k.gid ≠ e.g.gid ∧ k.ended = false ∧
       ∃ u ∈ s.teams, u.tid = k.gid / 32 ∧ u.ctx = e.t.ctx ∧ u.serial = e.t.serial ∧
         u.idx / Rec.clsize e.gr.bytes = e.t.idx / Rec.clsize e.gr.bytes
     let passes := fun (i : Instr) (s0 : State) => ∃ t h, exec i s = .next t ∧ t.group? e.g.gid = some h ∧ WritesNone e h.regs ∧
       h.park = none ∧ h.retired = e.g.retiredNext ∧ (∀ a, getB t.mem a = getB s0.mem a)
     let waits := fun (i : Instr) (s0 : State) (w : Wait) => ∃ t h, exec i s = .next t ∧ t.group? e.g.gid = some h ∧ h.regs = e.g.regs ∧
       h.park.map (·.why) = some w ∧ h.retired = e.g.retiredNext ∧ (∀ a, getB t.mem a = getB s0.mem a)
     let again := fun (i : Instr) (w : Wait) (met : Prop) => ∃ t h, exec i s = .next t ∧ t.group? e.g.gid = some h ∧
       h.retired = e.g.retired ∧ (met → h.park = none ∧ WritesNone e h.regs) ∧ (¬met → h.park.map (·.why) = some w ∧ h.regs = e.g.regs) ∧
       (∀ a, getB t.mem a = getB s.mem a)
     let team := fun (i : Instr) =>
       (e.g.inSync ≠ some (e.c.pc, false) → (∀ k ∈ s.groups, mates k → e.g.tsync + 1 ≤ k.tsync) → passes i s) ∧
       (e.g.inSync ≠ some (e.c.pc, false) → e.t.tsyncGen ≤ e.g.tsync → (∃ k ∈ s.groups, mates k ∧ k.tsync ≤ e.g.tsync) → waits i s .tsync) ∧
       (e.g.inSync = some (e.c.pc, false) → again i .tsync (e.g.tsync ≤ e.t.tsyncGen))
     team (.tsync g) ∧ (Rec.clsize e.gr.bytes = 1 → team (.csync g)) ∧
     (Rec.clsize e.gr.bytes ≠ 1 → e.g.inSync = some (e.c.pc, true) →
       again (.csync g) .csync (e.g.csync ≤ (getT e.gr.csyncs (e.t.idx / Rec.clsize e.gr.bytes)).getD 0)) ∧
     (Rec.clsize e.gr.bytes ≠ 1 → e.g.inSync ≠ some (e.c.pc, true) →
       ((∀ k ∈ s.groups, kin k → e.g.csync + 1 ≤ k.csync) → passes (.csync g) (s.landOf e.g.gid)) ∧
       ((getT e.gr.csyncs (e.t.idx / Rec.clsize e.gr.bytes)).getD 0 ≤ e.g.csync →
         (∃ k ∈ s.groups, kin k ∧ k.csync ≤ e.g.csync) → waits (.csync g) (s.landOf e.g.gid) .csync))) ∧
  (∀ (g : Pred) (eng : Bool) (sc : Scope) (s : State) (e : Env), s.env? = some e →
     (e.g.regs.getQ g.val = false → Completes (.fence g eng sc) s s e e.g.latch (WritesNone e) ∧
       Completes (.tsync g) s s e e.g.latch (WritesNone e) ∧ Completes (.csync g) s s e e.g.latch (WritesNone e)) ∧
     (s.late = [] → (s.fenced e.g.gid eng sc).mem = s.mem) ∧
     (e.g.regs.getQ g.val = true → (eng = false ∨ engineBusy s e.g.gid = false) →
       ∃ t h, exec (.fence g eng sc) s = .next t ∧ Frame (s.fenced e.g.gid eng sc) t e ∧ t.group? e.g.gid = some h ∧ WritesNone e h.regs ∧
         h.retired = e.g.retiredNext ∧ h.fenceS = (e.g.fenceS || decide (sc = .system))) ∧
     (e.g.regs.getQ g.val = true → eng = true → engineBusy s e.g.gid = true →
       Waits (.fence g eng sc) s e .fence))

/-- R121 to R124: the buffer instructions on an entry of the team's table. An operation on a handle tests the waits of the team's other
groups on it; with none of them there it changes the entry alone; the order in which waits of several kinds
return is the model's choice (log 72). BUFQ is refused in DET mode (R353). -/
def Obligations.Buffers : Prop :=
  ∀ (g : Pred) (d a : KReg) (b : BufState) (s : State) (e : Env), s.env? = some e → e.g.regs.getQ g.val = true →
    let h := (e.g.regs.getK a.val).toNat % 64
    let at_ := s.scratchSize e.t - 512 + 8 * h
    let x := leNat (readB e.t.scratch at_ 8)
    let code := match b with
      | .free => 0
      | .full => 2
      | .draining => 3
    let puts := fun (i : Instr) (x' : Nat) (R : Regs → Prop) =>
      Completes i s (s.bufOp e.t h x') e e.g.latch R ∧
      ((∀ k ∈ s.groups, k.gid / 32 = e.t.tid → k.atHandle h = none) → s.bufOp e.t h x' = s.withScratch e.t.tid [(at_, leBytes 8 x')])
    (s.scratchSize e.t = 0 → Traps (.bufget g d a) s e 6 0 0 e.c.mask ∧ Traps (.bufput g a) s e 6 0 0 e.c.mask ∧
      Traps (.bufwait g a b) s e 6 0 0 e.c.mask ∧ Traps (.bufq g d a) s e 6 0 0 e.c.mask) ∧
    (s.scratchSize e.t ≠ 0 →
      (x % 4 = 2 → puts (.bufget g d a) (x + 1) (fun r => WritesK e r d.val (BitVec.ofNat 32 (x + 1)))) ∧
      (x % 4 ≠ 2 → Waits (.bufget g d a) s e (.handle h (.get d.val))) ∧
      (2 ≤ x % 4 → puts (.bufput g a) (x / 8 * 8) (WritesNone e)) ∧
      (x % 4 < 2 → Traps (.bufput g a) s e 16 h 0 e.c.mask) ∧
      (x % 4 = code → Completes (.bufwait g a b) s s e e.g.latch (WritesNone e)) ∧
      (x % 4 ≠ code → Waits (.bufwait g a b) s e (.handle h (.state code))) ∧
      (e.isDet = true → Traps (.bufq g d a) s e 19 0 0 e.c.mask) ∧
      (e.isDet = false → Samples (.bufq g d a) s s e d (BitVec.ofNat 32 x)))

/-! ## Copies and shapes -/

/-- R109 to R113, R117 to R119, R133: every copy instruction whose checks pass is issued as a job of the copy engines, and its group runs
on with the ticket. The checks of a copy and what its handle gives it are `Plan.check` and `Plan.takeIn`, which hold the model's readings of logs
70 and 71; that it performs what is left at narrower scopes is the model's choice (log 105).

R112, R114, R134, R135: CPWAIT waits for its ticket's event and then returns the outcome of the copy, which is the outcome of that copy also where
its slot has a new one by then; a ticket that its slot no longer holds, and whose event ended no wait, returns bit 13; CPMCR issues a copy to the receivers that refused, and traps in DET
mode (R353) after the check of its control word (the model's reading, log 29). -/
def Obligations.Copies : Prop :=
  (∀ (g : Pred) (d a b : KReg),
     IssuesCopy (.cpgs g d a b) g d (fun s e => runPlan s a b .scratch .global e) ∧
     IssuesCopy (.cpsg g d a b) g d (fun s e => runPlan s a b .global .scratch e) ∧
     IssuesCopy (.cpgg g d a b) g d (fun s e => runPlan s a b .either .either e) ∧
     IssuesCopy (.cptr g d a b) g d (fun s e => boxPlan s a b e) ∧
     IssuesCopy (.cpga g d a b) g d (fun s e => rowsPlan s a b e) ∧
     IssuesCopy (.cpmc g d a b) g d (fun s e => mcPlan s a b e)) ∧
  (∀ (g : Pred) (d a : KReg) (ev : CopyEvent) (s : State) (e : Env), s.env? = some e → e.g.regs.getQ g.val = true →
     let ticket := e.g.regs.getK a.val
     let slot := ticket.toNat % 256
     let seq := ticket.toNat / 256 % 65536
     let w := e.g.regs.getK d.val
     let ended := fun k => e.g.due = some (.copy k)
     let names := fun k => ended k ∨ ((∀ k', ¬ended k') ∧ getT e.t.copies slot = some k ∧ k.seq.toNat = seq)
     let out := ∃ j ∈ s.jobs, j.tid = e.t.tid ∧ j.ticket = ticket &&& 0x00FFFFFF ∧ (∀ id off base, j.dst ≠ .obuf id off base)
     ((∀ k, ¬names k) → Samples (.cpwait g d a ev) s s e d 0x2000) ∧
     (∀ k, names k →
       (k.busy = false →
         Samples (.cpwait g d a ev) s s e d (BitVec.ofNat 32 (k.refused.toNat + (if k.failed then 4096 else 0)))) ∧
       (k.busy = true → e.g.due ≠ none → Samples (.cpwait g d a ev) s s e d 0) ∧
       (k.busy = true → e.g.due = none → ev ≠ .rel → Waits (.cpwait g d a ev) s e (.cpwait (ticket &&& 0x00FFFFFF) ev)) ∧
       (k.busy = true → e.g.due = none → ev = .rel → ¬out → Samples (.cpwait g d a ev) s s e d 0)) ∧
     ((w.toNat % 2 ^ 23 ≠ 0 ∨ w.toNat / 2 ^ 26 % 4 ≠ 0 ∨ 5 ≤ w.toNat / 2 ^ 23 % 8) → Traps (.cpmcr g d a) s e 15 w.toNat 0 e.c.mask) ∧
     (w.toNat % 2 ^ 23 = 0 → w.toNat / 2 ^ 26 % 4 = 0 → w.toNat / 2 ^ 23 % 8 < 5 → e.isDet = true →
       Traps (.cpmcr g d a) s e 19 0 0 e.c.mask) ∧
     (∀ k q p p1 refused free, w.toNat % 2 ^ 23 = 0 → w.toNat / 2 ^ 26 % 4 = 0 → w.toNat / 2 ^ 23 % 8 < 5 → e.isDet = false →
       names k → k.busy = false → k.multi = some q →
       multiPlan s e q.off q.size ((List.range 12).filter (fun i => k.refused.getLsbD i)) q.src = .ok p →
       p.check s e (w ||| (q.ctl &&& 0x0C03FFFF)) = .ok () → p.takeIn s e (w ||| (q.ctl &&& 0x0C03FFFF)) = .ok (p1, refused) →
       freeSlot e = some free → trackerRoom s e.t.column = true → (∀ j ∈ s.jobs, j.id ≠ s.nextJob) →
       itemCount p1.dst p1.size ≠ 0 →
       ∃ t h j, exec (.cpmcr g d a) s = .next t ∧ t.group? e.g.gid = some h ∧
         WritesK e h.regs d.val (BitVec.ofNat 32 (e.t.copyCount % 65536 * 256 + free)) ∧ t.jobs = s.jobs ++ [j] ∧ j.dst = p1.dst ∧
         j.refused = refused))

/-- R125, R126: SHNEW allocates the lowest free slot of the shape table under its current generation and returns the handle, 0 where none is free; a record that
breaks a rule of R125 raises BAD_COPY. SHFREE frees a current handle and advances its slot's generation; any other handle is STALE_HANDLE. -/
def Obligations.Shapes : Prop :=
  ∀ (g : Pred) (d a : KReg) (s s1 : State) (e : Env) (pa : Nat) (lf : Leaf), s.env? = some e → e.g.regs.getQ g.val = true →
    let ga := (e.g.regs.getK2 a.val).toNat
    let h := (e.g.regs.getK a.val).toNat
    let s2 := s1.loadsMeet e [⟨ga, 64, .loc pa, lf⟩]
    let sh := seenBytes s2 e ga pa 64
    let size := (e.x.reg CtxReg.shapeSlots).toNat
    let gen := fun i => match getT e.x.shapes i with
      | some k => if k.gen = 0 then 1 else k.gen.toNat
      | none => 1
    let used := fun i => ∃ k, getT e.x.shapes i = some k ∧ k.alloc = true
    (Begins s e → OnThisChip s s1 e .read [0] (fun _ => ga) 64 (fun _ => pa) (fun _ => lf) → localErr s1 (isLost s1) pa 64 = none → ga % 64 = 0 →
      e.isDet = false → e.isUnlogged = true →
      (shapeOk sh = false → Traps (.shnew g d a) s e 15 0 0 e.c.mask) ∧
      (shapeOk sh = true → ∀ i, 0 < i → i < size → ¬used i → (∀ j, 0 < j → j < i → used j) →
        Completes (.shnew g d a) s (s2.modCtx e.t.ctx (fun x => { x with shapes := setT x.shapes i ⟨BitVec.ofNat 12 (gen i), true, sh⟩ }))
          e e.g.latch (fun r => WritesK e r d.val (BitVec.ofNat 32 (i * 4096 + gen i)))) ∧
      (shapeOk sh = true → (∀ j, 0 < j → j < size → used j) →
        Completes (.shnew g d a) s s2 e e.g.latch (fun r => WritesK e r d.val 0))) ∧
    (∀ k, getT e.x.shapes (h / 4096) = some k → k.alloc = true → h % 4096 ≠ 0 → k.gen.toNat = h % 4096 →
      Completes (.shfree g a) s (s.modCtx e.t.ctx (fun x => { x with
        shapes := setT x.shapes (h / 4096) ⟨if k.gen = 4095 then 1 else k.gen + 1, false, []⟩ })) e e.g.latch (WritesNone e)) ∧
    ((∀ k, getT e.x.shapes (h / 4096) = some k → k.alloc = false ∨ h % 4096 = 0 ∨ k.gen.toNat ≠ h % 4096) →
      Traps (.shfree g a) s e 11 h 0 e.c.mask)


/-! ## Hot rows, tiles and multiplies -/

/-- R66, R67, R69: HROW.UP and HROW.DN act on consecutive pages in ascending order and count what came of each, HROW.Q reports a page;
the table of R66 says what comes of one local page. The moves of pages that are under way end within the step (the model's choice, log 60), a
promotion takes the lowest free row (log 63), and APERTURE comes before the faults of earlier pages (log 17). -/
def Obligations.HotRows : Prop :=
  (∀ (g : Pred) (d a : KReg) (n : BitVec 6) (s s1 : State) (e : Env) (pa : Nat → Nat) (lf : Nat → Leaf), s.env? = some e → e.g.regs.getQ g.val = true →
    let va := (e.g.regs.getK2 a.val).toNat
    let base := va / 65536 * 65536
    let ps := (List.range (n.toNat + 1)).map (fun i => Phys.loc (pa i))
    let up := hrowCount outcomeUp e.t.ctx s1 ps
    let dn := hrowCount outcomeDn e.t.ctx s1 ps
    let word := fun (x : Nat) (h : Regs) => WritesK e h d.val (BitVec.ofNat 32 x)
    (2 ^ 57 < base + 65536 * (n.toNat + 1) →
      Traps (.hrowUp g d a n) s e 6 0 (max base (2 ^ 57)) e.c.mask ∧ Traps (.hrowDn g d a n) s e 6 0 (max base (2 ^ 57)) e.c.mask) ∧
    (e.isDet = false → e.isUnlogged = true → base + 65536 * (n.toNat + 1) ≤ 2 ^ 57 →
      OnThisChip s s1 e .read (List.range (n.toNat + 1)) (fun i => base + 65536 * i) 65536 pa lf →
      (∀ i, i ≤ n.toNat → localExists s1 (pa i) = true ∧ stackFailed s1 (pa i) = false) →
      Completes (.hrowUp g d a n) s up.1 e e.g.latch (word up.2) ∧ Completes (.hrowDn g d a n) s dn.1 e e.g.latch (word dn.2)) ∧
    (e.isDet = false → e.isUnlogged = true → OnThisChip s s1 e .read [0] (fun _ => va) 1 pa lf → localExists s1 (pa 0) = true →
      stackFailed s1 (pa 0) = false →
      Completes (.hrowQ g d a) s s1 e e.g.latch (word (hrowStatus s1 (.loc (pa 0)))) ∧ UsesOnly s s1)) ∧
  (∀ (s : State) (c p : Nat) (k : Stack), s.hbm[paStack p]? = some k →
    let q := paPage p
    let gives := fun (r : State × HrowOut) (o : HrowOut) (x : Option Promoted) =>
      r.2 = o ∧ ∃ k', r.1.hbm[paStack p]? = some k' ∧ getT k'.pages q = x
    (paClass p = true → outcomeUp s c p = (s, .done) ∧ outcomeDn s c p = (s, .refused)) ∧
    (paClass p = false →
      (getT k.pages q = none →
        (k.isRemapping = true ∨ 8 ≤ k.win.toNat ∨ hasQuota s c = false → outcomeUp s c p = (s, .refused)) ∧
        (∀ r, k.isRemapping = false → k.win.toNat < 8 → hasQuota s c = true → k.freeRow (k.bankOf q) = some r →
          gives (outcomeUp s c p) .done (some ⟨.promoting, true, some c, r, k.lruTick⟩)) ∧
        (∀ x v, k.isRemapping = false → k.win.toNat < 8 → hasQuota s c = true → k.freeRow (k.bankOf q) = none →
          k.victim (k.bankOf q) false = some (x, v) → gives (outcomeUp s c p) (if v.isExplicit then .displaced else .done)
            (some ⟨.promoting, true, some c, v.row, k.lruTick⟩)) ∧
        gives (outcomeDn s c p) .done none) ∧
      (∀ v, getT k.pages q = some v →
        (v.st ≠ .writingBack → v.isExplicit = true → outcomeUp s c p = (s, .done)) ∧
        (v.st ≠ .writingBack → v.isExplicit = false → hasQuota s c = true →
          gives (outcomeUp s c p) .done (some { v with isExplicit := true, charge := some c })) ∧
        (v.st ≠ .writingBack → v.isExplicit = false → hasQuota s c = false → outcomeUp s c p = (s, .refused)) ∧
        (v.st = .clean ∨ v.st = .promoting → gives (outcomeDn s c p) .done none) ∧
        (v.st = .dirty → gives (outcomeDn s c p) .done (some { v with st := .writingBack, isExplicit := false, charge := none })) ∧
        (v.st = .writingBack → gives (outcomeDn s c p) .done (some v)) ∧
        (v.st = .writingBack →
          let k' := { k with pages := delT k.pages q }
          let quota := hasQuota (s.modStack (paStack p) (fun _ => k')) c
          (k.isRemapping = true ∨ 8 ≤ k.win.toNat ∨ quota = false → outcomeUp s c p = (s, .refused)) ∧
          (∀ r, k.isRemapping = false → k.win.toNat < 8 → quota = true → k'.freeRow (k.bankOf q) = some r →
            gives (outcomeUp s c p) .done (some ⟨.promoting, true, some c, r, k.lruTick⟩))))))

/-- R220, R221, R243: the instructions that move accumulator tiles, on slots that the team has and that no earlier operation still writes or
reads. The tile comes before the address in the order of checks (the model's choice, log 86), APERTURE before MISALIGNED (log 17). -/
def Obligations.Tiles : Prop :=
  ∀ (g : Pred) (t n : BitVec 4) (a b : KReg) (v : VReg) (q : BitVec 2) (s : State) (e : Env) (off : Nat), s.env? = some e →
    let T := t.toNat
    let ga := (e.g.regs.getK2 a.val + (e.g.regs.getK b.val).signExtend 64).toNat
    let take := e.taking g
    let keeps := e.t.array.flatMap (·.slots) ++ (holdsOf s e.t.tid e.g.gid).flatMap (·.slots)
    let free := fun k => ∀ x ∈ keeps, x < T ∨ T + k ≤ x
    let held := fun k => e.flight? = none ∧ ∃ x ∈ keeps, T ≤ x ∧ x < T + k
    let N := n.toNat + 1
    (e.g.regs.getQ g.val = true →
      (T + N ≤ e.slots → free N → PutsTile (.aclr g t n) s e (fun m => ∀ x, getB m x =
        if 1024 * T ≤ x ∧ x < 1024 * (T + N) then 0 else getB e.t.acc x)) ∧
      (T + N ≤ e.slots → held N → Waits (.aclr g t n) s e .tile) ∧
      (e.slots < T + N → Traps (.aclr g t n) s e 13 0 0 e.c.mask) ∧
      (Begins s e → T < e.slots → free 1 → off % 128 = 0 → InOwnScratch s e ga 4096 off → PutsTile (.ald g t a b) s e (fun m => ∀ x, getB m x =
        if 1024 * T ≤ x ∧ x < 1024 * (T + 1) then BitVec.ofNat 32 (leNat (readB e.t.scratch (off + 4 * (x - 1024 * T)) 4))
        else getB e.t.acc x)) ∧
      (Begins s e → T < e.slots → free 1 → off % 128 = 0 → BelowTable s e ga 4096 off → Completes (.ast g t a b) s
        (s.withScratch e.t.tid [(off, (List.range 1024).flatMap (fun w => leBytes 4 (getB e.t.acc (1024 * T + w)).toNat))])
        e e.g.latch (WritesNone e)) ∧
      (T < e.slots → held 1 → off % 128 = 0 → ga = 0xFE00000000000000 + 15 * 2 ^ 18 + off → off < 2 ^ 18 →
        Waits (.ald g t a b) s e .tile ∧ Waits (.ast g t a b) s e .tile) ∧
      (T < e.slots → 0xFF00000000000000 ≤ ga → Traps (.ald g t a b) s e 6 0 ga e.c.mask ∧ Traps (.ast g t a b) s e 6 0 ga e.c.mask) ∧
      (T < e.slots → ga < 2 ^ 57 → ga % 128 ≠ 0 → Traps (.ald g t a b) s e 7 0 ga e.c.mask ∧ Traps (.ast g t a b) s e 7 0 ga e.c.mask) ∧
      (e.slots ≤ T → Traps (.ald g t a b) s e 13 0 0 e.c.mask ∧ Traps (.ast g t a b) s e 13 0 0 e.c.mask)) ∧
    (take ≠ 0 →
      (T < e.slots → free 1 →
        Completes (.ard g v t q) s s e (e.g.wrote v.val 8).latch (fun h => WritesVs e h take v.val 8 (fun c l =>
          getB e.t.acc (1024 * T + 32 * l + 8 * q.toNat + c))) ∧
        PutsTile (.awr g t v q) s e (fun m => ∀ x, getB m x =
          let l := (x - 1024 * T) / 32
          if 1024 * T ≤ x ∧ laneBit take l = true ∧ x % 32 / 8 = q.toNat then e.g.regs.getV (v.val + x % 8) l else getB e.t.acc x)) ∧
      (T < e.slots → held 1 → Waits (.ard g v t q) s e .tile ∧ Waits (.awr g t v q) s e .tile) ∧
      (e.slots ≤ T → Traps (.ard g v t q) s e 13 0 0 e.c.mask ∧ Traps (.awr g t v q) s e 13 0 0 e.c.mask)) ∧
    (take = 0 → Completes (.ard g v t q) s s e e.g.latch (WritesNone e) ∧ Completes (.awr g t v q) s s e e.g.latch (WritesNone e)) ∧
    (e.g.regs.getQ g.val = false → Completes (.aclr g t n) s s e e.g.latch (WritesNone e) ∧
      Completes (.ald g t a b) s s e e.g.latch (WritesNone e) ∧ Completes (.ast g t a b) s s e e.g.latch (WritesNone e))

/-- R221 to R231: a multiply whose checks pass and whose B is at hand enters the array with the words that its rows and columns give, and the
multiply that entered a team's array first is the first to write its tile. With M or N zero nothing is computed. That
MMAG fetches B, and that the result words are formed, within the issue is the model's choice (log 85), as is that its waits and fetches come after
what is left at narrower scopes (log 105). -/
def Obligations.MatrixMultiplies : Prop :=
  (∀ (g : Pred) (t : BitVec 4) (c r f64 : Bool) (v : VReg) (k : KReg) (s : State) (e : Env), s.env? = some e →
    let x : Mma := ⟨t.toNat, c, r, v, k, f64⟩
    let z := mmaCtl (e.g.regs.getK (k.val + 2))
    let k0 := e.g.regs.getK k.val
    let k1 := e.g.regs.getK (k.val + 1)
    let z3 := (e.g.regs.getK (k.val + 3)).toNat
    let tileG := z3 / 256 % 65536
    let ofResid : Instr := if f64 then .dmma g t c r false v k else .mmab g t c r v k
    let ofResv : Instr := if f64 then .dmma g t c r true v k else .mmao g t c r v k
    let nothing := fun i s0 => Completes i s s0 e none (WritesNone e)
    (s.grade.hasFp64 = false → ∀ ob, Traps (.dmma g t c r ob v k) s e 2 0 0 e.c.mask) ∧
    ((f64 = true → s.grade.hasFp64 = true) → e.g.regs.getQ g.val = true → MmaFits e x z →
      (∀ l, getT e.t.resv (k0.toNat % 16) = some l → k1.toNat < l.tiles → pairFits f64 z.fa l.format →
        (z.m = 0 ∨ z.n = 0 → nothing ofResv s) ∧
        (z.m ≠ 0 → z.n ≠ 0 → e.slotsFree s x → stillDue s e.t.tid e.g.gid (tileRanges l k1.toNat) = false →
          Multiplies ofResv s s e x z ⟨e.t.obuf, l.base, l⟩ k1.toNat)) ∧
      (getT e.t.resv (k0.toNat % 16) = none → Traps ofResv s e 13 k0.toNat 0 e.c.mask) ∧
      (∀ p, residOf e.x k0 = some p → p.st = 2 → k1.toNat < p.layout.tiles → pairFits f64 z.fa p.layout.format →
        (z.m = 0 ∨ z.n = 0 → nothing ofResid (s.uses e (k0.toNat / 4096))) ∧
        (∀ i, z.m ≠ 0 → z.n ≠ 0 → e.slotsFree s x → s.inst? (4 * e.t.column + e.t.layer) e.t.ctx (k0.toNat / 4096) = some i →
          i.loading = false → Multiplies ofResid s s e x z ⟨i.data, 0, { p.layout with base := 0 }⟩ k1.toNat) ∧
        (∀ s1, z.m ≠ 0 → z.n ≠ 0 → e.slotsFree s x → s.inst? (4 * e.t.column + e.t.layer) e.t.ctx (k0.toNat / 4096) = none →
          startLoad s e k0 p = .ok s1 → WaitsWith ofResid s (s.landOf e.g.gid) e .load)) ∧
      (residOf e.x k0 = none → Traps ofResid s e 11 k0.toNat 0 e.c.mask) ∧
      (∀ p, residOf e.x k0 = some p → p.st = 3 → Traps ofResid s e 12 k0.toNat 0 e.c.mask) ∧
      (∀ p, residOf e.x k0 = some p → p.st = 1 → Traps ofResid s e 13 k0.toNat 0 e.c.mask) ∧
      (f64 = false → shapeOf e.x k0 = none → Traps (.mmag g t c r v k) s e 11 k0.toNat 0 e.c.mask) ∧
      (∀ sh0 l, f64 = false → shapeOf e.x k0 = some sh0 → getT e.t.resv (z3 % 16) = some l → tileG < l.tiles →
        colStride l.format % shapeE sh0 = 0 → pairFits f64 z.fa l.format →
        let sh := mmagShape sh0 l.format
        let o := mmagOrigin sh0 k1
        (2 ^ 57 ≤ shapeField sh 0 8 → Traps (.mmag g t c r v k) s e 6 0 (shapeField sh 0 8) e.c.mask) ∧
        (∀ base s1 ls s2 bs, shapeField sh 0 8 < 2 ^ 57 → e.flight? = none →
          let src : JobSrc := .box base sh o.1 o.2 0 0
          let rs := fetchRuns (lowLane e.c.mask) (src.runs 0 (tileBytes l.format))
          let at_ := l.base + tileBytes l.format * tileG
          let ob := fillB e.t.obuf at_ bs.length (fun i => bs.getD (i - at_) 0)
          shapeBase s e sh (((boxBounds sh o.1 o.2 0 0).getD (0, 0)).2) = .ok base →
          (shapeOob sh && rs.any (fun r => r.1.isNone)) = false → xlateEach s e .read (rs.filterMap (·.1)) = .ok (s1, ls) →
          (z.m = 0 ∨ z.n = 0 → nothing (.mmag g t c r v k) s1) ∧
          (z.m ≠ 0 → z.n ≠ 0 → e.slotsFree s x → fetchHeld s1 e src ((at_, tileBytes l.format) :: tileRanges l tileG) = false →
            fetchPlaces (s1.landOf e.g.gid) e (weave rs ls) = .ok (s2, bs) →
            Multiplies (.mmag g t c r v k) s s2 e x z ⟨ob, l.base, l⟩ tileG))))) ∧
  (∀ (tid : Nat) (s : State) (u : Team) (o : ArrayOp) (rest : List ArrayOp), s.team? tid = some u → u.array = o :: rest →
    ∃ t u', exec (.mmaRetire tid) s = .next t ∧ t.team? tid = some u' ∧ u'.array = rest ∧ t.groups = s.groups ∧ t.mem = s.mem ∧
      ∀ x, getB u'.acc x = ((o.writes.reverse.find? (fun w => w.1 == x)).map (·.2)).getD (getB u.acc x))

/-- R232 to R234, R240, R241: reservations of the operand buffer, copies into them, and the code tables. FORMAT bytes 32 to
255 count as malformed formats by the model's reading (log 74; R232 names 28 to 31), and OBLD performs what is left at narrower scopes by its
choice (log 105). -/
def Obligations.OperandBuffers : Prop :=
  ∀ (g : Pred) (d a : KReg) (gen sh q8 : Bool) (s : State) (e : Env) (off : Nat), s.env? = some e → e.g.regs.getQ g.val = true →
    let ga := (e.g.regs.getK2 a.val).toNat
    let l := resvRecord (readB e.t.scratch off 32)
    let id := (e.g.regs.getK a.val).toNat % 16
    let puts := fun (i : Instr) (m : Tbl Layout) (R : Regs → Prop) =>
      Completes i s (s.modTeam e.t.tid (fun u => { u with resv := m })) e e.g.latch R
    let tables := fun (i : Instr) (P : CodeTables → Prop) =>
      ∃ tb, P tb ∧ Completes i s (s.modTeam e.t.tid (fun u => { u with tables := tb })) e e.g.latch (WritesNone e)
    let T := e.t.tables
    let idx := (e.g.regs.getK a.val).toNat
    (Begins s e → InOwnScratch s e ga 32 off → off % 32 = 0 →
      (28 ≤ l.format → Traps (.obres g d a) s e 4 0 0 e.c.mask) ∧
      (l.format < 28 → resvOk e (readB e.t.scratch off 32) l = false → Traps (.obres g d a) s e 13 0 0 e.c.mask) ∧
      (l.format < 28 → resvOk e (readB e.t.scratch off 32) l = true →
        (∀ i, i < 16 → getT e.t.resv i = none → (∀ j, j < i → getT e.t.resv j ≠ none) →
          puts (.obres g d a) (setT e.t.resv i l) (fun h => WritesK e h d.val (BitVec.ofNat 32 i))) ∧
        ((∀ j, j < 16 → getT e.t.resv j ≠ none) →
          Completes (.obres g d a) s s e e.g.latch (fun h => WritesK e h d.val 0xFFFFFFFF)))) ∧
    (getT e.t.resv id = none → Traps (.obfree g a) s e 13 0 0 e.c.mask) ∧
    (∀ r, getT e.t.resv id = some r → (∀ j ∈ s.jobs, j.intoResv e.t.tid id = false) → (∀ o ∈ e.t.array, o.resv ≠ some id) →
      (∀ k ∈ holdsOf s e.t.tid e.g.gid, k.resv ≠ some id) → puts (.obfree g a) (delT e.t.resv id) (WritesNone e)) ∧
    (∀ r, getT e.t.resv id = some r → ((∃ j ∈ s.jobs, j.intoResv e.t.tid id = true) ∨ (∃ o ∈ e.t.array, o.resv = some id) ∨
        ∃ k ∈ holdsOf s e.t.tid e.g.gid, k.resv = some id) →
      Waits (.obfree g a) s e .load) ∧
    (let rid := (e.g.regs.getK d.val).toNat % 16
     let ro := (e.g.regs.getK (a.val + 2)).toNat
     let n := (e.g.regs.getK (a.val + 3)).toNat
     (getT e.t.resv rid = none → Traps (.obld g d a) s e 13 0 0 e.c.mask) ∧
     (∀ r src, getT e.t.resv rid = some r → copyPlace s e .either ga n = .ok src →
       (ga % 32 ≠ 0 → Traps (.obld g d a) s e 7 0 ga e.c.mask) ∧
       (ga % 32 = 0 → (ro % 32 ≠ 0 ∨ n % 32 ≠ 0 ∨ n < 32 ∨ r.bytes < ro + n) → Traps (.obld g d a) s e 13 0 0 e.c.mask) ∧
       (ga % 32 = 0 → ro % 32 = 0 → n % 32 = 0 → 32 ≤ n → ro + n ≤ r.bytes →
         ∃ j, j.id = s.nextJob ∧ j.src = .run src ∧ j.dst = .obuf rid ro r.base ∧ j.size = n ∧ j.tid = e.t.tid ∧ j.started = false ∧
           Completes (.obld g d a) s { s.landOf e.g.gid with jobs := s.jobs ++ [j], nextJob := s.nextJob + 1 } e e.g.latch (WritesNone e)))) ∧
    (Begins s e → InOwnScratch s e ga (if q8 then 512 else 32) off → off % 32 = 0 → tables (.ctabWr g a q8) (fun tb =>
      tb.q4Live = T.q4Live ∧ tb.q8Live = T.q8Live ∧ tb.q4Gen = T.q4Gen ∧ tb.q8Gen = T.q8Gen ∧
      (q8 = true → tb.q4Shadow = T.q4Shadow ∧ ∀ i, i < 256 →
        getB tb.q8Shadow i = BitVec.ofNat 16 (leNat (readB e.t.scratch (off + 2 * i) 2))) ∧
      (q8 = false → tb.q8Shadow = T.q8Shadow ∧ ∀ i, i < 16 →
        getB tb.q4Shadow i = BitVec.ofNat 16 (leNat (readB e.t.scratch (off + 2 * i) 2))))) ∧
    ((∃ k ∈ holdsOf s e.t.tid e.g.gid, k.table = true) → ∀ w, Waits (.ctabSwap g w) s e .load) ∧
    ((∀ k ∈ holdsOf s e.t.tid e.g.gid, k.table = false) →
      tables (.ctabSwap g .q4p) (fun tb => tb = { T with q4Live := T.q4Shadow, q4Gen := T.q4Gen + 1 }) ∧
      tables (.ctabSwap g .q8p) (fun tb => tb = { T with q8Live := T.q8Shadow, q8Gen := T.q8Gen + 1 }) ∧
      tables (.ctabSwap g .both) (fun tb =>
        tb = ⟨T.q4Shadow, T.q4Shadow, T.q4Gen + 1, T.q8Shadow, T.q8Shadow, T.q8Gen + 1⟩)) ∧
    Completes (.ctabRd g d a gen sh q8) s s e e.g.latch (fun h => WritesK e h d.val (
      if gen then (if q8 then T.q8Gen else T.q4Gen)
      else if q8 then (getB (if sh then T.q8Shadow else T.q8Live) (idx % 256)).setWidth 32
      else (getB (if sh then T.q4Shadow else T.q4Live) (idx % 16)).setWidth 32))

/-- R235, R236, R239: residencies are allocated, loaded, pinned, revoked and asked about; a stale handle is STALE_HANDLE.
The model's readings are APERTURE after the other checks and BAD_OPERAND for FORMAT 28 and above (log 74), and an RSQ HERE that leaves out a loading
instance and still shows one that only an issued multiply reads (log 87). RSALLOC and RSQ are refused in DET mode (R353). -/
def Obligations.Residencies : Prop :=
  ∀ (g : Pred) (d a : KReg) (s s0 : State) (e : Env) (pa : Nat) (lf : Leaf), s.env? = some e → e.g.regs.getQ g.val = true →
    let ga := (e.g.regs.getK2 a.val).toNat
    let h := e.g.regs.getK a.val
    let slot := h.toNat / 4096
    let s2 := s0.loadsMeet e [⟨ga, 32, .loc pa, lf⟩]
    let bs := seenBytes s2 e ga pa 32
    let l := residRecord bs
    let size := (e.x.reg CtxReg.resSlots).toNat
    let used := fun i => ∃ r, getT e.x.resid i = some r ∧ r.st ≠ 0
    let gen := fun i => match getT e.x.resid i with
      | some r => if r.gen = 0 then 1 else r.gen
      | none => (1 : BitVec 12)
    let flagged := fun (i : Instr) (b : Bool) => Completes i s
      (s.modCtx e.t.ctx (fun x => { x with resid := match getT x.resid slot with
        | some r => setT x.resid slot { r with pinned := b }
        | none => x.resid })) e e.g.latch (WritesNone e)
    (Begins s e → OnThisChip s s0 e .read [0] (fun _ => ga) 32 (fun _ => pa) (fun _ => lf) → localErr s0 (isLost s0) pa 32 = none → ga % 32 = 0 →
      e.isDet = false → e.isUnlogged = true →
      (residOk bs l = false → Traps (.rsalloc g d a) s e 13 0 0 e.c.mask) ∧
      (residOk bs l = true → 2 ^ 57 < l.base + l.bytes → Traps (.rsalloc g d a) s e 6 0 l.base e.c.mask) ∧
      (residOk bs l = true → l.base + l.bytes ≤ 2 ^ 57 →
        (∀ i, 0 < i → i < size → ¬used i → (∀ j, 0 < j → j < i → used j) →
          Completes (.rsalloc g d a) s (s2.modCtx e.t.ctx (fun x => { x with resid := setT x.resid i ⟨gen i, 1, false, false, l, []⟩ }))
            e e.g.latch (fun r => WritesK e r d.val (BitVec.ofNat 32 (i * 4096 + (gen i).toNat)))) ∧
        ((∀ j, 0 < j → j < size → used j) → Completes (.rsalloc g d a) s s2 e e.g.latch (fun r => WritesK e r d.val 0)))) ∧
    (residOf e.x h = none → Traps (.rsfill g a) s e 11 h.toNat 0 e.c.mask ∧ Traps (.rspin g a) s e 11 h.toNat 0 e.c.mask ∧
      Traps (.rsunpin g a) s e 11 h.toNat 0 e.c.mask ∧ Traps (.rsrev g a) s e 11 h.toNat 0 e.c.mask) ∧
    (∀ r, residOf e.x h = some r →
      (∀ s1, startLoad s e h r = .ok s1 → Completes (.rsfill g a) s s1 e e.g.latch (WritesNone e) ∧
        (∃ i, s1.inst? (4 * e.t.column + e.t.layer) e.t.ctx slot = some i ∧ i.loading = true ∧
          e.g.gid ∈ i.loaders) ∧
        (∃ r', getT (s1.ctx e.t.ctx).resid slot = some r' ∧ r'.st = 2 ∧ r'.failed = false)) ∧
      flagged (.rspin g a) true ∧ flagged (.rsunpin g a) false ∧
      (residRead s e.t.ctx slot = true → Waits (.rsrev g a) s e .load) ∧
      (residRead s e.t.ctx slot = false → ∃ t k, exec (.rsrev g a) s = .next t ∧ t.group? e.g.gid = some k ∧ WritesNone e k.regs ∧
        (∀ i ∈ t.insts, ¬(i.ctx = e.t.ctx ∧ i.slot = slot)) ∧
        ∃ r', getT (t.ctx e.t.ctx).resid slot = some r' ∧ r'.st = 0 ∧ r'.gen = if r.gen = 4095 then 1 else r.gen + 1)) ∧
    (e.isDet = true → Traps (.rsq g d a) s e 19 0 0 e.c.mask) ∧
    (e.isDet = false → (residOf e.x h = none → Samples (.rsq g d a) s s e d 0) ∧
      ∀ r, residOf e.x h = some r →
        let here := s.insts.filter (fun i => i.core == 4 * e.t.column + e.t.layer && i.ctx == e.t.ctx && i.slot == slot)
        Samples (.rsq g d a) s s e d (BitVec.ofNat 32 (2 ^ 31 + r.st.toNat * 2 ^ 29 + r.pinned.toNat * 2 ^ 28 +
          (here.any (!·.loading)).toNat * 2 ^ 27 + (here.any (·.loading)).toNat * 2 ^ 26 + r.failed.toNat * 2 ^ 25 +
          (here.flatMap (·.users)).eraseDups.length % 16 * 2 ^ 16 + r.layout.pages % 256)))

/-! ## Launches, spurs, translations, replay -/

/-- R296, R299: LAUNCH and LAUNCH.NB take a record into the team's queue of four, LPOLL reads a counter, LWAIT waits until one reaches its target, and the
group goes on when it does. In DET mode LAUNCH.NB and LPOLL trap (R353), after MISALIGNED (the model's order, log 17); a launch performs what is left
at narrower scopes (its choice, log 105), and LWAIT_WAKE is its reading of log 78. -/
def Obligations.Launches : Prop :=
  ∀ (g d : Pred) (k a b : KReg) (s s1 : State) (e : Env) (off pa : Nat) (lf : Leaf), s.env? = some e → e.g.regs.getQ g.val = true →
    let ga := (e.g.regs.getK2 a.val).toNat
    let bs := readB e.t.scratch off 64
    let q := (getT s.launches e.t.tid).getD ⟨e.t.ctx, e.gr.rserial, e.t.idx, [], none⟩
    let s0 := s.landOf e.g.gid
    let counted := spurCounts s0 e.t.ctx (Rec.spur bs)
    let s' := if counted then s0.addBusy e.t.ctx (Rec.spur bs) 1 else s0
    let q' : LaunchQueue := ⟨q.ctx, q.rserial, q.team, q.entries ++ [⟨bs, ga, e.g.gid % 32, s.clk, counted⟩], q.last⟩
    let entered := { s' with launches := setT s'.launches e.t.tid q' }
    let s2 := s1.loadsMeet e [⟨ga, 8, .loc pa, lf⟩]
    let c := leNat (seenBytes s2 e ga pa 8)
    let goal := (e.g.regs.getK2 b.val).toNat
    (2 ^ 57 ≤ ga → ga < 0xFE00000000000000 → Traps (.launch g a) s e 6 0 ga e.c.mask ∧ Traps (.launchNb g d a) s e 6 0 ga e.c.mask) ∧
    (ga < 2 ^ 57 → ga % 64 ≠ 0 → Traps (.launch g a) s e 7 0 ga e.c.mask ∧ Traps (.launchNb g d a) s e 7 0 ga e.c.mask) ∧
    (Begins s e → InOwnScratch s e ga 64 off → off % 64 = 0 →
      (q.entries.length < 4 → Completes (.launch g a) s entered e e.g.latch (WritesNone e)) ∧
      (4 ≤ q.entries.length → Waits (.launch g a) s e .launch) ∧
      (e.isDet = true → Traps (.launchNb g d a) s e 19 0 0 e.c.mask) ∧
      (e.isDet = false → e.isUnlogged = true →
        (q.entries.length < 4 → Completes (.launchNb g d a) s entered e e.g.latch (fun h => WritesQ e h d.val true)) ∧
        (4 ≤ q.entries.length → Completes (.launchNb g d a) s s e e.g.latch (fun h => WritesQ e h d.val false)))) ∧
    (2 ^ 57 ≤ ga → Traps (.lwait g d a b) s e 6 0 ga e.c.mask ∧ Traps (.lpoll g k a) s e 6 0 ga e.c.mask) ∧
    (ga < 2 ^ 57 → ga % 8 ≠ 0 → Traps (.lwait g d a b) s e 7 0 ga e.c.mask ∧ Traps (.lpoll g k a) s e 7 0 ga e.c.mask) ∧
    (Begins s e → OnThisChip s s1 e .read [0] (fun _ => ga) 8 (fun _ => pa) (fun _ => lf) → localErr s1 (isLost s1) pa 8 = none → ga % 8 = 0 →
      (goal % 2 ^ 63 ≤ c % 2 ^ 63 → Completes (.lwait g d a b) s s2 e e.g.latch (fun h => WritesQ e h d.val (decide (c < 2 ^ 63)))) ∧
      (c % 2 ^ 63 < goal % 2 ^ 63 → WaitsWith (.lwait g d a b) s s2 e (.lwait d.val ga goal none)) ∧
      (e.isDet = false → e.isUnlogged = true →
        Completes (.lpoll g k a) s s2 e e.g.latch (fun h => WritesK2 e h k.val (BitVec.ofNat 64 c)))) ∧
    (∀ gid w h q0 ad goal' since s3, s.group? gid = some h → h.stop = none → h.park = some ⟨.lwait q0 ad goal' none, since⟩ →
      s.parkedEnv gid 0xD2 = some w → s.partFor w = none → OnThisChip s s3 w .read [0] (fun _ => ad) 8 (fun _ => pa) (fun _ => lf) →
      localErr s3 (isLost s3) pa 8 = none → ad % 8 = 0 →
      let w' := { w with g := { w.g with fenceS := true } }
      let s4 := s3.loadsMeet w' [⟨ad, 8, .loc pa, lf⟩]
      let seen := leNat (seenBytes s4 w' ad pa 8)
      goal' % 2 ^ 63 ≤ seen % 2 ^ 63 →
      Completes (.lwaitWake gid) s s4 w h.latch (fun r => WritesQ w r q0 (decide (seen < 2 ^ 63))))

/-- R316 to R320, R322: the spur instructions and the end of a reclaim. The check of
DET mode (R353) before that of the operand is the model's reading (log 83); where the tree and the states stand, and what a fork writes beyond the
spec's words, are its choices (logs 80 to 82), and performing what is left at narrower scopes too (log 105). -/
def Obligations.Spurs : Prop :=
  (∀ (g q : Pred) (d a b : KReg) (s : State) (e : Env), s.env? = some e → e.g.regs.getQ g.val = true →
    let n := e.g.regs.getK a.val
    let k := e.g.regs.getK b.val
    let now := spurCurrent e.x n
    let landed := s.landLate (fun _ => true)
    let marked := (s.landOf e.g.gid).markSpurs e.t.ctx n
    let stopped := marked.1.stopSpurs e.t.ctx marked.2 none
    (spurMalformed e.x n = true → Traps (.spurJoin g q a b) s e 13 n.toNat 0 e.c.mask ∧ (e.isDet = false →
      Traps (.spurFork g d a) s e 13 n.toNat 0 e.c.mask ∧ Traps (.spurCancel g d a) s e 13 n.toNat 0 e.c.mask ∧
      Traps (.spurQ g d a) s e 13 n.toNat 0 e.c.mask)) ∧
    (e.isDet = true → Traps (.spurFork g d a) s e 19 0 0 e.c.mask ∧ Traps (.spurCancel g d a) s e 19 0 0 e.c.mask ∧
      Traps (.spurQ g d a) s e 19 0 0 e.c.mask) ∧
    (e.isDet = false → spurMalformed e.x n = false → e.isUnlogged = true →
      (now = false → Completes (.spurFork g d a) s landed e e.g.latch (fun h => WritesK e h d.val 0xFFFFFFFD)) ∧
      (∀ s1 v, forkSpur s e.t.ctx n = .ok (s1, v) → Completes (.spurFork g d a) s s1 e e.g.latch (fun h => WritesK e h d.val v)) ∧
      (∀ cause info addr hpa, forkSpur s e.t.ctx n = .error (.trap cause info addr none hpa) →
        exec (.spurFork g d a) s = .next (s.raiseTrap e.c e.g cause info addr e.c.mask hpa)) ∧
      (n = 0 → Traps (.spurCancel g d a) s e 13 0 0 e.c.mask) ∧
      (n ≠ 0 → (now = false ∨ spurState e.x (n.toNat / 4096) = 2) →
        Completes (.spurCancel g d a) s (s.landOf e.g.gid) e e.g.latch (fun h => WritesK e h d.val 0)) ∧
      (n ≠ 0 → now = true → spurState e.x (n.toNat / 4096) ≠ 2 → marked.2.contains e.spur = false →
        stopped.group? e.g.gid = some e.g → Completes (.spurCancel g d a) s stopped e e.g.latch (fun h => WritesK e h d.val 1)) ∧
      (now = false → Samples (.spurQ g d a) s s e d 0) ∧
      (now = true → Samples (.spurQ g d a) s
        (if e.x.reg CtxReg.spurSlots = 0 then s else s.runL2 (spurAddr e.x (n.toNat / 4096)) 64 0 false) e d
        (BitVec.ofNat 32 (spurStatus s e.t.ctx n)))) ∧
    (spurMalformed e.x n = false → e.isUnlogged = true → e.g.park = none →
      (subtreeDone s e.t.ctx n = true → Completes (.spurJoin g q a b) s s e e.g.latch (fun h => WritesQ e h q.val true)) ∧
      (subtreeDone s e.t.ctx n = false →
        (e.isDet = false → k = 0 → Completes (.spurJoin g q a b) s s e e.g.latch (fun h => WritesQ e h q.val false)) ∧
        (e.isDet = false → k ≠ 0 → k ≠ 0xFFFFFFFF →
          Waits (.spurJoin g q a b) s e (.join q.val n (some (s.clk + 64 * k.toNat)))) ∧
        ((e.isDet = true ∨ k = 0xFFFFFFFF) → Waits (.spurJoin g q a b) s e (.join q.val n none))))) ∧
  (∀ (s0 : State) (c : Nat) (x : Context) (p : Word),
    let s := s0.landLate (fun _ => true)
    let live := spurCurrent x p = true ∧ ∀ n ∈ spurChain x 65 p, spurState x (n.toNat / 4096) ≠ 2
    let depth := spurField s x (p.toNat / 4096) 9 1
    s.ctx? c = some x → x.reg CtxReg.spurSlots ≠ 0 →
    (spurCurrent x p = false → forkSpur s0 c p = .ok (s, 0xFFFFFFFD)) ∧
    (spurCurrent x p = true → (∃ n ∈ spurChain x 65 p, spurState x (n.toNat / 4096) = 2) → forkSpur s0 c p = .ok (s, 0xFFFFFFFD)) ∧
    (live → depth = 63 → forkSpur s0 c p = .error (.trap 13 0 0 none 0)) ∧
    (live → depth ≠ 63 → (∀ i, 0 < i → i < (x.reg CtxReg.spurSlots).toNat → spurState x i ≠ 0) →
      forkSpur s0 c p = .ok (s, 0xFFFFFFFF)) ∧
    (∀ i, live → depth ≠ 63 → 0 < i → i < (x.reg CtxReg.spurSlots).toNat → spurState x i = 0 →
      (∀ j, 0 < j → j < i → spurState x j ≠ 0) →
      (s.poolPop c = none → forkSpur s0 c p = .ok (s, 0xFFFFFFFE)) ∧
      (∀ l s1, s.poolPop c = some (l, s1) →
        let es := (List.range (min (spurField s x (p.toNat / 4096) 32 4) 16384)).map (fun k => listGet s x (p.toNat / 4096) k)
        let gen : BitVec 12 := if getB x.spurGen i = 0 then 1 else getB x.spurGen i
        (∀ a, lostAmong s (forkRuns x p es l) = some a → forkSpur s0 c p = .error (.trap 10 0 0 none a)) ∧
        (lostAmong s (forkRuns x p es l) = none → ∃ t, forkSpur s0 c p = .ok (t, BitVec.ofNat 32 (i * 4096 + gen.toNat)) ∧
          spurState (t.ctx c) i = 1 ∧ getB (t.ctx c).spurGen i = gen)))) ∧
  (∀ (s : State) (c slot : Nat) (x : Context), s.ctx? c = some x → 0 < slot → slot < (x.reg CtxReg.spurSlots).toNat → slot < 2 ^ 20 →
    let n := BitVec.ofNat 32 (slot * 4096 + (getB x.spurGen slot).toNat)
    spurState x slot = 2 → reclaimReady s c n = true →
    ∃ t y, exec (.spurReclaimDone c slot) s = .next t ∧ t.ctx? c = some y ∧ spurState y slot = 0 ∧
      getB y.spurGen slot = (if getB x.spurGen slot = 4095 then 1 else getB x.spurGen slot + 1) ∧ t.groups = s.groups)

/-- R100, R103: XPROBE reports a translation and raises no translation trap; XINVAL drops every translation of its context that meets the range, from every
cache, makes the residencies whose source meets it no longer LIVE, and completes once the context has no access under way that used one (R237 for the residencies). Which accesses these are is the model's
reading (log 94), the CAUSE of a spur leaf too (log 59), and what it does to writes at narrower scopes its choice (log 105). -/
def Obligations.ProbesAndInvalidations : Prop :=
  ∀ (g : Pred) (d a b : KReg) (gran : Granule) (s : State) (e : Env), s.env? = some e → e.g.trap.masked = true →
    e.g.regs.getQ g.val = true →
    let va := (e.g.regs.getK2 a.val).toNat
    let n := (e.g.regs.getK b.val).toNat
    let two := fun (x : DWord) (y : Word) (h : Regs) => VSame e.g.regs h ∧ PSame e.g.regs h ∧ QSame e.g.regs h ∧ Flows e h ∧
      ∀ j, h.getK j =
        if j = b ∧ b ≠ 0 then y
        else if j = d ∧ d ≠ 0 then x.extractLsb' 0 32
        else if j = d + 1 ∧ d ≠ 0 then x.extractLsb' 32 32
        else e.g.regs.getK j
    let probes := fun (s1 : State) (x : DWord) (y : Nat) => Completes (.xprobe g d a b) s s1 e e.g.latch (two x (BitVec.ofNat 32 y))
    let size := match gran with
      | .k64 => 2 ^ 16
      | .m2 => 2 ^ 21
      | .g1 => 2 ^ 30
    let landed := s.landLate (fun _ => true)
    let dropped := fun (t : State) (lo hi : Nat) => t.mem = landed.mem ∧
      (∀ x ∈ t.tlb, x ∈ s.tlb) ∧ (∀ x ∈ s.tlb, x ∈ t.tlb ↔ ¬(x.ctx = e.t.ctx ∧ x.base < hi ∧ lo < x.base + x.size)) ∧
      (∀ x ∈ t.walks, x ∈ s.walks) ∧
      (∀ x ∈ s.walks, x ∈ t.walks ↔ ¬(x.ctx = e.t.ctx ∧ x.base < hi ∧ lo < x.base + entrySpan x.level)) ∧
      ∀ slot r, getT (t.ctx e.t.ctx).resid slot = some r → r.st = 2 →
        ¬(r.layout.base < hi ∧ lo < r.layout.base + r.layout.bytes)
    let stores := ∃ r ∈ e.gr.staged, r.team = e.t.idx ∧ r.group = e.g.gid % 32 ∧ r.kind = 0
    let drops := fun (lo hi : Nat) => ∃ t h, exec (.xinval g gran a b) s = .next t ∧ t.group? e.g.gid = some h ∧ dropped t lo hi ∧
      (flying s e.t.ctx = [] → WritesNone e h.regs ∧ h.park = none) ∧
      (flying s e.t.ctx ≠ [] → h.regs = e.g.regs ∧ h.park.map (·.why) = some (.inval (flying s e.t.ctx)))
    (2 ^ 57 ≤ va → probes s 0 (3 * 2 ^ 28)) ∧
    (va < 2 ^ 57 →
      (∀ lvl, (leafOf s e.t.ctx e.agent none va = .error (.absent lvl) ∨ leafOf s e.t.ctx e.agent none va = .error (.prot lvl)) →
        probes s 0 (2 ^ 28 + lvl * 2 ^ 25)) ∧
      (∀ lvl, leafOf s e.t.ctx e.agent none va = .error (.bad lvl) → probes s 0 (2 * 2 ^ 28 + lvl * 2 ^ 25)) ∧
      (leafOf s e.t.ctx e.agent none va = .error .held → Waits (.xprobe g d a b) s e .held) ∧
      (∀ lvl pa, leafOf s e.t.ctx e.agent none va = .error (.lost lvl pa) → probes s 0 (4 * 2 ^ 28 + lvl * 2 ^ 25)) ∧
      (∀ s1 lf lvl, leafOf s e.t.ctx e.agent none va = .ok (s1, lf, lvl) → lf < 2 ^ 64 → lvl < 4 →
        probes s1 (BitVec.ofNat 64 (lf / 2 ^ 52 * 2 ^ 52 + lf / 2 ^ 50 % 4 * 2 ^ 50 + lvl * 2 ^ 48 +
          (lf / 2 ^ 16 % 2 ^ 32 * 2 ^ 16 + va % unitSize lvl) % 2 ^ 48)) (2 ^ 31 + lvl * 2 ^ 25 + lf % 512))) ∧
    ((∀ tags since, e.g.park ≠ some ⟨.inval tags, since⟩) →
      (stores → (n = 0 ∨ 4096 < n ∨ va < 2 ^ 57) → Waits (.xinval g gran a b) s e .load) ∧
      (¬stores → n = 0 ∨ 4096 < n → drops 0 (2 ^ 57)) ∧
      (¬stores → n ≠ 0 → n ≤ 4096 → va < 2 ^ 57 → drops (va / size * size) (min (va / size * size + n * size) (2 ^ 57))) ∧
      (n ≠ 0 → n ≤ 4096 → 2 ^ 57 ≤ va → Traps (.xinval g gran a b) s e 6 0 va e.c.mask)) ∧
    (∀ tags since, e.g.park = some ⟨.inval tags, since⟩ →
      (stillFlying s tags = false → Completes (.xinval g gran a b) s s e e.g.latch (WritesNone e)) ∧
      (stillFlying s tags = true → Waits (.xinval g gran a b) s e (.inval tags)))

/-- R362, R368 to R370: the instructions of the Cairn unit. LMARK writes its record in REC, waits for a position there, and passes where nothing is
recorded; CRSET ignores the writes that R370 names; CRPOS reports. A grade without the unit refuses all of them. When STALLED reads 1 is the model's
reading (log 26: stalledNow, cairnKept). -/
def Obligations.CairnUnit : Prop :=
  ∀ (g : Pred) (k : KReg) (tag : BitVec 7) (s : State) (e : Env), s.env? = some e →
    let v := e.g.regs.getK k.val
    let dir := e.x.reg CtxReg.cairnDir
    let prod := e.x.reg CtxReg.cairnProd
    let cons := e.x.reg CtxReg.cairnCons
    let free := 2 ^ (e.x.reg CtxReg.cairnLog).toNat - (prod - cons).toNat
    let ev : LogRec := ⟨0, 7, tag.toNat, e.g.gid % 32, e.gr.rserial % 256, e.t.idx, tag.toNat, v.toNat⟩
    (s.grade.hasCairn = false →
      Traps (.lmark g k tag) s e 2 0 0 e.c.mask ∧ Traps (.crsetCons g k) s e 2 0 0 e.c.mask ∧
      Traps (.crsetThresh g k) s e 2 0 0 e.c.mask ∧ Traps (.crsetProd g k) s e 2 0 0 e.c.mask ∧
      Traps (.crsetEnd g k) s e 2 0 0 e.c.mask ∧ Traps (.crposProd g k) s e 2 0 0 e.c.mask ∧
      Traps (.crposCons g k) s e 2 0 0 e.c.mask ∧ Traps (.crposStatus g k) s e 2 0 0 e.c.mask) ∧
    (s.grade.hasCairn = true → e.g.regs.getQ g.val = true →
      (e.isUnlogged = true → Completes (.lmark g k tag) s s e e.g.latch (WritesNone e)) ∧
      (e.isRec = true → cairnKept s e.t.ctx < free →
        Completes (.lmark g k tag) s (s.cairnWrite e.t.ctx ev) e e.g.latch (WritesNone e)) ∧
      (e.isRec = true → free ≤ cairnKept s e.t.ctx → Waits (.lmark g k tag) s e .ring)) ∧
    (s.grade.hasCairn = true → e.g.trap.masked = true → e.g.regs.getQ g.val = true →
      SetsRing (.crsetCons g k) s e CtxReg.cairnCons (dir = 1 ∧ (v - cons).toNat ≤ (prod - cons).toNat) v ∧
      SetsRing (.crsetProd g k) s e CtxReg.cairnProd (dir = 2) v ∧
      SetsRing (.crsetThresh g k) s e CtxReg.cairnThresh (dir ≠ 0) v ∧
      SetsRing (.crsetEnd g k) s e CtxReg.cairnEnd (dir ≠ 0) (v &&& 1) ∧
      Completes (.crposProd g k) s s e e.g.latch (fun h => WritesK e h k.val prod) ∧
      Completes (.crposCons g k) s s e e.g.latch (fun h => WritesK e h k.val cons) ∧
      Completes (.crposStatus g k) s s e e.g.latch (fun h => WritesK e h k.val (BitVec.ofNat 32 (
        dir.toNat % 4 * 2 ^ 30 + (stalledNow s e).toNat * 2 ^ 29 + ((e.x.reg CtxReg.cairnEnd).getLsbD 0).toNat * 2 ^ 28 +
          e.x.diverged.toNat * 2 ^ 27))))

/-! ## Events of the memory system -/

/-- R57, R58, R60 to R64, R70 to R76: a controller serves a request and answers it; promotions, write-backs, remaps and the crest split go on
step by step; warnings are posted. Model readings: a remap drops pages that are being promoted and acts at the command (log 64), STATE 4 and
TARGET with START = 0 (log 65), existence before loss (log 68), the lowest free row (log 63); what reaches a row is log 12. -/
def Obligations.MemoryEvents : Prop :=
  ∀ (s : State) (i : Nat) (k : Stack), s.hbm[i]? = some k →
    let stack := fun (e : Instr) (P : Stack → Prop) => Does e s (fun t => ∃ k', t.hbm[i]? = some k' ∧ P k')
    let page := fun (e : Instr) (q : Nat) (x : Option Promoted) => stack e (fun k' => getT k'.pages q = x)
    (∀ r e, isHeld s r.pa = true → Rests (.controllerRequest r e) s) ∧
    (∀ (r : MemReq) (n : Nat), isHeld s r.pa = false → ((r.op = .rd32 ∧ n = 32) ∨ (r.op = .rd64 ∧ n = 64) ∨ (r.op = .rd128 ∧ n = 128)) →
      let replies := fun (s' : State) st data => exec (.controllerRequest r .clean) s =
        .next { s' with outbox := s.outbox ++ [.reply r.src r.tag st data] }
      (localExists s r.pa = false → replies s .absent []) ∧
      (∀ pa, localExists s r.pa = true → localErr s (isLost s) r.pa n = some (true, pa) → replies s .dataLost []) ∧
      (localExists s r.pa = true → localErr s (isLost s) r.pa n = none → replies (s.useL2 r.pa 2 false) .ok (readB s.mem r.pa n))) ∧
    (∀ (r : MemReq) (m : BitVec 128) (bs : List Byte), r.op = .wr m bs → isHeld s r.pa = false → localExists s r.pa = true →
      (∀ j, j < bs.length → m.getLsbD j = true → localExists s (r.pa + j) = true ∧ isLost s (r.pa + j) = false) →
      Does (.controllerRequest r .clean) s (fun t => t.outbox = s.outbox ++ [.reply r.src r.tag .ok []] ∧
        ∀ a, getB t.mem a = if r.pa ≤ a ∧ a < r.pa + bs.length ∧ m.getLsbD (a - r.pa) = true then bs.getD (a - r.pa) 0
          else getB s.mem a)) ∧
    (∀ (r : MemReq) (o : AtomOp) (b : Bool) (x c : DWord), r.op = .atomic o b x c → isHeld s r.pa = false → localExists s r.pa = true →
      let n := if b then 8 else 4
      let old := leNat (readB s.mem r.pa n)
      let new := leBytes n (newValue o b old x.toNat c.toNat)
      localErr s (isLost s) r.pa n = none → Does (.controllerRequest r .clean) s (fun t =>
        t.outbox = s.outbox ++ [.reply r.src r.tag .ok (leBytes n old)] ∧
        ∀ a, getB t.mem a = if r.pa ≤ a ∧ a < r.pa + n then new.getD (a - r.pa) 0 else getB s.mem a)) ∧
    (∀ (r : MemReq) (up : Bool) (c : Nat), r.op = .hrow up c → isHeld s r.pa = false → localExists s r.pa = true → stackFailed s r.pa = true →
      exec (.controllerRequest r .clean) s = .next { s with outbox := s.outbox ++ [.reply r.src r.tag .dataLost []] }) ∧
    (∀ q r, k.promo ≠ 0 → k.promo.toNat ≤ k.activations q s.now → k.isRemapping = false → k.win.toNat < 8 → q < k.pageCount false → getT k.pages q = none →
      k.freeRow (k.bankOf q) = some r → page (.hwPromote i q) q (some ⟨.promoting, false, none, r, k.lruTick⟩)) ∧
    (∀ q, (k.promo = 0 ∨ k.activations q s.now < k.promo.toNat ∨ k.isRemapping = true ∨ 8 ≤ k.win.toNat) → Rests (.hwPromote i q) s) ∧
    (∀ q v, getT k.pages q = some v → v.st = .promoting →
      (∀ w ∈ k.pages, k.bankOf w.1 = k.bankOf q → w.1 ≠ q → w.2.row ≠ v.row) → page (.promotionDone i q) q (some { v with st := .clean })) ∧
    (∀ q v, getT k.pages q = some v → v.st = .writingBack → page (.writeBackDone i q) q none) ∧
    (∀ n, stack (.patrolScrub i n []) (fun k' => k' = { k with ce := BitVec.ofNat 32 (min (k.ce.toNat + n) 0xFFFFFFFF) })) ∧
    (∀ d, exec (.dieFailing i d) s = .next (s.postDev 1 (i + 256 * d) 0)) ∧
    (∀ b, b < 16 → stack (.bankHot i b) (fun k' => ∀ j, j < 16 → k'.hot.getLsbD j = (k.hot.getLsbD j || decide (j = b)))) ∧
    (∀ val : Word, val.getLsbD 31 = true →
      let t := val.extractLsb' 0 16
      (k.isRemapping = false → k.busy = false → popCount (t ^^^ k.live) = 1 → 12 ≤ popCount t →
        stack (.remapStart i val) (fun k' => k'.rstate = 1 ∧ k'.target = t ∧ k'.goal = t ∧ k'.live = k.live ∧
          ∀ q v, getT k'.pages q = some v → v.st = .writingBack)) ∧
      (k.isRemapping = false → (k.busy = true ∨ popCount (t ^^^ k.live) ≠ 1 ∨ popCount t < 12) →
        stack (.remapStart i val) (fun k' => k' = { k with rstate := 4 }))) ∧
    (∀ val : Word, val.getLsbD 31 = false →
      stack (.remapStart i val) (fun k' => k' = { k with target := val.extractLsb' 0 16 })) ∧
    (k.rstate = 2 →
      let moves := fun (page : Nat) (next : BitVec 20) =>
        Does (.remapPageMoved i) s (fun t => t.mem = s.mem ∧ ∃ k', t.hbm[i]? = some k' ∧
          k' = { k with wmPage := next, lostAtoms := k'.lostAtoms, lostPages := k'.lostPages, failed := k'.failed } ∧
          ((∀ j, j < 2048 → Config.moveLoses s.free (pagePa k.wmClass i page / 32 + j) = false) → k' = { k with wmPage := next }))
      (k.isShrink = true → k.wmPage ≠ 0 → moves (k.wmPage.toNat - 1) (k.wmPage - 1)) ∧
      (k.isShrink = false → k.wmPage.toNat < k.movePages k.wmClass → moves k.wmPage.toNat (k.wmPage + 1))) ∧
    (k.rstate = 2 → k.wmClass = false → k.classDone = true →
      (popCount k.goal ≤ k.banks → stack (.remapDone i) (fun k' => k' = { k with live := k.goal, rstate := 3 })) ∧
      (k.banks < popCount k.goal →
        let isNew := fun (pa : Nat) => pa < 2 ^ 41 ∧ paStack pa = i ∧ (if paClass pa then k.banks * 1024 * k.win.toNat ≤ paPage pa ∧
          paPage pa < popCount k.goal * 1024 * k.win.toNat else k.banks * 57344 ≤ paPage pa ∧ paPage pa < popCount k.goal * 57344)
        stack (.remapDone i) (fun k' => k'.live = k.goal ∧ k'.rstate = 3 ∧ (∀ x ∈ k'.lostAtoms, ¬isNew (32 * x)) ∧
          ∀ x ∈ k'.lostPages, ¬isNew (65536 * x)) ∧
        (∀ pa, isNew pa → Does (.remapDone i) s (fun t => getB t.mem pa = 0)))) ∧
    (∀ val : Word, let w := val.extractLsb' 0 4
      (w.toNat ≤ 8 → k.isRemapping = false → w ≠ k.win →
        stack (.crestWinWrite i val) (fun k' => k'.win = w ∧
          k'.winWas = (if k.busy = true ∧ k.winWas.toNat < k.win.toNat then k.winWas else k.win) ∧ k'.busy = true ∧
          k'.promo = val.extractLsb' 8 8)) ∧
      ((8 < w.toNat ∨ k.isRemapping = true ∨ w = k.win) →
        stack (.crestWinWrite i val) (fun k' => k' = { k with promo := val.extractLsb' 8 8 }))) ∧
    ((∀ v ∈ k.pages, 1024 * k.win.toNat ≤ v.2.row) → stack (.crestWinDone i) (fun k' => k' = { k with busy := false })) ∧
    (∀ val : Word, let pa := (if val.getLsbD 31 then 2 ^ 40 else 0) + i * 2 ^ 36 + val.toNat % 2 ^ 20 * 65536
      (pa / 65536 ∈ k.lostPages → Does (.hbLostclr i val) s (fun t =>
        (∃ k', t.hbm[i]? = some k' ∧ ∀ x, x ∈ k'.lostPages ↔ x ∈ k.lostPages ∧ x ≠ pa / 65536) ∧
        ∀ a, (a < pa ∨ pa + 65536 ≤ a) → getB t.mem a = getB s.mem a)) ∧
      (pa / 65536 ∉ k.lostPages → Rests (.hbLostclr i val) s)) ∧
    (∀ val, stack (.hbCeClear i val) (fun k' => k' = { k with ce := k.ce &&& ~~~val }))

/-- R85, R91, R93, R143, R131, R318, R340, R342, R386, R397: page faults are posted and replayed, answers reach what asked, parked groups go on,
bounded waits end with false. Translation caches are those of log 58, the term of a bounded wait is read as log 76 says, and the clocks of the
timeouts as log 104 says (the model's choices). -/
def Obligations.WaitsEnd : Prop :=
  ∀ (s : State) (gid : Nat) (g : Group), s.group? gid = some g →
    let goesOn := fun (e : Instr) => Does e s (fun t => t.group? gid = some { g with park := none })
    (∀ u f since, s.team? (gid / 32) = some u → g.park = some ⟨.faultRun f, since⟩ → (s.ctx u.ctx).tqRoom = true →
      (f.done = false → Does (.pageFaultRunahead gid) s (fun t => ∃ f', f'.done = true ∧
        ((s.ctx u.ctx).isRequested = true ∨ u.swap = true ∨ s.power.emerg.isSome = true → f' = { f with done := true, code := 6 }) ∧
        t.group? gid = some { g with park := some ⟨.faultRun f', since⟩ } ∧ t.mem = s.mem)) ∧
      (f.done = true → Does (.faultBatchPost gid) s (fun t =>
        let x := s.ctx u.ctx
        let pos := x.tqPos
        let at_ := x.reg64 CtxReg.tqBase + 32 * pos
        let slot := x.reg64 CtxReg.fbBase + 1024 * pos
        let fine := fun a => localExists s a = true ∧ isLost s a = false
        (t.group? gid).bind (·.park) = some ⟨.faultWait pos, since⟩ ∧
        (t.ctx u.ctx).reg CtxReg.tqProd = x.reg CtxReg.tqProd + 1 ∧ getT (t.ctx u.ctx).tqPend pos = some (.group gid) ∧
        (∀ j, j < 32 → fine (at_ + j) → getB t.mem (at_ + j) = (f.record g u pos).bytes.getD j 0) ∧
        ∀ j, j < f.bytes.length → fine (slot + j) → (slot + j < at_ ∨ at_ + 32 ≤ slot + j) → getB t.mem (slot + j) = f.bytes.getD j 0))) ∧
    (∀ ls since, g.park = some ⟨.presence ls, since⟩ → g.stop = none →
      ((∀ l ∈ ls, ∀ u, s.team? l.1 = some u → l.2 ∉ u.absent) → goesOn (.parkRelease gid)) ∧
      ((∃ l ∈ ls, ∃ u, s.team? l.1 = some u ∧ l.2 ∈ u.absent) →
        Does (.parkRelease gid) s (fun t => t.group? gid = some g))) ∧
    (∀ q f tid off p since e, q < 8 → g.park = some ⟨.bwait q (some f) tid off p, since⟩ → g.stop = none → g.due = none → barCheck (s.barGet tid off) p = none →
      s.parkedEnv gid 0xA5 = some e → e.isUnlogged = true → f ≤ s.clk → Completes (.bwaitTimeout gid) s s e g.latch (fun h => WritesQ e h q false)) ∧
    (∀ q n f since u e, q < 8 → g.park = some ⟨.join q n (some f), since⟩ → g.stop = none → g.due = none → s.team? (gid / 32) = some u →
      subtreeDone s u.ctx n = false → s.parkedEnv gid 0xD5 = some e → e.isUnlogged = true → f ≤ s.clk →
      Completes (.joinTimeout gid) s s e g.latch (fun h => WritesQ e h q false)) ∧
    (∀ q f since tid off p n, (g.park = some ⟨.bwait q (some f) tid off p, since⟩ → s.clk < f → Rests (.bwaitTimeout gid) s) ∧
      (g.park = some ⟨.join q n (some f), since⟩ → s.clk < f → Rests (.joinTimeout gid) s)) ∧
    (∀ tag r st data, getT s.remote tag = some r → r.own = none → r.job = none → r.gid = gid →
      let answered := fun (e : Instr) st data => Does e s (fun t => getT t.remote tag = none ∧
        t.group? gid = some { g with replies := setT g.replies tag ⟨st, data⟩ } ∧ t.mem = s.mem)
      answered (.memReply tag st data) st data ∧
      (r.tag.isSome = true →
        (r.tgt = 2 → r.sent + us 50000 ≤ s.now → answered (.hostTimeout tag) .dataLost []) ∧
        (r.tgt ≠ 2 → r.sent + us 1000 ≤ s.now → answered (.peerTimeout tag) .dataLost [])) ∧
      (r.tag = none ∨ r.tgt ≠ 2 ∨ s.now < r.sent + us 50000 → Rests (.hostTimeout tag) s) ∧
      (r.tag = none ∨ r.tgt = 2 ∨ s.now < r.sent + us 1000 → Rests (.peerTimeout tag) s)) ∧
    (∀ c n va, let walk := fun s' m => xlate s' c (.die m) n true .read va.toNat
      (∀ s1 p l, s.grade.columns = 384 → walk s 0 = .ok (s1, p, l) → exec (.walkDone c n va) s = .next s1) ∧
      (∀ s1 s2 p q l k, s.grade.columns = 768 → walk s 0 = .ok (s1, p, l) → walk s1 1 = .ok (s2, q, k) →
        exec (.walkDone c n va) s = .next s2) ∧
      (∀ x y, walk s 0 = .error x → walk s 1 = .error y → Rests (.walkDone c n va) s)) ∧
    (∀ fn c val, s.sees fn c = true → (s.ctx c).isCalm →
      Does (.tqConsWrite fn c val) s (fun t => t = s.setCtx c ((s.ctx c).setReg CtxReg.tqCons val)) ∧
      (∀ since, getT (s.ctx c).tqPend (val.toNat % 1024) = some (.group gid) →
        g.park = some ⟨.faultWait (val.toNat % 1024), since⟩ →
        (val.getLsbD 31 = false → Does (.tqReplay fn c val) s (fun t => t.group? gid = some { g with park := none } ∧
          getT (t.ctx c).tqPend (val.toNat % 1024) = none)) ∧
        (∀ u, s.team? (gid / 32) = some u → u.st = .running → Does (.tqAbandon fn c val) s (fun t => t.team? (gid / 32) = none)))) ∧
    (∀ fn c val, s.sees fn c = false → Rests (.tqConsWrite fn c val) s ∧ Rests (.tqReplay fn c val) s ∧ Rests (.tqAbandon fn c val) s)

/-- R107 to R115, R120, R236: a job starts once its engine has room and nothing conflicts with it, an engine serves the job of least slack, an item lands where the job says, a cancelled item fails with a record, and an
instance's load ends with its bytes, or with the residency STALE. How engines hold and choose jobs is the model's reading (log 69), what a handle does too
(log 72), and the failure, room and order of loads (log 87); conflicts are those of R110. -/
def Obligations.Engines : Prop :=
  (∀ (s : State) (j : Job), s.job? j.id = some j →
    (j.started = false → j.staged = false → inEngine s j = true → loadAhead s j = false → stagedAhead s j = false → landsUnder s j = false →
      (∀ k ∈ s.jobs, k.id < j.id → k.ctx = j.ctx → k.conflicts j = false) →
      Does (.copyJobStart j.id) s (fun t => t.job? j.id = some { j with started := true } ∧ t.mem = s.mem ∧ t.groups = s.groups)) ∧
    ((inEngine s j = false ∨ stagedAhead s j = true ∨ landsUnder s j = true ∨ ∃ k ∈ s.jobs, k.id < j.id ∧ k.ctx = j.ctx ∧ k.conflicts j = true) →
      Rests (.copyJobStart j.id) s) ∧
    (∀ k item, k ∈ s.jobs → k.sameEngine j = true → k.started = true → k.cancel = false → k.items.any k.isReady = true →
      k.goesBefore j s.clk = true → j.cancel = false → Rests (.copyItem j.id item) s) ∧
    (∀ item bs tids off w s1, item ∈ j.items → j.cancel = false → j.started = true → j.isReady item = true → hasService s j = true →
      s.part = none → j.overlaps = false → getT j.snap item = none → itemRead s j item = .ok (s1, bs) → j.dst = .teams tids off →
      j.role = 0 → j.ctl.toNat / 2 ^ 26 % 4 ≠ 2 →
      let tid := tids.getD (item / lineCount off j.size) j.tid
      let at_ := off + (j.range item).1
      s1.team? tid = some w → w.st ≠ .ended →
      Does (.copyItem j.id item) s (fun t => (∀ k ∈ t.jobs, k.id = j.id → item ∉ k.items) ∧
        ∃ u, t.team? tid = some u ∧ ∀ a, getB u.scratch a =
          if at_ ≤ a ∧ a < at_ + bs.length then bs.getD (a - at_) 0 else getB w.scratch a)) ∧
    (∀ item, item ∈ j.items → item ∉ j.zeroed → j.cancel = true → (s.ctx j.ctx).tqRoom = true →
      Does (.copyItem j.id item) s (fun t => (∀ g ∈ t.grids, g.ctx = j.ctx → g.serial = j.serial → g.failed = true) ∧
        ((∀ va, j.dst ≠ .glob va) → ∀ k ∈ t.jobs, k.id = j.id → item ∉ k.items)))) ∧
  (∀ (s s0 : State) (core c slot : Nat) (i : Inst) (r : Residency) (ps : List SourcePage), s.inst? core c slot = some i →
    getT (s.ctx c).resid slot = some r → i.loading = true → i.wait = none → loadHeld s i r.layout = false →
    sourcePages s (massifOf (core / 4)) c r.layout = (s0, ps) →
    let rs := sourceRanges ps
    let s1 := s0.engineMeets c (sourcePieces ps)
    ((∃ q ∈ rs, isHeld s0 q.1 = true) → Rests (.residencyLoadDone core c slot) s) ∧
    ((∀ q ∈ rs, isHeld s0 q.1 = false) →
      (loadEnd s0 ps = .held → Rests (.residencyLoadDone core c slot) s) ∧
      (∀ b0 bs k, loadEnd s0 ps = .bytes b0 → s1.inst? core c slot = some k → loadEnd s1 ps = .bytes bs →
        Does (.residencyLoadDone core c slot) s (fun t => ∃ i', t.inst? core c slot = some i' ∧ i'.loading = false ∧ i'.users = k.users ∧
          ∀ n, getB i'.data n = bs.getD n 0)) ∧
      (∀ cause va pa x, loadEnd s0 ps = .fail cause va pa → s.ctx? c = some x → x.tqRoom = true →
        Does (.residencyLoadDone core c slot) s (fun t => (∀ k ∈ t.insts, k.ctx = c → k.slot = slot → k.old = true) ∧
          ∃ r', getT (t.ctx c).resid slot = some r' ∧ r'.st = 3 ∧ r'.failed = true))))

/-! ## Events of grids, queues and teams -/

/-- R258, R263, R283, R285, R291, R292, R297: launches are accepted or refused, units are placed, a team's contributions drain in key order and
in one step, the ticket passes,
and a grid completes with its counter updated. The part's own accesses (log 30), the order among units and what keeps them
back (logs 43 and 49), how a refused launch completes (log 33), the drain of a team in one step (log 113) and how accesses meet the caches (log 12) are
the model's readings. -/
def Obligations.GridEvents : Prop :=
  (∀ (s : State) (tid : Nat) (q : LaunchQueue) (p : Pending) (rest : List Pending), getT s.launches tid = some q →
    q.entries = p :: rest → p.entry + 400 ≤ s.clk → (∀ c, q.last = some c → c + 100 ≤ s.clk) → (s.ctx q.ctx).isOpen = true →
    let accepts := fun (P : Grid → Prop) => Does (.launchAccept tid) s (fun t => (∃ g, P g ∧ t.grids = s.grids ++ [g] ∧
      g.ctx = q.ctx ∧ g.serial = (s.ctx q.ctx).serials ∧ g.next = 0) ∧
      (getT t.launches tid).map (·.entries) = some rest)
    (refusal s q.ctx p.bytes = none → Rec.mode p.bytes < 2 → accepts (fun g => g.bytes = p.bytes ∧ g.failed = false ∧ g.dead = false)) ∧
    (∀ n, refusal s q.ctx p.bytes = some n → ((s.ctx q.ctx).tqRoom = true ∨ n = 8) →
      Does (.launchAccept tid) s (fun t => (getT t.launches tid).map (·.entries) = some rest ∧
        ((Rec.counter p.bytes = 0 ∨ recCounter p.bytes = true) →
          (∀ g ∈ s.grids, ¬(g.ctx = q.ctx ∧ g.serial = (s.ctx q.ctx).serials)) → t.grids = s.grids) ∧
        ∃ g s0 t0, g.failed = true ∧ g.dead = true ∧ g.ctx = q.ctx ∧ g.serial = (s.ctx q.ctx).serials ∧
          Rec.counter g.bytes = (if recCounter p.bytes then 0 else Rec.counter p.bytes) ∧ Rec.incr g.bytes = Rec.incr p.bytes ∧
          s0.grids = s.grids ++ [g] ∧ (n = 8 → Rec.mode p.bytes ≠ 3 → s0.mem = s.mem) ∧
          exec (.gridComplete g.ctx g.serial) s0 = .next t0 ∧ t = { t0 with launches := t.launches }))) ∧
  (∀ (s : State) (tid : Nat) (q : LaunchQueue) (p : Pending) (rest : List Pending), getT s.launches tid = some q →
    q.entries = p :: rest → s.clk < p.entry + 400 → Rests (.launchAccept tid) s) ∧
  (∀ (s : State) (g : Grid) (rest : List Grid) (col layer : Nat), unitOrder s = g :: rest →
    (s.isPlacing = true → Rec.clsize g.bytes = 1 → Rec.mode g.bytes < 2 →
      placeUnit s g.ctx g.bytes [(s.nextTid, 0)] = some [(col, layer)] → swappedFirst s (Rec.prio g.bytes) = false →
      savedOn s col layer = [] → (∀ u ∈ s.teams, u.tid ≠ s.nextTid) →
      Does .dispatch s (fun t => ∃ u, t.teams = s.teams ++ [u] ∧ u.tid = s.nextTid ∧ u.ctx = g.ctx ∧ u.serial = g.serial ∧
        u.idx = g.next ∧ u.column = col ∧ u.layer = layer ∧ u.st = .running ∧ u.scratch = [] ∧ u.acc = [] ∧
        t.groups = s.groups ++ (List.range (Rec.groups g.bytes)).map (fun i =>
          Group.start (32 * s.nextTid + i) (BitVec.ofNat 57 (Rec.entry g.bytes))) ∧
        t.lastCol = some col ∧ t.mem = s.mem)) ∧
    (s.isPlacing = false → Rests .dispatch s) ∧
    (g.hasWaited s 100 = true → Does .backfillStop s (fun t => ∀ k ∈ t.grids, k.ctx = g.ctx → k.serial = g.serial → k.holds = true)) ∧
    (g.hasWaited s 100 = false → Rests .backfillStop s) ∧
    (∀ c, g.hasWaited s 50 = true → victimCtx s (lowTeams s g.ctx (Rec.prio g.bytes)) = some c →
      exec .dispatchPreempt s = .next (s.requestCtx c none))) ∧
  (∀ (s : State) (c n : Nat) (g : Grid), s.grid? c n = some g → g.wait = none →
    let gone := fun (t : State) => ∀ k ∈ t.grids, ¬(k.ctx = c ∧ k.serial = n)
    let records := fun (e : Instr) (d : Nat) (x : List Staged) (s1 : State) => Does e s (fun t =>
      t.mem = s1.mem ∧ ∃ k, t.grid? c n = some k ∧ k.drained = d ∧ k.staged = x)
    (gridQuiet s g = true → g.noCount = none → g.headers = [] → Rec.counter g.bytes = 0 → Does (.gridComplete c n) s gone) ∧
    (gridQuiet s g = false → Rests (.gridComplete c n) s) ∧
    (∀ s1 pa lvl, gridQuiet s g = true → g.noCount = none → g.headers = [] → g.counted = false → Rec.counter g.bytes ≠ 0 →
      ownPlaces (s.withAsks (gridKey c n)) 0 c (some (Rec.spur g.bytes)) .atomic [(Rec.counter g.bytes, 8)] =
        .ok (s1, [⟨Rec.counter g.bytes, 8, .loc pa, lvl⟩]) → localErr s1 (isLost s1) pa 8 = none →
      let old := leNat (readB s1.mem pa 8)
      Does (.gridComplete c n) s (fun t => gone t ∧
        leNat (readB t.mem pa 8) % 2 ^ 63 = (old + Rec.incr g.bytes) % 2 ^ 63 ∧
        (leNat (readB t.mem pa 8) < 2 ^ 63 ↔ g.failed = false ∧ old < 2 ^ 63) ∧
        ∀ a, (a < pa ∨ pa + 8 ≤ a) → getB t.mem a = getB s1.mem a)) ∧
    (∀ s1, g.drained ∈ g.done → nextRelease g g.drained = none → spillUnderWay s g g.drained = false →
      let rs := drainOrder g g.drained g.staged.length
      (∀ r ∈ rs, r.spilled = none) → appliesAll (s.withAsks (gridKey c n)) g rs = some s1 →
      records (.reductionDrain c n) (g.drained + 1) (rs.foldl (fun l r => l.erase r) g.staged) s1) ∧
    ((g.drained ∉ g.done ∨ nextRelease g g.drained ≠ none ∨ spillUnderWay s g g.drained = true) → Rests (.reductionDrain c n) s) ∧
    (∀ r s1, Rec.mode g.bytes = 1 → g.drained < g.next → spillUnderWay s g g.drained = false → nextRelease g g.drained = some r →
      r.spilled = none → applyStore (s.withAsks (gridKey c n)) g r = .ok s1 →
      records (.ticketPass c n) g.drained (g.staged.erase r) s1))

/-- R286 to R290, R392: what a notify, a command, a mapping, an eviction and a registration make of a queue. How commands are
looked at (log 90) and what a registration checks (log 91) are the model's readings. -/
def Obligations.QueueEvents : Prop :=
  (∀ (s : State) (n : Nat) (k : Queue), s.queue? n = some k →
    let becomes := fun (e : Instr) (P : Queue → Prop) => Does e s (fun t => ∃ k', t.queue? n = some k' ∧ P k')
    (∀ (val : Word), s.isOpen = true → k.st ≠ .error → 1 ≤ (val - k.tail).toNat → (val - k.tail).toNat ≤ 2 ^ 31 →
      (2 ^ k.logSize < (val - k.head).toNat → becomes (.queueNotify k.fn n val) (fun q => q.st = .error ∧ q.tail = k.tail)) ∧
      ((val - k.head).toNat ≤ 2 ^ k.logSize →
        becomes (.queueNotify k.fn n val) (fun q => q.tail = val ∧ q.head = k.head ∧ (k.st = .idle → q.st = .runnable) ∧
          (k.st ≠ .idle → q.st = k.st)))) ∧
    (∀ (fn : Nat) (val : Word), (k.st = .error ∨ fn ≠ k.fn ∨ val = k.tail) → Rests (.queueNotify fn n val) s) ∧
    let spent := ∃ f, k.fetched = some f ∧ (f + us 2 ≤ s.now ∨ 64 ≤ k.tries)
    (∀ s1 cmd, k.hasCommand s = true → ¬spent → fetchCommand s n k = .ok (s1, cmd) →
      let s0 := { s1 with ownIn := [] }.setQueue n { k with fetched := none, tries := 0 }
      (fieldB cmd 64 2 = 2 * (k.head.toNat % 32768) + 1 → heldByAfter s0 n k cmd = false →
        (∀ s2, fieldB cmd 66 1 ≠ 1 →
          acceptRecord s0 k.ctx (commandRecord cmd) ⟨some n, 0xFFFFFFFF, 0, 0, k.head.toNat⟩ false (.queue n) = .ok s2 →
          Does (.queueLaunchCommand n) s (fun t => t.grids = s2.grids ∧ ∃ q, t.queue? n = some q ∧ q.head = k.head + 1)) ∧
        (∀ s3 bs, fieldB cmd 66 1 = 1 →
          ownRead ((s0.doneAsks (queueKey n false)).withAsks (queueKey n true)) 0 k.ctx (some 0) (fieldB cmd 0 8) 8 = .ok (s3, bs) →
          fieldB cmd 8 8 % 2 ^ 63 ≤ leNat bs % 2 ^ 63 → becomes (.queueWaitCommand n) (fun q => q.head = k.head + 1))) ∧
      (fieldB cmd 64 2 = 2 * (k.head.toNat % 32768) + 1 → heldByAfter s0 n k cmd = true → ∀ i,
        (i = .queueLaunchCommand n ∨ i = .queueWaitCommand n) → becomes i (fun q => q.head = k.head ∧ q.st = .mapped ∧ q.fetched = none)) ∧
      (fieldB cmd 64 2 ≠ 2 * (k.head.toNat % 32768) + 1 → ∀ i, (i = .queueLaunchCommand n ∨ i = .queueWaitCommand n) →
        becomes i (fun q => q.head = k.head ∧ q.st = .mapped ∧ q.fetched = some (k.fetched.getD s.now) ∧
          q.tries = if k.fetched.isSome then k.tries + 1 else 0))) ∧
    (k.hasCommand s = true → (spent → becomes (.queueSequence n) (fun q => q.st = .error)) ∧ (¬spent → Rests (.queueSequence n) s)) ∧
    (∀ c, k.st = .mapped → k.head = k.tail → k.quiet = some c →
      (c + us 20 ≤ s.now → becomes (.queueIdle n) (fun q => q.st = .idle)) ∧
      (s.now < c + us 20 → Rests (.queueIdle n) s)) ∧
    (nextRunnable s = some (n, k) → (mappedQueues s).length < 256 →
      becomes .queueMap (fun q => q.st = .mapped ∧ q.head = k.head ∧ q.tail = k.tail)) ∧
    (∀ r, nextRunnable s = some r → evictee s = some (n, k) → 256 ≤ (mappedQueues s).length → k.qprio < r.2.qprio →
      becomes .queueEvict (fun q => q.st = if k.head = k.tail then .idle else .runnable)) ∧
    (∀ r, nextRunnable s = some r → 256 ≤ (mappedQueues s).length → evictee s = some (n, k) → r.2.qprio ≤ k.qprio →
      Rests .queueEvict s)) ∧
  (∀ (s : State) (fn c : Nat) (val : Word), s.sees fn c = true →
    let n := val.toNat % 65536
    let status := fun (t : State) (ok : Bool) => (t.ctx c).reg CtxReg.qregCmd = BitVec.ofNat 32 (n + (if ok then 0 else 2 ^ 29))
    (∀ k, s.queue? n = none → (s.ctx c).isOpen = true → descQueue s c = some k →
      Does (.qregRegister fn c val) s (fun t => status t true ∧ t.queue? n = some k ∧ k.st = .idle ∧ k.ctx = c)) ∧
    ((s.queue? n ≠ none ∨ descQueue s c = none) →
      Does (.qregRegister fn c val) s (fun t => status t false ∧ t.queue? n = s.queue? n)) ∧
    (∀ k, s.queue? n = some k → k.ctx = c →
      Does (.qregUnregister fn c val) s (fun t => status t true ∧ t.queue? n = none) ∧
      (k.st = .error → Does (.qregReset fn c val) s (fun t => status t true ∧
        ∃ q, t.queue? n = some q ∧ q.st = .idle ∧ q.head = k.tail ∧ q.tail = k.tail)) ∧
      (k.st ≠ .error → Does (.qregReset fn c val) s (fun t => status t false ∧ t.queue? n = some k))) ∧
    (s.queue? n = none → Does (.qregUnregister fn c val) s (fun t => status t false) ∧
      Does (.qregReset fn c val) s (fun t => status t false))) ∧
  (∀ (s : State) (c : Nat) (cmd : List Byte), cmd.length = 128 →
    (fieldB cmd 66 1 < 2 → commandRecord cmd = cmd.take 64) ∧ (2 ≤ fieldB cmd 66 1 → refusal s c (commandRecord cmd) = some 1))

/-- R269, R300, R343 to R349: a request asks every team of a context to yield, a deadline stops it, the cut leads into the save, a save that takes too long
ends the team, and a restored team is back on a core; a swapped cluster is cut together. Logical clocks
that advance together by a free length are the model's choice (log 36); the pages of a core, the order of restores, one record for each team, what counts as
parked, quiet points and the scope of a cut are its readings (logs 37 and 43 to 47). -/
def Obligations.PreemptionEvents : Prop :=
  (∀ (s : State) (tid : Nat) (w : Team), s.team? tid = some w →
    ((∀ u ∈ s.unit w, swapReady s u = true) → Does (.swapOut tid) s (fun t =>
      ∀ u ∈ s.unit w, ∃ u', t.team? u.tid = some u' ∧ u'.st = .cut ∧ u'.swap = true)) ∧
    ((∃ u ∈ s.unit w, swapReady s u = false) → Rests (.swapOut tid) s) ∧
    (∀ d, w.st = .yielding → w.deadline = some d →
      (d ≤ s.clk → Does (.preemptDeadline tid) s (fun t => ∀ g ∈ t.groups, g.gid / 32 = tid → g.ended = false → g.stop.isSome = true)) ∧
      (s.clk < d → Rests (.preemptDeadline tid) s)) ∧
    (∀ gid g, w.st = .cut → cutDrained s w = true → (s.groups.map (·.gid)).Nodup → s.group? gid = some g → gid / 32 = tid →
      g.ended = false → g.saved = false → g.hwsaved = false → g.trap.masked = false → (s.ctx w.ctx).reg64 CtxReg.trapVec ≠ 0 →
      Does (.cutComplete tid) s (fun t => (∃ u, t.team? tid = some u ∧ u.st = .saving) ∧
        ∃ h, t.group? gid = some h ∧ h.trap.masked = true ∧ h.trap.cause = 32 ∧ h.stop = none ∧
          ∀ l, laneBit g.regs.live l = true → h.regs.getPc l = BitVec.ofNat 57 ((s.ctx w.ctx).reg64 CtxReg.trapVec))) ∧
    (w.st = .cut → cutDrained s w = false → Rests (.cutComplete tid) s) ∧
    (∀ g, s.group? g.gid = some g → g.gid / 32 = tid → (w.st = .saving ∨ w.st = .restoring) → g.inRoutine = true → g.ended = false →
      g.saved = false →
      (g.entered + ((s.ctx w.ctx).reg CtxReg.saveLimit).toNat < s.clk → Does (.saveTimeout g.gid) s (fun t => t.team? tid = none)) ∧
      (s.clk ≤ g.entered + ((s.ctx w.ctx).reg CtxReg.saveLimit).toNat → Rests (.saveTimeout g.gid) s)) ∧
    (∀ gr col layer single s1 s2, s.grid? w.ctx w.serial = some gr → s.unit w = [w] → mayRestore s w = true →
      unitFirst s (Rec.prio gr.bytes) = false → swapFirst s (Rec.prio gr.bytes) = false →
      restorePlaces { s with free := s.free + 1 } [w] w.ctx gr.bytes = some ([(col, layer)], single) →
      let s0 := { s with free := s.free + 1, lastCol := if single then some col else s.lastCol }
      let home := w.onDie && w.column == col && w.layer == layer
      let after := (s0.setTeam { w with column := col, layer := layer, st := .restoring }).takeCore tid home
      s0.coverSaved after col layer = .ok s1 → s1.team? tid = some w →
      restoreTeam (s1.withAsks (teamKey w)) (after.team? tid) w col layer (restoreSlot s1 w col) = .ok s2 →
      Does (.teamRestore tid) s (fun t => ∃ u, t.team? tid = some u ∧ u.column = col ∧ u.layer = layer ∧ u.onDie = false ∧
        u.st ≠ .saved)) ∧
    (mayRestore s w = false → w ∈ s.unit w → Rests (.teamRestore tid) s) ∧
    (∀ gr, s.grid? w.ctx w.serial = some gr → (unitFirst s (Rec.prio gr.bytes) = true ∨ swapFirst s (Rec.prio gr.bytes) = true) →
      Rests (.teamRestore tid) s) ∧
    Does .logicalClockAdvance s (fun t => (t.team? tid) = some { w with tt := w.tt + Config.leaseLength } ∧ t.mem = s.mem ∧
      t.coreTt = s.coreTt.map (fun k => (k.1, k.2 + Config.leaseLength)))) ∧
  (∀ (s : State) (fn c : Nat) (val : Word), s.sees fn c = true → (s.ctx c).isUp = true → (s.teams.map (·.tid)).Nodup →
    (val.getLsbD 0 = true → Does (.preemptRequest fn c val) s (fun t =>
      (∀ u ∈ t.teams, u.ctx = c → u.st = .saved ∨ u.st = .ended ∨ (u.deadline.isSome = true ∧ u.st ≠ .running)) ∧
      (∀ u ∈ s.teams, u.ctx = c → u.st ≠ .saved → u.st ≠ .ended →
        let d := s.clk + deadlineClk (s.ctx c) (s.recField Rec.cls u)
        ∃ u', t.team? u.tid = some u' ∧ u'.deadline = some (match u.deadline with | some d0 => min d0 d | none => d)) ∧
      ((∃ u ∈ s.teams, u.ctx = c ∧ u.st ≠ .saved ∧ u.st ≠ .ended) →
        (t.ctx c).reg CtxReg.preempt = 1 ∧ (t.ctx c).isRequested = true))) ∧
    (val.getLsbD 0 = false → Rests (.preemptRequest fn c val) s))

/-- R372 to R382: sensors, Scree's decisions and moves, the rails, the operating point, the power cap and its lease, and the thermal
emergency. Forecasts and spreads (logs 50 and 51), choices that lapse (log 52), steps of enforcement (log 53) and the order of an emergency's saves
(log 54) are the model's readings. -/
def Obligations.HeatAndPower : Prop :=
  ∀ (s : State),
    (∀ core temp outlet, core < 4 * s.grade.columns → Does (.sensorSample core temp outlet) s (fun t =>
      t.power.outlet = outlet ∧ ∃ k, getT t.sensors core = some k ∧ k.temp = temp ∧
        k.hot = (decide (380 ≤ temp.toNat) || (isHot s core && decide (368 ≤ temp.toNat))) ∧
      (s.power.emerg = none → 440 ≤ temp.toNat → t.power.crit = true))) ∧
    (∀ col, col < s.grade.columns →
      let k := s.col col
      let decides := fun (P : Column → Prop) => Does (.screeDecision col) s (fun t => P (t.col col))
      let s' := s.setCol col { k with
        decided := some s.now
        seen := (List.range 4).map (fun l => (getT s.sensors (4 * col + l)).getD ⟨0, false⟩) }
      ((∃ d, k.decided = some d ∧ s.now < d + us 10) → Rests (.screeDecision col) s) ∧
      (k.choice = none → k.moving = none → (∀ d, k.decided = some d → d + us 10 ≤ s.now) →
        decides (fun k' => k'.decided = some s.now) ∧
        (hotLayers s col = [] →
          decides (fun k' => k'.rate = if k.cool = 0 then k.rate else min 16 (k.rate + 1))) ∧
        (hotLayers s col ≠ [] → (∀ l ∈ hotLayers s col, screeChoice s' col l = none) →
          decides (fun k' => k'.rate = if k.cooling = 0 then k.rate else max 4 (k.rate - 1))) ∧
        (∀ l c, (hotLayers s col).find? (fun l => (screeChoice s' col l).isSome) = some l → screeChoice s' col l = some c →
          decides (fun k' => k'.choice = some (c.1, c.2, s.now) ∧ k'.rate = k.rate)))) ∧
    (∀ col tid layer since w, (s.col col).choice = some (tid, layer, since) → s.team? tid = some w →
      let moves := fun (e : Instr) => Does e s (fun t => (t.col col).moving = some (tid, layer, s.clk) ∧ (t.col col).choice = none ∧
        ∃ u, t.team? tid = some u ∧ u.st = .migrating ∧ u.layer = w.layer)
      ((s.col col).defer = none → (s.col col).moving = none →
        (since + us 10 ≤ s.now → Does (.migrationStart col) s (fun t => (t.col col).choice = none ∧ t.teams = s.teams)) ∧
        (s.now < since + us 10 → w.st = .running → isFree s w = true → isTarget s w layer = true → isQuiet s w = true →
          ((pendingLandings s w = 0 ∨ 4096 ≤ pendingLandings s w) → moves (.migrationStart col)) ∧
          (0 < pendingLandings s w → pendingLandings s w < 4096 →
            Does (.migrationStart col) s (fun t => (t.col col).defer = some s.now ∧ (t.col col).moving = none ∧
              ∃ u, t.team? tid = some u ∧ u.st = .migrating)))) ∧
      (∀ d, (s.col col).defer = some d →
        (d + us 2 ≤ s.now → moves (.migrationDeferExpiry col)) ∧
        (s.now < d + us 2 → Rests (.migrationDeferExpiry col) s))) ∧
    (∀ col tid layer from_ w, (s.col col).moving = some (tid, layer, from_) → s.team? tid = some w → (s.teams.map (·.tid)).Nodup →
      (from_ + 64 + (moveBytes s w + 1023) / 1024 ≤ s.clk → w.deadline = none → w.st = .migrating → savedOn s col layer = [] → Does (.migrationDone col) s (fun t =>
        (t.col col).moving = none ∧ ∃ u, t.team? tid = some u ∧ u.layer = layer ∧ u.column = w.column ∧ u.st = .running ∧
          u.scratch = w.scratch ∧ u.acc = w.acc) ∧
        Does (.migrationDone col) s (fun t => t.coreTime (4 * col + layer) = max (s.coreTime (4 * col + layer)) w.tt.toNat)) ∧
      (s.clk < from_ + 64 + (moveBytes s w + 1023) / 1024 → Rests (.migrationDone col) s)) ∧
    (∀ m rail a b c d, rail < 4 →
      let hi := max (max a b) (max c d)
      let lo := min (min a b) (min c d)
      let old := (getT s.balances (4 * m + rail)).getD ⟨[16, 16, 16, 16], [0, 0, 0, 0], 0, [0, 0, 0, 0], 0⟩
      let gives := fun (P : Balance → Prop) =>
        Does (.balanceWindow m rail [a, b, c, d]) s (fun t => ∃ k, getT t.balances (4 * m + rail) = some k ∧ P k)
      (s.now < old.ended + us 1 → Rests (.balanceWindow m rail [a, b, c, d]) s) ∧
      (m < s.grade.columns / 384 → old.ended + us 1 ≤ s.now → gives (fun k => k.load = [a, b, c, d] ∧ k.ended = s.now ∧
        k.spread = (if hi = 0 then 0 else (hi - lo) * 100 / hi))) ∧
      (m < s.grade.columns / 384 → old.ended + us 1 ≤ s.now → 10 * hi < (hi - lo) * 100 → gives (fun k =>
        k.rates = (old.rates.zip [a, b, c, d]).map (fun p => if p.2 = hi then max 4 (p.1 - 1) else p.1) ∧
        k.ballast = [a, b, c, d].map (fun x => min 8 ((hi - x) * 100 / hi)))) ∧
      (m < s.grade.columns / 384 → old.ended + us 1 ≤ s.now → (hi - lo) * 100 ≤ 10 * hi → gives (fun k => k.rates = [16, 16, 16, 16] ∧ k.ballast = [0, 0, 0, 0])) ∧
      (s.grade.columns / 384 ≤ m → Rests (.balanceWindow m rail [a, b, c, d]) s)) ∧
    (∀ p, p ≤ 12 → Does (.clockPointChange p) s (fun t => t.power.point = p ∧ t.now = s.now ∧ t.mem = s.mem)) ∧
    (∀ p, 12 < p → Rests (.clockPointChange p) s) ∧
    (∀ p, s.power.since + us 1000 ≤ s.now → (if s.power.lease.isSome then s.power.cap.toNat else s.power.floor.toNat) < p →
      (s.power.point ≠ 0 → Does (.powerEnforce p) s (fun t => t.power.point = s.power.point - 1)) ∧
      (s.power.point = 0 → Does (.powerEnforce p) s (fun t => t.power = s.power ∧
        ∀ c, c < s.grade.columns → (t.col c).rate = max 4 ((s.col c).rate - 1)))) ∧
    (∀ p, p ≤ (if s.power.lease.isSome then s.power.cap.toNat else s.power.floor.toNat) → Rests (.powerEnforce p) s) ∧
    (∀ val : Word,
      let seq := val.extractLsb' 16 16
      let cap := val.extractLsb' 0 10
      (s.starting = false → s.fw.recovery = false → 200 ≤ cap.toNat → cap.toNat ≤ 800 → (s.power.first = true ∨ (seq ≠ s.power.seq ∧ (seq - s.power.seq).toNat ≤ 2 ^ 15)) →
        Does (.pwrCap val) s (fun t => t.power.cap = cap ∧ t.power.seq = seq ∧ t.power.lease = some (s.now + us 50000) ∧
          t.power.first = false)) ∧
      ((s.starting = true ∨ s.fw.recovery = true ∨ cap.toNat < 200 ∨ 800 < cap.toNat ∨ (s.power.first = false ∧ seq = s.power.seq)) → Rests (.pwrCap val) s)) ∧
    (∀ e, s.power.lease = some e →
      (e ≤ s.now → exec .leaseExpired s =
        .next ({ s with power := { s.power with lease := none, since := s.now } }.postDev 8 s.power.seq.toNat 0)) ∧
      (s.now < e → Rests .leaseExpired s)) ∧
    (s.power.emerg = none → isCritical s = true → Does .thermEmerg s (fun t => t.power.emerg = some s.now ∧
      ∀ c, c < s.grade.columns → (t.col c).rate = 4)) ∧
    (isCritical s = false → Rests .thermEmerg s) ∧
    (∀ e, s.power.emerg = some e →
      (e + us 50000 ≤ s.now → Does .emergDeadline s (fun t => ∀ u ∈ t.teams, u.isResident = false)) ∧
      (s.now < e + us 50000 → Rests .emergDeadline s) ∧
      (s.power.railsOff = false → (∀ u ∈ s.teams, u.isResident = false ∧ ¬(u.st = .saved ∧ u.onDie = true)) →
        exec .emergRailsOff s = .next { s with power := { s.power with railsOff := true } })) ∧
    (∀ val : Word, s.starting = false → s.fw.recovery = false →
      let lim := val.extractLsb' 0 8
      let limit := if 40 ≤ lim.toNat ∧ lim.toNat ≤ 80 then lim else s.power.limit
      let over_ := if limit.toNat < s.power.outlet.toNat then some (s.power.hotOut.getD s.now) else none
      ((val.getLsbD 31 = true ∧ s.power.railsOff = true ∧ (∀ k ∈ s.sensors, k.2.temp.toNat < 340) ∧ s.power.outlet.toNat < limit.toNat) →
        Does (.thermResume val) s (fun t => t.power.railsOff = false ∧ t.power.emerg = none ∧ t.power.limit = limit)) ∧
      (val.getLsbD 31 = false → Does (.thermResume val) s (fun t => t.power = { s.power with limit := limit, hotOut := over_ })))

/-! ## Events of the host, the fabric and start-up -/

/-- R307, R343, R361 to R364, R384, R387 to R392: what writes in a context's block and in the event queue do. What creation
checks (log 92), what destruction waits for (log 93), which Cairn writes are taken and what an invalidation waits for (logs 94 and 55), and which registers a function may
write (log 106) are the model's readings. -/
def Obligations.ContextEvents : Prop :=
  (∀ (s : State) (fn c : Nat) (val : Word),
    (s.sees fn c = false → Rests (.contextCreate fn c val) s ∧ Rests (.contextDestroy fn c val) s ∧ Rests (.hostInvalidate fn c val) s ∧
      Rests (.poolPush fn c val) s ∧ Rests (.cairnDirWrite fn c val) s ∧ Rests (.cairnConsWrite fn c val) s ∧
      Rests (.cairnProdWrite fn c val) s ∧ Rests (.cairnEndWrite fn c val) s) ∧
    (s.sees fn c = true →
      let x := s.ctx c
      let reg := fun (e : Instr) (off : Nat) (v : Word) => Does e s (fun t => (t.ctx c).reg off = v)
      let owner := if fn = 0 then val.toNat / 2 ^ 18 % 64 else x.owner
      (x.isUp = false → x.destroying = none → val.getLsbD 31 = true →
        (cfgErr x = 0 → Does (.contextCreate fn c val) s (fun t => (t.ctx c).isUp = true ∧ (t.ctx c).owner = owner ∧
          (t.ctx c).reg CtxReg.tqProd = 0 ∧ (t.ctx c).reg CtxReg.tqCons = 0 ∧ (t.ctx c).shapes = [] ∧ (t.ctx c).resid = [])) ∧
        (cfgErr x ≠ 0 → Does (.contextCreate fn c val) s (fun t => (t.ctx c).isUp = false ∧
          ((t.ctx c).reg CtxReg.ctl).toNat % 1024 = cfgErr x))) ∧
      (x.isUp = true → Rests (.contextCreate fn c val) s) ∧
      (x.isUp = true → val.getLsbD 31 = false → Does (.contextDestroy fn c val) s (fun t => (t.ctx c).isUp = false ∧
        (t.ctx c).destroying = some s.clk ∧ (∀ q ∈ t.queues, q.2.ctx ≠ c) ∧ (∀ q ∈ t.launches, q.2.ctx ≠ c))) ∧
      (let n := val.toNat % 2 ^ 13
       let g := val.toNat / 2 ^ 16 % 4
       let size := if g = 0 then 2 ^ 16 else if g = 1 then 2 ^ 21 else 2 ^ 30
       let va := x.reg64 CtxReg.invalBase
       val.getLsbD 31 = true → (x.reg CtxReg.invalCmd).getLsbD 30 = false →
       ((g = 3 ∨ (n ≠ 0 ∧ n ≤ 4096 ∧ 2 ^ 57 ≤ va)) → reg (.hostInvalidate fn c val) CtxReg.invalCmd
         (BitVec.ofNat 32 (g * 2 ^ 16 + n + 2 ^ 29))) ∧
       (g ≠ 3 → n ≠ 0 → n ≤ 4096 → va < 2 ^ 57 → Does (.hostInvalidate fn c val) s (fun t =>
         (t.ctx c).reg CtxReg.invalCmd = BitVec.ofNat 32 (g * 2 ^ 16 + n + 2 ^ 30) ∧ t.mem = (s.landLate (fun _ => true)).mem ∧
         (∀ w ∈ t.walks, w.ctx = c → w.base + entrySpan w.level ≤ va / size * size ∨ min (va / size * size + n * size) (2 ^ 57) ≤ w.base) ∧
         ∀ e ∈ s.tlb, e ∈ t.tlb ↔ ¬(e.ctx = c ∧ e.base < min (va / size * size + n * size) (2 ^ 57) ∧
           va / size * size < e.base + e.size)))) ∧
      ((val = 0 ∨ x.reg CtxReg.poolPages ≤ val ∨ refCount s x val.toNat ≠ 0) → Rests (.poolPush fn c val) s) ∧
      (∀ y, s.ctx? c = some y → val ≠ 0 → val < y.reg CtxReg.poolPages → refCount s y val.toNat = 0 →
        (∀ i, i < 4 → localExists s (freeAt y (y.reg CtxReg.poolTop).toNat + i) = true ∧ isLost s (freeAt y (y.reg CtxReg.poolTop).toNat + i) = false) →
        Does (.poolPush fn c val) s (fun t =>
        (t.ctx c).reg CtxReg.poolTop = y.reg CtxReg.poolTop + 1 ∧
        leNat (readB t.mem (freeAt y (y.reg CtxReg.poolTop).toNat) 4) = val.toNat)) ∧
      (s.grade.hasCairn = true →
        ((∀ g ∈ s.grids, g.ctx = c → g.dead = false → Rec.mode g.bytes < 2) → val.toNat ≤ 2 → Does (.cairnDirWrite fn c val) s (fun t =>
          (t.ctx c).reg CtxReg.cairnDir = val ∧ (t.ctx c).reg CtxReg.cairnProd = 0 ∧ (t.ctx c).reg CtxReg.cairnCons = 0 ∧
          (t.ctx c).reg CtxReg.cairnEnd = 0 ∧ (t.ctx c).diverged = false)) ∧
        ((2 < val.toNat ∨ ∃ g ∈ s.grids, g.ctx = c ∧ g.dead = false ∧ (Rec.mode g.bytes = 2 ∨ Rec.mode g.bytes = 3)) → Rests (.cairnDirWrite fn c val) s) ∧
        (x.reg CtxReg.cairnDir = 1 → reg (.cairnConsWrite fn c val) CtxReg.cairnCons val ∧ Rests (.cairnProdWrite fn c val) s) ∧
        (x.reg CtxReg.cairnDir = 2 → reg (.cairnProdWrite fn c val) CtxReg.cairnProd val ∧ Rests (.cairnConsWrite fn c val) s) ∧
        reg (.cairnEndWrite fn c val) CtxReg.cairnEnd (val &&& 1)) ∧
      reg (.registerWrite fn (0x100000 + 0x1000 * c + CtxReg.tqThresh) val) CtxReg.tqThresh val ∧
      (x.isUp = true → Rests (.registerWrite fn (0x100000 + 0x1000 * c + CtxReg.spurSlots) val) s) ∧
      (x.isUp = false →
        reg (.registerWrite fn (0x100000 + 0x1000 * c + CtxReg.spurSlots) val) CtxReg.spurSlots val))) ∧
  (∀ (s : State) (c : Nat),
    (stillFlying s (s.ctx c).inval = false → Does (.hostInvalidateDone c) s (fun t => ∀ y, t.ctx? c = some y → (y.reg CtxReg.invalCmd).getLsbD 30 = false)) ∧
    (stillFlying s (s.ctx c).inval = true → Rests (.hostInvalidateDone c) s) ∧
    (∀ d, (s.ctx c).destroying = some d → (∀ j ∈ s.jobs, j.ctx ≠ c) → (∀ g ∈ s.grids, g.ctx = c → g.wait.isSome = true) →
      Does (.ctxDown c) s (fun t => (t.ctx c).isUp = false ∧ (t.ctx c).destroying = none ∧ (t.ctx c).owner = (s.ctx c).owner ∧
        (∀ g ∈ t.grids, g.ctx ≠ c) ∧ (∀ u ∈ t.teams, u.ctx ≠ c) ∧ (∀ i ∈ t.insts, i.ctx ≠ c) ∧ (∀ e ∈ t.tlb, e.ctx ≠ c) ∧ (∀ w ∈ t.walks, w.ctx ≠ c))) ∧
    (∀ fn x, 0 < fn → fn < 64 → s.ctx? c = some x → x.isUp = true → x.owner = fn →
      Does (.vfFlr fn) s (fun t => (t.ctx c).isUp = false ∧ (t.ctx c).destroying.isSome = true)) ∧
    (∀ fn (val : Word), fn < 64 → s.starting = false →
      ((s.ring fn).held = [] → Does (.evqConsWrite fn val) s (fun t => t.ring fn = { s.ring fn with cons := val })) ∧
      Does (.evqPendClear fn val) s (fun t => t.ring fn = { s.ring fn with pend := (s.ring fn).pend &&& ~~~val })))

/-- R383 to R386, R394 to R397, R405: the host's accesses through BAR4, peers' requests, links and ports, and SPDM. The model's readings
are those of BAR4 (log 96), of a lost link (log 97), of peers and routes (log 98), of ports and keys (log 99) and of the answers of SPDM (log 100). -/
def Obligations.FabricEvents : Prop :=
  ∀ (s : State), s.starting = false → s.fw.recovery = false →
    let sends := fun (e : Instr) (m : OutMsg) => exec e s = .next { s with outbox := s.outbox ++ [m] }
    (∀ off n, s.pcieUp = true → 0 < n → off + n ≤ 2 ^ 41 → isHeld s off = true → Rests (.hostBar4Read off n) s) ∧
    (∀ off n, s.pcieUp = true → 0 < n → off + n ≤ 2 ^ 41 → isHeld s off = false →
      (runErr s off n = none → Does (.hostBar4Read off n) s (fun t =>
        t.outbox = s.outbox ++ [.hostData (readB s.mem off n)] ∧ t.mem = s.mem ∧ t.groups = s.groups)) ∧
      (∀ pa, runErr s off n = some (true, pa) → sends (.hostBar4Read off n) .hostAbort) ∧
      (∀ pa, runErr s off n = some (false, pa) → sends (.hostBar4Read off n) .hostUnsupported)) ∧
    (∀ off n, 2 ^ 41 < off + n → sends (.hostBar4Read off n) .hostUnsupported) ∧
    (∀ off (bs : List Byte), bs ≠ [] → off + bs.length ≤ 2 ^ 41 → isHeld s off = false →
      ((∀ i, i < bs.length → localExists s (off + i) = true ∧ isLost s (off + i) = false) → Does (.hostBar4Write off bs) s (fun t =>
        ∀ a, getB t.mem a = if off ≤ a ∧ a < off + bs.length then bs.getD (a - off) 0 else getB s.mem a)) ∧
      (∀ i, i < bs.length → localExists s (off + i) = false → (∀ j, j < i → localExists s (off + j) = true) →
        exec (.hostBar4Write off bs) s = .next ({ s with pcieUp := true }.postDev 13 0 (off + i)))) ∧
    (∀ off o (b : Bool) (x c : DWord), let n := if b then 8 else 4
      s.pcieUp = true → (o = .add ∨ o = .xchg ∨ o = .cas) → off % n = 0 → off + n ≤ 2 ^ 41 → isHeld s off = false → localErr s (isLost s) off n = none →
      let old := leNat (readB s.mem off n)
      Does (.hostAtomicop off o b x c) s (fun t => t.outbox = s.outbox ++ [.hostData (leBytes n old)] ∧
        leNat (readB t.mem off n) = newValue o b old x.toNat c.toNat % 256 ^ n ∧
        ∀ a, (a < off ∨ off + n ≤ a) → getB t.mem a = getB s.mem a)) ∧
    (∀ lost, Does (.pcieDown lost) s (fun t => t.pcieUp = false ∧
      ((s.remote.map (·.1)).Nodup → (∀ tag r, getT s.remote tag = some r → r.tgt = 2 → r.tag = none → r.own = none) → t.mem = s.mem) ∧
      ∀ tag r, getT s.remote tag = some r → (r.isPosted = true ∨ (r.tgt = 2 ∧ r.tag = none)) → getT t.remote tag = none)) ∧
    (∀ chip (r : MemReq), r.op = .rd32 → anyPortUp s = true → isHeld s r.pa = false →
      (s.peerBound 0x2008 ≤ r.pa → r.pa + 32 ≤ s.peerBound 0x2010 → localErr s (isLost s) r.pa 32 = none → Does (.peerRequest chip r) s (fun t =>
          t.outbox = s.outbox ++ [.peerReply chip r.tag .ok (readB s.mem r.pa 32)] ∧ t.mem = s.mem)) ∧
      ((r.pa < s.peerBound 0x2008 ∨ s.peerBound 0x2010 < r.pa + 32) → sends (.peerRequest chip r) (.peerReply chip r.tag .absent []))) ∧
    (∀ chip (r : MemReq), anyPortUp s = false → Rests (.peerRequest chip r) s) ∧
    (∀ p peer tx, p < s.grade.ports →
      ((s.port p).up = true → Does (.linkDown p) s (fun t => (t.port p).up = false ∧ (t.port p).peer = (s.port p).peer) ∧
        Rests (.linkUp p peer) s ∧
        Does (.keyRollover p tx) s (fun t => t.port p = if tx then { s.port p with txEpoch := (s.port p).txEpoch + 1 }
          else { s.port p with rxEpoch := (s.port p).rxEpoch + 1 })) ∧
      ((s.port p).up = false → Rests (.linkDown p) s ∧ Rests (.keyRollover p tx) s ∧
        ((s.fw.life = 1 ∨ s.fw.life = 2) → Does (.linkUp p peer) s (fun t =>
          t.port p = { s.port p with up := true, peer := peer, txEpoch := 0, rxEpoch := 0 })) ∧
        ((s.fw.life = 0 ∨ s.fw.life = 3) → Rests (.linkUp p peer) s)) ∧
      Does (.portDisable p) s (fun t => t.port p = { s.port p with enable := false })) ∧
    (∀ via code, (∀ p, via = some p → p < s.grade.ports) →
      let refused := (s.fw.life = 0 ∨ s.fw.life = 3) ∧ (code = .challenge ∨ code = .keyExchange)
      (refused → sends (.spdmRequest via code) (.spdm via code true [])) ∧
      (¬refused → Does (.spdmRequest via code) s (fun t => ∃ bs, t.outbox = s.outbox ++ [.spdm via code false bs] ∧
        (code = .getMeasurements → ∃ more, bs = measurements s ++ more))))

/-- R399 to R403: a reset, what it keeps, the slot that runs after it, and the commands of firmware and life cycle. What
a reset keeps (log 101) and how the commands end (log 103) are the model's readings. -/
def Obligations.BootEvents : Prop :=
  (∀ (s : State), exec .warmReset s = exec .coldReset s ∧
    Does .coldReset s (fun t => t.starting = true ∧ t.mem = [] ∧ t.ctxs = [] ∧ t.grids = [] ∧ t.teams = [] ∧ t.groups = [] ∧ t.jobs = [] ∧
      t.queues = [] ∧ t.tlb = [] ∧ t.clk = 0 ∧ t.grade = s.grade ∧ t.hostMem = s.hostMem ∧ t.fw.fused = s.fw.fused ∧
      t.fw.life = s.fw.pending.getD s.fw.life ∧ t.fw.nonce = none ∧ t.fw.pending = none ∧
      (t.fw.recovery = true ↔ t.fw.running = none) ∧ t.hbm.length = s.grade.stacks ∧ t.walks = [] ∧ t.remote = [] ∧ t.caches = []) ∧
    (s.starting = true → ∀ off n, exec (.hostBar4Read off n) s = .next s) ∧
    (s.starting = true → ∀ code, exec (.spdmRequest none code) s = .next { s with outbox := s.outbox ++ [.hostRetry] }) ∧
    exec .startupDone s = .next { s with starting := false } ∧
    (∀ (val : Word) (tok : Option Token) (ent : BitVec 128) (ok : Bool),
      let op := val.toNat / 2 ^ 28
      let slot := val.getLsbD 24
      let len := val.extractLsb' 0 16
      s.starting = false → s.fw.status ≠ 1 →
      (op = 1 → (s.fw.running = some slot ∨ len = 0 ∨ 16384 < len.toNat) →
        Does (.lcWriteImage val) s (fun t => t.fw.status = 2 ∧ t.fw.writing = s.fw.writing)) ∧
      (op = 1 → s.fw.running ≠ some slot → len ≠ 0 → len.toNat ≤ 16384 →
        Does (.lcWriteImage val) s (fun t => t.fw.status = 1 ∧ t.fw.writing = true ∧ t.fw.selSlot = slot)) ∧
      (op = 2 → ∀ k, tok = some k →
        (k.zeros = true → s.fw.nonce = some k.nonce →
          ((s.fw.life = 0 ∧ k.transition = 1 ∧ k.key = some 0) ∨ (s.fw.life = 1 ∧ k.transition = 2 ∧ k.key = some 1) ∨
            ((s.fw.life = 1 ∨ s.fw.life = 2) ∧ k.transition = 3 ∧ k.key = some 2)) →
          Does (.lcSubmitToken val tok) s (fun t => t.fw.status = 0 ∧ t.fw.nonce = none ∧
            t.fw.pending = some (if k.transition = 1 then 1 else if k.transition = 2 then 2 else 3))) ∧
        (s.fw.nonce ≠ some k.nonce → Does (.lcSubmitToken val tok) s (fun t => t.fw.status = 2 ∧ t.fw.pending = s.fw.pending ∧
          t.fw.nonce = s.fw.nonce))) ∧
      (op = 3 → ok = true → Does (.lcFetchNonce val ent ok) s (fun t => t.fw.status = 0 ∧ t.fw.nonce = some ent ∧
        leNat (readB t.hostMem s.fw.addr.toNat 16) = ent.toNat)) ∧
      (op = 3 → ok = false → Does (.lcFetchNonce val ent ok) s (fun t => t.fw.status = 2 ∧ t.hostMem = s.hostMem))) ∧
    (∀ i, s.fw.writing = true → (s.fw.selSlot = false → Does (.lcWriteImageDone (some i)) s (fun t => t.fw.writing = false ∧
        t.fw.slotB = s.fw.slotB ∧ (acceptable s.fw.life s.fw.fused i = true → t.fw.status = 0 ∧ t.fw.slotA = some i) ∧
        (acceptable s.fw.life s.fw.fused i = false → t.fw.status = 3))) ∧
      Does (.lcWriteImageDone none) s (fun t => t.fw.status = 2 ∧ t.fw.slotA = s.fw.slotA ∧ t.fw.slotB = s.fw.slotB))) ∧
  (∀ (life : BitVec 2) (fused : BitVec 8) (a b : Image), acceptable life fused a = true → acceptable life fused b = true →
    (b.version < a.version → chooseSlot life fused (some a) (some b) = some false) ∧
    (a.version < b.version → chooseSlot life fused (some a) (some b) = some true) ∧
    (chooseSlot life fused (some a) none = some false) ∧ chooseSlot life fused none none = none)

/-! ## The step -/

/-- Chapter 95 lists the steps; a step takes the next move of the agenda: an event happens, whole or in part, something that other agents do
not see yet is performed, or time passes. The agenda is the model's choice (log entries 7 and 105), not the spec's. -/
def Obligations.StepTakesTheAgenda : Prop :=
  ∀ (s : State) (rest : List Move),
    (∀ i, s.agenda = .event i :: rest → step s = exec i { s with agenda := rest, cur := none, part := none }) ∧
    (∀ i p, s.agenda = .partly i p :: rest → step s = exec i { s with agenda := rest, cur := none, part := some p }) ∧
    (∀ n, s.agenda = .land n :: rest → ∃ t, step s = .next t ∧ t.agenda = rest ∧ t.groups = s.groups ∧ t.clk = s.clk ∧
      (s.late = [] → t.mem = s.mem)) ∧
    (∀ n, s.agenda = .tick n :: rest → ∃ t, step s = .next t ∧ t.agenda = rest ∧ t.clk = s.clk + n ∧ t.mem = s.mem ∧ t.groups = s.groups)

/-- R76, R391, R399: what reset leaves. The 16 stacks are those of the Summit grade, with which the model starts by its own choice (log 1), and
the part stands after the reset sequence as log 2 has it. -/
def Obligations.ResetValues : Prop :=
  let s := State.reset
  (∀ a, getB s.mem a = 0) ∧ s.clk = 0 ∧ s.groups = [] ∧ s.teams = [] ∧ s.grids = [] ∧ s.jobs = [] ∧ s.queues = [] ∧
  (∀ c, (s.ctx c).isUp = false ∧ (s.ctx c).reg CtxReg.saveLimit = 100000 ∧ (s.ctx c).reg CtxReg.swapThresh = 20000 ∧
    (s.ctx c).reg CtxReg.deadline0 = 40000 ∧ (s.ctx c).reg (CtxReg.deadline0 + 4) = 10000 ∧
    (s.ctx c).reg (CtxReg.deadline0 + 8) = 160000 ∧ (s.ctx c).reg (CtxReg.deadline0 + 12) = 640000 ∧
    (s.ctx c).reg CtxReg.cairnDir = 0 ∧ (s.ctx c).reg CtxReg.tqProd = 0 ∧ (s.ctx c).reg CtxReg.poolTop = 0) ∧
  (∀ i, i < 16 → ∃ k, s.hbm[i]? = some k ∧ k.live = 0xFFFF ∧ k.promo = 32 ∧ k.win = 0 ∧ k.ce = 0 ∧ k.lostAtoms = [] ∧ k.lostPages = [])

/-- The canonical form of both memories holds at reset. The form is the model's, not the spec's; that reset leaves zeros is R399. -/
def Obligations.ResetMemoryIsCanonical : Prop := wfB State.reset.mem = true ∧ wfB State.reset.hostMem = true

/-- Every step keeps the canonical form of both memories: no address is listed twice or out of order, and none that reads as zero. The form is the
model's, not the spec's. -/
def Obligations.MemoryStaysCanonical : Prop :=
  ∀ (s t : State), wfB s.mem = true → wfB s.hostMem = true → step s = .next t → wfB t.mem = true ∧ wfB t.hostMem = true
end

