-- ==== Sys2Proof/Laws/Maps.lean ====
section
/-! SUPPORT. Laws of the sparse maps and tables: what a read gives after a write, and that every operation keeps the
canonical form. -/

namespace Sys2Proof.Machine

/-! ## Reading after writing -/

theorem getB_insB {w : Nat} (m : BMap w) (k j : Nat) (x : BitVec w) : getB (insB m k x) j = if j = k then x else getB m j := by
  induction m with
  | nil => simp [insB, getB, eq_comm]
  | cons e t ih =>
    obtain ⟨a, y⟩ := e
    simp only [insB]
    split
    · rename_i hk
      by_cases hj : k = j
      · subst hj; simp [getB]
      · rw [if_neg (fun h => hj h.symm)]; simp [getB, hj]
    · split
      · rename_i hk
        subst hk
        by_cases hj : a = j
        · subst hj; simp [getB]
        · rw [if_neg (fun h => hj h.symm)]; simp [getB, hj]
      · rename_i hk
        simp only [getB, ih]
        by_cases hj : a = j
        · subst hj; rw [if_pos rfl, if_neg hk, if_pos rfl]
        · rw [if_neg hj, if_neg hj]

theorem getB_filter {w : Nat} (m : BMap w) (q : Nat → Bool) (j : Nat) :
    getB (m.filter (fun e => q e.1)) j = if q j then getB m j else 0 := by
  induction m with
  | nil => simp [getB]
  | cons e t ih =>
    obtain ⟨a, y⟩ := e
    by_cases h : q a
    · simp only [List.filter_cons, h, if_true, getB]
      by_cases hj : a = j
      · subst hj; simp [h]
      · simp [hj, ih]
    · simp only [List.filter_cons, h, getB]
      by_cases hj : a = j
      · subst hj; simp_all
      · simp_all

@[simp] theorem getB_delB {w : Nat} (m : BMap w) (k j : Nat) : getB (delB m k) j = if j = k then 0 else getB m j := by
  rw [delB, getB_filter m (fun a => a != k)]; by_cases h : j = k <;> simp [h]

theorem getB_putB {w : Nat} (m : BMap w) (k j : Nat) (x : BitVec w) : getB (putB m k x) j = if j = k then x else getB m j := by
  unfold putB; split
  · rename_i h; simp [h]
  · exact getB_insB m k j x

@[simp] theorem getB_putB_same {w : Nat} (m : BMap w) (k : Nat) (x : BitVec w) : getB (putB m k x) k = x := by simp [getB_putB]

theorem getB_putB_ne {w : Nat} (m : BMap w) {k j : Nat} (x : BitVec w) (h : j ≠ k) : getB (putB m k x) j = getB m j := by
  simp [getB_putB, h]

theorem getB_zeroB {w : Nat} (m : BMap w) (a n j : Nat) :
    getB (zeroB m a n) j = if a ≤ j ∧ j < a + n then 0 else getB m j := by
  rw [zeroB, getB_filter m (fun i => i < a || a + n ≤ i)]
  by_cases h : a ≤ j ∧ j < a + n
  · have : ¬(j < a) := by omega
    have : ¬(a + n ≤ j) := by omega
    simp_all
  · have : j < a ∨ a + n ≤ j := by omega
    simp_all

theorem getT_setT {α : Type} (m : Tbl α) (k j : Nat) (x : α) : getT (setT m k x) j = if j = k then some x else getT m j := by
  induction m with
  | nil => simp [setT, getT, eq_comm]
  | cons e t ih =>
    obtain ⟨a, y⟩ := e
    simp only [setT]
    split
    · simp only [getT]; split <;> simp_all [eq_comm]
    · split
      · simp only [getT]; split <;> simp_all [eq_comm]
      · simp only [getT, ih]; split <;> simp_all

@[simp] theorem getT_setT_same {α : Type} (m : Tbl α) (k : Nat) (x : α) : getT (setT m k x) k = some x := by simp [getT_setT]

theorem getT_delT {α : Type} (m : Tbl α) (k j : Nat) : getT (delT m k) j = if j = k then none else getT m j := by
  induction m with
  | nil => simp [delT, getT]
  | cons e t ih =>
    obtain ⟨a, y⟩ := e
    unfold delT at ih ⊢
    by_cases h : a = k
    · subst h; simp only [List.filter_cons, bne_self_eq_false, Bool.false_eq_true, if_false, ih, getT]
      split <;> simp_all [eq_comm]
    · simp only [List.filter_cons, bne_iff_ne, ne_eq, h, not_false_eq_true, if_true, getT, ih]
      split <;> simp_all

/-- A byte after a run of bytes is written. -/
theorem getB_writeB (bs : List Byte) : ∀ (m : BMap 8) (a j : Nat),
    getB (writeB m a bs) j = if a ≤ j ∧ j < a + bs.length then bs.getD (j - a) 0 else getB m j := by
  induction bs with
  | nil => intro m a j; simp only [writeB, List.length_nil, Nat.add_zero]; split <;> [omega; rfl]
  | cons b t ih =>
    intro m a j
    simp only [writeB, ih, getB_putB, List.length_cons]
    by_cases h1 : j = a
    · subst h1; simp
    · by_cases h2 : a + 1 ≤ j ∧ j < a + 1 + t.length
      · have : a ≤ j ∧ j < a + (t.length + 1) := by omega
        rw [if_pos h2, if_pos this, show j - a = (j - (a + 1)) + 1 by omega]; rfl
      · have : ¬(a ≤ j ∧ j < a + (t.length + 1)) := by omega
        rw [if_neg h2, if_neg this, if_neg h1]

/-! ## The canonical form -/

/-- Every key is above a bound. -/
def aboveB {w : Nat} (k : Nat) (m : BMap w) : Prop := ∀ e ∈ m, k < e.1

theorem wfB_cons {w : Nat} (a : Nat) (x : BitVec w) (t : BMap w) :
    wfB ((a, x) :: t) = true ↔ x ≠ 0 ∧ aboveB a t ∧ wfB t = true := by
  induction t generalizing a x with
  | nil => simp [wfB, aboveB]
  | cons e t ih =>
    obtain ⟨b, y⟩ := e
    simp only [wfB, Bool.and_eq_true, bne_iff_ne, ne_eq, decide_eq_true_eq]
    constructor
    · rintro ⟨⟨hx, hab⟩, hw⟩
      refine ⟨hx, ?_, hw⟩
      intro e he
      rcases List.mem_cons.1 he with rfl | he
      · exact hab
      · exact Nat.lt_trans hab (((ih b y).1 hw).2.1 e he)
    · rintro ⟨hx, ha, hw⟩
      exact ⟨⟨hx, ha (b, y) (by simp)⟩, hw⟩

theorem insB_mem {w : Nat} (m : BMap w) (k : Nat) (x : BitVec w) : ∀ e ∈ insB m k x, e = (k, x) ∨ e ∈ m := by
  induction m with
  | nil => simp [insB]
  | cons f t ih =>
    obtain ⟨a, y⟩ := f
    intro e he
    simp only [insB] at he
    split at he
    · simp_all
    · split at he
      · rcases List.mem_cons.1 he with h | h
        · exact Or.inl h
        · exact Or.inr (List.mem_cons_of_mem _ h)
      · rcases List.mem_cons.1 he with h | h
        · exact Or.inr (by simp [h])
        · rcases ih e h with h | h
          · exact Or.inl h
          · exact Or.inr (List.mem_cons_of_mem _ h)

theorem wfB_insB {w : Nat} (m : BMap w) (k : Nat) (x : BitVec w) (h : wfB m = true) (hx : x ≠ 0) : wfB (insB m k x) = true := by
  induction m with
  | nil => simpa [insB, wfB] using hx
  | cons f t ih =>
    obtain ⟨a, y⟩ := f
    obtain ⟨hy, ha, ht⟩ := (wfB_cons a y t).1 h
    simp only [insB]
    split
    · rename_i hka
      refine (wfB_cons k x _).2 ⟨hx, ?_, h⟩
      intro e he
      rcases List.mem_cons.1 he with rfl | he
      · exact hka
      · exact Nat.lt_trans hka (ha e he)
    · split
      · rename_i hak
        subst hak
        exact (wfB_cons _ x t).2 ⟨hx, ha, ht⟩
      · refine (wfB_cons a y _).2 ⟨hy, ?_, ih ht⟩
        intro e he
        rcases insB_mem t k x e he with rfl | he
        · show a < k; omega
        · exact ha e he

theorem wfB_filter {w : Nat} (m : BMap w) (q : Nat × BitVec w → Bool) (h : wfB m = true) : wfB (m.filter q) = true := by
  induction m with
  | nil => simp [wfB]
  | cons f t ih =>
    obtain ⟨a, y⟩ := f
    obtain ⟨hy, ha, ht⟩ := (wfB_cons a y t).1 h
    rw [List.filter_cons]
    split
    · refine (wfB_cons a y _).2 ⟨hy, ?_, ih ht⟩
      intro e he
      exact ha e (List.mem_filter.1 he).1
    · exact ih ht

@[simp] theorem wfB_putB {w : Nat} (m : BMap w) (k : Nat) (x : BitVec w) (h : wfB m = true) : wfB (putB m k x) = true := by
  unfold putB; split
  · exact wfB_filter m _ h
  · rename_i hx; exact wfB_insB m k x h hx

@[simp] theorem wfB_zeroB {w : Nat} (m : BMap w) (a n : Nat) (h : wfB m = true) : wfB (zeroB m a n) = true := wfB_filter m _ h

@[simp] theorem wfB_writeB (bs : List Byte) : ∀ (m : BMap 8) (a : Nat), wfB m = true → wfB (writeB m a bs) = true := by
  induction bs with
  | nil => intro m a h; exact h
  | cons b t ih => intro m a h; exact ih _ _ (wfB_putB m a b h)

theorem wfB_foldl_putB {w : Nat} {β : Type} (l : List β) (k : β → Nat) (x : β → BitVec w) : ∀ m : BMap w, wfB m = true →
    wfB (l.foldl (fun acc e => putB acc (k e) (x e)) m) = true := by
  induction l with
  | nil => intro m h; exact h
  | cons e t ih => intro m h; exact ih _ (wfB_putB m (k e) (x e) h)

@[simp] theorem wfB_copyB {w : Nat} (m : BMap w) (src dst n : Nat) (h : wfB m = true) : wfB (copyB m src dst n) = true :=
  wfB_foldl_putB _ _ _ _ (wfB_zeroB m dst n h)

theorem wfB_append {w : Nat} (l r : BMap w) (c : Nat) (hl : wfB l = true) (hr : wfB r = true) (h1 : ∀ e ∈ l, e.1 < c)
    (h2 : ∀ e ∈ r, c ≤ e.1) : wfB (l ++ r) = true := by
  induction l with
  | nil => exact hr
  | cons f t ih =>
    obtain ⟨a, y⟩ := f
    obtain ⟨hy, ha, ht⟩ := (wfB_cons a y t).1 hl
    refine (wfB_cons a y _).2 ⟨hy, ?_, ih ht (fun e he => h1 e (List.mem_cons_of_mem _ he))⟩
    intro e he
    rcases List.mem_append.1 he with he | he
    · exact ha e he
    · exact Nat.lt_of_lt_of_le (h1 (a, y) (by simp)) (h2 e he)

theorem wfB_run {w : Nat} (f : Nat → BitVec w) (a n : Nat) :
    wfB ((List.range n).filterMap (fun i => if f (a + i) = 0 then none else some (a + i, f (a + i)))) = true ∧
    ∀ e ∈ (List.range n).filterMap (fun i => if f (a + i) = 0 then none else some (a + i, f (a + i))), a ≤ e.1 ∧ e.1 < a + n := by
  induction n with
  | zero => simp [wfB]
  | succ n ih =>
    rw [List.range_succ, List.filterMap_append]
    constructor
    · refine wfB_append _ _ (a + n) ih.1 ?_ (fun e he => (ih.2 e he).2) ?_
      · simp only [List.filterMap_cons, List.filterMap_nil]; split
        · rfl
        · rename_i h; split at h <;> [simp at h; (simp only [Option.some.injEq] at h; subst h; simpa [wfB] using ‹¬f (a + n) = 0›)]
      · intro e he
        simp only [List.filterMap_cons, List.filterMap_nil] at he
        split at he
        · simp at he
        · rename_i h; split at h
          · simp at h
          · simp only [Option.some.injEq] at h; subst h; simp only [List.mem_singleton] at he; subst he; exact le_refl _
    · intro e he
      rcases List.mem_append.1 he with he | he
      · have := ih.2 e he; omega
      · simp only [List.filterMap_cons, List.filterMap_nil] at he
        split at he
        · simp at he
        · rename_i h; split at h
          · simp at h
          · simp only [Option.some.injEq] at h; subst h; simp only [List.mem_singleton] at he; subst he; exact ⟨by simp, by simp⟩

@[simp] theorem wfB_fillB {w : Nat} (m : BMap w) (a n : Nat) (f : Nat → BitVec w) (h : wfB m = true) :
    wfB (fillB m a n f) = true := by
  have hr := wfB_run f a n
  refine wfB_append _ _ (a + n) (wfB_append _ _ a (wfB_filter m _ h) hr.1 ?_ (fun e he => (hr.2 e he).1)) (wfB_filter m _ h) ?_ ?_
  · intro e he; simpa using (List.mem_filter.1 he).2
  · intro e he
    rcases List.mem_append.1 he with he | he
    · have := (List.mem_filter.1 he).2; simp at this; omega
    · exact (hr.2 e he).2
  · intro e he; simpa using (List.mem_filter.1 he).2

/-! ## Lanes -/

theorem mem_lanesOf (m : Mask) (l : Nat) : l ∈ lanesOf m ↔ laneBit m l = true := by
  unfold lanesOf laneBit
  simp only [List.mem_filter, List.mem_range]
  constructor
  · exact fun h => h.2
  · intro h
    refine ⟨?_, h⟩
    by_contra hl
    rw [BitVec.getLsbD_of_ge m l (by omega)] at h
    exact absurd h (by simp)

theorem laneBit_lt {m : Mask} {l : Nat} (h : laneBit m l = true) : l < 32 := by
  by_contra hl
  unfold laneBit at h
  rw [BitVec.getLsbD_of_ge m l (by omega)] at h
  exact absurd h (by simp)

end Sys2Proof.Machine
end

