-- ==== Sys2Proof/Laws/State.lean ====
section
/-! SUPPORT. One lemma per field per update of the state: what each shared update leaves alone, so that no proof unfolds a
record update. -/

namespace Sys2Proof.Machine

set_option Elab.async false

/-- A fold keeps what each of its steps keeps. -/
theorem foldl_keeps {α β γ : Type} (p : α → γ) (f : α → β → α) (h : ∀ a b, p (f a b) = p a) (l : List β) (a : α) :
    p (l.foldl f a) = p a := by
  induction l generalizing a with
  | nil => rfl
  | cons b t ih => exact (ih _).trans (h a b)


/-! ## setGroup -/

@[simp] theorem State.setGroup_agenda (s : State) (g : Group) : (s.setGroup g).agenda = s.agenda := rfl
@[simp] theorem State.setGroup_cur (s : State) (g : Group) : (s.setGroup g).cur = s.cur := rfl
@[simp] theorem State.setGroup_part (s : State) (g : Group) : (s.setGroup g).part = s.part := rfl
@[simp] theorem State.setGroup_free (s : State) (g : Group) : (s.setGroup g).free = s.free := rfl
@[simp] theorem State.setGroup_clk (s : State) (g : Group) : (s.setGroup g).clk = s.clk := rfl
@[simp] theorem State.setGroup_grade (s : State) (g : Group) : (s.setGroup g).grade = s.grade := rfl
@[simp] theorem State.setGroup_starting (s : State) (g : Group) : (s.setGroup g).starting = s.starting := rfl
@[simp] theorem State.setGroup_mem (s : State) (g : Group) : (s.setGroup g).mem = s.mem := rfl
@[simp] theorem State.setGroup_stale (s : State) (g : Group) : (s.setGroup g).stale = s.stale := rfl
@[simp] theorem State.setGroup_late (s : State) (g : Group) : (s.setGroup g).late = s.late := rfl
@[simp] theorem State.setGroup_coreTt (s : State) (g : Group) : (s.setGroup g).coreTt = s.coreTt := rfl
@[simp] theorem State.setGroup_hostMem (s : State) (g : Group) : (s.setGroup g).hostMem = s.hostMem := rfl
@[simp] theorem State.setGroup_hbm (s : State) (g : Group) : (s.setGroup g).hbm = s.hbm := rfl
@[simp] theorem State.setGroup_tlb (s : State) (g : Group) : (s.setGroup g).tlb = s.tlb := rfl
@[simp] theorem State.setGroup_walks (s : State) (g : Group) : (s.setGroup g).walks = s.walks := rfl
@[simp] theorem State.setGroup_caches (s : State) (g : Group) : (s.setGroup g).caches = s.caches := rfl
@[simp] theorem State.setGroup_ctxs (s : State) (g : Group) : (s.setGroup g).ctxs = s.ctxs := rfl
@[simp] theorem State.setGroup_grids (s : State) (g : Group) : (s.setGroup g).grids = s.grids := rfl
@[simp] theorem State.setGroup_teams (s : State) (g : Group) : (s.setGroup g).teams = s.teams := rfl
@[simp] theorem State.setGroup_jobs (s : State) (g : Group) : (s.setGroup g).jobs = s.jobs := rfl
@[simp] theorem State.setGroup_insts (s : State) (g : Group) : (s.setGroup g).insts = s.insts := rfl
@[simp] theorem State.setGroup_queues (s : State) (g : Group) : (s.setGroup g).queues = s.queues := rfl
@[simp] theorem State.setGroup_launches (s : State) (g : Group) : (s.setGroup g).launches = s.launches := rfl
@[simp] theorem State.setGroup_lastCol (s : State) (g : Group) : (s.setGroup g).lastCol = s.lastCol := rfl
@[simp] theorem State.setGroup_sensors (s : State) (g : Group) : (s.setGroup g).sensors = s.sensors := rfl
@[simp] theorem State.setGroup_columns (s : State) (g : Group) : (s.setGroup g).columns = s.columns := rfl
@[simp] theorem State.setGroup_balances (s : State) (g : Group) : (s.setGroup g).balances = s.balances := rfl
@[simp] theorem State.setGroup_power (s : State) (g : Group) : (s.setGroup g).power = s.power := rfl
@[simp] theorem State.setGroup_rings (s : State) (g : Group) : (s.setGroup g).rings = s.rings := rfl
@[simp] theorem State.setGroup_fw (s : State) (g : Group) : (s.setGroup g).fw = s.fw := rfl
@[simp] theorem State.setGroup_ports (s : State) (g : Group) : (s.setGroup g).ports = s.ports := rfl
@[simp] theorem State.setGroup_chipId (s : State) (g : Group) : (s.setGroup g).chipId = s.chipId := rfl
@[simp] theorem State.setGroup_mgmt (s : State) (g : Group) : (s.setGroup g).mgmt = s.mgmt := rfl
@[simp] theorem State.setGroup_remote (s : State) (g : Group) : (s.setGroup g).remote = s.remote := rfl
@[simp] theorem State.setGroup_asks (s : State) (g : Group) : (s.setGroup g).asks = s.asks := rfl
@[simp] theorem State.setGroup_ownIn (s : State) (g : Group) : (s.setGroup g).ownIn = s.ownIn := rfl
@[simp] theorem State.setGroup_pcieUp (s : State) (g : Group) : (s.setGroup g).pcieUp = s.pcieUp := rfl
@[simp] theorem State.setGroup_latch64 (s : State) (g : Group) : (s.setGroup g).latch64 = s.latch64 := rfl
@[simp] theorem State.setGroup_outbox (s : State) (g : Group) : (s.setGroup g).outbox = s.outbox := rfl
@[simp] theorem State.setGroup_nextTid (s : State) (g : Group) : (s.setGroup g).nextTid = s.nextTid := rfl
@[simp] theorem State.setGroup_nextJob (s : State) (g : Group) : (s.setGroup g).nextJob = s.nextJob := rfl
@[simp] theorem State.setGroup_nextTag (s : State) (g : Group) : (s.setGroup g).nextTag = s.nextTag := rfl

/-! ## setTeam -/

@[simp] theorem State.setTeam_agenda (s : State) (t : Team) : (s.setTeam t).agenda = s.agenda := rfl
@[simp] theorem State.setTeam_cur (s : State) (t : Team) : (s.setTeam t).cur = s.cur := rfl
@[simp] theorem State.setTeam_part (s : State) (t : Team) : (s.setTeam t).part = s.part := rfl
@[simp] theorem State.setTeam_free (s : State) (t : Team) : (s.setTeam t).free = s.free := rfl
@[simp] theorem State.setTeam_clk (s : State) (t : Team) : (s.setTeam t).clk = s.clk := rfl
@[simp] theorem State.setTeam_grade (s : State) (t : Team) : (s.setTeam t).grade = s.grade := rfl
@[simp] theorem State.setTeam_starting (s : State) (t : Team) : (s.setTeam t).starting = s.starting := rfl
@[simp] theorem State.setTeam_mem (s : State) (t : Team) : (s.setTeam t).mem = s.mem := rfl
@[simp] theorem State.setTeam_stale (s : State) (t : Team) : (s.setTeam t).stale = s.stale := rfl
@[simp] theorem State.setTeam_late (s : State) (t : Team) : (s.setTeam t).late = s.late := rfl
@[simp] theorem State.setTeam_coreTt (s : State) (t : Team) : (s.setTeam t).coreTt = s.coreTt := rfl
@[simp] theorem State.setTeam_hostMem (s : State) (t : Team) : (s.setTeam t).hostMem = s.hostMem := rfl
@[simp] theorem State.setTeam_hbm (s : State) (t : Team) : (s.setTeam t).hbm = s.hbm := rfl
@[simp] theorem State.setTeam_tlb (s : State) (t : Team) : (s.setTeam t).tlb = s.tlb := rfl
@[simp] theorem State.setTeam_walks (s : State) (t : Team) : (s.setTeam t).walks = s.walks := rfl
@[simp] theorem State.setTeam_caches (s : State) (t : Team) : (s.setTeam t).caches = s.caches := rfl
@[simp] theorem State.setTeam_ctxs (s : State) (t : Team) : (s.setTeam t).ctxs = s.ctxs := rfl
@[simp] theorem State.setTeam_grids (s : State) (t : Team) : (s.setTeam t).grids = s.grids := rfl
@[simp] theorem State.setTeam_groups (s : State) (t : Team) : (s.setTeam t).groups = s.groups := rfl
@[simp] theorem State.setTeam_jobs (s : State) (t : Team) : (s.setTeam t).jobs = s.jobs := rfl
@[simp] theorem State.setTeam_insts (s : State) (t : Team) : (s.setTeam t).insts = s.insts := rfl
@[simp] theorem State.setTeam_queues (s : State) (t : Team) : (s.setTeam t).queues = s.queues := rfl
@[simp] theorem State.setTeam_launches (s : State) (t : Team) : (s.setTeam t).launches = s.launches := rfl
@[simp] theorem State.setTeam_lastCol (s : State) (t : Team) : (s.setTeam t).lastCol = s.lastCol := rfl
@[simp] theorem State.setTeam_sensors (s : State) (t : Team) : (s.setTeam t).sensors = s.sensors := rfl
@[simp] theorem State.setTeam_columns (s : State) (t : Team) : (s.setTeam t).columns = s.columns := rfl
@[simp] theorem State.setTeam_balances (s : State) (t : Team) : (s.setTeam t).balances = s.balances := rfl
@[simp] theorem State.setTeam_power (s : State) (t : Team) : (s.setTeam t).power = s.power := rfl
@[simp] theorem State.setTeam_rings (s : State) (t : Team) : (s.setTeam t).rings = s.rings := rfl
@[simp] theorem State.setTeam_fw (s : State) (t : Team) : (s.setTeam t).fw = s.fw := rfl
@[simp] theorem State.setTeam_ports (s : State) (t : Team) : (s.setTeam t).ports = s.ports := rfl
@[simp] theorem State.setTeam_chipId (s : State) (t : Team) : (s.setTeam t).chipId = s.chipId := rfl
@[simp] theorem State.setTeam_mgmt (s : State) (t : Team) : (s.setTeam t).mgmt = s.mgmt := rfl
@[simp] theorem State.setTeam_remote (s : State) (t : Team) : (s.setTeam t).remote = s.remote := rfl
@[simp] theorem State.setTeam_asks (s : State) (t : Team) : (s.setTeam t).asks = s.asks := rfl
@[simp] theorem State.setTeam_ownIn (s : State) (t : Team) : (s.setTeam t).ownIn = s.ownIn := rfl
@[simp] theorem State.setTeam_pcieUp (s : State) (t : Team) : (s.setTeam t).pcieUp = s.pcieUp := rfl
@[simp] theorem State.setTeam_latch64 (s : State) (t : Team) : (s.setTeam t).latch64 = s.latch64 := rfl
@[simp] theorem State.setTeam_outbox (s : State) (t : Team) : (s.setTeam t).outbox = s.outbox := rfl
@[simp] theorem State.setTeam_nextTid (s : State) (t : Team) : (s.setTeam t).nextTid = s.nextTid := rfl
@[simp] theorem State.setTeam_nextJob (s : State) (t : Team) : (s.setTeam t).nextJob = s.nextJob := rfl
@[simp] theorem State.setTeam_nextTag (s : State) (t : Team) : (s.setTeam t).nextTag = s.nextTag := rfl

/-! ## setGrid -/

@[simp] theorem State.setGrid_agenda (s : State) (g : Grid) : (s.setGrid g).agenda = s.agenda := rfl
@[simp] theorem State.setGrid_cur (s : State) (g : Grid) : (s.setGrid g).cur = s.cur := rfl
@[simp] theorem State.setGrid_part (s : State) (g : Grid) : (s.setGrid g).part = s.part := rfl
@[simp] theorem State.setGrid_free (s : State) (g : Grid) : (s.setGrid g).free = s.free := rfl
@[simp] theorem State.setGrid_clk (s : State) (g : Grid) : (s.setGrid g).clk = s.clk := rfl
@[simp] theorem State.setGrid_grade (s : State) (g : Grid) : (s.setGrid g).grade = s.grade := rfl
@[simp] theorem State.setGrid_starting (s : State) (g : Grid) : (s.setGrid g).starting = s.starting := rfl
@[simp] theorem State.setGrid_mem (s : State) (g : Grid) : (s.setGrid g).mem = s.mem := rfl
@[simp] theorem State.setGrid_stale (s : State) (g : Grid) : (s.setGrid g).stale = s.stale := rfl
@[simp] theorem State.setGrid_late (s : State) (g : Grid) : (s.setGrid g).late = s.late := rfl
@[simp] theorem State.setGrid_coreTt (s : State) (g : Grid) : (s.setGrid g).coreTt = s.coreTt := rfl
@[simp] theorem State.setGrid_hostMem (s : State) (g : Grid) : (s.setGrid g).hostMem = s.hostMem := rfl
@[simp] theorem State.setGrid_hbm (s : State) (g : Grid) : (s.setGrid g).hbm = s.hbm := rfl
@[simp] theorem State.setGrid_tlb (s : State) (g : Grid) : (s.setGrid g).tlb = s.tlb := rfl
@[simp] theorem State.setGrid_walks (s : State) (g : Grid) : (s.setGrid g).walks = s.walks := rfl
@[simp] theorem State.setGrid_caches (s : State) (g : Grid) : (s.setGrid g).caches = s.caches := rfl
@[simp] theorem State.setGrid_ctxs (s : State) (g : Grid) : (s.setGrid g).ctxs = s.ctxs := rfl
@[simp] theorem State.setGrid_teams (s : State) (g : Grid) : (s.setGrid g).teams = s.teams := rfl
@[simp] theorem State.setGrid_groups (s : State) (g : Grid) : (s.setGrid g).groups = s.groups := rfl
@[simp] theorem State.setGrid_jobs (s : State) (g : Grid) : (s.setGrid g).jobs = s.jobs := rfl
@[simp] theorem State.setGrid_insts (s : State) (g : Grid) : (s.setGrid g).insts = s.insts := rfl
@[simp] theorem State.setGrid_queues (s : State) (g : Grid) : (s.setGrid g).queues = s.queues := rfl
@[simp] theorem State.setGrid_launches (s : State) (g : Grid) : (s.setGrid g).launches = s.launches := rfl
@[simp] theorem State.setGrid_lastCol (s : State) (g : Grid) : (s.setGrid g).lastCol = s.lastCol := rfl
@[simp] theorem State.setGrid_sensors (s : State) (g : Grid) : (s.setGrid g).sensors = s.sensors := rfl
@[simp] theorem State.setGrid_columns (s : State) (g : Grid) : (s.setGrid g).columns = s.columns := rfl
@[simp] theorem State.setGrid_balances (s : State) (g : Grid) : (s.setGrid g).balances = s.balances := rfl
@[simp] theorem State.setGrid_power (s : State) (g : Grid) : (s.setGrid g).power = s.power := rfl
@[simp] theorem State.setGrid_rings (s : State) (g : Grid) : (s.setGrid g).rings = s.rings := rfl
@[simp] theorem State.setGrid_fw (s : State) (g : Grid) : (s.setGrid g).fw = s.fw := rfl
@[simp] theorem State.setGrid_ports (s : State) (g : Grid) : (s.setGrid g).ports = s.ports := rfl
@[simp] theorem State.setGrid_chipId (s : State) (g : Grid) : (s.setGrid g).chipId = s.chipId := rfl
@[simp] theorem State.setGrid_mgmt (s : State) (g : Grid) : (s.setGrid g).mgmt = s.mgmt := rfl
@[simp] theorem State.setGrid_remote (s : State) (g : Grid) : (s.setGrid g).remote = s.remote := rfl
@[simp] theorem State.setGrid_asks (s : State) (g : Grid) : (s.setGrid g).asks = s.asks := rfl
@[simp] theorem State.setGrid_ownIn (s : State) (g : Grid) : (s.setGrid g).ownIn = s.ownIn := rfl
@[simp] theorem State.setGrid_pcieUp (s : State) (g : Grid) : (s.setGrid g).pcieUp = s.pcieUp := rfl
@[simp] theorem State.setGrid_latch64 (s : State) (g : Grid) : (s.setGrid g).latch64 = s.latch64 := rfl
@[simp] theorem State.setGrid_outbox (s : State) (g : Grid) : (s.setGrid g).outbox = s.outbox := rfl
@[simp] theorem State.setGrid_nextTid (s : State) (g : Grid) : (s.setGrid g).nextTid = s.nextTid := rfl
@[simp] theorem State.setGrid_nextJob (s : State) (g : Grid) : (s.setGrid g).nextJob = s.nextJob := rfl
@[simp] theorem State.setGrid_nextTag (s : State) (g : Grid) : (s.setGrid g).nextTag = s.nextTag := rfl

/-! ## setCtx -/

@[simp] theorem State.setCtx_agenda (s : State) (c : Nat) (x : Context) : (s.setCtx c x).agenda = s.agenda := rfl
@[simp] theorem State.setCtx_cur (s : State) (c : Nat) (x : Context) : (s.setCtx c x).cur = s.cur := rfl
@[simp] theorem State.setCtx_part (s : State) (c : Nat) (x : Context) : (s.setCtx c x).part = s.part := rfl
@[simp] theorem State.setCtx_free (s : State) (c : Nat) (x : Context) : (s.setCtx c x).free = s.free := rfl
@[simp] theorem State.setCtx_clk (s : State) (c : Nat) (x : Context) : (s.setCtx c x).clk = s.clk := rfl
@[simp] theorem State.setCtx_grade (s : State) (c : Nat) (x : Context) : (s.setCtx c x).grade = s.grade := rfl
@[simp] theorem State.setCtx_starting (s : State) (c : Nat) (x : Context) : (s.setCtx c x).starting = s.starting := rfl
@[simp] theorem State.setCtx_mem (s : State) (c : Nat) (x : Context) : (s.setCtx c x).mem = s.mem := rfl
@[simp] theorem State.setCtx_stale (s : State) (c : Nat) (x : Context) : (s.setCtx c x).stale = s.stale := rfl
@[simp] theorem State.setCtx_late (s : State) (c : Nat) (x : Context) : (s.setCtx c x).late = s.late := rfl
@[simp] theorem State.setCtx_coreTt (s : State) (c : Nat) (x : Context) : (s.setCtx c x).coreTt = s.coreTt := rfl
@[simp] theorem State.setCtx_hostMem (s : State) (c : Nat) (x : Context) : (s.setCtx c x).hostMem = s.hostMem := rfl
@[simp] theorem State.setCtx_hbm (s : State) (c : Nat) (x : Context) : (s.setCtx c x).hbm = s.hbm := rfl
@[simp] theorem State.setCtx_tlb (s : State) (c : Nat) (x : Context) : (s.setCtx c x).tlb = s.tlb := rfl
@[simp] theorem State.setCtx_walks (s : State) (c : Nat) (x : Context) : (s.setCtx c x).walks = s.walks := rfl
@[simp] theorem State.setCtx_caches (s : State) (c : Nat) (x : Context) : (s.setCtx c x).caches = s.caches := rfl
@[simp] theorem State.setCtx_grids (s : State) (c : Nat) (x : Context) : (s.setCtx c x).grids = s.grids := rfl
@[simp] theorem State.setCtx_teams (s : State) (c : Nat) (x : Context) : (s.setCtx c x).teams = s.teams := rfl
@[simp] theorem State.setCtx_groups (s : State) (c : Nat) (x : Context) : (s.setCtx c x).groups = s.groups := rfl
@[simp] theorem State.setCtx_jobs (s : State) (c : Nat) (x : Context) : (s.setCtx c x).jobs = s.jobs := rfl
@[simp] theorem State.setCtx_insts (s : State) (c : Nat) (x : Context) : (s.setCtx c x).insts = s.insts := rfl
@[simp] theorem State.setCtx_queues (s : State) (c : Nat) (x : Context) : (s.setCtx c x).queues = s.queues := rfl
@[simp] theorem State.setCtx_launches (s : State) (c : Nat) (x : Context) : (s.setCtx c x).launches = s.launches := rfl
@[simp] theorem State.setCtx_lastCol (s : State) (c : Nat) (x : Context) : (s.setCtx c x).lastCol = s.lastCol := rfl
@[simp] theorem State.setCtx_sensors (s : State) (c : Nat) (x : Context) : (s.setCtx c x).sensors = s.sensors := rfl
@[simp] theorem State.setCtx_columns (s : State) (c : Nat) (x : Context) : (s.setCtx c x).columns = s.columns := rfl
@[simp] theorem State.setCtx_balances (s : State) (c : Nat) (x : Context) : (s.setCtx c x).balances = s.balances := rfl
@[simp] theorem State.setCtx_power (s : State) (c : Nat) (x : Context) : (s.setCtx c x).power = s.power := rfl
@[simp] theorem State.setCtx_rings (s : State) (c : Nat) (x : Context) : (s.setCtx c x).rings = s.rings := rfl
@[simp] theorem State.setCtx_fw (s : State) (c : Nat) (x : Context) : (s.setCtx c x).fw = s.fw := rfl
@[simp] theorem State.setCtx_ports (s : State) (c : Nat) (x : Context) : (s.setCtx c x).ports = s.ports := rfl
@[simp] theorem State.setCtx_chipId (s : State) (c : Nat) (x : Context) : (s.setCtx c x).chipId = s.chipId := rfl
@[simp] theorem State.setCtx_mgmt (s : State) (c : Nat) (x : Context) : (s.setCtx c x).mgmt = s.mgmt := rfl
@[simp] theorem State.setCtx_remote (s : State) (c : Nat) (x : Context) : (s.setCtx c x).remote = s.remote := rfl
@[simp] theorem State.setCtx_asks (s : State) (c : Nat) (x : Context) : (s.setCtx c x).asks = s.asks := rfl
@[simp] theorem State.setCtx_ownIn (s : State) (c : Nat) (x : Context) : (s.setCtx c x).ownIn = s.ownIn := rfl
@[simp] theorem State.setCtx_pcieUp (s : State) (c : Nat) (x : Context) : (s.setCtx c x).pcieUp = s.pcieUp := rfl
@[simp] theorem State.setCtx_latch64 (s : State) (c : Nat) (x : Context) : (s.setCtx c x).latch64 = s.latch64 := rfl
@[simp] theorem State.setCtx_outbox (s : State) (c : Nat) (x : Context) : (s.setCtx c x).outbox = s.outbox := rfl
@[simp] theorem State.setCtx_nextTid (s : State) (c : Nat) (x : Context) : (s.setCtx c x).nextTid = s.nextTid := rfl
@[simp] theorem State.setCtx_nextJob (s : State) (c : Nat) (x : Context) : (s.setCtx c x).nextJob = s.nextJob := rfl
@[simp] theorem State.setCtx_nextTag (s : State) (c : Nat) (x : Context) : (s.setCtx c x).nextTag = s.nextTag := rfl

/-! ## modTeam -/

@[simp] theorem State.modTeam_agenda (s : State) (n : Nat) (f : Team → Team) : (s.modTeam n f).agenda = s.agenda := rfl
@[simp] theorem State.modTeam_cur (s : State) (n : Nat) (f : Team → Team) : (s.modTeam n f).cur = s.cur := rfl
@[simp] theorem State.modTeam_part (s : State) (n : Nat) (f : Team → Team) : (s.modTeam n f).part = s.part := rfl
@[simp] theorem State.modTeam_free (s : State) (n : Nat) (f : Team → Team) : (s.modTeam n f).free = s.free := rfl
@[simp] theorem State.modTeam_clk (s : State) (n : Nat) (f : Team → Team) : (s.modTeam n f).clk = s.clk := rfl
@[simp] theorem State.modTeam_grade (s : State) (n : Nat) (f : Team → Team) : (s.modTeam n f).grade = s.grade := rfl
@[simp] theorem State.modTeam_starting (s : State) (n : Nat) (f : Team → Team) : (s.modTeam n f).starting = s.starting := rfl
@[simp] theorem State.modTeam_mem (s : State) (n : Nat) (f : Team → Team) : (s.modTeam n f).mem = s.mem := rfl
@[simp] theorem State.modTeam_stale (s : State) (n : Nat) (f : Team → Team) : (s.modTeam n f).stale = s.stale := rfl
@[simp] theorem State.modTeam_late (s : State) (n : Nat) (f : Team → Team) : (s.modTeam n f).late = s.late := rfl
@[simp] theorem State.modTeam_coreTt (s : State) (n : Nat) (f : Team → Team) : (s.modTeam n f).coreTt = s.coreTt := rfl
@[simp] theorem State.modTeam_hostMem (s : State) (n : Nat) (f : Team → Team) : (s.modTeam n f).hostMem = s.hostMem := rfl
@[simp] theorem State.modTeam_hbm (s : State) (n : Nat) (f : Team → Team) : (s.modTeam n f).hbm = s.hbm := rfl
@[simp] theorem State.modTeam_tlb (s : State) (n : Nat) (f : Team → Team) : (s.modTeam n f).tlb = s.tlb := rfl
@[simp] theorem State.modTeam_walks (s : State) (n : Nat) (f : Team → Team) : (s.modTeam n f).walks = s.walks := rfl
@[simp] theorem State.modTeam_caches (s : State) (n : Nat) (f : Team → Team) : (s.modTeam n f).caches = s.caches := rfl
@[simp] theorem State.modTeam_ctxs (s : State) (n : Nat) (f : Team → Team) : (s.modTeam n f).ctxs = s.ctxs := rfl
@[simp] theorem State.modTeam_grids (s : State) (n : Nat) (f : Team → Team) : (s.modTeam n f).grids = s.grids := rfl
@[simp] theorem State.modTeam_groups (s : State) (n : Nat) (f : Team → Team) : (s.modTeam n f).groups = s.groups := rfl
@[simp] theorem State.modTeam_jobs (s : State) (n : Nat) (f : Team → Team) : (s.modTeam n f).jobs = s.jobs := rfl
@[simp] theorem State.modTeam_insts (s : State) (n : Nat) (f : Team → Team) : (s.modTeam n f).insts = s.insts := rfl
@[simp] theorem State.modTeam_queues (s : State) (n : Nat) (f : Team → Team) : (s.modTeam n f).queues = s.queues := rfl
@[simp] theorem State.modTeam_launches (s : State) (n : Nat) (f : Team → Team) : (s.modTeam n f).launches = s.launches := rfl
@[simp] theorem State.modTeam_lastCol (s : State) (n : Nat) (f : Team → Team) : (s.modTeam n f).lastCol = s.lastCol := rfl
@[simp] theorem State.modTeam_sensors (s : State) (n : Nat) (f : Team → Team) : (s.modTeam n f).sensors = s.sensors := rfl
@[simp] theorem State.modTeam_columns (s : State) (n : Nat) (f : Team → Team) : (s.modTeam n f).columns = s.columns := rfl
@[simp] theorem State.modTeam_balances (s : State) (n : Nat) (f : Team → Team) : (s.modTeam n f).balances = s.balances := rfl
@[simp] theorem State.modTeam_power (s : State) (n : Nat) (f : Team → Team) : (s.modTeam n f).power = s.power := rfl
@[simp] theorem State.modTeam_rings (s : State) (n : Nat) (f : Team → Team) : (s.modTeam n f).rings = s.rings := rfl
@[simp] theorem State.modTeam_fw (s : State) (n : Nat) (f : Team → Team) : (s.modTeam n f).fw = s.fw := rfl
@[simp] theorem State.modTeam_ports (s : State) (n : Nat) (f : Team → Team) : (s.modTeam n f).ports = s.ports := rfl
@[simp] theorem State.modTeam_chipId (s : State) (n : Nat) (f : Team → Team) : (s.modTeam n f).chipId = s.chipId := rfl
@[simp] theorem State.modTeam_mgmt (s : State) (n : Nat) (f : Team → Team) : (s.modTeam n f).mgmt = s.mgmt := rfl
@[simp] theorem State.modTeam_remote (s : State) (n : Nat) (f : Team → Team) : (s.modTeam n f).remote = s.remote := rfl
@[simp] theorem State.modTeam_asks (s : State) (n : Nat) (f : Team → Team) : (s.modTeam n f).asks = s.asks := rfl
@[simp] theorem State.modTeam_ownIn (s : State) (n : Nat) (f : Team → Team) : (s.modTeam n f).ownIn = s.ownIn := rfl
@[simp] theorem State.modTeam_pcieUp (s : State) (n : Nat) (f : Team → Team) : (s.modTeam n f).pcieUp = s.pcieUp := rfl
@[simp] theorem State.modTeam_latch64 (s : State) (n : Nat) (f : Team → Team) : (s.modTeam n f).latch64 = s.latch64 := rfl
@[simp] theorem State.modTeam_outbox (s : State) (n : Nat) (f : Team → Team) : (s.modTeam n f).outbox = s.outbox := rfl
@[simp] theorem State.modTeam_nextTid (s : State) (n : Nat) (f : Team → Team) : (s.modTeam n f).nextTid = s.nextTid := rfl
@[simp] theorem State.modTeam_nextJob (s : State) (n : Nat) (f : Team → Team) : (s.modTeam n f).nextJob = s.nextJob := rfl
@[simp] theorem State.modTeam_nextTag (s : State) (n : Nat) (f : Team → Team) : (s.modTeam n f).nextTag = s.nextTag := rfl

/-! ## modGroup -/

@[simp] theorem State.modGroup_agenda (s : State) (n : Nat) (f : Group → Group) : (s.modGroup n f).agenda = s.agenda := rfl
@[simp] theorem State.modGroup_cur (s : State) (n : Nat) (f : Group → Group) : (s.modGroup n f).cur = s.cur := rfl
@[simp] theorem State.modGroup_part (s : State) (n : Nat) (f : Group → Group) : (s.modGroup n f).part = s.part := rfl
@[simp] theorem State.modGroup_free (s : State) (n : Nat) (f : Group → Group) : (s.modGroup n f).free = s.free := rfl
@[simp] theorem State.modGroup_clk (s : State) (n : Nat) (f : Group → Group) : (s.modGroup n f).clk = s.clk := rfl
@[simp] theorem State.modGroup_grade (s : State) (n : Nat) (f : Group → Group) : (s.modGroup n f).grade = s.grade := rfl
@[simp] theorem State.modGroup_starting (s : State) (n : Nat) (f : Group → Group) : (s.modGroup n f).starting = s.starting := rfl
@[simp] theorem State.modGroup_mem (s : State) (n : Nat) (f : Group → Group) : (s.modGroup n f).mem = s.mem := rfl
@[simp] theorem State.modGroup_stale (s : State) (n : Nat) (f : Group → Group) : (s.modGroup n f).stale = s.stale := rfl
@[simp] theorem State.modGroup_late (s : State) (n : Nat) (f : Group → Group) : (s.modGroup n f).late = s.late := rfl
@[simp] theorem State.modGroup_coreTt (s : State) (n : Nat) (f : Group → Group) : (s.modGroup n f).coreTt = s.coreTt := rfl
@[simp] theorem State.modGroup_hostMem (s : State) (n : Nat) (f : Group → Group) : (s.modGroup n f).hostMem = s.hostMem := rfl
@[simp] theorem State.modGroup_hbm (s : State) (n : Nat) (f : Group → Group) : (s.modGroup n f).hbm = s.hbm := rfl
@[simp] theorem State.modGroup_tlb (s : State) (n : Nat) (f : Group → Group) : (s.modGroup n f).tlb = s.tlb := rfl
@[simp] theorem State.modGroup_walks (s : State) (n : Nat) (f : Group → Group) : (s.modGroup n f).walks = s.walks := rfl
@[simp] theorem State.modGroup_caches (s : State) (n : Nat) (f : Group → Group) : (s.modGroup n f).caches = s.caches := rfl
@[simp] theorem State.modGroup_ctxs (s : State) (n : Nat) (f : Group → Group) : (s.modGroup n f).ctxs = s.ctxs := rfl
@[simp] theorem State.modGroup_grids (s : State) (n : Nat) (f : Group → Group) : (s.modGroup n f).grids = s.grids := rfl
@[simp] theorem State.modGroup_teams (s : State) (n : Nat) (f : Group → Group) : (s.modGroup n f).teams = s.teams := rfl
@[simp] theorem State.modGroup_jobs (s : State) (n : Nat) (f : Group → Group) : (s.modGroup n f).jobs = s.jobs := rfl
@[simp] theorem State.modGroup_insts (s : State) (n : Nat) (f : Group → Group) : (s.modGroup n f).insts = s.insts := rfl
@[simp] theorem State.modGroup_queues (s : State) (n : Nat) (f : Group → Group) : (s.modGroup n f).queues = s.queues := rfl
@[simp] theorem State.modGroup_launches (s : State) (n : Nat) (f : Group → Group) : (s.modGroup n f).launches = s.launches := rfl
@[simp] theorem State.modGroup_lastCol (s : State) (n : Nat) (f : Group → Group) : (s.modGroup n f).lastCol = s.lastCol := rfl
@[simp] theorem State.modGroup_sensors (s : State) (n : Nat) (f : Group → Group) : (s.modGroup n f).sensors = s.sensors := rfl
@[simp] theorem State.modGroup_columns (s : State) (n : Nat) (f : Group → Group) : (s.modGroup n f).columns = s.columns := rfl
@[simp] theorem State.modGroup_balances (s : State) (n : Nat) (f : Group → Group) : (s.modGroup n f).balances = s.balances := rfl
@[simp] theorem State.modGroup_power (s : State) (n : Nat) (f : Group → Group) : (s.modGroup n f).power = s.power := rfl
@[simp] theorem State.modGroup_rings (s : State) (n : Nat) (f : Group → Group) : (s.modGroup n f).rings = s.rings := rfl
@[simp] theorem State.modGroup_fw (s : State) (n : Nat) (f : Group → Group) : (s.modGroup n f).fw = s.fw := rfl
@[simp] theorem State.modGroup_ports (s : State) (n : Nat) (f : Group → Group) : (s.modGroup n f).ports = s.ports := rfl
@[simp] theorem State.modGroup_chipId (s : State) (n : Nat) (f : Group → Group) : (s.modGroup n f).chipId = s.chipId := rfl
@[simp] theorem State.modGroup_mgmt (s : State) (n : Nat) (f : Group → Group) : (s.modGroup n f).mgmt = s.mgmt := rfl
@[simp] theorem State.modGroup_remote (s : State) (n : Nat) (f : Group → Group) : (s.modGroup n f).remote = s.remote := rfl
@[simp] theorem State.modGroup_asks (s : State) (n : Nat) (f : Group → Group) : (s.modGroup n f).asks = s.asks := rfl
@[simp] theorem State.modGroup_ownIn (s : State) (n : Nat) (f : Group → Group) : (s.modGroup n f).ownIn = s.ownIn := rfl
@[simp] theorem State.modGroup_pcieUp (s : State) (n : Nat) (f : Group → Group) : (s.modGroup n f).pcieUp = s.pcieUp := rfl
@[simp] theorem State.modGroup_latch64 (s : State) (n : Nat) (f : Group → Group) : (s.modGroup n f).latch64 = s.latch64 := rfl
@[simp] theorem State.modGroup_outbox (s : State) (n : Nat) (f : Group → Group) : (s.modGroup n f).outbox = s.outbox := rfl
@[simp] theorem State.modGroup_nextTid (s : State) (n : Nat) (f : Group → Group) : (s.modGroup n f).nextTid = s.nextTid := rfl
@[simp] theorem State.modGroup_nextJob (s : State) (n : Nat) (f : Group → Group) : (s.modGroup n f).nextJob = s.nextJob := rfl
@[simp] theorem State.modGroup_nextTag (s : State) (n : Nat) (f : Group → Group) : (s.modGroup n f).nextTag = s.nextTag := rfl

/-! ## modGrid -/

@[simp] theorem State.modGrid_agenda (s : State) (c n : Nat) (f : Grid → Grid) : (s.modGrid c n f).agenda = s.agenda := rfl
@[simp] theorem State.modGrid_cur (s : State) (c n : Nat) (f : Grid → Grid) : (s.modGrid c n f).cur = s.cur := rfl
@[simp] theorem State.modGrid_part (s : State) (c n : Nat) (f : Grid → Grid) : (s.modGrid c n f).part = s.part := rfl
@[simp] theorem State.modGrid_free (s : State) (c n : Nat) (f : Grid → Grid) : (s.modGrid c n f).free = s.free := rfl
@[simp] theorem State.modGrid_clk (s : State) (c n : Nat) (f : Grid → Grid) : (s.modGrid c n f).clk = s.clk := rfl
@[simp] theorem State.modGrid_grade (s : State) (c n : Nat) (f : Grid → Grid) : (s.modGrid c n f).grade = s.grade := rfl
@[simp] theorem State.modGrid_starting (s : State) (c n : Nat) (f : Grid → Grid) : (s.modGrid c n f).starting = s.starting := rfl
@[simp] theorem State.modGrid_mem (s : State) (c n : Nat) (f : Grid → Grid) : (s.modGrid c n f).mem = s.mem := rfl
@[simp] theorem State.modGrid_stale (s : State) (c n : Nat) (f : Grid → Grid) : (s.modGrid c n f).stale = s.stale := rfl
@[simp] theorem State.modGrid_late (s : State) (c n : Nat) (f : Grid → Grid) : (s.modGrid c n f).late = s.late := rfl
@[simp] theorem State.modGrid_coreTt (s : State) (c n : Nat) (f : Grid → Grid) : (s.modGrid c n f).coreTt = s.coreTt := rfl
@[simp] theorem State.modGrid_hostMem (s : State) (c n : Nat) (f : Grid → Grid) : (s.modGrid c n f).hostMem = s.hostMem := rfl
@[simp] theorem State.modGrid_hbm (s : State) (c n : Nat) (f : Grid → Grid) : (s.modGrid c n f).hbm = s.hbm := rfl
@[simp] theorem State.modGrid_tlb (s : State) (c n : Nat) (f : Grid → Grid) : (s.modGrid c n f).tlb = s.tlb := rfl
@[simp] theorem State.modGrid_walks (s : State) (c n : Nat) (f : Grid → Grid) : (s.modGrid c n f).walks = s.walks := rfl
@[simp] theorem State.modGrid_caches (s : State) (c n : Nat) (f : Grid → Grid) : (s.modGrid c n f).caches = s.caches := rfl
@[simp] theorem State.modGrid_ctxs (s : State) (c n : Nat) (f : Grid → Grid) : (s.modGrid c n f).ctxs = s.ctxs := rfl
@[simp] theorem State.modGrid_teams (s : State) (c n : Nat) (f : Grid → Grid) : (s.modGrid c n f).teams = s.teams := rfl
@[simp] theorem State.modGrid_groups (s : State) (c n : Nat) (f : Grid → Grid) : (s.modGrid c n f).groups = s.groups := rfl
@[simp] theorem State.modGrid_jobs (s : State) (c n : Nat) (f : Grid → Grid) : (s.modGrid c n f).jobs = s.jobs := rfl
@[simp] theorem State.modGrid_insts (s : State) (c n : Nat) (f : Grid → Grid) : (s.modGrid c n f).insts = s.insts := rfl
@[simp] theorem State.modGrid_queues (s : State) (c n : Nat) (f : Grid → Grid) : (s.modGrid c n f).queues = s.queues := rfl
@[simp] theorem State.modGrid_launches (s : State) (c n : Nat) (f : Grid → Grid) : (s.modGrid c n f).launches = s.launches := rfl
@[simp] theorem State.modGrid_lastCol (s : State) (c n : Nat) (f : Grid → Grid) : (s.modGrid c n f).lastCol = s.lastCol := rfl
@[simp] theorem State.modGrid_sensors (s : State) (c n : Nat) (f : Grid → Grid) : (s.modGrid c n f).sensors = s.sensors := rfl
@[simp] theorem State.modGrid_columns (s : State) (c n : Nat) (f : Grid → Grid) : (s.modGrid c n f).columns = s.columns := rfl
@[simp] theorem State.modGrid_balances (s : State) (c n : Nat) (f : Grid → Grid) : (s.modGrid c n f).balances = s.balances := rfl
@[simp] theorem State.modGrid_power (s : State) (c n : Nat) (f : Grid → Grid) : (s.modGrid c n f).power = s.power := rfl
@[simp] theorem State.modGrid_rings (s : State) (c n : Nat) (f : Grid → Grid) : (s.modGrid c n f).rings = s.rings := rfl
@[simp] theorem State.modGrid_fw (s : State) (c n : Nat) (f : Grid → Grid) : (s.modGrid c n f).fw = s.fw := rfl
@[simp] theorem State.modGrid_ports (s : State) (c n : Nat) (f : Grid → Grid) : (s.modGrid c n f).ports = s.ports := rfl
@[simp] theorem State.modGrid_chipId (s : State) (c n : Nat) (f : Grid → Grid) : (s.modGrid c n f).chipId = s.chipId := rfl
@[simp] theorem State.modGrid_mgmt (s : State) (c n : Nat) (f : Grid → Grid) : (s.modGrid c n f).mgmt = s.mgmt := rfl
@[simp] theorem State.modGrid_remote (s : State) (c n : Nat) (f : Grid → Grid) : (s.modGrid c n f).remote = s.remote := rfl
@[simp] theorem State.modGrid_asks (s : State) (c n : Nat) (f : Grid → Grid) : (s.modGrid c n f).asks = s.asks := rfl
@[simp] theorem State.modGrid_ownIn (s : State) (c n : Nat) (f : Grid → Grid) : (s.modGrid c n f).ownIn = s.ownIn := rfl
@[simp] theorem State.modGrid_pcieUp (s : State) (c n : Nat) (f : Grid → Grid) : (s.modGrid c n f).pcieUp = s.pcieUp := rfl
@[simp] theorem State.modGrid_latch64 (s : State) (c n : Nat) (f : Grid → Grid) : (s.modGrid c n f).latch64 = s.latch64 := rfl
@[simp] theorem State.modGrid_outbox (s : State) (c n : Nat) (f : Grid → Grid) : (s.modGrid c n f).outbox = s.outbox := rfl
@[simp] theorem State.modGrid_nextTid (s : State) (c n : Nat) (f : Grid → Grid) : (s.modGrid c n f).nextTid = s.nextTid := rfl
@[simp] theorem State.modGrid_nextJob (s : State) (c n : Nat) (f : Grid → Grid) : (s.modGrid c n f).nextJob = s.nextJob := rfl
@[simp] theorem State.modGrid_nextTag (s : State) (c n : Nat) (f : Grid → Grid) : (s.modGrid c n f).nextTag = s.nextTag := rfl

/-! ## modStack -/

@[simp] theorem State.modStack_agenda (s : State) (i : Nat) (f : Stack → Stack) : (s.modStack i f).agenda = s.agenda := rfl
@[simp] theorem State.modStack_cur (s : State) (i : Nat) (f : Stack → Stack) : (s.modStack i f).cur = s.cur := rfl
@[simp] theorem State.modStack_part (s : State) (i : Nat) (f : Stack → Stack) : (s.modStack i f).part = s.part := rfl
@[simp] theorem State.modStack_free (s : State) (i : Nat) (f : Stack → Stack) : (s.modStack i f).free = s.free := rfl
@[simp] theorem State.modStack_clk (s : State) (i : Nat) (f : Stack → Stack) : (s.modStack i f).clk = s.clk := rfl
@[simp] theorem State.modStack_grade (s : State) (i : Nat) (f : Stack → Stack) : (s.modStack i f).grade = s.grade := rfl
@[simp] theorem State.modStack_starting (s : State) (i : Nat) (f : Stack → Stack) : (s.modStack i f).starting = s.starting := rfl
@[simp] theorem State.modStack_mem (s : State) (i : Nat) (f : Stack → Stack) : (s.modStack i f).mem = s.mem := rfl
@[simp] theorem State.modStack_stale (s : State) (i : Nat) (f : Stack → Stack) : (s.modStack i f).stale = s.stale := rfl
@[simp] theorem State.modStack_late (s : State) (i : Nat) (f : Stack → Stack) : (s.modStack i f).late = s.late := rfl
@[simp] theorem State.modStack_coreTt (s : State) (i : Nat) (f : Stack → Stack) : (s.modStack i f).coreTt = s.coreTt := rfl
@[simp] theorem State.modStack_hostMem (s : State) (i : Nat) (f : Stack → Stack) : (s.modStack i f).hostMem = s.hostMem := rfl
@[simp] theorem State.modStack_tlb (s : State) (i : Nat) (f : Stack → Stack) : (s.modStack i f).tlb = s.tlb := rfl
@[simp] theorem State.modStack_walks (s : State) (i : Nat) (f : Stack → Stack) : (s.modStack i f).walks = s.walks := rfl
@[simp] theorem State.modStack_caches (s : State) (i : Nat) (f : Stack → Stack) : (s.modStack i f).caches = s.caches := rfl
@[simp] theorem State.modStack_ctxs (s : State) (i : Nat) (f : Stack → Stack) : (s.modStack i f).ctxs = s.ctxs := rfl
@[simp] theorem State.modStack_grids (s : State) (i : Nat) (f : Stack → Stack) : (s.modStack i f).grids = s.grids := rfl
@[simp] theorem State.modStack_teams (s : State) (i : Nat) (f : Stack → Stack) : (s.modStack i f).teams = s.teams := rfl
@[simp] theorem State.modStack_groups (s : State) (i : Nat) (f : Stack → Stack) : (s.modStack i f).groups = s.groups := rfl
@[simp] theorem State.modStack_jobs (s : State) (i : Nat) (f : Stack → Stack) : (s.modStack i f).jobs = s.jobs := rfl
@[simp] theorem State.modStack_insts (s : State) (i : Nat) (f : Stack → Stack) : (s.modStack i f).insts = s.insts := rfl
@[simp] theorem State.modStack_queues (s : State) (i : Nat) (f : Stack → Stack) : (s.modStack i f).queues = s.queues := rfl
@[simp] theorem State.modStack_launches (s : State) (i : Nat) (f : Stack → Stack) : (s.modStack i f).launches = s.launches := rfl
@[simp] theorem State.modStack_lastCol (s : State) (i : Nat) (f : Stack → Stack) : (s.modStack i f).lastCol = s.lastCol := rfl
@[simp] theorem State.modStack_sensors (s : State) (i : Nat) (f : Stack → Stack) : (s.modStack i f).sensors = s.sensors := rfl
@[simp] theorem State.modStack_columns (s : State) (i : Nat) (f : Stack → Stack) : (s.modStack i f).columns = s.columns := rfl
@[simp] theorem State.modStack_balances (s : State) (i : Nat) (f : Stack → Stack) : (s.modStack i f).balances = s.balances := rfl
@[simp] theorem State.modStack_power (s : State) (i : Nat) (f : Stack → Stack) : (s.modStack i f).power = s.power := rfl
@[simp] theorem State.modStack_rings (s : State) (i : Nat) (f : Stack → Stack) : (s.modStack i f).rings = s.rings := rfl
@[simp] theorem State.modStack_fw (s : State) (i : Nat) (f : Stack → Stack) : (s.modStack i f).fw = s.fw := rfl
@[simp] theorem State.modStack_ports (s : State) (i : Nat) (f : Stack → Stack) : (s.modStack i f).ports = s.ports := rfl
@[simp] theorem State.modStack_chipId (s : State) (i : Nat) (f : Stack → Stack) : (s.modStack i f).chipId = s.chipId := rfl
@[simp] theorem State.modStack_mgmt (s : State) (i : Nat) (f : Stack → Stack) : (s.modStack i f).mgmt = s.mgmt := rfl
@[simp] theorem State.modStack_remote (s : State) (i : Nat) (f : Stack → Stack) : (s.modStack i f).remote = s.remote := rfl
@[simp] theorem State.modStack_asks (s : State) (i : Nat) (f : Stack → Stack) : (s.modStack i f).asks = s.asks := rfl
@[simp] theorem State.modStack_ownIn (s : State) (i : Nat) (f : Stack → Stack) : (s.modStack i f).ownIn = s.ownIn := rfl
@[simp] theorem State.modStack_pcieUp (s : State) (i : Nat) (f : Stack → Stack) : (s.modStack i f).pcieUp = s.pcieUp := rfl
@[simp] theorem State.modStack_latch64 (s : State) (i : Nat) (f : Stack → Stack) : (s.modStack i f).latch64 = s.latch64 := rfl
@[simp] theorem State.modStack_outbox (s : State) (i : Nat) (f : Stack → Stack) : (s.modStack i f).outbox = s.outbox := rfl
@[simp] theorem State.modStack_nextTid (s : State) (i : Nat) (f : Stack → Stack) : (s.modStack i f).nextTid = s.nextTid := rfl
@[simp] theorem State.modStack_nextJob (s : State) (i : Nat) (f : Stack → Stack) : (s.modStack i f).nextJob = s.nextJob := rfl
@[simp] theorem State.modStack_nextTag (s : State) (i : Nat) (f : Stack → Stack) : (s.modStack i f).nextTag = s.nextTag := rfl

/-! ## emit -/

@[simp] theorem State.emit_agenda (s : State) (m : OutMsg) : (s.emit m).agenda = s.agenda := rfl
@[simp] theorem State.emit_cur (s : State) (m : OutMsg) : (s.emit m).cur = s.cur := rfl
@[simp] theorem State.emit_part (s : State) (m : OutMsg) : (s.emit m).part = s.part := rfl
@[simp] theorem State.emit_free (s : State) (m : OutMsg) : (s.emit m).free = s.free := rfl
@[simp] theorem State.emit_clk (s : State) (m : OutMsg) : (s.emit m).clk = s.clk := rfl
@[simp] theorem State.emit_grade (s : State) (m : OutMsg) : (s.emit m).grade = s.grade := rfl
@[simp] theorem State.emit_starting (s : State) (m : OutMsg) : (s.emit m).starting = s.starting := rfl
@[simp] theorem State.emit_mem (s : State) (m : OutMsg) : (s.emit m).mem = s.mem := rfl
@[simp] theorem State.emit_stale (s : State) (m : OutMsg) : (s.emit m).stale = s.stale := rfl
@[simp] theorem State.emit_late (s : State) (m : OutMsg) : (s.emit m).late = s.late := rfl
@[simp] theorem State.emit_coreTt (s : State) (m : OutMsg) : (s.emit m).coreTt = s.coreTt := rfl
@[simp] theorem State.emit_hostMem (s : State) (m : OutMsg) : (s.emit m).hostMem = s.hostMem := rfl
@[simp] theorem State.emit_hbm (s : State) (m : OutMsg) : (s.emit m).hbm = s.hbm := rfl
@[simp] theorem State.emit_tlb (s : State) (m : OutMsg) : (s.emit m).tlb = s.tlb := rfl
@[simp] theorem State.emit_walks (s : State) (m : OutMsg) : (s.emit m).walks = s.walks := rfl
@[simp] theorem State.emit_caches (s : State) (m : OutMsg) : (s.emit m).caches = s.caches := rfl
@[simp] theorem State.emit_ctxs (s : State) (m : OutMsg) : (s.emit m).ctxs = s.ctxs := rfl
@[simp] theorem State.emit_grids (s : State) (m : OutMsg) : (s.emit m).grids = s.grids := rfl
@[simp] theorem State.emit_teams (s : State) (m : OutMsg) : (s.emit m).teams = s.teams := rfl
@[simp] theorem State.emit_groups (s : State) (m : OutMsg) : (s.emit m).groups = s.groups := rfl
@[simp] theorem State.emit_jobs (s : State) (m : OutMsg) : (s.emit m).jobs = s.jobs := rfl
@[simp] theorem State.emit_insts (s : State) (m : OutMsg) : (s.emit m).insts = s.insts := rfl
@[simp] theorem State.emit_queues (s : State) (m : OutMsg) : (s.emit m).queues = s.queues := rfl
@[simp] theorem State.emit_launches (s : State) (m : OutMsg) : (s.emit m).launches = s.launches := rfl
@[simp] theorem State.emit_lastCol (s : State) (m : OutMsg) : (s.emit m).lastCol = s.lastCol := rfl
@[simp] theorem State.emit_sensors (s : State) (m : OutMsg) : (s.emit m).sensors = s.sensors := rfl
@[simp] theorem State.emit_columns (s : State) (m : OutMsg) : (s.emit m).columns = s.columns := rfl
@[simp] theorem State.emit_balances (s : State) (m : OutMsg) : (s.emit m).balances = s.balances := rfl
@[simp] theorem State.emit_power (s : State) (m : OutMsg) : (s.emit m).power = s.power := rfl
@[simp] theorem State.emit_rings (s : State) (m : OutMsg) : (s.emit m).rings = s.rings := rfl
@[simp] theorem State.emit_fw (s : State) (m : OutMsg) : (s.emit m).fw = s.fw := rfl
@[simp] theorem State.emit_ports (s : State) (m : OutMsg) : (s.emit m).ports = s.ports := rfl
@[simp] theorem State.emit_chipId (s : State) (m : OutMsg) : (s.emit m).chipId = s.chipId := rfl
@[simp] theorem State.emit_mgmt (s : State) (m : OutMsg) : (s.emit m).mgmt = s.mgmt := rfl
@[simp] theorem State.emit_remote (s : State) (m : OutMsg) : (s.emit m).remote = s.remote := rfl
@[simp] theorem State.emit_asks (s : State) (m : OutMsg) : (s.emit m).asks = s.asks := rfl
@[simp] theorem State.emit_ownIn (s : State) (m : OutMsg) : (s.emit m).ownIn = s.ownIn := rfl
@[simp] theorem State.emit_pcieUp (s : State) (m : OutMsg) : (s.emit m).pcieUp = s.pcieUp := rfl
@[simp] theorem State.emit_latch64 (s : State) (m : OutMsg) : (s.emit m).latch64 = s.latch64 := rfl
@[simp] theorem State.emit_nextTid (s : State) (m : OutMsg) : (s.emit m).nextTid = s.nextTid := rfl
@[simp] theorem State.emit_nextJob (s : State) (m : OutMsg) : (s.emit m).nextJob = s.nextJob := rfl
@[simp] theorem State.emit_nextTag (s : State) (m : OutMsg) : (s.emit m).nextTag = s.nextTag := rfl

/-! ## modCtx -/

@[simp] theorem State.modCtx_agenda (s : State) (c : Nat) (f : Context → Context) : (s.modCtx c f).agenda = s.agenda := by unfold State.modCtx; split <;> rfl
@[simp] theorem State.modCtx_cur (s : State) (c : Nat) (f : Context → Context) : (s.modCtx c f).cur = s.cur := by unfold State.modCtx; split <;> rfl
@[simp] theorem State.modCtx_part (s : State) (c : Nat) (f : Context → Context) : (s.modCtx c f).part = s.part := by unfold State.modCtx; split <;> rfl
@[simp] theorem State.modCtx_free (s : State) (c : Nat) (f : Context → Context) : (s.modCtx c f).free = s.free := by unfold State.modCtx; split <;> rfl
@[simp] theorem State.modCtx_clk (s : State) (c : Nat) (f : Context → Context) : (s.modCtx c f).clk = s.clk := by unfold State.modCtx; split <;> rfl
@[simp] theorem State.modCtx_grade (s : State) (c : Nat) (f : Context → Context) : (s.modCtx c f).grade = s.grade := by unfold State.modCtx; split <;> rfl
@[simp] theorem State.modCtx_starting (s : State) (c : Nat) (f : Context → Context) : (s.modCtx c f).starting = s.starting := by unfold State.modCtx; split <;> rfl
@[simp] theorem State.modCtx_mem (s : State) (c : Nat) (f : Context → Context) : (s.modCtx c f).mem = s.mem := by unfold State.modCtx; split <;> rfl
@[simp] theorem State.modCtx_stale (s : State) (c : Nat) (f : Context → Context) : (s.modCtx c f).stale = s.stale := by unfold State.modCtx; split <;> rfl
@[simp] theorem State.modCtx_late (s : State) (c : Nat) (f : Context → Context) : (s.modCtx c f).late = s.late := by unfold State.modCtx; split <;> rfl
@[simp] theorem State.modCtx_coreTt (s : State) (c : Nat) (f : Context → Context) : (s.modCtx c f).coreTt = s.coreTt := by unfold State.modCtx; split <;> rfl
@[simp] theorem State.modCtx_hostMem (s : State) (c : Nat) (f : Context → Context) : (s.modCtx c f).hostMem = s.hostMem := by unfold State.modCtx; split <;> rfl
@[simp] theorem State.modCtx_hbm (s : State) (c : Nat) (f : Context → Context) : (s.modCtx c f).hbm = s.hbm := by unfold State.modCtx; split <;> rfl
@[simp] theorem State.modCtx_tlb (s : State) (c : Nat) (f : Context → Context) : (s.modCtx c f).tlb = s.tlb := by unfold State.modCtx; split <;> rfl
@[simp] theorem State.modCtx_walks (s : State) (c : Nat) (f : Context → Context) : (s.modCtx c f).walks = s.walks := by unfold State.modCtx; split <;> rfl
@[simp] theorem State.modCtx_caches (s : State) (c : Nat) (f : Context → Context) : (s.modCtx c f).caches = s.caches := by unfold State.modCtx; split <;> rfl
@[simp] theorem State.modCtx_grids (s : State) (c : Nat) (f : Context → Context) : (s.modCtx c f).grids = s.grids := by unfold State.modCtx; split <;> rfl
@[simp] theorem State.modCtx_teams (s : State) (c : Nat) (f : Context → Context) : (s.modCtx c f).teams = s.teams := by unfold State.modCtx; split <;> rfl
@[simp] theorem State.modCtx_groups (s : State) (c : Nat) (f : Context → Context) : (s.modCtx c f).groups = s.groups := by unfold State.modCtx; split <;> rfl
@[simp] theorem State.modCtx_jobs (s : State) (c : Nat) (f : Context → Context) : (s.modCtx c f).jobs = s.jobs := by unfold State.modCtx; split <;> rfl
@[simp] theorem State.modCtx_insts (s : State) (c : Nat) (f : Context → Context) : (s.modCtx c f).insts = s.insts := by unfold State.modCtx; split <;> rfl
@[simp] theorem State.modCtx_queues (s : State) (c : Nat) (f : Context → Context) : (s.modCtx c f).queues = s.queues := by unfold State.modCtx; split <;> rfl
@[simp] theorem State.modCtx_launches (s : State) (c : Nat) (f : Context → Context) : (s.modCtx c f).launches = s.launches := by unfold State.modCtx; split <;> rfl
@[simp] theorem State.modCtx_lastCol (s : State) (c : Nat) (f : Context → Context) : (s.modCtx c f).lastCol = s.lastCol := by unfold State.modCtx; split <;> rfl
@[simp] theorem State.modCtx_sensors (s : State) (c : Nat) (f : Context → Context) : (s.modCtx c f).sensors = s.sensors := by unfold State.modCtx; split <;> rfl
@[simp] theorem State.modCtx_columns (s : State) (c : Nat) (f : Context → Context) : (s.modCtx c f).columns = s.columns := by unfold State.modCtx; split <;> rfl
@[simp] theorem State.modCtx_balances (s : State) (c : Nat) (f : Context → Context) : (s.modCtx c f).balances = s.balances := by unfold State.modCtx; split <;> rfl
@[simp] theorem State.modCtx_power (s : State) (c : Nat) (f : Context → Context) : (s.modCtx c f).power = s.power := by unfold State.modCtx; split <;> rfl
@[simp] theorem State.modCtx_rings (s : State) (c : Nat) (f : Context → Context) : (s.modCtx c f).rings = s.rings := by unfold State.modCtx; split <;> rfl
@[simp] theorem State.modCtx_fw (s : State) (c : Nat) (f : Context → Context) : (s.modCtx c f).fw = s.fw := by unfold State.modCtx; split <;> rfl
@[simp] theorem State.modCtx_ports (s : State) (c : Nat) (f : Context → Context) : (s.modCtx c f).ports = s.ports := by unfold State.modCtx; split <;> rfl
@[simp] theorem State.modCtx_chipId (s : State) (c : Nat) (f : Context → Context) : (s.modCtx c f).chipId = s.chipId := by unfold State.modCtx; split <;> rfl
@[simp] theorem State.modCtx_mgmt (s : State) (c : Nat) (f : Context → Context) : (s.modCtx c f).mgmt = s.mgmt := by unfold State.modCtx; split <;> rfl
@[simp] theorem State.modCtx_remote (s : State) (c : Nat) (f : Context → Context) : (s.modCtx c f).remote = s.remote := by unfold State.modCtx; split <;> rfl
@[simp] theorem State.modCtx_asks (s : State) (c : Nat) (f : Context → Context) : (s.modCtx c f).asks = s.asks := by unfold State.modCtx; split <;> rfl
@[simp] theorem State.modCtx_ownIn (s : State) (c : Nat) (f : Context → Context) : (s.modCtx c f).ownIn = s.ownIn := by unfold State.modCtx; split <;> rfl
@[simp] theorem State.modCtx_pcieUp (s : State) (c : Nat) (f : Context → Context) : (s.modCtx c f).pcieUp = s.pcieUp := by unfold State.modCtx; split <;> rfl
@[simp] theorem State.modCtx_latch64 (s : State) (c : Nat) (f : Context → Context) : (s.modCtx c f).latch64 = s.latch64 := by unfold State.modCtx; split <;> rfl
@[simp] theorem State.modCtx_outbox (s : State) (c : Nat) (f : Context → Context) : (s.modCtx c f).outbox = s.outbox := by unfold State.modCtx; split <;> rfl
@[simp] theorem State.modCtx_nextTid (s : State) (c : Nat) (f : Context → Context) : (s.modCtx c f).nextTid = s.nextTid := by unfold State.modCtx; split <;> rfl
@[simp] theorem State.modCtx_nextJob (s : State) (c : Nat) (f : Context → Context) : (s.modCtx c f).nextJob = s.nextJob := by unfold State.modCtx; split <;> rfl
@[simp] theorem State.modCtx_nextTag (s : State) (c : Nat) (f : Context → Context) : (s.modCtx c f).nextTag = s.nextTag := by unfold State.modCtx; split <;> rfl

/-! ## count -/

@[simp] theorem State.count_agenda (s : State) (c o n : Nat) : (s.count c o n).agenda = s.agenda := by simp [State.count]
@[simp] theorem State.count_cur (s : State) (c o n : Nat) : (s.count c o n).cur = s.cur := by simp [State.count]
@[simp] theorem State.count_part (s : State) (c o n : Nat) : (s.count c o n).part = s.part := by simp [State.count]
@[simp] theorem State.count_free (s : State) (c o n : Nat) : (s.count c o n).free = s.free := by simp [State.count]
@[simp] theorem State.count_clk (s : State) (c o n : Nat) : (s.count c o n).clk = s.clk := by simp [State.count]
@[simp] theorem State.count_grade (s : State) (c o n : Nat) : (s.count c o n).grade = s.grade := by simp [State.count]
@[simp] theorem State.count_starting (s : State) (c o n : Nat) : (s.count c o n).starting = s.starting := by simp [State.count]
@[simp] theorem State.count_mem (s : State) (c o n : Nat) : (s.count c o n).mem = s.mem := by simp [State.count]
@[simp] theorem State.count_stale (s : State) (c o n : Nat) : (s.count c o n).stale = s.stale := by simp [State.count]
@[simp] theorem State.count_late (s : State) (c o n : Nat) : (s.count c o n).late = s.late := by simp [State.count]
@[simp] theorem State.count_coreTt (s : State) (c o n : Nat) : (s.count c o n).coreTt = s.coreTt := by simp [State.count]
@[simp] theorem State.count_hostMem (s : State) (c o n : Nat) : (s.count c o n).hostMem = s.hostMem := by simp [State.count]
@[simp] theorem State.count_hbm (s : State) (c o n : Nat) : (s.count c o n).hbm = s.hbm := by simp [State.count]
@[simp] theorem State.count_tlb (s : State) (c o n : Nat) : (s.count c o n).tlb = s.tlb := by simp [State.count]
@[simp] theorem State.count_walks (s : State) (c o n : Nat) : (s.count c o n).walks = s.walks := by simp [State.count]
@[simp] theorem State.count_caches (s : State) (c o n : Nat) : (s.count c o n).caches = s.caches := by simp [State.count]
@[simp] theorem State.count_grids (s : State) (c o n : Nat) : (s.count c o n).grids = s.grids := by simp [State.count]
@[simp] theorem State.count_teams (s : State) (c o n : Nat) : (s.count c o n).teams = s.teams := by simp [State.count]
@[simp] theorem State.count_groups (s : State) (c o n : Nat) : (s.count c o n).groups = s.groups := by simp [State.count]
@[simp] theorem State.count_jobs (s : State) (c o n : Nat) : (s.count c o n).jobs = s.jobs := by simp [State.count]
@[simp] theorem State.count_insts (s : State) (c o n : Nat) : (s.count c o n).insts = s.insts := by simp [State.count]
@[simp] theorem State.count_queues (s : State) (c o n : Nat) : (s.count c o n).queues = s.queues := by simp [State.count]
@[simp] theorem State.count_launches (s : State) (c o n : Nat) : (s.count c o n).launches = s.launches := by simp [State.count]
@[simp] theorem State.count_lastCol (s : State) (c o n : Nat) : (s.count c o n).lastCol = s.lastCol := by simp [State.count]
@[simp] theorem State.count_sensors (s : State) (c o n : Nat) : (s.count c o n).sensors = s.sensors := by simp [State.count]
@[simp] theorem State.count_columns (s : State) (c o n : Nat) : (s.count c o n).columns = s.columns := by simp [State.count]
@[simp] theorem State.count_balances (s : State) (c o n : Nat) : (s.count c o n).balances = s.balances := by simp [State.count]
@[simp] theorem State.count_power (s : State) (c o n : Nat) : (s.count c o n).power = s.power := by simp [State.count]
@[simp] theorem State.count_rings (s : State) (c o n : Nat) : (s.count c o n).rings = s.rings := by simp [State.count]
@[simp] theorem State.count_fw (s : State) (c o n : Nat) : (s.count c o n).fw = s.fw := by simp [State.count]
@[simp] theorem State.count_ports (s : State) (c o n : Nat) : (s.count c o n).ports = s.ports := by simp [State.count]
@[simp] theorem State.count_chipId (s : State) (c o n : Nat) : (s.count c o n).chipId = s.chipId := by simp [State.count]
@[simp] theorem State.count_mgmt (s : State) (c o n : Nat) : (s.count c o n).mgmt = s.mgmt := by simp [State.count]
@[simp] theorem State.count_remote (s : State) (c o n : Nat) : (s.count c o n).remote = s.remote := by simp [State.count]
@[simp] theorem State.count_asks (s : State) (c o n : Nat) : (s.count c o n).asks = s.asks := by simp [State.count]
@[simp] theorem State.count_ownIn (s : State) (c o n : Nat) : (s.count c o n).ownIn = s.ownIn := by simp [State.count]
@[simp] theorem State.count_pcieUp (s : State) (c o n : Nat) : (s.count c o n).pcieUp = s.pcieUp := by simp [State.count]
@[simp] theorem State.count_latch64 (s : State) (c o n : Nat) : (s.count c o n).latch64 = s.latch64 := by simp [State.count]
@[simp] theorem State.count_outbox (s : State) (c o n : Nat) : (s.count c o n).outbox = s.outbox := by simp [State.count]
@[simp] theorem State.count_nextTid (s : State) (c o n : Nat) : (s.count c o n).nextTid = s.nextTid := by simp [State.count]
@[simp] theorem State.count_nextJob (s : State) (c o n : Nat) : (s.count c o n).nextJob = s.nextJob := by simp [State.count]
@[simp] theorem State.count_nextTag (s : State) (c o n : Nat) : (s.count c o n).nextTag = s.nextTag := by simp [State.count]

/-! ## rotate -/

@[simp] theorem State.rotate_agenda (s : State) (n : Nat) : (s.rotate n).agenda = s.agenda := by unfold State.rotate; repeat (any_goals (first | rfl | split))
@[simp] theorem State.rotate_cur (s : State) (n : Nat) : (s.rotate n).cur = s.cur := by unfold State.rotate; repeat (any_goals (first | rfl | split))
@[simp] theorem State.rotate_part (s : State) (n : Nat) : (s.rotate n).part = s.part := by unfold State.rotate; repeat (any_goals (first | rfl | split))
@[simp] theorem State.rotate_free (s : State) (n : Nat) : (s.rotate n).free = s.free := by unfold State.rotate; repeat (any_goals (first | rfl | split))
@[simp] theorem State.rotate_clk (s : State) (n : Nat) : (s.rotate n).clk = s.clk := by unfold State.rotate; repeat (any_goals (first | rfl | split))
@[simp] theorem State.rotate_grade (s : State) (n : Nat) : (s.rotate n).grade = s.grade := by unfold State.rotate; repeat (any_goals (first | rfl | split))
@[simp] theorem State.rotate_starting (s : State) (n : Nat) : (s.rotate n).starting = s.starting := by unfold State.rotate; repeat (any_goals (first | rfl | split))
@[simp] theorem State.rotate_mem (s : State) (n : Nat) : (s.rotate n).mem = s.mem := by unfold State.rotate; repeat (any_goals (first | rfl | split))
@[simp] theorem State.rotate_stale (s : State) (n : Nat) : (s.rotate n).stale = s.stale := by unfold State.rotate; repeat (any_goals (first | rfl | split))
@[simp] theorem State.rotate_late (s : State) (n : Nat) : (s.rotate n).late = s.late := by unfold State.rotate; repeat (any_goals (first | rfl | split))
@[simp] theorem State.rotate_coreTt (s : State) (n : Nat) : (s.rotate n).coreTt = s.coreTt := by unfold State.rotate; repeat (any_goals (first | rfl | split))
@[simp] theorem State.rotate_hostMem (s : State) (n : Nat) : (s.rotate n).hostMem = s.hostMem := by unfold State.rotate; repeat (any_goals (first | rfl | split))
@[simp] theorem State.rotate_hbm (s : State) (n : Nat) : (s.rotate n).hbm = s.hbm := by unfold State.rotate; repeat (any_goals (first | rfl | split))
@[simp] theorem State.rotate_tlb (s : State) (n : Nat) : (s.rotate n).tlb = s.tlb := by unfold State.rotate; repeat (any_goals (first | rfl | split))
@[simp] theorem State.rotate_walks (s : State) (n : Nat) : (s.rotate n).walks = s.walks := by unfold State.rotate; repeat (any_goals (first | rfl | split))
@[simp] theorem State.rotate_caches (s : State) (n : Nat) : (s.rotate n).caches = s.caches := by unfold State.rotate; repeat (any_goals (first | rfl | split))
@[simp] theorem State.rotate_ctxs (s : State) (n : Nat) : (s.rotate n).ctxs = s.ctxs := by unfold State.rotate; repeat (any_goals (first | rfl | split))
@[simp] theorem State.rotate_grids (s : State) (n : Nat) : (s.rotate n).grids = s.grids := by unfold State.rotate; repeat (any_goals (first | rfl | split))
@[simp] theorem State.rotate_groups (s : State) (n : Nat) : (s.rotate n).groups = s.groups := by unfold State.rotate; repeat (any_goals (first | rfl | split))
@[simp] theorem State.rotate_jobs (s : State) (n : Nat) : (s.rotate n).jobs = s.jobs := by unfold State.rotate; repeat (any_goals (first | rfl | split))
@[simp] theorem State.rotate_insts (s : State) (n : Nat) : (s.rotate n).insts = s.insts := by unfold State.rotate; repeat (any_goals (first | rfl | split))
@[simp] theorem State.rotate_queues (s : State) (n : Nat) : (s.rotate n).queues = s.queues := by unfold State.rotate; repeat (any_goals (first | rfl | split))
@[simp] theorem State.rotate_launches (s : State) (n : Nat) : (s.rotate n).launches = s.launches := by unfold State.rotate; repeat (any_goals (first | rfl | split))
@[simp] theorem State.rotate_lastCol (s : State) (n : Nat) : (s.rotate n).lastCol = s.lastCol := by unfold State.rotate; repeat (any_goals (first | rfl | split))
@[simp] theorem State.rotate_sensors (s : State) (n : Nat) : (s.rotate n).sensors = s.sensors := by unfold State.rotate; repeat (any_goals (first | rfl | split))
@[simp] theorem State.rotate_columns (s : State) (n : Nat) : (s.rotate n).columns = s.columns := by unfold State.rotate; repeat (any_goals (first | rfl | split))
@[simp] theorem State.rotate_balances (s : State) (n : Nat) : (s.rotate n).balances = s.balances := by unfold State.rotate; repeat (any_goals (first | rfl | split))
@[simp] theorem State.rotate_power (s : State) (n : Nat) : (s.rotate n).power = s.power := by unfold State.rotate; repeat (any_goals (first | rfl | split))
@[simp] theorem State.rotate_rings (s : State) (n : Nat) : (s.rotate n).rings = s.rings := by unfold State.rotate; repeat (any_goals (first | rfl | split))
@[simp] theorem State.rotate_fw (s : State) (n : Nat) : (s.rotate n).fw = s.fw := by unfold State.rotate; repeat (any_goals (first | rfl | split))
@[simp] theorem State.rotate_ports (s : State) (n : Nat) : (s.rotate n).ports = s.ports := by unfold State.rotate; repeat (any_goals (first | rfl | split))
@[simp] theorem State.rotate_chipId (s : State) (n : Nat) : (s.rotate n).chipId = s.chipId := by unfold State.rotate; repeat (any_goals (first | rfl | split))
@[simp] theorem State.rotate_mgmt (s : State) (n : Nat) : (s.rotate n).mgmt = s.mgmt := by unfold State.rotate; repeat (any_goals (first | rfl | split))
@[simp] theorem State.rotate_remote (s : State) (n : Nat) : (s.rotate n).remote = s.remote := by unfold State.rotate; repeat (any_goals (first | rfl | split))
@[simp] theorem State.rotate_asks (s : State) (n : Nat) : (s.rotate n).asks = s.asks := by unfold State.rotate; repeat (any_goals (first | rfl | split))
@[simp] theorem State.rotate_ownIn (s : State) (n : Nat) : (s.rotate n).ownIn = s.ownIn := by unfold State.rotate; repeat (any_goals (first | rfl | split))
@[simp] theorem State.rotate_pcieUp (s : State) (n : Nat) : (s.rotate n).pcieUp = s.pcieUp := by unfold State.rotate; repeat (any_goals (first | rfl | split))
@[simp] theorem State.rotate_latch64 (s : State) (n : Nat) : (s.rotate n).latch64 = s.latch64 := by unfold State.rotate; repeat (any_goals (first | rfl | split))
@[simp] theorem State.rotate_outbox (s : State) (n : Nat) : (s.rotate n).outbox = s.outbox := by unfold State.rotate; repeat (any_goals (first | rfl | split))
@[simp] theorem State.rotate_nextTid (s : State) (n : Nat) : (s.rotate n).nextTid = s.nextTid := by unfold State.rotate; repeat (any_goals (first | rfl | split))
@[simp] theorem State.rotate_nextJob (s : State) (n : Nat) : (s.rotate n).nextJob = s.nextJob := by unfold State.rotate; repeat (any_goals (first | rfl | split))
@[simp] theorem State.rotate_nextTag (s : State) (n : Nat) : (s.rotate n).nextTag = s.nextTag := by unfold State.rotate; repeat (any_goals (first | rfl | split))

/-! ## stepEnds -/

@[simp] theorem State.stepEnds_agenda (s : State) (g : Group) : (s.stepEnds g).agenda = s.agenda := by unfold State.stepEnds; split <;> simp
@[simp] theorem State.stepEnds_cur (s : State) (g : Group) : (s.stepEnds g).cur = s.cur := by unfold State.stepEnds; split <;> simp
@[simp] theorem State.stepEnds_part (s : State) (g : Group) : (s.stepEnds g).part = s.part := by unfold State.stepEnds; split <;> simp
@[simp] theorem State.stepEnds_free (s : State) (g : Group) : (s.stepEnds g).free = s.free := by unfold State.stepEnds; split <;> simp
@[simp] theorem State.stepEnds_clk (s : State) (g : Group) : (s.stepEnds g).clk = s.clk := by unfold State.stepEnds; split <;> simp
@[simp] theorem State.stepEnds_grade (s : State) (g : Group) : (s.stepEnds g).grade = s.grade := by unfold State.stepEnds; split <;> simp
@[simp] theorem State.stepEnds_starting (s : State) (g : Group) : (s.stepEnds g).starting = s.starting := by unfold State.stepEnds; split <;> simp
@[simp] theorem State.stepEnds_mem (s : State) (g : Group) : (s.stepEnds g).mem = s.mem := by unfold State.stepEnds; split <;> simp
@[simp] theorem State.stepEnds_stale (s : State) (g : Group) : (s.stepEnds g).stale = s.stale := by unfold State.stepEnds; split <;> simp
@[simp] theorem State.stepEnds_late (s : State) (g : Group) : (s.stepEnds g).late = s.late := by unfold State.stepEnds; split <;> simp
@[simp] theorem State.stepEnds_coreTt (s : State) (g : Group) : (s.stepEnds g).coreTt = s.coreTt := by unfold State.stepEnds; split <;> simp
@[simp] theorem State.stepEnds_hostMem (s : State) (g : Group) : (s.stepEnds g).hostMem = s.hostMem := by unfold State.stepEnds; split <;> simp
@[simp] theorem State.stepEnds_hbm (s : State) (g : Group) : (s.stepEnds g).hbm = s.hbm := by unfold State.stepEnds; split <;> simp
@[simp] theorem State.stepEnds_tlb (s : State) (g : Group) : (s.stepEnds g).tlb = s.tlb := by unfold State.stepEnds; split <;> simp
@[simp] theorem State.stepEnds_walks (s : State) (g : Group) : (s.stepEnds g).walks = s.walks := by unfold State.stepEnds; split <;> simp
@[simp] theorem State.stepEnds_caches (s : State) (g : Group) : (s.stepEnds g).caches = s.caches := by unfold State.stepEnds; split <;> simp
@[simp] theorem State.stepEnds_ctxs (s : State) (g : Group) : (s.stepEnds g).ctxs = s.ctxs := by unfold State.stepEnds; split <;> simp
@[simp] theorem State.stepEnds_grids (s : State) (g : Group) : (s.stepEnds g).grids = s.grids := by unfold State.stepEnds; split <;> simp
@[simp] theorem State.stepEnds_groups (s : State) (g : Group) : (s.stepEnds g).groups = s.groups := by unfold State.stepEnds; split <;> simp
@[simp] theorem State.stepEnds_jobs (s : State) (g : Group) : (s.stepEnds g).jobs = s.jobs := by unfold State.stepEnds; split <;> simp
@[simp] theorem State.stepEnds_insts (s : State) (g : Group) : (s.stepEnds g).insts = s.insts := by unfold State.stepEnds; split <;> simp
@[simp] theorem State.stepEnds_queues (s : State) (g : Group) : (s.stepEnds g).queues = s.queues := by unfold State.stepEnds; split <;> simp
@[simp] theorem State.stepEnds_launches (s : State) (g : Group) : (s.stepEnds g).launches = s.launches := by unfold State.stepEnds; split <;> simp
@[simp] theorem State.stepEnds_lastCol (s : State) (g : Group) : (s.stepEnds g).lastCol = s.lastCol := by unfold State.stepEnds; split <;> simp
@[simp] theorem State.stepEnds_sensors (s : State) (g : Group) : (s.stepEnds g).sensors = s.sensors := by unfold State.stepEnds; split <;> simp
@[simp] theorem State.stepEnds_columns (s : State) (g : Group) : (s.stepEnds g).columns = s.columns := by unfold State.stepEnds; split <;> simp
@[simp] theorem State.stepEnds_balances (s : State) (g : Group) : (s.stepEnds g).balances = s.balances := by unfold State.stepEnds; split <;> simp
@[simp] theorem State.stepEnds_power (s : State) (g : Group) : (s.stepEnds g).power = s.power := by unfold State.stepEnds; split <;> simp
@[simp] theorem State.stepEnds_rings (s : State) (g : Group) : (s.stepEnds g).rings = s.rings := by unfold State.stepEnds; split <;> simp
@[simp] theorem State.stepEnds_fw (s : State) (g : Group) : (s.stepEnds g).fw = s.fw := by unfold State.stepEnds; split <;> simp
@[simp] theorem State.stepEnds_ports (s : State) (g : Group) : (s.stepEnds g).ports = s.ports := by unfold State.stepEnds; split <;> simp
@[simp] theorem State.stepEnds_chipId (s : State) (g : Group) : (s.stepEnds g).chipId = s.chipId := by unfold State.stepEnds; split <;> simp
@[simp] theorem State.stepEnds_mgmt (s : State) (g : Group) : (s.stepEnds g).mgmt = s.mgmt := by unfold State.stepEnds; split <;> simp
@[simp] theorem State.stepEnds_remote (s : State) (g : Group) : (s.stepEnds g).remote = s.remote := by unfold State.stepEnds; split <;> simp
@[simp] theorem State.stepEnds_asks (s : State) (g : Group) : (s.stepEnds g).asks = s.asks := by unfold State.stepEnds; split <;> simp
@[simp] theorem State.stepEnds_ownIn (s : State) (g : Group) : (s.stepEnds g).ownIn = s.ownIn := by unfold State.stepEnds; split <;> simp
@[simp] theorem State.stepEnds_pcieUp (s : State) (g : Group) : (s.stepEnds g).pcieUp = s.pcieUp := by unfold State.stepEnds; split <;> simp
@[simp] theorem State.stepEnds_latch64 (s : State) (g : Group) : (s.stepEnds g).latch64 = s.latch64 := by unfold State.stepEnds; split <;> simp
@[simp] theorem State.stepEnds_outbox (s : State) (g : Group) : (s.stepEnds g).outbox = s.outbox := by unfold State.stepEnds; split <;> simp
@[simp] theorem State.stepEnds_nextTid (s : State) (g : Group) : (s.stepEnds g).nextTid = s.nextTid := by unfold State.stepEnds; split <;> simp
@[simp] theorem State.stepEnds_nextJob (s : State) (g : Group) : (s.stepEnds g).nextJob = s.nextJob := by unfold State.stepEnds; split <;> simp
@[simp] theorem State.stepEnds_nextTag (s : State) (g : Group) : (s.stepEnds g).nextTag = s.nextTag := by unfold State.stepEnds; split <;> simp

/-! ## reach -/

@[simp] theorem State.reach_agenda (s : State) (pa : Nat) : (s.reach pa).agenda = s.agenda := by unfold State.reach; split <;> rfl
@[simp] theorem State.reach_cur (s : State) (pa : Nat) : (s.reach pa).cur = s.cur := by unfold State.reach; split <;> rfl
@[simp] theorem State.reach_part (s : State) (pa : Nat) : (s.reach pa).part = s.part := by unfold State.reach; split <;> rfl
@[simp] theorem State.reach_free (s : State) (pa : Nat) : (s.reach pa).free = s.free := by unfold State.reach; split <;> rfl
@[simp] theorem State.reach_clk (s : State) (pa : Nat) : (s.reach pa).clk = s.clk := by unfold State.reach; split <;> rfl
@[simp] theorem State.reach_grade (s : State) (pa : Nat) : (s.reach pa).grade = s.grade := by unfold State.reach; split <;> rfl
@[simp] theorem State.reach_starting (s : State) (pa : Nat) : (s.reach pa).starting = s.starting := by unfold State.reach; split <;> rfl
@[simp] theorem State.reach_mem (s : State) (pa : Nat) : (s.reach pa).mem = s.mem := by unfold State.reach; split <;> rfl
@[simp] theorem State.reach_stale (s : State) (pa : Nat) : (s.reach pa).stale = s.stale := by unfold State.reach; split <;> rfl
@[simp] theorem State.reach_late (s : State) (pa : Nat) : (s.reach pa).late = s.late := by unfold State.reach; split <;> rfl
@[simp] theorem State.reach_coreTt (s : State) (pa : Nat) : (s.reach pa).coreTt = s.coreTt := by unfold State.reach; split <;> rfl
@[simp] theorem State.reach_hostMem (s : State) (pa : Nat) : (s.reach pa).hostMem = s.hostMem := by unfold State.reach; split <;> rfl
@[simp] theorem State.reach_tlb (s : State) (pa : Nat) : (s.reach pa).tlb = s.tlb := by unfold State.reach; split <;> rfl
@[simp] theorem State.reach_walks (s : State) (pa : Nat) : (s.reach pa).walks = s.walks := by unfold State.reach; split <;> rfl
@[simp] theorem State.reach_caches (s : State) (pa : Nat) : (s.reach pa).caches = s.caches := by unfold State.reach; split <;> rfl
@[simp] theorem State.reach_ctxs (s : State) (pa : Nat) : (s.reach pa).ctxs = s.ctxs := by unfold State.reach; split <;> rfl
@[simp] theorem State.reach_grids (s : State) (pa : Nat) : (s.reach pa).grids = s.grids := by unfold State.reach; split <;> rfl
@[simp] theorem State.reach_teams (s : State) (pa : Nat) : (s.reach pa).teams = s.teams := by unfold State.reach; split <;> rfl
@[simp] theorem State.reach_groups (s : State) (pa : Nat) : (s.reach pa).groups = s.groups := by unfold State.reach; split <;> rfl
@[simp] theorem State.reach_jobs (s : State) (pa : Nat) : (s.reach pa).jobs = s.jobs := by unfold State.reach; split <;> rfl
@[simp] theorem State.reach_insts (s : State) (pa : Nat) : (s.reach pa).insts = s.insts := by unfold State.reach; split <;> rfl
@[simp] theorem State.reach_queues (s : State) (pa : Nat) : (s.reach pa).queues = s.queues := by unfold State.reach; split <;> rfl
@[simp] theorem State.reach_launches (s : State) (pa : Nat) : (s.reach pa).launches = s.launches := by unfold State.reach; split <;> rfl
@[simp] theorem State.reach_lastCol (s : State) (pa : Nat) : (s.reach pa).lastCol = s.lastCol := by unfold State.reach; split <;> rfl
@[simp] theorem State.reach_sensors (s : State) (pa : Nat) : (s.reach pa).sensors = s.sensors := by unfold State.reach; split <;> rfl
@[simp] theorem State.reach_columns (s : State) (pa : Nat) : (s.reach pa).columns = s.columns := by unfold State.reach; split <;> rfl
@[simp] theorem State.reach_balances (s : State) (pa : Nat) : (s.reach pa).balances = s.balances := by unfold State.reach; split <;> rfl
@[simp] theorem State.reach_power (s : State) (pa : Nat) : (s.reach pa).power = s.power := by unfold State.reach; split <;> rfl
@[simp] theorem State.reach_rings (s : State) (pa : Nat) : (s.reach pa).rings = s.rings := by unfold State.reach; split <;> rfl
@[simp] theorem State.reach_fw (s : State) (pa : Nat) : (s.reach pa).fw = s.fw := by unfold State.reach; split <;> rfl
@[simp] theorem State.reach_ports (s : State) (pa : Nat) : (s.reach pa).ports = s.ports := by unfold State.reach; split <;> rfl
@[simp] theorem State.reach_chipId (s : State) (pa : Nat) : (s.reach pa).chipId = s.chipId := by unfold State.reach; split <;> rfl
@[simp] theorem State.reach_mgmt (s : State) (pa : Nat) : (s.reach pa).mgmt = s.mgmt := by unfold State.reach; split <;> rfl
@[simp] theorem State.reach_remote (s : State) (pa : Nat) : (s.reach pa).remote = s.remote := by unfold State.reach; split <;> rfl
@[simp] theorem State.reach_asks (s : State) (pa : Nat) : (s.reach pa).asks = s.asks := by unfold State.reach; split <;> rfl
@[simp] theorem State.reach_ownIn (s : State) (pa : Nat) : (s.reach pa).ownIn = s.ownIn := by unfold State.reach; split <;> rfl
@[simp] theorem State.reach_pcieUp (s : State) (pa : Nat) : (s.reach pa).pcieUp = s.pcieUp := by unfold State.reach; split <;> rfl
@[simp] theorem State.reach_latch64 (s : State) (pa : Nat) : (s.reach pa).latch64 = s.latch64 := by unfold State.reach; split <;> rfl
@[simp] theorem State.reach_outbox (s : State) (pa : Nat) : (s.reach pa).outbox = s.outbox := by unfold State.reach; split <;> rfl
@[simp] theorem State.reach_nextTid (s : State) (pa : Nat) : (s.reach pa).nextTid = s.nextTid := by unfold State.reach; split <;> rfl
@[simp] theorem State.reach_nextJob (s : State) (pa : Nat) : (s.reach pa).nextJob = s.nextJob := by unfold State.reach; split <;> rfl
@[simp] theorem State.reach_nextTag (s : State) (pa : Nat) : (s.reach pa).nextTag = s.nextTag := by unfold State.reach; split <;> rfl

/-! ## dropLines -/

@[simp] theorem State.dropLines_agenda (s : State) (f : CacheLine → Bool) : (s.dropLines f).agenda = s.agenda := rfl
@[simp] theorem State.dropLines_cur (s : State) (f : CacheLine → Bool) : (s.dropLines f).cur = s.cur := rfl
@[simp] theorem State.dropLines_part (s : State) (f : CacheLine → Bool) : (s.dropLines f).part = s.part := rfl
@[simp] theorem State.dropLines_free (s : State) (f : CacheLine → Bool) : (s.dropLines f).free = s.free := rfl
@[simp] theorem State.dropLines_clk (s : State) (f : CacheLine → Bool) : (s.dropLines f).clk = s.clk := rfl
@[simp] theorem State.dropLines_grade (s : State) (f : CacheLine → Bool) : (s.dropLines f).grade = s.grade := rfl
@[simp] theorem State.dropLines_starting (s : State) (f : CacheLine → Bool) : (s.dropLines f).starting = s.starting := rfl
@[simp] theorem State.dropLines_mem (s : State) (f : CacheLine → Bool) : (s.dropLines f).mem = s.mem := rfl
@[simp] theorem State.dropLines_late (s : State) (f : CacheLine → Bool) : (s.dropLines f).late = s.late := rfl
@[simp] theorem State.dropLines_coreTt (s : State) (f : CacheLine → Bool) : (s.dropLines f).coreTt = s.coreTt := rfl
@[simp] theorem State.dropLines_hostMem (s : State) (f : CacheLine → Bool) : (s.dropLines f).hostMem = s.hostMem := rfl
@[simp] theorem State.dropLines_hbm (s : State) (f : CacheLine → Bool) : (s.dropLines f).hbm = s.hbm := rfl
@[simp] theorem State.dropLines_tlb (s : State) (f : CacheLine → Bool) : (s.dropLines f).tlb = s.tlb := rfl
@[simp] theorem State.dropLines_walks (s : State) (f : CacheLine → Bool) : (s.dropLines f).walks = s.walks := rfl
@[simp] theorem State.dropLines_ctxs (s : State) (f : CacheLine → Bool) : (s.dropLines f).ctxs = s.ctxs := rfl
@[simp] theorem State.dropLines_grids (s : State) (f : CacheLine → Bool) : (s.dropLines f).grids = s.grids := rfl
@[simp] theorem State.dropLines_teams (s : State) (f : CacheLine → Bool) : (s.dropLines f).teams = s.teams := rfl
@[simp] theorem State.dropLines_groups (s : State) (f : CacheLine → Bool) : (s.dropLines f).groups = s.groups := rfl
@[simp] theorem State.dropLines_jobs (s : State) (f : CacheLine → Bool) : (s.dropLines f).jobs = s.jobs := rfl
@[simp] theorem State.dropLines_insts (s : State) (f : CacheLine → Bool) : (s.dropLines f).insts = s.insts := rfl
@[simp] theorem State.dropLines_queues (s : State) (f : CacheLine → Bool) : (s.dropLines f).queues = s.queues := rfl
@[simp] theorem State.dropLines_launches (s : State) (f : CacheLine → Bool) : (s.dropLines f).launches = s.launches := rfl
@[simp] theorem State.dropLines_lastCol (s : State) (f : CacheLine → Bool) : (s.dropLines f).lastCol = s.lastCol := rfl
@[simp] theorem State.dropLines_sensors (s : State) (f : CacheLine → Bool) : (s.dropLines f).sensors = s.sensors := rfl
@[simp] theorem State.dropLines_columns (s : State) (f : CacheLine → Bool) : (s.dropLines f).columns = s.columns := rfl
@[simp] theorem State.dropLines_balances (s : State) (f : CacheLine → Bool) : (s.dropLines f).balances = s.balances := rfl
@[simp] theorem State.dropLines_power (s : State) (f : CacheLine → Bool) : (s.dropLines f).power = s.power := rfl
@[simp] theorem State.dropLines_rings (s : State) (f : CacheLine → Bool) : (s.dropLines f).rings = s.rings := rfl
@[simp] theorem State.dropLines_fw (s : State) (f : CacheLine → Bool) : (s.dropLines f).fw = s.fw := rfl
@[simp] theorem State.dropLines_ports (s : State) (f : CacheLine → Bool) : (s.dropLines f).ports = s.ports := rfl
@[simp] theorem State.dropLines_chipId (s : State) (f : CacheLine → Bool) : (s.dropLines f).chipId = s.chipId := rfl
@[simp] theorem State.dropLines_mgmt (s : State) (f : CacheLine → Bool) : (s.dropLines f).mgmt = s.mgmt := rfl
@[simp] theorem State.dropLines_remote (s : State) (f : CacheLine → Bool) : (s.dropLines f).remote = s.remote := rfl
@[simp] theorem State.dropLines_asks (s : State) (f : CacheLine → Bool) : (s.dropLines f).asks = s.asks := rfl
@[simp] theorem State.dropLines_ownIn (s : State) (f : CacheLine → Bool) : (s.dropLines f).ownIn = s.ownIn := rfl
@[simp] theorem State.dropLines_pcieUp (s : State) (f : CacheLine → Bool) : (s.dropLines f).pcieUp = s.pcieUp := rfl
@[simp] theorem State.dropLines_latch64 (s : State) (f : CacheLine → Bool) : (s.dropLines f).latch64 = s.latch64 := rfl
@[simp] theorem State.dropLines_outbox (s : State) (f : CacheLine → Bool) : (s.dropLines f).outbox = s.outbox := rfl
@[simp] theorem State.dropLines_nextTid (s : State) (f : CacheLine → Bool) : (s.dropLines f).nextTid = s.nextTid := rfl
@[simp] theorem State.dropLines_nextJob (s : State) (f : CacheLine → Bool) : (s.dropLines f).nextJob = s.nextJob := rfl
@[simp] theorem State.dropLines_nextTag (s : State) (f : CacheLine → Bool) : (s.dropLines f).nextTag = s.nextTag := rfl

/-! ## useL2 -/

@[simp] theorem State.useL2_agenda (s : State) (pa cc : Nat) (w : Bool) : (s.useL2 pa cc w).agenda = s.agenda := by unfold State.useL2; repeat' (first | rfl | simp | split)
@[simp] theorem State.useL2_cur (s : State) (pa cc : Nat) (w : Bool) : (s.useL2 pa cc w).cur = s.cur := by unfold State.useL2; repeat' (first | rfl | simp | split)
@[simp] theorem State.useL2_part (s : State) (pa cc : Nat) (w : Bool) : (s.useL2 pa cc w).part = s.part := by unfold State.useL2; repeat' (first | rfl | simp | split)
@[simp] theorem State.useL2_free (s : State) (pa cc : Nat) (w : Bool) : (s.useL2 pa cc w).free = s.free := by unfold State.useL2; repeat' (first | rfl | simp | split)
@[simp] theorem State.useL2_clk (s : State) (pa cc : Nat) (w : Bool) : (s.useL2 pa cc w).clk = s.clk := by unfold State.useL2; repeat' (first | rfl | simp | split)
@[simp] theorem State.useL2_grade (s : State) (pa cc : Nat) (w : Bool) : (s.useL2 pa cc w).grade = s.grade := by unfold State.useL2; repeat' (first | rfl | simp | split)
@[simp] theorem State.useL2_starting (s : State) (pa cc : Nat) (w : Bool) : (s.useL2 pa cc w).starting = s.starting := by unfold State.useL2; repeat' (first | rfl | simp | split)
@[simp] theorem State.useL2_mem (s : State) (pa cc : Nat) (w : Bool) : (s.useL2 pa cc w).mem = s.mem := by unfold State.useL2; repeat' (first | rfl | simp | split)
@[simp] theorem State.useL2_stale (s : State) (pa cc : Nat) (w : Bool) : (s.useL2 pa cc w).stale = s.stale := by unfold State.useL2; repeat' (first | rfl | simp | split)
@[simp] theorem State.useL2_late (s : State) (pa cc : Nat) (w : Bool) : (s.useL2 pa cc w).late = s.late := by unfold State.useL2; repeat' (first | rfl | simp | split)
@[simp] theorem State.useL2_coreTt (s : State) (pa cc : Nat) (w : Bool) : (s.useL2 pa cc w).coreTt = s.coreTt := by unfold State.useL2; repeat' (first | rfl | simp | split)
@[simp] theorem State.useL2_hostMem (s : State) (pa cc : Nat) (w : Bool) : (s.useL2 pa cc w).hostMem = s.hostMem := by unfold State.useL2; repeat' (first | rfl | simp | split)
@[simp] theorem State.useL2_tlb (s : State) (pa cc : Nat) (w : Bool) : (s.useL2 pa cc w).tlb = s.tlb := by unfold State.useL2; repeat' (first | rfl | simp | split)
@[simp] theorem State.useL2_walks (s : State) (pa cc : Nat) (w : Bool) : (s.useL2 pa cc w).walks = s.walks := by unfold State.useL2; repeat' (first | rfl | simp | split)
@[simp] theorem State.useL2_ctxs (s : State) (pa cc : Nat) (w : Bool) : (s.useL2 pa cc w).ctxs = s.ctxs := by unfold State.useL2; repeat' (first | rfl | simp | split)
@[simp] theorem State.useL2_grids (s : State) (pa cc : Nat) (w : Bool) : (s.useL2 pa cc w).grids = s.grids := by unfold State.useL2; repeat' (first | rfl | simp | split)
@[simp] theorem State.useL2_teams (s : State) (pa cc : Nat) (w : Bool) : (s.useL2 pa cc w).teams = s.teams := by unfold State.useL2; repeat' (first | rfl | simp | split)
@[simp] theorem State.useL2_groups (s : State) (pa cc : Nat) (w : Bool) : (s.useL2 pa cc w).groups = s.groups := by unfold State.useL2; repeat' (first | rfl | simp | split)
@[simp] theorem State.useL2_jobs (s : State) (pa cc : Nat) (w : Bool) : (s.useL2 pa cc w).jobs = s.jobs := by unfold State.useL2; repeat' (first | rfl | simp | split)
@[simp] theorem State.useL2_insts (s : State) (pa cc : Nat) (w : Bool) : (s.useL2 pa cc w).insts = s.insts := by unfold State.useL2; repeat' (first | rfl | simp | split)
@[simp] theorem State.useL2_queues (s : State) (pa cc : Nat) (w : Bool) : (s.useL2 pa cc w).queues = s.queues := by unfold State.useL2; repeat' (first | rfl | simp | split)
@[simp] theorem State.useL2_launches (s : State) (pa cc : Nat) (w : Bool) : (s.useL2 pa cc w).launches = s.launches := by unfold State.useL2; repeat' (first | rfl | simp | split)
@[simp] theorem State.useL2_lastCol (s : State) (pa cc : Nat) (w : Bool) : (s.useL2 pa cc w).lastCol = s.lastCol := by unfold State.useL2; repeat' (first | rfl | simp | split)
@[simp] theorem State.useL2_sensors (s : State) (pa cc : Nat) (w : Bool) : (s.useL2 pa cc w).sensors = s.sensors := by unfold State.useL2; repeat' (first | rfl | simp | split)
@[simp] theorem State.useL2_columns (s : State) (pa cc : Nat) (w : Bool) : (s.useL2 pa cc w).columns = s.columns := by unfold State.useL2; repeat' (first | rfl | simp | split)
@[simp] theorem State.useL2_balances (s : State) (pa cc : Nat) (w : Bool) : (s.useL2 pa cc w).balances = s.balances := by unfold State.useL2; repeat' (first | rfl | simp | split)
@[simp] theorem State.useL2_power (s : State) (pa cc : Nat) (w : Bool) : (s.useL2 pa cc w).power = s.power := by unfold State.useL2; repeat' (first | rfl | simp | split)
@[simp] theorem State.useL2_rings (s : State) (pa cc : Nat) (w : Bool) : (s.useL2 pa cc w).rings = s.rings := by unfold State.useL2; repeat' (first | rfl | simp | split)
@[simp] theorem State.useL2_fw (s : State) (pa cc : Nat) (w : Bool) : (s.useL2 pa cc w).fw = s.fw := by unfold State.useL2; repeat' (first | rfl | simp | split)
@[simp] theorem State.useL2_ports (s : State) (pa cc : Nat) (w : Bool) : (s.useL2 pa cc w).ports = s.ports := by unfold State.useL2; repeat' (first | rfl | simp | split)
@[simp] theorem State.useL2_chipId (s : State) (pa cc : Nat) (w : Bool) : (s.useL2 pa cc w).chipId = s.chipId := by unfold State.useL2; repeat' (first | rfl | simp | split)
@[simp] theorem State.useL2_mgmt (s : State) (pa cc : Nat) (w : Bool) : (s.useL2 pa cc w).mgmt = s.mgmt := by unfold State.useL2; repeat' (first | rfl | simp | split)
@[simp] theorem State.useL2_remote (s : State) (pa cc : Nat) (w : Bool) : (s.useL2 pa cc w).remote = s.remote := by unfold State.useL2; repeat' (first | rfl | simp | split)
@[simp] theorem State.useL2_asks (s : State) (pa cc : Nat) (w : Bool) : (s.useL2 pa cc w).asks = s.asks := by unfold State.useL2; repeat' (first | rfl | simp | split)
@[simp] theorem State.useL2_ownIn (s : State) (pa cc : Nat) (w : Bool) : (s.useL2 pa cc w).ownIn = s.ownIn := by unfold State.useL2; repeat' (first | rfl | simp | split)
@[simp] theorem State.useL2_pcieUp (s : State) (pa cc : Nat) (w : Bool) : (s.useL2 pa cc w).pcieUp = s.pcieUp := by unfold State.useL2; repeat' (first | rfl | simp | split)
@[simp] theorem State.useL2_latch64 (s : State) (pa cc : Nat) (w : Bool) : (s.useL2 pa cc w).latch64 = s.latch64 := by unfold State.useL2; repeat' (first | rfl | simp | split)
@[simp] theorem State.useL2_outbox (s : State) (pa cc : Nat) (w : Bool) : (s.useL2 pa cc w).outbox = s.outbox := by unfold State.useL2; repeat' (first | rfl | simp | split)
@[simp] theorem State.useL2_nextTid (s : State) (pa cc : Nat) (w : Bool) : (s.useL2 pa cc w).nextTid = s.nextTid := by unfold State.useL2; repeat' (first | rfl | simp | split)
@[simp] theorem State.useL2_nextJob (s : State) (pa cc : Nat) (w : Bool) : (s.useL2 pa cc w).nextJob = s.nextJob := by unfold State.useL2; repeat' (first | rfl | simp | split)
@[simp] theorem State.useL2_nextTag (s : State) (pa cc : Nat) (w : Bool) : (s.useL2 pa cc w).nextTag = s.nextTag := by unfold State.useL2; repeat' (first | rfl | simp | split)

/-! ## runL2 -/

@[simp] theorem State.runL2_agenda (s : State) (pa n cc : Nat) (w : Bool) : (s.runL2 pa n cc w).agenda = s.agenda := by unfold State.runL2; split <;> first | rfl | exact foldl_keeps _ _ (by simp) _ _
@[simp] theorem State.runL2_cur (s : State) (pa n cc : Nat) (w : Bool) : (s.runL2 pa n cc w).cur = s.cur := by unfold State.runL2; split <;> first | rfl | exact foldl_keeps _ _ (by simp) _ _
@[simp] theorem State.runL2_part (s : State) (pa n cc : Nat) (w : Bool) : (s.runL2 pa n cc w).part = s.part := by unfold State.runL2; split <;> first | rfl | exact foldl_keeps _ _ (by simp) _ _
@[simp] theorem State.runL2_free (s : State) (pa n cc : Nat) (w : Bool) : (s.runL2 pa n cc w).free = s.free := by unfold State.runL2; split <;> first | rfl | exact foldl_keeps _ _ (by simp) _ _
@[simp] theorem State.runL2_clk (s : State) (pa n cc : Nat) (w : Bool) : (s.runL2 pa n cc w).clk = s.clk := by unfold State.runL2; split <;> first | rfl | exact foldl_keeps _ _ (by simp) _ _
@[simp] theorem State.runL2_grade (s : State) (pa n cc : Nat) (w : Bool) : (s.runL2 pa n cc w).grade = s.grade := by unfold State.runL2; split <;> first | rfl | exact foldl_keeps _ _ (by simp) _ _
@[simp] theorem State.runL2_starting (s : State) (pa n cc : Nat) (w : Bool) : (s.runL2 pa n cc w).starting = s.starting := by unfold State.runL2; split <;> first | rfl | exact foldl_keeps _ _ (by simp) _ _
@[simp] theorem State.runL2_mem (s : State) (pa n cc : Nat) (w : Bool) : (s.runL2 pa n cc w).mem = s.mem := by unfold State.runL2; split <;> first | rfl | exact foldl_keeps _ _ (by simp) _ _
@[simp] theorem State.runL2_stale (s : State) (pa n cc : Nat) (w : Bool) : (s.runL2 pa n cc w).stale = s.stale := by unfold State.runL2; split <;> first | rfl | exact foldl_keeps _ _ (by simp) _ _
@[simp] theorem State.runL2_late (s : State) (pa n cc : Nat) (w : Bool) : (s.runL2 pa n cc w).late = s.late := by unfold State.runL2; split <;> first | rfl | exact foldl_keeps _ _ (by simp) _ _
@[simp] theorem State.runL2_coreTt (s : State) (pa n cc : Nat) (w : Bool) : (s.runL2 pa n cc w).coreTt = s.coreTt := by unfold State.runL2; split <;> first | rfl | exact foldl_keeps _ _ (by simp) _ _
@[simp] theorem State.runL2_hostMem (s : State) (pa n cc : Nat) (w : Bool) : (s.runL2 pa n cc w).hostMem = s.hostMem := by unfold State.runL2; split <;> first | rfl | exact foldl_keeps _ _ (by simp) _ _
@[simp] theorem State.runL2_tlb (s : State) (pa n cc : Nat) (w : Bool) : (s.runL2 pa n cc w).tlb = s.tlb := by unfold State.runL2; split <;> first | rfl | exact foldl_keeps _ _ (by simp) _ _
@[simp] theorem State.runL2_walks (s : State) (pa n cc : Nat) (w : Bool) : (s.runL2 pa n cc w).walks = s.walks := by unfold State.runL2; split <;> first | rfl | exact foldl_keeps _ _ (by simp) _ _
@[simp] theorem State.runL2_ctxs (s : State) (pa n cc : Nat) (w : Bool) : (s.runL2 pa n cc w).ctxs = s.ctxs := by unfold State.runL2; split <;> first | rfl | exact foldl_keeps _ _ (by simp) _ _
@[simp] theorem State.runL2_grids (s : State) (pa n cc : Nat) (w : Bool) : (s.runL2 pa n cc w).grids = s.grids := by unfold State.runL2; split <;> first | rfl | exact foldl_keeps _ _ (by simp) _ _
@[simp] theorem State.runL2_teams (s : State) (pa n cc : Nat) (w : Bool) : (s.runL2 pa n cc w).teams = s.teams := by unfold State.runL2; split <;> first | rfl | exact foldl_keeps _ _ (by simp) _ _
@[simp] theorem State.runL2_groups (s : State) (pa n cc : Nat) (w : Bool) : (s.runL2 pa n cc w).groups = s.groups := by unfold State.runL2; split <;> first | rfl | exact foldl_keeps _ _ (by simp) _ _
@[simp] theorem State.runL2_jobs (s : State) (pa n cc : Nat) (w : Bool) : (s.runL2 pa n cc w).jobs = s.jobs := by unfold State.runL2; split <;> first | rfl | exact foldl_keeps _ _ (by simp) _ _
@[simp] theorem State.runL2_insts (s : State) (pa n cc : Nat) (w : Bool) : (s.runL2 pa n cc w).insts = s.insts := by unfold State.runL2; split <;> first | rfl | exact foldl_keeps _ _ (by simp) _ _
@[simp] theorem State.runL2_queues (s : State) (pa n cc : Nat) (w : Bool) : (s.runL2 pa n cc w).queues = s.queues := by unfold State.runL2; split <;> first | rfl | exact foldl_keeps _ _ (by simp) _ _
@[simp] theorem State.runL2_launches (s : State) (pa n cc : Nat) (w : Bool) : (s.runL2 pa n cc w).launches = s.launches := by unfold State.runL2; split <;> first | rfl | exact foldl_keeps _ _ (by simp) _ _
@[simp] theorem State.runL2_lastCol (s : State) (pa n cc : Nat) (w : Bool) : (s.runL2 pa n cc w).lastCol = s.lastCol := by unfold State.runL2; split <;> first | rfl | exact foldl_keeps _ _ (by simp) _ _
@[simp] theorem State.runL2_sensors (s : State) (pa n cc : Nat) (w : Bool) : (s.runL2 pa n cc w).sensors = s.sensors := by unfold State.runL2; split <;> first | rfl | exact foldl_keeps _ _ (by simp) _ _
@[simp] theorem State.runL2_columns (s : State) (pa n cc : Nat) (w : Bool) : (s.runL2 pa n cc w).columns = s.columns := by unfold State.runL2; split <;> first | rfl | exact foldl_keeps _ _ (by simp) _ _
@[simp] theorem State.runL2_balances (s : State) (pa n cc : Nat) (w : Bool) : (s.runL2 pa n cc w).balances = s.balances := by unfold State.runL2; split <;> first | rfl | exact foldl_keeps _ _ (by simp) _ _
@[simp] theorem State.runL2_power (s : State) (pa n cc : Nat) (w : Bool) : (s.runL2 pa n cc w).power = s.power := by unfold State.runL2; split <;> first | rfl | exact foldl_keeps _ _ (by simp) _ _
@[simp] theorem State.runL2_rings (s : State) (pa n cc : Nat) (w : Bool) : (s.runL2 pa n cc w).rings = s.rings := by unfold State.runL2; split <;> first | rfl | exact foldl_keeps _ _ (by simp) _ _
@[simp] theorem State.runL2_fw (s : State) (pa n cc : Nat) (w : Bool) : (s.runL2 pa n cc w).fw = s.fw := by unfold State.runL2; split <;> first | rfl | exact foldl_keeps _ _ (by simp) _ _
@[simp] theorem State.runL2_ports (s : State) (pa n cc : Nat) (w : Bool) : (s.runL2 pa n cc w).ports = s.ports := by unfold State.runL2; split <;> first | rfl | exact foldl_keeps _ _ (by simp) _ _
@[simp] theorem State.runL2_chipId (s : State) (pa n cc : Nat) (w : Bool) : (s.runL2 pa n cc w).chipId = s.chipId := by unfold State.runL2; split <;> first | rfl | exact foldl_keeps _ _ (by simp) _ _
@[simp] theorem State.runL2_mgmt (s : State) (pa n cc : Nat) (w : Bool) : (s.runL2 pa n cc w).mgmt = s.mgmt := by unfold State.runL2; split <;> first | rfl | exact foldl_keeps _ _ (by simp) _ _
@[simp] theorem State.runL2_remote (s : State) (pa n cc : Nat) (w : Bool) : (s.runL2 pa n cc w).remote = s.remote := by unfold State.runL2; split <;> first | rfl | exact foldl_keeps _ _ (by simp) _ _
@[simp] theorem State.runL2_asks (s : State) (pa n cc : Nat) (w : Bool) : (s.runL2 pa n cc w).asks = s.asks := by unfold State.runL2; split <;> first | rfl | exact foldl_keeps _ _ (by simp) _ _
@[simp] theorem State.runL2_ownIn (s : State) (pa n cc : Nat) (w : Bool) : (s.runL2 pa n cc w).ownIn = s.ownIn := by unfold State.runL2; split <;> first | rfl | exact foldl_keeps _ _ (by simp) _ _
@[simp] theorem State.runL2_pcieUp (s : State) (pa n cc : Nat) (w : Bool) : (s.runL2 pa n cc w).pcieUp = s.pcieUp := by unfold State.runL2; split <;> first | rfl | exact foldl_keeps _ _ (by simp) _ _
@[simp] theorem State.runL2_latch64 (s : State) (pa n cc : Nat) (w : Bool) : (s.runL2 pa n cc w).latch64 = s.latch64 := by unfold State.runL2; split <;> first | rfl | exact foldl_keeps _ _ (by simp) _ _
@[simp] theorem State.runL2_outbox (s : State) (pa n cc : Nat) (w : Bool) : (s.runL2 pa n cc w).outbox = s.outbox := by unfold State.runL2; split <;> first | rfl | exact foldl_keeps _ _ (by simp) _ _
@[simp] theorem State.runL2_nextTid (s : State) (pa n cc : Nat) (w : Bool) : (s.runL2 pa n cc w).nextTid = s.nextTid := by unfold State.runL2; split <;> first | rfl | exact foldl_keeps _ _ (by simp) _ _
@[simp] theorem State.runL2_nextJob (s : State) (pa n cc : Nat) (w : Bool) : (s.runL2 pa n cc w).nextJob = s.nextJob := by unfold State.runL2; split <;> first | rfl | exact foldl_keeps _ _ (by simp) _ _
@[simp] theorem State.runL2_nextTag (s : State) (pa n cc : Nat) (w : Bool) : (s.runL2 pa n cc w).nextTag = s.nextTag := by unfold State.runL2; split <;> first | rfl | exact foldl_keeps _ _ (by simp) _ _

/-! ## fillL1 -/

@[simp] theorem State.fillL1_agenda (s : State) (k line cc : Nat) : (s.fillL1 k line cc).agenda = s.agenda := by unfold State.fillL1; split <;> rfl
@[simp] theorem State.fillL1_cur (s : State) (k line cc : Nat) : (s.fillL1 k line cc).cur = s.cur := by unfold State.fillL1; split <;> rfl
@[simp] theorem State.fillL1_part (s : State) (k line cc : Nat) : (s.fillL1 k line cc).part = s.part := by unfold State.fillL1; split <;> rfl
@[simp] theorem State.fillL1_free (s : State) (k line cc : Nat) : (s.fillL1 k line cc).free = s.free := by unfold State.fillL1; split <;> rfl
@[simp] theorem State.fillL1_clk (s : State) (k line cc : Nat) : (s.fillL1 k line cc).clk = s.clk := by unfold State.fillL1; split <;> rfl
@[simp] theorem State.fillL1_grade (s : State) (k line cc : Nat) : (s.fillL1 k line cc).grade = s.grade := by unfold State.fillL1; split <;> rfl
@[simp] theorem State.fillL1_starting (s : State) (k line cc : Nat) : (s.fillL1 k line cc).starting = s.starting := by unfold State.fillL1; split <;> rfl
@[simp] theorem State.fillL1_mem (s : State) (k line cc : Nat) : (s.fillL1 k line cc).mem = s.mem := by unfold State.fillL1; split <;> rfl
@[simp] theorem State.fillL1_late (s : State) (k line cc : Nat) : (s.fillL1 k line cc).late = s.late := by unfold State.fillL1; split <;> rfl
@[simp] theorem State.fillL1_coreTt (s : State) (k line cc : Nat) : (s.fillL1 k line cc).coreTt = s.coreTt := by unfold State.fillL1; split <;> rfl
@[simp] theorem State.fillL1_hostMem (s : State) (k line cc : Nat) : (s.fillL1 k line cc).hostMem = s.hostMem := by unfold State.fillL1; split <;> rfl
@[simp] theorem State.fillL1_hbm (s : State) (k line cc : Nat) : (s.fillL1 k line cc).hbm = s.hbm := by unfold State.fillL1; split <;> rfl
@[simp] theorem State.fillL1_tlb (s : State) (k line cc : Nat) : (s.fillL1 k line cc).tlb = s.tlb := by unfold State.fillL1; split <;> rfl
@[simp] theorem State.fillL1_walks (s : State) (k line cc : Nat) : (s.fillL1 k line cc).walks = s.walks := by unfold State.fillL1; split <;> rfl
@[simp] theorem State.fillL1_ctxs (s : State) (k line cc : Nat) : (s.fillL1 k line cc).ctxs = s.ctxs := by unfold State.fillL1; split <;> rfl
@[simp] theorem State.fillL1_grids (s : State) (k line cc : Nat) : (s.fillL1 k line cc).grids = s.grids := by unfold State.fillL1; split <;> rfl
@[simp] theorem State.fillL1_teams (s : State) (k line cc : Nat) : (s.fillL1 k line cc).teams = s.teams := by unfold State.fillL1; split <;> rfl
@[simp] theorem State.fillL1_groups (s : State) (k line cc : Nat) : (s.fillL1 k line cc).groups = s.groups := by unfold State.fillL1; split <;> rfl
@[simp] theorem State.fillL1_jobs (s : State) (k line cc : Nat) : (s.fillL1 k line cc).jobs = s.jobs := by unfold State.fillL1; split <;> rfl
@[simp] theorem State.fillL1_insts (s : State) (k line cc : Nat) : (s.fillL1 k line cc).insts = s.insts := by unfold State.fillL1; split <;> rfl
@[simp] theorem State.fillL1_queues (s : State) (k line cc : Nat) : (s.fillL1 k line cc).queues = s.queues := by unfold State.fillL1; split <;> rfl
@[simp] theorem State.fillL1_launches (s : State) (k line cc : Nat) : (s.fillL1 k line cc).launches = s.launches := by unfold State.fillL1; split <;> rfl
@[simp] theorem State.fillL1_lastCol (s : State) (k line cc : Nat) : (s.fillL1 k line cc).lastCol = s.lastCol := by unfold State.fillL1; split <;> rfl
@[simp] theorem State.fillL1_sensors (s : State) (k line cc : Nat) : (s.fillL1 k line cc).sensors = s.sensors := by unfold State.fillL1; split <;> rfl
@[simp] theorem State.fillL1_columns (s : State) (k line cc : Nat) : (s.fillL1 k line cc).columns = s.columns := by unfold State.fillL1; split <;> rfl
@[simp] theorem State.fillL1_balances (s : State) (k line cc : Nat) : (s.fillL1 k line cc).balances = s.balances := by unfold State.fillL1; split <;> rfl
@[simp] theorem State.fillL1_power (s : State) (k line cc : Nat) : (s.fillL1 k line cc).power = s.power := by unfold State.fillL1; split <;> rfl
@[simp] theorem State.fillL1_rings (s : State) (k line cc : Nat) : (s.fillL1 k line cc).rings = s.rings := by unfold State.fillL1; split <;> rfl
@[simp] theorem State.fillL1_fw (s : State) (k line cc : Nat) : (s.fillL1 k line cc).fw = s.fw := by unfold State.fillL1; split <;> rfl
@[simp] theorem State.fillL1_ports (s : State) (k line cc : Nat) : (s.fillL1 k line cc).ports = s.ports := by unfold State.fillL1; split <;> rfl
@[simp] theorem State.fillL1_chipId (s : State) (k line cc : Nat) : (s.fillL1 k line cc).chipId = s.chipId := by unfold State.fillL1; split <;> rfl
@[simp] theorem State.fillL1_mgmt (s : State) (k line cc : Nat) : (s.fillL1 k line cc).mgmt = s.mgmt := by unfold State.fillL1; split <;> rfl
@[simp] theorem State.fillL1_remote (s : State) (k line cc : Nat) : (s.fillL1 k line cc).remote = s.remote := by unfold State.fillL1; split <;> rfl
@[simp] theorem State.fillL1_asks (s : State) (k line cc : Nat) : (s.fillL1 k line cc).asks = s.asks := by unfold State.fillL1; split <;> rfl
@[simp] theorem State.fillL1_ownIn (s : State) (k line cc : Nat) : (s.fillL1 k line cc).ownIn = s.ownIn := by unfold State.fillL1; split <;> rfl
@[simp] theorem State.fillL1_pcieUp (s : State) (k line cc : Nat) : (s.fillL1 k line cc).pcieUp = s.pcieUp := by unfold State.fillL1; split <;> rfl
@[simp] theorem State.fillL1_latch64 (s : State) (k line cc : Nat) : (s.fillL1 k line cc).latch64 = s.latch64 := by unfold State.fillL1; split <;> rfl
@[simp] theorem State.fillL1_outbox (s : State) (k line cc : Nat) : (s.fillL1 k line cc).outbox = s.outbox := by unfold State.fillL1; split <;> rfl
@[simp] theorem State.fillL1_nextTid (s : State) (k line cc : Nat) : (s.fillL1 k line cc).nextTid = s.nextTid := by unfold State.fillL1; split <;> rfl
@[simp] theorem State.fillL1_nextJob (s : State) (k line cc : Nat) : (s.fillL1 k line cc).nextJob = s.nextJob := by unfold State.fillL1; split <;> rfl
@[simp] theorem State.fillL1_nextTag (s : State) (k line cc : Nat) : (s.fillL1 k line cc).nextTag = s.nextTag := by unfold State.fillL1; split <;> rfl

/-! ## ctxL2 -/

@[simp] theorem State.ctxL2_agenda (s : State) (c pa cc : Nat) (w : Bool) : (s.ctxL2 c pa cc w).agenda = s.agenda := by unfold State.ctxL2; split <;> simp
@[simp] theorem State.ctxL2_cur (s : State) (c pa cc : Nat) (w : Bool) : (s.ctxL2 c pa cc w).cur = s.cur := by unfold State.ctxL2; split <;> simp
@[simp] theorem State.ctxL2_part (s : State) (c pa cc : Nat) (w : Bool) : (s.ctxL2 c pa cc w).part = s.part := by unfold State.ctxL2; split <;> simp
@[simp] theorem State.ctxL2_free (s : State) (c pa cc : Nat) (w : Bool) : (s.ctxL2 c pa cc w).free = s.free := by unfold State.ctxL2; split <;> simp
@[simp] theorem State.ctxL2_clk (s : State) (c pa cc : Nat) (w : Bool) : (s.ctxL2 c pa cc w).clk = s.clk := by unfold State.ctxL2; split <;> simp
@[simp] theorem State.ctxL2_grade (s : State) (c pa cc : Nat) (w : Bool) : (s.ctxL2 c pa cc w).grade = s.grade := by unfold State.ctxL2; split <;> simp
@[simp] theorem State.ctxL2_starting (s : State) (c pa cc : Nat) (w : Bool) : (s.ctxL2 c pa cc w).starting = s.starting := by unfold State.ctxL2; split <;> simp
@[simp] theorem State.ctxL2_mem (s : State) (c pa cc : Nat) (w : Bool) : (s.ctxL2 c pa cc w).mem = s.mem := by unfold State.ctxL2; split <;> simp
@[simp] theorem State.ctxL2_stale (s : State) (c pa cc : Nat) (w : Bool) : (s.ctxL2 c pa cc w).stale = s.stale := by unfold State.ctxL2; split <;> simp
@[simp] theorem State.ctxL2_late (s : State) (c pa cc : Nat) (w : Bool) : (s.ctxL2 c pa cc w).late = s.late := by unfold State.ctxL2; split <;> simp
@[simp] theorem State.ctxL2_coreTt (s : State) (c pa cc : Nat) (w : Bool) : (s.ctxL2 c pa cc w).coreTt = s.coreTt := by unfold State.ctxL2; split <;> simp
@[simp] theorem State.ctxL2_hostMem (s : State) (c pa cc : Nat) (w : Bool) : (s.ctxL2 c pa cc w).hostMem = s.hostMem := by unfold State.ctxL2; split <;> simp
@[simp] theorem State.ctxL2_tlb (s : State) (c pa cc : Nat) (w : Bool) : (s.ctxL2 c pa cc w).tlb = s.tlb := by unfold State.ctxL2; split <;> simp
@[simp] theorem State.ctxL2_walks (s : State) (c pa cc : Nat) (w : Bool) : (s.ctxL2 c pa cc w).walks = s.walks := by unfold State.ctxL2; split <;> simp
@[simp] theorem State.ctxL2_grids (s : State) (c pa cc : Nat) (w : Bool) : (s.ctxL2 c pa cc w).grids = s.grids := by unfold State.ctxL2; split <;> simp
@[simp] theorem State.ctxL2_teams (s : State) (c pa cc : Nat) (w : Bool) : (s.ctxL2 c pa cc w).teams = s.teams := by unfold State.ctxL2; split <;> simp
@[simp] theorem State.ctxL2_groups (s : State) (c pa cc : Nat) (w : Bool) : (s.ctxL2 c pa cc w).groups = s.groups := by unfold State.ctxL2; split <;> simp
@[simp] theorem State.ctxL2_jobs (s : State) (c pa cc : Nat) (w : Bool) : (s.ctxL2 c pa cc w).jobs = s.jobs := by unfold State.ctxL2; split <;> simp
@[simp] theorem State.ctxL2_insts (s : State) (c pa cc : Nat) (w : Bool) : (s.ctxL2 c pa cc w).insts = s.insts := by unfold State.ctxL2; split <;> simp
@[simp] theorem State.ctxL2_queues (s : State) (c pa cc : Nat) (w : Bool) : (s.ctxL2 c pa cc w).queues = s.queues := by unfold State.ctxL2; split <;> simp
@[simp] theorem State.ctxL2_launches (s : State) (c pa cc : Nat) (w : Bool) : (s.ctxL2 c pa cc w).launches = s.launches := by unfold State.ctxL2; split <;> simp
@[simp] theorem State.ctxL2_lastCol (s : State) (c pa cc : Nat) (w : Bool) : (s.ctxL2 c pa cc w).lastCol = s.lastCol := by unfold State.ctxL2; split <;> simp
@[simp] theorem State.ctxL2_sensors (s : State) (c pa cc : Nat) (w : Bool) : (s.ctxL2 c pa cc w).sensors = s.sensors := by unfold State.ctxL2; split <;> simp
@[simp] theorem State.ctxL2_columns (s : State) (c pa cc : Nat) (w : Bool) : (s.ctxL2 c pa cc w).columns = s.columns := by unfold State.ctxL2; split <;> simp
@[simp] theorem State.ctxL2_balances (s : State) (c pa cc : Nat) (w : Bool) : (s.ctxL2 c pa cc w).balances = s.balances := by unfold State.ctxL2; split <;> simp
@[simp] theorem State.ctxL2_power (s : State) (c pa cc : Nat) (w : Bool) : (s.ctxL2 c pa cc w).power = s.power := by unfold State.ctxL2; split <;> simp
@[simp] theorem State.ctxL2_rings (s : State) (c pa cc : Nat) (w : Bool) : (s.ctxL2 c pa cc w).rings = s.rings := by unfold State.ctxL2; split <;> simp
@[simp] theorem State.ctxL2_fw (s : State) (c pa cc : Nat) (w : Bool) : (s.ctxL2 c pa cc w).fw = s.fw := by unfold State.ctxL2; split <;> simp
@[simp] theorem State.ctxL2_ports (s : State) (c pa cc : Nat) (w : Bool) : (s.ctxL2 c pa cc w).ports = s.ports := by unfold State.ctxL2; split <;> simp
@[simp] theorem State.ctxL2_chipId (s : State) (c pa cc : Nat) (w : Bool) : (s.ctxL2 c pa cc w).chipId = s.chipId := by unfold State.ctxL2; split <;> simp
@[simp] theorem State.ctxL2_mgmt (s : State) (c pa cc : Nat) (w : Bool) : (s.ctxL2 c pa cc w).mgmt = s.mgmt := by unfold State.ctxL2; split <;> simp
@[simp] theorem State.ctxL2_remote (s : State) (c pa cc : Nat) (w : Bool) : (s.ctxL2 c pa cc w).remote = s.remote := by unfold State.ctxL2; split <;> simp
@[simp] theorem State.ctxL2_asks (s : State) (c pa cc : Nat) (w : Bool) : (s.ctxL2 c pa cc w).asks = s.asks := by unfold State.ctxL2; split <;> simp
@[simp] theorem State.ctxL2_ownIn (s : State) (c pa cc : Nat) (w : Bool) : (s.ctxL2 c pa cc w).ownIn = s.ownIn := by unfold State.ctxL2; split <;> simp
@[simp] theorem State.ctxL2_pcieUp (s : State) (c pa cc : Nat) (w : Bool) : (s.ctxL2 c pa cc w).pcieUp = s.pcieUp := by unfold State.ctxL2; split <;> simp
@[simp] theorem State.ctxL2_latch64 (s : State) (c pa cc : Nat) (w : Bool) : (s.ctxL2 c pa cc w).latch64 = s.latch64 := by unfold State.ctxL2; split <;> simp
@[simp] theorem State.ctxL2_outbox (s : State) (c pa cc : Nat) (w : Bool) : (s.ctxL2 c pa cc w).outbox = s.outbox := by unfold State.ctxL2; split <;> simp
@[simp] theorem State.ctxL2_nextTid (s : State) (c pa cc : Nat) (w : Bool) : (s.ctxL2 c pa cc w).nextTid = s.nextTid := by unfold State.ctxL2; split <;> simp
@[simp] theorem State.ctxL2_nextJob (s : State) (c pa cc : Nat) (w : Bool) : (s.ctxL2 c pa cc w).nextJob = s.nextJob := by unfold State.ctxL2; split <;> simp
@[simp] theorem State.ctxL2_nextTag (s : State) (c pa cc : Nat) (w : Bool) : (s.ctxL2 c pa cc w).nextTag = s.nextTag := by unfold State.ctxL2; split <;> simp

/-! ## loadLine -/

@[simp] theorem State.loadLine_agenda (s : State) (e : Env) (k line cc : Nat) : (s.loadLine e k line cc).agenda = s.agenda := by unfold State.loadLine; repeat' (first | rfl | simp | split)
@[simp] theorem State.loadLine_cur (s : State) (e : Env) (k line cc : Nat) : (s.loadLine e k line cc).cur = s.cur := by unfold State.loadLine; repeat' (first | rfl | simp | split)
@[simp] theorem State.loadLine_part (s : State) (e : Env) (k line cc : Nat) : (s.loadLine e k line cc).part = s.part := by unfold State.loadLine; repeat' (first | rfl | simp | split)
@[simp] theorem State.loadLine_free (s : State) (e : Env) (k line cc : Nat) : (s.loadLine e k line cc).free = s.free := by unfold State.loadLine; repeat' (first | rfl | simp | split)
@[simp] theorem State.loadLine_clk (s : State) (e : Env) (k line cc : Nat) : (s.loadLine e k line cc).clk = s.clk := by unfold State.loadLine; repeat' (first | rfl | simp | split)
@[simp] theorem State.loadLine_grade (s : State) (e : Env) (k line cc : Nat) : (s.loadLine e k line cc).grade = s.grade := by unfold State.loadLine; repeat' (first | rfl | simp | split)
@[simp] theorem State.loadLine_starting (s : State) (e : Env) (k line cc : Nat) : (s.loadLine e k line cc).starting = s.starting := by unfold State.loadLine; repeat' (first | rfl | simp | split)
@[simp] theorem State.loadLine_mem (s : State) (e : Env) (k line cc : Nat) : (s.loadLine e k line cc).mem = s.mem := by unfold State.loadLine; repeat' (first | rfl | simp | split)
@[simp] theorem State.loadLine_late (s : State) (e : Env) (k line cc : Nat) : (s.loadLine e k line cc).late = s.late := by unfold State.loadLine; repeat' (first | rfl | simp | split)
@[simp] theorem State.loadLine_coreTt (s : State) (e : Env) (k line cc : Nat) : (s.loadLine e k line cc).coreTt = s.coreTt := by unfold State.loadLine; repeat' (first | rfl | simp | split)
@[simp] theorem State.loadLine_hostMem (s : State) (e : Env) (k line cc : Nat) : (s.loadLine e k line cc).hostMem = s.hostMem := by unfold State.loadLine; repeat' (first | rfl | simp | split)
@[simp] theorem State.loadLine_tlb (s : State) (e : Env) (k line cc : Nat) : (s.loadLine e k line cc).tlb = s.tlb := by unfold State.loadLine; repeat' (first | rfl | simp | split)
@[simp] theorem State.loadLine_walks (s : State) (e : Env) (k line cc : Nat) : (s.loadLine e k line cc).walks = s.walks := by unfold State.loadLine; repeat' (first | rfl | simp | split)
@[simp] theorem State.loadLine_grids (s : State) (e : Env) (k line cc : Nat) : (s.loadLine e k line cc).grids = s.grids := by unfold State.loadLine; repeat' (first | rfl | simp | split)
@[simp] theorem State.loadLine_teams (s : State) (e : Env) (k line cc : Nat) : (s.loadLine e k line cc).teams = s.teams := by unfold State.loadLine; repeat' (first | rfl | simp | split)
@[simp] theorem State.loadLine_groups (s : State) (e : Env) (k line cc : Nat) : (s.loadLine e k line cc).groups = s.groups := by unfold State.loadLine; repeat' (first | rfl | simp | split)
@[simp] theorem State.loadLine_jobs (s : State) (e : Env) (k line cc : Nat) : (s.loadLine e k line cc).jobs = s.jobs := by unfold State.loadLine; repeat' (first | rfl | simp | split)
@[simp] theorem State.loadLine_insts (s : State) (e : Env) (k line cc : Nat) : (s.loadLine e k line cc).insts = s.insts := by unfold State.loadLine; repeat' (first | rfl | simp | split)
@[simp] theorem State.loadLine_queues (s : State) (e : Env) (k line cc : Nat) : (s.loadLine e k line cc).queues = s.queues := by unfold State.loadLine; repeat' (first | rfl | simp | split)
@[simp] theorem State.loadLine_launches (s : State) (e : Env) (k line cc : Nat) : (s.loadLine e k line cc).launches = s.launches := by unfold State.loadLine; repeat' (first | rfl | simp | split)
@[simp] theorem State.loadLine_lastCol (s : State) (e : Env) (k line cc : Nat) : (s.loadLine e k line cc).lastCol = s.lastCol := by unfold State.loadLine; repeat' (first | rfl | simp | split)
@[simp] theorem State.loadLine_sensors (s : State) (e : Env) (k line cc : Nat) : (s.loadLine e k line cc).sensors = s.sensors := by unfold State.loadLine; repeat' (first | rfl | simp | split)
@[simp] theorem State.loadLine_columns (s : State) (e : Env) (k line cc : Nat) : (s.loadLine e k line cc).columns = s.columns := by unfold State.loadLine; repeat' (first | rfl | simp | split)
@[simp] theorem State.loadLine_balances (s : State) (e : Env) (k line cc : Nat) : (s.loadLine e k line cc).balances = s.balances := by unfold State.loadLine; repeat' (first | rfl | simp | split)
@[simp] theorem State.loadLine_power (s : State) (e : Env) (k line cc : Nat) : (s.loadLine e k line cc).power = s.power := by unfold State.loadLine; repeat' (first | rfl | simp | split)
@[simp] theorem State.loadLine_rings (s : State) (e : Env) (k line cc : Nat) : (s.loadLine e k line cc).rings = s.rings := by unfold State.loadLine; repeat' (first | rfl | simp | split)
@[simp] theorem State.loadLine_fw (s : State) (e : Env) (k line cc : Nat) : (s.loadLine e k line cc).fw = s.fw := by unfold State.loadLine; repeat' (first | rfl | simp | split)
@[simp] theorem State.loadLine_ports (s : State) (e : Env) (k line cc : Nat) : (s.loadLine e k line cc).ports = s.ports := by unfold State.loadLine; repeat' (first | rfl | simp | split)
@[simp] theorem State.loadLine_chipId (s : State) (e : Env) (k line cc : Nat) : (s.loadLine e k line cc).chipId = s.chipId := by unfold State.loadLine; repeat' (first | rfl | simp | split)
@[simp] theorem State.loadLine_mgmt (s : State) (e : Env) (k line cc : Nat) : (s.loadLine e k line cc).mgmt = s.mgmt := by unfold State.loadLine; repeat' (first | rfl | simp | split)
@[simp] theorem State.loadLine_remote (s : State) (e : Env) (k line cc : Nat) : (s.loadLine e k line cc).remote = s.remote := by unfold State.loadLine; repeat' (first | rfl | simp | split)
@[simp] theorem State.loadLine_asks (s : State) (e : Env) (k line cc : Nat) : (s.loadLine e k line cc).asks = s.asks := by unfold State.loadLine; repeat' (first | rfl | simp | split)
@[simp] theorem State.loadLine_ownIn (s : State) (e : Env) (k line cc : Nat) : (s.loadLine e k line cc).ownIn = s.ownIn := by unfold State.loadLine; repeat' (first | rfl | simp | split)
@[simp] theorem State.loadLine_pcieUp (s : State) (e : Env) (k line cc : Nat) : (s.loadLine e k line cc).pcieUp = s.pcieUp := by unfold State.loadLine; repeat' (first | rfl | simp | split)
@[simp] theorem State.loadLine_latch64 (s : State) (e : Env) (k line cc : Nat) : (s.loadLine e k line cc).latch64 = s.latch64 := by unfold State.loadLine; repeat' (first | rfl | simp | split)
@[simp] theorem State.loadLine_outbox (s : State) (e : Env) (k line cc : Nat) : (s.loadLine e k line cc).outbox = s.outbox := by unfold State.loadLine; repeat' (first | rfl | simp | split)
@[simp] theorem State.loadLine_nextTid (s : State) (e : Env) (k line cc : Nat) : (s.loadLine e k line cc).nextTid = s.nextTid := by unfold State.loadLine; repeat' (first | rfl | simp | split)
@[simp] theorem State.loadLine_nextJob (s : State) (e : Env) (k line cc : Nat) : (s.loadLine e k line cc).nextJob = s.nextJob := by unfold State.loadLine; repeat' (first | rfl | simp | split)
@[simp] theorem State.loadLine_nextTag (s : State) (e : Env) (k line cc : Nat) : (s.loadLine e k line cc).nextTag = s.nextTag := by unfold State.loadLine; repeat' (first | rfl | simp | split)

/-! ## storeLine -/

@[simp] theorem State.storeLine_agenda (s : State) (e : Env) (k line cc : Nat) : (s.storeLine e k line cc).agenda = s.agenda := by unfold State.storeLine; dsimp only; split <;> simp
@[simp] theorem State.storeLine_cur (s : State) (e : Env) (k line cc : Nat) : (s.storeLine e k line cc).cur = s.cur := by unfold State.storeLine; dsimp only; split <;> simp
@[simp] theorem State.storeLine_part (s : State) (e : Env) (k line cc : Nat) : (s.storeLine e k line cc).part = s.part := by unfold State.storeLine; dsimp only; split <;> simp
@[simp] theorem State.storeLine_free (s : State) (e : Env) (k line cc : Nat) : (s.storeLine e k line cc).free = s.free := by unfold State.storeLine; dsimp only; split <;> simp
@[simp] theorem State.storeLine_clk (s : State) (e : Env) (k line cc : Nat) : (s.storeLine e k line cc).clk = s.clk := by unfold State.storeLine; dsimp only; split <;> simp
@[simp] theorem State.storeLine_grade (s : State) (e : Env) (k line cc : Nat) : (s.storeLine e k line cc).grade = s.grade := by unfold State.storeLine; dsimp only; split <;> simp
@[simp] theorem State.storeLine_starting (s : State) (e : Env) (k line cc : Nat) : (s.storeLine e k line cc).starting = s.starting := by unfold State.storeLine; dsimp only; split <;> simp
@[simp] theorem State.storeLine_mem (s : State) (e : Env) (k line cc : Nat) : (s.storeLine e k line cc).mem = s.mem := by unfold State.storeLine; dsimp only; split <;> simp
@[simp] theorem State.storeLine_stale (s : State) (e : Env) (k line cc : Nat) : (s.storeLine e k line cc).stale = s.stale := by unfold State.storeLine; dsimp only; split <;> simp
@[simp] theorem State.storeLine_late (s : State) (e : Env) (k line cc : Nat) : (s.storeLine e k line cc).late = s.late := by unfold State.storeLine; dsimp only; split <;> simp
@[simp] theorem State.storeLine_coreTt (s : State) (e : Env) (k line cc : Nat) : (s.storeLine e k line cc).coreTt = s.coreTt := by unfold State.storeLine; dsimp only; split <;> simp
@[simp] theorem State.storeLine_hostMem (s : State) (e : Env) (k line cc : Nat) : (s.storeLine e k line cc).hostMem = s.hostMem := by unfold State.storeLine; dsimp only; split <;> simp
@[simp] theorem State.storeLine_tlb (s : State) (e : Env) (k line cc : Nat) : (s.storeLine e k line cc).tlb = s.tlb := by unfold State.storeLine; dsimp only; split <;> simp
@[simp] theorem State.storeLine_walks (s : State) (e : Env) (k line cc : Nat) : (s.storeLine e k line cc).walks = s.walks := by unfold State.storeLine; dsimp only; split <;> simp
@[simp] theorem State.storeLine_grids (s : State) (e : Env) (k line cc : Nat) : (s.storeLine e k line cc).grids = s.grids := by unfold State.storeLine; dsimp only; split <;> simp
@[simp] theorem State.storeLine_teams (s : State) (e : Env) (k line cc : Nat) : (s.storeLine e k line cc).teams = s.teams := by unfold State.storeLine; dsimp only; split <;> simp
@[simp] theorem State.storeLine_groups (s : State) (e : Env) (k line cc : Nat) : (s.storeLine e k line cc).groups = s.groups := by unfold State.storeLine; dsimp only; split <;> simp
@[simp] theorem State.storeLine_jobs (s : State) (e : Env) (k line cc : Nat) : (s.storeLine e k line cc).jobs = s.jobs := by unfold State.storeLine; dsimp only; split <;> simp
@[simp] theorem State.storeLine_insts (s : State) (e : Env) (k line cc : Nat) : (s.storeLine e k line cc).insts = s.insts := by unfold State.storeLine; dsimp only; split <;> simp
@[simp] theorem State.storeLine_queues (s : State) (e : Env) (k line cc : Nat) : (s.storeLine e k line cc).queues = s.queues := by unfold State.storeLine; dsimp only; split <;> simp
@[simp] theorem State.storeLine_launches (s : State) (e : Env) (k line cc : Nat) : (s.storeLine e k line cc).launches = s.launches := by unfold State.storeLine; dsimp only; split <;> simp
@[simp] theorem State.storeLine_lastCol (s : State) (e : Env) (k line cc : Nat) : (s.storeLine e k line cc).lastCol = s.lastCol := by unfold State.storeLine; dsimp only; split <;> simp
@[simp] theorem State.storeLine_sensors (s : State) (e : Env) (k line cc : Nat) : (s.storeLine e k line cc).sensors = s.sensors := by unfold State.storeLine; dsimp only; split <;> simp
@[simp] theorem State.storeLine_columns (s : State) (e : Env) (k line cc : Nat) : (s.storeLine e k line cc).columns = s.columns := by unfold State.storeLine; dsimp only; split <;> simp
@[simp] theorem State.storeLine_balances (s : State) (e : Env) (k line cc : Nat) : (s.storeLine e k line cc).balances = s.balances := by unfold State.storeLine; dsimp only; split <;> simp
@[simp] theorem State.storeLine_power (s : State) (e : Env) (k line cc : Nat) : (s.storeLine e k line cc).power = s.power := by unfold State.storeLine; dsimp only; split <;> simp
@[simp] theorem State.storeLine_rings (s : State) (e : Env) (k line cc : Nat) : (s.storeLine e k line cc).rings = s.rings := by unfold State.storeLine; dsimp only; split <;> simp
@[simp] theorem State.storeLine_fw (s : State) (e : Env) (k line cc : Nat) : (s.storeLine e k line cc).fw = s.fw := by unfold State.storeLine; dsimp only; split <;> simp
@[simp] theorem State.storeLine_ports (s : State) (e : Env) (k line cc : Nat) : (s.storeLine e k line cc).ports = s.ports := by unfold State.storeLine; dsimp only; split <;> simp
@[simp] theorem State.storeLine_chipId (s : State) (e : Env) (k line cc : Nat) : (s.storeLine e k line cc).chipId = s.chipId := by unfold State.storeLine; dsimp only; split <;> simp
@[simp] theorem State.storeLine_mgmt (s : State) (e : Env) (k line cc : Nat) : (s.storeLine e k line cc).mgmt = s.mgmt := by unfold State.storeLine; dsimp only; split <;> simp
@[simp] theorem State.storeLine_remote (s : State) (e : Env) (k line cc : Nat) : (s.storeLine e k line cc).remote = s.remote := by unfold State.storeLine; dsimp only; split <;> simp
@[simp] theorem State.storeLine_asks (s : State) (e : Env) (k line cc : Nat) : (s.storeLine e k line cc).asks = s.asks := by unfold State.storeLine; dsimp only; split <;> simp
@[simp] theorem State.storeLine_ownIn (s : State) (e : Env) (k line cc : Nat) : (s.storeLine e k line cc).ownIn = s.ownIn := by unfold State.storeLine; dsimp only; split <;> simp
@[simp] theorem State.storeLine_pcieUp (s : State) (e : Env) (k line cc : Nat) : (s.storeLine e k line cc).pcieUp = s.pcieUp := by unfold State.storeLine; dsimp only; split <;> simp
@[simp] theorem State.storeLine_latch64 (s : State) (e : Env) (k line cc : Nat) : (s.storeLine e k line cc).latch64 = s.latch64 := by unfold State.storeLine; dsimp only; split <;> simp
@[simp] theorem State.storeLine_outbox (s : State) (e : Env) (k line cc : Nat) : (s.storeLine e k line cc).outbox = s.outbox := by unfold State.storeLine; dsimp only; split <;> simp
@[simp] theorem State.storeLine_nextTid (s : State) (e : Env) (k line cc : Nat) : (s.storeLine e k line cc).nextTid = s.nextTid := by unfold State.storeLine; dsimp only; split <;> simp
@[simp] theorem State.storeLine_nextJob (s : State) (e : Env) (k line cc : Nat) : (s.storeLine e k line cc).nextJob = s.nextJob := by unfold State.storeLine; dsimp only; split <;> simp
@[simp] theorem State.storeLine_nextTag (s : State) (e : Env) (k line cc : Nat) : (s.storeLine e k line cc).nextTag = s.nextTag := by unfold State.storeLine; dsimp only; split <;> simp

/-! ## loadMet -/

@[simp] theorem State.loadMet_agenda (s : State) (e : Env) (ps : List Piece) : (s.loadMet e ps).agenda = s.agenda := by unfold State.loadMet; exact foldl_keeps _ _ (by simp) _ _
@[simp] theorem State.loadMet_cur (s : State) (e : Env) (ps : List Piece) : (s.loadMet e ps).cur = s.cur := by unfold State.loadMet; exact foldl_keeps _ _ (by simp) _ _
@[simp] theorem State.loadMet_part (s : State) (e : Env) (ps : List Piece) : (s.loadMet e ps).part = s.part := by unfold State.loadMet; exact foldl_keeps _ _ (by simp) _ _
@[simp] theorem State.loadMet_free (s : State) (e : Env) (ps : List Piece) : (s.loadMet e ps).free = s.free := by unfold State.loadMet; exact foldl_keeps _ _ (by simp) _ _
@[simp] theorem State.loadMet_clk (s : State) (e : Env) (ps : List Piece) : (s.loadMet e ps).clk = s.clk := by unfold State.loadMet; exact foldl_keeps _ _ (by simp) _ _
@[simp] theorem State.loadMet_grade (s : State) (e : Env) (ps : List Piece) : (s.loadMet e ps).grade = s.grade := by unfold State.loadMet; exact foldl_keeps _ _ (by simp) _ _
@[simp] theorem State.loadMet_starting (s : State) (e : Env) (ps : List Piece) : (s.loadMet e ps).starting = s.starting := by unfold State.loadMet; exact foldl_keeps _ _ (by simp) _ _
@[simp] theorem State.loadMet_mem (s : State) (e : Env) (ps : List Piece) : (s.loadMet e ps).mem = s.mem := by unfold State.loadMet; exact foldl_keeps _ _ (by simp) _ _
@[simp] theorem State.loadMet_late (s : State) (e : Env) (ps : List Piece) : (s.loadMet e ps).late = s.late := by unfold State.loadMet; exact foldl_keeps _ _ (by simp) _ _
@[simp] theorem State.loadMet_coreTt (s : State) (e : Env) (ps : List Piece) : (s.loadMet e ps).coreTt = s.coreTt := by unfold State.loadMet; exact foldl_keeps _ _ (by simp) _ _
@[simp] theorem State.loadMet_hostMem (s : State) (e : Env) (ps : List Piece) : (s.loadMet e ps).hostMem = s.hostMem := by unfold State.loadMet; exact foldl_keeps _ _ (by simp) _ _
@[simp] theorem State.loadMet_tlb (s : State) (e : Env) (ps : List Piece) : (s.loadMet e ps).tlb = s.tlb := by unfold State.loadMet; exact foldl_keeps _ _ (by simp) _ _
@[simp] theorem State.loadMet_walks (s : State) (e : Env) (ps : List Piece) : (s.loadMet e ps).walks = s.walks := by unfold State.loadMet; exact foldl_keeps _ _ (by simp) _ _
@[simp] theorem State.loadMet_grids (s : State) (e : Env) (ps : List Piece) : (s.loadMet e ps).grids = s.grids := by unfold State.loadMet; exact foldl_keeps _ _ (by simp) _ _
@[simp] theorem State.loadMet_teams (s : State) (e : Env) (ps : List Piece) : (s.loadMet e ps).teams = s.teams := by unfold State.loadMet; exact foldl_keeps _ _ (by simp) _ _
@[simp] theorem State.loadMet_groups (s : State) (e : Env) (ps : List Piece) : (s.loadMet e ps).groups = s.groups := by unfold State.loadMet; exact foldl_keeps _ _ (by simp) _ _
@[simp] theorem State.loadMet_jobs (s : State) (e : Env) (ps : List Piece) : (s.loadMet e ps).jobs = s.jobs := by unfold State.loadMet; exact foldl_keeps _ _ (by simp) _ _
@[simp] theorem State.loadMet_insts (s : State) (e : Env) (ps : List Piece) : (s.loadMet e ps).insts = s.insts := by unfold State.loadMet; exact foldl_keeps _ _ (by simp) _ _
@[simp] theorem State.loadMet_queues (s : State) (e : Env) (ps : List Piece) : (s.loadMet e ps).queues = s.queues := by unfold State.loadMet; exact foldl_keeps _ _ (by simp) _ _
@[simp] theorem State.loadMet_launches (s : State) (e : Env) (ps : List Piece) : (s.loadMet e ps).launches = s.launches := by unfold State.loadMet; exact foldl_keeps _ _ (by simp) _ _
@[simp] theorem State.loadMet_lastCol (s : State) (e : Env) (ps : List Piece) : (s.loadMet e ps).lastCol = s.lastCol := by unfold State.loadMet; exact foldl_keeps _ _ (by simp) _ _
@[simp] theorem State.loadMet_sensors (s : State) (e : Env) (ps : List Piece) : (s.loadMet e ps).sensors = s.sensors := by unfold State.loadMet; exact foldl_keeps _ _ (by simp) _ _
@[simp] theorem State.loadMet_columns (s : State) (e : Env) (ps : List Piece) : (s.loadMet e ps).columns = s.columns := by unfold State.loadMet; exact foldl_keeps _ _ (by simp) _ _
@[simp] theorem State.loadMet_balances (s : State) (e : Env) (ps : List Piece) : (s.loadMet e ps).balances = s.balances := by unfold State.loadMet; exact foldl_keeps _ _ (by simp) _ _
@[simp] theorem State.loadMet_power (s : State) (e : Env) (ps : List Piece) : (s.loadMet e ps).power = s.power := by unfold State.loadMet; exact foldl_keeps _ _ (by simp) _ _
@[simp] theorem State.loadMet_rings (s : State) (e : Env) (ps : List Piece) : (s.loadMet e ps).rings = s.rings := by unfold State.loadMet; exact foldl_keeps _ _ (by simp) _ _
@[simp] theorem State.loadMet_fw (s : State) (e : Env) (ps : List Piece) : (s.loadMet e ps).fw = s.fw := by unfold State.loadMet; exact foldl_keeps _ _ (by simp) _ _
@[simp] theorem State.loadMet_ports (s : State) (e : Env) (ps : List Piece) : (s.loadMet e ps).ports = s.ports := by unfold State.loadMet; exact foldl_keeps _ _ (by simp) _ _
@[simp] theorem State.loadMet_chipId (s : State) (e : Env) (ps : List Piece) : (s.loadMet e ps).chipId = s.chipId := by unfold State.loadMet; exact foldl_keeps _ _ (by simp) _ _
@[simp] theorem State.loadMet_mgmt (s : State) (e : Env) (ps : List Piece) : (s.loadMet e ps).mgmt = s.mgmt := by unfold State.loadMet; exact foldl_keeps _ _ (by simp) _ _
@[simp] theorem State.loadMet_remote (s : State) (e : Env) (ps : List Piece) : (s.loadMet e ps).remote = s.remote := by unfold State.loadMet; exact foldl_keeps _ _ (by simp) _ _
@[simp] theorem State.loadMet_asks (s : State) (e : Env) (ps : List Piece) : (s.loadMet e ps).asks = s.asks := by unfold State.loadMet; exact foldl_keeps _ _ (by simp) _ _
@[simp] theorem State.loadMet_ownIn (s : State) (e : Env) (ps : List Piece) : (s.loadMet e ps).ownIn = s.ownIn := by unfold State.loadMet; exact foldl_keeps _ _ (by simp) _ _
@[simp] theorem State.loadMet_pcieUp (s : State) (e : Env) (ps : List Piece) : (s.loadMet e ps).pcieUp = s.pcieUp := by unfold State.loadMet; exact foldl_keeps _ _ (by simp) _ _
@[simp] theorem State.loadMet_latch64 (s : State) (e : Env) (ps : List Piece) : (s.loadMet e ps).latch64 = s.latch64 := by unfold State.loadMet; exact foldl_keeps _ _ (by simp) _ _
@[simp] theorem State.loadMet_outbox (s : State) (e : Env) (ps : List Piece) : (s.loadMet e ps).outbox = s.outbox := by unfold State.loadMet; exact foldl_keeps _ _ (by simp) _ _
@[simp] theorem State.loadMet_nextTid (s : State) (e : Env) (ps : List Piece) : (s.loadMet e ps).nextTid = s.nextTid := by unfold State.loadMet; exact foldl_keeps _ _ (by simp) _ _
@[simp] theorem State.loadMet_nextJob (s : State) (e : Env) (ps : List Piece) : (s.loadMet e ps).nextJob = s.nextJob := by unfold State.loadMet; exact foldl_keeps _ _ (by simp) _ _
@[simp] theorem State.loadMet_nextTag (s : State) (e : Env) (ps : List Piece) : (s.loadMet e ps).nextTag = s.nextTag := by unfold State.loadMet; exact foldl_keeps _ _ (by simp) _ _

/-! ## storeMet -/

@[simp] theorem State.storeMet_agenda (s : State) (e : Env) (ps : List Piece) : (s.storeMet e ps).agenda = s.agenda := by unfold State.storeMet; exact foldl_keeps _ _ (by simp) _ _
@[simp] theorem State.storeMet_cur (s : State) (e : Env) (ps : List Piece) : (s.storeMet e ps).cur = s.cur := by unfold State.storeMet; exact foldl_keeps _ _ (by simp) _ _
@[simp] theorem State.storeMet_part (s : State) (e : Env) (ps : List Piece) : (s.storeMet e ps).part = s.part := by unfold State.storeMet; exact foldl_keeps _ _ (by simp) _ _
@[simp] theorem State.storeMet_free (s : State) (e : Env) (ps : List Piece) : (s.storeMet e ps).free = s.free := by unfold State.storeMet; exact foldl_keeps _ _ (by simp) _ _
@[simp] theorem State.storeMet_clk (s : State) (e : Env) (ps : List Piece) : (s.storeMet e ps).clk = s.clk := by unfold State.storeMet; exact foldl_keeps _ _ (by simp) _ _
@[simp] theorem State.storeMet_grade (s : State) (e : Env) (ps : List Piece) : (s.storeMet e ps).grade = s.grade := by unfold State.storeMet; exact foldl_keeps _ _ (by simp) _ _
@[simp] theorem State.storeMet_starting (s : State) (e : Env) (ps : List Piece) : (s.storeMet e ps).starting = s.starting := by unfold State.storeMet; exact foldl_keeps _ _ (by simp) _ _
@[simp] theorem State.storeMet_mem (s : State) (e : Env) (ps : List Piece) : (s.storeMet e ps).mem = s.mem := by unfold State.storeMet; exact foldl_keeps _ _ (by simp) _ _
@[simp] theorem State.storeMet_stale (s : State) (e : Env) (ps : List Piece) : (s.storeMet e ps).stale = s.stale := by unfold State.storeMet; exact foldl_keeps _ _ (by simp) _ _
@[simp] theorem State.storeMet_late (s : State) (e : Env) (ps : List Piece) : (s.storeMet e ps).late = s.late := by unfold State.storeMet; exact foldl_keeps _ _ (by simp) _ _
@[simp] theorem State.storeMet_coreTt (s : State) (e : Env) (ps : List Piece) : (s.storeMet e ps).coreTt = s.coreTt := by unfold State.storeMet; exact foldl_keeps _ _ (by simp) _ _
@[simp] theorem State.storeMet_hostMem (s : State) (e : Env) (ps : List Piece) : (s.storeMet e ps).hostMem = s.hostMem := by unfold State.storeMet; exact foldl_keeps _ _ (by simp) _ _
@[simp] theorem State.storeMet_tlb (s : State) (e : Env) (ps : List Piece) : (s.storeMet e ps).tlb = s.tlb := by unfold State.storeMet; exact foldl_keeps _ _ (by simp) _ _
@[simp] theorem State.storeMet_walks (s : State) (e : Env) (ps : List Piece) : (s.storeMet e ps).walks = s.walks := by unfold State.storeMet; exact foldl_keeps _ _ (by simp) _ _
@[simp] theorem State.storeMet_grids (s : State) (e : Env) (ps : List Piece) : (s.storeMet e ps).grids = s.grids := by unfold State.storeMet; exact foldl_keeps _ _ (by simp) _ _
@[simp] theorem State.storeMet_teams (s : State) (e : Env) (ps : List Piece) : (s.storeMet e ps).teams = s.teams := by unfold State.storeMet; exact foldl_keeps _ _ (by simp) _ _
@[simp] theorem State.storeMet_groups (s : State) (e : Env) (ps : List Piece) : (s.storeMet e ps).groups = s.groups := by unfold State.storeMet; exact foldl_keeps _ _ (by simp) _ _
@[simp] theorem State.storeMet_jobs (s : State) (e : Env) (ps : List Piece) : (s.storeMet e ps).jobs = s.jobs := by unfold State.storeMet; exact foldl_keeps _ _ (by simp) _ _
@[simp] theorem State.storeMet_insts (s : State) (e : Env) (ps : List Piece) : (s.storeMet e ps).insts = s.insts := by unfold State.storeMet; exact foldl_keeps _ _ (by simp) _ _
@[simp] theorem State.storeMet_queues (s : State) (e : Env) (ps : List Piece) : (s.storeMet e ps).queues = s.queues := by unfold State.storeMet; exact foldl_keeps _ _ (by simp) _ _
@[simp] theorem State.storeMet_launches (s : State) (e : Env) (ps : List Piece) : (s.storeMet e ps).launches = s.launches := by unfold State.storeMet; exact foldl_keeps _ _ (by simp) _ _
@[simp] theorem State.storeMet_lastCol (s : State) (e : Env) (ps : List Piece) : (s.storeMet e ps).lastCol = s.lastCol := by unfold State.storeMet; exact foldl_keeps _ _ (by simp) _ _
@[simp] theorem State.storeMet_sensors (s : State) (e : Env) (ps : List Piece) : (s.storeMet e ps).sensors = s.sensors := by unfold State.storeMet; exact foldl_keeps _ _ (by simp) _ _
@[simp] theorem State.storeMet_columns (s : State) (e : Env) (ps : List Piece) : (s.storeMet e ps).columns = s.columns := by unfold State.storeMet; exact foldl_keeps _ _ (by simp) _ _
@[simp] theorem State.storeMet_balances (s : State) (e : Env) (ps : List Piece) : (s.storeMet e ps).balances = s.balances := by unfold State.storeMet; exact foldl_keeps _ _ (by simp) _ _
@[simp] theorem State.storeMet_power (s : State) (e : Env) (ps : List Piece) : (s.storeMet e ps).power = s.power := by unfold State.storeMet; exact foldl_keeps _ _ (by simp) _ _
@[simp] theorem State.storeMet_rings (s : State) (e : Env) (ps : List Piece) : (s.storeMet e ps).rings = s.rings := by unfold State.storeMet; exact foldl_keeps _ _ (by simp) _ _
@[simp] theorem State.storeMet_fw (s : State) (e : Env) (ps : List Piece) : (s.storeMet e ps).fw = s.fw := by unfold State.storeMet; exact foldl_keeps _ _ (by simp) _ _
@[simp] theorem State.storeMet_ports (s : State) (e : Env) (ps : List Piece) : (s.storeMet e ps).ports = s.ports := by unfold State.storeMet; exact foldl_keeps _ _ (by simp) _ _
@[simp] theorem State.storeMet_chipId (s : State) (e : Env) (ps : List Piece) : (s.storeMet e ps).chipId = s.chipId := by unfold State.storeMet; exact foldl_keeps _ _ (by simp) _ _
@[simp] theorem State.storeMet_mgmt (s : State) (e : Env) (ps : List Piece) : (s.storeMet e ps).mgmt = s.mgmt := by unfold State.storeMet; exact foldl_keeps _ _ (by simp) _ _
@[simp] theorem State.storeMet_remote (s : State) (e : Env) (ps : List Piece) : (s.storeMet e ps).remote = s.remote := by unfold State.storeMet; exact foldl_keeps _ _ (by simp) _ _
@[simp] theorem State.storeMet_asks (s : State) (e : Env) (ps : List Piece) : (s.storeMet e ps).asks = s.asks := by unfold State.storeMet; exact foldl_keeps _ _ (by simp) _ _
@[simp] theorem State.storeMet_ownIn (s : State) (e : Env) (ps : List Piece) : (s.storeMet e ps).ownIn = s.ownIn := by unfold State.storeMet; exact foldl_keeps _ _ (by simp) _ _
@[simp] theorem State.storeMet_pcieUp (s : State) (e : Env) (ps : List Piece) : (s.storeMet e ps).pcieUp = s.pcieUp := by unfold State.storeMet; exact foldl_keeps _ _ (by simp) _ _
@[simp] theorem State.storeMet_latch64 (s : State) (e : Env) (ps : List Piece) : (s.storeMet e ps).latch64 = s.latch64 := by unfold State.storeMet; exact foldl_keeps _ _ (by simp) _ _
@[simp] theorem State.storeMet_outbox (s : State) (e : Env) (ps : List Piece) : (s.storeMet e ps).outbox = s.outbox := by unfold State.storeMet; exact foldl_keeps _ _ (by simp) _ _
@[simp] theorem State.storeMet_nextTid (s : State) (e : Env) (ps : List Piece) : (s.storeMet e ps).nextTid = s.nextTid := by unfold State.storeMet; exact foldl_keeps _ _ (by simp) _ _
@[simp] theorem State.storeMet_nextJob (s : State) (e : Env) (ps : List Piece) : (s.storeMet e ps).nextJob = s.nextJob := by unfold State.storeMet; exact foldl_keeps _ _ (by simp) _ _
@[simp] theorem State.storeMet_nextTag (s : State) (e : Env) (ps : List Piece) : (s.storeMet e ps).nextTag = s.nextTag := by unfold State.storeMet; exact foldl_keeps _ _ (by simp) _ _

/-! ## dieMet -/

@[simp] theorem State.dieMet_agenda (s : State) (c : Nat) (w : Bool) (ps : List Piece) : (s.dieMet c w ps).agenda = s.agenda := by unfold State.dieMet; exact foldl_keeps _ _ (by simp) _ _
@[simp] theorem State.dieMet_cur (s : State) (c : Nat) (w : Bool) (ps : List Piece) : (s.dieMet c w ps).cur = s.cur := by unfold State.dieMet; exact foldl_keeps _ _ (by simp) _ _
@[simp] theorem State.dieMet_part (s : State) (c : Nat) (w : Bool) (ps : List Piece) : (s.dieMet c w ps).part = s.part := by unfold State.dieMet; exact foldl_keeps _ _ (by simp) _ _
@[simp] theorem State.dieMet_free (s : State) (c : Nat) (w : Bool) (ps : List Piece) : (s.dieMet c w ps).free = s.free := by unfold State.dieMet; exact foldl_keeps _ _ (by simp) _ _
@[simp] theorem State.dieMet_clk (s : State) (c : Nat) (w : Bool) (ps : List Piece) : (s.dieMet c w ps).clk = s.clk := by unfold State.dieMet; exact foldl_keeps _ _ (by simp) _ _
@[simp] theorem State.dieMet_grade (s : State) (c : Nat) (w : Bool) (ps : List Piece) : (s.dieMet c w ps).grade = s.grade := by unfold State.dieMet; exact foldl_keeps _ _ (by simp) _ _
@[simp] theorem State.dieMet_starting (s : State) (c : Nat) (w : Bool) (ps : List Piece) : (s.dieMet c w ps).starting = s.starting := by unfold State.dieMet; exact foldl_keeps _ _ (by simp) _ _
@[simp] theorem State.dieMet_mem (s : State) (c : Nat) (w : Bool) (ps : List Piece) : (s.dieMet c w ps).mem = s.mem := by unfold State.dieMet; exact foldl_keeps _ _ (by simp) _ _
@[simp] theorem State.dieMet_stale (s : State) (c : Nat) (w : Bool) (ps : List Piece) : (s.dieMet c w ps).stale = s.stale := by unfold State.dieMet; exact foldl_keeps _ _ (by simp) _ _
@[simp] theorem State.dieMet_late (s : State) (c : Nat) (w : Bool) (ps : List Piece) : (s.dieMet c w ps).late = s.late := by unfold State.dieMet; exact foldl_keeps _ _ (by simp) _ _
@[simp] theorem State.dieMet_coreTt (s : State) (c : Nat) (w : Bool) (ps : List Piece) : (s.dieMet c w ps).coreTt = s.coreTt := by unfold State.dieMet; exact foldl_keeps _ _ (by simp) _ _
@[simp] theorem State.dieMet_hostMem (s : State) (c : Nat) (w : Bool) (ps : List Piece) : (s.dieMet c w ps).hostMem = s.hostMem := by unfold State.dieMet; exact foldl_keeps _ _ (by simp) _ _
@[simp] theorem State.dieMet_tlb (s : State) (c : Nat) (w : Bool) (ps : List Piece) : (s.dieMet c w ps).tlb = s.tlb := by unfold State.dieMet; exact foldl_keeps _ _ (by simp) _ _
@[simp] theorem State.dieMet_walks (s : State) (c : Nat) (w : Bool) (ps : List Piece) : (s.dieMet c w ps).walks = s.walks := by unfold State.dieMet; exact foldl_keeps _ _ (by simp) _ _
@[simp] theorem State.dieMet_grids (s : State) (c : Nat) (w : Bool) (ps : List Piece) : (s.dieMet c w ps).grids = s.grids := by unfold State.dieMet; exact foldl_keeps _ _ (by simp) _ _
@[simp] theorem State.dieMet_teams (s : State) (c : Nat) (w : Bool) (ps : List Piece) : (s.dieMet c w ps).teams = s.teams := by unfold State.dieMet; exact foldl_keeps _ _ (by simp) _ _
@[simp] theorem State.dieMet_groups (s : State) (c : Nat) (w : Bool) (ps : List Piece) : (s.dieMet c w ps).groups = s.groups := by unfold State.dieMet; exact foldl_keeps _ _ (by simp) _ _
@[simp] theorem State.dieMet_jobs (s : State) (c : Nat) (w : Bool) (ps : List Piece) : (s.dieMet c w ps).jobs = s.jobs := by unfold State.dieMet; exact foldl_keeps _ _ (by simp) _ _
@[simp] theorem State.dieMet_insts (s : State) (c : Nat) (w : Bool) (ps : List Piece) : (s.dieMet c w ps).insts = s.insts := by unfold State.dieMet; exact foldl_keeps _ _ (by simp) _ _
@[simp] theorem State.dieMet_queues (s : State) (c : Nat) (w : Bool) (ps : List Piece) : (s.dieMet c w ps).queues = s.queues := by unfold State.dieMet; exact foldl_keeps _ _ (by simp) _ _
@[simp] theorem State.dieMet_launches (s : State) (c : Nat) (w : Bool) (ps : List Piece) : (s.dieMet c w ps).launches = s.launches := by unfold State.dieMet; exact foldl_keeps _ _ (by simp) _ _
@[simp] theorem State.dieMet_lastCol (s : State) (c : Nat) (w : Bool) (ps : List Piece) : (s.dieMet c w ps).lastCol = s.lastCol := by unfold State.dieMet; exact foldl_keeps _ _ (by simp) _ _
@[simp] theorem State.dieMet_sensors (s : State) (c : Nat) (w : Bool) (ps : List Piece) : (s.dieMet c w ps).sensors = s.sensors := by unfold State.dieMet; exact foldl_keeps _ _ (by simp) _ _
@[simp] theorem State.dieMet_columns (s : State) (c : Nat) (w : Bool) (ps : List Piece) : (s.dieMet c w ps).columns = s.columns := by unfold State.dieMet; exact foldl_keeps _ _ (by simp) _ _
@[simp] theorem State.dieMet_balances (s : State) (c : Nat) (w : Bool) (ps : List Piece) : (s.dieMet c w ps).balances = s.balances := by unfold State.dieMet; exact foldl_keeps _ _ (by simp) _ _
@[simp] theorem State.dieMet_power (s : State) (c : Nat) (w : Bool) (ps : List Piece) : (s.dieMet c w ps).power = s.power := by unfold State.dieMet; exact foldl_keeps _ _ (by simp) _ _
@[simp] theorem State.dieMet_rings (s : State) (c : Nat) (w : Bool) (ps : List Piece) : (s.dieMet c w ps).rings = s.rings := by unfold State.dieMet; exact foldl_keeps _ _ (by simp) _ _
@[simp] theorem State.dieMet_fw (s : State) (c : Nat) (w : Bool) (ps : List Piece) : (s.dieMet c w ps).fw = s.fw := by unfold State.dieMet; exact foldl_keeps _ _ (by simp) _ _
@[simp] theorem State.dieMet_ports (s : State) (c : Nat) (w : Bool) (ps : List Piece) : (s.dieMet c w ps).ports = s.ports := by unfold State.dieMet; exact foldl_keeps _ _ (by simp) _ _
@[simp] theorem State.dieMet_chipId (s : State) (c : Nat) (w : Bool) (ps : List Piece) : (s.dieMet c w ps).chipId = s.chipId := by unfold State.dieMet; exact foldl_keeps _ _ (by simp) _ _
@[simp] theorem State.dieMet_mgmt (s : State) (c : Nat) (w : Bool) (ps : List Piece) : (s.dieMet c w ps).mgmt = s.mgmt := by unfold State.dieMet; exact foldl_keeps _ _ (by simp) _ _
@[simp] theorem State.dieMet_remote (s : State) (c : Nat) (w : Bool) (ps : List Piece) : (s.dieMet c w ps).remote = s.remote := by unfold State.dieMet; exact foldl_keeps _ _ (by simp) _ _
@[simp] theorem State.dieMet_asks (s : State) (c : Nat) (w : Bool) (ps : List Piece) : (s.dieMet c w ps).asks = s.asks := by unfold State.dieMet; exact foldl_keeps _ _ (by simp) _ _
@[simp] theorem State.dieMet_ownIn (s : State) (c : Nat) (w : Bool) (ps : List Piece) : (s.dieMet c w ps).ownIn = s.ownIn := by unfold State.dieMet; exact foldl_keeps _ _ (by simp) _ _
@[simp] theorem State.dieMet_pcieUp (s : State) (c : Nat) (w : Bool) (ps : List Piece) : (s.dieMet c w ps).pcieUp = s.pcieUp := by unfold State.dieMet; exact foldl_keeps _ _ (by simp) _ _
@[simp] theorem State.dieMet_latch64 (s : State) (c : Nat) (w : Bool) (ps : List Piece) : (s.dieMet c w ps).latch64 = s.latch64 := by unfold State.dieMet; exact foldl_keeps _ _ (by simp) _ _
@[simp] theorem State.dieMet_outbox (s : State) (c : Nat) (w : Bool) (ps : List Piece) : (s.dieMet c w ps).outbox = s.outbox := by unfold State.dieMet; exact foldl_keeps _ _ (by simp) _ _
@[simp] theorem State.dieMet_nextTid (s : State) (c : Nat) (w : Bool) (ps : List Piece) : (s.dieMet c w ps).nextTid = s.nextTid := by unfold State.dieMet; exact foldl_keeps _ _ (by simp) _ _
@[simp] theorem State.dieMet_nextJob (s : State) (c : Nat) (w : Bool) (ps : List Piece) : (s.dieMet c w ps).nextJob = s.nextJob := by unfold State.dieMet; exact foldl_keeps _ _ (by simp) _ _
@[simp] theorem State.dieMet_nextTag (s : State) (c : Nat) (w : Bool) (ps : List Piece) : (s.dieMet c w ps).nextTag = s.nextTag := by unfold State.dieMet; exact foldl_keeps _ _ (by simp) _ _

/-! ## grantOne -/

@[simp] theorem State.grantOne_agenda (s : State) (r : Nat × Remote) : (s.grantOne r).agenda = s.agenda := by unfold State.grantOne; (repeat' split) <;> rfl
@[simp] theorem State.grantOne_cur (s : State) (r : Nat × Remote) : (s.grantOne r).cur = s.cur := by unfold State.grantOne; (repeat' split) <;> rfl
@[simp] theorem State.grantOne_part (s : State) (r : Nat × Remote) : (s.grantOne r).part = s.part := by unfold State.grantOne; (repeat' split) <;> rfl
@[simp] theorem State.grantOne_free (s : State) (r : Nat × Remote) : (s.grantOne r).free = s.free := by unfold State.grantOne; (repeat' split) <;> rfl
@[simp] theorem State.grantOne_clk (s : State) (r : Nat × Remote) : (s.grantOne r).clk = s.clk := by unfold State.grantOne; (repeat' split) <;> rfl
@[simp] theorem State.grantOne_grade (s : State) (r : Nat × Remote) : (s.grantOne r).grade = s.grade := by unfold State.grantOne; (repeat' split) <;> rfl
@[simp] theorem State.grantOne_starting (s : State) (r : Nat × Remote) : (s.grantOne r).starting = s.starting := by unfold State.grantOne; (repeat' split) <;> rfl
@[simp] theorem State.grantOne_mem (s : State) (r : Nat × Remote) : (s.grantOne r).mem = s.mem := by unfold State.grantOne; (repeat' split) <;> rfl
@[simp] theorem State.grantOne_stale (s : State) (r : Nat × Remote) : (s.grantOne r).stale = s.stale := by unfold State.grantOne; (repeat' split) <;> rfl
@[simp] theorem State.grantOne_late (s : State) (r : Nat × Remote) : (s.grantOne r).late = s.late := by unfold State.grantOne; (repeat' split) <;> rfl
@[simp] theorem State.grantOne_coreTt (s : State) (r : Nat × Remote) : (s.grantOne r).coreTt = s.coreTt := by unfold State.grantOne; (repeat' split) <;> rfl
@[simp] theorem State.grantOne_hostMem (s : State) (r : Nat × Remote) : (s.grantOne r).hostMem = s.hostMem := by unfold State.grantOne; (repeat' split) <;> rfl
@[simp] theorem State.grantOne_hbm (s : State) (r : Nat × Remote) : (s.grantOne r).hbm = s.hbm := by unfold State.grantOne; (repeat' split) <;> rfl
@[simp] theorem State.grantOne_tlb (s : State) (r : Nat × Remote) : (s.grantOne r).tlb = s.tlb := by unfold State.grantOne; (repeat' split) <;> rfl
@[simp] theorem State.grantOne_walks (s : State) (r : Nat × Remote) : (s.grantOne r).walks = s.walks := by unfold State.grantOne; (repeat' split) <;> rfl
@[simp] theorem State.grantOne_caches (s : State) (r : Nat × Remote) : (s.grantOne r).caches = s.caches := by unfold State.grantOne; (repeat' split) <;> rfl
@[simp] theorem State.grantOne_ctxs (s : State) (r : Nat × Remote) : (s.grantOne r).ctxs = s.ctxs := by unfold State.grantOne; (repeat' split) <;> rfl
@[simp] theorem State.grantOne_grids (s : State) (r : Nat × Remote) : (s.grantOne r).grids = s.grids := by unfold State.grantOne; (repeat' split) <;> rfl
@[simp] theorem State.grantOne_teams (s : State) (r : Nat × Remote) : (s.grantOne r).teams = s.teams := by unfold State.grantOne; (repeat' split) <;> rfl
@[simp] theorem State.grantOne_groups (s : State) (r : Nat × Remote) : (s.grantOne r).groups = s.groups := by unfold State.grantOne; (repeat' split) <;> rfl
@[simp] theorem State.grantOne_jobs (s : State) (r : Nat × Remote) : (s.grantOne r).jobs = s.jobs := by unfold State.grantOne; (repeat' split) <;> rfl
@[simp] theorem State.grantOne_insts (s : State) (r : Nat × Remote) : (s.grantOne r).insts = s.insts := by unfold State.grantOne; (repeat' split) <;> rfl
@[simp] theorem State.grantOne_queues (s : State) (r : Nat × Remote) : (s.grantOne r).queues = s.queues := by unfold State.grantOne; (repeat' split) <;> rfl
@[simp] theorem State.grantOne_launches (s : State) (r : Nat × Remote) : (s.grantOne r).launches = s.launches := by unfold State.grantOne; (repeat' split) <;> rfl
@[simp] theorem State.grantOne_lastCol (s : State) (r : Nat × Remote) : (s.grantOne r).lastCol = s.lastCol := by unfold State.grantOne; (repeat' split) <;> rfl
@[simp] theorem State.grantOne_sensors (s : State) (r : Nat × Remote) : (s.grantOne r).sensors = s.sensors := by unfold State.grantOne; (repeat' split) <;> rfl
@[simp] theorem State.grantOne_columns (s : State) (r : Nat × Remote) : (s.grantOne r).columns = s.columns := by unfold State.grantOne; (repeat' split) <;> rfl
@[simp] theorem State.grantOne_balances (s : State) (r : Nat × Remote) : (s.grantOne r).balances = s.balances := by unfold State.grantOne; (repeat' split) <;> rfl
@[simp] theorem State.grantOne_power (s : State) (r : Nat × Remote) : (s.grantOne r).power = s.power := by unfold State.grantOne; (repeat' split) <;> rfl
@[simp] theorem State.grantOne_rings (s : State) (r : Nat × Remote) : (s.grantOne r).rings = s.rings := by unfold State.grantOne; (repeat' split) <;> rfl
@[simp] theorem State.grantOne_fw (s : State) (r : Nat × Remote) : (s.grantOne r).fw = s.fw := by unfold State.grantOne; (repeat' split) <;> rfl
@[simp] theorem State.grantOne_ports (s : State) (r : Nat × Remote) : (s.grantOne r).ports = s.ports := by unfold State.grantOne; (repeat' split) <;> rfl
@[simp] theorem State.grantOne_chipId (s : State) (r : Nat × Remote) : (s.grantOne r).chipId = s.chipId := by unfold State.grantOne; (repeat' split) <;> rfl
@[simp] theorem State.grantOne_mgmt (s : State) (r : Nat × Remote) : (s.grantOne r).mgmt = s.mgmt := by unfold State.grantOne; (repeat' split) <;> rfl
@[simp] theorem State.grantOne_asks (s : State) (r : Nat × Remote) : (s.grantOne r).asks = s.asks := by unfold State.grantOne; (repeat' split) <;> rfl
@[simp] theorem State.grantOne_ownIn (s : State) (r : Nat × Remote) : (s.grantOne r).ownIn = s.ownIn := by unfold State.grantOne; (repeat' split) <;> rfl
@[simp] theorem State.grantOne_pcieUp (s : State) (r : Nat × Remote) : (s.grantOne r).pcieUp = s.pcieUp := by unfold State.grantOne; (repeat' split) <;> rfl
@[simp] theorem State.grantOne_latch64 (s : State) (r : Nat × Remote) : (s.grantOne r).latch64 = s.latch64 := by unfold State.grantOne; (repeat' split) <;> rfl
@[simp] theorem State.grantOne_outbox (s : State) (r : Nat × Remote) : (s.grantOne r).outbox = s.outbox := by unfold State.grantOne; (repeat' split) <;> rfl
@[simp] theorem State.grantOne_nextTid (s : State) (r : Nat × Remote) : (s.grantOne r).nextTid = s.nextTid := by unfold State.grantOne; (repeat' split) <;> rfl
@[simp] theorem State.grantOne_nextJob (s : State) (r : Nat × Remote) : (s.grantOne r).nextJob = s.nextJob := by unfold State.grantOne; (repeat' split) <;> rfl
@[simp] theorem State.grantOne_nextTag (s : State) (r : Nat × Remote) : (s.grantOne r).nextTag = s.nextTag := by unfold State.grantOne; (repeat' split) <;> rfl

/-! ## grantAll -/

@[simp] theorem State.grantAll_agenda (s : State)  : (s.grantAll).agenda = s.agenda := by unfold State.grantAll; exact foldl_keeps _ _ (by simp) _ _
@[simp] theorem State.grantAll_cur (s : State)  : (s.grantAll).cur = s.cur := by unfold State.grantAll; exact foldl_keeps _ _ (by simp) _ _
@[simp] theorem State.grantAll_part (s : State)  : (s.grantAll).part = s.part := by unfold State.grantAll; exact foldl_keeps _ _ (by simp) _ _
@[simp] theorem State.grantAll_free (s : State)  : (s.grantAll).free = s.free := by unfold State.grantAll; exact foldl_keeps _ _ (by simp) _ _
@[simp] theorem State.grantAll_clk (s : State)  : (s.grantAll).clk = s.clk := by unfold State.grantAll; exact foldl_keeps _ _ (by simp) _ _
@[simp] theorem State.grantAll_grade (s : State)  : (s.grantAll).grade = s.grade := by unfold State.grantAll; exact foldl_keeps _ _ (by simp) _ _
@[simp] theorem State.grantAll_starting (s : State)  : (s.grantAll).starting = s.starting := by unfold State.grantAll; exact foldl_keeps _ _ (by simp) _ _
@[simp] theorem State.grantAll_mem (s : State)  : (s.grantAll).mem = s.mem := by unfold State.grantAll; exact foldl_keeps _ _ (by simp) _ _
@[simp] theorem State.grantAll_stale (s : State)  : (s.grantAll).stale = s.stale := by unfold State.grantAll; exact foldl_keeps _ _ (by simp) _ _
@[simp] theorem State.grantAll_late (s : State)  : (s.grantAll).late = s.late := by unfold State.grantAll; exact foldl_keeps _ _ (by simp) _ _
@[simp] theorem State.grantAll_coreTt (s : State)  : (s.grantAll).coreTt = s.coreTt := by unfold State.grantAll; exact foldl_keeps _ _ (by simp) _ _
@[simp] theorem State.grantAll_hostMem (s : State)  : (s.grantAll).hostMem = s.hostMem := by unfold State.grantAll; exact foldl_keeps _ _ (by simp) _ _
@[simp] theorem State.grantAll_hbm (s : State)  : (s.grantAll).hbm = s.hbm := by unfold State.grantAll; exact foldl_keeps _ _ (by simp) _ _
@[simp] theorem State.grantAll_tlb (s : State)  : (s.grantAll).tlb = s.tlb := by unfold State.grantAll; exact foldl_keeps _ _ (by simp) _ _
@[simp] theorem State.grantAll_walks (s : State)  : (s.grantAll).walks = s.walks := by unfold State.grantAll; exact foldl_keeps _ _ (by simp) _ _
@[simp] theorem State.grantAll_caches (s : State)  : (s.grantAll).caches = s.caches := by unfold State.grantAll; exact foldl_keeps _ _ (by simp) _ _
@[simp] theorem State.grantAll_ctxs (s : State)  : (s.grantAll).ctxs = s.ctxs := by unfold State.grantAll; exact foldl_keeps _ _ (by simp) _ _
@[simp] theorem State.grantAll_grids (s : State)  : (s.grantAll).grids = s.grids := by unfold State.grantAll; exact foldl_keeps _ _ (by simp) _ _
@[simp] theorem State.grantAll_teams (s : State)  : (s.grantAll).teams = s.teams := by unfold State.grantAll; exact foldl_keeps _ _ (by simp) _ _
@[simp] theorem State.grantAll_groups (s : State)  : (s.grantAll).groups = s.groups := by unfold State.grantAll; exact foldl_keeps _ _ (by simp) _ _
@[simp] theorem State.grantAll_jobs (s : State)  : (s.grantAll).jobs = s.jobs := by unfold State.grantAll; exact foldl_keeps _ _ (by simp) _ _
@[simp] theorem State.grantAll_insts (s : State)  : (s.grantAll).insts = s.insts := by unfold State.grantAll; exact foldl_keeps _ _ (by simp) _ _
@[simp] theorem State.grantAll_queues (s : State)  : (s.grantAll).queues = s.queues := by unfold State.grantAll; exact foldl_keeps _ _ (by simp) _ _
@[simp] theorem State.grantAll_launches (s : State)  : (s.grantAll).launches = s.launches := by unfold State.grantAll; exact foldl_keeps _ _ (by simp) _ _
@[simp] theorem State.grantAll_lastCol (s : State)  : (s.grantAll).lastCol = s.lastCol := by unfold State.grantAll; exact foldl_keeps _ _ (by simp) _ _
@[simp] theorem State.grantAll_sensors (s : State)  : (s.grantAll).sensors = s.sensors := by unfold State.grantAll; exact foldl_keeps _ _ (by simp) _ _
@[simp] theorem State.grantAll_columns (s : State)  : (s.grantAll).columns = s.columns := by unfold State.grantAll; exact foldl_keeps _ _ (by simp) _ _
@[simp] theorem State.grantAll_balances (s : State)  : (s.grantAll).balances = s.balances := by unfold State.grantAll; exact foldl_keeps _ _ (by simp) _ _
@[simp] theorem State.grantAll_power (s : State)  : (s.grantAll).power = s.power := by unfold State.grantAll; exact foldl_keeps _ _ (by simp) _ _
@[simp] theorem State.grantAll_rings (s : State)  : (s.grantAll).rings = s.rings := by unfold State.grantAll; exact foldl_keeps _ _ (by simp) _ _
@[simp] theorem State.grantAll_fw (s : State)  : (s.grantAll).fw = s.fw := by unfold State.grantAll; exact foldl_keeps _ _ (by simp) _ _
@[simp] theorem State.grantAll_ports (s : State)  : (s.grantAll).ports = s.ports := by unfold State.grantAll; exact foldl_keeps _ _ (by simp) _ _
@[simp] theorem State.grantAll_chipId (s : State)  : (s.grantAll).chipId = s.chipId := by unfold State.grantAll; exact foldl_keeps _ _ (by simp) _ _
@[simp] theorem State.grantAll_mgmt (s : State)  : (s.grantAll).mgmt = s.mgmt := by unfold State.grantAll; exact foldl_keeps _ _ (by simp) _ _
@[simp] theorem State.grantAll_asks (s : State)  : (s.grantAll).asks = s.asks := by unfold State.grantAll; exact foldl_keeps _ _ (by simp) _ _
@[simp] theorem State.grantAll_ownIn (s : State)  : (s.grantAll).ownIn = s.ownIn := by unfold State.grantAll; exact foldl_keeps _ _ (by simp) _ _
@[simp] theorem State.grantAll_pcieUp (s : State)  : (s.grantAll).pcieUp = s.pcieUp := by unfold State.grantAll; exact foldl_keeps _ _ (by simp) _ _
@[simp] theorem State.grantAll_latch64 (s : State)  : (s.grantAll).latch64 = s.latch64 := by unfold State.grantAll; exact foldl_keeps _ _ (by simp) _ _
@[simp] theorem State.grantAll_outbox (s : State)  : (s.grantAll).outbox = s.outbox := by unfold State.grantAll; exact foldl_keeps _ _ (by simp) _ _
@[simp] theorem State.grantAll_nextTid (s : State)  : (s.grantAll).nextTid = s.nextTid := by unfold State.grantAll; exact foldl_keeps _ _ (by simp) _ _
@[simp] theorem State.grantAll_nextJob (s : State)  : (s.grantAll).nextJob = s.nextJob := by unfold State.grantAll; exact foldl_keeps _ _ (by simp) _ _
@[simp] theorem State.grantAll_nextTag (s : State)  : (s.grantAll).nextTag = s.nextTag := by unfold State.grantAll; exact foldl_keeps _ _ (by simp) _ _

/-! ## doneAsks -/

@[simp] theorem State.doneAsks_agenda (s : State) (k : Nat) : (s.doneAsks k).agenda = s.agenda := by simp [State.doneAsks]
@[simp] theorem State.doneAsks_cur (s : State) (k : Nat) : (s.doneAsks k).cur = s.cur := by simp [State.doneAsks]
@[simp] theorem State.doneAsks_part (s : State) (k : Nat) : (s.doneAsks k).part = s.part := by simp [State.doneAsks]
@[simp] theorem State.doneAsks_free (s : State) (k : Nat) : (s.doneAsks k).free = s.free := by simp [State.doneAsks]
@[simp] theorem State.doneAsks_clk (s : State) (k : Nat) : (s.doneAsks k).clk = s.clk := by simp [State.doneAsks]
@[simp] theorem State.doneAsks_grade (s : State) (k : Nat) : (s.doneAsks k).grade = s.grade := by simp [State.doneAsks]
@[simp] theorem State.doneAsks_starting (s : State) (k : Nat) : (s.doneAsks k).starting = s.starting := by simp [State.doneAsks]
@[simp] theorem State.doneAsks_mem (s : State) (k : Nat) : (s.doneAsks k).mem = s.mem := by simp [State.doneAsks]
@[simp] theorem State.doneAsks_stale (s : State) (k : Nat) : (s.doneAsks k).stale = s.stale := by simp [State.doneAsks]
@[simp] theorem State.doneAsks_late (s : State) (k : Nat) : (s.doneAsks k).late = s.late := by simp [State.doneAsks]
@[simp] theorem State.doneAsks_coreTt (s : State) (k : Nat) : (s.doneAsks k).coreTt = s.coreTt := by simp [State.doneAsks]
@[simp] theorem State.doneAsks_hostMem (s : State) (k : Nat) : (s.doneAsks k).hostMem = s.hostMem := by simp [State.doneAsks]
@[simp] theorem State.doneAsks_hbm (s : State) (k : Nat) : (s.doneAsks k).hbm = s.hbm := by simp [State.doneAsks]
@[simp] theorem State.doneAsks_tlb (s : State) (k : Nat) : (s.doneAsks k).tlb = s.tlb := by simp [State.doneAsks]
@[simp] theorem State.doneAsks_walks (s : State) (k : Nat) : (s.doneAsks k).walks = s.walks := by simp [State.doneAsks]
@[simp] theorem State.doneAsks_caches (s : State) (k : Nat) : (s.doneAsks k).caches = s.caches := by simp [State.doneAsks]
@[simp] theorem State.doneAsks_ctxs (s : State) (k : Nat) : (s.doneAsks k).ctxs = s.ctxs := by simp [State.doneAsks]
@[simp] theorem State.doneAsks_grids (s : State) (k : Nat) : (s.doneAsks k).grids = s.grids := by simp [State.doneAsks]
@[simp] theorem State.doneAsks_teams (s : State) (k : Nat) : (s.doneAsks k).teams = s.teams := by simp [State.doneAsks]
@[simp] theorem State.doneAsks_groups (s : State) (k : Nat) : (s.doneAsks k).groups = s.groups := by simp [State.doneAsks]
@[simp] theorem State.doneAsks_jobs (s : State) (k : Nat) : (s.doneAsks k).jobs = s.jobs := by simp [State.doneAsks]
@[simp] theorem State.doneAsks_insts (s : State) (k : Nat) : (s.doneAsks k).insts = s.insts := by simp [State.doneAsks]
@[simp] theorem State.doneAsks_queues (s : State) (k : Nat) : (s.doneAsks k).queues = s.queues := by simp [State.doneAsks]
@[simp] theorem State.doneAsks_launches (s : State) (k : Nat) : (s.doneAsks k).launches = s.launches := by simp [State.doneAsks]
@[simp] theorem State.doneAsks_lastCol (s : State) (k : Nat) : (s.doneAsks k).lastCol = s.lastCol := by simp [State.doneAsks]
@[simp] theorem State.doneAsks_sensors (s : State) (k : Nat) : (s.doneAsks k).sensors = s.sensors := by simp [State.doneAsks]
@[simp] theorem State.doneAsks_columns (s : State) (k : Nat) : (s.doneAsks k).columns = s.columns := by simp [State.doneAsks]
@[simp] theorem State.doneAsks_balances (s : State) (k : Nat) : (s.doneAsks k).balances = s.balances := by simp [State.doneAsks]
@[simp] theorem State.doneAsks_power (s : State) (k : Nat) : (s.doneAsks k).power = s.power := by simp [State.doneAsks]
@[simp] theorem State.doneAsks_rings (s : State) (k : Nat) : (s.doneAsks k).rings = s.rings := by simp [State.doneAsks]
@[simp] theorem State.doneAsks_fw (s : State) (k : Nat) : (s.doneAsks k).fw = s.fw := by simp [State.doneAsks]
@[simp] theorem State.doneAsks_ports (s : State) (k : Nat) : (s.doneAsks k).ports = s.ports := by simp [State.doneAsks]
@[simp] theorem State.doneAsks_chipId (s : State) (k : Nat) : (s.doneAsks k).chipId = s.chipId := by simp [State.doneAsks]
@[simp] theorem State.doneAsks_mgmt (s : State) (k : Nat) : (s.doneAsks k).mgmt = s.mgmt := by simp [State.doneAsks]
@[simp] theorem State.doneAsks_pcieUp (s : State) (k : Nat) : (s.doneAsks k).pcieUp = s.pcieUp := by simp [State.doneAsks]
@[simp] theorem State.doneAsks_latch64 (s : State) (k : Nat) : (s.doneAsks k).latch64 = s.latch64 := by simp [State.doneAsks]
@[simp] theorem State.doneAsks_outbox (s : State) (k : Nat) : (s.doneAsks k).outbox = s.outbox := by simp [State.doneAsks]
@[simp] theorem State.doneAsks_nextTid (s : State) (k : Nat) : (s.doneAsks k).nextTid = s.nextTid := by simp [State.doneAsks]
@[simp] theorem State.doneAsks_nextJob (s : State) (k : Nat) : (s.doneAsks k).nextJob = s.nextJob := by simp [State.doneAsks]
@[simp] theorem State.doneAsks_nextTag (s : State) (k : Nat) : (s.doneAsks k).nextTag = s.nextTag := by simp [State.doneAsks]

/-! ## tlbUsed -/

@[simp] theorem State.tlbUsed_agenda (s : State) (t : TlbEntry) : (s.tlbUsed t).agenda = s.agenda := rfl
@[simp] theorem State.tlbUsed_cur (s : State) (t : TlbEntry) : (s.tlbUsed t).cur = s.cur := rfl
@[simp] theorem State.tlbUsed_part (s : State) (t : TlbEntry) : (s.tlbUsed t).part = s.part := rfl
@[simp] theorem State.tlbUsed_free (s : State) (t : TlbEntry) : (s.tlbUsed t).free = s.free := rfl
@[simp] theorem State.tlbUsed_clk (s : State) (t : TlbEntry) : (s.tlbUsed t).clk = s.clk := rfl
@[simp] theorem State.tlbUsed_grade (s : State) (t : TlbEntry) : (s.tlbUsed t).grade = s.grade := rfl
@[simp] theorem State.tlbUsed_starting (s : State) (t : TlbEntry) : (s.tlbUsed t).starting = s.starting := rfl
@[simp] theorem State.tlbUsed_mem (s : State) (t : TlbEntry) : (s.tlbUsed t).mem = s.mem := rfl
@[simp] theorem State.tlbUsed_stale (s : State) (t : TlbEntry) : (s.tlbUsed t).stale = s.stale := rfl
@[simp] theorem State.tlbUsed_late (s : State) (t : TlbEntry) : (s.tlbUsed t).late = s.late := rfl
@[simp] theorem State.tlbUsed_coreTt (s : State) (t : TlbEntry) : (s.tlbUsed t).coreTt = s.coreTt := rfl
@[simp] theorem State.tlbUsed_hostMem (s : State) (t : TlbEntry) : (s.tlbUsed t).hostMem = s.hostMem := rfl
@[simp] theorem State.tlbUsed_hbm (s : State) (t : TlbEntry) : (s.tlbUsed t).hbm = s.hbm := rfl
@[simp] theorem State.tlbUsed_walks (s : State) (t : TlbEntry) : (s.tlbUsed t).walks = s.walks := rfl
@[simp] theorem State.tlbUsed_caches (s : State) (t : TlbEntry) : (s.tlbUsed t).caches = s.caches := rfl
@[simp] theorem State.tlbUsed_ctxs (s : State) (t : TlbEntry) : (s.tlbUsed t).ctxs = s.ctxs := rfl
@[simp] theorem State.tlbUsed_grids (s : State) (t : TlbEntry) : (s.tlbUsed t).grids = s.grids := rfl
@[simp] theorem State.tlbUsed_teams (s : State) (t : TlbEntry) : (s.tlbUsed t).teams = s.teams := rfl
@[simp] theorem State.tlbUsed_groups (s : State) (t : TlbEntry) : (s.tlbUsed t).groups = s.groups := rfl
@[simp] theorem State.tlbUsed_jobs (s : State) (t : TlbEntry) : (s.tlbUsed t).jobs = s.jobs := rfl
@[simp] theorem State.tlbUsed_insts (s : State) (t : TlbEntry) : (s.tlbUsed t).insts = s.insts := rfl
@[simp] theorem State.tlbUsed_queues (s : State) (t : TlbEntry) : (s.tlbUsed t).queues = s.queues := rfl
@[simp] theorem State.tlbUsed_launches (s : State) (t : TlbEntry) : (s.tlbUsed t).launches = s.launches := rfl
@[simp] theorem State.tlbUsed_lastCol (s : State) (t : TlbEntry) : (s.tlbUsed t).lastCol = s.lastCol := rfl
@[simp] theorem State.tlbUsed_sensors (s : State) (t : TlbEntry) : (s.tlbUsed t).sensors = s.sensors := rfl
@[simp] theorem State.tlbUsed_columns (s : State) (t : TlbEntry) : (s.tlbUsed t).columns = s.columns := rfl
@[simp] theorem State.tlbUsed_balances (s : State) (t : TlbEntry) : (s.tlbUsed t).balances = s.balances := rfl
@[simp] theorem State.tlbUsed_power (s : State) (t : TlbEntry) : (s.tlbUsed t).power = s.power := rfl
@[simp] theorem State.tlbUsed_rings (s : State) (t : TlbEntry) : (s.tlbUsed t).rings = s.rings := rfl
@[simp] theorem State.tlbUsed_fw (s : State) (t : TlbEntry) : (s.tlbUsed t).fw = s.fw := rfl
@[simp] theorem State.tlbUsed_ports (s : State) (t : TlbEntry) : (s.tlbUsed t).ports = s.ports := rfl
@[simp] theorem State.tlbUsed_chipId (s : State) (t : TlbEntry) : (s.tlbUsed t).chipId = s.chipId := rfl
@[simp] theorem State.tlbUsed_mgmt (s : State) (t : TlbEntry) : (s.tlbUsed t).mgmt = s.mgmt := rfl
@[simp] theorem State.tlbUsed_remote (s : State) (t : TlbEntry) : (s.tlbUsed t).remote = s.remote := rfl
@[simp] theorem State.tlbUsed_asks (s : State) (t : TlbEntry) : (s.tlbUsed t).asks = s.asks := rfl
@[simp] theorem State.tlbUsed_ownIn (s : State) (t : TlbEntry) : (s.tlbUsed t).ownIn = s.ownIn := rfl
@[simp] theorem State.tlbUsed_pcieUp (s : State) (t : TlbEntry) : (s.tlbUsed t).pcieUp = s.pcieUp := rfl
@[simp] theorem State.tlbUsed_latch64 (s : State) (t : TlbEntry) : (s.tlbUsed t).latch64 = s.latch64 := rfl
@[simp] theorem State.tlbUsed_outbox (s : State) (t : TlbEntry) : (s.tlbUsed t).outbox = s.outbox := rfl
@[simp] theorem State.tlbUsed_nextTid (s : State) (t : TlbEntry) : (s.tlbUsed t).nextTid = s.nextTid := rfl
@[simp] theorem State.tlbUsed_nextJob (s : State) (t : TlbEntry) : (s.tlbUsed t).nextJob = s.nextJob := rfl
@[simp] theorem State.tlbUsed_nextTag (s : State) (t : TlbEntry) : (s.tlbUsed t).nextTag = s.nextTag := rfl

/-! ## tlbFill -/

@[simp] theorem State.tlbFill_agenda (s : State) (t : TlbEntry) (us : List TlbUnit) : (s.tlbFill t us).agenda = s.agenda := by induction us <;> simp_all [State.tlbFill]
@[simp] theorem State.tlbFill_cur (s : State) (t : TlbEntry) (us : List TlbUnit) : (s.tlbFill t us).cur = s.cur := by induction us <;> simp_all [State.tlbFill]
@[simp] theorem State.tlbFill_part (s : State) (t : TlbEntry) (us : List TlbUnit) : (s.tlbFill t us).part = s.part := by induction us <;> simp_all [State.tlbFill]
@[simp] theorem State.tlbFill_free (s : State) (t : TlbEntry) (us : List TlbUnit) : (s.tlbFill t us).free = s.free := by induction us <;> simp_all [State.tlbFill]
@[simp] theorem State.tlbFill_clk (s : State) (t : TlbEntry) (us : List TlbUnit) : (s.tlbFill t us).clk = s.clk := by induction us <;> simp_all [State.tlbFill]
@[simp] theorem State.tlbFill_grade (s : State) (t : TlbEntry) (us : List TlbUnit) : (s.tlbFill t us).grade = s.grade := by induction us <;> simp_all [State.tlbFill]
@[simp] theorem State.tlbFill_starting (s : State) (t : TlbEntry) (us : List TlbUnit) : (s.tlbFill t us).starting = s.starting := by induction us <;> simp_all [State.tlbFill]
@[simp] theorem State.tlbFill_mem (s : State) (t : TlbEntry) (us : List TlbUnit) : (s.tlbFill t us).mem = s.mem := by induction us <;> simp_all [State.tlbFill]
@[simp] theorem State.tlbFill_stale (s : State) (t : TlbEntry) (us : List TlbUnit) : (s.tlbFill t us).stale = s.stale := by induction us <;> simp_all [State.tlbFill]
@[simp] theorem State.tlbFill_late (s : State) (t : TlbEntry) (us : List TlbUnit) : (s.tlbFill t us).late = s.late := by induction us <;> simp_all [State.tlbFill]
@[simp] theorem State.tlbFill_coreTt (s : State) (t : TlbEntry) (us : List TlbUnit) : (s.tlbFill t us).coreTt = s.coreTt := by induction us <;> simp_all [State.tlbFill]
@[simp] theorem State.tlbFill_hostMem (s : State) (t : TlbEntry) (us : List TlbUnit) : (s.tlbFill t us).hostMem = s.hostMem := by induction us <;> simp_all [State.tlbFill]
@[simp] theorem State.tlbFill_hbm (s : State) (t : TlbEntry) (us : List TlbUnit) : (s.tlbFill t us).hbm = s.hbm := by induction us <;> simp_all [State.tlbFill]
@[simp] theorem State.tlbFill_walks (s : State) (t : TlbEntry) (us : List TlbUnit) : (s.tlbFill t us).walks = s.walks := by induction us <;> simp_all [State.tlbFill]
@[simp] theorem State.tlbFill_caches (s : State) (t : TlbEntry) (us : List TlbUnit) : (s.tlbFill t us).caches = s.caches := by induction us <;> simp_all [State.tlbFill]
@[simp] theorem State.tlbFill_ctxs (s : State) (t : TlbEntry) (us : List TlbUnit) : (s.tlbFill t us).ctxs = s.ctxs := by induction us <;> simp_all [State.tlbFill]
@[simp] theorem State.tlbFill_grids (s : State) (t : TlbEntry) (us : List TlbUnit) : (s.tlbFill t us).grids = s.grids := by induction us <;> simp_all [State.tlbFill]
@[simp] theorem State.tlbFill_teams (s : State) (t : TlbEntry) (us : List TlbUnit) : (s.tlbFill t us).teams = s.teams := by induction us <;> simp_all [State.tlbFill]
@[simp] theorem State.tlbFill_groups (s : State) (t : TlbEntry) (us : List TlbUnit) : (s.tlbFill t us).groups = s.groups := by induction us <;> simp_all [State.tlbFill]
@[simp] theorem State.tlbFill_jobs (s : State) (t : TlbEntry) (us : List TlbUnit) : (s.tlbFill t us).jobs = s.jobs := by induction us <;> simp_all [State.tlbFill]
@[simp] theorem State.tlbFill_insts (s : State) (t : TlbEntry) (us : List TlbUnit) : (s.tlbFill t us).insts = s.insts := by induction us <;> simp_all [State.tlbFill]
@[simp] theorem State.tlbFill_queues (s : State) (t : TlbEntry) (us : List TlbUnit) : (s.tlbFill t us).queues = s.queues := by induction us <;> simp_all [State.tlbFill]
@[simp] theorem State.tlbFill_launches (s : State) (t : TlbEntry) (us : List TlbUnit) : (s.tlbFill t us).launches = s.launches := by induction us <;> simp_all [State.tlbFill]
@[simp] theorem State.tlbFill_lastCol (s : State) (t : TlbEntry) (us : List TlbUnit) : (s.tlbFill t us).lastCol = s.lastCol := by induction us <;> simp_all [State.tlbFill]
@[simp] theorem State.tlbFill_sensors (s : State) (t : TlbEntry) (us : List TlbUnit) : (s.tlbFill t us).sensors = s.sensors := by induction us <;> simp_all [State.tlbFill]
@[simp] theorem State.tlbFill_columns (s : State) (t : TlbEntry) (us : List TlbUnit) : (s.tlbFill t us).columns = s.columns := by induction us <;> simp_all [State.tlbFill]
@[simp] theorem State.tlbFill_balances (s : State) (t : TlbEntry) (us : List TlbUnit) : (s.tlbFill t us).balances = s.balances := by induction us <;> simp_all [State.tlbFill]
@[simp] theorem State.tlbFill_power (s : State) (t : TlbEntry) (us : List TlbUnit) : (s.tlbFill t us).power = s.power := by induction us <;> simp_all [State.tlbFill]
@[simp] theorem State.tlbFill_rings (s : State) (t : TlbEntry) (us : List TlbUnit) : (s.tlbFill t us).rings = s.rings := by induction us <;> simp_all [State.tlbFill]
@[simp] theorem State.tlbFill_fw (s : State) (t : TlbEntry) (us : List TlbUnit) : (s.tlbFill t us).fw = s.fw := by induction us <;> simp_all [State.tlbFill]
@[simp] theorem State.tlbFill_ports (s : State) (t : TlbEntry) (us : List TlbUnit) : (s.tlbFill t us).ports = s.ports := by induction us <;> simp_all [State.tlbFill]
@[simp] theorem State.tlbFill_chipId (s : State) (t : TlbEntry) (us : List TlbUnit) : (s.tlbFill t us).chipId = s.chipId := by induction us <;> simp_all [State.tlbFill]
@[simp] theorem State.tlbFill_mgmt (s : State) (t : TlbEntry) (us : List TlbUnit) : (s.tlbFill t us).mgmt = s.mgmt := by induction us <;> simp_all [State.tlbFill]
@[simp] theorem State.tlbFill_remote (s : State) (t : TlbEntry) (us : List TlbUnit) : (s.tlbFill t us).remote = s.remote := by induction us <;> simp_all [State.tlbFill]
@[simp] theorem State.tlbFill_asks (s : State) (t : TlbEntry) (us : List TlbUnit) : (s.tlbFill t us).asks = s.asks := by induction us <;> simp_all [State.tlbFill]
@[simp] theorem State.tlbFill_ownIn (s : State) (t : TlbEntry) (us : List TlbUnit) : (s.tlbFill t us).ownIn = s.ownIn := by induction us <;> simp_all [State.tlbFill]
@[simp] theorem State.tlbFill_pcieUp (s : State) (t : TlbEntry) (us : List TlbUnit) : (s.tlbFill t us).pcieUp = s.pcieUp := by induction us <;> simp_all [State.tlbFill]
@[simp] theorem State.tlbFill_latch64 (s : State) (t : TlbEntry) (us : List TlbUnit) : (s.tlbFill t us).latch64 = s.latch64 := by induction us <;> simp_all [State.tlbFill]
@[simp] theorem State.tlbFill_outbox (s : State) (t : TlbEntry) (us : List TlbUnit) : (s.tlbFill t us).outbox = s.outbox := by induction us <;> simp_all [State.tlbFill]
@[simp] theorem State.tlbFill_nextTid (s : State) (t : TlbEntry) (us : List TlbUnit) : (s.tlbFill t us).nextTid = s.nextTid := by induction us <;> simp_all [State.tlbFill]
@[simp] theorem State.tlbFill_nextJob (s : State) (t : TlbEntry) (us : List TlbUnit) : (s.tlbFill t us).nextJob = s.nextJob := by induction us <;> simp_all [State.tlbFill]
@[simp] theorem State.tlbFill_nextTag (s : State) (t : TlbEntry) (us : List TlbUnit) : (s.tlbFill t us).nextTag = s.nextTag := by induction us <;> simp_all [State.tlbFill]

/-! ## walkUsed -/

@[simp] theorem State.walkUsed_agenda (s : State) (w : WalkEntry) : (s.walkUsed w).agenda = s.agenda := rfl
@[simp] theorem State.walkUsed_cur (s : State) (w : WalkEntry) : (s.walkUsed w).cur = s.cur := rfl
@[simp] theorem State.walkUsed_part (s : State) (w : WalkEntry) : (s.walkUsed w).part = s.part := rfl
@[simp] theorem State.walkUsed_free (s : State) (w : WalkEntry) : (s.walkUsed w).free = s.free := rfl
@[simp] theorem State.walkUsed_clk (s : State) (w : WalkEntry) : (s.walkUsed w).clk = s.clk := rfl
@[simp] theorem State.walkUsed_grade (s : State) (w : WalkEntry) : (s.walkUsed w).grade = s.grade := rfl
@[simp] theorem State.walkUsed_starting (s : State) (w : WalkEntry) : (s.walkUsed w).starting = s.starting := rfl
@[simp] theorem State.walkUsed_mem (s : State) (w : WalkEntry) : (s.walkUsed w).mem = s.mem := rfl
@[simp] theorem State.walkUsed_stale (s : State) (w : WalkEntry) : (s.walkUsed w).stale = s.stale := rfl
@[simp] theorem State.walkUsed_late (s : State) (w : WalkEntry) : (s.walkUsed w).late = s.late := rfl
@[simp] theorem State.walkUsed_coreTt (s : State) (w : WalkEntry) : (s.walkUsed w).coreTt = s.coreTt := rfl
@[simp] theorem State.walkUsed_hostMem (s : State) (w : WalkEntry) : (s.walkUsed w).hostMem = s.hostMem := rfl
@[simp] theorem State.walkUsed_hbm (s : State) (w : WalkEntry) : (s.walkUsed w).hbm = s.hbm := rfl
@[simp] theorem State.walkUsed_tlb (s : State) (w : WalkEntry) : (s.walkUsed w).tlb = s.tlb := rfl
@[simp] theorem State.walkUsed_caches (s : State) (w : WalkEntry) : (s.walkUsed w).caches = s.caches := rfl
@[simp] theorem State.walkUsed_ctxs (s : State) (w : WalkEntry) : (s.walkUsed w).ctxs = s.ctxs := rfl
@[simp] theorem State.walkUsed_grids (s : State) (w : WalkEntry) : (s.walkUsed w).grids = s.grids := rfl
@[simp] theorem State.walkUsed_teams (s : State) (w : WalkEntry) : (s.walkUsed w).teams = s.teams := rfl
@[simp] theorem State.walkUsed_groups (s : State) (w : WalkEntry) : (s.walkUsed w).groups = s.groups := rfl
@[simp] theorem State.walkUsed_jobs (s : State) (w : WalkEntry) : (s.walkUsed w).jobs = s.jobs := rfl
@[simp] theorem State.walkUsed_insts (s : State) (w : WalkEntry) : (s.walkUsed w).insts = s.insts := rfl
@[simp] theorem State.walkUsed_queues (s : State) (w : WalkEntry) : (s.walkUsed w).queues = s.queues := rfl
@[simp] theorem State.walkUsed_launches (s : State) (w : WalkEntry) : (s.walkUsed w).launches = s.launches := rfl
@[simp] theorem State.walkUsed_lastCol (s : State) (w : WalkEntry) : (s.walkUsed w).lastCol = s.lastCol := rfl
@[simp] theorem State.walkUsed_sensors (s : State) (w : WalkEntry) : (s.walkUsed w).sensors = s.sensors := rfl
@[simp] theorem State.walkUsed_columns (s : State) (w : WalkEntry) : (s.walkUsed w).columns = s.columns := rfl
@[simp] theorem State.walkUsed_balances (s : State) (w : WalkEntry) : (s.walkUsed w).balances = s.balances := rfl
@[simp] theorem State.walkUsed_power (s : State) (w : WalkEntry) : (s.walkUsed w).power = s.power := rfl
@[simp] theorem State.walkUsed_rings (s : State) (w : WalkEntry) : (s.walkUsed w).rings = s.rings := rfl
@[simp] theorem State.walkUsed_fw (s : State) (w : WalkEntry) : (s.walkUsed w).fw = s.fw := rfl
@[simp] theorem State.walkUsed_ports (s : State) (w : WalkEntry) : (s.walkUsed w).ports = s.ports := rfl
@[simp] theorem State.walkUsed_chipId (s : State) (w : WalkEntry) : (s.walkUsed w).chipId = s.chipId := rfl
@[simp] theorem State.walkUsed_mgmt (s : State) (w : WalkEntry) : (s.walkUsed w).mgmt = s.mgmt := rfl
@[simp] theorem State.walkUsed_remote (s : State) (w : WalkEntry) : (s.walkUsed w).remote = s.remote := rfl
@[simp] theorem State.walkUsed_asks (s : State) (w : WalkEntry) : (s.walkUsed w).asks = s.asks := rfl
@[simp] theorem State.walkUsed_ownIn (s : State) (w : WalkEntry) : (s.walkUsed w).ownIn = s.ownIn := rfl
@[simp] theorem State.walkUsed_pcieUp (s : State) (w : WalkEntry) : (s.walkUsed w).pcieUp = s.pcieUp := rfl
@[simp] theorem State.walkUsed_latch64 (s : State) (w : WalkEntry) : (s.walkUsed w).latch64 = s.latch64 := rfl
@[simp] theorem State.walkUsed_outbox (s : State) (w : WalkEntry) : (s.walkUsed w).outbox = s.outbox := rfl
@[simp] theorem State.walkUsed_nextTid (s : State) (w : WalkEntry) : (s.walkUsed w).nextTid = s.nextTid := rfl
@[simp] theorem State.walkUsed_nextJob (s : State) (w : WalkEntry) : (s.walkUsed w).nextJob = s.nextJob := rfl
@[simp] theorem State.walkUsed_nextTag (s : State) (w : WalkEntry) : (s.walkUsed w).nextTag = s.nextTag := rfl

/-! ## countRetired -/

@[simp] theorem State.countRetired_agenda (s : State) (c : Nat) (g : Group) : (s.countRetired c g).agenda = s.agenda := by unfold State.countRetired; split <;> simp
@[simp] theorem State.countRetired_cur (s : State) (c : Nat) (g : Group) : (s.countRetired c g).cur = s.cur := by unfold State.countRetired; split <;> simp
@[simp] theorem State.countRetired_part (s : State) (c : Nat) (g : Group) : (s.countRetired c g).part = s.part := by unfold State.countRetired; split <;> simp
@[simp] theorem State.countRetired_free (s : State) (c : Nat) (g : Group) : (s.countRetired c g).free = s.free := by unfold State.countRetired; split <;> simp
@[simp] theorem State.countRetired_clk (s : State) (c : Nat) (g : Group) : (s.countRetired c g).clk = s.clk := by unfold State.countRetired; split <;> simp
@[simp] theorem State.countRetired_grade (s : State) (c : Nat) (g : Group) : (s.countRetired c g).grade = s.grade := by unfold State.countRetired; split <;> simp
@[simp] theorem State.countRetired_starting (s : State) (c : Nat) (g : Group) : (s.countRetired c g).starting = s.starting := by unfold State.countRetired; split <;> simp
@[simp] theorem State.countRetired_mem (s : State) (c : Nat) (g : Group) : (s.countRetired c g).mem = s.mem := by unfold State.countRetired; split <;> simp
@[simp] theorem State.countRetired_stale (s : State) (c : Nat) (g : Group) : (s.countRetired c g).stale = s.stale := by unfold State.countRetired; split <;> simp
@[simp] theorem State.countRetired_late (s : State) (c : Nat) (g : Group) : (s.countRetired c g).late = s.late := by unfold State.countRetired; split <;> simp
@[simp] theorem State.countRetired_coreTt (s : State) (c : Nat) (g : Group) : (s.countRetired c g).coreTt = s.coreTt := by unfold State.countRetired; split <;> simp
@[simp] theorem State.countRetired_hostMem (s : State) (c : Nat) (g : Group) : (s.countRetired c g).hostMem = s.hostMem := by unfold State.countRetired; split <;> simp
@[simp] theorem State.countRetired_hbm (s : State) (c : Nat) (g : Group) : (s.countRetired c g).hbm = s.hbm := by unfold State.countRetired; split <;> simp
@[simp] theorem State.countRetired_tlb (s : State) (c : Nat) (g : Group) : (s.countRetired c g).tlb = s.tlb := by unfold State.countRetired; split <;> simp
@[simp] theorem State.countRetired_walks (s : State) (c : Nat) (g : Group) : (s.countRetired c g).walks = s.walks := by unfold State.countRetired; split <;> simp
@[simp] theorem State.countRetired_caches (s : State) (c : Nat) (g : Group) : (s.countRetired c g).caches = s.caches := by unfold State.countRetired; split <;> simp
@[simp] theorem State.countRetired_grids (s : State) (c : Nat) (g : Group) : (s.countRetired c g).grids = s.grids := by unfold State.countRetired; split <;> simp
@[simp] theorem State.countRetired_teams (s : State) (c : Nat) (g : Group) : (s.countRetired c g).teams = s.teams := by unfold State.countRetired; split <;> simp
@[simp] theorem State.countRetired_groups (s : State) (c : Nat) (g : Group) : (s.countRetired c g).groups = s.groups := by unfold State.countRetired; split <;> simp
@[simp] theorem State.countRetired_jobs (s : State) (c : Nat) (g : Group) : (s.countRetired c g).jobs = s.jobs := by unfold State.countRetired; split <;> simp
@[simp] theorem State.countRetired_insts (s : State) (c : Nat) (g : Group) : (s.countRetired c g).insts = s.insts := by unfold State.countRetired; split <;> simp
@[simp] theorem State.countRetired_queues (s : State) (c : Nat) (g : Group) : (s.countRetired c g).queues = s.queues := by unfold State.countRetired; split <;> simp
@[simp] theorem State.countRetired_launches (s : State) (c : Nat) (g : Group) : (s.countRetired c g).launches = s.launches := by unfold State.countRetired; split <;> simp
@[simp] theorem State.countRetired_lastCol (s : State) (c : Nat) (g : Group) : (s.countRetired c g).lastCol = s.lastCol := by unfold State.countRetired; split <;> simp
@[simp] theorem State.countRetired_sensors (s : State) (c : Nat) (g : Group) : (s.countRetired c g).sensors = s.sensors := by unfold State.countRetired; split <;> simp
@[simp] theorem State.countRetired_columns (s : State) (c : Nat) (g : Group) : (s.countRetired c g).columns = s.columns := by unfold State.countRetired; split <;> simp
@[simp] theorem State.countRetired_balances (s : State) (c : Nat) (g : Group) : (s.countRetired c g).balances = s.balances := by unfold State.countRetired; split <;> simp
@[simp] theorem State.countRetired_power (s : State) (c : Nat) (g : Group) : (s.countRetired c g).power = s.power := by unfold State.countRetired; split <;> simp
@[simp] theorem State.countRetired_rings (s : State) (c : Nat) (g : Group) : (s.countRetired c g).rings = s.rings := by unfold State.countRetired; split <;> simp
@[simp] theorem State.countRetired_fw (s : State) (c : Nat) (g : Group) : (s.countRetired c g).fw = s.fw := by unfold State.countRetired; split <;> simp
@[simp] theorem State.countRetired_ports (s : State) (c : Nat) (g : Group) : (s.countRetired c g).ports = s.ports := by unfold State.countRetired; split <;> simp
@[simp] theorem State.countRetired_chipId (s : State) (c : Nat) (g : Group) : (s.countRetired c g).chipId = s.chipId := by unfold State.countRetired; split <;> simp
@[simp] theorem State.countRetired_mgmt (s : State) (c : Nat) (g : Group) : (s.countRetired c g).mgmt = s.mgmt := by unfold State.countRetired; split <;> simp
@[simp] theorem State.countRetired_remote (s : State) (c : Nat) (g : Group) : (s.countRetired c g).remote = s.remote := by unfold State.countRetired; split <;> simp
@[simp] theorem State.countRetired_asks (s : State) (c : Nat) (g : Group) : (s.countRetired c g).asks = s.asks := by unfold State.countRetired; split <;> simp
@[simp] theorem State.countRetired_ownIn (s : State) (c : Nat) (g : Group) : (s.countRetired c g).ownIn = s.ownIn := by unfold State.countRetired; split <;> simp
@[simp] theorem State.countRetired_pcieUp (s : State) (c : Nat) (g : Group) : (s.countRetired c g).pcieUp = s.pcieUp := by unfold State.countRetired; split <;> simp
@[simp] theorem State.countRetired_latch64 (s : State) (c : Nat) (g : Group) : (s.countRetired c g).latch64 = s.latch64 := by unfold State.countRetired; split <;> simp
@[simp] theorem State.countRetired_outbox (s : State) (c : Nat) (g : Group) : (s.countRetired c g).outbox = s.outbox := by unfold State.countRetired; split <;> simp
@[simp] theorem State.countRetired_nextTid (s : State) (c : Nat) (g : Group) : (s.countRetired c g).nextTid = s.nextTid := by unfold State.countRetired; split <;> simp
@[simp] theorem State.countRetired_nextJob (s : State) (c : Nat) (g : Group) : (s.countRetired c g).nextJob = s.nextJob := by unfold State.countRetired; split <;> simp
@[simp] theorem State.countRetired_nextTag (s : State) (c : Nat) (g : Group) : (s.countRetired c g).nextTag = s.nextTag := by unfold State.countRetired; split <;> simp

/-! ## atController -/

@[simp] theorem State.atController_agenda (s : State) (pa : Nat) : (s.atController pa).agenda = s.agenda := by unfold State.atController; dsimp only; split <;> simp
@[simp] theorem State.atController_cur (s : State) (pa : Nat) : (s.atController pa).cur = s.cur := by unfold State.atController; dsimp only; split <;> simp
@[simp] theorem State.atController_part (s : State) (pa : Nat) : (s.atController pa).part = s.part := by unfold State.atController; dsimp only; split <;> simp
@[simp] theorem State.atController_free (s : State) (pa : Nat) : (s.atController pa).free = s.free := by unfold State.atController; dsimp only; split <;> simp
@[simp] theorem State.atController_clk (s : State) (pa : Nat) : (s.atController pa).clk = s.clk := by unfold State.atController; dsimp only; split <;> simp
@[simp] theorem State.atController_grade (s : State) (pa : Nat) : (s.atController pa).grade = s.grade := by unfold State.atController; dsimp only; split <;> simp
@[simp] theorem State.atController_starting (s : State) (pa : Nat) : (s.atController pa).starting = s.starting := by unfold State.atController; dsimp only; split <;> simp
@[simp] theorem State.atController_mem (s : State) (pa : Nat) : (s.atController pa).mem = s.mem := by unfold State.atController; dsimp only; split <;> simp
@[simp] theorem State.atController_stale (s : State) (pa : Nat) : (s.atController pa).stale = s.stale := by unfold State.atController; dsimp only; split <;> simp
@[simp] theorem State.atController_late (s : State) (pa : Nat) : (s.atController pa).late = s.late := by unfold State.atController; dsimp only; split <;> simp
@[simp] theorem State.atController_coreTt (s : State) (pa : Nat) : (s.atController pa).coreTt = s.coreTt := by unfold State.atController; dsimp only; split <;> simp
@[simp] theorem State.atController_hostMem (s : State) (pa : Nat) : (s.atController pa).hostMem = s.hostMem := by unfold State.atController; dsimp only; split <;> simp
@[simp] theorem State.atController_tlb (s : State) (pa : Nat) : (s.atController pa).tlb = s.tlb := by unfold State.atController; dsimp only; split <;> simp
@[simp] theorem State.atController_walks (s : State) (pa : Nat) : (s.atController pa).walks = s.walks := by unfold State.atController; dsimp only; split <;> simp
@[simp] theorem State.atController_ctxs (s : State) (pa : Nat) : (s.atController pa).ctxs = s.ctxs := by unfold State.atController; dsimp only; split <;> simp
@[simp] theorem State.atController_grids (s : State) (pa : Nat) : (s.atController pa).grids = s.grids := by unfold State.atController; dsimp only; split <;> simp
@[simp] theorem State.atController_teams (s : State) (pa : Nat) : (s.atController pa).teams = s.teams := by unfold State.atController; dsimp only; split <;> simp
@[simp] theorem State.atController_groups (s : State) (pa : Nat) : (s.atController pa).groups = s.groups := by unfold State.atController; dsimp only; split <;> simp
@[simp] theorem State.atController_jobs (s : State) (pa : Nat) : (s.atController pa).jobs = s.jobs := by unfold State.atController; dsimp only; split <;> simp
@[simp] theorem State.atController_insts (s : State) (pa : Nat) : (s.atController pa).insts = s.insts := by unfold State.atController; dsimp only; split <;> simp
@[simp] theorem State.atController_queues (s : State) (pa : Nat) : (s.atController pa).queues = s.queues := by unfold State.atController; dsimp only; split <;> simp
@[simp] theorem State.atController_launches (s : State) (pa : Nat) : (s.atController pa).launches = s.launches := by unfold State.atController; dsimp only; split <;> simp
@[simp] theorem State.atController_lastCol (s : State) (pa : Nat) : (s.atController pa).lastCol = s.lastCol := by unfold State.atController; dsimp only; split <;> simp
@[simp] theorem State.atController_sensors (s : State) (pa : Nat) : (s.atController pa).sensors = s.sensors := by unfold State.atController; dsimp only; split <;> simp
@[simp] theorem State.atController_columns (s : State) (pa : Nat) : (s.atController pa).columns = s.columns := by unfold State.atController; dsimp only; split <;> simp
@[simp] theorem State.atController_balances (s : State) (pa : Nat) : (s.atController pa).balances = s.balances := by unfold State.atController; dsimp only; split <;> simp
@[simp] theorem State.atController_power (s : State) (pa : Nat) : (s.atController pa).power = s.power := by unfold State.atController; dsimp only; split <;> simp
@[simp] theorem State.atController_rings (s : State) (pa : Nat) : (s.atController pa).rings = s.rings := by unfold State.atController; dsimp only; split <;> simp
@[simp] theorem State.atController_fw (s : State) (pa : Nat) : (s.atController pa).fw = s.fw := by unfold State.atController; dsimp only; split <;> simp
@[simp] theorem State.atController_ports (s : State) (pa : Nat) : (s.atController pa).ports = s.ports := by unfold State.atController; dsimp only; split <;> simp
@[simp] theorem State.atController_chipId (s : State) (pa : Nat) : (s.atController pa).chipId = s.chipId := by unfold State.atController; dsimp only; split <;> simp
@[simp] theorem State.atController_mgmt (s : State) (pa : Nat) : (s.atController pa).mgmt = s.mgmt := by unfold State.atController; dsimp only; split <;> simp
@[simp] theorem State.atController_remote (s : State) (pa : Nat) : (s.atController pa).remote = s.remote := by unfold State.atController; dsimp only; split <;> simp
@[simp] theorem State.atController_asks (s : State) (pa : Nat) : (s.atController pa).asks = s.asks := by unfold State.atController; dsimp only; split <;> simp
@[simp] theorem State.atController_ownIn (s : State) (pa : Nat) : (s.atController pa).ownIn = s.ownIn := by unfold State.atController; dsimp only; split <;> simp
@[simp] theorem State.atController_pcieUp (s : State) (pa : Nat) : (s.atController pa).pcieUp = s.pcieUp := by unfold State.atController; dsimp only; split <;> simp
@[simp] theorem State.atController_latch64 (s : State) (pa : Nat) : (s.atController pa).latch64 = s.latch64 := by unfold State.atController; dsimp only; split <;> simp
@[simp] theorem State.atController_outbox (s : State) (pa : Nat) : (s.atController pa).outbox = s.outbox := by unfold State.atController; dsimp only; split <;> simp
@[simp] theorem State.atController_nextTid (s : State) (pa : Nat) : (s.atController pa).nextTid = s.nextTid := by unfold State.atController; dsimp only; split <;> simp
@[simp] theorem State.atController_nextJob (s : State) (pa : Nat) : (s.atController pa).nextJob = s.nextJob := by unfold State.atController; dsimp only; split <;> simp
@[simp] theorem State.atController_nextTag (s : State) (pa : Nat) : (s.atController pa).nextTag = s.nextTag := by unfold State.atController; dsimp only; split <;> simp

/-! ## retireAt -/

@[simp] theorem State.retireAt_agenda (s : State) (e : Env) (g : Group) : (s.retireAt e g).agenda = s.agenda := by simp [State.retireAt]
@[simp] theorem State.retireAt_part (s : State) (e : Env) (g : Group) : (s.retireAt e g).part = s.part := by simp [State.retireAt]
@[simp] theorem State.retireAt_free (s : State) (e : Env) (g : Group) : (s.retireAt e g).free = s.free := by simp [State.retireAt]
@[simp] theorem State.retireAt_clk (s : State) (e : Env) (g : Group) : (s.retireAt e g).clk = s.clk := by simp [State.retireAt]
@[simp] theorem State.retireAt_grade (s : State) (e : Env) (g : Group) : (s.retireAt e g).grade = s.grade := by simp [State.retireAt]
@[simp] theorem State.retireAt_starting (s : State) (e : Env) (g : Group) : (s.retireAt e g).starting = s.starting := by simp [State.retireAt]
@[simp] theorem State.retireAt_mem (s : State) (e : Env) (g : Group) : (s.retireAt e g).mem = s.mem := by simp [State.retireAt]
@[simp] theorem State.retireAt_stale (s : State) (e : Env) (g : Group) : (s.retireAt e g).stale = s.stale := by simp [State.retireAt]
@[simp] theorem State.retireAt_late (s : State) (e : Env) (g : Group) : (s.retireAt e g).late = s.late := by simp [State.retireAt]
@[simp] theorem State.retireAt_coreTt (s : State) (e : Env) (g : Group) : (s.retireAt e g).coreTt = s.coreTt := by simp [State.retireAt]
@[simp] theorem State.retireAt_hostMem (s : State) (e : Env) (g : Group) : (s.retireAt e g).hostMem = s.hostMem := by simp [State.retireAt]
@[simp] theorem State.retireAt_hbm (s : State) (e : Env) (g : Group) : (s.retireAt e g).hbm = s.hbm := by simp [State.retireAt]
@[simp] theorem State.retireAt_tlb (s : State) (e : Env) (g : Group) : (s.retireAt e g).tlb = s.tlb := by simp [State.retireAt]
@[simp] theorem State.retireAt_walks (s : State) (e : Env) (g : Group) : (s.retireAt e g).walks = s.walks := by simp [State.retireAt]
@[simp] theorem State.retireAt_caches (s : State) (e : Env) (g : Group) : (s.retireAt e g).caches = s.caches := by simp [State.retireAt]
@[simp] theorem State.retireAt_grids (s : State) (e : Env) (g : Group) : (s.retireAt e g).grids = s.grids := by simp [State.retireAt]
@[simp] theorem State.retireAt_jobs (s : State) (e : Env) (g : Group) : (s.retireAt e g).jobs = s.jobs := by simp [State.retireAt]
@[simp] theorem State.retireAt_insts (s : State) (e : Env) (g : Group) : (s.retireAt e g).insts = s.insts := by simp [State.retireAt]
@[simp] theorem State.retireAt_queues (s : State) (e : Env) (g : Group) : (s.retireAt e g).queues = s.queues := by simp [State.retireAt]
@[simp] theorem State.retireAt_launches (s : State) (e : Env) (g : Group) : (s.retireAt e g).launches = s.launches := by simp [State.retireAt]
@[simp] theorem State.retireAt_lastCol (s : State) (e : Env) (g : Group) : (s.retireAt e g).lastCol = s.lastCol := by simp [State.retireAt]
@[simp] theorem State.retireAt_sensors (s : State) (e : Env) (g : Group) : (s.retireAt e g).sensors = s.sensors := by simp [State.retireAt]
@[simp] theorem State.retireAt_columns (s : State) (e : Env) (g : Group) : (s.retireAt e g).columns = s.columns := by simp [State.retireAt]
@[simp] theorem State.retireAt_balances (s : State) (e : Env) (g : Group) : (s.retireAt e g).balances = s.balances := by simp [State.retireAt]
@[simp] theorem State.retireAt_power (s : State) (e : Env) (g : Group) : (s.retireAt e g).power = s.power := by simp [State.retireAt]
@[simp] theorem State.retireAt_rings (s : State) (e : Env) (g : Group) : (s.retireAt e g).rings = s.rings := by simp [State.retireAt]
@[simp] theorem State.retireAt_fw (s : State) (e : Env) (g : Group) : (s.retireAt e g).fw = s.fw := by simp [State.retireAt]
@[simp] theorem State.retireAt_ports (s : State) (e : Env) (g : Group) : (s.retireAt e g).ports = s.ports := by simp [State.retireAt]
@[simp] theorem State.retireAt_chipId (s : State) (e : Env) (g : Group) : (s.retireAt e g).chipId = s.chipId := by simp [State.retireAt]
@[simp] theorem State.retireAt_mgmt (s : State) (e : Env) (g : Group) : (s.retireAt e g).mgmt = s.mgmt := by simp [State.retireAt]
@[simp] theorem State.retireAt_remote (s : State) (e : Env) (g : Group) : (s.retireAt e g).remote = s.remote := by simp [State.retireAt]
@[simp] theorem State.retireAt_asks (s : State) (e : Env) (g : Group) : (s.retireAt e g).asks = s.asks := by simp [State.retireAt]
@[simp] theorem State.retireAt_ownIn (s : State) (e : Env) (g : Group) : (s.retireAt e g).ownIn = s.ownIn := by simp [State.retireAt]
@[simp] theorem State.retireAt_pcieUp (s : State) (e : Env) (g : Group) : (s.retireAt e g).pcieUp = s.pcieUp := by simp [State.retireAt]
@[simp] theorem State.retireAt_latch64 (s : State) (e : Env) (g : Group) : (s.retireAt e g).latch64 = s.latch64 := by simp [State.retireAt]
@[simp] theorem State.retireAt_outbox (s : State) (e : Env) (g : Group) : (s.retireAt e g).outbox = s.outbox := by simp [State.retireAt]
@[simp] theorem State.retireAt_nextTid (s : State) (e : Env) (g : Group) : (s.retireAt e g).nextTid = s.nextTid := by simp [State.retireAt]
@[simp] theorem State.retireAt_nextJob (s : State) (e : Env) (g : Group) : (s.retireAt e g).nextJob = s.nextJob := by simp [State.retireAt]
@[simp] theorem State.retireAt_nextTag (s : State) (e : Env) (g : Group) : (s.retireAt e g).nextTag = s.nextTag := by simp [State.retireAt]

/-! ## retire -/

@[simp] theorem State.retire_agenda (s : State) (e : Env) (g : Group) : (s.retire e g).agenda = s.agenda := by simp [State.retire]
@[simp] theorem State.retire_part (s : State) (e : Env) (g : Group) : (s.retire e g).part = s.part := by simp [State.retire]
@[simp] theorem State.retire_free (s : State) (e : Env) (g : Group) : (s.retire e g).free = s.free := by simp [State.retire]
@[simp] theorem State.retire_clk (s : State) (e : Env) (g : Group) : (s.retire e g).clk = s.clk := by simp [State.retire]
@[simp] theorem State.retire_grade (s : State) (e : Env) (g : Group) : (s.retire e g).grade = s.grade := by simp [State.retire]
@[simp] theorem State.retire_starting (s : State) (e : Env) (g : Group) : (s.retire e g).starting = s.starting := by simp [State.retire]
@[simp] theorem State.retire_mem (s : State) (e : Env) (g : Group) : (s.retire e g).mem = s.mem := by simp [State.retire]
@[simp] theorem State.retire_stale (s : State) (e : Env) (g : Group) : (s.retire e g).stale = s.stale := by simp [State.retire]
@[simp] theorem State.retire_late (s : State) (e : Env) (g : Group) : (s.retire e g).late = s.late := by simp [State.retire]
@[simp] theorem State.retire_coreTt (s : State) (e : Env) (g : Group) : (s.retire e g).coreTt = s.coreTt := by simp [State.retire]
@[simp] theorem State.retire_hostMem (s : State) (e : Env) (g : Group) : (s.retire e g).hostMem = s.hostMem := by simp [State.retire]
@[simp] theorem State.retire_hbm (s : State) (e : Env) (g : Group) : (s.retire e g).hbm = s.hbm := by simp [State.retire]
@[simp] theorem State.retire_tlb (s : State) (e : Env) (g : Group) : (s.retire e g).tlb = s.tlb := by simp [State.retire]
@[simp] theorem State.retire_walks (s : State) (e : Env) (g : Group) : (s.retire e g).walks = s.walks := by simp [State.retire]
@[simp] theorem State.retire_caches (s : State) (e : Env) (g : Group) : (s.retire e g).caches = s.caches := by simp [State.retire]
@[simp] theorem State.retire_grids (s : State) (e : Env) (g : Group) : (s.retire e g).grids = s.grids := by simp [State.retire]
@[simp] theorem State.retire_jobs (s : State) (e : Env) (g : Group) : (s.retire e g).jobs = s.jobs := by simp [State.retire]
@[simp] theorem State.retire_insts (s : State) (e : Env) (g : Group) : (s.retire e g).insts = s.insts := by simp [State.retire]
@[simp] theorem State.retire_queues (s : State) (e : Env) (g : Group) : (s.retire e g).queues = s.queues := by simp [State.retire]
@[simp] theorem State.retire_launches (s : State) (e : Env) (g : Group) : (s.retire e g).launches = s.launches := by simp [State.retire]
@[simp] theorem State.retire_lastCol (s : State) (e : Env) (g : Group) : (s.retire e g).lastCol = s.lastCol := by simp [State.retire]
@[simp] theorem State.retire_sensors (s : State) (e : Env) (g : Group) : (s.retire e g).sensors = s.sensors := by simp [State.retire]
@[simp] theorem State.retire_columns (s : State) (e : Env) (g : Group) : (s.retire e g).columns = s.columns := by simp [State.retire]
@[simp] theorem State.retire_balances (s : State) (e : Env) (g : Group) : (s.retire e g).balances = s.balances := by simp [State.retire]
@[simp] theorem State.retire_power (s : State) (e : Env) (g : Group) : (s.retire e g).power = s.power := by simp [State.retire]
@[simp] theorem State.retire_rings (s : State) (e : Env) (g : Group) : (s.retire e g).rings = s.rings := by simp [State.retire]
@[simp] theorem State.retire_fw (s : State) (e : Env) (g : Group) : (s.retire e g).fw = s.fw := by simp [State.retire]
@[simp] theorem State.retire_ports (s : State) (e : Env) (g : Group) : (s.retire e g).ports = s.ports := by simp [State.retire]
@[simp] theorem State.retire_chipId (s : State) (e : Env) (g : Group) : (s.retire e g).chipId = s.chipId := by simp [State.retire]
@[simp] theorem State.retire_mgmt (s : State) (e : Env) (g : Group) : (s.retire e g).mgmt = s.mgmt := by simp [State.retire]
@[simp] theorem State.retire_remote (s : State) (e : Env) (g : Group) : (s.retire e g).remote = s.remote := by simp [State.retire]
@[simp] theorem State.retire_asks (s : State) (e : Env) (g : Group) : (s.retire e g).asks = s.asks := by simp [State.retire]
@[simp] theorem State.retire_ownIn (s : State) (e : Env) (g : Group) : (s.retire e g).ownIn = s.ownIn := by simp [State.retire]
@[simp] theorem State.retire_pcieUp (s : State) (e : Env) (g : Group) : (s.retire e g).pcieUp = s.pcieUp := by simp [State.retire]
@[simp] theorem State.retire_latch64 (s : State) (e : Env) (g : Group) : (s.retire e g).latch64 = s.latch64 := by simp [State.retire]
@[simp] theorem State.retire_outbox (s : State) (e : Env) (g : Group) : (s.retire e g).outbox = s.outbox := by simp [State.retire]
@[simp] theorem State.retire_nextTid (s : State) (e : Env) (g : Group) : (s.retire e g).nextTid = s.nextTid := by simp [State.retire]
@[simp] theorem State.retire_nextJob (s : State) (e : Env) (g : Group) : (s.retire e g).nextJob = s.nextJob := by simp [State.retire]
@[simp] theorem State.retire_nextTag (s : State) (e : Env) (g : Group) : (s.retire e g).nextTag = s.nextTag := by simp [State.retire]

/-! ## What the updates write -/

@[simp] theorem State.setCtx_ctx? (s : State) (c : Nat) (x : Context) : (s.setCtx c x).ctx? c = some x := by
  simp [State.ctx?, State.setCtx]

theorem State.setCtx_ctx?_ne (s : State) (c : Nat) (x : Context) {d : Nat} (h : d ≠ c) : (s.setCtx c x).ctx? d = s.ctx? d := by
  simp [State.ctx?, State.setCtx, getT_setT, h]

@[simp] theorem State.emit_outbox (s : State) (m : OutMsg) : (s.emit m).outbox = s.outbox ++ [m] := rfl

/-! ## Registers of a group -/

@[simp] theorem Regs.setK_v (r : Regs) (j : Nat) (x : Word) : (r.setK j x).v = r.v := by unfold Regs.setK; split <;> rfl
@[simp] theorem Regs.setK_p (r : Regs) (j : Nat) (x : Word) : (r.setK j x).p = r.p := by unfold Regs.setK; split <;> rfl
@[simp] theorem Regs.setK_q (r : Regs) (j : Nat) (x : Word) : (r.setK j x).q = r.q := by unfold Regs.setK; split <;> rfl
@[simp] theorem Regs.setK_pc (r : Regs) (j : Nat) (x : Word) : (r.setK j x).pc = r.pc := by unfold Regs.setK; split <;> rfl
@[simp] theorem Regs.setK_live (r : Regs) (j : Nat) (x : Word) : (r.setK j x).live = r.live := by unfold Regs.setK; split <;> rfl
@[simp] theorem Regs.setK_wait (r : Regs) (j : Nat) (x : Word) : (r.setK j x).wait = r.wait := by unfold Regs.setK; split <;> rfl
@[simp] theorem Regs.setV_k (r : Regs) (n l : Nat) (x : Word) : (r.setV n l x).k = r.k := rfl
@[simp] theorem Regs.setV_p (r : Regs) (n l : Nat) (x : Word) : (r.setV n l x).p = r.p := rfl
@[simp] theorem Regs.setV_q (r : Regs) (n l : Nat) (x : Word) : (r.setV n l x).q = r.q := rfl
@[simp] theorem Regs.setV_pc (r : Regs) (n l : Nat) (x : Word) : (r.setV n l x).pc = r.pc := rfl
@[simp] theorem Regs.setV_live (r : Regs) (n l : Nat) (x : Word) : (r.setV n l x).live = r.live := rfl
@[simp] theorem Regs.setV_wait (r : Regs) (n l : Nat) (x : Word) : (r.setV n l x).wait = r.wait := rfl
@[simp] theorem Regs.setP_v (r : Regs) (j : Nat) (m x : Mask) : (r.setP j m x).v = r.v := by unfold Regs.setP; split <;> rfl
@[simp] theorem Regs.setP_k (r : Regs) (j : Nat) (m x : Mask) : (r.setP j m x).k = r.k := by unfold Regs.setP; split <;> rfl
@[simp] theorem Regs.setP_q (r : Regs) (j : Nat) (m x : Mask) : (r.setP j m x).q = r.q := by unfold Regs.setP; split <;> rfl
@[simp] theorem Regs.setP_pc (r : Regs) (j : Nat) (m x : Mask) : (r.setP j m x).pc = r.pc := by unfold Regs.setP; split <;> rfl
@[simp] theorem Regs.setP_live (r : Regs) (j : Nat) (m x : Mask) : (r.setP j m x).live = r.live := by unfold Regs.setP; split <;> rfl
@[simp] theorem Regs.setP_wait (r : Regs) (j : Nat) (m x : Mask) : (r.setP j m x).wait = r.wait := by unfold Regs.setP; split <;> rfl
@[simp] theorem Regs.setQ_v (r : Regs) (j : Nat) (b : Bool) : (r.setQ j b).v = r.v := by unfold Regs.setQ; split <;> rfl
@[simp] theorem Regs.setQ_k (r : Regs) (j : Nat) (b : Bool) : (r.setQ j b).k = r.k := by unfold Regs.setQ; split <;> rfl
@[simp] theorem Regs.setQ_p (r : Regs) (j : Nat) (b : Bool) : (r.setQ j b).p = r.p := by unfold Regs.setQ; split <;> rfl
@[simp] theorem Regs.setQ_pc (r : Regs) (j : Nat) (b : Bool) : (r.setQ j b).pc = r.pc := by unfold Regs.setQ; split <;> rfl
@[simp] theorem Regs.setQ_live (r : Regs) (j : Nat) (b : Bool) : (r.setQ j b).live = r.live := by unfold Regs.setQ; split <;> rfl
@[simp] theorem Regs.setQ_wait (r : Regs) (j : Nat) (b : Bool) : (r.setQ j b).wait = r.wait := by unfold Regs.setQ; split <;> rfl
@[simp] theorem Regs.advance_v (r : Regs) (m : Mask) (n : Nat) : (r.advance m n).v = r.v := rfl
@[simp] theorem Regs.advance_k (r : Regs) (m : Mask) (n : Nat) : (r.advance m n).k = r.k := rfl
@[simp] theorem Regs.advance_p (r : Regs) (m : Mask) (n : Nat) : (r.advance m n).p = r.p := rfl
@[simp] theorem Regs.advance_q (r : Regs) (m : Mask) (n : Nat) : (r.advance m n).q = r.q := rfl
@[simp] theorem Regs.advance_live (r : Regs) (m : Mask) (n : Nat) : (r.advance m n).live = r.live := rfl
@[simp] theorem Regs.advance_wait (r : Regs) (m : Mask) (n : Nat) : (r.advance m n).wait = r.wait := rfl

end Sys2Proof.Machine
end

