-- ==== Sys2Proof/Laws/Memory.lean ====
section
/-! SUPPORT. Laws of local memory: what a byte reads after a store, and that every memory operation keeps the canonical
form. -/

namespace Sys2Proof.Machine

@[simp] theorem markStaleRun_mem (s : State) (pa n : Nat) : (s.markStaleRun pa n).mem = s.mem := by
  unfold State.markStaleRun; split <;> rfl

@[simp] theorem markStale_mem (s : State) (pa : Nat) : (s.markStale pa).mem = s.mem := markStaleRun_mem s pa 1

@[simp] theorem clearLost_mem (s : State) (ws : List (Nat × Byte)) : (s.clearLost ws).mem = s.mem := rfl

@[simp] theorem markDirty_mem (s : State) (pa : Nat) : (s.markDirty pa).mem = s.mem := by
  unfold State.markDirty; repeat (any_goals (first | rfl | split))

@[simp] theorem store1_mem (s : State) (pa : Nat) (b : Byte) : (s.store1 pa b).mem = putB s.mem pa b := by simp [State.store1]

theorem storeAll_mem (ws : List (Nat × Byte)) : ∀ s : State,
    (s.storeAll ws).mem = ws.foldl (fun m (w : Nat × Byte) => putB m w.1 w.2) s.mem := by
  induction ws with
  | nil => intro s; rfl
  | cons w t ih => intro s; simp only [State.storeAll, ih, store1_mem, List.foldl_cons]

/-- Every store keeps the canonical form. -/
theorem storeAll_wf (s : State) (ws : List (Nat × Byte)) (h : wfB s.mem = true) : wfB (s.storeAll ws).mem = true := by
  rw [storeAll_mem]; exact wfB_foldl_putB ws (fun w => w.1) (fun w => w.2) s.mem h

theorem spread_foldl (bs : List Byte) : ∀ (m : BMap 8) (a : Nat),
    (spread a bs).foldl (fun m (w : Nat × Byte) => putB m w.1 w.2) m = writeB m a bs := by
  induction bs with
  | nil => intro m a; rfl
  | cons b t ih => intro m a; simp only [spread, List.foldl_cons, writeB, ih]

/-- A run of bytes stored is the run written. -/
theorem storeRun_mem (s : State) (pa : Nat) (bs : List Byte) : (s.storeRun pa bs).mem = writeB s.mem pa bs := by
  unfold State.storeRun; rw [storeAll_mem, spread_foldl]

theorem storeRun_wf (s : State) (pa : Nat) (bs : List Byte) (h : wfB s.mem = true) : wfB (s.storeRun pa bs).mem = true :=
  storeAll_wf s _ h

@[simp] theorem reachPage_mem (s : State) (pa : Nat) : (s.reachPage pa).mem = s.mem :=
  foldl_keeps (fun a : State => a.mem) _ (by simp) _ s

@[simp] theorem pageWritten_mem (s : State) (pa : Nat) : (s.pageWritten pa).mem = s.mem := by simp [State.pageWritten]

theorem copyPage_wf (s : State) (a b : Nat) (h : wfB s.mem = true) : wfB (s.copyPage a b).mem = true := by
  simpa [State.copyPage] using wfB_copyB _ _ _ _ h

theorem zeroPage_wf (s : State) (a : Nat) (h : wfB s.mem = true) : wfB (s.zeroPage a).mem = true := by
  simp [State.zeroPage, wfB_zeroB _ _ _ h]

theorem writeOwn_wf (s : State) (pa : Nat) (bs : List Byte) (h : wfB s.mem = true) : wfB (s.writeOwn pa bs).mem = true :=
  by simpa [State.writeOwn] using storeAll_wf (s.clearLost _) _ h

theorem storeExtern_wf (s : State) (ws : List (Nat × Byte)) (h : wfB s.mem = true) : wfB (s.storeExtern ws).mem = true :=
  storeAll_wf s ws h

/-- Performing what was written at a narrow scope keeps the canonical form. -/
theorem landLate_wf (s : State) (f : Late → Bool) (h : wfB s.mem = true) : wfB (s.landLate f).mem = true := by
  unfold State.landLate
  split
  · exact h
  · generalize s.late.filter f = xs
    generalize hs : ({ s with late := s.late.filter (fun x => !f x) } : State) = s1
    have h1 : wfB s1.mem = true := by rw [← hs]; exact h
    clear hs
    induction xs generalizing s1 with
    | nil => exact h1
    | cons x t ih => exact ih _ (storeAll_wf _ _ h1)

/-- A byte after a run is stored: within the run its byte, outside it as before. -/
theorem storeRun_byte (s : State) (pa : Nat) (bs : List Byte) (a : Nat) :
    getB (s.storeRun pa bs).mem a = if pa ≤ a ∧ a < pa + bs.length then bs.getD (a - pa) 0 else getB s.mem a := by
  rw [storeRun_mem, getB_writeB]

end Sys2Proof.Machine
end

