-- ==== Sys2Proof/Laws/Run.lean ====
section
/-! SUPPORT. Laws of running one instruction: what the shared operations answer, what retiring leaves alone, and what the
operations on registers hold afterwards. -/

namespace Sys2Proof.Machine

/-! ## The environment -/

/-- What an environment says of the state. -/
theorem env_of {s : State} {e : Env} (h : s.env? = some e) :
    s.cur = some e.c ∧ s.group? e.c.gid = some e.g ∧ s.team? (e.c.gid / 32) = some e.t ∧ s.ctx? e.t.ctx = some e.x ∧
    s.grid? e.t.ctx e.t.serial = some e.gr := by
  unfold State.env? at h
  simp only [Option.bind_eq_bind, Option.bind_eq_some_iff, Option.pure_def, Option.some.injEq] at h
  obtain ⟨c, hc, g, hg, t, ht, x, hx, gr, hgr, rfl⟩ := h
  exact ⟨hc, hg, ht, hx, hgr⟩

theorem gid_of {s : State} {n : Nat} {g : Group} (h : s.group? n = some g) : g.gid = n := by
  have := List.find?_some h; simpa using this

theorem tid_of {s : State} {n : Nat} {t : Team} (h : s.team? n = some t) : t.tid = n := by
  have := List.find?_some h; simpa using this

theorem env_gid {s : State} {e : Env} (h : s.env? = some e) : e.g.gid = e.c.gid := gid_of (env_of h).2.1

theorem env_tid {s : State} {e : Env} (h : s.env? = some e) : e.t.tid = e.c.gid / 32 := tid_of (env_of h).2.2.1

/-! ## Running -/

/-- An instruction that completes. -/
theorem run_ok {s : State} {e : Env} {f : Env → Except Stop State} {t : State} (h : s.env? = some e) (hf : f e = .ok t) :
    s.run f = .next t := by
  unfold State.run; rw [h]; simp only [hf]

/-- An instruction that stops. -/
theorem run_stop {s : State} {e : Env} {f : Env → Except Stop State} {p : Stop} (h : s.env? = some e) (hf : f e = .error p) :
    s.run f = .next (s.stopped e.c e.g p) := by
  unfold State.run; rw [h]; simp only [hf]

/-- Running an instruction of an issued group always answers a next state. -/
theorem run_next {s : State} {e : Env} (f : Env → Except Stop State) (h : s.env? = some e) : ∃ t, s.run f = .next t := by
  unfold State.run; rw [h]; exact ⟨_, rfl⟩

/-- A uniform instruction with a true guard. -/
theorem uniform_on {s : State} {e : Env} {q : Pred} {f : Env → Except Stop State} (h : s.env? = some e)
    (hq : e.g.regs.getQ q.val = true) : s.uniform q f = s.run f := by
  unfold State.uniform State.run; rw [h]; simp [hq]

/-- A uniform instruction with a false guard only passes. -/
theorem uniform_off {s : State} {e : Env} {q : Pred} {f : Env → Except Stop State} (h : s.env? = some e)
    (hq : e.g.regs.getQ q.val = false) : s.uniform q f = .next (s.retire e e.g) := by
  unfold State.uniform State.run; rw [h]; simp [hq]

/-- A privileged instruction in a handler is a uniform one. -/
theorem privileged_in {s : State} {e : Env} {q : Pred} {f : Env → Except Stop State} (h : s.env? = some e)
    (hm : e.g.trap.masked = true) : s.privileged q f = s.uniform q f := by
  unfold State.privileged State.uniform State.run; rw [h]; simp [hm]

/-- A privileged instruction outside a handler raises PRIVILEGED. -/
theorem privileged_out {s : State} {e : Env} {q : Pred} {f : Env → Except Stop State} (h : s.env? = some e)
    (hm : e.g.trap.masked = false) : s.privileged q f = .next (s.stopped e.c e.g (.trap 5 0 0 none 0)) := by
  unfold State.privileged State.run; rw [h]; simp [hm]

/-! ## Groups, teams and contexts after the updates -/

theorem find_map_gid (l : List Group) (n : Nat) (f : Group → Group) (hf : ∀ g, (f g).gid = g.gid) :
    (l.map f).find? (fun g => g.gid == n) = (l.find? (fun g => g.gid == n)).map f := by
  induction l with
  | nil => rfl
  | cons a t ih => simp only [List.map_cons, List.find?_cons, hf]; split <;> simp_all

/-- The groups after one is replaced. -/
theorem setGroup_group? (s : State) (g : Group) (n : Nat) :
    (s.setGroup g).group? n = if n = g.gid then (s.group? n).map (fun _ => g) else s.group? n := by
  unfold State.setGroup State.group?
  rw [find_map_gid s.groups n (fun h => if h.gid = g.gid then g else h) (fun h => by split <;> simp_all)]
  cases hn : s.groups.find? (fun h => h.gid == n) with
  | none => simp
  | some h =>
    have : h.gid = n := by have := List.find?_some hn; simpa using this
    subst this
    simp only [Option.map_some]
    split <;> simp

theorem find_map_tid (l : List Team) (n : Nat) (f : Team → Team) (hf : ∀ u, (f u).tid = u.tid) :
    (l.map f).find? (fun u => u.tid == n) = (l.find? (fun u => u.tid == n)).map f := by
  induction l with
  | nil => rfl
  | cons a t ih => simp only [List.map_cons, List.find?_cons, hf]; split <;> simp_all

/-- The teams after one is replaced. -/
theorem setTeam_team? (s : State) (t : Team) (n : Nat) :
    (s.setTeam t).team? n = if n = t.tid then (s.team? n).map (fun _ => t) else s.team? n := by
  unfold State.setTeam State.team?
  rw [find_map_tid s.teams n (fun u => if u.tid = t.tid then t else u) (fun u => by split <;> simp_all)]
  cases hn : s.teams.find? (fun u => u.tid == n) with
  | none => simp
  | some u =>
    have : u.tid = n := by have := List.find?_some hn; simpa using this
    subst this
    simp only [Option.map_some]
    split <;> simp

/-- Rotation moves a team's pointer alone. -/
theorem rotate_team? (s : State) (g n : Nat) :
    ((s.rotate g).team? n).map (fun u => { u with rot := 0 }) = (s.team? n).map (fun u => { u with rot := 0 }) := by
  unfold State.rotate
  split
  · rfl
  · rename_i t ht
    split
    · rfl
    · split
      · rw [setTeam_team?]
        split
        · rename_i hn
          have hn : n = t.tid := hn
          have hs : s.team? n = some t := by rw [hn, tid_of ht]; exact ht
          rw [hs]; rfl
        · rfl
      · rfl

/-- The end of a step of the rotation moves a team's pointer alone. -/
theorem stepEnds_team? (s : State) (g : Group) (n : Nat) :
    ((s.stepEnds g).team? n).map (fun u => { u with rot := 0 }) = (s.team? n).map (fun u => { u with rot := 0 }) := by
  unfold State.stepEnds
  split
  · rfl
  · exact rotate_team? s g.gid n

/-- A context after another field of it is counted. -/
theorem count_ctx? (s : State) (c o n d : Nat) :
    ((s.count c o n).ctx? d).map (fun x => { x with counters := [] }) = (s.ctx? d).map (fun x => { x with counters := [] }) := by
  unfold State.count State.modCtx
  split
  · rfl
  · rename_i x hx
    by_cases hd : d = c
    · subst hd; rw [State.setCtx_ctx?, hx]; rfl
    · rw [State.setCtx_ctx?_ne _ _ _ hd]

/-- Counting a retired instruction changes no more than that. -/
theorem countRetired_ctx? (s : State) (c d : Nat) (g : Group) :
    ((s.countRetired c g).ctx? d).map (fun x => { x with counters := [] }) = (s.ctx? d).map (fun x => { x with counters := [] }) := by
  unfold State.countRetired
  split
  · rfl
  · exact count_ctx? s c 0 1 d

theorem team?_of {s t : State} (h : s.teams = t.teams) (n : Nat) : s.team? n = t.team? n := by unfold State.team?; rw [h]

theorem group?_of {s t : State} (h : s.groups = t.groups) (n : Nat) : s.group? n = t.group? n := by unfold State.group?; rw [h]

theorem ctx?_of {s t : State} (h : s.ctxs = t.ctxs) (n : Nat) : s.ctx? n = t.ctx? n := by unfold State.ctx?; rw [h]

theorem grid?_of {s t : State} (h : s.grids = t.grids) (c n : Nat) : s.grid? c n = t.grid? c n := by unfold State.grid?; rw [h]

/-! ## Retiring -/

theorem retireAt_rest (s : State) (e : Env) (g : Group) :
    s.retireAt e g = { s with
      cur := none, groups := (s.retireAt e g).groups, teams := (s.retireAt e g).teams, ctxs := (s.retireAt e g).ctxs } := by
  unfold State.retireAt State.countRetired State.count State.modCtx State.stepEnds State.rotate
  repeat (any_goals (first | rfl | split))

theorem retireAt_groups (s : State) (e : Env) (g : Group) : (s.retireAt e g).groups = (s.setGroup g).groups := by
  simp [State.retireAt]

/-- Retiring changes the group, and beside it rotation pointers and counters alone. -/
theorem retireAt_frame {s : State} {e : Env} {g : Group} (hg : g.gid = e.g.gid) : Frame s (s.retireAt e g) e where
  mem := fun a => by simp
  host := fun a => by simp
  groups := fun n hn => by rw [group?_of (retireAt_groups s e g), setGroup_group?, if_neg (hg ▸ hn)]
  teams := fun n => by
    unfold State.retireAt
    rw [team?_of (State.countRetired_teams _ _ _), stepEnds_team?]
    rfl
  ctxs := fun c => by
    unfold State.retireAt
    rw [countRetired_ctx?, ctx?_of (State.stepEnds_ctxs _ _)]
    rfl
  rest := retireAt_rest s e g

theorem retireAt_found {s : State} {e : Env} {g : Group} (h : s.env? = some e) (hg : g.gid = e.g.gid) :
    (s.retireAt e g).group? e.g.gid = some g := by
  rw [group?_of (retireAt_groups s e g), setGroup_group?, if_pos hg.symm, env_gid h, (env_of h).2.1]; rfl

/-- What retiring a group that differs from the issued one in its registers and its latch comes to. -/
theorem retire_passed {s : State} {e : Env} (h : s.env? = some e) (r : Regs) (x : Option Latch) :
    Passed s (s.retire e { e.g with regs := r, latch := x }) e x
      ({ e.g with regs := r, latch := x }.complete e.c.mask e.c.size) where
  frame := retireAt_frame rfl
  found := retireAt_found h rfl
  group := rfl

/-! ## Registers -/

theorem foldl_setV (ls : List Nat) (d : Nat) (f : Nat → Word) : ∀ (r : Regs) (n l : Nat), (∀ x ∈ ls, x < 32) → l < 32 →
    (ls.foldl (fun (q : Regs) l => q.setV d l (f l)) r).getV n l = if n = d ∧ l ∈ ls then f l else r.getV n l := by
  induction ls with
  | nil => intro r n l _ _; simp
  | cons a t ih =>
    intro r n l hs hl
    have ha : a < 32 := hs a (by simp)
    rw [List.foldl_cons, ih _ n l (fun x hx => hs x (List.mem_cons_of_mem _ hx)) hl]
    simp only [Regs.setV, Regs.getV, getB_putB, List.mem_cons]
    by_cases hn : n = d
    · subst hn
      by_cases hla : l = a
      · subst hla; simp
      · simp [hla]
    · have : ¬ (32 * n + l = 32 * d + a) := by omega
      simp [hn, this]

theorem foldl_setV2 (ls : List Nat) (d : Nat) (f : Nat → DWord) : ∀ (r : Regs) (n l : Nat), (∀ x ∈ ls, x < 32) → l < 32 →
    (ls.foldl (fun (q : Regs) l => q.setV2 d l (f l)) r).getV n l =
      if l ∈ ls ∧ n = d then (f l).extractLsb' 0 32 else if l ∈ ls ∧ n = d + 1 then (f l).extractLsb' 32 32 else r.getV n l := by
  induction ls with
  | nil => intro r n l _ _; simp
  | cons a t ih =>
    intro r n l hs hl
    have ha : a < 32 := hs a (by simp)
    rw [List.foldl_cons, ih _ n l (fun x hx => hs x (List.mem_cons_of_mem _ hx)) hl]
    simp only [Regs.setV2, Regs.setV, Regs.getV, getB_putB, List.mem_cons]
    have h0 : (f a).setWidth 32 = (f a).extractLsb' 0 32 := by
      apply BitVec.eq_of_toNat_eq; simp [BitVec.extractLsb']
    have h1 : ((f a) >>> 32).setWidth 32 = (f a).extractLsb' 32 32 := by
      apply BitVec.eq_of_toNat_eq; simp [BitVec.extractLsb']
    rw [h0, h1]
    by_cases hla : l = a
    · subst hla
      by_cases hn : n = d
      · subst hn
        simp
      · by_cases hn1 : n = d + 1
        · subst hn1; simp
        · have h2 : ¬ (32 * n + l = 32 * (d + 1) + l) := by omega
          have h3 : ¬ (32 * n + l = 32 * d + l) := by omega
          simp [hn, hn1]
    · have h2 : ¬ (32 * n + l = 32 * (d + 1) + a) := by omega
      have h3 : ¬ (32 * n + l = 32 * d + a) := by omega
      simp [hla, h2, h3]

theorem foldl_setV_keep (ls : List Nat) (d : Nat) (f : Nat → Word) : ∀ r : Regs,
    (ls.foldl (fun (q : Regs) l => q.setV d l (f l)) r) =
      { r with v := (ls.foldl (fun (q : Regs) l => q.setV d l (f l)) r).v } := by
  induction ls with
  | nil => intro r; rfl
  | cons a t ih => intro r; rw [List.foldl_cons, ih]; rfl

theorem foldl_setV2_keep (ls : List Nat) (d : Nat) (f : Nat → DWord) : ∀ r : Regs,
    (ls.foldl (fun (q : Regs) l => q.setV2 d l (f l)) r) =
      { r with v := (ls.foldl (fun (q : Regs) l => q.setV2 d l (f l)) r).v } := by
  induction ls with
  | nil => intro r; rfl
  | cons a t ih => intro r; rw [List.foldl_cons, ih]; rfl

theorem lanesOf_lt {m : Mask} : ∀ x ∈ lanesOf m, x < 32 := fun _ hx => laneBit_lt ((mem_lanesOf m _).1 hx)

/-- v d in the lanes of a mask, and nothing else. -/
theorem mapV_getV (r : Regs) (m : Mask) (d : Nat) (f : Nat → Word) {n l : Nat} (hl : l < 32) :
    (r.mapV m d f).getV n l = if n = d ∧ laneBit m l = true then f l else r.getV n l := by
  unfold Regs.mapV; rw [foldl_setV _ _ _ _ _ _ lanesOf_lt hl]; simp only [mem_lanesOf]

theorem mapV2_getV (r : Regs) (m : Mask) (d : Nat) (f : Nat → DWord) {n l : Nat} (hl : l < 32) :
    (r.mapV2 m d f).getV n l =
      if laneBit m l = true ∧ n = d then (f l).extractLsb' 0 32
      else if laneBit m l = true ∧ n = d + 1 then (f l).extractLsb' 32 32 else r.getV n l := by
  unfold Regs.mapV2; rw [foldl_setV2 _ _ _ _ _ _ lanesOf_lt hl]; simp only [mem_lanesOf]

theorem mapV_keep (r : Regs) (m : Mask) (d : Nat) (f : Nat → Word) : r.mapV m d f = { r with v := (r.mapV m d f).v } :=
  foldl_setV_keep _ _ _ _

theorem mapV2_keep (r : Regs) (m : Mask) (d : Nat) (f : Nat → DWord) : r.mapV2 m d f = { r with v := (r.mapV2 m d f).v } :=
  foldl_setV2_keep _ _ _ _

theorem foldl_pc (ls : List Nat) (x : Pc) : ∀ (p : BMap 57) (l : Nat), ls.Nodup →
    getB (ls.foldl (fun p l => putB p l (getB p l + x)) p) l = if l ∈ ls then getB p l + x else getB p l := by
  induction ls with
  | nil => intro p l _; simp
  | cons a t ih =>
    intro p l hd
    obtain ⟨ha, ht⟩ := List.nodup_cons.1 hd
    rw [List.foldl_cons, ih _ _ ht]
    by_cases hla : l = a
    · subst hla; simp [ha]
    · simp [hla, getB_putB]

theorem lanesOf_nodup (m : Mask) : (lanesOf m).Nodup := List.Nodup.filter _ List.nodup_range

/-- Program counters after an advance (R184). -/
theorem advance_getPc (r : Regs) (m : Mask) (n l : Nat) :
    (r.advance m n).getPc l = if laneBit m l = true then r.getPc l + BitVec.ofNat 57 n else r.getPc l := by
  unfold Regs.advance Regs.getPc
  simp only [foldl_pc _ _ _ _ (lanesOf_nodup m), mem_lanesOf]

theorem setK_getK (r : Regs) (d j : Nat) (x : Word) : (r.setK d x).getK j = if j = d ∧ d ≠ 0 then x else r.getK j := by
  unfold Regs.setK Regs.getK
  by_cases hd : d = 0
  · simp [hd]
  · by_cases hj : j = 0
    · subst hj; simp [Ne.symm hd]
    · simp only [hd, hj, if_false, getB_putB]
      by_cases hjd : j = d <;> simp [hjd, hd]

theorem setK2_getK (r : Regs) (d j : Nat) (x : DWord) : (r.setK2 d x).getK j =
    if j = d ∧ d ≠ 0 then x.extractLsb' 0 32 else if j = d + 1 ∧ d ≠ 0 then x.extractLsb' 32 32 else r.getK j := by
  have h0 : x.setWidth 32 = x.extractLsb' 0 32 := by
    apply BitVec.eq_of_toNat_eq; simp [BitVec.extractLsb']
  have h1 : (x >>> 32).setWidth 32 = x.extractLsb' 32 32 := by
    apply BitVec.eq_of_toNat_eq; simp [BitVec.extractLsb']
  unfold Regs.setK2
  by_cases hd : d = 0
  · simp [hd]
  · simp only [hd, if_false, setK_getK, h0, h1]
    by_cases hj : j = d
    · subst hj
      have : ¬ (j = j + 1) := by omega
      simp [hd]
    · by_cases hj1 : j = d + 1
      · simp [hj1, hd]
      · simp [hj, hj1]

theorem mem_maskOf_range (f : Nat → Bool) (l : Nat) (hl : l < 32) : laneBit (maskWhere f) l = f l := by
  have key : ∀ (n : Nat) (g : Nat → Bool), (∀ i, n ≤ i → g i = false) →
      ∀ l, ((((List.range n).filter g).map (fun l => 2 ^ l)).sum).testBit l = g l ∧
        (((List.range n).filter g).map (fun l => 2 ^ l)).sum < 2 ^ n := by
    intro n
    induction n with
    | zero => intro g hg l; simp [hg l (Nat.zero_le _)]
    | succ n ih =>
      intro g hg l
      have hn := ih (fun i => g i && decide (i < n)) (fun i hi => by simp; intro _; omega) l
      have hfil : (List.range n).filter (fun i => g i && decide (i < n)) = (List.range n).filter g := by
        apply List.filter_congr; intro i hi; simp [List.mem_range.1 hi]
      rw [hfil] at hn
      rw [List.range_succ, List.filter_append, List.map_append, List.sum_append]
      by_cases hgn : g n = true
      · simp only [List.filter_cons, hgn, if_true, List.filter_nil, List.map_cons, List.map_nil, List.sum_cons, List.sum_nil,
          Nat.add_zero]
        refine ⟨?_, by rw [Nat.pow_succ]; omega⟩
        rw [Nat.add_comm]
        by_cases hln : l = n
        · subst hln
          rw [Nat.testBit_two_pow_add_eq, Nat.testBit_lt_two_pow hn.2, hgn]; rfl
        · rcases Nat.lt_or_gt_of_ne hln with h | h
          · rw [Nat.testBit_two_pow_add_gt h, hn.1]; simp [h]
          · rw [hg l (by omega)]
            apply Nat.testBit_lt_two_pow
            calc 2 ^ n + _ < 2 ^ n + 2 ^ n := by omega
              _ = 2 ^ (n + 1) := by rw [Nat.pow_succ]; omega
              _ ≤ 2 ^ l := Nat.pow_le_pow_right (by omega) h
      · simp only [List.filter_cons, hgn, List.filter_nil, Bool.false_eq_true, if_false, List.map_nil, List.sum_nil, Nat.add_zero]
        refine ⟨?_, by rw [Nat.pow_succ]; omega⟩
        rw [hn.1]
        by_cases hln : l < n
        · simp [hln]
        · rcases Nat.eq_or_lt_of_le (Nat.le_of_not_lt hln) with h | h
          · subst h; simp_all
          · rw [hg l (by omega)]; simp
  unfold laneBit maskWhere maskOf
  have := key 32 (fun i => f i && decide (i < 32)) (fun i hi => by simp; intro _; omega) l
  have hfil : (List.range 32).filter (fun i => f i && decide (i < 32)) = (List.range 32).filter f := by
    apply List.filter_congr; intro i hi; simp [List.mem_range.1 hi]
  rw [hfil] at this
  rw [BitVec.getLsbD_ofNat, this.1]
  simp [hl]

/-! ## The shapes of statements -/

theorem complete_flows (e : Env) (r : Regs) (hp : r.pc = e.g.regs.pc) (hl : r.live = e.g.regs.live) (hw : r.wait = e.g.regs.wait) :
    Flows e (r.advance e.c.mask e.c.size) where
  live := hl
  wait := hw
  pc := fun l _ => by rw [advance_getPc]; simp only [Regs.getPc, hp]

/-- Every lane instruction of one vector result has the shape LaneResult. -/
theorem laneOp_result {i : Instr} {g : Pred} {d : VReg} {f : Regs → Nat → Word} (hi : ∀ s, exec i s = s.laneOp g d f) :
    LaneResult i g d f := by
  intro s e he
  refine ⟨_, _, (hi s).trans (run_ok he rfl), retire_passed he (e.g.regs.mapV (e.taking g) d.val (f e.g.regs))
    (e.g.wrote d.val 1).latch, ?_⟩
  have hk := mapV_keep e.g.regs (e.taking g) d.val (f e.g.regs)
  constructor
  · intro n l hl; exact mapV_getV _ _ _ _ hl
  · intro j; show Regs.getK (Regs.mapV _ _ _ _) j = _; rw [hk]; rfl
  · intro j; show Regs.getP (Regs.mapV _ _ _ _) j = _; rw [hk]; rfl
  · intro j; show Regs.getQ (Regs.mapV _ _ _ _) j = _; rw [hk]; rfl
  · apply complete_flows <;> rw [hk]

/-- Every lane instruction of one pair result has the shape LaneResult2. -/
theorem laneOp2_result {i : Instr} {g : Pred} {d : VReg} {f : Regs → Nat → DWord} (hi : ∀ s, exec i s = s.laneOp2 g d f) :
    LaneResult2 i g d f := by
  intro s e he
  refine ⟨_, _, (hi s).trans (run_ok he rfl), retire_passed he (e.g.regs.mapV2 (e.taking g) d.val (f e.g.regs))
    (e.g.wrote d.val 2).latch, ?_⟩
  have hk := mapV2_keep e.g.regs (e.taking g) d.val (f e.g.regs)
  constructor
  · intro n l hl; exact mapV2_getV _ _ _ _ hl
  · intro j; show Regs.getK (Regs.mapV2 _ _ _ _) j = _; rw [hk]; rfl
  · intro j; show Regs.getP (Regs.mapV2 _ _ _ _) j = _; rw [hk]; rfl
  · intro j; show Regs.getQ (Regs.mapV2 _ _ _ _) j = _; rw [hk]; rfl
  · apply complete_flows <;> rw [hk]

theorem setP_getP (r : Regs) (d : Nat) (m x : Mask) (j l : Nat) (hl : l < 32) :
    laneBit ((r.setP d m x).getP j) l = if j = d ∧ d ≠ 0 ∧ laneBit m l = true then laneBit x l else laneBit (r.getP j) l := by
  unfold Regs.setP Regs.getP laneBit
  by_cases hd : d = 0
  · simp [hd]
  · by_cases hj : j = 0
    · subst hj; simp [Ne.symm hd]
    · by_cases hjd : j = d
      · subst hjd
        simp only [hd, if_false, getB_putB_same, BitVec.getLsbD_or, BitVec.getLsbD_and, BitVec.getLsbD_not, hl, decide_true,
          Bool.true_and]
        cases hm : m.getLsbD l <;> simp [hd]
      · simp [hd, hj, hjd, getB_putB]

/-- Every lane instruction that sets a lane predicate has the shape LaneTest. -/
theorem lanePred_test {i : Instr} {g p : Pred} {f : Regs → Nat → Bool} (hi : ∀ s, exec i s = s.lanePred g p f) :
    LaneTest i g p f := by
  intro s e he
  refine ⟨_, _, (hi s).trans (run_ok he rfl), retire_passed he (e.g.regs.setP p.val (e.taking g) (maskWhere (f e.g.regs)))
    e.g.latch, ?_⟩
  constructor
  · intro j l hl
    show laneBit ((Regs.setP _ _ _ _).getP j) l = _
    rw [setP_getP _ _ _ _ _ _ hl, mem_maskOf_range _ _ hl]
  · intro n l _; show Regs.getV (Regs.setP _ _ _ _) n l = _; simp [Regs.getV]
  · intro j; show Regs.getK (Regs.setP _ _ _ _) j = _; simp [Regs.getK]
  · intro j; show Regs.getQ (Regs.setP _ _ _ _) j = _; simp [Regs.getQ]
  · apply complete_flows <;> simp

/-- A uniform instruction with a false guard changes no register. -/
theorem retire_none (e : Env) : WritesNone e ((e.g.complete e.c.mask e.c.size).regs) where
  v := fun _ _ _ => rfl
  k := fun _ => rfl
  p := fun _ => rfl
  q := fun _ => rfl
  flow := complete_flows e e.g.regs rfl rfl rfl

/-- What a uniform instruction of one register result comes to. -/
theorem setK_writes (e : Env) (d : Nat) (x : Word) : WritesK e ((e.g.regs.setK d x).advance e.c.mask e.c.size) d x where
  k := fun j => setK_getK _ _ _ _
  v := fun n l _ => by simp [Regs.getV]
  p := fun j => by simp [Regs.getP]
  q := fun j => by simp [Regs.getQ]
  flow := complete_flows e _ (by simp) (by simp) (by simp)

theorem setK2_writes (e : Env) (d : Nat) (x : DWord) : WritesK2 e ((e.g.regs.setK2 d x).advance e.c.mask e.c.size) d x where
  k := fun j => setK2_getK _ _ _ _
  v := fun n l _ => by unfold Regs.setK2; split <;> simp [Regs.getV]
  p := fun j => by unfold Regs.setK2; split <;> simp [Regs.getP]
  q := fun j => by unfold Regs.setK2; split <;> simp [Regs.getQ]
  flow := complete_flows e _ (by unfold Regs.setK2; split <;> simp) (by unfold Regs.setK2; split <;> simp)
    (by unfold Regs.setK2; split <;> simp)

theorem setQ_getQ (r : Regs) (d j : Nat) (b : Bool) (hj : j < 8) :
    (r.setQ d b).getQ j = if j = d ∧ d ≠ 0 then b else r.getQ j := by
  unfold Regs.setQ Regs.getQ
  by_cases hd : d = 0
  · simp [hd]
  · by_cases hj0 : j = 0
    · subst hj0; simp [Ne.symm hd]
    · have hpow : ∀ a c : Nat, c < 8 → (BitVec.ofNat 8 (2 ^ a)).getLsbD c = decide (a = c) := by
        intro a c hc
        rw [BitVec.getLsbD_ofNat, Nat.testBit_two_pow]
        simp [hc]
      by_cases hjd : j = d
      · subst hjd
        cases b <;> simp only [hd, if_false, if_true, Bool.false_eq_true, BitVec.getLsbD_or, BitVec.getLsbD_and, BitVec.getLsbD_not,
          hpow _ _ hj, hj, decide_true] <;> simp [hd]
      · cases b <;> simp only [hd, if_false, if_true, Bool.false_eq_true, BitVec.getLsbD_or, BitVec.getLsbD_and, BitVec.getLsbD_not,
          hpow _ _ hj, hj, Ne.symm hjd, hjd, decide_true, decide_false, false_and] <;> simp

theorem setQ_writes (e : Env) (d : Nat) (b : Bool) : WritesQ e ((e.g.regs.setQ d b).advance e.c.mask e.c.size) d b where
  q := fun j hj => setQ_getQ _ _ _ _ hj
  v := fun n l _ => by simp [Regs.getV]
  k := fun j => by simp [Regs.getK]
  p := fun j => by simp [Regs.getP]
  flow := complete_flows e _ (by simp) (by simp) (by simp)

/-- A uniform instruction that retires with other registers under a true guard, by cases on the guard. -/
theorem uniform_passes {s : State} {e : Env} {q : Pred} {f : Env → Except Stop State} {r : Regs} {P : Regs → Prop}
    (he : s.env? = some e) (hf : f e = .ok (s.retire e (e.g.withRegs r))) (hP : P (r.advance e.c.mask e.c.size)) :
    ∃ t h, s.uniform q f = .next t ∧
      Passed s t e e.g.latch h ∧ (e.g.regs.getQ q.val = true → P h.regs) ∧ (e.g.regs.getQ q.val = false → WritesNone e h.regs) := by
  cases hq : e.g.regs.getQ q.val with
  | true =>
    exact ⟨_, _, (uniform_on he hq).trans (run_ok he hf), retire_passed he r e.g.latch, fun _ => hP, fun h => by simp at h⟩
  | false =>
    exact ⟨_, _, uniform_off he hq, retire_passed he e.g.regs e.g.latch, fun h => by simp at h, fun _ => retire_none e⟩

/-- Every uniform instruction of one register result has the shape UniResult. -/
theorem uniOp_result {i : Instr} {q : Pred} {d : KReg} {f : Regs → Word} (hi : ∀ s, exec i s = s.uniOp q d f) :
    UniResult i q d f := by
  intro s e he
  obtain ⟨t, h, ht, hp⟩ := uniform_passes (q := q) (P := fun r => WritesK e r d.val (f e.g.regs)) he
    (f := fun e' => .ok (s.retire e' (e'.g.withRegs (e'.g.regs.setK d.val (f e'.g.regs))))) rfl (setK_writes e _ _)
  exact ⟨t, h, (hi s).trans ht, hp⟩

/-- Every uniform instruction of one pair result has the shape UniResult2. -/
theorem uniOp2_result {i : Instr} {q : Pred} {d : KReg} {f : Regs → DWord} (hi : ∀ s, exec i s = s.uniOp2 q d f) :
    UniResult2 i q d f := by
  intro s e he
  obtain ⟨t, h, ht, hp⟩ := uniform_passes (q := q) (P := fun r => WritesK2 e r d.val (f e.g.regs)) he
    (f := fun e' => .ok (s.retire e' (e'.g.withRegs (e'.g.regs.setK2 d.val (f e'.g.regs))))) rfl (setK2_writes e _ _)
  exact ⟨t, h, (hi s).trans ht, hp⟩

/-- Every uniform instruction that sets a uniform predicate has the shape UniTest. -/
theorem uniPred_test {i : Instr} {q p : Pred} {f : Regs → Bool} (hi : ∀ s, exec i s = s.uniPred q p f) :
    UniTest i q p f := by
  intro s e he
  obtain ⟨t, h, ht, hp⟩ := uniform_passes (q := q) (P := fun r => WritesQ e r p.val (f e.g.regs)) he
    (f := fun e' => .ok (s.retire e' (e'.g.withRegs (e'.g.regs.setQ p.val (f e'.g.regs))))) rfl (setQ_writes e _ _)
  exact ⟨t, h, (hi s).trans ht, hp⟩

end Sys2Proof.Machine
end

