-- ==== Sys2Proof/Laws/Caches.lean ====
section
/-! SUPPORT. Laws of the caches: whatever meets a cache or a row changes what the caches hold, the counters and the use of rows, and
nothing else (`UsesOnly`). -/

namespace Sys2Proof.Machine

theorem UsesOnly.refl (s : State) : UsesOnly s s := ⟨fun _ => rfl, fun _ h => h, rfl⟩

theorem UsesOnly.trans {s t u : State} (h : UsesOnly s t) (k : UsesOnly t u) : UsesOnly s u := by
  refine ⟨fun c => (k.ctxs c).trans (h.ctxs c), fun x hx => h.stale x (k.stale x hx), ?_⟩
  rw [k.rest, h.rest]

/-- A fold of uses is a use. -/
theorem UsesOnly.foldl {β : Type} (f : State → β → State) (hf : ∀ a b, UsesOnly a (f a b)) (l : List β) :
    ∀ s : State, UsesOnly s (l.foldl f s) := by
  induction l with
  | nil => exact UsesOnly.refl
  | cons b t ih => exact fun s => (hf s b).trans (ih _)

/-- Other lines in the caches are a use. -/
theorem caches_usesOnly (s : State) (cs : List CacheLine) : UsesOnly s { s with caches := cs } := ⟨fun _ => rfl, fun _ h => h, rfl⟩

theorem reach_usesOnly (s : State) (pa : Nat) : UsesOnly s (s.reach pa) := by
  unfold State.reach
  split
  · exact .refl s
  · exact ⟨fun _ => rfl, fun _ h => h, rfl⟩

theorem useL2_usesOnly (s : State) (pa cc : Nat) (wr : Bool) : UsesOnly s (s.useL2 pa cc wr) := by
  unfold State.useL2
  dsimp only
  split
  · split
    · exact (caches_usesOnly s _).trans (reach_usesOnly _ pa)
    · exact caches_usesOnly s _
  · split
    · exact reach_usesOnly s pa
    · refine ((reach_usesOnly s pa).trans ?_).trans (caches_usesOnly _ _)
      split
      · split
        · exact reach_usesOnly _ _
        · exact .refl _
      · exact .refl _

theorem runL2_usesOnly (s : State) (pa n cc : Nat) (wr : Bool) : UsesOnly s (s.runL2 pa n cc wr) := by
  unfold State.runL2
  split
  · exact .refl s
  · exact UsesOnly.foldl _ (fun a _ => useL2_usesOnly a _ cc wr) _ s

theorem fillL1_usesOnly (s : State) (column line cc : Nat) : UsesOnly s (s.fillL1 column line cc) := by
  unfold State.fillL1
  split
  · exact .refl s
  · refine ⟨fun _ => rfl, fun x hx => ?_, rfl⟩
    dsimp only at hx
    split at hx
    · exact List.mem_of_mem_filter hx
    · exact hx

/-- Counting is a use. -/
theorem count_usesOnly (s : State) (c off n : Nat) : UsesOnly s (s.count c off n) := by
  unfold State.count State.modCtx
  split
  · exact .refl s
  · rename_i x hx
    refine ⟨fun k => ?_, fun _ h => h, rfl⟩
    simp only [State.ctx?, State.setCtx, getT_setT] at hx ⊢
    split
    · rename_i hk; rw [hk, hx]; rfl
    · rfl

theorem ctxL2_usesOnly (s : State) (ctx pa cc : Nat) (wr : Bool) : UsesOnly s (s.ctxL2 ctx pa cc wr) := by
  unfold State.ctxL2
  split
  · exact useL2_usesOnly _ _ _ _
  · exact (count_usesOnly s _ _ _).trans (useL2_usesOnly _ _ _ _)

theorem loadLine_usesOnly (s : State) (e : Env) (column line cc : Nat) : UsesOnly s (s.loadLine e column line cc) := by
  unfold State.loadLine
  dsimp only
  split
  · split
    · refine UsesOnly.trans ?_ (ctxL2_usesOnly _ _ _ _ _)
      exact ⟨fun _ => rfl, fun x hx => List.mem_of_mem_filter hx, rfl⟩
    · exact caches_usesOnly s _
  · exact ((count_usesOnly s _ _ _).trans (ctxL2_usesOnly _ _ _ _ _)).trans (fillL1_usesOnly _ _ _ _)

theorem storeLine_usesOnly (s : State) (e : Env) (column line cc : Nat) : UsesOnly s (s.storeLine e column line cc) := by
  unfold State.storeLine
  dsimp only
  refine UsesOnly.trans ?_ (ctxL2_usesOnly _ _ _ _ _)
  split
  · exact caches_usesOnly s _
  · exact count_usesOnly s _ _ _

/-- A load of a group uses the caches and changes nothing else. -/
theorem loadMet_usesOnly (s : State) (e : Env) (ps : List Piece) : UsesOnly s (s.loadMet e ps) :=
  UsesOnly.foldl _ (fun a _ => loadLine_usesOnly a e _ _ _) _ s

theorem storeMet_usesOnly (s : State) (e : Env) (ps : List Piece) : UsesOnly s (s.storeMet e ps) :=
  UsesOnly.foldl _ (fun a _ => storeLine_usesOnly a e _ _ _) _ s

theorem dieMet_usesOnly (s : State) (ctx : Nat) (wr : Bool) (ps : List Piece) : UsesOnly s (s.dieMet ctx wr ps) :=
  UsesOnly.foldl _ (fun a _ => ctxL2_usesOnly a ctx _ _ wr) _ s

theorem atController_usesOnly (s : State) (pa : Nat) : UsesOnly s (s.atController pa) := by
  unfold State.atController
  dsimp only
  refine UsesOnly.trans ?_ (reach_usesOnly _ pa)
  refine UsesOnly.trans ?_ (caches_usesOnly _ _)
  split
  · exact reach_usesOnly s pa
  · exact .refl s

end Sys2Proof.Machine
end

