-- ==== Sys2Proof/Machine/Window.lean ====
section
/-! DEFINITION. What a read of the management window answers (R387): the registers of the window as each function sees them.
Such a read is no step, and nothing here changes the state. -/

namespace Sys2Proof.Machine

/-! ## Capability, firmware and event registers (R3, R4, R76, R388, R401, R403) -/

/-- HB_LIVE.GIB: the live capacity of a stack in GiB, 4 for each live bank (R76). -/
def Stack.liveGib (k : Stack) : Nat := 4 * k.banks

/-- MEM_LIVE: the sum over installed stacks (R76). -/
def State.memLive (s : State) : Nat := (s.hbm.map Stack.liveGib).sum

/-- LC_STATE (R401). -/
def Firmware.lcState (f : Firmware) : Nat := f.life.toNat + 4 * f.recovery.toNat

/-- FW_VERSION (R403). -/
def Firmware.fwVersion (f : Firmware) : Nat :=
  match f.image with
  | none => 0
  | some m => m.version.toNat + 2 ^ 16 * m.rollback.toNat + 2 ^ 24 * (f.running == some true).toNat

/-- LC_CMD as it reads: OP is write-only (R403). -/
def Firmware.lcCmd (f : Firmware) : Nat :=
  f.length.toNat + 2 ^ 24 * f.selSlot.toNat + 2 ^ 25 * f.pending.isSome.toNat + 2 ^ 26 * f.status.toNat

/-- The registers of an event ring (R388). -/
def EvRing.read (r : EvRing) (off : Nat) : Nat :=
  match off with
  | 0x20 => r.base.toNat % 2 ^ 32
  | 0x24 => r.base.toNat / 2 ^ 32
  | 0x28 => r.log.toNat
  | 0x2C => r.prod.toNat
  | 0x30 => r.cons.toNat
  | 0x34 => r.pend.toNat
  | _ => 0

/-! ## Power, stacks, fabric (R76, R372, R381, R382, R395, R396) -/

/-- PWR_FLOOR, PWR_STAT and THERM_CFG; PWR_CAP is write-only (R381, R382). -/
def Power.read (p : Power) (off : Nat) : Nat :=
  match off with
  | 0x104 => p.floor.toNat
  | 0x108 => p.effective + 2 ^ 15 * p.lease.isSome.toNat + 2 ^ 16 * p.seq.toNat
  | 0x110 => p.limit.toNat + 2 ^ 8 * p.outlet.toNat + 2 ^ 30 * p.emerg.isSome.toNat
  | _ => 0

/-- The registers of a stack; START and HB_LOSTCLR are write-only (R76). -/
def Stack.read (k : Stack) (off : Nat) : Nat :=
  match off with
  | 0x00 => k.live.toNat
  | 0x04 => k.target.toNat + 2 ^ 28 * k.rstate.toNat
  | 0x08 => k.wmPage.toNat + 2 ^ 31 * k.wmClass.toNat
  | 0x0C => k.win.toNat + 2 ^ 8 * k.promo.toNat + 2 ^ 31 * k.busy.toNat
  | 0x10 => k.liveGib
  | 0x18 => k.ce.toNat
  | _ => 0

/-- A port's register (R395). -/
def Port.read (p : Port) : Nat := p.peer.toNat + 2 ^ 30 * p.enable.toNat + 2 ^ 31 * p.up.toNat

/-- A word of a chip's route entry: the 96 bits of its port mask (R396). -/
def State.readRoute (s : State) (off : Nat) : Nat := if off % 16 < 12 then (getB s.mgmt off).toNat else 0

/-- Two readings of sensors: cores n and n + 1 (R372). [DESIGN CHOICE, log 14] -/
def State.readSensors (s : State) (off : Nat) : Nat :=
  let core := (off - 0x8000) / 2
  if core < 4 * s.grade.columns then s.temp core + 2 ^ 16 * s.temp (core + 1) else 0

/-! ## Context blocks and counters (R390 to R393) -/

/-- The words of a context block that read as they are held; POOL_PUSH and TQ_REPLAY are write-only (R391, R392). -/
def ctxReads : List Nat :=
  [0x000, 0x008, 0x00C, 0x010, 0x014, 0x018, 0x01C, 0x020, 0x028, 0x02C, 0x030, 0x034, 0x038, 0x040, 0x044, 0x048, 0x050,
   0x054, 0x058, 0x060, 0x064, 0x068, 0x06C, 0x070, 0x080, 0x084, 0x088, 0x08C, 0x090] ++
  [0x0A0, 0x0A4, 0x0A8, 0x0AC, 0x0B0, 0x0B4, 0x0B8, 0x0BC, 0x0C0, 0x0C4, 0x108, 0x10C, 0x110, 0x118, 0x11C, 0x120]

/-- The Cairn words, which read 0 without the Cairn unit (R391). -/
def cairnReads : List Nat := [0x0D0, 0x0D4, 0x0D8, 0x0DC, 0x0E0, 0x0E4, 0x0E8, 0x0EC]

/-- A word of a context's block; PREEMPT reads as %preempt (R391). [DESIGN CHOICE, log 14] -/
def State.readCtx (s : State) (c off : Nat) : Nat :=
  let x := s.ctx c
  if off = CtxReg.preempt then x.isRequested.toNat
  else if ctxReads.contains off || (s.grade.hasCairn && cairnReads.contains off) then (x.reg off).toNat
  else 0

/-- A performance counter (R393). [DESIGN CHOICE, log 13] -/
def State.counter (s : State) (c off : Nat) : DWord := if off % 8 = 0 ∧ off ≤ 0x48 then getB (s.ctx c).counters off else 0

/-- Half of a performance counter, low half first (R387, R393). -/
def State.readCounter (s : State) (c off : Nat) : Nat :=
  let v := (s.counter c (off / 8 * 8)).toNat
  if off % 8 = 4 then v / 2 ^ 32 else v % 2 ^ 32

/-! ## The window (R384, R387, R403) -/

/-- What PF0 alone reads outside the context blocks and its event ring, while the part is not in recovery. -/
def State.readWhole (s : State) (off : Nat) : Nat :=
  if 0x100 ≤ off ∧ off < 0x114 then s.power.read off
  else if 0x1000 ≤ off ∧ off < 0x1400 then (s.hbm[(off - 0x1000) / 0x40]?).elim 0 (fun k => k.read (off % 0x40))
  else if off = 0x2000 then s.chipId.toNat
  else if off = 0x2008 ∨ off = 0x200C ∨ off = 0x2010 ∨ off = 0x2014 then (getB s.mgmt off).toNat
  else if 0x3000 ≤ off ∧ off < 0x3000 + 16 * s.grade.ports ∧ off % 16 = 0 then
    ((getT s.ports ((off - 0x3000) / 16)).getD ⟨false, true, 0, 0, 0⟩).read
  else if 0x40000 ≤ off ∧ off < 0x50000 then s.readRoute off
  else if 0x8000 ≤ off ∧ off < 0x9800 then s.readSensors off
  else if 0x200000 ≤ off ∧ off < 0x204000 then s.readCounter ((off - 0x200000) / 0x100) (off % 0x100)
  else 0

/-- The 32-bit word that function `fn` reads at an offset of BAR0: a VF sees the capability registers, its own event ring and
the blocks of its contexts; in recovery only the capability, firmware and event registers answer; every other offset reads 0
(R384, R387, R403). [DESIGN CHOICE, log 14] -/
def State.windowRead (s : State) (fn off : Nat) : Word :=
  BitVec.ofNat 32 (
    if s.starting || decide (63 < fn) || off % 4 != 0 then 0
    else if off = 0x0 then s.grade.capUnits.toNat
    else if off = 0x4 then s.grade.capSizes.toNat
    else if off = 0x8 then s.memLive
    else if 0x20 ≤ off ∧ off < 0x40 then (s.ring fn).read off
    else if 0x100000 ≤ off ∧ off < 0x140000 then
      (let c := (off - 0x100000) / 0x1000
       if s.sees fn c then s.readCtx c (off % 0x1000) else 0)
    else if fn ≠ 0 then 0
    else if off = 0x0C then s.fw.lcState
    else if off = 0x10 then s.fw.fwVersion
    else if off = 0x14 then s.fw.lcCmd
    else if off = 0x18 then s.fw.addr.toNat % 2 ^ 32
    else if off = 0x1C then s.fw.addr.toNat / 2 ^ 32
    else if s.fw.recovery then 0
    else s.readWhole off)

end Sys2Proof.Machine
end

