-- ==== Sys2Proof/Laws/Window.lean ====
section
/-! SUPPORT. What reads of the management window can answer: nothing during the reset sequence or at an odd offset, and nothing of
another function's (R384, R387). -/

namespace Sys2Proof.Machine

theorem State.windowRead_starting (s : State) (fn off : Nat) (h : s.starting = true) : s.windowRead fn off = 0 := by
  simp [State.windowRead, h]

theorem State.windowRead_misaligned (s : State) (fn off : Nat) (h : off % 4 ≠ 0) : s.windowRead fn off = 0 := by
  simp [State.windowRead, h]

/-- A function that does not see a context reads 0 throughout its block. -/
theorem State.windowRead_unseen (s : State) (fn off : Nat) (h1 : 0x100000 ≤ off) (h2 : off < 0x140000)
    (h : s.sees fn ((off - 0x100000) / 0x1000) = false) : s.windowRead fn off = 0 := by
  unfold State.windowRead
  have a : ¬ off = 0 := by omega
  have b : ¬ off = 4 := by omega
  have c : ¬ off = 8 := by omega
  have d : ¬ (32 ≤ off ∧ off < 64) := by omega
  simp [a, b, c, d, h1, h2, h]

/-- A VF reads 0 outside the capability registers, its event ring and the context blocks. -/
theorem State.windowRead_vf (s : State) (fn off : Nat) (hf : fn ≠ 0) (h0 : 0xC ≤ off) (h1 : ¬ (0x20 ≤ off ∧ off < 0x40))
    (h2 : ¬ (0x100000 ≤ off ∧ off < 0x140000)) : s.windowRead fn off = 0 := by
  unfold State.windowRead
  have a : ¬ off = 0 := by omega
  have b : ¬ off = 4 := by omega
  have c : ¬ off = 8 := by omega
  simp [a, b, c, h1, h2, hf]

end Sys2Proof.Machine
end

