-- ==== Sys2Proof/Tests/Slice0.lean ====
section
/-! SUPPORT. Tests: refused operands, known words, single steps on small states, and witnesses of the hypotheses of the
statements. Expected results are hand computations from the rules named, or the spec's own examples. -/

set_option Elab.async false

namespace Sys2Proof.Tests

open Sys2Proof Sys2Proof.Machine

/-! ## Operand limits -/

/-- Every limit of the lane-set instructions refuses a breach of it (R36, R37, R43, R148, R183, R206, R210, R212, R225, R242, R249). -/
theorem test_wf_lane_set : ([
    .iadd64 0 1 (.v 2) (.v 4), .iadd64 0 2 (.v 3) (.v 4), .iadd64 0 2 (.v 2) (.k 5), .isub64 0 1 (.v 2) (.v 4),
    .isub64 0 2 (.v 3) (.v 4), .isub64 0 2 (.v 2) (.v 5), .imadw 0 7 (.v 1) (.v 1), .leai 0 3 ⟨.v 2, .v 1, 0⟩ 0,
    .leai 0 2 ⟨.v 3, .v 1, 0⟩ 0, .leai 0 2 ⟨.v 2, .v 1, 0⟩ 5, .icmpS 0 .num 1 (.v 1) (.v 2), .icmpS 0 .nan 1 (.v 1) (.v 2),
    .icmpN 0 .num 1 (.v 1) (.v 2), .icmpN 0 .nan 1 (.v 1) (.v 2), .icmpiS 0 .num 1 (.v 1) 0, .icmpiS 0 .nan 1 (.v 1) 0,
    .icmpiN 0 .num 1 (.v 1) 0, .icmpiN 0 .nan 1 (.v 1) 0, .fcmpF64 0 .eq 1 (.v 1) (.v 2), .fcmpF64 0 .eq 1 (.v 2) (.v 1),
    .faddF64 0 1 (.v 2) (.v 2), .faddF64 0 2 (.v 1) (.v 2), .faddF64 0 2 (.v 2) (.v 1), .fsubF64 0 1 (.v 2) (.v 2),
    .fsubF64 0 2 (.v 1) (.v 2), .fsubF64 0 2 (.v 2) (.v 1), .fmulF64 0 1 (.v 2) (.v 2), .fmulF64 0 2 (.v 1) (.v 2),
    .fmulF64 0 2 (.v 2) (.v 1), .ffmaF64 0 1 (.v 2) (.v 2), .ffmaF64 0 2 (.v 1) (.v 2), .ffmaF64 0 2 (.v 2) (.v 1),
    .fminF64 0 1 (.v 2) (.v 2), .fminF64 0 2 (.v 1) (.v 2), .fminF64 0 2 (.v 2) (.v 1), .fmaxF64 0 1 (.v 2) (.v 2),
    .fmaxF64 0 2 (.v 1) (.v 2), .fmaxF64 0 2 (.v 2) (.v 1), .cvtFi 0 1 (.v 2) .rne .f32 .s64, .cvtFi 0 1 (.v 3) .rne .f64 .s32,
    .cvtIf 0 1 (.v 2) .rne false .s32 .f64, .cvtIf 0 1 (.v 3) .rne false .u64 .f32, .cvtFf 0 1 (.v 2) .rne false .f32 .f64,
    .cvtFf 0 1 (.v 3) .rne false .f64 .f32, .frnd 0 1 (.v 2) .rne true, .frnd 0 2 (.v 1) .rne true, .sreadV 0 1 .clock,
    .ard 0 89 0 0, .awr 0 0 89 0] : List Instr).all (fun i => !wellFormed i) = true := by decide

/-- The same for the transfers, the memory instructions and the atomics (R43, R148, R191, R249). -/
theorem test_wf_memory : ([
    .bral 0 false false 2, .brx 0 (.v 1) false false, .call 0 1 0 false, .callx 0 1 (.v 2) false, .callx 0 2 (.v 1) false,
    .ret 0 (.v 1) false, .ubral 0 false 1, .ld 0 1 ⟨.v 2, .v 0, 0⟩ .b64 false .page, .ld 0 2 ⟨.v 2, .v 0, 0⟩ .b128 false .page,
    .ld 0 1 ⟨.v 3, .v 0, 0⟩ .b32 false .page, .ld 0 1 ⟨.v 2, .v 0, 0⟩ .b32 true .page, .st 0 (.v 1) ⟨.v 2, .v 0, 0⟩ .b64 .page,
    .st 0 (.k 2) ⟨.v 2, .v 0, 0⟩ .b128 .page, .st 0 (.v 1) ⟨.v 3, .v 0, 0⟩ .b32 .page, .pref 0 ⟨.v 1, .v 0, 0⟩ .l1,
    .atomO 0 1 ⟨.v 2, .v 0, 0⟩ .device .add true, .atomO 0 2 ⟨.v 2, .v 0, 0⟩ .device .hfadd2 true,
    .atomO 0 95 ⟨.v 2, .v 0, 0⟩ .device .cas false, .atomO 0 2 ⟨.v 2, .v 0, 0⟩ .device .cas true,
    .atomO 0 1 ⟨.v 3, .v 0, 0⟩ .device .add false, .atomU 0 1 ⟨.v 2, .v 0, 0⟩ .device .add true,
    .atomU 0 1 ⟨.v 3, .v 0, 0⟩ .device .add false, .redO 0 (.v 1) ⟨.v 2, .v 0, 0⟩ .device .add true,
    .redO 0 (.v 1) ⟨.v 2, .v 0, 0⟩ .device .xchg false, .redO 0 (.v 1) ⟨.v 2, .v 0, 0⟩ .device .cas false,
    .redO 0 (.v 2) ⟨.v 2, .v 0, 0⟩ .device .bfadd2 true, .redO 0 (.v 1) ⟨.v 3, .v 0, 0⟩ .device .add false,
    .redU 0 (.v 1) ⟨.v 2, .v 0, 0⟩ .device .cas false, .redU 0 (.v 1) ⟨.v 3, .v 0, 0⟩ .device .add false,
    .uld 0 1 ⟨2, 0, 0⟩ .b64 false .page, .uld 0 1 ⟨3, 0, 0⟩ .b32 false .page, .uld 0 4 ⟨2, 0, 0⟩ .b128 false .page,
    .uld 0 1 ⟨2, 0, 0⟩ .b32 true .page, .ust 0 1 ⟨2, 0, 0⟩ .b64 .page, .ust 0 1 ⟨3, 0, 0⟩ .b32 .page,
    .ust 0 4 ⟨2, 0, 0⟩ .b128 .page, .dvsave 0 ⟨1, 0, 0⟩ false, .dvload 0 ⟨1, 0, 0⟩ false] : List Instr).all
      (fun i => !wellFormed i) = true := by decide

/-- The same for the uniform instructions (R36, R117, R183, R206, R225, R242, R336). -/
theorem test_wf_uniform : ([
    .uiadd64 0 1 2 2, .uiadd64 0 2 1 2, .uiadd64 0 2 2 1, .uicmpS 0 .num 1 1 1, .uicmpS 0 .nan 1 1 1, .uicmpN 0 .num 1 1 1,
    .uicmpN 0 .nan 1 1 1, .sreadK 0 1 .params, .sreadK 0 2 .laneid, .sreadK 0 2 .ltmask, .binit 0 1 2, .barr 0 1 1, .barrn 0 1 1 1,
    .bxpct 0 1 1, .bwait 0 1 1 1, .cpgs 0 1 2 1, .cpgs 0 1 0 1, .cpsg 0 1 2 1, .cpsg 0 1 0 1, .cpgg 0 1 2 1, .cpgg 0 1 0 1,
    .cptr 0 1 2 1, .cptr 0 1 0 1, .cpga 0 1 2 1, .cpga 0 1 0 1, .cpmc 0 1 2 1, .cpmc 0 1 0 1, .shnew 0 1 1, .hrowUp 0 1 1 0,
    .hrowDn 0 1 1 0, .hrowQ 0 1 1, .mmab 0 0 false false 0 0, .mmab 0 0 false false 0 2, .mmao 0 0 false false 0 0,
    .mmao 0 0 false false 0 2, .mmag 0 0 false false 0 0, .mmag 0 0 false false 0 2, .dmma 0 1 false false false 0 4,
    .dmma 0 0 false false false 1 4, .dmma 0 0 false false false 0 0, .aclr 0 1 15, .ald 0 0 1 1, .ast 0 0 1 1, .obres 0 1 1,
    .obld 0 1 0, .obld 0 1 2, .rsalloc 0 1 1, .ctabWr 0 1 false, .launch 0 1, .launchNb 0 1 1, .lwait 0 1 1 2, .lwait 0 1 2 1,
    .lpoll 0 1 2, .lpoll 0 2 1, .syswr 0 .hlit 1, .syswr 0 .saveslot 1, .xprobe 0 1 2 1, .xprobe 0 2 1 1, .xinval 0 .k64 1 1] : List Instr).all
      (fun i => !wellFormed i) = true := by decide

/-- What the limits let through. -/
theorem test_wf_passes : ([
    .iadd64 0 2 (.v 2) (.k 4), .leai 0 2 ⟨.v 2, .v 1, 0⟩ 4, .icmpS 0 .ge 1 (.v 1) (.v 2), .cvtFi 0 1 (.v 3) .rz .f32 .s32,
    .sreadV 0 2 .clock, .sreadK 0 2 .params, .ld 0 4 ⟨.v 2, .v 1, 0⟩ .b128 false .page, .atomO 0 94 ⟨.v 2, .v 0, 0⟩ .device .cas false,
    .cpgs 0 1 4 1, .dmma 0 2 false false false 4 4, .aclr 0 0 15, .ard 0 88 0 0, .syswr 0 .hk31 1, .bral 0 false false 4] :
    List Instr).all wellFormed = true := by decide

/-! ## Words written out from the encodings -/

/-- The opcode in bits 31 to 24, then the fields of the entry (R29 to R43): lane-set forms. -/
theorem test_words_lane_set :
    decodeWords 0x060204E4 0 = .instr (.imad 0 8 (.v 9) (.k 4)) ∧
    decodeWords 0x20044205 0 = .instr (.icmpS 0 .lt 1 (.v 4) (.v 5)) ∧
    decodeWords 0x26104103 0 = .instr (.plop 0 0x80 1 2 3 0) ∧
    decodeWords 0x4A008183 0 = .instr (.cvtFf 0 2 (.v 3) .rne false .f32 .bf16) ∧
    decodeWords 0x56228588 0 = .instr (.lscan 1 10 (.v 11) .iadd true) := by decide

/-- Uniform forms. -/
theorem test_words_uniform :
    decodeWords 0x8F0AB265 0 = .instr (.uicmpN 0 .ge 2 4 5) ∧
    decodeWords 0xB01A7280 0 = .instr (.bufget 0 9 5) ∧
    decodeWords 0xA6000000 0 = .instr (.tsync 0) ∧ decodeWords 0xA7000000 0 = .instr (.csync 0) ∧
    decodeWords 0xB61A3203 0 = .instr (.hrowUp 0 8 4 3) ∧ decodeWords 0xB81A7300 0 = .instr (.hrowQ 0 9 6) ∧
    decodeWords 0xDB007266 0 = .instr (.xinval 0 .m2 4 6) ∧ decodeWords 0xDB003266 0 = .instr (.xinval 0 .k64 4 6) ∧
    decodeWords 0xDE003485 0 = .instr (.lmark 0 9 5) := by decide

/-- More families: integer, control flow, memory (the spec's example of R148), cross-lane, accumulator reads. -/
theorem test_words_more_lanes :
    decodeWords 0x012081E5 0 = .instr (.iadd 1 2 (.v 3) (.k 5)) ∧ decodeWords 0x601FFFFE 0 = .instr (.bra 0 0x7FFFF true false) ∧
    decodeWords 0x63010005 0 = .instr (.call 0 4 2 true) ∧ decodeWords 0x66E00000 0 = .instr (.exit 7) ∧
    decodeWords 0x68010560 0x4002 = .instr (.ld 0 4 ⟨.v 10, .k 0, 64⟩ .b32 false .page) ∧
    decodeWords 0x5518C100 0 = .instr (.ballot 0 3 2) ∧ decodeWords 0x5B020182 0 = .instr (.ard 0 8 3 2) := by decide

/-- More families: uniform arithmetic, fences, barriers, copies, shapes, multiplies, the operand buffer, residencies, launches, spurs, handler
instructions (the spec's examples of R336). -/
theorem test_words_more_uniform :
    decodeWords 0x80187163 0 = .instr (.uiadd 0 1 2 3) ∧ decodeWords 0xA000000C 0 = .instr (.fence 0 true .system) ∧
    decodeWords 0xA1203266 0 = .instr (.binit 1 4 6) ∧ decodeWords 0xA81A326C 0 = .instr (.cpgs 0 8 4 12) ∧
    decodeWords 0xB418B200 0 = .instr (.shnew 0 2 4) ∧ decodeWords 0xB90B0864 0 = .instr (.mmab 0 5 true false 16 4) ∧
    decodeWords 0xC218F400 0 = .instr (.obld 0 3 8) ∧ decodeWords 0xC3197300 0 = .instr (.rsalloc 0 5 6) ∧
    decodeWords 0xD0003100 0 = .instr (.launch 0 2) ∧ decodeWords 0xD4187100 0 = .instr (.spurFork 0 1 2) ∧
    decodeWords 0xD8184100 0 = .instr (.sysrd 0 1 .hlit) ∧ decodeWords 0xD9000061 0 = .instr (.syswr 0 .hk30 1) ∧
    decodeWords 0x9D000000 0 = .instr (.kill 0) ∧ decodeWords 0x9B000001 0 = .instr (.tretSkip 0) := by decide

/-- A word whose reserved bits are not zero, and an opcode that is not assigned, are refused by name (R39, R40). -/
theorem test_words_refused :
    decodeWords 0xA6000001 0 = .reserved ∧ decodeWords 0x00000000 0 = .illegal ∧ decodeTableWord 32 0xA6000001 = none := by decide

/-! ## Small states -/

/-- The loaded group has issued the words w with the lanes m; it belongs to team 0 of grid 0 of context 0. -/
def issued (m : Mask) (w : Nat) : State :=
  { State.reset.load (leBytes 8 w) with
    agenda := []
    cur := some ⟨0, 0x10000, m, BitVec.ofNat 32 w, 0, Sys2Proof.sizeOf w, false⟩ }

/-- A state whose group has k registers, v registers of lane 0 to 31 given by functions. -/
def withK (s : State) (ks : List (Nat × Word)) : State :=
  s.modGroup 0 (fun g => g.withRegs (ks.foldl (fun r k => r.setK k.1 k.2) g.regs))

/-- The same for v registers: (register, lane, value). -/
def withV (s : State) (vs : List (Nat × Nat × Word)) : State :=
  s.modGroup 0 (fun g => g.withRegs (vs.foldl (fun r v => r.setV v.1 v.2.1 v.2.2) g.regs))

/-- A state whose group is in its handler after a trap. -/
def inHandler (s : State) (cause : Word) : State :=
  s.modGroup 0 (fun g => { g with trap := { g.trap with masked := true, cause := cause, div := g.regs.divs } })

/-- A state whose grid has n scratchpad pages, a accumulator slots, o operand-buffer pages and the mode m in its record. -/
def withRec (s : State) (n a o m : Byte) : State :=
  s.setGrid { oneGrid 0 with bytes := (oneRecord.take 58) ++ [n, a, o, 0, m, 0] }

/-- What a conjunction of conditions on the environment is met by. -/
theorem meets {s : State} {P : Env → Prop} [∀ e, Decidable (P e)] (h : (s.env?.map (fun e => decide (P e))) = some true) :
    ∃ e, s.env? = some e ∧ P e := by
  cases hs : s.env? with
  | none => rw [hs] at h; simp at h
  | some e => rw [hs] at h; exact ⟨e, rfl, by simpa using h⟩

/-- The same for each entry of a list. -/
theorem meetsAll {α : Type} {l : List α} {S : α → State} {P : α → Env → Prop} [∀ a e, Decidable (P a e)]
    (h : l.all (fun a => (S a).env?.map (fun e => decide (P a e)) == some true) = true) : ∀ a ∈ l, ∃ e, (S a).env? = some e ∧ P a e := by
  intro a ha
  exact meets (by simpa using List.all_eq_true.mp h a ha)

/-- A register of the loaded group after an instruction. -/
def after (o : Out) (f : Regs → Word) : Option Word :=
  match o with
  | .next t => (t.group? 0).map (fun g => f g.regs)
  | _ => none

/-- The trap of the loaded group after an instruction: its cause, when traps are masked. -/
def trapped (o : Out) : Option (Bool × Word × Word × DWord) :=
  match o with
  | .next t => (t.group? 0).map (fun g => (g.trap.masked, g.trap.cause, g.trap.info, g.trap.addr))
  | _ => none

/-- TRAP_VEC of context 0 set to 0x20000. -/
def withVec (s : State) : State := s.modCtx 0 (fun x => x.setReg CtxReg.trapVec 0x20000)

/-! ## Single steps -/

/-- 0xFFFFFFFF + 2 = 1 modulo 2^32 (R202). -/
theorem test_iadd_wraps : after (exec (.iadd 0 1 (.v 2) (.v 3)) (withV (issued 1 0) [(2, 0, 0xFFFFFFFF), (3, 0, 2)]))
    (·.getV 1 0) = some 1 := by decide +kernel
/-- A lane that does not take part keeps its value (R40). -/
theorem test_iadd_masked : after (exec (.iadd 0 1 (.v 2) (.v 3)) (withV (issued 1 0) [(1, 1, 7), (2, 1, 1), (3, 1, 2)]))
    (·.getV 1 1) = some 7 := by decide +kernel
/-- (-2) × 3 = -6, whose high word is all ones (R202). -/
theorem test_imulh_s : after (exec (.imulhS 0 1 (.v 2) (.v 3)) (withV (issued 1 0) [(2, 0, 0xFFFFFFFE), (3, 0, 3)]))
    (·.getV 1 0) = some 0xFFFFFFFF := by decide +kernel
/-- |-2^31| does not fit and saturates (R202). -/
theorem test_iabs_least : after (exec (.iabs 0 1 (.v 2)) (withV (issued 1 0) [(2, 0, 0x80000000)])) (·.getV 1 0) = some 0x7FFFFFFF := by
  decide +kernel
/-- A shift by 32 gives zero, and copies of the sign for SHR.S (R203). -/
theorem test_shift_32 :
    after (exec (.shl 0 1 (.v 2) (.k 4)) (withK (withV (issued 1 0) [(2, 0, 1)]) [(4, 32)])) (·.getV 1 0) = some 0 ∧
    after (exec (.shrS 0 1 (.v 2) (.k 4)) (withK (withV (issued 1 0) [(2, 0, 0x80000000)]) [(4, 32)])) (·.getV 1 0) = some 0xFFFFFFFF := by
  decide +kernel
/-- Position 28 and width 8 of 0xA0000000: the width is limited to 4, and the field 0xA is -6 (R204). -/
theorem test_bfx_s : after (exec (.bfxS 0 1 (.v 2) (.k 4)) (withK (withV (issued 1 0) [(2, 0, 0xA0000000)]) [(4, 0x081C)]))
    (·.getV 1 0) = some 0xFFFFFFFA := by decide +kernel
/-- 1.5 + 2.25 = 3.75 (R207). -/
theorem test_fadd : after (exec (.faddF32 0 1 (.v 2) (.v 3)) (withV (issued 1 0) [(2, 0, 0x3FC00000), (3, 0, 0x40100000)]))
    (·.getV 1 0) = some 0x40700000 := by decide +kernel
/-- 1 + 2^-24 lies halfway and rounds to the even 1 (R167). -/
theorem test_fadd_ties : after (exec (.faddF32 0 1 (.v 2) (.v 3)) (withV (issued 1 0) [(2, 0, 0x3F800000), (3, 0, 0x33800000)]))
    (·.getV 1 0) = some 0x3F800000 := by decide +kernel
/-- 2^127 × 2 overflows to infinity (R168). -/
theorem test_fmul_overflow : after (exec (.fmulF32 0 1 (.v 2) (.v 3)) (withV (issued 1 0) [(2, 0, 0x7F000000), (3, 0, 0x40000000)]))
    (·.getV 1 0) = some 0x7F800000 := by decide +kernel
/-- k0 discards what is written to it (R35). -/
theorem test_k0 : after (exec (.umovi 0 0 5) (issued 1 0)) (·.getK 0) = some 0 := by decide +kernel
/-- UIMAD: 3 × 5 + 7 (R218). -/
theorem test_uimad : after (exec (.uimad 0 1 2 3) (withK (issued 1 0) [(1, 7), (2, 3), (3, 5)])) (·.getK 1) = some 22 := by decide +kernel
/-- Lanes 0 and 1 of two: the sum over the lanes below, and over all (R217). -/
theorem test_lscan :
    after (exec (.lscan 0 1 (.v 2) .iadd true) (withV (issued 3 0) [(2, 0, 5), (2, 1, 6)])) (·.getV 1 1) = some 5 ∧
    after (exec (.lred 0 3 (.v 2) .iadd) (withV (issued 3 0) [(2, 0, 5), (2, 1, 6)])) (·.getK 3) = some 11 := by decide +kernel
/-- A branch of one word back from 0x10000 (R192). -/
theorem test_bra : after (exec (.bra 0 0x7FFFF false false) (issued 1 0)) (fun r => (r.getPc 0).setWidth 32) = some 0xFFFC := by
  decide +kernel
/-- TRAP with code 9 in a context with a handler: cause 21 and the code (R195, R328). -/
theorem test_trap : trapped (exec (.trap 0 9) (withVec (issued 1 0))) = some (true, 21, 9, 0) := by decide +kernel
/-- SYSRD outside a handler is privileged: cause 5 (R39). -/
theorem test_privileged : trapped (exec (.sysrd 0 1 .hk30) (withVec (issued 1 0))) = some (true, 5, 0, 0) := by decide +kernel
/-- TRET in a handler restores the shadow's k30 (R333). -/
theorem test_tret : after (exec (.tretRetry 0) (inHandler (withK (issued 1 0) [(30, 99)]) 21)) (·.getK 30) = some 0 := by decide +kernel
/-- BFF16 1.0 + 1.0 in both halves (R207). -/
theorem test_fadd_bf16x2 : after (exec (.faddBf16x2 0 1 (.v 2) (.v 2)) (withV (issued 1 0) [(2, 0, 0x3F803F80)])) (·.getV 1 0) =
    some 0x40004000 := by decide +kernel
/-- CVT.FI of -1.5 toward zero is -1 (R210). -/
theorem test_cvt_fi : after (exec (.cvtFi 0 1 (.v 2) .rz .f32 .s32) (withV (issued 1 0) [(2, 0, 0xBFC00000)])) (·.getV 1 0) =
    some 0xFFFFFFFF := by decide +kernel

/-- The address of a byte of the group's own scratchpad (R78). -/
def own (off : Nat) : List (Nat × Word) := [(4, BitVec.ofNat 32 (0x3C0000 + off)), (5, 0xFE000000)]

/-- A byte 0xFF stored in the scratchpad and loaded with its sign (R150, R152). -/
theorem test_store_load : (match exec (.ust 0 6 ⟨4, 0, 0⟩ .b8 .page) (withK (withRec (issued 1 0) 1 0 0 0) ((6, 0x1FF) :: own 8)) with
    | .next t => (t.team? 0).map (fun u => (getB u.scratch 8, getB u.scratch 9))
    | _ => none) = some (0xFF, 0) := by decide +kernel
theorem test_load_signed : after (exec (.uld 0 7 ⟨4, 0, 0⟩ .b8 true .page)
    ((withK (withRec (issued 1 0) 1 0 0 0) (own 8)).modTeam 0 (fun t => { t with scratch := putB [] 8 0x80 }))) (·.getK 7) =
    some 0xFFFFFF80 := by decide +kernel
/-- The lanes of an ordered atomic add see one another in lane order (R251). -/
theorem test_atom : after (exec (.atomO 0 2 ⟨.k 4, .k 0, 0⟩ .team .add false)
    (withK (withV (withRec (issued 3 0) 1 0 0 0) [(2, 0, 5), (2, 1, 6)]) (own 8))) (·.getV 2 1) = some 5 := by decide +kernel
/-- One of one arrival ends phase 0 of an object: BARR returns PHASE 0, and the object then has PHASE 1 (R128, R131). -/
theorem test_barr : after (exec (.barr 0 3 4) ((withK (withRec (issued 1 0) 1 0 0 0) (own 16)).modTeam 0
      (fun t => { t with scratch := writeB [] 16 (leBytes 16 (barInit 1)) }))) (·.getK 3) = some 0 ∧
    (match exec (.barr 0 3 4) ((withK (withRec (issued 1 0) 1 0 0 0) (own 16)).modTeam 0
      (fun t => { t with scratch := writeB [] 16 (leBytes 16 (barInit 1)) })) with
     | .next t => some (Bar.phase (t.barGet 0 16), Bar.arrived (t.barGet 0 16))
     | _ => none) = some (1, 0) := by decide +kernel
/-- BUFPUT of a FREE entry raises BUF_STATE with the handle (R123). -/
theorem test_bufput : trapped (exec (.bufput 0 3) (withVec (withK (withRec (issued 1 0) 1 0 0 0) [(3, 5)]))) = some (true, 16, 5, 0) := by
  decide +kernel
/-- LAUNCH of an unaligned record: MISALIGNED at its address (R296). -/
theorem test_launch_misaligned : trapped (exec (.launch 0 4) (withVec (withK (issued 1 0) [(4, 8)]))) = some (true, 7, 0, 8) := by decide +kernel
/-- ACLR of a slot that the team does not have: BAD_OPERAND (R221). -/
theorem test_aclr : trapped (exec (.aclr 0 1 0) (withVec (withRec (issued 1 0) 0 1 0 0))) = some (true, 13, 0, 0) := by decide +kernel
/-- One step from reset with IADDI v1, k0, 7 loaded runs it in every lane (R202). -/
theorem test_step : after (step (State.reset.withFetchWord 64 0x0000000707007000)) (·.getV 1 5) = some 7 := by decide +kernel
/-- The memories of the reset state are in canonical form. -/
theorem test_reset_memory : wfB State.reset.mem = true ∧ wfB State.reset.hostMem = true := by decide

/-! ## Witnesses: what the hypotheses of each statement are met by

`met_X` shows states and operands that meet the hypotheses of statement X, clause by clause. -/

theorem lanes32 {m : Mask} {P : Nat → Prop} (h : ∀ l, l < 32 → laneBit m l = true → P l) : ∀ l, laneBit m l = true → P l := by
  intro l hl
  by_cases hlt : l < 32
  · exact h l hlt hl
  · have : m.getLsbD l = false := BitVec.getLsbD_of_ge m l (by omega)
    unfold laneBit at hl; rw [this] at hl; exact absurd hl (by simp)

/-- Bytes of the group's own scratchpad, as decidable conditions. -/
abbrev OwnC (s : State) (e : Env) (ga n off : Nat) : Prop :=
  ga = 0xFE00000000000000 + 15 * 2 ^ 18 + off ∧ off < 2 ^ 18 ∧ off + n ≤ s.scratchSize e.t ∧
    e.t.st ≠ .migrating ∧ ∀ i, i < n → e.t.absent.contains ((off + i) / 128) = false

theorem ownOf {s : State} {e : Env} {ga n off : Nat} (h : OwnC s e ga n off) : InOwnScratch s e ga n off :=
  ⟨h.1, h.2.1, h.2.2.1, h.2.2.2.2, h.2.2.2.1⟩

/-- The same below the buffer table. -/
abbrev BelowC (s : State) (e : Env) (ga n off : Nat) : Prop := OwnC s e ga n off ∧ off + n + 512 ≤ s.scratchSize e.t

theorem belowOf {s : State} {e : Env} {ga n off : Nat} (h : BelowC s e ga n off) : BelowTable s e ga n off := ⟨ownOf h.1, h.2⟩

/-- The issued group's instruction begins and is performed whole. -/
abbrev BeginsC (s : State) (e : Env) : Prop := e.flight? = none ∧ s.partFor e = none

/-- A translation that leads to local memory at pa, and what holds of the state it leaves and of its leaf. -/
def landsAt (pa : Nat) (P : State → Leaf → Bool) : Except XStop (State × Phys × Leaf) → Bool
  | .ok (t, .loc p, l) => p == pa && P t l
  | _ => false

theorem landsOf {pa : Nat} {P : State → Leaf → Bool} {r : Except XStop (State × Phys × Leaf)} (h : landsAt pa P r = true) :
    ∃ t l, r = .ok (t, .loc pa, l) ∧ P t l = true := by
  unfold landsAt at h
  split at h
  · rename_i t p l; simp only [Bool.and_eq_true, beq_iff_eq] at h; exact ⟨t, l, by rw [h.1], h.2⟩
  · exact absurd h (by decide)

/-- The level of a bad leaf, and of an absent one. -/
def badAt {α : Type} : Except XStop α → Option Nat
  | .error (.x (.bad l)) => some l
  | _ => none
def absentAt {α : Type} : Except XStop α → Option Nat
  | .error (.x (.absent l)) => some l
  | _ => none

/-- The leaf of the first of some translations. -/
def firstLeaf (r : List (Nat × Leaf)) : Leaf := (r.head?.map (·.2)).getD ⟨0, 0⟩

/-- Bytes of the global window that lie in local memory, lane by lane, through leaves of one kind, and what holds of the state their
translations leave and of the leaf. -/
abbrev ChipC (s : State) (e : Env) (acc : Acc) (ls : List Nat) (va : Nat → Nat) (n : Nat) (pa : Nat → Nat) (P : State → Leaf → Bool) : Prop :=
  (∀ l ∈ ls, va l + n ≤ 2 ^ 57 ∧ va l % 65536 + n ≤ 65536) ∧
    (s.translated e acc (ls.map va)).any (fun r => decide (r.2 = ls.map (fun l => (pa l, firstLeaf r.2))) &&
      (ls.all (fun l => !isHeld r.1 (pa l)) && P r.1 (firstLeaf r.2))) = true

theorem chipOf {s : State} {e : Env} {acc : Acc} {ls : List Nat} {va pa : Nat → Nat} {n : Nat} {P : State → Leaf → Bool}
    (h : ChipC s e acc ls va n pa P) : ∃ s1 lf, OnThisChip s s1 e acc ls va n pa (fun _ => lf) ∧ P s1 lf = true := by
  obtain ⟨h1, h2⟩ := h
  cases hr : s.translated e acc (ls.map va) with
  | none => rw [hr] at h2; exact absurd h2 (by simp)
  | some r =>
  rw [hr] at h2
  simp only [Option.any_some, Bool.and_eq_true, decide_eq_true_eq, List.all_eq_true, Bool.not_eq_true'] at h2
  have h3 := h2
  exact ⟨r.1, firstLeaf r.2, ⟨fun l hl => (h1 l hl).1, fun l hl => (h1 l hl).2, by rw [hr, ← h3.1], h3.2.1⟩, h3.2.2⟩

/-- LaneResult, LaneTest, UniResult and UniTest: lanes that take part and none, a guard that is true and one that is false. Of these
shapes are IntegerArithmetic, LogicAndMoves, Shifts, BitFields, UniformArithmetic, Predicates, FloatArithmetic, FloatMinimumAndMaximum,
Transcendentals and Conversions. -/
theorem met_issued :
    (∃ e, (issued 0xFFFFFFFF 0).env? = some e ∧ e.taking 0 ≠ 0 ∧ e.taking 1 = 0 ∧ e.g.regs.getQ 0 = true ∧ e.g.regs.getQ 1 = false) ∧
    (∃ e, (issued 1 0).env? = some e ∧ e.taking 0 = 1) ∧ IntTy.s64.is64 = true ∧ IntTy.u32.is64 = false :=
  ⟨meets (by decide +kernel), meets (by decide +kernel), rfl, rfl⟩

theorem met_EveryEncodingDecodes : wellFormed (.iadd64 0 94 (.v 94) (.k 30)) = true ∧
    (encode (.iadd64 0 94 (.v 94) (.k 30))).isSome = true ∧ wellFormed (.leai 7 94 ⟨.v 94, .k 31, 0x800000⟩ 4) = true ∧
    (encode (.leai 7 94 ⟨.v 94, .k 31, 0x800000⟩ 4)).isSome = true := by decide

theorem met_SumsAndProductsAreExact : ∃ (a b : Machine.Num) (x y : ℚ), a.rat? = some x ∧ b.rat? = some y :=
  ⟨.fin true 3 (-1), .fin false 0 0, _, _, rfl, rfl⟩

/-- What the value of a code is as a rational number. -/
theorem ratOf {f : Fmt} {c : Nat} {neg : Bool} {m : Nat} {e : Int} (h : f.value c = .fin neg m e) :
    (f.value c).rat? = some ((if neg then -1 else 1) * (m : ℚ) * (2 : ℚ) ^ e) := by rw [h]; rfl

/-- Where FP32 overflows: at 2^128 less half a unit. -/
theorem overF32 : Fmt.f32.maxRat = 16777215 * 2 ^ 104 ∧ Fmt.f32.overAt = 33554431 * 2 ^ 103 := by
  have h1 : Fmt.f32.maxRat = 16777215 * 2 ^ 104 := by
    unfold Fmt.maxRat
    rw [ratOf (neg := false) (m := 16777215) (e := 104) (by decide +kernel)]; norm_num
  refine ⟨h1, ?_⟩
  unfold Fmt.overAt
  rw [h1, ratOf (c := Fmt.f32.maxCode - 1) (neg := false) (m := 16777214) (e := 104) (by decide +kernel)]; norm_num

/-- 2^24 + 1 lies between two data of FP32; 2^128 overflows there, and 1 does not. -/
theorem met_RoundsToNearestEven : (∃ x y z : ℚ, (Machine.Num.fin false 16777217 0).rat? = some x ∧
    (Fmt.f32.value (Fmt.f32.rne (.fin false 16777217 0))).rat? = some y ∧ (Fmt.f32.value 0x4B800001).rat? = some z ∧
    0x4B800001 < 2 * Fmt.f32.signBit) ∧
    (∃ x, (Machine.Num.fin true 1 128).rat? = some x ∧ Fmt.f32.overAt ≤ |x|) ∧
    ∃ x, (Machine.Num.fin true 1 0).rat? = some x ∧ |x| < Fmt.f32.overAt := by
  refine ⟨?_, ⟨_, rfl, by rw [overF32.2]; norm_num⟩, ⟨_, rfl, by rw [overF32.2]; norm_num⟩⟩
  have h1 : Fmt.f32.value (Fmt.f32.rne (.fin false 16777217 0)) = .fin false 8388608 1 := by decide +kernel
  have h2 : Fmt.f32.value 0x4B800001 = .fin false 8388609 1 := by decide +kernel
  rw [h1, h2]
  exact ⟨_, _, _, rfl, rfl, rfl, by decide⟩

/-- NaN, a negative number, 3, the least subnormal, whose reciprocal overflows, -1/2, 1/4, 256 and -256 among FP32's operands. -/
theorem met_Transcendentals :
    (∃ x, (numF32 x).isNan = true) ∧ (∃ x, (numF32 x).lt (.fin false 0 0) = true) ∧
    (∃ x m e q, numF32 x = .fin false m e ∧ (numF32 x).rat? = some q ∧ m ≠ 0 ∧ q = ((3 : Int) : ℚ) ∧ ¬Fmt.f32.overflows .rne (1 / q)) ∧
    (∃ x m e q, numF32 x = .fin false m e ∧ (numF32 x).rat? = some q ∧ m ≠ 0 ∧ Fmt.f32.overflows .rne (1 / q)) ∧
    (∃ x m e q, numF32 x = .fin true m e ∧ (numF32 x).rat? = some q ∧ m ≠ 0 ∧ q = ((-1 : Int) : ℚ) + 1 / 2) ∧
    (∃ x m e q, numF32 x = .fin false m e ∧ (numF32 x).rat? = some q ∧ m ≠ 0 ∧ q = (2 : ℚ) ^ (-2 : Int)) ∧
    (∃ x m e q, numF32 x = .fin false m e ∧ (numF32 x).rat? = some q ∧ (128 : ℚ) ≤ q) ∧
    (∃ x m e q, numF32 x = .fin true m e ∧ (numF32 x).rat? = some q ∧ q < (-150 : ℚ)) := by
  have key : ∀ {x : Word} {neg : Bool} {m : Nat} {e : Int}, numF32 x = .fin neg m e →
      (numF32 x).rat? = some ((if neg then -1 else 1) * (m : ℚ) * (2 : ℚ) ^ e) := fun h => by rw [h]; rfl
  have h3 : numF32 0x40400000 = .fin false 12582912 (-22) := by decide +kernel
  have h1 : numF32 1 = .fin false 1 (-149) := by decide +kernel
  have hh : numF32 0xBF000000 = .fin true 8388608 (-24) := by decide +kernel
  have h4 : numF32 0x3E800000 = .fin false 8388608 (-25) := by decide +kernel
  have hp : numF32 0x43800000 = .fin false 8388608 (-15) := by decide +kernel
  have hn : numF32 0xC3800000 = .fin true 8388608 (-15) := by decide +kernel
  refine ⟨⟨0x7FC00000, by decide +kernel⟩, ⟨0xBF800000, by decide +kernel⟩, ⟨_, _, _, _, h3, key h3, by decide, ?_, ?_⟩,
    ⟨_, _, _, _, h1, key h1, by decide, ?_⟩, ⟨_, _, _, _, hh, key hh, by decide, ?_⟩, ⟨_, _, _, _, h4, key h4, by decide, ?_⟩, ⟨_, _, _, _, hp, key hp, ?_⟩, ⟨_, _, _, _, hn, key hn, ?_⟩⟩
  · norm_num
  · unfold Fmt.overflows; rw [overF32.2]; norm_num
  · unfold Fmt.overflows; rw [overF32.2]; norm_num
  · norm_num
  · norm_num
  · norm_num
  · norm_num

/-- What each mode overflows on and does not, in FP32. -/
theorem met_Conversions : (∀ rm ∈ [RMode.rne, .ru], Fmt.f32.overflows rm (2 ^ 200)) ∧ Fmt.f32.overflows .rd (-2 ^ 200) ∧
    ∀ rm : RMode, ¬Fmt.f32.overflows rm 1 := by
  refine ⟨fun rm h => ?_, ?_, fun rm => ?_⟩
  · simp only [List.mem_cons, List.not_mem_nil, or_false] at h
    rcases h with rfl | rfl <;> simp only [Fmt.overflows, overF32.1, overF32.2] <;> norm_num
  · simp only [Fmt.overflows, overF32.1]; norm_num
  · cases rm <;> simp only [Fmt.overflows, overF32.1, overF32.2] <;> norm_num

/-- The control word of a slot conversion in k4. -/
def ctlK (c : Word) : State := withK (issued 1 0) [(4, c)]

theorem met_SlotConversions :
    (∃ e, (issued 1 0).env? = some e ∧ e.taking 1 = 0) ∧
    (∃ e, (ctlK 0x2830).env? = some e ∧ e.taking 0 ≠ 0 ∧ (elemOf ((e.g.regs.getK 4).toNat / 2048 % 32)).map (·.width) = some 8 ∧
      (e.g.regs.getK 4).toNat / 16 % 16 = 3 ∧ (e.g.regs.getK 4).toNat / 65536 = 0 ∧ (e.g.regs.getK 4).toNat / 256 % 8 = 0 ∧
      (e.g.regs.getK 4).toNat % 2 = 0 ∧ (e.g.regs.getK 4).toNat / 2 % 8 = 0) ∧
    (∃ e, (ctlK 0x1000).env? = some e ∧ e.taking 0 ≠ 0 ∧ elemOf ((e.g.regs.getK 4).toNat / 2048 % 32) = none) ∧
    (∃ e, (ctlK 0x2801).env? = some e ∧ e.taking 0 ≠ 0 ∧ (e.g.regs.getK 4).toNat % 2 ≠ 0) ∧
    (∃ e, (ctlK 0x12800).env? = some e ∧ e.taking 0 ≠ 0 ∧ (e.g.regs.getK 4).toNat / 65536 ≠ 0) ∧
    (∃ e, (ctlK 0x2900).env? = some e ∧ e.taking 0 ≠ 0 ∧ (e.g.regs.getK 4).toNat / 256 % 8 ≠ 0) ∧
    (∃ e, (ctlK 0x2840).env? = some e ∧ e.taking 0 ≠ 0 ∧ (elemOf ((e.g.regs.getK 4).toNat / 2048 % 32)).map (·.width) = some 8 ∧
      (e.g.regs.getK 4).toNat / 16 % 16 = 4) ∧
    (∃ e, (ctlK 0x2802).env? = some e ∧ e.taking 0 ≠ 0 ∧ (e.g.regs.getK 4).toNat / 2 % 8 ≠ 0) :=
  ⟨meets (by decide +kernel), meets (by decide +kernel), meets (by decide +kernel), meets (by decide +kernel), meets (by decide +kernel),
    meets (by decide +kernel), meets (by decide +kernel), meets (by decide +kernel)⟩

theorem met_CrossLane : (∃ e, (issued 3 0).env? = some e ∧ e.taking 0 ≠ 0) ∧ (∃ e, (issued 3 0).env? = some e ∧ e.taking 1 = 0) :=
  ⟨meets (by decide +kernel), meets (by decide +kernel)⟩

theorem met_SpecialRegisters :
    (∃ e, (issued 3 0).env? = some e ∧ e.g.trap.masked = false ∧ e.isUnlogged = true ∧ e.taking 0 ≠ 0 ∧ e.taking 1 = 0 ∧
      e.g.regs.getQ 0 = true ∧ e.g.regs.getQ 1 = false) ∧
    (∃ e, (inHandler (issued 3 0) 21).env? = some e ∧ e.g.trap.masked = true ∧ e.isUnlogged = true) ∧
    (∃ e, (withRec (issued 3 0) 0 0 0 0x20).env? = some e ∧ e.isUnlogged = false ∧ sampledReg .laneid = false) ∧
    (∃ e, (issued 3 0).env? = some e ∧ sregValue (issued 3 0) e 5 .gridx ≠ 0 ∧ sregValue (issued 3 0) e 5 .gridy ≠ 0) ∧
    handlerOnly .trapcause = true ∧ handlerOnly .laneid = false ∧ SReg.clock.is64 = true ∧ SReg.laneid.is64 = false :=
  ⟨meets (by decide +kernel), meets (by decide +kernel), meets (by decide +kernel), meets (by decide +kernel), rfl, rfl, rfl, rfl⟩

/-- Two lanes with their targets in v2:v3. -/
def targets (a b : Word) : State := withV (issued 3 0) [(2, 0, a), (2, 1, b)]

theorem met_ControlTransfers :
    (∃ e, (targets 0x30000 0x30000).env? = some e ∧ (e.taking 0 = 0 ∨ e.taking 0 = e.c.mask) ∧
      (∀ a b, laneBit (e.taking 0) a = true → laneBit (e.taking 0) b = true → e.g.regs.src2 (.v 2) a = e.g.regs.src2 (.v 2) b) ∧
      (∀ l, laneBit (e.taking 0) l = true → (e.g.regs.src2 (.v 2) l).toNat % 4 = 0) ∧
      (∀ l, laneBit (e.taking 0) l = true → (e.g.regs.src2 (.v 2) l).toNat < 2 ^ 57)) ∧
    (∃ e, (withV (targets 0x30000 0x30000) [(3, 0, 0x1FFFFFF), (3, 1, 0x1FFFFFF)]).env? = some e ∧
      (∀ l, laneBit (e.taking 0) l = true → (e.g.regs.src2 (.v 2) l).toNat < 2 ^ 57)) ∧
    (∃ e, ((targets 0 0).modGroup 0 (fun g => g.withRegs (g.regs.setP 1 1 1))).env? = some e ∧ e.taking 1 ≠ 0 ∧ e.taking 1 ≠ e.c.mask) ∧
    (∃ e, (targets 0x30000 0x30004).env? = some e ∧ ∃ a b, laneBit (e.taking 0) a = true ∧ laneBit (e.taking 0) b = true ∧
      e.g.regs.src2 (.v 2) a ≠ e.g.regs.src2 (.v 2) b) ∧
    (∃ e, (targets 0x30000 0x30002).env? = some e ∧ laneBit (e.taking 0) 1 = true ∧ (e.g.regs.src2 (.v 2) 1).toNat % 4 ≠ 0 ∧
      ∀ k, k < 1 → laneBit (e.taking 0) k = true → (e.g.regs.src2 (.v 2) k).toNat % 4 = 0) ∧
    (∃ e, (withV (targets 0x30000 0) [(3, 1, 0x2000000)]).env? = some e ∧ laneBit (e.taking 0) 1 = true ∧
      2 ^ 57 ≤ (e.g.regs.src2 (.v 2) 1).toNat ∧ ∀ k, k < 1 → laneBit (e.taking 0) k = true → (e.g.regs.src2 (.v 2) k).toNat < 2 ^ 57) := by
  refine ⟨?_, ?_, meets (by decide +kernel), ?_, meets (by decide +kernel), meets (by decide +kernel)⟩
  · obtain ⟨e, he, h⟩ := meets (s := targets 0x30000 0x30000) (P := fun e => e.taking 0 = e.c.mask ∧
      ∀ l ∈ List.range 32, laneBit (e.taking 0) l = true → (e.g.regs.src2 (.v 2) l).toNat = 0x30000) (by decide +kernel)
    have hall := lanes32 (fun l hl => h.2 l (List.mem_range.mpr hl))
    exact ⟨e, he, .inr h.1, fun a b ha hb => BitVec.eq_of_toNat_eq (by rw [hall a ha, hall b hb]),
      fun l hl => by rw [hall l hl], fun l hl => by rw [hall l hl]; decide⟩
  · obtain ⟨e, he, h⟩ := meets (s := withV (targets 0x30000 0x30000) [(3, 0, 0x1FFFFFF), (3, 1, 0x1FFFFFF)])
      (P := fun e => ∀ l, l < 32 → laneBit (e.taking 0) l = true → (e.g.regs.src2 (.v 2) l).toNat < 2 ^ 57) (by decide +kernel)
    exact ⟨e, he, lanes32 h⟩
  · obtain ⟨e, he, h⟩ := meets (s := targets 0x30000 0x30004) (P := fun e => laneBit (e.taking 0) 0 = true ∧ laneBit (e.taking 0) 1 = true ∧
      e.g.regs.src2 (.v 2) 0 ≠ e.g.regs.src2 (.v 2) 1) (by decide +kernel)
    exact ⟨e, he, 0, 1, h⟩

/-- A request stands for the context. -/
def requested (s : State) : State := s.modCtx 0 (fun x => { x with request := some 0 })

theorem met_UniformControl :
    (∃ e, (issued 3 0).env? = some e ∧ e.g.regs.getQ 1 = false) ∧
    (∃ e, (issued 3 0).env? = some e ∧ e.g.regs.getQ 0 = true ∧
      (e.c.pc.setWidth 64 + (0x7FFFF : BitVec 19).signExtend 64 * 4 : DWord).toNat < 2 ^ 57 ∧
      2 ^ 57 ≤ (e.c.pc.setWidth 64 + (0x40000 : BitVec 19).signExtend 64 * 4 : DWord).toNat ∧
      (e.c.pc.setWidth 64 + (0x7FFFFFFC : Word).signExtend 64 : DWord).toNat < 2 ^ 57 ∧
      2 ^ 57 ≤ (e.c.pc.setWidth 64 + (0x80000000 : Word).signExtend 64 : DWord).toNat ∧ e.isRequested = false) ∧
    (∃ e, (inHandler (requested (issued 3 0)) 21).env? = some e ∧ e.g.trap.masked = true) ∧
    (∃ e, (requested (issued 3 0)).env? = some e ∧ e.isRequested = true ∧ e.g.trap.masked = false ∧ e.g.ended = false) :=
  ⟨meets (by decide +kernel), meets (by decide +kernel), meets (by decide +kernel), meets (by decide +kernel)⟩

/-- A second group of the same team that has ended. -/
def withMate (s : State) (h : Group → Group) : State := { s with groups := s.groups ++ [h (Group.start 1 0x10000)] }

theorem met_ExitEndsLanes :
    (∃ e, (issued 1 0).env? = some e ∧ e.g.regs.live &&& ~~~(e.taking 0) ≠ 0) ∧
    (∃ e, (inHandler (issued 1 0) 21).env? = some e ∧ e.g.regs.live &&& ~~~(e.taking 0) ≠ 0 ∧ e.g.trap.masked = true) ∧
    (∃ e, (withMate (issued 0xFFFFFFFF 0) (fun g => { g with ended := true })).env? = some e ∧ e.g.regs.live &&& ~~~(e.taking 0) = 0 ∧
      ∀ k ∈ (withMate (issued 0xFFFFFFFF 0) (fun g => { g with ended := true })).groups, k.gid / 32 = e.t.tid → k.gid = e.g.gid ∨ k.ended = true) :=
  ⟨meets (by decide +kernel), meets (by decide +kernel), meets (by decide +kernel)⟩

theorem met_TrapEntry : ∃ e, (withVec (issued 1 0)).env? = some e ∧ e.g.trap.masked = false ∧ e.x.reg64 CtxReg.trapVec ≠ 0 :=
  meets (by decide +kernel)

theorem met_FatalTrapsEndTheTeam : (∃ e, (inHandler (issued 1 0) 21).env? = some e ∧ e.g.trap.masked = true) ∧
    ∃ e, (issued 1 0).env? = some e ∧ e.x.reg64 CtxReg.trapVec = 0 := ⟨meets (by decide +kernel), meets (by decide +kernel)⟩

/-- A group at an address whose translation fails at the root table or is absent. -/
def strayed (s : State) (va : Nat) : State := { s with cur := s.cur.map (fun c => { c with pc := BitVec.ofNat 57 va }) }

/-- A page-table root at 0x200000 whose entries are the given word. -/
def withRoot (s : State) (w : Nat) : State :=
  { s.modCtx 0 (fun x => x.setReg CtxReg.ptRoot 0x200000) with mem := writeB s.mem 0x200000 (leBytes 8 w) }

theorem met_SoftwareTraps :
    (∃ e, (issued 1 0).env? = some e ∧ e.taking 0 ≠ 0 ∧ e.taking 1 = 0 ∧ e.g.regs.getQ 0 = true ∧ e.g.regs.getQ 1 = false) ∧
    (∃ e, (strayed (issued 1 0) 0x30000).env? = some e ∧ e.g.fetched = none ∧ e.c.pc.toNat % 65536 + 4 ≤ 65536 ∧ e.c.pc.toNat + 4 ≤ 2 ^ 57 ∧
      (absentAt (xlate (strayed (issued 1 0) 0x30000) e.t.ctx e.agent (some e.spur) e.g.trap.masked .fetch e.c.pc.toNat)).isSome = true) ∧
    (∃ e, (strayed (withRoot (issued 1 0) 0xFF03) 0x30000).env? = some e ∧ e.g.fetched = none ∧
      (badAt (xlate (strayed (withRoot (issued 1 0) 0xFF03) 0x30000) e.t.ctx e.agent (some e.spur) e.g.trap.masked .fetch e.c.pc.toNat)).isSome = true) :=
  ⟨meets (by decide +kernel), meets (by decide +kernel), meets (by decide +kernel)⟩

theorem met_PrivilegedInstructions :
    (∃ e, (issued 1 0).env? = some e ∧ (issued 1 0).grade.hasCairn = true ∧ e.g.trap.masked = false) ∧
    (∃ e, (inHandler (issued 1 0) 21).env? = some e ∧ e.g.trap.masked = true ∧ e.g.regs.getQ 1 = false) :=
  ⟨meets (by decide +kernel), meets (by decide +kernel)⟩

theorem met_TrapReturn :
    (∃ e, (inHandler (issued 1 0) 21).env? = some e ∧ e.g.trap.masked = true ∧ e.g.regs.getQ 0 = true ∧ e.g.trap.cause ≠ 32 ∧
      e.g.trap.cause ≠ 33 ∧ e.isRequested = false ∧ ∃ l, l < 32 ∧ (getB e.g.trap.div l).getLsbD 63 = true) ∧
    (∃ e, (inHandler (requested (issued 1 0)) 21).env? = some e ∧ e.g.trap.masked = true ∧ e.g.regs.getQ 0 = true ∧ e.g.trap.cause ≠ 32 ∧
      e.g.trap.cause ≠ 33 ∧ e.isRequested = true ∧ e.g.ended = false ∧ ∃ l, l < 32 ∧ (getB e.g.trap.div l).getLsbD 63 = true) ∧
    (∃ e, (inHandler (issued 1 0) 32).env? = some e ∧ e.g.trap.masked = true ∧ e.g.regs.getQ 0 = true ∧ e.g.trap.cause = 32) := by
  refine ⟨?_, ?_, meets (by decide +kernel)⟩
  · obtain ⟨e, he, h⟩ := meets (s := inHandler (issued 1 0) 21) (P := fun e => (e.g.trap.masked = true ∧ e.g.regs.getQ 0 = true ∧
      e.g.trap.cause ≠ 32 ∧ e.g.trap.cause ≠ 33 ∧ e.isRequested = false) ∧ (getB e.g.trap.div 31).getLsbD 63 = true) (by decide +kernel)
    exact ⟨e, he, h.1.1, h.1.2.1, h.1.2.2.1, h.1.2.2.2.1, h.1.2.2.2.2, 31, by decide, h.2⟩
  · obtain ⟨e, he, h⟩ := meets (s := inHandler (requested (issued 1 0)) 21) (P := fun e => (e.g.trap.masked = true ∧ e.g.regs.getQ 0 = true ∧
      e.g.trap.cause ≠ 32 ∧ e.g.trap.cause ≠ 33 ∧ e.isRequested = true ∧ e.g.ended = false) ∧ (getB e.g.trap.div 0).getLsbD 63 = true) (by decide +kernel)
    exact ⟨e, he, h.1.1, h.1.2.1, h.1.2.2.1, h.1.2.2.2.1, h.1.2.2.2.2.1, h.1.2.2.2.2.2, 0, by decide, h.2⟩

theorem met_HandlerInstructions :
    (∃ e, (inHandler (issued 1 0) 21).env? = some e ∧ e.g.trap.masked = true ∧ e.g.regs.getQ 0 = true ∧ e.g.trap.cause ≠ 32) ∧
    (∃ e, (withMate (inHandler (issued 1 0) 32) id).env? = some e ∧ e.g.trap.masked = true ∧ e.g.regs.getQ 0 = true ∧ e.g.trap.cause = 32 ∧
      ∃ k ∈ (withMate (inHandler (issued 1 0) 32) id).groups, k.gid / 32 = e.t.tid ∧ k.gid ≠ e.g.gid ∧
        (k.ended || k.saved || k.hwsaved) = false) :=
  ⟨meets (by decide +kernel), meets (by decide +kernel)⟩

/-- Reset with IADDI v1, k0, 7 loaded; the group at 0x10000 is chosen with all its lanes, and both words are fetched. -/
def loaded : State := { State.reset.withFetchWord 64 0x0000000707007000 with agenda := [], part := none }

/-- The issue of its group before its word is known. -/
def firstIssue : Issue := ⟨0, 0x10000, 0xFFFFFFFF, 0, 0, 4, false⟩

theorem met_StepRunsTheDecodedInstruction :
    let g := Group.start 0 0x10000
    let x := loaded.issueWith g firstIssue
    let c1 : Issue := { firstIssue with word := 0x07007000, size := Sys2Proof.sizeOf 0x07007000 }
    (State.reset.withFetchWord 64 0x0000000707007000).agenda = [.issue 0] ∧ loaded.group? 0 = some g ∧ g.ready loaded = true ∧
    g.choose = some (g, 0x10000, 0xFFFFFFFF) ∧ g.fetched = none ∧ g.park = none ∧
    (∃ e s1 l, x.env? = some e ∧ xlate x e.t.ctx e.agent (some e.spur) e.g.trap.masked .fetch 0x10000 = .ok (s1, .loc 0x10000, l) ∧
      (isHeld s1 0x10000 = false ∧ localErr s1 (isLost s1) 0x10000 4 = none ∧ leNat (readB s1.mem 0x10000 4) = 0x07007000) ∧
      ∃ s3 l3, xlate { s1.dieMet e.t.ctx false [⟨0x10000, 4, .loc 0x10000, l⟩] with cur := some c1 } e.t.ctx e.agent
          (some e.spur) e.g.trap.masked .fetch 0x10004 = .ok (s3, .loc 0x10004, l3) ∧
        isHeld s3 0x10004 = false ∧ localErr s3 (isLost s3) 0x10004 4 = none ∧ leNat (readB s3.mem 0x10004 4) = 7 ∧
        absentUnit (s3.dieMet e.t.ctx false [⟨0x10004, 4, .loc 0x10004, l3⟩]).grade (opcodeOf 0x07007000) = false) ∧
    isLong (opcodeOf 0x07007000) = true ∧ decodeWords 0x07007000 7 = .instr (.iaddi 0 1 (.k 0) 7) := by
  refine ⟨by decide +kernel, by decide +kernel, by decide +kernel, by decide +kernel, rfl, rfl, ?_, by decide +kernel, by decide⟩
  obtain ⟨e, he, hx⟩ := meets (s := loaded.issueWith (Group.start 0 0x10000) firstIssue)
    (P := fun e => landsAt 0x10000 (fun s1 l => decide (isHeld s1 0x10000 = false ∧ localErr s1 (isLost s1) 0x10000 4 = none ∧
          leNat (readB s1.mem 0x10000 4) = 0x07007000) &&
        landsAt 0x10004 (fun s3 l3 => decide (isHeld s3 0x10004 = false ∧ localErr s3 (isLost s3) 0x10004 4 = none ∧
            leNat (readB s3.mem 0x10004 4) = 7 ∧
            absentUnit (s3.dieMet e.t.ctx false [⟨0x10004, 4, .loc 0x10004, l3⟩]).grade (opcodeOf 0x07007000) = false))
          (xlate { s1.dieMet e.t.ctx false [⟨0x10000, 4, .loc 0x10000, l⟩] with
              cur := some { firstIssue with word := 0x07007000, size := Sys2Proof.sizeOf 0x07007000 } } e.t.ctx e.agent
            (some e.spur) e.g.trap.masked .fetch 0x10004))
        (xlate (loaded.issueWith (Group.start 0 0x10000) firstIssue) e.t.ctx e.agent (some e.spur) e.g.trap.masked .fetch 0x10000) = true)
    (by decide +kernel)
  obtain ⟨s1, l, h1, h2⟩ := landsOf hx
  simp only [Bool.and_eq_true, decide_eq_true_eq] at h2
  obtain ⟨s3, l3, h3, h4⟩ := landsOf h2.2
  exact ⟨e, s1, l, he, h1, h2.1, s3, l3, h3, by simpa using h4⟩

/-- A group with its address pair k4:k5 at an offset of its own scratchpad of one page, in a grid of the given mode. -/
def inScratch (off : Nat) (mode : Byte) : State := withK (withRec (issued 3 0) 1 4 1 mode) (own off)

/-- The same at an address of the global window. -/
def inWindow (va : Nat) (mode : Byte) : State := withK (withRec (issued 3 0) 1 4 1 mode) [(4, BitVec.ofNat 32 va), (5, 0)]

/-- Every lane's address in k4:k5. -/
def at4 : LaneMem := ⟨.k 4, .k 0, 0⟩

/-- What a load asks of the state that its translations leave. -/
def readable (n : Nat) (pa : Nat) (s1 : State) (_ : Leaf) : Bool := decide (localErr s1 (isLost s1) pa n = none)

theorem met_Loads :
    (∃ e, (issued 3 0).env? = some e ∧ e.taking 1 = 0 ∧ e.g.regs.getQ 1 = false) ∧
    (∃ e, (inScratch 4080 0).env? = some e ∧ e.taking 0 ≠ 0 ∧ Begins (inScratch 4080 0) e ∧
      (∀ l, laneBit (e.taking 0) l = true → InOwnScratch (inScratch 4080 0) e (e.g.regs.laneAddr at4 l).toNat (sizeBytes .b128) 4080)) ∧
    (∃ e, (inScratch 4088 0).env? = some e ∧ e.g.regs.getQ 0 = true ∧ Begins (inScratch 4088 0) e ∧
      InOwnScratch (inScratch 4088 0) e (e.g.regs.uniAddr ⟨4, 0, 0⟩).toNat (sizeBytes .b64) 4088) ∧
    (∃ e s1 lf, (inWindow 0x1FFF0 0).env? = some e ∧ e.taking 0 ≠ 0 ∧ Begins (inWindow 0x1FFF0 0) e ∧
      OnThisChip (inWindow 0x1FFF0 0) s1 e .read (lanesOf (e.taking 0)) (fun l => (e.g.regs.laneAddr at4 l).toNat) (sizeBytes .b128) (fun _ => 0x1FFF0) (fun _ => lf) ∧
      (∀ l ∈ lanesOf (e.taking 0), localErr s1 (isLost s1) ((fun _ => 0x1FFF0) l) (sizeBytes .b128) = none)) ∧
    (∃ e s1 lf, (inWindow 0x10000 0).env? = some e ∧ e.g.regs.getQ 0 = true ∧ Begins (inWindow 0x10000 0) e ∧
      OnThisChip (inWindow 0x10000 0) s1 e .read [0] (fun _ => (e.g.regs.uniAddr ⟨4, 0, 0⟩).toNat) (sizeBytes .b64) (fun _ => 0x10000) (fun _ => lf) ∧
      localErr s1 (isLost s1) 0x10000 (sizeBytes .b64) = none) := by
  refine ⟨meets (by decide +kernel), ?_, ?_, ?_, ?_⟩
  · obtain ⟨e, he, h⟩ := meets (s := inScratch 4080 0) (P := fun e => (e.taking 0 ≠ 0 ∧ BeginsC (inScratch 4080 0) e) ∧
      ∀ l ∈ List.range 32, OwnC (inScratch 4080 0) e (e.g.regs.laneAddr at4 l).toNat (sizeBytes .b128) 4080) (by decide +kernel)
    exact ⟨e, he, h.1.1, ⟨h.1.2.1, h.1.2.2⟩, lanes32 (fun l hl _ => ownOf (h.2 l (List.mem_range.mpr hl)))⟩
  · obtain ⟨e, he, h⟩ := meets (s := inScratch 4088 0) (P := fun e => (e.g.regs.getQ 0 = true ∧ BeginsC (inScratch 4088 0) e) ∧
      OwnC (inScratch 4088 0) e (e.g.regs.uniAddr ⟨4, 0, 0⟩).toNat (sizeBytes .b64) 4088) (by decide +kernel)
    exact ⟨e, he, h.1.1, ⟨h.1.2.1, h.1.2.2⟩, ownOf h.2⟩
  · obtain ⟨e, he, h⟩ := meets (s := inWindow 0x1FFF0 0) (P := fun e => (e.taking 0 ≠ 0 ∧ BeginsC (inWindow 0x1FFF0 0) e) ∧
      ChipC (inWindow 0x1FFF0 0) e .read (lanesOf (e.taking 0)) (fun l => (e.g.regs.laneAddr at4 l).toNat) (sizeBytes .b128) (fun _ => 0x1FFF0)
        (readable (sizeBytes .b128) 0x1FFF0)) (by decide +kernel)
    obtain ⟨s1, lf, h1, h2⟩ := chipOf h.2
    exact ⟨e, s1, lf, he, h.1.1, ⟨h.1.2.1, h.1.2.2⟩, h1, fun _ _ => of_decide_eq_true h2⟩
  · obtain ⟨e, he, h⟩ := meets (s := inWindow 0x10000 0) (P := fun e => (e.g.regs.getQ 0 = true ∧ BeginsC (inWindow 0x10000 0) e) ∧
      ChipC (inWindow 0x10000 0) e .read [0] (fun _ => (e.g.regs.uniAddr ⟨4, 0, 0⟩).toNat) (sizeBytes .b64) (fun _ => 0x10000)
        (readable (sizeBytes .b64) 0x10000)) (by decide +kernel)
    obtain ⟨s1, lf, h1, h2⟩ := chipOf h.2
    exact ⟨e, s1, lf, he, h.1.1, ⟨h.1.2.1, h.1.2.2⟩, h1, of_decide_eq_true h2⟩

/-- What a store asks of the state that its translations leave, whatever it writes at one place: nothing lies lost there. -/
theorem writable {s1 : State} {pa n : Nat} {lf : Leaf} (ws : List (Nat × Byte)) (h : readable n pa s1 lf = true)
    (hl : s1.hbm.all (fun k => !k.failed && k.lostAtoms.isEmpty && k.lostPages.isEmpty) = true) :
    localErr s1 (staysLost s1 ws) pa n = none := by
  have hs : ∀ a, staysLost s1 ws a = false := by
    intro a
    unfold staysLost
    cases hk : s1.hbm[paStack a]? with
    | none => simp [isLost, hk]
    | some k =>
      have := List.all_eq_true.mp hl k (List.mem_of_getElem? hk)
      simp only [Bool.and_eq_true, Bool.not_eq_true', List.isEmpty_iff] at this
      simp [isLost, hk, this.1.1, this.1.2, this.2]
  have h0 : localErr s1 (isLost s1) pa n = none := of_decide_eq_true h
  unfold localErr at h0 ⊢
  split
  · rename_i hx; rw [if_pos hx] at h0; exact absurd h0 (by simp)
  · simp [hs]

/-- A stack array without a lost atom. -/
def unspoiled (s1 : State) : Bool := s1.hbm.all (fun k => !k.failed && k.lostAtoms.isEmpty && k.lostPages.isEmpty)

theorem met_Stores :
    (∃ e, (issued 3 0).env? = some e ∧ e.taking 1 = 0 ∧ e.g.regs.getQ 1 = false) ∧
    (∃ e, (inScratch 3568 0).env? = some e ∧ e.taking 0 ≠ 0 ∧ Begins (inScratch 3568 0) e ∧
      (∀ l, laneBit (e.taking 0) l = true → BelowTable (inScratch 3568 0) e (e.g.regs.laneAddr at4 l).toNat (sizeBytes .b128) 3568)) ∧
    (∃ e, (inScratch 3576 0).env? = some e ∧ e.g.regs.getQ 0 = true ∧ Begins (inScratch 3576 0) e ∧
      BelowTable (inScratch 3576 0) e (e.g.regs.uniAddr ⟨4, 0, 0⟩).toNat (sizeBytes .b64) 3576) ∧
    (∃ e s1 lf, (inWindow 0x1FFF0 0).env? = some e ∧ e.taking 0 ≠ 0 ∧ e.mustStage = false ∧ Begins (inWindow 0x1FFF0 0) e ∧
      OnThisChip (inWindow 0x1FFF0 0) s1 e .write (lanesOf (e.taking 0)) (fun l => (e.g.regs.laneAddr at4 l).toNat) (sizeBytes .b128) (fun _ => 0x1FFF0) (fun _ => lf) ∧
      (inWindow 0x1FFF0 0).late = [] ∧ e.x.reg CtxReg.spurSlots = 0 ∧
      (∀ ws, ∀ l ∈ lanesOf (e.taking 0), localErr s1 (staysLost s1 ws) ((fun _ => 0x1FFF0) l) (sizeBytes .b128) = none)) ∧
    (∃ e s1 lf, (inWindow 0x10000 0).env? = some e ∧ e.g.regs.getQ 0 = true ∧ e.mustStage = false ∧ Begins (inWindow 0x10000 0) e ∧
      OnThisChip (inWindow 0x10000 0) s1 e .write [0] (fun _ => (e.g.regs.uniAddr ⟨4, 0, 0⟩).toNat) (sizeBytes .b64) (fun _ => 0x10000) (fun _ => lf) ∧
      ∀ ws, localErr s1 (staysLost s1 ws) 0x10000 (sizeBytes .b64) = none) := by
  refine ⟨meets (by decide +kernel), ?_, ?_, ?_, ?_⟩
  · obtain ⟨e, he, h⟩ := meets (s := inScratch 3568 0) (P := fun e => (e.taking 0 ≠ 0 ∧ BeginsC (inScratch 3568 0) e) ∧
      ∀ l ∈ List.range 32, BelowC (inScratch 3568 0) e (e.g.regs.laneAddr at4 l).toNat (sizeBytes .b128) 3568) (by decide +kernel)
    exact ⟨e, he, h.1.1, ⟨h.1.2.1, h.1.2.2⟩, lanes32 (fun l hl _ => belowOf (h.2 l (List.mem_range.mpr hl)))⟩
  · obtain ⟨e, he, h⟩ := meets (s := inScratch 3576 0) (P := fun e => (e.g.regs.getQ 0 = true ∧ BeginsC (inScratch 3576 0) e) ∧
      BelowC (inScratch 3576 0) e (e.g.regs.uniAddr ⟨4, 0, 0⟩).toNat (sizeBytes .b64) 3576) (by decide +kernel)
    exact ⟨e, he, h.1.1, ⟨h.1.2.1, h.1.2.2⟩, belowOf h.2⟩
  · obtain ⟨e, he, h⟩ := meets (s := inWindow 0x1FFF0 0) (P := fun e => (e.taking 0 ≠ 0 ∧ e.mustStage = false ∧ BeginsC (inWindow 0x1FFF0 0) e ∧
      e.x.reg CtxReg.spurSlots = 0) ∧
      ChipC (inWindow 0x1FFF0 0) e .write (lanesOf (e.taking 0)) (fun l => (e.g.regs.laneAddr at4 l).toNat) (sizeBytes .b128) (fun _ => 0x1FFF0)
        (fun s1 lf => readable (sizeBytes .b128) 0x1FFF0 s1 lf && unspoiled s1)) (by decide +kernel)
    obtain ⟨s1, lf, h1, h2⟩ := chipOf h.2
    rw [Bool.and_eq_true] at h2
    exact ⟨e, s1, lf, he, h.1.1, h.1.2.1, ⟨h.1.2.2.1.1, h.1.2.2.1.2⟩, h1, by decide +kernel, h.1.2.2.2, fun ws _ _ => writable ws h2.1 h2.2⟩
  · obtain ⟨e, he, h⟩ := meets (s := inWindow 0x10000 0) (P := fun e => (e.g.regs.getQ 0 = true ∧ e.mustStage = false ∧ BeginsC (inWindow 0x10000 0) e) ∧
      ChipC (inWindow 0x10000 0) e .write [0] (fun _ => (e.g.regs.uniAddr ⟨4, 0, 0⟩).toNat) (sizeBytes .b64) (fun _ => 0x10000)
        (fun s1 lf => readable (sizeBytes .b64) 0x10000 s1 lf && unspoiled s1)) (by decide +kernel)
    obtain ⟨s1, lf, h1, h2⟩ := chipOf h.2
    rw [Bool.and_eq_true] at h2
    exact ⟨e, s1, lf, he, h.1.1, h.1.2.1, ⟨h.1.2.2.1, h.1.2.2.2⟩, h1, fun ws => writable ws h2.1 h2.2⟩

/-- A team of index 1 in a DET grid stages its stores while team 0 holds the ticket. -/
def staging : State := (inWindow 0x10000 0x10).modTeam 0 (fun t => { t with idx := 1 })

/-- A record that a full staging holds. -/
def fullRec : Staged :=
  { addr := 0x10040, data := 5, team := 0, seq := 0, lane := 0, group := 0, kind := 1, ctl := 0x0F, die := 0, spilled := none }

/-- A grid with an overflow region of 64 KiB at 0x10000 and 128 records of team 0 staged; the team is the next to drain. -/
def fullGrid : Grid :=
  { oneGrid 0 with bytes := oneRecord.take 48 ++ leBytes 8 0x10001 ++ oneRecord.drop 56, staged := List.replicate 128 fullRec }

/-- A further record finds slot 0 of its overflow region free, which lies in local memory, and no record is spilled. -/
def spills : Bool :=
  fullGrid.staged.countP (fun q => q.team == 0 && q.spilled.isNone) == 128 && decide (32 * 0 + 32 ≤ Rec.ovSize fullGrid.bytes) &&
    landsAt 0x10000 (fun a1 _ => !isHeld a1 0x10000 && localExists a1 0x10000 && (partLost a1 (spread 0x10000 fullRec.bytes)).isNone)
      (xlate { issued 1 0 with tlb := ⟨.die 0, 0, none, 0x10000, 65536, 0x1001B, 0⟩ :: (issued 1 0).tlb } 0 (.die 0) (some 0) true .write
        (Rec.ovBase fullGrid.bytes + 32 * 0))

theorem met_StagedWork :
    (∃ e s1 lf, staging.env? = some e ∧ Begins staging e ∧ e.taking 0 ≠ 0 ∧ e.mustStage = true ∧
      OnThisChip staging s1 e .write (lanesOf (e.taking 0)) (fun l => (e.g.regs.laneAddr at4 l).toNat) (sizeBytes .b32) (fun _ => 0x10000) (fun _ => lf) ∧
      e.gr.staged.countP (fun q => q.team == e.t.idx && q.spilled.isNone) +
        ((lanesOf (e.taking 0)).flatMap (fun l => storeRecs e l (e.g.regs.laneAddr at4 l).toNat (storeBytes .b32 (fun i => e.g.regs.dataAt .b32 (.v 0) i l)))).length ≤ 128) ∧
    (∃ e s1 lf, (inWindow 0x10000 0).env? = some e ∧ Begins (inWindow 0x10000 0) e ∧ e.taking 0 ≠ 0 ∧ e.isUnlogged = true ∧
      (e.isDet = true → Scope.device ≠ .system) ∧
      OnThisChip (inWindow 0x10000 0) s1 e .atomic (lanesOf (e.taking 0)) (fun l => (e.g.regs.laneAddr at4 l).toNat) 8 (fun _ => 0x10000) (fun _ => lf) ∧
      (∀ l ∈ lanesOf (e.taking 0), (e.g.regs.laneAddr at4 l).toNat % 8 = 0) ∧
      e.gr.staged.countP (fun q => q.team == e.t.idx && q.spilled.isNone) + (lanesOf (e.taking 0)).length ≤ 128) ∧
    spills = true ∧ freeSpill { oneGrid 0 with staged := List.replicate 128 fullRec } true = none := by
  refine ⟨?_, ?_, by decide +kernel, by decide +kernel⟩
  · obtain ⟨e, he, h⟩ := meets (s := staging) (P := fun e => (BeginsC staging e ∧ e.taking 0 ≠ 0 ∧ e.mustStage = true ∧
      e.gr.staged.countP (fun q => q.team == e.t.idx && q.spilled.isNone) +
        ((lanesOf (e.taking 0)).flatMap (fun l => storeRecs e l (e.g.regs.laneAddr at4 l).toNat (storeBytes .b32 (fun i => e.g.regs.dataAt .b32 (.v 0) i l)))).length ≤ 128) ∧
      ChipC staging e .write (lanesOf (e.taking 0)) (fun l => (e.g.regs.laneAddr at4 l).toNat) (sizeBytes .b32) (fun _ => 0x10000) (fun _ _ => true))
      (by decide +kernel)
    obtain ⟨s1, lf, h1, _⟩ := chipOf h.2
    exact ⟨e, s1, lf, he, ⟨h.1.1.1, h.1.1.2⟩, h.1.2.1, h.1.2.2.1, h1, h.1.2.2.2⟩
  · obtain ⟨e, he, h⟩ := meets (s := inWindow 0x10000 0) (P := fun e => (BeginsC (inWindow 0x10000 0) e ∧ e.taking 0 ≠ 0 ∧
      e.isUnlogged = true ∧ (∀ l ∈ lanesOf (e.taking 0), (e.g.regs.laneAddr at4 l).toNat % 8 = 0) ∧
      e.gr.staged.countP (fun q => q.team == e.t.idx && q.spilled.isNone) + (lanesOf (e.taking 0)).length ≤ 128) ∧
      ChipC (inWindow 0x10000 0) e .atomic (lanesOf (e.taking 0)) (fun l => (e.g.regs.laneAddr at4 l).toNat) 8 (fun _ => 0x10000) (fun _ _ => true))
      (by decide +kernel)
    obtain ⟨s1, lf, h1, _⟩ := chipOf h.2
    exact ⟨e, s1, lf, he, ⟨h.1.1.1, h.1.1.2⟩, h.1.2.1, h.1.2.2.1, fun _ => by decide, h1, h.1.2.2.2.1, h.1.2.2.2.2⟩

/-- In a normal grid, and in a DET grid where the scope is not the system's. -/
theorem met_Atomics : ∀ mode ∈ [(0 : Byte), 0x10], ∃ e, (inScratch 3576 mode).env? = some e ∧ e.taking 0 ≠ 0 ∧ e.isUnlogged = true ∧
    (e.isDet = (mode == 0x10)) ∧ Begins (inScratch 3576 mode) e ∧
    (∀ l, laneBit (e.taking 0) l = true → BelowTable (inScratch 3576 mode) e (e.g.regs.laneAddr at4 l).toNat 8 3576 ∧
      (e.g.regs.laneAddr at4 l).toNat % 8 = 0) := by
  have key := meetsAll (l := [(0 : Byte), 0x10]) (S := fun mode => inScratch 3576 mode) (P := fun mode e => (e.taking 0 ≠ 0 ∧ e.isUnlogged = true ∧
      e.isDet = (mode == 0x10) ∧ BeginsC (inScratch 3576 mode) e) ∧ ∀ l ∈ List.range 32, BelowC (inScratch 3576 mode) e (e.g.regs.laneAddr at4 l).toNat 8 3576 ∧
        (e.g.regs.laneAddr at4 l).toNat % 8 = 0) (by decide +kernel)
  intro mode hm
  obtain ⟨e, he, h⟩ := key mode hm
  exact ⟨e, he, h.1.1, h.1.2.1, h.1.2.2.1, ⟨h.1.2.2.2.1, h.1.2.2.2.2⟩,
    lanes32 (fun l hl _ => ⟨belowOf (h.2 l (List.mem_range.mpr hl)).1, (h.2 l (List.mem_range.mpr hl)).2⟩)⟩

/-- The scratchpad of team 0 with bytes at an offset. -/
def withBytes (s : State) (off : Nat) (bs : List Byte) : State := s.modTeam 0 (fun t => { t with scratch := writeB t.scratch off bs })

/-- A group in its handler with an address of the window at hand; in DET mode its team stages. -/
def shadowed (mode : Byte) : State := inHandler ((inWindow 0x10000 mode).modTeam 0 (fun t => { t with idx := if mode = 0 then 0 else 1 })) 21

theorem met_ShadowMoves :
    (∃ e, (inHandler (inScratch 3328 0) 21).env? = some e ∧ Begins (inHandler (inScratch 3328 0) 21) e ∧ e.g.trap.masked = true ∧ e.g.regs.getQ 0 = true ∧
      BelowTable (inHandler (inScratch 3328 0) 21) e (e.g.regs.uniAddr ⟨4, 0, 0⟩).toNat 256 3328 ∧
      (∀ l, l < 32 → leNat (readB e.t.scratch (3328 + 8 * l) 8) / 2 ^ 57 % 32 = 0 ∧ leNat (readB e.t.scratch (3328 + 8 * l) 8) % 4 = 0)) ∧
    (∃ e, (inHandler (inScratch 3968 0) 21).env? = some e ∧ Begins (inHandler (inScratch 3968 0) 21) e ∧ e.g.trap.masked = true ∧ e.g.regs.getQ 0 = true ∧
      InOwnScratch (inHandler (inScratch 3968 0) 21) e (e.g.regs.uniAddr ⟨4, 0, 0⟩).toNat 128 3968) ∧
    (∃ e, (withBytes (inHandler (inScratch 3840 0) 21) 4088 [2]).env? = some e ∧ Begins (withBytes (inHandler (inScratch 3840 0) 21) 4088 [2]) e ∧ e.g.trap.masked = true ∧ e.g.regs.getQ 0 = true ∧
      InOwnScratch (withBytes (inHandler (inScratch 3840 0) 21) 4088 [2]) e (e.g.regs.uniAddr ⟨4, 0, 0⟩).toNat 256 3840 ∧
      (∃ l, l < 32 ∧ leNat (readB e.t.scratch (3840 + 8 * l) 8) % 4 ≠ 0)) ∧
    (∃ e, (inHandler (withK (issued 1 0) [(4, 0), (5, 0xFF000000)]) 21).env? = some e ∧ 0xFF00000000000000 ≤ (e.g.regs.uniAddr ⟨4, 0, 0⟩).toNat) ∧
    (∃ e, (inHandler (inWindow 0x10004 0) 21).env? = some e ∧ (e.g.regs.uniAddr ⟨4, 0, 0⟩).toNat < 2 ^ 57 ∧ (e.g.regs.uniAddr ⟨4, 0, 0⟩).toNat % 8 ≠ 0) ∧
    (∀ mode ∈ [(0 : Byte), 0x10], ∃ e s1 lf, (shadowed mode).env? = some e ∧ Begins (shadowed mode) e ∧ e.g.trap.masked = true ∧ e.g.regs.getQ 0 = true ∧
      (e.g.regs.uniAddr ⟨4, 0, 0⟩).toNat % 8 = 0 ∧ e.mustStage = (mode == 0x10) ∧
      OnThisChip (shadowed mode) s1 e .write [0] (fun _ => (e.g.regs.uniAddr ⟨4, 0, 0⟩).toNat) 256 (fun _ => 0x10000) (fun _ => lf) ∧
      (∀ ws, localErr s1 (staysLost s1 ws) 0x10000 256 = none) ∧ localErr s1 (isLost s1) 0x10000 256 = none ∧
      (mode = 0x10 → ∃ s2, (storeRecs e (lowLane e.c.mask) (e.g.regs.uniAddr ⟨4, 0, 0⟩).toNat (List.replicate 256 0)).foldlM
        (fun a r => stageOne (shadowed mode) a e r) s1 = .ok s2)) ∧
    (∃ e s1 lf, (shadowed 0).env? = some e ∧
      OnThisChip (shadowed 0) s1 e .read [0] (fun _ => (e.g.regs.uniAddr ⟨4, 0, 0⟩).toNat) 256 (fun _ => 0x10000) (fun _ => lf) ∧
      localErr s1 (isLost s1) 0x10000 256 = none ∧
      ∃ l, l < 32 ∧ leNat (((seenBytes (s1.loadsMeet e [⟨(e.g.regs.uniAddr ⟨4, 0, 0⟩).toNat, 256, .loc 0x10000, lf⟩]) e
        (e.g.regs.uniAddr ⟨4, 0, 0⟩).toNat 0x10000 256).drop (8 * l)).take 8) % 4 = 0) := by
  refine ⟨?_, ?_, ?_, meets (by decide +kernel), meets (by decide +kernel), ?_, ?_⟩
  · obtain ⟨e, he, h⟩ := meets (s := inHandler (inScratch 3328 0) 21) (P := fun e => BeginsC (inHandler (inScratch 3328 0) 21) e ∧ (e.g.trap.masked = true ∧ e.g.regs.getQ 0 = true ∧
      BelowC (inHandler (inScratch 3328 0) 21) e (e.g.regs.uniAddr ⟨4, 0, 0⟩).toNat 256 3328) ∧
      ∀ l ∈ List.range 32, leNat (readB e.t.scratch (3328 + 8 * l) 8) / 2 ^ 57 % 32 = 0 ∧ leNat (readB e.t.scratch (3328 + 8 * l) 8) % 4 = 0)
      (by decide +kernel)
    exact ⟨e, he, ⟨h.1.1, h.1.2⟩, h.2.1.1, h.2.1.2.1, belowOf h.2.1.2.2, fun l hl => h.2.2 l (List.mem_range.mpr hl)⟩
  · obtain ⟨e, he, h⟩ := meets (s := inHandler (inScratch 3968 0) 21) (P := fun e => BeginsC (inHandler (inScratch 3968 0) 21) e ∧ e.g.trap.masked = true ∧ e.g.regs.getQ 0 = true ∧
      OwnC (inHandler (inScratch 3968 0) 21) e (e.g.regs.uniAddr ⟨4, 0, 0⟩).toNat 128 3968) (by decide +kernel)
    exact ⟨e, he, ⟨h.1.1, h.1.2⟩, h.2.1, h.2.2.1, ownOf h.2.2.2⟩
  · obtain ⟨e, he, h⟩ := meets (s := withBytes (inHandler (inScratch 3840 0) 21) 4088 [2]) (P := fun e => BeginsC (withBytes (inHandler (inScratch 3840 0) 21) 4088 [2]) e ∧ (e.g.trap.masked = true ∧
      e.g.regs.getQ 0 = true ∧ OwnC (withBytes (inHandler (inScratch 3840 0) 21) 4088 [2]) e (e.g.regs.uniAddr ⟨4, 0, 0⟩).toNat 256 3840) ∧
      leNat (readB e.t.scratch (3840 + 8 * 31) 8) % 4 ≠ 0) (by decide +kernel)
    exact ⟨e, he, ⟨h.1.1, h.1.2⟩, h.2.1.1, h.2.1.2.1, ownOf h.2.1.2.2, 31, by decide, h.2.2⟩
  · have key : ∀ mode ∈ [(0 : Byte), 0x10], ((shadowed mode).env?.map (fun e => decide ((BeginsC (shadowed mode) e ∧ e.g.trap.masked = true ∧ e.g.regs.getQ 0 = true ∧
        (e.g.regs.uniAddr ⟨4, 0, 0⟩).toNat % 8 = 0 ∧ e.mustStage = (mode == 0x10)) ∧
        ChipC (shadowed mode) e .write [0] (fun _ => (e.g.regs.uniAddr ⟨4, 0, 0⟩).toNat) 256 (fun _ => 0x10000) (fun s1 lf => readable 256 0x10000 s1 lf &&
          unspoiled s1 && (mode == 0 || (match (storeRecs e (lowLane e.c.mask) (e.g.regs.uniAddr ⟨4, 0, 0⟩).toNat (List.replicate 256 0)).foldlM
            (fun a r => stageOne (shadowed mode) a e r) s1 with
            | .ok _ => true
            | .error _ => false)))))) = some true := by decide +kernel
    intro mode hm
    obtain ⟨e, he, h⟩ := meets (key mode hm)
    obtain ⟨s1, lf, h1, h2⟩ := chipOf h.2
    simp only [Bool.and_eq_true, Bool.or_eq_true, beq_iff_eq] at h2
    refine ⟨e, s1, lf, he, ⟨h.1.1.1, h.1.1.2⟩, h.1.2.1, h.1.2.2.1, h.1.2.2.2.1, h.1.2.2.2.2, h1, fun ws => writable ws h2.1.1 h2.1.2,
      of_decide_eq_true h2.1.1, fun hd => ?_⟩
    rcases h2.2 with h0 | h0
    · rw [hd] at h0; exact absurd h0 (by decide)
    · split at h0
      · rename_i s2 hs; exact ⟨s2, hs⟩
      · exact absurd h0 (by decide)
  · obtain ⟨e, he, h⟩ := meets (s := shadowed 0) (P := fun e =>
        ChipC (shadowed 0) e .read [0] (fun _ => (e.g.regs.uniAddr ⟨4, 0, 0⟩).toNat) 256 (fun _ => 0x10000) (fun s1 lf => readable 256 0x10000 s1 lf &&
          decide (leNat (((seenBytes (s1.loadsMeet e [⟨(e.g.regs.uniAddr ⟨4, 0, 0⟩).toNat, 256, .loc 0x10000, lf⟩]) e
            (e.g.regs.uniAddr ⟨4, 0, 0⟩).toNat 0x10000 256).drop (8 * 31)).take 8) % 4 = 0))) (by decide +kernel)
    obtain ⟨s1, lf, h1, h2⟩ := chipOf h
    simp only [Bool.and_eq_true, decide_eq_true_eq] at h2
    exact ⟨e, s1, lf, he, h1, of_decide_eq_true h2.1, 31, by decide, h2.2⟩

/-- An object at offset 3568 of the own scratchpad, with a value in k6. -/
def object (o : Nat) (k : Word) : State := withVec (withBytes (withK (inScratch 3568 0) [(6, k)]) 3568 (leBytes 16 o))

theorem met_Barriers :
    (∀ p ∈ [(barInit 1, (1 : Word)), (barInit 0, 0), (2 ^ 30 + 2 ^ 20 + 5 * 2 ^ 96, 1), (barInit 1, 2), (barInit 1, 0x7FFFFFFF), (barInit 1, 0x80000000),
        (barInit 1, 0x13)],
      ∃ e, (object p.1 p.2).env? = some e ∧ e.g.regs.getQ 0 = true ∧ e.isUnlogged = true ∧ e.g.trap.masked = false ∧ e.x.reg64 CtxReg.trapVec ≠ 0 ∧
        e.isDet = false ∧ e.g.park = none ∧ (object p.1 p.2).barGet e.t.tid 3568 = p.1 ∧ e.g.regs.getK 6 = p.2 ∧
        BelowTable (object p.1 p.2) e (e.g.regs.getK2 4).toNat 16 3568 ∧ (e.g.regs.getK2 4).toNat % 16 = 0) ∧
    (Bar.err (barInit 1) = false ∧ Bar.arrived (barInit 1) + 1 ≤ Bar.expect (barInit 1)) ∧
    Bar.err (barInit 0) = true ∧
    (Bar.err (2 ^ 30 + 2 ^ 20 + 5 * 2 ^ 96) = false ∧ Bar.expect (2 ^ 30 + 2 ^ 20 + 5 * 2 ^ 96) < Bar.arrived (2 ^ 30 + 2 ^ 20 + 5 * 2 ^ 96) + 1) ∧
    Bar.expect (barInit 1) < Bar.arrived (barInit 1) + 2 ∧ Bar.bytes (barInit 1) + 0x7FFFFFFF < 2 ^ 31 ∧
    2 ^ 31 ≤ Bar.bytes (barInit 1) + 0x80000000 ∧ Bar.phase (barInit 1) ≠ 1 % 16 ∧ Bar.phase (barInit 1) = 0x80000000 % 16 ∧
    Bar.phase (barInit 1) = 0 % 16 := by
  refine ⟨?_, by decide, by decide, by decide, by decide, by decide, by decide, by decide, by decide, by decide⟩
  have key : ∀ p ∈ [(barInit 1, (1 : Word)), (barInit 0, 0), (2 ^ 30 + 2 ^ 20 + 5 * 2 ^ 96, 1), (barInit 1, 2), (barInit 1, 0x7FFFFFFF),
        (barInit 1, 0x80000000), (barInit 1, 0x13)],
      ((object p.1 p.2).env?.map (fun e => decide ((e.g.regs.getQ 0 = true ∧ e.isUnlogged = true ∧ e.g.trap.masked = false ∧
        e.x.reg64 CtxReg.trapVec ≠ 0 ∧ e.isDet = false ∧ e.g.park = none ∧ (object p.1 p.2).barGet e.t.tid 3568 = p.1 ∧ e.g.regs.getK 6 = p.2) ∧
        BelowC (object p.1 p.2) e (e.g.regs.getK2 4).toNat 16 3568 ∧ (e.g.regs.getK2 4).toNat % 16 = 0))) = some true := by decide +kernel
  intro p hp
  obtain ⟨e, he, h⟩ := meets (key p hp)
  exact ⟨e, he, h.1.1, h.1.2.1, h.1.2.2.1, h.1.2.2.2.1, h.1.2.2.2.2.1, h.1.2.2.2.2.2.1, h.1.2.2.2.2.2.2.1, h.1.2.2.2.2.2.2.2, belowOf h.2.1, h.2.2⟩

/-- A copy in the engines for group 0. -/
def aJob : Job :=
  { id := 0, ctx := 0, tid := 0, serial := 0, team := 0, gid := 0, spur := 0, ticket := 0, ctl := 0, src := .run (.glob 0x10000),
    dst := .teams [0] 0, size := 128, role := 0, priv := false, issued := 0, started := false, staged := false, items := [0], held := [],
    failed := false, cancel := false, released := false, refused := 0, snap := [], tags := [], replies := [], column := 0, seq := 0, zeroed := [], landed := [], got := [] }

/-- A cluster of two teams, each of one group; the second's group has arrived n times at CSYNC. -/
def clustered (n : Nat) : State :=
  let s := (issued 0xFFFFFFFF 0).setGrid { oneGrid 0 with bytes := oneRecord.take 58 ++ [0, 0, 0, 1, 0, 0] }
  { s with teams := s.teams ++ [Team.start 1 0 0 1 0 0 0 0], groups := s.groups ++ [{ Group.start 32 0x10000 with csync := n }] }

theorem met_SyncsAndFences :
    (∃ e, (withMate (issued 0xFFFFFFFF 0) (fun g => { g with tsync := 1 })).env? = some e ∧ e.g.regs.getQ 0 = true ∧ e.isChosen = true ∧ e.g.ended = false ∧
      e.g.inSync ≠ some (e.c.pc, false) ∧ e.t.st ≠ .yielding ∧ Rec.clsize e.gr.bytes = 1 ∧
      ∀ k ∈ (withMate (issued 0xFFFFFFFF 0) (fun g => { g with tsync := 1 })).groups,
        k.gid / 32 = e.t.tid ∧ k.ended = false ∧ k.gid ≠ e.g.gid → e.g.tsync + 1 ≤ k.tsync) ∧
    (∃ e, (withMate (issued 0xFFFFFFFF 0) id).env? = some e ∧ e.g.regs.getQ 0 = true ∧ e.isChosen = true ∧ e.g.ended = false ∧
      e.g.inSync ≠ some (e.c.pc, false) ∧ e.t.st ≠ .yielding ∧ e.t.tsyncGen ≤ e.g.tsync ∧
      ∃ k ∈ (withMate (issued 0xFFFFFFFF 0) id).groups, (k.gid / 32 = e.t.tid ∧ k.ended = false ∧ k.gid ≠ e.g.gid) ∧ k.tsync ≤ e.g.tsync) ∧
    (∀ n ∈ [0, 1], ∃ e, (clustered n).env? = some e ∧ e.g.regs.getQ 0 = true ∧ e.isChosen = true ∧ e.g.ended = false ∧ e.g.inSync ≠ some (e.c.pc, true) ∧
      e.t.st ≠ .yielding ∧ Rec.clsize e.gr.bytes ≠ 1 ∧ (getT e.gr.csyncs (e.t.idx / Rec.clsize e.gr.bytes)).getD 0 ≤ e.g.csync ∧
      ∃ k ∈ (clustered n).groups, (k.gid ≠ e.g.gid ∧ k.ended = false ∧ ∃ u ∈ (clustered n).teams, u.tid = k.gid / 32 ∧ u.ctx = e.t.ctx ∧
        u.serial = e.t.serial ∧ u.idx / Rec.clsize e.gr.bytes = e.t.idx / Rec.clsize e.gr.bytes) ∧
        (if n = 0 then k.csync ≤ e.g.csync else e.g.csync + 1 ≤ k.csync)) ∧
    (∃ e, (issued 1 0).env? = some e ∧ e.g.regs.getQ 1 = false ∧ e.g.regs.getQ 0 = true ∧ engineBusy (issued 1 0) e.g.gid = false) ∧
    (∃ e, ({ issued 1 0 with jobs := [aJob] }).env? = some e ∧ engineBusy { issued 1 0 with jobs := [aJob] } e.g.gid = true) := by
  refine ⟨meets (by decide +kernel), meets (by decide +kernel), ?_, meets (by decide +kernel), meets (by decide +kernel)⟩
  intro n hn
  simp only [List.mem_cons, List.not_mem_nil, or_false] at hn
  rcases hn with rfl | rfl
  · exact meets (by decide +kernel)
  · exact meets (by decide +kernel)

theorem met_Buffers :
    (∃ e, (issued 1 0).env? = some e ∧ e.g.regs.getQ 0 = true ∧ (issued 1 0).scratchSize e.t = 0) ∧
    (∀ c ∈ [((0 : Byte), (0 : Byte)), (2, 0), (3, 0), (0, 0x10)], ∃ e, (withBytes (withK (inScratch 0 c.2) [(3, 63)]) 4088 [c.1]).env? = some e ∧
      e.g.regs.getQ 0 = true ∧ (withBytes (withK (inScratch 0 c.2) [(3, 63)]) 4088 [c.1]).scratchSize e.t ≠ 0 ∧
      leNat (readB e.t.scratch ((withBytes (withK (inScratch 0 c.2) [(3, 63)]) 4088 [c.1]).scratchSize e.t - 512 + 8 * ((e.g.regs.getK 3).toNat % 64)) 8) % 4 =
        c.1.toNat ∧ e.isDet = (c.2 == 0x10)) :=
  ⟨meets (by decide +kernel), meetsAll (α := Byte × Byte) (S := fun c => withBytes (withK (inScratch 0 c.2) [(3, 63)]) 4088 [c.1]) (P := fun c e =>
      e.g.regs.getQ 0 = true ∧ (withBytes (withK (inScratch 0 c.2) [(3, 63)]) 4088 [c.1]).scratchSize e.t ≠ 0 ∧
      leNat (readB e.t.scratch ((withBytes (withK (inScratch 0 c.2) [(3, 63)]) 4088 [c.1]).scratchSize e.t - 512 + 8 * ((e.g.regs.getK 3).toNat % 64)) 8) % 4 =
        c.1.toNat ∧ e.isDet = (c.2 == 0x10)) (by decide +kernel)⟩

/-- A shape of 8 by 4 elements of 4 bytes at 0x10000 (R125). -/
def aShape : List Byte :=
  leBytes 8 0x10000 ++ [2, 2, 0, 0, 0, 0, 0, 0] ++ leBytes 4 8 ++ leBytes 4 4 ++ leBytes 4 1 ++ leBytes 4 1 ++ leBytes 8 32 ++
    List.replicate 16 0 ++ leBytes 2 8 ++ leBytes 2 1 ++ leBytes 2 1 ++ leBytes 2 1

/-- A context whose shape slot 1 holds that shape under generation 1; its handle is 0x1001. -/
def withShape (s : State) : State := s.modCtx 0 (fun x => { x with shapes := [(1, ⟨1, true, aShape⟩)] })

/-- A copy whose operands are in k4 to k7 and k10, its control word in k8. -/
def copying (k : List (Nat × Word)) : State := withShape (withK (withRec (issued 1 0) 1 0 0 0) k)

/-- Everything that a copy's statement asks, as one condition. -/
def copyReady (s : State) (d : KReg) (plan : State → Env → Except Stop Plan) : Bool :=
  match s.env? with
  | none => false
  | some e =>
    match plan s e with
    | .error _ => false
    | .ok p =>
      match p.check s e (e.g.regs.getK d.val), p.takeIn s e (e.g.regs.getK d.val), freeSlot e with
      | .ok _, .ok (p1, _), some _ => e.g.regs.getQ 0 && !badCtl (e.g.regs.getK d.val) && !p1.held e && trackerRoom s e.t.column &&
          s.jobs.all (fun j => decide (j.id ≠ s.nextJob)) && decide (itemCount p1.dst p1.size ≠ 0)
      | _, _, _ => false

theorem copyMeets {s : State} {d : KReg} {plan : State → Env → Except Stop Plan} (h : copyReady s d plan = true) :
    ∃ e p p1 refused slot, s.env? = some e ∧ e.g.regs.getQ 0 = true ∧ badCtl (e.g.regs.getK d.val) = false ∧ plan s e = .ok p ∧
      p.check s e (e.g.regs.getK d.val) = .ok () ∧ p.takeIn s e (e.g.regs.getK d.val) = .ok (p1, refused) ∧ p1.held e = false ∧
      freeSlot e = some slot ∧ trackerRoom s e.t.column = true ∧ (∀ j ∈ s.jobs, j.id ≠ s.nextJob) ∧ itemCount p1.dst p1.size ≠ 0 := by
  unfold copyReady at h
  split at h
  · exact absurd h (by decide)
  · rename_i e he
    split at h
    · exact absurd h (by decide)
    · rename_i p hp
      split at h
      · rename_i p1 r slot hc ha hf
        simp only [Bool.and_eq_true, Bool.not_eq_true', List.all_eq_true, decide_eq_true_eq] at h
        exact ⟨e, p, p1, r, slot, he, h.1.1.1.1.1, h.1.1.1.1.2, hp, hc, ha, h.1.1.1.2, hf, h.1.1.2, h.1.2, h.2⟩
      · exact absurd h (by decide)

/-- A team whose copy slot 0 holds a copy of SEQ 0. -/
def ticketed (busy : Bool) : State := (withRec (issued 1 0) 1 0 0 0).modTeam 0 (fun t => { t with
  copies := [(0, ⟨0, busy, false, 1, some ⟨.run (.glob 0x10000), 0, 32, 0⟩⟩)] })

/-- A group whose wait at CPWAIT an event of a copy has ended. -/
def copyCame (busy : Bool) : State := (ticketed busy).modGroup 0 (fun g => { g with due := some (.copy ⟨0, busy, true, 1, none⟩) })

theorem met_Copies :
    copyReady (copying (own 0 ++ [(6, 0x10000), (7, 0), (10, 32)])) 8 (fun s e => runPlan s 4 10 .scratch .global e) = true ∧
    copyReady (copying ([(4, 0x18000), (5, 0), (6, 0x3C0000), (7, 0xFE000000), (10, 32)])) 8 (fun s e => runPlan s 4 10 .global .scratch e) = true ∧
    copyReady (copying ([(4, 0x18000), (5, 0), (6, 0x10000), (7, 0), (10, 0x1000000)])) 8 (fun s e => runPlan s 4 10 .either .either e) = true ∧
    copyReady (copying (own 0 ++ [(6, 0), (7, 0), (10, 0x1001)])) 8 (fun s e => boxPlan s 4 10 e) = true ∧
    copyReady (copying (own 0 ++ [(6, 0), (7, 1), (10, 0x1001)])) 8 (fun s e => rowsPlan s 4 10 e) = true ∧
    copyReady (copying ([(4, 0), (5, 1), (6, 0x10000), (7, 0), (10, 32)])) 8 (fun s e => mcPlan s 4 10 e) = true ∧
    (∃ e, (issued 1 0).env? = some e ∧ e.g.regs.getQ 0 = true ∧ getT e.t.copies ((e.g.regs.getK 3).toNat % 256) = none) ∧
    (∀ busy ∈ [false, true], ∃ e, (ticketed busy).env? = some e ∧ e.g.regs.getQ 0 = true ∧ e.isDet = false ∧
      ∃ k, getT e.t.copies ((e.g.regs.getK 3).toNat % 256) = some k ∧ k.seq.toNat = (e.g.regs.getK 3).toNat / 256 % 65536 ∧ k.busy = busy) ∧
    (∃ e p p1 refused free, (ticketed false).env? = some e ∧
      multiPlan (ticketed false) e 0 32 ((List.range 12).filter (fun i => (1 : BitVec 12).getLsbD i)) (.run (.glob 0x10000)) = .ok p ∧
      p.check (ticketed false) e 0 = .ok () ∧ p.takeIn (ticketed false) e 0 = .ok (p1, refused) ∧ freeSlot e = some free ∧
      trackerRoom (ticketed false) e.t.column = true ∧ itemCount p1.dst p1.size ≠ 0) ∧
    (∀ busy ∈ [false, true], ∃ e, (copyCame busy).env? = some e ∧ ∃ k, e.g.due = some (.copy k) ∧ k.busy = busy) ∧
    (∃ e, (withK (issued 1 0) [(3, 1)]).env? = some e ∧ (e.g.regs.getK 3).toNat % 2 ^ 23 ≠ 0) ∧
    (∃ e, (withRec (issued 1 0) 1 0 0 0x10).env? = some e ∧ e.isDet = true) := by
  refine ⟨by decide +kernel, by decide +kernel, by decide +kernel, by decide +kernel, by decide +kernel, by decide +kernel,
    meets (by decide +kernel), ?_, ?_, ?_, meets (by decide +kernel), meets (by decide +kernel)⟩
  · have key : ∀ busy ∈ [false, true], ((ticketed busy).env?.map (fun e => decide ((e.g.regs.getQ 0 = true ∧ e.isDet = false) ∧
        getT e.t.copies ((e.g.regs.getK 3).toNat % 256) = some ⟨0, busy, false, 1, some ⟨.run (.glob 0x10000), 0, 32, 0⟩⟩ ∧
        0 = (e.g.regs.getK 3).toNat / 256 % 65536))) = some true := by decide +kernel
    intro busy hb
    obtain ⟨e, he, h⟩ := meets (key busy hb)
    exact ⟨e, he, h.1.1, h.1.2, _, h.2.1, h.2.2, rfl⟩
  · have key : (match (ticketed false).env? with
        | none => false
        | some e => copyReady (ticketed false) 0
            (fun s e => multiPlan s e 0 32 ((List.range 12).filter (fun i => (1 : BitVec 12).getLsbD i)) (.run (.glob 0x10000))) &&
            decide (e.g.regs.getK 0 = 0)) = true := by decide +kernel
    split at key
    · exact absurd key (by decide)
    · simp only [Bool.and_eq_true, decide_eq_true_eq] at key
      obtain ⟨e, p, p1, r, f, he, _, _, hp, hc, ha, _, hf, ht, _, hi⟩ := copyMeets key.1
      have h0 : e.g.regs.getK (0 : KReg).val = 0 := rfl
      rw [h0] at hc ha
      exact ⟨e, p, p1, r, f, he, hp, hc, ha, hf, ht, hi⟩
  · have key : ∀ busy ∈ [false, true], ((copyCame busy).env?.map (fun e => decide (e.g.due = some (.copy ⟨0, busy, true, 1, none⟩)))) = some true := by
      decide +kernel
    intro busy hb
    obtain ⟨e, he, h⟩ := meets (key busy hb)
    exact ⟨e, he, _, h, rfl⟩

/-- A shape record (or zeros) at 0x10040, a table of n slots. -/
def shaping (bs : List Byte) (n : Word) (k : Tbl ShapeSlot) : State :=
  let s := withK (issued 1 0) [(4, 0x10040), (5, 0), (3, 0x1001)]
  { s.modCtx 0 (fun x => { x.setReg CtxReg.shapeSlots n with shapes := k }) with mem := writeB s.mem 0x10040 bs }

/-- What SHNEW asks of a state and its group, of the state that the translation leaves, and of the record there. -/
abbrev Shapes (s : State) (n : Word) (k : Tbl ShapeSlot) (ok : Bool) : Prop :=
  ∃ e s1 lf, s.env? = some e ∧ Begins s e ∧ OnThisChip s s1 e .read [0] (fun _ => (e.g.regs.getK2 4).toNat) 64 (fun _ => 0x10040) (fun _ => lf) ∧
    localErr s1 (isLost s1) 0x10040 64 = none ∧ shapeOk (seenBytes (s1.loadsMeet e [⟨(e.g.regs.getK2 4).toNat, 64, .loc 0x10040, lf⟩]) e (e.g.regs.getK2 4).toNat 0x10040 64) = ok ∧
    (e.g.regs.getK2 4).toNat % 64 = 0 ∧ e.isDet = false ∧ e.isUnlogged = true ∧ e.x.shapes = k ∧ (e.x.reg CtxReg.shapeSlots) = n

/-- What its cases share. -/
theorem met_shaping (bs : List Byte) (n : Word) (k : Tbl ShapeSlot) (ok : Bool)
    (key : ((shaping bs n k).env?.map (fun e => decide ((BeginsC (shaping bs n k) e ∧ (e.g.regs.getK2 4).toNat % 64 = 0 ∧ e.isDet = false ∧
      e.isUnlogged = true ∧ e.x.shapes = k ∧ (e.x.reg CtxReg.shapeSlots) = n) ∧
      ChipC (shaping bs n k) e .read [0] (fun _ => (e.g.regs.getK2 4).toNat) 64 (fun _ => 0x10040) (fun s1 lf => readable 64 0x10040 s1 lf &&
        decide (shapeOk (seenBytes (s1.loadsMeet e [⟨(e.g.regs.getK2 4).toNat, 64, .loc 0x10040, lf⟩]) e (e.g.regs.getK2 4).toNat 0x10040 64) = ok))))) = some true) :
    Shapes (shaping bs n k) n k ok := by
  obtain ⟨e, he, h⟩ := meets key
  obtain ⟨s1, lf, h1, h2⟩ := chipOf h.2
  simp only [Bool.and_eq_true, decide_eq_true_eq] at h2
  exact ⟨e, s1, lf, he, ⟨h.1.1.1, h.1.1.2⟩, h1, of_decide_eq_true h2.1, h2.2, h.1.2⟩

/-- A record that is refused, a free slot 1 of two, no free slot, a current handle, and a handle of a slot that was never used. -/
theorem met_Shapes :
    Shapes (shaping [] 2 []) 2 [] false ∧ Shapes (shaping aShape 2 []) 2 [] true ∧
    Shapes (shaping aShape 2 [(1, ⟨1, true, aShape⟩)]) 2 [(1, ⟨1, true, aShape⟩)] true ∧
    (∃ e, (shaping [] 2 [(1, ⟨1, true, []⟩)]).env? = some e ∧ e.g.regs.getQ 0 = true ∧
      ∃ k, getT e.x.shapes ((e.g.regs.getK 3).toNat / 4096) = some k ∧ k.alloc = true ∧ (e.g.regs.getK 3).toNat % 4096 ≠ 0 ∧
        k.gen.toNat = (e.g.regs.getK 3).toNat % 4096) ∧
    (∃ e, (shaping [] 2 []).env? = some e ∧ getT e.x.shapes ((e.g.regs.getK 3).toNat / 4096) = none) := by
  refine ⟨met_shaping _ _ _ _ (by decide +kernel), met_shaping _ _ _ _ (by decide +kernel), met_shaping _ _ _ _ (by decide +kernel), ?_,
    meets (by decide +kernel)⟩
  obtain ⟨e, he, h⟩ := meets (s := shaping [] 2 [(1, ⟨1, true, []⟩)]) (P := fun e => e.g.regs.getQ 0 = true ∧
    getT e.x.shapes ((e.g.regs.getK 3).toNat / 4096) = some ⟨1, true, []⟩ ∧ (e.g.regs.getK 3).toNat % 4096 = 1) (by decide +kernel)
  exact ⟨e, he, h.1, _, h.2.1, rfl, by rw [h.2.2]; decide, by rw [h.2.2]; rfl⟩

/-- A stack with one flank page in a state. -/
def withPage (s : State) (q : Nat) (v : Promoted) : State :=
  { s with hbm := s.hbm.modify 0 (fun k => { k with pages := [(q, v)] }) }

/-- A context that may promote n pages. -/
def withQuota (s : State) (n : Word) : State := s.modCtx 0 (fun x => x.setReg CtxReg.promoQuota n)

/-- A stack with WIN 7 whose bank 1 holds n pages, in the rows from 7168 on. -/
def bankOfPages (n : Nat) : Stack :=
  { Stack.init with win := 7, pages := (List.range n).map (fun i => (16 * (i + 1) + 1, ⟨.clean, false, none, 7168 + i, i⟩)) }

theorem bankOfPages_inBank (n : Nat) : (bankOfPages n).inBank 1 = (bankOfPages n).pages := by
  unfold Stack.inBank
  refine List.filter_eq_self.mpr (fun p hp => ?_)
  obtain ⟨i, _, rfl⟩ := List.mem_map.mp hp
  have hb : (bankOfPages n).bankOf (16 * (i + 1) + 1) = ((List.range 16).filter (fun b => Stack.init.live.getLsbD b)).getD
      ((16 * (i + 1) + 1) % popCount Stack.init.live) 0 := rfl
  have h16 : popCount Stack.init.live = 16 := by decide
  have h1 : (16 * (i + 1) + 1) % 16 = 1 := by omega
  simp only [hb, h16, h1]; decide

/-- With 1,024 pages a promotion finds no free row there, and a victim. -/
theorem bankOfPages_full (n : Nat) (hn : n = 1024) : (bankOfPages n).freeRow 1 = none ∧ ∃ x v, (bankOfPages n).victim 1 false = some (x, v) := by
  constructor
  · unfold Stack.freeRow
    rw [bankOfPages_inBank]
    have hw : (bankOfPages n).win.toNat = 7 := rfl
    simp only [List.find?_eq_none, List.mem_map, List.mem_range, hw, Bool.and_eq_true, decide_eq_true_eq, Bool.not_eq_true']
    rintro r ⟨i, _, rfl⟩ ⟨h1, h2⟩
    have : ((bankOfPages n).pages.map (·.2.row)).contains (1024 * 7 + i) = true := by
      rw [List.contains_iff_mem]
      exact List.mem_map.mpr ⟨(16 * (i + 1) + 1, ⟨.clean, false, none, 7168 + i, i⟩),
        List.mem_map.mpr ⟨i, List.mem_range.mpr (by omega), rfl⟩, by show 7168 + i = 1024 * 7 + i; omega⟩
    rw [this] at h2; exact absurd h2 (by decide)
  · unfold Stack.victim
    rw [bankOfPages_inBank]
    split
    · rename_i h
      have hm : ((17 : Nat), (⟨.clean, false, none, 7168, 0⟩ : Promoted)) ∈
          (bankOfPages n).pages.filter (fun p => p.2.isSettled && (!false || decide (p.2.rank < 2))) :=
        List.mem_filter.mpr ⟨List.mem_map.mpr ⟨0, List.mem_range.mpr (by omega), rfl⟩, by decide⟩
      rw [h] at hm; exact absurd hm (by simp)
    · exact ⟨_, _, rfl⟩

theorem met_HotRows :
    (∃ e, (withK (issued 1 0) [(4, 0xFFFF0000), (5, 0x1FFFFFF)]).env? = some e ∧ e.g.regs.getQ 0 = true ∧
      2 ^ 57 < (e.g.regs.getK2 4).toNat / 65536 * 65536 + 65536 * ((1 : BitVec 6).toNat + 1)) ∧
    (∃ e, (inWindow 0x10000 0).env? = some e ∧ e.g.regs.getQ 0 = true ∧ e.isDet = false ∧ e.isUnlogged = true ∧
      (∃ s1 lf, OnThisChip (inWindow 0x10000 0) s1 e .read (List.range 1) (fun i => (e.g.regs.getK2 4).toNat / 65536 * 65536 + 65536 * i) 65536 (fun _ => 0x10000) (fun _ => lf) ∧
        localExists s1 0x10000 = true ∧ stackFailed s1 0x10000 = false) ∧
      ∃ s1 lf, OnThisChip (inWindow 0x10000 0) s1 e .read [0] (fun _ => (e.g.regs.getK2 4).toNat) 1 (fun _ => 0x10000) (fun _ => lf) ∧
        localExists s1 0x10000 = true ∧ stackFailed s1 0x10000 = false) ∧
    (∃ k : Stack, (issued 1 0).hbm[paStack 0x10000]? = some k) ∧ (∃ p, p < 2 ^ 41 ∧ paClass p = true) ∧ paClass 0x10000 = false ∧
    (let s := withQuota (issued 1 0) 1
     ∃ k r, s.hbm[paStack 0x10000]? = some k ∧ getT k.pages (paPage 0x10000) = none ∧ k.isRemapping = false ∧ k.win.toNat < 8 ∧
       hasQuota s 0 = true ∧ k.freeRow (k.bankOf (paPage 0x10000)) = some r) ∧
    hasQuota (withQuota (issued 1 0) 0) 0 = false ∧
    (∀ n, n = 1024 → (bankOfPages n).isRemapping = false ∧ (bankOfPages n).win.toNat < 8 ∧ (bankOfPages n).bankOf (paPage 0x10000) = 1 ∧
      (bankOfPages n).freeRow 1 = none ∧ ∃ x v, (bankOfPages n).victim 1 false = some (x, v)) ∧
    (∀ v ∈ [(⟨.clean, true, some 0, 0, 0⟩ : Promoted), ⟨.promoting, false, none, 0, 0⟩, ⟨.dirty, false, none, 0, 0⟩, ⟨.writingBack, false, none, 0, 0⟩],
      ∀ n ∈ [(0 : Word), 2], ∃ k, (withPage (withQuota (issued 1 0) n) (paPage 0x10000) v).hbm[paStack 0x10000]? = some k ∧
        getT k.pages (paPage 0x10000) = some v) := by
  refine ⟨meets (by decide +kernel), ?_, ⟨Stack.init, by decide +kernel⟩, ⟨2 ^ 40, by decide, by decide⟩, by decide, ?_, by decide +kernel,
    fun n hn => ⟨rfl, by show 7 < 8; decide, by show (Stack.init).bankOf (paPage 0x10000) = 1; decide +kernel, bankOfPages_full n hn⟩, ?_⟩
  · obtain ⟨e, he, h⟩ := meets (s := inWindow 0x10000 0) (P := fun e => (e.g.regs.getQ 0 = true ∧ e.isDet = false ∧ e.isUnlogged = true) ∧
      ChipC (inWindow 0x10000 0) e .read (List.range 1) (fun i => (e.g.regs.getK2 4).toNat / 65536 * 65536 + 65536 * i) 65536 (fun _ => 0x10000)
        (fun s1 _ => decide (localExists s1 0x10000 = true ∧ stackFailed s1 0x10000 = false)) ∧
      ChipC (inWindow 0x10000 0) e .read [0] (fun _ => (e.g.regs.getK2 4).toNat) 1 (fun _ => 0x10000)
        (fun s1 _ => decide (localExists s1 0x10000 = true ∧ stackFailed s1 0x10000 = false))) (by decide +kernel)
    obtain ⟨s1, lf, h1, h2⟩ := chipOf h.2.1
    obtain ⟨s2, lf2, h3, h4⟩ := chipOf h.2.2
    simp only [decide_eq_true_eq] at h2 h4
    exact ⟨e, he, h.1.1, h.1.2.1, h.1.2.2, ⟨s1, lf, h1, h2⟩, s2, lf2, h3, h4⟩
  · exact ⟨Stack.init, 0, by decide +kernel, rfl, rfl, by decide, by decide +kernel, by decide +kernel⟩
  · intro v hv n hn
    refine ⟨{ Stack.init with pages := [(paPage 0x10000, v)] }, ?_, by simp [getT]⟩
    simp only [List.mem_cons, List.not_mem_nil, or_false] at hv hn
    rcases hv with rfl | rfl | rfl | rfl <;> rcases hn with rfl | rfl <;> decide +kernel

/-- Group 1 of the team has an operation of the matrix engine under way that keeps something. -/
def withHolds (s : State) (k : Holds) : State := withMate s (fun g => { g with
  park := some ⟨.reply ⟨⟨1, 0x10000, 1, 0, 0, 4, false⟩, [], [], [], 0, 0, 0, 0, false, k⟩, 0⟩ })

/-- A team with a multiply in the array that holds slot 0. -/
def multiplying (s : State) : State := s.modTeam 0 (fun t => { t with array := [⟨0, [0], [], none, none⟩] })

theorem met_Tiles :
    (∃ e, (inScratch 0 0).env? = some e ∧ e.g.regs.getQ 0 = true ∧ e.slots = 4 ∧ e.t.array = [] ∧ e.taking 0 ≠ 0 ∧ e.taking 1 = 0 ∧ e.g.regs.getQ 1 = false) ∧
    (∃ e, (multiplying (inScratch 0 0)).env? = some e ∧ e.slots = 4 ∧ ∃ o ∈ e.t.array, ∃ x ∈ o.slots, 0 ≤ x ∧ x < 0 + 1) ∧
    (∃ e, (withHolds (inScratch 0 0) ⟨[2], none, [], false⟩).env? = some e ∧ e.flight? = none ∧
      ∃ x ∈ (holdsOf (withHolds (inScratch 0 0) ⟨[2], none, [], false⟩) e.t.tid e.g.gid).flatMap (·.slots), 2 ≤ x ∧ x < 2 + 1) ∧
    (∃ e, (withK (withRec (issued 3 0) 1 4 1 0) (own 0)).env? = some e ∧ Begins (withK (withRec (issued 3 0) 1 4 1 0) (own 0)) e ∧
      InOwnScratch (withK (withRec (issued 3 0) 1 4 1 0) (own 0)) e (e.g.regs.getK2 4 + (e.g.regs.getK 0).signExtend 64).toNat 4096 0) ∧
    (∃ e, (withK (withRec (issued 3 0) 2 4 1 0) (own 3584)).env? = some e ∧
      BelowTable (withK (withRec (issued 3 0) 2 4 1 0) (own 3584)) e (e.g.regs.getK2 4 + (e.g.regs.getK 0).signExtend 64).toNat 4096 3584) ∧
    (∃ e, (withK (withRec (issued 3 0) 1 4 1 0) [(4, 0), (5, 0xFF000000)]).env? = some e ∧
      0xFF00000000000000 ≤ (e.g.regs.getK2 4 + (e.g.regs.getK 0).signExtend 64).toNat) ∧
    (∃ e, (withK (withRec (issued 3 0) 1 4 1 0) [(4, 0x10040), (5, 0)]).env? = some e ∧
      (e.g.regs.getK2 4 + (e.g.regs.getK 0).signExtend 64).toNat < 2 ^ 57 ∧ (e.g.regs.getK2 4 + (e.g.regs.getK 0).signExtend 64).toNat % 128 ≠ 0) := by
  refine ⟨meets (by decide +kernel), meets (by decide +kernel), meets (by decide +kernel), ?_, ?_, meets (by decide +kernel), meets (by decide +kernel)⟩
  · obtain ⟨e, he, h⟩ := meets (s := withK (withRec (issued 3 0) 1 4 1 0) (own 0)) (P := fun e =>
      (e.g.regs.getK2 4 + (e.g.regs.getK 0).signExtend 64).toNat = 0xFE00000000000000 + 15 * 2 ^ 18 + 0 ∧
      0 + 4096 ≤ (withK (withRec (issued 3 0) 1 4 1 0) (own 0)).scratchSize e.t ∧ e.t.absent = [] ∧ e.t.st ≠ .migrating ∧
      BeginsC (withK (withRec (issued 3 0) 1 4 1 0) (own 0)) e) (by decide +kernel)
    exact ⟨e, he, ⟨h.2.2.2.2.1, h.2.2.2.2.2⟩, ⟨h.1, by decide, h.2.1, fun i _ => by rw [h.2.2.1]; rfl, h.2.2.2.1⟩⟩
  · obtain ⟨e, he, h⟩ := meets (s := withK (withRec (issued 3 0) 2 4 1 0) (own 3584)) (P := fun e =>
      (e.g.regs.getK2 4 + (e.g.regs.getK 0).signExtend 64).toNat = 0xFE00000000000000 + 15 * 2 ^ 18 + 3584 ∧
      3584 + 4096 + 512 ≤ (withK (withRec (issued 3 0) 2 4 1 0) (own 3584)).scratchSize e.t ∧ e.t.absent = [] ∧ e.t.st ≠ .migrating) (by decide +kernel)
    exact ⟨e, he, ⟨⟨h.1, by decide, by omega, fun i _ => by rw [h.2.2.1]; rfl, h.2.2.2⟩, h.2.1⟩⟩

/-- A layout of one FP16 tile. -/
def aLayout : Layout := ⟨0, 2048, 3, 0, 1, 0, 0⟩

/-- The same at 0x10000. -/
def bLayout : Layout := ⟨0x10000, 2048, 3, 0, 1, 0, 0⟩

/-- A multiply's operands in k4 to k7: FA FP16 with M, N and K, a reservation 0 and a residency in slot 1. -/
def mmaSt (k4 : Word) (m n : Nat) (l : Layout) (fa : Nat) (st : BitVec 2) : State :=
  let s := withK (withRec (issued 3 0) 1 4 1 0) [(4, k4), (5, 0), (6, BitVec.ofNat 32 (fa * 2 ^ 27 + m * 2 ^ 18 + n * 2 ^ 12)), (7, 0)]
  (s.modTeam 0 (fun t => { t with resv := [(0, l)] })).modCtx 0 (fun x => { x.setReg CtxReg.bedrockQuota 4 with
    resid := [(1, ⟨1, st, false, false, { l with base := 0x10000 }, []⟩)], shapes := [(1, ⟨1, true, aShape⟩)] })

/-- MmaFits as a decidable condition. -/
abbrev FitsC (e : Env) (x : Mma) (z : MmaCtl) : Prop :=
  z.fa < 28 ∧ z.low = 0 ∧ z.m ≤ 32 ∧ z.n ≤ 32 ∧ (z.k = 0 ∨ z.k = classK z.fa) ∧ (z.ablk = true → isMx z.fa = true) ∧
  x.tile + (if x.f64 then 2 else 1) ≤ Rec.acc e.gr.bytes ∧ (isQ z.fa = false → x.va.val + (spanA z.fa z.ablk).1 + (spanA z.fa z.ablk).2 ≤ 96)

theorem fitsOf {e : Env} {x : Mma} {z : MmaCtl} (h : FitsC e x z) : MmaFits e x z :=
  ⟨h.1, h.2.1, h.2.2.1, h.2.2.2.1, h.2.2.2.2.1, h.2.2.2.2.2.1, h.2.2.2.2.2.2.1, h.2.2.2.2.2.2.2⟩

/-- The shape case of MMAG as one condition. -/
def mmagReady (s : State) : Bool :=
  match s.env? with
  | none => false
  | some e =>
    match shapeOf e.x (e.g.regs.getK 4), getT e.t.resv 0 with
    | some sh0, some l =>
      let sh := mmagShape sh0 l.format
      let o := mmagOrigin sh0 (e.g.regs.getK 5)
      match shapeBase s e sh (((boxBounds sh o.1 o.2 0 0).getD (0, 0)).2) with
      | .ok base =>
        let src : JobSrc := .box base sh o.1 o.2 0 0
        let rs := fetchRuns (lowLane e.c.mask) (src.runs 0 (tileBytes l.format))
        match xlateEach s e .read (rs.filterMap (·.1)) with
        | .ok (s1, ls) => decide (shapeField sh 0 8 < 2 ^ 57 ∧ e.flight? = none ∧ colStride l.format % shapeE sh0 = 0) &&
            !(shapeOob sh && rs.any (fun r => r.1.isNone)) && !fetchHeld s1 e src ((l.base, tileBytes l.format) :: tileRanges l 0) &&
            (match fetchPlaces (s1.landOf e.g.gid) e (weave rs ls) with
             | .ok _ => true
             | .error _ => false)
        | .error _ => false
      | .error _ => false
    | _, _ => false

/-- M and N at 32 and at 0, K given and 0; FP16 and FP64; a residency that is live, empty and stale; an instance at hand and none; the
shape of MMAG; handles and ids that name nothing. -/
theorem met_MatrixMultiplies :
    (∃ e, ({ issued 1 0 with grade := .shoulder }).env? = some e ∧ Grade.shoulder.hasFp64 = false) ∧ Grade.summit.hasFp64 = true ∧
    (∀ mn ∈ [(32, 32), (0, 32), (32, 0)], ∃ e, (mmaSt 0x1001 mn.1 mn.2 aLayout 3 2).env? = some e ∧ e.g.regs.getQ 0 = true ∧
      MmaFits e ⟨3, false, false, 16, 4, false⟩ (mmaCtl (e.g.regs.getK 6)) ∧ (mmaCtl (e.g.regs.getK 6)).m = mn.1 ∧ (mmaCtl (e.g.regs.getK 6)).n = mn.2 ∧
      e.slotsFree (mmaSt 0x1001 mn.1 mn.2 aLayout 3 2) ⟨3, false, false, 16, 4, false⟩ ∧ getT e.t.resv ((e.g.regs.getK 4).toNat % 16) = none ∧
      residOf e.x (e.g.regs.getK 4) = some ⟨1, 2, false, false, bLayout, []⟩ ∧ (e.g.regs.getK 5).toNat < aLayout.tiles) ∧
    (∀ mn ∈ [(32, 32), (0, 32)], ∃ e, (mmaSt 0 mn.1 mn.2 aLayout 3 2).env? = some e ∧ MmaFits e ⟨3, false, true, 80, 4, false⟩ (mmaCtl (e.g.regs.getK 6)) ∧
      getT e.t.resv ((e.g.regs.getK 4).toNat % 16) = some aLayout ∧ stillDue (mmaSt 0 mn.1 mn.2 aLayout 3 2) e.t.tid e.g.gid (tileRanges aLayout 0) = false ∧
      residOf e.x (e.g.regs.getK 4) = none) ∧
    (∃ e, (mmaSt 0 32 32 ⟨0, 2048, 0, 0, 1, 0, 0⟩ 0 2).env? = some e ∧ MmaFits e ⟨2, true, false, 0, 4, true⟩ (mmaCtl (e.g.regs.getK 6)) ∧
      pairFits true (mmaCtl (e.g.regs.getK 6)).fa 0) ∧
    pairFits false 3 3 ∧
    (∃ e, ({ mmaSt 0x1001 32 32 aLayout 3 2 with insts := [⟨0, 0, 1, false, [], 0, 0, none, [], 1, [], false⟩] }).env? = some e ∧
      ({ mmaSt 0x1001 32 32 aLayout 3 2 with insts := [⟨0, 0, 1, false, [], 0, 0, none, [], 1, [], false⟩] }).inst? (4 * e.t.column + e.t.layer) e.t.ctx 1 =
        some ⟨0, 0, 1, false, [], 0, 0, none, [], 1, [], false⟩) ∧
    (∃ e s1, (mmaSt 0x1001 32 32 aLayout 3 2).env? = some e ∧ (mmaSt 0x1001 32 32 aLayout 3 2).inst? (4 * e.t.column + e.t.layer) e.t.ctx 1 = none ∧
      startLoad (mmaSt 0x1001 32 32 aLayout 3 2) e (e.g.regs.getK 4) ⟨1, 2, false, false, bLayout, []⟩ = .ok s1) ∧
    (∀ st ∈ [(1 : BitVec 2), 3], ∃ e, (mmaSt 0x1001 32 32 aLayout 3 st).env? = some e ∧
      residOf e.x (e.g.regs.getK 4) = some ⟨1, st, false, false, bLayout, []⟩) ∧
    (∃ e, (mmaSt 0x2001 32 32 aLayout 3 2).env? = some e ∧ residOf e.x (e.g.regs.getK 4) = none ∧ shapeOf e.x (e.g.regs.getK 4) = none) ∧
    mmagReady (mmaSt 0x1001 32 32 aLayout 3 2) = true ∧
    (∃ u o, (multiplying (inScratch 0 0)).team? 0 = some u ∧ u.array = [o]) := by
  refine ⟨meets (by decide +kernel), rfl, ?_, ?_, ?_, by unfold pairFits; decide, meets (by decide +kernel), ?_, ?_, meets (by decide +kernel), by decide +kernel,
    ⟨_, ⟨0, [0], [], none, none⟩, rfl, rfl⟩⟩
  · have key := meetsAll (l := [(32, 32), (0, 32), (32, 0)]) (S := fun mn => mmaSt 0x1001 mn.1 mn.2 aLayout 3 2) (P := fun mn e => e.g.regs.getQ 0 = true ∧
        FitsC e ⟨3, false, false, 16, 4, false⟩ (mmaCtl (e.g.regs.getK 6)) ∧ (mmaCtl (e.g.regs.getK 6)).m = mn.1 ∧ (mmaCtl (e.g.regs.getK 6)).n = mn.2 ∧
        (e.t.array = [] ∧ holdsOf (mmaSt 0x1001 mn.1 mn.2 aLayout 3 2) e.t.tid e.g.gid = []) ∧ getT e.t.resv ((e.g.regs.getK 4).toNat % 16) = none ∧
        residOf e.x (e.g.regs.getK 4) = some ⟨1, 2, false, false, bLayout, []⟩ ∧ (e.g.regs.getK 5).toNat < aLayout.tiles) (by decide +kernel)
    intro mn hm
    obtain ⟨e, he, h⟩ := key mn hm
    exact ⟨e, he, h.1, fitsOf h.2.1, h.2.2.1, h.2.2.2.1, (by intro o ho; rw [h.2.2.2.2.1.1, h.2.2.2.2.1.2] at ho; cases ho), h.2.2.2.2.2⟩
  · have key := meetsAll (l := [(32, 32), (0, 32)]) (S := fun mn => mmaSt 0 mn.1 mn.2 aLayout 3 2) (P := fun mn e => FitsC e ⟨3, false, true, 80, 4, false⟩ (mmaCtl (e.g.regs.getK 6)) ∧ getT e.t.resv ((e.g.regs.getK 4).toNat % 16) = some aLayout ∧
        stillDue (mmaSt 0 mn.1 mn.2 aLayout 3 2) e.t.tid e.g.gid (tileRanges aLayout 0) = false ∧ residOf e.x (e.g.regs.getK 4) = none) (by decide +kernel)
    intro mn hm
    obtain ⟨e, he, h⟩ := key mn hm
    exact ⟨e, he, fitsOf h.1, h.2⟩
  · obtain ⟨e, he, h⟩ := meets (s := mmaSt 0 32 32 ⟨0, 2048, 0, 0, 1, 0, 0⟩ 0 2) (P := fun e =>
      FitsC e ⟨2, true, false, 0, 4, true⟩ (mmaCtl (e.g.regs.getK 6)) ∧ (mmaCtl (e.g.regs.getK 6)).fa = 0) (by decide +kernel)
    exact ⟨e, he, fitsOf h.1, by rw [h.2]; unfold pairFits; decide⟩
  · have key : (match (mmaSt 0x1001 32 32 aLayout 3 2).env? with
        | none => false
        | some e => (match startLoad (mmaSt 0x1001 32 32 aLayout 3 2) e (e.g.regs.getK 4) ⟨1, 2, false, false, bLayout, []⟩ with
          | .ok _ => ((mmaSt 0x1001 32 32 aLayout 3 2).inst? (4 * e.t.column + e.t.layer) e.t.ctx 1).isNone
          | .error _ => false)) = true := by decide +kernel
    split at key
    · exact absurd key (by decide)
    · rename_i e he
      split at key
      · rename_i s1 hs; exact ⟨e, s1, he, by simpa using key, hs⟩
      · exact absurd key (by decide)
  · have key := meetsAll (l := [(1 : BitVec 2), 3]) (S := fun st => mmaSt 0x1001 32 32 aLayout 3 st) (P := fun st e => residOf e.x (e.g.regs.getK 4) = some ⟨1, st, false, false, bLayout, []⟩) (by decide +kernel)
    exact fun st hs => key st hs

/-- A reservation record: base, length, format, tiles. -/
def resvBytes (base len : Nat) (f : Byte) (tiles : Nat) : List Byte :=
  leBytes 4 base ++ leBytes 4 len ++ [f, 0] ++ leBytes 2 tiles ++ List.replicate 20 0

/-- Its bytes at the last place of the own scratchpad, n reservations already taken. -/
def reserving (bs : List Byte) (n : Nat) : State :=
  (withBytes (withK (withRec (issued 1 0) 1 4 1 0) (own 4064 ++ [(3, 0)])) 4064 bs).modTeam 0 (fun t => { t with
    resv := (List.range n).map (fun i => (i, ⟨2048, 2048, 3, 0, 1, 0, 0⟩)) })

/-- The operands of an OBLD from 0x10000 into reservation 0: its offset and count. -/
def loading (ga ro n : Word) : State := mmaSt 0 0 0 aLayout 3 2 |> fun s => withK s [(4, ga), (5, 0), (6, ro), (7, n)]

theorem met_OperandBuffers :
    (∀ c ∈ [(resvBytes 0 2048 28 1, 0, true), (resvBytes 0 0 3 1, 0, false), (resvBytes 0 2048 3 1, 0, true), (resvBytes 0 2048 3 1, 1, true),
        (resvBytes 0 2048 3 1, 16, true)],
      ∃ e, (reserving c.1 c.2.1).env? = some e ∧ e.g.regs.getQ 0 = true ∧
        Begins (reserving c.1 c.2.1) e ∧ InOwnScratch (reserving c.1 c.2.1) e (e.g.regs.getK2 4).toNat 32 4064 ∧ readB e.t.scratch 4064 32 = c.1 ∧ e.t.resv.length = c.2.1 ∧
        resvOk e c.1 (resvRecord c.1) = c.2.2) ∧
    (resvRecord (resvBytes 0 2048 28 1)).format = 28 ∧ (resvRecord (resvBytes 0 2048 3 1)).format < 28 ∧
    (∃ e, (reserving [] 0).env? = some e ∧ getT e.t.resv ((e.g.regs.getK 3).toNat % 16) = none) ∧
    (∃ e, (reserving [] 1).env? = some e ∧ (∃ r, getT e.t.resv ((e.g.regs.getK 3).toNat % 16) = some r) ∧ (reserving [] 1).jobs = [] ∧ e.t.array = []) ∧
    (∃ e, ({ reserving [] 1 with jobs := [{ aJob with dst := .obuf 0 0 0 }] }).env? = some e ∧
      (∃ r, getT e.t.resv ((e.g.regs.getK 3).toNat % 16) = some r) ∧ ({ aJob with dst := .obuf 0 0 0 }).intoResv e.t.tid 0 = true) ∧
    (∃ e, (withHolds (reserving [] 1) ⟨[], some 0, [], true⟩).env? = some e ∧ (∃ r, getT e.t.resv ((e.g.regs.getK 3).toNat % 16) = some r) ∧
      (∃ k ∈ holdsOf (withHolds (reserving [] 1) ⟨[], some 0, [], true⟩) e.t.tid e.g.gid, k.resv = some ((e.g.regs.getK 3).toNat % 16)) ∧
      ∃ k ∈ holdsOf (withHolds (reserving [] 1) ⟨[], some 0, [], true⟩) e.t.tid e.g.gid, k.table = true) ∧
    (∃ e, (reserving [] 1).env? = some e ∧ holdsOf (reserving [] 1) e.t.tid e.g.gid = []) ∧
    (∀ c ∈ [((0x10000 : Word), (2016 : Word), (32 : Word)), (0x10010, 0, 32), (0x10000, 2048, 32), (0x10000, 0, 0), (0x10000, 8, 32)],
      ∃ e src, (loading c.1 c.2.1 c.2.2).env? = some e ∧ getT e.t.resv ((e.g.regs.getK 3).toNat % 16) = some aLayout ∧
        copyPlace (loading c.1 c.2.1 c.2.2) e .either (e.g.regs.getK2 4).toNat (e.g.regs.getK 7).toNat = .ok src ∧ e.g.regs.getK 6 = c.2.1) ∧
    (∀ c ∈ [(3584, 512), (4064, 32)], ∃ e, (inScratch c.1 0).env? = some e ∧ InOwnScratch (inScratch c.1 0) e (e.g.regs.getK2 4).toNat c.2 c.1) := by
  refine ⟨?_, by decide, by decide, meets (by decide +kernel), ?_, ?_, ?_, meets (by decide +kernel), ?_, ?_⟩
  · have key := meetsAll (l := [(resvBytes 0 2048 28 1, 0, true), (resvBytes 0 0 3 1, 0, false), (resvBytes 0 2048 3 1, 0, true), (resvBytes 0 2048 3 1, 1, true),
        (resvBytes 0 2048 3 1, 16, true)]) (S := fun c => reserving c.1 c.2.1) (P := fun c e => e.g.regs.getQ 0 = true ∧ BeginsC (reserving c.1 c.2.1) e ∧ OwnC (reserving c.1 c.2.1) e (e.g.regs.getK2 4).toNat 32 4064 ∧
        readB e.t.scratch 4064 32 = c.1 ∧ e.t.resv.length = c.2.1 ∧ resvOk e c.1 (resvRecord c.1) = c.2.2) (by decide +kernel)
    intro c hc
    obtain ⟨e, he, h⟩ := key c hc
    exact ⟨e, he, h.1, ⟨h.2.1.1, h.2.1.2⟩, ownOf h.2.2.1, h.2.2.2⟩
  · obtain ⟨e, he, h⟩ := meets (s := reserving [] 1) (P := fun e => getT e.t.resv ((e.g.regs.getK 3).toNat % 16) = some ⟨2048, 2048, 3, 0, 1, 0, 0⟩ ∧
      (reserving [] 1).jobs = [] ∧ e.t.array = []) (by decide +kernel)
    exact ⟨e, he, ⟨_, h.1⟩, h.2⟩
  · obtain ⟨e, he, h⟩ := meets (s := { reserving [] 1 with jobs := [{ aJob with dst := .obuf 0 0 0 }] }) (P := fun e =>
      getT e.t.resv ((e.g.regs.getK 3).toNat % 16) = some ⟨2048, 2048, 3, 0, 1, 0, 0⟩ ∧ ({ aJob with dst := .obuf 0 0 0 }).intoResv e.t.tid 0 = true)
      (by decide +kernel)
    exact ⟨e, he, ⟨_, h.1⟩, h.2⟩
  · obtain ⟨e, he, h⟩ := meets (s := withHolds (reserving [] 1) ⟨[], some 0, [], true⟩) (P := fun e =>
      getT e.t.resv ((e.g.regs.getK 3).toNat % 16) = some ⟨2048, 2048, 3, 0, 1, 0, 0⟩ ∧
      (∃ k ∈ holdsOf (withHolds (reserving [] 1) ⟨[], some 0, [], true⟩) e.t.tid e.g.gid, k.resv = some ((e.g.regs.getK 3).toNat % 16)) ∧
      ∃ k ∈ holdsOf (withHolds (reserving [] 1) ⟨[], some 0, [], true⟩) e.t.tid e.g.gid, k.table = true) (by decide +kernel)
    exact ⟨e, he, ⟨_, h.1⟩, h.2⟩
  · have key := meetsAll (l := [((0x10000 : Word), (2016 : Word), (32 : Word)), (0x10010, 0, 32), (0x10000, 2048, 32), (0x10000, 0, 0), (0x10000, 8, 32)]) (S := fun c => loading c.1 c.2.1 c.2.2) (P := fun c e => getT e.t.resv ((e.g.regs.getK 3).toNat % 16) = some aLayout ∧ e.g.regs.getK 6 = c.2.1 ∧
        steerCopy (loading c.1 c.2.1 c.2.2) e (e.g.regs.getK2 4).toNat (e.g.regs.getK 7).toNat = some (.glob c.1.toNat)) (by decide +kernel)
    intro c hc
    obtain ⟨e, he, h⟩ := key c hc
    exact ⟨e, .glob c.1.toNat, he, h.1, by unfold copyPlace; rw [h.2.2], h.2.1⟩
  · have key := meetsAll (l := [(3584, 512), (4064, 32)]) (S := fun c => inScratch c.1 0) (P := fun c e => (e.g.regs.getK2 4).toNat = 0xFE00000000000000 + 15 * 2 ^ 18 + c.1 ∧ c.1 < 2 ^ 18 ∧ c.1 + c.2 ≤ (inScratch c.1 0).scratchSize e.t ∧ e.t.absent = [] ∧ e.t.st ≠ .migrating) (by decide +kernel)
    intro c hc
    obtain ⟨e, he, h⟩ := key c hc
    exact ⟨e, he, h.1, h.2.1, h.2.2.1, fun i _ => by rw [h.2.2.2.1]; rfl, h.2.2.2.2⟩

/-- A residency descriptor at 0x10040, a table of two slots, and a handle in k3. -/
def residing (bs : List Byte) (k : Tbl Residency) (mode : Byte) : State :=
  let s := withK (withRec (issued 1 0) 1 4 1 mode) [(4, 0x10040), (5, 0), (3, 0x1001)]
  { s.modCtx 0 (fun x => { (x.setReg CtxReg.resSlots 2).setReg CtxReg.bedrockQuota 4 with resid := k }) with mem := writeB s.mem 0x10040 bs }

/-- A descriptor of one tile of a format at 0x10000. -/
def residBytes (f : Byte) : List Byte := leBytes 8 0x10000 ++ [f, 0] ++ leBytes 2 1 ++ List.replicate 20 0

/-- A live residency. -/
def aResid : Residency := ⟨1, 2, false, false, residRecord (residBytes 3), []⟩

/-- The same descriptor with a source that begins in the last granule of the global window and ends beyond it. -/
def residEdge : List Byte := leBytes 8 (2 ^ 57 - 256) ++ [3, 0] ++ leBytes 2 1 ++ List.replicate 20 0

/-- What RSALLOC asks of a state and its group, and of the descriptor that the translation leaves to be read. -/
abbrev Residing (bs : List Byte) (k : Tbl Residency) (ok inside : Bool) : Prop :=
  ∃ e s1 lf, (residing bs k 0).env? = some e ∧ Begins (residing bs k 0) e ∧
    OnThisChip (residing bs k 0) s1 e .read [0] (fun _ => (e.g.regs.getK2 4).toNat) 32 (fun _ => 0x10040) (fun _ => lf) ∧ localErr s1 (isLost s1) 0x10040 32 = none ∧
    seenBytes (s1.loadsMeet e [⟨(e.g.regs.getK2 4).toNat, 32, .loc 0x10040, lf⟩]) e (e.g.regs.getK2 4).toNat 0x10040 32 = bs ∧
    (e.g.regs.getK2 4).toNat % 32 = 0 ∧ e.isDet = false ∧ e.isUnlogged = true ∧ e.x.resid = k ∧ (e.x.reg CtxReg.resSlots) = 2 ∧
    residOk bs (residRecord bs) = ok ∧ decide ((residRecord bs).base + (residRecord bs).bytes ≤ 2 ^ 57) = inside

theorem met_residing (bs : List Byte) (k : Tbl Residency) (ok inside : Bool)
    (key : ((residing bs k 0).env?.map (fun e => decide ((BeginsC (residing bs k 0) e ∧ (e.g.regs.getK2 4).toNat % 32 = 0 ∧ e.isDet = false ∧
      e.isUnlogged = true ∧ e.x.resid = k ∧ (e.x.reg CtxReg.resSlots) = 2 ∧ residOk bs (residRecord bs) = ok ∧
      decide ((residRecord bs).base + (residRecord bs).bytes ≤ 2 ^ 57) = inside) ∧
      ChipC (residing bs k 0) e .read [0] (fun _ => (e.g.regs.getK2 4).toNat) 32 (fun _ => 0x10040) (fun s1 lf => readable 32 0x10040 s1 lf &&
        decide (seenBytes (s1.loadsMeet e [⟨(e.g.regs.getK2 4).toNat, 32, .loc 0x10040, lf⟩]) e (e.g.regs.getK2 4).toNat 0x10040 32 = bs))))) = some true) :
    Residing bs k ok inside := by
  obtain ⟨e, he, h⟩ := meets key
  obtain ⟨s1, lf, h1, h2⟩ := chipOf h.2
  simp only [Bool.and_eq_true, decide_eq_true_eq] at h2
  exact ⟨e, s1, lf, he, ⟨h.1.1.1, h.1.1.2⟩, h1, of_decide_eq_true h2.1, h2.2, h.1.2⟩

/-- A format that does not exist, zero tiles, a source beyond the window, a free slot and none; a handle that is current, stale and in use. -/
theorem met_Residencies :
    (Residing (residBytes 28) [] false true ∧ Residing (List.replicate 32 0) [] false true ∧ Residing residEdge [] true false ∧
      Residing (residBytes 3) [] true true ∧ Residing (residBytes 3) [(1, aResid)] true true) ∧
    (∃ e, (residing [] [] 0).env? = some e ∧ residOf e.x (e.g.regs.getK 3) = none ∧ e.isDet = false ∧ e.isUnlogged = true) ∧
    (∃ e s1, (residing [] [(1, aResid)] 0).env? = some e ∧ e.g.regs.getQ 0 = true ∧ residOf e.x (e.g.regs.getK 3) = some aResid ∧
      residRead (residing [] [(1, aResid)] 0) e.t.ctx ((e.g.regs.getK 3).toNat / 4096) = false ∧
      startLoad (residing [] [(1, aResid)] 0) e (e.g.regs.getK 3) aResid = .ok s1) ∧
    (∃ e, ((residing [] [(1, aResid)] 0).modTeam 0 (fun t => { t with array := [⟨0, [0], [], none, some 1⟩] })).env? = some e ∧
      residOf e.x (e.g.regs.getK 3) = some aResid ∧
      residRead ((residing [] [(1, aResid)] 0).modTeam 0 (fun t => { t with array := [⟨0, [0], [], none, some 1⟩] })) e.t.ctx
        ((e.g.regs.getK 3).toNat / 4096) = true) ∧
    (∃ e, (residing [] [] 0x10).env? = some e ∧ e.isDet = true) := by
  refine ⟨⟨met_residing _ _ _ _ (by decide +kernel), met_residing _ _ _ _ (by decide +kernel), met_residing _ _ _ _ (by decide +kernel),
    met_residing _ _ _ _ (by decide +kernel), met_residing _ _ _ _ (by decide +kernel)⟩, meets (by decide +kernel), ?_, meets (by decide +kernel), meets (by decide +kernel)⟩
  · have key : (match (residing [] [(1, aResid)] 0).env? with
        | none => false
        | some e => (match startLoad (residing [] [(1, aResid)] 0) e (e.g.regs.getK 3) aResid with
          | .ok _ => e.g.regs.getQ 0 && decide (residOf e.x (e.g.regs.getK 3) = some aResid) &&
              !residRead (residing [] [(1, aResid)] 0) e.t.ctx ((e.g.regs.getK 3).toNat / 4096)
          | .error _ => false)) = true := by decide +kernel
    split at key
    · exact absurd key (by decide)
    · rename_i e he
      split at key
      · rename_i s1 hs
        simp only [Bool.and_eq_true, decide_eq_true_eq, Bool.not_eq_true'] at key
        exact ⟨e, s1, he, key.1.1, key.1.2, key.2, hs⟩
      · exact absurd key (by decide)

/-- A launch record's place in k4:k5 with n records queued already. -/
def launching (ks : List (Nat × Word)) (n : Nat) (mode : Byte) : State :=
  { withK (withRec (issued 1 0) 1 4 1 mode) ks with
    launches := if n = 0 then [] else [(0, ⟨0, 0, 0, List.replicate n ⟨oneRecord, 0, 0, 0, false⟩, none⟩)] }

/-- A counter of value c at 0x10040 and a target in k6:k7. -/
def counting (c goal : Word) (mode : Byte) : State :=
  let s := withK (withRec (issued 1 0) 1 4 1 mode) [(4, 0x10040), (5, 0), (6, goal), (7, 0)]
  { s with mem := writeB s.mem 0x10040 (leBytes 4 c.toNat) }

/-- A group that waits in LWAIT for the counter at 0x10040. -/
def lwaiting : State := (counting 5 5 0).modGroup 0 (fun g => { g with park := some ⟨.lwait 1 0x10040 5 none, 0⟩ })

theorem met_Launches :
    (∀ c ∈ [((0 : Nat), (0 : Byte)), (3, 0), (4, 0), (0, 0x10), (4, 0x10)], ∃ e, (launching (own 4032) c.1 c.2).env? = some e ∧ e.g.regs.getQ 0 = true ∧
      Begins (launching (own 4032) c.1 c.2) e ∧ InOwnScratch (launching (own 4032) c.1 c.2) e (e.g.regs.getK2 4).toNat 64 4032 ∧ e.isDet = (c.2 == 0x10) ∧ e.isUnlogged = true ∧
      ((getT (launching (own 4032) c.1 c.2).launches e.t.tid).getD ⟨e.t.ctx, e.gr.rserial, e.t.idx, [], none⟩).entries.length = c.1) ∧
    (∃ e, (launching [(4, 0), (5, 0x2000000)] 0 0).env? = some e ∧ 2 ^ 57 ≤ (e.g.regs.getK2 4).toNat ∧ (e.g.regs.getK2 4).toNat < 0xFE00000000000000) ∧
    (∃ e, (launching [(4, 4), (5, 0)] 0 0).env? = some e ∧ (e.g.regs.getK2 4).toNat < 2 ^ 57 ∧ (e.g.regs.getK2 4).toNat % 64 ≠ 0 ∧
      (e.g.regs.getK2 4).toNat % 8 ≠ 0) ∧
    (∀ c ∈ [((5 : Word), (5 : Word)), (4, 5)], ∃ e s1 lf, (counting c.1 c.2 0).env? = some e ∧ Begins (counting c.1 c.2 0) e ∧
      OnThisChip (counting c.1 c.2 0) s1 e .read [0] (fun _ => (e.g.regs.getK2 4).toNat) 8 (fun _ => 0x10040) (fun _ => lf) ∧ localErr s1 (isLost s1) 0x10040 8 = none ∧
      leNat (seenBytes (s1.loadsMeet e [⟨(e.g.regs.getK2 4).toNat, 8, .loc 0x10040, lf⟩]) e (e.g.regs.getK2 4).toNat 0x10040 8) % 2 ^ 63 = c.1.toNat ∧
      (e.g.regs.getK2 4).toNat % 8 = 0 ∧ (e.g.regs.getK2 6).toNat % 2 ^ 63 = c.2.toNat ∧ e.isDet = false ∧ e.isUnlogged = true) ∧
    (∃ h w, lwaiting.group? 0 = some h ∧ h.stop = none ∧ h.park = some ⟨.lwait 1 0x10040 5 none, 0⟩ ∧ lwaiting.parkedEnv 0 0xD2 = some w ∧
      lwaiting.partFor w = none ∧ ∃ s3 lf2, OnThisChip lwaiting s3 w .read [0] (fun _ => 0x10040) 8 (fun _ => 0x10040) (fun _ => lf2) ∧ localErr s3 (isLost s3) 0x10040 8 = none ∧
      5 % 2 ^ 63 ≤ leNat (seenBytes (s3.loadsMeet w [⟨0x10040, 8, .loc 0x10040, lf2⟩]) { w with g := { w.g with fenceS := true } } 0x10040 0x10040 8) % 2 ^ 63) := by
  refine ⟨?_, meets (by decide +kernel), meets (by decide +kernel), ?_, ?_⟩
  · have key := meetsAll (l := [((0 : Nat), (0 : Byte)), (3, 0), (4, 0), (0, 0x10), (4, 0x10)]) (S := fun c => launching (own 4032) c.1 c.2)
      (P := fun c e => e.g.regs.getQ 0 = true ∧ BeginsC (launching (own 4032) c.1 c.2) e ∧ OwnC (launching (own 4032) c.1 c.2) e (e.g.regs.getK2 4).toNat 64 4032 ∧ e.isDet = (c.2 == 0x10) ∧
        e.isUnlogged = true ∧ ((getT (launching (own 4032) c.1 c.2).launches e.t.tid).getD ⟨e.t.ctx, e.gr.rserial, e.t.idx, [], none⟩).entries.length = c.1)
      (by decide +kernel)
    intro c hc
    obtain ⟨e, he, h⟩ := key c hc
    exact ⟨e, he, h.1, ⟨h.2.1.1, h.2.1.2⟩, ownOf h.2.2.1, h.2.2.2⟩
  · have key := meetsAll (l := [((5 : Word), (5 : Word)), (4, 5)]) (S := fun c => counting c.1 c.2 0) (P := fun c e => (BeginsC (counting c.1 c.2 0) e ∧
        (e.g.regs.getK2 4).toNat % 8 = 0 ∧ (e.g.regs.getK2 6).toNat % 2 ^ 63 = c.2.toNat ∧ e.isDet = false ∧ e.isUnlogged = true) ∧
        ChipC (counting c.1 c.2 0) e .read [0] (fun _ => (e.g.regs.getK2 4).toNat) 8 (fun _ => 0x10040) (fun s1 lf => readable 8 0x10040 s1 lf &&
          decide (leNat (seenBytes (s1.loadsMeet e [⟨(e.g.regs.getK2 4).toNat, 8, .loc 0x10040, lf⟩]) e (e.g.regs.getK2 4).toNat 0x10040 8) % 2 ^ 63 = c.1.toNat))) (by decide +kernel)
    intro c hc
    obtain ⟨e, he, h⟩ := key c hc
    obtain ⟨s1, lf, h1, h2⟩ := chipOf h.2
    simp only [Bool.and_eq_true, decide_eq_true_eq] at h2
    exact ⟨e, s1, lf, he, ⟨h.1.1.1, h.1.1.2⟩, h1, of_decide_eq_true h2.1, h2.2, h.1.2⟩
  · have key : (match lwaiting.group? 0, lwaiting.parkedEnv 0 0xD2 with
        | some h, some w => decide ((h.stop = none ∧ h.park = some ⟨.lwait 1 0x10040 5 none, 0⟩ ∧ lwaiting.partFor w = none) ∧
            ChipC lwaiting w .read [0] (fun _ => 0x10040) 8 (fun _ => 0x10040) (fun s3 lf => readable 8 0x10040 s3 lf &&
              decide (5 % 2 ^ 63 ≤ leNat (seenBytes (s3.loadsMeet w [⟨0x10040, 8, .loc 0x10040, lf⟩]) { w with g := { w.g with fenceS := true } } 0x10040 0x10040 8) % 2 ^ 63)))
        | _, _ => false) = true := by decide +kernel
    split at key
    · rename_i h w hh hw
      simp only [decide_eq_true_eq] at key
      obtain ⟨s3, lf2, h1, h2⟩ := chipOf key.2
      simp only [Bool.and_eq_true, decide_eq_true_eq] at h2
      exact ⟨h, w, hh, key.1.1, key.1.2.1, hw, key.1.2.2, s3, lf2, h1, of_decide_eq_true h2.1, h2.2⟩
    · exact absurd key (by decide)

/-- A spur table of two slots at 0x12000, slot 1 with a state and a BUSY of its own, one free pool page, and a number in k3. -/
def spurred (st busy : Nat) (top n bound : Word) (mode : Byte) : State :=
  let s := withK (withRec (issued 1 0) 1 4 1 mode) [(3, n), (7, bound)]
  { s.modCtx 0 (fun x => { (((((x.setReg CtxReg.spurSlots 2).setReg CtxReg.spurTable 0x12000).setReg CtxReg.poolBase 0x100000).setReg
      CtxReg.poolPages 4).setReg CtxReg.poolFree 0x13000).setReg CtxReg.poolTop top with
      spurGen := [(1, 1)], spurs := if st = 0 then [] else [(1, st == 2)] }) with
    mem := writeB (writeB s.mem 0x12048 (leBytes 1 st)) 0x12050 (leBytes 4 busy) }

/-- Whether SPUR.FORK's fork answers without a trap. -/
def forks (s : State) (n : Word) : Option Word :=
  match forkSpur s 0 n with
  | .ok (_, v) => some v
  | .error _ => none

/-- The trap in which it ends: its cause and the place. -/
def forkTrap (s : State) (n : Word) : Option (Nat × Nat) :=
  match forkSpur s 0 n with
  | .error (.trap cause _ _ _ pa) => some (cause, pa)
  | _ => none

theorem met_Spurs :
    (∀ mode ∈ [(0 : Byte), 0x10], ∃ e, (spurred 1 0 1 0x2000 0 mode).env? = some e ∧ e.g.regs.getQ 0 = true ∧ spurMalformed e.x (e.g.regs.getK 3) = true ∧
      e.isDet = (mode == 0x10)) ∧
    (∃ e, (spurred 1 0 1 0x1002 0 0).env? = some e ∧ e.isDet = false ∧ e.isUnlogged = true ∧ spurMalformed e.x (e.g.regs.getK 3) = false ∧
      spurCurrent e.x (e.g.regs.getK 3) = false ∧ e.g.regs.getK 3 ≠ 0) ∧
    (forks (spurred 0 0 1 0 0 0) 0 = some 0x1001 ∧ forks (spurred 1 0 1 0 0 0) 0 = some 0xFFFFFFFF ∧ forks (spurred 0 0 0 0 0 0) 0 = some 0xFFFFFFFE ∧
      forks (spurred 1 0 1 0 0 0) 0x1002 = some 0xFFFFFFFD ∧ forks (spurred 2 0 1 0 0 0) 0x1001 = some 0xFFFFFFFD) ∧
    (forkTrap { spurred 0 0 1 0 0 0 with mem := writeB (spurred 0 0 1 0 0 0).mem 0x12009 [63] } 0 = some (13, 0) ∧
      forkTrap { spurred 0 0 1 0 0 0 with hbm := [{ Stack.init with lostAtoms := [0] }] } 0 = some (10, 0)) ∧
    (∃ e, (spurred 1 0 1 0x1001 0 0).env? = some e ∧ e.g.regs.getK 3 ≠ 0 ∧ spurCurrent e.x (e.g.regs.getK 3) = true ∧
      spurState e.x 1 ≠ 2 ∧ ((spurred 1 0 1 0x1001 0 0).markSpurs 0 0x1001).2.contains e.spur = false ∧
      (((spurred 1 0 1 0x1001 0 0).markSpurs 0 0x1001).1.stopSpurs 0 ((spurred 1 0 1 0x1001 0 0).markSpurs 0 0x1001).2 none).group? e.g.gid = some e.g) ∧
    (∃ e, (spurred 2 0 1 0x1001 0 0).env? = some e ∧ spurState e.x ((e.g.regs.getK 3).toNat / 4096) = 2) ∧
    (∃ e, (spurred 1 0 1 0 0 0).env? = some e ∧ e.g.regs.getK 3 = 0 ∧ spurMalformed e.x 0 = false) ∧
    (∃ e, (spurred 1 0 1 0x1001 0 0).env? = some e ∧ e.g.park = none ∧ subtreeDone (spurred 1 0 1 0x1001 0 0) e.t.ctx (e.g.regs.getK 3) = true) ∧
    (∀ c ∈ [((0 : Word), (0 : Byte)), (1, 0), (0xFFFFFFFE, 0), (0xFFFFFFFF, 0), (1, 0x10)], ∃ e, (spurred 1 1 1 0x1001 c.1 c.2).env? = some e ∧ e.g.park = none ∧
      subtreeDone (spurred 1 1 1 0x1001 c.1 c.2) e.t.ctx (e.g.regs.getK 3) = false ∧ e.g.regs.getK 7 = c.1 ∧ e.isDet = (c.2 == 0x10)) ∧
    (∃ x, (spurred 2 0 1 0x1001 0 0).ctx? 0 = some x ∧ 1 < (x.reg CtxReg.spurSlots).toNat ∧ spurState x 1 = 2 ∧
      reclaimReady (spurred 2 0 1 0x1001 0 0) 0 (BitVec.ofNat 32 (1 * 4096 + (getB x.spurGen 1).toNat)) = true) := by
  refine ⟨?_, meets (by decide +kernel), by decide +kernel, by decide +kernel, meets (by decide +kernel), meets (by decide +kernel),
    meets (by decide +kernel), meets (by decide +kernel), ?_, ⟨_, rfl, by decide +kernel, by decide +kernel, by decide +kernel⟩⟩
  · have key := meetsAll (l := [(0 : Byte), 0x10]) (S := fun mode => spurred 1 0 1 0x2000 0 mode) (P := fun mode e => e.g.regs.getQ 0 = true ∧
      spurMalformed e.x (e.g.regs.getK 3) = true ∧ e.isDet = (mode == 0x10)) (by decide +kernel)
    exact fun mode hm => key mode hm
  · exact meetsAll (α := Word × Byte) (S := fun c => spurred 1 1 1 0x1001 c.1 c.2) (P := fun c e => e.g.park = none ∧
      subtreeDone (spurred 1 1 1 0x1001 c.1 c.2) e.t.ctx (e.g.regs.getK 3) = false ∧ e.g.regs.getK 7 = c.1 ∧ e.isDet = (c.2 == 0x10)) (by decide +kernel)

/-- What the group's core finds at an address. -/
def leafFrom (s : State) (va : Nat) : Option (Except XErr (State × Nat × Nat)) := s.env?.map (fun e => leafOf s 0 e.agent none va)

/-- A group that waits in XINVAL for request 3, while its request n is under way. -/
def invalidating (n : Nat) : State :=
  { (inHandler (issued 1 0) 21).modGroup 0 (fun g => { g with park := some ⟨.inval [3], 0⟩ }) with
    remote := [(n, ⟨0, none, none, 0, some 0, none, 1, 0, 0x1000, .rd32, 0⟩)] }

/-- A group of a DET team in its handler with a store staged. -/
def staged21 (q : Staged) : State :=
  (inHandler (issued 1 0) 21).setGrid { oneGrid 0 with bytes := (oneRecord.take 58) ++ [1, 4, 1, 0, 0x10, 0], staged := [{ q with kind := 0 }] }

theorem met_ProbesAndInvalidations :
    (∃ e, (inHandler (withK (issued 1 0) [(4, 0x10000), (5, 0x2000000), (6, 1)]) 21).env? = some e ∧ e.g.trap.masked = true ∧ e.g.regs.getQ 0 = true ∧
      2 ^ 57 ≤ (e.g.regs.getK2 4).toNat ∧ (e.g.regs.getK 6).toNat ≠ 0 ∧ (e.g.regs.getK 6).toNat ≤ 4096) ∧
    (∃ e, (inHandler (withK (issued 1 0) [(4, 0x10000), (5, 0), (6, 4096)]) 21).env? = some e ∧ e.g.trap.masked = true ∧ (e.g.regs.getK2 4).toNat < 2 ^ 57 ∧
      (e.g.regs.getK 6).toNat ≠ 0 ∧ (e.g.regs.getK 6).toNat ≤ 4096) ∧
    (∃ e, (inHandler (withK (issued 1 0) [(6, 4097)]) 21).env? = some e ∧ 4096 < (e.g.regs.getK 6).toNat) ∧
    (∃ e, (inHandler (issued 1 0) 21).env? = some e ∧ (e.g.regs.getK 6).toNat = 0) ∧
    (match leafFrom (issued 1 0) 0x10000 with
     | some (.ok (_, lf, lvl)) => decide (lf < 2 ^ 64 ∧ lvl < 4)
     | _ => false) = true ∧
    (match leafFrom (issued 1 0) 0x30000 with
     | some (.error (.absent _)) => true
     | _ => false) = true ∧
    (match leafFrom (withRoot (issued 1 0) 0xFF03) 0x30000 with
     | some (.error (.bad _)) => true
     | _ => false) = true ∧
    (match leafFrom { withRoot (issued 1 0) 0 with hbm := [{ Stack.init with lostPages := [0x20] }] } 0x30000 with
     | some (.error (.lost _ _)) => true
     | _ => false) = true ∧
    (match leafFrom { (issued 1 0).modCtx 0 (fun x => x.setReg (CtxReg.ptRoot + 4) 256) with hbm := [{ Stack.init with win := 1, busy := true }] } 0x30000 with
     | some (.error .held) => true
     | _ => false) = true ∧
    (∃ e, (staged21 fullRec).env? = some e ∧ ∃ r ∈ e.gr.staged, r.team = e.t.idx ∧ r.group = e.g.gid % 32 ∧ r.kind = 0) ∧
    (∃ e, (invalidating 3).env? = some e ∧ e.g.trap.masked = true ∧ e.g.park = some ⟨.inval [3], 0⟩ ∧ stillFlying (invalidating 3) [3] = true ∧
      flying (invalidating 3) e.t.ctx ≠ []) ∧
    ∃ e, (invalidating 4).env? = some e ∧ e.g.park = some ⟨.inval [3], 0⟩ ∧ stillFlying (invalidating 4) [3] = false :=
  ⟨meets (by decide +kernel), meets (by decide +kernel), meets (by decide +kernel), meets (by decide +kernel), by decide +kernel, by decide +kernel,
    by decide +kernel, by decide +kernel, by decide +kernel, meets (by decide +kernel), meets (by decide +kernel), meets (by decide +kernel)⟩

/-- A context in a Cairn direction with a ring of 256 positions and n of them taken. -/
def ringed (dir n : Word) (mode : Byte) : State :=
  (withRec (issued 1 0) 1 4 1 mode).modCtx 0 (fun x => ((x.setReg CtxReg.cairnDir dir).setReg CtxReg.cairnLog 8).setReg CtxReg.cairnProd n)

theorem met_CairnUnit :
    (∃ e, ({ issued 1 0 with grade := .shoulder }).env? = some e ∧ Grade.shoulder.hasCairn = false) ∧ (issued 1 0).grade.hasCairn = true ∧
    (∃ e, (issued 1 0).env? = some e ∧ e.g.regs.getQ 0 = true ∧ e.isUnlogged = true) ∧
    (∃ e, (ringed 1 255 0x20).env? = some e ∧ e.isRec = true ∧
      0 < 2 ^ (e.x.reg CtxReg.cairnLog).toNat - (e.x.reg CtxReg.cairnProd - e.x.reg CtxReg.cairnCons).toNat) ∧
    (∃ e, (ringed 1 256 0x20).env? = some e ∧ e.isRec = true ∧
      2 ^ (e.x.reg CtxReg.cairnLog).toNat - (e.x.reg CtxReg.cairnProd - e.x.reg CtxReg.cairnCons).toNat = 0) ∧
    (∀ dir ∈ [(0 : Word), 1, 2], ∃ e, (inHandler (ringed dir 5 0) 21).env? = some e ∧ e.g.trap.masked = true ∧ e.g.regs.getQ 0 = true ∧
      e.x.reg CtxReg.cairnDir = dir) := by
  refine ⟨meets (by decide +kernel), by decide +kernel, meets (by decide +kernel), meets (by decide +kernel), meets (by decide +kernel), ?_⟩
  have key := meetsAll (l := [(0 : Word), 1, 2]) (S := fun dir => inHandler (ringed dir 5 0) 21) (P := fun dir e => e.g.trap.masked = true ∧ e.g.regs.getQ 0 = true ∧
      e.x.reg CtxReg.cairnDir = dir) (by decide +kernel)
  exact fun dir hd => key dir hd

/-! ## Events -/

/-- The reset state with stack 0 as given. -/
def withStack (k : Stack) : State := { State.reset with hbm := [k] }

/-- A page on its way in and out, free and taken rows, a lost atom, both edges of a remap's condition and of a window. -/
theorem met_MemoryEvents :
    (localExists (withStack Stack.init) 0x10000 = true ∧ localErr (withStack Stack.init) (isLost (withStack Stack.init)) 0x10000 128 = none ∧ isHeld (withStack Stack.init) (2 ^ 40) = false ∧
      isHeld (withStack { Stack.init with win := 1, busy := true }) (2 ^ 40) = true ∧
      stackFailed (withStack { Stack.init with failed := true }) 0x10000 = true ∧
      localExists (withStack Stack.init) (2 ^ 41) = false ∧
      (let s := withStack { Stack.init with lostAtoms := [0x801] }
       localErr s (isLost s) 0x10000 64 = some (true, 0x10020)) ∧
      (∀ j, j < 3 → (5 : BitVec 128).getLsbD j = true → localExists (withStack Stack.init) (0x10000 + j) = true ∧
        isLost (withStack Stack.init) (0x10000 + j) = false)) ∧
    (({ Stack.init with opened := List.replicate 32 (1, 5) }).promo.toNat ≤ ({ Stack.init with opened := List.replicate 32 (1, 5) }).activations 1 6 ∧
      Stack.init.activations 1 6 < Stack.init.promo.toNat) ∧
    (Stack.init.promo ≠ 0 ∧ Stack.init.isRemapping = false ∧ Stack.init.win.toNat < 8 ∧ 1 < Stack.init.pageCount false ∧
      getT Stack.init.pages 1 = none ∧ Stack.init.freeRow (Stack.init.bankOf 1) = some 0) ∧
    (let k : Stack := { Stack.init with pages := [(1, ⟨.promoting, false, none, 0, 0⟩)] }
     getT k.pages 1 = some ⟨.promoting, false, none, 0, 0⟩ ∧ ∀ w ∈ k.pages, k.bankOf w.1 = k.bankOf 1 → w.1 ≠ 1 → w.2.row ≠ 0) ∧
    (let t : BitVec 16 := (0x80007FFF : Word).extractLsb' 0 16
     (0x80007FFF : Word).getLsbD 31 = true ∧ Stack.init.busy = false ∧ popCount (t ^^^ Stack.init.live) = 1 ∧ 12 ≤ popCount t) ∧
    (let t : BitVec 16 := (0x800007FF : Word).extractLsb' 0 16
     popCount (t ^^^ (0xFFF : BitVec 16)) = 1 ∧ popCount t < 12) ∧
    (let k : Stack := { Stack.init with target := 0x7FFF, goal := 0x7FFF, rstate := 2, wmPage := 3 }
     k.isShrink = true ∧ k.wmPage ≠ 0 ∧ ({ k with wmPage := 0 }).classDone = true ∧ k.wmClass = false ∧
       popCount k.goal ≤ k.banks) ∧
    (let k : Stack := { Stack.init with live := 0x7FFF, goal := 0xFFFF, rstate := 2, wmPage := 3 }
     k.isShrink = false ∧ k.wmPage.toNat < k.movePages k.wmClass ∧
       ({ k with wmPage := 0xD2000 }).classDone = true ∧ k.wmClass = false ∧ k.banks < popCount k.goal ∧
       65536 * 860160 < 2 ^ 41 ∧ paStack (65536 * 860160) = 0 ∧ paClass (65536 * 860160) = false ∧
       k.banks * 57344 ≤ paPage (65536 * 860160) ∧ paPage (65536 * 860160) < popCount k.goal * 57344) ∧
    ((8 : Word).extractLsb' 0 4 ≠ Stack.init.win ∧ ((8 : Word).extractLsb' 0 4 : BitVec 4).toNat ≤ 8 ∧ 8 < ((9 : Word).extractLsb' 0 4 : BitVec 4).toNat) ∧
    (let k : Stack := { Stack.init with win := 2, busy := true, winWas := 1 }
     k.busy = true ∧ k.winWas.toNat < k.win.toNat ∧ k.isRemapping = false ∧ (3 : Word).extractLsb' 0 4 ≠ k.win) ∧
    (let k : Stack := { Stack.init with win := 1, busy := true, pages := [(1, ⟨.clean, false, none, 1024, 0⟩)] }
     ∀ v ∈ k.pages, 1024 * k.win.toNat ≤ v.2.row) ∧
    ((if (0x80000005 : Word).getLsbD 31 then 2 ^ 40 else 0) + 0 * 2 ^ 36 + (0x80000005 : Word).toNat % 2 ^ 20 * 65536) / 65536 ∈
      ({ Stack.init with lostPages := [0x1000005] }).lostPages := by
  refine ⟨?_, ?_, ?_, ?_, ?_, ?_, ?_, ?_, ?_, ?_, ?_, ?_⟩ <;> decide +kernel

/-- A group parked for a reason, in a context whose trap queue has its place for one record. -/
def parkedFor (w : Wait) : State :=
  (issued 1 0).modGroup 0 (fun g => { g with park := some ⟨w, 0⟩ }) |>.modCtx 0 (fun x => x.setReg CtxReg.tqBase 0x20000)

/-- The same with the page of the code in both base dies' translation caches. -/
def withDies (s : State) : State :=
  { s with tlb := (List.range 2).map (fun m => (⟨.die m, 0, none, 0x10000, 65536, 0x1001B, 0⟩ : TlbEntry)) ++ s.tlb }

/-- A request under way for the group, with a tag or still without, sent at 0, and the clk. -/
def asked (tgt : BitVec 2) (tag : Option (BitVec 10)) (clk : Nat) : State :=
  { issued 1 0 with clk := clk, remote := [(3, ⟨0, none, none, 0, tag, none, tgt, 0, 0x1000, .rd32, 0⟩)] }

/-- What a condition on an entry that is there is met by. -/
theorem holds {α : Type} {o : Option α} {P : α → Prop} [∀ a, Decidable (P a)] (h : o.map (fun a => decide (P a)) = some true) :
    ∃ a, o = some a ∧ P a := by
  cases o with
  | none => simp at h
  | some a => exact ⟨a, rfl, by simpa using h⟩

/-- A group in run-ahead, over or not. -/
def ahead (done : Bool) : FaultRun := ⟨0x10000, 1, [⟨1, 0, 0, 0⟩], 0, done, none⟩

/-- A group that waits for line 3, which has landed or has not. -/
def landing (lines : List Nat) : State := (parkedFor (.presence [(0, 3)])).modTeam 0 (fun t => { t with absent := lines })

/-- A group in a BWAIT on an object of one arrival, whose bound is 0. -/
def bwaiting : State := withBytes (parkedFor (.bwait 1 (some 0) 0 16 0)) 16 (leBytes 16 (barInit 1))

/-- A group in a SPUR.JOIN of a spur that has work. -/
def joining : State :=
  { spurred 1 1 1 0x1001 0 0 with groups := (parkedFor (.join 1 0x1001 (some 0))).groups }

/-- A group whose record stands at position 3. -/
def replaying : State := (parkedFor (.faultWait 3)).modCtx 0 (fun x => { x with tqPend := [(3, .group 0)] })

theorem met_WaitsEnd :
    (∀ done ∈ [true, false], (∃ g, (parkedFor (.faultRun (ahead done))).group? 0 = some g ∧ g.park = some ⟨.faultRun (ahead done), 0⟩) ∧
      ∃ u, (parkedFor (.faultRun (ahead done))).team? (0 / 32) = some u ∧ ((parkedFor (.faultRun (ahead done))).ctx u.ctx).tqRoom = true) ∧
    (∀ lines ∈ [[], [3]], (∃ g, (landing lines).group? 0 = some g ∧ g.park = some ⟨.presence [(0, 3)], 0⟩ ∧ g.stop = none) ∧
      ∃ u, (landing lines).team? 0 = some u ∧ u.absent = lines) ∧
    ((∃ g, bwaiting.group? 0 = some g ∧ g.park = some ⟨.bwait 1 (some 0) 0 16 0, 0⟩ ∧ g.stop = none ∧ barCheck (bwaiting.barGet 0 16) 0 = none) ∧
      ∃ e, bwaiting.parkedEnv 0 0xA5 = some e ∧ e.isUnlogged = true) ∧
    ((∃ g, joining.group? 0 = some g ∧ g.park = some ⟨.join 1 0x1001 (some 0), 0⟩ ∧ g.stop = none) ∧
      (∃ u, joining.team? (0 / 32) = some u ∧ subtreeDone joining u.ctx 0x1001 = false) ∧
      ∃ e, joining.parkedEnv 0 0xD5 = some e ∧ e.isUnlogged = true) ∧
    (∀ tgt ∈ [(1 : BitVec 2), 2], ∃ r, getT (asked tgt (some 0) 65000000).remote 3 = some r ∧ r.own = none ∧ r.job = none ∧ r.gid = 0 ∧ r.tgt = tgt ∧
      r.tag.isSome = true ∧ r.sent + us 50000 ≤ (asked tgt (some 0) 65000000).now ∧ r.sent + us 1000 ≤ (asked tgt (some 0) 65000000).now ∧
      (asked tgt (some 0) 5).now < r.sent + us 1000) ∧
    (∃ r, getT (asked 2 none 65000000).remote 3 = some r ∧ r.tag = none) ∧
    ((withDies (issued 1 0)).grade.columns = 768 ∧ (∃ s1 p l s2 q k, xlate (withDies (issued 1 0)) 0 (.die 0) none true .read 0x10000 = .ok (s1, p, l) ∧
      xlate s1 0 (.die 1) none true .read 0x10000 = .ok (s2, q, k)) ∧ Grade.saddle.columns = 384) ∧
    (∃ x y, xlate (issued 1 0) 0 (.die 0) none true .read 0x30000 = .error x ∧ xlate (issued 1 0) 0 (.die 1) none true .read 0x30000 = .error y) ∧
    (issued 1 0).sees 0 0 = true ∧ (issued 1 0).sees 1 0 = false ∧ ((issued 1 0).ctx 0).isCalm ∧
    ((∃ g, replaying.group? 0 = some g ∧ g.park = some ⟨.faultWait 3, 0⟩) ∧
      ∃ u, replaying.team? (0 / 32) = some u ∧ u.st = .running ∧ getT (replaying.ctx u.ctx).tqPend 3 = some (.group 0)) := by
  refine ⟨?_, ?_, ⟨holds (by decide +kernel), holds (by decide +kernel)⟩,
    ⟨holds (by decide +kernel), holds (by decide +kernel), holds (by decide +kernel)⟩, ?_, holds (by decide +kernel),
    ⟨by decide +kernel, ?_, by decide⟩, ?_, by decide +kernel, by decide +kernel, ⟨by decide +kernel, by decide +kernel⟩, holds (by decide +kernel), holds (by decide +kernel)⟩
  · intro done _
    cases done <;> exact ⟨holds (by decide +kernel), holds (by decide +kernel)⟩
  · intro lines hl
    simp only [List.mem_cons, List.not_mem_nil, or_false] at hl
    rcases hl with rfl | rfl <;> exact ⟨holds (by decide +kernel), holds (by decide +kernel)⟩
  · intro tgt ht
    simp only [List.mem_cons, List.not_mem_nil, or_false] at ht
    rcases ht with rfl | rfl <;> exact holds (by decide +kernel)
  · obtain ⟨s1, l, h1, h2⟩ := landsOf (pa := 0x10000) (P := fun s1 _ => landsAt 0x10000 (fun _ _ => true) (xlate s1 0 (.die 1) none true .read 0x10000))
      (r := xlate (withDies (issued 1 0)) 0 (.die 0) none true .read 0x10000) (by decide +kernel)
    obtain ⟨s2, k, h3, _⟩ := landsOf h2
    exact ⟨s1, _, l, s2, _, k, h1, h3⟩
  · have key : ∀ m ∈ [0, 1], (absentAt (xlate (issued 1 0) 0 (.die m) none true .read 0x30000)).isSome = true := by decide +kernel
    have err : ∀ {α : Type} {z : Except XStop α}, (absentAt z).isSome = true → ∃ x, z = .error x := by
      intro α z h
      cases z with
      | error x => exact ⟨x, rfl⟩
      | ok _ => exact absurd h (by simp [absentAt])
    obtain ⟨x, hx⟩ := err (key 0 (by decide))
    obtain ⟨y, hy⟩ := err (key 1 (by decide))
    exact ⟨x, y, hx, hy⟩

/-- A group's context with jobs in its engines. -/
def engines (js : List Job) : State := { withDies (issued 1 0) with jobs := js }

/-- A core with a load of a residency of one tile under way. -/
def loadingInst (lost : List Nat) : State :=
  { withDies (mmaSt 0x1001 32 32 aLayout 3 2) with insts := [⟨0, 0, 1, true, [0], 0, 0, none, [], 1, [], false⟩], hbm := [{ Stack.init with lostAtoms := lost }] }

/-- How a load there ends: 0 bytes, 1 a failure, 2 a fault. -/
def loadKind (s : State) : Nat :=
  let (s0, ps) := sourcePages s 0 0 bLayout
  if (sourceRanges ps).any (fun q => isHeld s0 q.1) then 3
  else match loadEnd s0 ps with
  | .bytes _ => 0
  | .fail _ _ _ => 1
  | .fault _ => 2
  | .held => 3

theorem met_Engines :
    ((engines [aJob]).job? 0 = some aJob ∧ inEngine (engines [aJob]) aJob = true ∧ stagedAhead (engines [aJob]) aJob = false ∧ loadAhead (engines [aJob]) aJob = false ∧ ∀ k ∈ (engines [aJob]).jobs, k.id < 0 → k.conflicts aJob = false) ∧
    ((engines [aJob, { aJob with id := 1 }]).job? 1 = some { aJob with id := 1 } ∧ ∃ k ∈ (engines [aJob, { aJob with id := 1 }]).jobs, k.id < 1 ∧
      k.ctx = 0 ∧ k.conflicts { aJob with id := 1 } = true) ∧
    ((engines [{ aJob with started := true }]).job? 0 = some { aJob with started := true } ∧ ({ aJob with started := true }).overlaps = false ∧
      (match itemRead (engines [{ aJob with started := true }]) { aJob with started := true } 0 with
       | .ok (s1, bs) => decide (bs.length = 128) && (s1.team? 0).any (fun w => decide (w.st ≠ .ended))
       | .error _ => false) = true ∧ ({ aJob with started := true }).isReady 0 = true ∧
      hasService (engines [{ aJob with started := true }]) { aJob with started := true } = true ∧ aJob.ctl.toNat / 2 ^ 26 % 4 ≠ 2 ∧ ([0].getD (0 / lineCount 0 128) 0) = 0) ∧
    (let j : Job := { aJob with started := true }
     let k : Job := { aJob with id := 1, started := true, ctl := 0x50000000 }
     k.slack 0 = 5 ∧ j.sameEngine k = true ∧ j.items.any j.isReady = true ∧ j.goesBefore k 0 = true ∧ hasService (engines [j, k]) k = false) ∧
    ((engines [{ aJob with cancel := true }]).job? 0 = some { aJob with cancel := true } ∧
      ((engines [{ aJob with cancel := true }]).ctx 0).tqRoom = true) ∧
    (∀ lost ∈ [[], [0x801]], (loadingInst lost).inst? 0 0 1 = some ⟨0, 0, 1, true, [0], 0, 0, none, [], 1, [], false⟩ ∧
      getT ((loadingInst lost).ctx 0).resid 1 = some ⟨1, 2, false, false, bLayout, []⟩ ∧
      loadHeld (loadingInst lost) ⟨0, 0, 1, true, [0], 0, 0, none, [], 1, [], false⟩ bLayout = false ∧ loadKind (loadingInst lost) = lost.length ∧
      ((loadingInst lost).ctx 0).tqRoom = true) := by
  refine ⟨by decide +kernel, by decide +kernel, ?_, by decide +kernel, by decide +kernel, ?_⟩
  · exact ⟨by decide +kernel, by decide +kernel, by decide +kernel, by decide +kernel, by decide +kernel, by decide, by decide⟩
  · intro lost hl
    simp only [List.mem_cons, List.not_mem_nil, or_false] at hl
    rcases hl with rfl | rfl <;> decide +kernel

/-- A pending launch of a record, entered at 0. -/
def pending (bs : List Byte) (clk : Nat) : State :=
  { issued 1 0 with clk := clk, launches := [(0, ⟨0, 0, 0, [⟨bs, 0, 0, 0, false⟩], none⟩)] }

/-- A grid with one team still to place, that waits since 0, at a priority; a second context runs a team of priority 0. -/
def waitingGrid (prio : Byte) (clk : Nat) : State :=
  let g : Grid := { oneGrid 0 with bytes := oneRecord.take 62 ++ [prio] ++ oneRecord.drop 63, next := 0, serial := 1, blocked := some 0 }
  let s := issued 1 0
  { s with clk := clk, grids := s.grids ++ [g, oneGrid 1], ctxs := s.ctxs ++ [(1, { Context.init with regs := putB Context.init.regs CtxReg.ctl 0x80000000 })],
           teams := s.teams ++ [Team.start 1 1 0 0 1 0 0 0], nextTid := 2 }

/-- A grid all of whose work is done, with a counter or none. -/
def doneGrid (counter : Nat) : Grid :=
  { oneGrid 0 with bytes := oneRecord.take 24 ++ leBytes 8 counter ++ oneRecord.drop 32, drained := 1 }

/-- The state with that grid and no team. -/
def quietState (counter : Nat) : State := { withDies (issued 1 0) with teams := [], groups := [], grids := [doneGrid counter] }

/-- A contribution of team 0, an add of 5 at 0x10040. -/
def aStaged (kind : Nat) : Staged :=
  { addr := 0x10040, data := 5, team := 0, seq := 0, lane := 0, group := 0, kind := kind, ctl := 0x0F, die := 0, spilled := none }

/-- A DET grid with team 0 ended and such records. -/
def draining (rs : List Staged) : Grid :=
  { oneGrid 0 with bytes := oneRecord.take 62 ++ [0x10] ++ oneRecord.drop 63, done := [0], staged := rs }

theorem met_GridEvents :
    ((∃ q, getT (pending oneRecord 400).launches 0 = some q ∧ q.entries = [⟨oneRecord, 0, 0, 0, false⟩] ∧ 0 + 400 ≤ (pending oneRecord 400).clk ∧
      q.last = none ∧ ((pending oneRecord 400).ctx q.ctx).isOpen = true ∧ refusal (pending oneRecord 400) q.ctx oneRecord = none) ∧ Rec.mode oneRecord < 2) ∧
    ((∃ q, getT (pending (List.replicate 64 0) 400).launches 0 = some q ∧ refusal (pending (List.replicate 64 0) 400) q.ctx (List.replicate 64 0) = some 3 ∧
      ((pending (List.replicate 64 0) 400).ctx q.ctx).isOpen = true ∧ ((pending (List.replicate 64 0) 400).ctx q.ctx).tqRoom = true) ∧
      (pending oneRecord 399).clk < 0 + 400) ∧
    (∀ clk ∈ [0, 200000], ∃ g, (unitOrder (waitingGrid 2 clk)).head? = some g ∧ (waitingGrid 2 clk).isPlacing = true ∧ Rec.clsize g.bytes = 1 ∧
      Rec.mode g.bytes < 2 ∧ (clk = 0 → placeUnit (waitingGrid 2 clk) g.ctx g.bytes [((waitingGrid 2 clk).nextTid, 0)] = some [(0, 0)]) ∧
      swappedFirst (waitingGrid 2 clk) (Rec.prio g.bytes) = false ∧ savedOn (waitingGrid 2 clk) 0 0 = [] ∧
      (∀ u ∈ (waitingGrid 2 clk).teams, u.tid ≠ (waitingGrid 2 clk).nextTid) ∧
      g.hasWaited (waitingGrid 2 clk) 100 = decide (clk ≠ 0) ∧ g.hasWaited (waitingGrid 2 clk) 50 = decide (clk ≠ 0) ∧
      victimCtx (waitingGrid 2 clk) (lowTeams (waitingGrid 2 clk) g.ctx (Rec.prio g.bytes)) = some 1) ∧
    ({ waitingGrid 2 0 with starting := true }).isPlacing = false ∧
    (∀ counter ∈ [0, 0x10040], (quietState counter).grid? 0 0 = some (doneGrid counter) ∧ gridQuiet (quietState counter) (doneGrid counter) = true ∧
      Rec.counter (doneGrid counter).bytes = counter ∧ (doneGrid counter).wait = none ∧ (doneGrid counter).noCount = none ∧
      (doneGrid counter).headers = [] ∧ (doneGrid counter).counted = false) ∧
    (match ownPlaces ((quietState 0x10040).withAsks (gridKey 0 0)) 0 0 (some (Rec.spur (doneGrid 0x10040).bytes)) .atomic [(0x10040, 8)] with
     | .ok (s1, ps) => decide (ps.map (fun x => (x.va, x.n, x.at_)) = [(0x10040, 8, .loc 0x10040)] ∧ localErr s1 (isLost s1) 0x10040 8 = none)
     | .error _ => false) = true ∧
    gridQuiet (issued 1 0) (oneGrid 0) = false ∧
    (0 ∈ (draining []).done ∧ nextRelease (draining []) 0 = none ∧ nextDrain (draining []) 0 = none) ∧
    (nextRelease (draining [aStaged 1]) 0 = none ∧ drainOrder (draining [aStaged 1]) 0 1 = [aStaged 1] ∧
      spillUnderWay { withDies (issued 1 0) with grids := [draining [aStaged 1]] } (draining [aStaged 1]) 0 = false ∧
      (appliesAll ({ withDies (issued 1 0) with grids := [draining [aStaged 1]] }.withAsks (gridKey 0 0)) (draining [aStaged 1]) [aStaged 1]).isSome = true) ∧
    (Rec.mode (draining [aStaged 0]).bytes = 1 ∧ 0 < (draining [aStaged 0]).next ∧ nextRelease (draining [aStaged 0]) 0 = some (aStaged 0) ∧
      (match applyStore ({ withDies (issued 1 0) with grids := [draining [aStaged 0]] }.withAsks (gridKey 0 0)) (draining [aStaged 0]) (aStaged 0) with
       | .ok _ => true
       | .error _ => false) = true) := by
  refine ⟨⟨holds (by decide +kernel), by decide⟩, ⟨holds (by decide +kernel), by decide +kernel⟩, ?_, by decide +kernel, ?_, by decide +kernel,
    by decide +kernel, by decide +kernel, by decide +kernel, by decide +kernel⟩
  · intro clk hc
    simp only [List.mem_cons, List.not_mem_nil, or_false] at hc
    rcases hc with rfl | rfl <;> exact holds (by decide +kernel)
  · intro c hc
    simp only [List.mem_cons, List.not_mem_nil, or_false] at hc
    rcases hc with rfl | rfl <;> decide +kernel

/-- A queue of context 0 with its ring at 0x10000, two commands long. -/
def aQueue (st : QState) : Queue := 
  { fn := 0, ctx := 0, desc := 0x20000, ring := 0x10000, logSize := 4, qprio := 0, tail := 2, head := 0, st := st, since := 0, quiet := some 0,
    fetched := none, tries := 0 }

/-- A command at HEAD: a launch of the record, or a wait for 0x10040 to reach n, with the right CHECK. -/
def command (kind : Byte) (n : Nat) : List Byte :=
  (if kind ≠ 1 then oneRecord else leBytes 8 0x10040 ++ leBytes 8 n ++ List.replicate 48 0) ++ [1, 0, kind] ++ List.replicate 61 0

/-- A state with that queue and command. -/
def queued (st : QState) (cmd : List Byte) : State :=
  { withDies (issued 1 0) with queues := [(7, aQueue st)], mem := writeB [] 0x10000 cmd }

/-- What looking at a mapped queue's command gives: its CHECK is right, and it is accepted. -/
def accepts (s : State) (n : Nat) (k : Queue) : Bool :=
  match fetchCommand s n k with
  | .error _ => false
  | .ok (s1, cmd) =>
    let s0 := { s1 with ownIn := [] }
    !k.isSpent s && decide (fieldB cmd 64 2 = 2 * (k.head.toNat % 32768) + 1) && !heldByAfter s0 n k cmd &&
    (if fieldB cmd 66 1 ≠ 1 then
      (match acceptRecord s0 k.ctx (commandRecord cmd) ⟨some n, 0xFFFFFFFF, 0, 0, k.head.toNat⟩ false (.queue n) with
       | .ok _ => true
       | .error _ => false)
     else match ownRead ((s0.doneAsks (queueKey n false)).withAsks (queueKey n true)) 0 k.ctx (some 0) (fieldB cmd 0 8) 8 with
      | .ok (_, bs) => decide (fieldB cmd 8 8 % 2 ^ 63 ≤ leNat bs % 2 ^ 63)
      | .error _ => false)

/-- n mapped queues of QPRIO 0, and a runnable one of QPRIO p. -/
def crowded (n p : Nat) : State :=
  { issued 1 0 with queues := (List.range n).map (fun i => (i, { aQueue .mapped with since := i })) ++ [(300, { aQueue .runnable with qprio := p })] }

/-- A queue descriptor for context 0 at 0x20000. -/
def descBytes : List Byte := leBytes 8 0x10000 ++ [4, 0, 0, 0] ++ leBytes 4 0 ++ List.replicate 16 0

/-- Context 0 with QREG_ADDR at that descriptor or at none. -/
def registering (bs : List Byte) (st : QState) : State :=
  { (queued st []).modCtx 0 (fun x => x.setReg CtxReg.qregAddr 0x20000) with mem := writeB [] 0x20000 bs }

/-- A command that AFTER keeps back while a grid of its queue is not complete. -/
def heldCommand : State :=
  { queued .mapped (command 0 0 |>.set 67 1) with grids := [{ oneGrid 0 with queue := some 7 }] }

theorem met_QueueEvents :
    ((queued .idle []).queue? 7 = some (aQueue .idle) ∧ (queued .idle []).isOpen = true ∧
      (∀ n ∈ [3, 16, 17, 2 + 2 ^ 31], let v := BitVec.ofNat 32 n; 1 ≤ (v - (aQueue .idle).tail).toNat ∧ (v - (aQueue .idle).tail).toNat ≤ 2 ^ 31) ∧
      2 ^ 4 < ((17 : Word) - 0).toNat ∧ ((16 : Word) - 0).toNat ≤ 2 ^ 4) ∧
    ((aQueue .mapped).hasCommand (queued .mapped (command 0 0)) = true ∧ accepts (queued .mapped (command 0 0)) 7 (aQueue .mapped) = true ∧
      accepts (queued .mapped (command 1 0)) 7 (aQueue .mapped) = true ∧ accepts (queued .mapped (command 9 0)) 7 (aQueue .mapped) = true) ∧
    (match fetchCommand heldCommand 7 { aQueue .mapped with fetched := some 0, tries := 3 } with
     | .ok (s1, cmd) => decide (fieldB cmd 64 2 = 2 * ((aQueue .mapped).head.toNat % 32768) + 1) && heldByAfter { s1 with ownIn := [] } 7 (aQueue .mapped) cmd
     | .error _ => false) = true ∧
    (let s := { queued .mapped [] with clk := 4000 }
     (match fetchCommand s 7 { aQueue .mapped with fetched := some 0 } with
      | .ok (_, cmd) => decide (fieldB cmd 64 2 ≠ 2 * ((aQueue .mapped).head.toNat % 32768) + 1)
      | .error _ => false) = true ∧ 0 + us 2 ≤ s.now ∧
       ({ aQueue .mapped with fetched := some 0 }).isSpent s = true ∧ ({ aQueue .mapped with fetched := some s.now, tries := 64 }).isSpent s = true ∧
       ({ aQueue .mapped with fetched := some s.now, tries := 63 }).isSpent s = false ∧ s.now < 0 + us 20 ∧ 0 + us 20 ≤ ({ s with clk := 40000 }).now) ∧
    (nextRunnable (crowded 255 0) = some (300, { aQueue .runnable with qprio := 0 }) ∧ (mappedQueues (crowded 255 0)).length < 256) ∧
    (∀ p ∈ [0, 1], 256 ≤ (mappedQueues (crowded 256 p)).length ∧ nextRunnable (crowded 256 p) = some (300, { aQueue .runnable with qprio := p }) ∧
      evictee (crowded 256 p) = some (255, { aQueue .mapped with since := 255 })) ∧
    ((registering descBytes .idle).sees 0 0 = true ∧ (registering descBytes .idle).queue? 5 = none ∧ ((registering descBytes .idle).ctx 0).isOpen = true ∧
      (descQueue (registering descBytes .idle) 0).isSome = true ∧ descQueue (registering [] .idle) 0 = none) ∧
    (∀ st ∈ [QState.error, .mapped], (registering descBytes st).queue? 7 = some (aQueue st) ∧ (aQueue st).ctx = 0) := by
  refine ⟨⟨by decide +kernel, by decide +kernel, by decide, by decide, by decide⟩, by decide +kernel, by decide +kernel, by decide +kernel, by decide +kernel, ?_,
    by decide +kernel, ?_⟩
  · intro p hp
    simp only [List.mem_cons, List.not_mem_nil, or_false] at hp
    rcases hp with rfl | rfl <;> decide +kernel
  · intro st hs
    simp only [List.mem_cons, List.not_mem_nil, or_false] at hs
    rcases hs with rfl | rfl <;> decide +kernel

/-- A saved team of context 0 whose core keeps its pages, its save area in pages of class 2, and the part at clk n. -/
def savedTeam (n : Nat) : State :=
  let s := (withRec (issued 1 0) 0 0 0 0).modTeam 0 (fun t => { t with st := .saved, onDie := true })
  { s.modCtx 0 (fun x => x.setReg CtxReg.saveBase 0x200000) with
    clk := n
    tlb := ⟨.die 0, 0, none, 0x200000, 0x200000, 0x20009B, 1⟩ :: s.tlb }

/-- A team that is asked to yield by clk 5, at clk n. -/
def yielding (n : Nat) : State := { (issued 1 0).modTeam 0 (fun t => { t with st := .yielding, deadline := some 5 }) with clk := n }

/-- A team that is cut, in a context with a handler. -/
def cutTeam (js : List Job) : State := { (withVec (issued 1 0)).modTeam 0 (fun t => { t with st := .cut }) with jobs := js }

/-- A group in its PREEMPT routine since 0, at clk n. -/
def inRoutine (n : Nat) : State := { (inHandler (issued 1 0) 32).modTeam 0 (fun t => { t with st := .saving }) with clk := n }

/-- A team whose group has waited at LWAIT since 0, at clk n. -/
def lwaited (n : Nat) : State := { lwaiting with clk := n }

theorem met_PreemptionEvents :
    (∀ n ∈ [20000, 19999], ∃ w, (lwaited n).team? 0 = some w ∧ (lwaited n).unit w = [w] ∧ swapReady (lwaited n) w = decide (n = 20000)) ∧
    (∀ n ∈ [4, 5], ∃ w, (yielding n).team? 0 = some w ∧ w.st = .yielding ∧ w.deadline = some 5) ∧
    (∀ js ∈ [[], [aJob]], ∃ w, (cutTeam js).team? 0 = some w ∧ w.st = .cut ∧ cutDrained (cutTeam js) w = decide (js = [])) ∧
    (((cutTeam []).groups.map (·.gid)).Nodup ∧ ((cutTeam []).ctx 0).reg64 CtxReg.trapVec ≠ 0 ∧
      ∃ g, (cutTeam []).group? 0 = some g ∧ g.ended = false ∧ g.saved = false ∧ g.hwsaved = false ∧ g.trap.masked = false) ∧
    (∀ n ∈ [100000, 100001], ∃ g, (inRoutine n).group? 0 = some g ∧ g.gid = 0 ∧ g.inRoutine = true ∧ g.ended = false ∧ g.saved = false ∧
      decide (g.entered + (((inRoutine n).ctx 0).reg CtxReg.saveLimit).toNat < (inRoutine n).clk) = decide (n = 100001)) ∧
    (∃ w, (savedTeam 0).team? 0 = some w ∧ mayRestore (savedTeam 0) w = true ∧ (savedTeam 0).unit w = [w] ∧
      (match (savedTeam 0).grid? w.ctx w.serial with
       | none => false
       | some gr => match restorePlaces { savedTeam 0 with free := 1 } [w] w.ctx gr.bytes with
         | some ([(0, 0)], false) =>
           let s0 := { savedTeam 0 with free := 1 }
           let after := (s0.setTeam { w with column := 0, layer := 0, st := .restoring }).takeCore 0 (w.onDie && w.column == 0 && w.layer == 0)
           !unitFirst (savedTeam 0) (Rec.prio gr.bytes) && !swapFirst (savedTeam 0) (Rec.prio gr.bytes) &&
           (match s0.coverSaved after 0 0 with
            | .ok s1 => decide (s1.team? 0 = some w) && (match restoreTeam (s1.withAsks (teamKey w)) (after.team? 0) w 0 0 (restoreSlot s1 w 0) with
              | .ok _ => true
              | .error _ => false)
            | .error _ => false)
         | _ => false) = true) ∧
    (∃ w, (requested (savedTeam 0)).team? 0 = some w ∧ mayRestore (requested (savedTeam 0)) w = false) ∧
    ((issued 1 0).sees 0 0 = true ∧ ((issued 1 0).ctx 0).isUp = true ∧ ((issued 1 0).teams.map (·.tid)).Nodup) := by
  refine ⟨?_, ?_, ?_, ⟨by decide +kernel, by decide +kernel, holds (by decide +kernel)⟩, ?_, holds (by decide +kernel), holds (by decide +kernel), by decide +kernel⟩
  · intro n hn
    simp only [List.mem_cons, List.not_mem_nil, or_false] at hn
    rcases hn with rfl | rfl <;> exact holds (by decide +kernel)
  · intro n hn
    simp only [List.mem_cons, List.not_mem_nil, or_false] at hn
    rcases hn with rfl | rfl <;> exact holds (by decide +kernel)
  · intro n hn
    simp only [List.mem_cons, List.not_mem_nil, or_false] at hn
    rcases hn with rfl | rfl <;> exact holds (by decide +kernel)
  · intro n hn
    simp only [List.mem_cons, List.not_mem_nil, or_false] at hn
    rcases hn with rfl | rfl <;> exact holds (by decide +kernel)

/-- A part whose core 0 reads a temperature, at clk n, with a team there. -/
def hotCore (temp : BitVec 16) (n : Nat) : State := { issued 1 0 with sensors := [(0, ⟨temp, true⟩), (1, ⟨300, false⟩)], clk := n }

/-- What its latest decision read. -/
def seenHot (s : State) : State := s.setCol 0 { s.col 0 with decided := some s.now, seen := [⟨400, true⟩, ⟨300, false⟩, ⟨0, false⟩, ⟨0, false⟩] }

/-- Column 0 with a choice of the team for layer 1, deferred or not. -/
def chosen (defer : Option Nat) (n : Nat) : State :=
  let s := seenHot (hotCore 400 n)
  s.setCol 0 { s.col 0 with choice := some (0, 1, 0), defer := defer }

/-- Column 0 with the team's move under way from 0, at clk n. -/
def moving (n : Nat) : State := ((hotCore 400 n).modTeam 0 (fun t => { t with st := .migrating })).setCol 0 { Column.start with moving := some (0, 1, 0) }

/-- Power in a state, at clk n. -/
def powered (p : Power) (n : Nat) : State := { State.reset with power := p, clk := n }

/-- A choice made at 0, at clk n. -/
def since10 (n : Nat) : State := chosen none n

theorem met_HeatAndPower :
    (0 < 4 * State.reset.grade.columns ∧ 0 < State.reset.grade.columns) ∧
    (((hotCore 400 0).col 0).choice = none ∧ ((hotCore 400 0).col 0).moving = none ∧ (hotLayers (hotCore 400 0) 0).head? = some 0 ∧
      screeChoice (seenHot (hotCore 400 0)) 0 0 = some (0, 2) ∧ hotLayers State.reset 0 = [] ∧
      ({ seenHot (hotCore 400 0) with teams := [] } |> fun s => hotLayers s 0 = [0] ∧ ∀ l ∈ hotLayers s 0, screeChoice s 0 l = none) ∧
      ((seenHot (hotCore 400 0)).col 0).decided = some (hotCore 400 0).now ∧ (seenHot (hotCore 400 0)).now < (hotCore 400 0).now + us 10) ∧
    (∀ n ∈ [0, 13000], (since10 n).now < 0 + us 10 ∨ n = 13000 ∧ 0 + us 10 ≤ (since10 n).now) ∧
    (∀ js ∈ [[], [aJob]], ∃ w, ({ chosen none 0 with jobs := js }).team? 0 = some w ∧ w.st = .running ∧ isFree { chosen none 0 with jobs := js } w = true ∧ isTarget { chosen none 0 with jobs := js } w 1 = true ∧
      isQuiet { chosen none 0 with jobs := js } w = true ∧ pendingLandings { chosen none 0 with jobs := js } w = 128 * js.length) ∧
    (∀ n ∈ [0, 4000], ((chosen (some 0) n).col 0).defer = some 0 ∧ (∃ w, (chosen (some 0) n).team? 0 = some w) ∧
      decide (0 + us 2 ≤ (chosen (some 0) n).now) = decide (n = 4000)) ∧
    (∀ n ∈ [0, 1000], ((moving n).col 0).moving = some (0, 1, 0) ∧ ∃ w, (moving n).team? 0 = some w ∧ w.deadline = none ∧
      w.st = .migrating ∧ ((moving n).teams.map (·.tid)).Nodup ∧ savedOn (moving n) 0 1 = [] ∧
      decide (0 + 64 + (moveBytes (moving n) w + 1023) / 1024 ≤ (moving n).clk) = decide (n = 1000)) ∧
    (∀ n ∈ [0, 2000], let s := { hotCore 400 n with balances := [(0, ⟨[16, 16, 16, 16], [0, 0, 0, 0], 0, [0, 0, 0, 0], 0⟩)] }
      0 < s.grade.columns / 384 ∧ decide (((getT s.balances 0).getD ⟨[16, 16, 16, 16], [0, 0, 0, 0], 0, [0, 0, 0, 0], 0⟩).ended + us 1 ≤ s.now) = decide (n = 2000)) ∧
    (10 * max (max 100 90) (max 80 89) < (max (max 100 90) (max 80 89) - min (min 100 90) (min 80 89)) * 100) ∧
    ((max (max 100 90) (max 95 99) - min (min 100 90) (min 95 99)) * 100 ≤ 10 * max (max 100 90) (max 95 99)) ∧
    (∀ p ∈ [0, 12], Power.init.since + us 1000 ≤ (powered { Power.init with point := p } 1400000).now ∧
      (if (powered { Power.init with point := p } 1400000).power.lease.isSome then (powered { Power.init with point := p } 1400000).power.cap.toNat
        else (powered { Power.init with point := p } 1400000).power.floor.toNat) < 401) ∧
    (let val : Word := 0x000100C8
     200 ≤ (val.extractLsb' 0 10 : BitVec 10).toNat ∧ (val.extractLsb' 16 16 : BitVec 16) ≠ 0x8001 ∧ ((val.extractLsb' 16 16 : BitVec 16) - 0x8001).toNat ≤ 2 ^ 15) ∧
    (isCritical (powered { Power.init with crit := true } 0) = true ∧ (powered { Power.init with crit := true } 0).power.emerg = none ∧
      isCritical (powered { Power.init with crit := false } 0) = false) ∧
    (let s := powered { Power.init with emerg := some 0 } 65000000
     s.power.emerg = some 0 ∧ 0 + us 50000 ≤ s.now ∧ (∀ u ∈ s.teams, u.isResident = false ∧ ¬(u.st = .saved ∧ u.onDie = true)) ∧ s.power.railsOff = false) ∧
    (let s := powered { Power.init with railsOff := true, emerg := some 0 } 0
     s.starting = false ∧ s.fw.recovery = false ∧ s.power.railsOff = true ∧ (∀ k ∈ s.sensors, k.2.temp.toNat < 340) ∧ s.power.outlet.toNat < 40) := by
  refine ⟨by decide, by decide +kernel, by decide +kernel, ?_, ?_, ?_, by decide +kernel, by decide, by decide, ?_, by decide, by decide +kernel, by decide +kernel, by decide +kernel⟩
  · intro js hj
    simp only [List.mem_cons, List.not_mem_nil, or_false] at hj
    rcases hj with rfl | rfl <;> exact holds (by decide +kernel)
  · intro n hn
    simp only [List.mem_cons, List.not_mem_nil, or_false] at hn
    rcases hn with rfl | rfl <;> exact ⟨by decide +kernel, ⟨_, rfl⟩, by decide +kernel⟩
  · intro n hn
    simp only [List.mem_cons, List.not_mem_nil, or_false] at hn
    rcases hn with rfl | rfl <;> exact ⟨by decide +kernel, holds (by decide +kernel)⟩
  · intro p hp
    simp only [List.mem_cons, List.not_mem_nil, or_false] at hp
    rcases hp with rfl | rfl <;> decide +kernel

/-- Context 0 that is down, its pool of one page for its two spur slots, or none. -/
def downContext (pool : Word) : State :=
  { State.reset with ctxs := [(0, (Context.init.setReg CtxReg.spurSlots 2).setReg CtxReg.poolPages pool)] }

/-- A VF's context, and one under destruction. -/
def ownedBy (fn : Nat) : State := (issued 1 0).modCtx 0 (fun x => x.setReg CtxReg.ctl (ctlWord true false fn 0))

theorem met_ContextEvents :
    (State.reset.sees 1 0 = false ∧ State.reset.sees 0 0 = true ∧ (ownedBy 5).sees 5 0 = true) ∧
    (((downContext 1).ctx 0).isUp = false ∧ ((downContext 1).ctx 0).destroying = none ∧ cfgErr ((downContext 1).ctx 0) = 0 ∧
      cfgErr ((downContext 0).ctx 0) = 0x058 / 4) ∧
    (((issued 1 0).ctx 0).isUp = true ∧ (0x00000000 : Word).getLsbD 31 = false) ∧
    (let x := ((issued 1 0).modCtx 0 (fun x => x.setReg (CtxReg.invalBase + 4) 0x2000000)).ctx 0
     (x.reg CtxReg.invalCmd).getLsbD 30 = false ∧ 2 ^ 57 ≤ x.reg64 CtxReg.invalBase) ∧
    (((issued 1 0).ctx 0).reg64 CtxReg.invalBase < 2 ^ 57 ∧ (0x80000001 : Word).toNat / 2 ^ 16 % 4 ≠ 3 ∧ (0x80000001 : Word).toNat % 2 ^ 13 ≠ 0) ∧
    (∃ y, (downContext 2).ctx? 0 = some y ∧ (1 : Word) < y.reg CtxReg.poolPages ∧ refCount (downContext 2) y 1 = 0) ∧
    (∃ y, (downContext 2).ctx? 0 = some y ∧ y.reg CtxReg.poolPages ≤ (2 : Word)) ∧
    (State.reset.grade.hasCairn = true ∧ (∀ g ∈ (issued 1 0).grids, g.ctx = 0 → g.dead = false → Rec.mode g.bytes < 2) ∧
      (∃ g ∈ (withRec (issued 1 0) 0 0 0 0x20).grids, g.ctx = 0 ∧ g.dead = false ∧ Rec.mode g.bytes = 2)) ∧
    (((ringed 1 0 0).ctx 0).reg CtxReg.cairnDir = 1 ∧ ((ringed 2 0 0).ctx 0).reg CtxReg.cairnDir = 2) ∧
    (stillFlying (issued 1 0) ((issued 1 0).ctx 0).inval = false ∧
      (let s := (invalidating 3).modCtx 0 (fun x => { x with inval := [3] }); stillFlying s (s.ctx 0).inval = true)) ∧
    (∀ i, i < 4 → localExists (downContext 2) (freeAt ((downContext 2).ctx 0) 0 + i) = true ∧
      isLost (downContext 2) (freeAt ((downContext 2).ctx 0) 0 + i) = false) ∧
    (let s := (quietState 0).modCtx 0 (fun x => { x with destroying := some 0 })
     (s.ctx 0).destroying = some 0 ∧ (∀ j ∈ s.jobs, j.ctx ≠ 0) ∧ ∀ g ∈ ({ s with grids := [] }).grids, g.ctx = 0 → g.wait.isSome = true) ∧
    (∃ x, (ownedBy 5).ctx? 0 = some x ∧ x.isUp = true ∧ x.owner = 5) ∧
    (State.reset.starting = false ∧ (State.reset.ring 0).held = []) := by
  refine ⟨by decide +kernel, by decide +kernel, by decide +kernel, by decide +kernel, by decide +kernel, holds (by decide +kernel), holds (by decide +kernel), by decide +kernel, by decide +kernel,
    by decide +kernel, by decide +kernel, by decide +kernel, holds (by decide +kernel), by decide +kernel⟩

/-- A part with ports 0 up and 1 down, in a life-cycle state, its peers' window open. -/
def linked (life : BitVec 2) : State :=
  { State.reset with ports := [(0, ⟨true, true, 3, 0, 0⟩)], fw := { Firmware.init with life := life }, mgmt := [(0x2010, 0x20000)] }

theorem met_FabricEvents :
    (State.reset.starting = false ∧ State.reset.fw.recovery = false ∧ State.reset.pcieUp = true ∧ runErr State.reset 0x10000 64 = none ∧
      runErr (withStack { Stack.init with lostAtoms := [0x801] }) 0x10000 64 = some (true, 0x10020) ∧
      runErr (withStack Stack.init) (2 ^ 36) 4 = some (false, 2 ^ 36)) ∧
    (∀ i, i < 2 → localExists State.reset (0x10000 + i) = true ∧ isLost State.reset (0x10000 + i) = false) ∧
    (let off := 57344 * 16 * 65536 - 1
     localExists State.reset (off + 1) = false ∧ ∀ j, j < 1 → localExists State.reset (off + j) = true) ∧
    isHeld (withStack { Stack.init with win := 1, busy := true }) (2 ^ 40) = true ∧
    (∃ r, getT ({ State.reset with remote := [(7, ⟨0, some (3, 0), none, 0, some 0, none, 2, 0, 0x100, .wr 1 [5], 0⟩)] }).remote 7 = some r ∧
      r.isPosted = true) ∧
    (∃ r, getT ({ State.reset with remote := [(7, ⟨0, some (3, 0), none, 0, none, none, 2, 0, 0x100, .wr 1 [5], 0⟩)] }).remote 7 = some r ∧
      r.tgt = 2 ∧ r.tag = none ∧ r.own = none) ∧
    (0x10000 % 8 = 0 ∧ 0x10000 + 8 ≤ 2 ^ 41 ∧ localExists State.reset 0x10000 = true ∧ localErr State.reset (isLost State.reset) 0x10000 8 = none ∧ isHeld State.reset 0x10000 = false) ∧
    (anyPortUp (linked 2) = true ∧ (linked 2).peerBound 0x2008 ≤ 0x10000 ∧ 0x10000 + 32 ≤ (linked 2).peerBound 0x2010 ∧
      localExists (linked 2) 0x10000 = true ∧ localErr (linked 2) (isLost (linked 2)) 0x10000 32 = none ∧ isHeld (linked 2) 0x10000 = false ∧ (linked 2).peerBound 0x2010 < 0x20000 + 32) ∧
    anyPortUp State.reset = false ∧
    (0 < (linked 2).grade.ports ∧ ((linked 2).port 0).up = true ∧ ((linked 2).port 1).up = false ∧ (linked 2).fw.life = 2 ∧ (linked 3).fw.life = 3) := by
  refine ⟨by decide +kernel, by decide +kernel, by decide +kernel, by decide +kernel, ⟨_, rfl, rfl⟩, ⟨_, rfl, rfl, rfl, rfl⟩, by decide +kernel, by decide +kernel, by decide +kernel,
    by decide +kernel⟩

/-- Firmware with a command's operands. -/
def firmware (life : BitVec 2) (nonce : Option (BitVec 128)) (writing : Bool) : State :=
  { State.reset with fw := { Firmware.init with life := life, nonce := nonce, writing := writing } }

theorem met_BootEvents :
    (State.reset.starting = false ∧ State.reset.fw.status ≠ 1 ∧ State.reset.fw.running = some ((0x10000001 : Word).getLsbD 24) ∧
      State.reset.fw.running ≠ some ((0x11000001 : Word).getLsbD 24) ∧ ((0x11004000 : Word).extractLsb' 0 16 : BitVec 16).toNat ≤ 16384 ∧
      16384 < ((0x11004001 : Word).extractLsb' 0 16 : BitVec 16).toNat ∧ (0x11000001 : Word).toNat / 2 ^ 28 = 1 ∧ (0x20000000 : Word).toNat / 2 ^ 28 = 2 ∧
      (0x30000000 : Word).toNat / 2 ^ 28 = 3) ∧
    (∀ c ∈ [((0 : BitVec 2), (1 : BitVec 8), (0 : Fin 3)), (1, 2, 1), (1, 3, 2), (2, 3, 2)], let k : Token := ⟨c.2.1, true, 5, some c.2.2⟩
      k.zeros = true ∧ (firmware c.1 (some 5) false).fw.nonce = some k.nonce ∧ (firmware c.1 none false).fw.nonce ≠ some k.nonce ∧
      (((firmware c.1 (some 5) false).fw.life = 0 ∧ k.transition = 1 ∧ k.key = some 0) ∨
        ((firmware c.1 (some 5) false).fw.life = 1 ∧ k.transition = 2 ∧ k.key = some 1) ∨
        (((firmware c.1 (some 5) false).fw.life = 1 ∨ (firmware c.1 (some 5) false).fw.life = 2) ∧ k.transition = 3 ∧ k.key = some 2))) ∧
    ((firmware 2 none true).fw.writing = true ∧ (firmware 2 none true).fw.selSlot = false ∧
      acceptable 2 0 ⟨2, 0, some 1⟩ = true ∧ acceptable 2 0 ⟨2, 0, none⟩ = false ∧ acceptable 2 1 ⟨2, 0, some 1⟩ = false ∧ acceptable 2 0 ⟨1, 0, some 1⟩ = true) := by
  refine ⟨by decide, ?_, by decide⟩
  intro c hc
  simp only [List.mem_cons, List.not_mem_nil, or_false] at hc
  rcases hc with rfl | rfl | rfl | rfl <;> decide

theorem met_StepTakesTheAgenda :  (∀ m ∈ [Move.event .dispatch, .partly .dispatch ⟨[0], true⟩, .land 0, .tick 3],
    ∃ s : State, s.agenda = m :: [.tick 3]) := fun m _ => ⟨{ State.reset with agenda := [m, .tick 3] }, rfl⟩

theorem met_MemoryStaysCanonical : ∃ t, wfB State.reset.mem = true ∧ wfB State.reset.hostMem = true ∧
    step { State.reset with agenda := [.tick 1] } = .next t := ⟨_, by decide, by decide, rfl⟩

/-! ## Reads of the management window (R3, R60, R76, R381, R382, R384, R391, R395) -/

/-- Resets that the register tables give, as PF0 reads them. -/
theorem test_window_resets : ([0x0, 0x4, 0x8, 0x104, 0x108, 0x110, 0x1000, 0x1004, 0x100C, 0x1010, 0x3000, 0x1010B0, 0x1010B4].map
      (State.reset.windowRead 0)) =
    [0x0100600F, 0xC0210000, 1024, 400, 400, 65, 0xFFFF, 0xFFFF, 0x2000, 64, 0x40000000, 100000, 20000] := by
  decide +kernel

/-- A VF reads the capability registers, and 0 in a block that it does not own and of the power registers. -/
theorem test_window_of_a_vf : ([0x0, 0x104, 0x1010B0].map (State.reset.windowRead 3)) = [0x0100600F, 0, 0] := by
  decide +kernel

/-- The Shoulder's capability word (R3), and two sensors in one word, the lower core in the low half (R372). -/
theorem test_window_words : ({ State.reset with grade := .shoulder }.windowRead 0 0 = 0x02003003) ∧
    ({ State.reset with sensors := [(0, ⟨380, true⟩), (1, ⟨100, false⟩)] }.windowRead 0 0x8000 = 0x0064017C) := by
  decide +kernel

end Sys2Proof.Tests
end

section
/-! The exact arithmetic of numeric values against the rational numbers they stand for (R159, R160, R206, R207). Sums and comparisons
work in units of a common power of two, so the one fact they rest on is that `units` times its unit is the value. -/

namespace Sys2Proof.Machine.Num

@[simp] theorem rat?_fin (s : Bool) (m : Nat) (e : Int) :
    (fin s m e).rat? = some ((if s then -1 else 1) * (m : ℚ) * (2 : ℚ) ^ e) := rfl

/-- Only the finite values have a rational number. -/
theorem eq_fin_of_rat? {a : Num} {x : ℚ} (h : a.rat? = some x) :
    ∃ s m e, a = fin s m e ∧ (if s then -1 else 1) * (m : ℚ) * (2 : ℚ) ^ e = x := by
  cases a with
  | nan => cases h
  | inf s => cases h
  | fin s m e => exact ⟨s, m, e, rfl, Option.some.inj h⟩

/-- An integer count of units of 2^u is the value it was taken from, for a unit at or below the exponent. -/
theorem units_mul_unit (s : Bool) (m : Nat) {e u : Int} (h : u ≤ e) :
    (units s m e u : ℚ) * (2 : ℚ) ^ u = (if s then -1 else 1) * (m : ℚ) * (2 : ℚ) ^ e := by
  have shift : (2 : ℚ) ^ (e - u).toNat * (2 : ℚ) ^ u = (2 : ℚ) ^ e := by
    rw [← zpow_natCast, ← zpow_add₀ two_ne_zero, Int.toNat_of_nonneg (by omega), sub_add_cancel]
  rw [units, ← shift]
  push_cast
  ring

/-- A sign and a magnitude make up the integer they were taken from. -/
theorem sign_mul_natAbs_cast (k : Int) : (if decide (k < 0) then -1 else 1) * (k.natAbs : ℚ) = k := by
  rw [Nat.cast_natAbs, Int.cast_abs]
  by_cases h : k < 0
  · simp [h, abs_of_neg (Int.cast_lt_zero (R := ℚ) |>.2 h)]
  · simp [h, abs_of_nonneg (Int.cast_nonneg (R := ℚ) (not_lt.1 h))]

theorem rat?_neg {a : Num} {x : ℚ} (ha : a.rat? = some x) : a.neg.rat? = some (-x) := by
  obtain ⟨s, m, e, rfl, rfl⟩ := eq_fin_of_rat? ha
  cases s <;> simp [neg]

theorem rat?_mul {a b : Num} {x y : ℚ} (ha : a.rat? = some x) (hb : b.rat? = some y) :
    (a.mul b).rat? = some (x * y) := by
  obtain ⟨s, m, e, rfl, rfl⟩ := eq_fin_of_rat? ha
  obtain ⟨t, n, f, rfl, rfl⟩ := eq_fin_of_rat? hb
  have signs : (if s != t then -1 else 1 : ℚ) = (if s then -1 else 1) * (if t then -1 else 1) := by
    cases s <;> cases t <;> simp
  rw [mul, rat?_fin, signs, zpow_add₀ two_ne_zero, Nat.cast_mul]
  congr 1
  ring

/-- The exact sum, in units of the smaller exponent. -/
theorem rat?_add {a b : Num} {x y : ℚ} (ha : a.rat? = some x) (hb : b.rat? = some y) :
    (a.add b).rat? = some (x + y) := by
  obtain ⟨s, m, e, rfl, rfl⟩ := eq_fin_of_rat? ha
  obtain ⟨t, n, f, rfl, rfl⟩ := eq_fin_of_rat? hb
  rw [← units_mul_unit s m (min_le_left e f), ← units_mul_unit t n (min_le_right e f), ← add_mul, ← Int.cast_add, add]
  split
  case isTrue h => simp [h]
  case isFalse => rw [rat?_fin, sign_mul_natAbs_cast]

theorem lt_iff {a b : Num} {x y : ℚ} (ha : a.rat? = some x) (hb : b.rat? = some y) : a.lt b = true ↔ x < y := by
  obtain ⟨s, m, e, rfl, rfl⟩ := eq_fin_of_rat? ha
  obtain ⟨t, n, f, rfl, rfl⟩ := eq_fin_of_rat? hb
  rw [← units_mul_unit s m (min_le_left e f), ← units_mul_unit t n (min_le_right e f),
    mul_lt_mul_iff_left₀ (zpow_pos two_pos _), Int.cast_lt, lt, decide_eq_true_iff]

theorem isNan_eq_false_of_rat? {a : Num} {x : ℚ} (h : a.rat? = some x) : a.isNan = false := by
  obtain ⟨s, m, e, rfl, -⟩ := eq_fin_of_rat? h
  rfl

/-- Equal values are those of which neither is the smaller. -/
theorem eq_iff {a b : Num} {x y : ℚ} (ha : a.rat? = some x) (hb : b.rat? = some y) : a.eq b = true ↔ x = y := by
  simp only [eq, isNan_eq_false_of_rat? ha, isNan_eq_false_of_rat? hb, Bool.not_false, Bool.true_and, Bool.and_eq_true,
    Bool.not_eq_true', ← Bool.not_eq_true, lt_iff ha hb, lt_iff hb ha, not_lt]
  exact ge_antisymm_iff.symm

end Sys2Proof.Machine.Num

namespace Sys2Proof

/-- Settles O12: the sum and the comparisons are those of the integers in a common unit, the product multiplies signs, significands and
powers of two. -/
theorem sumsAndProductsAreExact : Obligations.SumsAndProductsAreExact := fun _ _ _ _ ha hb =>
  ⟨Machine.Num.rat?_add ha hb, Machine.Num.rat?_mul ha hb, Machine.Num.rat?_neg ha, Machine.Num.lt_iff ha hb, Machine.Num.eq_iff ha hb⟩

end Sys2Proof
end

section
/-! Instruction words (R29 to R43). -/

namespace Sys2Proof

open Laws.Encoding in
/-- Settles O2, by cases on the instruction: the round trip of each constructor, in the order of `Instr`. -/
theorem everyEncodingDecodes : Obligations.EveryEncodingDecodes := fun i =>
  Instr.casesOn (motive := Statement) i
    iadd isub imul imulhS imulhN imad iaddi iminS iminN imaxS imaxN iadd64 isub64 imadw leai and or xor not shl shrN shrS rotl
    bfxS bfxN bfi popc clz brev mov movi icmpS icmpN fcmpF32 fcmpF64 icmpiS icmpiN plop pmovGet pmovSet faddF32 fsubF32 fmulF32
    ffmaF32 fminF32 fmaxF32 faddiF32 fmuliF32 faddF16x2 fmulF16x2 ffmaF16x2 fminF16x2 faddBf16x2 fmulBf16x2 ffmaBf16x2
    fminBf16x2 faddF64 fsubF64 fmulF64 ffmaF64 fminF64 fmaxF64 fmaxF16x2 fmaxBf16x2 frcp frsq fsqrt fexp2 flog2 fsin fcos ftanh
    cvtFi cvtIf cvtFf cvtNr cvtWd frnd fldexp shfl shflx shflup shfldn vote ballot lscan lred sreadV matchLanes iabs ard awr bra
    bral brx call callx ret exit trap ld st pref atomO atomU redO redU uiadd uisub uimul uimad uiaddi uiadd64 umov umovi uand
    uor uxor ushl ushrN ushrS uicmpS uicmpN uplop ufadd ufmul uffma ufcmp sreadK ubfx unop ubra ubral yield tretRetry tretSkip
    utrap kill killFail killSave fence binit barr barrn bxpct bwait tsync csync cpgs cpsg cpgg cptr cpga cpmc cpmcr cpwait
    bufget bufput bufwait bufq shnew shfree hrowUp hrowDn hrowQ mmab mmao mmag dmma aclr ald ast obres obfree obld rsalloc
    rsfill rspin rsunpin rsrev rsq ctabWr ctabSwap ctabRd launch launchNb lwait lpoll spurFork spurJoin spurCancel spurQ sysrd
    syswr xprobe xinval crsetCons crsetThresh crsetProd crsetEnd crposProd crposCons crposStatus lmark uld ust dvsave dvload
    pageFaultRunahead faultBatchPost memReply controllerRequest hwPromote promotionDone writeBackDone patrolScrub dieFailing
    bankHot remapStart remapPageMoved remapDone crestWinWrite crestWinDone hbLostclr hbCeClear walkDone copyJobStart copyItem
    parkRelease mmaRetire residencyLoadDone bwaitTimeout joinTimeout lwaitWake swapOut launchAccept dispatch backfillStop
    dispatchPreempt gridComplete reductionDrain ticketPass spurReclaimDone preemptDeadline cutComplete saveTimeout teamRestore
    sensorSample screeDecision migrationStart migrationDeferExpiry migrationDone balanceWindow clockPointChange powerEnforce
    thermEmerg emergDeadline emergRailsOff thermResume pwrCap leaseExpired logicalClockAdvance queueNotify queueLaunchCommand
    queueWaitCommand queueSequence queueMap queueEvict queueIdle qregRegister qregUnregister qregReset hostInvalidate
    hostInvalidateDone contextCreate contextDestroy ctxDown preemptRequest tqConsWrite tqReplay tqAbandon poolPush cairnDirWrite
    cairnConsWrite cairnProdWrite evqConsWrite registerWrite hostBar4Read hostBar4Write hostTimeout pcieDown peerRequest
    peerTimeout linkDown linkUp portDisable keyRollover spdmRequest coldReset warmReset vfFlr startupDone lcWriteImage
    lcWriteImageDone lcSubmitToken lcFetchNonce illegalOpcode fetchFault hostAtomicop cairnEndWrite evqPendClear

/-- Settles O1: the decoder is run on each word. -/
theorem knownWords : Obligations.KnownWords :=
  ⟨rfl, rfl, rfl, rfl, rfl, rfl, rfl, rfl, rfl, rfl, rfl, rfl, rfl, rfl⟩

end Sys2Proof
end

section
/-! How an issued instruction completes, traps or waits, said once for the shared operations that run it (R39, R184, R327). -/

namespace Sys2Proof.Machine

/-- What retiring comes to in any state that knows the group. -/
theorem retire_passed_of_found {s : State} {e : Env} {g : Group} (hg : s.group? e.g.gid = some g) (r : Regs) (x : Option Latch) :
    Passed s (s.retire e { e.g with regs := r, latch := x }) e x
      ({ e.g with regs := r, latch := x }.complete e.c.mask e.c.size) where
  frame := retireAt_frame rfl
  found := by
    unfold State.retire
    rw [group?_of (retireAt_groups _ _ _), setGroup_group?, hg]
    exact if_pos rfl
  group := rfl

theorem completes_of_retire {i : Instr} {s s1 : State} {e : Env} {g : Group} {r : Regs} {x : Option Latch} {R : Regs → Prop}
    (hi : exec i s = .next (s1.retire e { e.g with regs := r, latch := x })) (hg : s1.group? e.g.gid = some g)
    (hR : R (r.advance e.c.mask e.c.size)) : Completes i s s1 e x R :=
  ⟨_, _, hi, retire_passed_of_found hg r x, hR⟩

theorem group?_gid_of_env {s : State} {e : Env} (he : s.env? = some e) : s.group? e.g.gid = some e.g := by
  rw [env_gid he]; exact (env_of he).2.1

theorem team?_tid_of_env {s : State} {e : Env} (he : s.env? = some e) : s.team? e.t.tid = some e.t := by
  obtain ⟨-, -, ht, -, -⟩ := env_of he
  rw [env_tid he]; exact ht

/-- An instruction that only passes. -/
theorem completes_of_retire_same {i : Instr} {s : State} {e : Env} (he : s.env? = some e)
    (hi : exec i s = .next (s.retire e e.g)) : Completes i s s e e.g.latch (WritesNone e) :=
  completes_of_retire hi (group?_gid_of_env he) (retire_none e)

/-- A privileged instruction outside a handler traps, and in one passes with a false guard. -/
theorem privileged_of_exec {i : Instr} {q : Pred} {f : State → Env → Except Stop State}
    (hi : ∀ s, exec i s = s.privileged q (f s)) : Privileged i q := fun s _ he =>
  ⟨fun hm => (hi s).trans (privileged_out he hm),
   fun hm hq => completes_of_retire_same he ((hi s).trans ((privileged_in he hm).trans (uniform_off he hq)))⟩

theorem cairnUnit_present {s : State} (h : s.grade.hasCairn = true) (f : State → Out) : s.cairnUnit f = f s := if_pos h

section
variable {s : State} {e : Env} (he : s.env? = some e) (hc : s.grade.hasCairn = true) (hm : e.g.trap.masked = false)
include he hc hm

theorem crset_out (q : Pred) (off : Nat) (b : KReg) (takes : Context → Word → Bool) (f : Word → Word) :
    s.crset q off b takes f = .next (s.raiseTrap e.c e.g 5 0 0 e.c.mask 0) :=
  (cairnUnit_present hc _).trans (privileged_out he hm)

theorem crpos_out (q : Pred) (d : KReg) (f : Env → Word) :
    s.crpos q d f = .next (s.raiseTrap e.c e.g 5 0 0 e.c.mask 0) :=
  (cairnUnit_present hc _).trans (privileged_out he hm)

end

end Sys2Proof.Machine

namespace Sys2Proof
open Machine

/-- Settles O25: each of these instructions is run by `State.privileged`, those of the Cairn unit once the unit is there. -/
theorem privilegedInstructions : Obligations.PrivilegedInstructions := fun g d _ b _ _ _ _ =>
  ⟨privileged_of_exec fun _ => rfl, privileged_of_exec fun _ => rfl, privileged_of_exec fun _ => rfl,
   privileged_of_exec fun _ => rfl, privileged_of_exec fun _ => rfl, privileged_of_exec fun _ => rfl,
   privileged_of_exec fun _ => rfl, privileged_of_exec fun _ => rfl, privileged_of_exec fun _ => rfl,
   privileged_of_exec fun _ => rfl, privileged_of_exec fun _ => rfl,
   fun s _ he hc hm =>
     ⟨(crset_out he hc hm .. : execCrsetCons g b s = _), (crset_out he hc hm .. : execCrsetThresh g b s = _),
      (crset_out he hc hm .. : execCrsetProd g b s = _), (crset_out he hc hm .. : execCrsetEnd g b s = _),
      (crpos_out he hc hm .. : execCrposProd g d s = _), (crpos_out he hc hm .. : execCrposCons g d s = _),
      (crpos_out he hc hm .. : execCrposStatus g d s = _)⟩⟩

end Sys2Proof
end

section
/-! Fetching words of code that lie on this chip (R34, R39, R85). -/

namespace Sys2Proof.Machine

/-- An instruction that stops with a class H cause traps. -/
theorem traps_of_run {i : Instr} {s : State} {e : Env} {f : Env → Except Stop State} {cause info addr : Nat} {lanes : Option Mask}
    {m : Mask} (hi : exec i s = s.run f) (he : s.env? = some e) (hf : f e = .error (.trap cause info addr lanes 0))
    (hm : lanes.getD e.c.mask = m) : Traps i s e cause info addr m :=
  hm ▸ hi.trans (run_stop he hf)

theorem chunks_within {va n : Nat} (h : va % 65536 + n ≤ 65536) : chunks va n = [(va, n)] := if_pos h

theorem pieceErr_loc_none {s : State} {va n pa : Nat} {leaf : Leaf} (h : localErr s (isLost s) pa n = none) :
    pieceErr s none ⟨va, n, .loc pa, leaf⟩ = none := by
  unfold pieceErr
  simp only [h, Option.map_none]

/-- Step 4 of R156 passes where no piece fails. -/
theorem checkPlaces_ok {s : State} {ws : Option (List (Nat × Byte))} {ls : List (Nat × List Piece)}
    (h : ∀ l ∈ ls, ∀ p ∈ l.2, pieceErr s ws p = none) : checkPlaces s ws ls = .ok () := by
  have hn : ls.findSome? (fun l => l.2.findSome? (pieceErr s ws)) = none :=
    List.findSome?_eq_none_iff.2 fun l hl => List.findSome?_eq_none_iff.2 (h l hl)
  unfold checkPlaces
  rw [hn]

section
variable {s s1 : State} {e : Env} {va : Nat}

/-- A word of code whose address does not translate. -/
theorem codeWord_of_xlate_error {x : XErr} (hp : va % 65536 + 4 ≤ 65536) (hv : va + 4 ≤ 2 ^ 57)
    (hx : xlate s e.t.ctx e.agent (some e.spur) e.g.trap.masked .fetch va = .error (.x x)) :
    codeWord s e va = .error (fetchStop s e.c va x) := by
  unfold codeWord
  rw [if_neg (by omega), chunks_within hp]
  simp only [codePieces, hx]
  rfl

/-- A word of code in local memory: what is stored there, met by the L2 of its line. -/
theorem codeWord_of_xlate_loc {pa : Nat} {leaf : Leaf} (hp : va % 65536 + 4 ≤ 65536) (hv : va + 4 ≤ 2 ^ 57)
    (hx : xlate s e.t.ctx e.agent (some e.spur) e.g.trap.masked .fetch va = .ok (s1, .loc pa, leaf))
    (hh : isHeld s1 pa = false) (hl : localErr s1 (isLost s1) pa 4 = none) :
    codeWord s e va =
      .ok (s1.dieMet e.t.ctx false [⟨va, 4, .loc pa, leaf⟩], BitVec.ofNat 32 (leNat (readB s1.mem pa 4)), false) := by
  have hc : checkPlaces s1 none [(0, [⟨va, 4, .loc pa, leaf⟩])] = .ok () :=
    checkPlaces_ok (by simpa using pieceErr_loc_none hl)
  unfold codeWord
  rw [if_neg (by omega), chunks_within hp]
  simp only [codePieces, hx]
  simp [bind, Except.bind, pure, Except.pure, Piece.isHeld, hh, hc, readReqs, storedCode, State.loadRun]

theorem firstWord_of_error {z : Stop} (hf : e.g.fetched = none) (hw : codeWord s e e.c.pc.toNat = .error z) :
    firstWord s e = .error z := by
  unfold firstWord
  rw [hf]
  simp only [hw]
  rfl

theorem firstWord_of_near {w : Word} (hf : e.g.fetched = none) (hw : codeWord s e e.c.pc.toNat = .ok (s1, w, false)) :
    firstWord s e = .ok (s1, e, w) := by
  unfold firstWord
  rw [hf]
  simp only [hw]
  rfl

theorem codeLit_of_short {w : Word} (hl : isLong (opcodeOf w.toNat) = false) : codeLit s e w = .ok (s, 0) := by
  unfold codeLit
  rw [hl]
  rfl

theorem codeLit_of_near {w lit : Word} (hl : isLong (opcodeOf w.toNat) = true) (hf : e.g.fetched = none)
    (hw : codeWord s e (e.c.pc.toNat + 4) = .ok (s1, lit, false)) : codeLit s e w = .ok (s1, lit) := by
  unfold codeLit
  rw [hl, hf]
  simp only [hw]
  rfl

end

/-- The fetch of an issued instruction that stops at its first word. -/
theorem fetchFault_stops {s : State} {e : Env} {z : Stop} (he : s.env? = some e) (hf : e.g.fetched = none)
    (hw : codeWord s e e.c.pc.toNat = .error z) : exec .fetchFault s = .next (s.stopped e.c e.g z) := by
  refine run_stop he ?_
  rw [firstWord_of_error hf hw]

theorem stopped_pageFault_done {s : State} {c : Issue} {g : Group} {f : FaultRun} (hd : f.done = true) :
    s.stopped c g (.pageFault f) = { s.setGroup { g with latch := none, park := some ⟨.faultRun f, s.clk⟩ } with cur := none } := by
  simp only [State.stopped, hd, Bool.not_true, Bool.and_false, Bool.false_eq_true, if_false]

/-- A page fault that takes no run-ahead parks the group with its batch. -/
theorem waits_of_pageFault {i : Instr} {s : State} {e : Env} {f : FaultRun} (he : s.env? = some e) (hd : f.done = true)
    (hi : exec i s = .next (s.stopped e.c e.g (.pageFault f))) : Waits i s e (.faultRun f) := by
  rw [stopped_pageFault_done hd] at hi
  refine ⟨_, { e.g with latch := none, park := some ⟨.faultRun f, s.clk⟩ }, hi, ?_, rfl, rfl, rfl, fun _ => rfl⟩
  refine (setGroup_group? s _ e.g.gid).trans ?_
  rw [if_pos rfl, group?_gid_of_env he]
  rfl

end Sys2Proof.Machine

namespace Sys2Proof
open Machine

/-- Settles O24: TRAP, UTRAP and an unassigned opcode stop with their cause; a code address that does not translate stops the fetch of the
first word. -/
theorem softwareTraps : Obligations.SoftwareTraps := fun _ _ _ _ he =>
  ⟨fun h => traps_of_run rfl he (if_neg h) rfl, fun h => completes_of_retire_same he (run_ok he (if_pos h)),
   fun h => traps_of_run (lanes := none) (uniform_on he h) he rfl rfl, fun h => completes_of_retire_same he (uniform_off he h),
   traps_of_run (f := fun _ => trapWith 1 0 0) rfl he rfl rfl,
   fun hf hp hv =>
     ⟨fun _ hx => fetchFault_stops he hf (codeWord_of_xlate_error hp hv hx),
      fun _ hx => waits_of_pageFault he rfl (fetchFault_stops he hf (codeWord_of_xlate_error hp hv hx))⟩⟩

end Sys2Proof
end

section
/-! An issue of a group from the choice of its lanes to the decoded instruction (R39, R184). -/

namespace Sys2Proof.Machine

theorem leNat_lt (bs : List Byte) : leNat bs < 256 ^ bs.length := by
  induction bs with
  | nil => exact Nat.one_pos
  | cons b t ih =>
    have hb := b.isLt
    rw [leNat, List.length_cons, pow_succ]
    omega

theorem readB_length (m : BMap 8) (a n : Nat) : (readB m a n).length = n := by simp [readB]

/-- A word of memory is its 32 bits. -/
theorem ofNat_word_toNat (m : BMap 8) (a : Nat) : (BitVec.ofNat 32 (leNat (readB m a 4))).toNat = leNat (readB m a 4) := by
  have h := leNat_lt (readB m a 4)
  rw [readB_length] at h
  rw [BitVec.toNat_ofNat]
  exact Nat.mod_eq_of_lt h

/-- The choice of a group's lanes leaves its number and what it has fetched. -/
theorem choose_keeps {g0 g : Group} {b : Pc} {ex : Mask} (h : g0.choose = some (g, b, ex)) :
    g.gid = g0.gid ∧ g.fetched = g0.fetched := by
  unfold Group.choose at h
  dsimp only at h
  split at h
  · cases h
  · cases h; exact ⟨rfl, rfl⟩

/-- A ready group with nothing under way fetches where its lanes are chosen. -/
theorem prepare_of_ready {s : State} {gid : Nat} {g0 g : Group} {b : Pc} {ex : Mask} (hg : s.group? gid = some g0)
    (hr : g0.ready s = true) (hp : ∀ f n, g0.park ≠ some ⟨.reply f, n⟩) (hc : g0.choose = some (g, b, ex)) :
    prepare s gid = fetchNext (s.issueWith g ⟨gid, b, ex, 0, 0, 4, false⟩) ⟨gid, b, ex, 0, 0, 4, false⟩ := by
  unfold prepare
  rw [hg]
  dsimp only
  rw [if_neg (by simp [hr])]
  split
  next f n h => exact absurd h (hp f n)
  next => rw [hc]

/-- The environment of a fresh issue shows the issue and the group as chosen. -/
theorem env_of_issueWith {s : State} {g0 g : Group} {c : Issue} {e : Env} (hg : s.group? g.gid = some g0) (hc : c.gid = g.gid)
    (he : (s.issueWith g c).env? = some e) : e.c = c ∧ e.g = g := by
  obtain ⟨hcur, hgr, -, -, -⟩ := env_of he
  have hec : e.c = c := (Option.some.inj hcur).symm
  have hset : (s.issueWith g c).group? g.gid = some g :=
    (setGroup_group? s g g.gid).trans (by rw [if_pos rfl, hg]; rfl)
  rw [hec, hc, hset] at hgr
  exact ⟨hec, (Option.some.inj hgr).symm⟩

/-- The words at hand are decoded for their issue. -/
theorem fetchNext_of_words {s s1 s3 : State} {c0 c1 : Issue} {e : Env} {w lit : Word} (he : s.env? = some e)
    (h1 : firstWord s e = .ok (s1, e, w)) (hc : c1 = { c0 with word := w, size := sizeOf w.toNat })
    (h2 : codeLit { s1 with cur := some c1 } { e with c := c1 } w = .ok (s3, lit)) :
    fetchNext s c0 = decodeIssue { s3.noteIssue e { c1 with lit := lit } with cur := some { c1 with lit := lit } }
      { c1 with lit := lit } := by
  subst hc
  unfold fetchNext
  rw [he]
  simp only [h1, h2]

theorem decodeIssue_of_instr {s : State} {c : Issue} {i : Instr} (hu : absentUnit s.grade (opcodeOf c.word.toNat) = false)
    (hd : decodeWords c.word.toNat c.lit.toNat = .instr i) : decodeIssue s c = .exec i s := by
  unfold decodeIssue
  rw [hu, hd]
  rfl

@[simp] theorem noteIssue_grade (s : State) (e : Env) (c : Issue) : (s.noteIssue e c).grade = s.grade := by
  unfold State.noteIssue
  split <;> rfl

/-- An issue that the agenda names is prepared and run. -/
theorem step_of_issue {s : State} {gid : Nat} {rest : List Move} (h : s.agenda = .issue gid :: rest) :
    step s = runPrepared (prepare { s with agenda := rest, part := none } gid) := by
  unfold step
  rw [h]
  rfl

end Sys2Proof.Machine

namespace Sys2Proof
open Machine

/-- Settles O3: the group's lanes are chosen, its words are read where they lie, and what they decode to is run. -/
theorem stepRunsTheDecodedInstruction : Obligations.StepRunsTheDecodedInstruction := by
  intro s gid rest g0 g b ex e s1 s4 pa lit leaf i r c0 w c1 c2 met s2 hagenda hg hready hchoose hfetched hpark he hpage htop
    hx hheld herr hshort hlong hunit hdec
  obtain ⟨hgid0, hfetched0⟩ := choose_keeps hchoose
  have hgid : g.gid = gid := hgid0.trans (gid_of hg)
  obtain ⟨hec, heg⟩ := env_of_issueWith (hgid ▸ hg) hgid.symm he
  have hf : e.g.fetched = none := by rw [heg, hfetched0]; exact hfetched
  have hpc : e.c.pc = b := by rw [hec]
  have hw : (BitVec.ofNat 32 w).toNat = w := ofNat_word_toNat _ _
  have hfirst : firstWord (r.issueWith g c0) e = .ok (met s1 b.toNat pa leaf, e, BitVec.ofNat 32 w) :=
    firstWord_of_near hf (by rw [hpc]; exact codeWord_of_xlate_loc hpage htop hx hheld herr)
  have hlit : codeLit s2 { e with c := c1 } (BitVec.ofNat 32 w) = .ok (s4, BitVec.ofNat 32 lit) ∧
      (BitVec.ofNat 32 lit).toNat = lit := by
    cases hl : isLong (opcodeOf w) with
    | false =>
      obtain ⟨rfl, rfl⟩ := hshort hl
      exact ⟨codeLit_of_short (by rw [hw]; exact hl), rfl⟩
    | true =>
      obtain ⟨hpage2, htop2, s3, pb, lv, hx2, hheld2, herr2, rfl, rfl⟩ := hlong hl
      exact ⟨codeLit_of_near (by rw [hw]; exact hl) hf
        (codeWord_of_xlate_loc (va := b.toNat + 4) (by omega) (by omega) hx2 hheld2 herr2), ofNat_word_toNat _ _⟩
  obtain ⟨hcode, hlitNat⟩ := hlit
  have hc1 : c1 = { c0 with word := BitVec.ofNat 32 w, size := sizeOf (BitVec.ofNat 32 w).toNat } := by rw [hw]
  have hdecode : decodeIssue { s4.noteIssue e c2 with cur := some c2 } c2 = .exec i { s4.noteIssue e c2 with cur := some c2 } :=
    decodeIssue_of_instr (by rw [noteIssue_grade, hw]; exact hunit) (by rw [hw, hlitNat]; exact hdec)
  have hprepare : prepare r gid = .exec i { s4.noteIssue e c2 with cur := some c2 } :=
    (prepare_of_ready (s := r) hg hready hpark hchoose).trans ((fetchNext_of_words he hfirst hc1 hcode).trans hdecode)
  exact (step_of_issue hagenda).trans (congrArg runPrepared hprepare)

end Sys2Proof
end

section
/-! Reads of a group that meet no obstacle (R82 to R88, R149 to R151, R156): translating for them is a use of the caches, and each lane
gets the bytes of its place. -/

namespace Sys2Proof.Machine

/-! ## What a read's translation leaves alone -/

theorem tlbUsed_usesOnly (s : State) (t : TlbEntry) : UsesOnly s (s.tlbUsed t) := ⟨fun _ => rfl, fun _ h => h, rfl⟩

theorem walkUsed_usesOnly (s : State) (w : WalkEntry) : UsesOnly s (s.walkUsed w) := ⟨fun _ => rfl, fun _ h => h, rfl⟩

theorem tlbFill_usesOnly (s : State) (t : TlbEntry) (us : List TlbUnit) : UsesOnly s (s.tlbFill t us) := by
  induction us with
  | nil => exact .refl s
  | cons u us ih => exact ih.trans (tlbUsed_usesOnly _ _)

theorem leafOf_usesOnly {s s1 : State} {c : Nat} {a : Agent} {spur : Option Word} {va e lvl : Nat}
    (h : leafOf s c a spur va = .ok (s1, e, lvl)) : UsesOnly s s1 := by
  unfold leafOf at h
  split at h
  · cases h; exact tlbFill_usesOnly _ _ _
  · split at h
    · cases h
    · dsimp only at h
      split at h
      · cases h
      · cases h
        exact (((UsesOnly.foldl _ walkUsed_usesOnly _ s).trans (tlbFill_usesOnly _ _ _)).trans (count_usesOnly _ _ _ _)).trans
          (UsesOnly.foldl _ (fun b pa => ctxL2_usesOnly b _ pa _ _) _ _)

/-- Translating for an access that writes nothing uses the caches and the rows of the tables alone. -/
theorem xlate_usesOnly {s s1 : State} {c : Nat} {a : Agent} {spur : Option Word} {hd : Bool} {acc : Acc} {va : Nat} {p : Phys}
    {leaf : Leaf} (hacc : acc.writes = false) (h : xlate s c a spur hd acc va = .ok (s1, p, leaf)) : UsesOnly s s1 := by
  unfold xlate at h
  split at h
  · cases h
  next s0 e lvl hleaf =>
    have h0 := leafOf_usesOnly hleaf
    simp only [hacc, Bool.false_eq_true, and_false, if_false] at h
    split at h
    · cases h
    · split at h
      · cases h
      · cases h
        split
        · exact h0.trans (runL2_usesOnly _ _ _ _ _)
        · exact h0

theorem translated_usesOnly {e : Env} {acc : Acc} (hacc : acc.writes = false) (vas : List Nat) :
    ∀ {s s1 : State} {xs : List (Nat × Leaf)}, s.translated e acc vas = some (s1, xs) → UsesOnly s s1 := by
  induction vas with
  | nil => intro s s1 xs h; cases h; exact .refl s
  | cons va vas ih =>
    intro s s1 xs h
    unfold State.translated at h
    split at h
    next s2 pa leaf hx =>
      obtain ⟨⟨s3, ys⟩, ht, hr⟩ := Option.map_eq_some_iff.1 h
      cases hr
      exact (xlate_usesOnly hacc hx).trans (ih ht)
    next => cases h

/-- The hint of an access has no part in its translation. -/
theorem translated_hint (e : Env) (h : Hint) (acc : Acc) (vas : List Nat) :
    ∀ s : State, s.translated { e with hint := h } acc vas = s.translated e acc vas := by
  induction vas with
  | nil => exact fun _ => rfl
  | cons va vas ih => intro s; simp only [State.translated, ih]; rfl

section
variable {s t : State} (h : UsesOnly s t)
include h

theorem UsesOnly.groups : t.groups = s.groups := by rw [h.rest]

theorem UsesOnly.teams : t.teams = s.teams := by rw [h.rest]

theorem UsesOnly.part : t.part = s.part := by rw [h.rest]

theorem UsesOnly.late : t.late = s.late := by rw [h.rest]

end

/-! ## What landing leaves alone -/

@[simp] theorem markStaleRun_groups (s : State) (pa n : Nat) : (s.markStaleRun pa n).groups = s.groups := by
  unfold State.markStaleRun
  split <;> rfl

@[simp] theorem markDirty_groups (s : State) (pa : Nat) : (s.markDirty pa).groups = s.groups := by
  unfold State.markDirty
  split
  · rfl
  · split
    · rfl
    · split
      · split <;> rfl
      · rfl

@[simp] theorem store1_groups (s : State) (pa : Nat) (b : Byte) : (s.store1 pa b).groups = s.groups :=
  (markDirty_groups _ _).trans (markStaleRun_groups _ _ _)

@[simp] theorem storeAll_groups (ws : List (Nat × Byte)) : ∀ s : State, (s.storeAll ws).groups = s.groups := by
  induction ws with
  | nil => exact fun _ => rfl
  | cons w ws ih => exact fun s => (ih _).trans (store1_groups s _ _)

@[simp] theorem landLate_groups (s : State) (f : Late → Bool) : (s.landLate f).groups = s.groups := by
  unfold State.landLate
  split
  · rfl
  · exact foldl_keeps (fun a : State => a.groups) _ (by intro a x; exact storeAll_groups _ _) _ _

/-- Nothing lands where nothing meets the condition. -/
theorem landLate_none (s : State) {f : Late → Bool} (h : ∀ x ∈ s.late, f x = false) : s.landLate f = s := by
  unfold State.landLate
  split
  · rfl
  · have hk : s.late.filter (fun x => !f x) = s.late := List.filter_eq_self.2 fun x hx => by simp [h x hx]
    have hn : s.late.filter f = [] := List.filter_eq_nil_iff.2 fun x hx => by simp [h x hx]
    rw [hk, hn]
    rfl

@[simp] theorem loadsMeet_groups (s : State) (e : Env) (ps : List Piece) : (s.loadsMeet e ps).groups = s.groups := by
  simp [State.loadsMeet, State.landFor]

/-- A load meets the caches alone where nothing has been left at a narrow scope. -/
theorem loadsMeet_usesOnly {s : State} (h : s.late = []) (e : Env) (ps : List Piece) : UsesOnly s (s.loadsMeet e ps) := by
  have hl : s.landFor e.t.tid (localRuns ps) = s := landLate_none s (by simp [h])
  unfold State.loadsMeet
  rw [hl]
  exact loadMet_usesOnly s e ps

/-! ## Steering and translating lanes -/

/-- Every listed access lies in the global window and is steered there (R77). -/
theorem steerAll_global {s : State} {e : Env} {acc : Acc} {n : Nat} (hn : 0 < n) (ls : List Nat) (lane va : Nat → Nat)
    (h : ∀ l ∈ ls, va l + n ≤ 2 ^ 57) :
    steerAll s e acc n (ls.map fun l => (lane l, va l)) = .ok (ls.map fun l => ⟨lane l, va l, .glob (va l)⟩) := by
  induction ls with
  | nil => rfl
  | cons l ls ih =>
    have hl := h l (by simp)
    have hs : steer s e acc (lane l) (va l) n = some (.glob (va l)) := by
      unfold steer
      rw [if_pos (by omega), if_pos hl]
    simp only [List.map_cons, steerAll, hs, ih fun k hk => h k (by simp [hk])]
    rfl

/-- In DET mode too a team may reach the global window and its own scratchpad (R353). -/
theorem checkDet_ok {e : Env} {as : List Steered} (h : ∀ a ∈ as, ∀ tid off, a.loc = .scr tid off → tid = e.t.tid) :
    checkDet e as = .ok () := by
  unfold checkDet
  split
  · split
    next a ha =>
      have hp := List.find?_some ha
      cases hl : a.loc with
      | glob va => simp [hl] at hp
      | scr tid off => simp [hl, h a (List.mem_of_find?_eq_some ha) tid off hl] at hp
    next => rfl
  · rfl

/-- Accesses within one page each are translated as their addresses are. -/
theorem xlateSized_translated {e : Env} {acc : Acc} {n : Nat} {va pa lane : Nat → Nat} {lf : Nat → Leaf} (ls : List Nat) :
    ∀ {s s1 : State}, (∀ l ∈ ls, va l % 65536 + n ≤ 65536) →
      s.translated e acc (ls.map va) = some (s1, ls.map fun l => (pa l, lf l)) →
      xlateSized s e acc (ls.map fun l => (⟨lane l, va l, .glob (va l)⟩, n)) =
        (s1, ls.map fun l => ⟨lane l, [⟨va l, n, .loc (pa l), lf l⟩], []⟩) := by
  induction ls with
  | nil => intro s s1 _ h; cases h; rfl
  | cons l ls ih =>
    intro s s1 hp h
    simp only [List.map_cons, State.translated] at h
    split at h
    next s2 p leaf hx =>
      obtain ⟨⟨s3, ys⟩, ht, hr⟩ := Option.map_eq_some_iff.1 h
      simp only [Prod.mk.injEq, List.cons.injEq] at hr
      obtain ⟨rfl, ⟨rfl, rfl⟩, rfl⟩ := hr
      simp only [List.map_cons, xlateSized, chunks_within (hp l (by simp)), xlateChunks, hx,
        ih (fun k hk => hp k (by simp [hk])) ht]
    next => cases h

/-- Accesses to scratchpads are not translated. -/
theorem xlateSized_scratch {s : State} {e : Env} {acc : Acc} {n : Nat} {va off lane : Nat → Nat} {tid : Nat} (ls : List Nat) :
    xlateSized s e acc (ls.map fun l => (⟨lane l, va l, .scr tid (off l)⟩, n)) =
      (s, ls.map fun l => ⟨lane l, [⟨va l, n, .scr tid (off l), ⟨0, 0⟩⟩], []⟩) := by
  induction ls with
  | nil => rfl
  | cons l ls ih => simp only [List.map_cons, xlateSized, ih]

theorem xlateEach_of_clean {s s1 : State} {e : Env} {acc : Acc} {as : List (Steered × Nat)} {rs : List LaneX}
    (h : xlateSized s e acc as = (s1, rs)) (hc : ∀ r ∈ rs, r.errs = []) :
    xlateEach s e acc as = .ok (s1, rs.map fun r => (r.lane, r.ps)) := by
  have hn : rs.flatMap (fun r => r.errs.map (fun x => (r.lane, x))) = [] := by
    simp only [List.flatMap_eq_nil_iff, List.map_eq_nil_iff]
    exact hc
  unfold xlateEach
  simp only [h, hn]
  rfl

end Sys2Proof.Machine
end

section
/-! Loads of lanes whose places are open (R143, R149 to R151, R156). -/

namespace Sys2Proof.Machine

/-- A piece lies on this chip, and nothing keeps a load from reading it: local memory that is there, not lost and not held, or lines of
a scratchpad that are present and do not move. -/
def Piece.isOpen (s : State) (p : Piece) : Prop :=
  match p.at_ with
  | .loc pa => Machine.isHeld s pa = false ∧ localErr s (isLost s) pa p.n = none
  | .scr tid off => absentLines s tid off p.n = [] ∧ p.isHeld s = false
  | _ => False

section
variable {s : State} {p : Piece} (h : p.isOpen s)
include h

/-- Where an open piece lies. -/
theorem Piece.isOpen.cases : (∃ pa, p.at_ = .loc pa ∧ Machine.isHeld s pa = false ∧ localErr s (isLost s) pa p.n = none) ∨
    ∃ tid off, p.at_ = .scr tid off ∧ absentLines s tid off p.n = [] ∧ p.isHeld s = false := by
  obtain ⟨va, n, at_, leaf⟩ := p
  cases at_ with
  | loc pa => exact .inl ⟨pa, rfl, h⟩
  | scr tid off => exact .inr ⟨tid, off, rfl, h⟩
  | _ => exact h.elim

theorem Piece.isOpen.isHere : p.isHere = true := by
  obtain ⟨pa, hp, -⟩ | ⟨tid, off, hp, -⟩ := h.cases <;> simp [Piece.isHere, hp]

theorem Piece.isOpen.readReqs : readReqs p = [] := by
  obtain ⟨pa, hp, -⟩ | ⟨tid, off, hp, -⟩ := h.cases <;> simp [Machine.readReqs, hp]

theorem Piece.isOpen.not_held : p.isHeld s = false := by
  obtain ⟨pa, hp, hh, -⟩ | ⟨-, -, -, -, hh⟩ := h.cases
  · simpa [Piece.isHeld, hp] using hh
  · exact hh

theorem Piece.isOpen.pieceErr : pieceErr s none p = none := by
  obtain ⟨pa, hp, -, he⟩ | ⟨tid, off, hp, -⟩ := h.cases
  · simp [Machine.pieceErr, hp, he]
  · simp [Machine.pieceErr, hp]

end

/-- Step 3 of R156 passes where every piece is open. -/
theorem checkPresent_ok {s0 s : State} {ps : List Piece} (h : ∀ p ∈ ps, p.isOpen s) : checkPresent s0 s ps = .ok () := by
  unfold checkPresent
  split
  next =>
    have hh : ps.any (Piece.isHeld s) = false := List.any_eq_false.2 fun p hp => by simp [(h p hp).not_held]
    rw [hh]
    rfl
  next hne =>
    refine absurd (List.flatMap_eq_nil_iff.2 fun p hp => ?_) hne
    obtain ⟨pa, hat, -⟩ | ⟨tid, off, hat, ha, -⟩ := (h p hp).cases
    · simp only [hat]
    · simp only [hat, ha]

theorem flatMap_onePiece (ls : List Nat) (lane : Nat → Nat) (p : Nat → Piece) :
    (ls.map fun l => (lane l, [p l])).flatMap (·.2) = ls.map p := by
  simp [List.flatMap_map, ← List.map_eq_flatMap]

section
variable {s1 : State} {e : Env} {ls : List Nat} {lane : Nat → Nat} {p : Nat → Piece} (hw : s1.partFor e = none)
  (hp : ∀ l ∈ ls, (p l).isOpen s1)
include hw hp

/-- A move that names no part reads every open piece at once. -/
theorem readNow_of_open (met : State → List Piece → State) (bytes : State → Piece → List Byte) :
    readNow s1 e met bytes (ls.map fun l => (lane l, [p l])) =
      (met s1 (ls.map p), ls.map fun l => (lane l, [{ p l with at_ := .got (bytes (met s1 (ls.map p)) (p l)) }])) := by
  have hpick : pickLanes s1 e (fun _ => false) false (ls.map fun l => (lane l, [p l])) = ls.map fun l => (lane l, [(true, p l)]) := by
    unfold pickLanes
    rw [hw]
    simpa using fun l hl => (hp l hl).isHere
  have hgoing : goingNow (ls.map fun l => (lane l, [(true, p l)])) = ls.map p := by
    simp [goingNow, List.flatMap_map, ← List.map_eq_flatMap]
  simp [readNow, hpick, hgoing]

theorem readPlaces_of_open (met : State → List Piece → State) (bytes : State → Piece → List Byte) :
    readPlaces s1 e met bytes (ls.map fun l => (lane l, [p l])) =
      .ok (met s1 (ls.map p), ls.map fun l => (lane l, bytes (met s1 (ls.map p)) (p l))) := by
  have hplaces : checkPlaces s1 none (ls.map fun l => (lane l, [p l])) = .ok () :=
    checkPlaces_ok (by simpa using fun l hl => (hp l hl).pieceErr)
  have hreqs : (ls.map p).flatMap readReqs = [] := by
    simpa [List.flatMap_map] using fun l hl => (hp l hl).readReqs
  have hdone : ∀ f : Nat → List Byte, allDone (ls.map fun l => (lane l, [{ p l with at_ := .got (f l) }])) = true := by
    simp [allDone, Piece.isHere]
  unfold readPlaces
  simp only [hplaces, readNow_of_open hw hp, flatMap_onePiece, hreqs, hdone]
  simp [bind, Except.bind, pure, Except.pure, gotBytes]

end

/-- A load whose every lane has one open piece reads it, as the caches leave the state. -/
theorem loadLanes_of_open {s s1 : State} {e : Env} {n : Nat} {addrs : List (Nat × Nat)} {ls : List Nat} {lane : Nat → Nat}
    {p : Nat → Piece} (hf : e.flight? = none) (hw : s1.partFor e = none)
    (ho : openLanes s e .read n addrs = .ok (s1, ls.map fun l => (lane l, [p l]))) (hp : ∀ l ∈ ls, (p l).isOpen s1) :
    loadLanes s e n addrs = .ok (s1.loadsMeet e (ls.map p),
      ls.map fun l => (lane l, pieceBytes (s1.loadsMeet e (ls.map p)) e (p l))) := by
  have hpresent : checkPresent s s1 (ls.map p) = .ok () := checkPresent_ok (by simpa using hp)
  unfold loadLanes
  rw [hf]
  simp only [ho, flatMap_onePiece, bind, Except.bind, hpresent, readPlaces_of_open hw hp]

theorem openLanes_of {s s1 : State} {e : Env} {acc : Acc} {n : Nat} {addrs : List (Nat × Nat)} {as : List Steered}
    {xs : List (Nat × List Piece)} (hs : steerAll s e acc n addrs = .ok as) (hd : checkDet e as = .ok ())
    (hx : xlateAll s e acc n as = .ok (s1, xs)) : openLanes s e acc n addrs = .ok (s1, xs) := by
  unfold openLanes
  simp only [hs, hd, bind, Except.bind]
  exact hx

/-! ## The global window -/

/-- Lanes whose addresses lead to local memory are opened there. -/
theorem openLanes_of_onThisChip {s s1 : State} {e : Env} {acc : Acc} {ls : List Nat} {va pa : Nat → Nat} {n : Nat} {lf : Nat → Leaf}
    (hn : 0 < n) (h : OnThisChip s s1 e acc ls va n pa lf) (lane : Nat → Nat) :
    openLanes s e acc n (ls.map fun l => (lane l, va l)) = .ok (s1, ls.map fun l => (lane l, [⟨va l, n, .loc (pa l), lf l⟩])) := by
  refine openLanes_of (steerAll_global hn ls lane va h.low) (checkDet_ok (by simp)) ?_
  unfold xlateAll
  simp only [List.map_map, Function.comp_def, xlateEach_of_clean (xlateSized_translated ls h.page h.maps) (by simp)]

/-- The bytes of memory as a load reads them, one by one (R272, R279). -/
theorem leasedRun_eq (s : State) (e : Env) (pa n : Nat) : leasedRun s e pa n = (List.range n).map fun i =>
    if e.g.fenceS then getB s.mem (pa + i) else (s.leasedByte (e.l1Column (pa + i)) (pa + i)).getD (getB s.mem (pa + i)) := by
  unfold leasedRun
  split
  next h =>
    refine List.map_congr_left fun i _ => ?_
    split
    · rfl
    next hf =>
      have hs : s.stale = [] := by simpa [hf] using h
      simp [State.leasedByte, hs]
  next h =>
    have hf : e.g.fenceS = false := by simp_all
    simp only [hf, Bool.false_eq_true, if_false]

/-- Without staged stores of the team no address has a staged byte. -/
theorem stagedByte_none {e : Env} (h : e.hasStaged = false) (va : Nat) : stagedByte e.gr e.t.idx va = none := by
  have hn : ∀ r ∈ e.gr.staged, ¬(r.team == e.t.idx && r.kind == 0) = true := by simpa [Env.hasStaged] using h
  unfold stagedByte
  rw [List.filter_eq_nil_iff.2 fun r hr => by have := hn r hr; simp_all]
  rfl

/-- What the team's staged stores lay over a byte of a piece. -/
theorem find_stagedOver (e : Env) (p : Piece) {i : Nat} (hi : i < p.n) :
    ((stagedOver e p).find? fun o => o.1 == p.va + i).map (·.2) = stagedByte e.gr e.t.idx (p.va + i) := by
  unfold stagedOver
  split
  next =>
    rw [List.find?_filterMap]
    cases hb : stagedByte e.gr e.t.idx (p.va + i) with
    | none =>
      rw [List.find?_eq_none.2 fun j _ => ?_]
      · rfl
      · by_cases hj : j = i
        · simp [hj, hb]
        · cases stagedByte e.gr e.t.idx (p.va + j) <;> simp [hj]
    | some b =>
      rw [List.find?_range_eq_some.2 ⟨?_, List.mem_range.2 hi, fun j hj => ?_⟩]
      · simp [hb]
      · simp [hb]
      · cases stagedByte e.gr e.t.idx (p.va + j) with
        | none => rfl
        | some c => simp; omega
  next h => rw [stagedByte_none (by simpa using h)]; rfl

theorem layOver_range (va n : Nat) (f : Nat → Byte) (over_ : List (Nat × Byte)) :
    layOver va ((List.range n).map f) over_ =
      (List.range n).map fun i => (((over_.find? fun o => o.1 == va + i)).map (·.2)).getD (f i) := by
  unfold layOver
  split
  next h => simp [List.isEmpty_iff.1 h]
  next =>
    rw [List.length_map, List.length_range]
    refine List.map_congr_left fun i hi => ?_
    simp [List.mem_range.1 hi]

theorem pieceBytes_loc (s : State) (e : Env) (va n pa : Nat) (leaf : Leaf) :
    pieceBytes s e ⟨va, n, .loc pa, leaf⟩ = seenBytes s e va pa n := by
  have hrun : pieceBytes s e ⟨va, n, .loc pa, leaf⟩ = layOver va (leasedRun s e pa n) (stagedOver e ⟨va, n, .loc pa, leaf⟩) := rfl
  rw [hrun, leasedRun_eq, layOver_range]
  refine List.map_congr_left fun i hi => ?_
  rw [find_stagedOver e ⟨va, n, .loc pa, leaf⟩ (List.mem_range.1 hi)]
  unfold seenByte
  cases stagedByte e.gr e.t.idx (va + i) <;> rfl

theorem loadLanes_of_onThisChip {s s1 : State} {e : Env} {ls : List Nat} {va pa : Nat → Nat} {n : Nat} {lf : Nat → Leaf}
    (hn : 0 < n) (hf : e.flight? = none) (hw : s.partFor e = none) (h : OnThisChip s s1 e .read ls va n pa lf)
    (hl : ∀ l ∈ ls, localErr s1 (isLost s1) (pa l) n = none) (lane : Nat → Nat) :
    loadLanes s e n (ls.map fun l => (lane l, va l)) =
      .ok (s1.loadsMeet e (accessed ls va n pa lf),
        ls.map fun l => (lane l, seenBytes (s1.loadsMeet e (accessed ls va n pa lf)) e (va l) (pa l) n)) := by
  have hw1 : s1.partFor e = none := by
    rw [← hw, State.partFor, State.partFor, (translated_usesOnly rfl _ h.maps).part]
  have hopen : ∀ l ∈ ls, Piece.isOpen s1 ⟨va l, n, .loc (pa l), lf l⟩ := fun l hm => ⟨h.open_ l hm, hl l hm⟩
  refine (loadLanes_of_open hf hw1 (openLanes_of_onThisChip hn h lane) hopen).trans ?_
  simp only [pieceBytes_loc]
  rfl

/-! ## The team's own scratchpad -/

theorem steer_own {s : State} {e : Env} {ga n off lane : Nat} (ht : s.team? e.t.tid = some e.t) (h : InOwnScratch s e ga n off) :
    steer s e .read lane ga n = some (.scr e.t.tid off) := by
  have hlow := h.low
  have hg := h.at_
  have hscr : steerScr s e ga n = some (e.t.tid, off) := by
    have h0 : fld ga 55 22 = 0 := by unfold fld; omega
    have h1 : fld ga 21 18 = 15 := by unfold fld; omega
    have h2 : fld ga 17 0 = off := by unfold fld; omega
    unfold steerScr
    simp [h0, h1, h2, h.fits]
  unfold steer
  rw [if_neg (by omega), if_neg (by omega), if_pos (by omega), hscr]
  simp [ht, Acc.writes]

/-- The lines of a run are those of its bytes. -/
theorem forall_linesOf {off n : Nat} (hn : 0 < n) {P : Nat → Prop} (h : ∀ i, i < n → P ((off + i) / 128)) :
    ∀ l ∈ linesOf off n, P l := by
  intro l hl
  obtain ⟨k, hk, rfl⟩ := List.mem_map.1 hl
  have hk := List.mem_range.1 hk
  by_cases h0 : k = 0
  · simpa [h0] using h 0 hn
  · have := h (128 * (off / 128 + k) - off) (by omega)
    rwa [show (off + (128 * (off / 128 + k) - off)) / 128 = off / 128 + k by omega] at this

/-- Pieces in scratchpads meet no cache and nothing that was left at a narrow scope. -/
theorem loadsMeet_scratch {s : State} {e : Env} {n tid : Nat} {ls : List Nat} {ga off : Nat → Nat} :
    s.loadsMeet e (ls.map fun l => ⟨ga l, n, .scr tid (off l), ⟨0, 0⟩⟩) = s := by
  have hr : localRuns (ls.map fun l => (⟨ga l, n, .scr tid (off l), ⟨0, 0⟩⟩ : Piece)) = [] := by simp [localRuns]
  have hl : linesMet (ls.map fun l => (⟨ga l, n, .scr tid (off l), ⟨0, 0⟩⟩ : Piece)) = [] := by
    unfold linesMet
    rw [List.flatMap_eq_nil_iff.2 (by simp)]
    rfl
  have hland : s.landFor e.t.tid [] = s := landLate_none s (by simp)
  simp only [State.loadsMeet, State.loadMet, hr, hl, hland, List.foldl_nil]

section
variable {s : State} {e : Env} {n : Nat} (ht : s.team? e.t.tid = some e.t)
include ht

/-- A run of the team's own scratchpad is open. -/
theorem isOpen_own {ga off va : Nat} {leaf : Leaf} (hn : 0 < n) (h : InOwnScratch s e ga n off) :
    Piece.isOpen s ⟨va, n, .scr e.t.tid off, leaf⟩ := by
  constructor
  · have hl := forall_linesOf (P := fun l => e.t.absent.contains l = false) hn h.here
    simpa [absentLines, ht] using hl
  · simpa [Piece.isHeld, ht] using h.still

theorem openLanes_own {ls : List Nat} {ga off : Nat → Nat} (h : ∀ l ∈ ls, InOwnScratch s e (ga l) n (off l)) (lane : Nat → Nat) :
    openLanes s e .read n (ls.map fun l => (lane l, ga l)) =
      .ok (s, ls.map fun l => (lane l, [⟨ga l, n, .scr e.t.tid (off l), ⟨0, 0⟩⟩])) := by
  have hs : steerAll s e .read n (ls.map fun l => (lane l, ga l)) = .ok (ls.map fun l => ⟨lane l, ga l, .scr e.t.tid (off l)⟩) := by
    induction ls with
    | nil => rfl
    | cons l ls ih =>
      simp only [List.map_cons, steerAll, steer_own ht (h l (by simp)), ih fun k hk => h k (by simp [hk])]
      rfl
  refine openLanes_of hs (checkDet_ok (by simp +contextual)) ?_
  unfold xlateAll
  simp only [List.map_map, Function.comp_def, xlateEach_of_clean (xlateSized_scratch ls) (by simp)]

theorem loadLanes_own {ls : List Nat} {ga off : Nat → Nat} (hn : 0 < n) (hf : e.flight? = none) (hw : s.partFor e = none)
    (h : ∀ l ∈ ls, InOwnScratch s e (ga l) n (off l)) (lane : Nat → Nat) :
    loadLanes s e n (ls.map fun l => (lane l, ga l)) = .ok (s, ls.map fun l => (lane l, readB e.t.scratch (off l) n)) := by
  refine (loadLanes_of_open hf hw (openLanes_own ht h lane) fun l hl => isOpen_own ht hn (h l hl)).trans ?_
  simp only [loadsMeet_scratch, pieceBytes, ht]

end

end Sys2Proof.Machine
end

section
/-! LD, ULD and PREF (R147 to R153). -/

namespace Sys2Proof.Machine

/-! ## Registers from loaded bytes (R150) -/

/-- A number read as two's complement is the bits of its sign extension. -/
theorem ofInt_sx {n : Nat} (hn : 0 < n) (x : Nat) : BitVec.ofInt 32 (sx n x) = (BitVec.ofNat n x).signExtend 32 := by
  have h : sx n x = (BitVec.ofNat n x).toInt := by
    have h2 : 2 ^ n = 2 * 2 ^ (n - 1) := by rw [← pow_succ']; congr 1; omega
    rw [BitVec.toInt_eq_toNat_cond, BitVec.toNat_ofNat]
    unfold sx
    exact if_congr (by omega) rfl rfl
  rw [h]
  rfl

theorem loadWord_eq (sz : MemSize) (sgn : Bool) (bs : List Byte) (i : Nat) : loadWord sz sgn bs i = wordOf sz sgn bs i := by
  unfold loadWord wordOf
  cases sgn with
  | false => cases sz <;> rfl
  | true =>
    cases sz with
    | b8 => exact ofInt_sx (by decide) _
    | b16 => exact ofInt_sx (by decide) _
    | b32 => rfl
    | b64 => rfl
    | b128 => rfl

/-- The registers from v d on of one lane take words in order. -/
theorem foldl_setV_words (w : Nat → Word) (d lane : Nat) (hlane : lane < 32) (r : Regs) (n : Nat) {j l : Nat} (hl : l < 32) :
    ((List.range n).foldl (fun (q : Regs) i => q.setV (d + i) lane (w i)) r).getV j l =
      if l = lane ∧ d ≤ j ∧ j < d + n then w (j - d) else r.getV j l := by
  induction n with
  | zero => rw [if_neg (by omega)]; rfl
  | succ n ih =>
    have hset : ∀ q : Regs, (q.setV (d + n) lane (w n)).getV j l = if l = lane ∧ j = d + n then w n else q.getV j l := by
      intro q
      by_cases hj : l = lane ∧ j = d + n
      · obtain ⟨rfl, rfl⟩ := hj
        simp [Regs.setV, Regs.getV]
      · rw [if_neg hj]
        exact getB_putB_ne _ _ (by omega)
    rw [List.range_succ, List.foldl_append, List.foldl_cons, List.foldl_nil, hset, ih]
    by_cases hj : l = lane ∧ j = d + n
    · obtain ⟨rfl, rfl⟩ := hj
      rw [if_pos ⟨rfl, rfl⟩, if_pos ⟨rfl, by omega, by omega⟩, Nat.add_sub_cancel_left]
    · rw [if_neg hj]
      exact if_congr (by omega) rfl rfl

theorem foldl_setV_words_keep (w : Nat → Word) (d lane n : Nat) (r : Regs) :
    (List.range n).foldl (fun (q : Regs) i => q.setV (d + i) lane (w i)) r =
      { r with v := ((List.range n).foldl (fun (q : Regs) i => q.setV (d + i) lane (w i)) r).v } := by
  induction n with
  | zero => rfl
  | succ n ih => rw [List.range_succ, List.foldl_append, List.foldl_cons, List.foldl_nil, ih]; rfl

theorem loaded_cons (r : Regs) (d : Nat) (sz : MemSize) (sgn : Bool) (x : Nat × List Byte) (rs : List (Nat × List Byte)) :
    r.loaded d sz sgn (x :: rs) =
      ((List.range (sizeRegs sz)).foldl (fun (q : Regs) i => q.setV (d + i) x.1 (loadWord sz sgn x.2 i)) r).loaded d sz sgn rs := rfl

theorem loaded_getV (d : Nat) (sz : MemSize) (sgn : Bool) (f : Nat → List Byte) {j l : Nat} (hl : l < 32) (ls : List Nat) :
    ∀ r : Regs, (∀ k ∈ ls, k < 32) → (r.loaded d sz sgn (ls.map fun l => (l, f l))).getV j l =
      if l ∈ ls ∧ d ≤ j ∧ j < d + sizeRegs sz then wordOf sz sgn (f l) (j - d) else r.getV j l := by
  induction ls with
  | nil => intro r _; simp [Regs.loaded]
  | cons k ls ih =>
    intro r hls
    rw [List.map_cons, loaded_cons, ih _ fun i hi => hls i (List.mem_cons_of_mem _ hi),
      foldl_setV_words _ d k (hls k List.mem_cons_self) r _ hl]
    by_cases hk : l = k
    · subst hk
      by_cases hj : d ≤ j ∧ j < d + sizeRegs sz <;> simp [hj, loadWord_eq]
    · simp [hk]

theorem loaded_keep (d : Nat) (sz : MemSize) (sgn : Bool) (rs : List (Nat × List Byte)) :
    ∀ r : Regs, r.loaded d sz sgn rs = { r with v := (r.loaded d sz sgn rs).v } := by
  induction rs with
  | nil => exact fun _ => rfl
  | cons x rs ih =>
    intro r
    rw [loaded_cons, ih, foldl_setV_words_keep]

/-- What a load brings to the lanes of a mask. -/
theorem loaded_writes (e : Env) (d : Nat) (sz : MemSize) (sgn : Bool) (f : Nat → List Byte) (m : Mask) :
    WritesVs e ((e.g.regs.loaded d sz sgn ((lanesOf m).map fun l => (l, f l))).advance e.c.mask e.c.size) m d (sizeRegs sz)
      (fun i l => wordOf sz sgn (f l) i) := by
  have hk := loaded_keep d sz sgn ((lanesOf m).map fun l => (l, f l)) e.g.regs
  constructor
  · intro j l hl; exact (loaded_getV d sz sgn f hl _ _ lanesOf_lt).trans (by simp only [mem_lanesOf])
  · intro j; show Regs.getK (Regs.loaded _ _ _ _ _) j = _; rw [hk]; rfl
  · intro j; show Regs.getP (Regs.loaded _ _ _ _ _) j = _; rw [hk]; rfl
  · intro j; show Regs.getQ (Regs.loaded _ _ _ _ _) j = _; rw [hk]; rfl
  · apply complete_flows <;> rw [hk]

/-! ## The instructions -/

theorem sizeBytes_pos (sz : MemSize) : 0 < sizeBytes sz := by cases sz <;> decide

section
variable {s s1 : State} {e : Env} (he : s.env? = some e) (hg : s1.groups = s.groups)
include he hg

theorem completes_ld {g : Pred} {d : VReg} {m : LaneMem} {sz : MemSize} {sgn : Bool} {h : Hint} {f : Nat → List Byte}
    (ht : e.taking g ≠ 0)
    (hl : loadLanes s { e with hint := h } (sizeBytes sz) ((lanesOf (e.taking g)).map fun l => (l, (e.g.regs.laneAddr m l).toNat)) =
      .ok (s1, (lanesOf (e.taking g)).map fun l => (l, f l))) :
    Completes (.ld g d m sz sgn h) s s1 e (e.g.wrote d.val (sizeRegs sz)).latch
      (fun r => WritesVs e r (e.taking g) d.val (sizeRegs sz) (fun i l => wordOf sz sgn (f l) i)) := by
  refine completes_of_retire (run_ok he ?_) ((group?_of hg _).trans (group?_gid_of_env he)) (loaded_writes e d.val sz sgn f (e.taking g))
  simp only [if_neg ht, hl]
  rfl

theorem completes_uld {g : Pred} {d : KReg} {m : UniMem} {sz : MemSize} {sgn : Bool} {h : Hint} {bs : List Byte}
    (hq : e.g.regs.getQ g.val = true)
    (hl : loadLanes s { e with hint := h } (sizeBytes sz) [(lowLane e.c.mask, (e.g.regs.uniAddr m).toNat)] =
      .ok (s1, [(lowLane e.c.mask, bs)])) :
    (sz ≠ .b64 → Completes (.uld g d m sz sgn h) s s1 e e.g.latch (fun r => WritesK e r d.val (wordOf sz sgn bs 0))) ∧
    (sz = .b64 → Completes (.uld g d m sz sgn h) s s1 e e.g.latch (fun r => WritesK2 e r d.val (BitVec.ofNat 64 (leNat bs)))) := by
  have hx : exec (.uld g d m sz sgn h) s =
      .next (s1.retire e { e.g with regs := e.g.regs.loadedK d.val sz sgn bs, latch := e.g.latch }) := by
    refine (uniform_on he hq).trans (run_ok he ?_)
    simp only [hl, bind, Except.bind, List.flatMap_cons, List.flatMap_nil, List.append_nil]
    rfl
  have hs := (group?_of hg _).trans (group?_gid_of_env he)
  constructor <;> intro hsz
  · refine completes_of_retire hx hs ?_
    rw [Regs.loadedK, if_neg hsz, loadWord_eq]
    exact setK_writes e _ _
  · refine completes_of_retire hx hs ?_
    rw [Regs.loadedK, if_pos hsz]
    exact setK2_writes e _ _

end

theorem prefetch_usesOnly (s : State) (e : Env) (lv : PrefLevel) (lane ga : Nat) : UsesOnly s (s.prefetch e lv lane ga) := by
  unfold State.prefetch
  split
  · split
    next hx =>
      have h1 := xlate_usesOnly rfl hx
      split
      · exact h1
      · cases lv with
        | l1 => exact h1.trans (loadLine_usesOnly _ _ _ _ _)
        | l2 => exact h1.trans (ctxL2_usesOnly _ _ _ _ _)
    next hx => exact xlate_usesOnly rfl hx
    next => exact .refl s
  · exact .refl s

theorem completes_pref {s : State} {e : Env} (he : s.env? = some e) (g : Pred) (m : LaneMem) (lv : PrefLevel) :
    ∃ s1, Completes (.pref g m lv) s s1 e e.g.latch (WritesNone e) ∧ UsesOnly s s1 := by
  have hu : UsesOnly s ((lanesOf (e.taking g)).foldl (fun a l => a.prefetch e lv l (e.g.regs.laneAddr m l).toNat) s) :=
    UsesOnly.foldl _ (fun a l => prefetch_usesOnly a e lv l _) _ s
  have hx : execPref g m lv s =
      .next (((lanesOf (e.taking g)).foldl (fun a l => a.prefetch e lv l (e.g.regs.laneAddr m l).toNat) s).retire e e.g) :=
    run_ok he rfl
  exact ⟨_, completes_of_retire hx ((group?_of hu.groups _).trans (group?_gid_of_env he)) (retire_none e), hu⟩

section
variable {s s1 : State} {e : Env} {n : Nat} (x : Hint)

theorem InOwnScratch.withHint {ga off : Nat} (h : InOwnScratch s e ga n off) : InOwnScratch s { e with hint := x } ga n off :=
  ⟨h.at_, h.low, h.fits, h.here, h.still⟩

theorem OnThisChip.withHint {acc : Acc} {ls : List Nat} {va pa : Nat → Nat} {lf : Nat → Leaf}
    (h : OnThisChip s s1 e acc ls va n pa lf) : OnThisChip s s1 { e with hint := x } acc ls va n pa lf :=
  ⟨h.low, h.page, (translated_hint e x acc _ s).trans h.maps, h.open_⟩

end

/-- Loads on this chip use the caches alone where nothing has been left at a narrow scope. -/
theorem OnThisChip.loads_usesOnly {s s1 : State} {e : Env} {ls : List Nat} {va pa : Nat → Nat} {n : Nat} {lf : Nat → Leaf}
    (h : OnThisChip s s1 e .read ls va n pa lf) (hlate : s.late = []) (x : Env) (ps : List Piece) : UsesOnly s (s1.loadsMeet x ps) :=
  have hu := translated_usesOnly rfl _ h.maps
  hu.trans (loadsMeet_usesOnly (hu.late.trans hlate) x ps)

theorem OnThisChip.loads_groups {s s1 : State} {e : Env} {ls : List Nat} {va pa : Nat → Nat} {n : Nat} {lf : Nat → Leaf}
    (h : OnThisChip s s1 e .read ls va n pa lf) (x : Env) (ps : List Piece) : (s1.loadsMeet x ps).groups = s.groups :=
  (loadsMeet_groups s1 x ps).trans (translated_usesOnly rfl _ h.maps).groups

end Sys2Proof.Machine

namespace Sys2Proof
open Machine

/-- Settles O28: the places of the lanes are open, each gives its lane its bytes as the caches leave the state, and the registers take
them. -/
theorem loads : Obligations.Loads := by
  intro g d kd m um sz sgn h lv s e he ga ua n ls lanes uni
  have hn : 0 < n := sizeBytes_pos sz
  have ht := team?_tid_of_env he
  refine ⟨completes_pref he g m lv, fun hz => completes_of_retire_same he (run_ok he (if_pos hz)),
    fun hq => completes_of_retire_same he (uniform_off he hq), ?ownLanes, ?lanes, ?ownUniform, ?uniform⟩
  case ownLanes =>
    intro hb hz off ho
    exact completes_ld he rfl hz (loadLanes_own (e := { e with hint := h }) ht hn hb.fresh hb.whole
      (fun l hl => (ho l ((mem_lanesOf _ _).1 hl)).withHint h) (fun l => l))
  case lanes =>
    intro hb hz s1 pa lf hc hl s2
    exact ⟨completes_ld he (hc.loads_groups _ _) hz
      (loadLanes_of_onThisChip (e := { e with hint := h }) hn hb.fresh hb.whole (hc.withHint h) hl (fun l => l)),
      fun hlate => hc.loads_usesOnly hlate _ _⟩
  case ownUniform =>
    intro hb hq off ho
    exact completes_uld he rfl hq (loadLanes_own (e := { e with hint := h }) (ls := [0]) ht hn hb.fresh hb.whole
      (fun _ _ => ho.withHint h) (fun _ => lowLane e.c.mask))
  case uniform =>
    intro hb hq s1 pa lf hc hl s2
    exact ⟨completes_uld he (hc.loads_groups _ _) hq
      (loadLanes_of_onThisChip (e := { e with hint := h }) hn hb.fresh hb.whole (hc.withHint h) (fun _ _ => hl)
        (fun _ => lowLane e.c.mask)),
      fun hlate => hc.loads_usesOnly hlate _ _⟩

end Sys2Proof
end

section
/-! What reset leaves (R76, R391, R399). -/

namespace Sys2Proof.Machine

/-- No context has been created at reset: each block reads as `Context.init`. -/
theorem reset_ctx (c : Nat) : State.reset.ctx c = Context.init := rfl

theorem init_isUp : Context.init.isUp = false := by decide

end Sys2Proof.Machine

namespace Sys2Proof
open Machine

/-- Settles O58: at reset no context has been created, so each reads the reset values of its registers, and the sixteen stacks are alike. -/
theorem resetValues : Obligations.ResetValues := by
  refine ⟨fun _ => rfl, rfl, rfl, rfl, rfl, rfl, rfl, fun c => ?contexts, fun i hi => ?eachStack⟩
  case contexts =>
    rw [reset_ctx c]
    exact ⟨init_isUp, rfl, rfl, rfl, rfl, rfl, rfl, rfl, rfl, rfl⟩
  case eachStack => exact ⟨Stack.init, List.getElem?_replicate_of_lt hi, rfl, rfl, rfl, rfl, rfl, rfl⟩

end Sys2Proof
end

section
/-! Stores of a group that meet no obstacle (R147 to R149, R152, R156): what a store to local memory and its translation leave alone, and
each lane's bytes at its place. -/

namespace Sys2Proof.Machine

/-! ## What a write to local memory leaves alone -/

/-- One state is another but for local memory, what the caches and the stacks hold, what has been left at narrow scopes, and the
records of contexts and of residencies' instances. -/
structure StoresOnly (s t : State) : Prop where
  rest : t = { s with
    mem := t.mem, hbm := t.hbm, tlb := t.tlb, walks := t.walks, ctxs := t.ctxs, caches := t.caches, stale := t.stale, late := t.late,
    insts := t.insts }

theorem StoresOnly.refl (s : State) : StoresOnly s s := ⟨rfl⟩

theorem StoresOnly.trans {s t u : State} (h : StoresOnly s t) (k : StoresOnly t u) : StoresOnly s u := ⟨by rw [k.rest, h.rest]⟩

theorem UsesOnly.storesOnly {s t : State} (h : UsesOnly s t) : StoresOnly s t := ⟨by rw [h.rest]⟩

section
variable {s t : State} (h : StoresOnly s t)
include h

theorem StoresOnly.groups : t.groups = s.groups := by rw [h.rest]

theorem StoresOnly.part : t.part = s.part := by rw [h.rest]

end

theorem StoresOnly.foldl {β : Type} (f : State → β → State) (hf : ∀ a b, StoresOnly a (f a b)) (l : List β) :
    ∀ s : State, StoresOnly s (l.foldl f s) := by
  induction l with
  | nil => exact StoresOnly.refl
  | cons b t ih => exact fun s => (hf s b).trans (ih _)

theorem markStaleRun_storesOnly (s : State) (pa n : Nat) : StoresOnly s (s.markStaleRun pa n) := by
  unfold State.markStaleRun
  split
  · exact ⟨rfl⟩
  · exact .refl s

theorem markDirty_storesOnly (s : State) (pa : Nat) : StoresOnly s (s.markDirty pa) := by
  unfold State.markDirty
  split
  · exact .refl s
  · split
    · exact .refl s
    · split
      · split
        · exact ⟨rfl⟩
        · exact .refl s
      · exact .refl s

theorem store1_storesOnly (s : State) (pa : Nat) (b : Byte) : StoresOnly s (s.store1 pa b) :=
  (StoresOnly.trans ⟨rfl⟩ (markStaleRun_storesOnly _ pa 1)).trans (markDirty_storesOnly _ pa)

theorem storeAll_storesOnly (ws : List (Nat × Byte)) : ∀ s : State, StoresOnly s (s.storeAll ws) := by
  induction ws with
  | nil => exact .refl
  | cons w ws ih => exact fun s => (store1_storesOnly s w.1 w.2).trans (ih _)

theorem clearLost_storesOnly (s : State) (ws : List (Nat × Byte)) : StoresOnly s (s.clearLost ws) := ⟨rfl⟩

theorem landLate_storesOnly (s : State) (f : Late → Bool) : StoresOnly s (s.landLate f) := by
  unfold State.landLate
  split
  · exact .refl s
  · refine StoresOnly.trans ?_ (StoresOnly.foldl _ (fun a _ => ?_) _ _)
    · exact ⟨rfl⟩
    · exact (clearLost_storesOnly a _).trans (storeAll_storesOnly _ _)

theorem storesMeet_storesOnly (s : State) (e : Env) (ps : List Piece) : StoresOnly s (s.storesMeet e ps) :=
  (landLate_storesOnly s _).trans (storeMet_usesOnly _ e ps).storesOnly

theorem writeOwn_storesOnly (s : State) (pa : Nat) (bs : List Byte) : StoresOnly s (s.writeOwn pa bs) :=
  ((clearLost_storesOnly s _).trans (storeAll_storesOnly _ _)).trans (runL2_usesOnly _ _ _ _ _).storesOnly

theorem reachPage_usesOnly (s : State) (pa : Nat) : UsesOnly s (s.reachPage pa) := UsesOnly.foldl _ (fun a _ => reach_usesOnly a _) _ s

theorem pageWritten_storesOnly (s : State) (pa : Nat) : StoresOnly s (s.pageWritten pa) :=
  ((StoresOnly.trans ⟨rfl⟩ (markStaleRun_storesOnly _ pa _)).trans (markDirty_storesOnly _ pa)).trans
    (reachPage_usesOnly _ pa).storesOnly

theorem copyPage_storesOnly (s : State) (src dst : Nat) : StoresOnly s (s.copyPage src dst) :=
  (StoresOnly.trans ⟨rfl⟩ (reachPage_usesOnly _ src).storesOnly).trans (pageWritten_storesOnly _ dst)

theorem zeroPage_storesOnly (s : State) (pa : Nat) : StoresOnly s (s.zeroPage pa) :=
  StoresOnly.trans ⟨rfl⟩ (pageWritten_storesOnly _ pa)

theorem modCtx_storesOnly (s : State) (c : Nat) (f : Context → Context) : StoresOnly s (s.modCtx c f) := by
  unfold State.modCtx
  split
  · exact .refl s
  · exact ⟨rfl⟩

theorem poolPop_storesOnly {s s1 : State} {c q : Nat} (h : s.poolPop c = some (q, s1)) : StoresOnly s s1 := by
  unfold State.poolPop at h
  dsimp only at h
  split at h
  · cases h
  · cases h
    exact modCtx_storesOnly s c _

/-! ## Translating for a write -/

/-- A copy on write changes local memory and the context's free stack alone. -/
theorem cow_storesOnly {s s1 : State} {c : Nat} {spur : Word} {i : Nat} (h : s.cow c spur i = .ok s1) : StoresOnly s s1 := by
  unfold State.cow at h
  dsimp only at h
  split at h
  · cases h
  · split at h
    · cases h
    · split at h
      · cases h
        exact .refl _
      · split at h
        · cases h
        next q s2 hpop =>
          split at h
          · cases h
          · cases h
            have h2 := poolPop_storesOnly hpop
            split
            · exact (((h2.trans (zeroPage_storesOnly _ _)).trans (writeOwn_storesOnly _ _ _)).trans (writeOwn_storesOnly _ _ _)).trans
                (writeOwn_storesOnly _ _ _)
            · exact (((h2.trans (copyPage_storesOnly _ _ _)).trans (writeOwn_storesOnly _ _ _)).trans (writeOwn_storesOnly _ _ _)).trans
                (writeOwn_storesOnly _ _ _)

/-- A context without spur slots has no page to copy. -/
theorem cow_of_no_slots {s : State} {c : Nat} (h : (s.ctx c).reg CtxReg.spurSlots = 0) (spur : Word) (i : Nat) :
    s.cow c spur i = .error .pool := if_pos h

/-- What translating an address comes to: finding its leaf, copying a shared page of a spur where the access writes, and reading an entry
of the spur's list. -/
theorem xlate_ok {s s1 : State} {c : Nat} {a : Agent} {spur : Option Word} {hd : Bool} {acc : Acc} {va : Nat} {p : Phys}
    {leaf : Leaf} (h : xlate s c a spur hd acc va = .ok (s1, p, leaf)) :
    ∃ s2 s3 e lvl, leafOf s c a spur va = .ok (s2, e, lvl) ∧
      (s3 = s2 ∨ acc.writes = true ∧ s2.cow c (spur.getD 0) (fld e 29 16) = .ok s3) ∧
      (s1 = s3 ∨ ∃ pa n, s1 = s3.runL2 pa n 0 false) := by
  unfold xlate at h
  split at h
  · cases h
  next s2 e lvl hleaf =>
    split at h
    · cases h
    · split at h
      · cases h
      next s3 hcow =>
        split at h
        · cases h
        · cases h
          refine ⟨s2, s3, e, lvl, hleaf, ?_, ?_⟩
          · split at hcow
            next hw => exact .inr ⟨hw.2, hcow⟩
            · cases hcow
              exact .inl rfl
          · split
            · exact .inr ⟨_, _, rfl⟩
            · exact .inl rfl

/-- Reading an entry of a spur's list is a use. -/
theorem listRead_usesOnly {s s1 : State} (h : s1 = s ∨ ∃ pa n, s1 = s.runL2 pa n 0 false) : UsesOnly s s1 := by
  obtain rfl | ⟨pa, n, rfl⟩ := h
  · exact .refl _
  · exact runL2_usesOnly _ _ _ _ _

theorem xlate_storesOnly {s s1 : State} {c : Nat} {a : Agent} {spur : Option Word} {hd : Bool} {acc : Acc} {va : Nat} {p : Phys}
    {leaf : Leaf} (h : xlate s c a spur hd acc va = .ok (s1, p, leaf)) : StoresOnly s s1 := by
  obtain ⟨s2, s3, e, lvl, hleaf, hcow, hread⟩ := xlate_ok h
  have hu := listRead_usesOnly hread
  have h2 := (leafOf_usesOnly hleaf).storesOnly
  obtain rfl | ⟨-, hcow⟩ := hcow
  · exact h2.trans hu.storesOnly
  · exact (h2.trans (cow_storesOnly hcow)).trans hu.storesOnly

theorem translated_storesOnly {e : Env} {acc : Acc} (vas : List Nat) :
    ∀ {s s1 : State} {xs : List (Nat × Leaf)}, s.translated e acc vas = some (s1, xs) → StoresOnly s s1 := by
  induction vas with
  | nil => intro s s1 xs h; cases h; exact .refl s
  | cons va vas ih =>
    intro s s1 xs h
    unfold State.translated at h
    split at h
    next s2 pa leaf hx =>
      obtain ⟨⟨s3, ys⟩, ht, hr⟩ := Option.map_eq_some_iff.1 h
      cases hr
      exact (xlate_storesOnly hx).trans (ih ht)
    next => cases h

/-- The registers of a context's block are out of reach of the caches. -/
theorem UsesOnly.reg {s t : State} (h : UsesOnly s t) (c off : Nat) : (t.ctx c).reg off = (s.ctx c).reg off := by
  have hc := h.ctxs c
  unfold State.ctx
  cases hs : s.ctx? c with
  | none =>
    rw [hs, Option.map_none, Option.map_eq_none_iff] at hc
    rw [hc]
  | some x =>
    rw [hs, Option.map_some, Option.map_eq_some_iff] at hc
    obtain ⟨y, hy, hxy⟩ := hc
    rw [hy]
    injection hxy with hr
    simp [Context.reg, hr]

/-- Without spur slots a translation uses the caches alone, whatever the access. -/
theorem xlate_usesOnly_of_no_slots {s s1 : State} {c : Nat} {a : Agent} {spur : Option Word} {hd : Bool} {acc : Acc} {va : Nat}
    {p : Phys} {leaf : Leaf} (hs : (s.ctx c).reg CtxReg.spurSlots = 0) (h : xlate s c a spur hd acc va = .ok (s1, p, leaf)) :
    UsesOnly s s1 := by
  obtain ⟨s2, s3, e, lvl, hleaf, hcow, hread⟩ := xlate_ok h
  have hu := listRead_usesOnly hread
  have h2 := leafOf_usesOnly hleaf
  obtain rfl | ⟨-, hcow⟩ := hcow
  · exact h2.trans hu
  · rw [cow_of_no_slots ((h2.reg c _).trans hs)] at hcow
    cases hcow

theorem translated_usesOnly_of_no_slots {e : Env} {acc : Acc} (vas : List Nat) :
    ∀ {s s1 : State} {xs : List (Nat × Leaf)}, (s.ctx e.t.ctx).reg CtxReg.spurSlots = 0 →
      s.translated e acc vas = some (s1, xs) → UsesOnly s s1 := by
  induction vas with
  | nil => intro s s1 xs _ h; cases h; exact .refl s
  | cons va vas ih =>
    intro s s1 xs hs h
    unfold State.translated at h
    split at h
    next s2 pa leaf hx =>
      obtain ⟨⟨s3, ys⟩, ht, hr⟩ := Option.map_eq_some_iff.1 h
      cases hr
      have h2 := xlate_usesOnly_of_no_slots hs hx
      exact h2.trans (ih ((h2.reg _ _).trans hs) ht)
    next => cases h

theorem storesMeet_usesOnly {s : State} (h : s.late = []) (e : Env) (ps : List Piece) : UsesOnly s (s.storesMeet e ps) := by
  have hl : s.landFor e.t.tid (localRuns ps) = s := landLate_none s (by simp [h])
  unfold State.storesMeet
  rw [hl]
  exact storeMet_usesOnly s e ps

/-- The context of an issued group is the one that its team names. -/
theorem ctx_of_env {s : State} {e : Env} (he : s.env? = some e) : s.ctx e.t.ctx = e.x := by
  obtain ⟨-, -, -, hx, -⟩ := env_of he
  unfold State.ctx
  rw [hx]
  rfl

/-- Stores on this chip use the caches alone beside their own bytes, where nothing has been left at a narrow scope and no page of a spur
can be shared. -/
theorem OnThisChip.stores_usesOnly {s s1 : State} {e : Env} {ls : List Nat} {va pa : Nat → Nat} {n : Nat} {lf : Nat → Leaf}
    (he : s.env? = some e) (h : OnThisChip s s1 e .write ls va n pa lf) (hlate : s.late = [])
    (hslots : e.x.reg CtxReg.spurSlots = 0) (x : Env) (ps : List Piece) : UsesOnly s (s1.storesMeet x ps) :=
  have hu := translated_usesOnly_of_no_slots _ (by rw [ctx_of_env he]; exact hslots) h.maps
  hu.trans (storesMeet_usesOnly (hu.late.trans hlate) x ps)

/-! ## The bytes -/

theorem getB_foldl_putB (ws : List (Nat × Byte)) (a : Nat) : ∀ m : BMap 8,
    getB (ws.foldl (fun m (w : Nat × Byte) => putB m w.1 w.2) m) a =
      ((ws.reverse.find? fun w => w.1 == a).map (·.2)).getD (getB m a) := by
  induction ws with
  | nil => exact fun _ => rfl
  | cons w ws ih =>
    intro m
    rw [List.foldl_cons, ih, getB_putB, List.reverse_cons, List.find?_append]
    cases ws.reverse.find? (fun v => v.1 == a) with
    | some v => rfl
    | none =>
      by_cases hw : a = w.1
      · simp [hw]
      · have hw' : ¬ w.1 = a := fun hn => hw hn.symm
        simp [hw, hw']

/-- A list of byte writes leaves at each address the last byte written there (R54, R152). -/
theorem storeAll_byte (s : State) (ws : List (Nat × Byte)) (a : Nat) :
    getB (s.storeAll ws).mem a = ((ws.reverse.find? (fun w => w.1 == a)).map (·.2)).getD (getB s.mem a) := by
  rw [storeAll_mem, getB_foldl_putB]

theorem mem_spread {bs : List Byte} {w : Nat × Byte} : ∀ {a : Nat}, w ∈ spread a bs → a ≤ w.1 ∧ w.1 < a + bs.length := by
  induction bs with
  | nil => intro a h; cases h
  | cons b bs ih =>
    intro a h
    rw [List.length_cons]
    rcases List.mem_cons.1 h with rfl | h
    · exact ⟨Nat.le_refl _, by show a < _; omega⟩
    · have := ih h
      omega

/-- Writes leave an address alone that none of them names. -/
theorem storeAll_byte_ne {s : State} {ws : List (Nat × Byte)} {a : Nat} (h : ∀ w ∈ ws, w.1 ≠ a) :
    getB (s.storeAll ws).mem a = getB s.mem a := by
  rw [storeAll_byte, List.find?_eq_none.2 fun w hw => by simpa using h w (List.mem_reverse.1 hw)]
  rfl

/-- A store of the lanes leaves every byte outside their places alone. -/
theorem store_lanes_frame (s : State) {ls : List Nat} {pa : Nat → Nat} {data : Nat → List Byte} {n a : Nat}
    (hlen : ∀ l, (data l).length = n) (h : ∀ l ∈ ls, ¬(pa l ≤ a ∧ a < pa l + n)) :
    getB ((s.clearLost (ls.flatMap fun l => spread (pa l) (data l))).storeAll (ls.flatMap fun l => spread (pa l) (data l))).mem a =
      getB s.mem a := by
  refine storeAll_byte_ne fun w hw hwa => ?_
  obtain ⟨l, hl, hws⟩ := List.mem_flatMap.1 hw
  have := mem_spread hws
  rw [hlen, hwa] at this
  exact h l hl this

theorem leBytes_length (n : Nat) : ∀ x, (leBytes n x).length = n := by
  induction n with
  | zero => exact fun _ => rfl
  | succ n ih => exact fun x => congrArg Nat.succ (ih _)

theorem storeBytes_length (sz : MemSize) (w : Nat → Word) : (storeBytes sz w).length = sizeBytes sz := by
  cases sz <;> simp [storeBytes, sizeRegs, sizeBytes, List.range_succ, leBytes_length]

theorem take_leBytes_length {sz : MemSize} (h : sz ≠ .b128) (x : Nat) : ((leBytes 8 x).take (sizeBytes sz)).length = sizeBytes sz := by
  have hn : sizeBytes sz ≤ 8 := by cases sz <;> simp_all [sizeBytes]
  rw [List.length_take, leBytes_length, Nat.min_eq_left hn]

/-- Fewer bytes of a number are those of the number cut to as many. -/
theorem take_leBytes (n : Nat) : ∀ (m x : Nat), n ≤ m → (leBytes m x).take n = leBytes n x := by
  induction n with
  | zero => intro m x _; simp [leBytes]
  | succ n ih =>
    intro m x h
    cases m with
    | zero => omega
    | succ m =>
      rw [leBytes, leBytes, List.take_succ_cons, ih m _ (by omega)]

/-- The bytes of a number are those of it cut to a whole number of bytes that hold them. -/
theorem leBytes_mod (n : Nat) : ∀ (m x : Nat), n ≤ m → leBytes n (x % 256 ^ m) = leBytes n x := by
  induction n with
  | zero => exact fun _ _ _ => rfl
  | succ n ih =>
    intro m x h
    cases m with
    | zero => omega
    | succ m =>
      have hb : BitVec.ofNat 8 (x % 256 ^ (m + 1)) = BitVec.ofNat 8 x := by
        apply BitVec.eq_of_toNat_eq
        simp only [BitVec.toNat_ofNat]
        exact Nat.mod_mod_of_dvd x ⟨256 ^ m, by rw [pow_succ']⟩
      have hd : x % 256 ^ (m + 1) / 256 = x / 256 % 256 ^ m := by rw [pow_succ', Nat.mod_mul_right_div_self]
      rw [leBytes, leBytes, hb, hd, ih m _ (by omega)]

/-- What a uniform store writes are the low bytes of its pair (R152). -/
theorem storeK_eq (r : Regs) (d : KReg) (sz : MemSize) (h : sz ≠ .b128) :
    r.storeK d.val sz = (leBytes 8 (r.getK2 d.val).toNat).take (sizeBytes sz) := by
  have hlow : (r.getK2 d.val).toNat % 256 ^ 4 = (r.getK d.val).toNat := by
    unfold Regs.getK2
    split
    next h0 => simp [h0, Regs.getK]
    next =>
      have hy := (r.getK d.val).isLt
      rw [BitVec.toNat_append, ← Nat.shiftLeft_add_eq_or_of_lt hy, Nat.shiftLeft_eq]
      omega
  unfold Regs.storeK
  split
  next h64 =>
    subst h64
    exact (take_leBytes 8 8 _ (le_refl _)).symm
  next h64 =>
    have hn : sizeBytes sz ≤ 4 := by cases sz <;> simp_all [sizeBytes]
    rw [take_leBytes _ _ _ hn, take_leBytes _ _ _ (by omega), ← hlow, leBytes_mod _ _ _ hn]

/-! ## Stores by lanes -/

/-- A piece lies on this chip, and no store has to wait for it: local memory that is not held, or lines of a scratchpad that are present
and do not move. What is lost there is for step 4 of R156 to say. -/
def Piece.isClear (s : State) (p : Piece) : Prop :=
  match p.at_ with
  | .loc pa => Machine.isHeld s pa = false
  | .scr tid off => absentLines s tid off p.n = [] ∧ p.isHeld s = false
  | _ => False

/-- Where a clear piece lies. -/
theorem Piece.isClear.cases {s : State} {p : Piece} (h : p.isClear s) : (∃ pa, p.at_ = .loc pa ∧ Machine.isHeld s pa = false) ∨
    ∃ tid off, p.at_ = .scr tid off ∧ absentLines s tid off p.n = [] ∧ p.isHeld s = false := by
  obtain ⟨va, n, at_, leaf⟩ := p
  cases at_ with
  | loc pa => exact .inl ⟨pa, rfl, h⟩
  | scr tid off => exact .inr ⟨tid, off, rfl, h⟩
  | _ => exact h.elim

theorem Piece.isOpen.isClear {s : State} {p : Piece} (h : p.isOpen s) : p.isClear s := by
  obtain ⟨pa, hp, hh, -⟩ | ⟨tid, off, hp, ha, hh⟩ := h.cases
  · simpa [Piece.isClear, hp] using hh
  · simpa [Piece.isClear, hp] using ⟨ha, hh⟩

theorem Piece.isClear.isHere {s : State} {p : Piece} (h : p.isClear s) : p.isHere = true := by
  obtain ⟨pa, hp, -⟩ | ⟨tid, off, hp, -⟩ := h.cases <;> simp [Piece.isHere, hp]

theorem Piece.isClear.not_held {s : State} {p : Piece} (h : p.isClear s) : p.isHeld s = false := by
  obtain ⟨pa, hp, hh⟩ | ⟨-, -, -, -, hh⟩ := h.cases
  · simpa [Piece.isHeld, hp] using hh
  · exact hh

theorem Piece.isClear.farBytes {s : State} {p : Piece} (h : p.isClear s) (bs : List Byte) : farBytes p bs = [] := by
  obtain ⟨pa, hp, -⟩ | ⟨tid, off, hp, -⟩ := h.cases <;> simp [Machine.farBytes, hp]

/-- Step 3 of R156 passes where every piece is clear. -/
theorem checkPresent_of_clear {s0 s : State} {ps : List Piece} (h : ∀ p ∈ ps, p.isClear s) : checkPresent s0 s ps = .ok () := by
  have hlines : ps.flatMap (fun p => match p.at_ with | .scr tid off => absentLines s tid off p.n | _ => []) = [] := by
    refine List.flatMap_eq_nil_iff.2 fun p hp => ?_
    obtain ⟨pa, hat, -⟩ | ⟨tid, off, hat, ha, -⟩ := (h p hp).cases
    · simp only [hat]
    · simp only [hat, ha]
  have hheld : ps.any (Piece.isHeld s) = false := List.any_eq_false.2 fun p hp => by simp [(h p hp).not_held]
  unfold checkPresent
  split
  next => rw [hheld]; rfl
  next hne => exact absurd hlines hne

section
variable {s s1 : State} {e : Env} {ls : List Nat} {lane : Nat → Nat} {p : Nat → Piece} {data : Nat → List Byte}

theorem storePairs_map (q : Nat → Piece) :
    storePairs (ls.map fun l => (lane l, [q l])) (ls.map data) = ls.map fun l => ([q l], data l) := by
  simp [storePairs, List.zip_map']

variable (hp : ∀ l ∈ ls, (p l).isClear s1)
include hp

/-- Clear pieces send nothing away. -/
theorem storeReqs_of_clear : storeReqs (ls.map fun l => ([p l], data l)) = [] := by
  have hz : (ls.map fun l => ([p l], data l)).flatMap (fun z => laneFar z.1 z.2) = [] := by
    simpa [List.flatMap_map, laneFar] using fun l hl => (hp l hl).farBytes _
  unfold storeReqs
  rw [hz]
  rfl

/-- A move that names no part writes every clear piece at once. -/
theorem writeNow_of_clear (hw : s1.partFor e = none) :
    writeNow s1 e (ls.map fun l => (lane l, [p l])) (ls.map data) =
      .ok ((s1.storesMeet e (ls.map p)).putLanes (ls.map fun l => ([p l], data l))) := by
  have hpick : pickLanes s1 e (Piece.inLost s1) true (ls.map fun l => (lane l, [p l])) = ls.map fun l => (lane l, [(true, p l)]) := by
    unfold pickLanes
    rw [hw]
    simpa using fun l hl => (hp l hl).isHere
  have hgoing : goingNow (ls.map fun l => (lane l, [(true, p l)])) = ls.map p := by
    simp [goingNow, List.flatMap_map, ← List.map_eq_flatMap]
  have hdone : allDone (ls.map fun l => (lane l, [{ p l with at_ := .got [] }])) = true := by
    simp [allDone, Piece.isHere]
  unfold writeNow
  simp [hpick, hgoing, hdone, storePairs_map, Function.comp_def]

/-- A store whose every lane has one clear piece, none of it staged and none of it lost, writes its bytes as the caches leave the state. -/
theorem storeLanes_of_clear {n : Nat} {va : Nat → Nat} {as : List Steered} (hf : e.flight? = none) (hw : s1.partFor e = none)
    (hs : steerAll s e .write n (ls.map fun l => (lane l, va l)) = .ok as) (hd : checkDet e as = .ok ())
    (hx : xlateAll s e .write n as = .ok (s1, ls.map fun l => (lane l, [p l])))
    (hstage : (e.mustStage && !(laneRecs e as (ls.map data)).isEmpty) = false)
    (hlost : ∀ l ∈ ls, pieceErr s1 (some (storeLocal (ls.map fun l => ([p l], data l)))) (p l) = none) :
    storeLanes s e n (ls.map fun l => (lane l, va l, data l)) =
      .ok ((s1.storesMeet e (ls.map p)).putLanes (ls.map fun l => ([p l], data l))) := by
  have hpresent : checkPresent s s1 (ls.map p) = .ok () := checkPresent_of_clear (by simpa using hp)
  have hplaces : checkPlaces s1 (some (storeLocal (ls.map fun l => ([p l], data l)))) (ls.map fun l => (lane l, [p l])) = .ok () :=
    checkPlaces_ok (by simpa using hlost)
  have hwrite : writePlaces s1 e (ls.map fun l => (lane l, [p l])) (ls.map data) =
      .ok ((s1.storesMeet e (ls.map p)).putLanes (ls.map fun l => ([p l], data l))) := by
    simp [writePlaces, storePairs_map, hplaces, storeReqs_of_clear hp, writeNow_of_clear hp hw, bind, Except.bind]
  unfold storeLanes
  rw [hf]
  simp only [List.map_map, Function.comp_def, hs, hd, hx, bind, Except.bind, flatMap_onePiece, hpresent, hstage]
  exact hwrite

end

/-! ## The global window -/

theorem xlateAll_of_onThisChip {s s1 : State} {e : Env} {acc : Acc} {ls : List Nat} {va pa : Nat → Nat} {n : Nat} {lf : Nat → Leaf}
    (h : OnThisChip s s1 e acc ls va n pa lf) (lane : Nat → Nat) :
    xlateAll s e acc n (ls.map fun l => ⟨lane l, va l, .glob (va l)⟩) =
      .ok (s1, ls.map fun l => (lane l, [⟨va l, n, .loc (pa l), lf l⟩])) := by
  unfold xlateAll
  simp only [List.map_map, Function.comp_def, xlateEach_of_clean (xlateSized_translated ls h.page h.maps) (by simp)]

section
variable {data : Nat → List Byte} {n : Nat} (hlen : ∀ l, (data l).length = n)
include hlen

theorem storeLocal_loc (ls : List Nat) (va pa : Nat → Nat) (lf : Nat → Leaf) :
    storeLocal (ls.map fun l => ([⟨va l, n, .loc (pa l), lf l⟩], data l)) = ls.flatMap fun l => spread (pa l) (data l) := by
  have ht : ∀ l, (data l).take n = data l := fun l => List.take_of_length_le (hlen l).le
  simp [storeLocal, localWrites, List.flatMap_map, ht]

/-- Stores that scratchpads have no part in put their bytes in local memory. -/
theorem putLanes_loc (s : State) (ls : List Nat) (va pa : Nat → Nat) (lf : Nat → Leaf) :
    s.putLanes (ls.map fun l => ([⟨va l, n, .loc (pa l), lf l⟩], data l)) =
      (s.clearLost (ls.flatMap fun l => spread (pa l) (data l))).storeAll (ls.flatMap fun l => spread (pa l) (data l)) := by
  unfold State.putLanes
  rw [storeLocal_loc hlen, List.foldl_map]
  exact foldl_keeps id _ (fun a l => by simp [State.scrWrites]) ls _

theorem storeLanes_of_onThisChip {s s1 : State} {e : Env} {ls : List Nat} {va pa : Nat → Nat} {lf : Nat → Leaf} (hn : 0 < n)
    (hf : e.flight? = none) (hw : s.partFor e = none) (hstage : e.mustStage = false) (h : OnThisChip s s1 e .write ls va n pa lf)
    (hl : ∀ l ∈ ls, localErr s1 (staysLost s1 (ls.flatMap fun l => spread (pa l) (data l))) (pa l) n = none) (lane : Nat → Nat) :
    storeLanes s e n (ls.map fun l => (lane l, va l, data l)) =
      .ok (((s1.storesMeet e (accessed ls va n pa lf)).clearLost (ls.flatMap fun l => spread (pa l) (data l))).storeAll
        (ls.flatMap fun l => spread (pa l) (data l))) := by
  have hw1 : s1.partFor e = none := by
    rw [← hw, State.partFor, State.partFor, (translated_storesOnly _ h.maps).part]
  rw [storeLanes_of_clear (p := fun l => ⟨va l, n, .loc (pa l), lf l⟩) h.open_ hf hw1 (steerAll_global hn ls lane va h.low)
    (checkDet_ok (by simp)) (xlateAll_of_onThisChip h lane) (by rw [hstage]; rfl) ?lost, putLanes_loc hlen]
  case lost =>
    intro l hm
    rw [storeLocal_loc hlen]
    simp only [pieceErr, hl l hm, Option.map_none]
  rfl

end

/-! ## The team's own scratchpad -/

theorem modTeam_id (s : State) (tid : Nat) : s.modTeam tid (fun u => u) = s := by
  simp [State.modTeam]

theorem modTeam_modTeam (s : State) (tid : Nat) {f : Team → Team} (g : Team → Team) (hf : ∀ u, (f u).tid = u.tid) :
    (s.modTeam tid f).modTeam tid g = s.modTeam tid (fun u => g (f u)) := by
  unfold State.modTeam
  rw [List.map_map]
  congr 2
  funext u
  by_cases hu : u.tid = tid <;> simp [hu, hf]

/-- Scratchpad stores of one team in order are the writes in order. -/
theorem foldl_scrStore (tid : Nat) (ws : List (Nat × List Byte)) : ∀ s : State,
    ws.foldl (fun a w => a.scrStore tid w.1 w.2) s = s.withScratch tid ws := by
  induction ws with
  | nil => exact fun s => (modTeam_id s tid).symm
  | cons w ws ih => exact fun s => (ih _).trans (modTeam_modTeam s tid _ fun _ => rfl)

/-- Writes to a scratchpad leave every byte outside them alone. -/
theorem scratchAfter_byte_ne {ls : List Nat} {off : Nat → Nat} {data : Nat → List Byte} {n a : Nat}
    (hlen : ∀ l, (data l).length = n) : ∀ {m : BMap 8}, (∀ l ∈ ls, ¬(off l ≤ a ∧ a < off l + n)) →
      getB (scratchAfter m (ls.map fun l => (off l, data l))) a = getB m a := by
  induction ls with
  | nil => exact fun _ => rfl
  | cons l ls ih =>
    intro m h
    rw [List.map_cons, scratchAfter, ih fun k hk => h k (List.mem_cons_of_mem _ hk), getB_writeB, hlen,
      if_neg (h l List.mem_cons_self)]

theorem clearLost_nil (s : State) : s.clearLost [] = s := by
  have h : ∀ a, coversAtom [] a = false := fun a => by simp [coversAtom, List.range_succ]
  simp [State.clearLost, h]

theorem storeLocal_scr (ls : List Nat) (tid n : Nat) (va off : Nat → Nat) (data : Nat → List Byte) :
    storeLocal (ls.map fun l => ([⟨va l, n, .scr tid (off l), ⟨0, 0⟩⟩], data l)) = [] := by
  simp [storeLocal, localWrites, List.flatMap_map]

/-- Stores to one team's scratchpad write there in order. -/
theorem putLanes_scr (s : State) (ls : List Nat) (tid : Nat) (va off : Nat → Nat) {data : Nat → List Byte} {n : Nat}
    (hlen : ∀ l, (data l).length = n) :
    s.putLanes (ls.map fun l => ([⟨va l, n, .scr tid (off l), ⟨0, 0⟩⟩], data l)) =
      s.withScratch tid (ls.map fun l => (off l, data l)) := by
  have ht : ∀ l, (data l).take n = data l := fun l => List.take_of_length_le (hlen l).le
  unfold State.putLanes
  simp only [storeLocal_scr, clearLost_nil, State.storeAll, List.foldl_map, State.scrWrites, ht, ← foldl_scrStore]

/-- Pieces in scratchpads meet no cache and nothing that was left at a narrow scope. -/
theorem storesMeet_scratch {s : State} {e : Env} {n tid : Nat} {ls : List Nat} {ga off : Nat → Nat} :
    s.storesMeet e (ls.map fun l => ⟨ga l, n, .scr tid (off l), ⟨0, 0⟩⟩) = s := by
  have hr : localRuns (ls.map fun l => (⟨ga l, n, .scr tid (off l), ⟨0, 0⟩⟩ : Piece)) = [] := by simp [localRuns]
  have hl : linesMet (ls.map fun l => (⟨ga l, n, .scr tid (off l), ⟨0, 0⟩⟩ : Piece)) = [] := by
    unfold linesMet
    rw [List.flatMap_eq_nil_iff.2 (by simp)]
    rfl
  have hland : s.landFor e.t.tid [] = s := landLate_none s (by simp)
  simp only [State.storesMeet, State.storeMet, hr, hl, hland, List.foldl_nil]

theorem BelowTable.withHint {s : State} {e : Env} {ga n off : Nat} (h : BelowTable s e ga n off) (x : Hint) :
    BelowTable s { e with hint := x } ga n off := ⟨h.toInOwnScratch.withHint x, h.below⟩

/-- An address of the own slot of the aperture leads to the team's scratchpad (R78). -/
theorem steerScr_own {s : State} {e : Env} {ga n off : Nat} (h : InOwnScratch s e ga n off) :
    steerScr s e ga n = some (e.t.tid, off) := by
  have hlow := h.low
  have hg := h.at_
  have h0 : fld ga 55 22 = 0 := by unfold fld; omega
  have h1 : fld ga 21 18 = 15 := by unfold fld; omega
  have h2 : fld ga 17 0 = off := by unfold fld; omega
  unfold steerScr
  simp [h0, h1, h2, h.fits]

/-- Below its buffer table a team's own scratchpad may be written (R78, R121). -/
theorem steer_below {s : State} {e : Env} {ga n off lane : Nat} (ht : s.team? e.t.tid = some e.t) (h : BelowTable s e ga n off) :
    steer s e .write lane ga n = some (.scr e.t.tid off) := by
  have hb : inBufTable (s.scratchSize e.t) off n = false := by
    have := h.below
    unfold inBufTable
    simp only [Bool.and_eq_false_iff, decide_eq_false_iff_not]
    omega
  have hlow := h.low
  have hg := h.at_
  unfold steer
  rw [if_neg (by omega), if_neg (by omega), if_pos (by omega), steerScr_own h.toInOwnScratch]
  simp [ht, hb]

theorem storeLanes_own {s : State} {e : Env} {n : Nat} {ls : List Nat} {ga off : Nat → Nat} {data : Nat → List Byte}
    (ht : s.team? e.t.tid = some e.t) (hn : 0 < n) (hlen : ∀ l, (data l).length = n) (hf : e.flight? = none)
    (hw : s.partFor e = none) (h : ∀ l ∈ ls, BelowTable s e (ga l) n (off l)) (lane : Nat → Nat) :
    storeLanes s e n (ls.map fun l => (lane l, ga l, data l)) = .ok (s.withScratch e.t.tid (ls.map fun l => (off l, data l))) := by
  have hs : steerAll s e .write n (ls.map fun l => (lane l, ga l)) = .ok (ls.map fun l => ⟨lane l, ga l, .scr e.t.tid (off l)⟩) := by
    induction ls with
    | nil => rfl
    | cons l ls ih =>
      simp only [List.map_cons, steerAll, steer_below ht (h l (by simp)), ih fun k hk => h k (by simp [hk])]
      rfl
  have hx : xlateAll s e .write n (ls.map fun l => ⟨lane l, ga l, .scr e.t.tid (off l)⟩) =
      .ok (s, ls.map fun l => (lane l, [⟨ga l, n, .scr e.t.tid (off l), ⟨0, 0⟩⟩])) := by
    unfold xlateAll
    simp only [List.map_map, Function.comp_def, xlateEach_of_clean (xlateSized_scratch ls) (by simp)]
  have hrecs : laneRecs e (ls.map fun l => ⟨lane l, ga l, .scr e.t.tid (off l)⟩) (ls.map data) = [] := by
    simp [laneRecs, List.zip_map', List.flatMap_map]
  rw [storeLanes_of_clear (fun l hl => (isOpen_own ht hn (h l hl).toInOwnScratch).isClear) hf hw hs (checkDet_ok (by simp +contextual))
    hx (by simp [hrecs]) (fun l _ => by simp [pieceErr]), storesMeet_scratch, putLanes_scr s ls _ _ _ hlen]

end Sys2Proof.Machine
end

section
/-! ST and UST (R147 to R149, R152, R156). -/

namespace Sys2Proof.Machine

section
variable {s s1 : State} {e : Env} (he : s.env? = some e) (hg : s1.groups = s.groups)
include he hg

theorem completes_st {g : Pred} {d : Src} {m : LaneMem} {sz : MemSize} {h : Hint} (ht : e.taking g ≠ 0)
    (hl : storeLanes s { e with hint := h } (sizeBytes sz) ((lanesOf (e.taking g)).map fun l =>
      (l, (e.g.regs.laneAddr m l).toNat, storeBytes sz (fun i => e.g.regs.dataAt sz d i l))) = .ok s1) :
    Completes (.st g d m sz h) s s1 e e.g.latch (WritesNone e) := by
  refine completes_of_retire (run_ok he ?_) ((group?_of hg _).trans (group?_gid_of_env he)) (retire_none e)
  simp only [if_neg ht, hl]
  rfl

theorem completes_ust {g : Pred} {d : KReg} {m : UniMem} {sz : MemSize} {h : Hint} (hq : e.g.regs.getQ g.val = true)
    (hsz : sz ≠ .b128) (hl : storeLanes s { e with hint := h } (sizeBytes sz)
      [(lowLane e.c.mask, (e.g.regs.uniAddr m).toNat, (leBytes 8 (e.g.regs.getK2 d.val).toNat).take (sizeBytes sz))] = .ok s1) :
    Completes (.ust g d m sz h) s s1 e e.g.latch (WritesNone e) := by
  rw [← storeK_eq _ _ _ hsz] at hl
  refine completes_of_retire ((uniform_on he hq).trans (run_ok he ?_)) ((group?_of hg _).trans (group?_gid_of_env he)) (retire_none e)
  simp only [hl]
  rfl

end

/-- Storing on this chip leaves the groups alone. -/
theorem OnThisChip.stores_groups {s s1 : State} {e : Env} {ls : List Nat} {va pa : Nat → Nat} {n : Nat} {lf : Nat → Leaf}
    (h : OnThisChip s s1 e .write ls va n pa lf) (x : Env) (ps : List Piece) (ws : List (Nat × Byte)) :
    (((s1.storesMeet x ps).clearLost ws).storeAll ws).groups = s.groups :=
  ((((translated_storesOnly _ h.maps).trans (storesMeet_storesOnly s1 x ps)).trans (clearLost_storesOnly _ ws)).trans
    (storeAll_storesOnly ws _)).groups

end Sys2Proof.Machine

namespace Sys2Proof
open Machine

/-- Settles O29: the places of the lanes are clear, so each lane's bytes are written there in lane order once the caches have been met; a
write is read back as the last of the list that names its address. -/
theorem stores : Obligations.Stores := by
  refine ⟨?instructions, storeAll_byte⟩
  intro g d kd m um sz h s e he n ga data ua udata ls
  have hn : 0 < n := sizeBytes_pos sz
  have ht := team?_tid_of_env he
  have hlen : ∀ l, (data l).length = n := fun l => storeBytes_length sz _
  refine ⟨fun hz => completes_of_retire_same he (run_ok he (if_pos hz)), fun hq => completes_of_retire_same he (uniform_off he hq),
    ?ownLanes, ?lanes, ?ownUniform, ?uniform⟩
  case ownLanes =>
    intro hb hz off ho ws
    have ho' : ∀ l ∈ ls, BelowTable s e (ga l) n (off l) := fun l hl => ho l ((mem_lanesOf _ _).1 hl)
    exact ⟨completes_st (s1 := s.withScratch e.t.tid ws) he rfl hz (storeLanes_own (e := { e with hint := h }) ht hn hlen hb.fresh hb.whole
        (fun l hl => (ho' l hl).withHint h) (fun l => l)),
      fun a ha => scratchAfter_byte_ne hlen fun l hl => ha l ((mem_lanesOf _ _).1 hl)⟩
  case lanes =>
    intro hb hz hstage s1 pa lf hc ws s2 hl
    exact ⟨completes_st he (hc.stores_groups _ _ _) hz (storeLanes_of_onThisChip (e := { e with hint := h }) hlen hn hb.fresh hb.whole
        hstage (hc.withHint h) hl (fun l => l)),
      fun a ha => store_lanes_frame s2 hlen fun l hl => ha l ((mem_lanesOf _ _).1 hl),
      fun hlate hslots => hc.stores_usesOnly he hlate hslots _ _⟩
  case ownUniform =>
    intro hb hq hsz off ho
    exact completes_ust (s1 := s.withScratch e.t.tid [(off, udata)]) he rfl hq hsz
      (storeLanes_own (e := { e with hint := h }) (ls := [0]) (data := fun _ => udata) ht hn (fun _ => take_leBytes_length hsz _)
        hb.fresh hb.whole (fun _ _ => ho.withHint h) (fun _ => lowLane e.c.mask))
  case uniform =>
    intro hb hq hsz hstage s1 pa lf hc ws s2 hl
    have hlen := fun _ : Nat => take_leBytes_length hsz (e.g.regs.getK2 kd.val).toNat
    have hws : ([0] : List Nat).flatMap (fun _ => spread pa udata) = ws := List.append_nil _
    have hst := storeLanes_of_onThisChip (e := { e with hint := h }) hlen hn hb.fresh hb.whole hstage (hc.withHint h)
      (fun _ _ => hws ▸ hl) (fun _ => lowLane e.c.mask)
    have hframe := fun a (ha : ¬(pa ≤ a ∧ a < pa + n)) => store_lanes_frame s2 (ls := [0]) (pa := fun _ => pa) hlen fun _ _ => ha
    rw [hws] at hst
    exact ⟨completes_ust he (hc.stores_groups _ _ _) hq hsz hst, hws ▸ hframe, fun hlate hslots => hc.stores_usesOnly he hlate hslots _ _⟩

end Sys2Proof
end

section
/-! The crest of one stack as a row cache: what becomes of a page (R61 to R64, R66). -/

namespace Sys2Proof.Machine

/-! ## One stack of the state -/

/-- The changed stack is the one that the number names. -/
theorem modStack_hbm_same {s : State} {i : Nat} {k : Stack} (h : s.hbm[i]? = some k) (f : Stack → Stack) :
    (s.modStack i f).hbm[i]? = some (f k) := by
  simp [State.modStack, h]

theorem modStack_hbm_ne (s : State) {i j : Nat} (h : i ≠ j) (f : Stack → Stack) : (s.modStack i f).hbm[j]? = s.hbm[j]? := by
  simp [State.modStack, h]

/-- A change of a stack is the stack that it leads to. -/
theorem modStack_eq {s : State} {i : Nat} {k : Stack} (h : s.hbm[i]? = some k) (f : Stack → Stack) :
    s.modStack i f = s.modStack i (fun _ => f k) := by
  unfold State.modStack
  congr 1
  refine List.ext_getElem? fun j => ?_
  rw [List.getElem?_modify, List.getElem?_modify]
  by_cases hj : i = j
  · subst hj; simp [h]
  · simp [hj]

theorem modStack_modStack (s : State) (i : Nat) (f g : Stack → Stack) : (s.modStack i f).modStack i g = s.modStack i (g ∘ f) := by
  unfold State.modStack
  rw [List.modify_modify_eq]

/-! ## Promotions and moves of a page -/

section
variable {k : Stack} {q : Nat}

/-- A promotion takes a free row where there is one (R61, R62). -/
theorem promote_of_free {r : Nat} (h : k.freeRow (k.bankOf q) = some r) (c : Option Nat) :
    k.promote q c = some ({ k with
      pages := setT k.pages q ⟨.promoting, !c.isNone, c, r, k.lruTick⟩, lruTick := k.lruTick + 1 }, false) := by
  unfold Stack.promote
  simp only [h]

/-- Without a free row it takes that of a victim, which leaves the crest or is written back (R62). -/
theorem promote_of_victim {x : Nat} {v : Promoted} {c : Option Nat} (h : k.freeRow (k.bankOf q) = none)
    (hv : k.victim (k.bankOf q) c.isNone = some (x, v)) :
    ∃ k', k.promote q c = some (k', v.isExplicit) ∧ getT k'.pages q = some ⟨.promoting, !c.isNone, c, v.row, k.lruTick⟩ := by
  unfold Stack.promote
  simp only [h, hv]
  refine ⟨_, rfl, ?_⟩
  by_cases hd : v.st = .dirty <;> simp [hd]

/-- An explicit promotion that finds its row at once waits for nothing. -/
theorem promoteSoon_of_promote {c : Nat} {x : Stack × Bool} (h : k.promote q (some c) = some x) (f : Nat) :
    k.promoteSoon q c (f + 1) = some x := by
  unfold Stack.promoteSoon
  rw [h]

theorem promoted_of_absent (h : getT k.pages q = none) : k.promoted q = k := by simp [Stack.promoted, h]

theorem demote_of_absent (h : getT k.pages q = none) : k.demote q = k := by simp [Stack.demote, h]

variable {v : Promoted} (h : getT k.pages q = some v)
include h

theorem promoted_of_ne (hv : v.st ≠ .promoting) : k.promoted q = k := by simp [Stack.promoted, h, hv]

/-- The copy of a page that is being promoted ends (R64). -/
theorem promoted_of_promoting (hv : v.st = .promoting) : k.promoted q = { k with pages := setT k.pages q { v with st := .clean } } := by
  simp [Stack.promoted, h, hv]

theorem demote_of_clean (hv : v.st = .clean) : k.demote q = { k with pages := delT k.pages q } := by simp [Stack.demote, h, hv]

theorem demote_of_dirty (hv : v.st = .dirty) :
    k.demote q = { k with pages := setT k.pages q { v with st := .writingBack, isExplicit := false, charge := none } } := by
  simp [Stack.demote, h, hv]

theorem demote_of_moving (hc : v.st ≠ .clean) (hd : v.st ≠ .dirty) : k.demote q = k := by simp [Stack.demote, h, hc, hd]

theorem writtenBack_of_writingBack (hv : v.st = .writingBack) : k.writtenBack q = { k with pages := delT k.pages q } := by
  simp [Stack.writtenBack, h, hv]

theorem makeExplicit_of_cached (c : Nat) :
    k.makeExplicit q c = { k with pages := setT k.pages q { v with isExplicit := true, charge := some c } } := by
  simp [Stack.makeExplicit, h]

end

/-! ## The outcomes of HROW on a page (R66) -/

/-- A page of a stack has come to what HROW was to make of it. -/
def Gives (i q : Nat) (r : State × HrowOut) (o : HrowOut) (x : Option Promoted) : Prop :=
  r.2 = o ∧ ∃ k', r.1.hbm[i]? = some k' ∧ getT k'.pages q = x

section
variable {s : State} {c i q : Nat} {k : Stack}

theorem upFlank_refused (h : k.isRemapping = true ∨ 8 ≤ k.win.toNat ∨ hasQuota s c = false) : upFlank s c i q k = (s, .refused) := by
  unfold upFlank
  rw [if_pos]
  simpa [or_assoc] using h

/-- Explicit promotion of a FLANK page that finds a row. -/
theorem upFlank_of_promote {k' : Stack} {d : Bool} (hr : k.isRemapping = false) (hw : k.win.toNat < 8) (hq : hasQuota s c = true)
    (hp : k.promote q (some c) = some (k', d)) :
    upFlank s c i q k = (s.modStack i (fun _ => k'), if d then .displaced else .done) := by
  unfold upFlank
  rw [if_neg (by simp [hr, hw, hq]), promoteSoon_of_promote hp]

theorem upFlank_gives {k0 : Stack} {x : Option Promoted} {k' : Stack} {d : Bool} (hk : s.hbm[i]? = some k0)
    (hr : k.isRemapping = false) (hw : k.win.toNat < 8) (hq : hasQuota s c = true) (hp : k.promote q (some c) = some (k', d))
    (hx : getT k'.pages q = x) : Gives i q (upFlank s c i q k) (if d then .displaced else .done) x := by
  rw [upFlank_of_promote hr hw hq hp]
  exact ⟨rfl, k', modStack_hbm_same hk _, hx⟩

end

section
variable {s : State} {c p : Nat} {k : Stack} (hk : s.hbm[paStack p]? = some k) (hc : paClass p = false)
include hk hc

theorem outcomeDn_gives {k' : Stack} {x : Option Promoted} (hm : (k.promoted (paPage p)).demote (paPage p) = k')
    (hx : getT k'.pages (paPage p) = x) : Gives (paStack p) (paPage p) (outcomeDn s c p) .done x := by
  unfold outcomeDn
  rw [if_neg (by simp [hc])]
  exact ⟨rfl, k', by rw [modStack_hbm_same hk, hm], hx⟩

/-- HROW.UP on a page of the flank promotes it. -/
theorem outcomeUp_of_flank (h : getT k.pages (paPage p) = none) : outcomeUp s c p = upFlank s c (paStack p) (paPage p) k := by
  unfold outcomeUp
  simp only [hc, hk, h, Bool.false_eq_true, if_false]

variable {v : Promoted} (h : getT k.pages (paPage p) = some v)
include h

theorem outcomeUp_of_explicit (hv : v.st ≠ .writingBack) (he : v.isExplicit = true) : outcomeUp s c p = (s, .done) := by
  unfold outcomeUp
  simp only [hc, hk, h, hv, he, Bool.false_eq_true, if_false, if_true]

/-- A page that the hardware promoted is charged to a context with quota (R64). -/
theorem outcomeUp_of_implicit_gives (hv : v.st ≠ .writingBack) (he : v.isExplicit = false) (hq : hasQuota s c = true) :
    Gives (paStack p) (paPage p) (outcomeUp s c p) .done (some { v with isExplicit := true, charge := some c }) := by
  have hup : outcomeUp s c p = (s.modStack (paStack p) (fun k => k.makeExplicit (paPage p) c), .done) := by
    unfold outcomeUp
    simp only [hc, hk, h, hv, he, hq, Bool.false_eq_true, if_false, if_true]
  rw [hup]
  exact ⟨rfl, _, modStack_hbm_same hk _, by rw [makeExplicit_of_cached h]; exact getT_setT_same _ _ _⟩

theorem outcomeUp_of_implicit_refused (hv : v.st ≠ .writingBack) (he : v.isExplicit = false) (hq : hasQuota s c = false) :
    outcomeUp s c p = (s, .refused) := by
  unfold outcomeUp
  simp only [hc, hk, h, hv, he, hq, Bool.false_eq_true, if_false]

/-- A page that is clean, or is once its copy ends, leaves the crest at once (R64, R66). -/
theorem outcomeDn_of_clean (hv : v.st = .clean ∨ v.st = .promoting) : Gives (paStack p) (paPage p) (outcomeDn s c p) .done none := by
  have hdel : ∀ t : Tbl Promoted, getT (delT t (paPage p)) (paPage p) = none := fun t => (getT_delT _ _ _).trans (if_pos rfl)
  rcases hv with hv | hv
  · exact outcomeDn_gives hk hc (by rw [promoted_of_ne h (by simp [hv]), demote_of_clean h hv]) (hdel _)
  · exact outcomeDn_gives hk hc (by rw [promoted_of_promoting h hv, demote_of_clean (getT_setT_same _ _ _) rfl]) (hdel _)

theorem outcomeDn_of_dirty (hv : v.st = .dirty) : Gives (paStack p) (paPage p) (outcomeDn s c p) .done
    (some { v with st := .writingBack, isExplicit := false, charge := none }) :=
  outcomeDn_gives hk hc (by rw [promoted_of_ne h (by simp [hv]), demote_of_dirty h hv]) (getT_setT_same _ _ _)

theorem outcomeDn_of_writingBack (hv : v.st = .writingBack) : Gives (paStack p) (paPage p) (outcomeDn s c p) .done (some v) :=
  outcomeDn_gives hk hc (by rw [promoted_of_ne h (by simp [hv]), demote_of_moving h (by simp [hv]) (by simp [hv])]) h

/-- A page that is being written back is promoted anew once it is; what its promotion refuses is refused now (R66). -/
theorem outcomeUp_of_writingBack (hv : v.st = .writingBack) {k' : Stack} (hk' : k' = { k with pages := delT k.pages (paPage p) }) :
    outcomeUp s c p = match upFlank (s.modStack (paStack p) (fun _ => k')) c (paStack p) (paPage p) k' with
      | (_, .refused) => (s, .refused)
      | r => r := by
  have hw := (writtenBack_of_writingBack h hv).trans hk'.symm
  unfold outcomeUp
  simp only [hc, hk, h, hv, Bool.false_eq_true, if_false, if_true, modStack_eq hk, hw] <;> rfl

end

/-- A page that is being written back is refused while its promotion would be. -/
theorem outcomeUp_of_writingBack_refused {s : State} {c p : Nat} {k k' : Stack} (hk : s.hbm[paStack p]? = some k)
    (hc : paClass p = false) {v : Promoted} (h : getT k.pages (paPage p) = some v) (hv : v.st = .writingBack)
    (hk' : k' = { k with pages := delT k.pages (paPage p) })
    (hr : k'.isRemapping = true ∨ 8 ≤ k'.win.toNat ∨ hasQuota (s.modStack (paStack p) (fun _ => k')) c = false) :
    outcomeUp s c p = (s, .refused) := by
  rw [outcomeUp_of_writingBack hk hc h hv hk', upFlank_refused hr]

/-- A page that is being written back is promoted to a row that is free once it is. -/
theorem outcomeUp_of_writingBack_gives {s : State} {c p : Nat} {k k' : Stack} (hk : s.hbm[paStack p]? = some k) (hc : paClass p = false)
    {v : Promoted} (h : getT k.pages (paPage p) = some v) (hv : v.st = .writingBack)
    (hk' : k' = { k with pages := delT k.pages (paPage p) }) {r : Nat} (hr : k'.isRemapping = false) (hw : k'.win.toNat < 8)
    (hq : hasQuota (s.modStack (paStack p) (fun _ => k')) c = true) (hrow : k'.freeRow (k'.bankOf (paPage p)) = some r) :
    Gives (paStack p) (paPage p) (outcomeUp s c p) .done (some ⟨.promoting, true, some c, r, k'.lruTick⟩) := by
  have hs := modStack_hbm_same hk (fun _ => k')
  rw [outcomeUp_of_writingBack hk hc h hv hk', upFlank_of_promote hr hw hq (promote_of_free hrow _)]
  exact ⟨rfl, _, modStack_hbm_same hs _, getT_setT_same _ _ _⟩

end Sys2Proof.Machine
end

section
/-! The places of HROW (R66, R69): translating for a read leaves alone what decides whether a page is there. -/

namespace Sys2Proof.Machine

theorem ok_bind {ε α β : Type} (a : α) (f : α → Except ε β) : (Except.ok a >>= f) = f a := rfl

/-- A stack without what the use of its rows changes. -/
def Stack.fixed (k : Stack) : Stack := { k with pages := [], opened := [], lruTick := 0 }

/-- The stacks differ in the use of their rows and in promoted pages alone. -/
structure SameStacks (s t : State) : Prop where
  grade : t.grade = s.grade
  hbm   : ∀ i : Nat, (t.hbm[i]?).map Stack.fixed = (s.hbm[i]?).map Stack.fixed

theorem SameStacks.refl (s : State) : SameStacks s s := ⟨rfl, fun _ => rfl⟩

theorem SameStacks.trans {s t u : State} (h : SameStacks s t) (k : SameStacks t u) : SameStacks s u :=
  ⟨k.grade.trans h.grade, fun i => (k.hbm i).trans (h.hbm i)⟩

theorem SameStacks.of_hbm {s t : State} (hg : t.grade = s.grade) (h : t.hbm = s.hbm) : SameStacks s t := ⟨hg, fun i => by rw [h]⟩

theorem SameStacks.foldl {β : Type} (f : State → β → State) (hf : ∀ a b, SameStacks a (f a b)) (l : List β) :
    ∀ s : State, SameStacks s (l.foldl f s) := by
  induction l with
  | nil => exact SameStacks.refl
  | cons b t ih => exact fun s => (hf s b).trans (ih _)

/-- What decides whether a page is there, has failed or is open is no use of rows. -/
theorem fields_of_fixed {k m : Stack} (h : m.fixed = k.fixed) :
    m.live = k.live ∧ m.win = k.win ∧ m.winWas = k.winWas ∧ m.busy = k.busy ∧ m.failed = k.failed := by
  unfold Stack.fixed at h
  injection h
  exact ⟨‹_›, ‹_›, ‹_›, ‹_›, ‹_›⟩

theorem banks_of_fixed {k m : Stack} (h : m.fixed = k.fixed) : m.banks = k.banks := by
  obtain ⟨hlive, -⟩ := fields_of_fixed h
  exact congrArg popCount hlive

theorem pageCount_of_fixed {k m : Stack} (h : m.fixed = k.fixed) (crest : Bool) : m.pageCount crest = k.pageCount crest := by
  obtain ⟨-, hwin, -⟩ := fields_of_fixed h
  unfold Stack.pageCount
  rw [banks_of_fixed h, hwin]

section
variable {s t : State} (h : SameStacks s t)
include h

theorem SameStacks.cases (i : Nat) : (s.hbm[i]? = none ∧ t.hbm[i]? = none) ∨
    ∃ k m, s.hbm[i]? = some k ∧ t.hbm[i]? = some m ∧ m.fixed = k.fixed := by
  have hi := h.hbm i
  cases hs : s.hbm[i]? with
  | none => rw [hs, Option.map_none, Option.map_eq_none_iff] at hi; exact .inl ⟨rfl, hi⟩
  | some k =>
    rw [hs, Option.map_some, Option.map_eq_some_iff] at hi
    obtain ⟨m, hm, hf⟩ := hi
    exact .inr ⟨k, m, rfl, hm, hf⟩

theorem SameStacks.localExists (pa : Nat) : localExists t pa = localExists s pa := by
  unfold Machine.localExists
  rw [h.grade]
  obtain ⟨hs, ht⟩ | ⟨k, m, hs, ht, hf⟩ := h.cases (paStack pa)
  · rw [hs, ht]
  · rw [hs, ht]
    exact congrArg _ (congrArg (fun n => decide (paPage pa < n)) (pageCount_of_fixed hf _))

theorem SameStacks.stackFailed (pa : Nat) : stackFailed t pa = stackFailed s pa := by
  unfold Machine.stackFailed
  obtain ⟨hs, ht⟩ | ⟨k, m, hs, ht, hf⟩ := h.cases (paStack pa)
  · rw [hs, ht]
  · obtain ⟨-, -, -, -, hfail⟩ := fields_of_fixed hf
    simp only [hs, ht, Option.any_some, hfail]

theorem SameStacks.isHeld (pa : Nat) : isHeld t pa = isHeld s pa := by
  unfold Machine.isHeld
  obtain ⟨hs, ht⟩ | ⟨k, m, hs, ht, hf⟩ := h.cases (paStack pa)
  · rw [hs, ht]
  · obtain ⟨-, -, hwas, hbusy, -⟩ := fields_of_fixed hf
    simp only [hs, ht, banks_of_fixed hf, hwas, hbusy]

end

theorem reach_sameStacks (s : State) (pa : Nat) : SameStacks s (s.reach pa) := by
  unfold State.reach
  split
  · exact .refl s
  · refine ⟨rfl, fun i => ?_⟩
    rw [List.getElem?_modify]
    cases s.hbm[i]? with
    | none => rfl
    | some k =>
      simp only [Option.map_eq_map, Option.map_some, Option.some.injEq]
      split
      · split <;> rfl
      · rfl

theorem caches_sameStacks (s : State) (cs : List CacheLine) : SameStacks s { s with caches := cs } := .of_hbm rfl rfl

theorem useL2_sameStacks (s : State) (pa cc : Nat) (wr : Bool) : SameStacks s (s.useL2 pa cc wr) := by
  unfold State.useL2
  dsimp only
  split
  · split
    · exact (caches_sameStacks s _).trans (reach_sameStacks _ pa)
    · exact caches_sameStacks s _
  · split
    · exact reach_sameStacks s pa
    · refine ((reach_sameStacks s pa).trans ?_).trans (caches_sameStacks _ _)
      split
      · split
        · exact reach_sameStacks _ _
        · exact .refl _
      · exact .refl _

theorem runL2_sameStacks (s : State) (pa n cc : Nat) (wr : Bool) : SameStacks s (s.runL2 pa n cc wr) := by
  unfold State.runL2
  split
  · exact .refl s
  · exact SameStacks.foldl _ (fun a _ => useL2_sameStacks a _ cc wr) _ s

theorem count_sameStacks (s : State) (c o n : Nat) : SameStacks s (s.count c o n) :=
  .of_hbm (State.count_grade s c o n) (State.count_hbm s c o n)

theorem tlbFill_sameStacks (s : State) (t : TlbEntry) (us : List TlbUnit) : SameStacks s (s.tlbFill t us) :=
  .of_hbm (State.tlbFill_grade s t us) (State.tlbFill_hbm s t us)

theorem walkUsed_sameStacks (s : State) (w : WalkEntry) : SameStacks s (s.walkUsed w) := .of_hbm rfl rfl

theorem ctxL2_sameStacks (s : State) (ctx pa cc : Nat) (wr : Bool) : SameStacks s (s.ctxL2 ctx pa cc wr) := by
  unfold State.ctxL2
  split
  · exact useL2_sameStacks _ _ _ _
  · exact (count_sameStacks s _ _ _).trans (useL2_sameStacks _ _ _ _)

theorem leafOf_sameStacks {s s1 : State} {c : Nat} {a : Agent} {spur : Option Word} {va e lvl : Nat}
    (h : leafOf s c a spur va = .ok (s1, e, lvl)) : SameStacks s s1 := by
  unfold leafOf at h
  split at h
  · cases h; exact tlbFill_sameStacks _ _ _
  · split at h
    · cases h
    · dsimp only at h
      split at h
      · cases h
      · cases h
        exact (((SameStacks.foldl _ walkUsed_sameStacks _ s).trans (tlbFill_sameStacks _ _ _)).trans (count_sameStacks _ _ _ _)).trans
          (SameStacks.foldl _ (fun b pa => ctxL2_sameStacks b _ pa _ _) _ _)

theorem xlate_sameStacks {s s1 : State} {c : Nat} {a : Agent} {spur : Option Word} {hd : Bool} {acc : Acc} {va : Nat} {p : Phys}
    {leaf : Leaf} (hacc : acc.writes = false) (h : xlate s c a spur hd acc va = .ok (s1, p, leaf)) : SameStacks s s1 := by
  obtain ⟨s2, s3, e, lvl, hleaf, hcow, hread⟩ := xlate_ok h
  have h2 := leafOf_sameStacks hleaf
  obtain rfl | ⟨hw, -⟩ := hcow
  · obtain rfl | ⟨pa, n, rfl⟩ := hread
    · exact h2
    · exact h2.trans (runL2_sameStacks _ _ _ _ _)
  · rw [hacc] at hw
    cases hw

theorem translated_sameStacks {e : Env} {acc : Acc} (hacc : acc.writes = false) (vas : List Nat) :
    ∀ {s s1 : State} {xs : List (Nat × Leaf)}, s.translated e acc vas = some (s1, xs) → SameStacks s s1 := by
  induction vas with
  | nil => intro s s1 xs h; cases h; exact .refl s
  | cons va vas ih =>
    intro s s1 xs h
    unfold State.translated at h
    split at h
    next s2 pa leaf hx =>
      obtain ⟨⟨s3, ys⟩, ht, hr⟩ := Option.map_eq_some_iff.1 h
      cases hr
      exact (xlate_sameStacks hacc hx).trans (ih ht)
    next => cases h

/-- A page that is there, that has not failed and that is open is the place that HROW means. -/
theorem hrowPlace_ok {s s1 : State} {e : Env} {va pa : Nat} {leaf : Leaf}
    (hx : xlate s e.t.ctx e.agent (some e.spur) e.g.trap.masked .read va = .ok (s1, .loc pa, leaf)) (hl : localExists s1 pa = true)
    (hf : stackFailed s1 pa = false) (hh : isHeld s1 pa = false) : hrowPlace s e va = .ok (s1, .loc pa) := by
  unfold hrowPlace
  simp only [hx, hl, hf, hh, Bool.not_true, Bool.false_eq_true, if_false]

/-- The places of consecutive pages that are all there, as their translations leave the state. -/
theorem hrowPlaces_of_translated {e : Env} (n : Nat) : ∀ {s s1 : State} {base : Nat} {pa : Nat → Nat} {lf : Nat → Leaf},
    s.translated e .read ((List.range n).map fun i => base + 65536 * i) = some (s1, (List.range n).map fun i => (pa i, lf i)) →
    (∀ i, i < n → localExists s1 (pa i) = true ∧ stackFailed s1 (pa i) = false ∧ isHeld s1 (pa i) = false) →
    hrowPlaces s e n base = .ok (s1, (List.range n).map fun i => .loc (pa i)) := by
  induction n with
  | zero => intro s s1 base pa lf h _; cases h; rfl
  | succ n ih =>
    intro s s1 base pa lf h hp
    simp only [List.range_succ_eq_map, List.map_cons, List.map_map, State.translated, Nat.mul_zero, Nat.add_zero] at h
    split at h
    next s2 p leaf hx =>
      obtain ⟨⟨s3, ys⟩, ht, hr⟩ := Option.map_eq_some_iff.1 h
      simp only [Prod.mk.injEq, List.cons.injEq] at hr
      obtain ⟨rfl, ⟨rfl, rfl⟩, rfl⟩ := hr
      have hsame := translated_sameStacks rfl _ ht
      obtain ⟨hl, hf, hh⟩ := hp 0 (Nat.succ_pos n)
      rw [hsame.localExists] at hl
      rw [hsame.stackFailed] at hf
      rw [hsame.isHeld] at hh
      have hbase : ∀ i, base + 65536 * (i + 1) = base + 65536 + 65536 * i := fun i => by omega
      simp only [Function.comp_def, Nat.succ_eq_add_one, hbase] at ht
      have hrest := ih (pa := fun i => pa (i + 1)) (lf := fun i => lf (i + 1)) ht fun i hi => hp (i + 1) (Nat.succ_lt_succ hi)
      rw [hrowPlaces, hrowPlace_ok hx hl hf hh]
      simp only [hrest, ok_bind, pure, Except.pure, List.range_succ_eq_map, List.map_cons, List.map_map, Function.comp_def,
        Nat.succ_eq_add_one]
    next => cases h

/-! ## Moving the pages changes stacks alone -/

theorem upFlank_groups (s : State) (c i q : Nat) (k : Stack) : (upFlank s c i q k).1.groups = s.groups := by
  unfold upFlank
  split
  · rfl
  · split <;> rfl

theorem outcomeUp_groups (s : State) (c p : Nat) : (outcomeUp s c p).1.groups = s.groups := by
  unfold outcomeUp
  dsimp only
  split
  · rfl
  · split
    · rfl
    · split
      · exact upFlank_groups _ _ _ _ _
      · split
        · split
          · rfl
          · exact upFlank_groups _ _ _ _ _
        · split
          · rfl
          · split <;> rfl

theorem outcomeDn_groups (s : State) (c p : Nat) : (outcomeDn s c p).1.groups = s.groups := by
  unfold outcomeDn
  split <;> rfl

theorem hrowCount_groups {f : State → Nat → Nat → State × HrowOut} (hf : ∀ s c p, (f s c p).1.groups = s.groups) (c : Nat) (ps : List Phys) :
    ∀ s : State, (hrowCount f c s ps).1.groups = s.groups := by
  induction ps with
  | nil => exact fun _ => rfl
  | cons p ps ih =>
    intro s
    refine (ih _).trans ?_
    cases p with
    | loc pa => exact hf s c pa
    | _ => rfl

end Sys2Proof.Machine
end

section
/-! HROW.UP, HROW.DN and HROW.Q (R66, R67, R69). -/

namespace Sys2Proof.Machine

/-- Nothing is logged or checked where the grid neither records nor replays. -/
theorem sampleOpen_unlogged {e : Env} (h : e.isUnlogged = true) (s : State) : sampleOpen s e = .ok none := by
  have hm : Rec.mode e.gr.bytes < 2 := by simpa [Env.isUnlogged] using h
  have hrec : e.isRec = false := by unfold Env.isRec; rw [beq_eq_false_iff_ne]; omega
  have hreplay : e.isReplay = false := by unfold Env.isReplay; rw [beq_eq_false_iff_ne]; omega
  unfold sampleOpen cairnOpen
  simp only [hrec, hreplay, Bool.false_eq_true, if_false]
  rfl

theorem sampleClose_unlogged {e : Env} (h : e.isUnlogged = true) (s : State) (v : Nat) (r : Option (Nat × LogRec)) :
    s.sampleClose e v r = s := by
  have hm : Rec.mode e.gr.bytes < 2 := by simpa [Env.isUnlogged] using h
  have hrec : e.isRec = false := by unfold Env.isRec; rw [beq_eq_false_iff_ne]; omega
  have hreplay : e.isReplay = false := by unfold Env.isReplay; rw [beq_eq_false_iff_ne]; omega
  unfold State.sampleClose State.cairnClose
  simp only [hrec, hreplay, Bool.false_eq_true, if_false]

theorem hrowOpen_outside {e : Env} {va n : Nat} (h : 2 ^ 57 < va + 65536 * n) :
    hrowOpen e va n = .error (.trap 6 0 (max va (2 ^ 57)) none 0) := by
  have hm : (if va < 2 ^ 57 then 2 ^ 57 else va) = max va (2 ^ 57) := by
    split
    · exact (Nat.max_eq_right (by omega)).symm
    · exact (Nat.max_eq_left (by omega)).symm
  unfold hrowOpen
  rw [if_pos h, hm]
  rfl

theorem hrowOpen_inside {e : Env} {va n : Nat} (hd : e.isDet = false) (h : va + 65536 * n ≤ 2 ^ 57) : hrowOpen e va n = .ok () := by
  unfold hrowOpen detBan
  rw [if_neg (by omega), hd]
  rfl

section
variable {s : State} {e : Env} {g : Pred} {d a : KReg} {n : BitVec 6} {f : State → Nat → Nat → State × HrowOut} {i : Instr}
  (hi : exec i s = s.hrow g d a n f) (he : s.env? = some e) (hq : e.g.regs.getQ g.val = true)
include hi he hq

/-- Pages beyond the global window are refused before any is translated (R69). -/
theorem traps_hrow (h : 2 ^ 57 < (e.g.regs.getK2 a.val).toNat / 65536 * 65536 + 65536 * (n.toNat + 1)) :
    Traps i s e 6 0 (max ((e.g.regs.getK2 a.val).toNat / 65536 * 65536) (2 ^ 57)) e.c.mask := by
  refine traps_of_run (lanes := none) (hi.trans (uniform_on he hq)) he ?_ rfl
  simp only [hrowOpen_outside h]
  rfl

/-- Pages that are all there are moved in ascending order, and the count of what came of them is written (R66). -/
theorem completes_hrow (hf : ∀ s c p, (f s c p).1.groups = s.groups) (hd : e.isDet = false) (hu : e.isUnlogged = true)
    (hb : (e.g.regs.getK2 a.val).toNat / 65536 * 65536 + 65536 * (n.toNat + 1) ≤ 2 ^ 57) {s1 : State} {ps : List Phys}
    (hg : s1.groups = s.groups)
    (hp : hrowPlaces s e (n.toNat + 1) ((e.g.regs.getK2 a.val).toNat / 65536 * 65536) = .ok (s1, ps)) :
    Completes i s (hrowCount f e.t.ctx s1 ps).1 e e.g.latch
      (fun h => WritesK e h d.val (BitVec.ofNat 32 (hrowCount f e.t.ctx s1 ps).2)) := by
  have hrun : exec i s = .next ((hrowCount f e.t.ctx s1 ps).1.retire e { e.g with
      regs := e.g.regs.setK d.val (BitVec.ofNat 32 (hrowCount f e.t.ctx s1 ps).2), latch := e.g.latch }) := by
    refine hi.trans ((uniform_on he hq).trans (run_ok he ?_))
    simp only [hrowOpen_inside hd hb, hp, sampleOpen_unlogged hu, sampleClose_unlogged hu, ok_bind, Option.map_none, Option.getD_none, Group.withRegs]
  exact completes_of_retire hrun ((group?_of ((hrowCount_groups hf _ _ _).trans hg) _).trans (group?_gid_of_env he)) (setK_writes e _ _)

end

theorem completes_hrowQ {s s1 : State} {e : Env} {g : Pred} {d a : KReg} {p : Phys} (he : s.env? = some e)
    (hq : e.g.regs.getQ g.val = true) (hd : e.isDet = false) (hu : e.isUnlogged = true) (hg : s1.groups = s.groups)
    (hb : (e.g.regs.getK2 a.val).toNat / 65536 * 65536 + 65536 * 1 ≤ 2 ^ 57)
    (hp : hrowPlace s e (e.g.regs.getK2 a.val).toNat = .ok (s1, p)) :
    Completes (.hrowQ g d a) s s1 e e.g.latch (fun h => WritesK e h d.val (BitVec.ofNat 32 (hrowStatus s1 p))) := by
  have hrun : exec (.hrowQ g d a) s = .next (s1.retire e { e.g with
      regs := e.g.regs.setK d.val (BitVec.ofNat 32 (hrowStatus s1 p)), latch := e.g.latch }) := by
    refine (uniform_on he hq).trans (run_ok he ?_)
    simp only [hrowOpen_inside hd hb, hp, sampleOpen_unlogged hu, sampleClose_unlogged hu, ok_bind, Option.map_none, Option.getD_none, Group.withRegs]
  exact completes_of_retire hrun ((group?_of hg _).trans (group?_gid_of_env he)) (setK_writes e _ _)

end Sys2Proof.Machine

namespace Sys2Proof
open Machine

/-- Settles O38: the pages' places survive each other's translation, so that the moves start from the state which that leaves; the table
of R66 goes by the state of the page. -/
theorem hotRows : Obligations.HotRows := by
  refine ⟨?instructions, ?table⟩
  case instructions =>
    intro g d a n s s1 e pa lf he hq va base ps up dn word
    refine ⟨fun h => ⟨traps_hrow rfl he hq h, traps_hrow rfl he hq h⟩, fun hd hu hb hc hp => ?moves, fun hd hu hc hl hf => ?reports⟩
    case moves =>
      have hplaces := hrowPlaces_of_translated (e := e) (n.toNat + 1) hc.maps fun i hi =>
        ⟨(hp i (Nat.le_of_lt_succ hi)).1, (hp i (Nat.le_of_lt_succ hi)).2, hc.open_ i (List.mem_range.2 hi)⟩
      have hg := (translated_usesOnly rfl _ hc.maps).groups
      exact ⟨completes_hrow rfl he hq outcomeUp_groups hd hu hb hg hplaces, completes_hrow rfl he hq outcomeDn_groups hd hu hb hg hplaces⟩
    case reports =>
      have hb : base + 65536 * 1 ≤ 2 ^ 57 := by
        have := hc.low 0 (List.mem_singleton_self 0)
        omega
      have hx : ∃ leaf, xlate s e.t.ctx e.agent (some e.spur) e.g.trap.masked .read va = .ok (s1, .loc (pa 0), leaf) := by
        have hm := hc.maps
        simp only [List.map_cons, List.map_nil, State.translated] at hm
        split at hm
        next s2 p leaf hx =>
          obtain ⟨⟨s3, ys⟩, ht, hr⟩ := Option.map_eq_some_iff.1 hm
          cases ht
          simp only [Prod.mk.injEq, List.cons.injEq] at hr
          obtain ⟨rfl, ⟨rfl, -⟩, -⟩ := hr
          exact ⟨leaf, hx⟩
        next => cases hm
      obtain ⟨leaf, hx⟩ := hx
      have hu1 := translated_usesOnly rfl _ hc.maps
      exact ⟨completes_hrowQ he hq hd hu hu1.groups hb (hrowPlace_ok hx hl hf (hc.open_ 0 (List.mem_singleton_self 0))), hu1⟩
  case table =>
    intro s c p k hk q gives
    refine ⟨fun hc => by simp [outcomeUp, outcomeDn, hc], fun hc => ⟨fun hq => ⟨?refused, ?free, ?victim, ?down⟩, fun v hv => ?cached⟩⟩
    case refused => exact fun h => (outcomeUp_of_flank hk hc hq).trans (upFlank_refused h)
    case free =>
      intro r hr hw hquota hrow
      rw [outcomeUp_of_flank hk hc hq]
      exact upFlank_gives hk hr hw hquota (promote_of_free hrow _) (getT_setT_same _ _ _)
    case victim =>
      intro x v hr hw hquota hrow hv
      obtain ⟨k', hp, hx⟩ := promote_of_victim (c := some c) hrow hv
      rw [outcomeUp_of_flank hk hc hq]
      exact upFlank_gives hk hr hw hquota hp hx
    case down => exact outcomeDn_gives hk hc (by rw [promoted_of_absent hq, demote_of_absent hq]) hq
    case cached =>
      exact ⟨outcomeUp_of_explicit hk hc hv, outcomeUp_of_implicit_gives hk hc hv, outcomeUp_of_implicit_refused hk hc hv,
        outcomeDn_of_clean hk hc hv, outcomeDn_of_dirty hk hc hv, outcomeDn_of_writingBack hk hc hv,
        fun hst => ⟨outcomeUp_of_writingBack_refused hk hc hv hst rfl,
          fun r hr hw hquota hrow => outcomeUp_of_writingBack_gives hk hc hv hst rfl hr hw hquota hrow⟩⟩

end Sys2Proof
end

section
/-! Controllers and their requests (R57, R58, R60, R70, R71). -/

namespace Sys2Proof.Machine

/-! ## Posting events -/

/-- One state is another but for what posting an event to the host changes (R388). -/
structure PostsOnly (s t : State) : Prop where
  rest : t = { s with hostMem := t.hostMem, rings := t.rings, outbox := t.outbox }

theorem postEv_postsOnly (s : State) (fn : Nat) (e : EvRec) : PostsOnly s (s.postEv fn e) := by
  unfold State.postEv
  dsimp only
  split
  · exact ⟨rfl⟩
  · split
    · exact ⟨rfl⟩
    · split <;> exact ⟨rfl⟩

@[simp] theorem postDev_mem (s : State) (code a b : Nat) : (s.postDev code a b).mem = s.mem := by
  unfold State.postDev
  rw [(postEv_postsOnly s 0 _).rest]

@[simp] theorem postDev_hbm (s : State) (code a b : Nat) : (s.postDev code a b).hbm = s.hbm := by
  unfold State.postDev
  rw [(postEv_postsOnly s 0 _).rest]

/-! ## Serving a request -/

theorem StoresOnly.outbox {s t : State} (h : StoresOnly s t) : t.outbox = s.outbox := by rw [h.rest]

theorem partLost_none {s : State} {ws : List (Nat × Byte)} (h : ∀ w ∈ ws, isLost s w.1 = false) : partLost s ws = none := by
  have hn : ws.find? (fun w => staysLost s ws w.1) = none :=
    List.find?_eq_none.2 fun w hw => by simp [staysLost, h w hw]
  simp [partLost, hn]

/-- Every byte that a masked write stores is one of those that its mask names. -/
theorem mem_maskedWrites {pa : Nat} {m : BitVec 128} {w : Nat × Byte} (bs : List Byte) : ∀ {n : Nat}, w ∈ maskedWrites pa m bs n →
    ∃ j, n ≤ j ∧ j < n + bs.length ∧ w.1 = pa + j ∧ m.getLsbD j = true := by
  induction bs with
  | nil => intro n h; cases h
  | cons b bs ih =>
    intro n h
    rcases List.mem_append.1 h with h | h
    · split at h
      next hm =>
        obtain rfl := List.mem_singleton.1 h
        exact ⟨n, le_refl _, by simp, rfl, hm⟩
      next => cases h
    · obtain ⟨j, hn, hj, hw, hm⟩ := ih h
      exact ⟨j, by omega, by rw [List.length_cons]; omega, hw, hm⟩

/-- A byte after a masked write. -/
theorem getB_maskedWrites {pa : Nat} {mask : BitVec 128} {a : Nat} (bs : List Byte) : ∀ (m : BMap 8) (n : Nat),
    getB ((maskedWrites pa mask bs n).foldl (fun m (w : Nat × Byte) => putB m w.1 w.2) m) a =
      if pa + n ≤ a ∧ a < pa + n + bs.length ∧ mask.getLsbD (a - pa) = true then bs.getD (a - (pa + n)) 0 else getB m a := by
  induction bs with
  | nil => intro m n; rw [if_neg (by rw [List.length_nil]; omega)]; rfl
  | cons b bs ih =>
    intro m n
    rw [maskedWrites, List.foldl_append, ih, List.length_cons]
    by_cases ha : a = pa + n
    · subst ha
      rw [if_neg (by omega)]
      by_cases hm : mask.getLsbD n = true <;> simp [hm]
    · have hput : getB ((if mask.getLsbD n = true then [(pa + n, b)] else []).foldl (fun m (w : Nat × Byte) => putB m w.1 w.2) m) a =
          getB m a := by
        split
        · exact getB_putB_ne _ _ ha
        · rfl
      rw [hput]
      by_cases hin : pa + (n + 1) ≤ a ∧ a < pa + (n + 1) + bs.length ∧ mask.getLsbD (a - pa) = true
      · rw [if_pos hin, if_pos ⟨by omega, by omega, hin.2.2⟩, show a - (pa + n) = a - (pa + (n + 1)) + 1 by omega]
        rfl
      · rw [if_neg hin, if_neg fun h => hin ⟨by omega, by omega, h.2.2⟩]

section
variable {s : State} {r : MemReq} (hh : isHeld s r.pa = false)
include hh

/-- A request at an open place is served, and answered. -/
theorem exec_controllerRequest {t : State} {st : ReplyStatus} {data : List Byte} (h : serve s false r.op r.pa = (t, st, data)) :
    exec (.controllerRequest r .clean) s = .next { t with outbox := t.outbox ++ [.reply r.src r.tag st data] } := by
  show execControllerRequest r .clean s = _
  unfold execControllerRequest
  simp only [h, hh, Bool.false_eq_true, if_false]

end

section
variable {s : State} {pa : Nat}

theorem serve_absent (h : localExists s pa = false) (ext : Bool) (op : MemOp) : serve s ext op pa = (s, .absent, []) := by
  unfold serve
  simp only [h, Bool.not_false, if_true]

variable (hl : localExists s pa = true)
include hl

/-- A read is refused where an atom is lost, and answered with the bytes of memory elsewhere (R58, R71). -/
theorem serve_read {op : MemOp} {n : Nat} (ho : (op = .rd32 ∧ n = 32) ∨ (op = .rd64 ∧ n = 64) ∨ (op = .rd128 ∧ n = 128)) (ext : Bool) :
    (∀ a, localErr s (isLost s) pa n = some (true, a) → serve s ext op pa = (s, .dataLost, [])) ∧
    (localErr s (isLost s) pa n = none → serve s ext op pa = (s.useL2 pa 2 false, .ok, readB s.mem pa n)) := by
  rcases ho with ⟨rfl, rfl⟩ | ⟨rfl, rfl⟩ | ⟨rfl, rfl⟩ <;> refine ⟨fun a h => ?_, fun h => ?_⟩ <;> simp [serve, hl, readLen, h, State.loadRun]

theorem serve_write {m : BitVec 128} {bs : List Byte}
    (h : ∀ j, j < bs.length → m.getLsbD j = true → localExists s (pa + j) = true ∧ isLost s (pa + j) = false) :
    serve s false (.wr m bs) pa =
      ((((s.clearLost (maskedWrites pa m bs 0)).storeAll (maskedWrites pa m bs 0)).useL2 pa 2 true), .ok, []) := by
  have hw : ∀ w ∈ maskedWrites pa m bs 0, localExists s w.1 = true ∧ isLost s w.1 = false := by
    intro w hw
    obtain ⟨j, -, hj, hwj, hm⟩ := mem_maskedWrites bs hw
    rw [hwj]
    exact h j (by omega) hm
  have hany : (maskedWrites pa m bs 0).any (fun w => !localExists s w.1) = false :=
    List.any_eq_false.2 fun w hm => by simp [(hw w hm).1]
  unfold serve
  simp [hl, hany, partLost_none fun w hm => (hw w hm).2]

theorem serve_atomic {o : AtomOp} {b : Bool} {x c : DWord} (h : localErr s (isLost s) pa (if b then 8 else 4) = none) :
    serve s false (.atomic o b x c) pa =
      (((s.storeAll (spread pa (leBytes (if b then 8 else 4)
          (newValue o b (leNat (readB s.mem pa (if b then 8 else 4))) x.toNat c.toNat)))).atController pa), .ok,
        leBytes (if b then 8 else 4) (leNat (readB s.mem pa (if b then 8 else 4)))) := by
  simp [serve, hl, h, State.loadNat, State.loadRun]

theorem serve_hrow_failed (h : stackFailed s pa = true) (ext up : Bool) (c : Nat) :
    serve s ext (.hrow up c) pa = (s, .dataLost, []) := by
  simp [serve, hl, h]

end

end Sys2Proof.Machine
end

section
/-! Events of one stack: promotions and write-backs, remaps, the crest split, the lost table (R60 to R64, R72 to R76). -/

namespace Sys2Proof.Machine

/-! ## Filling a run of bytes -/

theorem getB_append_right {w : Nat} (l r : BMap w) {j : Nat} (h : ∀ e ∈ l, e.1 ≠ j) : getB (l ++ r) j = getB r j := by
  induction l with
  | nil => rfl
  | cons e l ih =>
    obtain ⟨a, x⟩ := e
    rw [List.cons_append, getB, if_neg (h (a, x) List.mem_cons_self), ih fun e he => h e (List.mem_cons_of_mem _ he)]

theorem getB_append_left {w : Nat} (l r : BMap w) {j : Nat} (h : ∀ e ∈ r, e.1 ≠ j) : getB (l ++ r) j = getB l j := by
  induction l with
  | nil =>
    have hn := getB_append_right r [] h
    rwa [List.append_nil] at hn
  | cons e l ih =>
    obtain ⟨a, x⟩ := e
    rw [List.cons_append, getB, getB, ih]

/-- Filling a run leaves every key outside it alone. -/
theorem getB_fillB_ne {w : Nat} (m : BMap w) {a n j : Nat} (f : Nat → BitVec w) (h : j < a ∨ a + n ≤ j) :
    getB (fillB m a n f) j = getB m j := by
  have hrun := (wfB_run f a n).2
  have hlow := getB_filter m (fun x => decide (x < a)) j
  have hhigh := getB_filter m (fun x => decide (a + n ≤ x)) j
  unfold fillB
  rcases h with h | h
  · rw [getB_append_left _ _ fun e he => ?above, getB_append_left _ _ fun e he => ?inside, hlow, if_pos (by simpa using h)]
    case above => have := (List.mem_filter.1 he).2; simp at this; omega
    case inside => have := hrun e he; omega
  · rw [getB_append_right _ _ fun e he => ?below, hhigh, if_pos (by simpa using h)]
    case below =>
      rcases List.mem_append.1 he with he | he
      · have := (List.mem_filter.1 he).2; simp at this; omega
      · have := hrun e he; omega

/-! ## Pages whose contents are discarded (R60, R74) -/

/-- A stack without its lost entries between two addresses. -/
def Stack.cleared (k : Stack) (lo hi : Nat) : Stack :=
  { k with
    lostAtoms := k.lostAtoms.filter (fun x => 32 * x < lo || hi ≤ 32 * x)
    lostPages := k.lostPages.filter (fun x => 65536 * x < lo || hi ≤ 65536 * x) }

theorem mem_cleared_lostAtoms {k : Stack} {lo hi x : Nat} :
    x ∈ (k.cleared lo hi).lostAtoms ↔ x ∈ k.lostAtoms ∧ (32 * x < lo ∨ hi ≤ 32 * x) := by
  simp [Stack.cleared]

theorem mem_cleared_lostPages {k : Stack} {lo hi x : Nat} :
    x ∈ (k.cleared lo hi).lostPages ↔ x ∈ k.lostPages ∧ (65536 * x < lo ∨ hi ≤ 65536 * x) := by
  simp [Stack.cleared]

@[simp] theorem markStaleRun_hbm (s : State) (pa n : Nat) : (s.markStaleRun pa n).hbm = s.hbm := by
  unfold State.markStaleRun
  split <;> rfl

theorem discard_hbm {s : State} {i : Nat} {k : Stack} (h : s.hbm[i]? = some k) (crest : Bool) (a b : Nat) :
    (s.discard crest i a b).hbm[i]? = some (k.cleared (pagePa crest i a) (pagePa crest i b)) := by
  unfold State.discard
  exact modStack_hbm_same (by simpa using h) _

theorem discard_mem (s : State) (crest : Bool) (i a b : Nat) :
    (s.discard crest i a b).mem = zeroB s.mem (pagePa crest i a) (pagePa crest i b - pagePa crest i a) := by
  simp [State.discard]

/-- A byte of a page lies between the ends of the pages around it. -/
theorem pagePa_bounds {pa i a b : Nat} (h : pa < 2 ^ 41) (hi : paStack pa = i) (ha : a ≤ paPage pa) (hb : paPage pa < b) :
    pagePa (paClass pa) i a ≤ pa ∧ pa < pagePa (paClass pa) i b := by
  unfold paStack at hi
  unfold paPage at ha hb
  unfold pagePa
  have hc : (paClass pa).toNat = pa / 2 ^ 40 % 2 := by
    unfold paClass
    have := Nat.mod_two_eq_zero_or_one (pa / 2 ^ 40)
    rcases this with h | h <;> rw [h] <;> rfl
  rw [hc]
  omega

/-- A byte of the pages that a restore brings lies in the run of pages of its class. -/
theorem newPage_bounds {pa i a b c d : Nat}
    (h : pa < 2 ^ 41 ∧ paStack pa = i ∧ (if paClass pa then c ≤ paPage pa ∧ paPage pa < d else a ≤ paPage pa ∧ paPage pa < b)) :
    (pagePa false i a ≤ pa ∧ pa < pagePa false i b) ∨ (pagePa true i c ≤ pa ∧ pa < pagePa true i d) := by
  obtain ⟨hlt, hi, hp⟩ := h
  split at hp
  next hc => exact .inr (hc ▸ pagePa_bounds hlt hi hp.1 hp.2)
  next hc => exact .inl (Bool.eq_false_iff.2 hc ▸ pagePa_bounds hlt hi hp.1 hp.2)

/-- The byte at a discarded page reads as zero. -/
theorem getB_discard (s : State) {crest : Bool} {i a b pa : Nat} (h : pagePa crest i a ≤ pa ∧ pa < pagePa crest i b) :
    getB (s.discard crest i a b).mem pa = 0 := by
  rw [discard_mem, getB_zeroB, if_pos]
  omega

/-- Discarding pages makes no byte nonzero. -/
theorem getB_discard_zero {s : State} {pa : Nat} (h : getB s.mem pa = 0) (crest : Bool) (i a b : Nat) :
    getB (s.discard crest i a b).mem pa = 0 := by
  rw [discard_mem, getB_zeroB, h, ite_self]

/-! ## Atoms that a move loses (R75) -/

/-- Local memory holds what it held, and every stack differs in what it has lost alone. -/
structure LosesOnly (s t : State) : Prop where
  mem : t.mem = s.mem
  hbm : ∀ (i : Nat) (k : Stack), s.hbm[i]? = some k → ∃ k', t.hbm[i]? = some k' ∧
    k' = { k with lostAtoms := k'.lostAtoms, lostPages := k'.lostPages, failed := k'.failed }

theorem LosesOnly.of_eq {s t : State} (hm : t.mem = s.mem) (hh : t.hbm = s.hbm) : LosesOnly s t :=
  ⟨hm, fun _ k h => ⟨k, hh ▸ h, rfl⟩⟩

theorem LosesOnly.trans {s t u : State} (h : LosesOnly s t) (g : LosesOnly t u) : LosesOnly s u := by
  refine ⟨g.mem.trans h.mem, fun i k hk => ?_⟩
  obtain ⟨k1, h1, e1⟩ := h.hbm i k hk
  obtain ⟨k2, h2, e2⟩ := g.hbm i k1 h1
  exact ⟨k2, h2, by rw [e2, e1]⟩

theorem LosesOnly.foldl {β : Type} (f : State → β → State) (hf : ∀ a b, LosesOnly a (f a b)) (l : List β) :
    ∀ s : State, LosesOnly s (l.foldl f s) := by
  induction l with
  | nil => exact fun s => .of_eq rfl rfl
  | cons b t ih => exact fun s => (hf s b).trans (ih _)

/-- A change of what one stack has lost. -/
theorem modStack_losesOnly (s : State) (i : Nat) {f : Stack → Stack}
    (hf : ∀ k, f k = { k with lostAtoms := (f k).lostAtoms, lostPages := (f k).lostPages, failed := (f k).failed }) :
    LosesOnly s (s.modStack i f) := by
  refine ⟨rfl, fun j k hk => ?_⟩
  by_cases hij : i = j
  · subst hij
    exact ⟨f k, modStack_hbm_same hk f, hf k⟩
  · exact ⟨k, (modStack_hbm_ne s hij f).trans hk, rfl⟩

theorem loseAtom_losesOnly (s : State) (pa : Nat) : LosesOnly s (s.loseAtom pa) := by
  have hpost : ∀ i, LosesOnly s ((s.dropLines (fun x => x.line == pa / 128)).postDev 3 i (pa / 32 * 32)) :=
    fun i => .of_eq (by simp) (by simp)
  unfold State.loseAtom
  dsimp only
  split
  · exact .of_eq rfl rfl
  · split
    · exact .of_eq rfl rfl
    · split
      · exact (hpost _).trans (modStack_losesOnly _ _ fun _ => rfl)
      · split
        · refine ((hpost _).trans (modStack_losesOnly _ _ fun _ => ?_)).trans (.of_eq (postDev_mem _ _ _ _) (postDev_hbm _ _ _ _))
          rfl
        · exact (hpost _).trans (modStack_losesOnly _ _ fun _ => rfl)

theorem moveLosses_losesOnly (s : State) (crest : Bool) (i page : Nat) : LosesOnly s (s.moveLosses crest i page) := by
  have hfree : LosesOnly s { s with free := s.free + 1 } := .of_eq rfl rfl
  unfold State.moveLosses
  exact hfree.trans (LosesOnly.foldl _ (fun a _ => loseAtom_losesOnly a _) _ _)

/-- A move that finds every atom correctable loses none. -/
theorem moveLosses_of_none {s : State} {crest : Bool} {i page : Nat}
    (h : ∀ j, j < 2048 → Config.moveLoses s.free (pagePa crest i page / 32 + j) = false) :
    s.moveLosses crest i page = { s with free := s.free + 1 } := by
  have hn : (List.range 2048).filter (fun j => Config.moveLoses s.free (pagePa crest i page / 32 + j)) = [] :=
    List.filter_eq_nil_iff.2 fun j hj => by simp [h j (List.mem_range.1 hj)]
  unfold State.moveLosses
  simp only [hn, List.foldl_nil]

/-! ## What the events come to -/

/-- An event that leaves a stack in a state. -/
theorem does_stack {e : Instr} {s t : State} {i : Nat} {k' : Stack} {P : Stack → Prop} (hx : exec e s = .next t)
    (ht : t.hbm[i]? = some k') (hP : P k') : Does e s (fun t => ∃ k', t.hbm[i]? = some k' ∧ P k') := ⟨t, hx, k', ht, hP⟩

/-- The map of a stack at the end of its remap. -/
def State.mapEnded (s : State) (i : Nat) (k : Stack) : State :=
  { s with fw := { s.fw with mapOuts := setT s.fw.mapOuts i k.goal } }.modStack i (fun k => { k with live := k.goal, rstate := 3 })

section
variable {s : State} {i : Nat} {k : Stack} (hk : s.hbm[i]? = some k)
include hk

/-- An event that changes one stack. -/
theorem does_modStack {e : Instr} {f : Stack → Stack} {P : Stack → Prop} (hx : exec e s = .next (s.modStack i f)) (hP : P (f k)) :
    Does e s (fun t => ∃ k', t.hbm[i]? = some k' ∧ P k') := does_stack hx (modStack_hbm_same hk f) hP

theorem exec_hwPromote {q : Nat} {k1 : Stack} {d : Bool} (hp : k.promo ≠ 0) (ha : k.promo.toNat ≤ k.activations q s.now)
    (hr : k.isRemapping = false) (hw : k.win.toNat < 8) (hq : q < k.pageCount false) (hn : getT k.pages q = none)
    (hx : k.promote q none = some (k1, d)) : exec (.hwPromote i q) s = .next (s.modStack i (fun _ => k1)) := by
  show execHwPromote i q s = _
  unfold execHwPromote
  have hc : ¬(k.promo = 0 ∨ k.activations q s.now < k.promo.toNat ∨ k.isRemapping = true ∨ 8 ≤ k.win.toNat ∨ k.pageCount false ≤ q ∨
      (getT k.pages q).isSome = true) := by
    rintro (h | h | h | h | h | h)
    · exact hp h
    · omega
    · simp [hr] at h
    · omega
    · omega
    · simp [hn] at h
  simp only [hk, hc, hx, if_false]

theorem exec_hwPromote_rests {q : Nat}
    (h : k.promo = 0 ∨ k.activations q s.now < k.promo.toNat ∨ k.isRemapping = true ∨ 8 ≤ k.win.toNat) :
    exec (.hwPromote i q) s = .next s := by
  show execHwPromote i q s = _
  unfold execHwPromote
  have hc : k.promo = 0 ∨ k.activations q s.now < k.promo.toNat ∨ k.isRemapping = true ∨ 8 ≤ k.win.toNat ∨ k.pageCount false ≤ q ∨
      (getT k.pages q).isSome = true := by tauto
  simp only [hk, hc, if_true]

theorem exec_promotionDone {q : Nat} {v : Promoted} (hv : getT k.pages q = some v)
    (h : ∀ w ∈ k.pages, k.bankOf w.1 = k.bankOf q → w.1 ≠ q → w.2.row ≠ v.row) :
    exec (.promotionDone i q) s = .next (s.modStack i (fun k => k.promoted q)) := by
  have hany : (k.inBank (k.bankOf q)).any (fun w => w.1 != q && w.2.row == v.row) = false := by
    refine List.any_eq_false.2 fun w hw => ?_
    obtain ⟨hm, hb⟩ := List.mem_filter.1 hw
    simpa using h w hm (by simpa using hb)
  show execPromotionDone i q s = _
  unfold execPromotionDone
  simp only [hk, hv, hany, Bool.false_eq_true, if_false]

/-- A remap that breaks no condition of R74 starts: what falls out is discarded, every cached page is dropped or written back. -/
theorem exec_remapStart {val : Word} (hs : val.getLsbD 31 = true) (hb : remapBreak k (val.extractLsb' 0 16) = none) :
    ∃ (s1 : State) (k1 : Stack), s1.hbm[i]? = some k1 ∧ k1.pages = k.pages ∧ k1.live = k.live ∧
      exec (.remapStart i val) s = .next (s1.modStack i (fun k =>
        { k.flush (fun _ => true) with target := val.extractLsb' 0 16, goal := val.extractLsb' 0 16, rstate := 1 })) := by
  show ∃ (s1 : State) (k1 : Stack), _ ∧ _ ∧ _ ∧ execRemapStart i val s = _
  unfold execRemapStart
  simp only [hk, hs, hb, Bool.not_true, Bool.false_eq_true, if_false]
  by_cases hn : popCount (val.extractLsb' 0 16) < k.banks
  · rw [if_pos hn]
    exact ⟨_, _, discard_hbm (discard_hbm hk _ _ _) _ _ _, rfl, rfl, rfl⟩
  · rw [if_neg hn]
    exact ⟨s, k, hk, rfl, rfl, rfl⟩

theorem exec_remapStart_refused {val : Word} {why : Nat} (hs : val.getLsbD 31 = true)
    (hb : remapBreak k (val.extractLsb' 0 16) = some why) : ∃ a,
    exec (.remapStart i val) s = .next ((s.modStack i (fun k => if k.isRemapping then k else { k with rstate := 4 })).postDev 6 a 0) := by
  show ∃ a, execRemapStart i val s = _
  unfold execRemapStart
  simp only [hk, hs, hb, Bool.not_true, Bool.false_eq_true, if_false]
  exact ⟨_, rfl⟩

theorem exec_remapStart_target {val : Word} (hs : val.getLsbD 31 = false) :
    exec (.remapStart i val) s = .next (s.modStack i (fun k => { k with target := val.extractLsb' 0 16 })) := by
  show execRemapStart i val s = _
  unfold execRemapStart
  simp only [hk, hs, Bool.not_false, if_true]

/-- The move of a page, as the moves before it stand (R75). -/
theorem exec_remapPageMoved {crest : Bool} {page : Nat} (hr : k.rstate = 2) (hn : k.nextMove = some (crest, page)) :
    exec (.remapPageMoved i) s = .next ((s.modStack i (fun k => k.pageMoved)).moveLosses crest i page) := by
  show execRemapPageMoved i s = _
  unfold execRemapPageMoved
  have hc : k.rstate = 2 ∨ (k.rstate = 1 ∧ k.pages = []) := .inl hr
  simp only [hk, hc, hn, if_true]

/-- A page moves, and the watermark passes it; beside it nothing but what the move finds lost has changed (R75). -/
theorem does_remapPageMoved {page : Nat} {next : BitVec 20} (hr : k.rstate = 2) (hn : k.nextMove = some (k.wmClass, page))
    (hm : k.pageMoved = { k with wmPage := next }) :
    Does (.remapPageMoved i) s (fun t => t.mem = s.mem ∧ ∃ k', t.hbm[i]? = some k' ∧
      k' = { k with wmPage := next, lostAtoms := k'.lostAtoms, lostPages := k'.lostPages, failed := k'.failed } ∧
      ((∀ j, j < 2048 → Config.moveLoses s.free (pagePa k.wmClass i page / 32 + j) = false) → k' = { k with wmPage := next })) := by
  have hl := moveLosses_losesOnly (s.modStack i (fun k => k.pageMoved)) k.wmClass i page
  have hs := modStack_hbm_same hk (fun k => k.pageMoved)
  obtain ⟨k', hk', heq⟩ := hl.hbm i _ hs
  rw [hm] at heq hs
  refine ⟨_, exec_remapPageMoved hk hr hn, hl.mem, k', hk', heq, fun hnone => ?_⟩
  rw [moveLosses_of_none (s := s.modStack i fun k => k.pageMoved) hnone] at hk'
  exact (Option.some.inj (hs.symm.trans hk')).symm

/-- The end of a remap: the new map holds, and the top pages that a restore brings are empty (R74). -/
theorem exec_remapDone (hr : k.rstate = 2) (hc : k.wmClass = false) (hd : k.classDone = true) :
    ∃ a, exec (.remapDone i) s = .next ((if k.banks < popCount k.goal then
      ((s.mapEnded i k).discard false i (k.banks * 57344) (popCount k.goal * 57344)).discard true i (k.banks * 1024 * k.win.toNat)
        (popCount k.goal * 1024 * k.win.toNat) else s.mapEnded i k).postDev 5 i a) := by
  show ∃ a, execRemapDone i s = _
  unfold execRemapDone
  simp only [hk]
  rw [if_pos ⟨hr, hc, hd⟩]
  exact ⟨_, rfl⟩

theorem mapEnded_hbm : (s.mapEnded i k).hbm[i]? = some { k with live := k.goal, rstate := 3 } :=
  (modStack_hbm_same (s := { s with fw := { s.fw with mapOuts := setT s.fw.mapOuts i k.goal } }) hk _ :)

theorem exec_crestWinWrite {val : Word} (h8 : (val.extractLsb' 0 4 : BitVec 4).toNat ≤ 8) (hr : k.isRemapping = false)
    (hw : val.extractLsb' 0 4 ≠ k.win) : ∃ (s1 : State) (k1 : Stack),
    s1.hbm[i]? = some k1 ∧ k1.busy = k.busy ∧ k1.win = k.win ∧ k1.winWas = k.winWas ∧ k1.promo = val.extractLsb' 8 8 ∧
      exec (.crestWinWrite i val) s = .next (s1.modStack i (fun k =>
        { k.flush (fun r => decide (r < 1024 * (val.extractLsb' 0 4 : BitVec 4).toNat)) with
          win := val.extractLsb' 0 4,
          winWas := if k.busy && decide (k.winWas.toNat < k.win.toNat) then k.winWas else k.win, busy := true })) := by
  show ∃ (s1 : State) (k1 : Stack), _ ∧ _ ∧ _ ∧ _ ∧ _ ∧ execCrestWinWrite i val s = _
  unfold execCrestWinWrite
  have hc : ¬(8 < (val.extractLsb' 0 4 : BitVec 4).toNat ∨ k.isRemapping = true ∨ val.extractLsb' 0 4 = k.win) := by
    rintro (h | h | h)
    · omega
    · simp [hr] at h
    · exact hw h
  simp only [hk, hc, if_false]
  exact ⟨_, _, discard_hbm (modStack_hbm_same hk _) _ _ _, rfl, rfl, rfl, rfl, rfl⟩

theorem exec_crestWinWrite_promo {val : Word}
    (h : 8 < (val.extractLsb' 0 4 : BitVec 4).toNat ∨ k.isRemapping = true ∨ val.extractLsb' 0 4 = k.win) :
    exec (.crestWinWrite i val) s = .next (s.modStack i (fun k => { k with promo := val.extractLsb' 8 8 })) := by
  show execCrestWinWrite i val s = _
  unfold execCrestWinWrite
  simp only [hk, h, if_true]

theorem exec_hbLostclr {val : Word} : exec (.hbLostclr i val) s = .next (
    if pagePa (val.getLsbD 31) i (val.toNat % 2 ^ 20) / 65536 ∈ k.lostPages then
      { (s.modStack i (fun k => { k with
            lostPages := k.lostPages.filter (· != pagePa (val.getLsbD 31) i (val.toNat % 2 ^ 20) / 65536) })).dropLines
          (fun x => x.line / 512 == pagePa (val.getLsbD 31) i (val.toNat % 2 ^ 20) / 65536) with
        mem := fillB s.mem (pagePa (val.getLsbD 31) i (val.toNat % 2 ^ 20)) 65536 (Config.clearedByte s.free)
        free := s.free + 1 }
    else s) := by
  show execHbLostclr i val s = _
  unfold execHbLostclr
  simp only [hk, List.contains_iff_mem]

end

theorem mem_of_getT {α : Type} {t : Tbl α} {q : Nat} {v : α} (h : getT t q = some v) : (q, v) ∈ t := by
  induction t with
  | nil => cases h
  | cons e t ih =>
    obtain ⟨a, x⟩ := e
    unfold getT at h
    split at h
    next ha => cases h; rw [ha]; exact List.mem_cons_self
    next => exact List.mem_cons_of_mem _ (ih h)

/-- After a flush of every row only pages that are being written back are left (R64, R74). -/
theorem flush_all {k : Stack} {q : Nat} {v : Promoted} (h : getT (k.flush (fun _ => true)).pages q = some v) : v.st = .writingBack := by
  obtain ⟨p, -, hp⟩ := List.mem_filterMap.1 (mem_of_getT h)
  simp only [Bool.not_true, Bool.false_eq_true, if_false] at hp
  cases hst : p.2.st <;> rw [hst] at hp <;> cases hp
  · rfl
  · exact hst

/-- The conditions of R74. -/
theorem remapBreak_none {k : Stack} {t : BitVec 16} (hr : k.isRemapping = false) (hb : k.busy = false)
    (h1 : popCount (t ^^^ k.live) = 1) (h12 : 12 ≤ popCount t) : remapBreak k t = none := by
  unfold remapBreak
  rw [if_neg (by simp [hr, hb]), if_neg (by simp [h1]), if_neg (by omega)]

theorem remapBreak_some {k : Stack} {t : BitVec 16} (h : k.busy = true ∨ popCount (t ^^^ k.live) ≠ 1 ∨ popCount t < 12) :
    ∃ why, remapBreak k t = some why := by
  unfold remapBreak
  split
  · exact ⟨_, rfl⟩
  next hb =>
    split
    · exact ⟨_, rfl⟩
    next h1 =>
      refine ⟨1, if_pos ?_⟩
      simp only [Bool.or_eq_true, not_or] at hb
      tauto

/-- The next move of a class that has pages left is of that class (R75). -/
theorem nextMove_of_not_done {k : Stack} (hr : k.rstate = 2) (hd : k.classDone = false) :
    k.nextMove = some (k.wmClass, if k.isShrink then k.wmPage.toNat - 1 else k.wmPage.toNat) ∧
    k.pageMoved = { k with wmPage := if k.isShrink then k.wmPage - 1 else k.wmPage + 1 } := by
  constructor
  · simp [Stack.nextMove, hr, hd]
  · simp [Stack.pageMoved, hr, hd]

end Sys2Proof.Machine

namespace Sys2Proof
open Machine

/-- Settles O47: requests are served as their operations say, and each event of a stack comes to a change of that stack, with what it
discards. -/
theorem memoryEvents : Obligations.MemoryEvents := by
  intro s i k hk stack page
  have hlen : i < s.hbm.length := (List.getElem?_eq_some_iff.1 hk).1
  refine ⟨fun r e hh => ?held, fun r n hh ho => ?read, fun r m bs ho hh hl hw => ?write, fun r o b x c ho hh hl => ?atomic,
    fun r up c ho hh hl hf => ?hrow, fun q r hp ha hr hw hq hn hrow => ?promote, fun q h => exec_hwPromote_rests hk h,
    fun q v hv hst hrow => ?promotionDone, fun q v hv hst => ?writeBackDone, fun n => ?scrub, fun d => ?dieFailing, fun b hb => ?bankHot,
    fun val hs => ?remapStart, fun val hs => does_modStack hk (exec_remapStart_target hk hs) rfl,
    fun hr => ?remapPageMoved, fun hr hc hd => ⟨fun hle => ?shrunk, fun hlt => ?restored⟩, fun val => ?window, fun hrow => ?windowDone,
    fun val => ?lostClear, fun val => does_modStack hk rfl rfl⟩
  case held =>
    show execControllerRequest r e s = _
    simp only [execControllerRequest, hh, if_true]
  case read =>
    refine ⟨fun hl => exec_controllerRequest hh (serve_absent hl _ _), fun a hl he => ?_, fun hl he => ?_⟩
    · exact exec_controllerRequest hh ((serve_read hl ho false).1 a he)
    · have hx := exec_controllerRequest hh ((serve_read hl ho false).2 he)
      rwa [State.useL2_outbox] at hx
  case write =>
    have hx := exec_controllerRequest hh (ho ▸ serve_write hl hw)
    refine ⟨_, hx, ?_, fun a => ?_⟩
    · show (State.useL2 _ _ _ _).outbox ++ _ = _
      rw [State.useL2_outbox, ((clearLost_storesOnly s _).trans (storeAll_storesOnly _ _)).outbox]
    · show getB (State.useL2 _ _ _ _).mem a = _
      rw [State.useL2_mem, storeAll_mem, clearLost_mem, getB_maskedWrites]
      rfl
  case atomic =>
    intro n old new he
    have hx := exec_controllerRequest hh (ho ▸ serve_atomic hl he)
    refine ⟨_, hx, ?_, fun a => ?_⟩
    · show (State.atController _ _).outbox ++ _ = _
      rw [State.atController_outbox, (storeAll_storesOnly _ _).outbox]
    · show getB (State.atController _ _).mem a = _
      rw [State.atController_mem, storeAll_mem, spread_foldl, getB_writeB, leBytes_length]
  case hrow => exact exec_controllerRequest hh (ho ▸ serve_hrow_failed hl hf _ _ _)
  case promote =>
    exact does_modStack hk (exec_hwPromote hk hp ha hr hw hq hn (promote_of_free hrow none)) (getT_setT_same _ _ _)
  case promotionDone =>
    refine does_modStack hk (exec_promotionDone hk hv hrow) ?_
    rw [promoted_of_promoting hv hst]
    exact getT_setT_same _ _ _
  case writeBackDone =>
    refine does_modStack hk (f := fun k => k.writtenBack q) rfl ?_
    rw [writtenBack_of_writingBack hv hst]
    exact (getT_delT _ _ _).trans (if_pos rfl)
  case scrub => exact does_modStack hk rfl rfl
  case dieFailing => exact congrArg _ (if_pos hlen)
  case bankHot =>
    have hx : exec (.bankHot i b) s = .next ((s.modStack i (fun k => { k with hot := k.hot ||| BitVec.ofNat 16 (2 ^ b) })).postDev 2
        (i + 256 * b) 0) := congrArg _ (if_pos hlen)
    refine does_stack hx ((congrArg (·[i]?) (postDev_hbm _ _ _ _)).trans (modStack_hbm_same hk _)) fun j hj => ?_
    rw [BitVec.getLsbD_or, BitVec.getLsbD_ofNat, Nat.testBit_two_pow]
    simp [hj, eq_comm]
  case remapStart =>
    intro t
    refine ⟨fun hr hb h1 h12 => ?_, fun hr hb => ?_⟩
    · obtain ⟨s1, k1, h1, hpages, hlive, hx⟩ := exec_remapStart hk hs (remapBreak_none hr hb h1 h12)
      exact does_stack hx (modStack_hbm_same h1 _) ⟨rfl, rfl, rfl, hlive, fun q v hv => flush_all hv⟩
    · obtain ⟨why, hwhy⟩ := remapBreak_some hb
      obtain ⟨a, hx⟩ := exec_remapStart_refused hk hs hwhy
      refine does_stack hx ((congrArg (·[i]?) (postDev_hbm _ _ _ _)).trans (modStack_hbm_same hk _)) ?_
      rw [hr]
      rfl
  case remapPageMoved =>
    intro moves
    refine ⟨fun hsh hwm => ?_, fun hsh hwm => ?_⟩
    · have hd : k.classDone = false := by simpa [Stack.classDone, hsh] using hwm
      obtain ⟨hn, hm⟩ := nextMove_of_not_done hr hd
      rw [if_pos hsh] at hn hm
      exact does_remapPageMoved hk hr hn hm
    · have hd : k.classDone = false := by simpa [Stack.classDone, hsh] using hwm
      obtain ⟨hn, hm⟩ := nextMove_of_not_done hr hd
      rw [if_neg (by simp [hsh])] at hn hm
      exact does_remapPageMoved hk hr hn hm
  case shrunk =>
    obtain ⟨a, hx⟩ := exec_remapDone hk hr hc hd
    rw [if_neg (by omega)] at hx
    exact does_stack hx ((congrArg (·[i]?) (postDev_hbm _ _ _ _)).trans (mapEnded_hbm hk)) rfl
  case restored =>
    intro isNew
    obtain ⟨a, hx⟩ := exec_remapDone hk hr hc hd
    rw [if_pos hlt] at hx
    refine ⟨does_stack hx ((congrArg (·[i]?) (postDev_hbm _ _ _ _)).trans (discard_hbm (discard_hbm (mapEnded_hbm hk) _ _ _) _ _ _))
      ⟨rfl, rfl, fun x hm hnew => ?_, fun x hm hnew => ?_⟩, fun pa hnew => ⟨_, hx, ?_⟩⟩
    · obtain ⟨hm, hcrest⟩ := mem_cleared_lostAtoms.1 hm
      obtain ⟨-, hflank⟩ := mem_cleared_lostAtoms.1 hm
      exact (newPage_bounds hnew).elim (fun h => by omega) (fun h => by omega)
    · obtain ⟨hm, hcrest⟩ := mem_cleared_lostPages.1 hm
      obtain ⟨-, hflank⟩ := mem_cleared_lostPages.1 hm
      exact (newPage_bounds hnew).elim (fun h => by omega) (fun h => by omega)
    · show getB (State.postDev _ _ _ _).mem pa = 0
      rw [postDev_mem]
      exact (newPage_bounds hnew).elim (fun h => getB_discard_zero (getB_discard _ h) _ _ _ _) (getB_discard _)
  case window =>
    intro w
    refine ⟨fun h8 hr hw => ?_, fun h => does_modStack hk (exec_crestWinWrite_promo hk h) rfl⟩
    obtain ⟨s1, k1, h1, hbusy, hwin, hwas, hpromo, hx⟩ := exec_crestWinWrite hk h8 hr hw
    refine does_stack hx (modStack_hbm_same h1 _) ⟨rfl, ?_, rfl, hpromo⟩
    simp only [hbusy, hwin, hwas, Bool.and_eq_true, decide_eq_true_eq]
  case windowDone =>
    have hany : k.pages.any (fun p => decide (p.2.row < 1024 * k.win.toNat)) = false :=
      List.any_eq_false.2 fun p hp => by simpa using hrow p hp
    refine does_modStack hk (f := fun k => if k.pages.any (fun p => decide (p.2.row < 1024 * k.win.toNat)) then k
      else { k with busy := false }) rfl ?_
    rw [hany]
    rfl
  case lostClear =>
    intro pa
    have hpa : pagePa (val.getLsbD 31) i (val.toNat % 2 ^ 20) = pa := by
      unfold pagePa
      show _ = (if val.getLsbD 31 then 2 ^ 40 else 0) + _ + _
      cases val.getLsbD 31 <;> simp
    have hx := exec_hbLostclr hk (val := val)
    rw [hpa] at hx
    refine ⟨fun hm => ⟨_, hx.trans (congrArg _ (if_pos hm)), ⟨_, modStack_hbm_same hk _, fun x => ?_⟩, fun a ha => ?_⟩,
      fun hm => hx.trans (congrArg _ (if_neg hm))⟩
    · simp
    · exact getB_fillB_ne _ _ ha

end Sys2Proof
end

section
/-! The list form of both memories, kept by every operation of the part (R54, R399): the invariant, what carries it, and one lemma for
each function that a step may run and that yields a state: `State.Canon.f` for `State.f`, and `f_canon` for the other functions. They
stand in the order of the model's files. A function that only sets other parts of the state has the proof `⟨h.mem, h.host⟩`; the content
is in the few that write a memory: `store1`, `copyPage`, `zeroPage`, `evWrite`, `discard`, `execHbLostclr` and `execLcFetchNonce`. -/

namespace Sys2Proof.Machine

/-! ## The invariant -/

/-- Both memories are in the model's list form. -/
structure State.Canon (s : State) : Prop where
  mem : wfB s.mem = true
  host : wfB s.hostMem = true

/-- A state with the memories of another. -/
theorem State.Canon.of_eq {s t : State} (h : s.Canon) (hm : t.mem = s.mem) (hh : t.hostMem = s.hostMem) : t.Canon :=
  ⟨hm ▸ h.mem, hh ▸ h.host⟩

theorem State.Canon.of_pair {α : Type} {r : State × α} {s : State} {a : α} (he : r = (s, a)) (h : r.1.Canon) : s.Canon := by
  rwa [he] at h

/-! ## Results that carry a state -/

/-- What an instruction that does not complete leaves. -/
inductive Stop.Canon : Stop → Prop
  | trap {cause info addr lanes hpa} : Stop.Canon (.trap cause info addr lanes hpa)
  | trapAfter {s : State} {cause info addr} (h : s.Canon) : Stop.Canon (.trapAfter s cause info addr)
  | pageFault {f} : Stop.Canon (.pageFault f)
  | park {s : State} {w} (h : s.Canon) : Stop.Canon (.park s w)
  | fatal {cause info} : Stop.Canon (.fatal cause info)
  | gridFatal {cause} : Stop.Canon (.gridFatal cause)

/-- What an item of a copy that does not land leaves. -/
inductive ItemErr.Canon : ItemErr → Prop
  | fail {dest cause va pa} : ItemErr.Canon (.fail dest cause va pa)
  | fault {cause va} : ItemErr.Canon (.fault cause va)
  | waits {s : State} (h : s.Canon) : ItemErr.Canon (.waits s)

/-- What the preparation of an instruction leaves. -/
inductive Prepared.Canon : Prepared → Prop
  | exec {i} {s : State} (h : s.Canon) : Prepared.Canon (.exec i s)
  | done {s : State} (h : s.Canon) : Prepared.Canon (.done s)

/-- What the reading of a counter leaves. -/
inductive CounterRead.Canon : CounterRead → Prop
  | known {s : State} {c} (h : s.Canon) : CounterRead.Canon (.known s c)
  | waits {s : State} {ask} (h : s.Canon) : CounterRead.Canon (.waits s ask)
  | again : CounterRead.Canon .again

/-- What the logging of an event leaves. -/
inductive Logged.Canon : Logged → Prop
  | done {s : State} {r} (h : s.Canon) : Logged.Canon (.done s r)
  | wait {s : State} (h : s.Canon) : Logged.Canon (.wait s)
  | diverged : Logged.Canon .diverged

/-- What trying to dispatch a unit leaves. -/
inductive Tried.Canon : Tried → Prop
  | placed {s : State} (h : s.Canon) : Tried.Canon (.placed s)
  | full : Tried.Canon .full
  | held {s : State} (h : s.Canon) : Tried.Canon (.held s)
  | behind : Tried.Canon .behind

/-- What an instruction or event comes to. -/
inductive OutCanon : Out → Prop
  | next {s : State} (h : s.Canon) : OutCanon (.next s)
  | fault {r} : OutCanon (.fault r)
  | refused {r} : OutCanon (.refused r)

theorem Stop.Canon.of_park {p : Stop} {s : State} {w} (h : Stop.Canon p) (he : p = .park s w) : s.Canon := by
  cases h <;> cases he
  assumption

theorem Stop.Canon.of_trapAfter {p : Stop} {s : State} {cause info addr} (h : Stop.Canon p) (he : p = .trapAfter s cause info addr) :
    s.Canon := by
  cases h <;> cases he
  assumption

theorem ItemErr.Canon.of_waits {p : ItemErr} {s : State} (h : ItemErr.Canon p) (he : p = .waits s) : s.Canon := by
  cases h <;> cases he
  assumption

theorem CounterRead.Canon.of_known {r : CounterRead} {s : State} {c} (h : CounterRead.Canon r) (he : r = .known s c) : s.Canon := by
  cases h <;> cases he
  assumption

theorem CounterRead.Canon.of_waits {r : CounterRead} {s : State} {ask} (h : CounterRead.Canon r) (he : r = .waits s ask) : s.Canon := by
  cases h <;> cases he
  assumption

theorem Logged.Canon.of_done {r : Logged} {s : State} {n} (h : Logged.Canon r) (he : r = .done s n) : s.Canon := by
  cases h <;> cases he
  assumption

theorem Logged.Canon.of_wait {r : Logged} {s : State} (h : Logged.Canon r) (he : r = .wait s) : s.Canon := by
  cases h <;> cases he
  assumption

theorem Tried.Canon.of_placed {r : Tried} {s : State} (h : Tried.Canon r) (he : r = .placed s) : s.Canon := by
  cases h <;> cases he
  assumption

theorem Tried.Canon.of_held {r : Tried} {s : State} (h : Tried.Canon r) (he : r = .held s) : s.Canon := by
  cases h <;> cases he
  assumption

/-- What a computation that may fail leads to: `A` holds of its result, and `E` of the failure. -/
inductive Leads {ε α : Type} (E : ε → Prop) (A : α → Prop) : Except ε α → Prop
  | ok {a : α} (h : A a) : Leads E A (.ok a)
  | error {p : ε} (h : E p) : Leads E A (.error p)

section
variable {ε α β : Type} {E : ε → Prop} {A : α → Prop} {B : β → Prop}

theorem Leads.pure {a : α} (h : A a) : Leads E A (Pure.pure a) := .ok h

theorem Leads.bind {x : Except ε α} {f : α → Except ε β} (h : Leads E A x) (hf : ∀ a, A a → Leads E B (f a)) :
    Leads E B (x >>= f) := by
  cases h with
  | ok h => exact hf _ h
  | error h => exact .error h

theorem Leads.mapError {δ : Type} {D : δ → Prop} {x : Except ε α} {f : ε → δ} (h : Leads E A x) (hf : ∀ p, E p → D (f p)) :
    Leads D A (x.mapError f) := by
  cases h with
  | ok h => exact .ok h
  | error h => exact .error (hf _ h)

theorem Leads.of_ok {x : Except ε α} {a : α} (h : Leads E A x) (he : x = .ok a) : A a := by
  cases h <;> cases he
  assumption

theorem Leads.of_eq_ok {x : Except ε α} {a : α} (he : x = .ok a) (h : Leads E A x) : A a := h.of_ok he

theorem Leads.of_error {x : Except ε α} {p : ε} (h : Leads E A x) (he : x = .error p) : E p := by
  cases h <;> cases he
  assumption

/-- What every step of a fold keeps holds at its end. -/
theorem foldl_invariant {P : α → Prop} {f : α → β → α} {l : List β} {a : α} (h : P a) (hf : ∀ a b, P a → P (f a b)) :
    P (l.foldl f a) := by
  induction l generalizing a with
  | nil => exact h
  | cons b t ih => exact ih (hf a b h)

theorem leads_foldlM {f : α → β → Except ε α} {l : List β} {a : α} (h : A a) (hf : ∀ a b, A a → Leads E A (f a b)) :
    Leads E A (l.foldlM f a) := by
  induction l generalizing a with
  | nil => exact .ok h
  | cons b t ih => exact (hf a b h).bind fun _ h1 => ih h1

/-- What a list finds first is what one of its elements gives. -/
theorem findSome_keeps {P : α → Prop} {f : β → Option α} {l : List β} {a : α} (h : l.findSome? f = some a)
    (hf : ∀ b a, f b = some a → P a) : P a := by
  obtain ⟨b, -, hb⟩ := List.exists_of_findSome?_eq_some h
  exact hf b a hb

end

theorem State.Canon.foldl {α : Type} {f : State → α → State} {l : List α} {s : State} (h : s.Canon)
    (hf : ∀ s a, s.Canon → (f s a).Canon) : (l.foldl f s).Canon := foldl_invariant h hf

/-! ## Local memory, and the clk -/

theorem State.Canon.modStack {s : State} {i f} (h : s.Canon) : (s.modStack i f).Canon :=
  ⟨h.mem, h.host⟩

theorem State.Canon.dropInsts {s : State} {f} (h : s.Canon) : (s.dropInsts f).Canon :=
  ⟨h.mem, h.host⟩

theorem State.Canon.markStaleRun {s : State} {pa n} (h : s.Canon) : (s.markStaleRun pa n).Canon := by
  unfold State.markStaleRun
  split
  · exact ⟨h.mem, h.host⟩
  · exact h

theorem State.Canon.markStale {s : State} {pa} (h : s.Canon) : (s.markStale pa).Canon :=
  h.markStaleRun

theorem State.Canon.markDirty {s : State} {pa} (h : s.Canon) : (s.markDirty pa).Canon := by
  unfold State.markDirty
  split
  · exact h
  · split
    · exact h
    · split
      · split
        · exact h.modStack
        · exact h
      · exact h

theorem State.Canon.store1 {s : State} {pa b} (h : s.Canon) : (s.store1 pa b).Canon := by
  unfold State.store1
  exact State.Canon.markDirty (State.Canon.markStale ⟨wfB_putB _ _ _ h.mem, h.host⟩)

theorem State.Canon.storeAll {s : State} {a} (h : s.Canon) : (s.storeAll a).Canon := by
  induction a generalizing s with
  | nil => exact h
  | cons x l ih =>
    unfold State.storeAll
    exact ih h.store1

theorem State.Canon.storeRun {s : State} {pa bs} (h : s.Canon) : (s.storeRun pa bs).Canon :=
  h.storeAll

theorem State.Canon.clearLost {s : State} {ws} (h : s.Canon) : (s.clearLost ws).Canon :=
  ⟨h.mem, h.host⟩

theorem State.Canon.reach {s : State} {pa} (h : s.Canon) : (s.reach pa).Canon := by
  unfold State.reach
  split
  · exact h
  · exact ⟨h.mem, h.host⟩

theorem State.Canon.reachPage {s : State} {pa} (h : s.Canon) : (s.reachPage pa).Canon :=
  h.foldl fun _ _ h1 => h1.reach

theorem State.Canon.dropLines {s : State} {f} (h : s.Canon) : (s.dropLines f).Canon :=
  ⟨h.mem, h.host⟩

theorem State.Canon.useL2 {s : State} {pa cc wr} (h : s.Canon) : (s.useL2 pa cc wr).Canon := by
  unfold State.useL2
  extract_lets +onlyGivenNames u line
  split
  · extract_lets +onlyGivenNames s1
    have h1 : s1.Canon := ⟨h.mem, h.host⟩
    split
    · exact h1.reach
    · exact h1
  · extract_lets +onlyGivenNames s1
    have h1 : s1.Canon := h.reach
    split
    · exact h1
    · extract_lets +onlyGivenNames s2
      have h2 : s2.Canon := by
        unfold s2
        split
        · split
          · exact h1.reach
          · exact h1
        · exact h1
      exact ⟨h2.mem, h2.host⟩

theorem State.Canon.fillL1 {s : State} {column line cc} (h : s.Canon) : (s.fillL1 column line cc).Canon := by
  unfold State.fillL1
  split
  · exact h
  · exact ⟨h.mem, h.host⟩

theorem State.Canon.runL2 {s : State} {pa n cc wr} (h : s.Canon) : (s.runL2 pa n cc wr).Canon := by
  unfold State.runL2
  split
  · exact h
  · exact h.foldl fun _ _ h1 => h1.useL2

theorem State.Canon.storeExtern {s : State} {ws} (h : s.Canon) : (s.storeExtern ws).Canon :=
  h.storeAll.of_eq rfl rfl

theorem State.Canon.landLate {s : State} {f} (h : s.Canon) : (s.landLate f).Canon := by
  unfold State.landLate
  split
  · exact h
  · exact State.Canon.foldl ⟨h.mem, h.host⟩ fun _ _ h1 => h1.clearLost.storeAll

theorem State.Canon.landNth {s : State} {n} (h : s.Canon) : (s.landNth n).Canon := by
  unfold State.landNth
  split
  · exact h
  · exact h.landLate

theorem State.Canon.landOf {s : State} {gid} (h : s.Canon) : (s.landOf gid).Canon :=
  h.landLate

theorem State.Canon.landTeam {s : State} {tid} (h : s.Canon) : (s.landTeam tid).Canon :=
  h.landLate

theorem State.Canon.landFor {s : State} {tid runs} (h : s.Canon) : (s.landFor tid runs).Canon :=
  h.landLate

theorem State.Canon.writeOwn {s : State} {pa bs} (h : s.Canon) : (s.writeOwn pa bs).Canon :=
  h.clearLost.storeAll.runL2

theorem State.Canon.pageWritten {s : State} {pa} (h : s.Canon) : (s.pageWritten pa).Canon := by
  unfold State.pageWritten
  exact State.Canon.reachPage (State.Canon.markDirty (State.Canon.markStaleRun (State.Canon.dropLines ⟨h.mem, h.host⟩)))

theorem State.Canon.copyPage {s : State} {src dst} (h : s.Canon) : (s.copyPage src dst).Canon := by
  unfold State.copyPage
  exact State.Canon.pageWritten (State.Canon.reachPage ⟨wfB_copyB _ _ _ _ h.mem, h.host⟩)

theorem State.Canon.zeroPage {s : State} {pa} (h : s.Canon) : (s.zeroPage pa).Canon := by
  unfold State.zeroPage
  exact State.Canon.pageWritten ⟨wfB_zeroB _ _ _ h.mem, h.host⟩

/-! ## The operations on the state that the meanings share -/

theorem State.Canon.setGroup {s : State} {g} (h : s.Canon) : (s.setGroup g).Canon :=
  ⟨h.mem, h.host⟩

theorem State.Canon.setTeam {s : State} {t} (h : s.Canon) : (s.setTeam t).Canon :=
  ⟨h.mem, h.host⟩

theorem State.Canon.setGrid {s : State} {g} (h : s.Canon) : (s.setGrid g).Canon :=
  ⟨h.mem, h.host⟩

theorem State.Canon.setCtx {s : State} {c x} (h : s.Canon) : (s.setCtx c x).Canon :=
  ⟨h.mem, h.host⟩

theorem State.Canon.modCtx {s : State} {c f} (h : s.Canon) : (s.modCtx c f).Canon := by
  unfold State.modCtx
  split
  · exact h
  · exact h.setCtx

theorem State.Canon.modTeam {s : State} {tid f} (h : s.Canon) : (s.modTeam tid f).Canon :=
  ⟨h.mem, h.host⟩

theorem State.Canon.modGroup {s : State} {gid f} (h : s.Canon) : (s.modGroup gid f).Canon :=
  ⟨h.mem, h.host⟩

theorem State.Canon.modGrid {s : State} {c serial f} (h : s.Canon) : (s.modGrid c serial f).Canon :=
  ⟨h.mem, h.host⟩

theorem State.Canon.grantOne {s : State} {r} (h : s.Canon) : (s.grantOne r).Canon := by
  unfold State.grantOne
  split
  · exact h
  · split
    · exact ⟨h.mem, h.host⟩
    · exact h

theorem State.Canon.grantAll {s : State} (h : s.Canon) : (s.grantAll).Canon :=
  h.foldl fun _ _ h1 => h1.grantOne

theorem State.Canon.dropRemote {s : State} {drop} (h : s.Canon) : (s.dropRemote drop).Canon := by
  unfold State.dropRemote
  exact State.Canon.grantAll ⟨h.mem, h.host⟩

theorem State.Canon.forgetAsk {s : State} {key} (h : s.Canon) : (s.forgetAsk key).Canon := by
  unfold State.forgetAsk
  exact State.Canon.grantAll ⟨h.mem, h.host⟩

theorem State.Canon.count {s : State} {c off n} (h : s.Canon) : (s.count c off n).Canon :=
  h.modCtx

theorem State.Canon.ttAdvance {s : State} {n} (h : s.Canon) : (s.ttAdvance n).Canon :=
  ⟨h.mem, h.host⟩

theorem State.Canon.pass {s : State} {n} (h : s.Canon) : (s.pass n).Canon := by
  unfold State.pass
  extract_lets +onlyGivenNames s1
  have h1 : s1.Canon := ⟨h.mem, h.host⟩
  split
  · exact h1
  · exact h1.ttAdvance

theorem State.Canon.evWrite {s : State} {fn r e} (h : s.Canon) : (s.evWrite fn r e).Canon :=
  ⟨h.mem, wfB_writeB _ _ _ h.host⟩

theorem State.Canon.postEv {s : State} {fn e} (h : s.Canon) : (s.postEv fn e).Canon := by
  unfold State.postEv
  extract_lets +onlyGivenNames r
  split
  · exact h
  · split
    · exact h.evWrite
    · split
      · exact ⟨h.mem, h.host⟩
      · exact ⟨h.mem, h.host⟩

theorem State.Canon.postDev {s : State} {code arg0 arg1} (h : s.Canon) : (s.postDev code arg0 arg1).Canon :=
  h.postEv

theorem State.Canon.postCtx {s : State} {c code arg1} (h : s.Canon) : (s.postCtx c code arg1).Canon :=
  h.postEv

theorem State.Canon.tqPost {s : State} {c r rep} (h : s.Canon) : (s.tqPost c r rep).Canon := by
  unfold State.tqPost
  extract_lets +onlyGivenNames _ s1 _ _ _ _ s2
  have h1 : s1.Canon := h.writeOwn
  have h2 : s2.Canon := h1.setCtx
  split
  · exact h2.postCtx
  · exact h2

theorem State.Canon.postFatal {s : State} {c r} (h : s.Canon) : (s.postFatal c r).Canon := by
  unfold State.postFatal
  extract_lets +onlyGivenNames x
  split
  · exact h.tqPost
  · exact h.setCtx.postCtx

theorem State.Canon.cairnThresh {s : State} {c} (h : s.Canon) : (s.cairnThresh c).Canon := by
  unfold State.cairnThresh
  extract_lets +onlyGivenNames x
  split
  · exact h.postCtx
  · exact h

theorem State.Canon.cairnAdvance {s : State} {c a} (h : s.Canon) : (s.cairnAdvance c a).Canon := by
  induction a generalizing s with
  | zero => exact h
  | succ n ih =>
    unfold State.cairnAdvance
    extract_lets +onlyGivenNames x p
    split
    · exact ih h.modCtx.cairnThresh
    · exact h

theorem State.Canon.dropReplay {s : State} {t} (h : s.Canon) : (s.dropReplay t).Canon := by
  unfold State.dropReplay
  split
  · exact h
  · split
    · exact h.modCtx.cairnAdvance
    · exact h

theorem State.Canon.countRetired {s : State} {ctx g} (h : s.Canon) : (s.countRetired ctx g).Canon := by
  unfold State.countRetired
  split
  · exact h
  · exact h.count

theorem State.Canon.syncTeam {s : State} {tid} (h : s.Canon) : (s.syncTeam tid).Canon := by
  unfold State.syncTeam
  split
  · exact h
  · exact ⟨h.mem, h.host⟩

theorem State.Canon.rotate {s : State} {gid} (h : s.Canon) : (s.rotate gid).Canon := by
  unfold State.rotate
  split
  · exact h
  · split
    · exact h
    · split
      · exact h.setTeam
      · exact h

theorem State.Canon.stepEnds {s : State} {g} (h : s.Canon) : (s.stepEnds g).Canon := by
  unfold State.stepEnds
  split
  · exact h
  · exact h.rotate

theorem State.Canon.syncCluster {s : State} {t} (h : s.Canon) : (s.syncCluster t).Canon := by
  unfold State.syncCluster
  split
  · exact h
  · exact State.Canon.foldl ⟨h.mem, h.host⟩ fun _ _ h1 => h1.rotate

theorem State.Canon.dropUser {s : State} {tid} (h : s.Canon) : (s.dropUser tid).Canon :=
  ⟨h.mem, h.host⟩

theorem State.Canon.leaveFusion {s : State} {t} (h : s.Canon) : (s.leaveFusion t).Canon := by
  unfold State.leaveFusion
  split
  · exact h
  · split
    · exact h.dropLines
    · exact h

theorem State.Canon.reap {s : State} (h : s.Canon) : (s.reap).Canon := by
  unfold State.reap
  exact State.Canon.foldl ⟨h.mem, h.host⟩ fun _ _ h2 => h2.leaveFusion

theorem State.Canon.clearRequest {s : State} {c} (h : s.Canon) : (s.clearRequest c).Canon := by
  unfold State.clearRequest
  split
  · exact h
  · split
    · exact h.setCtx
    · exact h

theorem State.Canon.teamDone {s : State} {t} (h : s.Canon) : (s.teamDone t).Canon := by
  unfold State.teamDone
  exact State.Canon.landTeam (State.Canon.clearRequest (State.Canon.reap
      (State.Canon.syncCluster (State.Canon.dropUser (State.Canon.modTeam (State.Canon.modGrid ⟨h.mem, h.host⟩))))))

theorem State.Canon.teamKilled {s : State} {t} (h : s.Canon) : (s.teamKilled t).Canon := by
  unfold State.teamKilled
  extract_lets +onlyGivenNames s1 s2 s3
  have h1 : s1.Canon := State.Canon.dropRemote ⟨h.mem, h.host⟩
  have h3 : s3.Canon := State.Canon.forgetAsk (State.Canon.dropUser ⟨h1.mem, h1.host⟩)
  exact h3.syncCluster.dropReplay.clearRequest.landTeam.leaveFusion

theorem State.Canon.stopTeam {s : State} {tid info} (h : s.Canon) : (s.stopTeam tid info).Canon :=
  ⟨h.mem, h.host⟩

theorem State.Canon.cutTeam {s : State} {tid} (h : s.Canon) : (s.cutTeam tid).Canon :=
  ⟨h.mem, h.host⟩

theorem State.Canon.cutTry {s : State} {tid} (h : s.Canon) : (s.cutTry tid).Canon := by
  unfold State.cutTry
  split
  · exact h
  · split
    · exact h
    · split
      · exact h
      · extract_lets +onlyGivenNames det s1
        have h1 : s1.Canon := by
          unfold s1
          split
          · exact h.stopTeam
          · exact h
        split
        · exact h1.cutTeam
        · exact h1

theorem State.Canon.groupEnd {s : State} {g} (h : s.Canon) : (s.groupEnd g).Canon := by
  unfold State.groupEnd
  extract_lets +onlyGivenNames s1
  have h1 : s1.Canon := h.setGroup
  split
  · exact h1
  · split
    · exact h1.teamDone
    · exact h1.syncTeam.syncCluster.cutTry

theorem State.Canon.gridDies {s : State} {c serial r} (h : s.Canon) : (s.gridDies c serial r).Canon := by
  unfold State.gridDies
  extract_lets +onlyGivenNames s1 first s2 s3 saved
  have h1 : s1.Canon := State.Canon.postFatal ⟨h.mem, h.host⟩
  have h2 : s2.Canon := ⟨h1.mem, h1.host⟩
  have h3 : s3.Canon := h2.foldl fun _ _ h6 => h6.teamKilled
  exact h3.forgetAsk.modGrid.reap

theorem State.Canon.groupFatal {s : State} {t c cause info lane} (h : s.Canon) : (s.groupFatal t c cause info lane).Canon := by
  unfold State.groupFatal
  exact State.Canon.teamKilled (State.Canon.postFatal ⟨h.mem, h.host⟩)

theorem State.Canon.raiseTrap {s : State} {c g cause info addr lanes hpa} (h : s.Canon) :
    (s.raiseTrap c g cause info addr lanes hpa).Canon := by
  unfold State.raiseTrap
  split
  · exact ⟨h.mem, h.host⟩
  · split
    · exact h.groupFatal
    · split
      · exact h.groupFatal
      · exact ⟨h.mem, h.host⟩

theorem State.Canon.stopped {s : State} {c g p} (h : s.Canon) (hp : Stop.Canon p) : (s.stopped c g p).Canon := by
  unfold State.stopped
  cases p with
  | trap cause info addr lanes hpa => exact h.raiseTrap
  | trapAfter s' cause info addr =>
    have h' : s'.Canon := by
      cases hp
      assumption
    dsimp only
    split
    · exact ⟨h'.mem, h'.host⟩
    · exact h'.raiseTrap
  | pageFault f => exact ⟨h.mem, h.host⟩
  | park s' w =>
    have h' : s'.Canon := by
      cases hp
      assumption
    dsimp only
    split
    · exact ⟨h'.mem, h'.host⟩
    · next g' _ =>
      have h1 : ({ s'.setGroup (g'.parkOn w s.clk) with cur := none } : State).Canon := ⟨h'.mem, h'.host⟩
      refine State.Canon.cutTry ?_
      split
      · exact h1.stepEnds
      · exact h1
  | fatal cause info =>
    dsimp only
    split
    · exact ⟨h.mem, h.host⟩
    · exact h.groupFatal
  | gridFatal cause =>
    dsimp only
    split
    · exact ⟨h.mem, h.host⟩
    · exact h.gridDies

theorem State.Canon.run {s : State} {f} (h : s.Canon) (hf : ∀ x0, Leads Stop.Canon State.Canon (f x0)) : OutCanon (s.run f) := by
  unfold State.run
  split
  · exact .fault
  · refine .next ?_
    split
    next _ s' he =>
      have h1 : s'.Canon := (hf _).of_ok he
      exact h1
    next _ p he =>
      have h2 : Stop.Canon p := (hf _).of_error he
      exact h.stopped h2

theorem State.Canon.retireAt {s : State} {e g} (h : s.Canon) : (s.retireAt e g).Canon := by
  unfold State.retireAt
  exact State.Canon.countRetired (State.Canon.stepEnds ⟨h.mem, h.host⟩)

theorem State.Canon.retire {s : State} {e g} (h : s.Canon) : (s.retire e g).Canon :=
  h.retireAt

theorem State.Canon.uniform {s : State} {q f} (h : s.Canon) (hf : ∀ x0, Leads Stop.Canon State.Canon (f x0)) :
    OutCanon (s.uniform q f) := by
  unfold State.uniform
  refine h.run fun _ => ?_
  split
  · exact hf _
  · exact .ok h.retire

theorem State.Canon.privileged {s : State} {q f} (h : s.Canon) (hf : ∀ x0, Leads Stop.Canon State.Canon (f x0)) :
    OutCanon (s.privileged q f) := by
  unfold State.privileged
  refine h.run fun _ => ?_
  split
  · split
    · exact hf _
    · exact .ok h.retire
  · exact .error .trap

theorem trapWith_canon {α : Type} {A : α → Prop} {cause info addr : Nat} :
    Leads Stop.Canon A (trapWith cause info addr) := .error .trap

theorem detBan_canon {e} : Leads Stop.Canon (fun _ => True) (detBan e) := by
  unfold detBan
  split
  · exact trapWith_canon
  · exact .ok trivial

theorem State.Canon.stopAt {s : State} {e info} (h : s.Canon) : (s.stopAt e info).Canon := by
  unfold State.stopAt
  refine State.Canon.cutTry ?_
  split
  · exact h.stopTeam
  · exact h.modGroup

theorem State.Canon.trapReturn {s : State} {e skip} (h : s.Canon) : Leads Stop.Canon State.Canon (s.trapReturn e skip) := by
  unfold State.trapReturn
  extract_lets +onlyGivenNames tr
  split
  · exact .error .fatal
  · extract_lets +onlyGivenNames g0 r1 r2 r3 size r4 g
    split
    · exact .ok (State.Canon.groupEnd (State.Canon.countRetired ⟨h.mem, h.host⟩))
    · extract_lets +onlyGivenNames s1
      have h1 : s1.Canon := h.retireAt
      split
      · exact .ok h1.stopAt
      · exact .ok h1

/-! ## Operands -/

theorem State.Canon.laneOp {s : State} {g d f} (h : s.Canon) : OutCanon (s.laneOp g d f) :=
  h.run fun _ => .ok h.retire

theorem State.Canon.laneOp2 {s : State} {g d f} (h : s.Canon) : OutCanon (s.laneOp2 g d f) :=
  h.run fun _ => .ok h.retire

theorem State.Canon.uniOp {s : State} {q d f} (h : s.Canon) : OutCanon (s.uniOp q d f) :=
  h.uniform fun _ => .ok h.retire

theorem State.Canon.uniOp2 {s : State} {q d f} (h : s.Canon) : OutCanon (s.uniOp2 q d f) :=
  h.uniform fun _ => .ok h.retire

/-! ## The caches -/

theorem State.Canon.ctxL2 {s : State} {ctx pa cc wr} (h : s.Canon) : (s.ctxL2 ctx pa cc wr).Canon := by
  unfold State.ctxL2
  refine State.Canon.useL2 ?_
  split
  · exact h
  · exact h.count

theorem State.Canon.loadLine {s : State} {e column line cc} (h : s.Canon) : (s.loadLine e column line cc).Canon := by
  unfold State.loadLine
  extract_lets +onlyGivenNames k
  split
  · extract_lets +onlyGivenNames s1
    have h1 : s1.Canon := ⟨h.mem, h.host⟩
    split
    · exact State.Canon.ctxL2 ⟨h.mem, h.host⟩
    · exact h1
  · exact h.count.ctxL2.fillL1

theorem State.Canon.storeLine {s : State} {e column line cc} (h : s.Canon) : (s.storeLine e column line cc).Canon := by
  unfold State.storeLine
  extract_lets +onlyGivenNames k s1
  have h1 : s1.Canon := by
    unfold s1
    split
    · exact ⟨h.mem, h.host⟩
    · exact h.count
  exact h1.ctxL2

theorem State.Canon.loadMet {s : State} {e ps} (h : s.Canon) : (s.loadMet e ps).Canon :=
  h.foldl fun _ _ h1 => h1.loadLine

theorem State.Canon.storeMet {s : State} {e ps} (h : s.Canon) : (s.storeMet e ps).Canon :=
  h.foldl fun _ _ h1 => h1.storeLine

theorem State.Canon.dieMet {s : State} {ctx wr ps} (h : s.Canon) : (s.dieMet ctx wr ps).Canon :=
  h.foldl fun _ _ h1 => h1.ctxL2

theorem State.Canon.atController {s : State} {pa} (h : s.Canon) : (s.atController pa).Canon := by
  unfold State.atController
  extract_lets +onlyGivenNames it s1
  have h1 : s1.Canon := by
    unfold s1
    split
    · exact h.reach
    · exact h
  exact State.Canon.reach ⟨h1.mem, h1.host⟩

/-! ## Translation -/

theorem State.Canon.walkUsed {s : State} {w} (h : s.Canon) : (s.walkUsed w).Canon :=
  ⟨h.mem, h.host⟩

theorem State.Canon.tlbUsed {s : State} {t} (h : s.Canon) : (s.tlbUsed t).Canon :=
  ⟨h.mem, h.host⟩

theorem State.Canon.tlbFill {s : State} {t a} (h : s.Canon) : (s.tlbFill t a).Canon := by
  induction a with
  | nil => exact h
  | cons x l ih =>
    unfold State.tlbFill
    exact ih.tlbUsed

theorem leafOf_canon {s : State} {c a spur va} (h : s.Canon) :
    Leads (fun _ => True) (fun r => r.1.Canon) (leafOf s c a spur va) := by
  unfold leafOf
  split
  · exact .ok h.tlbFill
  · split
    · exact .error trivial
    · extract_lets +onlyGivenNames u t
      split
      · exact .error trivial
      · exact .ok ((((h.foldl fun _ _ h1 => h1.walkUsed).tlbFill).count).foldl fun _ _ h2 => h2.ctxL2)

theorem State.Canon.setRef {s : State} {x page n} (h : s.Canon) : (s.setRef x page n).Canon :=
  h.writeOwn

theorem State.Canon.poolPushPage {s : State} {c page} (h : s.Canon) : (s.poolPushPage c page).Canon :=
  h.writeOwn.modCtx

theorem State.Canon.poolPop {s t : State} {c q} (h : s.Canon) (ht : s.poolPop c = some (q, t)) : t.Canon := by
  unfold State.poolPop at ht
  dsimp only at ht
  split at ht
  · cases ht
  · cases ht
    exact h.modCtx

theorem State.Canon.cow {s : State} {c spur i} (h : s.Canon) : Leads (fun _ => True) State.Canon (s.cow c spur i) := by
  unfold State.cow
  extract_lets +onlyGivenNames x slot p list
  split
  · exact .error trivial
  · split
    · exact .error trivial
    · split
      · exact .ok h
      · split
        · exact .error trivial
        next q s1 hq =>
          have h1 : s1.Canon := h.poolPop hq
          extract_lets +onlyGivenNames lens
          split
          · exact .error trivial
          · extract_lets s2 s3
            have h2 : s2.Canon := by
              unfold s2
              split
              · exact h1.zeroPage
              · exact h1.copyPage
            have h3 : s3.Canon := h2.writeOwn.setRef
            refine .ok ?_
            split
            · exact h3.writeOwn
            · exact h3.setRef

theorem xlate_canon {s : State} {c a spur handler acc va} (h : s.Canon) :
    Leads (fun _ => True) (fun r => r.1.Canon) (xlate s c a spur handler acc va) := by
  unfold xlate
  split
  · exact .error trivial
  next _ s1 e lvl he =>
    have h1 : s1.Canon := (leafOf_canon h).of_ok he
    split
    · exact .error trivial
    · split
      · exact .error trivial
      next _ s2 he1 =>
        have h2 : s2.Canon := by
          refine Leads.of_ok (E := (fun _ => True)) (A := State.Canon) ?_ he1
          split
          · exact h1.cow
          · exact .ok h1
        split
        · exact .error trivial
        · refine .ok ?_
          dsimp -zeta -zetaHave only
          split
          · exact h2.runL2
          · exact h2

theorem oneStop_canon {s : State} {c spur acc va a} (h : s.Canon) : Stop.Canon (oneStop s c spur acc va a) := by
  unfold oneStop
  split
  · exact .park h
  · exact .trap
  · exact .trap
  · exact .pageFault
  · exact .pageFault
  · exact .pageFault

theorem steerAll_canon {s e acc n a} : Leads Stop.Canon (fun _ => True) (steerAll s e acc n a) := by
  induction a with
  | nil => exact .ok trivial
  | cons x l ih =>
    unfold steerAll
    split
    · exact .error .trap
    · exact ih.bind fun _ _ => .pure trivial

theorem xlateChunks_canon {s : State} {c a spur handler acc y} (h : s.Canon) :
    (xlateChunks s c a spur handler acc y).1.Canon := by
  induction y generalizing s with
  | nil => exact h
  | cons x l ih =>
    unfold xlateChunks
    split
    · exact ih h
    next _ s1 p leaf he =>
      have h1 : s1.Canon := (xlate_canon h).of_ok he
      exact ih h1

theorem xlateSized_canon {s : State} {e acc a} (h : s.Canon) : (xlateSized s e acc a).1.Canon := by
  induction a generalizing s with
  | nil => exact h
  | cons x l ih =>
    unfold xlateSized
    split
    next _ s1 r he =>
      have h1 : s1.Canon := by
        refine State.Canon.of_pair he ?_
        split
        · exact h
        · exact xlateChunks_canon h
      exact ih h1

theorem xlateEach_canon {s : State} {e acc as} (h : s.Canon) : Leads Stop.Canon (fun r => r.1.Canon) (xlateEach s e acc as) := by
  unfold xlateEach
  dsimp only
  split
  · exact .error .trap
  · exact .error .trap
  · exact .error .pageFault
  · exact .error .pageFault
  · split
    · exact .error (.park h)
    · exact .ok (xlateSized_canon h)

theorem xlateAll_canon {s : State} {e acc n as} (h : s.Canon) : Leads Stop.Canon (fun r => r.1.Canon) (xlateAll s e acc n as) :=
  xlateEach_canon h

/-! ## The Cairn ring -/

theorem State.Canon.cairnWrite {s : State} {c r} (h : s.Canon) : (s.cairnWrite c r).Canon :=
  h.writeOwn.modCtx.cairnThresh

theorem State.Canon.cairnConsume {s : State} {c p} (h : s.Canon) : (s.cairnConsume c p).Canon :=
  h.modCtx.cairnAdvance

theorem State.Canon.takeSkips {s : State} {c} (h : s.Canon) : (s.takeSkips c).Canon := by
  unfold State.takeSkips
  refine h.foldl fun _ _ h2 => ?_
  split
  · exact h2.modCtx.cairnConsume
  · exact h2

theorem diverge_canon {α : Type} {A : α → Prop} {s : State} {e info addr} (h : s.Canon) :
    Leads Stop.Canon A (diverge (α := α) s e info addr) := .error (.trapAfter h.modCtx)

theorem cairnOpen_canon {s : State} {e addr ev} (h : s.Canon) : Leads Stop.Canon (fun _ => True) (cairnOpen s e addr ev) := by
  unfold cairnOpen
  split
  · split
    · exact .ok trivial
    · exact .error (.park h)
  · split
    · split
      · exact .ok trivial
      · exact diverge_canon h
      · exact .error (.park h)
      · exact .error (.park h)
    · exact .ok trivial

theorem State.Canon.cairnClose {s : State} {e evs rs} (h : s.Canon) : (s.cairnClose e evs rs).1.Canon := by
  unfold State.cairnClose
  split
  · exact h.foldl fun _ _ h1 => h1.cairnWrite
  · split
    · exact h.foldl fun _ _ h2 => h2.cairnConsume
    · exact h

theorem logged_canon {s : State} {e addr ev f} (h : s.Canon) (hf : ∀ x0, x0.Canon → Leads Stop.Canon (fun r => r.s.Canon) (f x0)) :
    Leads Stop.Canon State.Canon (logged s e addr ev f) := by
  unfold logged
  refine (cairnOpen_canon h).bind fun _ _ => ?_
  refine (hf _ h).bind fun _ h3 => ?_
  split
  next _ _ s1 _ he2 =>
    have h4 : s1.Canon := State.Canon.of_pair he2 h3.cairnClose
    exact .ok h4.retire
  next _ _ s1 p _ he2 =>
    have h5 : s1.Canon := State.Canon.of_pair he2 h3.cairnClose
    exact diverge_canon h5.setGroup
  next _ _ cause info s1 p _ he2 =>
    have h6 : s1.Canon := State.Canon.of_pair he2 h3.cairnClose
    exact .error (.trapAfter h6.setGroup.modCtx)

theorem sampleOpen_canon {s : State} {e} (h : s.Canon) : Leads Stop.Canon (fun _ => True) (sampleOpen s e) :=
  (cairnOpen_canon h).bind fun _ _ => .ok trivial

theorem State.Canon.sampleClose {s : State} {e value r} (h : s.Canon) : (s.sampleClose e value r).Canon :=
  h.cairnClose

theorem sampledOp_canon {s : State} {e value g r} (h : s.Canon) : Leads Stop.Canon State.Canon (sampledOp s e value g r) := by
  unfold sampledOp
  extract_lets +onlyGivenNames s1
  split
  · exact .ok h.sampleClose.retire
  · split
    · exact .ok h.sampleClose.retire
    · exact diverge_canon h.sampleClose.setGroup

/-! ## The setting of predicates -/

theorem State.Canon.lanePred {s : State} {g p f} (h : s.Canon) : OutCanon (s.lanePred g p f) :=
  h.run fun _ => .ok h.retire

theorem State.Canon.uniPred {s : State} {q p f} (h : s.Canon) : OutCanon (s.uniPred q p f) :=
  h.uniform fun _ => .ok h.retire

/-! ## Compares and predicate instructions -/

theorem execIcmpS_canon {g c p a b} {s : State} (h : s.Canon) : OutCanon (execIcmpS g c p a b s) :=
  h.lanePred

theorem execIcmpN_canon {g c p a b} {s : State} (h : s.Canon) : OutCanon (execIcmpN g c p a b s) :=
  h.lanePred

theorem execFcmpF32_canon {g c p a b} {s : State} (h : s.Canon) : OutCanon (execFcmpF32 g c p a b s) :=
  h.lanePred

theorem execFcmpF64_canon {g c p a b} {s : State} (h : s.Canon) : OutCanon (execFcmpF64 g c p a b s) :=
  h.lanePred

theorem execIcmpiS_canon {g c p a lit} {s : State} (h : s.Canon) : OutCanon (execIcmpiS g c p a lit s) :=
  h.lanePred

theorem execIcmpiN_canon {g c p a lit} {s : State} (h : s.Canon) : OutCanon (execIcmpiN g c p a lit s) :=
  h.lanePred

theorem execPlop_canon {g lut d a b c} {s : State} (h : s.Canon) : OutCanon (execPlop g lut d a b c s) :=
  h.lanePred

theorem execPmovGet_canon {g d} {s : State} (h : s.Canon) : OutCanon (execPmovGet g d s) :=
  h.laneOp

theorem execPmovSet_canon {g a} {s : State} (h : s.Canon) : OutCanon (execPmovSet g a s) :=
  h.run fun _ => .ok h.retire

theorem execUicmpS_canon {g c p a b} {s : State} (h : s.Canon) : OutCanon (execUicmpS g c p a b s) :=
  h.uniPred

theorem execUicmpN_canon {g c p a b} {s : State} (h : s.Canon) : OutCanon (execUicmpN g c p a b s) :=
  h.uniPred

theorem execUfcmp_canon {g c p a b} {s : State} (h : s.Canon) : OutCanon (execUfcmp g c p a b s) :=
  h.uniPred

theorem execUplop_canon {g lut d a b c} {s : State} (h : s.Canon) : OutCanon (execUplop g lut d a b c s) :=
  h.uniPred

/-! ## Floating-point instructions -/

theorem execFaddF32_canon {g d a b} {s : State} (h : s.Canon) : OutCanon (execFaddF32 g d a b s) :=
  h.laneOp

theorem execFsubF32_canon {g d a b} {s : State} (h : s.Canon) : OutCanon (execFsubF32 g d a b s) :=
  h.laneOp

theorem execFmulF32_canon {g d a b} {s : State} (h : s.Canon) : OutCanon (execFmulF32 g d a b s) :=
  h.laneOp

theorem execFfmaF32_canon {g d a b} {s : State} (h : s.Canon) : OutCanon (execFfmaF32 g d a b s) :=
  h.laneOp

theorem execFminF32_canon {g d a b} {s : State} (h : s.Canon) : OutCanon (execFminF32 g d a b s) :=
  h.laneOp

theorem execFmaxF32_canon {g d a b} {s : State} (h : s.Canon) : OutCanon (execFmaxF32 g d a b s) :=
  h.laneOp

theorem execFaddiF32_canon {g d a lit} {s : State} (h : s.Canon) : OutCanon (execFaddiF32 g d a lit s) :=
  h.laneOp

theorem execFmuliF32_canon {g d a lit} {s : State} (h : s.Canon) : OutCanon (execFmuliF32 g d a lit s) :=
  h.laneOp

theorem execFaddF16x2_canon {g d a b} {s : State} (h : s.Canon) : OutCanon (execFaddF16x2 g d a b s) :=
  h.laneOp

theorem execFmulF16x2_canon {g d a b} {s : State} (h : s.Canon) : OutCanon (execFmulF16x2 g d a b s) :=
  h.laneOp

theorem execFfmaF16x2_canon {g d a b} {s : State} (h : s.Canon) : OutCanon (execFfmaF16x2 g d a b s) :=
  h.laneOp

theorem execFminF16x2_canon {g d a b} {s : State} (h : s.Canon) : OutCanon (execFminF16x2 g d a b s) :=
  h.laneOp

theorem execFmaxF16x2_canon {g d a b} {s : State} (h : s.Canon) : OutCanon (execFmaxF16x2 g d a b s) :=
  h.laneOp

theorem execFaddBf16x2_canon {g d a b} {s : State} (h : s.Canon) : OutCanon (execFaddBf16x2 g d a b s) :=
  h.laneOp

theorem execFmulBf16x2_canon {g d a b} {s : State} (h : s.Canon) : OutCanon (execFmulBf16x2 g d a b s) :=
  h.laneOp

theorem execFfmaBf16x2_canon {g d a b} {s : State} (h : s.Canon) : OutCanon (execFfmaBf16x2 g d a b s) :=
  h.laneOp

theorem execFminBf16x2_canon {g d a b} {s : State} (h : s.Canon) : OutCanon (execFminBf16x2 g d a b s) :=
  h.laneOp

theorem execFmaxBf16x2_canon {g d a b} {s : State} (h : s.Canon) : OutCanon (execFmaxBf16x2 g d a b s) :=
  h.laneOp

theorem execFaddF64_canon {g d a b} {s : State} (h : s.Canon) : OutCanon (execFaddF64 g d a b s) :=
  h.laneOp2

theorem execFsubF64_canon {g d a b} {s : State} (h : s.Canon) : OutCanon (execFsubF64 g d a b s) :=
  h.laneOp2

theorem execFmulF64_canon {g d a b} {s : State} (h : s.Canon) : OutCanon (execFmulF64 g d a b s) :=
  h.laneOp2

theorem execFminF64_canon {g d a b} {s : State} (h : s.Canon) : OutCanon (execFminF64 g d a b s) :=
  h.laneOp2

theorem execFmaxF64_canon {g d a b} {s : State} (h : s.Canon) : OutCanon (execFmaxF64 g d a b s) :=
  h.laneOp2

theorem execFfmaF64_canon {g d a b} {s : State} (h : s.Canon) : OutCanon (execFfmaF64 g d a b s) :=
  h.laneOp2

theorem execFrcp_canon {g d a} {s : State} (h : s.Canon) : OutCanon (execFrcp g d a s) :=
  h.laneOp

theorem execFrsq_canon {g d a} {s : State} (h : s.Canon) : OutCanon (execFrsq g d a s) :=
  h.laneOp

theorem execFsqrt_canon {g d a} {s : State} (h : s.Canon) : OutCanon (execFsqrt g d a s) :=
  h.laneOp

theorem execFexp2_canon {g d a} {s : State} (h : s.Canon) : OutCanon (execFexp2 g d a s) :=
  h.laneOp

theorem execFlog2_canon {g d a} {s : State} (h : s.Canon) : OutCanon (execFlog2 g d a s) :=
  h.laneOp

theorem execFsin_canon {g d a} {s : State} (h : s.Canon) : OutCanon (execFsin g d a s) :=
  h.laneOp

theorem execFcos_canon {g d a} {s : State} (h : s.Canon) : OutCanon (execFcos g d a s) :=
  h.laneOp

theorem execFtanh_canon {g d a} {s : State} (h : s.Canon) : OutCanon (execFtanh g d a s) :=
  h.laneOp

/-! ## Loads and stores of any instruction -/

theorem checkPresent_canon {s0 : State} {s ps} (h : s0.Canon) : Leads Stop.Canon (fun _ => True) (checkPresent s0 s ps) := by
  unfold checkPresent
  split
  · split
    · exact .error (.park h)
    · exact .ok trivial
  · exact .error (.park h)

theorem State.Canon.sendOne {s : State} {w} (h : s.Canon) : (s.sendOne w).1.Canon := by
  unfold State.sendOne
  dsimp -zeta -zetaHave only
  exact State.Canon.grantOne ⟨h.mem, h.host⟩

theorem State.Canon.send {s : State} {gid job src a} (h : s.Canon) : (s.send gid job src a).1.Canon := by
  induction a generalizing s with
  | nil => exact h
  | cons x l ih =>
    unfold State.send
    exact ih h.sendOne

theorem State.Canon.sendFor {s : State} {e rs} (h : s.Canon) : (s.sendFor e rs).1.Canon :=
  h.send

theorem failTrap_canon {st lvl va pa} : Stop.Canon (failTrap st lvl va pa) := by
  unfold failTrap
  split
  · exact .trap
  · exact .trap

theorem answersOf_canon {e tags rs} {wait : Stop} (h : wait.Canon) :
    Leads Stop.Canon (fun _ => True) (answersOf e tags rs wait) := by
  unfold answersOf
  dsimp only
  split
  · exact .error h
  · split
    next z hz =>
      refine .error (findSome_keeps hz fun p z hp => ?_)
      split at hp
      · cases hp
      · cases hp
        exact failTrap_canon
    · exact .ok trivial

theorem flyWith_canon {s : State} {e rs places forward seed logs done reads} (h : s.Canon) :
    Stop.Canon (flyWith s e rs places forward seed logs done reads) :=
  .park (h.sendFor.of_eq rfl rfl)

theorem Stop_holding_canon {x} {p : Stop} (h : p.Canon) : Stop.Canon (Stop.holding x p) := by
  unfold Stop.holding
  split
  · cases h
    exact .park ‹_›
  · exact h

theorem pieceErr_canon {s ws p z} (h : pieceErr s ws p = some z) : z.Canon := by
  unfold pieceErr at h
  split at h
  · obtain ⟨_, -, rfl⟩ := Option.map_eq_some_iff.1 h
    exact failTrap_canon
  · obtain ⟨_, -, rfl⟩ := Option.map_eq_some_iff.1 h
    exact failTrap_canon
  · cases h

theorem checkPlaces_canon {s ws ls} : Leads Stop.Canon (fun _ => True) (checkPlaces s ws ls) := by
  unfold checkPlaces
  split
  next z hz => exact .error (findSome_keeps hz fun l z hl => findSome_keeps hl fun p z hp => pieceErr_canon hp)
  · exact .ok trivial

theorem checkDet_canon {e as} : Leads Stop.Canon (fun _ => True) (checkDet e as) := by
  unfold checkDet
  split
  · split
    · exact .error .trap
    · exact .ok trivial
  · exact .ok trivial

theorem openLanes_canon {s : State} {e acc n addrs} (h : s.Canon) :
    Leads Stop.Canon (fun r => r.1.Canon) (openLanes s e acc n addrs) :=
  steerAll_canon.bind fun _ _ => checkDet_canon.bind fun _ _ => xlateAll_canon h

theorem readNow_canon {s : State} {e met bytes ls} (h : s.Canon) (hmet : ∀ x0 x1, x0.Canon → (met x0 x1).Canon) :
    (readNow s e met bytes ls).1.Canon :=
  hmet _ _ h

theorem State.Canon.loadsMeet {s : State} {e ps} (h : s.Canon) : (s.loadsMeet e ps).Canon :=
  h.landFor.loadMet

theorem State.Canon.storesMeet {s : State} {e ps} (h : s.Canon) : (s.storesMeet e ps).Canon :=
  h.landFor.storeMet

theorem readPlaces_canon {s : State} {e met bytes ls} (h : s.Canon) (hmet : ∀ x0 x1, x0.Canon → (met x0 x1).Canon) :
    Leads Stop.Canon (fun r => r.1.Canon) (readPlaces s e met bytes ls) := by
  unfold readPlaces
  refine checkPlaces_canon.bind fun _ _ => ?_
  split
  next _ s1 ls1 he =>
    have h1 : s1.Canon := State.Canon.of_pair he (readNow_canon h hmet)
    extract_lets +onlyGivenNames ps rs
    split
    · exact .pure h1
    · exact .error (flyWith_canon h1)

theorem landPiece_canon {s : State} {e acc p} (h : s.Canon) : (landPiece s e acc p).1.Canon := by
  unfold landPiece
  split
  · split
    next _ s1 pa snd he =>
      have h1 : s1.Canon := (xlate_canon h).of_ok he
      exact h1
    · exact h
  · split
    next _ s1 pa snd he =>
      have h2 : s1.Canon := (xlate_canon h).of_ok he
      exact h2
    · exact h
  · exact h

theorem landPieces_canon {s : State} {e acc a} (h : s.Canon) : (landPieces s e acc a).1.Canon := by
  induction a generalizing s with
  | nil => exact h
  | cons x l ih =>
    unfold landPieces
    exact ih (landPiece_canon h)

theorem landLanes_canon {s : State} {e acc a} (h : s.Canon) : (landLanes s e acc a).1.Canon := by
  induction a generalizing s with
  | nil => exact h
  | cons x l ih =>
    unfold landLanes
    exact ih (landPieces_canon h)

theorem landAll_canon {s : State} {e f acc ws} (h : s.Canon) : Leads Stop.Canon (fun r => r.1.Canon) (landAll s e f acc ws) := by
  unfold landAll
  split
  next _ s1 ls1 he =>
    have h1 : s1.Canon := State.Canon.of_pair he (landLanes_canon h)
    split
    next _ a he1 =>
      exact .error (.park h)
    · exact checkPlaces_canon.bind fun _ _ => .pure h1

theorem readsGoOn_canon {s : State} {e met bytes f} (h : s.Canon) (hmet : ∀ x0 x1, x0.Canon → (met x0 x1).Canon) :
    Leads Stop.Canon (fun r => r.1.Canon) (readsGoOn s e met bytes f) := by
  unfold readsGoOn
  refine (landAll_canon h).bind fun ⟨s1, ls⟩ h1 => ?_
  have h2 : (readNow s1 e met bytes ls).1.Canon := readNow_canon h1 hmet
  refine (answersOf_canon (.park h2)).bind fun rs _ => ?_
  dsimp only
  split
  · exact .pure h2
  · exact .error (flyWith_canon h2)

theorem loadLanes_canon {s : State} {e n addrs} (h : s.Canon) :
    Leads Stop.Canon (fun r => r.1.Canon) (loadLanes s e n addrs) := by
  unfold loadLanes
  split
  · exact readsGoOn_canon h fun _ _ h1 => h1.loadsMeet
  · exact (openLanes_canon h).bind fun ⟨_, _⟩ h2 => (checkPresent_canon h).bind fun _ _ => readPlaces_canon h2 fun _ _ h3 =>
        h3.loadsMeet

theorem spillStop_canon {s : State} {e cause va} (h : s.Canon) : Stop.Canon (spillStop s e cause va) := by
  unfold spillStop
  extract_lets +onlyGivenNames x
  split
  · exact .park h.tqPost
  · exact .park h

theorem spillTo_canon {s0 : State} {s : State} {e va bs} (h : s0.Canon) (h' : s.Canon) :
    Leads Stop.Canon State.Canon (spillTo s0 s e va bs) := by
  unfold spillTo
  split
  · exact .error (spillStop_canon h)
  · exact .error (spillStop_canon h)
  · exact .error (spillStop_canon h)
  · exact .error (.park h)
  · exact .error .gridFatal
  · exact .error .gridFatal
  next _ s1 pa leaf he =>
    have h1 : s1.Canon := (xlate_canon h').of_ok he
    split
    · exact .error (.park h)
    · split
      · exact .error .gridFatal
      · split
        · exact .error .gridFatal
        · exact .ok h1.clearLost.storeRun.dieMet
  next _ s1 tgt chip pa leaf he =>
    have h2 : s1.Canon := (xlate_canon h').of_ok he
    split
    · exact .error .gridFatal
    · exact .error .gridFatal
    · exact .ok (h2.foldl fun _ _ h3 => h3.sendOne)
  next _ s1 fst snd _ _ he3 =>
    have h4 : s1.Canon := (xlate_canon h').of_ok he3
    exact .ok h4

theorem stageOne_canon {s0 : State} {s : State} {e r} (h : s0.Canon) (h' : s.Canon) :
    Leads Stop.Canon State.Canon (stageOne s0 s e r) := by
  unfold stageOne
  split
  · exact .ok h'
  · split
    · exact .ok h'.setGrid
    · extract_lets +onlyGivenNames oldest
      split
      · split
        · exact .error .gridFatal
        · exact .error (.park h)
      · exact (spillTo_canon h h').bind fun _ h1 => .pure h1.modGrid

theorem stageAll_canon {s0 : State} {s : State} {e rs} (h : s0.Canon) (h' : s.Canon) :
    Leads Stop.Canon State.Canon (stageAll s0 s e rs) :=
  (leads_foldlM h' fun _ _ h1 => stageOne_canon h h1).bind fun _ h2 => .pure h2.modTeam

theorem State.Canon.scrStore {s : State} {tid off bs} (h : s.Canon) : (s.scrStore tid off bs).Canon :=
  h.modTeam

theorem State.Canon.scrWrites {s : State} {a y} (h : s.Canon) : (s.scrWrites a y).Canon := by
  induction a generalizing s y with
  | nil => exact h
  | cons x l ih =>
    unfold State.scrWrites
    refine ih ?_
    split
    · exact h.scrStore
    · exact h

theorem State.Canon.putLanes {s : State} {zs} (h : s.Canon) : (s.putLanes zs).Canon :=
  h.clearLost.storeAll.foldl fun _ _ h1 => h1.scrWrites

theorem writeNow_canon {s : State} {e ls bs} (h : s.Canon) : Leads Stop.Canon State.Canon (writeNow s e ls bs) := by
  unfold writeNow
  extract_lets +onlyGivenNames ms with_ s1
  have h1 : s1.Canon := h.storesMeet.putLanes
  split
  · exact .ok h1
  · exact .error (flyWith_canon h1)

theorem writePlaces_canon {s : State} {e ls bs} (h : s.Canon) : Leads Stop.Canon State.Canon (writePlaces s e ls bs) := by
  unfold writePlaces
  extract_lets +onlyGivenNames zs
  refine checkPlaces_canon.bind fun _ _ => ?_
  split
  · exact writeNow_canon h
  · exact .error (flyWith_canon h)

theorem storeLanes_canon {s : State} {e n acs} (h : s.Canon) : Leads Stop.Canon State.Canon (storeLanes s e n acs) := by
  unfold storeLanes
  extract_lets +onlyGivenNames bs
  split
  · exact (answersOf_canon (.park h)).bind fun _ _ => (landAll_canon h).bind fun ⟨_, _⟩ h1 => writeNow_canon h1
  · refine steerAll_canon.bind fun _ _ => ?_
    refine checkDet_canon.bind fun _ _ => ?_
    refine (xlateAll_canon h).bind fun ⟨_, _⟩ h4 => ?_
    refine (checkPresent_canon h).bind fun _ _ => ?_
    extract_lets +onlyGivenNames rs
    split
    · refine (stageAll_canon h h4).bind fun _ h5 => ?_
      refine .pure (h5.foldl fun _ _ h7 => ?_)
      split
      · exact h7.scrWrites
      · exact h7
    · exact writePlaces_canon h4

/-! ## Load, store and prefetch instructions -/

theorem execLd_canon {g d m sz sx' x} {s : State} (h : s.Canon) : OutCanon (execLd g d m sz sx' x s) := by
  unfold execLd
  refine h.run fun _ => ?_
  extract_lets +onlyGivenNames t
  split
  · exact .ok h.retire
  · exact (loadLanes_canon h).bind fun ⟨_, _⟩ h1 => .ok h1.retire

theorem execSt_canon {g d m sz x} {s : State} (h : s.Canon) : OutCanon (execSt g d m sz x s) := by
  unfold execSt
  refine h.run fun _ => ?_
  extract_lets +onlyGivenNames t
  split
  · exact .ok h.retire
  · exact (storeLanes_canon h).bind fun _ h1 => .ok h1.retire

theorem State.Canon.prefetch {s : State} {e lv lane ga} (h : s.Canon) : (s.prefetch e lv lane ga).Canon := by
  unfold State.prefetch
  split
  · split
    next _ s1 pa leaf he =>
      have h1 : s1.Canon := (xlate_canon h).of_ok he
      split
      · exact h1
      · split
        · exact h1.loadLine
        · exact h1.ctxL2
    next _ s1 fst snd _ he2 =>
      have h2 : s1.Canon := (xlate_canon h).of_ok he2
      exact h2
    · exact h
  · exact h

theorem execPref_canon {g m lv} {s : State} (h : s.Canon) : OutCanon (execPref g m lv s) :=
  h.run fun _ => .ok ((h.foldl fun _ _ h1 => h1.prefetch).retire)

theorem execUld_canon {g d m sz sx' x} {s : State} (h : s.Canon) : OutCanon (execUld g d m sz sx' x s) := by
  unfold execUld
  exact h.uniform fun _ => (loadLanes_canon h).bind fun ⟨_, _⟩ h2 => .ok h2.retire

theorem execUst_canon {g d m sz x} {s : State} (h : s.Canon) : OutCanon (execUst g d m sz x s) :=
  h.uniform fun _ => (storeLanes_canon h).bind fun _ h1 => .ok h1.retire

theorem shadowAddr_canon {a z} (hz : shadowAddr a = some z) : z.Canon := by
  unfold shadowAddr at hz
  split at hz
  · cases hz
    exact .trap
  · split at hz
    · cases hz
      exact .trap
    · cases hz

theorem execDvsave_canon {g m v95} {s : State} (h : s.Canon) : OutCanon (execDvsave g m v95 s) := by
  unfold execDvsave
  refine h.privileged fun _ => ?_
  extract_lets +onlyGivenNames a
  split
  next _ z he =>
    have h1 : Stop.Canon z := shadowAddr_canon he
    exact .error h1
  · exact (storeLanes_canon h).bind fun _ h2 => .ok h2.retire

theorem execDvload_canon {g m v95} {s : State} (h : s.Canon) : OutCanon (execDvload g m v95 s) := by
  unfold execDvload
  refine h.privileged fun _ => ?_
  extract_lets +onlyGivenNames a
  split
  next _ z he =>
    have h1 : Stop.Canon z := shadowAddr_canon he
    exact .error h1
  · refine (loadLanes_canon h).bind fun ⟨_, _⟩ h2 => ?_
    dsimp -zeta -zetaHave only
    extract_lets +onlyGivenNames bs
    split
    · exact trapWith_canon
    · exact .ok h2.retire

/-! ## Atomics and reductions -/

theorem checkAligned_canon {n as} : Leads Stop.Canon (fun _ => True) (checkAligned n as) := by
  unfold checkAligned
  split
  · exact .error .trap
  · exact .ok trivial

theorem atomDet_canon {e f as} : Leads Stop.Canon (fun _ => True) (atomDet e f as) := by
  unfold atomDet
  split
  · exact .ok trivial
  · split
    · exact .error .trap
    · exact .ok trivial

theorem atomHost_canon {f as} : Leads Stop.Canon (fun _ => True) (atomHost f as) := by
  unfold atomHost
  split
  · exact .error .trap
  · exact .ok trivial

theorem State.Canon.narrowWrite {s : State} {w pa bs} (h : s.Canon) : (s.narrowWrite w pa bs).Canon :=
  h.landLate.of_eq rfl rfl

theorem State.Canon.landAtoms {s : State} {e f stays runs} (h : s.Canon) : (s.landAtoms e f stays runs).Canon :=
  h.landLate

theorem State.Canon.putPlace {s : State} {w p n x} (h : s.Canon) : (s.putPlace w p n x).Canon := by
  unfold State.putPlace
  split
  · exact h.narrowWrite
  · exact h.storeRun
  · exact h.scrStore
  · exact h

theorem atomSteps_canon {f e stays} {a : State} {y z} (h : a.Canon) : (atomSteps f e stays a y z).1.Canon := by
  induction y generalizing a z with
  | nil => exact h
  | cons x l ih =>
    unfold atomSteps
    split
    · exact ih h
    · exact ih h.putPlace

theorem State.Canon.atomMet {s : State} {e f pa cc} (h : s.Canon) : (s.atomMet e f pa cc).Canon := by
  unfold State.atomMet
  split
  · exact h.loadLine.ctxL2
  · split
    · exact h.atController
    · exact h.ctxL2

theorem atomAct_canon {s : State} {e f stays as rs} (h : s.Canon) : (atomAct s e f stays as rs).1.Canon := by
  unfold atomAct
  split
  next _ s1 r he =>
    have h3 : s1.Canon := State.Canon.of_pair he (atomSteps_canon h.landAtoms)
    refine h3.foldl fun _ _ h4 => ?_
    split
    · exact h4.atomMet
    · exact h4

theorem atomTurn_canon {s : State} {e f ord} (h : s.Canon) : Leads Stop.Canon (fun _ => True) (atomTurn s e f ord) := by
  unfold atomTurn
  split
  · split
    · exact .ok trivial
    · exact .error (.park h)
  · split
    · dsimp only
      split
      · exact diverge_canon h
      · split
        · exact .error (.park h)
        · exact .ok trivial
    · exact .ok trivial

theorem State.Canon.splitAt {s : State} {e g done w} (h : s.Canon) : (s.splitAt e g done w).Canon :=
  ⟨h.mem, h.host⟩

theorem atomStepped_canon {s : State} {e f stays t rs} (h : s.Canon) : (atomStepped s e f stays t rs).1.Canon :=
  (atomAct_canon h).cairnClose

theorem atomDone_canon {s : State} {e f stays take t rs put} (h : s.Canon) :
    Leads Stop.Canon State.Canon (atomDone s e f stays take t rs put) := by
  unfold atomDone
  split
  next _ s1 olds p ga he =>
    have h1 : s1.Canon := State.Canon.of_pair he (atomStepped_canon h)
    exact diverge_canon h1.modGroup
  next _ s1 olds he =>
    have h2 : s1.Canon := State.Canon.of_pair he (atomStepped_canon h)
    split
    · exact .ok h2.retire
    · exact .ok h2.splitAt

theorem atomSome_canon {s : State} {e f p take before seed t rs ps put} (h : s.Canon) :
    Leads Stop.Canon State.Canon (atomSome s e f p take before seed t rs ps put) := by
  unfold atomSome
  extract_lets +onlyGivenNames go done
  split
  next _ fst fst1 val he =>
    exact atomDone_canon h
  next _ s1 olds he =>
    have h2 : s1.Canon := State.Canon.of_pair he (atomStepped_canon h)
    split
    · exact atomDone_canon h
    · exact .error (flyWith_canon h2.modGroup)

theorem atomGo_canon {s : State} {e f take before seed t rs ps put} (h : s.Canon) :
    Leads Stop.Canon State.Canon (atomGo s e f take before seed t rs ps put) := by
  unfold atomGo
  split
  · exact atomSome_canon h
  · exact atomDone_canon h

theorem atomStart_canon {s0 : State} {s : State} {e f take as ps put} (h : s0.Canon) (h' : s.Canon) :
    Leads Stop.Canon State.Canon (atomStart s0 s e f take as ps put) := by
  unfold atomStart
  refine ((atomTurn_canon h').mapError fun _ h2 => ?_).bind fun _ _ => ?_
  · split
    · exact .park h
    · exact h2
  · extract_lets +onlyGivenNames mine
    refine checkPlaces_canon.bind fun _ _ => ?_
    extract_lets +onlyGivenNames s1
    have h1 : s1.Canon := by
      unfold s1
      split
      · exact h'
      · exact ⟨h'.mem, h'.host⟩
    split
    · exact atomGo_canon h1
    · exact .error (flyWith_canon h1)

theorem atomLand_canon {s : State} {e f take fl m ops put} (h : s.Canon) :
    Leads Stop.Canon State.Canon (atomLand s e f take fl m ops put) := by
  unfold atomLand
  exact (answersOf_canon (.park h)).bind fun _ _ => (landAll_canon h).bind fun ⟨_, _⟩ h2 => atomGo_canon h2

theorem State.Canon.atomics {s : State} {g m f ops put} (h : s.Canon) : OutCanon (s.atomics g m f ops put) := by
  unfold State.atomics
  refine h.run fun _ => ?_
  extract_lets +onlyGivenNames t
  split
  · exact .ok h.retire
  · split
    · exact atomLand_canon h
    · extract_lets +onlyGivenNames addrs
      refine steerAll_canon.bind fun _ _ => ?_
      refine checkAligned_canon.bind fun _ _ => ?_
      refine atomDet_canon.bind fun _ _ => ?_
      refine (xlateAll_canon h).bind fun ⟨_, _⟩ h5 => ?_
      refine atomHost_canon.bind fun _ _ => ?_
      refine (checkPresent_canon h).bind fun _ _ => ?_
      extract_lets +onlyGivenNames q rest
      have h8 : ∀ x0, x0.Canon → Leads Stop.Canon State.Canon (rest x0) := fun _ h7 => atomStart_canon h h7
      split
      · exact Leads.bind (.pure h5) fun _ h9 => h8 _ h9
      · exact (stageAll_canon h h5).bind fun _ h10 => h8 _ h10

theorem execAtomO_canon {g d m sc o s64} {s : State} (h : s.Canon) : OutCanon (execAtomO g d m sc o s64 s) :=
  h.atomics

theorem execAtomU_canon {g d m sc o s64} {s : State} (h : s.Canon) : OutCanon (execAtomU g d m sc o s64 s) :=
  h.atomics

theorem execRedO_canon {g d m sc o s64} {s : State} (h : s.Canon) : OutCanon (execRedO g d m sc o s64 s) :=
  h.atomics

theorem execRedU_canon {g d m sc o s64} {s : State} (h : s.Canon) : OutCanon (execRedU g d m sc o s64 s) :=
  h.atomics

/-! ## Barrier objects and buffer entries -/

theorem State.Canon.wakeBar {s : State} {tid off o} (h : s.Canon) : (s.wakeBar tid off o).Canon :=
  ⟨h.mem, h.host⟩

theorem State.Canon.barPut {s : State} {tid off o} (h : s.Canon) : (s.barPut tid off o).Canon :=
  h.scrStore.wakeBar

theorem State.Canon.bufPut {s : State} {t x y} (h : s.Canon) : (s.bufPut t x y).Canon :=
  h.scrStore

theorem State.Canon.passHandle {s : State} {t g d} (h : s.Canon) : (s.passHandle t g d).Canon :=
  h.setGroup.stepEnds.countRetired

theorem State.Canon.testHandle {s : State} {tid y a} (h : s.Canon) : (s.testHandle tid y a).Canon := by
  induction a generalizing s with
  | zero => exact h
  | succ n ih =>
    unfold State.testHandle
    split
    · exact h
    · extract_lets +onlyGivenNames x
      split
      · exact ih h.passHandle
      · split
        · split
          · exact ih h.bufPut.modGroup
          · exact h
        · split
          · exact h
          · split
            · exact ih h.bufPut.passHandle
            · exact h

theorem State.Canon.bufOp {s : State} {t x y} (h : s.Canon) : (s.bufOp t x y).Canon :=
  h.bufPut.testHandle

/-! ## The part's own accesses -/

theorem State.Canon.withAsks {s : State} {key} (h : s.Canon) : (s.withAsks key).Canon :=
  ⟨h.mem, h.host⟩

theorem State.Canon.doneAsks {s : State} {key} (h : s.Canon) : (s.doneAsks key).Canon := by
  unfold State.doneAsks
  exact State.Canon.grantAll ⟨h.mem, h.host⟩

theorem State.Canon.answerAsk {s : State} {key r} (h : s.Canon) : (s.answerAsk key r).Canon :=
  ⟨h.mem, h.host⟩

theorem State.Canon.ask {s : State} {massif key r} (h : s.Canon) : (s.ask massif key r).Canon := by
  unfold State.ask
  extract_lets +onlyGivenNames k
  split
  · exact h
  · split
    · exact h.answerAsk
    · split
      next _ s1 n he =>
        have h1 : s1.Canon := State.Canon.of_pair he h.sendOne
        exact ⟨h1.mem, h1.host⟩

theorem ownAsk_canon {s : State} {a} (h : s.Canon) : Leads (fun _ => True) (fun r => r.1.Canon) (ownAsk s a) := by
  induction a generalizing s with
  | nil => exact .ok h
  | cons x l ih =>
    unfold ownAsk
    split
    · exact .error trivial
    · split
      · exact Leads.bind (ih ⟨h.mem, h.host⟩) fun ⟨_, _⟩ h1 => .pure h1
      · exact .error trivial

theorem ownPlaces_canon {s : State} {massif c spur acc a} (h : s.Canon) :
    Leads (fun _ => True) (fun r => r.1.Canon) (ownPlaces s massif c spur acc a) := by
  induction a generalizing s with
  | nil => exact .ok h
  | cons x l ih =>
    unfold ownPlaces
    split
    · exact .error trivial
    · split
      · exact .error trivial
      next _ s1 p leaf he =>
        have h1 : s1.Canon := (xlate_canon h).of_ok he
        split
        next _ pa =>
          have h2 : s1.Canon := (xlate_canon h).of_ok he
          split
          · exact .error trivial
          · split
            · exact .error trivial
            · exact (ih h2).bind fun ⟨_, _⟩ h3 => .pure h3
        · split
          · exact .error trivial
          · exact (ih h1).bind fun ⟨_, _⟩ h4 => .pure h4

theorem ownWrite_canon {s : State} {massif c spur va bs} (h : s.Canon) :
    Leads (fun _ => True) State.Canon (ownWrite s massif c spur va bs) := by
  unfold ownWrite
  refine (ownPlaces_canon h).bind fun ⟨_, _⟩ h3 => ?_
  refine (ownAsk_canon h3).bind fun ⟨_, _⟩ h5 => ?_
  dsimp -zeta -zetaHave only
  extract_lets +onlyGivenNames ws
  split
  · exact .error trivial
  · exact .pure h5.clearLost.storeAll.dieMet

theorem ownRead_canon {s : State} {massif c spur va n} (h : s.Canon) :
    Leads (fun _ => True) (fun r => r.1.Canon) (ownRead s massif c spur va n) := by
  unfold ownRead
  refine (ownPlaces_canon h).bind fun ⟨_, _⟩ h3 => ?_
  refine (ownAsk_canon h3).bind fun ⟨_, _⟩ h5 => ?_
  dsimp -zeta -zetaHave only
  split
  · exact .error trivial
  · exact .pure h5.dieMet

/-! ## Copy engines -/

theorem State.Canon.setJob {s : State} {j} (h : s.Canon) : (s.setJob j).Canon :=
  ⟨h.mem, h.host⟩

theorem State.Canon.modJob {s : State} {id f} (h : s.Canon) : (s.modJob id f).Canon :=
  ⟨h.mem, h.host⟩

theorem itemErr_canon {s : State} {dest va a} (h : s.Canon) : ItemErr.Canon (itemErr s dest va a) := by
  unfold itemErr
  split
  · exact .waits h
  · exact .fault
  · exact .fault
  · exact .fault
  · exact .fail
  · exact .fail

theorem jobPieces_canon {s : State} {j acc a} (h : s.Canon) : Leads ItemErr.Canon (fun r => r.1.Canon) (jobPieces s j acc a) := by
  induction a generalizing s with
  | nil => exact .ok h
  | cons x l ih =>
    unfold jobPieces
    split
    · exact .error .fail
    · split
      · exact .error (itemErr_canon h)
      next _ s1 p leaf he =>
        have h1 : s1.Canon := (xlate_canon h).of_ok he
        split
        next _ pa =>
          have h2 : s1.Canon := (xlate_canon h).of_ok he
          split
          · exact .error (.waits h)
          · exact (ih h2).bind fun ⟨_, _⟩ h3 => .pure h3
        · split
          · exact .error (.waits h)
          · exact (ih h1).bind fun ⟨_, _⟩ h4 => .pure h4

theorem itemAnswers_canon {dest rs got} : Leads ItemErr.Canon (fun _ => True) (itemAnswers dest rs got) := by
  unfold itemAnswers
  split
  · exact .error .fail
  · exact .ok trivial

theorem jobRemote_canon {s : State} {j item dest rs} (h : s.Canon) :
    Leads ItemErr.Canon (fun _ => True) (jobRemote s j item dest rs) := by
  unfold jobRemote
  split
  · exact .ok trivial
  · split
    · extract_lets +onlyGivenNames got
      split
      · exact .error (.waits h)
      · exact itemAnswers_canon
    · split
      · exact .error .fail
      · exact .error (.waits h.send.modJob)

theorem readErr_canon {s runs ps z} (hz : readErr s runs ps = some z) : z.Canon := by
  refine findSome_keeps hz fun p z hp => ?_
  split at hp
  · obtain ⟨_, -, rfl⟩ := Option.map_eq_some_iff.1 hp
    exact .fail
  · cases hp

theorem srcPieces_canon {s : State} {j l} (h : s.Canon) : Leads ItemErr.Canon (fun r => r.1.Canon) (srcPieces s j l) := by
  induction l generalizing s with
  | nil => exact .ok h
  | cons r t ih =>
    obtain ⟨a, n⟩ := r
    match a with
    | none => exact (ih h).bind fun ⟨_, _⟩ h1 => .pure h1
    | some (.scr tid off) =>
      unfold srcPieces
      split
      · exact .error .fail
      · exact (ih h).bind fun ⟨_, _⟩ h1 => .pure h1
    | some (.glob va) => exact (jobPieces_canon h).bind fun ⟨_, _⟩ h1 => (ih h1).bind fun ⟨_, _⟩ h2 => .pure h2

theorem Job_failAt_canon {j item cause} : ItemErr.Canon (Job.failAt j item cause) :=
  .fail

theorem State.Canon.engineMeets {s : State} {ctx ps} (h : s.Canon) : (s.engineMeets ctx ps).Canon :=
  h.landLate.dieMet

theorem itemRead_canon {s : State} {j item} (h : s.Canon) : Leads ItemErr.Canon (fun r => r.1.Canon) (itemRead s j item) := by
  unfold itemRead
  split
  · extract_lets +onlyGivenNames rs
    split
    · exact .error Job_failAt_canon
    · refine (srcPieces_canon h).bind fun ⟨_, _⟩ h1 => ?_
      dsimp -zeta -zetaHave only
      extract_lets +onlyGivenNames qs left
      split
      next _ e he =>
        have h2 : ItemErr.Canon e := readErr_canon he
        exact .error h2
      · extract_lets +onlyGivenNames now s2 got s3
        have h2 : s2.Canon := h1.engineMeets
        have h3 : s3.Canon := h2.modJob
        refine (jobRemote_canon h3).bind fun _ _ => ?_
        extract_lets +onlyGivenNames full
        split
        · exact .error (.waits h3)
        · exact .pure h3

theorem State.Canon.present {s : State} {id item tid line} (h : s.Canon) : (s.present id item tid line).Canon := by
  unfold State.present
  extract_lets +onlyGivenNames writes
  split
  · exact h
  · exact h.modTeam

theorem State.Canon.copyStores {s0 : State} {j ws} (h : s0.Canon) : (s0.copyStores j ws).Canon := by
  unfold State.copyStores
  extract_lets +onlyGivenNames s
  have h1 : s.Canon := h.landLate
  split
  · exact ⟨h1.mem, h1.host⟩
  · exact h1.clearLost.storeAll

theorem itemWrite_canon {s : State} {j item bs} (h : s.Canon) :
    Leads ItemErr.Canon (fun r => r.1.Canon) (itemWrite s j item bs) := by
  unfold itemWrite
  split
  · split
    · extract_lets +onlyGivenNames tid
      split
      · exact .error .fail
      · exact .ok h.scrStore.present
    · exact .ok h.modTeam
    · refine (jobPieces_canon h).bind fun ⟨_, _⟩ h1 => ?_
      dsimp -zeta -zetaHave only
      split
      · exact .error .fail
      · extract_lets +onlyGivenNames all
        split
        · exact .error .fail
        · extract_lets +onlyGivenNames rs
          refine (jobRemote_canon h1).bind fun _ _ => ?_
          extract_lets +onlyGivenNames left now s2
          have h2 : s2.Canon := h1.copyStores.dieMet
          split
          · exact .pure h2
          · exact .pure h2.modJob

theorem State.Canon.handleTo {s : State} {tid x f err} (h : s.Canon) : (s.handleTo tid x f err).Canon := by
  unfold State.handleTo
  split
  · exact h
  · exact h.bufOp

theorem State.Canon.wakeCopy {s : State} {j f} (h : s.Canon) : (s.wakeCopy j f).Canon := by
  unfold State.wakeCopy
  split
  · exact h
  · exact h
  · exact ⟨h.mem, h.host⟩

theorem State.Canon.release {s : State} {j} (h : s.Canon) : (s.release j).Canon := by
  unfold State.release
  extract_lets +onlyGivenNames w s1
  have h1 : s1.Canon := h.modJob.wakeCopy
  split
  · exact h1.handleTo
  · exact h1

theorem State.Canon.finish {s : State} {j} (h : s.Canon) : (s.finish j).Canon := by
  unfold State.finish
  extract_lets +onlyGivenNames s1 s2 s3
  have h1 : s1.Canon := by
    unfold s1
    split
    · exact h
    · exact h.release
  have h2 : s2.Canon := by
    unfold s2
    split
    · split
      · exact h1.foldl fun _ _ h3 => h3.handleTo
      · exact h1
    · split
      · exact h1.handleTo
      · exact h1
  have h3 : s3.Canon := by
    unfold s3
    split
    · exact h2
    · exact h2.modTeam
  exact State.Canon.reap (h3.wakeCopy.of_eq rfl rfl)

theorem State.Canon.settleJob {s : State} {id} (h : s.Canon) : (s.settleJob id).Canon := by
  unfold State.settleJob
  split
  · exact h
  · extract_lets +onlyGivenNames s1
    have h1 : s1.Canon := by
      unfold s1
      split
      · exact h.release
      · exact h
    split
    · exact h1.finish
    · exact h1

theorem State.Canon.itemDone {s : State} {j item failed} (h : s.Canon) : (s.itemDone j item failed).Canon := by
  unfold State.itemDone
  extract_lets +onlyGivenNames s1 s2
  have h1 : s1.Canon := h.modJob
  have h2 : s2.Canon := by
    unfold s2
    refine h1.foldl fun _ _ h7 => ?_
    split
    · exact h7.barPut
    · exact h7
  exact h2.settleJob

theorem State.Canon.jobFails {s : State} {j} (h : s.Canon) : (s.jobFails j).Canon :=
  h.modGrid

theorem State.Canon.itemHeld {s : State} {j item cause va} (h : s.Canon) : (s.itemHeld j item cause va).Canon := by
  unfold State.itemHeld
  split
  · exact h.modJob
  · split
    · exact h.tqPost.modJob
    · exact h

theorem State.Canon.landZeros {s : State} {j item gaveUp} (h : s.Canon) : (s.landZeros j item gaveUp).Canon := by
  unfold State.landZeros
  split
  · exact h.itemDone
  · split
    · exact h
    · split
      next he => exact State.Canon.itemDone ((itemWrite_canon h).of_ok he)
      next he => exact (itemWrite_canon h).of_ok he
      next he => exact ((itemWrite_canon h).of_error he).of_waits rfl
      · split
        · exact h.itemDone
        · exact h.itemHeld
      · exact h.itemDone

theorem State.Canon.itemFailed {s : State} {j item r} (h : s.Canon) : (s.itemFailed j item r).Canon := by
  unfold State.itemFailed
  extract_lets +onlyGivenNames s1 zeros f
  have h1 : s1.Canon := by
    unfold s1
    split
    · exact h.tqPost
    · exact h
  exact h1.jobFails.modJob.landZeros

theorem execCopyJobStart_canon {job} {s : State} (h : s.Canon) : OutCanon (execCopyJobStart job s) := by
  unfold execCopyJobStart
  refine .next ?_
  split
  · exact h
  · split
    · exact h
    · exact h.setJob

theorem State.Canon.itemStop {s : State} {j item} {e : ItemErr} (h : s.Canon) (he : e.Canon) : (s.itemStop j item e).Canon := by
  unfold State.itemStop
  cases e with
  | waits s' =>
    cases he
    assumption
  | fail dest cause va pa =>
    dsimp only
    split
    · exact h.itemFailed
    · exact h
  | fault cause va => exact h.itemHeld

theorem landItem_canon {s : State} {j item bs} (h : s.Canon) : (landItem s j item bs).Canon := by
  unfold landItem
  split
  · exact h
  · split
    next _ e he =>
      have h1 : ItemErr.Canon e := (itemWrite_canon h).of_error he
      exact h.itemStop h1
    next _ s1 he =>
      have h2 : s1.Canon := (itemWrite_canon h).of_ok he
      exact h2.itemDone.count
    next _ s1 he =>
      have h3 : s1.Canon := (itemWrite_canon h).of_ok he
      exact h3

theorem serveItem_canon {s : State} {j item} (h : s.Canon) : (serveItem s j item).Canon := by
  unfold serveItem
  split
  · split
    · exact h.landZeros
    · exact landItem_canon h
  · split
    next _ e he =>
      have h1 : ItemErr.Canon e := (itemRead_canon h).of_error he
      exact h.itemStop h1
    next _ s1 bs he =>
      have h2 : s1.Canon := (itemRead_canon h).of_ok he
      extract_lets +onlyGivenNames w s2
      have h2 : s2.Canon := h2.modJob.settleJob
      split
      · exact h2
      · exact landItem_canon h2

theorem execCopyItem_canon {job item} {s : State} (h : s.Canon) : OutCanon (execCopyItem job item s) := by
  unfold execCopyItem
  refine .next ?_
  split
  · exact h
  · split
    · exact h
    · split
      · split
        · exact h.itemStop .fail
        · split
          · exact h.landZeros
          · exact h
      · split
        · exact h
        · exact serveItem_canon h

theorem State.Canon.spillAnswered {s : State} {key st} (h : s.Canon) : (s.spillAnswered key st).Canon := by
  unfold State.spillAnswered
  extract_lets +onlyGivenNames q
  split
  · exact h
  · exact h.gridDies

theorem State.Canon.answer {s : State} {tag st data} (h : s.Canon) : (s.answer tag st data).Canon := by
  unfold State.answer
  split
  · exact h
  · extract_lets +onlyGivenNames s1
    have h1 : s1.Canon := h.dropRemote
    split
    · split
      · exact h1.spillAnswered
      · split
        · exact h1.answerAsk
        · exact h1
    · exact h1.modJob
    · exact h1.modGroup

theorem execMemReply_canon {tag st data} {s : State} (h : s.Canon) : OutCanon (execMemReply tag st data s) := by
  unfold execMemReply
  refine .next ?_
  split
  · exact h.answer
  · exact h

theorem State.Canon.loseReply {s : State} {tag host bound} (h : s.Canon) : (s.loseReply tag host bound).Canon := by
  unfold State.loseReply
  split
  · exact h
  · split
    · exact h.answer
    · exact h

theorem execHostTimeout_canon {tag} {s : State} (h : s.Canon) : OutCanon (execHostTimeout tag s) :=
  .next h.loseReply

theorem execPeerTimeout_canon {tag} {s : State} (h : s.Canon) : OutCanon (execPeerTimeout tag s) :=
  .next h.loseReply

/-! ## Barrier instructions -/

theorem barPlace_canon {s : State} {e ga} (h : s.Canon) : Leads Stop.Canon (fun _ => True) (barPlace s e ga) := by
  unfold barPlace
  split
  · exact trapWith_canon
  · split
    · split
      · exact trapWith_canon
      · split
        · exact trapWith_canon
        · exact (checkPresent_canon h).bind fun _ _ => .ok trivial
    · exact trapWith_canon

theorem barOp_canon {s : State} {e arrival ga f put} (h : s.Canon) :
    Leads Stop.Canon State.Canon (barOp s e arrival ga f put) := by
  unfold barOp
  refine (barPlace_canon h).bind fun ⟨_, _⟩ _ => ?_
  refine logged_canon h fun _ h3 => .ok (State.Canon.barPut ?_)
  split
  · exact h3.landOf
  · exact h3

theorem execBinit_canon {g a b} {s : State} (h : s.Canon) : OutCanon (execBinit g a b s) := by
  unfold execBinit
  exact h.uniform fun _ => (barPlace_canon h).bind fun ⟨_, _⟩ _ => .ok h.barPut.retire

theorem execBarr_canon {g d a} {s : State} (h : s.Canon) : OutCanon (execBarr g d a s) :=
  h.uniform fun _ => barOp_canon h

theorem execBarrn_canon {g d a b} {s : State} (h : s.Canon) : OutCanon (execBarrn g d a b s) :=
  h.uniform fun _ => barOp_canon h

theorem execBxpct_canon {g a b} {s : State} (h : s.Canon) : OutCanon (execBxpct g a b s) :=
  h.uniform fun _ => barOp_canon h

theorem boundedEnd_canon {s : State} {e d v r} (h : s.Canon) : (boundedEnd s e d v r).Canon :=
  h.sampleClose.retire

theorem execBwait_canon {g d a b} {s : State} (h : s.Canon) : OutCanon (execBwait g d a b s) := by
  unfold execBwait
  refine h.uniform fun _ => ?_
  split
  · exact (sampleOpen_canon h).bind fun _ _ => .ok (boundedEnd_canon h)
  · refine (barPlace_canon h).bind fun ⟨_, _⟩ _ => ?_
    dsimp -zeta -zetaHave only
    extract_lets +onlyGivenNames k o
    split
    · split
      · exact .error (.park h)
      · split
        · exact .ok (boundedEnd_canon h)
        · exact .error (.park h)
    · refine (sampleOpen_canon h).bind fun _ _ => ?_
      split
      · split
        · exact .ok (boundedEnd_canon h)
        · split
          · exact .ok (boundedEnd_canon h)
          · exact .error (.park h)
      · extract_lets +onlyGivenNames fin
        split
        · exact .ok (boundedEnd_canon h)
        · split
          · exact .ok (boundedEnd_canon h)
          · exact .error (.park h)

theorem State.Canon.boundPassed {s : State} {gid op q fin} (h : s.Canon) : (s.boundPassed gid op q fin).Canon := by
  unfold State.boundPassed
  split
  · split
    · exact h
    · exact boundedEnd_canon h
  · exact h

theorem execBwaitTimeout_canon {gid} {s : State} (h : s.Canon) : OutCanon (execBwaitTimeout gid s) := by
  unfold execBwaitTimeout
  refine .next ?_
  split
  · split
    · exact h.boundPassed
    · exact h
  · exact h

/-! ## Saving of teams -/

theorem ownWrites_canon {s : State} {massif c spur a} (h : s.Canon) :
    Leads (fun _ => True) State.Canon (ownWrites s massif c spur a) := by
  induction a generalizing s with
  | nil => exact .ok h
  | cons x l ih =>
    unfold ownWrites
    exact (ownWrite_canon h).bind fun _ h1 => ih h1

theorem State.Canon.unsave {s : State} {t} (h : s.Canon) : (s.unsave t).Canon := by
  unfold State.unsave
  split
  · split
    next _ s1 he =>
      have h1 : s1.Canon := (ownWrites_canon h).of_ok he
      exact h1
    · exact h
  · exact h

theorem State.Canon.saveFailed {s : State} {t a} (h : s.Canon) : (s.saveFailed t a).Canon := by
  unfold State.saveFailed
  split
  · split
    · exact h
    · split
      · exact h.tqPost
      · exact h
  · exact h.postFatal.teamKilled.unsave
  · exact h.ask
  · exact h

theorem State.Canon.savePages {s : State} {t sp acc ob} (h : s.Canon) :
    Leads (fun _ => True) State.Canon (s.savePages t sp acc ob) :=
  (ownWrites_canon h).bind fun _ h1 => .pure h1.modTeam

theorem State.Canon.saveAll {s : State} {t} (h : s.Canon) : Leads (fun _ => True) State.Canon (s.saveAll t) := by
  unfold State.saveAll
  split
  · exact .ok h
  · exact h.savePages

theorem State.Canon.writeSave {s : State} {t gr} (h : s.Canon) : Leads (fun _ => True) State.Canon (s.writeSave t gr) := by
  unfold State.writeSave
  extract_lets +onlyGivenNames _ _ f
  have h3 : ∀ x0, x0.Canon → Leads (fun _ => True) State.Canon (f x0) := fun _ h2 => ownWrites_canon h2.setTeam
  split
  · exact h.saveAll.bind fun _ h4 => h3 _ h4
  · exact Leads.bind (.pure h) fun _ h5 => h3 _ h5

theorem State.Canon.saveTry {s : State} {tid} (h : s.Canon) : (s.saveTry tid).Canon := by
  unfold State.saveTry
  split
  · exact h
  · split
    · exact h
    · split
      · exact h
      · split
        · exact h.saveFailed
        next _ s1 he =>
          have h1 : s1.Canon := h.withAsks.writeSave.of_ok he
          exact h1.doneAsks.leaveFusion.clearRequest

theorem State.Canon.resumeTry {s : State} {tid} (h : s.Canon) : (s.resumeTry tid).Canon := by
  unfold State.resumeTry
  split
  · exact h
  · split
    · extract_lets +onlyGivenNames s1
      have h1 : s1.Canon := h.setTeam
      refine State.Canon.cutTry ?_
      split
      · exact h1.stopTeam
      · exact h1
    · exact h

theorem State.Canon.groupGone {s : State} {tid} (h : s.Canon) : (s.groupGone tid).Canon :=
  h.saveTry.resumeTry

/-! ## Shape records -/

theorem recordAt_canon {s : State} {e a n} (h : s.Canon) : Leads Stop.Canon (fun r => r.1.Canon) (recordAt s e a n) := by
  unfold recordAt
  extract_lets +onlyGivenNames ga
  split
  · exact trapWith_canon
  · split
    · exact trapWith_canon
    · exact detBan_canon.bind fun _ _ => (loadLanes_canon h).bind fun ⟨_, _⟩ h1 => .pure h1

theorem execShnew_canon {g d a} {s : State} (h : s.Canon) : OutCanon (execShnew g d a s) := by
  unfold execShnew
  refine h.uniform fun _ => (recordAt_canon h).bind fun ⟨_, _⟩ h2 => ?_
  dsimp -zeta -zetaHave only
  split
  · exact trapWith_canon
  · refine (sampleOpen_canon h2).bind fun _ _ => ?_
    split
    · exact sampledOp_canon h2
    · exact sampledOp_canon h2.modCtx

theorem execShfree_canon {g a} {s : State} (h : s.Canon) : OutCanon (execShfree g a s) := by
  unfold execShfree
  refine h.uniform fun _ => ?_
  extract_lets +onlyGivenNames w
  split
  · exact trapWith_canon
  · split
    · exact .ok h.modCtx.retire
    · exact trapWith_canon

/-! ## The spur unit -/

theorem State.Canon.setLink {s : State} {c slot f} (h : s.Canon) : (s.setLink c slot f).Canon :=
  h.modCtx

theorem State.Canon.putSpur {s : State} {x slot off n v} (h : s.Canon) : (s.putSpur x slot off n v).Canon := by
  unfold State.putSpur
  split
  · exact h
  · exact h.writeOwn

theorem State.Canon.setSpur {s : State} {c slot st} (h : s.Canon) : (s.setSpur c slot st).Canon :=
  h.modCtx

theorem State.Canon.addBusy {s : State} {c n k} (h : s.Canon) : (s.addBusy c n k).Canon :=
  h.putSpur

theorem State.Canon.subBusy {s : State} {c n} (h : s.Canon) : (s.subBusy c n).Canon := by
  unfold State.subBusy
  extract_lets +onlyGivenNames x
  split
  · exact h.putSpur
  · exact h

theorem makeSpur_canon {s : State} {c p k list es} (h : s.Canon) : (makeSpur s c p k list es).1.Canon := by
  unfold makeSpur
  dsimp only
  exact ((((((((h.zeroPage.writeOwn.foldl fun _ _ h4 =>
      h4.setRef).setRef).writeOwn).putSpur).putSpur).setLink).setLink).modCtx).setSpur

theorem forkSpur_canon {s0 : State} {c p} (h : s0.Canon) : Leads Stop.Canon (fun r => r.1.Canon) (forkSpur s0 c p) := by
  unfold forkSpur
  extract_lets +onlyGivenNames s x
  have h1 : s.Canon := h.landLate
  split
  · exact .ok h1
  · split
    · exact trapWith_canon
    · split
      · exact .ok h1
      · split
        · exact .ok h1
        next _ q s1 he =>
          have h2 : s1.Canon := h1.poolPop he
          extract_lets +onlyGivenNames es
          split
          · exact .error .trap
          · exact .ok ((makeSpur_canon h2).foldl fun _ _ h3 => h3.runL2)

theorem spurCheck_canon {e n ban} : Leads Stop.Canon (fun _ => True) (spurCheck e n ban) := by
  unfold spurCheck
  extract_lets +onlyGivenNames rest
  have h1 : ∀ x0, Leads Stop.Canon (fun _ => True) (rest x0) := by
    intro _
    unfold rest
    split
    · exact trapWith_canon
    · exact .ok trivial
  split
  · exact detBan_canon.bind fun _ _ => h1 ()
  · exact Leads.bind (A := (fun _ => True)) (.ok trivial) fun _ _ => h1 ()

theorem execSpurFork_canon {g d a} {s : State} (h : s.Canon) : OutCanon (execSpurFork g d a s) := by
  unfold execSpurFork
  exact h.uniform fun _ => spurCheck_canon.bind fun _ _ => (sampleOpen_canon h).bind fun _ _ => (forkSpur_canon h).bind
      fun ⟨_, _⟩ h2 => sampledOp_canon h2

theorem execSpurJoin_canon {g d a b} {s : State} (h : s.Canon) : OutCanon (execSpurJoin g d a b s) := by
  unfold execSpurJoin
  refine h.uniform fun _ => spurCheck_canon.bind fun _ _ => ?_
  extract_lets +onlyGivenNames fin done
  refine (sampleOpen_canon h).bind fun _ _ => ?_
  split
  · split
    · exact .ok (boundedEnd_canon h)
    · split
      · exact .ok (boundedEnd_canon h)
      · exact .error (.park h)
  · split
    · exact .ok (boundedEnd_canon h)
    · clear_value fin
      split
      · exact .error (.park h)
      · split
        · exact .ok (boundedEnd_canon h)
        · exact .error (.park h)

theorem execJoinTimeout_canon {gid} {s : State} (h : s.Canon) : OutCanon (execJoinTimeout gid s) := by
  unfold execJoinTimeout
  refine .next ?_
  split
  · split
    · exact h
    · exact h.boundPassed
  · exact h

theorem execSpurQ_canon {g d a} {s : State} (h : s.Canon) : OutCanon (execSpurQ g d a s) := by
  unfold execSpurQ
  refine h.uniform fun _ => spurCheck_canon.bind fun _ _ => ?_
  refine (sampleOpen_canon h).bind fun _ _ => ?_
  extract_lets +onlyGivenNames n v s1
  have h1 : s1.Canon := by
    unfold s1
    split
    · exact h.runL2
    · exact h
  exact .ok h1.sampleClose.retire

theorem State.Canon.cancelGrid {s : State} {g} (h : s.Canon) : (s.cancelGrid g).Canon := by
  unfold State.cancelGrid
  exact State.Canon.modGrid (State.Canon.forgetAsk (State.Canon.foldl ⟨h.mem, h.host⟩ fun _ _ h2 => h2.teamKilled.unsave))

theorem State.Canon.cancelPending {s : State} {c ns} (h : s.Canon) : (s.cancelPending c ns).Canon := by
  unfold State.cancelPending
  exact State.Canon.foldl ⟨h.mem, h.host⟩ fun _ _ h2 => State.Canon.modCtx ⟨h2.mem, h2.host⟩

theorem State.Canon.stopSpurs {s : State} {c ns later} (h : s.Canon) : (s.stopSpurs c ns later).Canon :=
  h.cancelPending.foldl fun _ _ h1 => h1.cancelGrid

theorem State.Canon.markSpurs {s : State} {c n} (h : s.Canon) : (s.markSpurs c n).1.Canon :=
  h.foldl fun _ _ h1 => h1.putSpur.setSpur

theorem execSpurCancel_canon {g d a} {s : State} (h : s.Canon) : OutCanon (execSpurCancel g d a s) := by
  unfold execSpurCancel
  refine h.uniform fun _ => spurCheck_canon.bind fun _ _ => ?_
  extract_lets +onlyGivenNames put s0 rest
  have hrest : ∀ u, Leads Stop.Canon State.Canon (rest u) := by
    intro _
    unfold rest
    refine (sampleOpen_canon h).bind fun _ _ => ?_
    dsimp only
    split
    · exact sampledOp_canon h.landOf
    · split
      · split
        next he => exact .ok (State.Canon.cancelGrid ((sampledOp_canon h.landOf.markSpurs.stopSpurs).of_ok he))
        next he =>
          have h2 := ((sampledOp_canon h.landOf.markSpurs.stopSpurs).of_error he).of_trapAfter rfl
          exact .ok (State.Canon.cancelGrid ⟨h2.mem, h2.host⟩)
        next he => exact .error ((sampledOp_canon h.landOf.markSpurs.stopSpurs).of_error he)
      · exact sampledOp_canon h.landOf.markSpurs.stopSpurs
  split
  · exact .error .trap
  · exact hrest ()

theorem State.Canon.freePage {s : State} {c page} (h : s.Canon) : (s.freePage c page).Canon := by
  unfold State.freePage
  split
  · exact h.poolPushPage
  · exact h

theorem State.Canon.releaseList {s : State} {c slot} (h : s.Canon) : (s.releaseList c slot).Canon := by
  unfold State.releaseList
  extract_lets +onlyGivenNames x len es s1 list
  have h1 : s1.Canon := by
    unfold s1
    refine h.runL2.foldl fun _ _ h6 => ?_
    extract_lets +onlyGivenNames k b
    have h7 : b.Canon := h6.setRef
    split
    · exact h7.freePage
    · exact h7
  exact h1.setRef.freePage

theorem State.Canon.unlinkSpur {s : State} {c n} (h : s.Canon) : (s.unlinkSpur c n).Canon := by
  unfold State.unlinkSpur
  extract_lets +onlyGivenNames x p next s1
  have h1 : s1.Canon := by
    unfold s1
    split
    · exact h.putSpur.setLink
    · split
      · exact h.putSpur.setLink
      · exact h
  exact h1.putSpur.modCtx

theorem execSpurReclaimDone_canon {ctx slot} {s : State} (h : s.Canon) : OutCanon (execSpurReclaimDone ctx slot s) := by
  unfold execSpurReclaimDone
  extract_lets +onlyGivenNames x n
  refine .next ?_
  split
  · exact h.releaseList.unlinkSpur.putSpur.setSpur.modCtx
  · exact h

/-! ## What a grid does after its teams -/

theorem State.Canon.unstage {s : State} {g r} (h : s.Canon) : (s.unstage g r).Canon :=
  h.modGrid.reap

theorem readStaged_canon {s : State} {g r} (h : s.Canon) : Leads (fun _ => True) (fun r => r.1.Canon) (readStaged s g r) := by
  unfold readStaged
  split
  · exact .ok h
  · exact (ownRead_canon h).bind fun ⟨_, _⟩ h1 => .pure h1

theorem applyRed_canon {s : State} {g r} (h : s.Canon) : Leads (fun _ => True) (fun r => r.1.Canon) (applyRed s g r) := by
  unfold applyRed
  extract_lets +onlyGivenNames n va
  refine (ownPlaces_canon h).bind fun ⟨_, _⟩ h3 => ?_
  dsimp -zeta -zetaHave only
  split
  · extract_lets +onlyGivenNames q
    split
    · exact .error trivial
    · exact .pure ⟨h3.mem, h3.host⟩
  · split
    · exact .pure h3
    · extract_lets +onlyGivenNames s2 s3
      have h2 : s2.Canon := h3.landLate
      have h3 : s3.Canon := h2.storeRun
      refine .pure ?_
      dsimp -zeta -zetaHave only
      split
      · exact h3.atController
      · exact h3.ctxL2
  · exact .pure h3

theorem releaseCopy_canon {s : State} {g r} (h : s.Canon) : (releaseCopy s g r).Canon :=
  ⟨h.mem, h.host⟩

theorem applyStore_canon {s : State} {g r} (h : s.Canon) : Leads (fun _ => True) State.Canon (applyStore s g r) := by
  unfold applyStore
  split
  · exact .ok (releaseCopy_canon h)
  · exact ownWrite_canon h

theorem State.Canon.gridWaits {s : State} {g r p} (h : s.Canon) : (s.gridWaits g r p).Canon := by
  unfold State.gridWaits
  extract_lets +onlyGivenNames pos
  split
  · exact h.tqPost.modGrid
  · exact h

theorem State.Canon.readFails {s : State} {g r a} (h : s.Canon) : (s.readFails g r a).Canon := by
  unfold State.readFails
  split
  · exact h.gridWaits
  · exact h.gridDies
  · exact h.ask
  · exact h

theorem State.Canon.stagedLost {s : State} {g r q f} (h : s.Canon) : (s.stagedLost g r q f).Canon :=
  h.tqPost.unstage

theorem State.Canon.contribute {s : State} {g die q} (h : s.Canon) : (s.contribute g die q).Canon := by
  unfold State.contribute
  extract_lets +onlyGivenNames key line
  split
  · exact h
  · exact State.Canon.ask ⟨h.mem, h.host⟩

theorem State.Canon.applyFails {s : State} {g r q a} (h : s.Canon) : (s.applyFails g r q a).Canon := by
  unfold State.applyFails
  split
  · exact h.gridWaits
  · split
    · exact h.stagedLost.doneAsks
    · exact h
  · split
    · exact h.contribute
    · exact h.ask
  · exact h

theorem State.Canon.releaseStaged {s : State} {g r} (h : s.Canon) : (s.releaseStaged g r).Canon := by
  unfold State.releaseStaged
  split
  · exact h.readFails
  next _ s1 q he =>
    have h1 : s1.Canon := (readStaged_canon h.withAsks).of_ok he
    split
    · exact h.applyFails
    next _ s11 he1 =>
      have h2 : s11.Canon := (applyStore_canon h1).of_ok he1
      exact h2.doneAsks.unstage

theorem State.Canon.dropAnswers {s : State} {key n left} (h : s.Canon) : (s.dropAnswers key n left).Canon := by
  unfold State.dropAnswers
  split
  · exact h
  · exact ⟨h.mem, h.host⟩

theorem State.Canon.readBack {s : State} {g r q} (h : s.Canon) : (s.readBack g r q).Canon :=
  h.modGrid

theorem drainTeam_canon {gone c serial team n} {a b : State} (ha : a.Canon) (hb : b.Canon) :
    (drainTeam gone c serial team n a b).Canon := by
  induction n generalizing a b with
  | zero => exact hb
  | succ n ih =>
    unfold drainTeam
    split
    · exact hb
    · split
      · exact ha.doneAsks.modGrid
      · extract_lets used lost dies
        have hused : ∀ a2, (used a2).Canon := fun _ => hb.dropAnswers
        have hlost : ∀ a2 x, a2.Canon → (lost a2 x).Canon := by
          intro a2 x h2
          unfold lost
          split
          · exact ih h2.stagedLost (hused a2).stagedLost
          · exact hb
        have hdies : ∀ cause, (dies cause).Canon := fun _ => ha.doneAsks.gridDies
        split
        · split
          · exact hdies _
          · exact hdies _
          · exact hb.readFails
          next a1 q he =>
            have h1 : a1.Canon := (readStaged_canon ha).of_ok he
            exact ih h1.readBack (hused a1).readBack
        · split
          · exact hlost _ _ ha
          · exact hb.applyFails
          next a2 x he => exact hlost _ _ ((applyRed_canon ha).of_ok he)
          next a2 he =>
            have h2 : a2.Canon := (applyRed_canon ha).of_ok he
            exact ih h2.unstage hb

theorem State.Canon.readLost {s : State} {g cause} (h : s.Canon) : (s.readLost g cause).Canon := by
  unfold State.readLost
  split
  · exact h.gridDies
  · exact drainTeam_canon h.withAsks h

theorem execReductionDrain_canon {ctx serial} {s : State} (h : s.Canon) : OutCanon (execReductionDrain ctx serial s) := by
  unfold execReductionDrain
  refine .next ?_
  split
  · exact h
  · split
    · exact h
    · exact drainTeam_canon h.withAsks h

theorem execTicketPass_canon {ctx serial} {s : State} (h : s.Canon) : OutCanon (execTicketPass ctx serial s) := by
  unfold execTicketPass
  refine .next ?_
  split
  · exact h
  · split
    · exact h
    · split
      · exact h.releaseStaged
      · exact h

theorem State.Canon.gridGone {s : State} {g} (h : s.Canon) : (s.gridGone g).Canon := by
  unfold State.gridGone
  extract_lets +onlyGivenNames s1
  have h1 : s1.Canon := by
    unfold s1
    split
    · exact h.subBusy
    · exact h
  exact ⟨h1.mem, h1.host⟩

theorem remoteCounter_canon {s : State} {q a x} (h : s.Canon) : Leads (fun _ => True) State.Canon (remoteCounter s q a x) := by
  induction a generalizing s x with
  | zero => exact .ok h
  | succ n ih =>
    unfold remoteCounter
    refine (ownAsk_canon h).bind fun ⟨_, _⟩ h1 => ?_
    dsimp -zeta -zetaHave only
    extract_lets +onlyGivenNames seen
    split
    · exact .pure h1
    · exact ih h1

theorem updateCounter_canon {s : State} {g} (h : s.Canon) : Leads (fun _ => True) State.Canon (updateCounter s g) := by
  unfold updateCounter
  extract_lets +onlyGivenNames va
  refine (ownPlaces_canon h).bind fun ⟨_, _⟩ h3 => ?_
  dsimp -zeta -zetaHave only
  split
  · exact remoteCounter_canon h3
  · split
    · exact .error trivial
    · exact .pure h3.storeRun.ctxL2
  · exact .pure h3

theorem State.Canon.counterLost {s : State} {g cause pa} (h : s.Canon) : (s.counterLost g cause pa).Canon := by
  unfold State.counterLost
  split
  · exact h.tqPost.doneAsks.gridGone
  · exact h

theorem State.Canon.clearHeaders {s : State} {g} (h : s.Canon) : (s.clearHeaders g).Canon := by
  unfold State.clearHeaders
  extract_lets +onlyGivenNames key cleared
  have h3 : ∀ x0, x0.Canon → (cleared x0).Canon := fun _ h2 => h2.doneAsks.modGrid
  split
  next _ s1 he =>
    have h5 : s1.Canon := (leads_foldlM h.withAsks fun _ _ h4 => ownWrites_canon h4).of_ok he
    exact h3 _ h5
  · exact h.ask
  · exact h
  · exact h3 _ h

theorem State.Canon.gridTry {s : State} {ctx serial} (h : s.Canon) : (s.gridTry ctx serial).Canon := by
  unfold State.gridTry
  split
  · exact h
  · split
    · exact h
    · split
      · exact h.clearHeaders
      · split
        · exact h.counterLost
        · split
          · exact h.gridGone
          · split
            next _ s1 he =>
              have h1 : s1.Canon := (updateCounter_canon h.withAsks).of_ok he
              exact h1.doneAsks.gridGone
            · exact h.gridWaits
            · exact h.counterLost
            · exact h.ask
            · exact h

theorem execGridComplete_canon {ctx serial} {s : State} (h : s.Canon) : OutCanon (execGridComplete ctx serial s) :=
  .next h.gridTry

/-! ## Where teams fit -/

theorem State.Canon.takeCore {s : State} {tid inPlace} (h : s.Canon) : (s.takeCore tid inPlace).Canon := by
  unfold State.takeCore
  split
  · exact h
  · exact h.setTeam

theorem State.Canon.coverSaved {s : State} {after column layer} (h : s.Canon) :
    Leads State.Canon State.Canon (s.coverSaved after column layer) := by
  unfold State.coverSaved
  extract_lets +onlyGivenNames ts
  refine leads_foldlM h fun _ _ h3 => ?_
  extract_lets +onlyGivenNames sp acc ob
  split
  · exact .ok h3
  · split
    next _ s1 he =>
      have h4 : s1.Canon := h3.withAsks.savePages.of_ok he
      exact .ok h4.doneAsks
    · exact .error h3.saveFailed

/-! ## Launching and waiting -/

theorem launchAddr_canon {ga} : Leads Stop.Canon (fun _ => True) (launchAddr ga) := by
  unfold launchAddr
  split
  · exact trapWith_canon
  · split
    · exact trapWith_canon
    · exact .ok trivial

theorem launchEnter_canon {s : State} {e ga} (h : s.Canon) : Leads Stop.Canon State.Canon (launchEnter s e ga) := by
  unfold launchEnter
  refine (loadLanes_canon h.landOf).bind fun ⟨s1, _⟩ h1 => ?_
  dsimp -zeta -zetaHave only
  extract_lets bs q n s2
  have h2 : s2.Canon := by
    unfold s2
    split
    · exact h1.addBusy
    · exact h1
  exact .pure ⟨h2.mem, h2.host⟩

theorem execLaunch_canon {g a} {s : State} (h : s.Canon) : OutCanon (execLaunch g a s) := by
  unfold execLaunch
  refine h.uniform fun _ => launchAddr_canon.bind fun _ _ => ?_
  split
  · exact .error (.park h)
  · exact (launchEnter_canon h).bind fun _ h1 => .ok h1.retire

theorem execLaunchNb_canon {g d a} {s : State} (h : s.Canon) : OutCanon (execLaunchNb g d a s) := by
  unfold execLaunchNb
  refine h.uniform fun _ => launchAddr_canon.bind fun _ _ => ?_
  refine detBan_canon.bind fun _ _ => ?_
  extract_lets +onlyGivenNames put
  refine (sampleOpen_canon h).bind fun _ _ => ?_
  split
  · split
    · exact .ok h.sampleClose.retire
    · split
      · exact .error (.park h)
      · exact (launchEnter_canon h).bind fun _ h1 => .ok h1.sampleClose.retire
  · split
    · exact .ok h.sampleClose.retire
    · exact (launchEnter_canon h).bind fun _ h2 => .ok h2.sampleClose.retire

theorem counterAt_canon {s : State} {e ga} (h : s.Canon) : Leads Stop.Canon (fun r => r.1.Canon) (counterAt s e ga) := by
  unfold counterAt
  split
  · exact trapWith_canon
  · split
    · exact trapWith_canon
    · exact (loadLanes_canon h).bind fun ⟨_, _⟩ h1 => .pure h1

theorem execLwait_canon {g d a b} {s : State} (h : s.Canon) : OutCanon (execLwait g d a b s) := by
  unfold execLwait
  refine h.uniform fun _ => (counterAt_canon h).bind fun ⟨_, _⟩ h2 => ?_
  dsimp -zeta -zetaHave only
  split
  · exact .ok h2.retire
  · exact .error (.park h2)

theorem execLpoll_canon {g d a} {s : State} (h : s.Canon) : OutCanon (execLpoll g d a s) := by
  unfold execLpoll
  refine h.uniform fun _ => ?_
  extract_lets +onlyGivenNames ga
  split
  · exact trapWith_canon
  · split
    · exact trapWith_canon
    · exact detBan_canon.bind fun _ _ => (counterAt_canon h).bind fun ⟨_, _⟩ h1 => (sampleOpen_canon h1).bind fun _ _ => .ok
          h1.sampleClose.retire

theorem State.Canon.makeRestorable {s : State} {t} (h : s.Canon) : (s.makeRestorable t).Canon :=
  h.foldl fun _ _ h1 => h1.modTeam.forgetAsk

theorem State.Canon.wakeSwapped {s : State} {gid} (h : s.Canon) : (s.wakeSwapped gid).Canon := by
  unfold State.wakeSwapped
  split
  · exact h
  · split
    · exact h
    · split
      · split
        · exact h.makeRestorable
        · exact h
      · split
        next _ s1 bs he =>
          have h1 : s1.Canon := (ownRead_canon h.withAsks).of_ok he
          extract_lets +onlyGivenNames s2
          have h2 : s2.Canon := h1.doneAsks
          split
          · exact h2.makeRestorable
          · exact h2
        · exact h.ask
        · exact h
        · exact h.doneAsks
      · exact h

theorem readCounter_canon {s : State} {e addr ask} (h : s.Canon) : CounterRead.Canon (readCounter s e addr ask) := by
  unfold readCounter
  split
  · split
    · exact .waits h
    · split
      · exact .known h
      · exact .again
  · split
    next he => exact .known ((counterAt_canon h).of_ok he)
    next he =>
      split
      · exact .waits h
      · exact .waits (((counterAt_canon h).of_error he).of_park rfl)
    · exact .waits h

theorem execLwaitWake_canon {gid} {s : State} (h : s.Canon) : OutCanon (execLwaitWake gid s) := by
  unfold execLwaitWake
  refine .next ?_
  split
  · split
    · exact h
    · extract_lets +onlyGivenNames waits
      have h3 : ∀ x0 x1, x0.Canon → (waits x0 x1).Canon := fun _ _ h2 => h2.modGroup
      split
      next _ a a1 he =>
        have h4 : a.Canon := (readCounter_canon h).of_known he
        split
        · exact h4.retire
        · split
          · exact h3 _ _ h
          · exact h
      next _ a a1 he =>
        have h5 : a.Canon := (readCounter_canon h).of_waits he
        split
        · exact h
        · exact h3 _ _ h5
      · exact h.modGroup
  · exact h.wakeSwapped

/-! ## Acceptance of launch records -/

theorem State.Canon.addGrid {s : State} {g} (h : s.Canon) : (s.addGrid g).Canon := by
  unfold State.addGrid
  exact State.Canon.modCtx ⟨h.mem, h.host⟩

theorem State.Canon.refuse {s : State} {g} (h : s.Canon) : (s.refuse g).Canon :=
  h.addGrid.gridTry

theorem State.Canon.waitFor {s : State} {c w b} (h : s.Canon) : (s.waitFor c w b).Canon :=
  h.modCtx

theorem unitLogged_canon {s : State} {c mode w r} (h : s.Canon) : Logged.Canon (unitLogged s c mode w r) := by
  unfold unitLogged
  extract_lets +onlyGivenNames x
  split
  · split
    · exact .done h.cairnWrite.waitFor
    · exact .wait h.waitFor
  · split
    · split
      · extract_lets +onlyGivenNames s1
        have h1 : s1.Canon := by
          unfold s1
          split
          · exact h.modCtx
          · exact h
        exact .done h1.cairnConsume.waitFor
      · exact .wait h.waitFor
      · exact .wait h.waitFor
      · exact .diverged
    · exact .done h

theorem State.Canon.unitDiverges {s : State} {c serial} (h : s.Canon) : (s.unitDiverges c serial).Canon :=
  h.modCtx.postFatal

theorem State.Canon.skipLaunch {s : State} {c b q} (h : s.Canon) : (s.skipLaunch c b q).Canon := by
  unfold State.skipLaunch
  split
  · exact h
  · exact h.modCtx.takeSkips

theorem acceptRecord_canon {s : State} {c b o counted w} (h : s.Canon) :
    Leads State.Canon State.Canon (acceptRecord s c b o counted w) := by
  unfold acceptRecord
  extract_lets +onlyGivenNames n log
  split
  · exact .ok h.skipLaunch.refuse
  · split
    · exact .ok h.tqPost.refuse
    · exact .error h
  · split
    next _ s1 he =>
      have h1 : s1.Canon := (unitLogged_canon h).of_wait he
      exact .error h1
    · exact .ok h.unitDiverges.addGrid
    next _ s1 r he =>
      have h2 : s1.Canon := (unitLogged_canon h).of_done he
      extract_lets +onlyGivenNames s2
      have h2 : s2.Canon := by
        unfold s2
        split
        · exact h2.addBusy
        · exact h2
      exact .ok h2.addGrid

theorem execLaunchAccept_canon {tid} {s : State} (h : s.Canon) : OutCanon (execLaunchAccept tid s) := by
  unfold execLaunchAccept
  refine .next ?_
  split
  · exact h
  · split
    · split
      · exact ⟨h.mem, h.host⟩
      · exact h
    · split
      · exact h
      · split
        next _ s1 he =>
          have h1 : s1.Canon := (acceptRecord_canon h).of_error he
          exact h1
        next _ s1 he =>
          have h2 : s1.Canon := (acceptRecord_canon h).of_ok he
          exact ⟨h2.mem, h2.host⟩

/-! ## Reset, start-up and firmware -/

theorem reset_canon : (State.reset).Canon :=
  ⟨rfl, rfl⟩

theorem State.Canon.rebooted {s : State} (h : s.Canon) : (s.rebooted).Canon :=
  ⟨reset_canon.mem, h.host⟩

theorem execColdReset_canon {s : State} (h : s.Canon) : OutCanon (execColdReset s) :=
  .next h.rebooted

theorem execWarmReset_canon {s : State} (h : s.Canon) : OutCanon (execWarmReset s) :=
  .next h.rebooted

theorem execStartupDone_canon {s : State} (h : s.Canon) : OutCanon (execStartupDone s) := by
  unfold execStartupDone
  exact .next ⟨h.mem, h.host⟩

theorem execLcWriteImage_canon {val} {s : State} (h : s.Canon) : OutCanon (execLcWriteImage val s) := by
  unfold execLcWriteImage
  extract_lets +onlyGivenNames fw
  refine .next ?_
  split
  · exact h
  · split
    · exact ⟨h.mem, h.host⟩
    · exact ⟨h.mem, h.host⟩

theorem execLcWriteImageDone_canon {img} {s : State} (h : s.Canon) : OutCanon (execLcWriteImageDone img s) := by
  unfold execLcWriteImageDone
  refine .next ?_
  split
  · exact h
  · split
    · exact ⟨h.mem, h.host⟩
    · exact ⟨h.mem, h.host⟩

theorem execLcSubmitToken_canon {val tok} {s : State} (h : s.Canon) : OutCanon (execLcSubmitToken val tok s) := by
  unfold execLcSubmitToken
  extract_lets +onlyGivenNames fw
  refine .next ?_
  split
  · exact h
  · split
    · exact ⟨h.mem, h.host⟩
    · exact ⟨h.mem, h.host⟩

theorem execLcFetchNonce_canon {val entropy ok} {s : State} (h : s.Canon) : OutCanon (execLcFetchNonce val entropy ok s) := by
  unfold execLcFetchNonce
  extract_lets +onlyGivenNames fw
  refine .next ?_
  split
  · exact h
  · split
    · exact ⟨h.mem, h.host⟩
    · exact ⟨h.mem, wfB_writeB _ _ _ h.host⟩

/-! ## XPROBE and XINVAL -/

theorem probe_canon {s : State} {c a va r} (h : s.Canon) (hr : probe s c a va = some r) : r.1.Canon := by
  unfold probe at hr
  split at hr
  · cases hr
    exact h
  · split at hr
    · cases hr
    · cases hr
      exact h
    · cases hr
      exact h
    · cases hr
      exact h
    · cases hr
      exact h
    next he =>
      cases hr
      exact (leafOf_canon h).of_ok he

theorem execXprobe_canon {g d a b} {s : State} (h : s.Canon) : OutCanon (execXprobe g d a b s) := by
  unfold execXprobe
  refine h.privileged fun _ => ?_
  split
  · exact .error (.park h)
  next _ r he =>
    have h1 : r.1.Canon := probe_canon h he
    exact .ok h1.retire

theorem State.Canon.dropRange {s : State} {c a n} (h : s.Canon) : (s.dropRange c a n).Canon :=
  State.Canon.dropInsts (h.modCtx.of_eq rfl rfl)

theorem execXinval_canon {g e a b} {s : State} (h : s.Canon) : OutCanon (execXinval g e a b s) := by
  unfold execXinval
  refine h.privileged fun _ => ?_
  extract_lets +onlyGivenNames va n
  split
  · split
    · exact .error (.park h)
    · exact .ok h.retire
  · split
    · exact trapWith_canon
    · split
      · exact .error (.park h)
      · extract_lets +onlyGivenNames r s1
        have h1 : s1.Canon := h.landLate.dropRange
        split
        · exact .ok h1.retire
        · exact .error (.park h1)

/-! ## Issue and fetch -/

theorem fetchStop_canon {s : State} {c va a} (h : s.Canon) : Stop.Canon (fetchStop s c va a) := by
  unfold fetchStop
  split
  · exact .park h
  · exact .trap
  · exact .trap
  · exact .pageFault
  · exact .pageFault

theorem codePieces_canon {s : State} {e a} (h : s.Canon) : Leads Stop.Canon (fun r => r.1.Canon) (codePieces s e a) := by
  induction a generalizing s with
  | nil => exact .ok h
  | cons x l ih =>
    unfold codePieces
    split
    · exact .error (fetchStop_canon h)
    · exact .error (fetchStop_canon h)
    next _ s1 p leaf he =>
      have h1 : s1.Canon := (xlate_canon h).of_ok he
      exact (ih h1).bind fun ⟨_, _⟩ h2 => .pure h2

theorem codeAnswers_canon {s : State} {e rs} (h : s.Canon) : Leads Stop.Canon (fun _ => True) (codeAnswers s e rs) := by
  unfold codeAnswers
  split
  · exact answersOf_canon (.park h)
  · exact .error (.park h.sendFor)

theorem codeWord_canon {s : State} {e va} (h : s.Canon) : Leads Stop.Canon (fun r => r.1.Canon) (codeWord s e va) := by
  unfold codeWord
  split
  · exact .error .trap
  · refine (codePieces_canon h).bind fun ⟨_, _⟩ h1 => ?_
    dsimp -zeta -zetaHave only
    extract_lets +onlyGivenNames rest
    have h2 : ∀ x0, Leads Stop.Canon (fun r => r.1.Canon) (rest x0) := by
      intro _
      unfold rest
      refine checkPlaces_canon.bind fun _ _ => ?_
      split
      · exact .pure h1.dieMet
      · exact (codeAnswers_canon h1).bind fun _ _ => .pure h1
      · exact .pure h1
    split
    · exact Leads.bind (A := (fun _ => True)) (.error (.park h)) fun _ _ => h2 ()
    · exact Leads.bind (A := (fun _ => True)) (.ok trivial) fun _ _ => h2 ()

theorem State.Canon.keepFetched {s : State} {e f} (h : s.Canon) : (s.keepFetched e f).1.Canon :=
  h.modGroup

theorem firstWord_canon {s : State} {e} (h : s.Canon) : Leads Stop.Canon (fun r => r.1.Canon) (firstWord s e) := by
  unfold firstWord
  split
  · exact .ok h
  · refine (codeWord_canon h).bind fun ⟨_, _⟩ h1 => ?_
    dsimp -zeta -zetaHave only
    split
    · exact .pure h1.keepFetched
    · exact .pure h1

theorem codeLit_canon {s : State} {e w} (h : s.Canon) : Leads Stop.Canon (fun r => r.1.Canon) (codeLit s e w) := by
  unfold codeLit
  split
  · exact .pure h
  · split
    · exact .ok h
    · refine (codeWord_canon h).bind fun ⟨_, _⟩ h1 => ?_
      dsimp -zeta -zetaHave only
      split
      · exact .pure h1.keepFetched
      · exact .pure h1

theorem State.Canon.issueWith {s : State} {g c} (h : s.Canon) : (s.issueWith g c).Canon :=
  ⟨h.mem, h.host⟩

theorem State.Canon.decodeTrap {s : State} {c cause} (h : s.Canon) : (s.decodeTrap c cause).Canon := by
  unfold State.decodeTrap
  split
  · exact ⟨h.mem, h.host⟩
  · exact h.raiseTrap

theorem decodeIssue_canon {s : State} {c} (h : s.Canon) : Prepared.Canon (decodeIssue s c) := by
  unfold decodeIssue
  split
  · exact .done h.decodeTrap
  · split
    · exact .exec h
    · exact .exec h
    · exact .done h.decodeTrap

theorem State.Canon.noteIssue {s : State} {e c} (h : s.Canon) : (s.noteIssue e c).Canon := by
  unfold State.noteIssue
  split
  · exact h
  · exact h.modGroup

theorem fetchNext_canon {s : State} {c0} (h : s.Canon) : Prepared.Canon (fetchNext s c0) := by
  unfold fetchNext
  split
  · exact .done ⟨h.mem, h.host⟩
  · split
    next _ a he =>
      exact .exec h
    next _ s1 e1 w he =>
      have h2 : s1.Canon := (firstWord_canon h).of_ok he
      extract_lets +onlyGivenNames c s2
      have h2 : s2.Canon := ⟨h2.mem, h2.host⟩
      split
      next _ a he1 =>
        exact .exec h2
      next _ s3 lit he1 =>
        have h5 : s3.Canon := (codeLit_canon h2).of_ok he1
        exact decodeIssue_canon (h5.noteIssue.of_eq rfl rfl)

theorem prepare_canon {s : State} {gid} (h : s.Canon) : Prepared.Canon (prepare s gid) := by
  unfold prepare
  split
  · exact .done h
  · split
    · exact .done h
    · split
      · exact decodeIssue_canon h.issueWith
      · split
        · exact .done h
        · exact fetchNext_canon h.issueWith

theorem execFetchFault_canon {s : State} (h : s.Canon) : OutCanon (execFetchFault s) := by
  unfold execFetchFault
  refine h.run fun _ => ?_
  split
  next _ a he =>
    have h1 : Stop.Canon a := (firstWord_canon h).of_error he
    exact .error h1
  next _ s1 e1 w he =>
    have h2 : s1.Canon := (firstWord_canon h).of_ok he
    split
    next _ a he1 =>
      have h3 : Stop.Canon a := (codeLit_canon h2).of_error he1
      exact .error h3
    next _ s3 lit he1 =>
      have h4 : s3.Canon := (codeLit_canon h2).of_ok he1
      exact .ok ⟨h4.mem, h4.host⟩

theorem execIllegalOpcode_canon {s : State} (h : s.Canon) : OutCanon (execIllegalOpcode s) :=
  h.run fun _ => trapWith_canon

theorem prepareAlone_canon {s : State} {gid lane} (h : s.Canon) : Prepared.Canon (prepareAlone s gid lane) := by
  unfold prepareAlone
  split
  · exact .done h
  · split
    · extract_lets +onlyGivenNames pc i
      split
      · exact .done h
      · extract_lets +onlyGivenNames w long
        split
        · exact .done h
        · extract_lets +onlyGivenNames c s1
          have h1 : s1.Canon := h.issueWith
          split
          · exact .done h
          · split
            · exact .done h
            · exact decodeIssue_canon h1.noteIssue
    · exact .done h

/-! ## Pre-emption and restore -/

theorem State.Canon.askTeam {s : State} {tid d} (h : s.Canon) : (s.askTeam tid d).Canon := by
  unfold State.askTeam
  split
  · exact h
  · split
    · exact h
    · exact h.setTeam.cutTry

theorem State.Canon.requestCtx {s : State} {c cls} (h : s.Canon) : (s.requestCtx c cls).Canon := by
  unfold State.requestCtx
  split
  · exact h
  · exact (h.setCtx.foldl fun _ _ h1 => h1.askTeam).clearRequest

theorem execPreemptDeadline_canon {tid} {s : State} (h : s.Canon) : OutCanon (execPreemptDeadline tid s) := by
  unfold execPreemptDeadline
  refine .next ?_
  split
  · split
    · exact h.stopTeam.cutTry
    · exact h
  · exact h

theorem execSwapOut_canon {tid} {s : State} (h : s.Canon) : OutCanon (execSwapOut tid s) := by
  unfold execSwapOut
  refine .next ?_
  split
  · exact h
  · extract_lets +onlyGivenNames us
    split
    · exact h.foldl fun _ _ h1 => h1.modTeam.stopTeam.count
    · exact h

theorem State.Canon.enterOwn {s : State} {t g cause info} (h : s.Canon) : (s.enterOwn t g cause info).Canon :=
  ⟨h.mem, h.host⟩

theorem State.Canon.enterSave {s : State} {t g} (h : s.Canon) : (s.enterSave t g).Canon := by
  unfold State.enterSave
  extract_lets +onlyGivenNames w
  split
  · exact h
  · split
    · exact h.setGroup
    · exact h.enterOwn

theorem State.Canon.cutInsts {s : State} {t} (h : s.Canon) : (s.cutInsts t).Canon := by
  unfold State.cutInsts
  split
  · exact ⟨h.mem, h.host⟩
  · exact State.Canon.dropUser ⟨h.mem, h.host⟩

theorem execCutComplete_canon {tid} {s : State} (h : s.Canon) : OutCanon (execCutComplete tid s) := by
  unfold execCutComplete
  extract_lets +onlyGivenNames s0
  have h0 : s0.Canon := h.cutTry
  refine .next ?_
  split
  · exact h0
  · split
    · exact (h0.landTeam.cutInsts.modTeam.foldl fun _ _ h2 => h2.enterSave).saveTry
    · exact h0.saveTry

theorem execSaveTimeout_canon {gid} {s : State} (h : s.Canon) : OutCanon (execSaveTimeout gid s) := by
  unfold execSaveTimeout
  refine .next ?_
  split
  · split
    · exact h.postFatal.teamKilled
    · exact h
  · exact h

theorem readPages_canon {s : State} {massif c spur base a} (h : s.Canon) :
    Leads (fun _ => True) (fun r => r.1.Canon) (readPages s massif c spur base a) := by
  induction a generalizing s with
  | nil => exact .ok h
  | cons x l ih =>
    unfold readPages
    exact (ownRead_canon h).bind fun ⟨_, _⟩ h1 => (ih h1).bind fun ⟨_, _⟩ h2 => .pure h2

theorem restoreGroup_canon {s : State} {t old entry spur x g0} (h : s.Canon) :
    Leads (fun _ => True) State.Canon (restoreGroup s t old entry spur x g0) := by
  unfold restoreGroup
  extract_lets +onlyGivenNames _ _ _
  split
  · exact .pure h.setGroup
  · split
    · exact (ownRead_canon h).bind fun ⟨_, _⟩ h1 => .pure h1.setGroup
    · exact .pure h.enterOwn

theorem restoreGroups_canon {s : State} {t old entry spur y a} (h : s.Canon) :
    Leads (fun _ => True) State.Canon (restoreGroups s t old entry spur y a) := by
  induction a generalizing s with
  | nil => exact .ok h
  | cons x l ih =>
    unfold restoreGroups
    exact (restoreGroup_canon h).bind fun _ h1 => ih h1

theorem restoreTeam_canon {s : State} {there t column layer slot} (h : s.Canon) :
    Leads (fun _ => True) State.Canon (restoreTeam s there t column layer slot) := by
  unfold restoreTeam
  extract_lets +onlyGivenNames _ _ _ _ _ f
  have h13 : ∀ x0, x0.Canon → Leads (fun _ => True) State.Canon (f x0) := fun _ h7 => (ownRead_canon h7).bind fun ⟨_, _⟩ h8 =>
      (readPages_canon h8).bind fun ⟨_, _⟩ h9 => (readPages_canon h9).bind fun ⟨_, _⟩ h10 => (readPages_canon h10).bind
          fun ⟨_, _⟩ h11 => (restoreGroups_canon h11.setTeam).bind fun _ h12 => ownWrites_canon h12
  split
  · exact h.saveAll.bind fun _ h14 => h13 _ h14
  · exact Leads.bind (.pure h) fun _ h15 => h13 _ h15

theorem State.Canon.restoreAt {s : State} {t column layer} (h : s.Canon) : (s.restoreAt t column layer).Canon := by
  unfold State.restoreAt
  extract_lets +onlyGivenNames home after
  split
  next _ s1 he =>
    have h2 : s1.Canon := h.coverSaved.of_error he
    exact h2
  next _ s1 he =>
    have h3 : s1.Canon := h.coverSaved.of_ok he
    split
    · exact h3.saveFailed
    next _ s11 he1 =>
      have h4 : s11.Canon := (restoreTeam_canon h3.withAsks).of_ok he1
      exact h4.doneAsks.resumeTry

theorem execTeamRestore_canon {tid} {s : State} (h : s.Canon) : OutCanon (execTeamRestore tid s) := by
  unfold execTeamRestore
  refine .next ?_
  split
  · exact h
  · extract_lets +onlyGivenNames us
    split
    · exact h
    · split
      · exact h
      · split
        · exact ⟨h.mem, h.host⟩
        · exact State.Canon.foldl ⟨h.mem, h.host⟩ fun _ _ h1 => h1.restoreAt

/-! ## Copy instructions -/

theorem copyPlace_canon {s e side ga n} : Leads Stop.Canon (fun _ => True) (copyPlace s e side ga n) := by
  unfold copyPlace
  split
  · exact .ok trivial
  · exact .ok trivial
  · exact .ok trivial
  · exact .ok trivial
  · exact trapWith_canon

theorem copyAligned_canon {size row gas} : Leads Stop.Canon (fun _ => True) (copyAligned size row gas) := by
  unfold copyAligned
  split
  · exact trapWith_canon
  · split
    · exact trapWith_canon
    · exact .ok trivial

theorem runPlan_canon {s a b ds ss e} : Leads Stop.Canon (fun _ => True) (runPlan s a b ds ss e) :=
  copyPlace_canon.bind fun _ _ => copyPlace_canon.bind fun _ _ => copyAligned_canon.bind fun _ _ => .pure trivial

theorem shapeBase_canon {s e sh last} : Leads Stop.Canon (fun _ => True) (shapeBase s e sh last) := by
  unfold shapeBase
  extract_lets +onlyGivenNames ga
  split
  · split
    · exact .ok trivial
    · exact trapWith_canon
  · split
    · exact trapWith_canon
    · split
      · exact .ok trivial
      · exact trapWith_canon
  · exact trapWith_canon

theorem boxPlan_canon {s a b e} : Leads Stop.Canon (fun _ => True) (boxPlan s a b e) := by
  unfold boxPlan
  extract_lets +onlyGivenNames da w w0 w1
  split
  · exact copyPlace_canon.bind fun _ _ => copyAligned_canon.bind fun _ _ => .pure trivial
  · exact copyPlace_canon.bind fun _ _ => shapeBase_canon.bind fun _ _ => copyAligned_canon.bind fun _ _ => .pure trivial

theorem rowsPlan_canon {s : State} {a b e} (h : s.Canon) : Leads Stop.Canon (fun _ => True) (rowsPlan s a b e) := by
  unfold rowsPlan
  extract_lets +onlyGivenNames da w off cnt
  split
  · exact trapWith_canon
  · split
    · exact trapWith_canon
    · split
      · exact copyPlace_canon.bind fun _ _ => copyAligned_canon.bind fun _ _ => .pure trivial
      · extract_lets +onlyGivenNames row
        refine copyPlace_canon.bind fun _ _ => ?_
        extract_lets +onlyGivenNames last
        refine shapeBase_canon.bind fun _ _ => ?_
        refine copyAligned_canon.bind fun _ _ => ?_
        split
        · exact .pure trivial
        · exact .error (.park h)

theorem rankTeams_canon {s e a} : Leads Stop.Canon (fun _ => True) (rankTeams s e a) := by
  induction a with
  | nil => exact .ok trivial
  | cons x l ih =>
    unfold rankTeams
    split
    · exact trapWith_canon
    · exact ih.bind fun _ _ => .pure trivial

theorem multiPlan_canon {s e off n ranks src} : Leads Stop.Canon (fun _ => True) (multiPlan s e off n ranks src) := by
  unfold multiPlan
  refine rankTeams_canon.bind fun _ _ => ?_
  split
  · exact trapWith_canon
  · exact .pure trivial

theorem mcPlan_canon {s a b e} : Leads Stop.Canon (fun _ => True) (mcPlan s a b e) :=
  copyPlace_canon.bind fun _ _ => multiPlan_canon.bind fun _ _ => detBan_canon.bind fun _ _ => copyAligned_canon.bind fun _ _ =>
      .pure trivial

theorem Plan_check_canon {p s e c} : Leads Stop.Canon (fun _ => True) (Plan.check p s e c) := by
  unfold Plan.check
  extract_lets +onlyGivenNames size
  split
  · exact trapWith_canon
  · split
    · exact trapWith_canon
    · split
      · exact trapWith_canon
      · split
        · exact trapWith_canon
        · split
          · exact trapWith_canon
          · exact .ok trivial

theorem State.Canon.nameHandle {s : State} {tid x seq slot off n st} (h : s.Canon) :
    (s.nameHandle tid x seq slot off n st).Canon := by
  unfold State.nameHandle
  split
  · exact h
  · exact h.bufOp

theorem Plan_takeIn_canon {p} {s : State} {e c} (h : s.Canon) : Leads Stop.Canon (fun _ => True) (Plan.takeIn p s e c) := by
  unfold Plan.takeIn
  split
  · exact .ok trivial
  · extract_lets +onlyGivenNames w
    split
    · exact .error (.park h)
    · split
      · exact trapWith_canon
      · exact .ok trivial

theorem State.Canon.clearPresence {s : State} {off n tid} (h : s.Canon) : (s.clearPresence off n tid).Canon := by
  unfold State.clearPresence
  split
  · exact h
  · exact h.modTeam

theorem Plan_mark_canon {p} {s : State} {e c seq slot} (h : s.Canon) : (Plan.mark p s e c seq slot).Canon := by
  unfold Plan.mark
  extract_lets +onlyGivenNames w s1
  have h1 : s1.Canon := by
    unfold s1
    split
    · exact h.foldl fun _ _ h2 => h2.clearPresence
    · exact h
  split
  · split
    · exact h1.foldl fun _ _ h3 => h3.nameHandle
    · exact h1
  · split
    · exact h1.nameHandle
    · exact h1

theorem Plan_landNone_canon {p} {s : State} {e c} (h : s.Canon) : (Plan.landNone p s e c).Canon := by
  unfold Plan.landNone
  split
  · exact h.foldl fun _ _ h1 => h1.barPut
  · exact h

theorem issueCopy_canon {s : State} {e d c p refused} (h : s.Canon) :
    Leads Stop.Canon State.Canon (issueCopy s e d c p refused) := by
  unfold issueCopy
  split
  · exact .error (.park h)
  · split
    · exact .error (.park h)
    · extract_lets +onlyGivenNames seq ticket multi rest
      have hrest : ∀ s1, s1.Canon → Leads Stop.Canon State.Canon (rest s1) := by
        intro s1 h1
        unfold rest
        extract_lets +onlyGivenNames s2 s3 s4 s5
        have h2 : s2.Canon := Plan_mark_canon h1.landOf
        have h3 : s3.Canon := h2.modTeam
        have h4 : s4.Canon := ⟨h3.mem, h3.host⟩
        have h5 : s5.Canon := (Plan_landNone_canon h4).settleJob
        exact .pure h5.retire
      split
      · exact (stageAll_canon h h).bind hrest
      · exact hrest _ h

theorem fillFails_canon {s : State} {e r} (h : s.Canon) (hr : Leads Stop.Canon State.Canon r) :
    Leads Stop.Canon State.Canon (fillFails s e r) := by
  unfold fillFails
  split
  · exact .error (.trapAfter h.bufOp)
  · exact hr

theorem State.Canon.copy {s : State} {q d plan} (h : s.Canon) (hplan : ∀ x0, Leads Stop.Canon (fun _ => True) (plan x0)) :
    OutCanon (s.copy q d plan) := by
  unfold State.copy
  refine h.uniform fun _ => fillFails_canon h ?_
  extract_lets +onlyGivenNames c
  split
  · exact trapWith_canon
  · exact (hplan _).bind fun _ _ => Plan_check_canon.bind fun _ _ => (Plan_takeIn_canon h).bind fun ⟨_, _⟩ _ => issueCopy_canon h

theorem execCpgs_canon {g d a b} {s : State} (h : s.Canon) : OutCanon (execCpgs g d a b s) :=
  h.copy fun _ => runPlan_canon

theorem execCpsg_canon {g d a b} {s : State} (h : s.Canon) : OutCanon (execCpsg g d a b s) :=
  h.copy fun _ => runPlan_canon

theorem execCpgg_canon {g d a b} {s : State} (h : s.Canon) : OutCanon (execCpgg g d a b s) :=
  h.copy fun _ => runPlan_canon

theorem execCptr_canon {g d a b} {s : State} (h : s.Canon) : OutCanon (execCptr g d a b s) :=
  h.copy fun _ => boxPlan_canon

theorem execCpga_canon {g d a b} {s : State} (h : s.Canon) : OutCanon (execCpga g d a b s) :=
  h.copy fun _ => rowsPlan_canon h

theorem execCpmc_canon {g d a b} {s : State} (h : s.Canon) : OutCanon (execCpmc g d a b s) :=
  h.copy fun _ => mcPlan_canon

theorem execCpmcr_canon {g d a} {s : State} (h : s.Canon) : OutCanon (execCpmcr g d a s) := by
  unfold execCpmcr
  refine h.uniform fun _ => ?_
  extract_lets +onlyGivenNames w
  split
  · exact trapWith_canon
  · split
    · exact trapWith_canon
    · split
      · exact trapWith_canon
      · split
        · exact trapWith_canon
        · split
          · exact .error (.park h)
          · exact multiPlan_canon.bind fun _ _ => Plan_check_canon.bind fun _ _ => (Plan_takeIn_canon h).bind fun ⟨_, _⟩ _ =>
                issueCopy_canon h

theorem execCpwait_canon {g d a m} {s : State} (h : s.Canon) : OutCanon (execCpwait g d a m s) := by
  unfold execCpwait
  refine h.uniform fun _ => ?_
  extract_lets +onlyGivenNames ticket put
  have h1 : ∀ x0, Leads Stop.Canon State.Canon (put x0) := fun _ => (sampleOpen_canon h).bind fun _ _ => .ok h.sampleClose.retire
  split
  · exact h1 _
  · split
    · exact .error (.park h)
    · exact h1 _

/-! ## Operand buffers -/

theorem operandRecord_canon {s : State} {e a n} (h : s.Canon) :
    Leads Stop.Canon (fun r => r.1.Canon) (operandRecord s e a n) := by
  unfold operandRecord
  extract_lets +onlyGivenNames ga
  split
  · exact trapWith_canon
  · split
    · exact trapWith_canon
    · exact (loadLanes_canon h).bind fun ⟨_, _⟩ h1 => .pure h1

theorem execObres_canon {g d a} {s : State} (h : s.Canon) : OutCanon (execObres g d a s) := by
  unfold execObres
  refine h.uniform fun _ => (operandRecord_canon h).bind fun ⟨_, _⟩ h2 => ?_
  dsimp -zeta -zetaHave only
  extract_lets +onlyGivenNames l
  split
  · exact trapWith_canon
  · split
    · exact trapWith_canon
    · split
      · exact .ok h2.retire
      · exact .ok h2.modTeam.retire

theorem execObfree_canon {g a} {s : State} (h : s.Canon) : OutCanon (execObfree g a s) := by
  unfold execObfree
  refine h.uniform fun _ => ?_
  extract_lets +onlyGivenNames id
  split
  · exact trapWith_canon
  · split
    · exact .error (.park h)
    · exact .ok h.modTeam.retire

theorem execObld_canon {g d a} {s : State} (h : s.Canon) : OutCanon (execObld g d a s) := by
  unfold execObld
  refine h.uniform fun _ => ?_
  extract_lets +onlyGivenNames id ga off n
  split
  · exact trapWith_canon
  · refine copyPlace_canon.bind fun _ _ => ?_
    split
    · exact trapWith_canon
    · split
      · exact trapWith_canon
      · exact .ok (State.Canon.retire (h.landOf.of_eq rfl rfl))

/-! ## Residencies -/

theorem State.Canon.putInst {s : State} {i} (h : s.Canon) : (s.putInst i).Canon :=
  ⟨h.mem, h.host⟩

theorem State.Canon.setInst {s : State} {i} (h : s.Canon) : (s.setInst i).Canon :=
  ⟨h.mem, h.host⟩

theorem State.Canon.modResid {s : State} {c slot f} (h : s.Canon) : (s.modResid c slot f).Canon :=
  h.modCtx

theorem makeRoom_canon {core c n a} {a4 : State} (h : a4.Canon) : (makeRoom core c n a a4).1.Canon := by
  induction a generalizing a4 with
  | zero => exact h
  | succ n ih =>
    unfold makeRoom
    dsimp only
    split
    · split
      · exact ih ⟨h.mem, h.host⟩
      · exact h
    · exact h

theorem translateRuns_canon {s : State} {massif c a} (h : s.Canon) : (translateRuns s massif c a).1.Canon := by
  induction a generalizing s with
  | nil => exact h
  | cons x l ih =>
    unfold translateRuns
    split
    · exact ih h
    next _ s0 p he =>
      have h1 : s0.Canon := (xlate_canon h).of_ok he
      exact ih h1

theorem sourcePages_canon {s : State} {massif c l} (h : s.Canon) : (sourcePages s massif c l).1.Canon :=
  translateRuns_canon h

theorem startLoad_canon {s0 : State} {e x r} (h : s0.Canon) : Leads Stop.Canon State.Canon (startLoad s0 e x r) := by
  unfold startLoad
  extract_lets +onlyGivenNames core slot
  split
  next _ s1 ps he =>
    have h1 : s1.Canon := State.Canon.of_pair he (sourcePages_canon h.landOf)
    split
    · exact trapWith_canon
    · extract_lets +onlyGivenNames go
      have h4 : ∀ x0 x1 x2, x0.Canon → (go x0 x1 x2).Canon := fun _ _ _ h3 => h3.putInst.modResid
      split
      · exact .ok (h4 _ _ _ h1)
      · split
        next _ s11 he1 =>
          have h5 : s11.Canon := State.Canon.of_pair he1 (makeRoom_canon h1)
          exact .error (.trapAfter h5)
        next _ s11 he1 =>
          have h6 : s11.Canon := State.Canon.of_pair he1 (makeRoom_canon h1)
          exact .ok (h4 _ _ _ h6)

theorem execResidencyLoadDone_canon {core ctx slot} {s : State} (h : s.Canon) :
    OutCanon (execResidencyLoadDone core ctx slot s) := by
  unfold execResidencyLoadDone
  refine .next ?_
  split
  · split
    next _ s1 ps he =>
      have h1 : s1.Canon := State.Canon.of_pair he (sourcePages_canon h)
      extract_lets +onlyGivenNames rs
      split
      · exact h
      · split
        · exact h
        · extract_lets +onlyGivenNames s2
          have h2 : s2.Canon := h1.engineMeets
          split
          · exact h2.setInst.modResid
          · exact h2
        · split
          · exact h1.tqPost.setInst
          · exact h
        · split
          · exact h1.tqPost.dropInsts.modResid
          · exact h
  · exact h

theorem execRsalloc_canon {g d a} {s : State} (h : s.Canon) : OutCanon (execRsalloc g d a s) := by
  unfold execRsalloc
  refine h.uniform fun _ => (recordAt_canon h).bind fun ⟨_, _⟩ h2 => ?_
  dsimp -zeta -zetaHave only
  extract_lets +onlyGivenNames l
  split
  · exact trapWith_canon
  · split
    · exact trapWith_canon
    · refine (sampleOpen_canon h2).bind fun _ _ => ?_
      split
      · exact sampledOp_canon h2
      · exact sampledOp_canon h2.modCtx

theorem State.Canon.onResid {s : State} {q a f} (h : s.Canon) (hf : ∀ x0 x1 x2, Leads Stop.Canon State.Canon (f x0 x1 x2)) :
    OutCanon (s.onResid q a f) := by
  unfold State.onResid
  refine h.uniform fun _ => ?_
  extract_lets +onlyGivenNames w
  split
  · exact trapWith_canon
  · exact hf _ _ _

theorem execRsfill_canon {g a} {s : State} (h : s.Canon) : OutCanon (execRsfill g a s) :=
  h.onResid fun _ _ _ => (startLoad_canon h).bind fun _ h1 => .ok h1.retire

theorem State.Canon.pin {s : State} {q a b} (h : s.Canon) : OutCanon (s.pin q a b) :=
  h.onResid fun _ _ _ => .ok h.modResid.retire

theorem execRspin_canon {g a} {s : State} (h : s.Canon) : OutCanon (execRspin g a s) :=
  h.pin

theorem execRsunpin_canon {g a} {s : State} (h : s.Canon) : OutCanon (execRsunpin g a s) :=
  h.pin

theorem execRsrev_canon {g a} {s : State} (h : s.Canon) : OutCanon (execRsrev g a s) := by
  unfold execRsrev
  refine h.onResid fun _ _ _ => ?_
  extract_lets +onlyGivenNames slot
  split
  · exact .error (.park h)
  · exact .ok (State.Canon.retire (State.Canon.modResid ⟨h.mem, h.host⟩))

theorem execRsq_canon {g d a} {s : State} (h : s.Canon) : OutCanon (execRsq g d a s) :=
  h.uniform fun _ => detBan_canon.bind fun _ _ => (sampleOpen_canon h).bind fun _ _ => .ok h.sampleClose.retire

/-! ## The trap queue -/

theorem State.Canon.postHeld {s : State} {c a} (h : s.Canon) : (s.postHeld c a).Canon := by
  induction a generalizing s with
  | zero => exact h
  | succ n ih =>
    unfold State.postHeld
    extract_lets +onlyGivenNames x
    split
    · split
      · exact h.setCtx
      · exact h
    · split
      · exact ih h.setCtx.tqPost
      · exact h

theorem State.Canon.tqFreed {s : State} {c} (h : s.Canon) : (s.tqFreed c).Canon :=
  h.postHeld

theorem execTqConsWrite_canon {fn ctx val} {s : State} (h : s.Canon) : OutCanon (execTqConsWrite fn ctx val s) := by
  unfold execTqConsWrite
  refine .next ?_
  split
  · exact h.setCtx.tqFreed
  · exact h

theorem State.Canon.gridGoes {s : State} {c serial pos} (h : s.Canon) : (s.gridGoes c serial pos).Canon :=
  h.modGrid

theorem State.Canon.groupGoes {s : State} {gid pos} (h : s.Canon) : (s.groupGoes gid pos).Canon :=
  h.modGroup

theorem State.Canon.modLoads {s : State} {c pos f} (h : s.Canon) : (s.modLoads c pos f).Canon :=
  ⟨h.mem, h.host⟩

theorem State.Canon.replayed {s : State} {c pos a} (h : s.Canon) : (s.replayed c pos a).Canon := by
  unfold State.replayed
  split
  · exact h.groupGoes
  · exact h.modJob
  · exact h.modLoads
  · exact h.gridGoes
  · exact h.gridGoes
  · exact h.gridGoes
  · exact h.saveTry
  · exact h.groupGoes

theorem State.Canon.teamLost {s : State} {tid} (h : s.Canon) : (s.teamLost tid).Canon := by
  unfold State.teamLost
  split
  · exact h
  · split
    · exact h
    · exact h.teamKilled.unsave

theorem State.Canon.loadsLost {s : State} {c pos} (h : s.Canon) : (s.loadsLost c pos).Canon := by
  unfold State.loadsLost
  exact h.foldl fun _ _ h2 => State.Canon.modResid ⟨h2.mem, h2.host⟩

theorem State.Canon.dropStaged {s : State} {c serial r} (h : s.Canon) : (s.dropStaged c serial r).Canon := by
  unfold State.dropStaged
  split
  · exact h
  · split
    · exact h.unstage
    · exact h.unstage.doneAsks

theorem State.Canon.abandoned {s : State} {c pos a} (h : s.Canon) : (s.abandoned c pos a).Canon := by
  unfold State.abandoned
  split
  · exact h.teamLost
  · split
    · exact h
    · refine h.setJob.foldl fun _ _ h1 => ?_
      split
      · exact h1.itemFailed
      · exact h1
  · exact h.loadsLost
  · exact h.gridGoes.dropStaged
  · split
    · exact h
    · exact h.gridGoes.readLost
  · exact h.gridGoes.modGrid
  · split
    · exact h
    · exact h.saveFailed
  · split
    · exact h
    · exact h.gridDies

theorem State.Canon.tqCommand {s : State} {fn c val} (h : s.Canon) : (s.tqCommand fn c val).Canon := by
  unfold State.tqCommand
  extract_lets +onlyGivenNames pos
  split
  · exact h
  · split
    · exact h
    · extract_lets +onlyGivenNames s1
      have h1 : s1.Canon := h.modCtx
      refine State.Canon.tqFreed ?_
      split
      · exact h1.abandoned
      · exact h1.replayed

theorem execTqReplay_canon {fn ctx val} {s : State} (h : s.Canon) : OutCanon (execTqReplay fn ctx val s) :=
  .next h.tqCommand

theorem execTqAbandon_canon {fn ctx val} {s : State} (h : s.Canon) : OutCanon (execTqAbandon fn ctx val s) :=
  .next h.tqCommand

theorem State.Canon.walkFor {s : State} {ctx spur va massif} (h : s.Canon) : (s.walkFor ctx spur va massif).Canon := by
  unfold State.walkFor
  split
  next _ s1 fst snd he =>
    have h1 : s1.Canon := (xlate_canon h).of_ok he
    exact h1
  · exact h

theorem execWalkDone_canon {ctx spur va} {s : State} (h : s.Canon) : OutCanon (execWalkDone ctx spur va s) :=
  .next (h.foldl fun _ _ h1 => h1.walkFor)

theorem execParkRelease_canon {gid} {s : State} (h : s.Canon) : OutCanon (execParkRelease gid s) :=
  .next h.modGroup

/-! ## Host queues -/

theorem State.Canon.setQueue {s : State} {q k} (h : s.Canon) : (s.setQueue q k).Canon :=
  ⟨h.mem, h.host⟩

theorem State.Canon.writeDesc {s : State} {k} (h : s.Canon) : (s.writeDesc k).Canon :=
  h.writeOwn

theorem State.Canon.queueTo {s : State} {q k st} (h : s.Canon) : (s.queueTo q k st).Canon :=
  h.setQueue.writeDesc.forgetAsk.forgetAsk

theorem State.Canon.queueError {s : State} {q k p} (h : s.Canon) : (s.queueError q k p).Canon :=
  h.queueTo.postEv

theorem execQueueNotify_canon {fn queue val} {s : State} (h : s.Canon) : OutCanon (execQueueNotify fn queue val s) := by
  unfold execQueueNotify
  refine .next ?_
  split
  · exact h
  · split
    · exact h
    · split
      · exact h.queueError
      · split
        · exact h.setQueue
        · exact h.setQueue.writeDesc
        · exact h.queueTo

theorem fetchCommand_canon {s : State} {q k} (h : s.Canon) : Leads (fun _ => True) (fun r => r.1.Canon) (fetchCommand s q k) :=
  ownRead_canon h.withAsks

theorem State.Canon.passCommand {s : State} {q k} (h : s.Canon) : (s.passCommand q k).Canon :=
  h.setQueue.doneAsks

theorem State.Canon.atCommand {s : State} {q f} (h : s.Canon) (hf : ∀ x0 x1 x2, x2.Canon → (f x0 x1 x2).Canon) :
    (s.atCommand q f).Canon := by
  unfold State.atCommand
  split
  · exact h
  · split
    · exact h
    · split
      · exact h.queueError
      · split
        · exact h.ask
        · exact h
        next _ s1 cmd he =>
          have h1 : s1.Canon := (fetchCommand_canon h).of_ok he
          split
          · exact hf _ _ _ (State.Canon.setQueue ⟨h1.mem, h1.host⟩)
          · exact h.setQueue.doneAsks

theorem execQueueLaunchCommand_canon {queue} {s : State} (h : s.Canon) : OutCanon (execQueueLaunchCommand queue s) := by
  unfold execQueueLaunchCommand
  refine .next (h.atCommand fun _ _ _ h2 => ?_)
  split
  · exact h2
  · split
    next _ s1 he =>
      have h3 : s1.Canon := (acceptRecord_canon h2).of_error he
      exact h3
    next _ s1 he =>
      have h4 : s1.Canon := (acceptRecord_canon h2).of_ok he
      exact h4.passCommand

theorem execQueueWaitCommand_canon {queue} {s : State} (h : s.Canon) : OutCanon (execQueueWaitCommand queue s) := by
  unfold execQueueWaitCommand
  refine .next (h.atCommand fun _ _ _ h2 => ?_)
  split
  · exact h2
  · extract_lets +onlyGivenNames s2
    have h2 : s2.Canon := h2.doneAsks
    split
    · exact h2.ask
    · exact h2
    next _ s1 cmd he =>
      have h4 : s1.Canon := (ownRead_canon h2.withAsks).of_ok he
      extract_lets +onlyGivenNames s4
      have h4 : s4.Canon := h4.doneAsks
      split
      · exact h4.passCommand
      · exact h4

theorem execQueueSequence_canon {queue} {s : State} (h : s.Canon) : OutCanon (execQueueSequence queue s) := by
  unfold execQueueSequence
  refine .next ?_
  split
  · exact h
  · split
    · exact h.queueError
    · exact h

theorem execQueueMap_canon {s : State} (h : s.Canon) : OutCanon (execQueueMap s) := by
  unfold execQueueMap
  refine .next ?_
  split
  · exact h
  · split
    · exact h.setQueue
    · exact h

theorem execQueueEvict_canon {s : State} (h : s.Canon) : OutCanon (execQueueEvict s) := by
  unfold execQueueEvict
  refine .next ?_
  split
  · split
    · exact h.queueTo
    · exact h
  · exact h

theorem execQueueIdle_canon {queue} {s : State} (h : s.Canon) : OutCanon (execQueueIdle queue s) := by
  unfold execQueueIdle
  refine .next ?_
  split
  · exact h
  · split
    · exact h.queueTo
    · exact h

theorem State.Canon.qregDone {s : State} {c q ok} (h : s.Canon) : (s.qregDone c q ok).Canon :=
  h.setCtx

theorem execQregRegister_canon {fn ctx val} {s : State} (h : s.Canon) : OutCanon (execQregRegister fn ctx val s) := by
  unfold execQregRegister
  extract_lets +onlyGivenNames q
  refine .next ?_
  split
  · exact h
  · split
    · exact h.qregDone
    · split
      · exact h.qregDone
      · exact h.setQueue.qregDone

theorem State.Canon.unregister {s : State} {q k} (h : s.Canon) : (s.unregister q k).Canon := by
  unfold State.unregister
  extract_lets +onlyGivenNames s1
  have h1 : s1.Canon := by
    unfold s1
    split
    · exact h.queueTo
    · exact h
  exact ⟨h1.mem, h1.host⟩

theorem execQregUnregister_canon {fn ctx val} {s : State} (h : s.Canon) : OutCanon (execQregUnregister fn ctx val s) := by
  unfold execQregUnregister
  extract_lets +onlyGivenNames q
  refine .next ?_
  split
  · exact h
  · split
    · split
      · exact h.unregister.qregDone
      · exact h.qregDone
    · exact h.qregDone

theorem execQregReset_canon {fn ctx val} {s : State} (h : s.Canon) : OutCanon (execQregReset fn ctx val s) := by
  unfold execQregReset
  extract_lets +onlyGivenNames q
  refine .next ?_
  split
  · exact h
  · split
    · split
      · exact h.setQueue.qregDone
      · exact h.qregDone
    · exact h.qregDone

/-! ## Contexts from the host's side -/

theorem State.Canon.rootRecord {s : State} {c} (h : s.Canon) : (s.rootRecord c).Canon := by
  unfold State.rootRecord
  extract_lets +onlyGivenNames x
  split
  · exact h
  · exact h.putSpur.zeroPage.setRef

theorem execContextCreate_canon {fn ctx val} {s : State} (h : s.Canon) : OutCanon (execContextCreate fn ctx val s) := by
  unfold execContextCreate
  extract_lets +onlyGivenNames x
  refine .next ?_
  split
  · exact h
  · extract_lets +onlyGivenNames owner
    split
    · exact h.setCtx.rootRecord
    · exact h.setCtx

theorem State.Canon.cancelCtx {s : State} {c} (h : s.Canon) : (s.cancelCtx c).Canon := by
  unfold State.cancelCtx
  exact State.Canon.foldl (State.Canon.foldl ⟨(h.foldl fun _ _ h5 => h5.unregister).mem,
      (h.foldl fun _ _ h6 => h6.unregister).host⟩ fun _ _ h7 => h7.addGrid) fun _ _ h8 => h8.cancelGrid

theorem State.Canon.destroyCtx {s : State} {c} (h : s.Canon) : (s.destroyCtx c).Canon := by
  unfold State.destroyCtx
  extract_lets +onlyGivenNames x
  split
  · exact h
  · exact h.cancelCtx.modCtx

theorem execContextDestroy_canon {fn ctx val} {s : State} (h : s.Canon) : OutCanon (execContextDestroy fn ctx val s) := by
  unfold execContextDestroy
  extract_lets +onlyGivenNames x
  refine .next ?_
  split
  · exact h
  · split
    · exact h.destroyCtx
    · split
      · exact h.setCtx
      · exact h

theorem execCtxDown_canon {ctx} {s : State} (h : s.Canon) : OutCanon (execCtxDown ctx s) := by
  unfold execCtxDown
  extract_lets +onlyGivenNames x
  refine .next ?_
  split
  · exact h
  · exact State.Canon.postCtx (State.Canon.setCtx (State.Canon.grantAll ⟨h.mem, h.host⟩))

theorem execVfFlr_canon {fn} {s : State} (h : s.Canon) : OutCanon (execVfFlr fn s) := by
  unfold execVfFlr
  refine .next ?_
  split
  · exact h
  · exact h.foldl fun _ _ h1 => h1.destroyCtx

theorem execPreemptRequest_canon {fn ctx val} {s : State} (h : s.Canon) : OutCanon (execPreemptRequest fn ctx val s) := by
  unfold execPreemptRequest
  refine .next ?_
  split
  · exact h.requestCtx
  · exact h

theorem execHostInvalidate_canon {fn ctx val} {s : State} (h : s.Canon) : OutCanon (execHostInvalidate fn ctx val s) := by
  unfold execHostInvalidate
  extract_lets +onlyGivenNames x old g n keep
  refine .next ?_
  split
  · exact h
  · split
    · exact h.setCtx
    · split
      · exact h
      · extract_lets +onlyGivenNames va
        split
        · exact h.setCtx
        · exact h.landLate.dropRange.modCtx

theorem execHostInvalidateDone_canon {ctx} {s : State} (h : s.Canon) : OutCanon (execHostInvalidateDone ctx s) := by
  unfold execHostInvalidateDone
  refine .next ?_
  split
  · exact h
  · exact h.modCtx

theorem execPoolPush_canon {fn ctx val} {s : State} (h : s.Canon) : OutCanon (execPoolPush fn ctx val s) := by
  unfold execPoolPush
  extract_lets +onlyGivenNames x
  refine .next ?_
  split
  · exact h
  · exact h.setCtx.poolPushPage

theorem execCairnDirWrite_canon {fn ctx val} {s : State} (h : s.Canon) : OutCanon (execCairnDirWrite fn ctx val s) := by
  unfold execCairnDirWrite
  extract_lets +onlyGivenNames x
  refine .next ?_
  split
  · exact h
  · exact h.setCtx

theorem execCairnConsWrite_canon {fn ctx val} {s : State} (h : s.Canon) : OutCanon (execCairnConsWrite fn ctx val s) := by
  unfold execCairnConsWrite
  refine .next ?_
  split
  · exact h.setCtx
  · exact h

theorem execCairnProdWrite_canon {fn ctx val} {s : State} (h : s.Canon) : OutCanon (execCairnProdWrite fn ctx val s) := by
  unfold execCairnProdWrite
  refine .next ?_
  split
  · exact h.setCtx.takeSkips
  · exact h

theorem execCairnEndWrite_canon {fn ctx val} {s : State} (h : s.Canon) : OutCanon (execCairnEndWrite fn ctx val s) := by
  unfold execCairnEndWrite
  refine .next ?_
  split
  · exact h.setCtx
  · exact h

theorem State.Canon.evFlush {s : State} {fn a} (h : s.Canon) : (s.evFlush fn a).Canon := by
  induction a generalizing s with
  | zero => exact h
  | succ n ih =>
    unfold State.evFlush
    extract_lets +onlyGivenNames r
    split
    · exact h
    · split
      · exact h
      · exact ih h.evWrite

theorem execEvqConsWrite_canon {fn val} {s : State} (h : s.Canon) : OutCanon (execEvqConsWrite fn val s) := by
  unfold execEvqConsWrite
  extract_lets +onlyGivenNames r
  refine .next ?_
  split
  · exact h
  · exact State.Canon.evFlush ⟨h.mem, h.host⟩

theorem execEvqPendClear_canon {fn val} {s : State} (h : s.Canon) : OutCanon (execEvqPendClear fn val s) := by
  unfold execEvqPendClear
  extract_lets +onlyGivenNames r
  refine .next ?_
  split
  · exact h
  · exact ⟨h.mem, h.host⟩

theorem State.Canon.latchLow {s : State} {key val} (h : s.Canon) : (s.latchLow key val).Canon :=
  ⟨h.mem, h.host⟩

theorem State.Canon.writeQueueField {s : State} {fn c val} (h : s.Canon) : (s.writeQueueField fn c val).Canon := by
  unfold State.writeQueueField
  extract_lets +onlyGivenNames x
  split
  · exact h.setCtx
  · exact h

theorem State.Canon.writeCtxReg {s : State} {fn c off val} (h : s.Canon) : (s.writeCtxReg fn c off val).Canon := by
  unfold State.writeCtxReg
  extract_lets +onlyGivenNames x key may
  split
  · exact h.writeQueueField
  · split
    · split
      · exact h
      · split
        · exact h.latchLow
        · exact h.setCtx
    · split
      · exact h
      · split
        · split
          · exact h
          · exact ⟨h.mem, h.host⟩
        · exact h

theorem State.Canon.writeRing {s : State} {fn off val} (h : s.Canon) : (s.writeRing fn off val).Canon := by
  unfold State.writeRing
  extract_lets +onlyGivenNames r key
  split
  · exact h.latchLow
  · split
    · exact State.Canon.evFlush ⟨h.mem, h.host⟩
    · exact State.Canon.evFlush ⟨h.mem, h.host⟩

theorem State.Canon.writeWhole {s : State} {off val} (h : s.Canon) : (s.writeWhole off val).Canon := by
  unfold State.writeWhole
  split
  · split
    · exact h
    · exact ⟨h.mem, h.host⟩
  · split
    · exact h.latchLow
    · split
      · exact ⟨h.mem, h.host⟩
      · split
        · extract_lets +onlyGivenNames f
          split
          · exact h
          · exact ⟨h.mem, h.host⟩
        · split
          · exact h.latchLow
          · split
            · exact ⟨h.mem, h.host⟩
            · split
              · extract_lets +onlyGivenNames p k
                split
                · exact ⟨h.mem, h.host⟩
                · exact h
              · split
                · exact ⟨h.mem, h.host⟩
                · exact h

theorem execRegisterWrite_canon {fn off val} {s : State} (h : s.Canon) : OutCanon (execRegisterWrite fn off val s) := by
  unfold execRegisterWrite
  refine .next ?_
  split
  · exact h
  · split
    · exact h.writeRing
    · split
      · exact h.writeCtxReg
      · split
        · exact h.writeWhole
        · exact h

/-! ## The crest as a row cache -/

theorem upFlank_canon {s : State} {c i page k} (h : s.Canon) : (upFlank s c i page k).1.Canon := by
  unfold upFlank
  split
  · exact h
  · split
    · exact h
    · exact h.modStack

theorem outcomeUp_canon {s : State} {c pa} (h : s.Canon) : (outcomeUp s c pa).1.Canon := by
  unfold outcomeUp
  dsimp only
  split
  · exact h
  · split
    · exact h
    · split
      · exact upFlank_canon h
      · split
        · split
          next _ fst he =>
            exact h
          · exact upFlank_canon h.modStack
        · split
          · exact h
          · split
            · exact h.modStack
            · exact h

theorem outcomeDn_canon {s : State} {x pa} (h : s.Canon) : (outcomeDn s x pa).1.Canon := by
  unfold outcomeDn
  split
  · exact h
  · exact h.modStack

/-! ## Controller events -/

theorem State.Canon.loseAtom {s : State} {pa} (h : s.Canon) : (s.loseAtom pa).Canon := by
  unfold State.loseAtom
  extract_lets +onlyGivenNames i
  split
  · exact h
  · split
    · exact h
    · extract_lets +onlyGivenNames s1
      have h1 : s1.Canon := h.dropLines.postDev
      split
      · exact h1.modStack
      · split
        · split
          · exact h1.modStack.postDev
          · exact h1.modStack

theorem State.Canon.countCe {s : State} {i n} (h : s.Canon) : (s.countCe i n).Canon :=
  h.modStack

theorem serve_canon {s : State} {ext op pa} (h : s.Canon) : (serve s ext op pa).1.Canon := by
  unfold serve
  dsimp only
  split
  · exact h
  · split
    · split
      · exact h
      · split
        · exact h
        · refine State.Canon.useL2 ?_
          split
          · exact h.clearLost.storeExtern
          · exact h.clearLost.storeAll
    · split
      · split
        · exact h
        · refine State.Canon.atController ?_
          split
          · exact h.storeExtern
          · exact h.storeAll
      · split
        · exact h
        · refine State.Canon.atController ?_
          split
          · exact h.storeExtern
          · exact h.storeAll
    · split
      · exact h
      · split
        next _ s1 he =>
          have h1 : s1.Canon := by
            refine State.Canon.of_pair he ?_
            split
            · exact outcomeUp_canon h
            · exact outcomeDn_canon h
          exact h1
        next _ s1 snd _ he2 =>
          have h2 : s1.Canon := by
            refine State.Canon.of_pair he2 ?_
            split
            · exact outcomeUp_canon h
            · exact outcomeDn_canon h
          exact h2
    · split
      · exact h
      · exact h
      · exact h.useL2

theorem execControllerRequest_canon {r e} {s : State} (h : s.Canon) : OutCanon (execControllerRequest r e s) := by
  unfold execControllerRequest
  extract_lets +onlyGivenNames s1
  have h1 : s1.Canon := by
    unfold s1
    split
    · exact h
    · exact h.countCe
    · split
      · exact h.loseAtom
      · exact h
  split
  next _ s2 st data he =>
    have h2 : s2.Canon := State.Canon.of_pair he (serve_canon h1)
    refine .next ?_
    split
    · exact h
    · exact ⟨h2.mem, h2.host⟩

theorem execPatrolScrub_canon {stack fixed bad} {s : State} (h : s.Canon) : OutCanon (execPatrolScrub stack fixed bad s) :=
  .next (h.countCe.foldl fun _ _ h1 => h1.loseAtom)

theorem execHwPromote_canon {stack page} {s : State} (h : s.Canon) : OutCanon (execHwPromote stack page s) := by
  unfold execHwPromote
  refine .next ?_
  split
  · exact h
  · split
    · exact h
    · split
      · exact h
      · exact h.modStack

theorem execPromotionDone_canon {stack page} {s : State} (h : s.Canon) : OutCanon (execPromotionDone stack page s) := by
  unfold execPromotionDone
  refine .next ?_
  split
  · exact h
  · split
    · exact h
    · split
      · exact h
      · exact h.modStack

theorem execWriteBackDone_canon {stack page} {s : State} (h : s.Canon) : OutCanon (execWriteBackDone stack page s) :=
  .next h.modStack

theorem execDieFailing_canon {stack die} {s : State} (h : s.Canon) : OutCanon (execDieFailing stack die s) := by
  unfold execDieFailing
  refine .next ?_
  split
  · exact h.postDev
  · exact h

theorem execBankHot_canon {stack bank} {s : State} (h : s.Canon) : OutCanon (execBankHot stack bank s) := by
  unfold execBankHot
  refine .next ?_
  split
  · exact h.modStack.postDev
  · exact h

theorem State.Canon.discard {s : State} {crest stack a b} (h : s.Canon) : (s.discard crest stack a b).Canon := by
  unfold State.discard
  exact State.Canon.modStack (State.Canon.dropLines (State.Canon.markStaleRun ⟨wfB_zeroB _ _ _ h.mem, h.host⟩))

theorem execCrestWinWrite_canon {stack val} {s : State} (h : s.Canon) : OutCanon (execCrestWinWrite stack val s) := by
  unfold execCrestWinWrite
  refine .next ?_
  split
  · exact h
  · extract_lets +onlyGivenNames s1 w
    have h1 : s1.Canon := h.modStack
    split
    · exact h1
    · exact h1.discard.modStack

theorem execCrestWinDone_canon {stack} {s : State} (h : s.Canon) : OutCanon (execCrestWinDone stack s) :=
  .next h.modStack

theorem execRemapStart_canon {stack val} {s : State} (h : s.Canon) : OutCanon (execRemapStart stack val s) := by
  unfold execRemapStart
  refine .next ?_
  split
  · exact h
  · extract_lets +onlyGivenNames t
    split
    · exact h.modStack
    · split
      · exact h.modStack.postDev
      · extract_lets +onlyGivenNames nb s1
        have h1 : s1.Canon := by
          unfold s1
          split
          · exact h.discard.discard
          · exact h
        exact h1.modStack

theorem State.Canon.moveLosses {s : State} {crest stack page} (h : s.Canon) : (s.moveLosses crest stack page).Canon := by
  unfold State.moveLosses
  exact State.Canon.foldl ⟨h.mem, h.host⟩ fun _ _ h2 => h2.loseAtom

theorem execRemapPageMoved_canon {stack} {s : State} (h : s.Canon) : OutCanon (execRemapPageMoved stack s) := by
  unfold execRemapPageMoved
  refine .next ?_
  split
  · exact h
  · split
    · extract_lets +onlyGivenNames s1
      have h1 : s1.Canon := h.modStack
      split
      · exact h1.moveLosses
      · exact h1
    · exact h

theorem execRemapDone_canon {stack} {s : State} (h : s.Canon) : OutCanon (execRemapDone stack s) := by
  unfold execRemapDone
  refine .next ?_
  split
  · exact h
  · split
    · extract_lets +onlyGivenNames _ _ s1 s2
      have h1 : s1.Canon := State.Canon.modStack ⟨h.mem, h.host⟩
      have h2 : s2.Canon := by
        unfold s2
        split
        · exact h1.discard.discard
        · exact h1
      exact h2.postDev
    · exact h

theorem execHbLostclr_canon {stack val} {s : State} (h : s.Canon) : OutCanon (execHbLostclr stack val s) := by
  unfold execHbLostclr
  refine .next ?_
  split
  · exact h
  · extract_lets +onlyGivenNames pa
    split
    · exact ⟨wfB_fillB _ _ _ _ h.mem, h.host⟩
    · exact h

theorem execHbCeClear_canon {stack val} {s : State} (h : s.Canon) : OutCanon (execHbCeClear stack val s) :=
  .next h.modStack

/-! ## Heat, current and migration -/

theorem execSensorSample_canon {core temp outlet} {s : State} (h : s.Canon) : OutCanon (execSensorSample core temp outlet s) := by
  unfold execSensorSample
  extract_lets +onlyGivenNames _ _ _
  refine .next ?_
  split
  · exact h
  · exact ⟨h.mem, h.host⟩

theorem State.Canon.setCol {s : State} {column k} (h : s.Canon) : (s.setCol column k).Canon :=
  ⟨h.mem, h.host⟩

theorem execScreeDecision_canon {column} {s : State} (h : s.Canon) : OutCanon (execScreeDecision column s) := by
  unfold execScreeDecision
  extract_lets +onlyGivenNames _ _ s1 s2
  have h2 : s2.Canon := ⟨h.mem, h.host⟩
  refine .next ?_
  split
  · exact h
  · split
    · exact h2.setCol
    · split
      · exact h2.setCol
      · split
        · exact h2.setCol
        · exact h2.setCol

theorem State.Canon.beginMove {s : State} {column tid layer} (h : s.Canon) : (s.beginMove column tid layer).Canon :=
  h.modTeam.setCol

theorem execMigrationStart_canon {column} {s : State} (h : s.Canon) : OutCanon (execMigrationStart column s) := by
  unfold execMigrationStart
  extract_lets +onlyGivenNames k
  refine .next ?_
  split
  · exact h
  · split
    · exact h.setCol
    · extract_lets +onlyGivenNames left
      split
      · split
        · exact h.beginMove
        · exact h
      · split
        · exact h.setCol
        · split
          · exact h
          · split
            · exact h.beginMove
            · exact h.modTeam.setCol

theorem execMigrationDeferExpiry_canon {column} {s : State} (h : s.Canon) : OutCanon (execMigrationDeferExpiry column s) := by
  unfold execMigrationDeferExpiry
  extract_lets +onlyGivenNames k
  refine .next ?_
  split
  · split
    · exact h.beginMove
    · exact h
  · exact h

theorem State.Canon.moveInsts {s : State} {t core} (h : s.Canon) : (s.moveInsts t core).Canon := by
  unfold State.moveInsts
  refine h.foldl fun _ _ h2 => ?_
  split
  · exact h2.setInst
  · split
    · exact State.Canon.setInst ⟨h2.mem, h2.host⟩
    · exact ⟨h2.mem, h2.host⟩

theorem execMigrationDone_canon {column} {s : State} (h : s.Canon) : OutCanon (execMigrationDone column s) := by
  unfold execMigrationDone
  extract_lets +onlyGivenNames k
  refine .next ?_
  split
  · exact h
  · split
    · exact h.setCol
    · extract_lets +onlyGivenNames n
      split
      · exact h
      · split
        next _ s1 he =>
          have h1 : s1.Canon := h.coverSaved.of_error he
          exact h1
        next _ s1 he =>
          have h2 : s1.Canon := h.coverSaved.of_ok he
          extract_lets +onlyGivenNames s2 s3 s4 s5
          have h2 : s2.Canon := h2.modTeam.takeCore.moveInsts.setCol
          have h3 : s3.Canon := h2.modTeam
          have h4 : s4.Canon := ⟨h3.mem, h3.host⟩
          have h5 : s5.Canon := ⟨h4.mem, h4.host⟩
          exact h5.count.count.cutTry

theorem execBalanceWindow_canon {massif rail load} {s : State} (h : s.Canon) :
    OutCanon (execBalanceWindow massif rail load s) := by
  unfold execBalanceWindow
  extract_lets +onlyGivenNames key b wi lo spread last new
  refine .next ?_
  split
  · exact ⟨h.mem, h.host⟩
  · exact h

theorem State.Canon.toPoint {s : State} {point} (h : s.Canon) : (s.toPoint point).Canon :=
  ⟨h.mem, h.host⟩

theorem execClockPointChange_canon {point} {s : State} (h : s.Canon) : OutCanon (execClockPointChange point s) := by
  unfold execClockPointChange
  refine .next ?_
  split
  · exact h.toPoint
  · exact h

theorem execPowerEnforce_canon {power} {s : State} (h : s.Canon) : OutCanon (execPowerEnforce power s) := by
  unfold execPowerEnforce
  refine .next ?_
  split
  · exact h
  · split
    · exact h.toPoint
    · exact h.foldl fun _ _ h1 => h1.setCol

theorem execPwrCap_canon {val} {s : State} (h : s.Canon) : OutCanon (execPwrCap val s) := by
  unfold execPwrCap
  extract_lets +onlyGivenNames seq cap
  refine .next ?_
  split
  · exact h
  · exact ⟨h.mem, h.host⟩

theorem execLeaseExpired_canon {s : State} (h : s.Canon) : OutCanon (execLeaseExpired s) := by
  unfold execLeaseExpired
  refine .next ?_
  split
  · exact State.Canon.postDev ⟨h.mem, h.host⟩
  · exact h

theorem State.Canon.slowAll {s : State} (h : s.Canon) : (s.slowAll).Canon :=
  h.foldl fun _ _ h1 => h1.setCol

theorem State.Canon.markSaved {s : State} (h : s.Canon) : (s.markSaved).Canon :=
  ⟨h.mem, h.host⟩

theorem execThermEmerg_canon {s : State} (h : s.Canon) : OutCanon (execThermEmerg s) := by
  unfold execThermEmerg
  refine .next ?_
  split
  · exact h
  · exact State.Canon.foldl (State.Canon.postDev (State.Canon.markSaved (State.Canon.slowAll ⟨h.mem, h.host⟩))) fun _ _ h1 =>
        h1.requestCtx

theorem execEmergDeadline_canon {s : State} (h : s.Canon) : OutCanon (execEmergDeadline s) := by
  unfold execEmergDeadline
  refine .next ?_
  split
  · exact h.foldl fun _ _ h1 => h1.postFatal.teamKilled
  · exact h

theorem State.Canon.flushTeam {s : State} {t} (h : s.Canon) : Leads (fun _ => True) State.Canon (s.flushTeam t) :=
  h.withAsks.saveAll.bind fun _ h1 => (ownWrites_canon h1).bind fun _ h2 => .pure h2.modTeam.doneAsks

theorem execEmergRailsOff_canon {s : State} (h : s.Canon) : OutCanon (execEmergRailsOff s) := by
  unfold execEmergRailsOff
  refine .next ?_
  split
  · exact h
  · split
    · split
      next _ s1 he =>
        have h1 : s1.Canon := h.flushTeam.of_ok he
        exact h1
      · exact h.saveFailed
    · exact ⟨h.mem, h.host⟩

theorem execThermResume_canon {val} {s : State} (h : s.Canon) : OutCanon (execThermResume val s) := by
  unfold execThermResume
  extract_lets +onlyGivenNames _ _ _ _
  refine .next ?_
  split
  · exact h
  · split
    · exact ⟨h.mem, h.host⟩
    · exact ⟨h.mem, h.host⟩

theorem execLogicalClockAdvance_canon {s : State} (h : s.Canon) : OutCanon (execLogicalClockAdvance s) :=
  .next h.ttAdvance

/-! ## FENCE, TSYNC and CSYNC -/

theorem State.Canon.fenced {s : State} {gid eng sc} (h : s.Canon) : (s.fenced gid eng sc).Canon := by
  unfold State.fenced
  split
  · exact h
  · exact h
  · exact h.landLate
  · exact h.landLate
  · exact h.landLate

theorem execFence_canon {g eng sc} {s : State} (h : s.Canon) : OutCanon (execFence g eng sc s) := by
  unfold execFence
  refine h.uniform fun _ => ?_
  split
  · exact .error (.park h)
  · exact .ok h.fenced.retire

theorem syncAgain_canon {s : State} {e w met} (h : s.Canon) : (syncAgain s e w met).Canon := by
  unfold syncAgain
  split
  · exact State.Canon.stepEnds ⟨h.mem, h.host⟩
  · extract_lets +onlyGivenNames s1 s2
    have h2 : s2.Canon := ⟨h.mem, h.host⟩
    split
    · exact h2.stepEnds
    · exact h2

theorem teamSync_canon {s : State} {e} (h : s.Canon) : (teamSync s e).Canon := by
  unfold teamSync
  split
  · exact syncAgain_canon h
  · exact State.Canon.syncTeam (State.Canon.stepEnds (State.Canon.countRetired ⟨h.mem, h.host⟩))

theorem execTsync_canon {g} {s : State} (h : s.Canon) : OutCanon (execTsync g s) :=
  h.uniform fun _ => .ok ((teamSync_canon h).cutTry)

theorem execCsync_canon {g} {s : State} (h : s.Canon) : OutCanon (execCsync g s) := by
  unfold execCsync
  refine h.uniform fun _ => ?_
  split
  · exact .ok ((teamSync_canon h).cutTry)
  · split
    · exact .ok (syncAgain_canon h)
    · extract_lets +onlyGivenNames s1 s2
      have h1 : s1.Canon := h.landOf.setGroup
      have h2 : s2.Canon := ⟨h1.mem, h1.host⟩
      exact .ok h2.countRetired.syncCluster.cutTry

/-! ## Accumulator tiles -/

theorem checkTiles_canon {e t n info} : Leads Stop.Canon (fun _ => True) (checkTiles e t n info) := by
  unfold checkTiles
  split
  · exact trapWith_canon
  · exact .ok trivial

theorem interlock_canon {s : State} {e ts} (h : s.Canon) : Leads Stop.Canon (fun _ => True) (interlock s e ts) := by
  unfold interlock
  split
  · exact .error (.park h)
  · exact .ok trivial

theorem execMmaRetire_canon {tid} {s : State} (h : s.Canon) : OutCanon (execMmaRetire tid s) :=
  .next h.modTeam.dropInsts

theorem execAclr_canon {g t n} {s : State} (h : s.Canon) : OutCanon (execAclr g t n s) :=
  h.uniform fun _ => checkTiles_canon.bind fun _ _ => (interlock_canon h).bind fun _ _ => .ok h.modTeam.retire

theorem tileAddr_canon {e a b} : Leads Stop.Canon (fun _ => True) (tileAddr e a b) := by
  unfold tileAddr
  extract_lets +onlyGivenNames ga
  split
  · exact trapWith_canon
  · split
    · exact trapWith_canon
    · exact .ok trivial

theorem execAld_canon {g t a b} {s : State} (h : s.Canon) : OutCanon (execAld g t a b s) := by
  unfold execAld
  exact h.uniform fun _ => checkTiles_canon.bind fun _ _ => tileAddr_canon.bind fun _ _ => (interlock_canon h).bind fun _ _ =>
      ((loadLanes_canon h).mapError fun _ h3 => Stop_holding_canon h3).bind fun ⟨_, _⟩ h4 => .ok h4.modTeam.retire

theorem execAst_canon {g t a b} {s : State} (h : s.Canon) : OutCanon (execAst g t a b s) :=
  h.uniform fun _ => checkTiles_canon.bind fun _ _ => tileAddr_canon.bind fun _ _ => (interlock_canon h).bind fun _ _ =>
      ((storeLanes_canon h).mapError fun _ h1 => Stop_holding_canon h1).bind fun _ h2 => .ok h2.retire

theorem execArd_canon {g d t q} {s : State} (h : s.Canon) : OutCanon (execArd g d t q s) := by
  unfold execArd
  refine h.run fun _ => ?_
  extract_lets +onlyGivenNames m
  split
  · exact .ok h.retire
  · exact checkTiles_canon.bind fun _ _ => (interlock_canon h).bind fun _ _ => .ok h.retire

theorem execAwr_canon {g t a q} {s : State} (h : s.Canon) : OutCanon (execAwr g t a q s) := by
  unfold execAwr
  refine h.run fun _ => ?_
  extract_lets +onlyGivenNames m
  split
  · exact .ok h.retire
  · exact checkTiles_canon.bind fun _ _ => (interlock_canon h).bind fun _ _ => .ok h.modTeam.retire

/-! ## Multiply instructions -/

theorem mmaStep1_canon {e x c w} : Leads Stop.Canon (fun _ => True) (mmaStep1 e x c w) := by
  unfold mmaStep1
  split
  · exact trapWith_canon
  · split
    · exact trapWith_canon
    · split
      · exact trapWith_canon
      · split
        · exact trapWith_canon
        · exact .ok trivial

theorem mmaFormats_canon {x c w fb} : Leads Stop.Canon (fun _ => True) (mmaFormats x c w fb) := by
  unfold mmaFormats
  extract_lets +onlyGivenNames ok
  split
  · exact .ok trivial
  · exact trapWith_canon

theorem multiply_canon {s : State} {e x c b} (h : s.Canon) : (multiply s e x c b).Canon :=
  h.modTeam.retire

theorem multiplyNone_canon {s : State} {e} (h : s.Canon) : (multiplyNone s e).Canon :=
  h.retire

theorem State.Canon.uses {s : State} {e slot} (h : s.Canon) : (s.uses e slot).Canon := by
  unfold State.uses
  split
  · exact h.putInst
  · exact h

theorem fromResid_canon {s : State} {e x c w} (h : s.Canon) : Leads Stop.Canon State.Canon (fromResid s e x c w) := by
  unfold fromResid
  extract_lets +onlyGivenNames w1 t
  split
  · exact trapWith_canon
  · split
    · exact trapWith_canon
    · split
      · exact trapWith_canon
      · split
        · exact trapWith_canon
        · refine mmaFormats_canon.bind fun _ _ => ?_
          split
          · exact .ok (multiplyNone_canon h.uses)
          · refine (interlock_canon h).bind fun _ _ => ?_
            split
            · exact (startLoad_canon h).bind fun _ h1 => .error (.park h1)
            · split
              · exact .error (.park h.putInst)
              · exact .ok (multiply_canon h.putInst)

theorem fromResv_canon {s : State} {e x c w} (h : s.Canon) : Leads Stop.Canon State.Canon (fromResv s e x c w) := by
  unfold fromResv
  extract_lets +onlyGivenNames id t
  split
  · exact trapWith_canon
  · split
    · exact trapWith_canon
    · refine mmaFormats_canon.bind fun _ _ => ?_
      split
      · exact .ok (multiplyNone_canon h)
      · refine (interlock_canon h).bind fun _ _ => ?_
        split
        · exact .error (.park h)
        · exact .ok (multiply_canon h)

theorem fetchPlaces_canon {s : State} {e ps} (h : s.Canon) : Leads Stop.Canon (fun r => r.1.Canon) (fetchPlaces s e ps) := by
  unfold fetchPlaces
  split
  · exact .error (.park h)
  · exact (readPlaces_canon h fun _ _ h1 => h1.engineMeets).bind fun ⟨_, _⟩ h2 => .pure h2

theorem fetchGoesOn_canon {s : State} {e f} (h : s.Canon) : Leads Stop.Canon (fun r => r.1.Canon) (fetchGoesOn s e f) := by
  unfold fetchGoesOn
  exact (readsGoOn_canon h fun _ _ h3 => h3.engineMeets).bind fun ⟨_, _⟩ h4 => .pure h4

theorem fetchBox_canon {s : State} {e x c src rs resv due} (h : s.Canon) :
    Leads Stop.Canon (fun r => r.1.Canon) (fetchBox s e x c src rs resv due) := by
  unfold fetchBox
  split
  · exact ((fetchGoesOn_canon h).mapError fun _ h1 => Stop_holding_canon h1).bind fun ⟨_, _⟩ h2 => .pure h2
  · refine (xlateEach_canon h).bind fun ⟨_, _⟩ h3 => ?_
    dsimp -zeta -zetaHave only
    split
    · exact .pure h3
    · refine (interlock_canon h3).bind fun _ _ => ?_
      split
      · exact .error (.park h3)
      · exact ((fetchPlaces_canon h3.landOf).mapError fun _ h4 => Stop_holding_canon h4).bind fun _ h5 => .pure h5

theorem fromShape_canon {s : State} {e x c w} (h : s.Canon) : Leads Stop.Canon State.Canon (fromShape s e x c w) := by
  unfold fromShape
  extract_lets +onlyGivenNames h1 o z tile
  split
  · exact trapWith_canon
  · split
    · exact trapWith_canon
    · split
      · exact trapWith_canon
      · split
        · exact trapWith_canon
        · refine mmaFormats_canon.bind fun _ _ => ?_
          extract_lets +onlyGivenNames sh
          split
          extract_lets +onlyGivenNames at_ rest
          have hrest : ∀ u, Leads Stop.Canon State.Canon (rest u) := by
            intro _
            refine shapeBase_canon.bind fun _ _ => ?_
            dsimp only
            split
            · exact trapWith_canon
            · refine (fetchBox_canon h).bind fun _ h1 => ?_
              split
              · exact .ok (multiplyNone_canon h1)
              · exact .ok (multiply_canon (State.Canon.modTeam h1))
          split
          · exact .error .trap
          · exact hrest ()

theorem State.Canon.mma {s : State} {q x f} (h : s.Canon) (hf : ∀ x0 x1 x2, Leads Stop.Canon State.Canon (f x0 x1 x2)) :
    OutCanon (s.mma q x f) :=
  h.uniform fun _ => mmaStep1_canon.bind fun _ _ => hf _ _ _

theorem execMmab_canon {g t c r a b} {s : State} (h : s.Canon) : OutCanon (execMmab g t c r a b s) :=
  h.mma fun _ _ _ => fromResid_canon h

theorem execMmao_canon {g t c r a b} {s : State} (h : s.Canon) : OutCanon (execMmao g t c r a b s) :=
  h.mma fun _ _ _ => fromResv_canon h

theorem execMmag_canon {g t c r a b} {s : State} (h : s.Canon) : OutCanon (execMmag g t c r a b s) :=
  h.mma fun _ _ _ => fromShape_canon h

theorem execDmma_canon {g t c r ob a b} {s : State} (h : s.Canon) : OutCanon (execDmma g t c r ob a b s) := by
  unfold execDmma
  split
  · refine h.mma fun _ _ _ => ?_
    split
    · exact fromResv_canon h
    · exact fromResid_canon h
  · exact h.run fun _ => trapWith_canon

/-! ## Buffer instructions -/

theorem State.Canon.bufferOp {s : State} {q a f} (h : s.Canon) (hf : ∀ x0 x1 x2, Leads Stop.Canon State.Canon (f x0 x1 x2)) :
    OutCanon (s.bufferOp q a f) := by
  unfold State.bufferOp
  refine h.uniform fun _ => ?_
  split
  · exact trapWith_canon
  · exact hf _ _ _

theorem execBufget_canon {g d a} {s : State} (h : s.Canon) : OutCanon (execBufget g d a s) := by
  unfold execBufget
  refine h.bufferOp fun _ _ _ => ?_
  split
  · exact .ok h.bufOp.retire
  · exact .error (.park h)

theorem execBufput_canon {g a} {s : State} (h : s.Canon) : OutCanon (execBufput g a s) := by
  unfold execBufput
  refine h.bufferOp fun _ _ _ => ?_
  split
  · exact trapWith_canon
  · exact .ok h.bufOp.retire

theorem execBufwait_canon {g a sc} {s : State} (h : s.Canon) : OutCanon (execBufwait g a sc s) := by
  unfold execBufwait
  refine h.bufferOp fun _ _ _ => ?_
  split
  · exact .ok h.retire
  · exact .error (.park h)

theorem execBufq_canon {g d a} {s : State} (h : s.Canon) : OutCanon (execBufq g d a s) :=
  h.bufferOp fun _ _ _ => detBan_canon.bind fun _ _ => (sampleOpen_canon h).bind fun _ _ => .ok h.sampleClose.retire

/-! ## Control flow -/

theorem transferTrap_canon {e take x target z} (hz : transferTrap e take x target = some z) : z.Canon := by
  unfold transferTrap at hz
  dsimp only at hz
  repeat' split at hz
  all_goals cases hz
  all_goals exact .trap

theorem State.Canon.transfer {s : State} {p x target} (h : s.Canon) : OutCanon (s.transfer p x target) := by
  unfold State.transfer
  refine h.run fun _ => ?_
  extract_lets +onlyGivenNames take goal
  split
  next _ z he =>
    have h1 : Stop.Canon z := transferTrap_canon he
    exact .error h1
  · exact .ok h.retireAt

theorem execBra_canon {g o w u} {s : State} (h : s.Canon) : OutCanon (execBra g o w u s) :=
  h.transfer

theorem execBral_canon {g w u lit} {s : State} (h : s.Canon) : OutCanon (execBral g w u lit s) :=
  h.transfer

theorem execBrx_canon {g a w u} {s : State} (h : s.Canon) : OutCanon (execBrx g a w u s) :=
  h.transfer

theorem execCall_canon {g d o u} {s : State} (h : s.Canon) : OutCanon (execCall g d o u s) :=
  h.transfer

theorem execCallx_canon {g d a u} {s : State} (h : s.Canon) : OutCanon (execCallx g d a u s) :=
  h.transfer

theorem execRet_canon {g a u} {s : State} (h : s.Canon) : OutCanon (execRet g a u s) :=
  h.transfer

theorem State.Canon.endGroup {s : State} {e g} (h : s.Canon) : (s.endGroup e g).Canon :=
  h.retireAt.groupEnd.groupGone

theorem execExit_canon {g} {s : State} (h : s.Canon) : OutCanon (execExit g s) := by
  unfold execExit
  refine h.run fun _ => ?_
  extract_lets +onlyGivenNames w
  split
  · exact .ok h.endGroup
  · exact .ok h.retireAt

theorem execTrap_canon {g c} {s : State} (h : s.Canon) : OutCanon (execTrap g c s) := by
  unfold execTrap
  refine h.run fun _ => ?_
  extract_lets +onlyGivenNames m
  split
  · exact .ok h.retire
  · exact .error .trap

theorem State.Canon.ubranch {s : State} {q off} (h : s.Canon) : OutCanon (s.ubranch q off) := by
  unfold State.ubranch
  refine h.uniform fun _ => ?_
  extract_lets +onlyGivenNames goal
  split
  · exact trapWith_canon
  · exact .ok h.retireAt

theorem execUbra_canon {g o a2} {s : State} (h : s.Canon) : OutCanon (execUbra g o a2 s) :=
  h.ubranch

theorem execUbral_canon {g a1 lit} {s : State} (h : s.Canon) : OutCanon (execUbral g a1 lit s) :=
  h.ubranch

theorem execUnop_canon {g} {s : State} (h : s.Canon) : OutCanon (execUnop g s) :=
  h.uniform fun _ => .ok h.retire

theorem execYield_canon {g} {s : State} (h : s.Canon) : OutCanon (execYield g s) := by
  unfold execYield
  refine h.uniform fun _ => ?_
  split
  · exact .ok h.retire.stopAt
  · exact .ok h.retire

theorem execUtrap_canon {g c} {s : State} (h : s.Canon) : OutCanon (execUtrap g c s) :=
  h.uniform fun _ => trapWith_canon

/-! ## Conversions -/

theorem State.Canon.convert {s : State} {g d wide f} (h : s.Canon) : OutCanon (s.convert g d wide f) := by
  unfold State.convert
  split
  · exact h.laneOp2
  · exact h.laneOp

theorem execCvtFi_canon {g d a rm i o} {s : State} (h : s.Canon) : OutCanon (execCvtFi g d a rm i o s) :=
  h.convert

theorem execCvtIf_canon {g d a rm sat i o} {s : State} (h : s.Canon) : OutCanon (execCvtIf g d a rm sat i o s) :=
  h.convert

theorem execCvtFf_canon {g d a rm sat i o} {s : State} (h : s.Canon) : OutCanon (execCvtFf g d a rm sat i o s) :=
  h.convert

theorem State.Canon.controlled {s : State} {g d b widen f} (h : s.Canon) : OutCanon (s.controlled g d b widen f) := by
  unfold State.controlled
  refine h.run fun _ => ?_
  split
  · exact .ok h.retire
  · split
    · exact trapWith_canon
    · exact .ok h.retire

theorem execCvtNr_canon {g d a b} {s : State} (h : s.Canon) : OutCanon (execCvtNr g d a b s) :=
  h.controlled

theorem execCvtWd_canon {g d a b} {s : State} (h : s.Canon) : OutCanon (execCvtWd g d a b s) :=
  h.controlled

theorem execFrnd_canon {g d a rm f64} {s : State} (h : s.Canon) : OutCanon (execFrnd g d a rm f64 s) :=
  h.convert

theorem execFldexp_canon {g d a b} {s : State} (h : s.Canon) : OutCanon (execFldexp g d a b s) :=
  h.laneOp

/-! ## Integer instructions -/

theorem execIadd_canon {g d a b} {s : State} (h : s.Canon) : OutCanon (execIadd g d a b s) :=
  h.laneOp

theorem execIsub_canon {g d a b} {s : State} (h : s.Canon) : OutCanon (execIsub g d a b s) :=
  h.laneOp

theorem execImul_canon {g d a b} {s : State} (h : s.Canon) : OutCanon (execImul g d a b s) :=
  h.laneOp

theorem execImulhS_canon {g d a b} {s : State} (h : s.Canon) : OutCanon (execImulhS g d a b s) :=
  h.laneOp

theorem execImulhN_canon {g d a b} {s : State} (h : s.Canon) : OutCanon (execImulhN g d a b s) :=
  h.laneOp

theorem execImad_canon {g d a b} {s : State} (h : s.Canon) : OutCanon (execImad g d a b s) :=
  h.laneOp

theorem execIaddi_canon {g d a lit} {s : State} (h : s.Canon) : OutCanon (execIaddi g d a lit s) :=
  h.laneOp

theorem execIminS_canon {g d a b} {s : State} (h : s.Canon) : OutCanon (execIminS g d a b s) :=
  h.laneOp

theorem execIminN_canon {g d a b} {s : State} (h : s.Canon) : OutCanon (execIminN g d a b s) :=
  h.laneOp

theorem execImaxS_canon {g d a b} {s : State} (h : s.Canon) : OutCanon (execImaxS g d a b s) :=
  h.laneOp

theorem execImaxN_canon {g d a b} {s : State} (h : s.Canon) : OutCanon (execImaxN g d a b s) :=
  h.laneOp

theorem execIadd64_canon {g d a b} {s : State} (h : s.Canon) : OutCanon (execIadd64 g d a b s) :=
  h.laneOp2

theorem execIsub64_canon {g d a b} {s : State} (h : s.Canon) : OutCanon (execIsub64 g d a b s) :=
  h.laneOp2

theorem execImadw_canon {g d a b} {s : State} (h : s.Canon) : OutCanon (execImadw g d a b s) :=
  h.laneOp2

theorem execLeai_canon {g d m x} {s : State} (h : s.Canon) : OutCanon (execLeai g d m x s) :=
  h.laneOp2

theorem execAnd_canon {g d a b} {s : State} (h : s.Canon) : OutCanon (execAnd g d a b s) :=
  h.laneOp

theorem execOr_canon {g d a b} {s : State} (h : s.Canon) : OutCanon (execOr g d a b s) :=
  h.laneOp

theorem execXor_canon {g d a b} {s : State} (h : s.Canon) : OutCanon (execXor g d a b s) :=
  h.laneOp

theorem execNot_canon {g d a} {s : State} (h : s.Canon) : OutCanon (execNot g d a s) :=
  h.laneOp

theorem execShl_canon {g d a b} {s : State} (h : s.Canon) : OutCanon (execShl g d a b s) :=
  h.laneOp

theorem execShrN_canon {g d a b} {s : State} (h : s.Canon) : OutCanon (execShrN g d a b s) :=
  h.laneOp

theorem execShrS_canon {g d a b} {s : State} (h : s.Canon) : OutCanon (execShrS g d a b s) :=
  h.laneOp

theorem execRotl_canon {g d a b} {s : State} (h : s.Canon) : OutCanon (execRotl g d a b s) :=
  h.laneOp

theorem execBfxS_canon {g d a b} {s : State} (h : s.Canon) : OutCanon (execBfxS g d a b s) :=
  h.laneOp

theorem execBfxN_canon {g d a b} {s : State} (h : s.Canon) : OutCanon (execBfxN g d a b s) :=
  h.laneOp

theorem execBfi_canon {g d a b} {s : State} (h : s.Canon) : OutCanon (execBfi g d a b s) :=
  h.laneOp

theorem execPopc_canon {g d a} {s : State} (h : s.Canon) : OutCanon (execPopc g d a s) :=
  h.laneOp

theorem execClz_canon {g d a} {s : State} (h : s.Canon) : OutCanon (execClz g d a s) :=
  h.laneOp

theorem execBrev_canon {g d a} {s : State} (h : s.Canon) : OutCanon (execBrev g d a s) :=
  h.laneOp

theorem execMov_canon {g d a} {s : State} (h : s.Canon) : OutCanon (execMov g d a s) :=
  h.laneOp

theorem execMovi_canon {g d lit} {s : State} (h : s.Canon) : OutCanon (execMovi g d lit s) :=
  h.laneOp

theorem execIabs_canon {g d a} {s : State} (h : s.Canon) : OutCanon (execIabs g d a s) :=
  h.laneOp

/-! ## Cross-lane instructions -/

theorem State.Canon.shuffle {s : State} {g d a b f} (h : s.Canon) : OutCanon (s.shuffle g d a b f) :=
  h.run fun _ => .ok h.retire

theorem execShfl_canon {g d a b} {s : State} (h : s.Canon) : OutCanon (execShfl g d a b s) :=
  h.shuffle

theorem execShflx_canon {g d a b} {s : State} (h : s.Canon) : OutCanon (execShflx g d a b s) :=
  h.shuffle

theorem execShflup_canon {g d a b} {s : State} (h : s.Canon) : OutCanon (execShflup g d a b s) :=
  h.shuffle

theorem execShfldn_canon {g d a b} {s : State} (h : s.Canon) : OutCanon (execShfldn g d a b s) :=
  h.shuffle

theorem execVote_canon {g d a m} {s : State} (h : s.Canon) : OutCanon (execVote g d a m s) :=
  h.run fun _ => .ok h.retire

theorem execBallot_canon {g d a} {s : State} (h : s.Canon) : OutCanon (execBallot g d a s) :=
  h.run fun _ => .ok h.retire

theorem execMatchLanes_canon {g d a} {s : State} (h : s.Canon) : OutCanon (execMatchLanes g d a s) :=
  h.run fun _ => .ok h.retire

theorem execLscan_canon {g d a o excl} {s : State} (h : s.Canon) : OutCanon (execLscan g d a o excl s) :=
  h.run fun _ => .ok h.retire

theorem execLred_canon {g d a o} {s : State} (h : s.Canon) : OutCanon (execLred g d a o s) := by
  unfold execLred
  refine h.run fun _ => ?_
  extract_lets +onlyGivenNames t
  split
  · exact .ok h.retire
  · exact .ok h.retire

/-! ## Special registers -/

theorem State.Canon.sread {s : State} {a takes put} (h : s.Canon) : OutCanon (s.sread a takes put) := by
  unfold State.sread
  refine h.run fun _ => ?_
  split
  · exact trapWith_canon
  · split
    · exact .ok h.retire
    · split
      · exact (sampleOpen_canon h).bind fun _ _ => .ok h.sampleClose.retire
      · exact .ok h.retire

theorem execSreadV_canon {g d a} {s : State} (h : s.Canon) : OutCanon (execSreadV g d a s) :=
  h.sread

theorem execSreadK_canon {g d a} {s : State} (h : s.Canon) : OutCanon (execSreadK g d a s) :=
  h.sread

/-! ## Uniform arithmetic -/

theorem execUiadd_canon {g d a b} {s : State} (h : s.Canon) : OutCanon (execUiadd g d a b s) :=
  h.uniOp

theorem execUisub_canon {g d a b} {s : State} (h : s.Canon) : OutCanon (execUisub g d a b s) :=
  h.uniOp

theorem execUimul_canon {g d a b} {s : State} (h : s.Canon) : OutCanon (execUimul g d a b s) :=
  h.uniOp

theorem execUimad_canon {g d a b} {s : State} (h : s.Canon) : OutCanon (execUimad g d a b s) :=
  h.uniOp

theorem execUiaddi_canon {g d a lit} {s : State} (h : s.Canon) : OutCanon (execUiaddi g d a lit s) :=
  h.uniOp

theorem execUiadd64_canon {g d a b} {s : State} (h : s.Canon) : OutCanon (execUiadd64 g d a b s) :=
  h.uniOp2

theorem execUmov_canon {g d a} {s : State} (h : s.Canon) : OutCanon (execUmov g d a s) :=
  h.uniOp

theorem execUmovi_canon {g d lit} {s : State} (h : s.Canon) : OutCanon (execUmovi g d lit s) :=
  h.uniOp

theorem execUand_canon {g d a b} {s : State} (h : s.Canon) : OutCanon (execUand g d a b s) :=
  h.uniOp

theorem execUor_canon {g d a b} {s : State} (h : s.Canon) : OutCanon (execUor g d a b s) :=
  h.uniOp

theorem execUxor_canon {g d a b} {s : State} (h : s.Canon) : OutCanon (execUxor g d a b s) :=
  h.uniOp

theorem execUshl_canon {g d a b} {s : State} (h : s.Canon) : OutCanon (execUshl g d a b s) :=
  h.uniOp

theorem execUshrN_canon {g d a b} {s : State} (h : s.Canon) : OutCanon (execUshrN g d a b s) :=
  h.uniOp

theorem execUshrS_canon {g d a b} {s : State} (h : s.Canon) : OutCanon (execUshrS g d a b s) :=
  h.uniOp

theorem execUfadd_canon {g d a b} {s : State} (h : s.Canon) : OutCanon (execUfadd g d a b s) :=
  h.uniOp

theorem execUfmul_canon {g d a b} {s : State} (h : s.Canon) : OutCanon (execUfmul g d a b s) :=
  h.uniOp

theorem execUffma_canon {g d a b} {s : State} (h : s.Canon) : OutCanon (execUffma g d a b s) :=
  h.uniOp

theorem execUbfx_canon {g d a b} {s : State} (h : s.Canon) : OutCanon (execUbfx g d a b s) :=
  h.uniOp

/-! ## Run-ahead after a page fault -/

/-- What runs ahead runs on a copy of the state, of which no memory is kept (R91). -/
theorem runAhead_canon {s : State} {g c f} (h : s.Canon) : (runAhead s g c f).1.Canon := by
  unfold runAhead
  dsimp only
  split
  · exact h
  · exact State.Canon.modCtx ⟨h.mem, h.host⟩

theorem execPageFaultRunahead_canon {gid} {s : State} (h : s.Canon) : OutCanon (execPageFaultRunahead gid s) := by
  unfold execPageFaultRunahead
  refine .next ?_
  split
  · split
    · split
      · exact h
      · split
        next _ s1 f1 he =>
          have h1 : s1.Canon := by
            refine State.Canon.of_pair he ?_
            split
            · exact h
            · exact runAhead_canon h
          exact h1.modGroup
    · exact h
  · exact h

theorem execFaultBatchPost_canon {gid} {s : State} (h : s.Canon) : OutCanon (execFaultBatchPost gid s) := by
  unfold execFaultBatchPost
  refine .next ?_
  split
  · split
    · extract_lets +onlyGivenNames x
      split
      · exact h
      · exact h.writeOwn.tqPost.modGroup.cutTry
    · exact h
  · exact h

/-! ## The dispatcher -/

theorem State.Canon.startTeam {s : State} {g rank column layer} (h : s.Canon) : (s.startTeam g rank column layer).Canon := by
  unfold State.startTeam
  exact State.Canon.takeCore ⟨h.mem, h.host⟩

theorem coverUnit_canon {s : State} {after a} (h : s.Canon) : Leads State.Canon State.Canon (coverUnit s after a) := by
  induction a generalizing s with
  | nil => exact .ok h
  | cons x l ih =>
    unfold coverUnit
    exact h.coverSaved.bind fun _ h1 => ih h1

theorem State.Canon.startUnit {s : State} {g ps} (h : s.Canon) : (s.startUnit g ps).Canon :=
  h.foldl fun _ _ h1 => h1.startTeam

theorem State.Canon.placeAt {s1 : State} {g ps} (h : s1.Canon) : (s1.placeAt g ps).Canon := by
  unfold State.placeAt
  extract_lets +onlyGivenNames s2 s3
  have h2 : s2.Canon := h.startUnit
  exact State.Canon.modCtx ⟨h2.mem, h2.host⟩

theorem tryUnit_canon {s : State} {g} (h : s.Canon) : Tried.Canon (tryUnit s g) := by
  unfold tryUnit
  split
  · exact .full
  · split
    · exact .behind
    · split
      next _ s1 he =>
        have h1 : s1.Canon := (coverUnit_canon h).of_error he
        exact .placed h1
      next _ s1 he =>
        have h2 : s1.Canon := (coverUnit_canon h).of_ok he
        split
        next _ s11 he1 =>
          exact .held h.waitFor
        · exact .placed h.unitDiverges.cancelGrid
        next _ s11 r he1 =>
          have h4 : s11.Canon := (unitLogged_canon h2).of_done he1
          exact .placed h4.placeAt

theorem State.Canon.markBlocked {s : State} {g} (h : s.Canon) : (s.markBlocked g).Canon :=
  h.modGrid

theorem dispatchOne_canon {s : State} {a} (h : s.Canon) : (dispatchOne s a).Canon := by
  induction a generalizing s with
  | nil => exact h
  | cons x l ih =>
    unfold dispatchOne
    split
    next _ s1 he =>
      have h1 : s1.Canon := (tryUnit_canon h).of_placed he
      exact h1
    next _ s1 he =>
      have h2 : s1.Canon := (tryUnit_canon h).of_held he
      exact ih h2
    · exact h
    · split
      · exact h.markBlocked
      · exact ih h.markBlocked

theorem execDispatch_canon {s : State} (h : s.Canon) : OutCanon (execDispatch s) := by
  unfold execDispatch
  refine .next ?_
  split
  · exact (dispatchOne_canon h).of_eq rfl rfl
  · exact h

theorem execBackfillStop_canon {s : State} (h : s.Canon) : OutCanon (execBackfillStop s) := by
  unfold execBackfillStop
  refine .next ?_
  split
  · exact h
  · split
    · exact h.modGrid
    · exact h

theorem execDispatchPreempt_canon {s : State} (h : s.Canon) : OutCanon (execDispatchPreempt s) := by
  unfold execDispatchPreempt
  refine .next ?_
  split
  · exact h.requestCtx
  · exact h

/-! ## The host and the peers -/

theorem State.Canon.emit {s : State} {m} (h : s.Canon) : (s.emit m).Canon :=
  ⟨h.mem, h.host⟩

theorem execHostBar4Read_canon {off len} {s : State} (h : s.Canon) : OutCanon (execHostBar4Read off len s) := by
  unfold execHostBar4Read
  refine .next ?_
  split
  · exact h
  · split
    · exact h.emit
    · split
      · exact State.Canon.emit ⟨h.mem, h.host⟩
      · exact State.Canon.emit ⟨h.mem, h.host⟩
      · exact State.Canon.runL2 (State.Canon.emit ⟨h.mem, h.host⟩)

theorem execHostBar4Write_canon {off data} {s : State} (h : s.Canon) : OutCanon (execHostBar4Write off data s) := by
  unfold execHostBar4Write
  extract_lets +onlyGivenNames ws
  refine .next ?_
  split
  · exact h
  · split
    · exact State.Canon.postDev ⟨h.mem, h.host⟩
    · split
      · exact State.Canon.postDev ⟨h.mem, h.host⟩
      · exact State.Canon.runL2 (State.Canon.storeExtern (State.Canon.clearLost ⟨h.mem, h.host⟩))

theorem execHostAtomicop_canon {off op s64 x c} {s : State} (h : s.Canon) : OutCanon (execHostAtomicop off op s64 x c s) := by
  unfold execHostAtomicop
  extract_lets +onlyGivenNames n
  refine .next ?_
  split
  · exact h
  · split
    · exact h.emit
    · split
      next _ s1 old he =>
        have h1 : s1.Canon := State.Canon.of_pair he (serve_canon ⟨h.mem, h.host⟩)
        exact h1.emit
      next _ s1 snd he =>
        have h2 : s1.Canon := State.Canon.of_pair he (serve_canon ⟨h.mem, h.host⟩)
        exact h2.emit
      next _ s1 fst snd _ _ he3 =>
        have h3 : s1.Canon := State.Canon.of_pair he3 (serve_canon ⟨h.mem, h.host⟩)
        exact h3.emit

theorem State.Canon.losePosted {s : State} {tag} (h : s.Canon) : (s.losePosted tag).Canon := by
  unfold State.losePosted
  split
  · split
    · exact h.answer
    · exact h
  · exact h

theorem execPcieDown_canon {lost} {s : State} (h : s.Canon) : OutCanon (execPcieDown lost s) := by
  unfold execPcieDown
  exact .next (State.Canon.postDev ⟨(((h.foldl fun _ _ h7 => h7.answer).foldl fun _ _ h8 => h8.answer).foldl fun _ _ h9 =>
      h9.losePosted).mem, (((h.foldl fun _ _ h10 => h10.answer).foldl fun _ _ h11 => h11.answer).foldl fun _ _ h12 =>
          h12.losePosted).host⟩)

theorem execPeerRequest_canon {chip r} {s : State} (h : s.Canon) : OutCanon (execPeerRequest chip r s) := by
  unfold execPeerRequest
  refine .next ?_
  split
  · exact h
  · split
    · exact h.emit
    · exact (serve_canon h).emit

theorem State.Canon.modPort {s : State} {p f} (h : s.Canon) : (s.modPort p f).Canon :=
  ⟨h.mem, h.host⟩

theorem State.Canon.loseRouteless {s : State} (h : s.Canon) : (s.loseRouteless).Canon :=
  h.foldl fun _ _ h1 => h1.answer

theorem State.Canon.resend {s : State} {port unsent} (h : s.Canon) : (s.resend port unsent).Canon :=
  ⟨h.mem, h.host⟩

theorem execLinkDown_canon {port} {s : State} (h : s.Canon) : OutCanon (execLinkDown port s) := by
  unfold execLinkDown
  refine .next ?_
  split
  · exact h.modPort.postDev.resend.loseRouteless
  · exact h

theorem execLinkUp_canon {port peer} {s : State} (h : s.Canon) : OutCanon (execLinkUp port peer s) := by
  unfold execLinkUp
  refine .next ?_
  split
  · exact h.modPort.postDev
  · exact h

theorem execPortDisable_canon {port} {s : State} (h : s.Canon) : OutCanon (execPortDisable port s) := by
  unfold execPortDisable
  refine .next ?_
  split
  · exact h.modPort.resend.loseRouteless
  · exact h

theorem execKeyRollover_canon {port tx} {s : State} (h : s.Canon) : OutCanon (execKeyRollover port tx s) := by
  unfold execKeyRollover
  refine .next ?_
  split
  · exact h.modPort
  · exact h

theorem execSpdmRequest_canon {viaPort code} {s : State} (h : s.Canon) : OutCanon (execSpdmRequest viaPort code s) := by
  unfold execSpdmRequest
  refine .next ?_
  split
  · exact h.emit
  · split
    · exact h
    · split
      · exact h.emit
      · exact State.Canon.emit ⟨h.mem, h.host⟩

/-! ## The HROW instructions -/

theorem hrowPlace_canon {s : State} {e va} (h : s.Canon) : Leads Stop.Canon (fun r => r.1.Canon) (hrowPlace s e va) := by
  unfold hrowPlace
  split
  · exact .error (oneStop_canon h)
  next _ s1 pa leaf he =>
    have h1 : s1.Canon := (xlate_canon h).of_ok he
    split
    · exact .error failTrap_canon
    · split
      · exact .error failTrap_canon
      · split
        · exact .error (.park h)
        · exact .ok h1
  next _ s1 p snd _ he2 =>
    have h2 : s1.Canon := (xlate_canon h).of_ok he2
    exact .ok h2

theorem hrowOpen_canon {e va n} : Leads Stop.Canon (fun _ => True) (hrowOpen e va n) := by
  unfold hrowOpen
  split
  · exact trapWith_canon
  · exact detBan_canon

theorem hrowPlaces_canon {s : State} {e a x} (h : s.Canon) : Leads Stop.Canon (fun r => r.1.Canon) (hrowPlaces s e a x) := by
  induction a generalizing s x with
  | zero => exact .ok h
  | succ n ih =>
    unfold hrowPlaces
    exact (hrowPlace_canon h).bind fun ⟨_, _⟩ h1 => (ih h1).bind fun ⟨_, _⟩ h2 => .pure h2

theorem hrowCount_canon {f c} {a : State} {y} (hf : ∀ x0 x1 x2, x0.Canon → (f x0 x1 x2).1.Canon) (h' : a.Canon) :
    (hrowCount f c a y).1.Canon := by
  induction y generalizing a with
  | nil => exact h'
  | cons x l ih =>
    unfold hrowCount
    split
    next _ s1 o he =>
      have h1 : s1.Canon := by
        refine State.Canon.of_pair he ?_
        split
        next _ pa =>
          exact hf _ _ _ h'
        · exact h'
      exact ih h1

theorem State.Canon.hrow {s : State} {q d a n f} (h : s.Canon) (hf : ∀ x0 x1 x2, x0.Canon → (f x0 x1 x2).1.Canon) :
    OutCanon (s.hrow q d a n f) := by
  unfold State.hrow
  exact h.uniform fun _ => hrowOpen_canon.bind fun _ _ => (hrowPlaces_canon h).bind fun ⟨_, _⟩ h2 => (sampleOpen_canon h2).bind
      fun _ _ => .ok (((hrowCount_canon hf h2).sampleClose).retire)

theorem execHrowUp_canon {g d a n} {s : State} (h : s.Canon) : OutCanon (execHrowUp g d a n s) :=
  h.hrow fun _ _ _ h1 => outcomeUp_canon h1

theorem execHrowDn_canon {g d a n} {s : State} (h : s.Canon) : OutCanon (execHrowDn g d a n s) :=
  h.hrow fun _ _ _ h1 => outcomeDn_canon h1

theorem execHrowQ_canon {g d a} {s : State} (h : s.Canon) : OutCanon (execHrowQ g d a s) := by
  unfold execHrowQ
  exact h.uniform fun _ => hrowOpen_canon.bind fun _ _ => (hrowPlace_canon h).bind fun ⟨_, _⟩ h2 => (sampleOpen_canon h2).bind
      fun _ _ => .ok h2.sampleClose.retire

/-! ## Handler instructions and those of Cairn -/

theorem State.Canon.tret {s : State} {q skip} (h : s.Canon) : OutCanon (s.tret q skip) := by
  unfold State.tret
  refine h.privileged fun _ => h.trapReturn.bind fun _ h2 => ?_
  split
  · exact .ok h2.modGroup.resumeTry
  · exact .ok h2

theorem execTretRetry_canon {g} {s : State} (h : s.Canon) : OutCanon (execTretRetry g s) :=
  h.tret

theorem execTretSkip_canon {g} {s : State} (h : s.Canon) : OutCanon (execTretSkip g s) :=
  h.tret

theorem execKill_canon {g} {s : State} (h : s.Canon) : OutCanon (execKill g s) := by
  unfold execKill
  refine h.privileged fun _ => .ok ?_
  split
  · exact h.endGroup.dropReplay
  · exact h.endGroup

theorem execKillFail_canon {g} {s : State} (h : s.Canon) : OutCanon (execKillFail g s) := by
  unfold execKillFail
  exact h.privileged fun _ => .ok (State.Canon.teamKilled (State.Canon.postFatal ⟨h.mem, h.host⟩))

theorem execKillSave_canon {g} {s : State} (h : s.Canon) : OutCanon (execKillSave g s) := by
  unfold execKillSave
  refine h.privileged fun _ => ?_
  split
  · exact .ok h.retire.saveTry
  · exact .error .fatal

theorem execSysrd_canon {g d a} {s : State} (h : s.Canon) : OutCanon (execSysrd g d a s) :=
  h.privileged fun _ => .ok h.retire

theorem execSyswr_canon {g a b} {s : State} (h : s.Canon) : OutCanon (execSyswr g a b s) :=
  h.privileged fun _ => .ok h.retire

theorem State.Canon.cairnUnit {s : State} {f} (h : s.Canon) (hf : ∀ x0, x0.Canon → OutCanon (f x0)) :
    OutCanon (s.cairnUnit f) := by
  unfold State.cairnUnit
  split
  · exact hf _ h
  · exact h.run fun _ => trapWith_canon

theorem execLmark_canon {g a tag} {s : State} (h : s.Canon) : OutCanon (execLmark g a tag s) :=
  h.cairnUnit fun _ h1 => h1.uniform fun _ => logged_canon h1 fun _ h2 => .ok h2

theorem State.Canon.crset {s : State} {q off b takes f} (h : s.Canon) : OutCanon (s.crset q off b takes f) := by
  unfold State.crset
  refine h.cairnUnit fun _ h2 => h2.privileged fun _ => .ok (State.Canon.retire ?_)
  split
  · exact h2.modCtx.takeSkips
  · exact h2

theorem execCrsetCons_canon {g b} {s : State} (h : s.Canon) : OutCanon (execCrsetCons g b s) :=
  h.crset

theorem execCrsetThresh_canon {g b} {s : State} (h : s.Canon) : OutCanon (execCrsetThresh g b s) :=
  h.crset

theorem execCrsetProd_canon {g b} {s : State} (h : s.Canon) : OutCanon (execCrsetProd g b s) :=
  h.crset

theorem execCrsetEnd_canon {g b} {s : State} (h : s.Canon) : OutCanon (execCrsetEnd g b s) :=
  h.crset

theorem State.Canon.crpos {s : State} {q d f} (h : s.Canon) : OutCanon (s.crpos q d f) :=
  h.cairnUnit fun _ h1 => h1.privileged fun _ => .ok h1.retire

theorem execCrposProd_canon {g d} {s : State} (h : s.Canon) : OutCanon (execCrposProd g d s) :=
  h.crpos

theorem execCrposCons_canon {g d} {s : State} (h : s.Canon) : OutCanon (execCrposCons g d s) :=
  h.crpos

theorem execCrposStatus_canon {g d} {s : State} (h : s.Canon) : OutCanon (execCrposStatus g d s) :=
  h.crpos

/-! ## Code tables -/

theorem execCtabWr_canon {g a q8} {s : State} (h : s.Canon) : OutCanon (execCtabWr g a q8 s) := by
  unfold execCtabWr
  exact h.uniform fun _ => ((operandRecord_canon h).mapError fun _ h3 => Stop_holding_canon h3).bind fun ⟨_, _⟩ h4 => .ok
      h4.modTeam.retire

theorem execCtabSwap_canon {g sc} {s : State} (h : s.Canon) : OutCanon (execCtabSwap g sc s) := by
  unfold execCtabSwap
  refine h.uniform fun _ => ?_
  split
  · exact .error (.park h)
  · exact .ok h.modTeam.retire

theorem execCtabRd_canon {g d a gen shadow q8} {s : State} (h : s.Canon) : OutCanon (execCtabRd g d a gen shadow q8 s) :=
  h.uniform fun _ => .ok h.retire

/-! ## The moves of the part by itself (R54, R399) -/

/-- A move of the part keeps the list form. -/
def KeepsForm (f : State → Out) : Prop := ∀ s : State, s.Canon → OutCanon (f s)

theorem keepsForm_nil : ∀ f ∈ ([] : List (State → Out)), KeepsForm f := fun _ h => nomatch h

theorem keepsForm_cons {f : State → Out} {l : List (State → Out)} (h : ∀ s : State, s.Canon → OutCanon (f s))
    (hl : ∀ m ∈ l, KeepsForm m) :
    ∀ m ∈ f :: l, KeepsForm m := List.forall_mem_cons.2 ⟨h, hl⟩

theorem keepsForm_append {l l' : List (State → Out)} (h : ∀ f ∈ l, KeepsForm f) (h' : ∀ f ∈ l', KeepsForm f) :
    ∀ f ∈ l ++ l', KeepsForm f := List.forall_mem_append.2 ⟨h, h'⟩

section
variable {α : Type}

theorem keepsForm_map {m : α → State → Out} {l : List α} (h : ∀ a, KeepsForm (m a)) : ∀ f ∈ l.map m, KeepsForm f :=
  List.forall_mem_map.2 fun a _ => h a

theorem keepsForm_flatMap {m : α → List (State → Out)} {l : List α} (h : ∀ a, ∀ f ∈ m a, KeepsForm f) :
    ∀ f ∈ l.flatMap m, KeepsForm f := List.forall_mem_flatMap.2 fun a _ => h a

end

theorem groupActs_keepForm {gid : Nat} : ∀ f ∈ groupActs gid, KeepsForm f :=
  keepsForm_cons (fun _ h => execPageFaultRunahead_canon h) <| keepsForm_cons (fun _ h => execFaultBatchPost_canon h) <|
  keepsForm_cons (fun _ h => execParkRelease_canon h) <| keepsForm_cons (fun _ h => execBwaitTimeout_canon h) <|
  keepsForm_cons (fun _ h => execJoinTimeout_canon h) <| keepsForm_cons (fun _ h => execLwaitWake_canon h) <|
  keepsForm_cons (fun _ h => execSaveTimeout_canon h) keepsForm_nil

theorem teamActs_keepForm {tid : Nat} : ∀ f ∈ teamActs tid, KeepsForm f :=
  keepsForm_cons (fun _ h => execMmaRetire_canon h) <| keepsForm_cons (fun _ h => execSwapOut_canon h) <|
  keepsForm_cons (fun _ h => execPreemptDeadline_canon h) <| keepsForm_cons (fun _ h => execCutComplete_canon h) <|
  keepsForm_cons (fun _ h => execTeamRestore_canon h) keepsForm_nil

theorem gridActs_keepForm {c serial : Nat} : ∀ f ∈ gridActs c serial, KeepsForm f :=
  keepsForm_cons (fun _ h => execReductionDrain_canon h) <| keepsForm_cons (fun _ h => execTicketPass_canon h) <|
  keepsForm_cons (fun _ h => execGridComplete_canon h) keepsForm_nil

theorem ctxActs_keepForm {c : Nat} {x : Context} : ∀ f ∈ ctxActs c x, KeepsForm f :=
  keepsForm_append
    (keepsForm_cons (fun _ h => execCtxDown_canon h) <| keepsForm_cons (fun _ h => execHostInvalidateDone_canon h) keepsForm_nil)
    (keepsForm_map fun _ _ h => execSpurReclaimDone_canon h)

theorem queueActs_keepForm {q : Nat} : ∀ f ∈ queueActs q, KeepsForm f :=
  keepsForm_cons (fun _ h => execQueueLaunchCommand_canon h) <| keepsForm_cons (fun _ h => execQueueWaitCommand_canon h) <|
  keepsForm_cons (fun _ h => execQueueSequence_canon h) <| keepsForm_cons (fun _ h => execQueueIdle_canon h) keepsForm_nil

theorem stackActs_keepForm {i : Nat} {k : Stack} : ∀ f ∈ stackActs i k, KeepsForm f :=
  keepsForm_append
    (keepsForm_append
      (keepsForm_cons (fun _ h => execRemapPageMoved_canon h) <| keepsForm_cons (fun _ h => execRemapDone_canon h) <|
        keepsForm_cons (fun _ h => execCrestWinDone_canon h) keepsForm_nil)
      (keepsForm_map fun _ _ h => execHwPromote_canon h))
    (keepsForm_flatMap fun _ => keepsForm_cons (fun _ h => execPromotionDone_canon h) <|
      keepsForm_cons (fun _ h => execWriteBackDone_canon h) keepsForm_nil)

theorem columnActs_keepForm {c : Nat} : ∀ f ∈ columnActs c, KeepsForm f :=
  keepsForm_cons (fun _ h => execScreeDecision_canon h) <| keepsForm_cons (fun _ h => execMigrationStart_canon h) <|
  keepsForm_cons (fun _ h => execMigrationDeferExpiry_canon h) <| keepsForm_cons (fun _ h => execMigrationDone_canon h) keepsForm_nil

theorem partActs_keepForm : ∀ f ∈ partActs, KeepsForm f :=
  keepsForm_cons (fun _ h => execDispatch_canon h) <| keepsForm_cons (fun _ h => execBackfillStop_canon h) <|
  keepsForm_cons (fun _ h => execDispatchPreempt_canon h) <| keepsForm_cons (fun _ h => execQueueMap_canon h) <|
  keepsForm_cons (fun _ h => execQueueEvict_canon h) <| keepsForm_cons (fun _ h => execThermEmerg_canon h) <|
  keepsForm_cons (fun _ h => execEmergDeadline_canon h) <| keepsForm_cons (fun _ h => execEmergRailsOff_canon h) <|
  keepsForm_cons (fun _ h => execLeaseExpired_canon h) <| keepsForm_cons (fun _ h => execLogicalClockAdvance_canon h) <|
  keepsForm_cons (fun _ h => execStartupDone_canon h) keepsForm_nil

theorem acts_keepForm (s : State) : ∀ f ∈ s.acts, KeepsForm f := by
  unfold State.acts
  refine keepsForm_append (keepsForm_append (keepsForm_append (keepsForm_append (keepsForm_append (keepsForm_append
    (keepsForm_append (keepsForm_append (keepsForm_append (keepsForm_append (keepsForm_append (keepsForm_append
      partActs_keepForm ?groups) ?teams) ?grids) ?jobs) ?insts) ?launches) ?queues) ?ctxs) ?remote) ?hbm) ?columns) ?late
  case groups => exact keepsForm_flatMap fun _ => groupActs_keepForm
  case teams => exact keepsForm_flatMap fun _ => teamActs_keepForm
  case grids => exact keepsForm_flatMap fun _ => gridActs_keepForm
  case jobs =>
    exact keepsForm_flatMap fun _ =>
      keepsForm_cons (fun _ h => execCopyJobStart_canon h) (keepsForm_map fun _ _ h => execCopyItem_canon h)
  case insts => exact keepsForm_map fun _ _ h => execResidencyLoadDone_canon h
  case launches => exact keepsForm_map fun _ _ h => execLaunchAccept_canon h
  case queues => exact keepsForm_flatMap fun _ => queueActs_keepForm
  case ctxs => exact keepsForm_flatMap fun _ => ctxActs_keepForm
  case remote =>
    exact keepsForm_flatMap fun _ =>
      keepsForm_cons (fun _ h => execHostTimeout_canon h) (keepsForm_cons (fun _ h => execPeerTimeout_canon h) keepsForm_nil)
  case hbm => exact keepsForm_flatMap fun _ => stackActs_keepForm
  case columns => exact keepsForm_flatMap fun _ => columnActs_keepForm
  case late => exact keepsForm_map fun _ _ h => .next h.landNth

/-! ## Dispatch and the step -/

theorem exec_canon {i : Instr} {s : State} (h : s.Canon) : OutCanon (exec i s) :=
  match i with
  | .iadd .. => execIadd_canon h
  | .isub .. => execIsub_canon h
  | .imul .. => execImul_canon h
  | .imulhS .. => execImulhS_canon h
  | .imulhN .. => execImulhN_canon h
  | .imad .. => execImad_canon h
  | .iaddi .. => execIaddi_canon h
  | .iminS .. => execIminS_canon h
  | .iminN .. => execIminN_canon h
  | .imaxS .. => execImaxS_canon h
  | .imaxN .. => execImaxN_canon h
  | .iadd64 .. => execIadd64_canon h
  | .isub64 .. => execIsub64_canon h
  | .imadw .. => execImadw_canon h
  | .leai .. => execLeai_canon h
  | .and .. => execAnd_canon h
  | .or .. => execOr_canon h
  | .xor .. => execXor_canon h
  | .not .. => execNot_canon h
  | .shl .. => execShl_canon h
  | .shrN .. => execShrN_canon h
  | .shrS .. => execShrS_canon h
  | .rotl .. => execRotl_canon h
  | .bfxS .. => execBfxS_canon h
  | .bfxN .. => execBfxN_canon h
  | .bfi .. => execBfi_canon h
  | .popc .. => execPopc_canon h
  | .clz .. => execClz_canon h
  | .brev .. => execBrev_canon h
  | .mov .. => execMov_canon h
  | .movi .. => execMovi_canon h
  | .icmpS .. => execIcmpS_canon h
  | .icmpN .. => execIcmpN_canon h
  | .fcmpF32 .. => execFcmpF32_canon h
  | .fcmpF64 .. => execFcmpF64_canon h
  | .icmpiS .. => execIcmpiS_canon h
  | .icmpiN .. => execIcmpiN_canon h
  | .plop .. => execPlop_canon h
  | .pmovGet .. => execPmovGet_canon h
  | .pmovSet .. => execPmovSet_canon h
  | .faddF32 .. => execFaddF32_canon h
  | .fsubF32 .. => execFsubF32_canon h
  | .fmulF32 .. => execFmulF32_canon h
  | .ffmaF32 .. => execFfmaF32_canon h
  | .fminF32 .. => execFminF32_canon h
  | .fmaxF32 .. => execFmaxF32_canon h
  | .faddiF32 .. => execFaddiF32_canon h
  | .fmuliF32 .. => execFmuliF32_canon h
  | .faddF16x2 .. => execFaddF16x2_canon h
  | .fmulF16x2 .. => execFmulF16x2_canon h
  | .ffmaF16x2 .. => execFfmaF16x2_canon h
  | .fminF16x2 .. => execFminF16x2_canon h
  | .faddBf16x2 .. => execFaddBf16x2_canon h
  | .fmulBf16x2 .. => execFmulBf16x2_canon h
  | .ffmaBf16x2 .. => execFfmaBf16x2_canon h
  | .fminBf16x2 .. => execFminBf16x2_canon h
  | .faddF64 .. => execFaddF64_canon h
  | .fsubF64 .. => execFsubF64_canon h
  | .fmulF64 .. => execFmulF64_canon h
  | .ffmaF64 .. => execFfmaF64_canon h
  | .fminF64 .. => execFminF64_canon h
  | .fmaxF64 .. => execFmaxF64_canon h
  | .fmaxF16x2 .. => execFmaxF16x2_canon h
  | .fmaxBf16x2 .. => execFmaxBf16x2_canon h
  | .frcp .. => execFrcp_canon h
  | .frsq .. => execFrsq_canon h
  | .fsqrt .. => execFsqrt_canon h
  | .fexp2 .. => execFexp2_canon h
  | .flog2 .. => execFlog2_canon h
  | .fsin .. => execFsin_canon h
  | .fcos .. => execFcos_canon h
  | .ftanh .. => execFtanh_canon h
  | .cvtFi .. => execCvtFi_canon h
  | .cvtIf .. => execCvtIf_canon h
  | .cvtFf .. => execCvtFf_canon h
  | .cvtNr .. => execCvtNr_canon h
  | .cvtWd .. => execCvtWd_canon h
  | .frnd .. => execFrnd_canon h
  | .fldexp .. => execFldexp_canon h
  | .shfl .. => execShfl_canon h
  | .shflx .. => execShflx_canon h
  | .shflup .. => execShflup_canon h
  | .shfldn .. => execShfldn_canon h
  | .vote .. => execVote_canon h
  | .ballot .. => execBallot_canon h
  | .lscan .. => execLscan_canon h
  | .lred .. => execLred_canon h
  | .sreadV .. => execSreadV_canon h
  | .matchLanes .. => execMatchLanes_canon h
  | .iabs .. => execIabs_canon h
  | .ard .. => execArd_canon h
  | .awr .. => execAwr_canon h
  | .bra .. => execBra_canon h
  | .bral .. => execBral_canon h
  | .brx .. => execBrx_canon h
  | .call .. => execCall_canon h
  | .callx .. => execCallx_canon h
  | .ret .. => execRet_canon h
  | .exit .. => execExit_canon h
  | .trap .. => execTrap_canon h
  | .ld .. => execLd_canon h
  | .st .. => execSt_canon h
  | .pref .. => execPref_canon h
  | .atomO .. => execAtomO_canon h
  | .atomU .. => execAtomU_canon h
  | .redO .. => execRedO_canon h
  | .redU .. => execRedU_canon h
  | .uiadd .. => execUiadd_canon h
  | .uisub .. => execUisub_canon h
  | .uimul .. => execUimul_canon h
  | .uimad .. => execUimad_canon h
  | .uiaddi .. => execUiaddi_canon h
  | .uiadd64 .. => execUiadd64_canon h
  | .umov .. => execUmov_canon h
  | .umovi .. => execUmovi_canon h
  | .uand .. => execUand_canon h
  | .uor .. => execUor_canon h
  | .uxor .. => execUxor_canon h
  | .ushl .. => execUshl_canon h
  | .ushrN .. => execUshrN_canon h
  | .ushrS .. => execUshrS_canon h
  | .uicmpS .. => execUicmpS_canon h
  | .uicmpN .. => execUicmpN_canon h
  | .uplop .. => execUplop_canon h
  | .ufadd .. => execUfadd_canon h
  | .ufmul .. => execUfmul_canon h
  | .uffma .. => execUffma_canon h
  | .ufcmp .. => execUfcmp_canon h
  | .sreadK .. => execSreadK_canon h
  | .ubfx .. => execUbfx_canon h
  | .unop .. => execUnop_canon h
  | .ubra _ _ u => execUbra_canon (a2 := u) h
  | .ubral _ u _ => execUbral_canon (a1 := u) h
  | .yield .. => execYield_canon h
  | .tretRetry .. => execTretRetry_canon h
  | .tretSkip .. => execTretSkip_canon h
  | .utrap .. => execUtrap_canon h
  | .kill .. => execKill_canon h
  | .killFail .. => execKillFail_canon h
  | .killSave .. => execKillSave_canon h
  | .fence .. => execFence_canon h
  | .binit .. => execBinit_canon h
  | .barr .. => execBarr_canon h
  | .barrn .. => execBarrn_canon h
  | .bxpct .. => execBxpct_canon h
  | .bwait .. => execBwait_canon h
  | .tsync .. => execTsync_canon h
  | .csync .. => execCsync_canon h
  | .cpgs .. => execCpgs_canon h
  | .cpsg .. => execCpsg_canon h
  | .cpgg .. => execCpgg_canon h
  | .cptr .. => execCptr_canon h
  | .cpga .. => execCpga_canon h
  | .cpmc .. => execCpmc_canon h
  | .cpmcr .. => execCpmcr_canon h
  | .cpwait .. => execCpwait_canon h
  | .bufget .. => execBufget_canon h
  | .bufput .. => execBufput_canon h
  | .bufwait .. => execBufwait_canon h
  | .bufq .. => execBufq_canon h
  | .shnew .. => execShnew_canon h
  | .shfree .. => execShfree_canon h
  | .hrowUp .. => execHrowUp_canon h
  | .hrowDn .. => execHrowDn_canon h
  | .hrowQ .. => execHrowQ_canon h
  | .mmab .. => execMmab_canon h
  | .mmao .. => execMmao_canon h
  | .mmag .. => execMmag_canon h
  | .dmma .. => execDmma_canon h
  | .aclr .. => execAclr_canon h
  | .ald .. => execAld_canon h
  | .ast .. => execAst_canon h
  | .obres .. => execObres_canon h
  | .obfree .. => execObfree_canon h
  | .obld .. => execObld_canon h
  | .rsalloc .. => execRsalloc_canon h
  | .rsfill .. => execRsfill_canon h
  | .rspin .. => execRspin_canon h
  | .rsunpin .. => execRsunpin_canon h
  | .rsrev .. => execRsrev_canon h
  | .rsq .. => execRsq_canon h
  | .ctabWr .. => execCtabWr_canon h
  | .ctabSwap .. => execCtabSwap_canon h
  | .ctabRd .. => execCtabRd_canon h
  | .launch .. => execLaunch_canon h
  | .launchNb .. => execLaunchNb_canon h
  | .lwait .. => execLwait_canon h
  | .lpoll .. => execLpoll_canon h
  | .spurFork .. => execSpurFork_canon h
  | .spurJoin .. => execSpurJoin_canon h
  | .spurCancel .. => execSpurCancel_canon h
  | .spurQ .. => execSpurQ_canon h
  | .sysrd .. => execSysrd_canon h
  | .syswr .. => execSyswr_canon h
  | .xprobe .. => execXprobe_canon h
  | .xinval .. => execXinval_canon h
  | .crsetCons .. => execCrsetCons_canon h
  | .crsetThresh .. => execCrsetThresh_canon h
  | .crsetProd .. => execCrsetProd_canon h
  | .crsetEnd .. => execCrsetEnd_canon h
  | .crposProd .. => execCrposProd_canon h
  | .crposCons .. => execCrposCons_canon h
  | .crposStatus .. => execCrposStatus_canon h
  | .lmark .. => execLmark_canon h
  | .uld .. => execUld_canon h
  | .ust .. => execUst_canon h
  | .dvsave .. => execDvsave_canon h
  | .dvload .. => execDvload_canon h
  | .pageFaultRunahead .. => execPageFaultRunahead_canon h
  | .faultBatchPost .. => execFaultBatchPost_canon h
  | .memReply .. => execMemReply_canon h
  | .controllerRequest .. => execControllerRequest_canon h
  | .hwPromote .. => execHwPromote_canon h
  | .promotionDone .. => execPromotionDone_canon h
  | .writeBackDone .. => execWriteBackDone_canon h
  | .patrolScrub .. => execPatrolScrub_canon h
  | .dieFailing .. => execDieFailing_canon h
  | .bankHot .. => execBankHot_canon h
  | .remapStart .. => execRemapStart_canon h
  | .remapPageMoved .. => execRemapPageMoved_canon h
  | .remapDone .. => execRemapDone_canon h
  | .crestWinWrite .. => execCrestWinWrite_canon h
  | .crestWinDone .. => execCrestWinDone_canon h
  | .hbLostclr .. => execHbLostclr_canon h
  | .hbCeClear .. => execHbCeClear_canon h
  | .walkDone .. => execWalkDone_canon h
  | .copyJobStart .. => execCopyJobStart_canon h
  | .copyItem .. => execCopyItem_canon h
  | .parkRelease .. => execParkRelease_canon h
  | .mmaRetire .. => execMmaRetire_canon h
  | .residencyLoadDone .. => execResidencyLoadDone_canon h
  | .bwaitTimeout .. => execBwaitTimeout_canon h
  | .joinTimeout .. => execJoinTimeout_canon h
  | .lwaitWake .. => execLwaitWake_canon h
  | .swapOut .. => execSwapOut_canon h
  | .launchAccept .. => execLaunchAccept_canon h
  | .dispatch => execDispatch_canon h
  | .backfillStop => execBackfillStop_canon h
  | .dispatchPreempt => execDispatchPreempt_canon h
  | .gridComplete .. => execGridComplete_canon h
  | .reductionDrain .. => execReductionDrain_canon h
  | .ticketPass .. => execTicketPass_canon h
  | .spurReclaimDone .. => execSpurReclaimDone_canon h
  | .preemptDeadline .. => execPreemptDeadline_canon h
  | .cutComplete .. => execCutComplete_canon h
  | .saveTimeout .. => execSaveTimeout_canon h
  | .teamRestore .. => execTeamRestore_canon h
  | .sensorSample .. => execSensorSample_canon h
  | .screeDecision .. => execScreeDecision_canon h
  | .migrationStart .. => execMigrationStart_canon h
  | .migrationDeferExpiry .. => execMigrationDeferExpiry_canon h
  | .migrationDone .. => execMigrationDone_canon h
  | .balanceWindow .. => execBalanceWindow_canon h
  | .clockPointChange .. => execClockPointChange_canon h
  | .powerEnforce .. => execPowerEnforce_canon h
  | .thermEmerg => execThermEmerg_canon h
  | .emergDeadline => execEmergDeadline_canon h
  | .emergRailsOff => execEmergRailsOff_canon h
  | .thermResume .. => execThermResume_canon h
  | .pwrCap .. => execPwrCap_canon h
  | .leaseExpired => execLeaseExpired_canon h
  | .logicalClockAdvance => execLogicalClockAdvance_canon h
  | .queueNotify .. => execQueueNotify_canon h
  | .queueLaunchCommand .. => execQueueLaunchCommand_canon h
  | .queueWaitCommand .. => execQueueWaitCommand_canon h
  | .queueSequence .. => execQueueSequence_canon h
  | .queueMap => execQueueMap_canon h
  | .queueEvict => execQueueEvict_canon h
  | .queueIdle .. => execQueueIdle_canon h
  | .qregRegister .. => execQregRegister_canon h
  | .qregUnregister .. => execQregUnregister_canon h
  | .qregReset .. => execQregReset_canon h
  | .hostInvalidate .. => execHostInvalidate_canon h
  | .hostInvalidateDone .. => execHostInvalidateDone_canon h
  | .contextCreate .. => execContextCreate_canon h
  | .contextDestroy .. => execContextDestroy_canon h
  | .ctxDown .. => execCtxDown_canon h
  | .preemptRequest .. => execPreemptRequest_canon h
  | .tqConsWrite .. => execTqConsWrite_canon h
  | .tqReplay .. => execTqReplay_canon h
  | .tqAbandon .. => execTqAbandon_canon h
  | .poolPush .. => execPoolPush_canon h
  | .cairnDirWrite .. => execCairnDirWrite_canon h
  | .cairnConsWrite .. => execCairnConsWrite_canon h
  | .cairnProdWrite .. => execCairnProdWrite_canon h
  | .evqConsWrite .. => execEvqConsWrite_canon h
  | .registerWrite .. => execRegisterWrite_canon h
  | .hostBar4Read .. => execHostBar4Read_canon h
  | .hostBar4Write .. => execHostBar4Write_canon h
  | .hostTimeout .. => execHostTimeout_canon h
  | .pcieDown .. => execPcieDown_canon h
  | .peerRequest .. => execPeerRequest_canon h
  | .peerTimeout .. => execPeerTimeout_canon h
  | .linkDown .. => execLinkDown_canon h
  | .linkUp .. => execLinkUp_canon h
  | .portDisable .. => execPortDisable_canon h
  | .keyRollover .. => execKeyRollover_canon h
  | .spdmRequest .. => execSpdmRequest_canon h
  | .coldReset => execColdReset_canon h
  | .warmReset => execWarmReset_canon h
  | .vfFlr .. => execVfFlr_canon h
  | .startupDone => execStartupDone_canon h
  | .lcWriteImage .. => execLcWriteImage_canon h
  | .lcWriteImageDone .. => execLcWriteImageDone_canon h
  | .lcSubmitToken .. => execLcSubmitToken_canon h
  | .lcFetchNonce .. => execLcFetchNonce_canon h
  | .illegalOpcode => execIllegalOpcode_canon h
  | .fetchFault => execFetchFault_canon h
  | .hostAtomicop .. => execHostAtomicop_canon h
  | .cairnEndWrite .. => execCairnEndWrite_canon h
  | .evqPendClear .. => execEvqPendClear_canon h

theorem runPrepared_canon {p : Prepared} (h : p.Canon) : OutCanon (runPrepared p) := by
  cases h with
  | exec h => exact exec_canon h
  | done h => exact .next h

theorem runMove_canon {s : State} {m : Move} (h : s.Canon) : OutCanon (runMove s m) := by
  cases m with
  | issue gid => exact runPrepared_canon (prepare_canon h)
  | part gid p => exact runPrepared_canon (prepare_canon ⟨h.mem, h.host⟩)
  | alone gid lane => exact runPrepared_canon (prepareAlone_canon h)
  | event i => exact exec_canon ⟨h.mem, h.host⟩
  | partly i p => exact exec_canon ⟨h.mem, h.host⟩
  | land n => exact .next h.landNth
  | tick n => exact .next h.pass

theorem groupIssues_keepForm {g : Group} : ∀ f ∈ groupIssues g, KeepsForm f :=
  keepsForm_cons (fun _ h => runPrepared_canon (prepare_canon h)) (keepsForm_map fun _ _ h => runPrepared_canon (prepareAlone_canon h))

theorem offers_keepForm (s : State) : ∀ f ∈ s.offers, KeepsForm f :=
  keepsForm_append (keepsForm_flatMap fun _ => groupIssues_keepForm) (acts_keepForm s)

theorem State.Canon.idle {s : State} (h : s.Canon) : OutCanon s.idle := by
  unfold State.idle
  dsimp only
  have h1 : ({ s.pass 1 with cur := none } : State).Canon := .of_eq h.pass rfl rfl
  split
  next f hf => exact offers_keepForm s f (List.mem_of_getElem? hf) _ h1
  · exact .next h1

theorem step_canon {s : State} (h : s.Canon) : OutCanon (step s) := by
  unfold step
  split
  · exact runMove_canon ⟨h.mem, h.host⟩
  · exact State.Canon.idle ⟨h.mem, h.host⟩

theorem OutCanon.of_next {r : Out} {s : State} (h : OutCanon r) (he : r = .next s) : s.Canon := by
  cases h <;> cases he
  assumption

end Sys2Proof.Machine
end

section
/-! The list form of both memories over a step (R54, R399). -/

namespace Sys2Proof
open Machine

/-- Settles O60: the move of a step, whether the agenda names it or the part makes it by itself, keeps the form. -/
theorem memoryStaysCanonical : Obligations.MemoryStaysCanonical := by
  unfold Obligations.MemoryStaysCanonical
  intro s t hm hh hs
  obtain ⟨hm', hh'⟩ := (step_canon ⟨hm, hh⟩).of_next hs
  exact ⟨hm', hh'⟩

end Sys2Proof
end

section
/-! What a group's wait leaves alone (R196, R343). -/

namespace Sys2Proof.Machine

/-! ## Groups that are asked to stop -/

/-- A group apart from whether it is asked to stop. -/
def Group.unstopped (g : Group) : Group := { g with stop := none }

/-- One state is another but for which groups are asked to stop, and the teams. -/
structure StopsOnly (s t : State) : Prop where
  groups : ∀ n, (t.group? n).map Group.unstopped = (s.group? n).map Group.unstopped
  rest : t = { s with groups := t.groups, teams := t.teams }

theorem StopsOnly.refl (s : State) : StopsOnly s s := ⟨fun _ => rfl, rfl⟩

theorem StopsOnly.trans {s t u : State} (h : StopsOnly s t) (k : StopsOnly t u) : StopsOnly s u :=
  ⟨fun n => (k.groups n).trans (h.groups n), by rw [k.rest, h.rest]⟩

section
variable {s t : State} (h : StopsOnly s t)
include h

theorem StopsOnly.mem : t.mem = s.mem := by rw [h.rest]

theorem StopsOnly.tlb : t.tlb = s.tlb := by rw [h.rest]

theorem StopsOnly.walks : t.walks = s.walks := by rw [h.rest]

theorem StopsOnly.ctxs : t.ctxs = s.ctxs := by rw [h.rest]

end

/-- Groups that each keep all but their stop. -/
theorem stopsOnly_of_map {s : State} {f : Group → Group} {ts : List Team} (hf : ∀ g, (f g).unstopped = g.unstopped) :
    StopsOnly s { s with groups := s.groups.map f, teams := ts } where
  groups := fun n => by
    have hgid : ∀ g, (f g).gid = g.gid := fun g => by simpa [Group.unstopped] using congrArg Group.gid (hf g)
    have hfind : State.group? { s with groups := s.groups.map f, teams := ts } n = (s.group? n).map f :=
      find_map_gid s.groups n f hgid
    rw [hfind, Option.map_map]
    exact congrArg (fun k => (s.group? n).map k) (funext hf)
  rest := rfl

theorem stopTeam_stopsOnly (s : State) (tid info : Nat) : StopsOnly s (s.stopTeam tid info) :=
  stopsOnly_of_map fun g => by split <;> rfl

theorem cutTeam_stopsOnly (s : State) (tid : Nat) : StopsOnly s (s.cutTeam tid) :=
  stopsOnly_of_map fun g => by split <;> rfl

theorem cutTry_stopsOnly (s : State) (tid : Nat) : StopsOnly s (s.cutTry tid) := by
  have hcut : ∀ (s1 : State) (b : Bool), StopsOnly s s1 → StopsOnly s (if b = true then s1.cutTeam tid else s1) := by
    intro s1 b h
    split
    · exact h.trans (cutTeam_stopsOnly s1 tid)
    · exact h
  unfold State.cutTry
  split
  next => exact .refl s
  next =>
    split
    next => exact .refl s
    next =>
      dsimp only
      split
      next => exact .refl s
      next =>
        split
        next => exact hcut _ _ (stopTeam_stopsOnly s tid 0)
        next => exact hcut _ _ (.refl s)

/-! ## Parking -/

/-- A group that parks: its team may be cut then, and beside that the state is what parking itself left. -/
theorem stopped_park_stopsOnly {s s' : State} {e : Env} {w : Wait} (hg : s'.group? e.g.gid = some e.g) (hw : w.rotates = false) :
    StopsOnly { s'.setGroup (e.g.parkOn w s.clk) with cur := none } (s.stopped e.c e.g (.park s' w)) := by
  have hs : s.stopped e.c e.g (.park s' w) = State.cutTry { s'.setGroup (e.g.parkOn w s.clk) with cur := none } (e.g.gid / 32) := by
    simp only [State.stopped, hg, hw, Bool.false_eq_true, if_false]
  rw [hs]
  exact cutTry_stopsOnly _ _

/-- A group that parks keeps its number, its registers and its count of instructions. -/
theorem parkOn_keeps (g : Group) (w : Wait) (clk : Nat) :
    (g.parkOn w clk).gid = g.gid ∧ (g.parkOn w clk).regs = g.regs ∧ (g.parkOn w clk).retired = g.retired ∧
      (g.parkOn w clk).park.map (·.why) = some w := by
  unfold Group.parkOn
  split <;> exact ⟨rfl, rfl, rfl, rfl⟩

/-- The group of a number where it is known but for a stop. -/
theorem StopsOnly.found {s t : State} (h : StopsOnly s t) {n : Nat} {g : Group} (hg : s.group? n = some g) :
    ∃ k, t.group? n = some k ∧ k.unstopped = g.unstopped :=
  Option.map_eq_some_iff.1 ((h.groups n).trans (congrArg (Option.map Group.unstopped) hg))

/-- A group that parks is found waiting, its registers and its count of instructions as before. -/
theorem stopped_park_found {s s' : State} {e : Env} {w : Wait} (hg : s'.group? e.g.gid = some e.g) (hw : w.rotates = false) :
    ∃ h, (s.stopped e.c e.g (.park s' w)).group? e.g.gid = some h ∧ h.park.map (·.why) = some w ∧ h.regs = e.g.regs ∧
      h.retired = e.g.retired := by
  obtain ⟨hgid, hregs, hret, hpark⟩ := parkOn_keeps e.g w s.clk
  have hset : State.group? { s'.setGroup (e.g.parkOn w s.clk) with cur := none } e.g.gid = some (e.g.parkOn w s.clk) := by
    refine (setGroup_group? s' _ e.g.gid).trans ?_
    rw [if_pos hgid.symm, hg]
    rfl
  obtain ⟨k, hk, hku⟩ := (stopped_park_stopsOnly hg hw).found hset
  have keeps : ∀ {β : Type} (p : Group → β), (∀ g, p g.unstopped = p g) → p k = p (e.g.parkOn w s.clk) :=
    fun p hp => (hp k).symm.trans ((congrArg p hku).trans (hp _))
  exact ⟨k, hk, (keeps (fun g => g.park.map (·.why)) fun _ => rfl).trans hpark, (keeps Group.regs fun _ => rfl).trans hregs,
    (keeps Group.retired fun _ => rfl).trans hret⟩

/-- An instruction that parks its group in the state as it is waits. -/
theorem waits_of_park {i : Instr} {s : State} {e : Env} {f : Env → Except Stop State} {w : Wait} (hi : exec i s = s.run f)
    (he : s.env? = some e) (hf : f e = .error (.park s w)) (hw : w.rotates = false) : Waits i s e w := by
  have hg := group?_gid_of_env he
  obtain ⟨h, hh, hpark, hregs, hret⟩ := stopped_park_found (s := s) hg hw
  refine ⟨_, h, hi.trans (run_stop he hf), hh, hpark, hregs, hret, fun a => ?_⟩
  rw [(stopped_park_stopsOnly hg hw).mem]
  rfl

/-- A privileged instruction of a handler whose guard holds. -/
theorem privileged_on {s : State} {e : Env} {q : Pred} {f : Env → Except Stop State} (he : s.env? = some e)
    (hm : e.g.trap.masked = true) (hq : e.g.regs.getQ q.val = true) : s.privileged q f = s.run f :=
  (privileged_in he hm).trans (uniform_on he hq)

end Sys2Proof.Machine
end

section
/-! The answers of XPROBE (R99 to R101). -/

namespace Sys2Proof.Machine

/-- The registers after a probe: the pair d holds the place and b the status, which wins where they meet. -/
def ProbeWrites (e : Env) (d b : KReg) (x : DWord) (y : Word) (h : Regs) : Prop :=
  VSame e.g.regs h ∧ PSame e.g.regs h ∧ QSame e.g.regs h ∧ Flows e h ∧
    ∀ j, h.getK j =
      if j = b ∧ b ≠ 0 then y
      else if j = d ∧ d ≠ 0 then x.extractLsb' 0 32
      else if j = d + 1 ∧ d ≠ 0 then x.extractLsb' 32 32
      else e.g.regs.getK j

theorem KReg.val_ne_zero {r : KReg} : r.val ≠ 0 ↔ r ≠ 0 := not_congr (Fin.val_eq_zero_iff)

/-- Writing a pair and then a register changes k registers alone. -/
theorem probeWrites_set (e : Env) (d b : KReg) (x : DWord) (y : Word) :
    ProbeWrites e d b x y (((e.g.regs.setK2 d.val x).setK b.val y).advance e.c.mask e.c.size) := by
  obtain ⟨hk, hv, hp, hq, hflow⟩ := setK2_writes e d.val x
  refine ⟨fun n l hl => ?_, fun j => ?_, fun j => ?_, ?_, fun j => ?_⟩
  · simpa [Regs.getV] using hv n l hl
  · simpa [Regs.getP] using hp j
  · simpa [Regs.getQ] using hq j
  · exact ⟨by simpa using hflow.live, by simpa using hflow.wait, fun l hl => by simpa [Regs.advance, Regs.getPc] using hflow.pc l hl⟩
  · refine (setK_getK _ _ _ _).trans ?_
    simp only [setK2_getK, KReg.val_ne_zero]

section
variable {s s1 : State} {e : Env} {g : Pred} {d a b : KReg} {x : DWord} {y : Word} (he : s.env? = some e)
  (hm : e.g.trap.masked = true) (hq : e.g.regs.getQ g.val = true)
include he hm hq

/-- A probe that has an answer completes with it. -/
theorem xprobe_completes (hg : s1.groups = s.groups)
    (hp : probe s e.t.ctx e.agent (e.g.regs.getK2 a.val).toNat = some (s1, x, y)) :
    Completes (.xprobe g d a b) s s1 e e.g.latch (ProbeWrites e d b x y) := by
  have hi : exec (.xprobe g d a b) s =
      .next (s1.retire e (e.g.withRegs ((e.g.regs.setK2 d.val x).setK b.val y))) := by
    refine (privileged_on he hm hq).trans (run_ok he ?_)
    simp only [hp]
  exact completes_of_retire hi ((group?_of hg _).trans (group?_gid_of_env he)) (probeWrites_set e d b x y)

/-- A probe whose walk is held waits (R60). -/
theorem xprobe_waits (hp : probe s e.t.ctx e.agent (e.g.regs.getK2 a.val).toNat = none) : Waits (.xprobe g d a b) s e .held := by
  refine waits_of_park (privileged_on he hm hq) he ?_ rfl
  simp only [hp]

end

/-- The probe of an address in the global window, by what its walk finds (R100). -/
theorem probe_of_leaf {s : State} {c : Nat} {a : Agent} {va : Nat} (hva : va < 2 ^ 57) :
    (∀ lvl, leafOf s c a none va = .error (.absent lvl) ∨ leafOf s c a none va = .error (.prot lvl) →
      probe s c a va = some (s, 0, probeFail 1 lvl)) ∧
    (∀ lvl, leafOf s c a none va = .error (.bad lvl) → probe s c a va = some (s, 0, probeFail 2 lvl)) ∧
    (leafOf s c a none va = .error .held → probe s c a va = none) ∧
    (∀ lvl pa, leafOf s c a none va = .error (.lost lvl pa) → probe s c a va = some (s, 0, probeFail 4 lvl)) ∧
    (∀ s1 lf lvl, leafOf s c a none va = .ok (s1, lf, lvl) → probe s c a va = some (s1, probeOk lf lvl va)) := by
  unfold probe
  rw [if_neg (Nat.not_le.2 hva)]
  refine ⟨fun lvl h => ?_, fun lvl h => ?_, fun h => ?_, fun lvl pa h => ?_, fun s1 lf lvl h => ?_⟩
  · obtain h | h := h <;> rw [h]
  all_goals rw [h]

theorem probe_of_far {s : State} {c : Nat} {a : Agent} {va : Nat} (hva : 2 ^ 57 ≤ va) :
    probe s c a va = some (s, 0, probeFail 3 0) := if_pos hva

/-- The place that a probe reports of a leaf, by the leaf's numbers (R100). -/
theorem probeOk_of_leaf {lf lvl va : Nat} (hlf : lf < 2 ^ 64) :
    probeOk lf lvl va =
      (BitVec.ofNat 64 (lf / 2 ^ 52 * 2 ^ 52 + lf / 2 ^ 50 % 4 * 2 ^ 50 + lvl * 2 ^ 48 +
        (lf / 2 ^ 16 % 2 ^ 32 * 2 ^ 16 + va % unitSize lvl) % 2 ^ 48),
       BitVec.ofNat 32 (2 ^ 31 + lvl * 2 ^ 25 + lf % 512)) := by
  have hchip : fld lf 63 52 = lf / 2 ^ 52 := Nat.mod_eq_of_lt (Nat.div_lt_of_lt_mul (by omega))
  unfold probeOk
  rw [hchip]
  rfl

end Sys2Proof.Machine
end

section
/-! What XINVAL drops, and how it completes or waits (R102 to R104, R237). -/

namespace Sys2Proof.Machine

/-! ## What landing leaves of the translations -/

/-- What the translation caches and the walk caches hold. -/
def State.held (s : State) : List TlbEntry × List WalkEntry := (s.tlb, s.walks)

theorem store1_held (s : State) (pa : Nat) (b : Byte) : (s.store1 pa b).held = s.held := by
  have hstale : ∀ s : State, (s.markStale pa).held = s.held := by
    intro s
    unfold State.markStale State.markStaleRun
    split <;> rfl
  have hdirty : ∀ s : State, (s.markDirty pa).held = s.held := by
    intro s
    unfold State.markDirty
    split
    · rfl
    · split
      · rfl
      · split
        · split <;> rfl
        · rfl
  exact (hdirty _).trans (hstale _)

theorem storeAll_held (ws : List (Nat × Byte)) : ∀ s : State, (s.storeAll ws).held = s.held := by
  induction ws with
  | nil => exact fun _ => rfl
  | cons w ws ih => exact fun s => (ih _).trans (store1_held s _ _)

theorem landLate_held (s : State) (f : Late → Bool) : (s.landLate f).held = s.held := by
  unfold State.landLate
  split
  · rfl
  · exact foldl_keeps State.held _ (by intro a x; exact storeAll_held _ _) _ _

/-! ## What dropping a range leaves -/

/-- A context that a change of it is made in. -/
theorem modCtx_ctx? (s : State) (c : Nat) (f : Context → Context) : (s.modCtx c f).ctx? c = (s.ctx? c).map f := by
  unfold State.modCtx
  split
  next h => rw [h]; rfl
  next x h => rw [h, State.setCtx_ctx?]; rfl

theorem rangesMeet_iff {a n b m : Nat} : rangesMeet a n b m = true ↔ b < a + n ∧ a < b + m := by
  simp [rangesMeet, and_comm]

section
variable (s : State) (c a n : Nat)

theorem dropRange_mem : (s.dropRange c a n).mem = s.mem := State.modCtx_mem s c _

theorem dropRange_groups : (s.dropRange c a n).groups = s.groups := State.modCtx_groups s c _

theorem dropRange_tlb : (s.dropRange c a n).tlb = s.tlb.filter (fun t => !(t.ctx == c && rangesMeet a n t.base t.size)) := rfl

theorem dropRange_walks :
    (s.dropRange c a n).walks = s.walks.filter (fun w => !(w.ctx == c && rangesMeet a n w.base (entrySpan w.level))) := rfl

/-- A residency after a range is dropped: STALE where it was LIVE and its source meets the range. -/
def Residency.dropped (r : Residency) : Residency :=
  if r.st == 2 && rangesMeet a n r.layout.base r.layout.bytes then { r with st := 3 } else r

theorem dropRange_resid :
    ((s.dropRange c a n).ctx c).resid = (s.ctx c).resid.map (fun r => (r.1, r.2.dropped a n)) := by
  have hpair : ∀ r : Nat × Residency,
      (if (r.2.st == 2 && rangesMeet a n r.2.layout.base r.2.layout.bytes) = true then (r.1, { r.2 with st := 3 }) else r) =
        (r.1, r.2.dropped a n) := fun r => by unfold Residency.dropped; split <;> rfl
  have hctx : (s.dropRange c a n).ctx? c =
      (s.ctx? c).map (fun x => { x with resid := x.resid.map (fun r => (r.1, r.2.dropped a n)) }) := by
    refine (modCtx_ctx? s c _).trans ?_
    simp only [hpair]
  unfold State.ctx
  rw [hctx]
  cases s.ctx? c <;> rfl

/-- A residency that is still LIVE meets the range nowhere. -/
theorem dropRange_live {slot : Nat} {r : Residency} (hr : getT ((s.dropRange c a n).ctx c).resid slot = some r) (hst : r.st = 2) :
    rangesMeet a n r.layout.base r.layout.bytes = false := by
  have hmem := mem_of_getT hr
  rw [dropRange_resid] at hmem
  obtain ⟨q, -, hq⟩ := List.mem_map.1 hmem
  obtain ⟨-, rfl⟩ := Prod.mk.inj hq
  by_cases h : (q.2.st == 2 && rangesMeet a n q.2.layout.base q.2.layout.bytes) = true
  · rw [Residency.dropped, if_pos h] at hst
    exact absurd (show (3 : BitVec 2) = 2 from hst) (by decide)
  · rw [Residency.dropped, if_neg h] at hst ⊢
    simpa [hst] using h

end

/-- An entry stays among others unless it is one of a context that meets a range. -/
theorem mem_filter_unmet {α : Type} {l : List α} {ctx base size : α → Nat} {c a n hi : Nat} (hhi : a + n = hi) {x : α}
    (hx : x ∈ l) :
    x ∈ l.filter (fun t => !(ctx t == c && rangesMeet a n (base t) (size t))) ↔
      ¬(ctx x = c ∧ base x < hi ∧ a < base x + size x) := by
  rw [List.mem_filter, ← hhi, ← rangesMeet_iff]
  simp [hx, imp_iff_not_or]

/-- What an invalidation of the addresses from lo to hi in a context leaves in t of s (R103). -/
def Dropped (s t : State) (c lo hi : Nat) : Prop :=
  t.mem = (s.landLate (fun _ => true)).mem ∧
    (∀ x ∈ t.tlb, x ∈ s.tlb) ∧ (∀ x ∈ s.tlb, x ∈ t.tlb ↔ ¬(x.ctx = c ∧ x.base < hi ∧ lo < x.base + x.size)) ∧
    (∀ x ∈ t.walks, x ∈ s.walks) ∧
    (∀ x ∈ s.walks, x ∈ t.walks ↔ ¬(x.ctx = c ∧ x.base < hi ∧ lo < x.base + entrySpan x.level)) ∧
    ∀ slot r, getT (t.ctx c).resid slot = some r → r.st = 2 → ¬(r.layout.base < hi ∧ lo < r.layout.base + r.layout.bytes)

/-- A state that keeps what dropping a range after landing has left. -/
theorem dropped_of_keeps {s t : State} {c lo n hi : Nat} (hhi : lo + n = hi)
    (hmem : t.mem = ((s.landLate (fun _ => true)).dropRange c lo n).mem)
    (hheld : t.held = ((s.landLate (fun _ => true)).dropRange c lo n).held)
    (hres : (t.ctx c).resid = (((s.landLate (fun _ => true)).dropRange c lo n).ctx c).resid) : Dropped s t c lo hi := by
  obtain ⟨htlb0, hwalks0⟩ := Prod.mk.inj (landLate_held s (fun _ => true))
  obtain ⟨htlb, hwalks⟩ := Prod.mk.inj hheld
  rw [dropRange_tlb, htlb0] at htlb
  rw [dropRange_walks, hwalks0] at hwalks
  refine ⟨hmem.trans (dropRange_mem _ _ _ _), fun x hx => ?_, fun x hx => ?_, fun x hx => ?_, fun x hx => ?_, fun slot r hr hst => ?_⟩
  · rw [htlb] at hx; exact List.mem_of_mem_filter hx
  · rw [htlb]; exact mem_filter_unmet hhi hx
  · rw [hwalks] at hx; exact List.mem_of_mem_filter hx
  · rw [hwalks]; exact mem_filter_unmet hhi hx
  · rw [hres] at hr
    rw [← hhi, ← rangesMeet_iff, dropRange_live _ _ _ _ hr hst]
    exact Bool.false_ne_true

/-- The records of residencies of a context are out of reach of its counters. -/
theorem resid_of_counters {s t : State} {c : Nat}
    (h : (t.ctx? c).map (fun x => { x with counters := [] }) = (s.ctx? c).map (fun x => { x with counters := [] })) :
    (t.ctx c).resid = (s.ctx c).resid := by
  have keeps : ∀ o : Option Context,
      (o.getD Context.init).resid = ((o.map (fun x => { x with counters := [] })).getD Context.init).resid := fun o => by cases o <;> rfl
  unfold State.ctx
  rw [keeps, h, ← keeps]

/-! ## The instruction -/

/-- Ridgeline has staged a store of the group (R263). -/
def Env.StoresStaged (e : Env) : Prop := ∃ r ∈ e.gr.staged, r.team = e.t.idx ∧ r.group = e.g.gid % 32 ∧ r.kind = 0

/-- An instruction that completes where a condition holds, and otherwise stops. -/
theorem run_ite {s t : State} {e : Env} {f : Env → Except Stop State} {p : Prop} [Decidable p] {x : Stop} (he : s.env? = some e)
    (hf : f e = if p then .ok t else .error x) : s.run f = .next (if p then t else s.stopped e.c e.g x) := by
  by_cases h : p
  · rw [if_pos h] at hf ⊢
    exact run_ok he hf
  · rw [if_neg h] at hf ⊢
    exact run_stop he hf

section
variable {s : State} {e : Env} {g : Pred} {gran : Granule} {a b : KReg} (he : s.env? = some e) (hm : e.g.trap.masked = true)
  (hq : e.g.regs.getQ g.val = true)
include he hm hq

/-- XINVAL that has dropped its range and waits: it completes once nothing that it waits for is under way, and waits on until then. -/
theorem xinval_again {tags : List Nat} {since : Nat} (hp : e.g.park = some ⟨.inval tags, since⟩) :
    (stillFlying s tags = false → Completes (.xinval g gran a b) s s e e.g.latch (WritesNone e)) ∧
      (stillFlying s tags = true → Waits (.xinval g gran a b) s e (.inval tags)) := by
  refine ⟨fun h => completes_of_retire_same he ((privileged_on he hm hq).trans (run_ok he ?_)),
    fun h => waits_of_park (privileged_on he hm hq) he ?_ rfl⟩
  · simp only [hp, h, Bool.false_eq_true, if_false]
  · simp only [hp, h, if_true]

variable (hp : ∀ tags since, e.g.park ≠ some ⟨.inval tags, since⟩)
include hp

/-- A range that begins at no address of the global window raises APERTURE. -/
theorem xinval_traps (hn : (e.g.regs.getK b.val).toNat ≠ 0) (hn' : (e.g.regs.getK b.val).toNat ≤ 4096)
    (hva : 2 ^ 57 ≤ (e.g.regs.getK2 a.val).toNat) :
    Traps (.xinval g gran a b) s e 6 0 (e.g.regs.getK2 a.val).toNat e.c.mask := by
  refine traps_of_run (lanes := none) (privileged_on he hm hq) he ?_ rfl
  dsimp only
  split
  next h => exact absurd h (hp _ _)
  next => exact if_pos ⟨hn, hn', hva⟩

variable (hr : (e.g.regs.getK b.val).toNat = 0 ∨ 4096 < (e.g.regs.getK b.val).toNat ∨ (e.g.regs.getK2 a.val).toNat < 2 ^ 57)
include hr

/-- While stores of the group are staged, it waits for them (R263). -/
theorem xinval_waits_staged (hs : e.StoresStaged) :
    Waits (.xinval g gran a b) s e .load := by
  refine waits_of_park (privileged_on he hm hq) he ?_ rfl
  dsimp only
  split
  next h => exact absurd h (hp _ _)
  next => rw [if_neg (by omega), if_pos (by simpa [Env.StoresStaged, and_assoc] using hs)]

/-- The range is dropped in one step, in which the instruction completes unless something of the context is under way. -/
theorem exec_xinval_drops (hs : ¬e.StoresStaged) {lo n : Nat}
    (hrange : invalRange (granuleBytes gran) (e.g.regs.getK2 a.val).toNat (e.g.regs.getK b.val).toNat = (lo, n)) {s1 : State}
    (hs1 : (s.landLate (fun _ => true)).dropRange e.t.ctx lo n = s1) :
    exec (.xinval g gran a b) s = .next (if flying s e.t.ctx = [] then s1.retire e e.g
      else s.stopped e.c e.g (.park s1 (.inval (flying s e.t.ctx)))) := by
  refine (privileged_on he hm hq).trans (run_ite he ?_)
  dsimp only
  split
  next h => exact absurd h (hp _ _)
  next =>
    rw [if_neg (by omega), if_neg (by simpa [Env.StoresStaged, and_assoc] using hs), ← hs1]
    simp only [hrange]
    cases flying s e.t.ctx <;> rfl

/-- The range is dropped; what is under way decides whether the instruction completes at once. -/
theorem xinval_drops (hs : ¬e.StoresStaged) {lo n hi : Nat}
    (hrange : invalRange (granuleBytes gran) (e.g.regs.getK2 a.val).toNat (e.g.regs.getK b.val).toNat = (lo, n)) (hhi : lo + n = hi) :
    ∃ t h, exec (.xinval g gran a b) s = .next t ∧ t.group? e.g.gid = some h ∧ Dropped s t e.t.ctx lo hi ∧
      (flying s e.t.ctx = [] → WritesNone e h.regs ∧ h.park = none) ∧
      (flying s e.t.ctx ≠ [] → h.regs = e.g.regs ∧ h.park.map (·.why) = some (.inval (flying s e.t.ctx))) := by
  have hg : ((s.landLate (fun _ => true)).dropRange e.t.ctx lo n).group? e.g.gid = some e.g :=
    (group?_of ((dropRange_groups _ _ _ _).trans (landLate_groups _ _)) _).trans (group?_gid_of_env he)
  have hexec := exec_xinval_drops he hm hq hp hr hs hrange rfl
  by_cases hf : flying s e.t.ctx = []
  · have hpass := retire_passed_of_found (e := e) hg e.g.regs e.g.latch
    rw [if_pos hf] at hexec
    exact ⟨_, _, hexec, hpass.found, dropped_of_keeps hhi (State.retire_mem _ _ _)
      (Prod.ext (State.retire_tlb _ _ _) (State.retire_walks _ _ _)) (resid_of_counters (hpass.frame.ctxs _)),
      fun _ => ⟨retire_none e, rfl⟩, fun h => absurd hf h⟩
  · have hstops := stopped_park_stopsOnly (s := s) (w := .inval (flying s e.t.ctx)) hg rfl
    obtain ⟨h, hh, hpark, hregs, -⟩ := stopped_park_found (s := s) (w := .inval (flying s e.t.ctx)) hg rfl
    rw [if_neg hf] at hexec
    exact ⟨_, h, hexec, hh, dropped_of_keeps hhi hstops.mem (Prod.ext hstops.tlb hstops.walks)
      (by unfold State.ctx; rw [ctx?_of hstops.ctxs]; rfl), fun h => absurd h hf, fun _ => ⟨hregs, hpark⟩⟩

end

end Sys2Proof.Machine

namespace Sys2Proof
open Machine

/-- Settles O45: a probe answers as its walk ends; XINVAL drops its range in one step, and waits for what used it. -/
theorem probesAndInvalidations : Obligations.ProbesAndInvalidations := by
  intro g d a b gran s e he hm hq va n two probes size landed dropped stores drops
  refine ⟨fun hva => xprobe_completes he hm hq rfl (probe_of_far hva), fun hva => ?_, fun hp => ⟨?_, ?_, ?_, ?_⟩,
    fun _ _ hp => xinval_again he hm hq hp⟩
  · obtain ⟨hmiss, hbad, hheld, hlost, hok⟩ := probe_of_leaf (s := s) (c := e.t.ctx) (a := e.agent) hva
    refine ⟨fun lvl h => xprobe_completes he hm hq rfl (hmiss lvl h), fun lvl h => xprobe_completes he hm hq rfl (hbad lvl h),
      fun h => xprobe_waits he hm hq (hheld h), fun lvl pa h => xprobe_completes he hm hq rfl (hlost lvl pa h),
      fun s1 lf lvl h hlf _ => ?_⟩
    exact xprobe_completes he hm hq (leafOf_usesOnly h).groups ((hok s1 lf lvl h).trans (by rw [probeOk_of_leaf hlf]))
  · exact fun hs hr => xinval_waits_staged he hm hq hp hr hs
  · intro hs hn
    exact xinval_drops he hm hq hp (hn.elim .inl fun h => .inr (.inl h)) hs (if_pos hn) (Nat.zero_add _)
  · intro hs hn hn' hva
    have hb : va / size * size ≤ va := Nat.div_mul_le_self va size
    have hsize : granuleBytes gran = size := by cases gran <;> rfl
    refine xinval_drops he hm hq hp (.inr (.inr hva)) hs ((if_neg (by omega)).trans (by rw [hsize])) ?_
    rw [← Nat.add_min_add_left, Nat.add_sub_cancel' (by omega)]
  · exact fun hn hn' hva => xinval_traps he hm hq hp hn hn' hva

end Sys2Proof
end

section
/-! Requests that wait for a tag, and so have not been sent (R57). -/

namespace Sys2Proof.Machine

/-- A request without a tag has not been sent: no reply to it can come. -/
theorem memReply_rests_of_unsent {s : State} {tag : Nat} {r : Remote} {st : ReplyStatus} {data : List Byte}
    (hr : getT s.remote tag = some r) (ht : r.tag = none) : Rests (.memReply tag st data) s := by
  refine congrArg Host.Outcome.next (if_neg ?_)
  simp [hr, ht]

/-- A read of group 0 that waits for a tag of its source. -/
def unsentRead : Remote :=
  { gid := 0, job := none, own := none, src := 0, tag := none, port := none, tgt := 1, chip := 0, pa := 0x1000, op := .rd32, sent := 0 }

/-- The part with one group and its read that has not been sent. -/
def awaitingTag : State := { State.reset with groups := [Group.start 0 0], remote := [(0, unsentRead)] }

end Sys2Proof.Machine

namespace Sys2Proof
open Machine

/-- Refutes O48: the clause of the answers leaves out that the request has been sent. One that waits for a tag stays outstanding when
MEM_REPLY names it (R57). -/
theorem not_waitsEnd : ¬ Obligations.WaitsEnd := by
  intro h
  have hasked : getT awaitingTag.remote 0 = some unsentRead := rfl
  obtain ⟨-, -, -, -, -, hanswers, -⟩ := h awaitingTag 0 (Group.start 0 0) rfl
  obtain ⟨⟨t, ht, hgone, -⟩, -⟩ := hanswers 0 unsentRead .ok [] hasked rfl rfl rfl
  have hrests : exec (.memReply 0 .ok []) awaitingTag = .next awaitingTag := memReply_rests_of_unsent hasked rfl
  have hsame : t = awaitingTag := by
    rw [hrests] at ht
    cases ht
    rfl
  rw [hsame, hasked] at hgone
  cases hgone

end Sys2Proof
end

section
/-! The shape table (R125, R126). -/

namespace Sys2Proof.Machine

/-! ## Slots and generations -/

theorem firstGen_toNat (g : BitVec 12) : (firstGen g).toNat = if g = 0 then 1 else g.toNat := by
  unfold firstGen
  split <;> rfl

/-- Slots 1 to i - 1 being listed, a table has as many entries. -/
theorem slot_le_length {α : Type} {t : Tbl α} {i : Nat} (h : ∀ j, 0 < j → j < i → ∃ k, getT t j = some k) : i ≤ t.length + 1 := by
  have hsub : Finset.Ico 1 i ⊆ (t.map Prod.fst).toFinset := fun j hj => by
    obtain ⟨h1, h2⟩ := Finset.mem_Ico.1 hj
    obtain ⟨k, hk⟩ := h j h1 h2
    exact List.mem_toFinset.2 (List.mem_map.2 ⟨_, mem_of_getT hk, rfl⟩)
  have hcard := (Finset.card_le_card hsub).trans (List.toFinset_card_le _)
  rw [Nat.card_Ico, List.length_map] at hcard
  omega

section
variable {n i count : Nat} {used : Nat → Bool}

theorem lowestSlot_eq_some (h0 : 0 < i) (hn : i < n) (hi : used i = false) (hl : ∀ j, 0 < j → j < i → used j = true)
    (hc : i ≤ count + 1) : lowestSlot n used count = some i := by
  unfold lowestSlot
  rw [List.find?_map, List.find?_range_eq_some.2 ⟨?_, List.mem_range.2 (show i - 1 < count + 1 by omega), fun j hj => ?_⟩]
  · exact congrArg some (Nat.sub_add_cancel h0)
  · simp [Nat.sub_add_cancel h0, hn, hi]
  · simp [hl (j + 1) (by omega) (by omega)]

theorem lowestSlot_eq_none (h : ∀ j, 0 < j → j < n → used j = true) : lowestSlot n used count = none := by
  unfold lowestSlot
  rw [List.find?_map, List.find?_eq_none.2 fun j _ => ?_]
  · rfl
  · by_cases hj : j + 1 < n
    · simp [h (j + 1) (by omega) hj]
    · simp [hj]

end

/-! ## SHNEW and SHFREE -/

theorem recordAt_of_onThisChip {s s1 : State} {e : Env} {a : KReg} {n pa : Nat} {lf : Leaf} (hn : 0 < n) (hb : Begins s e)
    (hc : OnThisChip s s1 e .read [0] (fun _ => (e.g.regs.getK2 a.val).toNat) n (fun _ => pa) (fun _ => lf))
    (hl : localErr s1 (isLost s1) pa n = none) (ha : (e.g.regs.getK2 a.val).toNat % n = 0) (hd : e.isDet = false) :
    recordAt s e a n = .ok (s1.loadsMeet e [⟨(e.g.regs.getK2 a.val).toNat, n, .loc pa, lf⟩],
      seenBytes (s1.loadsMeet e [⟨(e.g.regs.getK2 a.val).toNat, n, .loc pa, lf⟩]) e (e.g.regs.getK2 a.val).toNat pa n) := by
  have hlow := hc.low 0 (by simp)
  have hload := loadLanes_of_onThisChip hn hb.fresh hb.whole hc (fun _ _ => hl) (fun _ => lowLane e.c.mask)
  simp only [List.map_cons, List.map_nil] at hload
  unfold recordAt detBan
  rw [if_neg (by omega), if_neg (by omega), hd, hload]
  simp [bind, Except.bind, pure, Except.pure, accessed]

/-- A shape slot is allocated. -/
def Context.shapeUsed (x : Context) (i : Nat) : Prop := ∃ k, getT x.shapes i = some k ∧ k.alloc = true

/-- The generation under which a shape slot is allocated next (R126). -/
def Context.shapeGen (x : Context) (i : Nat) : BitVec 12 := firstGen (((getT x.shapes i).map (·.gen)).getD 0)

/-- The slot that SHNEW takes (R126). -/
def Context.freeShape (x : Context) : Option Nat :=
  lowestSlot (x.reg CtxReg.shapeSlots).toNat (fun i => match getT x.shapes i with | some k => k.alloc | none => false) x.shapes.length

section
variable {x : Context} {i : Nat}

theorem shapeUsed_iff : x.shapeUsed i ↔ (match getT x.shapes i with | some k => k.alloc | none => false) = true := by
  unfold Context.shapeUsed
  cases getT x.shapes i <;> simp

theorem shapeGen_toNat : (x.shapeGen i).toNat =
    match getT x.shapes i with
    | some k => if k.gen = 0 then 1 else k.gen.toNat
    | none => 1 := by
  unfold Context.shapeGen
  rw [firstGen_toNat]
  cases getT x.shapes i <;> rfl

theorem freeShape_eq_some (h0 : 0 < i) (hn : i < (x.reg CtxReg.shapeSlots).toNat) (hi : ¬x.shapeUsed i)
    (hl : ∀ j, 0 < j → j < i → x.shapeUsed j) : x.freeShape = some i :=
  lowestSlot_eq_some h0 hn (Bool.eq_false_iff.2 fun h => hi (shapeUsed_iff.2 h)) (fun j h1 h2 => shapeUsed_iff.1 (hl j h1 h2))
    (slot_le_length fun j h1 h2 => (hl j h1 h2).imp fun _ h => h.1)

theorem freeShape_eq_none (h : ∀ j, 0 < j → j < (x.reg CtxReg.shapeSlots).toNat → x.shapeUsed j) : x.freeShape = none :=
  lowestSlot_eq_none fun j h1 h2 => shapeUsed_iff.1 (h j h1 h2)

end

section
variable {s s2 : State} {e : Env} {g : Pred} {d a : KReg} {sh : List Byte} (he : s.env? = some e) (hq : e.g.regs.getQ g.val = true)
include he hq

section
variable (hr : recordAt s e a 64 = .ok (s2, sh))
include hr

theorem shnew_traps (hs : shapeOk sh = false) : Traps (.shnew g d a) s e 15 0 0 e.c.mask := by
  refine traps_of_run (lanes := none) (uniform_on he hq) he ?_ rfl
  simp only [hr, ok_bind, hs, Bool.not_false, if_true]
  rfl

variable (hs : shapeOk sh = true) (hu : e.isUnlogged = true) (hg : s2.groups = s.groups)
include hs hu hg

theorem shnew_completes {i : Nat} (hi : e.x.freeShape = some i) :
    Completes (.shnew g d a) s (s2.modCtx e.t.ctx (fun x => { x with shapes := setT x.shapes i ⟨e.x.shapeGen i, true, sh⟩ })) e
      e.g.latch (fun r => WritesK e r d.val (BitVec.ofNat 32 (i * 4096 + (e.x.shapeGen i).toNat))) := by
  have hx : exec (.shnew g d a) s = .next (State.retire (s2.modCtx e.t.ctx (fun x => { x with
      shapes := setT x.shapes i ⟨e.x.shapeGen i, true, sh⟩ })) e { e.g with
      regs := e.g.regs.setK d.val (BitVec.ofNat 32 (i * 4096 + (e.x.shapeGen i).toNat)), latch := e.g.latch }) := by
    refine (uniform_on he hq).trans (run_ok he ?_)
    simp only [hr, ok_bind, hs, Bool.not_true, Bool.false_eq_true, if_false, sampleOpen_unlogged hu, sampledOp,
      sampleClose_unlogged hu]
    split
    next h => cases h.symm.trans hi
    next j h =>
      cases h.symm.trans hi
      rfl
  refine completes_of_retire hx ((group?_of ?_ _).trans (group?_gid_of_env he)) (setK_writes e _ _)
  exact (State.modCtx_groups _ _ _).trans hg

theorem shnew_completes_none (hi : e.x.freeShape = none) :
    Completes (.shnew g d a) s s2 e e.g.latch (fun r => WritesK e r d.val 0) := by
  have hx : exec (.shnew g d a) s = .next (s2.retire e { e.g with regs := e.g.regs.setK d.val 0, latch := e.g.latch }) := by
    refine (uniform_on he hq).trans (run_ok he ?_)
    simp only [hr, ok_bind, hs, Bool.not_true, Bool.false_eq_true, if_false, sampleOpen_unlogged hu, sampledOp,
      sampleClose_unlogged hu]
    split
    next => rfl
    next j h => cases h.symm.trans hi
  exact completes_of_retire hx ((group?_of hg _).trans (group?_gid_of_env he)) (setK_writes e _ _)

end

/-- A current handle's slot is freed and its generation advances (R126). -/
theorem shfree_completes {k : ShapeSlot} (hk : getT e.x.shapes ((e.g.regs.getK a.val).toNat / 4096) = some k) (ha : k.alloc = true)
    (h0 : (e.g.regs.getK a.val).toNat % 4096 ≠ 0) (hgen : k.gen.toNat = (e.g.regs.getK a.val).toNat % 4096) :
    Completes (.shfree g a) s (s.modCtx e.t.ctx (fun x => { x with
      shapes := setT x.shapes ((e.g.regs.getK a.val).toNat / 4096) ⟨nextGen k.gen, false, []⟩ })) e e.g.latch (WritesNone e) := by
  refine completes_of_retire (x := e.g.latch) (r := e.g.regs) ((uniform_on he hq).trans (run_ok he ?_))
    ((group?_of (State.modCtx_groups _ _ _) _).trans (group?_gid_of_env he)) (retire_none e)
  simp only [hk]
  exact if_pos ⟨ha, h0, hgen⟩

theorem shfree_traps (h : ∀ k, getT e.x.shapes ((e.g.regs.getK a.val).toNat / 4096) = some k →
      k.alloc = false ∨ (e.g.regs.getK a.val).toNat % 4096 = 0 ∨ k.gen.toNat ≠ (e.g.regs.getK a.val).toNat % 4096) :
    Traps (.shfree g a) s e 11 (e.g.regs.getK a.val).toNat 0 e.c.mask := by
  refine traps_of_run (lanes := none) (uniform_on he hq) he ?_ rfl
  dsimp only
  split
  next => rfl
  next k hk =>
    refine if_neg fun ⟨ha, h0, hgen⟩ => ?_
    obtain h1 | h1 | h1 := h k hk
    · exact Bool.noConfusion (ha.symm.trans h1)
    · exact h0 h1
    · exact h1 hgen

end

end Sys2Proof.Machine

namespace Sys2Proof
open Machine

/-- Settles O37: the record is read as any load on this chip reads, a slot that is free with all below it taken lies within the table and one
beyond it, and SHFREE goes by the slot's generation. -/
theorem shapes : Obligations.Shapes := by
  intro g d a s s1 e pa lf he hq ga h s2 sh size gen used
  refine ⟨fun hb hc hl ha hd hu => ?_, fun k hk halloc h0 hgen => shfree_completes he hq hk halloc h0 hgen, shfree_traps he hq⟩
  have hr : recordAt s e a 64 = .ok (s2, sh) := recordAt_of_onThisChip (by decide) hb hc hl ha hd
  have hg : s2.groups = s.groups := hc.loads_groups _ _
  refine ⟨shnew_traps he hq hr, fun hs i h0 hi hfree hlow => ?_, fun hs hall => ?_⟩
  · have hgen : gen i = (e.x.shapeGen i).toNat := shapeGen_toNat.symm
    have hword : BitVec.ofNat 12 (e.x.shapeGen i).toNat = e.x.shapeGen i := by simp
    rw [hgen, hword]
    exact shnew_completes he hq hr hs hu hg (freeShape_eq_some h0 hi hfree hlow)
  · exact shnew_completes_none he hq hr hs hu hg (freeShape_eq_none hall)

end Sys2Proof
end

section
/-! What a signal changes: an operation on a barrier object or a buffer handle in a scratchpad, and the groups that it wakes
(R122, R131, R135). -/

namespace Sys2Proof.Machine

/-! ## Signals -/

/-- A team apart from its scratchpad and its rotation pointer. -/
def Team.unsignalled (u : Team) : Team := { u with scratch := [], rot := 0 }

/-- One state is another but for its groups, of which none comes or goes, the scratchpads and rotation pointers of its teams, and the records
of its contexts. -/
structure SignalsOnly (s t : State) : Prop where
  groups : ∀ n, (t.group? n).isSome = (s.group? n).isSome
  teams : ∀ n, (t.team? n).map Team.unsignalled = (s.team? n).map Team.unsignalled
  rest : t = { s with groups := t.groups, teams := t.teams, ctxs := t.ctxs }

theorem SignalsOnly.refl (s : State) : SignalsOnly s s := ⟨fun _ => rfl, fun _ => rfl, rfl⟩

theorem SignalsOnly.trans {s t u : State} (h : SignalsOnly s t) (k : SignalsOnly t u) : SignalsOnly s u :=
  ⟨fun n => (k.groups n).trans (h.groups n), fun n => (k.teams n).trans (h.teams n), by rw [k.rest, h.rest]⟩

theorem SignalsOnly.foldl {β : Type} (f : State → β → State) (hf : ∀ a b, SignalsOnly a (f a b)) (l : List β) :
    ∀ s : State, SignalsOnly s (l.foldl f s) := by
  induction l with
  | nil => exact SignalsOnly.refl
  | cons b t ih => exact fun s => (hf s b).trans (ih _)

section
variable {s t : State} (h : SignalsOnly s t)
include h

theorem SignalsOnly.jobs : t.jobs = s.jobs := by rw [h.rest]

theorem SignalsOnly.grids : t.grids = s.grids := by rw [h.rest]

theorem SignalsOnly.found {n : Nat} {g : Group} (hg : s.group? n = some g) : ∃ k, t.group? n = some k :=
  Option.isSome_iff_exists.1 ((h.groups n).trans (by rw [hg]; rfl))

/-- A team of the later state is one of the earlier state but for what signals change. -/
theorem SignalsOnly.team {n : Nat} {u : Team} (hu : t.team? n = some u) :
    ∃ v, s.team? n = some v ∧ u.unsignalled = v.unsignalled := by
  have ht := (h.teams n).symm
  rw [hu, Option.map_some, Option.map_eq_some_iff] at ht
  obtain ⟨v, hv, huv⟩ := ht
  exact ⟨v, hv, huv.symm⟩

end

/-! ## Teams and groups after the updates -/

theorem modTeam_team? (s : State) (tid : Nat) {f : Team → Team} (hf : ∀ u, (f u).tid = u.tid) (n : Nat) :
    (s.modTeam tid f).team? n = if n = tid then (s.team? n).map f else s.team? n := by
  unfold State.modTeam State.team?
  rw [find_map_tid s.teams n (fun u => if u.tid = tid then f u else u) (fun u => by split <;> simp [hf])]
  cases hn : s.teams.find? (fun u => u.tid == n) with
  | none => simp
  | some u =>
    have hu : u.tid = n := by simpa using List.find?_some hn
    subst hu
    simp only [Option.map_some]
    split <;> rfl

theorem scrStore_team? (s : State) (tid off : Nat) (bs : List Byte) (n : Nat) : (s.scrStore tid off bs).team? n =
    if n = tid then (s.team? n).map (fun u => { u with scratch := writeB u.scratch off bs }) else s.team? n :=
  modTeam_team? s tid (by exact fun _ => rfl) n

/-- A change of one team's scratchpad. -/
theorem scrStore_signalsOnly (s : State) (tid off : Nat) (bs : List Byte) : SignalsOnly s (s.scrStore tid off bs) where
  groups := fun _ => rfl
  teams := fun n => by
    rw [scrStore_team?]
    split
    · rw [Option.map_map]; rfl
    · rfl
  rest := rfl

/-- A change of groups that keeps their numbers. -/
theorem mapGroups_signalsOnly (s : State) {f : Group → Group} (hf : ∀ g, (f g).gid = g.gid) :
    SignalsOnly s { s with groups := s.groups.map f } where
  groups := fun n => by
    have hfind : State.group? { s with groups := s.groups.map f } n = (s.group? n).map f := find_map_gid s.groups n f hf
    rw [hfind, Option.isSome_map]
  teams := fun _ => rfl
  rest := rfl

theorem setGroup_signalsOnly (s : State) (g : Group) : SignalsOnly s (s.setGroup g) :=
  mapGroups_signalsOnly s fun h => by split <;> simp_all

theorem modGroup_signalsOnly (s : State) (gid : Nat) {f : Group → Group} (hf : ∀ g, (f g).gid = g.gid) :
    SignalsOnly s (s.modGroup gid f) :=
  mapGroups_signalsOnly s fun g => by split <;> simp [hf]

theorem stepEnds_signalsOnly (s : State) (g : Group) : SignalsOnly s (s.stepEnds g) where
  groups := fun n => by rw [group?_of (State.stepEnds_groups s g)]
  teams := fun n => by
    have h := congrArg (Option.map (fun u : Team => { u with scratch := [] })) (stepEnds_team? s g n)
    rw [Option.map_map, Option.map_map] at h
    exact h
  rest := by
    unfold State.stepEnds State.rotate
    repeat (any_goals (first | rfl | split))

theorem countRetired_signalsOnly (s : State) (c : Nat) (g : Group) : SignalsOnly s (s.countRetired c g) where
  groups := fun n => by rw [group?_of (State.countRetired_groups s c g)]
  teams := fun n => by rw [team?_of (State.countRetired_teams s c g)]
  rest := by
    unfold State.countRetired State.count State.modCtx
    repeat (any_goals (first | rfl | split))

/-! ## Barrier objects and handles -/

theorem wakeBar_signalsOnly (s : State) (tid off o : Nat) : SignalsOnly s (s.wakeBar tid off o) :=
  mapGroups_signalsOnly s fun g => by
    split
    · split <;> rfl
    · rfl

theorem barPut_signalsOnly (s : State) (tid off o : Nat) : SignalsOnly s (s.barPut tid off o) :=
  (scrStore_signalsOnly s _ _ _).trans (wakeBar_signalsOnly _ _ _ _)

theorem passHandle_signalsOnly (s : State) (t : Team) (g : Group) (d : Option (Nat × Nat)) : SignalsOnly s (s.passHandle t g d) :=
  ((setGroup_signalsOnly s _).trans (stepEnds_signalsOnly _ _)).trans (countRetired_signalsOnly _ _ _)

theorem testHandle_signalsOnly (tid h n : Nat) : ∀ s : State, SignalsOnly s (s.testHandle tid h n) := by
  induction n with
  | zero => exact SignalsOnly.refl
  | succ n ih =>
    intro s
    unfold State.testHandle
    split
    · exact .refl s
    · dsimp only
      split
      · exact (passHandle_signalsOnly s _ _ _).trans (ih _)
      · split
        · split
          · exact ((scrStore_signalsOnly s _ _ _).trans (modGroup_signalsOnly _ _ (by exact fun _ => rfl))).trans (ih _)
          · exact .refl s
        · split
          · exact .refl s
          · split
            · exact ((scrStore_signalsOnly s _ _ _).trans (passHandle_signalsOnly _ _ _ _)).trans (ih _)
            · exact .refl s

theorem bufOp_signalsOnly (s : State) (t : Team) (h x : Nat) : SignalsOnly s (s.bufOp t h x) :=
  (scrStore_signalsOnly s _ _ _).trans (testHandle_signalsOnly _ _ _ _)

/-- An instruction that completes after a signal, which may have changed its own group before. -/
theorem completes_of_signal {i : Instr} {s s0 s1 : State} {e : Env} {r : Regs} {x : Option Latch} {R : Regs → Prop}
    (hi : exec i s = .next (s1.retire e { e.g with regs := r, latch := x })) (hs : SignalsOnly s0 s1)
    (hg : s0.group? e.g.gid = some e.g) (hR : R (r.advance e.c.mask e.c.size)) : Completes i s s1 e x R := by
  obtain ⟨k, hk⟩ := hs.found hg
  exact completes_of_retire hi hk hR

end Sys2Proof.Machine
end

section
/-! The instructions of the buffer table (R121 to R124). -/

namespace Sys2Proof.Machine

/-! ## The fields of an entry (R121, R123) -/

theorem bufState_eq (x : Nat) : Buf.state x = x % 4 := by simp [Buf.state, fld]

theorem bufWithState_eq (x st : Nat) : Buf.withState x st = x - x % 4 + st % 4 := by simp [Buf.withState, putFld, fld]

/-- An entry without its state and its ERR. -/
theorem bufCleared_eq (x : Nat) : putFld (Buf.withState x 0) 2 2 0 = x / 8 * 8 := by
  rw [bufWithState_eq]
  simp only [putFld, fld]
  omega

/-- An entry of the issued group's team. -/
theorem bufGet_of_env {s : State} {e : Env} (he : s.env? = some e) (h : Nat) :
    s.bufGet e.t h = leNat (readB e.t.scratch (s.scratchSize e.t - 512 + 8 * h) 8) := by
  unfold State.bufGet State.scrRead
  rw [team?_tid_of_env he]
  rfl

/-! ## Waits on a handle -/

theorem handleWaiter_none {s : State} {tid h : Nat} (hn : ∀ k ∈ s.groups, k.gid / 32 = tid → k.atHandle h = none)
    (f : HandleWait → Bool) : handleWaiter s tid h f = none := by
  have hw : (s.groupsOf tid).filterMap (fun g => match g.atHandle h with
      | some (w, since) => if f w then some (g, w, since) else none
      | none => none) = [] := by
    refine List.filterMap_eq_nil_iff.2 fun g hg => ?_
    obtain ⟨hg, htid⟩ := List.mem_filter.1 hg
    rw [hn g hg (by simpa using htid)]
  unfold handleWaiter
  dsimp only
  split
  next => rfl
  next h1 => cases h1.symm.trans hw

theorem testHandle_of_no_waiter {s : State} {tid h : Nat} (hn : ∀ f, handleWaiter s tid h f = none) (n : Nat) :
    s.testHandle tid h n = s := by
  cases n with
  | zero => rfl
  | succ n =>
    unfold State.testHandle
    split
    · rfl
    · simp only [hn]
      split
      · rfl
      · split <;> rfl

/-- Where no group of the team waits at a handle, an operation on it changes the entry alone (R122). -/
theorem bufOp_of_no_waiter {s : State} {t : Team} {h : Nat} (hn : ∀ k ∈ s.groups, k.gid / 32 = t.tid → k.atHandle h = none) (x : Nat) :
    s.bufOp t h x = s.withScratch t.tid [(s.scratchSize t - 512 + 8 * h, leBytes 8 x)] :=
  testHandle_of_no_waiter (s := s.bufPut t h x) (handleWaiter_none hn) _

/-! ## The instructions -/

section
variable {s : State} {e : Env} {g : Pred} {a : KReg} {f : Env → Nat → Nat → Except Stop State} {i : Instr}
  (hi : exec i s = s.bufferOp g a f) (he : s.env? = some e) (hq : e.g.regs.getQ g.val = true)
include hi he hq

/-- A team without scratchpad has no buffer table (R121). -/
theorem bufferOp_traps_aperture (hz : s.scratchSize e.t = 0) : Traps i s e 6 0 0 e.c.mask :=
  traps_of_run (lanes := none) (hi.trans (uniform_on he hq)) he (if_pos hz) rfl

section
variable {h x : Nat} (hh : (e.g.regs.getK a.val).toNat % 64 = h)
  (hx : leNat (readB e.t.scratch (s.scratchSize e.t - 512 + 8 * h) 8) = x)
  (hz : s.scratchSize e.t ≠ 0)
include hh hx hz

/-- What a buffer instruction makes of its entry is what it comes to. -/
theorem bufferOp_gives {r : Except Stop State} (hr : f e h x = r) : ∃ F, exec i s = s.run F ∧ F e = r := by
  subst hh hx
  exact ⟨_, hi.trans (uniform_on he hq), (if_neg hz).trans (by rw [← bufGet_of_env he] at hr; exact hr)⟩

theorem bufferOp_traps {cause info addr : Nat} (hr : f e h x = trapWith cause info addr) : Traps i s e cause info addr e.c.mask := by
  obtain ⟨F, hF, hFe⟩ := bufferOp_gives hi he hq hh hx hz hr
  exact traps_of_run (lanes := none) hF he hFe rfl

theorem bufferOp_waits {w : Wait} (hr : f e h x = .error (.park s w)) (hw : w.rotates = false) : Waits i s e w := by
  obtain ⟨F, hF, hFe⟩ := bufferOp_gives hi he hq hh hx hz hr
  exact waits_of_park hF he hFe hw

/-- An instruction that sets its entry. -/
theorem bufferOp_sets {x' : Nat} {r : Regs} {R : Regs → Prop} (hr : f e h x = .ok ((s.bufOp e.t h x').retire e (e.g.withRegs r)))
    (hR : R (r.advance e.c.mask e.c.size)) : Completes i s (s.bufOp e.t h x') e e.g.latch R := by
  obtain ⟨F, hF, hFe⟩ := bufferOp_gives hi he hq hh hx hz hr
  exact completes_of_signal (hF.trans (run_ok he hFe)) (bufOp_signalsOnly s _ _ _) (group?_gid_of_env he) hR

/-- An instruction that leaves its entry as it is. -/
theorem bufferOp_passes {r : Regs} {R : Regs → Prop} (hr : f e h x = .ok (s.retire e (e.g.withRegs r)))
    (hR : R (r.advance e.c.mask e.c.size)) : Completes i s s e e.g.latch R := by
  obtain ⟨F, hF, hFe⟩ := bufferOp_gives hi he hq hh hx hz hr
  exact completes_of_retire (hF.trans (run_ok he hFe)) (group?_gid_of_env he) hR

end

end

end Sys2Proof.Machine

namespace Sys2Proof
open Machine

/-- Settles O35: each instruction goes by the state of its handle's entry, and an operation on a handle at which nobody waits is a store
to the table. -/
theorem buffers : Obligations.Buffers := by
  intro g d a b s e he hq h at_ x code puts
  have hget : exec (.bufget g d a) s = execBufget g d a s := rfl
  have hput : exec (.bufput g a) s = execBufput g a s := rfl
  have hwait : exec (.bufwait g a b) s = execBufwait g a b s := rfl
  have hquery : exec (.bufq g d a) s = execBufq g d a s := rfl
  refine ⟨fun hz => ⟨bufferOp_traps_aperture hget he hq hz, bufferOp_traps_aperture hput he hq hz,
    bufferOp_traps_aperture hwait he hq hz, bufferOp_traps_aperture hquery he hq hz⟩, fun hz => ?_⟩
  have hputs : ∀ {i : Instr} {x' : Nat} {R : Regs → Prop}, Completes i s (s.bufOp e.t h x') e e.g.latch R → puts i x' R :=
    fun hc => ⟨hc, fun hn => bufOp_of_no_waiter hn _⟩
  have hh : (e.g.regs.getK a.val).toNat % 64 = h := rfl
  have hx0 : leNat (readB e.t.scratch (s.scratchSize e.t - 512 + 8 * h) 8) = x := rfl
  have hcode : bufCode b = code := by cases b <;> rfl
  refine ⟨fun hx => hputs ?get, fun hx => ?getWaits, fun hx => hputs ?put, fun hx => ?putTraps, fun hx => ?wait, fun hx => ?waitWaits,
    fun hd => ?qDet, fun hd hu => ?q⟩
  case get =>
    have hx' : Buf.withState x 3 = x + 1 := by rw [bufWithState_eq]; omega
    refine bufferOp_sets hget he hq hh hx0 hz ?_ (setK_writes e d.val _)
    rw [if_pos ((bufState_eq x).trans hx), hx']
  case getWaits =>
    refine bufferOp_waits hget he hq hh hx0 hz (if_neg ?_) rfl
    rwa [bufState_eq]
  case put =>
    refine bufferOp_sets hput he hq hh hx0 hz (if_neg ?_ |>.trans ?_) (retire_none e)
    · rw [bufState_eq]; omega
    · rw [bufCleared_eq]; rfl
  case putTraps =>
    refine bufferOp_traps hput he hq hh hx0 hz (if_pos ?_)
    rwa [bufState_eq]
  case wait =>
    refine bufferOp_passes hwait he hq hh hx0 hz (if_pos ?_) (retire_none e)
    rw [bufState_eq, hcode]; exact hx
  case waitWaits =>
    rw [← hcode] at hx ⊢
    refine bufferOp_waits hwait he hq hh hx0 hz (if_neg ?_) rfl
    rwa [bufState_eq]
  case qDet =>
    refine bufferOp_traps hquery he hq hh hx0 hz ?_
    simp only [detBan, hd, if_true]
    rfl
  case q =>
    refine bufferOp_passes hquery he hq hh hx0 hz ?_ (setK_writes e d.val (BitVec.ofNat 32 x))
    have hx : BitVec.ofNat 32 (x % 2 ^ 32) = BitVec.ofNat 32 x := BitVec.eq_of_toNat_eq (by simp)
    simp only [detBan, hd, Bool.false_eq_true, if_false, ok_bind, sampleOpen_unlogged hu, sampleClose_unlogged hu, Option.map_none,
      Option.getD_none]
    rw [hx]

end Sys2Proof
end

section
/-! What a write to local memory leaves of a context: all but the marks of residencies whose source it meets (R236), and the counters. -/

namespace Sys2Proof.Machine

/-- A residency apart from whether it is LIVE. -/
def Residency.unmarked (r : Residency) : Residency := { r with st := 0 }

/-- A context apart from its counters and from which of its residencies are LIVE. -/
def Context.unmarked (x : Context) : Context := { x with counters := [], resid := x.resid.map fun r => (r.1, r.2.unmarked) }

theorem getT_map {α β : Type} (f : Nat → α → β) (t : Tbl α) (k : Nat) :
    getT (t.map fun x => (x.1, f x.1 x.2)) k = (getT t k).map (f k) := by
  induction t with
  | nil => rfl
  | cons x t ih =>
    simp only [List.map_cons, getT, ih]
    split
    next h => rw [h]; rfl
    next => rfl

/-- One state's contexts are those of another but for counters and the marks of residencies. -/
def MarksOnly (s t : State) : Prop := ∀ c, (t.ctx? c).map Context.unmarked = (s.ctx? c).map Context.unmarked

theorem MarksOnly.refl (s : State) : MarksOnly s s := fun _ => rfl

theorem MarksOnly.trans {s t u : State} (h : MarksOnly s t) (k : MarksOnly t u) : MarksOnly s u := fun c => (k c).trans (h c)

theorem MarksOnly.of_ctxs {s t : State} (h : t.ctxs = s.ctxs) : MarksOnly s t := fun c => by rw [ctx?_of h]

theorem UsesOnly.marksOnly {s t : State} (h : UsesOnly s t) : MarksOnly s t := fun c => by
  have hc := congrArg (Option.map Context.unmarked) (h.ctxs c)
  rw [Option.map_map, Option.map_map] at hc
  exact hc

section
variable {s t : State} (h : MarksOnly s t) (c : Nat)
include h

theorem MarksOnly.ctx : (t.ctx c).unmarked = (s.ctx c).unmarked := by
  have hg : ∀ o : Option Context, (o.getD Context.init).unmarked = (o.map Context.unmarked).getD Context.init.unmarked :=
    fun o => by cases o <;> rfl
  unfold State.ctx
  rw [hg, h c, ← hg]

theorem MarksOnly.reg (off : Nat) : (t.ctx c).reg off = (s.ctx c).reg off := by
  have hr : ∀ x : Context, x.reg off = x.unmarked.reg off := fun _ => rfl
  rw [hr, h.ctx c, ← hr]

theorem MarksOnly.reg64 (off : Nat) : (t.ctx c).reg64 off = (s.ctx c).reg64 off := by
  unfold Context.reg64
  rw [h.reg, h.reg]

/-- The slots of residencies are the same. -/
theorem MarksOnly.resid {slot : Nat} {r : Residency} (hr : getT (s.ctx c).resid slot = some r) :
    ∃ r', getT (t.ctx c).resid slot = some r' ∧ r'.unmarked = r.unmarked := by
  have hres : ∀ x : Context, getT x.unmarked.resid slot = (getT x.resid slot).map Residency.unmarked :=
    fun x => getT_map (fun _ => Residency.unmarked) x.resid slot
  have ht := hres (t.ctx c)
  rw [h.ctx c, hres, hr, Option.map_some] at ht
  exact Option.map_eq_some_iff.1 ht.symm

end

/-- A context after a write to a run: what it hits is STALE. -/
def Context.hitBy (s : State) (pa n c : Nat) (x : Context) : Context :=
  { x with resid := x.resid.map (fun r => if r.2.isHit s (c, x) r.1 pa n then (r.1, { r.2 with st := 3 }) else r) }

theorem unmarked_hitBy (s : State) (pa n c : Nat) (x : Context) : (x.hitBy s pa n c).unmarked = x.unmarked := by
  simp only [Context.unmarked, Context.hitBy, List.map_map]
  congr 1
  refine List.map_congr_left fun r _ => ?_
  simp only [Function.comp_apply]
  split <;> rfl

theorem markStaleRun_marksOnly (s : State) (pa n : Nat) : MarksOnly s (s.markStaleRun pa n) := by
  unfold State.markStaleRun
  split
  · intro c
    have hctx : getT (s.ctxs.map fun x => (x.1, x.2.hitBy s pa n x.1)) c = (getT s.ctxs c).map (Context.hitBy s pa n c) :=
      getT_map (Context.hitBy s pa n) s.ctxs c
    refine (congrArg (Option.map Context.unmarked) hctx).trans ?_
    rw [Option.map_map]
    exact congrArg (fun f => Option.map f (getT s.ctxs c)) (funext fun x => unmarked_hitBy s pa n c x)
  · exact .refl s

theorem markDirty_marksOnly (s : State) (pa : Nat) : MarksOnly s (s.markDirty pa) := by
  refine .of_ctxs ?_
  unfold State.markDirty
  split
  · rfl
  · split
    · rfl
    · split
      · split <;> rfl
      · rfl

theorem store1_marksOnly (s : State) (pa : Nat) (b : Byte) : MarksOnly s (s.store1 pa b) := by
  have h0 : MarksOnly s { s with mem := putB s.mem pa b, stale := s.stale.filter (fun x => x.pa != pa) } := .of_ctxs rfl
  exact (h0.trans (markStaleRun_marksOnly _ pa 1)).trans (markDirty_marksOnly _ pa)

theorem storeAll_marksOnly (ws : List (Nat × Byte)) : ∀ s : State, MarksOnly s (s.storeAll ws) := by
  induction ws with
  | nil => exact MarksOnly.refl
  | cons w ws ih => exact fun s => (store1_marksOnly s w.1 w.2).trans (ih _)

theorem clearLost_marksOnly (s : State) (ws : List (Nat × Byte)) : MarksOnly s (s.clearLost ws) := .of_ctxs rfl

theorem landLate_marksOnly (s : State) (f : Late → Bool) : MarksOnly s (s.landLate f) := by
  unfold State.landLate
  split
  · exact .refl s
  · exact foldl_invariant (P := MarksOnly s) (.of_ctxs rfl)
      fun a _ h => h.trans ((clearLost_marksOnly a _).trans (storeAll_marksOnly _ _))

theorem writeOwn_marksOnly (s : State) (pa : Nat) (bs : List Byte) : MarksOnly s (s.writeOwn pa bs) :=
  ((clearLost_marksOnly s _).trans (storeAll_marksOnly _ _)).trans (runL2_usesOnly _ _ _ _ _).marksOnly

end Sys2Proof.Machine
end

section
/-! The fields of a barrier object (R127, R128). -/

namespace Sys2Proof.Machine

/-! ## Fields of a number -/

section
variable (x v : Nat) {hi lo hi' lo' : Nat}

/-- A number with a field replaced is what lies above the field, the field, and what lies below it. -/
theorem putFld_eq (hi lo : Nat) : putFld x hi lo v =
    2 ^ lo * (2 ^ (hi + 1 - lo) * (x / 2 ^ lo / 2 ^ (hi + 1 - lo)) + v % 2 ^ (hi + 1 - lo)) + x % 2 ^ lo := by
  unfold putFld fld
  generalize 2 ^ lo = m
  generalize 2 ^ (hi + 1 - lo) = n
  have hx := Nat.div_add_mod x m
  have hq := Nat.div_add_mod (x / m) n
  have hx' : x = m * (n * (x / m / n)) + x / m % n * m + x % m := by
    calc x = m * (x / m) + x % m := hx.symm
      _ = m * (n * (x / m / n) + x / m % n) + x % m := by rw [hq]
      _ = _ := by ring
  rw [Nat.mul_add, Nat.mul_comm (v % n) m]
  omega

theorem fld_putFld_same : fld (putFld x hi lo v) hi lo = v % 2 ^ (hi + 1 - lo) := by
  rw [putFld_eq]
  unfold fld
  rw [Nat.mul_add_div (Nat.two_pow_pos lo), Nat.div_eq_of_lt (Nat.mod_lt _ (Nat.two_pow_pos lo)), Nat.add_zero,
    Nat.mul_add_mod, Nat.mod_mod]

/-- A field above the one replaced. -/
theorem fld_putFld_above (h : lo ≤ hi + 1) (h' : hi < lo') : fld (putFld x hi lo v) hi' lo' = fld x hi' lo' := by
  obtain ⟨k, rfl⟩ := Nat.exists_eq_add_of_lt h'
  have hpow : 2 ^ (hi + k + 1) = 2 ^ lo * (2 ^ (hi + 1 - lo) * 2 ^ k) := by
    rw [← pow_add, ← pow_add]
    congr 1
    omega
  unfold fld
  rw [putFld_eq, hpow, ← Nat.div_div_eq_div_mul, ← Nat.div_div_eq_div_mul, ← Nat.div_div_eq_div_mul, ← Nat.div_div_eq_div_mul,
    Nat.mul_add_div (Nat.two_pow_pos lo), Nat.div_eq_of_lt (Nat.mod_lt x (Nat.two_pow_pos lo)), Nat.add_zero,
    Nat.mul_add_div (Nat.two_pow_pos _), Nat.div_eq_of_lt (Nat.mod_lt v (Nat.two_pow_pos _)), Nat.add_zero]

/-- A field below the one replaced. -/
theorem fld_putFld_below (h : lo' ≤ hi' + 1) (h' : hi' < lo) : fld (putFld x hi lo v) hi' lo' = fld x hi' lo' := by
  have hcut : ∀ y, fld y hi' lo' = y % 2 ^ lo % (2 ^ lo' * 2 ^ (hi' + 1 - lo')) / 2 ^ lo' := fun y => by
    have hdvd : 2 ^ lo' * 2 ^ (hi' + 1 - lo') ∣ 2 ^ lo := by
      rw [← pow_add]
      exact pow_dvd_pow 2 (by omega)
    rw [Nat.mod_mod_of_dvd _ hdvd, Nat.mod_mul_right_div_self]
    rfl
  rw [hcut, hcut, putFld_eq, Nat.mul_add_mod, Nat.mod_mod]

end

/-! ## Signed values in n + 1 bits -/

theorem neg_two_pow_le_sx (n x : Nat) : -(2 ^ n : Int) ≤ sx (n + 1) x := by
  have hm : (2 : Int) ^ n = ((2 ^ n : Nat) : Int) := (Nat.cast_pow 2 n).symm
  unfold sx
  rw [hm, Nat.add_sub_cancel, Nat.pow_succ]
  clear hm
  generalize 2 ^ n = m
  split <;> omega

theorem wrap_lt (n : Nat) (b : Int) : wrap n b < 2 ^ n := by
  have hpos := Nat.two_pow_pos n
  unfold wrap
  omega

/-- A signed value survives its encoding. -/
theorem sx_wrap {n : Nat} {b : Int} (hlo : -(2 ^ n) ≤ b) (hhi : b < 2 ^ n) : sx (n + 1) (wrap (n + 1) b) = b := by
  unfold sx
  rw [Nat.mod_eq_of_lt (wrap_lt _ _), Nat.add_sub_cancel]
  unfold wrap
  rw [Nat.pow_succ]
  have hm : (2 : Int) ^ n = ((2 ^ n : Nat) : Int) := (Nat.cast_pow 2 n).symm
  rw [hm] at hlo hhi
  clear hm
  generalize 2 ^ n = m at hlo hhi ⊢
  by_cases h0 : 0 ≤ b
  · have h : b % ((m * 2 : Nat) : Int) = b := Int.emod_eq_of_lt h0 (by omega)
    rw [h]
    split <;> omega
  · have h : b % ((m * 2 : Nat) : Int) = b + (m * 2 : Nat) := by
      rw [← Int.add_emod_right, Int.emod_eq_of_lt (by omega) (by omega)]
    rw [h]
    split <;> omega

/-! ## What the operations make of the fields -/

namespace Bar

theorem expect_lt (o : Nat) : expect o < 1024 := Nat.mod_lt _ (by decide)

/-- Complete changes the arrivals and the phase alone. -/
theorem complete_keeps (o : Nat) : expect (complete o) = expect o ∧ bytes (complete o) = bytes o ∧ err (complete o) = err o := by
  unfold complete
  split
  · simp [expect, bytes, err, fld_putFld_above, fld_putFld_below]
  · exact ⟨rfl, rfl, rfl⟩

/-- The phase of an object ends that is whole, has all its arrivals and no bytes due (R128). -/
theorem complete_met {o : Nat} (he : err o = false) (ha : arrived o = expect o) (hb : bytes o = 0) :
    arrived (complete o) = 0 ∧ phase (complete o) = (phase o + 1) % 16 := by
  unfold complete
  rw [if_pos (by simp [he, ha, hb])]
  simp [arrived, phase, fld_putFld_same, fld_putFld_below]

theorem complete_unmet {o : Nat} (h : ¬(arrived o = expect o ∧ bytes o = 0)) : complete o = o := by
  unfold complete
  rw [if_neg (by simpa [and_assoc] using fun _ ha hb => h ⟨ha, hb⟩)]

theorem err_barBreak (o : Nat) : err (barBreak o) = true := by
  simp [err, barBreak, fld_putFld_same]

/-- A new value of BYTES in its range (R127). -/
theorem bytes_putBytes (o : Nat) {b : Int} (hlo : -(2 ^ 31) ≤ b) (hhi : b < 2 ^ 31) : bytes (putFld o 127 96 (wrap 32 b)) = b := by
  unfold bytes
  rw [fld_putFld_same, Nat.mod_eq_of_lt (wrap_lt 32 b), sx_wrap hlo hhi]

theorem bytes_ge (o : Nat) : -(2 ^ 31) ≤ bytes o := neg_two_pow_le_sx 31 _

end Bar

/-- An object after more arrivals (R131). -/
theorem putArrived_fields (o : Nat) {n : Nat} (h : n < 1024) : Bar.expect (putFld o 29 20 n) = Bar.expect o ∧
    Bar.bytes (putFld o 29 20 n) = Bar.bytes o ∧ Bar.err (putFld o 29 20 n) = Bar.err o ∧
    Bar.phase (putFld o 29 20 n) = Bar.phase o ∧ Bar.arrived (putFld o 29 20 n) = n := by
  simp [Bar.expect, Bar.bytes, Bar.err, Bar.phase, Bar.arrived, fld_putFld_above, fld_putFld_below, fld_putFld_same,
    Nat.mod_eq_of_lt h]

/-- An object with another count of bytes (R127, R131). -/
theorem putBytes_fields (o : Nat) {b : Int} (hlo : -(2 ^ 31) ≤ b) (hhi : b < 2 ^ 31) :
    Bar.expect (putFld o 127 96 (wrap 32 b)) = Bar.expect o ∧ Bar.bytes (putFld o 127 96 (wrap 32 b)) = b ∧
    Bar.err (putFld o 127 96 (wrap 32 b)) = Bar.err o ∧ Bar.phase (putFld o 127 96 (wrap 32 b)) = Bar.phase o ∧
    Bar.arrived (putFld o 127 96 (wrap 32 b)) = Bar.arrived o := by
  refine ⟨?_, Bar.bytes_putBytes o hlo hhi, ?_⟩ <;> simp [Bar.expect, Bar.err, Bar.phase, Bar.arrived, fld_putFld_below]

/-- What BINIT writes (R131). -/
theorem barInit_fields (k : Nat) : Bar.bytes (barInit k) = 0 ∧ Bar.arrived (barInit k) = 0 ∧ Bar.expect (barInit k) = k % 1024 ∧
    Bar.phase (barInit k) = k / 1024 % 16 ∧ Bar.err (barInit k) = decide (k % 1024 = 0) := by
  have hx := Nat.mod_lt k (show 1024 > 0 by decide)
  have hp := Nat.mod_lt (k / 1024) (show 16 > 0 by decide)
  have hobj : barInit k = k % 1024 * 2 ^ 30 + k / 1024 % 16 * 2 ^ 16 + (k % 1024 == 0).toNat * 2 ^ 15 := rfl
  have hbit : (k % 1024 == 0).toNat < 2 := Bool.toNat_lt _
  have herr : decide (k % 1024 = 0) = ((k % 1024 == 0).toNat == 1) := by cases h : k % 1024 == 0 <;> simp_all
  rw [hobj, herr]
  generalize (k % 1024 == 0).toNat = h at hbit ⊢
  generalize k / 1024 % 16 = p at hp ⊢
  generalize k % 1024 = x at hx ⊢
  have hhigh : (x * 2 ^ 30 + p * 2 ^ 16 + h * 2 ^ 15) / 2 ^ 96 = 0 := Nat.div_eq_of_lt (by omega)
  unfold Bar.bytes Bar.arrived Bar.expect Bar.phase Bar.err fld
  rw [hhigh]
  refine ⟨by simp [sx], ?_, ?_, ?_, ?_⟩
  · simp only [Nat.reduceAdd, Nat.reduceSub]
    omega
  · simp only [Nat.reduceAdd, Nat.reduceSub]
    omega
  · simp only [Nat.reduceAdd, Nat.reduceSub]
    omega
  · have hfld : (x * 2 ^ 30 + p * 2 ^ 16 + h * 2 ^ 15) / 2 ^ 15 % 2 ^ (15 + 1 - 15) = h := by
      simp only [Nat.reduceAdd, Nat.reduceSub]
      omega
    rw [hfld]

/-- Arrivals within what is expected count, and the last one ends the phase where no bytes are due (R131). -/
theorem barArrive_counts {o n : Nat} (he : Bar.err o = false) (hn : Bar.arrived o + n ≤ Bar.expect o) :
    ∃ o', barArrive o n = (o', false) ∧ Bar.expect o' = Bar.expect o ∧ Bar.bytes o' = Bar.bytes o ∧ Bar.err o' = false ∧
      (if n = 0 then Bar.arrived o' = Bar.arrived o ∧ Bar.phase o' = Bar.phase o
       else if Bar.arrived o + n = Bar.expect o ∧ Bar.bytes o = 0
         then Bar.arrived o' = 0 ∧ Bar.phase o' = (Bar.phase o + 1) % 16
         else Bar.arrived o' = Bar.arrived o + n ∧ Bar.phase o' = Bar.phase o) := by
  have hover : (Bar.err o || decide (Bar.expect o < Bar.arrived o + n)) = false := by simp [he, hn]
  unfold barArrive
  rw [hover]
  by_cases h0 : n = 0
  · exact ⟨o, by simp [h0], rfl, rfl, he, by simp [h0]⟩
  · obtain ⟨hexp, hbytes, herr, hphase, harr⟩ := putArrived_fields o (Nat.lt_of_le_of_lt hn (Bar.expect_lt o))
    obtain ⟨kexp, kbytes, kerr⟩ := Bar.complete_keeps (putFld o 29 20 (Bar.arrived o + n))
    refine ⟨_, by rw [if_neg h0]; rfl, kexp.trans hexp, kbytes.trans hbytes, kerr.trans (herr.trans he), ?_⟩
    rw [if_neg h0]
    split
    next h =>
      have hmet := Bar.complete_met (herr.trans he) (harr.trans (h.1.trans hexp.symm)) (hbytes.trans h.2)
      exact ⟨hmet.1, hmet.2.trans (by rw [hphase])⟩
    next h =>
      rw [Bar.complete_unmet (by rw [harr, hexp, hbytes]; exact h)]
      exact ⟨harr, hphase⟩

theorem barArrive_overruns {o n : Nat} (h : Bar.err o = true ∨ Bar.expect o < Bar.arrived o + n) : barArrive o n = (barBreak o, true) :=
  if_pos (by simpa using h)

/-- An expectation in the range of BYTES is added, and ends the phase where it leaves none due (R131). -/
theorem barExpect_adds {o k : Nat} (he : Bar.err o = false) (hk : Bar.bytes o + k < 2 ^ 31) :
    ∃ o', barExpect o k = (o', false) ∧ Bar.expect o' = Bar.expect o ∧ Bar.err o' = false ∧ Bar.bytes o' = Bar.bytes o + k ∧
      (if Bar.arrived o = Bar.expect o ∧ Bar.bytes o + k = 0 then Bar.arrived o' = 0 ∧ Bar.phase o' = (Bar.phase o + 1) % 16
       else Bar.arrived o' = Bar.arrived o ∧ Bar.phase o' = Bar.phase o) := by
  have hlo : -(2 ^ 31) ≤ Bar.bytes o + k := le_trans (Bar.bytes_ge o) (Int.le_add_of_nonneg_right (Int.natCast_nonneg k))
  obtain ⟨hexp, hbytes, herr, hphase, harr⟩ := putBytes_fields o hlo hk
  obtain ⟨kexp, kbytes, kerr⟩ := Bar.complete_keeps (putFld o 127 96 (wrap 32 (Bar.bytes o + k)))
  refine ⟨Bar.complete (putFld o 127 96 (wrap 32 (Bar.bytes o + k))), ?_, kexp.trans hexp, kerr.trans (herr.trans he),
    kbytes.trans hbytes, ?_⟩
  · unfold barExpect
    rw [if_neg (by simp [he])]
    show (if 2 ^ 31 ≤ Bar.bytes o + (k : Int) ∨ Bar.bytes o + (k : Int) < -(2 ^ 31) then _ else _) = _
    rw [if_neg (not_or.mpr ⟨not_le.mpr hk, not_lt.mpr hlo⟩)]
  · split
    next h =>
      have hmet := Bar.complete_met (herr.trans he) (harr.trans (h.1.trans hexp.symm)) (hbytes.trans h.2)
      exact ⟨hmet.1, hmet.2.trans (by rw [hphase])⟩
    next h =>
      rw [Bar.complete_unmet (by rw [harr, hexp, hbytes]; exact h)]
      exact ⟨harr, hphase⟩

theorem barExpect_overruns {o k : Nat} (h : Bar.err o = true ∨ 2 ^ 31 ≤ Bar.bytes o + k) :
    ∃ o', barExpect o k = (o', true) ∧ Bar.err o' = true := by
  unfold barExpect
  by_cases he : Bar.err o = true
  · exact ⟨o, if_pos he, he⟩
  · exact ⟨barBreak o, (if_neg he).trans (if_pos (.inl (h.resolve_left he))), Bar.err_barBreak o⟩

end Sys2Proof.Machine
end

section
/-! The barrier instructions on an object in the scratchpad (R127 to R131). -/

namespace Sys2Proof.Machine

/-! ## Bytes read back -/

theorem leNat_leBytes (n : Nat) : ∀ x, leNat (leBytes n x) = x % 256 ^ n := by
  induction n with
  | zero => intro x; simp [leBytes, leNat, Nat.mod_one]
  | succ n ih =>
    intro x
    rw [Nat.pow_succ', Nat.mod_mul, ← ih]
    rfl

theorem readB_writeB (m : BMap 8) (a : Nat) (bs : List Byte) : readB (writeB m a bs) a bs.length = bs := by
  refine List.ext_getElem (readB_length _ _ _) fun i h1 h2 => ?_
  simp [readB, getB_writeB, h2]

theorem leNat_readB_writeB (m : BMap 8) (a n x : Nat) : leNat (readB (writeB m a (leBytes n x)) a n) = x % 256 ^ n := by
  have h := readB_writeB m a (leBytes n x)
  rw [leBytes_length] at h
  rw [h, leNat_leBytes]

theorem Bar.err_mod (o : Nat) : err (o % 256 ^ 16) = err o := by
  have hbit : fld (o % 256 ^ 16) 15 15 = fld o 15 15 := by
    unfold fld
    omega
  unfold err
  rw [hbit]

/-! ## Operations on an object -/

section
variable {s : State} {e : Env} {ga off : Nat} (he : s.env? = some e) (hb : BelowTable s e ga 16 off) (ha : ga % 16 = 0)
include he hb ha

theorem barPlace_own : barPlace s e ga = .ok (e.t.tid, off) := by
  have hsteer := steer_own (lane := 0) (team?_tid_of_env he) hb.toInOwnScratch
  have hopen : checkPresent s s [⟨ga, 16, .scr e.t.tid off, ⟨0, 0⟩⟩] = .ok () :=
    checkPresent_ok fun p hp => by
      rw [List.mem_singleton.1 hp]
      exact isOpen_own (ga := ga) (team?_tid_of_env he) (by decide) hb.toInOwnScratch
  have hga := hb.at_
  have hlow := hb.low
  unfold barPlace
  rw [if_neg (by omega), hsteer]
  dsimp only
  rw [if_neg (by omega), if_neg fun h => h.2 rfl, hopen]
  rfl

end

section
variable {e : Env} (hu : e.isUnlogged = true)
include hu

theorem cairnOpen_unlogged (s : State) (addr : Nat) (ev : LogEv) : cairnOpen s e addr ev = .ok [] := by
  have hm : Rec.mode e.gr.bytes < 2 := by simpa [Env.isUnlogged] using hu
  have hrec : e.isRec = false := beq_eq_false_iff_ne.2 (by omega)
  have hreplay : e.isReplay = false := beq_eq_false_iff_ne.2 (by omega)
  simp only [cairnOpen, hrec, hreplay, Bool.false_eq_true, if_false]

theorem cairnClose_unlogged (s : State) (evs : List (LogEv × Nat)) (rs : List LogRec) : s.cairnClose e evs rs = (s, none) := by
  have hm : Rec.mode e.gr.bytes < 2 := by simpa [Env.isUnlogged] using hu
  have hrec : e.isRec = false := beq_eq_false_iff_ne.2 (by omega)
  have hreplay : e.isReplay = false := beq_eq_false_iff_ne.2 (by omega)
  simp only [State.cairnClose, hrec, hreplay, Bool.false_eq_true, if_false]

variable {s : State} {addr : Nat} {ev : LogEv} {f : State → Except Stop Done} {s1 : State} {g : Group} {x : Nat}

theorem logged_passes (hf : f s = .ok ⟨s1, g, x, none⟩) : logged s e addr ev f = .ok (s1.retire e g) := by
  simp only [logged, cairnOpen_unlogged hu, ok_bind, hf, cairnClose_unlogged hu]

/-- A trap of the instruction's own comes after its result, where no replay diverges. -/
theorem logged_traps {cause info : Nat} (hf : f s = .ok ⟨s1, g, x, some (cause, info)⟩) : logged s e addr ev f =
    .error (.trapAfter ((s1.setGroup g).modCtx e.t.ctx fun y => { y with diverged := y.diverged || false }) cause info addr) := by
  simp only [logged, cairnOpen_unlogged hu, ok_bind, hf, cairnClose_unlogged hu]
  rfl

end

/-- What an arrival performs before it counts (R129). -/
def State.released (s : State) (arrival : Bool) (gid : Nat) : State := if arrival then s.landOf gid else s

section
variable (s : State) (arrival : Bool) (gid : Nat)

theorem released_storesOnly : StoresOnly s (s.released arrival gid) := by
  unfold State.released
  split
  · exact landLate_storesOnly s _
  · exact .refl s

theorem released_marksOnly : MarksOnly s (s.released arrival gid) := by
  unfold State.released
  split
  · exact landLate_marksOnly s _
  · exact .refl s

theorem released_groups : (s.released arrival gid).groups = s.groups := (released_storesOnly s arrival gid).groups

theorem released_teams : (s.released arrival gid).teams = s.teams := by rw [(released_storesOnly s arrival gid).rest]

end

section
variable {s : State} {e : Env} {ga off : Nat} {f : Nat → Nat × Bool} {put : Nat → Group} {o1 : Nat}
  (he : s.env? = some e) (hu : e.isUnlogged = true) (hb : BelowTable s e ga 16 off) (ha : ga % 16 = 0)
include he hu hb ha

theorem barOp_passes (hf : f (s.barGet e.t.tid off) = (o1, false)) (arrival : Bool) : barOp s e arrival ga f put =
    .ok (((s.released arrival e.g.gid).barPut e.t.tid off o1).retire e (put (s.barGet e.t.tid off))) := by
  unfold barOp
  rw [barPlace_own he hb ha, ok_bind]
  dsimp only
  rw [hf]
  exact logged_passes hu rfl

theorem barOp_traps (hf : f (s.barGet e.t.tid off) = (o1, true)) (arrival : Bool) : barOp s e arrival ga f put =
    .error (.trapAfter (((((s.released arrival e.g.gid).barPut e.t.tid off o1).setGroup (put (s.barGet e.t.tid off))).modCtx e.t.ctx
      fun y => { y with diverged := y.diverged || false })) 17 (o1 % 2 ^ 32) ga) := by
  unfold barOp
  rw [barPlace_own he hb ha, ok_bind]
  dsimp only
  rw [hf]
  exact logged_traps hu rfl

end

theorem binit_completes {s : State} {e : Env} {g : Pred} {a b : KReg} {off : Nat} (he : s.env? = some e)
    (hq : e.g.regs.getQ g.val = true) (hb : BelowTable s e (e.g.regs.getK2 a.val).toNat 16 off)
    (ha : (e.g.regs.getK2 a.val).toNat % 16 = 0) : Completes (.binit g a b) s
      (s.barPut e.t.tid off (barInit (e.g.regs.getK b.val).toNat)) e e.g.latch (WritesNone e) := by
  refine completes_of_signal (r := e.g.regs) (x := e.g.latch) ((uniform_on he hq).trans (run_ok he ?_)) (barPut_signalsOnly _ _ _ _)
    (group?_gid_of_env he) (retire_none e)
  rw [barPlace_own he hb ha]
  rfl

/-! ## Objects after an operation -/

theorem barPut_team? {s : State} {tid off o : Nat} {u : Team} (hu : s.team? tid = some u) :
    (s.barPut tid off o).team? tid = some { u with scratch := writeB u.scratch off (leBytes 16 o) } := by
  have ht : (s.barPut tid off o).team? tid = (s.scrStore tid off (leBytes 16 o)).team? tid := rfl
  rw [ht, scrStore_team?, if_pos rfl, hu]
  rfl

/-- What a group learns of an object's new value where it waits there. -/
theorem barPut_groups (s : State) (tid off o : Nat) : (s.barPut tid off o).groups = s.groups.map fun g => match g.park with
    | some ⟨.bwait _ _ t f p, _⟩ => if t = tid ∧ f = off ∧ g.stop.isNone ∧ g.due.isNone
        then { g with due := barDue ((s.scrStore tid off (leBytes 16 o)).modeOf (g.gid / 32)) o p } else g
    | _ => g := rfl

theorem scrStore_modeOf (s : State) (tid off : Nat) (bs : List Byte) (n : Nat) : (s.scrStore tid off bs).modeOf n = s.modeOf n := by
  unfold State.modeOf
  rw [scrStore_team?]
  by_cases hn : n = tid
  · rw [if_pos hn]
    cases s.team? n <;> rfl
  · rw [if_neg hn]
    rfl

/-- With nobody waiting at an object, an operation on it changes the object alone. -/
theorem barPut_of_no_waiter {s : State} {tid off : Nat} (h : ∀ k ∈ s.groups, ∀ q f p c, k.park ≠ some ⟨.bwait q f tid off p, c⟩)
    (o : Nat) : s.barPut tid off o = s.withScratch tid [(off, leBytes 16 o)] := by
  have hgroups : (s.barPut tid off o).groups = s.groups := by
    rw [barPut_groups]
    refine (List.map_congr_left fun g hg => ?_).trans (List.map_id _)
    split
    next q f t off' p c hpark =>
      refine if_neg fun ⟨ht, hoff, _⟩ => h g hg q f p c ?_
      rw [hpark, ht, hoff]
    next => rfl
  calc s.barPut tid off o = { s.scrStore tid off (leBytes 16 o) with groups := (s.barPut tid off o).groups } := rfl
    _ = _ := by rw [hgroups]; rfl

/-- A group that waits at an object learns of its new value, but for a DET team's and a replay's (R131). -/
theorem barPut_wakes {s : State} {tid off : Nat} {k : Group} (hk : k ∈ s.groups) {q : Nat} {f : Option Nat} {p c : Nat}
    (hp : k.park = some ⟨.bwait q f tid off p, c⟩) (hs : k.stop = none) (hd : k.due = none)
    (hm : s.modeOf (k.gid / 32) = 0 ∨ s.modeOf (k.gid / 32) = 2) (o : Nat) : { k with
      due := if Bar.err o then some (.phase false) else if Bar.phase o ≠ p then some (.phase true) else none }
        ∈ (s.barPut tid off o).groups := by
  rw [barPut_groups]
  refine List.mem_map.2 ⟨k, hk, ?_⟩
  have hdue : barDue (s.modeOf (k.gid / 32)) o p =
      if Bar.err o then some (.phase false) else if Bar.phase o ≠ p then some (.phase true) else none := by
    unfold barDue barCheck
    rw [if_neg (by omega), if_neg (by omega)]
    split
    · rfl
    · split <;> rfl
  simp only [hp, hs, hd, scrStore_modeOf, hdue]
  rfl

/-! ## A trap after the result -/

theorem getK_of_k {r r' : Regs} (h : r.k = r'.k) (j : Nat) : r.getK j = r'.getK j := by
  unfold Regs.getK
  rw [h]

theorem foldl_setV_k (ls : List Nat) (d : Nat) (f : Nat → Word) (r : Regs) :
    (ls.foldl (fun (q : Regs) l => q.setV d l (f l)) r).k = r.k := by
  rw [foldl_setV_keep]

/-- Entry to the handler keeps the uniform registers but k30 and k31. -/
theorem enter_getK (g : Group) (x : Context) (t : Team) (cause info addr pc : Nat) (word lit : Word) (mask : Mask) (hpa j : Nat)
    (h30 : j ≠ 30) (h31 : j ≠ 31) : (g.enter x t cause info addr pc word lit mask hpa).regs.getK j = g.regs.getK j := by
  unfold Group.enter
  dsimp only
  rw [setK2_getK, if_neg fun h => h30 h.1, if_neg fun h => h31 h.1]
  exact (getK_of_k (foldl_setV_k _ _ _ _) j).trans (getK_of_k rfl j)

/-- What a handler finds, and what it keeps of the group. -/
structure Handles (g h : Group) (cause addr : Nat) : Prop where
  masked : h.trap.masked = true
  cause : h.trap.cause = BitVec.ofNat 32 cause
  addr : h.trap.addr = BitVec.ofNat 64 addr
  retired : h.retired = g.retired
  k : ∀ j, j ≠ 30 → j ≠ 31 → h.regs.getK j = g.regs.getK j

theorem enter_handles (g : Group) (x : Context) (t : Team) (cause info addr pc : Nat) (word lit : Word) (mask : Mask) (hpa : Nat) :
    Handles g (g.enter x t cause info addr pc word lit mask hpa) cause addr where
  masked := by simp only [Group.enter]
  cause := by simp only [Group.enter]
  addr := by simp only [Group.enter]
  retired := by simp only [Group.enter]
  k := enter_getK g x t cause info addr pc word lit mask hpa

/-- A group outside its handler, whose context has one, enters it. -/
theorem raiseTrap_enters {s : State} {c : Issue} {g : Group} {u : Team} (hm : g.trap.masked = false) (hu : s.team? (g.gid / 32) = some u)
    (hv : (s.ctx u.ctx).reg64 CtxReg.trapVec ≠ 0) (cause info addr : Nat) (lanes : Mask) (hpa : Nat) :
    s.raiseTrap c g cause info addr lanes hpa =
      { s.setGroup (g.enter (s.ctx u.ctx) u cause info addr c.pc.toNat c.word c.lit lanes hpa) with cur := none } := by
  simp only [State.raiseTrap, hu, hm, Bool.false_eq_true, if_false, if_neg hv]

theorem stopped_trapAfter {s s1 : State} {c : Issue} {g k : Group} (hk : s1.group? g.gid = some k) (cause info addr : Nat) :
    s.stopped c g (.trapAfter s1 cause info addr) = s1.raiseTrap c k cause info addr c.mask 0 := by
  simp only [State.stopped, hk]

/-- A change of a context that leaves its registers. -/
theorem modCtx_reg64 (s : State) (c : Nat) {f : Context → Context} (hf : ∀ y, (f y).regs = y.regs) (off : Nat) :
    ((s.modCtx c f).ctx c).reg64 off = (s.ctx c).reg64 off := by
  unfold State.ctx
  rw [modCtx_ctx?]
  cases s.ctx? c with
  | none => rfl
  | some y =>
    have hreg : ∀ n, (f y).reg n = y.reg n := fun n => congrArg (getB · n) (hf y)
    simp only [Option.map_some, Option.getD_some, Context.reg64, hreg]

/-- A trap after the result g of an instruction: a group outside its handler enters it with that result, and no team changes. -/
theorem stopped_after_result {s s1 : State} {c : Issue} {g0 g k : Group} {u : Team} {f : Context → Context} {cause info addr : Nat}
    (hg : g0.gid = g.gid) (hk : s1.group? g.gid = some k) (hu : s1.team? (g.gid / 32) = some u) (hm : g.trap.masked = false)
    (hv : (s1.ctx u.ctx).reg64 CtxReg.trapVec ≠ 0) (hf : ∀ y, (f y).regs = y.regs) :
    ∃ t h, s.stopped c g0 (.trapAfter ((s1.setGroup g).modCtx u.ctx f) cause info addr) = t ∧ t.teams = s1.teams ∧
      t.group? g.gid = some h ∧ Handles g h cause addr := by
  have hgroup : ((s1.setGroup g).modCtx u.ctx f).group? g.gid = some g := by
    refine (group?_of (State.modCtx_groups _ _ _) _).trans ((setGroup_group? _ _ _).trans ?_)
    rw [if_pos rfl, hk]
    rfl
  have hteams : ((s1.setGroup g).modCtx u.ctx f).teams = s1.teams := State.modCtx_teams _ _ _
  have hvec : (((s1.setGroup g).modCtx u.ctx f).ctx u.ctx).reg64 CtxReg.trapVec ≠ 0 := by
    rw [modCtx_reg64 _ _ hf]
    exact hv
  generalize (s1.setGroup g).modCtx u.ctx f = s2 at hgroup hteams hvec
  have hstop := (stopped_trapAfter (s := s) (hg ▸ hgroup) cause info addr).trans
    (raiseTrap_enters (c := c) hm ((team?_of hteams _).trans hu) hvec cause info addr c.mask 0)
  have hh := enter_handles g (s2.ctx u.ctx) u cause info addr c.pc.toNat c.word c.lit c.mask 0
  have hgid : (g.enter (s2.ctx u.ctx) u cause info addr c.pc.toNat c.word c.lit c.mask 0).gid = g.gid := by simp only [Group.enter]
  generalize g.enter (s2.ctx u.ctx) u cause info addr c.pc.toNat c.word c.lit c.mask 0 = h at hstop hh hgid
  refine ⟨_, h, hstop, hteams, (setGroup_group? s2 h g.gid).trans ?_, hh⟩
  rw [hgroup, if_pos hgid.symm]
  rfl

section
variable {s : State} {e : Env} {off : Nat} (he : s.env? = some e) (arrival : Bool) (o1 : Nat)
include he

theorem released_group? : (s.released arrival e.g.gid).group? e.g.gid = some e.g :=
  (group?_of (released_groups s arrival e.g.gid) _).trans (group?_gid_of_env he)

theorem released_barPut_team? : ((s.released arrival e.g.gid).barPut e.t.tid off o1).team? e.t.tid =
    some { e.t with scratch := writeB e.t.scratch off (leBytes 16 o1) } :=
  barPut_team? ((team?_of (released_teams s arrival e.g.gid) _).trans (team?_tid_of_env he))

theorem released_barPut_trapVec : (((s.released arrival e.g.gid).barPut e.t.tid off o1).ctx e.t.ctx).reg64 CtxReg.trapVec =
    e.x.reg64 CtxReg.trapVec := by
  have hput : ((s.released arrival e.g.gid).barPut e.t.tid off o1).ctx e.t.ctx = (s.released arrival e.g.gid).ctx e.t.ctx := rfl
  rw [hput, (released_marksOnly s arrival e.g.gid).reg64, ctx_of_env he]

variable {i : Instr} {F : Env → Except Stop State} {ga : Nat} {f : Nat → Nat × Bool} {put : Nat → Group}
  (hu : e.isUnlogged = true) (hb : BelowTable s e ga 16 off) (ha : ga % 16 = 0) {r : Regs}
  (hi : exec i s = s.run F) (hF : F e = barOp s e arrival ga f put)
  (hput : put (s.barGet e.t.tid off) = e.g.withRegs r)
include hu hb ha hi hF hput

/-- An operation that does not overrun completes with the object after it. -/
theorem barOp_completes {R : Regs → Prop} (hf : f (s.barGet e.t.tid off) = (o1, false)) (hR : R (r.advance e.c.mask e.c.size)) :
    Completes i s ((s.released arrival e.g.gid).barPut e.t.tid off o1) e e.g.latch R := by
  have hx : exec i s = .next (((s.released arrival e.g.gid).barPut e.t.tid off o1).retire e { e.g with regs := r, latch := e.g.latch }) := by
    refine hi.trans (run_ok he (hF.trans ((barOp_passes he hu hb ha hf arrival).trans ?_)))
    rw [hput]
    rfl
  exact completes_of_signal hx (barPut_signalsOnly _ _ _ _) (released_group? he arrival) hR

/-- One that overruns leaves the object broken, and the group in its handler with the registers that the instruction wrote (R131). -/
theorem barOp_overruns (hf : f (s.barGet e.t.tid off) = (o1, true)) (herr : Bar.err o1 = true) (hm : e.g.trap.masked = false)
    (hv : e.x.reg64 CtxReg.trapVec ≠ 0) :
    ∃ t h u, exec i s = .next t ∧ t.group? e.g.gid = some h ∧ h.trap.masked = true ∧ h.trap.cause = 17 ∧
      h.trap.addr = BitVec.ofNat 64 ga ∧ h.retired = e.g.retired ∧ (∀ j, j ≠ 30 → j ≠ 31 → h.regs.getK j = r.getK j) ∧
      t.team? e.t.tid = some u ∧ Bar.err (leNat (readB u.scratch off 16)) = true := by
  have hteam := released_barPut_team? (off := off) he arrival o1
  have hvec := released_barPut_trapVec (off := off) he arrival o1
  obtain ⟨k, hk⟩ := (barPut_signalsOnly (s.released arrival e.g.gid) e.t.tid off o1).found (released_group? he arrival)
  have hstop := hi.trans (run_stop he (hF.trans (barOp_traps he hu hb ha hf arrival)))
  rw [hput] at hstop
  generalize (s.released arrival e.g.gid).barPut e.t.tid off o1 = s1 at hteam hvec hk hstop
  have htid : e.g.gid / 32 = e.t.tid := by rw [env_tid he, env_gid he]
  obtain ⟨t, h, hafter, hteams, hgroup, hh⟩ := stopped_after_result (s := s) (c := e.c) (g0 := e.g) (g := e.g.withRegs r)
    (f := fun y => { y with diverged := y.diverged || false }) (cause := 17) (info := o1 % 2 ^ 32) (addr := ga)
    rfl hk ((congrArg s1.team? htid).trans hteam) hm (fun h => hv (hvec.symm.trans h)) (by exact fun _ => rfl)
  refine ⟨t, h, _, hstop.trans (congrArg _ hafter), hgroup, hh.masked, hh.cause, hh.addr, hh.retired, hh.k,
    (team?_of hteams _).trans hteam, ?_⟩
  rw [leNat_readB_writeB, Bar.err_mod, herr]

end

/-! ## BWAIT -/

/-- An instruction that parks its group in a wait that gives up the rotation waits. -/
theorem waits_of_rotating_park {i : Instr} {s : State} {e : Env} {f : Env → Except Stop State} {w : Wait} (hi : exec i s = s.run f)
    (he : s.env? = some e) (hf : f e = .error (.park s w)) (hw : w.rotates = true) : Waits i s e w := by
  have hg := group?_gid_of_env he
  obtain ⟨hgid, hregs, hret, hpark⟩ := parkOn_keeps e.g w s.clk
  have hstop : s.stopped e.c e.g (.park s w) =
      (State.stepEnds { s.setGroup (e.g.parkOn w s.clk) with cur := none } e.g).cutTry (e.g.gid / 32) := by
    simp only [State.stopped, hg, hw, if_true]
  have hset : (State.stepEnds { s.setGroup (e.g.parkOn w s.clk) with cur := none } e.g).group? e.g.gid = some (e.g.parkOn w s.clk) := by
    refine (group?_of (State.stepEnds_groups _ _) _).trans ((setGroup_group? s _ _).trans ?_)
    rw [if_pos hgid.symm, hg]
    rfl
  have hcut := cutTry_stopsOnly (State.stepEnds { s.setGroup (e.g.parkOn w s.clk) with cur := none } e.g) (e.g.gid / 32)
  obtain ⟨k, hk, hku⟩ := hcut.found hset
  have keeps : ∀ {β : Type} (p : Group → β), (∀ g, p g.unstopped = p g) → p k = p (e.g.parkOn w s.clk) :=
    fun p hp => (hp k).symm.trans ((congrArg p hku).trans (hp _))
  refine ⟨_, k, (hi.trans (run_stop he hf)).trans (congrArg _ hstop), hk, (keeps (fun g => g.park.map (·.why)) fun _ => rfl).trans hpark,
    (keeps Group.regs fun _ => rfl).trans hregs, (keeps Group.retired fun _ => rfl).trans hret, fun a => ?_⟩
  rw [hcut.mem, State.stepEnds_mem]
  rfl

section
variable {s : State} {e : Env} {g dq : Pred} {a b : KReg} (he : s.env? = some e) (hq : e.g.regs.getQ g.val = true)
  (hu : e.isUnlogged = true)
include he hu

theorem completes_of_boundedEnd {i : Instr} {F : Env → Except Stop State} {v : Bool} (hi : exec i s = s.run F)
    (hF : F e = .ok (boundedEnd s e dq v none)) : Completes i s s e e.g.latch (fun h => WritesQ e h dq.val v) := by
  refine completes_of_retire (r := e.g.regs.setQ dq.val v) (x := e.g.latch) (hi.trans (run_ok he (hF.trans ?_)))
    (group?_gid_of_env he) (setQ_writes e _ _)
  rw [boundedEnd, sampleClose_unlogged hu]
  rfl

include hq

/-- What an operation on its object has decided stands. -/
theorem bwait_of_due {v : Bool} (hd : e.g.due = some (.phase v)) :
    Completes (.bwait g dq a b) s s e e.g.latch (fun h => WritesQ e h dq.val v) := by
  refine completes_of_boundedEnd he hu (uniform_on he hq) ?_
  simp only [hd, sampleOpen_unlogged hu, ok_bind]

variable {off : Nat} (hb : BelowTable s e (e.g.regs.getK2 a.val).toNat 16 off) (ha : (e.g.regs.getK2 a.val).toNat % 16 = 0)
  (hdet : e.isDet = false) (hd : e.g.due = none)
include hb ha hdet hd

theorem bwait_of_check {v : Bool} (hc : barCheck (s.barGet e.t.tid off) ((e.g.regs.getK b.val).toNat % 16) = some v) :
    Completes (.bwait g dq a b) s s e e.g.latch (fun h => WritesQ e h dq.val v) := by
  refine completes_of_boundedEnd he hu (uniform_on he hq) ?_
  simp only [hd, barPlace_own he hb ha, hdet, sampleOpen_unlogged hu, ok_bind, Bool.false_eq_true, if_false, hc]

variable (hp : e.g.park = none) (hc : barCheck (s.barGet e.t.tid off) ((e.g.regs.getK b.val).toNat % 16) = none)
include hp hc

theorem bwait_unbounded (hk : (e.g.regs.getK b.val).toNat / 16 = 0) :
    Completes (.bwait g dq a b) s s e e.g.latch (fun h => WritesQ e h dq.val false) := by
  refine completes_of_boundedEnd he hu (uniform_on he hq) ?_
  simp only [hd, barPlace_own he hb ha, hdet, sampleOpen_unlogged hu, ok_bind, Bool.false_eq_true, if_false, hc, waitStart, hp, hk]
  simp

theorem bwait_waits (hk : (e.g.regs.getK b.val).toNat / 16 ≠ 0) : Waits (.bwait g dq a b) s e
    (.bwait dq.val (some (s.clk + (e.g.regs.getK b.val).toNat / 16 * 64)) e.t.tid off ((e.g.regs.getK b.val).toNat % 16)) := by
  refine waits_of_rotating_park (uniform_on he hq) he ?_ rfl
  simp only [hd, barPlace_own he hb ha, hdet, sampleOpen_unlogged hu, ok_bind, Bool.false_eq_true, if_false, hc, waitStart, hp]
  exact if_neg (by omega)

end

/-- What an arrival writes is the phase and the fault that it found (R131). -/
theorem barSeen_eq (o : Nat) : barSeen o = BitVec.ofNat 32 (Bar.phase o + (if Bar.err o then 16 else 0)) := by
  unfold barSeen
  cases Bar.err o <;> rfl

theorem barCheck_of_err {o : Nat} (h : Bar.err o = true) (p : Nat) : barCheck o p = some false := if_pos h

theorem barCheck_of_ok {o : Nat} (h : Bar.err o = false) (p : Nat) : barCheck o p = if Bar.phase o ≠ p then some true else none :=
  if_neg (by simp [h])

end Sys2Proof.Machine

namespace Sys2Proof
open Machine

/-- Settles O33: what the object holds after each operation comes from its fields, and the operation reaches it as a logged one that logs
nothing; an overrun is a trap after the result. -/
theorem barriers : Obligations.Barriers := by
  intro g dq d a b s e off he hq hu ga o k puts arrival arrives seen overruns kept hb ha
  have hwrites := setK_writes e d.val (barSeen o)
  have hkept : ∀ h : Regs, (∀ j, j ≠ 30 → j ≠ 31 → h.getK j = (e.g.regs.setK d.val (barSeen o)).getK j) → kept h := by
    intro h hh j h30 h31
    rw [hh j h30 h31, setK_getK, barSeen_eq]
    simp only [KReg.val_ne_zero]
  refine ⟨⟨_, barInit_fields k, binit_completes he hq hb ha⟩, fun hok hn => ?_, fun hok hn => ?_, fun h hm hv => ?_,
    fun h hm hv => ?_, fun hok hk => ?_, fun h hm hv => ?_,
    fun o' h => barPut_of_no_waiter h o', fun o' k hk q f p c hp hs hd hmode => barPut_wakes hk hp hs hd hmode o',
    fun v => bwait_of_due he hq hu, fun hdet hp hd => ⟨fun herr => ?_, fun hok hne => ?_, fun hok heq hk => ?_, fun hok heq hk => ?_⟩⟩
  · obtain ⟨o', harr, hfields⟩ := barArrive_counts hok hn
    exact ⟨o', hfields, barOp_completes he true o' hu hb ha (i := .barr g d a) (uniform_on he hq) rfl rfl harr (barSeen_eq o ▸ hwrites)⟩
  · obtain ⟨o', harr, hfields⟩ := barArrive_counts hok hn
    exact ⟨o', hfields, barOp_completes he true o' hu hb ha (i := .barrn g d a b) (uniform_on he hq) rfl rfl harr (barSeen_eq o ▸ hwrites)⟩
  · obtain ⟨t, h, u, hx, hg, hmask, hcause, haddr, hret, hk, ht, herr⟩ :=
      barOp_overruns he true _ hu hb ha (i := .barr g d a) (uniform_on he hq) rfl rfl (barArrive_overruns h) (Bar.err_barBreak _) hm hv
    exact ⟨t, h, u, hx, hg, hmask, hcause, haddr, hret, hkept h.regs hk, ht, herr⟩
  · obtain ⟨t, h, u, hx, hg, hmask, hcause, haddr, hret, hk, ht, herr⟩ :=
      barOp_overruns he true _ hu hb ha (i := .barrn g d a b) (uniform_on he hq) rfl rfl (barArrive_overruns h) (Bar.err_barBreak _) hm hv
    exact ⟨t, h, u, hx, hg, hmask, hcause, haddr, hret, hkept h.regs hk, ht, herr⟩
  · obtain ⟨o', hexp, hfields⟩ := barExpect_adds hok hk
    exact ⟨o', hfields, barOp_completes he false o' hu hb ha (i := .bxpct g a b) (r := e.g.regs) (uniform_on he hq) rfl rfl hexp (retire_none e)⟩
  · obtain ⟨o', hexp, hbad⟩ := barExpect_overruns h
    obtain ⟨t, h, u, hx, hg, hmask, hcause, haddr, hret, -, ht, herr⟩ :=
      barOp_overruns he false _ hu hb ha (i := .bxpct g a b) (r := e.g.regs) (uniform_on he hq) rfl rfl hexp hbad hm hv
    exact ⟨t, h, u, hx, hg, hmask, hcause, haddr, hret, trivial, ht, herr⟩
  · exact bwait_of_check he hq hu hb ha hdet hd (barCheck_of_err herr _)
  · exact bwait_of_check he hq hu hb ha hdet hd ((barCheck_of_ok hok _).trans (if_pos hne))
  · exact bwait_unbounded he hq hu hb ha hdet hd hp ((barCheck_of_ok hok _).trans (if_neg (not_not.2 heq))) hk
  · exact bwait_waits he hq hu hb ha hdet hd hp ((barCheck_of_ok hok _).trans (if_neg (not_not.2 heq))) hk

end Sys2Proof
end

section
/-! Copies: what their issue changes, and their outcomes (R109 to R114, R133 to R135). -/

namespace Sys2Proof.Machine

/-! ## Presence bits and handles at issue -/

/-- A team apart from its scratchpad, its rotation pointer and its presence bits. -/
def Team.unmarked (u : Team) : Team := { u.unsignalled with absent := [] }

/-- A team of a later state is the one of an earlier state but for its scratchpad, its rotation pointer and lines that have become absent. -/
structure Team.MarkedFrom (v u : Team) : Prop where
  same : u.unmarked = v.unmarked
  absent : ∀ l, v.absent.contains l = true → u.absent.contains l = true

theorem Team.MarkedFrom.copyCount {v u : Team} (h : v.MarkedFrom u) : u.copyCount = v.copyCount := by
  have hc := congrArg Team.copyCount h.same
  exact hc

theorem Team.MarkedFrom.copies {v u : Team} (h : v.MarkedFrom u) : u.copies = v.copies := by
  have hc := congrArg Team.copies h.same
  exact hc

/-- What the issue of a copy marks: presence bits and handles, with the groups that wait at a handle (R113, R122). -/
structure CopyMarks (s t : State) : Prop where
  groups : ∀ n, (t.group? n).isSome = (s.group? n).isSome
  found : ∀ n, (t.team? n).isSome = (s.team? n).isSome
  teams : ∀ n u, t.team? n = some u → ∃ v, s.team? n = some v ∧ v.MarkedFrom u
  rest : t = { s with groups := t.groups, teams := t.teams, ctxs := t.ctxs }

theorem CopyMarks.refl (s : State) : CopyMarks s s := ⟨fun _ => rfl, fun _ => rfl, fun _ u hu => ⟨u, hu, rfl, fun _ h => h⟩, rfl⟩

theorem CopyMarks.trans {s t u : State} (h : CopyMarks s t) (k : CopyMarks t u) : CopyMarks s u where
  groups := fun n => (k.groups n).trans (h.groups n)
  found := fun n => (k.found n).trans (h.found n)
  teams := fun n w hw => by
    obtain ⟨x, hx, hxw⟩ := k.teams n w hw
    obtain ⟨v, hv, hvx⟩ := h.teams n x hx
    exact ⟨v, hv, hxw.same.trans hvx.same, fun l hl => hxw.absent l (hvx.absent l hl)⟩
  rest := by rw [k.rest, h.rest]

theorem SignalsOnly.copyMarks {s t : State} (h : SignalsOnly s t) : CopyMarks s t where
  groups := h.groups
  found := fun n => by simpa using congrArg Option.isSome (h.teams n)
  teams := fun n u hu => by
    obtain ⟨v, hv, huv⟩ := h.team hu
    exact ⟨v, hv, congrArg (fun w : Team => { w with absent := [] }) huv, fun l hl => congrArg Team.absent huv ▸ hl⟩
  rest := h.rest

theorem CopyMarks.foldl {β : Type} (f : State → β → State) (hf : ∀ a b, CopyMarks a (f a b)) (l : List β) :
    ∀ s : State, CopyMarks s (l.foldl f s) := by
  induction l with
  | nil => exact CopyMarks.refl
  | cons b t ih => exact fun s => (hf s b).trans (ih _)

theorem clearPresence_marks (s : State) (off n tid : Nat) : CopyMarks s (s.clearPresence off n tid) := by
  unfold State.clearPresence
  split
  · exact .refl s
  · refine ⟨fun _ => rfl, fun m => ?_, fun m u hu => ?_, rfl⟩
    · rw [modTeam_team? s tid (by exact fun _ => rfl)]
      split <;> simp
    · rw [modTeam_team? s tid (by exact fun _ => rfl)] at hu
      split at hu
      · obtain ⟨v, hv, rfl⟩ := Option.map_eq_some_iff.1 hu
        refine ⟨v, hv, rfl, fun l hl => ?_⟩
        simp only [List.contains_eq_mem, decide_eq_true_eq, List.mem_append] at hl ⊢
        exact .inl hl
      · exact ⟨u, hu, rfl, fun _ h => h⟩

theorem nameHandle_marks (s : State) (tid h seq slot off n st : Nat) : CopyMarks s (s.nameHandle tid h seq slot off n st) := by
  unfold State.nameHandle
  split
  · exact .refl s
  · exact (bufOp_signalsOnly _ _ _ _).copyMarks

/-- The lines of a run are absent from a team. -/
def State.Absent (s : State) (tid off n : Nat) : Prop :=
  ∀ u, s.team? tid = some u → ∀ l, off / 128 ≤ l → l ≤ (off + n - 1) / 128 → u.absent.contains l = true

theorem CopyMarks.keeps_absent {s t : State} (h : CopyMarks s t) {tid off n : Nat} (ha : s.Absent tid off n) : t.Absent tid off n :=
  fun u hu l hlo hhi => by
    obtain ⟨v, hv, hvu⟩ := h.teams tid u hu
    exact hvu.absent l (ha v hv l hlo hhi)

theorem clearPresence_absent {s : State} {off n tid : Nat} (hn : n ≠ 0) : (s.clearPresence off n tid).Absent tid off n := by
  intro u hu l hlo hhi
  unfold State.clearPresence at hu
  rw [if_neg hn, modTeam_team? s tid (by exact fun _ => rfl), if_pos rfl] at hu
  obtain ⟨v, -, rfl⟩ := Option.map_eq_some_iff.1 hu
  have hline : l ∈ linesOf off n := List.mem_map.2 ⟨l - off / 128, List.mem_range.2 (by omega), by omega⟩
  by_cases hv : l ∈ v.absent <;> simp [hv, hline]

/-- Each receiver's lines are absent once all are marked. -/
theorem foldl_clearPresence_absent {off n r : Nat} (hn : n ≠ 0) (ts : List Nat) : ∀ s : State, r ∈ ts →
    (ts.foldl (fun a t => a.clearPresence off n t) s).Absent r off n := by
  induction ts with
  | nil => intro s hr; cases hr
  | cons t ts ih =>
    intro s hr
    by_cases hrest : r ∈ ts
    · exact ih _ hrest
    · obtain rfl : r = t := (List.mem_cons.1 hr).resolve_right hrest
      exact (CopyMarks.foldl _ (fun a t => clearPresence_marks a off n t) ts _).keeps_absent (clearPresence_absent hn)

section
variable (p : Plan) (s : State) (e : Env) (c : Word) (seq slot : Nat)

/-- The presence bits that the issue of a copy clears. -/
def Plan.markPresence : State :=
  match p.dst with
  | .teams ts off => ts.foldl (fun a t => a.clearPresence off p.size t) s
  | _ => s

theorem markPresence_marks : CopyMarks s (p.markPresence s) := by
  unfold Plan.markPresence
  split
  · exact CopyMarks.foldl _ (fun a t => clearPresence_marks a _ _ t) _ _
  · exact .refl s

theorem markPresence_mark : CopyMarks (p.markPresence s) (p.mark s e c seq slot) := by
  have hset : p.mark s e c seq slot =
      if p.role e c = 1 then
        match p.dst with
        | .teams ts off => ts.foldl (fun a t => a.nameHandle t (ctlTarget c) seq slot off p.size 1) (p.markPresence s)
        | _ => p.markPresence s
      else if p.role e c = 2 then
        (p.markPresence s).nameHandle e.t.tid (ctlTarget c) seq slot (p.own.getD (0, 0)).1 (p.own.getD (0, 0)).2 3
      else p.markPresence s := rfl
  rw [hset]
  split
  · split
    · exact CopyMarks.foldl _ (fun a t => nameHandle_marks a t _ _ _ _ _ _) _ _
    · exact .refl _
  · split
    · exact nameHandle_marks _ _ _ _ _ _ _ _
    · exact .refl _

theorem mark_marks : CopyMarks s (p.mark s e c seq slot) := (markPresence_marks p s).trans (markPresence_mark p s e c seq slot)

theorem mark_absent {ts : List Nat} {off r : Nat} (hd : p.dst = .teams ts off) (hn : p.size ≠ 0) (hr : r ∈ ts) :
    (p.mark s e c seq slot).Absent r off p.size := by
  refine (markPresence_mark p s e c seq slot).keeps_absent ?_
  have hset : p.markPresence s = ts.foldl (fun a t => a.clearPresence off p.size t) s := by
    unfold Plan.markPresence
    rw [hd]
  rw [hset]
  exact foldl_clearPresence_absent hn ts s hr

end

/-! ## Issue -/

theorem size_ne_zero_of_items {d : JobDst} {n : Nat} (h : itemCount d n ≠ 0) : n ≠ 0 := by
  rintro rfl
  exact h (by simp [itemCount, lineCount])

/-- The job that was last added is found by its number. -/
theorem job?_append {s : State} {j : Job} (h : ∀ k ∈ s.jobs, k.id ≠ j.id) {t : State} (ht : t.jobs = s.jobs ++ [j]) :
    t.job? j.id = some j := by
  unfold State.job?
  rw [ht, List.find?_append, List.find?_eq_none.2 fun k hk => by simpa using h k hk]
  simp

/-- A job of which nothing has been read yet is not settled. -/
theorem settleJob_of_unread {s : State} {id : Nat} {j : Job} (hj : s.job? id = some j) (hi : j.items ≠ []) (hs : j.snap = []) :
    s.settleJob id = s := by
  have hread : j.allRead = false := by
    obtain ⟨i, hi⟩ := List.exists_mem_of_ne_nil _ hi
    exact List.all_eq_false.2 ⟨i, hi, by simp [hs, getT]⟩
  unfold State.settleJob
  simp only [hj, hread, Bool.false_and, Bool.false_eq_true, if_false, if_neg hi]

/-- The ticket of a team's next copy in a slot (R112). -/
def Env.ticketAt (e : Env) (slot : Nat) : Word := BitVec.ofNat 32 (e.t.copyCount % 65536 * 256 + slot)

/-- The slot of the copy that a plan is issued as (R112, R134). -/
def Plan.slotOf (p : Plan) (e : Env) (c : Word) : CopySlot :=
  ⟨BitVec.ofNat 16 (e.t.copyCount % 65536), true, false, 0,
    match p.ranks with
    | some _ => some ⟨p.src, p.dst.base, p.size, c⟩
    | none => none⟩

/-- What the issue of a copy leads to before its group passes (R109 to R113). -/
structure Issued (s t : State) (e : Env) (p : Plan) (c : Word) (slot : Nat) (refused : BitVec 12) : Prop where
  found : ∃ k, t.group? e.g.gid = some k
  mem : t.mem = (s.landOf e.g.gid).mem
  jobs : t.jobs = s.jobs ++ [p.job s e c (e.ticketAt slot) false refused]
  team : ∃ u, t.team? e.t.tid = some u ∧ u.copyCount = e.t.copyCount + 1 ∧ u.copies = setT e.t.copies slot (p.slotOf e c)
  absent : ∀ ts off r, p.dst = .teams ts off → r ∈ ts → t.Absent r off p.size

/-- The state of a copy's issue before its job is looked at again. -/
def Plan.issued (p : Plan) (s : State) (e : Env) (c : Word) (slot : Nat) (refused : BitVec 12) : State :=
  let s2 := p.mark (s.landOf e.g.gid) e c (e.t.copyCount % 65536) slot
  let s3 := s2.modTeam e.t.tid (fun t => { t with
    copyCount := t.copyCount + 1
    copies := setT t.copies slot (p.slotOf e c) })
  { s3 with jobs := s3.jobs ++ [p.job s e c (e.ticketAt slot) (p.held e) refused], nextJob := s3.nextJob + 1 }

theorem issued_mem (p : Plan) (s : State) (e : Env) (c : Word) (slot : Nat) (refused : BitVec 12) :
    (p.issued s e c slot refused).mem = (p.mark (s.landOf e.g.gid) e c (e.t.copyCount % 65536) slot).mem := by
  simp only [Plan.issued, State.modTeam]

theorem issued_jobs (p : Plan) (s : State) (e : Env) (c : Word) (slot : Nat) (refused : BitVec 12) : (p.issued s e c slot refused).jobs =
    (p.mark (s.landOf e.g.gid) e c (e.t.copyCount % 65536) slot).jobs ++ [p.job s e c (e.ticketAt slot) (p.held e) refused] := by
  simp only [Plan.issued, State.modTeam]

section
variable {s : State} {e : Env} {p : Plan} {slot : Nat} (c : Word) (refused : BitVec 12)

theorem issueCopy_eq (hslot : freeSlot e = some slot) (hroom : trackerRoom s e.t.column = true) (hheld : p.held e = false)
    (hsize : p.size ≠ 0) (d : KReg) : issueCopy s e d c p refused =
      .ok (((p.issued s e c slot refused).settleJob s.nextJob).retire e (e.g.withRegs (e.g.regs.setK d.val (e.ticketAt slot)))) := by
  unfold issueCopy Plan.landNone
  simp only [hslot, hroom, hheld, Bool.not_true, Bool.false_eq_true, if_false, if_neg (fun h : p.size = 0 ∧ ctlSig c = 2 => hsize h.1)]
  simp only [Plan.issued, hheld]
  rfl

variable (he : s.env? = some e)
include he

theorem issued_issued (hheld : p.held e = false) (hsize : p.size ≠ 0) : Issued s (p.issued s e c slot refused) e p c slot refused := by
  have hland : StoresOnly s (s.landOf e.g.gid) := landLate_storesOnly s _
  have hmark := mark_marks p (s.landOf e.g.gid) e c (e.t.copyCount % 65536) slot
  have hgroup : (s.landOf e.g.gid).group? e.g.gid = some e.g := (group?_of hland.groups _).trans (group?_gid_of_env he)
  have hteam : (s.landOf e.g.gid).team? e.t.tid = some e.t :=
    (team?_of (by rw [hland.rest]) _).trans (team?_tid_of_env he)
  set s2 := p.mark (s.landOf e.g.gid) e c (e.t.copyCount % 65536) slot with hs2
  have hteams : ∀ n, (p.issued s e c slot refused).team? n = if n = e.t.tid then (s2.team? n).map (fun t => { t with
      copyCount := t.copyCount + 1, copies := setT t.copies slot (p.slotOf e c) }) else s2.team? n :=
    modTeam_team? s2 e.t.tid (by exact fun _ => rfl)
  refine ⟨?_, ?_, ?_, ?_, fun ts off r hd hr u hu l hlo hhi => ?_⟩
  · exact Option.isSome_iff_exists.1 ((hmark.groups e.g.gid).trans (by rw [hgroup]; rfl))
  · rw [issued_mem, ← hs2, hmark.rest]
  · rw [issued_jobs, ← hs2, hmark.rest, hland.rest, hheld]
  · obtain ⟨u, hu⟩ := Option.isSome_iff_exists.1 ((hmark.found e.t.tid).trans (by rw [hteam]; rfl))
    obtain ⟨v, hv, hvu⟩ := hmark.teams _ u hu
    cases hv.symm.trans hteam
    refine ⟨_, (hteams e.t.tid).trans ((if_pos rfl).trans (congrArg _ hu)), ?_, ?_⟩
    · exact congrArg (· + 1) hvu.copyCount
    · exact congrArg (fun x => setT x slot (p.slotOf e c)) hvu.copies
  · have ha := mark_absent p (s.landOf e.g.gid) e c (e.t.copyCount % 65536) slot hd hsize hr
    rw [hteams] at hu
    split at hu
    · obtain ⟨v, hv, rfl⟩ := Option.map_eq_some_iff.1 hu
      exact ha v hv l hlo hhi
    · exact ha u hu l hlo hhi

/-- A copy is issued, and its group runs on with the ticket (R109 to R113). -/
theorem issueCopy_issues (hslot : freeSlot e = some slot) (hroom : trackerRoom s e.t.column = true) (hheld : p.held e = false)
    (hids : ∀ j ∈ s.jobs, j.id ≠ s.nextJob) (hitems : itemCount p.dst p.size ≠ 0) (d : KReg) :
    ∃ t, issueCopy s e d c p refused = .ok (t.retire e (e.g.withRegs (e.g.regs.setK d.val (e.ticketAt slot)))) ∧
      Issued s t e p c slot refused := by
  have hsize := size_ne_zero_of_items hitems
  have h := issued_issued (slot := slot) c refused he hheld hsize
  have hjob : (p.issued s e c slot refused).job? s.nextJob = some (p.job s e c (e.ticketAt slot) false refused) :=
    job?_append (j := p.job s e c (e.ticketAt slot) false refused) hids h.jobs
  have hrange : List.range (itemCount p.dst p.size) ≠ [] := by simpa using hitems
  refine ⟨_, ?_, h⟩
  rw [issueCopy_eq c refused hslot hroom hheld hsize, settleJob_of_unread hjob hrange rfl]

end

/-- Retiring the group leaves what the issue led to. -/
theorem Issued.retire {s t : State} {e : Env} {p : Plan} {c : Word} {slot : Nat} {refused : BitVec 12} (h : Issued s t e p c slot refused)
    (g : Group) (hg : g.gid = e.g.gid) : Issued s (t.retireAt e g) e p c slot refused := by
  have hframe := retireAt_frame (s := t) hg
  obtain ⟨k, hk⟩ := h.found
  have hteam : ∀ n u, (t.retireAt e g).team? n = some u → ∃ v, t.team? n = some v ∧ u.unsignalled = v.unsignalled := fun n u hu => by
    have ht := (hframe.teams n).symm
    rw [hu, Option.map_some, Option.map_eq_some_iff] at ht
    obtain ⟨v, hv, hvu⟩ := ht
    exact ⟨v, hv, congrArg (fun w : Team => { w with scratch := [] }) hvu.symm⟩
  refine ⟨⟨g, ?_⟩, by simp [h.mem], by simp [h.jobs], ?_, fun ts off r hd hr u hu l hlo hhi => ?_⟩
  · rw [group?_of (retireAt_groups _ _ _), setGroup_group?, hk, hg]
    exact if_pos rfl
  · obtain ⟨v, hv, hcount, hcopies⟩ := h.team
    have hsome := congrArg Option.isSome (hframe.teams e.t.tid)
    rw [Option.isSome_map, hv] at hsome
    obtain ⟨u, hu⟩ := Option.isSome_iff_exists.1 hsome
    obtain ⟨v', hv', hvu⟩ := hteam _ u hu
    cases hv.symm.trans hv'
    have hc := congrArg Team.copyCount hvu
    have hs := congrArg Team.copies hvu
    exact ⟨u, hu, Eq.trans hc hcount, Eq.trans hs hcopies⟩
  · obtain ⟨v, hv, hvu⟩ := hteam _ u hu
    have ha := congrArg Team.absent hvu
    exact (congrArg (fun x => List.contains x l) ha).trans (h.absent ts off r hd hr v hv l hlo hhi)

theorem fillFails_ok (s : State) (e : Env) (t : State) : fillFails s e (.ok t) = .ok t := by
  unfold fillFails
  split
  next h => cases h
  next => rfl

/-- The group runs on with the ticket, and the state beside it is that of the issue. -/
theorem issued_of_exec {i : Instr} {s t : State} {e : Env} {p : Plan} {c : Word} {slot : Nat} {refused : BitVec 12} {d : KReg}
    (hi : exec i s = .next (t.retire e (e.g.withRegs (e.g.regs.setK d.val (e.ticketAt slot))))) (h : Issued s t e p c slot refused) :
    ∃ t' h', exec i s = .next t' ∧ t'.group? e.g.gid = some h' ∧ WritesK e h'.regs d.val (e.ticketAt slot) ∧
      h'.retired = e.g.retiredNext ∧ Issued s t' e p c slot refused := by
  obtain ⟨k, hk⟩ := h.found
  have hpass := retire_passed_of_found hk (e.g.regs.setK d.val (e.ticketAt slot)) e.g.latch
  exact ⟨_, _, hi, hpass.found, setK_writes e _ _, rfl, h.retire _ rfl⟩

/-- Every copy instruction whose plan passes is issued. -/
theorem issuesCopy_of_exec {i : Instr} {g : Pred} {d : KReg} {plan : State → Env → Except Stop Plan}
    (hi : ∀ s, exec i s = s.copy g d (plan s)) : IssuesCopy i g d plan := by
  intro s e p0 p refused slot he hq c seq hctl hplan hcheck htake hheld hslot hroom hids hitems
  obtain ⟨t, ht, hissued⟩ := issueCopy_issues c refused he hslot hroom hheld hids hitems d
  have hcopy : s.copy g d (plan s) = .next (t.retire e (e.g.withRegs (e.g.regs.setK d.val (e.ticketAt slot)))) := by
    refine (uniform_on he hq).trans (run_ok he ?_)
    dsimp only
    rw [hctl, hplan, ok_bind, hcheck, ok_bind, htake, ok_bind]
    exact (congrArg (fillFails s e) ht).trans (fillFails_ok s e _)
  obtain ⟨t', h', hx, hg, hk, hret, hiss⟩ := issued_of_exec ((hi s).trans hcopy) hissued
  obtain ⟨u, hu, hcount, hcopies⟩ := hiss.team
  refine ⟨t', h', u, _, hx, hg, hk, hret, fun a => by rw [hiss.mem], hiss.jobs, rfl, rfl, rfl, rfl, rfl, rfl, rfl, rfl, rfl, rfl, rfl, hu, hcount,
    ⟨p.slotOf e c, ?_, rfl, rfl⟩, fun ts off r w hd hr hw l hlo hhi => hiss.absent ts off r hd hr w hw l hlo hhi⟩
  rw [hcopies, getT_setT, if_pos rfl]

/-! ## The outcome of a copy -/

/-- The slot that a ticket names: as the event left it that the group waited for, or as it is where it still holds the ticket's SEQ (R112, R135). -/
def Names (e : Env) (ticket : Word) (k : CopySlot) : Prop :=
  e.g.due = some (.copy k) ∨
    ((∀ k', e.g.due ≠ some (.copy k')) ∧ getT e.t.copies (ticket.toNat % 256) = some k ∧ k.seq.toNat = ticket.toNat / 256 % 65536)

theorem ticketSlot_eq_some {e : Env} {ticket : Word} {k : CopySlot} (h : Names e ticket k) : ticketSlot e ticket = some k := by
  unfold ticketSlot
  split
  next k' hdue =>
    obtain h | h := h
    · cases hdue.symm.trans h
      rfl
    · exact absurd hdue (h.1 k')
  next k' hget hnot =>
    obtain h | ⟨-, hk, hseq⟩ := h
    · exact absurd h (hnot k)
    · cases hget.symm.trans hk
      exact if_pos hseq
  next hget hnot =>
    obtain h | ⟨-, hk, -⟩ := h
    · exact absurd h (hnot k)
    · cases hget.symm.trans hk

theorem ticketSlot_eq_none {e : Env} {ticket : Word} (h : ∀ k, ¬Names e ticket k) : ticketSlot e ticket = none := by
  unfold ticketSlot
  split
  next k hdue => exact absurd (.inl hdue) (h k)
  next k hget hnot => exact if_neg fun hseq => h k (.inr ⟨hnot, hget, hseq⟩)
  next => rfl

/-- CPWAIT looks at the 24 bits that a ticket has. -/
theorem names_masked {e : Env} {ticket : Word} {k : CopySlot} : Names e (ticket &&& 0x00FFFFFF) k ↔ Names e ticket k := by
  have hmask : (ticket &&& 0x00FFFFFF).toNat = ticket.toNat % 2 ^ 24 := by
    rw [BitVec.toNat_and]
    exact Nat.and_two_pow_sub_one_eq_mod _ 24
  unfold Names
  rw [hmask, show ticket.toNat % 2 ^ 24 % 256 = ticket.toNat % 256 by omega,
    show ticket.toNat % 2 ^ 24 / 256 % 65536 = ticket.toNat / 256 % 65536 by omega]

/-- The copy of a ticket is outstanding. -/
def Outstanding (s : State) (e : Env) (ticket : Word) : Prop :=
  ∃ j ∈ s.jobs, j.tid = e.t.tid ∧ j.ticket = ticket ∧ ∀ id off base, j.dst ≠ .obuf id off base

theorem ticketJob_eq_none {s : State} {e : Env} {ticket : Word} (h : ¬Outstanding s e ticket) : ticketJob s e ticket = none := by
  refine List.find?_eq_none.2 fun j hj hmet => h ⟨j, hj, ?_⟩
  cases hd : j.dst <;> simp_all

/-- A copy with a scratchpad as its destination is not held. -/
theorem held_of_teams {p : Plan} {ts : List Nat} {off : Nat} (h : p.dst = .teams ts off) (e : Env) : p.held e = false := by
  unfold Plan.held
  rw [h]
  simp

/-- The plan of a multicast, and what its receivers leave of it, have scratchpads as destination. -/
theorem multiPlan_takes {s : State} {e : Env} {off n : Nat} {ranks : List Nat} {src : JobSrc} {p p1 : Plan} {c : Word}
    {refused : BitVec 12} (hp : multiPlan s e off n ranks src = .ok p) (ht : p.takeIn s e c = .ok (p1, refused)) :
    ∃ ts off, p1.dst = .teams ts off := by
  unfold multiPlan at hp
  cases hr : rankTeams s e ranks with
  | error x => rw [hr] at hp; cases hp
  | ok ts =>
    rw [hr, ok_bind] at hp
    split at hp
    · cases hp
    · cases hp
      cases ht
      exact ⟨_, _, rfl⟩

section
variable {s : State} {e : Env} {g : Pred} {d a : KReg} {ev : CopyEvent} (he : s.env? = some e) (hq : e.g.regs.getQ g.val = true)
include he hq

theorem cpwait_samples_none (h : ∀ k, ¬Names e (e.g.regs.getK a.val) k) : Samples (.cpwait g d a ev) s s e d 0x2000 := fun hu => by
  refine completes_of_retire (r := e.g.regs.setK d.val 0x2000) (x := e.g.latch) ((uniform_on he hq).trans (run_ok he ?_))
    (group?_gid_of_env he) (setK_writes e _ _)
  simp only [ticketSlot_eq_none fun k hk => h k (names_masked.1 hk), sampleOpen_unlogged hu, ok_bind, Option.map_none,
    Option.getD_none, sampleClose_unlogged hu]
  rfl

variable {k : CopySlot} (hk : Names e (e.g.regs.getK a.val) k)
include hk

/-- CPWAIT returns what its slot says once its event has come (R135). -/
theorem cpwait_samples {v : Word}
    (hgo : (e.g.due.isNone && !copyReached k (ticketJob s e (e.g.regs.getK a.val &&& 0x00FFFFFF)) ev) = false)
    (hv : v = BitVec.ofNat 32 (if k.busy then 0 else k.failed.toNat * 2 ^ 12 + k.refused.toNat)) :
    Samples (.cpwait g d a ev) s s e d v := fun hu => by
  refine completes_of_retire (r := e.g.regs.setK d.val v) (x := e.g.latch) ((uniform_on he hq).trans (run_ok he ?_))
    (group?_gid_of_env he) (setK_writes e _ _)
  simp only [ticketSlot_eq_some (names_masked.2 hk), hgo, Bool.false_eq_true, if_false, sampleOpen_unlogged hu, ok_bind, Option.map_none,
    Option.getD_none, sampleClose_unlogged hu, hv]
  rfl

theorem cpwait_waits (hgo : (e.g.due.isNone && !copyReached k (ticketJob s e (e.g.regs.getK a.val &&& 0x00FFFFFF)) ev) = true) :
    Waits (.cpwait g d a ev) s e (.cpwait (e.g.regs.getK a.val &&& 0x00FFFFFF) ev) := by
  refine waits_of_park (uniform_on he hq) he ?_ rfl
  simp only [ticketSlot_eq_some (names_masked.2 hk), hgo, if_true]

end

section
variable {s : State} {e : Env} {g : Pred} {d a : KReg} (he : s.env? = some e) (hq : e.g.regs.getQ g.val = true)
include he hq

theorem cpmcr_traps_control (hw : (e.g.regs.getK d.val).toNat % 2 ^ 23 ≠ 0 ∨ (e.g.regs.getK d.val).toNat / 2 ^ 26 % 4 ≠ 0 ∨
    5 ≤ (e.g.regs.getK d.val).toNat / 2 ^ 23 % 8) : Traps (.cpmcr g d a) s e 15 (e.g.regs.getK d.val).toNat 0 e.c.mask :=
  traps_of_run (lanes := none) (uniform_on he hq) he (if_pos hw) rfl

variable (hlow : (e.g.regs.getK d.val).toNat % 2 ^ 23 = 0) (hsig : (e.g.regs.getK d.val).toNat / 2 ^ 26 % 4 = 0)
  (hscope : (e.g.regs.getK d.val).toNat / 2 ^ 23 % 8 < 5)
include hlow hsig hscope

theorem cpmcr_traps_det (hdet : e.isDet = true) : Traps (.cpmcr g d a) s e 19 0 0 e.c.mask :=
  traps_of_run (lanes := none) (uniform_on he hq) he ((if_neg (by omega)).trans (if_pos hdet)) rfl

theorem cpmcr_issues {k : CopySlot} {q : Multi} {p p1 : Plan} {refused : BitVec 12} {slot : Nat} (hdet : e.isDet = false)
    (hk : Names e (e.g.regs.getK a.val) k) (hbusy : k.busy = false) (hmulti : k.multi = some q)
    (hplan : multiPlan s e q.off q.size ((List.range 12).filter (fun i => k.refused.getLsbD i)) q.src = .ok p)
    (hcheck : p.check s e (e.g.regs.getK d.val ||| (q.ctl &&& 0x0C03FFFF)) = .ok ())
    (htake : p.takeIn s e (e.g.regs.getK d.val ||| (q.ctl &&& 0x0C03FFFF)) = .ok (p1, refused)) (hslot : freeSlot e = some slot)
    (hroom : trackerRoom s e.t.column = true) (hids : ∀ j ∈ s.jobs, j.id ≠ s.nextJob) (hitems : itemCount p1.dst p1.size ≠ 0) :
    ∃ t h, exec (.cpmcr g d a) s = .next t ∧ t.group? e.g.gid = some h ∧ WritesK e h.regs d.val (e.ticketAt slot) ∧
      h.retired = e.g.retiredNext ∧ Issued s t e p1 (e.g.regs.getK d.val ||| (q.ctl &&& 0x0C03FFFF)) slot refused := by
  obtain ⟨ts, off, hdst⟩ := multiPlan_takes hplan htake
  obtain ⟨t, ht, hissued⟩ := issueCopy_issues _ refused he hslot hroom (held_of_teams hdst e) hids hitems d
  refine issued_of_exec ((uniform_on he hq).trans (run_ok he ?_)) hissued
  dsimp only
  rw [if_neg (by omega), hdet, ticketSlot_eq_some hk]
  simp only [Bool.false_eq_true, if_false, hmulti, hbusy, hplan, ok_bind, hcheck, htake]
  exact ht

end

end Sys2Proof.Machine

namespace Sys2Proof
open Machine

/-- Settles O36: a copy whose checks pass changes presence bits, handles and its slot, and adds its job; what a ticket names decides what CPWAIT
returns and CPMCR issues anew. -/
theorem copies : Obligations.Copies := by
  refine ⟨fun g d a b => ⟨issuesCopy_of_exec fun s => rfl, issuesCopy_of_exec fun s => rfl, issuesCopy_of_exec fun s => rfl,
    issuesCopy_of_exec fun s => rfl, issuesCopy_of_exec fun s => rfl, issuesCopy_of_exec fun s => rfl⟩, ?_⟩
  intro g d a ev s e he hq ticket slot seq w ended names out
  refine ⟨cpwait_samples_none he hq, fun k hk => ⟨fun hbusy => ?_, fun hbusy hdue => ?_, fun hbusy hdue hev => ?_,
    fun hbusy hdue hev hout => ?_⟩,
    cpmcr_traps_control he hq, cpmcr_traps_det he hq, ?_⟩
  · refine cpwait_samples he hq hk ?_ ?_
    · cases ev <;> simp [copyReached, hbusy]
    · cases k.failed <;> simp [hbusy, Nat.add_comm]
  · refine cpwait_samples he hq hk ?_ (by simp [hbusy])
    simp [hdue]
  · refine cpwait_waits he hq hk ?_
    cases ev with
    | rel => exact absurd rfl hev
    | vis => simp [hdue, copyReached, hbusy]
    | all => simp [hdue, copyReached, hbusy]
  · refine cpwait_samples he hq hk ?_ (by simp [hbusy])
    rw [hev, ticketJob_eq_none hout]
    simp [copyReached]
  · intro k q p p1 refused free hlow hsig hscope hdet hk hbusy hmulti hplan hcheck htake hslot hroom hids hitems
    obtain ⟨t, h, hx, hg, hwrites, -, hissued⟩ :=
      cpmcr_issues he hq hlow hsig hscope hdet hk hbusy hmulti hplan hcheck htake hslot hroom hids hitems
    exact ⟨t, h, _, hx, hg, hwrites, hissued.jobs, rfl, rfl⟩

end Sys2Proof
end

section
/-! What the engines change of grids, of teams and of the items that jobs still have (R107, R113 to R115). -/

namespace Sys2Proof.Machine

/-! ## Grids and items -/

/-- No grid has changed, and no job has another number or other items than before; jobs may be gone. -/
structure JobsKept (s t : State) : Prop where
  grids : t.grids = s.grids
  jobs : ∀ k ∈ t.jobs, ∃ k' ∈ s.jobs, k'.id = k.id ∧ k'.items = k.items

/-- An item of a job is done. -/
def State.ItemGone (s : State) (id item : Nat) : Prop := ∀ k ∈ s.jobs, k.id = id → item ∉ k.items

theorem JobsKept.of_same {s t : State} (hg : t.grids = s.grids) (hj : t.jobs = s.jobs) : JobsKept s t :=
  ⟨hg, fun k hk => ⟨k, hj ▸ hk, rfl, rfl⟩⟩

theorem JobsKept.refl (s : State) : JobsKept s s := .of_same rfl rfl

theorem JobsKept.trans {s t u : State} (h : JobsKept s t) (k : JobsKept t u) : JobsKept s u where
  grids := k.grids.trans h.grids
  jobs := fun j hj => by
    obtain ⟨j1, h1, hid1, hit1⟩ := k.jobs j hj
    obtain ⟨j2, h2, hid2, hit2⟩ := h.jobs j1 h1
    exact ⟨j2, h2, hid2.trans hid1, hit2.trans hit1⟩

theorem JobsKept.foldl {β : Type} {f : State → β → State} (hf : ∀ a b, JobsKept a (f a b)) (l : List β) (s : State) :
    JobsKept s (l.foldl f s) :=
  foldl_invariant (P := JobsKept s) (.refl s) fun a b h => h.trans (hf a b)

theorem JobsKept.gone {s t : State} (h : JobsKept s t) {id item : Nat} (hg : s.ItemGone id item) : t.ItemGone id item :=
  fun k hk hid => by
    obtain ⟨k', hk', hid', hit⟩ := h.jobs k hk
    exact hit ▸ hg k' hk' (hid'.trans hid)

theorem StoresOnly.jobsKept {s t : State} (h : StoresOnly s t) : JobsKept s t := .of_same (by rw [h.rest]) (by rw [h.rest])

theorem UsesOnly.jobsKept {s t : State} (h : UsesOnly s t) : JobsKept s t := h.storesOnly.jobsKept

theorem SignalsOnly.jobsKept {s t : State} (h : SignalsOnly s t) : JobsKept s t := .of_same h.grids h.jobs

theorem modJob_jobsKept (s : State) (id : Nat) {f : Job → Job} (hid : ∀ k, (f k).id = k.id) (hi : ∀ k, (f k).items = k.items) :
    JobsKept s (s.modJob id f) := by
  refine ⟨rfl, fun k hk => ?_⟩
  obtain ⟨k', hk', rfl⟩ := List.mem_map.1 hk
  refine ⟨k', hk', ?_⟩
  split
  · exact ⟨(hid k').symm, (hi k').symm⟩
  · exact ⟨rfl, rfl⟩

theorem wakeCopy_signalsOnly (s : State) (j : Job) (f : CopyEvent → Bool) : SignalsOnly s (s.wakeCopy j f) := by
  unfold State.wakeCopy
  split
  · exact .refl s
  · exact .refl s
  · refine mapGroups_signalsOnly s fun g => ?_
    split
    · split <;> rfl
    · rfl

theorem handleTo_signalsOnly (s : State) (tid h : Nat) (f : Nat → Nat) (err : Bool) : SignalsOnly s (s.handleTo tid h f err) := by
  unfold State.handleTo
  split
  · exact .refl s
  · exact bufOp_signalsOnly _ _ _ _

theorem leaveFusion_usesOnly (s : State) (t : Team) : UsesOnly s (s.leaveFusion t) := by
  unfold State.leaveFusion
  split
  · exact .refl s
  · split
    · exact ⟨fun _ => rfl, fun _ h => (List.mem_filter.1 h).1, rfl⟩
    · exact .refl s

theorem reap_jobsKept (s : State) : JobsKept s s.reap := by
  have h1 : JobsKept s { s with teams := s.teams.filter (fun t => t.st != .ended || s.teamOwes t) } := .of_same rfl rfl
  exact h1.trans (JobsKept.foldl (fun a t => (leaveFusion_usesOnly a t).jobsKept) _ _)

/-! ## Completion -/

theorem release_jobsKept (s : State) (j : Job) : JobsKept s (s.release j) := by
  have h1 := (modJob_jobsKept s j.id (f := fun k => { k with released := true }) (fun _ => rfl) (fun _ => rfl)).trans
    (wakeCopy_signalsOnly _ j (· == .rel)).jobsKept
  unfold State.release
  dsimp only
  split
  · exact h1.trans (handleTo_signalsOnly _ _ _ _ _).jobsKept
  · exact h1

/-- The handles of a job that is complete (R122). -/
def State.finishHandles (s : State) (j : Job) : State :=
  if j.role = 1 then
    (match j.dst with
     | .teams tids _ => tids.foldl (fun a t => a.handleTo t (ctlTarget j.ctl) (fun st => if st = 1 then 2 else st) j.failed) s
     | _ => s)
  else if j.role = 2 then s.handleTo j.tid (ctlTarget j.ctl) id j.failed
  else s

/-- The slot of a job that is complete (R112). -/
def State.finishSlot (s : State) (j : Job) : State :=
  match j.dst with
  | .obuf _ _ _ => s
  | _ => s.modTeam j.tid (fun t => { t with
      copies := (match getT t.copies (j.ticket.toNat % 256) with
        | some c => setT t.copies (j.ticket.toNat % 256) { c with busy := false, failed := j.failed, refused := j.refused }
        | none => t.copies) })

/-- A job leaves its engine. -/
def State.dropJob (s : State) (j : Job) : State := { s.wakeCopy j (fun _ => true) with jobs := s.jobs.filter (fun k => k.id != j.id) }

theorem finish_eq (s : State) (j : Job) :
    s.finish j = ((((if j.released then s else s.release j).finishHandles j).finishSlot j).dropJob j).reap := rfl

theorem finishHandles_signalsOnly (s : State) (j : Job) : SignalsOnly s (s.finishHandles j) := by
  unfold State.finishHandles
  split
  · split
    · exact SignalsOnly.foldl _ (fun a t => handleTo_signalsOnly a _ _ _ _) _ _
    · exact .refl s
  · split
    · exact handleTo_signalsOnly _ _ _ _ _
    · exact .refl s

theorem finishSlot_jobsKept (s : State) (j : Job) : JobsKept s (s.finishSlot j) := by
  unfold State.finishSlot
  split
  · exact .refl s
  · exact .of_same rfl rfl

theorem dropJob_jobsKept (s : State) (j : Job) : JobsKept s (s.dropJob j) :=
  ⟨(wakeCopy_signalsOnly s j _).grids, fun k hk => ⟨k, (List.mem_filter.1 hk).1, rfl, rfl⟩⟩

theorem finish_jobsKept (s : State) (j : Job) : JobsKept s (s.finish j) := by
  rw [finish_eq]
  have h1 : JobsKept s (if j.released then s else s.release j) := by
    split
    · exact .refl s
    · exact release_jobsKept s j
  exact (((h1.trans (finishHandles_signalsOnly _ j).jobsKept).trans (finishSlot_jobsKept _ j)).trans (dropJob_jobsKept _ j)).trans
    (reap_jobsKept _)

theorem settleJob_jobsKept (s : State) (id : Nat) : JobsKept s (s.settleJob id) := by
  unfold State.settleJob
  split
  · exact .refl s
  next j _ =>
    have h1 : JobsKept s (if j.allRead && !j.released then s.release j else s) := by
      split
      · exact release_jobsKept s j
      · exact .refl s
    dsimp only
    split
    · exact h1.trans (finish_jobsKept _ _)
    · exact h1

/-! ## An item that is done -/

/-- A job without an item. -/
def Job.without (k : Job) (item : Nat) (failed : Bool) : Job :=
  { k with
    items := k.items.filter (· != item)
    held := k.held.filter (fun h => h.1 != item)
    snap := delT k.snap item
    tags := delT k.tags item
    landed := k.landed.filter (fun x => x.1 != item)
    got := k.got.filter (fun x => x.1 != item)
    failed := k.failed || failed }

/-- The barrier objects that an item counts at, after it has landed (R128). -/
def State.countItem (s : State) (j : Job) (item : Nat) : State :=
  (j.counters item).foldl (fun a t =>
    if (a.team? t).isSome then a.barPut t (ctlTarget j.ctl) (Bar.land (a.barGet t (ctlTarget j.ctl)) (j.range item).2) else a) s

theorem itemDone_eq (s : State) (j : Job) (item : Nat) (failed : Bool) :
    s.itemDone j item failed = ((s.modJob j.id fun k => k.without item failed).countItem j item).settleJob j.id := rfl

theorem countItem_signalsOnly (s : State) (j : Job) (item : Nat) : SignalsOnly s (s.countItem j item) :=
  SignalsOnly.foldl _ (fun a t => by
    split
    · exact barPut_signalsOnly _ _ _ _
    · exact .refl a) _ _

theorem without_gone (s : State) (id item : Nat) (failed : Bool) : (s.modJob id fun k => k.without item failed).ItemGone id item := by
  intro k hk hid
  obtain ⟨k', -, rfl⟩ := List.mem_map.1 hk
  split at hid
  next h =>
    rw [if_pos h]
    simp [Job.without]
  next h => exact absurd hid h

theorem countItem_settles (s : State) (j : Job) (item : Nat) : JobsKept s ((s.countItem j item).settleJob j.id) :=
  (countItem_signalsOnly s j item).jobsKept.trans (settleJob_jobsKept _ _)

theorem itemDone_gone (s : State) (j : Job) (item : Nat) (failed : Bool) : (s.itemDone j item failed).ItemGone j.id item := by
  rw [itemDone_eq]
  exact (countItem_settles _ j item).gone (without_gone s j.id item failed)

theorem itemDone_grids (s : State) (j : Job) (item : Nat) (failed : Bool) : (s.itemDone j item failed).grids = s.grids := by
  rw [itemDone_eq]
  exact (countItem_settles _ j item).grids

/-! ## Writing an item -/

/-- What an item that does not land leaves, where it waits. -/
inductive ItemErr.Leaves (P : State → Prop) : ItemErr → Prop
  | fail {dest : Bool} {cause va pa : Nat} : ItemErr.Leaves P (.fail dest cause va pa)
  | fault {cause va : Nat} : ItemErr.Leaves P (.fault cause va)
  | waits {s : State} (h : P s) : ItemErr.Leaves P (.waits s)

theorem itemErr_leaves {P : State → Prop} {s : State} (h : P s) (dest : Bool) (va : Nat) (x : XStop) : ItemErr.Leaves P (itemErr s dest va x) := by
  unfold itemErr
  split
  · exact .waits h
  · exact .fault
  · exact .fault
  · exact .fault
  · exact .fail
  · exact .fail

/-- What translation and its caches keep holds after the pieces of a job are found. -/
theorem jobPieces_leads {P : State → Prop} (hP : ∀ a b, StoresOnly a b → P a → P b) {j : Job} {acc : Acc} (rs : List (Nat × Nat)) :
    ∀ {s : State}, P s → Leads (ItemErr.Leaves P) (fun r => P r.1) (jobPieces s j acc rs) := by
  induction rs with
  | nil => exact fun h => .ok h
  | cons r t ih =>
    intro s h
    unfold jobPieces
    split
    · exact .error .fail
    · split
      next x hx => exact .error (itemErr_leaves h _ _ x)
      next s1 p leaf hx =>
        have hrest : Leads (ItemErr.Leaves P) (fun r => P r.1) (do let (s2, ps) ← jobPieces s1 j acc t; pure (s2, ⟨r.1, r.2, p, leaf⟩ :: ps)) :=
          (ih (hP _ _ (xlate_storesOnly hx) h)).bind fun r hr => .pure hr
        split
        · split
          · exact .error (.waits h)
          · exact hrest
        · exact hrest

section
variable {s0 : State} {j : Job}

theorem grantOne_jobsKept (s : State) (r : Nat × Remote) : JobsKept s (s.grantOne r) := by
  unfold State.grantOne
  split
  · exact .refl s
  · split
    · exact .of_same rfl rfl
    · exact .refl s

theorem send_jobsKept (gid : Nat) (job : Option (Nat × Nat)) (src : BitVec 14) (rs : List Req) : ∀ s : State,
    JobsKept s (s.send gid job src rs).1 := by
  induction rs with
  | nil => exact JobsKept.refl
  | cons r t ih =>
    intro s
    have h0 : JobsKept s { s with nextTag := s.nextTag + 1, remote := setT s.remote s.nextTag (r.remote s gid job none src) } :=
      .of_same rfl rfl
    exact (h0.trans (grantOne_jobsKept _ _)).trans (ih _)

theorem jobRemote_jobsKept {s : State} (h : JobsKept s0 s) (item : Nat) (dest : Bool) (rs : List Req) :
    Leads (ItemErr.Leaves (JobsKept s0)) (fun _ => True) (jobRemote s j item dest rs) := by
  unfold jobRemote
  split
  · exact .ok trivial
  · split
    · dsimp only
      split
      · exact .error (.waits h)
      · unfold itemAnswers
        split
        · exact .error .fail
        · exact .ok trivial
    · split
      · exact .error .fail
      · dsimp only
        exact .error (.waits ((h.trans (send_jobsKept _ _ _ _ s)).trans
          (modJob_jobsKept _ _ (by exact fun _ => rfl) (by exact fun _ => rfl))))

theorem copyStores_storesOnly (s : State) (j : Job) (ws : List (Nat × Byte)) : StoresOnly s (s.copyStores j ws) := by
  unfold State.copyStores
  dsimp only
  split
  · exact (landLate_storesOnly s _).trans ⟨rfl⟩
  · exact ((landLate_storesOnly s _).trans (clearLost_storesOnly _ _)).trans (storeAll_storesOnly _ _)

theorem present_jobsKept (s : State) (id item tid line : Nat) : JobsKept s (s.present id item tid line) := by
  unfold State.present
  dsimp only
  split
  · exact .refl s
  · exact .of_same rfl rfl

/-- Writing an item's bytes changes no grid, and no job's items. -/
theorem itemWrite_jobsKept (s : State) (j : Job) (item : Nat) (bs : List Byte) :
    Leads (ItemErr.Leaves (JobsKept s)) (fun r => JobsKept s r.1) (itemWrite s j item bs) := by
  unfold itemWrite
  split
  split
  · extract_lets +onlyGivenNames tid
    split
    · exact .error .fail
    · exact .ok ((scrStore_signalsOnly s _ _ _).jobsKept.trans (present_jobsKept _ _ _ _ _))
  · exact .ok (.of_same rfl rfl)
  · refine (jobPieces_leads (fun a b h (k : JobsKept s a) => k.trans h.jobsKept) _ (.refl s)).bind fun ⟨s1, ps⟩ h1 => ?_
    dsimp -zeta only
    split
    · exact .error .fail
    · extract_lets +onlyGivenNames all
      split
      · exact .error .fail
      · extract_lets +onlyGivenNames rs
        refine (jobRemote_jobsKept h1 item true rs).bind fun _ _ => ?_
        extract_lets +onlyGivenNames left now s2
        have h2 : JobsKept s s2 := (h1.trans (copyStores_storesOnly s1 j now).jobsKept).trans (dieMet_usesOnly _ _ _ _).jobsKept
        split
        · exact .pure h2
        · exact .pure (h2.trans (modJob_jobsKept _ _ (by exact fun _ => rfl) (by exact fun _ => rfl)))

end

/-! ## A failed item -/

section
variable (s : State) (j : Job) (item : Nat)

/-- The zeros of an item that has been given up change no grid. -/
theorem landZeros_grids : (s.landZeros j item true).grids = s.grids := by
  have hw := itemWrite_jobsKept s j item (List.replicate (j.range item).2 0)
  unfold State.landZeros
  split
  · exact itemDone_grids s j item true
  · split
    · rfl
    · split
      next s1 h => exact (itemDone_grids s1 j item true).trans (hw.of_ok h).grids
      next s1 h => exact (hw.of_ok h).grids
      next s1 h =>
        cases hw.of_error h with
        | waits h1 => exact h1.grids
      next => exact itemDone_grids s j item true
      next => exact itemDone_grids s j item true

/-- Bytes for a scratchpad or an operand buffer are written at once, or their place is gone. -/
theorem itemWrite_of_not_glob (hd : ∀ va, j.dst ≠ .glob va) (bs : List Byte) :
    (∃ s1, itemWrite s j item bs = .ok (s1, true)) ∨ itemWrite s j item bs = .error (.fail true 28 0 0) := by
  unfold itemWrite
  dsimp only
  split
  · split
    · exact .inr rfl
    · exact .inl ⟨_, rfl⟩
  · exact .inl ⟨_, rfl⟩
  next va h => exact absurd h (hd va)

/-- A cancelled job's item for a scratchpad or an operand buffer is done once it has been given up. -/
theorem landZeros_gone (hc : j.cancel = true) (hd : ∀ va, j.dst ≠ .glob va) : (s.landZeros j item true).ItemGone j.id item := by
  have hlater : j.landsLater = false := by simp [Job.landsLater, hc]
  unfold State.landZeros
  rw [hlater]
  split
  · exact itemDone_gone s j item true
  · obtain ⟨s1, h⟩ | h := itemWrite_of_not_glob s j item hd (List.replicate (j.range item).2 0)
    · simp only [h, Bool.false_eq_true, if_false]
      exact itemDone_gone s1 j item true
    · simp only [h, Bool.false_eq_true, if_false]
      exact itemDone_gone s j item true

end

end Sys2Proof.Machine
end

section
/-! Copy jobs: how they start, how an item lands, and how a cancelled one fails (R107 to R115). -/

namespace Sys2Proof.Machine

/-! ## Jobs by number -/

theorem modJob_job? (s : State) (id : Nat) {f : Job → Job} (hf : ∀ k, k.id = id → (f k).id = id) (n : Nat) :
    (s.modJob id f).job? n = if n = id then (s.job? n).map f else s.job? n := by
  have hid : (fun k : Job => k.id == n) ∘ (fun k : Job => if k.id = id then f k else k) = fun k => k.id == n :=
    funext fun k => by
      simp only [Function.comp_apply]
      split
      next h => rw [hf k h, h]
      next => rfl
  unfold State.modJob State.job?
  rw [List.find?_map, hid]
  cases hn : s.jobs.find? (fun k => k.id == n) with
  | none => simp
  | some k =>
    have hk : k.id = n := by simpa using List.find?_some hn
    subst hk
    simp only [Option.map_some]
    split <;> rfl

theorem setJob_job? {s : State} {j k : Job} (h : s.job? j.id = some k) : (s.setJob j).job? j.id = some j := by
  have hset : s.setJob j = s.modJob j.id (fun _ => j) := rfl
  rw [hset, modJob_job? s j.id (by exact fun _ _ => rfl), if_pos rfl, h]
  rfl

/-! ## The start of a job and the choice of an engine -/

section
variable {s : State} {j : Job} (hj : s.job? j.id = some j)
include hj

theorem copyJobStart_starts (hs : j.started = false) (hst : j.staged = false) (he : inEngine s j = true) (hl : loadAhead s j = false)
    (ha : stagedAhead s j = false) (hu : landsUnder s j = false) (hc : ∀ k ∈ s.jobs, k.id < j.id → k.ctx = j.ctx → k.conflicts j = false) :
    exec (.copyJobStart j.id) s = .next (s.setJob { j with started := true }) := by
  have hany : s.jobs.any (fun k => decide (k.id < j.id) && k.ctx == j.ctx && k.conflicts j) = false :=
    List.any_eq_false.2 fun k hk => by
      simp only [Bool.and_eq_true, decide_eq_true_eq, beq_iff_eq]
      rintro ⟨⟨hid, hctx⟩, hcon⟩
      exact Bool.noConfusion (hcon.symm.trans (hc k hk hid hctx))
  show execCopyJobStart j.id s = _
  simp [execCopyJobStart, hj, hs, hst, he, hl, ha, hu, hany]

theorem copyJobStart_rests (h : inEngine s j = false ∨ stagedAhead s j = true ∨ landsUnder s j = true ∨
    ∃ k ∈ s.jobs, k.id < j.id ∧ k.ctx = j.ctx ∧ k.conflicts j = true) : Rests (.copyJobStart j.id) s := by
  show execCopyJobStart j.id s = _
  obtain h | h | h | ⟨k, hk, hid, hctx, hcon⟩ := h
  · simp [execCopyJobStart, hj, h]
  · simp [execCopyJobStart, hj, h]
  · simp [execCopyJobStart, hj, h]
  · have hany : s.jobs.any (fun k => decide (k.id < j.id) && k.ctx == j.ctx && k.conflicts j) = true :=
      List.any_eq_true.2 ⟨k, hk, by simp [hid, hctx, hcon]⟩
    simp [execCopyJobStart, hj, hany]

/-- An engine that has another job to serve first leaves this one (R108). -/
theorem copyItem_rests {k : Job} (item : Nat) (hk : k ∈ s.jobs) (hsame : k.sameEngine j = true) (hs : k.started = true)
    (hc : k.cancel = false) (hr : k.items.any k.isReady = true) (hb : k.goesBefore j s.clk = true) (hjc : j.cancel = false) :
    Rests (.copyItem j.id item) s := by
  have hserve : hasService s j = false := by
    unfold hasService
    rw [List.any_eq_true.2 ⟨k, hk, by simp [hsame, hs, hc, hr, hb]⟩]
    rfl
  show execCopyItem j.id item s = _
  simp [execCopyItem, hj, hjc, hserve]

end

/-! ## A cancelled item -/

/-- A job with an item that has failed. -/
def Job.failing (k : Job) (item : Nat) (zeros : List Byte) : Job :=
  { k with
    failed := true, zeroed := item :: k.zeroed, snap := setT k.snap item zeros, tags := delT k.tags item
    got := k.got.filter (fun x => x.1 != item)
    held := k.held.filter (fun h => h.1 != item) }

/-- A failed item with a record, of a job that is cancelled: it is posted, the grid fails, and zeros land. -/
theorem itemFailed_cancelled (s : State) {j : Job} (item : Nat) (hc : j.cancel = true) (r : TrapRec) :
    ∃ (s1 : State) (zeros : List Byte), s.itemFailed j item (some r) =
      ((s1.jobFails j).modJob j.id fun k => k.failing item zeros).landZeros (j.failing item zeros) item true := by
  refine ⟨s.tqPost j.ctx r none, List.replicate (j.range item).2 0, ?_⟩
  unfold State.itemFailed
  rw [hc]
  rfl

theorem jobFails_failed {s : State} {j : Job} {g : Grid} (hg : g ∈ (s.jobFails j).grids) (hc : g.ctx = j.ctx) (hs : g.serial = j.serial) :
    g.failed = true := by
  obtain ⟨g', -, rfl⟩ := List.mem_map.1 hg
  split at hc
  next h => rw [if_pos h]
  next h =>
    rw [if_neg h] at hs
    exact absurd ⟨hc, hs⟩ h

/-- An item of a cancelled job fails with its grid, and where it is not for memory it is done (R115). -/
theorem copyItem_cancelled {s : State} {j : Job} {item : Nat} (hj : s.job? j.id = some j) (hi : item ∈ j.items) (hz : item ∉ j.zeroed)
    (hc : j.cancel = true) (hr : (s.ctx j.ctx).tqRoom = true) :
    ∃ t, exec (.copyItem j.id item) s = .next t ∧ (∀ g ∈ t.grids, g.ctx = j.ctx → g.serial = j.serial → g.failed = true) ∧
      ((∀ va, j.dst ≠ .glob va) → t.ItemGone j.id item) := by
  have hstop : exec (.copyItem j.id item) s = .next (s.itemStop j item (.fail false 28 0 0)) := by
    show execCopyItem j.id item s = _
    simp [execCopyItem, hj, hi, hz, hc]
  obtain ⟨s1, zeros, hfail⟩ := itemFailed_cancelled s item hc (failRec j (j.itemAddr item).1 28 (j.itemAddr item).2 0 (j.range item).1)
  have hstop' : s.itemStop j item (.fail false 28 0 0) = _ := (if_pos hr).trans hfail
  refine ⟨_, hstop.trans (congrArg _ hstop'), fun g hg hctx hser => ?_, fun hd => landZeros_gone _ (j.failing item zeros) item hc hd⟩
  rw [landZeros_grids] at hg
  exact jobFails_failed hg hctx hser

/-! ## Teams that have not ended -/

/-- Every team that has not ended has the same scratchpad. -/
def TeamsKept (s t : State) : Prop :=
  ∀ n w, s.team? n = some w → w.st ≠ .ended → ∃ u, t.team? n = some u ∧ u.scratch = w.scratch ∧ u.st = w.st

theorem TeamsKept.of_teams {s t : State} (h : t.teams = s.teams) : TeamsKept s t :=
  fun n w hw _ => ⟨w, (team?_of h n).trans hw, rfl, rfl⟩

theorem TeamsKept.refl (s : State) : TeamsKept s s := .of_teams rfl

theorem TeamsKept.trans {s t u : State} (h : TeamsKept s t) (k : TeamsKept t u) : TeamsKept s u := fun n w hw hst => by
  obtain ⟨x, hx, hxs, hxst⟩ := h n w hw hst
  obtain ⟨y, hy, hys, hyst⟩ := k n x hx (hxst ▸ hst)
  exact ⟨y, hy, hys.trans hxs, hyst.trans hxst⟩

theorem modTeam_teamsKept (s : State) (tid : Nat) {f : Team → Team} (hid : ∀ u, (f u).tid = u.tid) (hs : ∀ u, (f u).scratch = u.scratch)
    (hst : ∀ u, (f u).st = u.st) : TeamsKept s (s.modTeam tid f) := fun n w hw _ => by
  rw [modTeam_team? s tid hid, hw]
  split
  · exact ⟨f w, rfl, hs w, hst w⟩
  · exact ⟨w, rfl, rfl, rfl⟩

/-- Reaping leaves the teams that have not ended. -/
theorem reap_teamsKept (s : State) : TeamsKept s s.reap := by
  have hteams : s.reap.teams = s.teams.filter (fun t => t.st != .ended || s.teamOwes t) := by
    refine foldl_invariant (P := fun a : State => a.teams = s.teams.filter (fun t => t.st != .ended || s.teamOwes t)) rfl fun a t h => ?_
    rw [(leaveFusion_usesOnly a t).rest]
    exact h
  intro n w hw hst
  refine ⟨w, ?_, rfl, rfl⟩
  obtain ⟨hid, as, bs, hl, has⟩ := List.find?_eq_some_iff_append.1 hw
  unfold State.team?
  rw [hteams, List.find?_filter, List.find?_eq_some_iff_append]
  refine ⟨by simpa [hst] using hid, as, bs, hl, fun a ha => ?_⟩
  have hne := has a ha
  simp_all

theorem wakeCopy_teams (s : State) (j : Job) (f : CopyEvent → Bool) : (s.wakeCopy j f).teams = s.teams := by
  unfold State.wakeCopy
  split <;> rfl

theorem dropJob_teams (s : State) (j : Job) : (s.dropJob j).teams = s.teams := wakeCopy_teams s j _

theorem release_teamsKept (s : State) {j : Job} (hr : j.role = 0) : TeamsKept s (s.release j) := by
  have hrel : s.release j = (s.modJob j.id (fun k => { k with released := true })).wakeCopy j (· == .rel) :=
    if_neg fun h => by simp [hr] at h
  rw [hrel]
  exact .of_teams (wakeCopy_teams _ _ _)

theorem finish_teamsKept (s : State) {j : Job} (hr : j.role = 0) : TeamsKept s (s.finish j) := by
  have h1 : TeamsKept s (if j.released then s else s.release j) := by
    split
    · exact .refl s
    · exact release_teamsKept s hr
  have h2 : ∀ a : State, a.finishHandles j = a := fun a => (if_neg (by omega)).trans (if_neg (by omega))
  have h3 : ∀ a : State, TeamsKept a (a.finishSlot j) := fun a => by
    unfold State.finishSlot
    split
    · exact .refl a
    · exact modTeam_teamsKept a _ (by exact fun _ => rfl) (by exact fun _ => rfl) (by exact fun _ => rfl)
  rw [finish_eq, h2]
  exact ((h1.trans (h3 _)).trans (.of_teams (dropJob_teams _ j))).trans (reap_teamsKept _)

theorem settleJob_teamsKept {s : State} {id : Nat} {j : Job} (hj : s.job? id = some j) (hr : j.role = 0) : TeamsKept s (s.settleJob id) := by
  have h1 : TeamsKept s (if j.allRead && !j.released then s.release j else s) := by
    split
    · exact release_teamsKept s hr
    · exact .refl s
  unfold State.settleJob
  simp only [hj]
  split
  · exact h1.trans (finish_teamsKept _ hr)
  · exact h1

/-! ## An item that lands -/

theorem srcPieces_leads {s0 : State} {j : Job} (rs : List SrcRun) : ∀ {s : State}, StoresOnly s0 s →
    Leads (fun _ => True) (fun r => StoresOnly s0 r.1) (srcPieces s j rs) := by
  induction rs with
  | nil => exact fun h => .ok h
  | cons r t ih =>
    intro s h
    obtain ⟨l, n⟩ := r
    match l with
    | none => exact (ih h).bind fun _ h1 => .pure h1
    | some (.scr tid off) =>
      unfold srcPieces
      split
      · exact .error trivial
      · exact (ih h).bind fun _ h1 => .pure h1
    | some (.glob va) =>
      have hp := jobPieces_leads (fun a b hab (k : StoresOnly s0 a) => k.trans hab) (j := j) (acc := .read) (pageRuns 3 va n) h
      unfold srcPieces
      cases hps : jobPieces s j .read (pageRuns 3 va n) with
      | error x => exact .error trivial
      | ok p => exact (ih (hp.of_ok hps)).bind fun _ h2 => .pure h2

/-- A read of an item changes of the jobs no more than what the job has got of it. -/
def ReadsItem (id : Nat) (s t : State) : Prop :=
  ∃ (a : State) (f : Job → List (Nat × Nat × List Byte)), a.jobs = s.jobs ∧ t = a.modJob id (fun k => { k with got := f k })

theorem engineMeets_storesOnly (s : State) (c : Nat) (ps : List Piece) : StoresOnly s (s.engineMeets c ps) :=
  (landLate_storesOnly s _).trans (dieMet_usesOnly _ _ _ _).storesOnly

theorem itemRead_leads (s : State) (j : Job) (item : Nat) :
    Leads (fun _ => True) (fun r => ReadsItem j.id s r.1) (itemRead s j item) := by
  unfold itemRead
  split
  extract_lets +onlyGivenNames rs
  split
  · exact .error trivial
  · refine (srcPieces_leads rs (.refl s)).bind fun ⟨s1, ps⟩ h1 => ?_
    dsimp -zeta only
    extract_lets +onlyGivenNames qs left
    split
    · exact .error trivial
    · extract_lets +onlyGivenNames now s2 got s3
      have h2 : StoresOnly s s2 := StoresOnly.trans h1 (engineMeets_storesOnly s1 j.ctx _)
      have h3 : ReadsItem j.id s s3 := ⟨s2, fun k => k.got.filter (fun x => x.1 != item) ++ got, by rw [h2.rest], rfl⟩
      cases jobRemote s3 j item false (ps.flatMap readReqs) with
      | error x => exact .error trivial
      | ok far =>
        refine Leads.bind (A := fun _ => True) (.ok trivial) fun _ _ => ?_
        extract_lets +onlyGivenNames full
        split
        · exact .error trivial
        · exact .pure h3

theorem ReadsItem.job? {id : Nat} {s t : State} (h : ReadsItem id s t) {j : Job} (hj : s.job? id = some j) :
    ∃ got, t.job? id = some { j with got := got } := by
  obtain ⟨a, f, ha, rfl⟩ := h
  have haj : a.job? id = some j := by
    unfold State.job? at hj ⊢
    rw [ha]
    exact hj
  refine ⟨f j, ?_⟩
  rw [modJob_job? a id (by exact fun _ h => h), if_pos rfl, haj]
  rfl

/-- A job whose copy names no handle, and what the release of its source leaves of it. -/
theorem release_job? {s : State} {j : Job} (hj : s.job? j.id = some j) (hr : j.role = 0) :
    (s.release j).job? j.id = some { j with released := true } := by
  have hrel : s.release j = (s.modJob j.id (fun k => { k with released := true })).wakeCopy j (· == .rel) :=
    if_neg fun h => by simp [hr] at h
  have hjobs : ∀ a : State, (a.wakeCopy j (· == .rel)).job? j.id = a.job? j.id := fun a => by
    unfold State.job?
    rw [(wakeCopy_signalsOnly a j _).jobs]
  rw [hrel, hjobs, modJob_job? s j.id (by exact fun _ h => h), if_pos rfl, hj]
  rfl

/-- A job that has items left is at most released when it is looked at. -/
theorem settleJob_job? {s : State} {j : Job} (hj : s.job? j.id = some j) (hr : j.role = 0) (hi : j.items ≠ []) :
    ∃ b, (s.settleJob j.id).job? j.id = some { j with released := b } := by
  unfold State.settleJob
  simp only [hj, if_neg hi]
  split
  · exact ⟨true, release_job? hj hr⟩
  · exact ⟨j.released, hj⟩

theorem present_teamsKept (s : State) (id item tid line : Nat) : TeamsKept s (s.present id item tid line) := by
  unfold State.present
  dsimp only
  split
  · exact .refl s
  · exact modTeam_teamsKept s tid (by exact fun _ => rfl) (by exact fun _ => rfl) (by exact fun _ => rfl)

theorem present_jobs (s : State) (id item tid line : Nat) : (s.present id item tid line).jobs = s.jobs := by
  unfold State.present
  dsimp only
  split <;> rfl

theorem counters_nil {j : Job} (h : ctlSig j.ctl ≠ 2) (item : Nat) : j.counters item = [] := if_pos h

/-- An item of a copy that names no handle and no object is done: the scratchpads stay. -/
theorem itemDone_teamsKept {s : State} {j k : Job} {item : Nat} {failed : Bool} (hk : s.job? j.id = some k) (hr : k.role = 0)
    (hsig : ctlSig j.ctl ≠ 2) : TeamsKept s (s.itemDone j item failed) := by
  have hcount : (s.modJob j.id fun k => k.without item failed).countItem j item = s.modJob j.id fun k => k.without item failed := by
    unfold State.countItem
    rw [counters_nil hsig]
    rfl
  have hjob : (s.modJob j.id fun k => k.without item failed).job? j.id = some (k.without item failed) := by
    rw [modJob_job? s j.id (by exact fun _ h => h), if_pos rfl, hk]
    rfl
  rw [itemDone_eq, hcount]
  exact TeamsKept.trans (.of_teams rfl) (settleJob_teamsKept hjob hr)

/-- An item for scratchpads lands in its receiver's, and is done. -/
theorem landItem_lands {s : State} {j k : Job} {item off : Nat} {bs : List Byte} {tids : List Nat} {w : Team} (hk : s.job? j.id = some k)
    (hr : k.role = 0) (hsig : ctlSig j.ctl ≠ 2) (hlater : j.landsLater = false) (hd : j.dst = .teams tids off)
    (hw : s.team? (tids.getD (item / lineCount off j.size) j.tid) = some w) (hst : w.st ≠ .ended) :
    (landItem s j item bs).ItemGone j.id item ∧ ∃ u, (landItem s j item bs).team? (tids.getD (item / lineCount off j.size) j.tid) = some u ∧
      u.scratch = writeB w.scratch (off + (j.range item).1) bs := by
  generalize htid : tids.getD (item / lineCount off j.size) j.tid = tid at hw ⊢
  set s1 := (s.scrStore tid (off + (j.range item).1) bs).present j.id item tid ((off + (j.range item).1) / 128) with hs1
  have hwrite : itemWrite s j item bs = .ok (s1, true) := by
    unfold itemWrite
    simp only [hd, htid, hw, Option.isNone_some, Bool.false_eq_true, if_false, hs1]
  have hland : landItem s j item bs = (s1.itemDone j item false).count j.ctx 0x38 (j.range item).2 := by
    unfold landItem
    simp only [hlater, Bool.false_eq_true, if_false, hwrite]
  have hteam : (s.scrStore tid (off + (j.range item).1) bs).team? tid =
      some { w with scratch := writeB w.scratch (off + (j.range item).1) bs } := by
    rw [scrStore_team?, if_pos rfl, hw]
    rfl
  have hjob : s1.job? j.id = some k := by
    unfold State.job? at hk ⊢
    rw [hs1, present_jobs]
    exact hk
  obtain ⟨u, hu, hscr, hust⟩ := present_teamsKept _ j.id item tid ((off + (j.range item).1) / 128) tid _ hteam hst
  obtain ⟨v, hv, hvscr, -⟩ := itemDone_teamsKept (item := item) (failed := false) hjob hr hsig tid u hu (hust ▸ hst)
  have hcount := count_usesOnly (s1.itemDone j item false) j.ctx 0x38 (j.range item).2
  rw [hland]
  exact ⟨hcount.jobsKept.gone (itemDone_gone s1 j item false), v, (team?_of (by rw [hcount.rest]) _).trans hv, hvscr.trans hscr⟩

/-- A job with an item that has been read. -/
def Job.reading (k : Job) (item : Nat) (bs : List Byte) : Job :=
  { k with snap := setT k.snap item bs, tags := delT k.tags item, got := k.got.filter (fun x => x.1 != item) }

section
variable {s s1 : State} {j : Job} {item : Nat} {bs : List Byte} (hj : s.job? j.id = some j) (hi : item ∈ j.items) (hc : j.cancel = false)
  (hs : j.started = true) (hready : j.isReady item = true) (hserve : hasService s j = true) (hpart : s.part = none)
  (hsnap : getT j.snap item = none) (hread : itemRead s j item = .ok (s1, bs))
include hj hi hc hs hready hserve hpart hsnap hread

/-- An item whose source can be read is read, and lands in the same step. -/
theorem copyItem_serves : exec (.copyItem j.id item) s =
    .next (landItem ((s1.modJob j.id fun k => k.reading item bs).settleJob j.id) (j.reading item bs) item bs) := by
  have hserved : serveItem s j item = landItem ((s1.modJob j.id fun k => k.reading item bs).settleJob j.id) (j.reading item bs) item bs := by
    unfold serveItem
    simp only [hsnap, hread, hpart]
    rfl
  show execCopyItem j.id item s = _
  simp [execCopyItem, hj, hi, hc, hs, hready, hserve, hserved]

/-- An item of a copy between scratchpads and memory lands where the job says (R113). -/
theorem copyItem_lands {tids : List Nat} {off : Nat} {w : Team} (hover : j.overlaps = false) (hd : j.dst = .teams tids off)
    (hr : j.role = 0) (hsig : ctlSig j.ctl ≠ 2) (hw : s1.team? (tids.getD (item / lineCount off j.size) j.tid) = some w)
    (hst : w.st ≠ .ended) :
    ∃ t, exec (.copyItem j.id item) s = .next t ∧ t.ItemGone j.id item ∧
      ∃ u, t.team? (tids.getD (item / lineCount off j.size) j.tid) = some u ∧ u.scratch = writeB w.scratch (off + (j.range item).1) bs := by
  obtain ⟨got, hgot⟩ := ((itemRead_leads s j item).of_ok hread).job? hj
  set k := ({ j with got := got } : Job).reading item bs with hk
  have hjob : (s1.modJob j.id fun k => k.reading item bs).job? j.id = some k := by
    rw [modJob_job? s1 j.id (by exact fun _ h => h), if_pos rfl, hgot]
    rfl
  have hitems : k.items ≠ [] := List.ne_nil_of_mem hi
  obtain ⟨b, hsettled⟩ := settleJob_job? (j := k) hjob hr hitems
  obtain ⟨v, hv, hvscr, hvst⟩ := settleJob_teamsKept hjob hr _ w hw hst
  have hlater : (j.reading item bs).landsLater = false := by
    have hsame : (j.reading item bs).overlaps = j.overlaps := rfl
    simp [Job.landsLater, hsame, hover]
  obtain ⟨hgone, u, hu, hscr⟩ := landItem_lands (j := j.reading item bs) (item := item) (bs := bs) hsettled hr hsig hlater hd hv (hvst ▸ hst)
  exact ⟨_, copyItem_serves hj hi hc hs hready hserve hpart hsnap hread, hgone, u, hu, hscr.trans (by rw [hvscr]; rfl)⟩

end

end Sys2Proof.Machine
end

section
/-! How the load of a residency ends (R236). -/

namespace Sys2Proof.Machine

/-! ## Filled runs -/

theorem getB_filterMap_run {w : Nat} (f : Nat → BitVec w) (l : List Nat) (n : Nat) :
    getB (l.filterMap fun i => if f i = 0 then none else some (i, f i)) n = if n ∈ l then f n else 0 := by
  induction l with
  | nil => rfl
  | cons i t ih =>
    rw [List.filterMap_cons]
    by_cases h0 : f i = 0
    · rw [if_pos h0, ih]
      by_cases hn : n = i
      · subst hn
        simp [h0]
      · simp [hn]
    · rw [if_neg h0]
      simp only [getB, ih]
      by_cases hn : i = n
      · simp [hn]
      · simp [hn, Ne.symm hn]

/-- A run of bytes in an empty map. -/
theorem getB_fillB_bytes (bs : List Byte) (n : Nat) : getB (fillB [] 0 bs.length (fun k => bs.getD k 0)) n = bs.getD n 0 := by
  unfold fillB
  simp only [List.filter_nil, List.nil_append, List.append_nil, Nat.zero_add]
  rw [getB_filterMap_run]
  split
  · rfl
  next h => simp_all

/-! ## Instances -/

theorem inst?_eq_some {s : State} {core c slot : Nat} {i : Inst} (h : s.inst? core c slot = some i) :
    i.core = core ∧ i.ctx = c ∧ i.slot = slot ∧ i.old = false := by
  simpa [and_assoc] using List.find?_some h

/-- What is set in the place of a load's copy is found there. -/
theorem setInst_inst? {s : State} {core c slot : Nat} {k i : Inst} (hk : s.inst? core c slot = some k) (hcore : i.core = core)
    (hctx : i.ctx = c) (hslot : i.slot = slot) (hold : i.old = false) : (s.setInst i).inst? core c slot = some i := by
  have hid : (fun m : Inst => m.core == core && m.ctx == c && m.slot == slot && !m.old) ∘
      (fun m => if m.core = i.core ∧ m.ctx = i.ctx ∧ m.slot = i.slot ∧ m.old = false then i else m) =
      fun m => m.core == core && m.ctx == c && m.slot == slot && !m.old := funext fun m => by
    simp only [Function.comp_apply]
    split
    next h => simp_all
    next => rfl
  obtain ⟨h1, h2, h3, h4⟩ := inst?_eq_some hk
  unfold State.inst? State.setInst at *
  rw [List.find?_map, hid, hk, Option.map_some, if_pos ⟨h1.trans hcore.symm, h2.trans hctx.symm, h3.trans hslot.symm, h4⟩]

theorem dropInsts_ctxs (s : State) (f : Inst → Bool) : (s.dropInsts f).ctxs = s.ctxs := rfl

/-- A load that has ended with its bytes. -/
def Inst.loaded (k : Inst) (bs : List Byte) : Inst :=
  { k with loading := false, loaders := [], data := fillB [] 0 bs.length (fun n => bs.getD n 0) }

theorem dropInsts_old {s : State} {f : Inst → Bool} {k : Inst} (hk : k ∈ (s.dropInsts f).insts) (hf : f k = true) : k.old = true := by
  obtain ⟨i, -, hi⟩ := List.mem_filterMap.1 hk
  split at hi
  · split at hi
    · cases hi
      rfl
    · cases hi
  next hn =>
    cases hi
    exact absurd hf hn

/-! ## Sources -/

theorem translateRuns_usesOnly {massif c : Nat} (rs : List (Nat × Nat)) : ∀ s : State, UsesOnly s (translateRuns s massif c rs).1 := by
  induction rs with
  | nil => exact UsesOnly.refl
  | cons r t ih =>
    intro s
    unfold translateRuns
    split
    · exact ih s
    next s0 p hx => exact (xlate_usesOnly (by rfl) hx).trans (ih s0)

theorem sourcePages_usesOnly {s s0 : State} {massif c : Nat} {l : Layout} {ps : List SourcePage} (h : sourcePages s massif c l = (s0, ps)) :
    UsesOnly s s0 := by
  have hu := translateRuns_usesOnly (massif := massif) (c := c) (pageRuns (l.bytes / 65536 + 2) l.base l.bytes) s
  have h0 : (translateRuns s massif c (pageRuns (l.bytes / 65536 + 2) l.base l.bytes)).1 = s0 := congrArg Prod.fst h
  exact h0 ▸ hu

/-! ## Records -/

theorem postCtx_ctxs (s : State) (c code arg : Nat) : (s.postCtx c code arg).ctxs = s.ctxs := by
  unfold State.postCtx
  rw [(postEv_postsOnly _ _ _).rest]

/-- A context that is set is there whether or not its owner is told. -/
theorem setCtx_told_ctx? (s : State) (c : Nat) (x : Context) (p : Prop) [Decidable p] (code n : Nat) :
    (if p then (s.setCtx c x).postCtx c code n else s.setCtx c x).ctx? c = some x := by
  split
  · rw [ctx?_of (postCtx_ctxs _ _ _ _), State.setCtx_ctx?]
  · rw [State.setCtx_ctx?]

/-- A record that is posted leaves the residencies of its context, but for their marks. -/
theorem tqPost_resid {s : State} {c slot : Nat} {r : Residency} (hr : getT (s.ctx c).resid slot = some r) (rec : TrapRec)
    (rep : Option Replay) : ∃ x r', (s.tqPost c rec rep).ctx? c = some x ∧ getT x.resid slot = some r' := by
  obtain ⟨r', hr', -⟩ := (writeOwn_marksOnly s ((s.ctx c).reg64 CtxReg.tqBase + 32 * (s.ctx c).tqPos) rec.bytes).resid c hr
  unfold State.tqPost
  dsimp only [Context.setReg]
  rw [setCtx_told_ctx?]
  exact ⟨_, r', rfl, hr'⟩

/-- A residency that is changed. -/
theorem modResid_resid {s : State} {c slot : Nat} {x : Context} {r : Residency} (hx : s.ctx? c = some x) (hr : getT x.resid slot = some r)
    (f : Residency → Residency) : getT ((s.modResid c slot f).ctx c).resid slot = some (f r) := by
  unfold State.modResid State.ctx
  rw [modCtx_ctx?, hx]
  simp only [Option.map_some, Option.getD_some, hr]
  rw [getT_setT, if_pos rfl]

theorem modResid_insts (s : State) (c slot : Nat) (f : Residency → Residency) : (s.modResid c slot f).insts = s.insts :=
  State.modCtx_insts _ _ _

/-! ## The end of a load -/

/-- Nothing keeps a load back. -/
theorem loadDone_waits_not {s s0 : State} {i : Inst} {r : Residency} {ps : List SourcePage} (hl : i.loading = true)
    (hw : i.wait = none) (hh : loadHeld s i r.layout = false) (hopen : ∀ q ∈ sourceRanges ps, isHeld s0 q.1 = false) :
    (!i.loading || i.wait.isSome || loadHeld s i r.layout || (sourceRanges ps).any (fun q => isHeld s0 q.1)) = false := by
  have hany : (sourceRanges ps).any (fun q => isHeld s0 q.1) = false := List.any_eq_false.2 fun q hq => by simp [hopen q hq]
  simp [hl, hw, hh, hany]

section
variable {s s0 : State} {core c slot : Nat} {i : Inst} {r : Residency} {ps : List SourcePage} (hi : s.inst? core c slot = some i)
  (hr : getT (s.ctx c).resid slot = some r) (hl : i.loading = true) (hw : i.wait = none) (hh : loadHeld s i r.layout = false)
  (hp : sourcePages s (massifOf (core / 4)) c r.layout = (s0, ps))
include hi hr hp

/-- A load waits for a crest page of its source to open (R60). -/
theorem loadDone_rests_of_crest (h : ∃ q ∈ sourceRanges ps, isHeld s0 q.1 = true) : Rests (.residencyLoadDone core c slot) s := by
  have hany : (sourceRanges ps).any (fun q => isHeld s0 q.1) = true := List.any_eq_true.2 h
  show execResidencyLoadDone core c slot s = _
  simp only [execResidencyLoadDone, hi, hr, hp, hany, Bool.or_true, if_true]

variable (hopen : ∀ q ∈ sourceRanges ps, isHeld s0 q.1 = false)
include hl hw hh hopen

theorem loadDone_rests_of_held (h : loadEnd s0 ps = .held) : Rests (.residencyLoadDone core c slot) s := by
  show execResidencyLoadDone core c slot s = _
  simp only [execResidencyLoadDone, hi, hr, hp, loadDone_waits_not hl hw hh hopen, Bool.false_eq_true, if_false, h]

/-- A load whose bytes are all there ends with them. -/
theorem loadDone_ends {b0 bs : List Byte} {k : Inst} (h0 : loadEnd s0 ps = .bytes b0)
    (hk : (s0.engineMeets c (sourcePieces ps)).inst? core c slot = some k)
    (h1 : loadEnd (s0.engineMeets c (sourcePieces ps)) ps = .bytes bs) :
    ∃ t i', exec (.residencyLoadDone core c slot) s = .next t ∧ t.inst? core c slot = some i' ∧ i'.loading = false ∧ i'.users = k.users ∧
      ∀ n, getB i'.data n = bs.getD n 0 := by
  obtain ⟨hcore, hctx, hslot, hold⟩ := inst?_eq_some hk
  have hset := setInst_inst? (i := k.loaded bs) hk hcore hctx hslot hold
  have hx : exec (.residencyLoadDone core c slot) s = .next (((s0.engineMeets c (sourcePieces ps)).setInst (k.loaded bs)).modResid c slot
      (fun q => { q with ranges := sourceRanges ps })) := by
    show execResidencyLoadDone core c slot s = _
    simp only [execResidencyLoadDone, hi, hr, hp, loadDone_waits_not hl hw hh hopen, Bool.false_eq_true, if_false, h0, hk, h1]
    rfl
  refine ⟨_, k.loaded bs, hx, ?_, rfl, rfl, getB_fillB_bytes bs⟩
  unfold State.inst? at hset ⊢
  rw [modResid_insts]
  exact hset

/-- A load that fails leaves its residency STALE and FAILED, and what it had loaded is not there any more (R236). -/
theorem loadDone_fails {cause va pa : Nat} (h : loadEnd s0 ps = .fail cause va pa) (hroom : (s.ctx c).tqRoom = true) :
    ∃ t r', exec (.residencyLoadDone core c slot) s = .next t ∧ (∀ k ∈ t.insts, k.ctx = c → k.slot = slot → k.old = true) ∧
      getT (t.ctx c).resid slot = some r' ∧ r'.st = 3 ∧ r'.failed = true := by
  have hx : exec (.residencyLoadDone core c slot) s = .next (State.modResid ((s0.tqPost c (loadRec s i 4 cause va pa) none).dropInsts
      (fun k => k.ctx == c && k.slot == slot)) c slot (fun q => { q with st := 3, failed := true })) := by
    show execResidencyLoadDone core c slot s = _
    simp only [execResidencyLoadDone, hi, hr, hp, loadDone_waits_not hl hw hh hopen, Bool.false_eq_true, if_false, h, hroom, if_true]
  obtain ⟨r0, hr0, -⟩ := (sourcePages_usesOnly hp).marksOnly.resid c hr
  obtain ⟨x, r1, hx1, hr1⟩ := tqPost_resid hr0 (loadRec s i 4 cause va pa) none
  have hmod := modResid_resid ((ctx?_of (dropInsts_ctxs _ (fun k => k.ctx == c && k.slot == slot)) c).trans hx1) hr1
    (fun q => { q with st := 3, failed := true })
  refine ⟨_, _, hx, fun k hk hctx hslot => ?_, hmod, rfl, rfl⟩
  rw [modResid_insts] at hk
  exact dropInsts_old hk (by simp [hctx, hslot])

end

end Sys2Proof.Machine

namespace Sys2Proof
open Machine

/-- Settles O49: the events of a job are looked at one by one, and an item's landing or failure is followed through the completion of its job. -/
theorem engines : Obligations.Engines := by
  refine ⟨fun s j hj => ⟨fun hs hst he hl ha hu hc => ⟨_, copyJobStart_starts hj hs hst he hl ha hu hc, setJob_job? hj, rfl, rfl⟩,
    copyJobStart_rests hj, fun k item hk hsame hs hc hr hb hjc => copyItem_rests hj item hk hsame hs hc hr hb hjc, ?_, ?_⟩, ?_⟩
  · intro item bs tids off w s1 hi hc hs hready hserve hpart hover hsnap hread hd hr hsig tid at_ hw hst
    obtain ⟨t, ht, hgone, u, hu, hscr⟩ := copyItem_lands hj hi hc hs hready hserve hpart hsnap hread hover hd hr hsig hw hst
    exact ⟨t, ht, hgone, u, hu, fun a => by rw [hscr, getB_writeB]⟩
  · intro item hi hz hc hroom
    obtain ⟨t, ht, hfailed, hgone⟩ := copyItem_cancelled hj hi hz hc hroom
    exact ⟨t, ht, hfailed, hgone⟩
  · intro s s0 core c slot i r ps hi hr hl hw hh hp rs s1
    refine ⟨loadDone_rests_of_crest hi hr hp, fun hopen => ⟨loadDone_rests_of_held hi hr hl hw hh hp hopen, ?_, ?_⟩⟩
    · intro b0 bs k h0 hk h1
      obtain ⟨t, i', ht, hi', hloading, husers, hdata⟩ := loadDone_ends hi hr hl hw hh hp hopen h0 hk h1
      exact ⟨t, ht, i', hi', hloading, husers, hdata⟩
    · intro cause va pa x hend hx hroom
      have hctx : s.ctx c = x := by
        unfold State.ctx
        rw [hx]
        rfl
      obtain ⟨t, r', ht, hold, hr', hst, hfailed⟩ := loadDone_fails hi hr hl hw hh hp hopen hend (hctx ▸ hroom)
      exact ⟨t, ht, hold, r', hr', hst, hfailed⟩

end Sys2Proof
end

section
/-! Rounding on a rising scale of numbers (R167). A number that lies between two neighbours of the scale becomes one of them; the integers
and the magnitudes of a format are such scales, and the model rounds on both by `roundNat`. -/

namespace Sys2Proof.Machine

/-- Whether a mode rounds a magnitude up to the next number of the scale wherever it is not one itself. -/
def roundsAway (rm : RMode) (neg : Bool) : Bool :=
  match rm with
  | .rne | .rz => false
  | .rd => neg
  | .ru => !neg

/-- Whether a magnitude that lies the part φ of the way from number n of a scale to the next one is rounded up. -/
def raises (rm : RMode) (neg : Bool) (n : Nat) (φ : ℚ) : Bool :=
  match rm with
  | .rne => decide (1 / 2 < φ) || (decide (φ = 1 / 2) && n % 2 == 1)
  | _ => roundsAway rm neg && decide (φ ≠ 0)

/-- The model's decision is that of the fraction which the division leaves. -/
theorem roundsUp_eq_raises (rm : RMode) (neg : Bool) (a : Nat) {b : Nat} (hb : 0 < b) :
    roundsUp rm neg a b = raises rm neg (a / b) ((a % b : Nat) / b : ℚ) := by
  have hb' : (0 : ℚ) < b := Nat.cast_pos.2 hb
  have hhalf : (1 / 2 : ℚ) < (a % b : Nat) / b ↔ b < 2 * (a % b) := by
    rw [lt_div_iff₀ hb', ← Nat.cast_lt (α := ℚ)]
    push_cast
    constructor <;> intro h <;> linarith
  have htie : ((a % b : Nat) / b : ℚ) = 1 / 2 ↔ 2 * (a % b) = b := by
    rw [div_eq_iff hb'.ne', ← Nat.cast_inj (R := ℚ)]
    push_cast
    constructor <;> intro h <;> linarith
  have hzero : ((a % b : Nat) / b : ℚ) ≠ 0 ↔ a % b ≠ 0 := by
    rw [Ne, div_eq_zero_iff, Nat.cast_eq_zero, or_iff_left hb'.ne']
  cases rm with
  | rne => simp only [roundsUp, raises, hhalf, htie, beq_eq_decide]
  | rz => rfl
  | rd | ru => simp [roundsUp, raises, roundsAway, hzero, bne, beq_eq_decide]

/-- The number c of a scale is what x is rounded to by a mode; x lies the part φ of the way from number n to the next. -/
structure Rounds (g : Nat → ℚ) (rm : RMode) (neg : Bool) (x : ℚ) (n : Nat) (φ : ℚ) (c : Nat) : Prop where
  nonneg : 0 ≤ φ
  lt_one : φ < 1
  place  : x = g n + φ * (g (n + 1) - g n)
  code   : c = n + (raises rm neg n φ).toNat

/-- The quotient of two numbers is rounded to an integer. -/
theorem roundNat_rounds (rm : RMode) (neg : Bool) (a : Nat) {b : Nat} (hb : 0 < b) :
    Rounds Nat.cast rm neg (a / b) (a / b) ((a % b : Nat) / b) (roundNat rm neg a b) where
  nonneg := by positivity
  lt_one := by
    rw [div_lt_one (Nat.cast_pos.2 hb)]
    exact Nat.cast_lt.2 (Nat.mod_lt a hb)
  place := by
    have hb' : (b : ℚ) ≠ 0 := Nat.cast_ne_zero.2 hb.ne'
    have h : (a : ℚ) = b * (a / b : Nat) + (a % b : Nat) := by exact_mod_cast (Nat.div_add_mod a b).symm
    rw [Nat.cast_add_one, div_eq_iff hb']
    field_simp
    linarith
  code := by rw [roundNat, roundsUp_eq_raises rm neg a hb]

namespace Rounds

variable {g : Nat → ℚ} {rm : RMode} {neg : Bool} {x φ : ℚ} {n c : Nat}

theorem code_cases (h : Rounds g rm neg x n φ c) :
    (raises rm neg n φ = false ∧ c = n) ∨ (raises rm neg n φ = true ∧ c = n + 1) := by
  have hc := h.code
  cases hr : raises rm neg n φ
  · exact .inl ⟨rfl, by simpa [hr] using hc⟩
  · exact .inr ⟨rfl, by simpa [hr] using hc⟩

theorem floor_le (h : Rounds g rm neg x n φ c) (hg : StrictMono g) : g n ≤ x := by
  have hstep : 0 < g (n + 1) - g n := sub_pos.2 (hg n.lt_succ_self)
  rw [h.place]
  linarith [mul_nonneg h.nonneg hstep.le]

theorem lt_next (h : Rounds g rm neg x n φ c) (hg : StrictMono g) : x < g (n + 1) := by
  have hstep : 0 < g (n + 1) - g n := sub_pos.2 (hg n.lt_succ_self)
  have := mul_lt_mul_of_pos_right h.lt_one hstep
  rw [h.place]
  linarith

/-- Where the mode rounds toward zero, the number below is taken. -/
theorem toward_zero (h : Rounds g rm neg x n φ c) (hg : StrictMono g) (hrm : rm ≠ .rne) (ha : roundsAway rm neg = false) :
    g c ≤ x ∧ ∀ j, g j ≤ x → j ≤ c := by
  have hc : c = n := by
    have hr : raises rm neg n φ = false := by cases rm <;> simp_all [raises]
    simpa [hr] using h.code
  subst hc
  exact ⟨h.floor_le hg, fun j hj => Nat.le_of_lt_succ (hg.lt_iff_lt.1 (hj.trans_lt (h.lt_next hg)))⟩

/-- Where the mode rounds away from zero, the number at or above is taken. -/
theorem away_from_zero (h : Rounds g rm neg x n φ c) (hg : StrictMono g) (ha : roundsAway rm neg = true) :
    x ≤ g c ∧ ∀ j, x ≤ g j → c ≤ j := by
  have hr : raises rm neg n φ = decide (φ ≠ 0) := by cases rm <;> simp_all [raises, roundsAway]
  have hc := hr ▸ h.code
  by_cases hφ : φ = 0
  · have hx : x = g n := by rw [h.place, hφ]; ring
    have hcn : c = n := by simpa [hφ] using hc
    subst hcn
    exact ⟨hx.le, fun j hj => hg.le_iff_le.1 (hx ▸ hj)⟩
  · have hcn : c = n + 1 := by simpa [hφ] using hc
    have hx : g n < x := by
      rw [h.place]
      linarith [mul_pos (lt_of_le_of_ne h.nonneg (Ne.symm hφ)) (sub_pos.2 (hg n.lt_succ_self))]
    subst hcn
    exact ⟨(h.lt_next hg).le, fun j hj => hg.lt_iff_lt.1 (hx.trans_le hj)⟩

/-- To nearest, with the distances to both neighbours as parts of their distance. -/
theorem nearest_cases (h : Rounds g .rne neg x n φ c) :
    (φ ≤ 1 / 2 ∧ c = n ∧ (φ = 1 / 2 → c % 2 = 0)) ∨ (1 / 2 ≤ φ ∧ c = n + 1 ∧ (φ = 1 / 2 → c % 2 = 0)) := by
  rcases h.code_cases with ⟨hr, hc⟩ | ⟨hr, hc⟩ <;>
    simp only [raises, Bool.or_eq_false_iff, Bool.and_eq_false_imp, Bool.or_eq_true, Bool.and_eq_true, decide_eq_true_eq,
      decide_eq_false_iff_not, beq_iff_eq, beq_eq_false_iff_ne, not_lt] at hr
  · exact .inl ⟨hr.1, hc, fun ht => by have := hr.2 ht; omega⟩
  · refine .inr ⟨?_, hc, fun ht => ?_⟩
    · rcases hr with hr | ⟨hr, -⟩
      · exact hr.le
      · exact hr.ge
    · rcases hr with hr | ⟨-, hr⟩
      · exact absurd ht hr.ne'
      · omega

/-- To nearest, no other number of the scale is nearer, and of two equally near ones that with an even place is taken. -/
theorem nearest (h : Rounds g .rne neg x n φ c) (hg : StrictMono g) (j : Nat) :
    |g c - x| ≤ |g j - x| ∧ (|g c - x| = |g j - x| → j ≠ c → c % 2 = 0) := by
  have hstep : 0 < g (n + 1) - g n := sub_pos.2 (hg n.lt_succ_self)
  have hlow := h.floor_le hg
  have hup := h.lt_next hg
  have hplace := h.place
  obtain ⟨δ, hδ⟩ : ∃ δ, δ = g (n + 1) - g n := ⟨_, rfl⟩
  rw [← hδ] at hplace hstep
  have hj : g j ≤ g n ∨ g (n + 1) ≤ g j := (le_or_gt j n).imp (hg.le_iff_le.2 ·) (hg.le_iff_le.2 ·)
  have hjdist : j ≤ n ∧ |g j - x| = x - g j ∨ n + 1 ≤ j ∧ |g j - x| = g j - x := by
    rcases le_or_gt j n with hjn | hjn
    · exact .inl ⟨hjn, by rw [abs_of_nonpos] <;> linarith [hg.monotone hjn]⟩
    · exact .inr ⟨hjn, abs_of_pos (by linarith [hg.monotone hjn])⟩
  rcases h.nearest_cases with ⟨hφ, rfl, heven⟩ | ⟨hφ, rfl, heven⟩
  · have hle : φ * δ ≤ 1 / 2 * δ := mul_le_mul_of_nonneg_right hφ hstep.le
    rw [abs_of_nonpos (by linarith : g c - x ≤ 0)]
    rcases hjdist with ⟨hjn, hjd⟩ | ⟨hjn, hjd⟩
    · have := hg.monotone hjn
      refine ⟨by linarith, fun ht hne => absurd (hg.injective (a₁ := j) (a₂ := c) (by linarith)) hne⟩
    · have := hg.monotone hjn
      refine ⟨by linarith, fun ht _ => heven (mul_right_cancel₀ hstep.ne' (by linarith))⟩
  · have hle : 1 / 2 * δ ≤ φ * δ := mul_le_mul_of_nonneg_right hφ hstep.le
    rw [abs_of_pos (by linarith : 0 < g (n + 1) - x)]
    rcases hjdist with ⟨hjn, hjd⟩ | ⟨hjn, hjd⟩
    · have := hg.monotone hjn
      refine ⟨by linarith, fun ht _ => heven (mul_right_cancel₀ hstep.ne' (by linarith))⟩
    · have := hg.monotone hjn
      refine ⟨by linarith, fun ht hne => absurd (hg.injective (a₁ := j) (a₂ := n + 1) (by linarith)) hne⟩

/-- To nearest, a number reaches the middle between number m and the next when it is rounded beyond m, or lies there and m is even. -/
theorem beyond_iff (h : Rounds g .rne neg x n φ c) (hg : StrictMono g) (m : Nat) :
    (m < c ∨ (c = m ∧ φ = 1 / 2 ∧ n = c)) ↔ (g m + g (m + 1)) / 2 ≤ x := by
  have hlow := h.floor_le hg
  have hup := h.lt_next hg
  have hm := hg m.lt_succ_self
  rcases lt_trichotomy n m with hnm | rfl | hnm
  · have hle : g (n + 1) ≤ g m := hg.monotone hnm
    have hc : c ≤ n + 1 := by rcases h.code_cases with ⟨-, hc⟩ | ⟨-, hc⟩ <;> omega
    exact iff_of_false (by omega) (by linarith)
  · have hmid : (g n + g (n + 1)) / 2 ≤ x ↔ 1 / 2 ≤ φ := by
      have hδ : 0 < g (n + 1) - g n := sub_pos.2 hm
      rw [h.place, ← mul_le_mul_iff_left₀ hδ (b := 1 / 2)]
      constructor <;> intro _ <;> linarith
    rw [hmid]
    rcases h.nearest_cases with ⟨hφ, rfl, -⟩ | ⟨hφ, rfl, -⟩
    · exact ⟨fun hc => by rcases hc with hc | ⟨-, hc, -⟩ <;> [omega; exact hc.ge], fun hc => .inr ⟨rfl, le_antisymm hφ hc, rfl⟩⟩
    · exact iff_of_true (.inl n.lt_succ_self) hφ
  · have hle : g (m + 1) ≤ g n := hg.monotone hnm
    have hc : n ≤ c := by rcases h.code_cases with ⟨-, hc⟩ | ⟨-, hc⟩ <;> omega
    exact iff_of_true (.inl (by omega)) (by linarith)

end Rounds

end Sys2Proof.Machine
end

section
/-! The data of a format in the order of their codes (R159). The magnitude of a code without its sign rises with the code; the codes that
stand for finite values are those up to the largest one. -/

namespace Sys2Proof.Machine

/-! ## Fractions and powers of two -/

theorem scale2_pos (n : Nat) {d : Nat} (hd : 0 < d) (a : Int) : 0 < (scale2 n d a).2 := by
  unfold scale2
  split
  · exact hd
  · exact Nat.mul_pos hd (Nat.two_pow_pos _)

theorem scale2_ratio (n d : Nat) (a : Int) : ((scale2 n d a).1 : ℚ) / (scale2 n d a).2 = n / d * 2 ^ a := by
  unfold scale2
  split
  next h =>
    obtain ⟨k, rfl⟩ := Int.eq_ofNat_of_zero_le h
    push_cast
    simp only [Int.toNat_natCast, zpow_natCast]
    ring
  next h =>
    obtain ⟨k, hk⟩ := Int.eq_ofNat_of_zero_le (by omega : 0 ≤ -a)
    obtain rfl : a = -k := by omega
    push_cast
    simp only [neg_neg, Int.toNat_natCast, zpow_neg, zpow_natCast]
    rw [div_mul_eq_div_div, div_eq_mul_inv]

/-- The binary logarithm of a fraction is that of its terms, or one less. -/
theorem log2Ratio_spec {n d : Nat} (hn : 0 < n) (hd : 0 < d) :
    (2 : ℚ) ^ log2Ratio n d ≤ n / d ∧ (n / d : ℚ) < 2 ^ (log2Ratio n d + 1) := by
  have hd' : (0 : ℚ) < d := Nat.cast_pos.2 hd
  obtain ⟨l, hl⟩ : ∃ l : Int, l = (Nat.log2 n : Int) - (Nat.log2 d : Int) := ⟨_, rfl⟩
  have hn1 : (2 : ℚ) ^ (Nat.log2 n : Int) ≤ n := by exact_mod_cast Nat.log2_self_le hn.ne'
  have hn2 : (n : ℚ) < 2 ^ ((Nat.log2 n : Int) + 1) := by exact_mod_cast Nat.lt_log2_self (n := n)
  have hd1 : (2 : ℚ) ^ (Nat.log2 d : Int) ≤ d := by exact_mod_cast Nat.log2_self_le hd.ne'
  have hd2 : (d : ℚ) < 2 ^ ((Nat.log2 d : Int) + 1) := by exact_mod_cast Nat.lt_log2_self (n := d)
  have hup : (n / d : ℚ) < 2 ^ (l + 1) := by
    rw [div_lt_iff₀ hd']
    calc (n : ℚ) < 2 ^ (l + 1) * 2 ^ (Nat.log2 d : Int) := by
          rw [← zpow_add₀ two_ne_zero]
          exact hn2.trans_eq (by congr 1; omega)
      _ ≤ 2 ^ (l + 1) * d := by gcongr
  have hlow : (2 : ℚ) ^ (l - 1) ≤ n / d := by
    rw [le_div_iff₀ hd']
    calc (2 : ℚ) ^ (l - 1) * d ≤ 2 ^ (l - 1) * 2 ^ ((Nat.log2 d : Int) + 1) := by gcongr
      _ ≤ n := by
          rw [← zpow_add₀ two_ne_zero]
          exact (le_of_eq (by congr 1; omega)).trans hn1
  have hlt : (scale2 n d (-l)).1 < (scale2 n d (-l)).2 ↔ (n / d : ℚ) < 2 ^ l := by
    rw [← Nat.cast_lt (α := ℚ), ← div_lt_one (Nat.cast_pos.2 (scale2_pos n hd _)), scale2_ratio, zpow_neg,
      ← div_eq_mul_inv, div_lt_one (zpow_pos two_pos l)]
  have hdef : log2Ratio n d = if (scale2 n d (-l)).1 < (scale2 n d (-l)).2 then l - 1 else l := by rw [hl]; rfl
  rw [hdef]
  split
  next h => exact ⟨hlow, by rw [sub_add_cancel]; exact hlt.1 h⟩
  next h => exact ⟨not_lt.1 fun hc => h (hlt.2 hc), hup⟩

namespace Fmt

variable {f : Fmt}

/-! ## Magnitudes -/

/-- The binade of a code without its sign, counted from the lowest one, which the subnormals share. -/
def binade (f : Fmt) (c : Nat) : Nat := c / 2 ^ f.fb - 1

/-- What a code without its sign stands for where subnormals are kept and no code is special. -/
def mag (f : Fmt) (c : Nat) : ℚ := ((c - f.binade c * 2 ^ f.fb : Nat) : ℚ) * (2 : ℚ) ^ (f.qmin + (f.binade c : Int))

/-- Number k of the units of binade i, the first number of the next binade included. -/
theorem mag_binade {i k : Nat} (hk : k ≤ 2 ^ (f.fb + 1)) (hi : i = 0 ∨ 2 ^ f.fb ≤ k) :
    f.mag (i * 2 ^ f.fb + k) = k * 2 ^ (f.qmin + (i : Int)) := by
  have hpos := Nat.two_pow_pos f.fb
  rw [pow_succ] at hk
  have hdiv : (i * 2 ^ f.fb + k) / 2 ^ f.fb = i + k / 2 ^ f.fb := by rw [add_comm, Nat.add_mul_div_right _ _ hpos, add_comm]
  unfold mag binade
  rw [hdiv]
  rcases hk.lt_or_eq with hlt | rfl
  · have hbin : i + k / 2 ^ f.fb - 1 = i := by
      rcases lt_or_ge k (2 ^ f.fb) with hs | hs
      · rw [Nat.div_eq_of_lt hs]
        omega
      · rw [Nat.div_eq_of_lt_le (k := 1) (by omega) (by omega)]
        omega
    rw [hbin, Nat.add_sub_cancel_left]
  · have hbin : i + 2 ^ f.fb * 2 / 2 ^ f.fb - 1 = i + 1 := by
      rw [Nat.mul_div_cancel_left _ hpos]
      omega
    have hsig : i * 2 ^ f.fb + 2 ^ f.fb * 2 - (i + 1) * 2 ^ f.fb = 2 ^ f.fb := by
      rw [Nat.add_mul]
      omega
    rw [hbin, hsig, Nat.cast_add_one, ← add_assoc, zpow_add_one₀ two_ne_zero]
    push_cast
    ring

/-- Every code is a number of units in its binade. -/
theorem eq_binade (f : Fmt) (c : Nat) :
    ∃ i k, c = i * 2 ^ f.fb + k ∧ k < 2 ^ (f.fb + 1) ∧ (i = 0 ∨ 2 ^ f.fb ≤ k) := by
  have hpos := Nat.two_pow_pos f.fb
  have hmod := Nat.mod_lt c hpos
  have hdiv := Nat.div_add_mod' c (2 ^ f.fb)
  rw [pow_succ]
  rcases Nat.eq_zero_or_pos (c / 2 ^ f.fb) with h0 | h0
  · refine ⟨0, c, by omega, ?_, .inl rfl⟩
    rw [h0] at hdiv
    omega
  · obtain ⟨i, hi⟩ : ∃ i, c / 2 ^ f.fb = i + 1 := ⟨_, (Nat.sub_add_cancel h0).symm⟩
    rw [hi, Nat.add_mul] at hdiv
    exact ⟨i, 2 ^ f.fb + c % 2 ^ f.fb, by omega, by omega, .inr (Nat.le_add_right _ _)⟩

/-- From a code to the next it is one unit of its binade. -/
theorem mag_succ_of_binade {i k : Nat} (hk : k < 2 ^ (f.fb + 1)) (hi : i = 0 ∨ 2 ^ f.fb ≤ k) :
    f.mag (i * 2 ^ f.fb + k + 1) = f.mag (i * 2 ^ f.fb + k) + 2 ^ (f.qmin + (i : Int)) := by
  rw [add_assoc, mag_binade hk (by omega), mag_binade hk.le hi]
  push_cast
  ring

theorem mag_strictMono (f : Fmt) : StrictMono f.mag := strictMono_nat_of_lt_succ fun c => by
  obtain ⟨i, k, rfl, hk, hi⟩ := f.eq_binade c
  rw [mag_succ_of_binade hk hi]
  exact lt_add_of_pos_right _ (zpow_pos two_pos _)

@[simp] theorem mag_zero (f : Fmt) : f.mag 0 = 0 := by simp [mag, binade]

theorem mag_nonneg (f : Fmt) (c : Nat) : 0 ≤ f.mag c := f.mag_zero ▸ f.mag_strictMono.monotone (Nat.zero_le c)

/-- The steps before and after a code that is not the first of its binade are alike. -/
theorem mag_sub_pred {c : Nat} (h : c % 2 ^ f.fb ≠ 0) : f.mag c - f.mag (c - 1) = f.mag (c + 1) - f.mag c := by
  obtain ⟨i, k, rfl, hk, hi⟩ := f.eq_binade c
  rw [Nat.mul_add_mod_self_right] at h
  obtain ⟨j, rfl⟩ : ∃ j, k = j + 1 := ⟨k - 1, by
    have : k ≠ 0 := fun h0 => h (by rw [h0, Nat.zero_mod])
    omega⟩
  have hj : i = 0 ∨ 2 ^ f.fb ≤ j := by
    have : j + 1 ≠ 2 ^ f.fb := fun h0 => h (by rw [h0, Nat.mod_self])
    omega
  rw [mag_succ_of_binade hk hi, ← add_assoc, Nat.add_sub_cancel, mag_succ_of_binade (by omega) hj]
  ring

/-- A number of units that is rounded to an integer is rounded on the magnitudes of the format. -/
theorem rounds_mag {rm : RMode} {neg : Bool} {t φ : ℚ} {n k i : Nat} (h : Rounds Nat.cast rm neg t n φ k) (hfb : 0 < f.fb)
    (hn : n < 2 ^ (f.fb + 1)) (hi : i = 0 ∨ 2 ^ f.fb ≤ n) :
    Rounds f.mag rm neg (t * 2 ^ (f.qmin + (i : Int))) (i * 2 ^ f.fb + n) φ (i * 2 ^ f.fb + k) where
  nonneg := h.nonneg
  lt_one := h.lt_one
  place := by
    rw [mag_succ_of_binade hn hi, mag_binade hn.le hi, h.place]
    push_cast
    ring
  code := by
    have hodd : (i * 2 ^ f.fb + n) % 2 = n % 2 := by
      obtain ⟨j, hj⟩ := Nat.exists_eq_succ_of_ne_zero hfb.ne'
      rw [hj, pow_succ, ← mul_assoc]
      omega
    have hr : raises rm neg (i * 2 ^ f.fb + n) φ = raises rm neg n φ := by
      unfold raises
      rw [hodd]
    rw [hr, add_assoc, ← h.code]

end Fmt

end Sys2Proof.Machine
end

section
/-! What a code stands for, and the conversion of every exact value to a format (R159, R167, R168, R171). -/

namespace Sys2Proof.Machine

/-- A sign as a factor. -/
def signFactor (s : Bool) : ℚ := if s then -1 else 1

theorem rat?_fin_eq_signFactor_mul (s : Bool) (m : Nat) (e : Int) :
    (Num.fin s m e).rat? = some (signFactor s * ((m : ℚ) * 2 ^ e)) := by rw [Num.rat?_fin, mul_assoc, signFactor]

theorem signFactor_cases (s : Bool) : (s = false ∧ signFactor s = 1) ∨ (s = true ∧ signFactor s = -1) := by
  cases s <;> simp [signFactor]

theorem abs_signFactor_mul (s : Bool) (x : ℚ) : |signFactor s * x| = |x| := by
  cases s <;> simp [signFactor]

theorem abs_signFactor_mul_sub (s : Bool) (x y : ℚ) : |signFactor s * x - signFactor s * y| = |x - y| := by
  rw [← mul_sub, abs_signFactor_mul]

namespace Fmt

/-- The facts about a format's widths and special codes that its conversions rest on. -/
structure Regular (f : Fmt) : Prop where
  eb_pos     : 0 < f.eb
  fb_pos     : 0 < f.fb
  max_lt     : f.maxCode < f.signBit
  max_frac   : f.maxCode % 2 ^ f.fb ≠ 0
  cnan_lt    : f.cnan < 2 * f.signBit
  normal_max : 2 ^ f.fb ≤ f.maxCode
  cnan_exp   : f.flush = true → f.cnan / 2 ^ f.fb % 2 ^ f.eb ≠ 0

theorem regular_of_mem {f : Fmt} (hf : f ∈ [f64, f32, bf16, f16, e4m3, e5m2, e3m4, e3m2, e2m3, e2m1]) : f.Regular := by
  simp only [List.mem_cons, List.not_mem_nil, or_false] at hf
  rcases hf with rfl | rfl | rfl | rfl | rfl | rfl | rfl | rfl | rfl | rfl <;> constructor <;> decide

/-- The format with its subnormals kept. -/
def kept (f : Fmt) : Fmt := { f with flush := false }

variable {f : Fmt}

theorem Regular.kept (h : f.Regular) : f.kept.Regular where
  eb_pos := h.eb_pos
  fb_pos := h.fb_pos
  max_lt := h.max_lt
  max_frac := h.max_frac
  cnan_lt := h.cnan_lt
  normal_max := h.normal_max
  cnan_exp := nofun

/-! ## Codes with a sign -/

theorem signBit_pos (f : Fmt) : 0 < f.signBit := Nat.two_pow_pos _

theorem signBit_eq (f : Fmt) : f.signBit = 2 ^ f.fb * 2 ^ f.eb := by rw [signBit, pow_add, mul_comm]

theorem Regular.signBit_even (h : f.Regular) : f.signBit % 2 = 0 := by
  obtain ⟨j, hj⟩ := Nat.exists_eq_succ_of_ne_zero h.fb_pos.ne'
  rw [signBit_eq, hj, pow_succ]
  simp [Nat.mul_mod]

theorem signed_eq (f : Fmt) (neg : Bool) (c : Nat) : f.signed neg c = f.signBit * neg.toNat + c := by
  cases neg <;> simp [signed]

theorem signed_lt {neg : Bool} {c : Nat} (hc : c < f.signBit) : f.signed neg c < 2 * f.signBit := by
  cases neg <;> simp only [signed, if_true, Bool.false_eq_true, if_false] <;> omega

theorem signed_div {neg : Bool} {c : Nat} (hc : c < f.signBit) : f.signed neg c / f.signBit = neg.toNat := by
  rw [signed_eq, Nat.mul_add_div f.signBit_pos, Nat.div_eq_of_lt hc, add_zero]

theorem signed_mod {neg : Bool} {c : Nat} (hc : c < f.signBit) : f.signed neg c % f.signBit = c := by
  rw [signed_eq, Nat.mul_add_mod, Nat.mod_eq_of_lt hc]

theorem signed_mod_two (h : f.Regular) (neg : Bool) (c : Nat) : f.signed neg c % 2 = c % 2 := by
  rw [signed_eq, Nat.add_mod, Nat.mul_mod, h.signBit_even, zero_mul, Nat.zero_mod, zero_add, Nat.mod_mod]

/-- The sign of a code. -/
def negative (f : Fmt) (x : Nat) : Bool := x / f.signBit % 2 == 1

theorem signed_negative {x : Nat} (hx : x < 2 * f.signBit) : f.signed (f.negative x) (x % f.signBit) = x := by
  have hlt : x / f.signBit < 2 := Nat.div_lt_of_lt_mul (by omega)
  have hdm := Nat.div_add_mod x f.signBit
  rw [signed_eq, negative]
  rcases Nat.lt_or_ge (x / f.signBit) 1 with h | h
  · have h0 : x / f.signBit = 0 := Nat.lt_one_iff.1 h
    rw [h0] at hdm ⊢
    exact hdm
  · have h1 : x / f.signBit = 1 := le_antisymm (Nat.le_of_lt_succ hlt) h
    rw [h1] at hdm ⊢
    exact hdm

theorem toNat_negative {x : Nat} (hx : x < 2 * f.signBit) : (f.negative x).toNat = x / f.signBit := by
  rw [← signed_div (Nat.mod_lt x f.signBit_pos), signed_negative hx]

theorem negative_signed {neg : Bool} {c : Nat} (hc : c < f.signBit) : f.negative (f.signed neg c) = neg := by
  rw [negative, signed_div hc]
  cases neg <;> rfl

theorem negative_of_div {neg : Bool} {c : Nat} (hc : c / f.signBit = neg.toNat) : f.negative c = neg := by
  rw [negative, hc]
  cases neg <;> rfl

/-- The exponent field of a code. -/
theorem exponent_eq (f : Fmt) (x : Nat) : x / 2 ^ f.fb % 2 ^ f.eb = x % f.signBit / 2 ^ f.fb := by
  rw [signBit_eq, Nat.mod_mul_right_div_self]

theorem fraction_eq (f : Fmt) (x : Nat) : x % 2 ^ f.fb = x % f.signBit % 2 ^ f.fb := by
  rw [signBit_eq, Nat.mod_mod_of_dvd _ (Dvd.intro _ rfl)]

/-! ## Values of codes -/

/-- The codes above the largest finite one are the special ones of the format (R159). -/
theorem le_maxCode_iff (h : f.Regular) {c : Nat} (hc : c < f.signBit) :
    c ≤ f.maxCode ↔ ¬(f.top = .ieee ∧ c / 2 ^ f.fb = 2 ^ f.eb - 1) ∧ ¬(f.top = .nanOnly ∧ c = f.signBit - 1) := by
  have hpos := Nat.two_pow_pos f.fb
  have hmax := h.max_lt
  cases htop : f.top with
  | ieee =>
    have hdiv : c / 2 ^ f.fb < 2 ^ f.eb := Nat.div_lt_of_lt_mul (f.signBit_eq ▸ hc)
    have hinf : f.infCode ≤ c ↔ 2 ^ f.eb - 1 ≤ c / 2 ^ f.fb := (Nat.le_div_iff_mul_le hpos).symm
    have hone : 0 < f.infCode := Nat.mul_pos (Nat.sub_pos_of_lt (Nat.one_lt_two_pow h.eb_pos.ne')) hpos
    have hm : f.maxCode = f.infCode - 1 := by rw [maxCode, htop]
    simp only [true_and, reduceCtorEq, false_and, not_false_eq_true, and_true]
    omega
  | nanOnly =>
    have hm : f.maxCode = f.signBit - 2 := by rw [maxCode, htop, signBit]
    have := h.signBit_even
    have := f.signBit_pos
    simp only [reduceCtorEq, false_and, not_false_eq_true, true_and]
    omega
  | plain =>
    have hm : f.maxCode = f.signBit - 1 := by rw [maxCode, htop, signBit]
    simp only [reduceCtorEq, false_and, not_false_eq_true, true_and, iff_true]
    omega

/-- The value of a code, by its parts without the sign. -/
theorem value_eq (f : Fmt) (x : Nat) : f.value x =
    if f.top = .ieee ∧ x % f.signBit / 2 ^ f.fb = 2 ^ f.eb - 1 then
      (if x % f.signBit % 2 ^ f.fb = 0 then .inf (f.negative x) else .nan)
    else if f.top = .nanOnly ∧ x % f.signBit = f.signBit - 1 then .nan
    else if x % f.signBit / 2 ^ f.fb = 0 then
      (if f.flush then .fin (f.negative x) 0 0 else .fin (f.negative x) (x % f.signBit % 2 ^ f.fb) f.qmin)
    else .fin (f.negative x) (2 ^ f.fb + x % f.signBit % 2 ^ f.fb) (f.qmin + ((x % f.signBit / 2 ^ f.fb : Nat) : Int) - 1) := by
  unfold value negative
  simp only [exponent_eq, fraction_eq f x]

/-- The value of a code up to the largest finite one, in a format that keeps its subnormals. -/
theorem value_finite (h : f.Regular) (hk : f.flush = false) {x : Nat} (hx : x % f.signBit ≤ f.maxCode) :
    ∃ m e, f.value x = .fin (f.negative x) m e ∧ (m : ℚ) * 2 ^ e = f.mag (x % f.signBit) ∧ (m = 0 ↔ x % f.signBit = 0) := by
  have hpos := Nat.two_pow_pos f.fb
  have hmod := Nat.mod_lt (x % f.signBit) hpos
  have hdm := Nat.div_add_mod' (x % f.signBit) (2 ^ f.fb)
  obtain ⟨hieee, hnan⟩ := (le_maxCode_iff h (Nat.mod_lt x f.signBit_pos)).1 hx
  rw [value_eq, if_neg hieee, if_neg hnan]
  split
  next h0 =>
    rw [hk, if_neg Bool.false_ne_true]
    rw [h0] at hdm
    have hfrac : x % f.signBit % 2 ^ f.fb = x % f.signBit := by omega
    have hmag := mag_binade (f := f) (i := 0) (k := x % f.signBit) (by rw [pow_succ]; omega) (.inl rfl)
    rw [zero_mul, zero_add, Nat.cast_zero, add_zero] at hmag
    exact ⟨_, _, rfl, by rw [hfrac, hmag], by rw [hfrac]⟩
  next h0 =>
    obtain ⟨i, hi⟩ : ∃ i, x % f.signBit / 2 ^ f.fb = i + 1 := ⟨_, (Nat.sub_add_cancel (Nat.pos_of_ne_zero h0)).symm⟩
    rw [hi] at hdm ⊢
    have hmag := mag_binade (f := f) (i := i) (k := 2 ^ f.fb + x % f.signBit % 2 ^ f.fb) (by rw [pow_succ]; omega)
      (.inr (Nat.le_add_right _ _))
    have hc : i * 2 ^ f.fb + (2 ^ f.fb + x % f.signBit % 2 ^ f.fb) = x % f.signBit := by
      rw [Nat.add_mul] at hdm
      omega
    rw [hc] at hmag
    refine ⟨_, _, rfl, ?_, by omega⟩
    rw [hmag]
    push_cast
    ring_nf

/-- The number of a finite code; the other codes have none. -/
theorem rat?_value (h : f.Regular) (hk : f.flush = false) (x : Nat) : (f.value x).rat? =
    if x % f.signBit ≤ f.maxCode then some (signFactor (f.negative x) * f.mag (x % f.signBit)) else none := by
  split
  next hx =>
    obtain ⟨m, e, hv, hm, -⟩ := value_finite h hk hx
    rw [hv, rat?_fin_eq_signFactor_mul, hm]
  next hx =>
    rw [le_maxCode_iff h (Nat.mod_lt x f.signBit_pos)] at hx
    rw [value_eq]
    split
    · split <;> rfl
    next hieee => rw [if_pos (by tauto)]; rfl

theorem rat?_value_signed (h : f.Regular) (hk : f.flush = false) (neg : Bool) {c : Nat} (hc : c ≤ f.maxCode) :
    (f.value (f.signed neg c)).rat? = some (signFactor neg * f.mag c) := by
  have hlt := hc.trans_lt h.max_lt
  rw [rat?_value h hk, signed_mod hlt, negative_signed hlt, if_pos hc]

/-- The data of a format are the magnitudes up to the largest finite one, with both signs. -/
theorem isDatum_iff (h : f.Regular) (hk : f.flush = false) (z : ℚ) :
    f.isDatum z ↔ ∃ s j, j ≤ f.maxCode ∧ z = signFactor s * f.mag j := by
  constructor
  · rintro ⟨c, -, hz⟩
    rw [rat?_value h hk] at hz
    split at hz
    next hc => exact ⟨_, _, hc, (Option.some.inj hz).symm⟩
    next => cases hz
  · rintro ⟨s, j, hj, rfl⟩
    exact ⟨_, signed_lt (hj.trans_lt h.max_lt), rat?_value_signed h hk s hj⟩

theorem maxRat_eq (h : f.Regular) (hk : f.flush = false) : f.maxRat = f.mag f.maxCode := by
  have := rat?_value_signed h hk false le_rfl
  simp only [signed, Bool.false_eq_true, if_false] at this
  rw [maxRat, this]
  simp [signFactor]

/-- Half a unit above the largest finite value lies in the middle between it and the magnitude of the next code. -/
theorem overAt_eq (h : f.Regular) (hk : f.flush = false) : f.overAt = (f.mag f.maxCode + f.mag (f.maxCode + 1)) / 2 := by
  have := rat?_value_signed h hk false (Nat.sub_le f.maxCode 1)
  simp only [signed, Bool.false_eq_true, if_false] at this
  rw [overAt, maxRat_eq h hk, this, Option.getD_some, signFactor, if_neg Bool.false_ne_true, one_mul, mag_sub_pred h.max_frac]
  ring

/-! ## Rounding with a sign -/

section
variable (h : f.Regular) (hk : f.flush = false) {neg : Bool} {c : Nat} (hc : c ≤ f.maxCode) {x : ℚ}
include h hk hc

/-- What a mode other than RNE asks for toward zero, as the largest magnitude that is not above the number's. -/
theorem roundsTo_toward_zero {rm : RMode} (hrm : rm ≠ .rne) (ha : roundsAway rm neg = false) (hle : f.mag c ≤ x)
    (hbest : ∀ j ≤ f.maxCode, f.mag j ≤ x → j ≤ c) : f.roundsTo rm neg (signFactor neg * x) (f.signed neg c) := by
  have hlt := hc.trans_lt h.max_lt
  have hmag := f.mag_nonneg
  have hmono := f.mag_strictMono.monotone
  have hx := (hmag c).trans hle
  refine ⟨signed_lt hlt, signed_div hlt, _, rat?_value_signed h hk neg hc, ?_⟩
  cases rm with
  | rne => exact absurd rfl hrm
  | rz =>
    simp only [abs_signFactor_mul, abs_of_nonneg (hmag _), abs_of_nonneg hx]
    refine ⟨hle, fun z hz hzx => ?_⟩
    obtain ⟨s, j, hj, rfl⟩ := (isDatum_iff h hk z).1 hz
    rw [abs_signFactor_mul, abs_of_nonneg (hmag _)] at hzx ⊢
    exact hmono (hbest j hj hzx)
  | rd =>
    obtain rfl : neg = false := ha
    simp only [signFactor, Bool.false_eq_true, if_false, one_mul]
    refine ⟨hle, fun z hz hzx => ?_⟩
    obtain ⟨s, j, hj, rfl⟩ := (isDatum_iff h hk z).1 hz
    rcases signFactor_cases s with ⟨-, hs⟩ | ⟨-, hs⟩ <;> rw [hs] at hzx ⊢
    · rw [one_mul] at hzx ⊢
      exact hmono (hbest j hj hzx)
    · linarith [hmag j, hmag c]
  | ru =>
    obtain rfl : neg = true := by simpa [roundsAway] using ha
    simp only [signFactor, if_true, neg_one_mul, neg_le_neg_iff]
    refine ⟨hle, fun z hz hzx => ?_⟩
    obtain ⟨s, j, hj, rfl⟩ := (isDatum_iff h hk z).1 hz
    rcases signFactor_cases s with ⟨-, hs⟩ | ⟨-, hs⟩ <;> rw [hs] at hzx ⊢
    · linarith [hmag j, hmag c]
    · rw [neg_one_mul, neg_le_neg_iff] at hzx ⊢
      exact hmono (hbest j hj hzx)

/-- What a mode asks for away from zero, as the least magnitude that is not below the number's. -/
theorem roundsTo_away_from_zero {rm : RMode} (ha : roundsAway rm neg = true) (hx : 0 < x) (hle : x ≤ f.mag c)
    (hbest : ∀ j ≤ f.maxCode, x ≤ f.mag j → c ≤ j) : f.roundsTo rm neg (signFactor neg * x) (f.signed neg c) := by
  have hlt := hc.trans_lt h.max_lt
  have hmag := f.mag_nonneg
  have hmono := f.mag_strictMono.monotone
  refine ⟨signed_lt hlt, signed_div hlt, _, rat?_value_signed h hk neg hc, ?_⟩
  cases rm with
  | rne | rz => cases ha
  | rd =>
    obtain rfl : neg = true := ha
    simp only [signFactor, if_true, neg_one_mul, neg_le_neg_iff]
    refine ⟨hle, fun z hz hzx => ?_⟩
    obtain ⟨s, j, hj, rfl⟩ := (isDatum_iff h hk z).1 hz
    rcases signFactor_cases s with ⟨-, hs⟩ | ⟨-, hs⟩ <;> rw [hs] at hzx ⊢
    · linarith [hmag j]
    · rw [neg_one_mul, neg_le_neg_iff] at hzx ⊢
      exact hmono (hbest j hj hzx)
  | ru =>
    obtain rfl : neg = false := by simpa [roundsAway] using ha
    simp only [signFactor, Bool.false_eq_true, if_false, one_mul]
    refine ⟨hle, fun z hz hzx => ?_⟩
    obtain ⟨s, j, hj, rfl⟩ := (isDatum_iff h hk z).1 hz
    rcases signFactor_cases s with ⟨-, hs⟩ | ⟨-, hs⟩ <;> rw [hs] at hzx ⊢
    · rw [one_mul] at hzx ⊢
      exact hmono (hbest j hj hzx)
    · linarith [hmag j]

/-- What RNE asks for, as the nearest magnitude: the data of the other sign are no nearer than zero is. -/
theorem roundsTo_nearest (hx : 0 < x)
    (hbest : ∀ j, |f.mag c - x| ≤ |f.mag j - x| ∧ (|f.mag c - x| = |f.mag j - x| → j ≠ c → c % 2 = 0)) :
    f.roundsTo .rne neg (signFactor neg * x) (f.signed neg c) := by
  have hlt := hc.trans_lt h.max_lt
  have hmag := f.mag_nonneg
  refine ⟨signed_lt hlt, signed_div hlt, _, rat?_value_signed h hk neg hc, fun z hz => ?_⟩
  obtain ⟨s, j, hj, rfl⟩ := (isDatum_iff h hk z).1 hz
  rw [abs_signFactor_mul_sub, signed_mod_two h]
  obtain rfl | hs := eq_or_ne s neg
  · rw [abs_signFactor_mul_sub]
    exact ⟨(hbest j).1, fun ht hne => (hbest j).2 ht fun hjc => hne (by rw [hjc])⟩
  · have hother : |signFactor s * f.mag j - signFactor neg * x| = f.mag j + x := by
      have : signFactor s = -signFactor neg := by cases s <;> cases neg <;> simp_all [signFactor]
      rw [this, neg_mul, ← neg_add', abs_neg, ← mul_add, abs_signFactor_mul, abs_of_nonneg (by linarith [hmag j])]
    obtain ⟨hzero, heven⟩ := hbest 0
    rw [mag_zero, zero_sub, abs_neg, abs_of_pos hx] at hzero heven
    rw [hother]
    refine ⟨by linarith [hmag j], fun ht hne => heven (by linarith [hmag j]) fun h0 => hne ?_⟩
    have hj0 : f.mag j = 0 := by
      have := hmag j
      rw [ht] at hzero
      linarith
    rw [← h0, hj0, mag_zero, mul_zero, mul_zero]

end

end Fmt

end Sys2Proof.Machine
end

section
/-! The one rounding function against the rules of rounding: the conversion of every exact value to every format (R167, R168, R171). -/

namespace Sys2Proof.Machine.Fmt

variable {f : Fmt}

/-! ## The code that a magnitude is rounded to -/

/-- Rounding goes by the units that the last place of the value's binade has. -/
theorem round_of_scale2 {rm : RMode} {sat neg : Bool} {n d a b : Nat} {e q : Int}
    (hq : q = max (log2Ratio n d + e - (f.fb : Int)) f.qmin) (hab : scale2 n d (e - q) = (a, b)) :
    f.round rm sat neg n d e =
      if f.maxCode < (q - f.qmin).toNat * 2 ^ f.fb + roundNat rm neg a b ||
          (rm = .rne && (q - f.qmin).toNat * 2 ^ f.fb + roundNat rm neg a b = f.maxCode && 2 * (a % b) = b && a / b = roundNat rm neg a b)
      then f.overflow rm sat neg
      else if f.flush && (q - f.qmin).toNat * 2 ^ f.fb + roundNat rm neg a b < 2 ^ f.fb then f.signed neg 0
      else f.signed neg ((q - f.qmin).toNat * 2 ^ f.fb + roundNat rm neg a b) := by
  subst hq
  simp only [Fmt.round, hab]

/-- In these units a number has at most the digits of a fraction and the leading one, and has them all above the lowest binade. -/
theorem units_bounds {n d a b i : Nat} (hn : 0 < n) (hd : 0 < d) (hb : 0 < b) {e q : Int}
    (hq : q = max (log2Ratio n d + e - (f.fb : Int)) f.qmin) (hi : i = (q - f.qmin).toNat)
    (hratio : (a / b : ℚ) = n / d * 2 ^ (e - q)) : a / b < 2 ^ (f.fb + 1) ∧ (i = 0 ∨ 2 ^ f.fb ≤ a / b) := by
  obtain ⟨hlow, hup⟩ := log2Ratio_spec hn hd
  constructor
  · rw [Nat.div_lt_iff_lt_mul hb, ← Nat.cast_lt (α := ℚ)]
    push_cast
    rw [← div_lt_iff₀ (Nat.cast_pos.2 hb), hratio]
    calc (n / d * 2 ^ (e - q) : ℚ) < 2 ^ (log2Ratio n d + 1) * 2 ^ (e - q) := by gcongr
      _ ≤ 2 ^ ((f.fb : Int) + 1) := by
        rw [← zpow_add₀ two_ne_zero]
        exact zpow_le_zpow_right₀ one_le_two (by omega)
      _ = 2 ^ (f.fb + 1) := by norm_cast
  · refine (Nat.eq_zero_or_pos i).imp_right fun hpos => ?_
    rw [Nat.le_div_iff_mul_le hb, ← Nat.cast_le (α := ℚ)]
    push_cast
    rw [← le_div_iff₀ (Nat.cast_pos.2 hb), hratio]
    calc (2 ^ f.fb : ℚ) = 2 ^ log2Ratio n d * 2 ^ (e - q) := by
          rw [← zpow_add₀ two_ne_zero, ← zpow_natCast]
          congr 1
          omega
      _ ≤ n / d * 2 ^ (e - q) := by gcongr

/-- A fraction is rounded on the magnitudes of the format; what is rounded beyond the largest finite one overflows, and so does what lies
half a unit above it to nearest, whatever the evenness of its code. -/
theorem round_spec (h : f.Regular) (rm : RMode) (sat neg : Bool) {n d : Nat} (hn : 0 < n) (hd : 0 < d) (e : Int) :
    ∃ m φ c, Rounds f.mag rm neg (n / d * 2 ^ e) m φ c ∧ f.round rm sat neg n d e =
      if f.maxCode < c ∨ (rm = .rne ∧ c = f.maxCode ∧ φ = 1 / 2 ∧ m = c) then f.overflow rm sat neg
      else if f.flush && decide (c < 2 ^ f.fb) then f.signed neg 0 else f.signed neg c := by
  obtain ⟨q, hq⟩ : ∃ q, q = max (log2Ratio n d + e - (f.fb : Int)) f.qmin := ⟨_, rfl⟩
  obtain ⟨i, hi⟩ : ∃ i : Nat, i = (q - f.qmin).toNat := ⟨_, rfl⟩
  obtain ⟨a, b, hab⟩ : ∃ a b, scale2 n d (e - q) = (a, b) := ⟨_, _, rfl⟩
  have hb : 0 < b := by simpa [hab] using scale2_pos n hd (e - q)
  have hratio : (a / b : ℚ) = n / d * 2 ^ (e - q) := by simpa [hab] using scale2_ratio n d (e - q)
  obtain ⟨hlt, hge⟩ := units_bounds hn hd hb hq hi hratio
  have hr := rounds_mag (roundNat_rounds rm neg a hb) h.fb_pos hlt hge
  have hx : (a / b : ℚ) * 2 ^ (f.qmin + (i : Int)) = n / d * 2 ^ e := by
    rw [hratio, (by omega : f.qmin + (i : Int) = q), mul_assoc, ← zpow_add₀ two_ne_zero, sub_add_cancel]
  have htie : 2 * (a % b) = b ↔ ((a % b : Nat) / b : ℚ) = 1 / 2 := by
    rw [div_eq_iff (Nat.cast_ne_zero.2 hb.ne'), ← Nat.cast_inj (R := ℚ)]
    push_cast
    constructor <;> intro h <;> linarith
  rw [hx] at hr
  refine ⟨_, _, _, hr, ?_⟩
  rw [round_of_scale2 hq hab, ← hi]
  refine if_congr ?_ rfl rfl
  simp only [Bool.or_eq_true, Bool.and_eq_true, decide_eq_true_eq, and_assoc, Nat.add_left_cancel_iff, htie]

/-- Toward zero an overflow becomes the largest finite value; to nearest and away from zero it is what the table gives (R168). -/
theorem overflow_eq (f : Fmt) (rm : RMode) (sat neg : Bool) :
    f.overflow rm sat neg = if rm ≠ .rne ∧ roundsAway rm neg = false then f.signed neg f.maxCode else f.beyond sat neg := by
  cases rm <;> cases neg <;> simp [overflow, beyond, roundsAway]

/-! ## Conversions -/

/-- Toward zero nothing overflows. -/
theorem not_overflows_toward_zero (h : f.Regular) (hk : f.flush = false) {rm : RMode} {neg : Bool} {x : ℚ} (hrm : rm ≠ .rne)
    (ha : roundsAway rm neg = false) (hx : 0 < x) : ¬f.overflows rm (signFactor neg * x) := by
  have hmax := f.mag_nonneg f.maxCode
  cases rm with
  | rne => exact absurd rfl hrm
  | rz => exact id
  | rd =>
    obtain rfl : neg = false := ha
    simp only [overflows, maxRat_eq h hk, signFactor, Bool.false_eq_true, if_false, one_mul, not_lt]
    linarith
  | ru =>
    obtain rfl : neg = true := by simpa [roundsAway] using ha
    simp only [overflows, maxRat_eq h hk, signFactor, if_true, neg_one_mul, not_lt]
    linarith

/-- Away from zero every number above the largest finite one overflows. -/
theorem overflows_away_iff (h : f.Regular) (hk : f.flush = false) {rm : RMode} {neg : Bool} {x : ℚ} (ha : roundsAway rm neg = true) :
    f.overflows rm (signFactor neg * x) ↔ f.mag f.maxCode < x := by
  cases rm with
  | rne | rz => cases ha
  | rd =>
    obtain rfl : neg = true := ha
    simp only [overflows, maxRat_eq h hk, signFactor, if_true, neg_one_mul, neg_lt_neg_iff]
  | ru =>
    obtain rfl : neg = false := by simpa [roundsAway] using ha
    simp only [overflows, maxRat_eq h hk, signFactor, Bool.false_eq_true, if_false, one_mul]

/-- To nearest, a number overflows half a unit above the largest finite one. -/
theorem overflows_nearest_iff (h : f.Regular) (hk : f.flush = false) {neg : Bool} {x : ℚ} (hx : 0 < x) :
    f.overflows .rne (signFactor neg * x) ↔ (f.mag f.maxCode + f.mag (f.maxCode + 1)) / 2 ≤ x := by
  rw [overflows, overAt_eq h hk, abs_signFactor_mul, abs_of_pos hx]

/-- The rounding of a nonzero fraction, in a format that keeps its subnormals: the table's code where it overflows, otherwise the datum
that the mode asks for (R167, R168). -/
theorem round_converts (h : f.Regular) (hk : f.flush = false) (rm : RMode) (sat neg : Bool) {n d : Nat} (hn : 0 < n) (hd : 0 < d)
    (e : Int) :
    (f.overflows rm (signFactor neg * (n / d * 2 ^ e)) → f.round rm sat neg n d e = f.beyond sat neg) ∧
    (¬f.overflows rm (signFactor neg * (n / d * 2 ^ e)) →
      f.roundsTo rm neg (signFactor neg * (n / d * 2 ^ e)) (f.round rm sat neg n d e)) := by
  obtain ⟨m, φ, c, hr, hround⟩ := round_spec h rm sat neg hn hd e
  have hx : (0 : ℚ) < n / d * 2 ^ e := by positivity
  have hg := f.mag_strictMono
  rw [hround, hk, Bool.false_and, if_neg Bool.false_ne_true, overflow_eq]
  generalize (n / d * 2 ^ e : ℚ) = x at hr hx
  by_cases hrm : rm = .rne
  · subst hrm
    rw [overflows_nearest_iff h hk hx, ← hr.beyond_iff hg]
    simp only [ne_eq, not_true_eq_false, false_and, if_false, true_and]
    refine ⟨fun hov => if_pos hov, fun hov => ?_⟩
    rw [if_neg hov]
    exact roundsTo_nearest h hk (not_lt.1 fun hc => hov (.inl hc)) hx (hr.nearest hg)
  · simp only [hrm, false_and, or_false, ne_eq, not_false_eq_true, true_and]
    cases ha : roundsAway rm neg with
    | false =>
      obtain ⟨hle, hbest⟩ := hr.toward_zero hg hrm ha
      refine ⟨fun hov => absurd hov (not_overflows_toward_zero h hk hrm ha hx), fun _ => ?_⟩
      rw [if_pos rfl]
      split
      next hc =>
        exact roundsTo_toward_zero h hk le_rfl hrm ha ((hg.monotone hc.le).trans hle) fun j hj _ => hj
      next hc => exact roundsTo_toward_zero h hk (not_lt.1 hc) hrm ha hle fun j _ hj => hbest j hj
    | true =>
      obtain ⟨hle, hbest⟩ := hr.away_from_zero hg ha
      have hov : f.mag f.maxCode < x ↔ f.maxCode < c :=
        ⟨fun hlt => hg.lt_iff_lt.1 (hlt.trans_le hle), fun hlt => not_le.1 fun hxm => absurd (hbest _ hxm) (not_le.2 hlt)⟩
      rw [overflows_away_iff h hk ha, hov, if_neg Bool.true_eq_false.mp]
      refine ⟨fun hc => if_pos hc, fun hc => ?_⟩
      rw [if_neg hc]
      exact roundsTo_away_from_zero h hk (not_lt.1 hc) ha hx hle fun j _ hj => hbest j hj

/-- The conversion of a finite value that is not zero rounds its magnitude. -/
theorem encode_fin (f : Fmt) (rm : RMode) (sat neg : Bool) {m : Nat} (hm : m ≠ 0) (e : Int) :
    f.encode rm sat (.fin neg m e) = f.round rm sat neg m 1 e := by
  obtain ⟨k, rfl⟩ := Nat.exists_eq_succ_of_ne_zero hm
  rfl

/-- The conversion to a format that keeps its subnormals. -/
theorem encode_converts (h : f.Regular) (hk : f.flush = false) (rm : RMode) (sat : Bool) (v : Num) :
    f.converts rm sat v (f.encode rm sat v) := by
  cases v with
  | nan => rfl
  | inf neg => rfl
  | fin neg m e =>
    refine ⟨fun hm => by subst hm; rfl, fun hm x hx => ?_⟩
    have hx' : signFactor neg * ((m : ℚ) / (1 : Nat) * 2 ^ e) = x := by
      rw [rat?_fin_eq_signFactor_mul] at hx
      rw [Nat.cast_one, div_one]
      exact Option.some.inj hx
    rw [encode_fin f rm sat neg hm, ← hx']
    exact round_converts h hk rm sat neg (Nat.pos_of_ne_zero hm) one_pos e

theorem infCode_lt (f : Fmt) : f.infCode < f.signBit := by
  rw [infCode, signBit_eq, mul_comm]
  gcongr
  exact Nat.sub_lt (Nat.two_pow_pos _) one_pos

theorem beyond_lt (h : f.Regular) (sat neg : Bool) : f.beyond sat neg < 2 * f.signBit := by
  unfold beyond
  split
  · exact signed_lt h.max_lt
  · split
    · exact signed_lt f.infCode_lt
    · exact h.cnan_lt

theorem converts_lt (h : f.Regular) {rm : RMode} {sat : Bool} {v : Num} {c : Nat} (hc : f.converts rm sat v c) : c < 2 * f.signBit := by
  cases v with
  | nan =>
    obtain rfl : c = _ := hc
    split
    · exact Nat.mul_pos two_pos f.signBit_pos
    · exact h.cnan_lt
  | inf neg =>
    obtain rfl : c = _ := hc
    exact beyond_lt h sat neg
  | fin neg m e =>
    obtain ⟨hz, hnz⟩ := hc
    by_cases hm : m = 0
    · rw [hz hm]
      exact signed_lt f.signBit_pos
    · obtain ⟨hov, hr⟩ := hnz hm _ rfl
      by_cases ho : f.overflows rm ((if neg then -1 else 1) * (m : ℚ) * (2 : ℚ) ^ e)
      · rw [hov ho]
        exact beyond_lt h sat neg
      · exact (hr ho).1

/-! ## Formats that flush -/

/-- A code with a flushed subnormal as a zero of its sign (R171). -/
def flushed (f : Fmt) (k : Nat) : Nat := if f.flush = true ∧ k / 2 ^ f.fb % 2 ^ f.eb = 0 then k / f.signBit * f.signBit else k

theorem flushed_le (f : Fmt) (k : Nat) : f.flushed k ≤ k := by
  unfold flushed
  split
  · exact Nat.div_mul_le_self k f.signBit
  · exact le_rfl

theorem flushed_of_normal {k : Nat} (hk : f.flush = true → k / 2 ^ f.fb % 2 ^ f.eb ≠ 0) : f.flushed k = k :=
  if_neg fun hc => hk hc.1 hc.2

theorem flushed_signed {neg : Bool} {c : Nat} (hc : c < f.signBit) :
    f.flushed (f.signed neg c) = if f.flush && decide (c < 2 ^ f.fb) then f.signed neg 0 else f.signed neg c := by
  unfold flushed
  rw [exponent_eq, signed_mod hc, signed_div hc]
  refine if_congr (by simp) ?_ rfl
  rw [signed_eq, mul_comm, add_zero]

theorem flushed_signed_of_le {neg : Bool} {c : Nat} (hc : c < f.signBit) (hle : 2 ^ f.fb ≤ c) :
    f.flushed (f.signed neg c) = f.signed neg c := by
  rw [flushed_signed hc, decide_eq_false (not_lt.2 hle), Bool.and_false, if_neg Bool.false_ne_true]

theorem flushed_beyond (h : f.Regular) (sat neg : Bool) : f.flushed (f.beyond sat neg) = f.beyond sat neg := by
  unfold beyond
  split
  · exact flushed_signed_of_le h.max_lt h.normal_max
  · split
    next ht =>
      have hle : f.maxCode ≤ f.infCode := by rw [maxCode, ht]; exact Nat.sub_le _ _
      exact flushed_signed_of_le f.infCode_lt (h.normal_max.trans hle)
    next => exact flushed_of_normal h.cnan_exp

theorem flushed_overflow (h : f.Regular) (rm : RMode) (sat neg : Bool) : f.flushed (f.overflow rm sat neg) = f.overflow rm sat neg := by
  rw [overflow_eq]
  split
  · exact flushed_signed_of_le h.max_lt h.normal_max
  · exact flushed_beyond h sat neg

/-- Flushing what has been rounded is flushing the code: what overflows is no subnormal. -/
theorem flushed_ite (h : f.Regular) (rm : RMode) (sat neg : Bool) {ov : Bool} {c : Nat} (hc : ov = false → c ≤ f.maxCode) :
    f.flushed (if ov then f.overflow rm sat neg else if false && decide (c < 2 ^ f.fb) then f.signed neg 0 else f.signed neg c) =
      if ov then f.overflow rm sat neg else if f.flush && decide (c < 2 ^ f.fb) then f.signed neg 0 else f.signed neg c := by
  cases ov with
  | true => exact flushed_overflow h rm sat neg
  | false => exact flushed_signed ((hc rfl).trans_lt h.max_lt)

theorem round_eq_flushed (h : f.Regular) (rm : RMode) (sat neg : Bool) (n d : Nat) (e : Int) :
    f.round rm sat neg n d e = f.flushed (f.kept.round rm sat neg n d e) := by
  obtain ⟨a, b, hab⟩ : ∃ a b, scale2 n d (e - max (log2Ratio n d + e - (f.fb : Int)) f.qmin) = (a, b) := ⟨_, _, rfl⟩
  rw [round_of_scale2 rfl hab, round_of_scale2 (f := f.kept) rfl hab]
  refine (flushed_ite h rm sat neg fun hov => ?_).symm
  rw [Bool.or_eq_false_iff, decide_eq_false_iff_not, not_lt] at hov
  exact hov.1

/-- A format that flushes gives what it would give if it kept its subnormals, flushed. -/
theorem encode_eq_flushed (h : f.Regular) (rm : RMode) (sat : Bool) (v : Num) :
    f.encode rm sat v = f.flushed (f.kept.encode rm sat v) := by
  cases v with
  | nan =>
    show (if f.top = .plain then 0 else f.cnan) = f.flushed (if f.top = .plain then 0 else f.cnan)
    split
    · exact (Nat.le_zero.1 (f.flushed_le 0)).symm
    · exact (flushed_of_normal h.cnan_exp).symm
  | inf neg => exact (flushed_beyond h sat neg).symm
  | fin neg m e =>
    by_cases hm : m = 0
    · subst hm
      show f.signed neg 0 = f.flushed (f.signed neg 0)
      rw [flushed_signed f.signBit_pos, ite_self]
    · rw [encode_fin f rm sat neg hm, encode_fin f.kept rm sat neg hm]
      exact round_eq_flushed h rm sat neg m 1 e

/-- The conversion of every value to every format is what the rules say (R168, R171). -/
theorem encode_takes (h : f.Regular) (rm : RMode) (sat : Bool) (v : Num) : f.takes rm sat v (f.encode rm sat v) :=
  ⟨f.kept.encode rm sat v, encode_converts h.kept rfl rm sat v, encode_eq_flushed h rm sat v⟩

theorem encode_lt (h : f.Regular) (rm : RMode) (sat : Bool) (v : Num) : f.encode rm sat v < 2 * f.signBit := by
  rw [encode_eq_flushed h]
  exact (f.flushed_le _).trans_lt (converts_lt h.kept (encode_converts h.kept rfl rm sat v))

/-! ## Rounding to nearest -/

theorem value_infinity (ht : f.top = .ieee) (s : Bool) : f.value (f.signed s f.infCode) = .inf s := by
  have hlt := f.infCode_lt
  rw [value_eq, signed_mod hlt, negative_signed hlt, infCode, Nat.mul_div_cancel _ (Nat.two_pow_pos _), Nat.mul_mod_left, if_pos ⟨ht, rfl⟩,
    if_pos rfl]

theorem beyond_of_ieee (ht : f.top = .ieee) (s : Bool) : f.beyond false s = f.signed s f.infCode := by simp [beyond, ht]

theorem overAt_pos (h : f.Regular) (hk : f.flush = false) : 0 < f.overAt := by
  have := f.mag_strictMono f.maxCode.lt_succ_self
  rw [overAt_eq h hk]
  linarith [f.mag_nonneg f.maxCode]

section
variable (h : f.Regular) (hk : f.flush = false) {s : Bool} {m : Nat} {e : Int} {x : ℚ} (hx : (Num.fin s m e).rat? = some x)
include h hk hx

/-- What overflows to nearest becomes the infinity of its sign, where the format has one. -/
theorem value_rne_of_overAt_le (ht : f.top = .ieee) (ho : f.overAt ≤ |x|) : f.value (f.rne (.fin s m e)) = .inf s := by
  obtain ⟨-, hnz⟩ := encode_converts h hk .rne false (.fin s m e)
  have hm : m ≠ 0 := by
    rintro rfl
    have hx0 : x = 0 := by simpa using hx.symm
    rw [hx0, abs_zero] at ho
    exact absurd (overAt_pos h hk) (not_lt.2 ho)
  rw [rne, (hnz hm x hx).1 ho, beyond_of_ieee ht, value_infinity ht]

/-- What does not overflow to nearest becomes the nearest datum; a zero stays one. -/
theorem rne_of_lt_overAt (ho : |x| < f.overAt) : ∃ y, (f.value (f.rne (.fin s m e))).rat? = some y ∧
    ∀ z, f.isDatum z → |y - x| ≤ |z - x| ∧ (|y - x| = |z - x| → y ≠ z → f.rne (.fin s m e) % 2 = 0) := by
  obtain ⟨hz, hnz⟩ := encode_converts h hk .rne false (.fin s m e)
  by_cases hm : m = 0
  · have hx0 : x = 0 := by simpa [hm] using hx.symm
    refine ⟨0, ?_, fun z _ => ⟨?_, fun ht hne => absurd ?_ hne⟩⟩
    · rw [rne, hz hm, rat?_value_signed h hk s (Nat.zero_le _), mag_zero, mul_zero]
    · rw [hx0, sub_zero, abs_zero]
      exact abs_nonneg _
    · rw [hx0, sub_zero, abs_zero, sub_zero] at ht
      exact (abs_eq_zero.1 ht.symm).symm
  · obtain ⟨-, -, y, hy, hbest⟩ := (hnz hm x hx).2 (not_le.2 ho)
    exact ⟨y, hy, hbest⟩

end

end Sys2Proof.Machine.Fmt

namespace Sys2Proof
open Machine

/-- Settles O13: the three formats keep their subnormals and have infinities, so that the conversion of a value is the datum nearest it or,
where it overflows, an infinity, which is no number. -/
theorem roundsToNearestEven : Obligations.RoundsToNearestEven := by
  intro f hf s m e x hx
  have h : f.Regular := Fmt.regular_of_mem (by rcases hf with rfl | rfl | rfl <;> simp)
  have hk : f.flush = false := by rcases hf with rfl | rfl | rfl <;> rfl
  have ht : f.top = .ieee := by rcases hf with rfl | rfl | rfl <;> rfl
  refine ⟨fun y z c hy hz hc => ?_, Fmt.value_rne_of_overAt_le h hk hx ht, fun ho => ?_⟩
  · rcases lt_or_ge |x| f.overAt with ho | ho
    · obtain ⟨y', hy', hbest⟩ := Fmt.rne_of_lt_overAt h hk hx ho
      obtain rfl : y' = y := Option.some.inj (hy'.symm.trans hy)
      exact hbest z ⟨c, hc, hz⟩
    · rw [Fmt.value_rne_of_overAt_le h hk hx ht ho] at hy
      cases hy
  · obtain ⟨y, hy, -⟩ := Fmt.rne_of_lt_overAt h hk hx ho
    exact ⟨y, hy⟩

end Sys2Proof
end

section
/-! Floating-point arithmetic: every result is the exact value, rounded once (R176, R199, R207, R218). -/

namespace Sys2Proof.Machine

section
variable {i : Instr} {g : Pred} {d : VReg}

theorem laneResult_of_eq {f f' : Regs → Nat → Word} (hi : ∀ s, exec i s = s.laneOp g d f) (hf : ∀ r l, f r l = f' r l) :
    LaneResult i g d f' := by
  obtain rfl : f = f' := funext fun r => funext (hf r)
  exact laneOp_result hi

theorem laneResult2_of_eq {f f' : Regs → Nat → DWord} (hi : ∀ s, exec i s = s.laneOp2 g d f) (hf : ∀ r l, f r l = f' r l) :
    LaneResult2 i g d f' := by
  obtain rfl : f = f' := funext fun r => funext (hf r)
  exact laneOp2_result hi

end

/-! ## Packed words (R176) -/

theorem toNat_low_half (x : Word) : (x.extractLsb' 0 16).toNat = x.toNat % 65536 := by
  simp [BitVec.extractLsb'_toNat]

theorem toNat_high_half (x : Word) : (x.extractLsb' 16 16).toNat = x.toNat / 65536 := by
  rw [BitVec.extractLsb'_toNat, Nat.shiftRight_eq_div_pow]
  have := x.isLt
  omega

/-- Two codes of 16 bits in one word. -/
theorem ofNat_add_mul_eq_append {lo : Nat} (hlo : lo < 65536) (hi : Nat) :
    BitVec.ofNat 32 (lo + 65536 * hi) = (BitVec.ofNat 16 hi ++ BitVec.ofNat 16 lo : Word) := by
  apply BitVec.eq_of_toNat_eq
  have := Nat.mod_lt hi (by decide : 0 < 2 ^ 16)
  rw [BitVec.toNat_append, BitVec.toNat_ofNat, BitVec.toNat_ofNat, BitVec.toNat_ofNat, Nat.mod_eq_of_lt (a := lo) hlo,
    ← Nat.shiftLeft_add_eq_or_of_lt hlo, Nat.shiftLeft_eq]
  omega

section
variable {f : Fmt} (hf : ∀ v, f.rne v < 65536) (a b d : Word)
include hf

theorem x2op_eq_pairOf (o : Num → Num → Num) :
    x2op f o a b = pairOf f (o (lowOf f a) (lowOf f b)) (o (highOf f a) (highOf f b)) := by
  unfold x2op pairOf lowOf highOf
  simp only [toNat_low_half, toNat_high_half]
  exact ofNat_add_mul_eq_append (hf _) _

theorem x2fma_eq_pairOf : x2fma f a b d =
    pairOf f (((lowOf f a).mul (lowOf f b)).add (lowOf f d)) (((highOf f a).mul (highOf f b)).add (highOf f d)) := by
  unfold x2fma pairOf lowOf highOf
  simp only [toNat_low_half, toNat_high_half]
  exact ofNat_add_mul_eq_append (hf _) _

end

section
variable {f : Fmt} (hf : ∀ v, f.rne v < 65536) {i : Instr} {g : Pred} {d : VReg} {a b : Src}
include hf

theorem laneResult_x2op {o : Num → Num → Num} (hi : ∀ s, exec i s = s.laneOp g d (fun r l => x2op f o (r.src a l) (r.src b l))) :
    LaneResult i g d (fun r l => pairOf f (o (lowOf f (r.src a l)) (lowOf f (r.src b l))) (o (highOf f (r.src a l)) (highOf f (r.src b l)))) :=
  laneResult_of_eq hi fun _ _ => x2op_eq_pairOf hf _ _ o

theorem laneResult_x2fma (hi : ∀ s, exec i s = s.laneOp g d (fun r l => x2fma f (r.src a l) (r.src b l) (r.getV d.val l))) :
    LaneResult i g d (fun r l => pairOf f (((lowOf f (r.src a l)).mul (lowOf f (r.src b l))).add (lowOf f (r.getV d.val l)))
      (((highOf f (r.src a l)).mul (highOf f (r.src b l))).add (highOf f (r.getV d.val l)))) :=
  laneResult_of_eq hi fun r l => x2fma_eq_pairOf hf _ _ (r.getV d.val l)

end

theorem rne_f16_lt (v : Num) : Fmt.f16.rne v < 65536 := Fmt.encode_lt (Fmt.regular_of_mem (by simp)) .rne false v

theorem rne_bf16_lt (v : Num) : Fmt.bf16.rne v < 65536 := Fmt.encode_lt (Fmt.regular_of_mem (by simp)) .rne false v

end Sys2Proof.Machine

namespace Sys2Proof
open Machine

/-- Settles O10: each instruction computes its exact value in every lane or for the group and rounds it once; the packed forms keep their
halves apart because a 16-bit code has no more bits. -/
theorem floatArithmetic : Obligations.FloatArithmetic :=
  ⟨fun _ _ _ _ _ _ _ _ => ⟨laneOp_result fun _ => rfl, laneOp_result fun _ => rfl, laneOp_result fun _ => rfl, laneOp_result fun _ => rfl,
    laneOp_result fun _ => rfl, laneOp_result fun _ => rfl, laneOp2_result fun _ => rfl, laneOp2_result fun _ => rfl,
    laneOp2_result fun _ => rfl, laneOp2_result fun _ => rfl, uniOp_result fun _ => rfl, uniOp_result fun _ => rfl,
    uniOp_result fun _ => rfl⟩,
   fun _ _ _ _ => ⟨laneResult_x2op rne_f16_lt fun _ => rfl, laneResult_x2op rne_f16_lt fun _ => rfl, laneResult_x2fma rne_f16_lt fun _ => rfl,
    laneResult_x2op rne_bf16_lt fun _ => rfl, laneResult_x2op rne_bf16_lt fun _ => rfl, laneResult_x2fma rne_bf16_lt fun _ => rfl⟩⟩

end Sys2Proof
end

section
/-! Rounding to an integer, and what an integer conversion gives (R167, R169, R212). -/

namespace Sys2Proof.Machine

/-- An integer of a sign and a magnitude. -/
def signedInt (neg : Bool) (k : Nat) : Int := if neg then -(k : Int) else k

theorem cast_signedInt (neg : Bool) (k : Nat) : (signedInt neg k : ℚ) = signFactor neg * k := by
  cases neg <;> simp [signedInt, signFactor]

/-- A magnitude that is rounded to an integer is what the rule asks for, with its sign. -/
theorem Rounds.intNear {rm : RMode} {neg : Bool} {t φ : ℚ} {n k : Nat} (h : Rounds Nat.cast rm neg t n φ k) :
    intNear rm (signFactor neg * t) (signedInt neg k) := by
  have hg : StrictMono (Nat.cast : Nat → ℚ) := Nat.strictMono_cast
  have ht : 0 ≤ t := (Nat.cast_nonneg n).trans (h.floor_le hg)
  have hk : (0 : ℚ) ≤ k := Nat.cast_nonneg k
  have floor (hrm : rm ≠ .rne) (ha : roundsAway rm neg = false) : (k : ℚ) ≤ t ∧ t < k + 1 := by
    obtain ⟨hle, hbest⟩ := h.toward_zero hg hrm ha
    refine ⟨hle, not_le.1 fun hc => ?_⟩
    have := hbest (k + 1) (by push_cast; exact hc)
    omega
  have ceil (ha : roundsAway rm neg = true) : t ≤ k ∧ (k : ℚ) - 1 < t := by
    obtain ⟨hle, hbest⟩ := h.away_from_zero hg ha
    refine ⟨hle, ?_⟩
    rcases Nat.eq_zero_or_pos k with rfl | hpos
    · rw [Nat.cast_zero]
      linarith
    · refine not_le.1 fun hc => ?_
      have := hbest (k - 1) (by rw [Nat.cast_pred hpos]; exact hc)
      omega
  unfold Sys2Proof.Machine.intNear
  rw [cast_signedInt]
  cases rm with
  | rne =>
    have hstep : t = n + φ := by
      have := h.place
      push_cast at this
      linarith
    have hdist : |(k : ℚ) - t| ≤ 1 / 2 ∧ (|(k : ℚ) - t| = 1 / 2 → k % 2 = 0) := by
      have h0 := h.nonneg
      rcases h.nearest_cases with ⟨hφ, rfl, heven⟩ | ⟨hφ, rfl, heven⟩
      · rw [hstep, sub_add_cancel_left, abs_neg, abs_of_nonneg h0]
        exact ⟨hφ, heven⟩
      · have h1 := h.lt_one
        rw [hstep, Nat.cast_add_one, add_sub_add_left_eq_sub, abs_of_pos (by linarith)]
        exact ⟨by linarith, fun ht => heven (by linarith)⟩
    rw [abs_signFactor_mul_sub]
    exact ⟨hdist.1, fun ht => by have := hdist.2 ht; cases neg <;> simp only [signedInt, if_true, Bool.false_eq_true, if_false] <;> omega⟩
  | rz =>
    obtain ⟨hle, hlt⟩ := floor nofun rfl
    simp only [abs_signFactor_mul, abs_of_nonneg hk, abs_of_nonneg ht]
    refine ⟨hle, hlt, ?_⟩
    rcases signFactor_cases neg with ⟨-, hs⟩ | ⟨-, hs⟩ <;> rw [hs] <;> linarith [mul_nonneg hk ht]
  | rd =>
    cases neg with
    | false =>
      obtain ⟨hle, hlt⟩ := floor nofun rfl
      simp only [signFactor, Bool.false_eq_true, if_false, one_mul]
      exact ⟨hle, hlt⟩
    | true =>
      obtain ⟨hle, hlt⟩ := ceil rfl
      simp only [signFactor, if_true, neg_one_mul]
      exact ⟨neg_le_neg hle, by linarith⟩
  | ru =>
    cases neg with
    | false =>
      obtain ⟨hle, hlt⟩ := ceil rfl
      simp only [signFactor, Bool.false_eq_true, if_false, one_mul]
      exact ⟨hlt, hle⟩
    | true =>
      obtain ⟨hle, hlt⟩ := floor nofun rfl
      simp only [signFactor, if_true, neg_one_mul]
      exact ⟨by linarith, neg_le_neg hle⟩

/-- An integer stays under every mode. -/
theorem intNear_self (rm : RMode) (k : Int) : intNear rm k k := by
  cases rm <;> simp [intNear, mul_self_nonneg]

namespace Num

/-- The magnitude of a finite value, rounded to an integer. -/
theorem intNear_scale2 (rm : RMode) (neg : Bool) (m : Nat) (e : Int) {a b : Nat} (hab : scale2 m 1 e = (a, b)) {x : ℚ}
    (hx : (Num.fin neg m e).rat? = some x) : intNear rm x (signedInt neg (roundNat rm neg a b)) := by
  have hb : 0 < b := by simpa [hab] using scale2_pos m one_pos e
  have hratio : (a / b : ℚ) = m / (1 : Nat) * 2 ^ e := by simpa [hab] using scale2_ratio m 1 e
  rw [rat?_fin_eq_signFactor_mul, Option.some.injEq] at hx
  rw [← hx, ← div_one (m : ℚ), ← Nat.cast_one, ← hratio]
  exact (roundNat_rounds rm neg a hb).intNear

/-- A conversion to an integer is what the rule says, between any two ends (R169). -/
theorem toInt_takes {lo hi : Int} (h : lo ≤ hi) (rm : RMode) (v : Num) : intTakes lo hi rm v (v.toInt lo hi rm) := by
  cases v with
  | nan => rfl
  | inf neg => rfl
  | fin neg m e =>
    intro x hx
    obtain ⟨a, b, hab⟩ : ∃ a b, scale2 m 1 e = (a, b) := ⟨_, _, rfl⟩
    refine ⟨_, intNear_scale2 rm neg m e hab hx, ?_⟩
    have hint : (Num.fin neg m e).toInt lo hi rm =
        if signedInt neg (roundNat rm neg a b) < lo then lo
        else if hi < signedInt neg (roundNat rm neg a b) then hi else signedInt neg (roundNat rm neg a b) := by
      simp only [Num.toInt, hab]
      rfl
    rw [hint]
    split
    · omega
    · split <;> omega

theorem toInt_mem {lo hi : Int} (h : lo ≤ hi) (h0 : lo ≤ 0) (h1 : 0 ≤ hi) (rm : RMode) (v : Num) :
    lo ≤ v.toInt lo hi rm ∧ v.toInt lo hi rm ≤ hi := by
  have ht := toInt_takes h rm v
  cases v with
  | nan =>
    rw [show Num.nan.toInt lo hi rm = 0 from rfl]
    exact ⟨h0, h1⟩
  | inf neg =>
    have hj : (Num.inf neg).toInt lo hi rm = if neg then lo else hi := ht
    rw [hj]
    split <;> omega
  | fin neg m e =>
    obtain ⟨k, -, hj⟩ := ht _ rfl
    rw [hj]
    omega

/-- A value rounded to integral is what the rule says (R212). -/
theorem integral_takes (rm : RMode) (v : Num) : integralTakes rm v (v.integral rm) := by
  cases v with
  | nan => rfl
  | inf neg => rfl
  | fin neg m e =>
    intro x hx
    by_cases he : 0 ≤ e
    · have hv : (Num.fin neg m e).integral rm = .fin neg m e := if_pos he
      obtain ⟨n, rfl⟩ := Int.eq_ofNat_of_zero_le he
      have hk : x = (signedInt neg (m * 2 ^ n) : Int) := by
        rw [rat?_fin_eq_signFactor_mul, Option.some.injEq] at hx
        rw [← hx, cast_signedInt]
        push_cast
        rfl
      rw [hv, hx, hk]
      exact ⟨_, intNear_self rm _, rfl, rfl⟩
    · obtain ⟨a, b, hab⟩ : ∃ a b, scale2 m 1 e = (a, b) := ⟨_, _, rfl⟩
      have hv : (Num.fin neg m e).integral rm = .fin neg (roundNat rm neg a b) 0 := by
        simp only [Num.integral, if_neg he, hab]
      rw [hv]
      exact ⟨_, intNear_scale2 rm neg m e hab hx, by rw [rat?_fin_eq_signFactor_mul, cast_signedInt, zpow_zero, mul_one], rfl⟩

end Num

end Sys2Proof.Machine
end

section
/-! A datum converted to its own format, and a value times a power of two far outside a format's range (R168, R210, R212). -/

namespace Sys2Proof.Machine.Fmt

variable {f : Fmt}

/-! ## Data stay as they are -/

/-- No datum overflows. -/
theorem not_overflows_mag (h : f.Regular) (hk : f.flush = false) (rm : RMode) (neg : Bool) {c : Nat} (hc : c ≤ f.maxCode) (hpos : 0 < f.mag c) :
    ¬f.overflows rm (signFactor neg * f.mag c) := by
  have hle := f.mag_strictMono.monotone hc
  have hlt := f.mag_strictMono f.maxCode.lt_succ_self
  cases ha : roundsAway rm neg with
  | true => exact fun ho => not_lt.2 hle ((overflows_away_iff h hk ha).1 ho)
  | false =>
    by_cases hrm : rm = .rne
    · subst hrm
      rw [overflows_nearest_iff h hk hpos]
      linarith
    · exact not_overflows_toward_zero h hk hrm ha hpos

/-- A datum rounds to its own code. -/
theorem eq_signed_of_roundsTo_mag (h : f.Regular) (hk : f.flush = false) {rm : RMode} {neg : Bool} {c k : Nat} (hc : c ≤ f.maxCode)
    (hr : f.roundsTo rm neg (signFactor neg * f.mag c) k) : k = f.signed neg c := by
  obtain ⟨hlt, hneg, y, hy, hbest⟩ := hr
  have hself : f.isDatum (signFactor neg * f.mag c) := (isDatum_iff h hk _).2 ⟨neg, c, hc, rfl⟩
  rw [rat?_value h hk, negative_of_div hneg] at hy
  have hyk : y = signFactor neg * f.mag (k % f.signBit) := by
    split at hy
    · exact (Option.some.inj hy).symm
    · cases hy
  have habs : |y| = |signFactor neg * f.mag c| := by
    cases rm with
    | rne =>
      have h0 := (hbest _ hself).1
      rw [sub_self, abs_zero] at h0
      rw [sub_eq_zero.1 (abs_nonpos_iff.1 h0)]
    | rz => exact le_antisymm hbest.1 (hbest.2 _ hself le_rfl)
    | rd => rw [le_antisymm hbest.1 (hbest.2 _ hself le_rfl)]
    | ru => rw [le_antisymm (hbest.2 _ hself le_rfl) hbest.1]
  rw [hyk, abs_signFactor_mul, abs_signFactor_mul, abs_of_nonneg (f.mag_nonneg _), abs_of_nonneg (f.mag_nonneg _)] at habs
  have hck : k % f.signBit = c := f.mag_strictMono.injective habs
  rw [← hck, ← negative_of_div hneg, signed_negative hlt]

/-- The code of a value that is no number, in a format with infinities: an infinity's, as the value is no NaN. -/
theorem eq_signed_infCode (h : f.Regular) (ht : f.top = .ieee) {x : Nat} (hx : x < 2 * f.signBit) (hm : f.maxCode < x % f.signBit)
    (hn : (f.value x).isNan = false) : f.value x = .inf (f.negative x) ∧ x = f.signed (f.negative x) f.infCode := by
  have hspec : x % f.signBit / 2 ^ f.fb = 2 ^ f.eb - 1 := by
    have := mt (le_maxCode_iff h (Nat.mod_lt x f.signBit_pos)).2 (not_le.2 hm)
    simpa [ht] using this
  rw [value_eq, if_pos ⟨ht, hspec⟩] at hn ⊢
  have hfrac : x % f.signBit % 2 ^ f.fb = 0 := by
    by_contra hc
    rw [if_neg hc] at hn
    cases hn
  have hcode : x % f.signBit = f.infCode := by
    have := Nat.div_add_mod' (x % f.signBit) (2 ^ f.fb)
    rw [hspec, hfrac] at this
    exact this.symm
  exact ⟨if_pos hfrac, by rw [← hcode, signed_negative hx]⟩

/-- A datum converted to its own format without SAT is as it was (R210), in a format that keeps its subnormals. -/
theorem encode_value_kept (h : f.Regular) (hk : f.flush = false) (ht : f.top = .ieee) (rm : RMode) {x : Nat} (hx : x < 2 * f.signBit)
    (hn : (f.value x).isNan = false) : f.encode rm false (f.value x) = x := by
  have hconv := encode_converts h hk rm false (f.value x)
  rcases le_or_gt (x % f.signBit) f.maxCode with hc | hc
  · obtain ⟨m, e, hv, hmag, hzero⟩ := value_finite h hk hc
    rw [hv] at hconv ⊢
    obtain ⟨hz, hnz⟩ := hconv
    by_cases hm : m = 0
    · rw [hz hm, ← hzero.1 hm, signed_negative hx]
    · have hpos : 0 < f.mag (x % f.signBit) := f.mag_zero ▸ f.mag_strictMono (Nat.pos_of_ne_zero (mt hzero.2 hm))
      obtain ⟨-, hr⟩ := hnz hm _ (by rw [rat?_fin_eq_signFactor_mul, hmag])
      rw [eq_signed_of_roundsTo_mag h hk hc (hr (not_overflows_mag h hk rm _ hc hpos)), signed_negative hx]
  · obtain ⟨hv, hcode⟩ := eq_signed_infCode h ht hx hc hn
    rw [hv] at hconv ⊢
    exact (hconv.trans (beyond_of_ieee ht _)).trans hcode.symm

/-- Beside the subnormals that it flushes, a format reads its codes as if it kept them. -/
theorem value_eq_kept {x : Nat} (hx : ¬(f.flush = true ∧ x / 2 ^ f.fb % 2 ^ f.eb = 0)) : f.value x = f.kept.value x := by
  rw [exponent_eq] at hx
  rw [value_eq f, value_eq f.kept]
  refine if_congr Iff.rfl rfl (if_congr Iff.rfl rfl ?_)
  show _ = if x % f.signBit / 2 ^ f.fb = 0 then (if false then _ else _) else _
  split
  next h0 => rw [if_neg fun hf => hx ⟨hf, h0⟩, if_neg Bool.false_ne_true]; rfl
  next => rfl

/-- A subnormal that is flushed reads as a zero of its sign. -/
theorem value_of_flushed (h : f.Regular) {x : Nat} (hf : f.flush = true) (h0 : x / 2 ^ f.fb % 2 ^ f.eb = 0) :
    f.value x = .fin (f.negative x) 0 0 := by
  rw [exponent_eq] at h0
  have hle : x % f.signBit ≤ f.maxCode := by
    have := h.normal_max
    have := (Nat.div_eq_zero_iff_lt (Nat.two_pow_pos f.fb)).1 h0
    omega
  obtain ⟨hieee, hnan⟩ := (le_maxCode_iff h (Nat.mod_lt x f.signBit_pos)).1 hle
  rw [value_eq, if_neg hieee, if_neg hnan, if_pos h0, if_pos hf]

/-- A datum converted to its own format without SAT changes no more than that a subnormal is flushed (R210, R171). -/
theorem encode_value (h : f.Regular) (ht : f.top = .ieee) (rm : RMode) {x : Nat} (hx : x < 2 * f.signBit)
    (hn : (f.value x).isNan = false) : f.encode rm false (f.value x) = f.flushed x := by
  by_cases hc : f.flush = true ∧ x / 2 ^ f.fb % 2 ^ f.eb = 0
  · obtain ⟨hf, h0⟩ := hc
    rw [value_of_flushed h hf h0, flushed, if_pos ⟨hf, h0⟩, ← toNat_negative hx, mul_comm]
    exact signed_eq f (f.negative x) 0
  · rw [value_eq_kept hc] at hn ⊢
    rw [encode_eq_flushed h, encode_value_kept h.kept rfl ht rm hx hn]

/-! ## Far outside the range -/

/-- The significand and the exponent of a finite datum. -/
theorem value_bounds {x m : Nat} {s : Bool} {e : Int} (hv : f.value x = .fin s m e) (hm : m ≠ 0) :
    m < 2 ^ (f.fb + 1) ∧ f.qmin ≤ e ∧ e < f.qmin + ((2 ^ f.eb : Nat) : Int) := by
  have hmod := Nat.mod_lt (x % f.signBit) (Nat.two_pow_pos f.fb)
  have hexp : x % f.signBit / 2 ^ f.fb < 2 ^ f.eb := Nat.div_lt_of_lt_mul (f.signBit_eq ▸ Nat.mod_lt x f.signBit_pos)
  rw [value_eq] at hv
  rw [pow_succ]
  generalize x % f.signBit / 2 ^ f.fb = i at hexp hv
  split at hv
  · split at hv <;> cases hv
  · split at hv
    · cases hv
    · split at hv
      · split at hv
        · cases hv
          exact absurd rfl hm
        · cases hv
          omega
      · cases hv
        omega

theorem mag_one (f : Fmt) : f.mag 1 = 2 ^ f.qmin := by
  have h := mag_binade (f := f) (i := 0) (k := 1) Nat.one_le_two_pow (.inl rfl)
  simpa using h

/-- A value far below the least magnitude becomes a zero of its sign. -/
theorem rne_eq_zero (h : f.Regular) (hk : f.flush = false) (s : Bool) {m : Nat} {e : Int} (hm : m < 2 ^ (f.fb + 1))
    (he : e + f.fb + 2 ≤ f.qmin) : f.rne (.fin s m e) = f.signed s 0 := by
  obtain ⟨hz, hnz⟩ := encode_converts h hk .rne false (.fin s m e)
  unfold rne
  generalize f.encode .rne false (.fin s m e) = k at hz hnz ⊢
  by_cases h0 : m = 0
  · exact hz h0
  · have hsmall : 2 * ((m : ℚ) * 2 ^ e) < f.mag 1 := by
      calc 2 * ((m : ℚ) * 2 ^ e) < 2 * (2 ^ (f.fb + 1) * 2 ^ e) := by gcongr; exact_mod_cast hm
        _ = 2 ^ (e + f.fb + 2) := by rw [zpow_add₀ two_ne_zero, zpow_add₀ two_ne_zero, zpow_natCast, zpow_ofNat]; ring
        _ ≤ f.mag 1 := f.mag_one ▸ zpow_le_zpow_right₀ one_le_two he
    have hpos : (0 : ℚ) < m * 2 ^ e := mul_pos (Nat.cast_pos.2 (Nat.pos_of_ne_zero h0)) (zpow_pos two_pos e)
    have hover : ¬f.overflows .rne (signFactor s * (m * 2 ^ e)) := by
      have h1 := f.mag_strictMono.monotone ((Nat.one_le_two_pow (n := f.fb)).trans h.normal_max)
      have h2 := f.mag_strictMono f.maxCode.lt_succ_self
      rw [overflows_nearest_iff h hk hpos]
      linarith
    obtain ⟨hlt, hneg, y, hy, hbest⟩ := (hnz h0 _ (rat?_fin_eq_signFactor_mul s m e)).2 hover
    obtain ⟨hzero, -⟩ := hbest 0 ((isDatum_iff h hk 0).2 ⟨s, 0, Nat.zero_le _, by rw [mag_zero, mul_zero]⟩)
    rw [rat?_value h hk, negative_of_div hneg] at hy
    split at hy
    next =>
      rw [← Option.some.inj hy, abs_signFactor_mul_sub, zero_sub, abs_neg, abs_signFactor_mul, abs_of_pos hpos] at hzero
      have hmag : f.mag (k % f.signBit) < f.mag 1 := by linarith [(abs_le.1 hzero).2]
      have hcode : k % f.signBit = 0 := Nat.lt_one_iff.1 (f.mag_strictMono.lt_iff_lt.1 hmag)
      have hsign := signed_negative hlt
      rw [negative_of_div hneg] at hsign
      rw [← hcode]
      exact hsign.symm
    next => cases hy

/-- A value far above the largest finite one becomes an infinity of its sign. -/
theorem rne_eq_infinity (h : f.Regular) (hk : f.flush = false) (ht : f.top = .ieee) (s : Bool) {m : Nat} {e : Int} (hm : m ≠ 0)
    (he : f.qmin + f.fb + ((2 ^ f.eb : Nat) : Int) ≤ e) : f.rne (.fin s m e) = f.signed s f.infCode := by
  obtain ⟨-, hnz⟩ := encode_converts h hk .rne false (.fin s m e)
  have htwo : 2 ≤ 2 ^ f.eb := Nat.le_self_pow h.eb_pos.ne' 2
  have hinf : f.maxCode + 1 = (2 ^ f.eb - 2) * 2 ^ f.fb + 2 ^ f.fb := by
    have hp : 0 < f.infCode := Nat.mul_pos (Nat.sub_pos_of_lt (Nat.one_lt_two_pow h.eb_pos.ne')) (Nat.two_pow_pos _)
    have hmax : f.maxCode = f.infCode - 1 := by rw [maxCode, ht]
    rw [hmax, Nat.sub_add_cancel hp, infCode, ← Nat.succ_mul]
    congr 1
    omega
  have hover : f.overflows .rne (signFactor s * (m * 2 ^ e)) := by
    have hpos : (0 : ℚ) < m * 2 ^ e := mul_pos (Nat.cast_pos.2 (Nat.pos_of_ne_zero hm)) (zpow_pos two_pos e)
    have hnext : f.mag (f.maxCode + 1) ≤ m * 2 ^ e := by
      rw [hinf, mag_binade (by rw [pow_succ]; omega) (.inr le_rfl)]
      calc ((2 ^ f.fb : Nat) : ℚ) * 2 ^ (f.qmin + ((2 ^ f.eb - 2 : Nat) : Int))
          = 2 ^ (f.fb + (f.qmin + ((2 ^ f.eb - 2 : Nat) : Int))) := by rw [zpow_add₀ two_ne_zero (f.fb : Int)]; norm_cast
        _ ≤ 2 ^ e := zpow_le_zpow_right₀ one_le_two (by omega)
        _ ≤ m * 2 ^ e := le_mul_of_one_le_left (zpow_nonneg two_pos.le e) (Nat.one_le_cast.2 (Nat.pos_of_ne_zero hm))
    have := f.mag_strictMono f.maxCode.lt_succ_self
    rw [overflows_nearest_iff h hk hpos]
    linarith
  rw [rne, (hnz hm _ (rat?_fin_eq_signFactor_mul s m e)).1 hover, beyond_of_ieee ht]

theorem rne_zero (f : Fmt) (s : Bool) (e : Int) : f.rne (.fin s 0 e) = f.signed s 0 := rfl

/-- A power of two beyond 2^600 or below 2^-600 gives no other result than these, in a format with so few exponents. -/
theorem rne_clamped (h : f.Regular) (hk : f.flush = false) (ht : f.top = .ieee) (hsize : 2 ^ f.eb + f.fb + 1 ≤ 600) {x m : Nat} {s : Bool}
    {e : Int} (hv : f.value x = .fin s m e) (n : Int) :
    f.rne (.fin s m (e + if n < -600 then -600 else if 600 < n then 600 else n)) = f.rne (.fin s m (e + n)) := by
  by_cases hm : m = 0
  · rw [hm, rne_zero, rne_zero]
  · obtain ⟨hlt, hlow, hup⟩ := value_bounds hv hm
    have zero {k : Int} (hle : k ≤ -600) : f.rne (.fin s m (e + k)) = f.signed s 0 := rne_eq_zero h hk s hlt (by omega)
    have infinity {k : Int} (hle : 600 ≤ k) : f.rne (.fin s m (e + k)) = f.signed s f.infCode := rne_eq_infinity h hk ht s hm (by omega)
    split
    next hn => rw [zero le_rfl, zero hn.le]
    next =>
      split
      next hn => rw [infinity le_rfl, infinity hn.le]
      next => rfl

end Sys2Proof.Machine.Fmt
end

section
/-! The scalar conversions, FRND and FLDEXP (R210, R212). -/

namespace Sys2Proof.Machine

/-! ## Sources -/

theorem sx_toNat {n : Nat} (hn : 0 < n) (x : BitVec n) : sx n x.toNat = x.toInt := by
  have h2 : 2 ^ n = 2 * 2 ^ (n - 1) := by rw [← pow_succ']; congr 1; omega
  unfold sx
  rw [Nat.mod_eq_of_lt x.isLt, BitVec.toInt_eq_toNat_cond]
  exact if_congr (by omega) rfl rfl

/-- The integer that a source holds. -/
theorem intFmt_value (r : Regs) (n : IntTy) (a : Src) (l : Nat) : (intFmt n).value (r.srcBits n.is64 false a l) = srcInt r n a l := by
  cases n with
  | s32 => exact sx_toNat (by decide) (r.src a l)
  | s64 => exact sx_toNat (by decide) (r.src2 a l)
  | u32 => exact congrArg Nat.cast (Nat.mod_eq_of_lt (r.src a l).isLt)
  | u64 => exact congrArg Nat.cast (Nat.mod_eq_of_lt (r.src2 a l).isLt)

/-- The value that a floating-point source holds. -/
theorem fltFmt_value (r : Regs) (i : FltTy) (a : Src) (l : Nat) : (fltFmt i).value (r.fltBits i a l) = srcNum r i a l := by
  cases i with
  | f32 | f64 => rfl
  | f16 | bf16 => exact congrArg _ (toNat_low_half (r.src a l)).symm

/-! ## Results -/

theorem intEnds_eq (m : IntTy) : intEnds m = ((intFmt m).lo, (intFmt m).hi) := by cases m <;> rfl

theorem fltFmt_regular (o : FltTy) : (fltFmt o).Regular := Fmt.regular_of_mem (by cases o <;> simp [fltFmt])

theorem ofNat_wrap (n : Nat) (x : Int) : BitVec.ofNat n (wrap n x) = BitVec.ofInt n x := by
  apply BitVec.eq_of_toNat_eq
  rw [BitVec.toNat_ofNat, BitVec.toNat_ofInt, Nat.mod_eq_of_lt (wrap_lt n x)]
  rfl

section
variable {i : Instr} {g : Pred} {d : VReg} {wide : Bool} {f : Regs → Nat → Nat} (hi : ∀ s, exec i s = s.convert g d wide f)
include hi

theorem convert_word {f' : Regs → Nat → Word} (hw : wide = false) (hf : ∀ r l, BitVec.ofNat 32 (f r l) = f' r l) :
    LaneResult i g d f' :=
  laneResult_of_eq (fun s => (hi s).trans (by rw [hw]; rfl)) hf

theorem convert_pair {f' : Regs → Nat → DWord} (hw : wide = true) (hf : ∀ r l, BitVec.ofNat 64 (f r l) = f' r l) :
    LaneResult2 i g d f' :=
  laneResult2_of_eq (fun s => (hi s).trans (by rw [hw]; rfl)) hf

end

theorem is64_of_ne {o : FltTy} (h : o ≠ .f64) : o.is64 = false := by
  cases o with
  | f64 => exact absurd rfl h
  | f32 | f16 | bf16 => rfl

theorem bits_of_is64 {m : IntTy} (h : m.is64 = true) : (intFmt m).bits = 64 := by
  cases m with
  | s32 | u32 => cases h
  | s64 | u64 => rfl

theorem bits_of_is64_false {m : IntTy} (h : m.is64 = false) : (intFmt m).bits = 32 := by
  cases m with
  | s32 | u32 => rfl
  | s64 | u64 => cases h

/-! ## Within one type (R210) -/

/-- Within one type and without SAT, NaNs become canonical and subnormals are flushed as the format says. -/
theorem cvtFlt_same (t : FltTy) (rm : RMode) {x : Nat} (hx : x < 2 * (fltFmt t).signBit) :
    cvtFlt rm false t t x = if ((fltFmt t).value x).isNan then (fltFmt t).cnan else (fltFmt t).flushed x := by
  have ht : (fltFmt t).top = .ieee := by cases t <;> rfl
  unfold cvtFlt
  cases hn : ((fltFmt t).value x).isNan with
  | false => exact Fmt.encode_value (fltFmt_regular t) ht rm hx hn
  | true =>
    have hv : (fltFmt t).value x = .nan := by
      cases hv : (fltFmt t).value x with
      | nan => rfl
      | inf | fin => rw [hv] at hn; cases hn
    rw [hv, if_pos rfl]
    exact if_neg (by rw [ht]; nofun)

theorem toNat_cleanBits {w : Nat} {f : Fmt} (hw : 2 ^ w = 2 * f.signBit) (a : BitVec w) : (cleanBits f a).toNat = f.flushed a.toNat := by
  have ha := a.isLt
  rw [hw] at ha
  unfold cleanBits Fmt.flushed
  split
  next =>
    rw [BitVec.toNat_and, BitVec.toNat_ofNat, hw, Nat.mod_eq_of_lt (by have := f.signBit_pos; omega)]
    rw [← Fmt.toNat_negative ha, Fmt.signBit, Nat.and_two_pow, Nat.testBit_eq_decide_div_mod_eq]
    rfl
  next => rfl

theorem cleanBits_of_not_flush {w : Nat} {f : Fmt} (hk : f.flush = false) (a : BitVec w) : cleanBits f a = a :=
  if_neg fun hc => by rw [hk] at hc; cases hc.1

/-- A datum converted within its type, as bits. -/
theorem cvtFlt_same_bits (t : FltTy) (rm : RMode) {w : Nat} (hw : 2 ^ w = 2 * (fltFmt t).signBit) (x : BitVec w) :
    cvtFlt rm false t t x.toNat =
      (if ((fltFmt t).value x.toNat).isNan then BitVec.ofNat w (fltFmt t).cnan else cleanBits (fltFmt t) x).toNat := by
  rw [cvtFlt_same t rm (hw ▸ x.isLt)]
  split
  · rw [BitVec.toNat_ofNat, Nat.mod_eq_of_lt (hw ▸ (fltFmt_regular t).cnan_lt)]
  · rw [toNat_cleanBits hw]

theorem cvtFf_same_f32 (rm : RMode) (r : Regs) (a : Src) (l : Nat) : BitVec.ofNat 32 (cvtFlt rm false .f32 .f32 (r.fltBits .f32 a l)) =
    if (srcNum r .f32 a l).isNan then 0x7FC00000 else r.src a l := by
  show BitVec.ofNat 32 (cvtFlt rm false .f32 .f32 (r.src a l).toNat) = _
  rw [cvtFlt_same_bits .f32 rm (by decide), BitVec.ofNat_toNat, BitVec.setWidth_eq, cleanBits_of_not_flush rfl]
  rfl

theorem cvtFf_same_f64 (rm : RMode) (r : Regs) (a : Src) (l : Nat) : BitVec.ofNat 64 (cvtFlt rm false .f64 .f64 (r.fltBits .f64 a l)) =
    if (srcNum r .f64 a l).isNan then 0x7FF8000000000000 else r.src2 a l := by
  show BitVec.ofNat 64 (cvtFlt rm false .f64 .f64 (r.src2 a l).toNat) = _
  rw [cvtFlt_same_bits .f64 rm (by decide), BitVec.ofNat_toNat, BitVec.setWidth_eq, cleanBits_of_not_flush rfl]
  rfl

theorem cvtFf_same_f16 (rm : RMode) (r : Regs) (a : Src) (l : Nat) : BitVec.ofNat 32 (cvtFlt rm false .f16 .f16 (r.fltBits .f16 a l)) =
    if (srcNum r .f16 a l).isNan then 0x7E00 else ((r.src a l).extractLsb' 0 16).setWidth 32 := by
  show BitVec.ofNat 32 (cvtFlt rm false .f16 .f16 ((r.src a l).toNat % 65536)) = _
  rw [← toNat_low_half, cvtFlt_same_bits .f16 rm (by decide), BitVec.ofNat_toNat, cleanBits_of_not_flush rfl, apply_ite (BitVec.setWidth 32)]
  rfl

theorem cvtFf_same_bf16 (rm : RMode) (r : Regs) (a : Src) (l : Nat) : BitVec.ofNat 32 (cvtFlt rm false .bf16 .bf16 (r.fltBits .bf16 a l)) =
    if (srcNum r .bf16 a l).isNan then 0x7FC0 else (cleanBits .bf16 ((r.src a l).extractLsb' 0 16)).setWidth 32 := by
  show BitVec.ofNat 32 (cvtFlt rm false .bf16 .bf16 ((r.src a l).toNat % 65536)) = _
  rw [← toNat_low_half, cvtFlt_same_bits .bf16 rm (by decide), BitVec.ofNat_toNat, apply_ite (BitVec.setWidth 32)]
  rfl

/-! ## Times a power of two (R212) -/

theorem ldexp_eq (a : Word) (n : Int) : ldexp a n = f32Of ((numF32 a).scaled n) := by
  unfold ldexp
  cases hv : numF32 a with
  | nan => rfl
  | inf => rfl
  | fin s m e => exact congrArg (BitVec.ofNat 32) (Fmt.rne_clamped (fltFmt_regular .f32) rfl rfl (by decide) hv n)

/-! ## The instructions -/

section
variable (g : Pred) (d : VReg) (a b : Src) (rm : RMode) (s : State)

theorem exec_cvtFi (i : FltTy) (o : IntTy) : exec (.cvtFi g d a rm i o) s =
    s.convert g d o.is64 (fun r l => (intFmt o).encode rm ((fltFmt i).value (r.fltBits i a l))) := rfl

theorem exec_cvtIf (sat : Bool) (i : IntTy) (o : FltTy) : exec (.cvtIf g d a rm sat i o) s =
    s.convert g d o.is64 (fun r l => (fltFmt o).encode rm sat (.ofInt ((intFmt i).value (r.srcBits i.is64 false a l)))) := rfl

theorem exec_cvtFf (sat : Bool) (i o : FltTy) : exec (.cvtFf g d a rm sat i o) s =
    s.convert g d o.is64 (fun r l => cvtFlt rm sat i o (r.fltBits i a l)) := rfl

theorem exec_frnd_f32 : exec (.frnd g d a rm false) s = s.laneOp g d (fun r l => f32Of ((numF32 (r.src a l)).integral rm)) := rfl

theorem exec_frnd_f64 : exec (.frnd g d a rm true) s = s.laneOp2 g d (fun r l => f64Of ((numF64 (r.src2 a l)).integral rm)) := rfl

theorem exec_fldexp : exec (.fldexp g d a b) s = s.laneOp g d (fun r l => ldexp (r.src a l) (r.src b l).toInt) := rfl

end

end Sys2Proof.Machine

namespace Sys2Proof
open Machine

/-- Settles O15: the conversions of values are those of the rounding functions; each instruction applies one of them to the value that its
source holds. -/
theorem conversions : Obligations.Conversions := by
  intro g d a b rm sat i o n m
  have hlo : (intEnds m).1 ≤ (intEnds m).2 := by cases m <;> decide
  have toFlt (f : Fmt) (r : Regs) (l : Nat) : f.encode rm sat ((fltFmt i).value (r.fltBits i a l)) = f.encode rm sat (srcNum r i a l) := by
    rw [fltFmt_value]
  have ofInt (f : Fmt) (r : Regs) (l : Nat) :
      f.encode rm sat (.ofInt ((intFmt n).value (r.srcBits n.is64 false a l))) = f.encode rm sat (.ofInt (srcInt r n a l)) := by
    rw [intFmt_value]
  have toInt {w : Nat} (hw : (intFmt m).bits = w) (r : Regs) (l : Nat) :
      BitVec.ofNat w ((intFmt m).encode rm ((fltFmt i).value (r.fltBits i a l))) =
        BitVec.ofInt w ((srcNum r i a l).toInt (intEnds m).1 (intEnds m).2 rm) := by
    rw [fltFmt_value, intEnds_eq, ← ofNat_wrap, ← hw]
    rfl
  have cvtFi := exec_cvtFi g d a rm
  have cvtIf := exec_cvtIf g d a rm
  have cvtFf := exec_cvtFf g d a rm
  refine ⟨Fmt.encode_takes (fltFmt_regular o) rm sat, Num.toInt_takes hlo rm, Num.integral_takes rm,
    fun hm => convert_word (cvtFi · i m) hm (toInt (bits_of_is64_false hm)),
    fun hm => convert_pair (cvtFi · i m) hm (toInt (bits_of_is64 hm)),
    fun ho => convert_word (cvtIf · sat n o) (is64_of_ne ho) fun r l => congrArg _ (ofInt _ r l),
    convert_pair (cvtIf · sat n .f64) rfl fun r l => congrArg _ (ofInt _ r l),
    fun ho => convert_word (cvtFf · sat i o) (is64_of_ne ho) fun r l => congrArg _ (toFlt _ r l),
    convert_pair (cvtFf · sat i .f64) rfl fun r l => congrArg _ (toFlt _ r l),
    convert_word (cvtFf · false .f32 .f32) rfl fun r l => cvtFf_same_f32 rm r a l,
    convert_pair (cvtFf · false .f64 .f64) rfl fun r l => cvtFf_same_f64 rm r a l,
    convert_word (cvtFf · false .f16 .f16) rfl fun r l => cvtFf_same_f16 rm r a l,
    convert_word (cvtFf · false .bf16 .bf16) rfl fun r l => cvtFf_same_bf16 rm r a l,
    laneOp_result (exec_frnd_f32 g d a rm), laneOp2_result (exec_frnd_f64 g d a rm), laneResult_of_eq (exec_fldexp g d a b) fun r l => ?_⟩
  rw [ldexp_eq]
  cases numF32 (r.src a l) <;> rfl

end Sys2Proof
end

section
/-! CVT.NR, CVT.WD and the control words they take (R211, R213). -/

namespace Sys2Proof.Machine

/-! ## Element formats (R158) -/

/-- The scalar formats that have a code. -/
def slotElems : List Elem :=
  [.f 16 .bf16, .f 16 .f16, .f 8 .e4m3, .f 8 .e5m2, .f 8 .e3m4, .f 6 .e3m2, .f 6 .e2m3, .f 4 .e2m1, .i ⟨16, true⟩, .i ⟨8, true⟩,
    .i ⟨8, false⟩, .i ⟨4, true⟩, .i ⟨4, false⟩, .i ⟨2, true⟩]

theorem elemOf_mem {code : Nat} {el : Elem} (h : elemOf code = some el) : el ∈ slotElems := by
  unfold elemOf at h
  split at h <;> cases h <;> simp [slotElems]

theorem elemOf_f {code w : Nat} {f : Fmt} (h : elemOf code = some (.f w f)) : f.Regular ∧ 2 ^ w = 2 * f.signBit := by
  have hm := elemOf_mem h
  simp only [slotElems, List.mem_cons, List.not_mem_nil, or_false, Elem.f.injEq, reduceCtorEq] at hm
  rcases hm with ⟨rfl, rfl⟩ | ⟨rfl, rfl⟩ | ⟨rfl, rfl⟩ | ⟨rfl, rfl⟩ | ⟨rfl, rfl⟩ | ⟨rfl, rfl⟩ | ⟨rfl, rfl⟩ | ⟨rfl, rfl⟩ <;>
    exact ⟨Fmt.regular_of_mem (by simp), rfl⟩

theorem width_pos {code : Nat} {el : Elem} (h : elemOf code = some el) : 0 < el.width := by
  have hall : ∀ x ∈ slotElems, 0 < x.width := by decide
  exact hall el (elemOf_mem h)

namespace IFmt

theorem lo_le_zero (t : IFmt) : t.lo ≤ 0 := by
  have h := Nat.two_pow_pos (t.bits - 1)
  unfold lo
  generalize 2 ^ (t.bits - 1) = k at h ⊢
  split <;> omega

theorem zero_le_hi (t : IFmt) : 0 ≤ t.hi := by
  have h1 := Nat.two_pow_pos (t.bits - 1)
  have h2 := Nat.two_pow_pos t.bits
  unfold hi
  generalize 2 ^ (t.bits - 1) = k at h1 ⊢
  generalize 2 ^ t.bits = k at h2 ⊢
  split <;> omega

/-- A number between the ends of a format survives its code (R161). -/
theorem value_wrap {t : IFmt} (hb : 0 < t.bits) {j : Int} (hlo : t.lo ≤ j) (hhi : j ≤ t.hi) : t.value (wrap t.bits j) = j := by
  obtain ⟨n, hn⟩ : ∃ n, t.bits = n + 1 := ⟨_, (Nat.sub_add_cancel hb).symm⟩
  unfold lo at hlo
  unfold hi at hhi
  unfold value
  rw [hn] at hlo hhi ⊢
  rw [Nat.add_sub_cancel] at hlo hhi
  split
  next hs =>
    rw [if_pos hs] at hlo hhi
    exact sx_wrap (by exact_mod_cast hlo) (by push_cast at hhi; omega)
  next hs =>
    rw [if_neg hs] at hlo hhi
    rw [Nat.mod_eq_of_lt (wrap_lt _ _), wrap, Int.emod_eq_of_lt hlo (by omega), Int.toNat_of_nonneg hlo]

/-- The element that a value is converted to holds what the rule says (R169). -/
theorem encode_takes {t : IFmt} (hb : 0 < t.bits) (rm : RMode) (v : Num) : intTakes t.lo t.hi rm v (t.value (t.encode rm v)) := by
  have hle := t.lo_le_zero.trans t.zero_le_hi
  obtain ⟨hlo, hhi⟩ := Num.toInt_mem hle t.lo_le_zero t.zero_le_hi rm v
  rw [encode, value_wrap hb hlo hhi]
  exact Num.toInt_takes hle rm v

end IFmt

/-- An element has no more bits than its format. -/
theorem Elem.encode_lt {code : Nat} {el : Elem} (h : elemOf code = some el) (rm : RMode) (sat : Bool) (v : Num) :
    el.encode rm sat v < 2 ^ el.width := by
  cases el with
  | f w f =>
    obtain ⟨hr, hw⟩ := elemOf_f h
    exact (Fmt.encode_lt hr rm sat v).trans_eq hw.symm
  | i t => exact wrap_lt _ _

/-! ## Slots (R211) -/

/-- A bit of CVT.NR's result is one of the element in its slot, and of the old destination elsewhere. -/
theorem getLsbD_narrowInto {el : Elem} {pos : Nat} {rm : RMode} {sat : Bool} {a d : Word}
    (hlt : el.encode rm sat (numF32 a) < 2 ^ el.width) {i : Nat} (hi : i < 32) : (narrowInto el pos rm sat a d).getLsbD i =
      if el.width * pos ≤ i ∧ i < el.width * pos + el.width then (el.encode rm sat (numF32 a)).testBit (i - el.width * pos)
      else d.getLsbD i := by
  unfold narrowInto
  simp only [BitVec.getLsbD_or, BitVec.getLsbD_and, BitVec.getLsbD_not, BitVec.getLsbD_ofNat, hi, decide_true, Bool.true_and,
    Nat.testBit_mul_two_pow, Nat.testBit_two_pow_sub_one]
  by_cases hlow : el.width * pos ≤ i
  · by_cases hup : i < el.width * pos + el.width
    · have : i - el.width * pos < el.width := by omega
      simp [hlow, hup, this]
    · have hw : ¬i - el.width * pos < el.width := by omega
      have hbit : (el.encode rm sat (numF32 a)).testBit (i - el.width * pos) = false :=
        Nat.testBit_lt_two_pow (hlt.trans_le (Nat.pow_le_pow_right two_pos (by omega)))
      simp [hup, hw, hbit]
  · simp [hlow]

/-! ## Control words (R213) -/

section
variable {c : Word} {widen : Bool}

/-- The fields of a control word with an element format, and when it is refused: reserved bits are set, the slot lies beyond the word, or
CVT.WD is to round. -/
theorem cvtControl_eq {el : Elem} (h : elemOf (c.toNat / 2048 % 32) = some el) : cvtControl c widen =
    if c.toNat / 65536 ≠ 0 ∨ c.toNat / 256 % 8 ≠ 0 ∨ c.toNat % 2 ≠ 0 ∨ 32 < el.width * (c.toNat / 16 % 16) + el.width ∨
        (widen ∧ c.toNat / 2 % 8 ≠ 0) then none
    else some (el, c.toNat / 16 % 16, rmode (c.toNat / 4 % 4), decide (c.toNat / 2 % 2 = 1)) := by
  have helem : elemOf (bits c.toNat 11 5) = some el := h
  have hhigh : bits c.toNat 16 16 = c.toNat / 65536 := Nat.mod_eq_of_lt (by have := c.isLt; omega)
  have hlow : bits c.toNat 0 1 = c.toNat % 2 := by rw [bits, pow_zero, Nat.div_one, pow_one]
  have hslot : 32 / el.width ≤ bits c.toNat 4 4 ↔ 32 < el.width * (c.toNat / 16 % 16) + el.width := by
    rw [← Nat.lt_succ_iff, Nat.div_lt_iff_lt_mul (width_pos h), Nat.succ_mul, mul_comm]
    rfl
  simp only [cvtControl, helem, hhigh, hlow, hslot]
  rfl

theorem cvtControl_eq_some {el : Elem} (h : elemOf (c.toNat / 2048 % 32) = some el) (h16 : c.toNat / 65536 = 0) (h8 : c.toNat / 256 % 8 = 0)
    (h0 : c.toNat % 2 = 0) (hslot : el.width * (c.toNat / 16 % 16) + el.width ≤ 32) (hw : widen = true → c.toNat / 2 % 8 = 0) :
    cvtControl c widen = some (el, c.toNat / 16 % 16, rmode (c.toNat / 4 % 4), decide (c.toNat / 2 % 2 = 1)) := by
  rw [cvtControl_eq h, if_neg]
  rintro (h | h | h | h | ⟨h, h'⟩)
  · exact h h16
  · exact h h8
  · exact h h0
  · exact absurd hslot (not_le.2 h)
  · exact h' (hw h)

/-- A control word is refused without an element format, and with one where a field of it is not allowed. -/
theorem cvtControl_eq_none (h : ∀ el, elemOf (c.toNat / 2048 % 32) = some el → c.toNat / 65536 ≠ 0 ∨ c.toNat / 256 % 8 ≠ 0 ∨
    c.toNat % 2 ≠ 0 ∨ 32 < el.width * (c.toNat / 16 % 16) + el.width ∨ (widen ∧ c.toNat / 2 % 8 ≠ 0)) : cvtControl c widen = none := by
  cases hel : elemOf (c.toNat / 2048 % 32) with
  | none =>
    have helem : elemOf (bits c.toNat 11 5) = none := hel
    simp only [cvtControl, helem]
  | some el => rw [cvtControl_eq hel, if_pos (h el hel)]

end

/-! ## The instructions -/

/-- Lanes of a vector register written, and the group past the instruction. -/
theorem mapV_writes (e : Env) (m : Mask) (d : Nat) (f : Nat → Word) :
    WritesV e ((e.g.regs.mapV m d f).advance e.c.mask e.c.size) m d f := by
  have hk := mapV_keep e.g.regs m d f
  constructor
  · intro n l hl; exact mapV_getV _ _ _ _ hl
  · intro j; show Regs.getK (Regs.mapV _ _ _ _) j = _; rw [hk]; rfl
  · intro j; show Regs.getP (Regs.mapV _ _ _ _) j = _; rw [hk]; rfl
  · intro j; show Regs.getQ (Regs.mapV _ _ _ _) j = _; rw [hk]; rfl
  · apply complete_flows <;> rw [hk]

section
variable {i : Instr} {g : Pred} {d : VReg} {b : KReg} {widen : Bool} {F : Elem → Nat → RMode → Bool → Regs → Nat → Word} {s : State} {e : Env}
  (hi : exec i s = s.controlled g d b widen F) (he : s.env? = some e)
include hi he

theorem controlled_passes (ht : e.taking g = 0) : Completes i s s e e.g.latch (WritesNone e) :=
  completes_of_retire_same he (hi.trans (run_ok he (if_pos ht)))

theorem controlled_traps (ht : e.taking g ≠ 0) (hc : cvtControl (e.g.regs.getK b.val) widen = none) :
    Traps i s e 4 (e.g.regs.getK b.val).toNat 0 e.c.mask :=
  traps_of_run hi he ((if_neg ht).trans (by rw [hc]; rfl)) rfl

theorem controlled_completes (ht : e.taking g ≠ 0) {el : Elem} {pos : Nat} {rm : RMode} {sat : Bool}
    (hc : cvtControl (e.g.regs.getK b.val) widen = some (el, pos, rm, sat)) :
    Completes i s s e (e.g.wrote d.val 1).latch (fun h => WritesV e h (e.taking g) d.val (F el pos rm sat e.g.regs)) :=
  completes_of_retire (hi.trans (run_ok he ((if_neg ht).trans (by rw [hc]; rfl)))) (group?_gid_of_env he) (mapV_writes e _ _ _)

end

theorem exec_cvtNr (g : Pred) (d : VReg) (a : Src) (b : KReg) (s : State) : exec (.cvtNr g d a b) s =
    s.controlled g d b false (fun el pos rm sat r l => narrowInto el pos rm sat (r.src a l) (r.getV d.val l)) := rfl

theorem exec_cvtWd (g : Pred) (d : VReg) (a : Src) (b : KReg) (s : State) : exec (.cvtWd g d a b) s =
    s.controlled g d b true (fun el pos _ _ r l => widenFrom el pos (r.src a l)) := rfl

end Sys2Proof.Machine

namespace Sys2Proof
open Machine

/-- Settles O16: what a control word says is read from its fields, and the converted element fits its slot. -/
theorem slotConversions : Obligations.SlotConversions := by
  intro g d a b s e he c pos
  have nr := exec_cvtNr g d a b s
  have wd := exec_cvtWd g d a b s
  refine ⟨fun ht => ⟨controlled_passes nr he ht, controlled_passes wd he ht⟩, ?_, ?_, ?_, ?_, ?_⟩
  · intro el rm sat v hel
    cases el with
    | f w f => exact Fmt.encode_takes (elemOf_f hel).1 rm sat v
    | i t => exact ⟨wrap_lt _ _, IFmt.encode_takes (width_pos hel) rm v⟩
  · intro el ht hel h16 h8 h0 hslot
    exact ⟨⟨_, fun l i hi => getLsbD_narrowInto (Elem.encode_lt hel _ _ _) hi,
      controlled_completes nr he ht (cvtControl_eq_some hel h16 h8 h0 hslot nofun)⟩,
      fun h1 => controlled_completes wd he ht (cvtControl_eq_some hel h16 h8 h0 hslot fun _ => h1)⟩
  · intro ht hbad
    have hc (widen : Bool) : cvtControl (e.g.regs.getK b.val) widen = none := cvtControl_eq_none fun el hel => by
      rcases hbad with hnone | h16 | h8 | h0
      · cases hnone.symm.trans hel
      · exact .inl h16
      · exact .inr (.inl h8)
      · exact .inr (.inr (.inl h0))
    exact ⟨controlled_traps nr he ht (hc false), controlled_traps wd he ht (hc true)⟩
  · intro el ht hel hslot
    have hc (widen : Bool) : cvtControl (e.g.regs.getK b.val) widen = none := cvtControl_eq_none fun el' hel' => by
      cases hel.symm.trans hel'
      exact .inr (.inr (.inr (.inl hslot)))
    exact ⟨controlled_traps nr he ht (hc false), controlled_traps wd he ht (hc true)⟩
  · intro ht h1
    exact controlled_traps wd he ht (cvtControl_eq_none fun _ _ => .inr (.inr (.inr (.inr ⟨rfl, h1⟩))))

end Sys2Proof
end

section
/-! SREAD: the values of the special registers, and the register that they are written to (R181 to R183). -/

namespace Sys2Proof.Machine

/-! ## Values -/

theorem fieldB_lt (bs : List Byte) (off n : Nat) : fieldB bs off n < 256 ^ n :=
  (leNat_lt _).trans_le (Nat.pow_le_pow_right (by decide) (List.length_take_le n _))

theorem qmask_testBit (r : Regs) (j : Nat) : r.qmask.toNat.testBit j = (decide (j < 8) && r.getQ j) := by
  have hone : (1 : BitVec 8).getLsbD j = decide (j = 0) := by simp [BitVec.getLsbD_one]
  show (r.q ||| 1).getLsbD j = (decide (j < 8) && (j == 0 || r.q.getLsbD j))
  rw [BitVec.getLsbD_or, hone]
  by_cases hj : j < 8
  · simp [hj, Bool.or_comm, Bool.beq_eq_decide_eq]
  · have hq : r.q.getLsbD j = false := BitVec.getLsbD_of_ge r.q j (by omega)
    have hne : ¬j = 0 := by omega
    simp [hj, hq, hne]

/-- A team's index is read off its three coordinates, x first. -/
theorem coordinates_index (n x y : Nat) : n = n % x + x * (n / x % y + y * (n / x / y)) := by
  rw [Nat.mod_add_div, Nat.mod_add_div]

/-- What Cairn samples is the same in every lane. -/
theorem sampledReg_uniform {a : SReg} (h : sampledReg a = true) (s : State) (e : Env) (l k : Nat) :
    sregValue s e l a = sregValue s e k a := by
  unfold sampledReg at h
  split at h
  · rfl
  · rfl
  · rfl
  · cases h

/-- A register of w bits takes a value that has been cut to 64 bits as it would take the value itself. -/
theorem ofNat_mod_two_pow_64 {w : Nat} (hw : w ≤ 64) (n : Nat) : BitVec.ofNat w (n % 2 ^ 64) = BitVec.ofNat w n :=
  BitVec.eq_of_toNat_eq (by
    rw [BitVec.toNat_ofNat, BitVec.toNat_ofNat, Nat.mod_mod_of_dvd n (Nat.pow_dvd_pow 2 hw)])

section
variable (s : State) (e : Env) (l : Nat)

theorem sregValue_spur : sregValue s e l .spur = fieldB e.gr.bytes 36 4 := Nat.mod_eq_of_lt (fieldB_lt e.gr.bytes 36 4)

theorem sregValue_clock : sregValue s e l .clock = if fieldB e.gr.bytes 62 1 / 16 % 4 = 1 then e.g.retired.toNat else s.clk := by
  simp only [sregValue, Env.isDet, Rec.mode, beq_iff_eq]

theorem sregValue_preempt : sregValue s e l .preempt = if e.x.request.isSome then 1 else 0 := by
  simp only [sregValue, Context.isRequested]
  cases e.x.request <;> rfl

theorem sregValue_capunits : sregValue s e l .capunits =
    match s.grade with | .summit => 0x0100600F | .shoulder => 0x02003003 | .saddle => 0x0300300D := by
  simp only [sregValue]
  cases s.grade <;> rfl

theorem sregValue_capsizes : sregValue s e l .capsizes = match s.grade with | .saddle => 0x60108000 | _ => 0xC0210000 := by
  simp only [sregValue]
  cases s.grade <;> rfl

end

/-! ## Reading -/

theorem exec_sreadV (g : Pred) (d : VReg) (a : SReg) (s : State) : exec (.sreadV g d a) s =
    s.sread a (fun e => e.taking g != 0) (fun e f =>
      if a.is64 then e.g.putLanes2 (e.taking g) d.val (fun l => BitVec.ofNat 64 (f l))
      else e.g.putLanes (e.taking g) d.val (fun l => BitVec.ofNat 32 (f l))) := rfl

theorem exec_sreadK (g : Pred) (d : KReg) (a : SReg) (s : State) : exec (.sreadK g d a) s =
    s.sread a (fun e => e.g.regs.getQ g.val) (fun e f => e.g.withRegs
      (if a.is64 then e.g.regs.setK2 d.val (BitVec.ofNat 64 (f 0)) else e.g.regs.setK d.val (BitVec.ofNat 32 (f 0)))) := rfl

theorem passes_handler_check {a : SReg} {e : Env} (hm : handlerOnly a = true → e.g.trap.masked = true) :
    (handlerOnly a && !e.g.trap.masked) = false := by
  cases hh : handlerOnly a with
  | false => rfl
  | true => simp [hm hh]

section
variable {i : Instr} {s : State} {e : Env} {a : SReg} {takes : Env → Bool} {put : Env → (Nat → Nat) → Group}
  (hi : exec i s = s.sread a takes put) (he : s.env? = some e)
include hi he

theorem sread_traps (hh : handlerOnly a = true) (hm : e.g.trap.masked = false) : Traps i s e 5 0 0 e.c.mask :=
  traps_of_run (lanes := none) hi he (if_pos (by simp [hh, hm])) rfl

variable (hm : handlerOnly a = true → e.g.trap.masked = true)
include hm

theorem sread_passes (ht : takes e = false) : Completes i s s e e.g.latch (WritesNone e) :=
  completes_of_retire_same he (hi.trans (run_ok he (by
    simp only [passes_handler_check hm, ht, Bool.not_false, Bool.false_eq_true, if_false, if_true])))

/-- What is written is the value of the special register as far as a register holds it, sampled or not. -/
theorem sread_puts (hu : e.isUnlogged = true ∨ sampledReg a = false) (ht : takes e = true) :
    ∃ f : Nat → Nat, exec i s = .next (s.retire e (put e f)) ∧
      ∀ l w, w ≤ 64 → BitVec.ofNat w (f l) = BitVec.ofNat w (sregValue s e l a) := by
  have hp := passes_handler_check hm
  cases hs : sampledReg a with
  | false =>
    refine ⟨fun l => sregValue s e l a, hi.trans (run_ok he ?_), fun _ _ _ => rfl⟩
    simp only [hp, ht, hs, Bool.not_true, Bool.false_eq_true, if_false]
  | true =>
    have hu : e.isUnlogged = true := hu.resolve_right (by simp [hs])
    refine ⟨fun _ => sregValue s e 0 a % 2 ^ 64, hi.trans (run_ok he ?_), fun l w hw => ?_⟩
    · simp only [hp, ht, hs, Bool.not_true, Bool.false_eq_true, if_false, if_true, sampleOpen_unlogged hu, ok_bind, Option.map_none,
        Option.getD_none, sampleClose_unlogged hu]
    · rw [ofNat_mod_two_pow_64 hw, sampledReg_uniform hs s e 0 l]

end

/-- What does not look at the vector registers is as before a pair is written. -/
theorem mapV2_keeps {β : Type} {p : Regs → β} (hp : ∀ r v, p { r with v := v } = p r) (r : Regs) (m : Mask) (d : Nat) (f : Nat → DWord) :
    p (r.mapV2 m d f) = p r := by
  rw [mapV2_keep]
  exact hp _ _

/-- Lanes of a vector pair written, and the group past the instruction. -/
theorem mapV2_writes (e : Env) (m : Mask) (d : Nat) (f : Nat → DWord) :
    WritesV2 e ((e.g.regs.mapV2 m d f).advance e.c.mask e.c.size) m d f where
  v := fun _ _ hl => mapV2_getV _ _ _ _ hl
  k := fun j => mapV2_keeps (p := fun r => r.getK j) (fun _ _ => rfl) _ _ _ _
  p := fun j => mapV2_keeps (p := fun r => r.getP j) (fun _ _ => rfl) _ _ _ _
  q := fun j => mapV2_keeps (p := fun r => r.getQ j) (fun _ _ => rfl) _ _ _ _
  flow := complete_flows e _ (mapV2_keeps (fun _ _ => rfl) _ _ _ _) (mapV2_keeps (fun _ _ => rfl) _ _ _ _)
    (mapV2_keeps (fun _ _ => rfl) _ _ _ _)

section
variable {g : Pred} {s : State} {e : Env} {a : SReg} (he : s.env? = some e) (hm : handlerOnly a = true → e.g.trap.masked = true)
  (hu : e.isUnlogged = true ∨ sampledReg a = false)
include he hm hu

theorem sreadV_completes (d : VReg) (ht : e.taking g ≠ 0) (h32 : a.is64 = false) :
    Completes (.sreadV g d a) s s e (e.g.wrote d.val 1).latch
      (fun h => WritesV e h (e.taking g) d.val (fun l => BitVec.ofNat 32 (sregValue s e l a))) := by
  obtain ⟨f, hf, hval⟩ := sread_puts (exec_sreadV g d a s) he hm hu (bne_iff_ne.2 ht)
  simp only [h32, Bool.false_eq_true, if_false, hval _ 32 (by decide)] at hf
  exact completes_of_retire hf (group?_gid_of_env he) (mapV_writes e _ _ _)

theorem sreadV_completes64 (d : VReg) (ht : e.taking g ≠ 0) (h64 : a.is64 = true) :
    Completes (.sreadV g d a) s s e (e.g.wrote d.val 2).latch
      (fun h => WritesV2 e h (e.taking g) d.val (fun l => BitVec.ofNat 64 (sregValue s e l a))) := by
  obtain ⟨f, hf, hval⟩ := sread_puts (exec_sreadV g d a s) he hm hu (bne_iff_ne.2 ht)
  simp only [h64, if_true, hval _ 64 (by decide)] at hf
  exact completes_of_retire hf (group?_gid_of_env he) (mapV2_writes e _ _ _)

theorem sreadK_completes (d : KReg) (hq : e.g.regs.getQ g.val = true) (h32 : a.is64 = false) :
    Completes (.sreadK g d a) s s e e.g.latch (fun h => WritesK e h d.val (BitVec.ofNat 32 (sregValue s e 0 a))) := by
  obtain ⟨f, hf, hval⟩ := sread_puts (exec_sreadK g d a s) he hm hu hq
  simp only [h32, Bool.false_eq_true, if_false, hval _ 32 (by decide)] at hf
  exact completes_of_retire hf (group?_gid_of_env he) (setK_writes e _ _)

theorem sreadK_completes64 (d : KReg) (hq : e.g.regs.getQ g.val = true) (h64 : a.is64 = true) :
    Completes (.sreadK g d a) s s e e.g.latch (fun h => WritesK2 e h d.val (BitVec.ofNat 64 (sregValue s e 0 a))) := by
  obtain ⟨f, hf, hval⟩ := sread_puts (exec_sreadK g d a s) he hm hu hq
  simp only [h64, if_true, hval _ 64 (by decide)] at hf
  exact completes_of_retire hf (group?_gid_of_env he) (setK2_writes e _ _)

end

end Sys2Proof.Machine

namespace Sys2Proof
open Machine

/-- Settles O18: each value is read from the group, its team and its launch record; what is written is that value, sampled or not, once the
check of the handler's registers has passed. -/
theorem specialRegisters : Obligations.SpecialRegisters := by
  intro g d kd a s e he
  have hv := exec_sreadV g d a s
  have hk := exec_sreadK g kd a s
  refine ⟨?_, fun hh hm => ⟨sread_traps hv he hh hm, sread_traps hk he hh hm⟩, fun hm hu => ⟨?_, ?_, ?_, ?_, ?_, ?_⟩⟩
  · intro l hl v bs tr
    exact ⟨rfl, rfl, fun j => Nat.testBit_two_pow_sub_one l j, fun _ => rfl, fun _ => rfl, rfl, coordinates_index _ _ _,
      fun h => Nat.mod_lt _ (Nat.pos_of_ne_zero h), fun h => Nat.mod_lt _ (Nat.pos_of_ne_zero h), rfl, rfl, rfl, rfl, sregValue_spur s e l,
      rfl, rfl, rfl, rfl, rfl, rfl, rfl, sregValue_preempt s e l, rfl, sregValue_clock s e l, qmask_testBit e.g.regs,
      sregValue_capunits s e l, sregValue_capsizes s e l, rfl, rfl, rfl, rfl, rfl, rfl⟩
  · exact fun ht => sread_passes hv he hm (by simp [ht])
  · exact sreadV_completes he hm hu d
  · exact sreadV_completes64 he hm hu d
  · exact fun hq => sread_passes hk he hm hq
  · exact sreadK_completes he hm hu kd
  · exact sreadK_completes64 he hm hu kd

end Sys2Proof
end

section
/-! Lane-set transfers and calls: where their lanes go, and what traps (R188, R191, R192). -/

namespace Sys2Proof.Machine

/-! ## The first lane of a mask -/

theorem lanesOf_sorted (m : Mask) : (lanesOf m).Pairwise (· < ·) := List.Pairwise.filter _ List.pairwise_lt_range

theorem firstLane_eq_none {m : Mask} {f : Nat → Bool} (h : ∀ l, laneBit m l = true → f l = false) : firstLane m f = none :=
  List.find?_eq_none.2 fun l hl => by simp [h l ((mem_lanesOf m l).1 hl)]

/-- The first element of a rising list where a test holds. -/
theorem find?_eq_some_of_sorted {ls : List Nat} {f : Nat → Bool} {l : Nat} (hs : ls.Pairwise (· < ·)) (hl : l ∈ ls) (hf : f l = true)
    (hk : ∀ k ∈ ls, k < l → f k = false) : ls.find? f = some l := by
  induction ls with
  | nil => cases hl
  | cons a t ih =>
    obtain ⟨hat, ht⟩ := List.pairwise_cons.1 hs
    rcases List.mem_cons.1 hl with rfl | hlt
    · exact List.find?_cons_of_pos hf
    · rw [List.find?_cons_of_neg (by simp [hk a List.mem_cons_self (hat l hlt)])]
      exact ih ht hlt fun k hkt => hk k (List.mem_cons_of_mem a hkt)

theorem firstLane_eq_some {m : Mask} {f : Nat → Bool} {l : Nat} (hl : laneBit m l = true) (hf : f l = true)
    (hk : ∀ k, k < l → laneBit m k = true → f k = false) : firstLane m f = some l :=
  find?_eq_some_of_sorted (lanesOf_sorted m) ((mem_lanesOf m l).2 hl) hf fun k hkm hkl => hk k hkl ((mem_lanesOf m k).1 hkm)

theorem lowLane_taken {m : Mask} {l : Nat} (hl : laneBit m l = true) : laneBit m (lowLane m) = true := by
  refine (mem_lanesOf m _).1 ?_
  have hmem := (mem_lanesOf m l).2 hl
  unfold lowLane
  cases hls : lanesOf m with
  | nil => rw [hls] at hmem; cases hmem
  | cons a t => exact List.mem_cons_self

/-! ## The traps of a transfer -/

/-- Some lanes of a mask differ in their targets exactly where one differs from the lowest lane. -/
theorem targets_differ_iff {m : Mask} {goal : Nat → DWord} : (lanesOf m).any (fun l => goal l != goal (lowLane m)) = true ↔
    ∃ a b, laneBit m a = true ∧ laneBit m b = true ∧ goal a ≠ goal b := by
  simp only [List.any_eq_true, bne_iff_ne, mem_lanesOf]
  constructor
  · rintro ⟨l, hl, hne⟩
    exact ⟨l, lowLane m, hl, lowLane_taken hl, hne⟩
  · rintro ⟨a, b, ha, hb, hne⟩
    by_cases h : goal a = goal (lowLane m)
    · exact ⟨b, hb, fun hb' => hne (h.trans hb'.symm)⟩
    · exact ⟨a, ha, h⟩

section
variable {e : Env} {take : Mask} {x : Transfer} {goal : Nat → DWord}

theorem transferTrap_split (hu : x.u = true) (h : take ≠ 0 ∧ take ≠ e.c.mask) :
    transferTrap e take x goal = some (.trap 18 0 0 (some take) 0) := if_pos ⟨hu, h⟩

theorem transferTrap_differ (hu : x.u = true) (hr : x.regTarget = true) (hs : ¬(take ≠ 0 ∧ take ≠ e.c.mask))
    (h : ∃ a b, laneBit take a = true ∧ laneBit take b = true ∧ goal a ≠ goal b) :
    transferTrap e take x goal = some (.trap 18 0 0 (some take) 0) :=
  (if_neg fun hc => hs hc.2).trans (if_pos ⟨hu, hr, targets_differ_iff.2 h⟩)

/-- The lanes of a transfer agree as U asks (R192). -/
def TargetsAgree (e : Env) (take : Mask) (x : Transfer) (goal : Nat → DWord) : Prop :=
  ¬(x.u = true ∧ ((take ≠ 0 ∧ take ≠ e.c.mask) ∨
    (x.regTarget = true ∧ ∃ a b, laneBit take a = true ∧ laneBit take b = true ∧ goal a ≠ goal b)))

/-- The targets that come from registers are aligned. -/
def TargetsAligned (take : Mask) (x : Transfer) (goal : Nat → DWord) : Prop :=
  x.regTarget = true → ∀ l, laneBit take l = true → (goal l).toNat % 4 = 0

/-- Past the checks of U, what counts are the first misaligned target of a register, then the first one outside the window. -/
theorem transferTrap_of_agree (hu : TargetsAgree e take x goal) : transferTrap e take x goal =
    ((if x.regTarget then firstLane take (fun l => (goal l).toNat % 4 != 0) else none).map
      (fun l => Stop.trap 7 0 (goal l).toNat none 0)).or
    ((firstLane take (fun l => decide (2 ^ 57 ≤ (goal l).toNat))).map (fun l => Stop.trap 6 0 (goal l).toNat none 0)) := by
  have hsplit : ¬(x.u = true ∧ take ≠ 0 ∧ take ≠ e.c.mask) := fun h => hu ⟨h.1, .inl h.2⟩
  have hdiffer : ¬(x.u = true ∧ x.regTarget = true ∧ (lanesOf take).any (fun l => goal l != goal (lowLane take)) = true) :=
    fun h => hu ⟨h.1, .inr ⟨h.2.1, targets_differ_iff.1 h.2.2⟩⟩
  unfold transferTrap
  dsimp only
  rw [if_neg hsplit, if_neg hdiffer]
  cases (if x.regTarget then firstLane take (fun l => (goal l).toNat % 4 != 0) else none) with
  | some l => rfl
  | none => cases firstLane take (fun l => decide (2 ^ 57 ≤ (goal l).toNat)) <;> rfl

theorem transferTrap_misaligned (hu : TargetsAgree e take x goal) (hr : x.regTarget = true) {l : Nat} (hl : laneBit take l = true)
    (hf : (goal l).toNat % 4 ≠ 0) (hk : ∀ k, k < l → laneBit take k = true → (goal k).toNat % 4 = 0) :
    transferTrap e take x goal = some (.trap 7 0 (goal l).toNat none 0) := by
  have hfirst : firstLane take (fun l => (goal l).toNat % 4 != 0) = some l :=
    firstLane_eq_some hl (bne_iff_ne.2 hf) fun k hkl hkt => by simp [hk k hkl hkt]
  rw [transferTrap_of_agree hu, if_pos hr, hfirst]
  rfl

/-- Of aligned targets the first one outside the window counts. -/
theorem transferTrap_of_aligned (hu : TargetsAgree e take x goal) (ha : TargetsAligned take x goal) : transferTrap e take x goal =
    (firstLane take (fun l => decide (2 ^ 57 ≤ (goal l).toNat))).map (fun l => Stop.trap 6 0 (goal l).toNat none 0) := by
  have hnone : (if x.regTarget then firstLane take (fun l => (goal l).toNat % 4 != 0) else none) = none := by
    split
    next hr => exact firstLane_eq_none fun l hl => by simp [ha hr l hl]
    next => rfl
  rw [transferTrap_of_agree hu, hnone]
  rfl

theorem transferTrap_outside (hu : TargetsAgree e take x goal) (ha : TargetsAligned take x goal) {l : Nat} (hl : laneBit take l = true)
    (hf : 2 ^ 57 ≤ (goal l).toNat) (hk : ∀ k, k < l → laneBit take k = true → (goal k).toNat < 2 ^ 57) :
    transferTrap e take x goal = some (.trap 6 0 (goal l).toNat none 0) := by
  rw [transferTrap_of_aligned hu ha,
    firstLane_eq_some hl (decide_eq_true hf) fun k hkl hkt => decide_eq_false (Nat.not_le.2 (hk k hkl hkt))]
  rfl

theorem transferTrap_none (hu : TargetsAgree e take x goal) (ha : TargetsAligned take x goal)
    (hn : ∀ l, laneBit take l = true → (goal l).toNat < 2 ^ 57) : transferTrap e take x goal = none := by
  rw [transferTrap_of_aligned hu ha, firstLane_eq_none fun l hl => decide_eq_false (Nat.not_le.2 (hn l hl))]
  rfl

end

/-! ## The group after a transfer -/

/-- A group with other loop buffers. -/
theorem loadLoops_keeps (g : Group) (s : State) (e : Env) (take : Mask) (target : Nat → Nat) :
    g.loadLoops s e take target = { g with loops := (g.loadLoops s e take target).loops } := by
  unfold Group.loadLoops
  split
  · rfl
  · refine List.foldlRecOn (motive := fun h : Group => h = { g with loops := h.loops }) (lanesOf take) _ rfl fun h hh l _ => ?_
    dsimp only
    split
    · exact hh
    · split
      · rw [hh]
      · exact hh

/-- What retiring at the program counters as they stand comes to after a transfer. -/
theorem retireAt_passedJump {s : State} {e : Env} {h : Group} {x : Option Latch} (he : s.env? = some e)
    (hh : h = { e.g with
      regs := h.regs, loops := h.loops, latch := x, retired := e.g.retiredNext, park := none, due := none, replies := [], fetched := none }) :
    PassedJump s (s.retireAt e h) e x h :=
  have hgid : h.gid = e.g.gid := by rw [hh]
  ⟨retireAt_frame hgid, retireAt_found he hgid, hh⟩

theorem getB_foldl_putB_lanes {w : Nat} (f : Nat → BitVec w) (ls : List Nat) : ∀ (p : BMap w) (l : Nat),
    getB (ls.foldl (fun p l => putB p l (f l)) p) l = if l ∈ ls then f l else getB p l := by
  induction ls with
  | nil => intro p l; simp
  | cons a t ih =>
    intro p l
    rw [List.foldl_cons, ih, getB_putB]
    by_cases ht : l ∈ t
    · simp [ht]
    · by_cases hla : l = a
      · subst hla; simp
      · simp [ht, hla]

/-- Lanes of a mask are sent to addresses of their own. -/
theorem getPc_sent (r : Regs) (m : Mask) (f : Nat → Pc) (l : Nat) :
    Regs.getPc { r with pc := (lanesOf m).foldl (fun p l => putB p l (f l)) r.pc } l = if laneBit m l = true then f l else r.getPc l :=
  (getB_foldl_putB_lanes f (lanesOf m) r.pc l).trans (by simp only [mem_lanesOf]; rfl)

theorem laneBit_and_not (m n : Mask) (l : Nat) : laneBit (m &&& ~~~n) l = (laneBit m l && !laneBit n l) := by
  unfold laneBit
  rw [BitVec.getLsbD_and, BitVec.getLsbD_not]
  by_cases hl : l < 32
  · simp [hl]
  · simp [BitVec.getLsbD_of_ge m l (by omega)]

/-- The registers after a transfer: the executing lanes that do not take it advance, the others move and, with W, wait. -/
def Regs.sent (r : Regs) (e : Env) (take : Mask) (w : Bool) (goal : Nat → DWord) : Regs :=
  let h := r.advance (e.c.mask &&& ~~~take) e.c.size
  { h with
    pc := (lanesOf take).foldl (fun p l => putB p l ((goal l).setWidth 57)) h.pc
    wait := if w then h.wait ||| take else h.wait }

theorem sent_jumps (e : Env) (take : Mask) (w : Bool) (goal : Nat → DWord) {r : Regs} (hp : r.pc = e.g.regs.pc)
    (hl : r.live = e.g.regs.live) (hw : r.wait = e.g.regs.wait) :
    Jumps e (r.sent e take w goal) take w (fun l => (goal l).setWidth 57) where
  pc := fun l _ => by
    refine (getPc_sent (r.advance (e.c.mask &&& ~~~take) e.c.size) take _ l).trans ?_
    rw [advance_getPc, laneBit_and_not]
    cases laneBit take l <;> simp [Regs.getPc, hp]
  live := hl
  wait := congrArg (fun m => if w then m ||| take else m) hw

/-- A transfer without a link changes no register but the divergence state. -/
theorem transfer_unlinked (e : Env) (take : Mask) (reg w u : Bool) (goal : Nat → DWord) :
    e.g.transfer e take ⟨reg, w, u, none⟩ goal = { e.g with
      regs := e.g.regs.sent e take w goal, retired := e.g.retiredNext, park := none, due := none, replies := [], fetched := none } := by
  cases w <;> rfl

/-- A call writes its link before its lanes move. -/
theorem transfer_linked (e : Env) (take : Mask) (reg u : Bool) (d : VReg) (goal : Nat → DWord) :
    e.g.transfer e take ⟨reg, false, u, some d⟩ goal = { e.g with
      regs := (e.g.regs.mapV2 take d.val (fun _ => e.c.pc.setWidth 64 + 4)).sent e take false goal, latch := (e.g.wrote d.val 2).latch,
      retired := e.g.retiredNext, park := none, due := none, replies := [], fetched := none } := rfl

/-! ## The instructions -/

section
variable {i : Instr} {g : Pred} {reg w u : Bool} {link : Option VReg} {target : Regs → Issue → Nat → DWord} {goal : Env → Nat → DWord}
  (hi : ∀ s, exec i s = s.transfer g ⟨reg, w, u, link⟩ target) (hgoal : ∀ e, target e.g.regs e.c = goal e)
include hi hgoal

/-- A transfer that none of its checks stops. -/
theorem exec_transfer {s : State} {e : Env} (he : s.env? = some e)
    (hn : transferTrap e (e.taking g) ⟨reg, w, u, link⟩ (goal e) = none) : exec i s = .next (s.retireAt e
      (if link.isNone then (e.g.transfer e (e.taking g) ⟨reg, w, u, link⟩ (goal e)).loadLoops s e (e.taking g) (fun l => (goal e l).toNat)
       else e.g.transfer e (e.taking g) ⟨reg, w, u, link⟩ (goal e))) :=
  (hi s).trans (run_ok he (by simp only [hgoal, hn]))

theorem traps_transfer {s : State} {e : Env} (he : s.env? = some e) {cause info addr : Nat} {lanes : Option Mask} {m : Mask}
    (hn : transferTrap e (e.taking g) ⟨reg, w, u, link⟩ (goal e) = some (.trap cause info addr lanes 0)) (hm : lanes.getD e.c.mask = m) :
    Traps i s e cause info addr m :=
  traps_of_run (hi s) he (by simp only [hgoal, hn]) hm

theorem transferTraps_of_exec : TransferTraps i g reg u goal := by
  intro s e he differ split
  refine ⟨fun hu hs => traps_transfer hi hgoal he (transferTrap_split hu hs) rfl,
    fun hu hr hs hd => traps_transfer hi hgoal he (transferTrap_differ hu hr hs hd) rfl, fun hu => ?_⟩
  have hagree : TargetsAgree e (e.taking g) ⟨reg, w, u, link⟩ (goal e) := hu
  constructor
  · intro l hr hl hf hk
    exact traps_transfer hi hgoal he (transferTrap_misaligned hagree hr hl hf hk) rfl
  · intro l ha hl hf hk
    exact traps_transfer hi hgoal he (transferTrap_outside hagree ha hl hf hk) rfl

end

/-- The lanes agree where they take part all or none and the targets from registers are one. -/
theorem targetsAgree_of {e : Env} {take : Mask} {x : Transfer} {goal : Nat → DWord} (hs : x.u = true → take = 0 ∨ take = e.c.mask)
    (hd : x.u = true → x.regTarget = true → ∀ a b, laneBit take a = true → laneBit take b = true → goal a = goal b) :
    TargetsAgree e take x goal := by
  rintro ⟨hu, ⟨h0, hm⟩ | ⟨hr, a, b, ha, hb, hne⟩⟩
  · exact (hs hu).elim h0 hm
  · exact hne (hd hu hr a b ha hb)

theorem transfers_of_exec {i : Instr} {g : Pred} {reg w u : Bool} {target : Regs → Issue → Nat → DWord} {goal : Env → Nat → DWord}
    (hi : ∀ s, exec i s = s.transfer g ⟨reg, w, u, none⟩ target) (hgoal : ∀ e, target e.g.regs e.c = goal e) :
    Transfers i g reg w u goal := by
  intro s e he hs hd ha hn
  have hexec := exec_transfer hi hgoal he (transferTrap_none (targetsAgree_of hs hd) ha hn)
  rw [if_pos Option.isNone_none, transfer_unlinked, loadLoops_keeps] at hexec
  exact ⟨_, _, hexec, retireAt_passedJump he rfl, fun _ _ _ => rfl, fun _ => rfl, fun _ => rfl, fun _ => rfl,
    sent_jumps e _ w _ rfl rfl rfl⟩

theorem calls_of_exec {i : Instr} {g : Pred} {d : VReg} {reg u : Bool} {target : Regs → Issue → Nat → DWord} {goal : Env → Nat → DWord}
    (hi : ∀ s, exec i s = s.transfer g ⟨reg, false, u, some d⟩ target) (hgoal : ∀ e, target e.g.regs e.c = goal e) :
    Calls i g d reg u goal := by
  intro s e he hs hd ha hn
  have hexec := exec_transfer hi hgoal he (transferTrap_none (targetsAgree_of hs hd) ha hn)
  rw [if_neg (by exact Bool.false_ne_true), transfer_linked] at hexec
  refine ⟨_, _, hexec, retireAt_passedJump he rfl, fun n l hl => mapV2_getV _ _ _ _ hl, ?_, ?_, ?_, ?_⟩
  · exact fun j => mapV2_keeps (p := fun r => r.getK j) (fun _ _ => rfl) _ _ _ _
  · exact fun j => mapV2_keeps (p := fun r => r.getP j) (fun _ _ => rfl) _ _ _ _
  · exact fun j => mapV2_keeps (p := fun r => r.getQ j) (fun _ _ => rfl) _ _ _ _
  · exact sent_jumps e _ false _ (mapV2_keeps (fun _ _ => rfl) _ _ _ _) (mapV2_keeps (fun _ _ => rfl) _ _ _ _)
      (mapV2_keeps (fun _ _ => rfl) _ _ _ _)

section
variable (g : Pred) (d : VReg) (a : Src) (o : BitVec 19) (c : BitVec 13) (w u : Bool) (lit : Word) (s : State)

theorem exec_bra : exec (.bra g o w u) s = s.transfer g ⟨false, w, u, none⟩ (fun _ c _ => relTarget (4 * o.signExtend 64) c) := rfl

theorem exec_bral : exec (.bral g w u lit) s = s.transfer g ⟨false, w, u, none⟩ (fun _ c _ => relTarget (lit.signExtend 64) c) := rfl

theorem exec_brx : exec (.brx g a w u) s = s.transfer g ⟨true, w, u, none⟩ (fun r _ l => r.src2 a l) := rfl

theorem exec_ret : exec (.ret g a u) s = s.transfer g ⟨true, false, u, none⟩ (fun r _ l => r.src2 a l) := rfl

theorem exec_call : exec (.call g d c u) s = s.transfer g ⟨false, false, u, some d⟩ (fun _ i _ => relTarget (4 * c.signExtend 64) i) := rfl

theorem exec_callx : exec (.callx g d a u) s = s.transfer g ⟨true, false, u, some d⟩ (fun r _ l => r.src2 a l) := rfl

end

/-- The target of an offset that counts words (R191). -/
theorem relTarget_words {n : Nat} (o : BitVec n) (c : Issue) :
    relTarget (4 * o.signExtend 64) c = c.pc.setWidth 64 + o.signExtend 64 * 4 :=
  congrArg (c.pc.setWidth 64 + ·) (BitVec.mul_comm _ _)

end Sys2Proof.Machine

namespace Sys2Proof
open Machine

/-- Settles O19: the six forms are one transfer with a target of their own, which is stopped by the first of its checks that fails and
moves its lanes where none does. -/
theorem controlTransfers : Obligations.ControlTransfers := by
  refine ⟨fun g d a o c w u lit => ⟨?_, ?_, ?_, ?_, ?_, ?_⟩, fun g d a o c w u lit => ⟨?_, ?_, ?_, ?_, ?_, ?_⟩⟩
  · exact transfers_of_exec (exec_bra g o w u) fun e => funext fun _ => relTarget_words o e.c
  · exact transfers_of_exec (exec_bral g w u lit) fun _ => rfl
  · exact transfers_of_exec (exec_brx g a w u) fun _ => rfl
  · exact transfers_of_exec (exec_ret g a u) fun _ => rfl
  · exact calls_of_exec (exec_call g d c u) fun e => funext fun _ => relTarget_words c e.c
  · exact calls_of_exec (exec_callx g d a u) fun _ => rfl
  · exact transferTraps_of_exec (exec_bra g o w u) fun e => funext fun _ => relTarget_words o e.c
  · exact transferTraps_of_exec (exec_bral g w u lit) fun _ => rfl
  · exact transferTraps_of_exec (exec_brx g a w u) fun _ => rfl
  · exact transferTraps_of_exec (exec_ret g a u) fun _ => rfl
  · exact transferTraps_of_exec (exec_call g d c u) fun e => funext fun _ => relTarget_words c e.c
  · exact transferTraps_of_exec (exec_callx g d a u) fun _ => rfl

end Sys2Proof
end

section
/-! Uniform branches, UNOP and YIELD (R188, R195, R196). -/

namespace Sys2Proof.Machine

/-! ## Uniform branches -/

section
variable (g : Pred) (o : BitVec 19) (u : Bool) (lit : Word) (s : State)

theorem exec_ubra : exec (.ubra g o u) s = s.ubranch g (4 * o.signExtend 64) := rfl

theorem exec_ubral : exec (.ubral g u lit) s = s.ubranch g (lit.signExtend 64) := rfl

theorem exec_unop : exec (.unop g) s = s.uniform g (fun e => .ok (s.retire e e.g)) := rfl

theorem exec_yield : exec (.yield g) s = s.uniform g (fun e =>
    if e.isRequested && !e.g.trap.masked then .ok ((s.retire e e.g).stopAt e 0) else .ok (s.retire e e.g)) := rfl

end

/-- The registers after a uniform branch. -/
theorem jump_jumps (e : Env) (x : Pc) : Jumps e ((e.g.regs.advance 0 0).jump e.c.mask x) e.c.mask false (fun _ => x) where
  pc := fun l _ => by
    refine (getPc_sent (e.g.regs.advance 0 0) e.c.mask (fun _ => x) l).trans ?_
    rw [advance_getPc]
    cases laneBit e.c.mask l <;> simp [laneBit]
  live := rfl
  wait := rfl

section
variable {i : Instr} {g : Pred} {off : DWord} {s : State} {e : Env} (hi : exec i s = s.ubranch g off) (he : s.env? = some e)
include hi he

theorem ubranch_passes (hq : e.g.regs.getQ g.val = false) : Completes i s s e e.g.latch (WritesNone e) :=
  completes_of_retire_same he (hi.trans (uniform_off he hq))

variable (hq : e.g.regs.getQ g.val = true)
include hq

theorem ubranch_traps (h : 2 ^ 57 ≤ (relTarget off e.c).toNat) : Traps i s e 6 0 (relTarget off e.c).toNat e.c.mask :=
  traps_of_run (lanes := none) (hi.trans (uniform_on he hq)) he (if_pos h) rfl

theorem ubranch_moves (h : (relTarget off e.c).toNat < 2 ^ 57) : ∃ t h, exec i s = .next t ∧ PassedJump s t e e.g.latch h ∧
    Jumps e h.regs e.c.mask false (fun _ => (relTarget off e.c).setWidth 57) ∧
    VSame e.g.regs h.regs ∧ KSame e.g.regs h.regs ∧ PSame e.g.regs h.regs ∧ QSame e.g.regs h.regs := by
  have hexec := hi.trans ((uniform_on he hq).trans (run_ok he (if_neg (Nat.not_le.2 h))))
  rw [loadLoops_keeps] at hexec
  exact ⟨_, _, hexec, retireAt_passedJump he rfl, jump_jumps e _, fun _ _ _ => rfl, fun _ => rfl, fun _ => rfl, fun _ => rfl⟩

end

/-! ## Groups that are stopped -/

/-- A group is asked to stop. -/
def State.IsStopped (s : State) (n : Nat) : Prop := ∃ g, s.group? n = some g ∧ g.stop.isSome = true

/-- A group is stopped where its own part of a change of all groups stops it. -/
theorem isStopped_of_map {s : State} {f : Group → Group} {ts : List Team} {n : Nat} {g : Group} (hf : ∀ g, (f g).gid = g.gid)
    (hg : s.group? n = some g) (hstop : (f g).stop.isSome = true) : State.IsStopped { s with groups := s.groups.map f, teams := ts } n :=
  ⟨f g, (find_map_gid s.groups n f hf).trans (congrArg (Option.map f) hg), hstop⟩

theorem stopTeam_isStopped {s : State} {n tid info : Nat} {g : Group} (hg : s.group? n = some g)
    (h : g.stop.isSome = true ∨ g.gid / 32 = tid ∧ g.ended = false) : (s.stopTeam tid info).IsStopped n := by
  refine isStopped_of_map (fun g => by split <;> rfl) hg ?_
  split
  next => rfl
  next hn =>
    obtain hs | ⟨ht, hend⟩ := h
    · exact hs
    · cases hstop : g.stop with
      | none => simp [ht, hend, hstop] at hn
      | some k => rfl

theorem modGroup_isStopped {s : State} {n info : Nat} {g : Group} (hg : s.group? n = some g) :
    (s.modGroup n (fun g => { g with stop := some info })).IsStopped n := by
  refine isStopped_of_map (fun g => by split <;> rfl) hg ?_
  dsimp only
  rw [if_pos (gid_of hg)]
  rfl

theorem State.IsStopped.cutTeam {s : State} {n : Nat} (h : s.IsStopped n) (tid : Nat) : (s.cutTeam tid).IsStopped n := by
  obtain ⟨g, hg, hs⟩ := h
  refine isStopped_of_map (fun g => by split <;> rfl) hg ?_
  split
  · rfl
  · exact hs

/-- A team that is cut still has its groups stopped. -/
theorem State.IsStopped.cutTry {s : State} {n : Nat} (h : s.IsStopped n) (tid : Nat) : (s.cutTry tid).IsStopped n := by
  have hcut : ∀ (s1 : State) (b : Bool), s1.IsStopped n → (if b = true then s1.cutTeam tid else s1).IsStopped n := by
    intro s1 b h1
    split
    · exact h1.cutTeam tid
    · exact h1
  have hstop : (s.stopTeam tid 0).IsStopped n := by
    obtain ⟨g, hg, hs⟩ := h
    exact stopTeam_isStopped hg (.inl hs)
  unfold State.cutTry
  split
  next => exact h
  next =>
    split
    next => exact h
    next =>
      dsimp only
      split
      next => exact h
      next =>
        split
        next => exact hcut _ _ hstop
        next => exact hcut _ _ h

/-! ## YIELD -/

section
variable {s : State} {e : Env} (info : Nat)

theorem stopAt_stopsOnly : StopsOnly s (s.stopAt e info) := by
  unfold State.stopAt
  refine StopsOnly.trans ?_ (cutTry_stopsOnly _ _)
  split
  · exact stopTeam_stopsOnly s _ _
  · exact stopsOnly_of_map fun g => by split <;> rfl

/-- The group of the issued instruction is stopped, whether by itself or with all of its DET team. -/
theorem stopAt_isStopped {g : Group} (hg : s.group? e.g.gid = some g) (ht : g.gid / 32 = e.t.tid) (hend : g.ended = false) :
    (s.stopAt e info).IsStopped e.g.gid := by
  unfold State.stopAt
  refine State.IsStopped.cutTry ?_ _
  split
  · exact stopTeam_isStopped hg (.inr ⟨ht, hend⟩)
  · exact modGroup_isStopped hg

end

section
variable {g : Pred} {s : State} {e : Env} (he : s.env? = some e) (hq : e.g.regs.getQ g.val = true)
include he hq

theorem yield_passes (h : e.isRequested = false ∨ e.g.trap.masked = true) :
    Completes (.yield g) s s e e.g.latch (WritesNone e) := by
  refine completes_of_retire_same he ((exec_yield g s).trans ((uniform_on he hq).trans (run_ok he (if_neg ?_))))
  rcases h with h | h <;> simp [h]

theorem yield_stops (hr : e.isRequested = true) (hm : e.g.trap.masked = false) (hend : e.g.ended = false) :
    ∃ t h, exec (.yield g) s = .next t ∧ t.group? e.g.gid = some h ∧ h.stop.isSome = true ∧ WritesNone e h.regs ∧
      h.retired = e.g.retiredNext ∧ ∀ a, getB t.mem a = getB s.mem a := by
  have hfound : (s.retire e e.g).group? e.g.gid = some (e.g.complete e.c.mask e.c.size) := retireAt_found he rfl
  have htid : (e.g.complete e.c.mask e.c.size).gid / 32 = e.t.tid := by rw [env_tid he, ← env_gid he]; rfl
  obtain ⟨h, hh, hstop⟩ := stopAt_isStopped 0 hfound htid hend
  obtain ⟨k, hk, hku⟩ := (stopAt_stopsOnly (e := e) 0).found hfound
  cases hk.symm.trans hh
  have hregs : h.regs = (e.g.complete e.c.mask e.c.size).regs := (congrArg Group.regs hku :)
  have hret : h.retired = e.g.retiredNext := (congrArg Group.retired hku :)
  refine ⟨_, h, (exec_yield g s).trans ((uniform_on he hq).trans (run_ok he (if_pos (by simp [hr, hm])))), hh, hstop, ?_, hret, fun a => ?_⟩
  · rw [hregs]; exact retire_none e
  · rw [(stopAt_stopsOnly 0).mem, State.retire_mem]

end

end Sys2Proof.Machine

namespace Sys2Proof
open Machine

/-- Settles O20: a uniform branch sends all executing lanes to its target or traps; UNOP and a YIELD with nothing asked retire; one that stops
its group has retired before. -/
theorem uniformControl : Obligations.UniformControl := by
  intro g o u lit s e he near far moves
  have hnear : relTarget (4 * o.signExtend 64) e.c = near := relTarget_words o e.c
  have hb := exec_ubra g o u s
  have hl := exec_ubral g u lit s
  refine ⟨fun hq => ⟨ubranch_passes hb he hq, ubranch_passes hl he hq, ?_⟩, ?_, fun hq => ⟨?_, ?_, ?_, ?_, ?_, ?_⟩⟩
  · exact completes_of_retire_same he ((exec_yield g s).trans (uniform_off he hq))
  · cases hq : e.g.regs.getQ g.val with
    | false => exact completes_of_retire_same he ((exec_unop g s).trans (uniform_off he hq))
    | true => exact completes_of_retire_same he ((exec_unop g s).trans ((uniform_on he hq).trans (run_ok he rfl)))
  · exact hnear ▸ ubranch_moves hb he hq
  · exact hnear ▸ ubranch_traps hb he hq
  · exact ubranch_moves hl he hq
  · exact ubranch_traps hl he hq
  · exact yield_passes he hq
  · exact yield_stops he hq

end Sys2Proof
end

section
/-! EXIT while lanes of the group are left (R193, R335). -/

namespace Sys2Proof.Machine

theorem exec_exit (g : Pred) (s : State) : exec (.exit g) s = s.run (fun e =>
    if (e.g.exited e (e.taking g)).regs.live = 0 then .ok (s.endGroup e (e.g.exited e (e.taking g)))
    else .ok (s.retireAt e (e.g.exited e (e.taking g)))) := rfl

/-- Lanes that exit leave the trap registers but for the divergence words of the shadow. -/
theorem exited_keeps (r : TrapRegs) (m : Mask) : r.exited m = { r with div := (r.exited m).div } := by
  unfold TrapRegs.exited
  split <;> rfl

/-- In a handler the shadow of the lanes that exit loses LIVE (R335). -/
theorem exited_div (r : TrapRegs) (m : Mask) (l : Nat) : getB (r.exited m).div l =
    if r.masked = true ∧ laneBit m l = true then getB r.div l &&& 0x7FFFFFFFFFFFFFFF else getB r.div l := by
  have hlive : (0x7FFFFFFFFFFFFFFF : DWord) = ~~~(BitVec.ofNat 64 (2 ^ 63)) := by decide
  unfold TrapRegs.exited
  split
  next hm =>
    refine (getB_foldl_putB_lanes (fun l => getB r.div l &&& ~~~(BitVec.ofNat 64 (2 ^ 63))) (lanesOf m) r.div l).trans ?_
    simp only [mem_lanesOf, hm, true_and, hlive]
  next hm => simp [hm]

theorem exited_getPc (e : Env) (m : Mask) (l : Nat) : (e.g.exited e m).regs.getPc l =
    if laneBit e.c.mask l = true ∧ laneBit m l = false then e.g.regs.getPc l + BitVec.ofNat 57 e.c.size else e.g.regs.getPc l := by
  refine (advance_getPc e.g.regs (e.c.mask &&& ~~~m) e.c.size l).trans ?_
  rw [laneBit_and_not]
  simp only [Bool.and_eq_true, Bool.not_eq_true']

theorem exit_leaves {g : Pred} {s : State} {e : Env} (he : s.env? = some e) (h : e.g.regs.live &&& ~~~(e.taking g) ≠ 0) :
    exec (.exit g) s = .next (s.retireAt e (e.g.exited e (e.taking g))) := (exec_exit g s).trans (run_ok he (if_neg h))

theorem exit_ends {g : Pred} {s : State} {e : Env} (he : s.env? = some e) (h : e.g.regs.live &&& ~~~(e.taking g) = 0) :
    exec (.exit g) s = .next (s.endGroup e (e.g.exited e (e.taking g))) := (exec_exit g s).trans (run_ok he (if_pos h))

end Sys2Proof.Machine
end

section
/-! What the ends of groups and teams, and a save, leave of the groups: none is new, and none lives again (R193, R345). -/

namespace Sys2Proof.Machine

/-! ## Operations that leave the groups alone -/

@[simp] theorem postCtx_groups (s : State) (c code arg : Nat) : (s.postCtx c code arg).groups = s.groups := by
  unfold State.postCtx
  rw [(postEv_postsOnly _ _ _).rest]

@[simp] theorem writeOwn_groups (s : State) (pa : Nat) (bs : List Byte) : (s.writeOwn pa bs).groups = s.groups :=
  (writeOwn_storesOnly s pa bs).groups

theorem setCtx_told_groups (s : State) (c : Nat) (x : Context) (p : Prop) [Decidable p] (code n : Nat) :
    (if p then (s.setCtx c x).postCtx c code n else s.setCtx c x).groups = s.groups := by
  split
  · exact postCtx_groups _ _ _ _
  · rfl

@[simp] theorem tqPost_groups (s : State) (c : Nat) (r : TrapRec) (rep : Option Replay) : (s.tqPost c r rep).groups = s.groups := by
  unfold State.tqPost
  exact (setCtx_told_groups _ _ _ _ _ _).trans (writeOwn_groups _ _ _)

@[simp] theorem postFatal_groups (s : State) (c : Nat) (r : TrapRec) : (s.postFatal c r).groups = s.groups := by
  unfold State.postFatal
  dsimp only
  split <;> simp

@[simp] theorem cairnThresh_groups (s : State) (c : Nat) : (s.cairnThresh c).groups = s.groups := by
  unfold State.cairnThresh
  dsimp only
  split <;> simp

@[simp] theorem cairnAdvance_groups (c : Nat) (n : Nat) : ∀ s : State, (s.cairnAdvance c n).groups = s.groups := by
  induction n with
  | zero => exact fun _ => rfl
  | succ n ih =>
    intro s
    unfold State.cairnAdvance
    dsimp only
    split
    · rw [ih, cairnThresh_groups, State.modCtx_groups]
    · rfl

@[simp] theorem dropReplay_groups (s : State) (t : Team) : (s.dropReplay t).groups = s.groups := by
  unfold State.dropReplay
  split
  · rfl
  · dsimp only
    split <;> simp

@[simp] theorem leaveFusion_groups (s : State) (t : Team) : (s.leaveFusion t).groups = s.groups := (leaveFusion_usesOnly s t).groups

@[simp] theorem clearRequest_groups (s : State) (c : Nat) : (s.clearRequest c).groups = s.groups := by
  unfold State.clearRequest
  split
  · rfl
  · split <;> rfl

@[simp] theorem reap_groups (s : State) : s.reap.groups = s.groups :=
  foldl_keeps (fun a : State => a.groups) _ (by simp) _ _

@[simp] theorem landTeam_groups (s : State) (tid : Nat) : (s.landTeam tid).groups = s.groups := landLate_groups s _

@[simp] theorem forgetAsk_groups (s : State) (key : Nat) : (s.forgetAsk key).groups = s.groups := by
  simp [State.forgetAsk]

@[simp] theorem dropRemote_groups (s : State) (drop : Nat × Remote → Bool) : (s.dropRemote drop).groups = s.groups := by
  simp [State.dropRemote]

@[simp] theorem ask_groups (s : State) (massif key : Nat) (r : Req) : (s.ask massif key r).groups = s.groups := by
  unfold State.ask
  dsimp only
  split
  · rfl
  · split
    · rfl
    · simp [State.sendOne]

/-! ## Writes of the part -/

/-- What an act of the part comes to, if it does not fail, has the groups of the state before. -/
def GroupsKept (s : State) (x : Except OwnErr State) : Prop := Leads (fun _ => True) (fun t => t.groups = s.groups) x

theorem GroupsKept.trans {s s1 : State} {x : Except OwnErr State} (h : s1.groups = s.groups) (hx : GroupsKept s1 x) : GroupsKept s x := by
  unfold GroupsKept at hx
  rwa [h] at hx

theorem leads_unless {α β : Type} {A : α → Prop} {p : Prop} [Decidable p] {x : Except β α} {b : β} (h : ¬p → Leads (fun _ => True) A x) :
    Leads (fun _ => True) A (if p then .error b else x) := by
  split
  · exact .error trivial
  next hp => exact h hp

theorem ownAsk_groups (rs : List Req) : ∀ s : State, Leads (fun _ => True) (fun r => r.1.groups = s.groups) (ownAsk s rs) := by
  induction rs with
  | nil => exact fun _ => .ok rfl
  | cons r rs ih =>
    intro s
    unfold ownAsk
    split
    · exact .error trivial
    · split
      · exact (ih _).bind fun _ h => .pure h
      · exact .error trivial

theorem ownPlaces_groups {massif c : Nat} {spur : Option Word} {acc : Acc} (ps : List (Nat × Nat)) :
    ∀ s : State, Leads (fun _ => True) (fun r => r.1.groups = s.groups) (ownPlaces s massif c spur acc ps) := by
  induction ps with
  | nil => exact fun _ => .ok rfl
  | cons p ps ih =>
    intro s
    unfold ownPlaces
    split
    · exact .error trivial
    · split
      · exact .error trivial
      next s1 _ _ hx =>
        have hs1 : s1.groups = s.groups := (xlate_storesOnly hx).groups
        refine leads_unless fun _ => leads_unless fun _ => ?_
        exact (ih s1).bind fun _ h => .pure (h.trans hs1)

theorem ownWrite_groups (s : State) (massif c : Nat) (spur : Option Word) (va : Nat) (bs : List Byte) :
    GroupsKept s (ownWrite s massif c spur va bs) := by
  unfold ownWrite GroupsKept
  refine (ownPlaces_groups _ s).bind fun ⟨s1, ps⟩ h1 => (ownAsk_groups _ s1).bind fun ⟨s2, _⟩ h2 => ?_
  dsimp only
  split
  · exact .error trivial
  · exact .pure (by rw [State.dieMet_groups, storeAll_groups, (clearLost_storesOnly s2 _).groups]; exact h2.trans h1)

theorem ownWrites_groups {massif c : Nat} {spur : Option Word} (ws : List (Nat × List Byte)) :
    ∀ s : State, GroupsKept s (ownWrites s massif c spur ws) := by
  induction ws with
  | nil => exact fun _ => .ok rfl
  | cons w ws ih =>
    intro s
    unfold ownWrites
    exact (ownWrite_groups s massif c spur w.1 w.2).bind fun s1 h1 => GroupsKept.trans h1 (ih s1)

theorem savePages_groups (s : State) (t : Team) (sp acc ob : List Nat) : GroupsKept s (s.savePages t sp acc ob) :=
  (ownWrites_groups _ s).bind fun _ h => .pure h

theorem saveAll_groups (s : State) (t : Team) : GroupsKept s (s.saveAll t) := by
  unfold State.saveAll
  split
  · exact .ok rfl
  · exact savePages_groups s t _ _ _

theorem writeSave_groups (s : State) (t : Team) (gr : Grid) : GroupsKept s (s.writeSave t gr) := by
  unfold State.writeSave
  extract_lets +onlyGivenNames _ _ f
  have hf : ∀ s0 : State, s0.groups = s.groups → GroupsKept s (f s0) := fun s0 h0 =>
    GroupsKept.trans (s1 := s0.setTeam _) h0 (ownWrites_groups _ _)
  split
  · exact (saveAll_groups s t).bind hf
  · exact hf s rfl

@[simp] theorem unsave_groups (s : State) (t : Team) : (s.unsave t).groups = s.groups := by
  unfold State.unsave
  split
  · split
    next h => exact (ownWrites_groups _ s).of_ok h
    next => rfl
  · rfl

/-! ## Groups that stay ended -/

/-- Every group of t was there in s, and has ended if it had. -/
def RevivesNone (s t : State) : Prop := ∀ n k, t.group? n = some k → ∃ j, s.group? n = some j ∧ (j.ended = true → k.ended = true)

theorem RevivesNone.of_groups {s t : State} (h : t.groups = s.groups) : RevivesNone s t :=
  fun n k hk => ⟨k, (group?_of h n).symm.trans hk, id⟩

theorem RevivesNone.refl (s : State) : RevivesNone s s := .of_groups rfl

theorem RevivesNone.trans {s t u : State} (h : RevivesNone s t) (h' : RevivesNone t u) : RevivesNone s u := fun n k hk => by
  obtain ⟨j, hj, hjk⟩ := h' n k hk
  obtain ⟨i, hi, hij⟩ := h n j hj
  exact ⟨i, hi, hjk ∘ hij⟩

theorem RevivesNone.of_map {s t : State} {f : Group → Group} (h : t.groups = s.groups.map f) (hgid : ∀ g, (f g).gid = g.gid)
    (hend : ∀ g, (f g).ended = g.ended) : RevivesNone s t := fun n k hk => by
  have hfind : t.group? n = (s.group? n).map f := by
    unfold State.group?
    rw [h]
    exact find_map_gid s.groups n f hgid
  obtain ⟨j, hj, rfl⟩ := Option.map_eq_some_iff.1 (hfind.symm.trans hk)
  exact ⟨j, hj, fun hje => (hend j).trans hje⟩

/-- The groups after those of a team have gone. -/
theorem group?_of_filter {s t : State} {tid : Nat} (h : t.groups = s.groups.filter (fun g => g.gid / 32 != tid)) (n : Nat) :
    t.group? n = if n / 32 = tid then none else s.group? n := by
  unfold State.group?
  rw [h, List.find?_filter]
  split
  next hn =>
    refine List.find?_eq_none.2 fun g _ => ?_
    simp only [Bool.and_eq_true, bne_iff_ne, beq_iff_eq, not_and, Bool.decide_and, decide_eq_true_eq]
    rintro hne rfl
    exact hne hn
  next hn =>
    refine congrArg (fun p => List.find? p s.groups) (funext fun g => ?_)
    by_cases hg : g.gid = n
    · simp [hg, hn]
    · simp [hg]

theorem RevivesNone.of_filter {s t : State} {tid : Nat} (h : t.groups = s.groups.filter (fun g => g.gid / 32 != tid)) : RevivesNone s t :=
  fun n k hk => by
    rw [group?_of_filter h] at hk
    split at hk
    · cases hk
    · exact ⟨k, hk, id⟩

theorem StopsOnly.revivesNone {s t : State} (h : StopsOnly s t) : RevivesNone s t := fun n k hk => by
  have hmap := h.groups n
  rw [hk] at hmap
  obtain ⟨j, hj, hjk⟩ := Option.map_eq_some_iff.1 hmap.symm
  exact ⟨j, hj, fun hje => (congrArg Group.ended hjk).symm.trans hje⟩

theorem syncTeam_revivesNone (s : State) (tid : Nat) : RevivesNone s (s.syncTeam tid) := by
  unfold State.syncTeam
  split
  · exact .refl s
  · exact .of_map rfl (fun g => by split <;> rfl) (fun g => by split <;> rfl)

theorem syncCluster_revivesNone (s : State) (t : Team) : RevivesNone s (s.syncCluster t) := by
  unfold State.syncCluster
  split
  · exact .refl s
  · refine RevivesNone.trans (.of_map rfl (fun g => ?_) (fun g => ?_))
      (.of_groups (foldl_keeps (fun a : State => a.groups) State.rotate (by simp) _ _))
    all_goals split <;> rfl

theorem teamKilled_revivesNone (s : State) (t : Team) : RevivesNone s (s.teamKilled t) := by
  unfold State.teamKilled
  extract_lets +onlyGivenNames s1 s2 s3
  have h1 : s1.groups = s.groups.filter (fun g => g.gid / 32 != t.tid) := dropRemote_groups _ _
  have h3 : s3.groups = s1.groups := forgetAsk_groups _ _
  refine (RevivesNone.of_filter (h3.trans h1)).trans ((syncCluster_revivesNone s3 t).trans (.of_groups ?_))
  rw [leaveFusion_groups, landTeam_groups, clearRequest_groups, dropReplay_groups]

theorem saveFailed_revivesNone (s : State) (t : Team) (x : OwnErr) : RevivesNone s (s.saveFailed t x) := by
  unfold State.saveFailed
  split
  · split
    · exact .refl s
    · split
      · exact .of_groups (tqPost_groups _ _ _ _)
      · exact .refl s
  next cause _ _ =>
    have hkilled := (RevivesNone.of_groups (postFatal_groups s t.ctx (teamFatal t cause))).trans (teamKilled_revivesNone _ t)
    exact hkilled.trans (.of_groups (unsave_groups _ t))
  · exact .of_groups (ask_groups s _ _ _)
  · exact .refl s

theorem saveTry_revivesNone (s : State) (tid : Nat) : RevivesNone s (s.saveTry tid) := by
  unfold State.saveTry
  split
  next => exact .refl s
  next t _ =>
    split
    next => exact .refl s
    next gr _ =>
      split
      next => exact .refl s
      next =>
        split
        next x _ => exact saveFailed_revivesNone s t x
        next s1 hs1 =>
          have h1 : s1.groups = s.groups := (writeSave_groups (s.withAsks (teamKey t)) t gr).of_ok hs1
          exact .of_groups (by rw [clearRequest_groups, leaveFusion_groups, State.doneAsks_groups, h1])

theorem resumeTry_revivesNone (s : State) (tid : Nat) : RevivesNone s (s.resumeTry tid) := by
  unfold State.resumeTry
  split
  · exact .refl s
  · split
    · refine RevivesNone.trans ?_ (cutTry_stopsOnly _ tid).revivesNone
      split
      · exact (RevivesNone.of_groups rfl).trans (stopTeam_stopsOnly _ tid 0).revivesNone
      · exact .of_groups rfl
    · exact .refl s

theorem groupGone_revivesNone (s : State) (tid : Nat) : RevivesNone s (s.groupGone tid) :=
  (saveTry_revivesNone s tid).trans (resumeTry_revivesNone _ tid)

end Sys2Proof.Machine
end

section
/-! The end of a group, and of a team with its last one (R193). -/

namespace Sys2Proof.Machine

/-! ## The end of a team -/

/-- A team leaves: its groups go, its index is done, and no residency counts it as a user any more (R193, R238). -/
def State.teamLeaves (s : State) (t : Team) : State :=
  ((State.modGrid { s with groups := s.groups.filter (fun g => g.gid / 32 != t.tid) } t.ctx t.serial
    (fun g => { g with done := g.done ++ [t.idx] })).modTeam t.tid (fun u => { u with st := .ended, absent := [] })).dropUser t.tid

theorem teamDone_eq (s : State) (t : Team) :
    s.teamDone t = ((((s.teamLeaves t).syncCluster t).reap).clearRequest t.ctx).landTeam t.tid := rfl

theorem teamDone_groups (s : State) (t : Team) : (s.teamDone t).groups = ((s.teamLeaves t).syncCluster t).groups := by
  rw [teamDone_eq, landTeam_groups, clearRequest_groups, reap_groups]

theorem teamDone_revivesNone (s : State) (t : Team) : RevivesNone (s.teamLeaves t) (s.teamDone t) :=
  (syncCluster_revivesNone (s.teamLeaves t) t).trans (.of_groups (teamDone_groups s t))

/-- The groups of a team that is done are gone. -/
theorem teamDone_no_groups (s : State) (t : Team) : ∀ k ∈ (s.teamDone t).groups, k.gid / 32 ≠ t.tid := by
  intro k hk hgid
  obtain ⟨j, hj⟩ := Option.isSome_iff_exists.1
    (List.find?_isSome.2 ⟨k, hk, beq_self_eq_true k.gid⟩ : ((s.teamDone t).group? k.gid).isSome = true)
  obtain ⟨i, hi, -⟩ := teamDone_revivesNone s t k.gid j hj
  rw [group?_of_filter (s := s) (t := s.teamLeaves t) rfl, if_pos hgid] at hi
  cases hi

/-! ## Its index -/

theorem find?_map_grid (gs : List Grid) {c serial : Nat} {f : Grid → Grid}
    (hf : ∀ g, ((f g).ctx == c && (f g).serial == serial) = (g.ctx == c && g.serial == serial)) :
    (gs.map f).find? (fun g => g.ctx == c && g.serial == serial) =
      (gs.find? (fun g => g.ctx == c && g.serial == serial)).map f := by
  rw [List.find?_map]
  exact congrArg (fun p => Option.map f (List.find? p gs)) (funext hf)

theorem grid?_key {s : State} {c serial : Nat} {g : Grid} (h : s.grid? c serial = some g) : g.ctx = c ∧ g.serial = serial := by
  simpa using List.find?_some h

theorem modGrid_grid? (s : State) {c serial : Nat} {f : Grid → Grid} (hf : ∀ g, (f g).ctx = g.ctx ∧ (f g).serial = g.serial) :
    (s.modGrid c serial f).grid? c serial = (s.grid? c serial).map f := by
  have hmap := find?_map_grid s.grids (c := c) (serial := serial) (f := fun h => if h.ctx = c ∧ h.serial = serial then f h else h)
    (fun g => by split <;> simp [hf g])
  refine hmap.trans ?_
  change (s.grid? c serial).map _ = _
  cases hg : s.grid? c serial with
  | none => rfl
  | some g => exact congrArg some (if_pos (grid?_key hg))

theorem setGrid_grid? {s : State} {g gr : Grid} (h : s.grid? g.ctx g.serial = some gr) :
    (s.setGrid g).grid? g.ctx g.serial = some g := by
  refine (find?_map_grid s.grids fun k => ?_).trans ?_
  · split
    next hk => rw [hk.1, hk.2]
    next => rfl
  · change (s.grid? g.ctx g.serial).map _ = some g
    rw [h]
    exact congrArg some (if_pos (grid?_key h))

/-- The syncs of a cluster leave which of its grid's indices are done. -/
theorem syncCluster_done {s : State} {t : Team} {gr : Grid} (h : s.grid? t.ctx t.serial = some gr) :
    ∃ gr', (s.syncCluster t).grid? t.ctx t.serial = some gr' ∧ gr'.done = gr.done := by
  obtain ⟨hctx, hserial⟩ := grid?_key h
  have hset : ∀ cs, (s.setGrid { gr with csyncs := cs }).grid? t.ctx t.serial = some { gr with csyncs := cs } := fun cs => by
    rw [← hctx, ← hserial] at h ⊢
    exact setGrid_grid? (g := { gr with csyncs := cs }) h
  unfold State.syncCluster
  simp only [h]
  rw [grid?_of (foldl_keeps (fun a : State => a.grids) State.rotate State.rotate_grids _ _)]
  exact ⟨_, hset _, rfl⟩

@[simp] theorem leaveFusion_grids (s : State) (t : Team) : (s.leaveFusion t).grids = s.grids := by rw [(leaveFusion_usesOnly s t).rest]

@[simp] theorem clearRequest_grids (s : State) (c : Nat) : (s.clearRequest c).grids = s.grids := by
  unfold State.clearRequest
  split
  · rfl
  · split <;> rfl

@[simp] theorem reap_grids (s : State) : s.reap.grids = s.grids :=
  foldl_keeps (fun a : State => a.grids) _ (by simp) _ _

@[simp] theorem landTeam_grids (s : State) (tid : Nat) : (s.landTeam tid).grids = s.grids := by
  rw [State.landTeam, (landLate_storesOnly s _).rest]

theorem teamDone_done {s : State} {t : Team} {gr : Grid} (h : s.grid? t.ctx t.serial = some gr) :
    ∃ gr', (s.teamDone t).grid? t.ctx t.serial = some gr' ∧ t.idx ∈ gr'.done := by
  have hleft : (s.teamLeaves t).grid? t.ctx t.serial = some { gr with done := gr.done ++ [t.idx] } :=
    (modGrid_grid? { s with groups := s.groups.filter (fun g => g.gid / 32 != t.tid) } (by exact fun _ => ⟨rfl, rfl⟩)).trans
      (congrArg (Option.map _) h)
  obtain ⟨gr', hgr', hdone⟩ := syncCluster_done hleft
  have hgrids : (s.teamDone t).grids = ((s.teamLeaves t).syncCluster t).grids := by
    rw [teamDone_eq, landTeam_grids, clearRequest_grids, reap_grids]
  exact ⟨gr', (grid?_of hgrids _ _).trans hgr', hdone ▸ List.mem_append_right _ List.mem_cons_self⟩

/-! ## Teams that have ended -/

/-- Whatever is known of a team says that it has ended. -/
def State.OnlyEnded (s : State) (tid : Nat) : Prop := ∀ u ∈ s.teams, u.tid = tid → u.st = .ended

theorem State.OnlyEnded.of_sub {s t : State} {tid : Nat} (h : s.OnlyEnded tid) (hsub : ∀ u ∈ t.teams, u ∈ s.teams) : t.OnlyEnded tid :=
  fun u hu => h u (hsub u hu)

theorem State.OnlyEnded.rotate {s : State} {tid : Nat} (h : s.OnlyEnded tid) (gid : Nat) : (s.rotate gid).OnlyEnded tid := by
  unfold State.rotate
  split
  next => exact h
  next t ht =>
    split
    next => exact h
    next =>
      split
      next =>
        intro u hu htid
        obtain ⟨v, hv, rfl⟩ := List.mem_map.1 hu
        split at htid
        next heq => rw [if_pos heq]; exact h t (List.mem_of_find?_eq_some ht) htid
        next hne => rw [if_neg hne]; exact h v hv htid
      next => exact h

theorem State.OnlyEnded.syncCluster {s : State} {tid : Nat} (h : s.OnlyEnded tid) (t : Team) : (s.syncCluster t).OnlyEnded tid := by
  unfold State.syncCluster
  split
  · exact h
  · exact foldl_invariant (P := fun a : State => a.OnlyEnded tid) (by exact h) fun a gid ha => ha.rotate gid

@[simp] theorem leaveFusion_teams (s : State) (t : Team) : (s.leaveFusion t).teams = s.teams := (leaveFusion_usesOnly s t).teams

theorem reap_teams_sub (s : State) : ∀ u ∈ s.reap.teams, u ∈ s.teams := by
  intro u hu
  unfold State.reap at hu
  rw [foldl_keeps (fun a : State => a.teams) State.leaveFusion leaveFusion_teams] at hu
  exact (List.mem_filter.1 hu).1

@[simp] theorem clearRequest_teams (s : State) (c : Nat) : (s.clearRequest c).teams = s.teams := by
  unfold State.clearRequest
  split
  · rfl
  · split <;> rfl

@[simp] theorem landTeam_teams (s : State) (tid : Nat) : (s.landTeam tid).teams = s.teams := by
  rw [State.landTeam, (landLate_storesOnly s _).rest]

theorem teamDone_onlyEnded (s : State) (t : Team) : (s.teamDone t).OnlyEnded t.tid := by
  have hleft : (s.teamLeaves t).OnlyEnded t.tid := by
    intro u hu htid
    obtain ⟨v, hv, rfl⟩ := List.mem_map.1 hu
    split at htid
    next heq => rw [if_pos heq]
    next hne => exact absurd htid hne
  refine (hleft.syncCluster t).of_sub fun u hu => reap_teams_sub _ u ?_
  rwa [teamDone_eq, landTeam_teams, clearRequest_teams] at hu

/-- Nothing is left to save or to restore of a team that has ended. -/
theorem groupGone_of_onlyEnded {s : State} {tid : Nat} (h : s.OnlyEnded tid) : s.groupGone tid = s := by
  have hst : ∀ t, s.team? tid = some t → t.st = .ended := fun t ht => h t (List.mem_of_find?_eq_some ht) (tid_of ht)
  have hsave : s.saveTry tid = s := by
    unfold State.saveTry
    split
    next => rfl
    next t ht =>
      split
      next => rfl
      next => exact if_pos (by simp [hst t ht])
  unfold State.groupGone State.resumeTry
  rw [hsave]
  split
  next => rfl
  next t ht => exact if_neg (by simp [hst t ht])

/-! ## The end of a group -/

/-- A group marked ended. -/
def State.markEnded (s : State) (g : Group) : State := s.setGroup { g with ended := true, park := none, trap := TrapRegs.none }

theorem groupEnd_revivesNone (s : State) (g : Group) : RevivesNone (s.markEnded g) (s.groupEnd g) := by
  unfold State.groupEnd
  extract_lets +onlyGivenNames s1
  change RevivesNone s1 _
  split
  · exact .refl s1
  next t _ =>
    split
    · exact (RevivesNone.of_filter (t := s1.teamLeaves t) rfl).trans (teamDone_revivesNone s1 t)
    · exact ((syncTeam_revivesNone s1 t.tid).trans (syncCluster_revivesNone _ t)).trans (cutTry_stopsOnly _ t.tid).revivesNone

/-- A group that ends has ended, if it is still there. -/
theorem groupEnd_ended (s : State) (g : Group) {k : Group} (hk : (s.groupEnd g).group? g.gid = some k) : k.ended = true := by
  obtain ⟨j, hj, hjk⟩ := groupEnd_revivesNone s g g.gid k hk
  refine hjk ?_
  rw [State.markEnded, setGroup_group?, if_pos rfl] at hj
  obtain ⟨-, -, rfl⟩ := Option.map_eq_some_iff.1 hj
  rfl

/-- With its last group a team is done. -/
theorem groupEnd_of_last {s : State} {g : Group} {t : Team} (ht : s.team? (g.gid / 32) = some t)
    (hall : ∀ k ∈ s.groups, k.gid / 32 = t.tid → k.gid = g.gid ∨ k.ended = true) : s.groupEnd g = (s.markEnded g).teamDone t := by
  have hended : ((s.markEnded g).groupsOf t.tid).all (·.ended) = true := by
    refine List.all_eq_true.2 fun k hk => ?_
    obtain ⟨hmem, htid⟩ := List.mem_filter.1 hk
    obtain ⟨j, hj, rfl⟩ := List.mem_map.1 hmem
    split
    next => rfl
    next hne =>
      rw [if_neg hne, beq_iff_eq] at htid
      exact (hall j hj htid).resolve_left hne
  have hteam : (s.markEnded g).team? (g.gid / 32) = some t := ht
  unfold State.groupEnd
  extract_lets +onlyGivenNames s1
  split
  next hn => cases hn.symm.trans hteam
  next u hu =>
    cases hu.symm.trans hteam
    exact if_pos hended

theorem endGroup_ended {s : State} {e : Env} {g : Group} (hg : g.gid = e.g.gid) {k : Group}
    (hk : (s.endGroup e g).group? e.g.gid = some k) : k.ended = true := by
  obtain ⟨j, hj, hjk⟩ := groupGone_revivesNone ((s.retireAt e g).groupEnd g) e.t.tid e.g.gid k hk
  exact hjk (groupEnd_ended (s.retireAt e g) g (hg ▸ hj))

/-- With the last group of a team its index is done and its groups are gone. -/
theorem endGroup_of_last {s : State} {e : Env} {g : Group} (he : s.env? = some e) (hg : g.gid = e.g.gid)
    (hall : ∀ k ∈ s.groups, k.gid / 32 = e.t.tid → k.gid = e.g.gid ∨ k.ended = true) :
    ∃ gr, (s.endGroup e g).grid? e.t.ctx e.t.serial = some gr ∧ e.t.idx ∈ gr.done ∧
      ∀ k ∈ (s.endGroup e g).groups, k.gid / 32 ≠ e.t.tid := by
  obtain ⟨-, -, hteam, -, hgrid⟩ := env_of he
  have hframe : Frame s (s.retireAt e g) e := retireAt_frame hg
  have hmoved := hframe.teams (e.c.gid / 32)
  rw [hteam] at hmoved
  obtain ⟨t, ht, hrot⟩ := Option.map_eq_some_iff.1 hmoved
  have htid : t.tid = e.t.tid := (congrArg Team.tid hrot :)
  have hctx : t.ctx = e.t.ctx := (congrArg Team.ctx hrot :)
  have hserial : t.serial = e.t.serial := (congrArg Team.serial hrot :)
  have hidx : t.idx = e.t.idx := (congrArg Team.idx hrot :)
  have hlast : (s.retireAt e g).groupEnd g = ((s.retireAt e g).markEnded g).teamDone t := by
    refine groupEnd_of_last (by rw [hg, env_gid he]; exact ht) fun k hk hkt => ?_
    rw [retireAt_groups] at hk
    obtain ⟨j, hj, rfl⟩ := List.mem_map.1 hk
    split
    next => exact .inl rfl
    next hne =>
      rw [if_neg hne, htid] at hkt
      exact (hall j hj hkt).imp_left fun h => h.trans hg.symm
  have hend : s.endGroup e g = ((s.retireAt e g).markEnded g).teamDone t := by
    rw [State.endGroup, hlast, ← htid, groupGone_of_onlyEnded (teamDone_onlyEnded _ t)]
  have hgr : ((s.retireAt e g).markEnded g).grid? t.ctx t.serial = some e.gr := by
    rw [hctx, hserial]
    exact (grid?_of (State.retireAt_grids s e g) _ _).trans hgrid
  obtain ⟨gr, hgr', hdone⟩ := teamDone_done hgr
  rw [hend, ← hctx, ← hserial, ← hidx, ← htid]
  exact ⟨gr, hgr', hdone, teamDone_no_groups _ t⟩

end Sys2Proof.Machine

namespace Sys2Proof
open Machine

/-- Settles O21: the lanes that take part lose LIVE, in the shadow as well; a group that has none left is marked ended, which nothing
that follows undoes, and with the last one its team is done. -/
theorem exitEndsLanes : Obligations.ExitEndsLanes := by
  intro g s e he m left
  refine ⟨fun h => ?_, fun h => ?_, fun h hall => ?_⟩
  · exact ⟨_, _, exit_leaves he h, retireAt_frame rfl, retireAt_found he rfl, rfl, rfl, rfl, rfl, fun _ _ _ => rfl, fun _ => rfl,
      fun _ => rfl, fun _ => rfl, fun l _ => exited_getPc e m l, exited_keeps e.g.trap m, fun l _ => exited_div e.g.trap m l⟩
  · exact ⟨_, exit_ends he h, fun k hk => endGroup_ended (g := e.g.exited e m) rfl hk⟩
  · obtain ⟨gr, hgr, hdone, hgone⟩ := endGroup_of_last he (g := e.g.exited e m) rfl hall
    exact ⟨_, gr, exit_ends he h, hgr, hdone, hgone⟩

end Sys2Proof
end

section
/-! Integer and uniform arithmetic, bitwise operations and moves: the machine's operations on words as operations on the integers that the
words stand for (R202, R205, R218). -/

namespace Sys2Proof.Machine

/-! ## Words as numbers -/

section
variable {n : Nat} (a b c : BitVec n)

theorem add_eq_ofNat : a + b = BitVec.ofNat n (a.toNat + b.toNat) := by
  rw [BitVec.ofNat_add, BitVec.ofNat_toNat, BitVec.ofNat_toNat, BitVec.setWidth_eq, BitVec.setWidth_eq]

theorem mul_eq_ofNat : a * b = BitVec.ofNat n (a.toNat * b.toNat) := by
  rw [BitVec.ofNat_mul, BitVec.ofNat_toNat, BitVec.ofNat_toNat, BitVec.setWidth_eq, BitVec.setWidth_eq]

theorem mul_add_eq_ofNat : a * b + c = BitVec.ofNat n (a.toNat * b.toNat + c.toNat) := by
  rw [BitVec.ofNat_add, ← mul_eq_ofNat, BitVec.ofNat_toNat, BitVec.setWidth_eq]

theorem sub_eq_ofInt : a - b = BitVec.ofInt n (a.toInt - b.toInt) := by
  rw [sub_eq_add_neg (a.toInt), BitVec.ofInt_add, BitVec.ofInt_neg, BitVec.ofInt_toInt, BitVec.ofInt_toInt, sub_eq_add_neg]

end

/-- A word extended by its sign stands for the same integer. -/
theorem signExtend_eq_ofInt (a : Word) : a.signExtend 64 = BitVec.ofInt 64 a.toInt := rfl

theorem mul_signExtend_add_eq_ofInt (a b : Word) (c : DWord) :
    a.signExtend 64 * b.signExtend 64 + c = BitVec.ofInt 64 (a.toInt * b.toInt + c.toInt) := by
  rw [BitVec.ofInt_add, BitVec.ofInt_mul, BitVec.ofInt_toInt, signExtend_eq_ofInt, signExtend_eq_ofInt]

/-- An address with a scaled index and an offset (R205). -/
theorem scaled_address_eq_ofInt {w : Nat} (base : DWord) (index : Word) (x : Nat) (off : BitVec w) :
    base + (index.signExtend 64 <<< x) + off.signExtend 64 =
      BitVec.ofInt 64 (base.toInt + index.toInt * 2 ^ x + off.toInt) := by
  have htwo : BitVec.twoPow 64 x = BitVec.ofInt 64 (2 ^ x) := by
    apply BitVec.eq_of_toNat_eq
    have hcast : (2 ^ x : Int) = ((2 ^ x : Nat) : Int) := by push_cast; rfl
    rw [BitVec.toNat_twoPow, hcast, BitVec.ofInt_natCast, BitVec.toNat_ofNat]
  rw [BitVec.ofInt_add, BitVec.ofInt_add, BitVec.ofInt_mul, BitVec.ofInt_toInt, signExtend_eq_ofInt, BitVec.shiftLeft_eq_mul_twoPow, htwo]
  rfl

theorem not_eq_xor (a : Word) : ~~~a = a ^^^ 0xFFFFFFFF := (BitVec.xor_allOnes (w := 32)).symm

/-! ## Extremes (R202) -/

theorem minSW_eq (a b : Word) : minSW a b = BitVec.ofInt 32 (min a.toInt b.toInt) := by
  rw [min_def, apply_ite (BitVec.ofInt 32), BitVec.ofInt_toInt, BitVec.ofInt_toInt]; rfl

theorem maxSW_eq (a b : Word) : maxSW a b = BitVec.ofInt 32 (max a.toInt b.toInt) := by
  rw [max_def, apply_ite (BitVec.ofInt 32), BitVec.ofInt_toInt, BitVec.ofInt_toInt]; rfl

theorem minNW_eq (a b : Word) : minNW a b = BitVec.ofNat 32 (min a.toNat b.toNat) := by
  rw [min_def, apply_ite (BitVec.ofNat 32), BitVec.ofNat_toNat, BitVec.ofNat_toNat, BitVec.setWidth_eq, BitVec.setWidth_eq]; rfl

theorem maxNW_eq (a b : Word) : maxNW a b = BitVec.ofNat 32 (max a.toNat b.toNat) := by
  rw [max_def, apply_ite (BitVec.ofNat 32), BitVec.ofNat_toNat, BitVec.ofNat_toNat, BitVec.setWidth_eq, BitVec.setWidth_eq]; rfl

/-- The absolute value, of which the least integer alone has none in 32 bits (R202). -/
theorem absSat_eq (a : Word) : absSat a = BitVec.ofInt 32 (min |a.toInt| 2147483647) := by
  unfold absSat
  have hlo := BitVec.le_toInt a
  have hhi := BitVec.toInt_lt (x := a)
  split
  next h => rw [h]; decide
  next h =>
    have hne : a.toInt ≠ -2147483648 := fun hi => h (BitVec.eq_of_toInt_eq hi)
    rw [BitVec.msb_eq_toInt]
    split
    next hneg =>
      rw [decide_eq_true_eq] at hneg
      rw [abs_of_neg hneg, min_eq_left (by omega), BitVec.ofInt_neg, BitVec.ofInt_toInt]
    next hneg =>
      rw [decide_eq_true_eq, not_lt] at hneg
      rw [abs_of_nonneg hneg, min_eq_left (by omega), BitVec.ofInt_toInt]

/-! ## Counts of bits (R202) -/

theorem toNat_ofNat_popCount (a : Word) :
    (BitVec.ofNat 32 (popCount a)).toNat = ((List.range 32).filter (fun i => a.getLsbD i)).length := by
  rw [← List.countP_eq_length_filter, BitVec.toNat_ofNat]
  exact Nat.mod_eq_of_lt ((List.countP_le_length.trans_eq List.length_range).trans_lt (by decide))

/-- Where a word is not zero, its leading zero bits tell between which powers of two it lies. -/
theorem clzW_bounds {a : Word} (h : a ≠ 0) :
    (BitVec.ofNat 32 (clzW a)).toNat < 32 ∧ 2 ^ (31 - (BitVec.ofNat 32 (clzW a)).toNat) ≤ a.toNat ∧
      a.toNat < 2 ^ (32 - (BitVec.ofNat 32 (clzW a)).toNat) := by
  have h0 : a.toNat ≠ 0 := fun hz => h (BitVec.eq_of_toNat_eq hz)
  have hlog : Nat.log2 a.toNat < 32 := (Nat.log2_lt h0).2 a.isLt
  have hclz : (BitVec.ofNat 32 (clzW a)).toNat = 31 - Nat.log2 a.toNat := by
    rw [clzW, if_neg h, BitVec.toNat_ofNat, Nat.mod_eq_of_lt (by omega)]
  rw [hclz]
  refine ⟨by omega, ?_, ?_⟩
  · rw [(by omega : 31 - (31 - Nat.log2 a.toNat) = Nat.log2 a.toNat)]
    exact Nat.log2_self_le h0
  · rw [(by omega : 32 - (31 - Nat.log2 a.toNat) = Nat.log2 a.toNat + 1)]
    exact Nat.lt_log2_self

section
variable {i : Instr} {q : Pred} {d : KReg}

theorem uniResult_of_eq {f f' : Regs → Word} (hi : ∀ s, exec i s = s.uniOp q d f) (hf : ∀ r, f r = f' r) : UniResult i q d f' := by
  obtain rfl : f = f' := funext hf
  exact uniOp_result hi

theorem uniResult2_of_eq {f f' : Regs → DWord} (hi : ∀ s, exec i s = s.uniOp2 q d f) (hf : ∀ r, f r = f' r) : UniResult2 i q d f' := by
  obtain rfl : f = f' := funext hf
  exact uniOp2_result hi

end

/-! ## The instructions -/

section
variable (g : Pred) (d : VReg) (a b : Src) (lit : Word) (s : State)

theorem exec_iadd : exec (.iadd g d a b) s = s.laneOp g d (fun r l => r.src a l + r.src b l) := rfl

theorem exec_isub : exec (.isub g d a b) s = s.laneOp g d (fun r l => r.src a l - r.src b l) := rfl

theorem exec_imul : exec (.imul g d a b) s = s.laneOp g d (fun r l => r.src a l * r.src b l) := rfl

theorem exec_imad : exec (.imad g d a b) s = s.laneOp g d (fun r l => r.src a l * r.src b l + r.getV d.val l) := rfl

theorem exec_iaddi : exec (.iaddi g d a lit) s = s.laneOp g d (fun r l => r.src a l + lit) := rfl

theorem exec_iminS : exec (.iminS g d a b) s = s.laneOp g d (fun r l => minSW (r.src a l) (r.src b l)) := rfl

theorem exec_imaxS : exec (.imaxS g d a b) s = s.laneOp g d (fun r l => maxSW (r.src a l) (r.src b l)) := rfl

theorem exec_iminN : exec (.iminN g d a b) s = s.laneOp g d (fun r l => minNW (r.src a l) (r.src b l)) := rfl

theorem exec_imaxN : exec (.imaxN g d a b) s = s.laneOp g d (fun r l => maxNW (r.src a l) (r.src b l)) := rfl

theorem exec_iabs : exec (.iabs g d a) s = s.laneOp g d (fun r l => absSat (r.src a l)) := rfl

theorem exec_iadd64 : exec (.iadd64 g d a b) s = s.laneOp2 g d (fun r l => r.src2 a l + r.src2 b l) := rfl

theorem exec_isub64 : exec (.isub64 g d a b) s = s.laneOp2 g d (fun r l => r.src2 a l - r.src2 b l) := rfl

theorem exec_imadw : exec (.imadw g d a b) s =
    s.laneOp2 g d (fun r l => (r.src a l).signExtend 64 * (r.src b l).signExtend 64 + r.getV2 d.val l) := rfl

theorem exec_leai (m : LaneMem) (x : BitVec 3) : exec (.leai g d m x) s =
    s.laneOp2 g d (fun r l => r.src2 m.base l + ((r.src m.index l).signExtend 64 <<< x.toNat) + m.off.signExtend 64) := rfl

theorem exec_not : exec (.not g d a) s = s.laneOp g d (fun r l => ~~~(r.src a l)) := rfl

end

section
variable (g : Pred) (d a b : KReg) (lit : Word) (s : State)

theorem exec_uiadd : exec (.uiadd g d a b) s = s.uniOp g d (fun r => r.getK a.val + r.getK b.val) := rfl

theorem exec_uisub : exec (.uisub g d a b) s = s.uniOp g d (fun r => r.getK a.val - r.getK b.val) := rfl

theorem exec_uimul : exec (.uimul g d a b) s = s.uniOp g d (fun r => r.getK a.val * r.getK b.val) := rfl

theorem exec_uimad : exec (.uimad g d a b) s = s.uniOp g d (fun r => r.getK a.val * r.getK b.val + r.getK d.val) := rfl

theorem exec_uiaddi : exec (.uiaddi g d a lit) s = s.uniOp g d (fun r => r.getK a.val + lit) := rfl

theorem exec_uiadd64 : exec (.uiadd64 g d a b) s = s.uniOp2 g d (fun r => r.getK2 a.val + r.getK2 b.val) := rfl

end

end Sys2Proof.Machine

namespace Sys2Proof
open Machine

/-- Settles O4: each instruction computes one function of its lane's words, which is the integer operation modulo the width. -/
theorem integerArithmetic : Obligations.IntegerArithmetic :=
  ⟨fun g d a b lit =>
    ⟨laneResult_of_eq (exec_iadd g d a b) fun _ _ => add_eq_ofNat _ _, laneResult_of_eq (exec_isub g d a b) fun _ _ => sub_eq_ofInt _ _,
     laneResult_of_eq (exec_imul g d a b) fun _ _ => mul_eq_ofNat _ _, laneOp_result fun _ => rfl, laneOp_result fun _ => rfl,
     laneResult_of_eq (exec_imad g d a b) fun _ _ => mul_add_eq_ofNat _ _ _,
     laneResult_of_eq (exec_iaddi g d a lit) fun _ _ => add_eq_ofNat _ _,
     laneResult_of_eq (exec_iminS g d a b) fun _ _ => minSW_eq _ _, laneResult_of_eq (exec_imaxS g d a b) fun _ _ => maxSW_eq _ _,
     laneResult_of_eq (exec_iminN g d a b) fun _ _ => minNW_eq _ _, laneResult_of_eq (exec_imaxN g d a b) fun _ _ => maxNW_eq _ _,
     laneResult_of_eq (exec_iabs g d a) fun _ _ => absSat_eq _⟩,
   fun g d a b m x =>
    ⟨laneResult2_of_eq (exec_iadd64 g d a b) fun _ _ => add_eq_ofNat _ _,
     laneResult2_of_eq (exec_isub64 g d a b) fun _ _ => sub_eq_ofInt _ _,
     laneResult2_of_eq (exec_imadw g d a b) fun _ _ => mul_signExtend_add_eq_ofInt _ _ _,
     laneResult2_of_eq (exec_leai g d · m x) fun _ _ => scaled_address_eq_ofInt _ _ _ _⟩⟩

/-- Settles O5: each instruction computes one function of its lane's words; the counts are those of its bits. -/
theorem logicAndMoves : Obligations.LogicAndMoves := fun g d a _ _ =>
  ⟨laneOp_result fun _ => rfl, laneOp_result fun _ => rfl, laneOp_result fun _ => rfl,
   laneResult_of_eq (exec_not g d a) fun _ _ => not_eq_xor _, laneOp_result fun _ => rfl, laneOp_result fun _ => rfl,
   laneOp_result fun _ => rfl, ⟨fun x => BitVec.ofNat 32 (popCount x), toNat_ofNat_popCount, laneOp_result fun _ => rfl⟩,
   ⟨fun x => BitVec.ofNat 32 (clzW x), rfl, fun _ => clzW_bounds, laneOp_result fun _ => rfl⟩⟩

/-- Settles O8: the uniform forms compute the functions of the lane forms, once for the group. -/
theorem uniformArithmetic : Obligations.UniformArithmetic := fun g d a b lit =>
  ⟨uniResult_of_eq (exec_uiadd g d a b) fun _ => add_eq_ofNat _ _, uniResult_of_eq (exec_uisub g d a b) fun _ => sub_eq_ofInt _ _,
   uniResult_of_eq (exec_uimul g d a b) fun _ => mul_eq_ofNat _ _, uniResult_of_eq (exec_uimad g d a b) fun _ => mul_add_eq_ofNat _ _ _,
   uniResult_of_eq (exec_uiaddi g d a lit) fun _ => add_eq_ofNat _ _, uniResult2_of_eq (exec_uiadd64 g d a b) fun _ => add_eq_ofNat _ _,
   uniOp_result fun _ => rfl, uniOp_result fun _ => rfl, uniOp_result fun _ => rfl, uniOp_result fun _ => rfl, uniOp_result fun _ => rfl⟩

end Sys2Proof
end

section
/-! Shifts and bit fields of both sets (R203, R204, R218). -/

namespace Sys2Proof.Machine

/-! ## Shifts by a whole 32-bit amount (R203) -/

theorem shlW_eq (a b : Word) : shlW a b = if b.toNat < 32 then a <<< b.toNat else 0 := by
  unfold shlW
  split
  next h => rw [min_eq_left h.le]
  next h => rw [min_eq_right (not_lt.1 h), BitVec.shiftLeft_eq_zero le_rfl]; rfl

theorem shrN_eq (a b : Word) : shrN a b = if b.toNat < 32 then a >>> b.toNat else 0 := by
  unfold shrN
  split
  next => rfl
  next h => exact BitVec.ushiftRight_eq_zero (not_lt.1 h)

theorem shrS_eq (a b : Word) :
    shrS a b = if b.toNat < 32 then a.sshiftRight b.toNat else if 0 ≤ a.toInt then 0 else 0xFFFFFFFF := by
  unfold shrS
  split
  next => rfl
  next h =>
    have hbit (i : Nat) (hi : i < 32) : (a.sshiftRight b.toNat).getLsbD i = a.msb := by
      rw [BitVec.getLsbD_sshiftRight, decide_eq_false (by omega), if_neg (by omega)]
      rfl
    have hsign := BitVec.msb_eq_toInt (x := a)
    split
    next hs =>
      rw [decide_eq_false (not_lt.2 hs)] at hsign
      refine BitVec.eq_of_getLsbD_eq fun i hi => ?_
      rw [hbit i hi, hsign]
      exact BitVec.getLsbD_zero.symm
    next hs =>
      rw [decide_eq_true (not_le.1 hs)] at hsign
      refine BitVec.eq_of_getLsbD_eq fun i hi => ?_
      rw [hbit i hi, hsign]
      exact ((BitVec.getLsbD_allOnes (v := 32)).trans (decide_eq_true hi)).symm

theorem rotateLeft_eq (a : Word) (n : Nat) : a.rotateLeft (n % 32) = a <<< (n % 32) ||| a >>> (32 - n % 32) := by
  rw [BitVec.rotateLeft_def, Nat.mod_mod]

/-! ## Fields (R204) -/

theorem bfxS_eq (a c : Word) : bfxS a c =
    if bfWidth c = 0 then 0
    else if a.toNat / 2 ^ bfPos c % 2 ^ bfWidth c < 2 ^ (bfWidth c - 1) then BitVec.ofNat 32 (a.toNat / 2 ^ bfPos c % 2 ^ bfWidth c)
    else BitVec.ofInt 32 (((a.toNat / 2 ^ bfPos c % 2 ^ bfWidth c : Nat) : Int) - 2 ^ bfWidth c) := by
  unfold bfxS sx
  refine if_congr Iff.rfl rfl ?_
  rw [apply_ite (BitVec.ofInt 32), BitVec.ofInt_natCast]
  push_cast
  rfl

theorem bfMask_eq (c : Word) : bfMask c = BitVec.ofNat 32 (2 ^ bfWidth c - 1) <<< bfPos c := by
  apply BitVec.eq_of_toNat_eq
  rw [bfMask, BitVec.toNat_shiftLeft, BitVec.toNat_ofNat, BitVec.toNat_ofNat, Nat.shiftLeft_eq, Nat.mod_mul_mod]

/-! ## The instructions -/

section
variable (g : Pred) (d : VReg) (a b : Src) (s : State)

theorem exec_shl : exec (.shl g d a b) s = s.laneOp g d (fun r l => shlW (r.src a l) (r.src b l)) := rfl

theorem exec_shrN : exec (.shrN g d a b) s = s.laneOp g d (fun r l => shrN (r.src a l) (r.src b l)) := rfl

theorem exec_shrS : exec (.shrS g d a b) s = s.laneOp g d (fun r l => shrS (r.src a l) (r.src b l)) := rfl

theorem exec_rotl : exec (.rotl g d a b) s = s.laneOp g d (fun r l => (r.src a l).rotateLeft ((r.src b l).toNat % 32)) := rfl

theorem exec_bfxS : exec (.bfxS g d a b) s = s.laneOp g d (fun r l => bfxS (r.src a l) (r.src b l)) := rfl

theorem exec_bfi : exec (.bfi g d a b) s = s.laneOp g d (fun r l => bfi (r.getV d.val l) (r.src a l) (r.src b l)) := rfl

end

section
variable (g : Pred) (d a b : KReg) (s : State)

theorem exec_ushl : exec (.ushl g d a b) s = s.uniOp g d (fun r => shlW (r.getK a.val) (r.getK b.val)) := rfl

theorem exec_ushrN : exec (.ushrN g d a b) s = s.uniOp g d (fun r => shrN (r.getK a.val) (r.getK b.val)) := rfl

theorem exec_ushrS : exec (.ushrS g d a b) s = s.uniOp g d (fun r => shrS (r.getK a.val) (r.getK b.val)) := rfl

end

end Sys2Proof.Machine

namespace Sys2Proof
open Machine

/-- Settles O6: an amount of 32 or more shifts every bit out. -/
theorem shifts : Obligations.Shifts := fun g d a b kd ka kb =>
  ⟨laneResult_of_eq (exec_shl g d a b) fun _ _ => shlW_eq _ _, laneResult_of_eq (exec_shrN g d a b) fun _ _ => shrN_eq _ _,
   laneResult_of_eq (exec_shrS g d a b) fun _ _ => shrS_eq _ _, laneResult_of_eq (exec_rotl g d a b) fun _ _ => rotateLeft_eq _ _,
   uniResult_of_eq (exec_ushl g kd ka kb) fun _ => shlW_eq _ _, uniResult_of_eq (exec_ushrN g kd ka kb) fun _ => shrN_eq _ _,
   uniResult_of_eq (exec_ushrS g kd ka kb) fun _ => shrS_eq _ _⟩

/-- Settles O7: position and width are limited before the field is read or replaced. -/
theorem bitFields : Obligations.BitFields := fun g d a b _ _ _ =>
  ⟨laneOp_result fun _ => rfl, laneResult_of_eq (exec_bfxS g d a b) fun _ _ => bfxS_eq _ _,
   laneResult_of_eq (exec_bfi g d a b) fun _ _ => by rw [bfi, bfMask_eq]; rfl, uniOp_result fun _ => rfl⟩

end Sys2Proof
end

section
/-! Compares, predicate lookups and predicate moves (R189, R190, R206, R218). -/

namespace Sys2Proof.Machine

/-! ## Conditions (R206) -/

theorem condInt_eq (c : Cond) (a b : Int) : condInt c a b = holdsInt c a b := by
  cases c with
  | eq => exact beq_eq_decide a b
  | ne => exact congrArg Bool.not (beq_eq_decide a b)
  | le => exact (decide_eq_decide.2 not_lt.symm : decide (a ≤ b) = decide ¬b < a).trans decide_not
  | ge => exact (decide_eq_decide.2 not_lt.symm : decide (b ≤ a) = decide ¬a < b).trans decide_not
  | lt | gt | num | nan => rfl

theorem Num.lt_eq_false_of_isNan {a b : Num} (h : (a.isNan || b.isNan) = true) : a.lt b = false := by
  cases a with
  | nan => rfl
  | inf _ | fin _ _ _ =>
    cases b with
    | nan => rfl
    | inf _ | fin _ _ _ => cases h

theorem Num.lt_asymm {a b : Num} (h : a.lt b = true) : b.lt a = false := by
  cases a with
  | nan => cases h
  | inf s =>
    cases b with
    | nan => rfl
    | inf t => revert h; cases s <;> cases t <;> decide
    | fin t n f => exact congrArg Bool.not h
  | fin s m e =>
    cases b with
    | nan => rfl
    | inf t => exact Bool.not_eq_true' t ▸ h
    | fin t n f =>
      simp only [Num.lt, decide_eq_true_eq, decide_eq_false_iff_not, not_lt] at h ⊢
      rw [min_comm]
      exact h.le

theorem condNum_eq (c : Cond) (a b : Num) : condNum c a b = holdsNum c a b := by
  unfold holdsNum
  cases hn : (a.isNan || b.isNan) with
  | true =>
    have hlt : a.lt b = false := Num.lt_eq_false_of_isNan hn
    have hgt : b.lt a = false := Num.lt_eq_false_of_isNan (by rw [Bool.or_comm]; exact hn)
    have heq : a.eq b = false := by
      rw [Num.eq, ← Bool.not_or, hn]
      rfl
    have hnum : (!a.isNan && !b.isNan) = false := by rw [← Bool.not_or, hn]; rfl
    cases c <;> simp only [condNum, hlt, hgt, heq, hn, hnum] <;> rfl
  | false =>
    have hnum : (!a.isNan && !b.isNan) = true := by rw [← Bool.not_or, hn]; rfl
    have heq : a.eq b = (!a.lt b && !b.lt a) := by rw [Num.eq, hnum, Bool.true_and]
    cases hlt : a.lt b with
    | true =>
      have hgt := Num.lt_asymm hlt
      cases c <;> simp only [condNum, heq, hn, hnum, hlt, hgt] <;> rfl
    | false => cases c <;> simp only [condNum, heq, hn, hnum, hlt] <;> cases b.lt a <;> rfl

/-! ## Lookups (R189) -/

theorem lutBit_eq (lut : BitVec 8) (a b c : Bool) :
    lutBit lut a b c = lut.toNat.testBit ((if a then 4 else 0) + (if b then 2 else 0) + (if c then 1 else 0)) := by
  cases a <;> cases b <;> cases c <;> rfl

/-! ## The predicates of a lane as a word (R190) -/

theorem predWord_eq_maskWhere (r : Regs) (l : Nat) : r.predWord l = maskWhere (fun j => decide (j < 8) && laneBit (r.getP j) l) := by
  have hrange : (List.range 32).filter (fun j => decide (j < 8)) = List.range 8 := by decide
  unfold Regs.predWord maskWhere maskOf
  rw [List.sum_map_ite, ← hrange, List.filter_filter]
  simp [Bool.and_comm]

theorem predWord_bit (r : Regs) (l i : Nat) : (r.predWord l).getLsbD i = (decide (i < 8) && laneBit (r.getP i) l) := by
  rw [predWord_eq_maskWhere]
  rcases lt_or_ge i 32 with h | h
  · exact mem_maskOf_range _ i h
  · rw [BitVec.getLsbD_of_ge _ i h, decide_eq_false (by omega), Bool.false_and]

/-! ## Predicates set from a word (R190) -/

theorem foldl_setP_getP (m : Mask) (x : Nat → Mask) (j : Nat) {l : Nat} (hl : l < 32) (js : List Nat) : ∀ r : Regs, js.Nodup →
    laneBit ((js.foldl (fun q i => q.setP i m (x i)) r).getP j) l =
      if j ∈ js ∧ j ≠ 0 ∧ laneBit m l = true then laneBit (x j) l else laneBit (r.getP j) l := by
  induction js with
  | nil => intro r _; simp
  | cons i t ih =>
    intro r hd
    obtain ⟨hi, ht⟩ := List.nodup_cons.1 hd
    rw [List.foldl_cons, ih _ ht, setP_getP _ _ _ _ _ _ hl]
    by_cases hj : j = i
    · subst hj
      simp [hi]
    · simp [hj]

/-- What does not look at the lane predicates is as before they are set. -/
theorem setPreds_keeps {β : Type} {p : Regs → β} (hp : ∀ r j m x, p (Regs.setP r j m x) = p r) (r : Regs) (m : Mask) (f : Nat → Word) :
    p (r.setPreds m f) = p r := by
  unfold Regs.setPreds
  exact foldl_keeps p _ (fun _ _ => hp _ _ _ _) _ _

theorem setPreds_getP (r : Regs) (m : Mask) (f : Nat → Word) (j : Nat) {l : Nat} (hl : l < 32) : laneBit ((r.setPreds m f).getP j) l =
    if 1 ≤ j ∧ j < 8 ∧ laneBit m l = true then (f l).getLsbD j else laneBit (r.getP j) l := by
  have hmem : (j ∈ [1, 2, 3, 4, 5, 6, 7] ∧ j ≠ 0) ↔ (1 ≤ j ∧ j < 8) := by
    simp only [List.mem_cons, List.not_mem_nil, or_false]
    omega
  rw [Regs.setPreds, foldl_setP_getP m _ j hl _ _ (by decide), mem_maskOf_range _ _ hl]
  exact if_congr (by rw [← and_assoc, hmem, and_assoc]) rfl rfl

section
variable (r : Regs) (m : Mask) (n j : Nat)

theorem advance_getV (l : Nat) : (r.advance m n).getV j l = r.getV j l := rfl

theorem advance_getK : (r.advance m n).getK j = r.getK j := rfl

theorem advance_getP : (r.advance m n).getP j = r.getP j := rfl

theorem advance_getQ : (r.advance m n).getQ j = r.getQ j := rfl

end

theorem setPreds_writes (e : Env) (m : Mask) (f : Nat → Word) :
    WritesPs e ((e.g.regs.setPreds m f).advance e.c.mask e.c.size) m f where
  p := fun j l hl => by rw [advance_getP]; exact setPreds_getP _ _ _ j hl
  v := fun n l _ => by rw [advance_getV]; exact setPreds_keeps (p := fun r => r.getV n l) (fun _ _ _ _ => by simp [Regs.getV]) _ _ _
  k := fun j => by rw [advance_getK]; exact setPreds_keeps (p := fun r => r.getK j) (fun _ _ _ _ => by simp [Regs.getK]) _ _ _
  q := fun j => by rw [advance_getQ]; exact setPreds_keeps (p := fun r => r.getQ j) (fun _ _ _ _ => by simp [Regs.getQ]) _ _ _
  flow := complete_flows e _ (setPreds_keeps Regs.setP_pc _ _ _) (setPreds_keeps Regs.setP_live _ _ _) (setPreds_keeps Regs.setP_wait _ _ _)

/-! ## The instructions -/

section
variable {i : Instr} {g p : Pred}

theorem laneTest_of_eq {f f' : Regs → Nat → Bool} (hi : ∀ s, exec i s = s.lanePred g p f) (hf : ∀ r l, f r l = f' r l) :
    LaneTest i g p f' := by
  obtain rfl : f = f' := funext fun r => funext (hf r)
  exact lanePred_test hi

theorem uniTest_of_eq {f f' : Regs → Bool} (hi : ∀ s, exec i s = s.uniPred g p f) (hf : ∀ r, f r = f' r) : UniTest i g p f' := by
  obtain rfl : f = f' := funext hf
  exact uniPred_test hi

end

section
variable (g p : Pred) (c : Cond) (a b : Src) (lit : Word) (s : State)

theorem exec_icmpS : exec (.icmpS g c p a b) s = s.lanePred g p (fun r l => condInt c (r.src a l).toInt (r.src b l).toInt) := rfl

theorem exec_icmpN : exec (.icmpN g c p a b) s = s.lanePred g p (fun r l => condInt c (r.src a l).toNat (r.src b l).toNat) := rfl

theorem exec_icmpiS : exec (.icmpiS g c p a lit) s = s.lanePred g p (fun r l => condInt c (r.src a l).toInt lit.toInt) := rfl

theorem exec_icmpiN : exec (.icmpiN g c p a lit) s = s.lanePred g p (fun r l => condInt c (r.src a l).toNat lit.toNat) := rfl

theorem exec_fcmpF32 : exec (.fcmpF32 g c p a b) s =
    s.lanePred g p (fun r l => condNum c (numF32 (r.src a l)) (numF32 (r.src b l))) := rfl

theorem exec_fcmpF64 : exec (.fcmpF64 g c p a b) s =
    s.lanePred g p (fun r l => condNum c (numF64 (r.src2 a l)) (numF64 (r.src2 b l))) := rfl

end

section
variable (g p : Pred) (c : Cond) (a b : KReg) (s : State)

theorem exec_uicmpS : exec (.uicmpS g c p a b) s = s.uniPred g p (fun r => condInt c (r.getK a.val).toInt (r.getK b.val).toInt) := rfl

theorem exec_uicmpN : exec (.uicmpN g c p a b) s = s.uniPred g p (fun r => condInt c (r.getK a.val).toNat (r.getK b.val).toNat) := rfl

theorem exec_ufcmp : exec (.ufcmp g c p a b) s = s.uniPred g p (fun r => condNum c (numF32 (r.getK a.val)) (numF32 (r.getK b.val))) := rfl

end

section
variable (g d a b c : Pred) (lut : BitVec 8) (s : State)

theorem exec_plop : exec (.plop g lut d a b c) s = s.lanePred g d (fun r l =>
    lutBit lut (laneBit (r.getP a.val) l) (laneBit (r.getP b.val) l) (laneBit (r.getP c.val) l)) := rfl

theorem exec_uplop : exec (.uplop g lut d a b c) s =
    s.uniPred g d (fun r => lutBit lut (r.getQ a.val) (r.getQ b.val) (r.getQ c.val)) := rfl

end

theorem pmovSet_completes {g : Pred} {x : Src} {s : State} {e : Env} (he : s.env? = some e) :
    Completes (.pmovSet g x) s s e e.g.latch (fun h => WritesPs e h (e.taking g) (fun l => e.g.regs.src x l)) :=
  completes_of_retire (run_ok (f := fun e => .ok (s.retire e (e.g.withRegs (e.g.regs.setPreds (e.taking g) (fun l => e.g.regs.src x l)))))
    he rfl) (group?_gid_of_env he) (setPreds_writes e _ _)

end Sys2Proof.Machine

namespace Sys2Proof
open Machine

/-- Settles O9: every compare and lookup sets one predicate to a condition of its sources. -/
theorem predicates : Obligations.Predicates :=
  ⟨fun g p c a b ka kb lit =>
    ⟨laneTest_of_eq (exec_icmpS g p c a b) fun _ _ => condInt_eq _ _ _, laneTest_of_eq (exec_icmpN g p c a b) fun _ _ => condInt_eq _ _ _,
     laneTest_of_eq (exec_icmpiS g p c a lit) fun _ _ => condInt_eq _ _ _,
     laneTest_of_eq (exec_icmpiN g p c a lit) fun _ _ => condInt_eq _ _ _,
     laneTest_of_eq (exec_fcmpF32 g p c a b) fun _ _ => condNum_eq _ _ _,
     laneTest_of_eq (exec_fcmpF64 g p c a b) fun _ _ => condNum_eq _ _ _,
     uniTest_of_eq (exec_uicmpS g p c ka kb) fun _ => condInt_eq _ _ _, uniTest_of_eq (exec_uicmpN g p c ka kb) fun _ => condInt_eq _ _ _,
     uniTest_of_eq (exec_ufcmp g p c ka kb) fun _ => condNum_eq _ _ _⟩,
   fun g d a b c lut _ _ =>
    ⟨laneTest_of_eq (exec_plop g d a b c lut) fun _ _ => lutBit_eq _ _ _ _,
     uniTest_of_eq (exec_uplop g d a b c lut) fun _ => lutBit_eq _ _ _ _,
     ⟨fun r l => r.predWord l, predWord_bit, laneOp_result fun _ => rfl⟩, fun _ _ => pmovSet_completes⟩⟩

end Sys2Proof
end

section
/-! The cross-lane instructions (R214 to R217). -/

namespace Sys2Proof.Machine

/-! ## Shuffles and matches -/

/-- A result in the lanes that take part, whatever the instruction computes for the others. -/
theorem completes_of_putLanes {i : Instr} {g : Pred} {d : VReg} {F : Env → Nat → Word} {s : State} {e : Env} {f : Nat → Word}
    (he : s.env? = some e) (hi : exec i s = s.run (fun e => .ok (s.retire e (e.g.putLanes (e.taking g) d.val (F e)))))
    (hf : ∀ l, laneBit (e.taking g) l = true → F e l = f l) :
    Completes i s s e (e.g.wrote d.val 1).latch (fun h => WritesV e h (e.taking g) d.val f) := by
  have hw := mapV_writes e (e.taking g) d.val (F e)
  refine completes_of_retire (hi.trans (run_ok he rfl)) (group?_gid_of_env he) { hw with v := fun n l hl => (hw.v n l hl).trans ?_ }
  split
  next h => exact hf l h.2
  next => rfl

/-- A source lane that does not execute, or is none, leaves a lane its own value (R215). -/
theorem pick_some (e : Env) (a : Src) (l k : Nat) :
    e.pick a l (some k) = if laneBit e.c.mask k then e.g.regs.src a k else e.g.regs.src a l :=
  if_congr (and_iff_right_of_imp laneBit_lt) rfl rfl

theorem pick_up (e : Env) (a : Src) (l n : Nat) : e.pick a l (if n ≤ l then some (l - n) else none) =
    if n ≤ l ∧ laneBit e.c.mask (l - n) = true then e.g.regs.src a (l - n) else e.g.regs.src a l := by
  by_cases h : n ≤ l
  · rw [if_pos h, pick_some]
    simp only [h, true_and]
  · rw [if_neg h, if_neg fun hc => h hc.1]
    rfl

theorem match_bit (t : Mask) (v : Nat → Word) (l : Nat) {j : Nat} (hj : j < 32) :
    (t &&& maskWhere (fun k => v k == v l)).getLsbD j = (laneBit t j && v j == v l) := by
  rw [BitVec.getLsbD_and]
  exact congrArg _ (mem_maskOf_range _ j hj)

/-! ## Votes -/

theorem mask_ext {m n : Mask} (h : ∀ l, laneBit m l = laneBit n l) : m = n := BitVec.eq_of_getLsbD_eq fun l _ => h l

theorem laneBit_and (m n : Mask) (l : Nat) : laneBit (m &&& n) l = (laneBit m l && laneBit n l) := BitVec.getLsbD_and

theorem laneBit_zero (l : Nat) : laneBit 0 l = false := BitVec.getLsbD_zero

theorem laneBit_allLanes {l : Nat} (hl : l < 32) : laneBit allLanes l = true := by
  rw [laneBit, allLanes, BitVec.getLsbD_allOnes, decide_eq_true hl]

theorem and_eq_left_iff_lanes (t p : Mask) : t &&& p = t ↔ ∀ l, laneBit t l = true → laneBit p l = true := by
  constructor
  · intro h l hl
    rw [← h, laneBit_and, Bool.and_eq_true] at hl
    exact hl.2
  · intro h
    refine mask_ext fun l => ?_
    rw [laneBit_and]
    cases hl : laneBit t l with
    | true => exact h l hl
    | false => rfl

theorem and_eq_zero_iff_lanes (t p : Mask) : t &&& p = 0 ↔ ∀ l, laneBit t l = true → laneBit p l = false := by
  constructor
  · intro h l hl
    have hz := laneBit_zero l
    rwa [← h, laneBit_and, hl, Bool.true_and] at hz
  · intro h
    refine mask_ext fun l => ?_
    rw [laneBit_and, laneBit_zero]
    cases hl : laneBit t l with
    | true => exact h l hl
    | false => rfl

/-- The outcome of a vote by the lanes it is taken over (R216). -/
theorem voteOf_iff (m : VoteMode) (t p : Mask) : voteOf m t (t &&& p) = true ↔ match m with
    | .all => ∀ l, laneBit t l = true → laneBit p l = true
    | .any => ∃ l, laneBit t l = true ∧ laneBit p l = true
    | .uni => (∀ l, laneBit t l = true → laneBit p l = true) ∨ ∀ l, laneBit t l = true → laneBit p l = false := by
  cases m with
  | all => rw [voteOf, beq_iff_eq]; exact and_eq_left_iff_lanes t p
  | any =>
    rw [voteOf, bne_iff_ne, Ne, and_eq_zero_iff_lanes]
    simp
  | uni => rw [voteOf, Bool.or_eq_true, beq_iff_eq, beq_iff_eq, and_eq_zero_iff_lanes, and_eq_left_iff_lanes]

/-- A lane predicate written in the lanes of a mask, and the group past the instruction. -/
theorem setP_writes (e : Env) (d : Nat) (m : Mask) {x : Mask} {f : Nat → Bool} (hf : ∀ l, l < 32 → laneBit x l = f l) :
    WritesP e ((e.g.regs.setP d m x).advance e.c.mask e.c.size) m d f where
  p := fun j l hl => by rw [advance_getP, setP_getP _ _ _ _ _ _ hl, hf l hl]
  v := fun n l _ => by simp [Regs.getV]
  k := fun j => by simp [Regs.getK]
  q := fun j => by simp [Regs.getQ]
  flow := complete_flows e _ (by simp) (by simp) (by simp)

/-! ## Scans and reductions (R217) -/

/-- What a scan carries on after some values. -/
def carried (o : ScanOp) : List Word → Option Word
  | [] => none
  | x :: t => some (scanOver o (x :: t))

theorem scanOver_concat (o : ScanOp) (y : Word) (p : List Word) (x : Word) :
    scanOver o (y :: p ++ [x]) = scanStep o (scanOver o (y :: p)) x := List.foldl_concat _ _ _ _

/-- One value more: the scan gives what lies before it or what it makes of that, and carries the latter on. -/
theorem scanFrom_cons (o : ScanOp) (excl : Bool) (p : List Word) (x : Word) (t : List Word) :
    scanFrom o excl (carried o p) (x :: t) =
      (if excl then scanOver o p else scanOver o (p ++ [x])) :: scanFrom o excl (carried o (p ++ [x])) t := by
  cases p with
  | nil => rfl
  | cons y p =>
    show (if excl then _ else scanStep o (scanOver o (y :: p)) x) :: scanFrom o excl (some (scanStep o (scanOver o (y :: p)) x)) t = _
    rw [← scanOver_concat]
    rfl

/-- Each lane of a list in ascending order gets the operation over the values before it, its own among them where `sel` takes it. -/
theorem find?_scanFrom (o : ScanOp) (excl : Bool) (v : Nat → Word) {sel : Nat → Bool} {l : Nat} (hlt : ∀ j, j < l → sel j = true)
    (hgt : ∀ j, l < j → sel j = false) (hself : sel l = !excl) (ls : List Nat) : ∀ p : List Word, ls.Pairwise (· < ·) → l ∈ ls →
    ((ls.zip (scanFrom o excl (carried o p) (ls.map v))).find? (fun x => x.1 == l)).elim 0 (fun x => x.2) =
      scanOver o (p ++ (ls.filter sel).map v) := by
  induction ls with
  | nil => intro _ _ hl; cases hl
  | cons a t ih =>
    intro p hs hl
    obtain ⟨ha, ht⟩ := List.pairwise_cons.1 hs
    rw [List.map_cons, scanFrom_cons, List.zip_cons_cons]
    by_cases hal : a = l
    · subst hal
      have hrest : t.filter sel = [] := List.filter_eq_nil_iff.2 fun j hj => by rw [hgt j (ha j hj)]; exact Bool.false_ne_true
      rw [List.find?_cons_of_pos (by exact beq_self_eq_true a), List.filter_cons, hrest, hself]
      cases excl with
      | true => exact congrArg (scanOver o) (List.append_nil p).symm
      | false => rfl
    · have hlt' : l ∈ t := (List.mem_cons.1 hl).resolve_left (Ne.symm hal)
      rw [List.find?_cons_of_neg (by simpa using hal), ih _ ht hlt', List.filter_cons, hlt a (ha l hlt'), if_pos rfl, List.map_cons,
        List.append_assoc]
      rfl

theorem laneValue_scan {o : ScanOp} {excl : Bool} {v : Nat → Word} {sel : Nat → Bool} {t : Mask} {l : Nat}
    (hlt : ∀ j, j < l → sel j = true) (hgt : ∀ j, l < j → sel j = false) (hself : sel l = !excl) (hl : laneBit t l = true) :
    laneValue t (scanFrom o excl none ((lanesOf t).map v)) l = scanOver o (((lanesOf t).filter sel).map v) :=
  find?_scanFrom o excl v hlt hgt hself (lanesOf t) [] (lanesOf_sorted t) ((mem_lanesOf t l).2 hl)

/-- The last of the running values is the operation over all of them. -/
theorem getLast?_scanFrom (o : ScanOp) (x : Word) (t : List Word) : ∀ p : List Word,
    (scanFrom o false (carried o p) (x :: t)).getLast? = some (scanOver o (p ++ x :: t)) := by
  induction t generalizing x with
  | nil => intro p; rw [scanFrom_cons]; cases p <;> rfl
  | cons y t ih =>
    intro p
    have h := ih y (p ++ [x])
    rw [scanFrom_cons, List.getLast?_cons, h, List.append_assoc]
    rfl

theorem getLast?_scan (o : ScanOp) (x : Word) (t : List Word) : (scanFrom o false none (x :: t)).getLast? = some (scanOver o (x :: t)) :=
  getLast?_scanFrom o x t []

theorem lanesOf_ne_nil {t : Mask} (h : t ≠ 0) : lanesOf t ≠ [] := fun hn => h (mask_ext fun l => by
  rw [laneBit_zero, ← Bool.not_eq_true, ← mem_lanesOf, hn]
  exact List.not_mem_nil)

/-! ## The instructions -/

section
variable (g pd pa : Pred) (d : KReg) (s : State)

theorem exec_vote (m : VoteMode) : exec (.vote g pd pa m) s = s.run (fun e => .ok (s.retire e (e.g.withRegs
    (e.g.regs.setP pd.val (e.taking g) (if voteOf m (e.taking g) (e.taking g &&& e.g.regs.getP pa.val) then allLanes else 0))))) := rfl

theorem exec_ballot : exec (.ballot g d pa) s = s.run (fun e => .ok (s.retire e (if e.taking g = 0 then e.g
    else e.g.withRegs (e.g.regs.setK d.val (e.taking g &&& e.g.regs.getP pa.val))))) := rfl

theorem exec_lred (a : Src) (o : ScanOp) : exec (.lred g d a o) s = execLred g d a o s := rfl

end

section
variable {g : Pred} {d : KReg} {a : Src} {pa : Pred} {o : ScanOp} {s : State} {e : Env} (he : s.env? = some e)
include he

theorem vote_completes (pd : Pred) (m : VoteMode) : Completes (.vote g pd pa m) s s e e.g.latch
    (fun h => WritesP e h (e.taking g) pd.val (fun _ => voteOf m (e.taking g) (e.taking g &&& e.g.regs.getP pa.val))) := by
  refine completes_of_retire ((exec_vote g pd pa s m).trans (run_ok he rfl)) (group?_gid_of_env he) (setP_writes e _ _ fun l hl => ?_)
  split
  next h => rw [h, laneBit_allLanes hl]
  next h => rw [laneBit_zero, Bool.eq_false_of_not_eq_true h]

theorem ballot_completes (ht : e.taking g ≠ 0) : Completes (.ballot g d pa) s s e e.g.latch
    (fun h => WritesK e h d.val (e.taking g &&& e.g.regs.getP pa.val)) :=
  completes_of_retire ((exec_ballot g pa d s).trans (run_ok he (by rw [if_neg ht]; rfl))) (group?_gid_of_env he) (setK_writes e _ _)

theorem ballot_passes (ht : e.taking g = 0) : Completes (.ballot g d pa) s s e e.g.latch (WritesNone e) :=
  completes_of_retire_same he ((exec_ballot g pa d s).trans (run_ok he (by rw [if_pos ht])))

theorem lred_completes (ht : e.taking g ≠ 0) : Completes (.lred g d a o) s s e e.g.latch
    (fun h => WritesK e h d.val (scanOver o ((lanesOf (e.taking g)).map (fun l => e.g.regs.src a l)))) := by
  obtain ⟨l, ls, hls⟩ := List.exists_cons_of_ne_nil (lanesOf_ne_nil ht)
  rw [hls, List.map_cons]
  refine completes_of_retire ((exec_lred g d s a o).trans (run_ok he ?_)) (group?_gid_of_env he) (setK_writes e _ _)
  simp only [hls, List.map_cons, getLast?_scan]
  rfl

theorem lred_passes (ht : e.taking g = 0) : Completes (.lred g d a o) s s e e.g.latch (WritesNone e) := by
  have hnil : lanesOf (e.taking g) = [] := by rw [ht]; rfl
  refine completes_of_retire_same he ((exec_lred g d s a o).trans (run_ok he ?_))
  simp only [hnil]
  rfl

end

end Sys2Proof.Machine

namespace Sys2Proof
open Machine

/-- Settles O17: a shuffle is looked up lane by lane, a vote in the masks, and the running values of a scan are the operation over the lanes
up to each one. -/
theorem crossLane : Obligations.CrossLane := by
  intro g d a b kd pd pa m o s e he t n own lands ins before
  refine ⟨completes_of_putLanes he rfl fun _ _ => pick_some _ _ _ _, completes_of_putLanes he rfl fun _ _ => pick_some _ _ _ _,
    completes_of_putLanes he rfl fun _ _ => pick_up _ _ _ _, completes_of_putLanes he rfl fun _ _ => pick_some _ _ _ _,
    ⟨_, fun l j hj => match_bit t own l hj, completes_of_putLanes he rfl fun _ _ => rfl⟩, ⟨_, voteOf_iff m t _, vote_completes he pd m⟩,
    ballot_completes he, ballot_passes he,
    completes_of_putLanes he rfl fun l hl => laneValue_scan (fun _ h => decide_eq_true h.le) (fun _ h => decide_eq_false (not_le.2 h))
      (decide_eq_true le_rfl) hl,
    completes_of_putLanes he rfl fun l hl => laneValue_scan (fun _ h => decide_eq_true h) (fun _ h => decide_eq_false h.not_gt)
      (decide_eq_false (lt_irrefl l)) hl,
    lred_completes he, lred_passes he⟩

end Sys2Proof
end

section
/-! FMIN and FMAX of every format (R208). The lesser and the greater of two data are data, so that rounding them changes no more than that
a subnormal is flushed. -/

namespace Sys2Proof.Machine

section
variable {w : Nat} {f : Fmt} (h : f.Regular) (ht : f.top = .ieee) (hw : 2 ^ w = 2 * f.signBit)
include h ht hw

theorem ofNat_rne_value {a : BitVec w} (hn : (f.value a.toNat).isNan = false) :
    BitVec.ofNat w (f.rne (f.value a.toNat)) = cleanBits f a := by
  rw [Fmt.rne, Fmt.encode_value h ht .rne (hw ▸ a.isLt) hn, ← toNat_cleanBits hw, BitVec.ofNat_toNat, BitVec.setWidth_eq]

omit h hw in
theorem rne_nan : f.rne .nan = f.cnan := if_neg (by rw [ht]; nofun)

/-- Any choice between two data that are no NaNs. -/
theorem ofNat_rne_choice {a b : BitVec w} {nan : Bool} (ha : nan = false → (f.value a.toNat).isNan = false)
    (hb : nan = false → (f.value b.toNat).isNan = false) (p q r : Bool) :
    BitVec.ofNat w (f.rne (if nan then .nan else if p then f.value a.toNat else if q then f.value b.toNat
      else if r then f.value a.toNat else f.value b.toNat)) =
    if nan then BitVec.ofNat w f.cnan else if p then cleanBits f a else if q then cleanBits f b
      else if r then cleanBits f a else cleanBits f b := by
  cases nan with
  | true => exact congrArg _ (rne_nan ht)
  | false =>
    rw [← ofNat_rne_value h ht hw (ha rfl), ← ofNat_rne_value h ht hw (hb rfl)]
    simp only [Bool.false_eq_true, if_false, apply_ite f.rne, apply_ite (BitVec.ofNat w)]

theorem ofNat_rne_min (a b : BitVec w) : BitVec.ofNat w (f.rne ((f.value a.toNat).min (f.value b.toNat))) = lesserOf f a b := by
  unfold Num.min lesserOf
  simp only [← Bool.or_eq_true]
  exact ofNat_rne_choice h ht hw (fun hn => (Bool.or_eq_false_iff.1 hn).1) (fun hn => (Bool.or_eq_false_iff.1 hn).2) _ _ _

theorem ofNat_rne_max (a b : BitVec w) : BitVec.ofNat w (f.rne ((f.value a.toNat).max (f.value b.toNat))) = greaterOf f a b := by
  unfold Num.max greaterOf
  simp only [← Bool.or_eq_true]
  exact ofNat_rne_choice h ht hw (fun hn => (Bool.or_eq_false_iff.1 hn).2) (fun hn => (Bool.or_eq_false_iff.1 hn).1) _ _ _

end

/-- An operation on packed words that on data of 16 bits is `o'` is `o'` on both halves. -/
theorem x2op_eq_halves {f : Fmt} (hf : ∀ v, f.rne v < 65536) {o : Num → Num → Num} {o' : BitVec 16 → BitVec 16 → BitVec 16}
    (ho : ∀ x y : BitVec 16, BitVec.ofNat 16 (f.rne (o (f.value x.toNat) (f.value y.toNat))) = o' x y) (a b : Word) :
    x2op f o a b = halves o' a b := by
  rw [x2op_eq_pairOf hf]
  exact congrArg₂ (· ++ ·) (ho _ _) (ho _ _)

theorem regular_f32 : Fmt.f32.Regular := Fmt.regular_of_mem (by simp)

theorem regular_f64 : Fmt.f64.Regular := Fmt.regular_of_mem (by simp)

theorem regular_f16 : Fmt.f16.Regular := Fmt.regular_of_mem (by simp)

theorem regular_bf16 : Fmt.bf16.Regular := Fmt.regular_of_mem (by simp)

section
variable (g : Pred) (d : VReg) (a b : Src) (s : State)

theorem exec_fminF32 : exec (.fminF32 g d a b) s = s.laneOp g d (fun r l => f32op Num.min (r.src a l) (r.src b l)) := rfl

theorem exec_fmaxF32 : exec (.fmaxF32 g d a b) s = s.laneOp g d (fun r l => f32op Num.max (r.src a l) (r.src b l)) := rfl

theorem exec_fminF64 : exec (.fminF64 g d a b) s = s.laneOp2 g d (fun r l => f64op Num.min (r.src2 a l) (r.src2 b l)) := rfl

theorem exec_fmaxF64 : exec (.fmaxF64 g d a b) s = s.laneOp2 g d (fun r l => f64op Num.max (r.src2 a l) (r.src2 b l)) := rfl

theorem exec_fminF16x2 : exec (.fminF16x2 g d a b) s = s.laneOp g d (fun r l => x2op .f16 Num.min (r.src a l) (r.src b l)) := rfl

theorem exec_fmaxF16x2 : exec (.fmaxF16x2 g d a b) s = s.laneOp g d (fun r l => x2op .f16 Num.max (r.src a l) (r.src b l)) := rfl

theorem exec_fminBf16x2 : exec (.fminBf16x2 g d a b) s = s.laneOp g d (fun r l => x2op .bf16 Num.min (r.src a l) (r.src b l)) := rfl

theorem exec_fmaxBf16x2 : exec (.fmaxBf16x2 g d a b) s = s.laneOp g d (fun r l => x2op .bf16 Num.max (r.src a l) (r.src b l)) := rfl

end

end Sys2Proof.Machine

namespace Sys2Proof
open Machine

/-- Settles O11: the result is one of the two data or the canonical NaN, and a datum rounds to itself as it is read. -/
theorem floatMinimumAndMaximum : Obligations.FloatMinimumAndMaximum := fun g d a b =>
  ⟨laneResult_of_eq (exec_fminF32 g d a b) fun _ _ => ofNat_rne_min regular_f32 rfl (by decide) _ _,
   laneResult_of_eq (exec_fmaxF32 g d a b) fun _ _ => ofNat_rne_max regular_f32 rfl (by decide) _ _,
   laneResult2_of_eq (exec_fminF64 g d a b) fun _ _ => ofNat_rne_min regular_f64 rfl (by decide) _ _,
   laneResult2_of_eq (exec_fmaxF64 g d a b) fun _ _ => ofNat_rne_max regular_f64 rfl (by decide) _ _,
   laneResult_of_eq (exec_fminF16x2 g d a b) fun _ _ => x2op_eq_halves rne_f16_lt (ofNat_rne_min regular_f16 rfl (by decide)) _ _,
   laneResult_of_eq (exec_fmaxF16x2 g d a b) fun _ _ => x2op_eq_halves rne_f16_lt (ofNat_rne_max regular_f16 rfl (by decide)) _ _,
   laneResult_of_eq (exec_fminBf16x2 g d a b) fun _ _ => x2op_eq_halves rne_bf16_lt (ofNat_rne_min regular_bf16 rfl (by decide)) _ _,
   laneResult_of_eq (exec_fmaxBf16x2 g d a b) fun _ _ => x2op_eq_halves rne_bf16_lt (ofNat_rne_max regular_bf16 rfl (by decide)) _ _⟩

end Sys2Proof
end

section
/-! Words rounded from exact values: reciprocals, and values that are data (R167, R168, R209). -/

namespace Sys2Proof.Machine

namespace Fmt

section
variable {f : Fmt} (h : f.Regular) (hk : f.flush = false)
include h hk

theorem round_lt (rm : RMode) (sat neg : Bool) {n d : Nat} (hn : 0 < n) (hd : 0 < d) (e : Int) :
    f.round rm sat neg n d e < 2 * f.signBit := by
  obtain ⟨hover, hround⟩ := round_converts h hk rm sat neg hn hd e
  by_cases ho : f.overflows rm (signFactor neg * (n / d * 2 ^ e))
  · rw [hover ho]
    exact beyond_lt h sat neg
  · exact (hround ho).1

/-- A number that is a datum rounds to itself. -/
theorem rat?_value_round (neg : Bool) {n d : Nat} (hn : 0 < n) (hd : 0 < d) {e : Int} {x : ℚ} (hx : x = signFactor neg * (n / d * 2 ^ e))
    (hdat : f.isDatum x) : (f.value (f.round .rne false neg n d e)).rat? = some x := by
  have hpos : (0 : ℚ) < n / d * 2 ^ e := by positivity
  have hover : ¬f.overflows .rne (signFactor neg * (n / d * 2 ^ e)) := by
    obtain ⟨s, j, hj, hjx⟩ := (isDatum_iff h hk x).1 hdat
    have hmag : n / d * 2 ^ e = f.mag j := by
      have := congrArg abs (hx.symm.trans hjx)
      rwa [abs_signFactor_mul, abs_signFactor_mul, abs_of_pos hpos, abs_of_nonneg (f.mag_nonneg j)] at this
    have hle := f.mag_strictMono.monotone hj
    have hlt := f.mag_strictMono f.maxCode.lt_succ_self
    rw [overflows_nearest_iff h hk hpos, hmag]
    linarith
  obtain ⟨-, -, y, hy, hbest⟩ := (round_converts h hk .rne false neg hn hd e).2 hover
  obtain ⟨hle, -⟩ := hbest x hdat
  rw [← hx, sub_self, abs_zero, abs_nonpos_iff, sub_eq_zero] at hle
  rw [hy, hle]

end

/-! ## FP32 -/

theorem qmin_f32 : f32.qmin = -149 := by decide

theorem two_pow_127_le_max : (2 : ℚ) ^ (127 : Int) ≤ f32.mag f32.maxCode := by
  have hmag := mag_binade (f := f32) (i := 253) (k := 2 ^ 23) (by decide) (.inr le_rfl)
  have hmono := f32.mag_strictMono.monotone (by decide : 253 * 2 ^ f32.fb + 2 ^ 23 ≤ f32.maxCode)
  rw [hmag] at hmono
  refine le_trans (le_of_eq ?_) hmono
  rw [qmin_f32]
  norm_num

/-- A number of up to 24 bits shifted to the top of its significand, as far as the lowest binade lets it. -/
theorem exists_normalized {k : Nat} {j : Int} (hk : k < 2 ^ 24) (hj : -149 ≤ j) :
    ∃ a i : Nat, j = a + (i - 149 : Int) ∧ k * 2 ^ a < 2 ^ 24 ∧ (i = 0 ∨ 2 ^ 23 ≤ k * 2 ^ a) := by
  obtain ⟨n, hn⟩ : ∃ n : Nat, j = n - 149 := ⟨(j + 149).toNat, by omega⟩
  obtain rfl | h0 := eq_or_ne k 0
  · exact ⟨n, 0, by omega, by rw [zero_mul]; exact Nat.two_pow_pos 24, .inl rfl⟩
  have hl : Nat.log2 k < 24 := (Nat.log2_lt h0).2 hk
  refine ⟨min (23 - Nat.log2 k) n, n - min (23 - Nat.log2 k) n, by omega, ?_, ?_⟩
  · calc k * 2 ^ min (23 - Nat.log2 k) n < 2 ^ (Nat.log2 k + 1) * 2 ^ min (23 - Nat.log2 k) n := by gcongr; exact Nat.lt_log2_self
      _ ≤ 2 ^ 24 := by rw [← pow_add]; exact Nat.pow_le_pow_right two_pos (by omega)
  · rcases le_total n (23 - Nat.log2 k) with h | h
    · exact .inl (by omega)
    · refine .inr ?_
      calc 2 ^ 23 = 2 ^ Nat.log2 k * 2 ^ (23 - Nat.log2 k) := by rw [← pow_add]; congr 1; omega
        _ ≤ k * 2 ^ min (23 - Nat.log2 k) n := by rw [min_eq_left h]; gcongr; exact Nat.log2_self_le h0

/-- A number of up to 24 bits in units that are not below the least one is a datum of FP32, unless it is too large. -/
theorem isDatum_f32 (s : Bool) {k : Nat} {j : Int} (hk : k < 2 ^ 24) (hj : -149 ≤ j) (hle : (k : ℚ) * 2 ^ j ≤ 2 ^ (127 : Int)) :
    f32.isDatum (signFactor s * (k * 2 ^ j)) := by
  obtain ⟨a, i, haj, hlt, hnorm⟩ := exists_normalized hk hj
  have hval : (k : ℚ) * 2 ^ j = f32.mag (i * 2 ^ f32.fb + k * 2 ^ a) := by
    have hmag := mag_binade (f := f32) (i := i) (k := k * 2 ^ a) hlt.le hnorm
    rw [hmag, haj, zpow_add₀ two_ne_zero]
    push_cast
    rw [← mul_assoc, zpow_natCast, qmin_f32, neg_add_eq_sub]
  have hcode : i * 2 ^ f32.fb + k * 2 ^ a ≤ f32.maxCode := by
    rw [← f32.mag_strictMono.le_iff_le, ← hval]
    exact hle.trans two_pow_127_le_max
  exact (isDatum_iff regular_f32 rfl _).2 ⟨s, _, hcode, by rw [hval]⟩

end Fmt

theorem toNat_ofNat_of_lt {c : Nat} (hc : c < 2 * Fmt.f32.signBit) : (BitVec.ofNat 32 c).toNat = c := Nat.mod_eq_of_lt hc

theorem numF32_ofNat {c : Nat} (hc : c < 2 * Fmt.f32.signBit) : numF32 (BitVec.ofNat 32 c) = Fmt.f32.value c := by
  rw [numF32, toNat_ofNat_of_lt hc]

/-- The significand and the exponent of a word's value. -/
theorem numF32_bounds {x : Word} {neg : Bool} {m : Nat} {e : Int} (hv : numF32 x = .fin neg m e) (hm : m ≠ 0) :
    m < 2 ^ 24 ∧ -149 ≤ e ∧ e < 107 := by
  obtain ⟨hlt, hlow, hup⟩ := Fmt.value_bounds hv hm
  rw [Fmt.qmin_f32] at hlow hup
  have hfb : Fmt.f32.fb = 23 := rfl
  have heb : Fmt.f32.eb = 8 := rfl
  rw [hfb] at hlt
  rw [heb] at hup
  exact ⟨hlt, hlow, by omega⟩

theorem rcp32_fin (neg : Bool) {m : Nat} (hm : m ≠ 0) (e : Int) : rcp32 (.fin neg m e) = Fmt.f32.round .rne false neg 1 m (-e) := by
  unfold rcp32
  split
  next h => cases h
  next h => cases h
  next h => cases h; exact absurd rfl hm
  next h => cases h; rfl

section
variable {x : Word} {neg : Bool} {m : Nat} {e : Int} {q : ℚ} (hv : numF32 x = .fin neg m e) (hq : (numF32 x).rat? = some q)
include hv hq

theorem eq_of_numF32_rat? : q = signFactor neg * (m * 2 ^ e) := by
  rw [hv, rat?_fin_eq_signFactor_mul, Option.some.injEq] at hq
  exact hq.symm

/-- The reciprocal is rounded from the exact value. -/
theorem rcp_converts (hm : m ≠ 0) : (Fmt.f32.overflows .rne (1 / q) → numF32 (f32fn rcp32 x) = .inf neg) ∧
    (¬Fmt.f32.overflows .rne (1 / q) → Fmt.f32.roundsTo .rne neg (1 / q) (f32fn rcp32 x).toNat) := by
  have hpos := Nat.pos_of_ne_zero hm
  have hrcp : f32fn rcp32 x = BitVec.ofNat 32 (Fmt.f32.round .rne false neg 1 m (-e)) := by rw [f32fn, hv, rcp32_fin neg hm]
  have hinv : 1 / q = signFactor neg * (((1 : Nat) : ℚ) / m * 2 ^ (-e)) := by
    rw [eq_of_numF32_rat? hv hq, zpow_neg, Nat.cast_one]
    cases neg <;> simp [signFactor] <;> ring
  have hlt := Fmt.round_lt regular_f32 rfl .rne false neg one_pos hpos (-e)
  have hconv := Fmt.round_converts regular_f32 rfl .rne false neg one_pos hpos (-e)
  rw [← hinv] at hconv
  rw [hrcp, numF32_ofNat hlt, toNat_ofNat_of_lt hlt]
  refine ⟨fun ho => ?_, hconv.2⟩
  rw [hconv.1 ho, Fmt.beyond_of_ieee rfl, Fmt.value_infinity rfl]

end

end Sys2Proof.Machine
end

section
/-! Square roots and their reciprocals (R209): an integer root with one more bit, which says whether it is inexact, rounds as the real root
does, because between one integer and the next no half of a last place lies. -/

namespace Sys2Proof.Machine

/-! ## The integer square root -/

theorem isqrtBits_spec (x n : Nat) : ∀ r, r * r ≤ x → x < (r + 2 ^ n) * (r + 2 ^ n) →
    isqrtBits n x r * isqrtBits n x r ≤ x ∧ x < (isqrtBits n x r + 1) * (isqrtBits n x r + 1) := by
  induction n with
  | zero => intro r hlow hup; exact ⟨hlow, hup⟩
  | succ n ih =>
    intro r hlow hup
    rw [isqrtBits]
    split
    next h => exact ih _ h (by rwa [add_assoc, ← two_mul, ← pow_succ'])
    next h => exact ih r hlow (not_le.1 h)

theorem isqrt_spec (x : Nat) : isqrt x ^ 2 ≤ x ∧ x < (isqrt x + 1) ^ 2 := by
  rw [sq, sq]
  refine isqrtBits_spec x _ 0 (Nat.zero_le x) ?_
  rw [zero_add, ← pow_add]
  exact Nat.lt_log2_self.trans_le (Nat.pow_le_pow_right two_pos (by omega))

theorem isqrt_range {x : Nat} (hlow : (2 ^ 26) ^ 2 ≤ x) (hup : x < (2 ^ 129) ^ 2) : 2 ^ 26 ≤ isqrt x ∧ isqrt x < 2 ^ 129 := by
  obtain ⟨hr, hr'⟩ := isqrt_spec x
  exact ⟨Nat.le_of_lt_succ (lt_of_pow_lt_pow_left₀ 2 (Nat.zero_le _) (hlow.trans_lt hr')),
    lt_of_pow_lt_pow_left₀ 2 (Nat.zero_le _) (hr.trans_lt hup)⟩

/-! ## The FP32 value nearest a real number -/

/-- The integer r lies at or below v, and the next one above. -/
theorem sqrt_between {r : Nat} {v : ℝ} (hlow : (r : ℝ) ^ 2 ≤ v) (hup : v < (r + 1) ^ 2) : r ≤ √v ∧ √v < r + 1 :=
  ⟨Real.le_sqrt_of_sq_le hlow, (Real.sqrt_lt' (by positivity)).2 hup⟩

theorem sqrt_scaled {q v : ℝ} {Q : Int} (h : q = v * (2 ^ Q) ^ 2) : √q = √v * 2 ^ Q := by
  rw [h, Real.sqrt_mul' v (sq_nonneg _), Real.sqrt_sq (zpow_nonneg zero_le_two Q)]

/-- Of a rising scale of numbers, the neighbour on the nearer side of the middle is nearer than every other number. -/
theorem abs_sub_lt_of_nearer {g : Nat → ℚ} (hg : StrictMono g) {n c : Nat} {y : ℝ} (hlow : (g n : ℝ) < y) (hup : y < g (n + 1))
    (hc : c = n ∧ y < (g n + g (n + 1)) / 2 ∨ c = n + 1 ∧ ((g n + g (n + 1)) / 2 : ℝ) < y) {j : Nat} (hj : j ≠ c) :
    |(g c : ℝ) - y| < |(g j : ℝ) - y| := by
  have hmono {a b : Nat} (hab : a ≤ b) : (g a : ℝ) ≤ g b := Rat.cast_le.2 (hg.monotone hab)
  have hstrict {a b : Nat} (hab : a < b) : (g a : ℝ) < g b := Rat.cast_lt.2 (hg hab)
  rcases hc with ⟨rfl, hmid⟩ | ⟨rfl, hmid⟩
  · rw [abs_of_neg (by linarith : (g c : ℝ) - y < 0)]
    rcases lt_or_gt_of_ne hj with h | h
    · have := hstrict h
      rw [abs_of_neg] <;> linarith
    · have := hmono h
      rw [abs_of_pos] <;> linarith
  · rw [abs_of_pos (by linarith : 0 < (g (n + 1) : ℝ) - y)]
    rcases lt_or_gt_of_ne hj with h | h
    · have := hmono (Nat.le_of_lt_succ h)
      rw [abs_of_neg] <;> linarith
    · have := hstrict h
      rw [abs_of_pos] <;> linarith

/-- A code of FP32 whose magnitude is nearer to a positive number than any other: the data of the other sign are no nearer than zero. -/
theorem nearestF32_of_nearer {c : Nat} {y : ℝ} (hc : c ≤ Fmt.f32.maxCode) (hy : 0 < y)
    (hbest : ∀ j, j ≠ c → |(Fmt.f32.mag c : ℝ) - y| < |(Fmt.f32.mag j : ℝ) - y|) : nearestF32 y c := by
  have hv := Fmt.rat?_value_signed regular_f32 rfl false hc
  rw [signFactor, if_neg Bool.false_ne_true, one_mul] at hv
  refine ⟨_, hv, fun z hz => ?_⟩
  obtain ⟨s, j, -, rfl⟩ := (Fmt.isDatum_iff regular_f32 rfl z).1 hz
  have hmag : (0 : ℝ) ≤ Fmt.f32.mag j := Rat.cast_nonneg.2 (Fmt.f32.mag_nonneg j)
  rcases signFactor_cases s with ⟨-, hs⟩ | ⟨-, hs⟩ <;> rw [hs]
  · rw [one_mul]
    obtain rfl | hj := eq_or_ne j c
    · exact ⟨le_rfl, fun _ hne => absurd rfl hne⟩
    · exact ⟨(hbest j hj).le, fun ht => absurd ht (hbest j hj).ne⟩
  · have hzero : c = 0 ∨ |(Fmt.f32.mag c : ℝ) - y| < y := by
      refine or_iff_not_imp_left.2 fun h0 => ?_
      have := hbest 0 (Ne.symm h0)
      rwa [Fmt.mag_zero, Rat.cast_zero, zero_sub, abs_neg, abs_of_pos hy] at this
    push_cast
    rw [neg_one_mul, ← neg_add', abs_neg, abs_of_pos (by linarith : 0 < (Fmt.f32.mag j : ℝ) + y)]
    rcases hzero with rfl | hlt
    · rw [Fmt.mag_zero, Rat.cast_zero, zero_sub, abs_neg, abs_of_pos hy]
      exact ⟨by linarith, fun _ _ => rfl⟩
    · exact ⟨by linarith, fun ht => by linarith⟩

/-- What a positive number that is not too large rounds to in FP32. -/
theorem round_f32_spec {n : Nat} (hn : 0 < n) {e : Int} (hle : (n : ℚ) * 2 ^ e ≤ 2 ^ (127 : Int)) :
    ∃ k φ c, Rounds Fmt.f32.mag .rne false (n * 2 ^ e) k φ c ∧ c ≤ Fmt.f32.maxCode ∧ Fmt.f32.round .rne false false n 1 e = c := by
  obtain ⟨k, φ, c, hr, hround⟩ := Fmt.round_spec regular_f32 .rne false false hn one_pos e
  rw [Nat.cast_one, div_one] at hr
  have hover : ¬(Fmt.f32.maxCode < c ∨ (c = Fmt.f32.maxCode ∧ φ = 1 / 2 ∧ k = c)) := by
    rw [hr.beyond_iff Fmt.f32.mag_strictMono, not_le]
    have := Fmt.f32.mag_strictMono Fmt.f32.maxCode.lt_succ_self
    have := hle.trans Fmt.two_pow_127_le_max
    linarith
  have hc : c ≤ Fmt.f32.maxCode := not_lt.1 fun h => hover (.inl h)
  refine ⟨k, φ, c, hr, hc, ?_⟩
  rw [hround, if_neg (by simpa using hover)]
  rfl

/-- A rational number is rounded to the value nearest to it. -/
theorem nearestF32_of_rat {n : Nat} (hn : 0 < n) {e : Int} (hle : (n : ℚ) * 2 ^ e ≤ 2 ^ (127 : Int)) :
    nearestF32 (n * 2 ^ e) (Fmt.f32.round .rne false false n 1 e) := by
  obtain ⟨k, φ, c, hr, hc, hround⟩ := round_f32_spec hn hle
  obtain ⟨-, -, y, hy, hbest⟩ := Fmt.roundsTo_nearest regular_f32 rfl (neg := false) hc (by positivity) (hr.nearest Fmt.f32.mag_strictMono)
  rw [signFactor, if_neg Bool.false_ne_true, one_mul] at hbest
  refine ⟨y, hround ▸ hy, fun z hz => ?_⟩
  have hcast (w : ℚ) : |(w : ℝ) - n * 2 ^ e| = ((|w - n * 2 ^ e| : ℚ) : ℝ) := by push_cast; rfl
  rw [hround, hcast, hcast, Rat.cast_le, Rat.cast_inj]
  exact hbest z hz

/-- Multiples of a unit and a number of that unit and a half: a real number between the same two multiples lies on the same side. -/
theorem side_of_multiple {r : Nat} {Q : Int} {y : ℝ} (hlow : (r : ℝ) * 2 ^ Q < y) (hup : y < (r + 1) * 2 ^ Q) (T : Nat) :
    ((2 * r + 1 : ℚ) * 2 ^ (Q - 1) < T * 2 ^ Q ∧ y < ((T * 2 ^ Q : ℚ) : ℝ)) ∨
    ((T * 2 ^ Q : ℚ) < (2 * r + 1) * 2 ^ (Q - 1) ∧ ((T * 2 ^ Q : ℚ) : ℝ) < y) := by
  have hhalf : (2 * r + 1 : ℚ) * 2 ^ (Q - 1) = (r + 1 / 2) * 2 ^ Q := by
    rw [zpow_sub_one₀ two_ne_zero]
    ring
  have hpos : (0 : ℚ) < 2 ^ Q := zpow_pos two_pos Q
  have hpos' : (0 : ℝ) < 2 ^ Q := zpow_pos two_pos Q
  push_cast
  rw [hhalf]
  rcases Nat.lt_or_ge r T with h | h
  · refine .inl ⟨?_, hup.trans_le ?_⟩
    · have : (r : ℚ) + 1 ≤ T := by exact_mod_cast h
      exact mul_lt_mul_of_pos_right (by linarith) hpos
    · have : (r : ℝ) + 1 ≤ T := by exact_mod_cast h
      exact mul_le_mul_of_nonneg_right this hpos'.le
  · refine .inr ⟨?_, lt_of_le_of_lt ?_ hlow⟩
    · have : (T : ℚ) ≤ r := by exact_mod_cast h
      exact mul_lt_mul_of_pos_right (by linarith) hpos
    · have : (T : ℝ) ≤ r := by exact_mod_cast h
      exact mul_le_mul_of_nonneg_right this hpos'.le

/-- The magnitudes below and above a number of more than 26 bits in a unit, and the middle between them, are multiples of the unit. -/
theorem exists_multiples {r n : Nat} {Q : Int} (hr : 2 ^ 26 ≤ r) (hlt : (2 * r + 1 : ℚ) * 2 ^ (Q - 1) < Fmt.f32.mag (n + 1)) :
    ∃ K : Nat, (∃ L : Nat, Fmt.f32.mag n = L * 2 ^ Q) ∧ (Fmt.f32.mag n + Fmt.f32.mag (n + 1)) / 2 = K * 2 ^ Q ∧
      ∃ L : Nat, Fmt.f32.mag (n + 1) = L * 2 ^ Q := by
  obtain ⟨i, k, rfl, hk, hi⟩ := Fmt.eq_binade Fmt.f32 n
  have hmag := Fmt.mag_binade hk.le hi
  have hmag' := Fmt.mag_succ_of_binade hk hi
  rw [hmag] at hmag'
  obtain ⟨s, hs⟩ : ∃ s : Nat, Fmt.f32.qmin + (i : Int) = Q + s + 1 := by
    have hbits : (2 : ℚ) ^ (26 + Q) < 2 ^ (24 + (Fmt.f32.qmin + (i : Int))) := by
      calc (2 : ℚ) ^ (26 + Q) = ((2 ^ 26 : Nat) : ℚ) * 2 ^ Q := by rw [zpow_add₀ two_ne_zero]; norm_num
        _ ≤ r * 2 ^ Q := by gcongr
        _ ≤ (2 * r + 1 : ℚ) * 2 ^ (Q - 1) := by rw [zpow_sub_one₀ two_ne_zero]; linarith [zpow_pos (two_pos (α := ℚ)) Q]
        _ < Fmt.f32.mag (i * 2 ^ Fmt.f32.fb + k + 1) := hlt
        _ = (k + 1 : Nat) * 2 ^ (Fmt.f32.qmin + (i : Int)) := by rw [hmag']; push_cast; ring
        _ ≤ ((2 ^ 24 : Nat) : ℚ) * 2 ^ (Fmt.f32.qmin + (i : Int)) := by gcongr; exact hk
        _ = 2 ^ (24 + (Fmt.f32.qmin + (i : Int))) := by rw [zpow_add₀ two_ne_zero 24]; norm_num
    have := (zpow_lt_zpow_iff_right₀ one_lt_two).1 hbits
    exact ⟨(Fmt.f32.qmin + (i : Int) - Q - 1).toNat, by omega⟩
  have hunit : (2 : ℚ) ^ (Fmt.f32.qmin + (i : Int)) = (2 * 2 ^ s : Nat) * 2 ^ Q := by
    rw [hs, zpow_add_one₀ two_ne_zero, zpow_add₀ two_ne_zero, zpow_natCast]
    push_cast
    ring
  rw [hmag', hmag, hunit]
  exact ⟨(2 * k + 1) * 2 ^ s, ⟨k * (2 * 2 ^ s), by push_cast; ring⟩, by push_cast; ring, ⟨(k + 1) * (2 * 2 ^ s), by push_cast; ring⟩⟩

/-- A number strictly between two multiples of a unit, the last bits of which FP32 drops, is rounded as the middle between them. -/
theorem nearestF32_of_between {r : Nat} {Q : Int} {y : ℝ} (hr : 2 ^ 26 ≤ r) (hlow : (r : ℝ) * 2 ^ Q < y) (hup : y < (r + 1) * 2 ^ Q)
    (hle : ((2 * r + 1 : Nat) : ℚ) * 2 ^ (Q - 1) ≤ 2 ^ (127 : Int)) :
    nearestF32 y (Fmt.f32.round .rne false false (2 * r + 1) 1 (Q - 1)) := by
  obtain ⟨n, φ, c, hrd, hc, hround⟩ := round_f32_spec (Nat.succ_pos _) hle
  have hg := Fmt.f32.mag_strictMono
  push_cast at hrd
  obtain ⟨K, ⟨A, hlo⟩, hmid, ⟨B, hhi⟩⟩ := exists_multiples hr (hrd.lt_next hg)
  have hn : (Fmt.f32.mag n : ℝ) < y := by
    rw [hlo]
    refine ((side_of_multiple hlow hup _).resolve_left fun h => ?_).2
    exact absurd (hlo ▸ hrd.floor_le hg) (not_le.2 h.1)
  have hn' : y < Fmt.f32.mag (n + 1) := by
    rw [hhi]
    refine ((side_of_multiple hlow hup _).resolve_right fun h => ?_).2
    exact absurd (hhi ▸ hrd.lt_next hg) (not_lt.2 h.1.le)
  have hstep : 0 < Fmt.f32.mag (n + 1) - Fmt.f32.mag n := sub_pos.2 (hg n.lt_succ_self)
  have hmid' : ((Fmt.f32.mag n : ℝ) + Fmt.f32.mag (n + 1)) / 2 = ((K * 2 ^ Q : ℚ) : ℝ) := by
    rw [← hmid]
    push_cast
    rfl
  have hplace := hrd.place
  have hsides := side_of_multiple hlow hup K
  rw [← hmid'] at hsides
  rw [← hmid] at hsides
  rw [hround]
  refine nearestF32_of_nearer hc (((Rat.cast_nonneg (K := ℝ)).2 (Fmt.f32.mag_nonneg n)).trans_lt hn) fun j hj =>
    abs_sub_lt_of_nearer hg hn hn' ?_ hj
  rcases hrd.nearest_cases with ⟨hφ, hcn, -⟩ | ⟨hφ, hcn, -⟩
  · refine .inl ⟨hcn, (hsides.resolve_right fun h => ?_).2⟩
    have := mul_le_mul_of_nonneg_right hφ hstep.le
    linarith [h.1]
  · refine .inr ⟨hcn, (hsides.resolve_left fun h => ?_).2⟩
    have := mul_le_mul_of_nonneg_right hφ hstep.le
    linarith [h.1]

/-- A root is rounded from the integer below it and a bit that says whether that is the root itself. -/
theorem nearestF32_root {r st : Nat} {v : ℝ} {Q : Int} (hr : 2 ^ 26 ≤ r) (hr' : r < 2 ^ 129) (hQ : Q ≤ -11) (hlow : (r : ℝ) ^ 2 ≤ v)
    (hup : v < (r + 1) ^ 2) (hst : st = 0 ∧ (r : ℝ) ^ 2 = v ∨ st = 1 ∧ (r : ℝ) ^ 2 ≠ v) :
    nearestF32 (√v * 2 ^ Q) (BitVec.ofNat 32 (Fmt.f32.round .rne false false (2 * r + st) 1 (Q - 1))).toNat := by
  rw [toNat_ofNat_of_lt (Fmt.round_lt regular_f32 rfl .rne false false (by omega) one_pos _)]
  have hle : ((2 * r + st : Nat) : ℚ) * 2 ^ (Q - 1) ≤ 2 ^ (127 : Int) := by
    calc ((2 * r + st : Nat) : ℚ) * 2 ^ (Q - 1) ≤ (2 ^ 131 : Nat) * 2 ^ (-12 : Int) := by
          gcongr
          · omega
          · exact one_le_two
          · omega
      _ ≤ 2 ^ (127 : Int) := by norm_num
  have hpos : (0 : ℝ) < 2 ^ Q := zpow_pos two_pos Q
  obtain ⟨hroot, hroot'⟩ := sqrt_between hlow hup
  rcases hst with ⟨rfl, hv⟩ | ⟨rfl, hv⟩
  · have hval : √v * 2 ^ Q = ((2 * r + 0 : Nat) : ℝ) * 2 ^ (Q - 1) := by
      rw [← hv, Real.sqrt_sq (Nat.cast_nonneg r), zpow_sub_one₀ two_ne_zero]
      push_cast
      ring
    rw [hval]
    exact nearestF32_of_rat (by omega) hle
  · have hne : (r : ℝ) ≠ √v := fun h => hv (by rw [h, Real.sq_sqrt ((sq_nonneg _).trans hlow)])
    exact nearestF32_of_between hr (mul_lt_mul_of_pos_right (lt_of_le_of_ne hroot hne) hpos) (mul_lt_mul_of_pos_right hroot' hpos) hle

/-! ## The model's roots -/

theorem sqrt32_fin {m : Nat} (hm : m ≠ 0) (e : Int) :
    sqrt32 (.fin false m e) = Fmt.f32.round .rne false false (sqrtSticky m e).1 1 (sqrtSticky m e).2 := by
  unfold sqrt32
  split
  next h => cases h
  next h => cases h
  next h => cases h; exact absurd rfl hm
  next h => cases h
  next h => cases h; rfl

/-- A count of bits that makes what is left of an exponent even. -/
theorem exists_even_rest (e : Int) (n : Nat) (hn : n % 2 = 0) :
    ∃ (k : Nat) (Q : Int), (if e % 2 = 0 then n else n + 1) = k ∧ n ≤ k ∧ k ≤ n + 1 ∧ e = 2 * Q + k := by
  split
  next he => exact ⟨n, (e - n) / 2, rfl, by omega⟩
  next he => exact ⟨n + 1, (e - (n + 1 : Nat)) / 2, rfl, by omega⟩

/-- The root is taken of the significand with 128 or 129 more bits, which makes the exponent even. -/
theorem sqrtSticky_eq (m : Nat) {e Q : Int} {k : Nat} (hk : (if e % 2 = 0 then 128 else 129) = k) (he : e = 2 * Q + k) :
    sqrtSticky m e = (2 * isqrt (m * 2 ^ k) + (if isqrt (m * 2 ^ k) * isqrt (m * 2 ^ k) = m * 2 ^ k then 0 else 1), Q - 1) := by
  simp only [sqrtSticky, hk, (by omega : (e - k) / 2 = Q)]

theorem rsq32_fin {m : Nat} (hm : m ≠ 0) {e Q : Int} {k : Nat} (hk : (if e % 2 = 0 then 256 else 257) = k) (he : -e = 2 * Q + k) :
    rsq32 (.fin false m e) = Fmt.f32.round .rne false false
      (2 * isqrt (2 ^ k / m) + (if isqrt (2 ^ k / m) * isqrt (2 ^ k / m) * m == 2 ^ k then 0 else 1)) 1 (Q - 1) := by
  unfold rsq32
  split
  next h => cases h
  next h => cases h
  next h => cases h; exact absurd rfl hm
  next h => cases h
  next h => cases h; simp only [hk, (by omega : (-e - k) / 2 = Q)]

section
variable {x : Word} {m : Nat} {e : Int} {q : ℚ} (hv : numF32 x = .fin false m e) (hq : (numF32 x).rat? = some q) (hm : m ≠ 0)
include hv hq hm

theorem sqrt_nearest : nearestF32 (√q) (f32fn sqrt32 x).toNat := by
  obtain ⟨hlt, hlow, hup⟩ := numF32_bounds hv hm
  obtain ⟨k, Q, hsel, hk, hk', he⟩ := exists_even_rest e 128 rfl
  obtain ⟨hr, hr'⟩ := isqrt_spec (m * 2 ^ k)
  obtain ⟨hrange, hrange'⟩ : 2 ^ 26 ≤ isqrt (m * 2 ^ k) ∧ isqrt (m * 2 ^ k) < 2 ^ 129 := by
    apply isqrt_range
    · calc (2 ^ 26) ^ 2 ≤ 1 * 2 ^ 128 := by norm_num
        _ ≤ m * 2 ^ k := Nat.mul_le_mul (Nat.pos_of_ne_zero hm) (Nat.pow_le_pow_right two_pos hk)
    · calc m * 2 ^ k ≤ 2 ^ 24 * 2 ^ 129 := Nat.mul_le_mul hlt.le (Nat.pow_le_pow_right two_pos hk')
        _ < (2 ^ 129) ^ 2 := by norm_num
  have hval : (q : ℝ) = ((m * 2 ^ k : Nat) : ℝ) * (2 ^ Q) ^ 2 := by
    rw [eq_of_numF32_rat? hv hq, he, zpow_add₀ two_ne_zero, two_mul, zpow_add₀ two_ne_zero, zpow_natCast, signFactor,
      if_neg Bool.false_ne_true]
    push_cast
    ring
  rw [f32fn, hv, sqrt32_fin hm, sqrtSticky_eq m hsel he, sqrt_scaled hval]
  refine nearestF32_root hrange hrange' (by omega) (by exact_mod_cast hr) (by exact_mod_cast hr') ?_
  rw [← sq]
  split
  next h => exact .inl ⟨rfl, by exact_mod_cast h⟩
  next h => exact .inr ⟨rfl, by exact_mod_cast h⟩

theorem rsq_nearest : nearestF32 (1 / √q) (f32fn rsq32 x).toNat := by
  obtain ⟨hlt, hlow, hup⟩ := numF32_bounds hv hm
  obtain ⟨k, Q, hsel, hk, hk', he⟩ := exists_even_rest (-e) 256 rfl
  have hsel' : (if e % 2 = 0 then 256 else 257) = k := by
    rw [← hsel]
    exact if_congr (by omega) rfl rfl
  obtain ⟨hr, hr'⟩ := isqrt_spec (2 ^ k / m)
  have hpos := Nat.pos_of_ne_zero hm
  have hposR : (0 : ℝ) < m := Nat.cast_pos.2 hpos
  obtain ⟨hrange, hrange'⟩ : 2 ^ 26 ≤ isqrt (2 ^ k / m) ∧ isqrt (2 ^ k / m) < 2 ^ 129 := by
    apply isqrt_range
    · rw [Nat.le_div_iff_mul_le hpos]
      calc (2 ^ 26) ^ 2 * m ≤ (2 ^ 26) ^ 2 * 2 ^ 24 := by gcongr
        _ ≤ 2 ^ 256 := by norm_num
        _ ≤ 2 ^ k := Nat.pow_le_pow_right two_pos hk
    · calc 2 ^ k / m ≤ 2 ^ k := Nat.div_le_self _ _
        _ = 2 ^ (k - 2) * 2 ^ 2 := by rw [← pow_add]; congr 1; omega
        _ ≤ 2 ^ 255 * 2 ^ 2 := Nat.mul_le_mul_right _ (Nat.pow_le_pow_right two_pos (by omega))
        _ < (2 ^ 129) ^ 2 := by norm_num
  have hval : ((q : ℝ))⁻¹ = ((2 ^ k : Nat) : ℝ) / m * (2 ^ Q) ^ 2 := by
    have he' : (2 : ℝ) ^ e = (2 ^ (2 * Q + (k : Int)))⁻¹ := by rw [← he, zpow_neg, inv_inv]
    rw [eq_of_numF32_rat? hv hq, signFactor, if_neg Bool.false_ne_true]
    push_cast
    rw [he', zpow_add₀ two_ne_zero, two_mul, zpow_add₀ two_ne_zero, zpow_natCast, one_mul, mul_inv, inv_inv]
    ring
  rw [f32fn, hv, rsq32_fin hm hsel' he, one_div, ← Real.sqrt_inv, sqrt_scaled hval]
  refine nearestF32_root hrange hrange' (by omega) ?_ ?_ ?_
  · rw [le_div_iff₀ hposR]
    exact_mod_cast (Nat.le_div_iff_mul_le hpos).1 hr
  · rw [div_lt_iff₀ hposR]
    exact_mod_cast (Nat.div_lt_iff_lt_mul hpos).1 hr'
  · rw [ne_eq, eq_div_iff hposR.ne', ← sq]
    split
    next h => exact .inl ⟨rfl, by exact_mod_cast beq_iff_eq.1 h⟩
    next h => exact .inr ⟨rfl, by exact_mod_cast mt beq_iff_eq.2 h⟩

end

end Sys2Proof.Machine
end

section
/-! Powers, logarithms, sines and cosines where they are exact (R209): their series then have one term, or none. -/

namespace Sys2Proof.Machine

/-! ## Values by their parts -/

/-- A fraction with a sign that is an integer: the fraction is its magnitude, and the sign its own. -/
theorem eq_natAbs_mul_of_ratio {neg : Bool} {a b : Nat} {k : Int} (hb : 0 < b) (h : signFactor neg * (a / b : ℚ) = k) :
    a = k.natAbs * b ∧ k = signedInt neg k.natAbs := by
  have hb' : (0 : ℚ) < b := Nat.cast_pos.2 hb
  have habs : (a : ℚ) / b = k.natAbs := by
    have := congrArg abs h
    rw [abs_signFactor_mul, abs_of_nonneg (by positivity)] at this
    rw [this, Nat.cast_natAbs, Int.cast_abs]
  refine ⟨by exact_mod_cast (div_eq_iff hb'.ne').1 habs, ?_⟩
  rw [habs, ← cast_signedInt] at h
  exact (Int.cast_injective h).symm

/-! ## Powers of two -/

theorem expSum_zero (n y k : Nat) : expSum n y 0 k = 0 := by
  induction n generalizing k with
  | zero => rfl
  | succ n ih => rw [expSum, Nat.zero_mul, Nat.zero_div, Nat.zero_div, ih]

theorem expFrac_zero : expFrac 0 = one := by
  rw [expFrac, expSum, Nat.mul_zero, Nat.zero_div, Nat.zero_div, expSum_zero, Nat.add_zero]

theorem exp32_fin {m : Nat} (hm : m ≠ 0) (s : Bool) {e : Int} {a b : Nat} (hab : scale2 m 1 e = (a, b)) : exp32 (.fin s m e) =
    if s then (if 150 * b < a then 0
      else Fmt.f32.round .rne false false (expFrac (((a + b - 1) / b * b - a) * ln2 / b)) 1 (-((a + b - 1) / b : Nat) - (fracBits : Int)))
    else if 128 * b ≤ a then inf32 false
    else Fmt.f32.round .rne false false (expFrac (a % b * ln2 / b)) 1 ((a / b : Nat) - (fracBits : Int)) := by
  unfold exp32
  simp only [if_neg hm, hab]

/-- An exponent that is an integer leaves no fraction for the series. -/
theorem exp32_integer {neg : Bool} {m : Nat} {e k : Int} (hm : m ≠ 0) (hk : signFactor neg * ((m : ℚ) * 2 ^ e) = k) (hlow : -149 ≤ k)
    (hup : k ≤ 127) : exp32 (.fin neg m e) = Fmt.f32.round .rne false false one 1 (k - fracBits) := by
  obtain ⟨a, b, hab⟩ : ∃ a b, scale2 m 1 e = (a, b) := ⟨_, _, rfl⟩
  have hb : 0 < b := by simpa [hab] using scale2_pos m one_pos e
  have hratio : (a / b : ℚ) = m / (1 : Nat) * 2 ^ e := by simpa [hab] using scale2_ratio m 1 e
  rw [Nat.cast_one, div_one] at hratio
  rw [← hratio] at hk
  obtain ⟨ha, hsign⟩ := eq_natAbs_mul_of_ratio hb hk
  generalize k.natAbs = K at ha hsign
  subst ha
  have hdiv : (K * b + b - 1) / b = K := Nat.div_eq_of_lt_le (by omega) (by rw [Nat.succ_mul]; omega)
  rw [exp32_fin hm neg hab]
  cases neg with
  | true =>
    have hle : K * b ≤ 150 * b := Nat.mul_le_mul_right b (by simp only [signedInt, if_true] at hsign; omega)
    rw [if_pos rfl, if_neg (not_lt.2 hle), hdiv, Nat.sub_self, Nat.zero_mul, Nat.zero_div, expFrac_zero, hsign]
    rfl
  | false =>
    have hlt : K * b < 128 * b := Nat.mul_lt_mul_of_pos_right (by simp only [signedInt, Bool.false_eq_true, if_false] at hsign; omega) hb
    rw [if_neg Bool.false_ne_true, if_neg (not_le.2 hlt), Nat.mul_mod_left, Nat.zero_mul, Nat.zero_div, Nat.mul_div_cancel _ hb, expFrac_zero,
      hsign]
    rfl

/-! ## Logarithms -/

theorem atanhSum_zero (n z k : Nat) : atanhSum n z 0 k = 0 := by
  induction n generalizing k with
  | zero => rfl
  | succ n ih => rw [atanhSum, Nat.zero_div, Nat.zero_mul, Nat.zero_div, ih]

theorem lnRatio_self (a : Nat) : lnRatio a a = 0 := by
  unfold lnRatio
  simp only [Nat.sub_self, Nat.zero_mul, Nat.zero_div, atanhSum_zero, Nat.mul_zero]

theorem log32_fin {m : Nat} (hm : m ≠ 0) {e x : Int}
    (hx : x = ((Nat.log2 m : Int) + e) * (one : Int) + ((lnRatio m (2 ^ Nat.log2 m) * one / ln2 : Nat) : Int)) :
    log32 (.fin false m e) = if x = 0 then 0 else fixF32 (decide (x < 0)) x.natAbs 1 (-(fracBits : Int)) := by
  subst hx
  unfold log32
  split
  next h => cases h
  next h => cases h
  next h => cases h; exact absurd rfl hm
  next h => cases h
  next h => cases h; rfl

/-- The logarithm of a power of two has no fraction. -/
theorem log32_two_pow {n : Nat} {e : Int} : log32 (.fin false (2 ^ n) e) =
    if (n + e) * (one : Int) = 0 then 0
    else fixF32 (decide ((n + e) * (one : Int) < 0)) ((n + e) * (one : Int)).natAbs 1 (-(fracBits : Int)) := by
  refine log32_fin (Nat.two_pow_pos n).ne' ?_
  rw [Nat.log2_two_pow, lnRatio_self, Nat.zero_mul, Nat.zero_div, Nat.cast_zero, add_zero]

/-! ## Sines and cosines -/

theorem sinPi_half {c : Nat} (hc : 0 < c) : sinPi c (2 * c) = sinPi 1 2 := by
  unfold sinPi
  rw [Nat.mul_div_mul_right piFix 2 hc, Nat.mul_one]

theorem fixF32_quarter_turn (s : Bool) : fixF32 s (sinPi 1 2) 1 (-(fracBits : Int)) = if s then 0xBF800000 else 0x3F800000 := by
  cases s <;> decide +kernel

/-- The angle of a value with a fraction, modulo two turns of a half. -/
theorem mod2_of_lt {m : Nat} {e : Int} (he : e < 0) : mod2 m e = (m % (2 * 2 ^ (-e).toNat), 2 ^ (-e).toNat) := by
  rw [mod2, ← pow_succ', (by omega : (1 - e).toNat = (-e).toNat + 1)]

/-- The terms of the angle of an integer multiple of π, as `cos32` takes them. -/
theorem angle_integer {m K : Nat} {e : Int} (h : (m : ℚ) * 2 ^ e = K) :
    ∃ b, 0 < b ∧ (if 0 ≤ e then (m * 2 ^ e.toNat % 2, 1) else mod2 m e) = (K % 2 * b, b) := by
  by_cases he : 0 ≤ e
  · obtain ⟨n, rfl⟩ := Int.eq_ofNat_of_zero_le he
    rw [zpow_natCast] at h
    have hm : m * 2 ^ n = K := by exact_mod_cast h
    refine ⟨1, one_pos, ?_⟩
    rw [if_pos he, Int.toNat_natCast, hm, Nat.mul_one]
  · obtain ⟨n, hn⟩ : ∃ n : Nat, e = -n := ⟨(-e).toNat, by omega⟩
    subst hn
    have hm : m = K * 2 ^ n := by
      rw [zpow_neg, zpow_natCast, ← div_eq_mul_inv, div_eq_iff (by positivity)] at h
      exact_mod_cast h
    refine ⟨2 ^ n, Nat.two_pow_pos n, ?_⟩
    rw [if_neg he, mod2_of_lt (not_le.1 he), neg_neg, Int.toNat_natCast, hm, Nat.mul_mod_mul_right]

/-- Those of an odd multiple of π / 2: the value has a fraction. -/
theorem angle_half {m N : Nat} {e : Int} (h : (m : ℚ) * 2 ^ e = N + 1 / 2) :
    e < 0 ∧ ∃ c, 0 < c ∧ mod2 m e = ((2 * N + 1) % 4 * c, 2 * c) := by
  have he : e < 0 := by
    by_contra he
    obtain ⟨n, rfl⟩ := Int.eq_ofNat_of_zero_le (not_lt.1 he)
    have h2 : (2 * (m * 2 ^ n) : ℚ) = 2 * N + 1 := by
      rw [← zpow_natCast, h]
      ring
    have h2' : 2 * (m * 2 ^ n) = 2 * N + 1 := by exact_mod_cast h2
    omega
  obtain ⟨n, hn⟩ : ∃ n : Nat, e = -(n + 1 : Nat) := ⟨(-e).toNat - 1, by omega⟩
  subst hn
  have hm : m = (2 * N + 1) * 2 ^ n := by
    rw [zpow_neg, zpow_natCast, ← div_eq_mul_inv, div_eq_iff (by positivity), pow_succ] at h
    have h' : (m : ℚ) = (2 * N + 1) * 2 ^ n := by
      rw [h]
      ring
    exact_mod_cast h'
  refine ⟨he, 2 ^ n, Nat.two_pow_pos n, ?_⟩
  rw [mod2_of_lt he, neg_neg, Int.toNat_natCast, pow_succ', ← mul_assoc, hm, Nat.mul_mod_mul_right]
  rfl

theorem sin32_integer {s : Bool} {m K : Nat} {e : Int} (h : (m : ℚ) * 2 ^ e = K) : sin32 (.fin s m e) = Fmt.f32.signed s 0 := by
  obtain ⟨b, -, hb⟩ := angle_integer h
  unfold sin32
  by_cases he : 0 ≤ e
  · simp only [if_pos he]
  · rw [if_neg he] at hb
    simp only [if_neg he, hb, Nat.mul_mod_left, if_true]

theorem sin32_half {s : Bool} {m N : Nat} {e : Int} (h : (m : ℚ) * 2 ^ e = N + 1 / 2) :
    sin32 (.fin s m e) = if s != decide (N % 2 = 1) then 0xBF800000 else 0x3F800000 := by
  obtain ⟨he, c, hc, hmod⟩ := angle_half h
  have hfrac : (2 * N + 1) % 4 * c % (2 * c) = c := by
    rw [Nat.mul_mod_mul_right, Nat.mod_mod_of_dvd _ (by decide), Nat.mul_add_mod]
    exact Nat.one_mul c
  have hodd : 2 * c ≤ (2 * N + 1) % 4 * c ↔ N % 2 = 1 := by
    rw [Nat.mul_le_mul_right_iff hc]
    omega
  unfold sin32
  simp only [if_neg (not_le.2 he), hmod, hfrac, if_neg hc.ne', if_neg (lt_irrefl (2 * c)), sinPi_half hc, hodd, fixF32_quarter_turn]

theorem cos32_fin {s : Bool} {m : Nat} {e : Int} {t b : Nat} (h : (if 0 ≤ e then (m * 2 ^ e.toNat % 2, 1) else mod2 m e) = (t, b)) :
    cos32 (.fin s m e) = if 2 * (if b < t then 2 * b - t else t) = b then 0
      else if 2 * (if b < t then 2 * b - t else t) < b then
        fixF32 false (sinPi (b - 2 * (if b < t then 2 * b - t else t)) (2 * b)) 1 (-(fracBits : Int))
      else fixF32 true (sinPi (2 * (if b < t then 2 * b - t else t) - b) (2 * b)) 1 (-(fracBits : Int)) := by
  unfold cos32
  simp only [h]

theorem cos32_integer {s : Bool} {m K : Nat} {e : Int} (h : (m : ℚ) * 2 ^ e = K) :
    cos32 (.fin s m e) = if K % 2 = 1 then 0xBF800000 else 0x3F800000 := by
  obtain ⟨b, hb, hangle⟩ := angle_integer h
  rw [cos32_fin hangle]
  rcases Nat.mod_two_eq_zero_or_one K with hK | hK
  · rw [hK, Nat.zero_mul, if_neg (Nat.not_lt_zero b), Nat.mul_zero, if_neg hb.ne, if_pos hb, Nat.sub_zero, sinPi_half hb,
      fixF32_quarter_turn]
    rfl
  · rw [hK, Nat.one_mul, if_neg (lt_irrefl b), if_neg (by omega), if_neg (by omega), (by omega : 2 * b - b = b), sinPi_half hb,
      fixF32_quarter_turn]
    rfl

theorem cos32_half {s : Bool} {m N : Nat} {e : Int} (h : (m : ℚ) * 2 ^ e = N + 1 / 2) : cos32 (.fin s m e) = 0 := by
  obtain ⟨he, c, hc, hmod⟩ := angle_half h
  have hangle : (if 0 ≤ e then (m * 2 ^ e.toNat % 2, 1) else mod2 m e) = ((2 * N + 1) % 4 * c, 2 * c) := by rw [if_neg (not_le.2 he), hmod]
  rw [cos32_fin hangle]
  refine if_pos ?_
  obtain hN | hN : (2 * N + 1) % 4 = 1 ∨ (2 * N + 1) % 4 = 3 := by omega
  · rw [hN, if_neg (by omega), Nat.one_mul]
  · rw [hN, if_pos (by omega)]
    omega

/-! ## Words -/

section
variable {x : Word} {neg : Bool} {m : Nat} {e : Int} {q : ℚ} (hv : numF32 x = .fin neg m e) (hq : (numF32 x).rat? = some q)
include hv hq

/-- What a finite word stands for, as the magnitude of an integer or of an odd multiple of one half. -/
theorem magnitude_integer {k : Int} (hk : q = k) : (m : ℚ) * 2 ^ e = k.natAbs := by
  have h := congrArg abs ((eq_of_numF32_rat? hv hq).symm.trans hk)
  rwa [abs_signFactor_mul, abs_of_nonneg (by positivity), ← Int.cast_abs, ← Nat.cast_natAbs] at h

theorem magnitude_half {k : Int} (hk : q = k + 1 / 2) :
    ∃ N : Nat, (m : ℚ) * 2 ^ e = N + 1 / 2 ∧ (neg != decide (N % 2 = 1)) = decide (k % 2 = 1) := by
  have hval := (eq_of_numF32_rat? hv hq).symm.trans hk
  have hpos : (0 : ℚ) ≤ m * 2 ^ e := by positivity
  cases neg with
  | false =>
    rw [signFactor, if_neg Bool.false_ne_true, one_mul] at hval
    have hk0 : 0 ≤ k := by
      have : (-1 : ℚ) < k := by linarith
      have : -1 < k := by exact_mod_cast this
      omega
    obtain ⟨N, rfl⟩ := Int.eq_ofNat_of_zero_le hk0
    exact ⟨N, hval, (Bool.false_bne _).trans (decide_eq_decide.2 (by omega))⟩
  | true =>
    rw [signFactor, if_pos rfl, neg_one_mul] at hval
    have hk0 : k < 0 := by
      have : (k : ℚ) < 0 := by linarith
      exact_mod_cast this
    obtain ⟨N, rfl⟩ : ∃ N : Nat, k = -(N : Int) - 1 := ⟨(-k - 1).toNat, by omega⟩
    push_cast at hval
    exact ⟨N, by linarith, (Bool.true_bne _).trans (decide_not.symm.trans (decide_eq_decide.2 (by omega)))⟩

theorem sin_integer {k : Int} (hk : q = k) : f32fn sin32 x = if neg then 0x80000000 else 0 := by
  rw [f32fn, hv, sin32_integer (magnitude_integer hv hq hk)]
  cases neg <;> rfl

theorem cos_integer {k : Int} (hk : q = k) : f32fn cos32 x = if decide (k % 2 = 1) then 0xBF800000 else 0x3F800000 := by
  have hodd : k.natAbs % 2 = 1 ↔ k % 2 = 1 := by omega
  rw [f32fn, hv, cos32_integer (magnitude_integer hv hq hk), apply_ite (BitVec.ofNat 32)]
  simp only [hodd, decide_eq_true_eq]
  rfl

theorem sin_half {k : Int} (hk : q = k + 1 / 2) : f32fn sin32 x = if decide (k % 2 = 1) then 0xBF800000 else 0x3F800000 := by
  obtain ⟨N, hN, hsign⟩ := magnitude_half hv hq hk
  rw [f32fn, hv, sin32_half hN, hsign, apply_ite (BitVec.ofNat 32)]
  rfl

theorem cos_half {k : Int} (hk : q = k + 1 / 2) : f32fn cos32 x = 0 := by
  obtain ⟨N, hN, -⟩ := magnitude_half hv hq hk
  rw [f32fn, hv, cos32_half hN]
  rfl

end

end Sys2Proof.Machine
end

section
/-! The transcendentals: special operands, and operands at which the result is exact or rounded from an exact value (R209). -/

namespace Sys2Proof.Machine

/-! ## Special operands -/

theorem f32fn_nan {o : Num → Nat} (ho : o .nan = nan32) {x : Word} (hx : (numF32 x).isNan = true) : f32fn o x = 0x7FC00000 := by
  cases hv : numF32 x with
  | nan => rw [f32fn, hv, ho]; rfl
  | inf _ | fin _ _ _ => rw [hv] at hx; cases hx

theorem lt_zero_cases {v : Num} (h : v.lt (.fin false 0 0) = true) : v = .inf true ∨ ∃ m e, m ≠ 0 ∧ v = .fin true m e := by
  cases v with
  | nan => cases h
  | inf s => exact .inl (congrArg Num.inf h)
  | fin s m e =>
    refine .inr ⟨m, e, ?_, ?_⟩
    · rintro rfl
      simp [Num.lt, Num.units] at h
    · cases s with
      | true => rfl
      | false =>
        simp only [Num.lt, Num.units, Bool.false_eq_true, if_false, Nat.zero_mul, decide_eq_true_eq] at h
        omega

/-- Roots and logarithms of negative numbers. -/
theorem negative_nan {x : Word} (h : (numF32 x).lt (.fin false 0 0) = true) :
    f32fn rsq32 x = 0x7FC00000 ∧ f32fn sqrt32 x = 0x7FC00000 ∧ f32fn log32 x = 0x7FC00000 := by
  unfold f32fn
  rcases lt_zero_cases h with hv | ⟨m, e, hm, hv⟩ <;> rw [hv]
  · exact ⟨rfl, rfl, rfl⟩
  · obtain ⟨k, rfl⟩ := Nat.exists_eq_add_one_of_ne_zero hm
    exact ⟨rfl, rfl, rfl⟩

/-! ## Exact results -/

/-- An integer as a sign and a magnitude. -/
theorem cast_eq_signFactor_mul (k : Int) : (k : ℚ) = signFactor (decide (k < 0)) * k.natAbs := by
  rw [← Num.sign_mul_natAbs_cast k]
  rfl

section
variable {x : Word} {neg : Bool} {m : Nat} {e : Int} {q : ℚ} (hv : numF32 x = .fin neg m e) (hq : (numF32 x).rat? = some q)
include hv hq

theorem ne_zero_of_numF32 (h : q ≠ 0) : m ≠ 0 := by
  rintro rfl
  rw [eq_of_numF32_rat? hv hq, Nat.cast_zero, zero_mul, mul_zero] at h
  exact h rfl

theorem sign_of_pos (h : 0 < q) : neg = false := by
  cases neg with
  | false => rfl
  | true =>
    have hpos : (0 : ℚ) ≤ m * 2 ^ e := by positivity
    rw [eq_of_numF32_rat? hv hq, signFactor, if_pos rfl] at h
    linarith

theorem sign_of_neg (h : q < 0) : neg = true := by
  cases neg with
  | true => rfl
  | false =>
    have hpos : (0 : ℚ) ≤ m * 2 ^ e := by positivity
    rw [eq_of_numF32_rat? hv hq, signFactor, if_neg Bool.false_ne_true] at h
    linarith

/-- The parts of a word's magnitude as a fraction. -/
theorem magnitude_ratio : ∃ a b, scale2 m 1 e = (a, b) ∧ (0 : ℚ) < b ∧ q = signFactor neg * (a / b) := by
  obtain ⟨a, b, hab⟩ : ∃ a b, scale2 m 1 e = (a, b) := ⟨_, _, rfl⟩
  have hb : 0 < b := by simpa [hab] using scale2_pos m one_pos e
  have hratio : (a / b : ℚ) = m / (1 : Nat) * 2 ^ e := by simpa [hab] using scale2_ratio m 1 e
  rw [Nat.cast_one, div_one] at hratio
  exact ⟨a, b, hab, Nat.cast_pos.2 hb, by rw [eq_of_numF32_rat? hv hq, hratio]⟩

theorem exp_large (h : 128 ≤ q) : f32fn exp32 x = 0x7F800000 := by
  have hm := ne_zero_of_numF32 hv hq (by linarith)
  obtain rfl := sign_of_pos hv hq (by linarith)
  obtain ⟨a, b, hab, hb, hval⟩ := magnitude_ratio hv hq
  rw [hval, signFactor, if_neg Bool.false_ne_true, one_mul, le_div_iff₀ hb] at h
  rw [f32fn, hv, exp32_fin hm false hab, if_neg Bool.false_ne_true, if_pos (by exact_mod_cast h)]
  rfl

theorem exp_small (h : q < -150) : f32fn exp32 x = 0 := by
  have hm := ne_zero_of_numF32 hv hq (by linarith)
  obtain rfl := sign_of_neg hv hq (by linarith)
  obtain ⟨a, b, hab, hb, hval⟩ := magnitude_ratio hv hq
  have hlt : (150 : ℚ) < a / b := by
    rw [hval, signFactor, if_pos rfl] at h
    linarith
  rw [lt_div_iff₀ hb] at hlt
  rw [f32fn, hv, exp32_fin hm true hab, if_pos rfl, if_pos (by exact_mod_cast hlt)]
  rfl

/-- A power of two with an integer for its exponent is exact. -/
theorem exp_integer {k : Int} (hk : q = k) (hlow : -149 ≤ k) (hup : k ≤ 127) : (numF32 (f32fn exp32 x)).rat? = some ((2 : ℚ) ^ k) := by
  obtain rfl | hm := eq_or_ne m 0
  · have hk0 : k = 0 := by
      rw [eq_of_numF32_rat? hv hq, Nat.cast_zero, zero_mul, mul_zero] at hk
      exact_mod_cast hk.symm
    have hzero : exp32 (.fin neg 0 e) = 0x3F800000 := by unfold exp32; exact if_pos rfl
    have hone : numF32 (BitVec.ofNat 32 0x3F800000) = .fin false (2 ^ 23) (-23) := by decide
    rw [f32fn, hv, hzero, hone, hk0]
    norm_num
  · have hpos : 0 < one := Nat.two_pow_pos fracBits
    have hx : (2 : ℚ) ^ k = signFactor false * ((one : ℚ) / (1 : Nat) * 2 ^ (k - fracBits)) := by
      rw [signFactor, if_neg Bool.false_ne_true, one, zpow_sub₀ two_ne_zero, zpow_natCast]
      push_cast
      field_simp
    have hdat : Fmt.f32.isDatum ((2 : ℚ) ^ k) := by
      have := Fmt.isDatum_f32 false (k := 1) (by decide) hlow (by rw [Nat.cast_one, one_mul]; exact zpow_le_zpow_right₀ one_le_two hup)
      simpa [signFactor] using this
    rw [f32fn, hv, exp32_integer hm ((eq_of_numF32_rat? hv hq).symm.trans hk) hlow hup,
      numF32_ofNat (Fmt.round_lt regular_f32 rfl .rne false false hpos one_pos _)]
    exact Fmt.rat?_value_round regular_f32 rfl false hpos one_pos hx hdat

/-- The logarithm of a power of two is an integer, and exact. -/
theorem log_two_pow {k : Int} (hk : q = (2 : ℚ) ^ k) : (numF32 (f32fn log32 x)).rat? = some (k : ℚ) := by
  have hq0 : (0 : ℚ) < q := hk ▸ zpow_pos two_pos k
  obtain rfl := sign_of_pos hv hq hq0
  have hm := ne_zero_of_numF32 hv hq hq0.ne'
  obtain ⟨hlt, hlow, hup⟩ := numF32_bounds hv hm
  have hval := (eq_of_numF32_rat? hv hq).symm.trans hk
  rw [signFactor, if_neg Bool.false_ne_true, one_mul] at hval
  have hek : e ≤ k := by
    rw [← zpow_le_zpow_iff_right₀ (one_lt_two (α := ℚ)), ← hval]
    exact le_mul_of_one_le_left (zpow_nonneg zero_le_two e) (Nat.one_le_cast.2 (Nat.pos_of_ne_zero hm))
  obtain ⟨n, rfl⟩ : ∃ n : Nat, k = n + e := ⟨(k - e).toNat, by omega⟩
  obtain rfl : m = 2 ^ n := by
    rw [zpow_add₀ two_ne_zero, zpow_natCast] at hval
    exact_mod_cast mul_right_cancel₀ (zpow_ne_zero e two_ne_zero) hval
  have hn : n < 24 := (Nat.pow_lt_pow_iff_right one_lt_two).1 hlt
  have hone : 0 < one := Nat.two_pow_pos fracBits
  have hone' : (one : Int) ≠ 0 := Nat.cast_ne_zero.2 hone.ne'
  have hk' : -150 < (n : Int) + e ∧ (n : Int) + e < 150 := ⟨by omega, by omega⟩
  rw [f32fn, hv, log32_two_pow]
  generalize (n : Int) + e = k at hk'
  by_cases h0 : k = 0
  · rw [h0, zero_mul, if_pos rfl, Int.cast_zero]
    have hzero : numF32 (BitVec.ofNat 32 0) = .fin false 0 (-149) := by decide
    rw [hzero]
    norm_num
  · have hnat : (k * (one : Int)).natAbs = k.natAbs * one := by rw [Int.natAbs_mul, Int.natAbs_natCast]
    have hneg : k * (one : Int) < 0 ↔ k < 0 := by
      rw [mul_neg_iff]
      omega
    have hpos : 0 < k.natAbs * one := Nat.mul_pos (Int.natAbs_pos.2 h0) hone
    have hcancel : ((k.natAbs * one : Nat) : ℚ) / (1 : Nat) * 2 ^ (-(fracBits : Int)) = k.natAbs := by
      rw [one, zpow_neg, zpow_natCast]
      push_cast
      field_simp
    have hdat := Fmt.isDatum_f32 (decide (k < 0)) (k := k.natAbs) (j := 0) (by omega) (by decide) (by
      have hnat : (k.natAbs : ℚ) ≤ 150 := by exact_mod_cast (by omega : k.natAbs ≤ 150)
      rw [zpow_zero, mul_one]
      exact hnat.trans (by norm_num))
    rw [zpow_zero, mul_one, ← cast_eq_signFactor_mul] at hdat
    rw [if_neg (mul_ne_zero h0 hone'), hnat, decide_eq_decide.2 hneg, fixF32, if_neg hpos.ne',
      numF32_ofNat (Fmt.round_lt regular_f32 rfl .rne false _ hpos one_pos _)]
    exact Fmt.rat?_value_round regular_f32 rfl _ hpos one_pos (by rw [hcancel]; exact cast_eq_signFactor_mul k) hdat

end

end Sys2Proof.Machine

namespace Sys2Proof
open Machine

/-- Settles O14: special operands are computed; at the others the reciprocals and the roots are rounded from the exact value, and the series
of an exact result have one term or none. -/
theorem transcendentals : Obligations.Transcendentals := by
  unfold Obligations.Transcendentals
  intro rcp rsq sqrt exp2 log2 sinpi cospi tanh one
  refine ⟨fun _ _ _ => ⟨laneOp_result fun _ => rfl, laneOp_result fun _ => rfl, laneOp_result fun _ => rfl, laneOp_result fun _ => rfl,
    laneOp_result fun _ => rfl, laneOp_result fun _ => rfl, laneOp_result fun _ => rfl, laneOp_result fun _ => rfl⟩,
    fun x hx => ?_, fun x => negative_nan, ?_⟩
  · simp only [List.forall_mem_cons, List.not_mem_nil, false_imp_iff, implies_true, and_true]
    exact ⟨f32fn_nan rfl hx, f32fn_nan rfl hx, f32fn_nan rfl hx, f32fn_nan rfl hx, f32fn_nan rfl hx, f32fn_nan rfl hx, f32fn_nan rfl hx,
      f32fn_nan rfl hx⟩
  · iterate 26 refine ⟨by decide +kernel, ?_⟩
    intro x neg m e q hv hq
    refine ⟨fun hm => (rcp_converts hv hq hm).1, fun hm => (rcp_converts hv hq hm).2, ?_, exp_large hv hq, exp_small hv hq,
      fun k hk => ⟨sin_integer hv hq hk, cos_integer hv hq hk, exp_integer hv hq hk⟩,
      fun k hk => ⟨sin_half hv hq hk, cos_half hv hq hk⟩, fun k => log_two_pow hv hq⟩
    rintro hm rfl
    exact ⟨sqrt_nearest hv hq hm, rsq_nearest hv hq hm⟩

end Sys2Proof
end
